-- ==== Sys2Proof/Word.lean ====
section
/-! DEFINITION. The word types of the model and the numbers that name its parts (R3, R59, R88). -/

namespace Sys2Proof

/-- A byte of memory. -/
abbrev Byte := BitVec 8
/-- A 16-bit lane. -/
abbrev Half := BitVec 16
/-- A 32-bit register word. -/
abbrev Word := BitVec 32
/-- A 48-bit Turnpike address. -/
abbrev Addr := BitVec 48
/-- A 64-byte line, or a vector register: 512 bits. -/
abbrev Line := BitVec 512

/-- Core n of the module, 0 to 191 (R3). -/
abbrev CoreId := Fin 192
/-- Cluster k of the module, 0 to 23 (R3). -/
abbrev ClusterId := Fin 24
/-- Region r of the module, 0 to 3 (R3). -/
abbrev RegionId := Fin 4
/-- Island number under R88, 0 to 62. -/
abbrev IslandId := Fin 63
/-- Source ID under R59, 0 to 43. -/
abbrev SrcId := Fin 44
/-- Coprocessor of a cluster: 0 CFFT, 1 CMAT. -/
abbrev UnitId := Fin 2
/-- Engine of an accelerator group, 0 to 11. -/
abbrev EngineId := Fin 12
/-- Porter block: 0 to 23 the clusters', 24 the hub's. -/
abbrev BlockId := Fin 25
/-- Ethernet port: 0 to 7 FH0 to FH7, 8 to 11 MH0 to MH3. -/
abbrev PortId := Fin 12
/-- Carriage port CP0 to CP7. -/
abbrev CpId := Fin 8
/-- Command ring pair, 0 to 15. -/
abbrev RingId := Fin 16
/-- Analog channel in AO_SET numbering. -/
abbrev ChanId := Fin 8
/-- Monitor, 0 to 11. -/
abbrev MonId := Fin 12
/-- Carrier, 0 to 511. -/
abbrev CarrierId := Fin 512

/-- A flit: 64-bit header sideband and 512 bits of data (R60, R61). -/
structure Flit where
  header : BitVec 64
  data : Line
  deriving DecidableEq, Repr

end Sys2Proof
end

