-- ==== Sys2Proof/Syntax.lean ====
section
/-! DEFINITION. The commands of the block: one constructor for each row of spec/opcode_table.json, in the order of the
table, with its operands. A docstring gives the rule that governs the row. -/

namespace Sys2Proof

/-- One flit of a burst write: its flit index, its LAST bit and its data (R60, R64). -/
structure BurstFlit where
  idx : Fin 64
  last : Bool
  data : Line
  deriving DecidableEq, Repr

/-- What the environment has done to a stored code word before a read (R346, R347): the code word's address, or which
64-bit word of which coprocessor register it is (cluster, unit, context, register, word; `addr` then says nothing), what it
now decodes to (0 clean, 1 corrected at `pos`, 2 uncorrectable), and the decoded data when it differs from what was
written (a miscorrection or an undetected error; empty: the data as written). -/
structure Upset where
  addr : Addr
  cr : Option (Fin 24 × Fin 2 × Fin 40 × Fin 32 × Fin 8)
  outcome : Fin 3
  pos : BitVec 7
  data : List Byte
  deriving DecidableEq, Repr

/-- What the host returns to reads that the module makes of host memory while a command runs: the bytes in order (free
bytes once they run out), and whether the completions carry UR or CA (R407). -/
structure HostData where
  data : List Byte
  fail : Bool
  deriving DecidableEq, Repr

/-- How the payload fetches of a DL_DATA end (R329): the PDUs whose fetch failed, with the host's completion status of
each, and what the host returns to the others. -/
structure FetchEnd where
  failed : List (BitVec 16 × Byte)
  host : HostData
  deriving DecidableEq, Repr

/-- A packet header (R302), its opcode apart. -/
structure PktHdr where
  flags : Byte
  version : Byte
  tag : BitVec 16
  target : BitVec 16
  plen : BitVec 16
  resv : BitVec 16
  seq : Word
  deriving DecidableEq, Repr

/-- A packet as it arrives: on a submission ring, or (none) on the service UART. -/
structure Packet where
  ring : Option RingId
  hdr : PktHdr
  words : List Word
  deriving DecidableEq, Repr

/-- The measured ratio of a Carriage data sub-carrier (R440, R460): 0x800 × pair + sub-carrier, and the ratios of its in-phase and
quadrature axes in units of 0.05 dB. -/
structure AxisRatio where
  key : Fin 8192
  i : BitVec 12
  q : BitVec 12
  deriving DecidableEq, Repr

/-- An entry of an uplink indication (R330, R331), and what the pilots of its allocation show (R285, R286): the phase slope
from sub-carrier to sub-carrier and the phase change between two pilot symbols, both in 2^-32 of a turn, and how many symbols
apart those are (0: only one pilot symbol); and, for uplink data, the bytes decoded and their place in the transport block (R332). -/
structure IndEntry where
  words : List Word
  slope : Int
  turn : Word
  gap : Fin 14
  place : Nat
  data : List Byte
  deriving DecidableEq, Repr

/-- What a training step of a Carriage port finds (R434, R449, R459): whether the follower did its part, the pair map, the
axis ratios, the largest pair skew in ns, the cable delay in 0.125 ns, DTX and DRX in ns, the follower's table for the
module's transmitter, and whether a codeword was uncorrectable. -/
structure TrainRes where
  pass : Bool
  pairMap : BitVec 12
  ratios : List AxisRatio
  skew : Byte
  cable : BitVec 16
  dtx : BitVec 16
  drx : BitVec 16
  txTab : List (Fin 8192 × BitVec 6)
  uncorrectable : Bool
  deriving DecidableEq, Repr

/-- What the receiver of a Carriage port makes of one symbol (R442, R462): the symbols in error of each codeword in turn, as decoding finds
them, the table indicator where it is read, and the frame's bytes. -/
structure CpRx where
  errs : List (Fin 725)
  indicator : Option Bool
  frame : List Byte
  deriving DecidableEq, Repr

/-- A link message of a follower (R444): the acknowledgement of the module's proposal, a table proposal, a delay report
(DTX, DRX), or a request whose content the spec does not give. -/
inductive LinkMsg where
  | ack
  | proposal (table : List (Fin 8192 × BitVec 6))
  | delays (dtx drx : BitVec 16)
  | stateRequest
  deriving DecidableEq, Repr

/-- The controls of the PCI Express and power management capabilities (R404): the function is in D3hot; the codes of Max_Payload_Size,
Max_Read_Request_Size and the Completion Timeout Value; ECRC generation and checking. -/
structure PcieCtl where
  d3 : Bool
  mps : Fin 3
  mrrs : Fin 6
  cto : Fin 16
  ecrcGen : Bool
  ecrcChk : Bool
  deriving DecidableEq, Repr

/-- What the host does to the endpoint (R405, R406): a write of Bus Master Enable, Memory Space Enable, MSI-X Enable and
Function Mask in configuration space, or of the controls of its capabilities (R404); or an access of `n` DWORDs from an offset in a BAR, with the byte enables of a
write and its bytes. -/
inductive HostTlp where
  | config (bme mem msix mask : Bool)
  | ctl (c : PcieCtl)
  | read (bar : Fin 6) (off : BitVec 28) (n : Fin 17)
  | write (bar : Fin 6) (off : BitVec 28) (en : BitVec 64) (data : List Byte)
  deriving DecidableEq, Repr


/-- The pulse crossing whose acknowledge reaches its source, and whether a pulse arrives there in that cycle (R33). -/
structure AckAt where
  xing : Nat
  join : Bool
  deriving DecidableEq, Repr

/-- The region in which a decrement is applied, and whether in the region fabric cycle of the decrement before it (R191). -/
structure DecrAt where
  region : RegionId
  same : Bool
  deriving DecidableEq, Repr

/-- A job that has run out of time: whether its record is overdue too (R264), and how many requests it had made (R230). -/
structure Overrun where
  overdue : Bool
  done : Nat
  deriving DecidableEq, Repr

/-- What an engine's internal buffers decode to while a job runs (R337, R346): the bit corrected in each word that needed it, and, where
a word is uncorrectable, how many requests the job has made when it meets it. -/
structure BufErrs where
  corrected : List (Fin 72)
  bad : Option Nat
  deriving DecidableEq, Repr

/-- A symbol of a carrier: its frame, its slot and its number in the slot. -/
structure SymbolAt where
  sfn : BitVec 10
  slot : Byte
  sym : Fin 14
  deriving DecidableEq, Repr

/-- The commands, one for each row of the table. -/
inductive Instr where
  /-- PULSE_DELIVER, R34. -/
  | pulseDeliver (i : IslandId) (x : Nat)
  /-- PULSE_ACK, R32. -/
  | pulseAck (i : IslandId) (x : AckAt)
  /-- VALUE_DELIVER, R37. -/
  | valueDeliver (i : IslandId) (x : Nat)
  /-- VALUE_ACK, R38. -/
  | valueAck (i : IslandId) (x : Nat)
  /-- GRAY_COUNTER_UPDATE, R42. -/
  | grayCounterUpdate (i : IslandId) (x : Nat)
  /-- HEARTBEAT_TOGGLE, R43. -/
  | heartbeatToggle (i : IslandId) (x : Nat)
  /-- SNAPSHOT_RESULT, R45. -/
  | snapshotResult (i : IslandId) (x : Nat)
  /-- CROSSING_TIMEOUT, R46. -/
  | crossingTimeout (i : IslandId) (x : Nat)
  /-- REPLICA_RELOAD, R44. -/
  | replicaReload (r : RegionId)
  /-- BRIDGE_DRAIN_COMPLETE, R51. -/
  | bridgeDrainComplete (i : IslandId)
  /-- BRIDGE_RESET_RELEASE, R51. -/
  | bridgeResetRelease (i : IslandId)
  /-- ISLAND_READY, R51. -/
  | islandReady (i : IslandId)
  /-- TP_ROUTE_FLIT, R67. -/
  | tpRouteFlit (q : Fin 32) (arrive : Option (Fin 32 × Flit × Bool)) (o : Fin 32)
  /-- TP_AGE_PROMOTE, R71. -/
  | tpAgePromote (q p : Fin 32) (lvl : Fin 4)
  /-- TP_READ, R63. -/
  | tpRead (src : SrcId) (tag : BitVec 8) (line : BitVec 42) (ups : List Upset)
  /-- TP_WRITE, R63. -/
  | tpWrite (src : SrcId) (tag : BitVec 8) (line : BitVec 42) (data : Line)
  /-- TP_WRITE_PART, R63. -/
  | tpWritePart (src : SrcId) (tag : BitVec 8) (line : BitVec 42) (half : Bool) (data : Line)
  /-- TP_BURST, R64. -/
  | tpBurst (src : SrcId) (tag : BitVec 8) (line : BitVec 42) (flits : List BurstFlit)
  /-- REGISTER_WRITE, R641. -/
  | registerWrite (src : SrcId) (tag : BitVec 8) (line : BitVec 42) (en : BitVec 64) (data : Line)
  /-- ISOLATED_REQUEST, R77. -/
  | isolatedRequest (src : SrcId) (tag : BitVec 8) (line : BitVec 42) (write : Bool)
  /-- DEAD_TIMER_EXPIRE, R80. -/
  | deadTimerExpire (i : IslandId)
  /-- DEAD_TARGET_ABSORB, R83. -/
  | deadTargetAbsorb (src : SrcId) (tag : BitVec 8) (line : BitVec 42) (write : Bool)
  /-- VNOP, R97. -/
  | vnop (n : CoreId) (nb : Bool) (vd va vb : BitVec 4) (md : BitVec 6)
  /-- VADD, R97. -/
  | vadd (n : CoreId) (nb : Bool) (vd va vb : BitVec 4) (md : BitVec 6)
  /-- VSUB, R97. -/
  | vsub (n : CoreId) (nb : Bool) (vd va vb : BitVec 4) (md : BitVec 6)
  /-- VADDS, R112. -/
  | vadds (n : CoreId) (nb : Bool) (vd va vb : BitVec 4) (md : BitVec 6)
  /-- VSUBS, R112. -/
  | vsubs (n : CoreId) (nb : Bool) (vd va vb : BitVec 4) (md : BitVec 6)
  /-- VAND, R97. -/
  | vand (n : CoreId) (nb : Bool) (vd va vb : BitVec 4) (md : BitVec 6)
  /-- VOR, R97. -/
  | vor (n : CoreId) (nb : Bool) (vd va vb : BitVec 4) (md : BitVec 6)
  /-- VXOR, R97. -/
  | vxor (n : CoreId) (nb : Bool) (vd va vb : BitVec 4) (md : BitVec 6)
  /-- VSHL, R97. -/
  | vshl (n : CoreId) (nb : Bool) (vd va vb : BitVec 4) (md : BitVec 6)
  /-- VSHRA, R97. -/
  | vshra (n : CoreId) (nb : Bool) (vd va vb : BitVec 4) (md : BitVec 6)
  /-- VMOV, R97. -/
  | vmov (n : CoreId) (nb : Bool) (vd va vb : BitVec 4) (md : BitVec 6)
  /-- VMUL, R108. -/
  | vmul (n : CoreId) (nb : Bool) (vd va vb : BitVec 4) (md : BitVec 6)
  /-- VMAC, R108. -/
  | vmac (n : CoreId) (nb : Bool) (vd va vb : BitVec 4) (md : BitVec 6)
  /-- VMSU, R108. -/
  | vmsu (n : CoreId) (nb : Bool) (vd va vb : BitVec 4) (md : BitVec 6)
  /-- VMACB, R110. -/
  | vmacb (n : CoreId) (nb : Bool) (vd va vb : BitVec 4) (md : BitVec 6)
  /-- VCMUL, R109. -/
  | vcmul (n : CoreId) (nb : Bool) (vd va vb : BitVec 4) (md : BitVec 6)
  /-- VCMAC, R109. -/
  | vcmac (n : CoreId) (nb : Bool) (vd va vb : BitVec 4) (md : BitVec 6)
  /-- VCLRA, R97. -/
  | vclra (n : CoreId) (nb : Bool) (vd va vb : BitVec 4) (md : BitVec 6)
  /-- VEXT, R111. -/
  | vext (n : CoreId) (nb : Bool) (vd va vb : BitVec 4) (md : BitVec 6)
  /-- VEXTS, R112. -/
  | vexts (n : CoreId) (nb : Bool) (vd va vb : BitVec 4) (md : BitVec 6)
  /-- VMAXI, R118. -/
  | vmaxi (n : CoreId) (nb : Bool) (vd va vb : BitVec 4) (md : BitVec 6)
  /-- VMINI, R118. -/
  | vmini (n : CoreId) (nb : Bool) (vd va vb : BitVec 4) (md : BitVec 6)
  /-- MNOP, R98. -/
  | mnop (n : CoreId) (nb : Bool) (mr : BitVec 4) (ma mo : BitVec 3) (pm : Bool) (low : BitVec 4)
  /-- VLD, R98. -/
  | vld (n : CoreId) (nb : Bool) (mr : BitVec 4) (ma mo : BitVec 3) (pm : Bool) (low : BitVec 4)
  /-- VST, R98. -/
  | vst (n : CoreId) (nb : Bool) (mr : BitVec 4) (ma mo : BitVec 3) (pm : Bool) (low : BitVec 4)
  /-- VLDB, R98. -/
  | vldb (n : CoreId) (nb : Bool) (mr : BitVec 4) (ma mo : BitVec 3) (pm : Bool) (low : BitVec 4)
  /-- LDH, R98. -/
  | ldh (n : CoreId) (nb : Bool) (mr : BitVec 4) (ma mo : BitVec 3) (pm : Bool) (low : BitVec 4)
  /-- LDW, R98. -/
  | ldw (n : CoreId) (nb : Bool) (mr : BitVec 4) (ma mo : BitVec 3) (pm : Bool) (low : BitVec 4)
  /-- STH, R98. -/
  | sth (n : CoreId) (nb : Bool) (mr : BitVec 4) (ma mo : BitVec 3) (pm : Bool) (low : BitVec 4)
  /-- STW, R98. -/
  | stw (n : CoreId) (nb : Bool) (mr : BitVec 4) (ma mo : BitVec 3) (pm : Bool) (low : BitVec 4)
  /-- STB, R351. -/
  | stb (n : CoreId) (nb : Bool) (mr : BitVec 4) (ma mo : BitVec 3) (pm : Bool) (low : BitVec 4)
  /-- FENCE, R98. -/
  | fence (n : CoreId) (nb : Bool) (mr : BitVec 4) (ma mo : BitVec 3) (pm : Bool) (low : BitVec 4)
  /-- CMOV_TO, R136. -/
  | cmovTo (n : CoreId) (nb : Bool) (f : BitVec 15)
  /-- CMOV_FROM, R136. -/
  | cmovFrom (n : CoreId) (nb : Bool) (f : BitVec 15)
  /-- CISSUE, R142. -/
  | cissue (n : CoreId) (nb : Bool) (f : BitVec 15)
  /-- CWAIT, R137. -/
  | cwait (n : CoreId) (nb : Bool) (f : BitVec 15)
  /-- SNOP, R99. -/
  | snop (n : CoreId) (nb : Bool) (sd sa : BitVec 4) (sb : BitVec 5)
  /-- ADD, R99. -/
  | add (n : CoreId) (nb : Bool) (sd sa : BitVec 4) (sb : BitVec 5)
  /-- SUB, R99. -/
  | sub (n : CoreId) (nb : Bool) (sd sa : BitVec 4) (sb : BitVec 5)
  /-- AND, R99. -/
  | and (n : CoreId) (nb : Bool) (sd sa : BitVec 4) (sb : BitVec 5)
  /-- OR, R99. -/
  | or (n : CoreId) (nb : Bool) (sd sa : BitVec 4) (sb : BitVec 5)
  /-- XOR, R99. -/
  | xor (n : CoreId) (nb : Bool) (sd sa : BitVec 4) (sb : BitVec 5)
  /-- SHL, R99. -/
  | shl (n : CoreId) (nb : Bool) (sd sa : BitVec 4) (sb : BitVec 5)
  /-- SHRA, R99. -/
  | shra (n : CoreId) (nb : Bool) (sd sa : BitVec 4) (sb : BitVec 5)
  /-- ADDI, R99. -/
  | addi (n : CoreId) (nb : Bool) (sd sa : BitVec 4) (sb : BitVec 5)
  /-- MOVA, R99. -/
  | mova (n : CoreId) (nb : Bool) (sd sa : BitVec 4) (sb : BitVec 5)
  /-- MOVO, R99. -/
  | movo (n : CoreId) (nb : Bool) (sd sa : BitVec 4) (sb : BitVec 5)
  /-- MOVL, R106. -/
  | movl (n : CoreId) (nb : Bool) (sd sa : BitVec 4) (sb : BitVec 5)
  /-- MOVB, R104. -/
  | movb (n : CoreId) (nb : Bool) (sd sa : BitVec 4) (sb : BitVec 5)
  /-- MFA, R99. -/
  | mfa (n : CoreId) (nb : Bool) (sd sa : BitVec 4) (sb : BitVec 5)
  /-- MFC, R99. -/
  | mfc (n : CoreId) (nb : Bool) (sd sa : BitVec 4) (sb : BitVec 5)
  /-- MTC, R99. -/
  | mtc (n : CoreId) (nb : Bool) (sd sa : BitVec 4) (sb : BitVec 5)
  /-- BEQZ, R99. -/
  | beqz (n : CoreId) (nb : Bool) (sd : BitVec 4) (disp : BitVec 9)
  /-- BNEZ, R99. -/
  | bnez (n : CoreId) (nb : Bool) (sd : BitVec 4) (disp : BitVec 9)
  /-- BLTZ, R99. -/
  | bltz (n : CoreId) (nb : Bool) (sd : BitVec 4) (disp : BitVec 9)
  /-- BGEZ, R99. -/
  | bgez (n : CoreId) (nb : Bool) (sd : BitVec 4) (disp : BitVec 9)
  /-- DONE, R201. -/
  | done (n : CoreId) (nb : Bool) (sd sa : BitVec 4) (sb : BitVec 5)
  /-- RETE, R131. -/
  | rete (n : CoreId) (nb : Bool) (sd sa : BitVec 4) (sb : BitVec 5)
  /-- TRAP, R99. -/
  | trap (n : CoreId) (nb : Bool) (sd sa : BitVec 4) (sb : BitVec 5)
  /-- MOVI, R100. -/
  | movi (n : CoreId) (nb : Bool) (d : BitVec 4) (imm : BitVec 32)
  /-- MOVI_O, R100. -/
  | moviO (n : CoreId) (nb : Bool) (d : BitVec 4) (imm : BitVec 32)
  /-- MOVI_AL, R100. -/
  | moviAl (n : CoreId) (nb : Bool) (d : BitVec 4) (imm : BitVec 32)
  /-- MOVI_AH, R100. -/
  | moviAh (n : CoreId) (nb : Bool) (d : BitVec 4) (imm : BitVec 32)
  /-- REP, R113. -/
  | rep (n : CoreId) (opnds : BitVec 56)
  /-- REPS, R100. -/
  | reps (n : CoreId) (opnds : BitVec 56)
  /-- JMP, R100. -/
  | jmp (n : CoreId) (opnds : BitVec 56)
  /-- CALL, R100. -/
  | call (n : CoreId) (opnds : BitVec 56)
  /-- RET, R100. -/
  | ret (n : CoreId) (opnds : BitVec 56)
  /-- REP_ITERATION, R113. -/
  | repIteration (n : CoreId)
  /-- BUNDLE_COMMIT, R123. -/
  | bundleCommit (n : CoreId)
  /-- REMOTE_LOAD_RESPONSE, R124. -/
  | remoteLoadResponse (n : CoreId) (i : Fin 8)
  /-- EXCEPTION_TAKEN, R130. -/
  | exceptionTaken (n : CoreId)
  /-- ACCESS_ERROR_EXCEPTION, R129. -/
  | accessErrorException (n : CoreId)
  /-- COPROC_COMMAND_START, R144. -/
  | coprocCommandStart (k : ClusterId) (u : UnitId)
  /-- FFT, R164. -/
  | fft (k : ClusterId)
  /-- IFFT, R164. -/
  | ifft (k : ClusterId)
  /-- DFT, R164. -/
  | dft (k : ClusterId)
  /-- IDFT, R164. -/
  | idft (k : ClusterId)
  /-- CMUL, R167. -/
  | cmul (k : ClusterId)
  /-- CHOL, R167. -/
  | chol (k : ClusterId)
  /-- CINV, R167. -/
  | cinv (k : ClusterId)
  /-- COPROC_COMMAND_COMPLETE, R170. -/
  | coprocCommandComplete (k : ClusterId) (u : UnitId)
  /-- COMMAND_INTAKE_WRITE, R154. -/
  | commandIntakeWrite (k : ClusterId) (u : UnitId) (src : SrcId) (core : BitVec 8) (depth : BitVec 2) (w0 w1 w2 w3 : Word)
  /-- COMPLETION_INTAKE_WRITE, R156. -/
  | completionIntakeWrite (k : ClusterId) (src : SrcId) (u : UnitId) (core : BitVec 8) (depth : BitVec 2) (tag : BitVec 4) (target : ClusterId) (detail : BitVec 8) (addr : Addr)
  /-- REMOTE_TAG_TIMEOUT, R156. -/
  | remoteTagTimeout (n : CoreId) (u : UnitId) (depth : BitVec 2) (tag : BitVec 4)
  /-- CONTEXT_WINDOW_ACCESS, R159. -/
  | contextWindowAccess (src : SrcId) (tag : BitVec 8) (k : ClusterId) (u : UnitId) (i : Fin 8) (r : Fin 32) (write : Option (BitVec 64 × Line))
  /-- COPROC_DEFERRED_EXCEPTION, R172. -/
  | coprocDeferredException (n : CoreId)
  /-- TRIGGER_PULSE, R160. -/
  | triggerPulse (k : ClusterId) (u : UnitId) (slot : Fin 16) (count : BitVec 4)
  /-- TRIGGER_PEND_ENTER, R161. -/
  | triggerPendEnter (k : ClusterId) (u : UnitId) (slot : Fin 16)
  /-- CX_BIND_APPLY, R173. -/
  | cxBindApply (k : ClusterId) (u : UnitId) (i : Fin 8)
  /-- INK_SUBMIT, R181. -/
  | inkSubmit (r : RegionId) (src : SrcId) (whole : Bool) (data : Line)
  /-- CREDIT_GRANT, R180. -/
  | creditGrant (r : RegionId)
  /-- INK_DECR_DECREMENT, R185. -/
  | inkDecrDecrement (r : RegionId) (src : SrcId) (c : BitVec 14) (a : BitVec 12)
  /-- INK_DECR_CLEAR_EARLY, R219. -/
  | inkDecrClearEarly (r : RegionId) (src : SrcId) (c : BitVec 14)
  /-- INK_DECR_ABANDON, R216. -/
  | inkDecrAbandon (r : RegionId) (src : SrcId) (c : BitVec 14)
  /-- INK_DECR_RESERVED_OP, R219. -/
  | inkDecrReservedOp (r : RegionId) (src : SrcId) (w : BitVec 30)
  /-- INK_DECR_HELD, R212. -/
  | inkDecrHeld (r : RegionId)
  /-- DECREMENT_APPLY, R185. -/
  | decrementApply (r : DecrAt)
  /-- JOIN_TAKE_RESERVOIR, R205. -/
  | joinTakeReservoir (r : RegionId)
  /-- TASK_DISPATCH, R192. -/
  | taskDispatch (r : RegionId) (c : Fin 7)
  /-- DISPATCH_TAKE, R195. -/
  | dispatchTake (n : CoreId)
  /-- PREEMPTION, R198. -/
  | preemption (r : RegionId)
  /-- PREEMPT_SAVE_DONE, R199. -/
  | preemptSaveDone (n : CoreId)
  /-- TASK_RESTORE, R202. -/
  | taskRestore (n : CoreId)
  /-- TASK_COMPLETE, R201. -/
  | taskComplete (r : RegionId) (u : Fin 60) (svc : Word)
  /-- COMPLETION_SLOT_TAKE, R210. -/
  | completionSlotTake (r : RegionId)
  /-- COMPLETION_SLOT_DRAIN, R211. -/
  | completionSlotDrain (r : RegionId)
  /-- DEADLINE_SCAN, R209. -/
  | deadlineScan (r : RegionId)
  /-- LAGGARD_THRESHOLD, R213. -/
  | laggardThreshold (r : RegionId) (u : Fin 60) (svc : Word)
  /-- LAGGARD_IDLE_RETURN, R214. -/
  | laggardIdleReturn (r : RegionId) (u : Fin 60)
  /-- INK_UNIT_LAG_CLEAR, R214. -/
  | inkUnitLagClear (r : RegionId) (u : Fin 60) (src : SrcId)
  /-- INK_FLOW_WRITE, R207. -/
  | inkFlowWrite (r : RegionId) (f : Fin 256) (src : SrcId) (en : BitVec 4) (w : Word)
  /-- RA_INTAKE_WRITE, R266. -/
  | raIntakeWrite (r : RegionId) (e : EngineId) (src : SrcId) (entry : Addr)
  /-- JOB_START, R224. -/
  | jobStart (r : RegionId) (e : EngineId)
  /-- LDPC_DECODE, R236. -/
  | ldpcDecode (r : RegionId) (e : EngineId) (ecc : BufErrs) (dur : Word)
  /-- TB_CRC_COMBINE, R239. -/
  | tbCrcCombine (r : RegionId) (e : EngineId) (ecc : BufErrs) (dur : Word)
  /-- LDPC_ENCODE, R247. -/
  | ldpcEncode (r : RegionId) (e : EngineId) (ecc : BufErrs) (dur : Word)
  /-- POLAR_DECODE, R250. -/
  | polarDecode (r : RegionId) (e : EngineId) (ecc : BufErrs) (dur : Word)
  /-- POLAR_ENCODE, R250. -/
  | polarEncode (r : RegionId) (e : EngineId) (ecc : BufErrs) (dur : Word)
  /-- SHORT_BLOCK_DECODE, R250. -/
  | shortBlockDecode (r : RegionId) (e : EngineId) (ecc : BufErrs) (dur : Word)
  /-- TURBO_DECODE, R252. -/
  | turboDecode (r : RegionId) (e : EngineId) (ecc : BufErrs) (dur : Word)
  /-- TURBO_ENCODE, R252. -/
  | turboEncode (r : RegionId) (e : EngineId) (ecc : BufErrs) (dur : Word)
  /-- CONV_DECODE, R253. -/
  | convDecode (r : RegionId) (e : EngineId) (ecc : BufErrs) (dur : Word)
  /-- CONV_ENCODE, R253. -/
  | convEncode (r : RegionId) (e : EngineId) (ecc : BufErrs) (dur : Word)
  /-- SOFT_DEMAP, R256. -/
  | softDemap (r : RegionId) (e : EngineId) (ecc : BufErrs) (dur : Word)
  /-- MIMO_DETECT, R260. -/
  | mimoDetect (r : RegionId) (e : EngineId) (ecc : BufErrs) (dur : Word)
  /-- MIMO_FACTOR, R261. -/
  | mimoFactor (r : RegionId) (e : EngineId) (ecc : BufErrs) (dur : Word)
  /-- HARQ_GUARD_ACQUIRE, R245. -/
  | harqGuardAcquire (r : RegionId) (e : EngineId)
  /-- JOB_COMPLETE, R226. -/
  | jobComplete (r : RegionId) (e : EngineId)
  /-- JOB_TIMEOUT, R263. -/
  | jobTimeout (r : RegionId) (e : EngineId) (overdue : Overrun)
  /-- ENGINE_STOP, R264. -/
  | engineStop (r : RegionId) (e : EngineId)
  /-- CONTROL_STORE_ERROR, R264. -/
  | controlStoreError (r : RegionId) (e : EngineId)
  /-- PACKET_TAKE, R312. -/
  | packetTake (op : BitVec 16) (p : Packet) (host : HostData)
  /-- TAIL_WAIT_TIMEOUT, R311. -/
  | tailWaitTimeout (n : RingId)
  /-- SQ_DOORBELL, R306. -/
  | sqDoorbell (n : RingId) (v : BitVec 16)
  /-- CQ_DOORBELL, R306. -/
  | cqDoorbell (n : RingId) (v : BitVec 16)
  /-- RING_ENABLE, R336. -/
  | ringEnable (n : RingId) (v : Word)
  /-- RING_DISABLE, R336. -/
  | ringDisable (n : RingId) (v : Word)
  /-- REPLY_WRITE, R307. -/
  | replyWrite (n : RingId)
  /-- IMOD_INTERVAL_END, R308. -/
  | imodIntervalEnd (n : RingId)
  /-- UART_FRAME, R320. -/
  | uartFrame (bytes : List Byte) (host : HostData)
  /-- UART_BREAK, R320. -/
  | uartBreak
  /-- DEV_INFO, R321. -/
  | devInfo (p : Packet)
  /-- MODE_SET, R527. -/
  | modeSet (p : Packet)
  /-- DEV_RESET_CMD, R540. -/
  | devResetCmd (p : Packet)
  /-- DEV_RESET_REG, R51. -/
  | devResetReg (p : Packet)
  /-- DEV_RESET_CLU, R51. -/
  | devResetClu (p : Packet)
  /-- STATUS_GET, R321. -/
  | statusGet (p : Packet)
  /-- ECHO, R321. -/
  | echo (p : Packet)
  /-- SETTING_GET, R321. -/
  | settingGet (p : Packet)
  /-- SETTING_SET, R545. -/
  | settingSet (p : Packet)
  /-- SETTING_LIST, R321. -/
  | settingList (p : Packet)
  /-- CELL_SETUP, R277. -/
  | cellSetup (p : Packet)
  /-- CELL_START, R321. -/
  | cellStart (p : Packet)
  /-- CELL_STOP, R329. -/
  | cellStop (p : Packet)
  /-- CELL_STOP_EFFECT, R329. -/
  | cellStopEffect (c : CarrierId)
  /-- CELL_QUERY, R321. -/
  | cellQuery (p : Packet)
  /-- DL_CONFIG, R325. -/
  | dlConfig (p : Packet)
  /-- DL_DATA, R329. -/
  | dlData (p : Packet)
  /-- DL_DATA_FETCH_DONE, R329. -/
  | dlDataFetchDone (c : CarrierId) (sfn : BitVec 10) (slot : Byte) (fetched : FetchEnd)
  /-- UL_CONFIG, R325. -/
  | ulConfig (p : Packet)
  /-- FH_PORT_CFG, R321. -/
  | fhPortCfg (p : Packet)
  /-- DELAY_MEAS, R420. -/
  | delayMeas (p : Packet)
  /-- DELAY_MEAS_SEND, R420. -/
  | delayMeasSend (c : CarrierId)
  /-- DELAY_RESPONSE_TIMEOUT, R420. -/
  | delayResponseTimeout (c : CarrierId) (id : Byte)
  /-- CP_LINK_DOWN, R455. -/
  | cpLinkDown (p : Packet)
  /-- CP_LINK_TRAIN, R455. -/
  | cpLinkTrain (p : Packet)
  /-- CP_LINK_POWER_SAVE, R455. -/
  | cpLinkPowerSave (p : Packet)
  /-- CP_LINK_STATUS, R464. -/
  | cpLinkStatus (p : Packet)
  /-- AO_SET_DIRECT, R504. -/
  | aoSetDirect (p : Packet)
  /-- AO_SET_SLEWED, R503. -/
  | aoSetSlewed (p : Packet)
  /-- AO_STEP, R487. -/
  | aoStep (p : Packet)
  /-- TIME_GET, R321. -/
  | timeGet (p : Packet)
  /-- TIME_STEP_RELATIVE, R482. -/
  | timeStepRelative (p : Packet)
  /-- TIME_STEP_ABSOLUTE, R482. -/
  | timeStepAbsolute (p : Packet)
  /-- UTC_OFFSET, R492. -/
  | utcOffset (p : Packet)
  /-- PTP_CFG, R491. -/
  | ptpCfg (p : Packet)
  /-- SYNC_SRC, R477. -/
  | syncSrc (p : Packet)
  /-- SCRUB, R360. -/
  | scrub (p : Packet)
  /-- ECC_GET, R321. -/
  | eccGet (p : Packet)
  /-- ECC_CLEAR, R359. -/
  | eccClear (p : Packet)
  /-- RETIRE_GET, R368. -/
  | retireGet (p : Packet)
  /-- MEM_READ, R321. -/
  | memRead (p : Packet) (host : HostData)
  /-- MEM_WRITE, R321. -/
  | memWrite (p : Packet)
  /-- GB_FLUSH, R590. -/
  | gbFlush (p : Packet)
  /-- GB_READ, R595. -/
  | gbRead (p : Packet)
  /-- EVT_ROUTE, R580. -/
  | evtRoute (p : Packet)
  /-- PL_SET, R525. -/
  | plSet (p : Packet)
  /-- PL_CHANGE_COMPLETE, R525. -/
  | plChangeComplete (i : Fin 28)
  /-- DOMAIN_POWER_ON, R522. -/
  | domainPowerOn (p : Packet)
  /-- DOMAIN_POWER_OFF, R521. -/
  | domainPowerOff (p : Packet)
  /-- DOMAIN_DRAIN_END, R521. -/
  | domainDrainEnd
  /-- SLEEP_ENTER, R532. -/
  | sleepEnter (p : Packet)
  /-- ALARM_SET, R544. -/
  | alarmSet (p : Packet)
  /-- POWER_GET, R321. -/
  | powerGet (p : Packet)
  /-- ATTEST, R566. -/
  | attest (p : Packet)
  /-- ID_GET, R565. -/
  | idGet (p : Packet)
  /-- DBG_CHALLENGE, R567. -/
  | dbgChallenge (p : Packet)
  /-- DBG_UNLOCK, R568. -/
  | dbgUnlock (p : Packet)
  /-- CHALLENGE_EXPIRE, R567. -/
  | challengeExpire
  /-- IMAGE_EXPORT, R564. -/
  | imageExport (p : Packet)
  /-- KEY_REVOKE, R553. -/
  | keyRevoke (p : Packet)
  /-- LOOP_SET, R401. -/
  | loopSet (p : Packet)
  /-- PRBS_RUN, R403. -/
  | prbsRun (p : Packet)
  /-- PRBS_RUN_END, R403. -/
  | prbsRunEnd (l : Fin 40) (compared errors : BitVec 64) (lost : Bool)
  /-- SELFTEST, R321. -/
  | selftest (p : Packet)
  /-- UPD_BEGIN, R561. -/
  | updBegin (p : Packet)
  /-- UPD_CHUNK, R561. -/
  | updChunk (p : Packet)
  /-- UPD_COMMIT, R562. -/
  | updCommit (p : Packet)
  /-- UPD_ABORT, R321. -/
  | updAbort (p : Packet)
  /-- EGRESS_POST, R334. -/
  | egressPost (host : HostData)
  /-- INDICATION_SEND, R330. -/
  | indicationSend (c : CarrierId) (op : Fin 6) (sfn : BitVec 10) (slot : Byte) (late aborted : Bool) (entries : List IndEntry)
  /-- CONTROL_MESSAGE_LAUNCH, R282. -/
  | controlMessageLaunch (c : CarrierId) (sfn : BitVec 10) (slot : Byte) (stale : Bool)
  /-- RAMP_QUEUE, R291. -/
  | rampQueue (c : CarrierId) (up : Bool) (t : SymbolAt)
  /-- UL_GAIN_WINDOW, R288. -/
  | ulGainWindow (c : CarrierId) (ant : Fin 4) (win : Fin 5) (t : SymbolAt)
  /-- UL_PORTION_END, R289. -/
  | ulPortionEnd (c : CarrierId) (ant : Fin 4) (sfn : BitVec 10) (slot : Byte) (samples : Word)
  /-- DDR_TRAIN_COMPLETE, R341. -/
  | ddrTrainComplete (fail : Option (Fin 8))
  /-- DDR_INIT_COMPLETE, R342. -/
  | ddrInitComplete (ch : Fin 4)
  /-- DDR_ALERT, R345. -/
  | ddrAlert (src : SrcId) (tag : BitVec 8) (line : BitVec 42) (attempts : Fin 5)
  /-- DDR_REFRESH, R344. -/
  | ddrRefresh (ch : Fin 4)
  /-- MERGE_BUFFER_FLUSH, R352. -/
  | mergeBufferFlush (i : IslandId) (bank : Fin 64)
  /-- ECC_REPORT, R358. -/
  | eccReport (i : IslandId) (concierge : Bool)
  /-- ECCCTL_CLEAR, R359. -/
  | eccctlClear (u : Fin 9) (src : SrcId)
  /-- SCRUB_LINE, R362. -/
  | scrubLine (i : IslandId) (ups : List Upset)
  /-- PT_TAIL_WRITE, R370. -/
  | ptTailWrite (b : BlockId) (ch : Fin 32) (src : SrcId) (v : Word)
  /-- PT_RINGBASE_WRITE, R372. -/
  | ptRingbaseWrite (b : BlockId) (ch : Fin 32) (src : SrcId) (v : BitVec 64)
  /-- PT_RINGLEN_WRITE, R372. -/
  | ptRinglenWrite (b : BlockId) (ch : Fin 32) (src : SrcId) (v : Word)
  /-- PT_CHANNEL_ENABLE, R375. -/
  | ptChannelEnable (b : BlockId) (ch : Fin 32) (src : SrcId)
  /-- PT_CHANNEL_DISABLE, R375. -/
  | ptChannelDisable (b : BlockId) (ch : Fin 32) (src : SrcId)
  /-- PT_CHAIN_CUT, R375. -/
  | ptChainCut (b : BlockId) (ch : Fin 32) (src : SrcId)
  /-- DESCRIPTOR_START, R377. -/
  | descriptorStart (b : BlockId) (ch : Fin 32) (host : HostData)
  /-- DESC_COPY, R379. -/
  | descCopy (b : BlockId) (ch : Fin 32) (host : HostData)
  /-- DESC_INTERLEAVE, R381. -/
  | descInterleave (b : BlockId) (ch : Fin 32) (host : HostData)
  /-- DESC_DEINTERLEAVE, R381. -/
  | descDeinterleave (b : BlockId) (ch : Fin 32) (host : HostData)
  /-- DESC_WORDS_TO_PLANES, R382. -/
  | descWordsToPlanes (b : BlockId) (ch : Fin 32) (host : HostData)
  /-- DESC_PLANES_TO_WORDS, R382. -/
  | descPlanesToWords (b : BlockId) (ch : Fin 32) (host : HostData)
  /-- DESCRIPTOR_FINISH, R386. -/
  | descriptorFinish (b : BlockId) (ch : Fin 32)
  /-- PORTER_RELEASE, R389. -/
  | porterRelease (ch : Fin 32)
  /-- HOST_ACCESS, R406. -/
  | hostAccess (t : HostTlp)
  /-- HOST_COMPLETION_TIMEOUT, R81. -/
  | hostCompletionTimeout (addr : Addr)
  /-- PCIE_LINK_DOWN, R407. -/
  | pcieLinkDown (link : Bool)
  /-- PCIE_TRAIN_START, R616. -/
  | pcieTrainStart
  /-- FUNCTION_LEVEL_RESET, R408. -/
  | functionLevelReset
  /-- FUNDAMENTAL_RESET, R408. -/
  | fundamentalReset
  /-- ETH_LINK_UP, R412. -/
  | ethLinkUp (p : PortId) (c0 : BitVec 4) (c1 : BitVec 4) (peer : BitVec 4) (pport : BitVec 4)
  /-- ETH_LINK_DOWN, R412. -/
  | ethLinkDown (p : PortId)
  /-- FRAME_RECEIVE, R411. -/
  | frameReceive (p : PortId) (frame : List Byte) (fcsOk : Bool) (corrected : BitVec 16) (uncorrectable : Bool)
  /-- ECPRI_IQ_RECEIVE, R429. -/
  | ecpriIqReceive (p : PortId) (m : List Byte)
  /-- DELAY_REQUEST_RECEIVE, R420. -/
  | delayRequestReceive (p : PortId) (seq : Byte) (smac : Addr) (m : List Byte)
  /-- DELAY_RESPONSE_RECEIVE, R420. -/
  | delayResponseReceive (c : CarrierId) (m : List Byte)
  /-- PUSH_SLOT_WRITE, R422. -/
  | pushSlotWrite (src : SrcId) (p : PortId) (k : Fin 16) (off : BitVec 14) (data : List Byte)
  /-- TX_ENTRY_WRITE, R423. -/
  | txEntryWrite (src : SrcId) (p : PortId) (q : Fin 8) (entry : BitVec 128)
  /-- FRAME_START, R426. -/
  | frameStart (p : PortId) (crcBad : Bool)
  /-- RX_GROUP_WRITE, R429. -/
  | rxGroupWrite (src : SrcId) (p : PortId) (g : Fin 32) (v : BitVec 64)
  /-- RX_ARM, R428. -/
  | rxArm (src : SrcId) (p : PortId) (g : Fin 31) (rt : Word) (app : BitVec 24)
  /-- RX_BLOCK_RELEASE, R430. -/
  | rxBlockRelease (p : PortId) (g : Fin 31)
  /-- RX_CONSUME, R431. -/
  | rxConsume (src : SrcId) (p : PortId) (g : Fin 32)
  /-- CARRIAGE_DETECT, R454. -/
  | carriageDetect (p : CpId) (answer : Bool)
  /-- TRAIN_STEP, R459. -/
  | trainStep (p : CpId) (r : TrainRes)
  /-- TRAIN_TIMEOUT, R454. -/
  | trainTimeout (p : CpId)
  /-- CARRIAGE_FRAME_SEND, R443. -/
  | carriageFrameSend (p : CpId)
  /-- CARRIAGE_FRAME_RECEIVE, R444. -/
  | carriageFrameReceive (p : CpId) (r : CpRx)
  /-- LINK_MESSAGE_RECEIVE, R444. -/
  | linkMessageReceive (p : CpId) (m : LinkMsg)
  /-- RETRAIN_TRIGGER, R456. -/
  | retrainTrigger (p : CpId) (lost : BitVec 16) (lock : Bool)
  /-- SNR_MEASURE, R460. -/
  | snrMeasure (p : CpId) (ratios : List AxisRatio)
  /-- TABLE_ADOPT, R461. -/
  | tableAdopt (p : CpId)
  /-- PROPOSAL_LAPSE, R462. -/
  | proposalLapse (p : CpId) (ours : Bool)
  /-- POWER_SAVE_RESUME, R457. -/
  | powerSaveResume (p : CpId) (lost : BitVec 9)
  /-- SAMPLE_WRITE, R450. -/
  | sampleWrite (src : SrcId) (p : CpId) (ant : Fin 4) (pos : BitVec 15) (v : Word)
  /-- UL_ARM, R451. -/
  | ulArm (src : SrcId) (p : CpId) (v : BitVec 64)
  /-- UL_SYMBOL_RELEASE, R451. -/
  | ulSymbolRelease (p : CpId)
  /-- SWITCH_QUEUE_WRITE, R453. -/
  | switchQueueWrite (src : SrcId) (p : CpId) (v : BitVec 64)
  /-- MGMT_TX_ENTRY, R446. -/
  | mgmtTxEntry (src : SrcId) (p : CpId) (entry : BitVec 128)
  /-- MGMT_RX_CONSUME, R446. -/
  | mgmtRxConsume (src : SrcId) (p : CpId) (v : Word)
  /-- CAPTURE_STROBE, R473. -/
  | captureStrobe (src : Fin 64)
  /-- CAPTURE_HANDLER, R474. -/
  | captureHandler
  /-- ANCHOR_REWRITE, R469. -/
  | anchorRewrite
  /-- SYNC_RECEIVE, R477. -/
  | syncReceive (p : PortId) (domain seq : Byte) (t1 : Option Int) (corr : Int)
  /-- FOLLOW_UP_RECEIVE, R477. -/
  | followUpReceive (p : PortId) (domain : Byte) (t1 corr : Int)
  /-- DELAY_REQ_RECEIVE, R492. -/
  | delayReqReceive (p : PortId) (domain seq : Byte) (requester : BitVec 80)
  /-- DELAY_RESP_RECEIVE, R477. -/
  | delayRespReceive (p : PortId) (domain : Byte) (t4 corr : Int)
  /-- ANNOUNCE_RECEIVE, R491. -/
  | announceReceive (p : PortId) (domain : Byte) (gm : BitVec 64) (cls : Byte) (removed : BitVec 16)
  /-- PTP_SYNC_SEND, R492. -/
  | ptpSyncSend (p : PortId)
  /-- PTP_ANNOUNCE_SEND, R492. -/
  | ptpAnnounceSend (p : PortId)
  /-- PTP_DELAY_REQ_SEND, R490. -/
  | ptpDelayReqSend (p : PortId)
  /-- TIME_LOOP_UPDATE, R479. -/
  | timeLoopUpdate (freq : Option (BitVec 32))
  /-- TIME_LOCK, R478. -/
  | timeLock
  /-- LOCK_LOSS, R478. -/
  | lockLoss
  /-- SOURCE_LOST, R477. -/
  | sourceLost
  /-- SOURCE_VALID, R476. -/
  | sourceValid
  /-- HOLDOVER_EXPIRE, R476. -/
  | holdoverExpire
  /-- TUNING_WORD_SAVE, R481. -/
  | tuningWordSave (w : BitVec 24)
  /-- SCHEDULED_FRAME_LAUNCH, R484. -/
  | scheduledFrameLaunch (p : PortId) (q : Fin 8) (crcBad : Bool)
  /-- ANALOG_STEP_DUE, R484. -/
  | analogStepDue (c : ChanId)
  /-- PPS_OUT_RISE, R488. -/
  | ppsOutRise
  /-- PPS_OUT_FALL, R488. -/
  | ppsOutFall
  /-- AOSTEP_WRITE, R487. -/
  | aostepWrite (src : SrcId) (whole : Bool) (v : BitVec 64)
  /-- TK_EVENT_INPUT, R489. -/
  | tkEventInput (i : Fin 16) (n : Fin 16)
  /-- DEGLITCH_RELEASE, R501. -/
  | deglitchRelease (c : ChanId)
  /-- DEFERRED_LATCH, R502. -/
  | deferredLatch (c : ChanId)
  /-- SLEW_LATCH, R503. -/
  | slewLatch (c : ChanId)
  /-- CHANNEL_FAULT, R510. -/
  | channelFault (c : ChanId) (cause : Fin 3)
  /-- AO_FAULT_CLEAR, R511. -/
  | aoFaultClear (c : ChanId) (src : SrcId) (holds : Bool)
  /-- SAFE_CODE_LOAD, R506. -/
  | safeCodeLoad
  /-- MONITOR_SAMPLE, R515. -/
  | monitorSample (m : MonId) (v : BitVec 24)
  /-- VIN_HIGH_HALT_TIMER, R516. -/
  | vinHighHaltTimer
  /-- POWER_FAIL_WARNING, R517. -/
  | powerFailWarning (mv : Word)
  /-- PFW_CLEAR, R517. -/
  | pfwClear
  /-- DRAIN_COMPLETE, R529. -/
  | drainComplete
  /-- WATCHDOG_KICK, R530. -/
  | watchdogKick
  /-- WATCHDOG_EXPIRE, R540. -/
  | watchdogExpire
  /-- VOTER_VOTE, R533. -/
  | voterVote (d : Fin 352) (yes : Bool)
  /-- VOTE_TIMEOUT, R534. -/
  | voteTimeout
  /-- POWER_DOWN_COMPLETE, R535. -/
  | powerDownComplete
  /-- WAKE_N_ASSERT, R537. -/
  | wakeNAssert (sec : BitVec 48)
  /-- ALARM_EXPIRE, R537. -/
  | alarmExpire
  /-- UART_BREAK_WAKE, R537. -/
  | uartBreakWake (sec : BitVec 48)
  /-- CARRIAGE_ENERGY_DETECT, R458. -/
  | carriageEnergyDetect (p : CpId) (sec : BitVec 48)
  /-- WAKE, R539. -/
  | wake
  /-- POWER_ON_RESET, R540. -/
  | powerOnReset (brownout : Bool)
  /-- VDDQ_EN_RISE, R613. -/
  | vddqEnRise
  /-- PIN_RESET, R540. -/
  | pinReset
  /-- DEBUG_RESET, R22. -/
  | debugReset (kind : Fin 3) (unit : Fin 24)
  /-- RESET_HOLD_END, R541. -/
  | resetHoldEnd (modid : Fin 16) (testEn : Bool)
  /-- WEAR_ACCOUNT_SAVE, R574. -/
  | wearAccountSave (powerFail : Bool)
  /-- EVENT_TAKE, R579. -/
  | eventTake
  /-- MSI_INTERVAL_END, R581. -/
  | msiIntervalEnd (v : Byte)
  /-- FLUSH_START, R590. -/
  | flushStart
  /-- FLUSH_COMPLETE, R590. -/
  | flushComplete
  /-- PCIE_LINK_UP, R537. -/
  | pcieLinkUp (width : Fin 5) (speed : Fin 5)
  /-- PCIE_COMPLETION_RECEIVE, R407. -/
  | pcieCompletionReceive (addr : Addr) (fail : Bool) (data : List Byte)
  /-- HUB_CORE_FAULT, R531. -/
  | hubCoreFault
  /-- UPD_VERIFY_COMPLETE, R562. -/
  | updVerifyComplete
  /-- SELFTEST_COMPLETE, R318. -/
  | selftestComplete (words : List Word)
  deriving DecidableEq, Repr

end Sys2Proof
end

