-- ==== Sys2Proof/Machine/Bits.lean ====
section
/-! DEFINITION. Bit fields of numbers, byte order (little-endian, R301), saturation and sign. -/

namespace Sys2Proof.Machine

/-- `len` bits of `w` from bit `lo`. -/
def bits (w lo len : Nat) : Nat := (w >>> lo) % 2 ^ len

/-- Bit `i` of `w`. -/
def bit (w i : Nat) : Bool := (w >>> i) % 2 = 1

/-- `w` with the `len` bits from bit `lo` replaced by `v` (taken modulo their width). -/
def setBits (w lo len v : Nat) : Nat :=
  w % 2 ^ lo + (v % 2 ^ len) * 2 ^ lo + (w >>> (lo + len)) * 2 ^ (lo + len)

/-- 1 for true, 0 for false. -/
def b2n (b : Bool) : Nat := if b then 1 else 0

/-- `v` limited to at most `2^w - 1`. -/
def satAt (w v : Nat) : Nat := if v < 2 ^ w then v else 2 ^ w - 1

/-- The signed value of the low `w` bits of `v`. -/
def sgn (w v : Nat) : Int :=
  let u := v % 2 ^ w
  if 2 * u < 2 ^ w then (u : Int) else (u : Int) - (2 ^ w : Nat)

/-- The low `w` bits of a signed value. -/
def wrapTo (w : Nat) (i : Int) : Nat := (i % (2 ^ w : Nat)).toNat

/-- A signed value clamped to `w` bits. -/
def clampTo (w : Nat) (i : Int) : Int := max (-(2 ^ (w - 1) : Nat)) (min i ((2 ^ (w - 1) : Nat) - 1))

/-- A value in whole units. Which way a fraction goes is not stated: `up` says. -/
def wholeOf (x : Rat) (up : Bool) : Int := if x.floor = x then x.floor else x.floor + (if up then 1 else 0)

/-- Little-endian value of a list of bytes (R301). -/
def leVal : List Byte → Nat
  | [] => 0
  | b :: bs => b.toNat + 256 * leVal bs

/-- The low `n` bytes of `v`, least significant first (R301). -/
def leBytes : Nat → Nat → List Byte
  | 0, _ => []
  | n + 1, v => BitVec.ofNat 8 v :: leBytes n (v / 256)

/-- Big-endian value of a list of bytes (network order). -/
def beVal (bs : List Byte) : Nat := leVal bs.reverse

/-- The low `n` bytes of `v`, most significant first. -/
def beBytes (n v : Nat) : List Byte := (leBytes n v).reverse

/-- The 32-bit words of a number, low word first. -/
def leWords : Nat → Nat → List Word
  | 0, _ => []
  | n + 1, v => BitVec.ofNat 32 v :: leWords n (v >>> 32)

/-- Little-endian value of a list of 32-bit words. -/
def wordsVal : List Word → Nat
  | [] => 0
  | w :: ws => w.toNat + 2 ^ 32 * wordsVal ws

/-- The bytes of a list of words, each little-endian. -/
def wordBytes (ws : List Word) : List Byte := ws.flatMap fun w => leBytes 4 w.toNat

/-- The words of a list of bytes, the last padded with zero bytes. -/
def bytesWordsAux : Nat → List Byte → List Word
  | 0, _ => []
  | n + 1, bs => BitVec.ofNat 32 (leVal (bs.take 4)) :: bytesWordsAux n (bs.drop 4)

/-- The words of a list of bytes, the last padded with zero bytes. -/
def bytesWords (bs : List Byte) : List Word := bytesWordsAux ((bs.length + 3) / 4) bs

/-- One step of a bitwise CRC of width `w` and polynomial `poly`, most significant bit first. -/
def crcBit (w poly reg : Nat) (b : Bool) : Nat :=
  let top := bit reg (w - 1)
  let r := (2 * reg) % 2 ^ w
  if top != b then r ^^^ poly else r

/-- The bits of a byte, most significant first. -/
def msbBits (b : Byte) : List Bool := (List.range 8).map fun i => b.getLsbD (7 - i)

/-- A CRC over bits, most significant bit first. -/
def crcBits (w poly init : Nat) (bs : List Bool) : Nat := bs.foldl (crcBit w poly) init

/-- A CRC over bytes, most significant bit of each byte first. -/
def crcMsb (w poly init : Nat) (bs : List Byte) : Nat := crcBits w poly init (bs.flatMap msbBits)

/-- The number with the low `n` bits of `v` in reverse order. -/
def revBits (n v : Nat) : Nat := (List.range n).foldl (fun a i => 2 * a + b2n (bit v i)) 0

/-- The CRC-32 of IEEE 802.3 over bytes (reflected, inverted at both ends). -/
def crc32 (bs : List Byte) : Nat :=
  let reg := crcBits 32 0x04C11DB7 0xFFFFFFFF (bs.flatMap fun b => (msbBits b).reverse)
  revBits 32 (reg ^^^ 0xFFFFFFFF)

/-- Items `lo` to `lo + n - 1` of a list of bytes, as a little-endian number. -/
def fieldAt (bs : List Byte) (lo n : Nat) : Nat := leVal ((bs.drop lo).take n)

/-- `bs` with the bytes from `lo` replaced by those of `new`. -/
def patch (bs : List Byte) (lo : Nat) (new : List Byte) : List Byte :=
  bs.take lo ++ new ++ bs.drop (lo + new.length)

end Sys2Proof.Machine
end

