-- ==== Sys2Proof/Machine/Regs.lean ====
section
/-! DEFINITION. The register tables of spec/01 to spec/17 (R9, R10, R13): one row for each register, with its
fields, types, reset values and the reset kinds it is kept across; the address of each register (R86 to R88 and the
block bases of each chapter); and one name for each field. -/

namespace Sys2Proof.Machine

/-- The field types of R10. -/
inductive FieldTy where
  | rw | ro | wo | w1c | rwl
  deriving DecidableEq, Repr

/-- One field of a register row: low bit and width within the register, type, reset value, and the reset kinds it is
kept across as a mask (bit 0 POR, 1 PIN, 2 WDT, 3 CMD, 4 WAKE, 5 REG, 6 CLU, 7 DBG, the order of the reset table). -/
structure FieldRow where
  lo : Nat
  len : Nat
  ty : FieldTy
  rst : Nat
  keep : Nat
  deriving DecidableEq, Repr

/-- A field of a register by its low bit and its width (the register may be wider than one word). -/
structure Fld where
  lo : Nat
  len : Nat
  deriving DecidableEq, Repr

/-- The registers of the module, one constructor for each register row of the spec. -/
inductive RegName where
  | TP_XSTAT | TP_WEIGHT | TP_DEAD0 | TP_DEAD1 | TP_ERRINFO | TP_ERRADDR_LO
  | TP_ERRADDR_HI | TP_SRCCFG | TP_ABSORB | CX_STAT | CX_BIND | CX_CTXST
  | CX_TRIGCTL | INK_STAT | INK_OCC | INK_CFG | INK_CREDIT | INK_ACCEPT
  | INK_FLOW | INK_LAGTHR | INK_LAGHOLD | INK_UNIT | INK_CTR | RA_GSTAT
  | RA_ENGSTAT | RA_JOBLIM | RA_JOBCNT | RA_FAILCNT | RA_ERRINFO | RA_ERRTAG
  | RA_ERRADDR_LO | RA_ERRADDR_HI | HUB_SQBASE | HUB_RINGCTL | HUB_RINGSTAT | HUB_CQSTAT
  | HUB_CQLOST | HUB_RINGGLB | HUB_DDRSTAT | HUB_CECNT | HUB_UECNT | HUB_ECCDROP
  | HUB_ECCCTL | HUB_UEADDR_LO | HUB_UEADDR_HI | HUB_ECCENT | PT_RINGBASE | PT_RINGLEN
  | PT_TAIL | PT_CHCTL | PT_CHSTAT | PT_CUR | PT_DONE | PT_RELHELD
  | PT_BLKSTAT | PT_ERRINFO | PT_ERRADDR | LN_LANECFG | LN_LANESTAT | LN_PCIESTAT
  | LN_PORTCFG | LN_PORTSTAT | LN_CNT | LN_TXQSTAT | LN_RXGRP | LN_RXBST
  | LN_RXPC | CP_CFG | CP_STAT | CP_DELAY | CP_RPDLY | CP_LOAD
  | CP_CAR | CP_UCFG | CP_TXATT | CP_RPSTAT | CP_QSTAT | CP_CNT
  | TK_NS | TK_STAT | TK_OFFSET | TK_FADJ | TK_EFCW | TK_DROP
  | TK_ANCHOR | TK_PPSCAP | TK_CAL | TK_EVIN | AO_CHSTAT | AO_CHTGT
  | AO_CHSLEW | AO_CHCNT | AO_MON | AO_GSTAT | PW_MODE | PW_RSTCAUSE
  | PW_RSTKIND | PW_WAKEREC | PW_WAKESEC_LO | PW_WAKESEC_HI | PW_ALARM | PW_SLEEPSTAT
  | PW_DOMSTAT | PW_ISLAND | NV_BOOTSTAT | NV_FUSE | NV_WEAR | SEC_STAT
  | GB_HEAD | GB_STAT | GB_FLUSHSEQ | GB_EVLOST | GB_RECLOST | GB_INKFAIL
  | GB_OLDEST | GB_ROUTE | GB_VECSTAT | CP_RXATT | HUB_CQBASE | PT_ERRDESC
  | CX_TRIGCMD
  deriving DecidableEq, Repr

/-- A register row: the address of its first instance, the stride and count of each index, its width in 32-bit words
and its fields. -/
structure RegRow where
  name : RegName
  base : Nat
  dims : List (Nat × Nat)
  words : Nat
  fields : List FieldRow
  deriving DecidableEq, Repr

/-- Part 0 of the register table, in the order of the chapters. -/
def regTable0 : List RegRow := [
  ⟨.TP_XSTAT, 0xE400F00, [(0x1000, 63)], 1,
    [⟨24, 8, .ro, 0x0, 255⟩, ⟨18, 2, .ro, 0x0, 0⟩, ⟨16, 2, .ro, 0x0, 0⟩, ⟨8, 8, .ro, 0x0, 0⟩, ⟨4, 1, .ro, 0x0, 0⟩, ⟨3, 1, .w1c, 0x0, 0⟩, ⟨1, 1, .w1c, 0x0, 0⟩, ⟨0, 1, .w1c, 0x0, 0⟩]⟩,
  ⟨.TP_WEIGHT, 0xE000000, [(0x10000, 32), (0x4, 32)], 1,
    [⟨0, 8, .ro, 0x0, 255⟩]⟩,
  ⟨.TP_DEAD0, 0xE800000, [], 1,
    [⟨0, 32, .ro, 0x0, 96⟩]⟩,
  ⟨.TP_DEAD1, 0xE800004, [], 1,
    [⟨0, 31, .ro, 0x0, 96⟩]⟩,
  ⟨.TP_ERRINFO, 0xE800010, [], 1,
    [⟨31, 1, .w1c, 0x0, 96⟩, ⟨20, 3, .ro, 0x0, 96⟩, ⟨14, 6, .ro, 0x0, 96⟩, ⟨8, 6, .ro, 0x0, 96⟩, ⟨0, 8, .ro, 0x0, 96⟩]⟩,
  ⟨.TP_ERRADDR_LO, 0xE800014, [], 1,
    [⟨6, 26, .ro, 0x0, 96⟩]⟩,
  ⟨.TP_ERRADDR_HI, 0xE800018, [], 1,
    [⟨0, 16, .ro, 0x0, 96⟩]⟩,
  ⟨.TP_SRCCFG, 0xE800100, [(0x4, 44)], 1,
    [⟨31, 1, .rwl, 0x0, 96⟩, ⟨2, 2, .rwl, 0x3, 96⟩, ⟨0, 2, .rwl, 0x1, 96⟩]⟩,
  ⟨.TP_ABSORB, 0xE800400, [(0x4, 63)], 1,
    [⟨0, 32, .ro, 0x0, 96⟩]⟩,
  ⟨.CX_STAT, 0x200800000, [(0x1000000, 24), (0x400, 2)], 1,
    [⟨16, 6, .ro, 0x0, 0⟩, ⟨3, 1, .ro, 0x0, 0⟩, ⟨2, 1, .w1c, 0x0, 0⟩, ⟨1, 1, .w1c, 0x0, 0⟩, ⟨0, 1, .ro, 0x0, 0⟩]⟩,
  ⟨.CX_BIND, 0x200800010, [(0x1000000, 24), (0x400, 2), (0x4, 8)], 1,
    [⟨31, 1, .rw, 0x0, 0⟩, ⟨8, 2, .rw, 0x0, 0⟩, ⟨0, 8, .rw, 0x0, 0⟩]⟩,
  ⟨.CX_CTXST, 0x200800800, [(0x1000000, 24), (0x400, 2), (0x4, 40)], 1,
    [⟨8, 8, .ro, 0x0, 0⟩, ⟨4, 1, .w1c, 0x0, 0⟩, ⟨3, 1, .w1c, 0x0, 0⟩, ⟨2, 1, .w1c, 0x0, 0⟩, ⟨1, 1, .w1c, 0x0, 0⟩]⟩,
  ⟨.CX_TRIGCTL, 0x200801010, [(0x1000000, 24), (0x400, 2), (0x20, 16)], 1,
    [⟨31, 1, .rw, 0x0, 0⟩, ⟨30, 1, .w1c, 0x0, 0⟩, ⟨16, 6, .rw, 0x20, 0⟩, ⟨0, 16, .ro, 0x0, 0⟩]⟩,
  ⟨.INK_STAT, 0x300C00000, [(0x1000000, 4)], 1,
    [⟨31, 1, .ro, 0x0, 64⟩, ⟨30, 1, .ro, 0x0, 64⟩, ⟨16, 9, .ro, 0x100, 64⟩, ⟨0, 6, .ro, 0x0, 64⟩]⟩,
  ⟨.INK_OCC, 0x300C00004, [(0x1000000, 4)], 1,
    [⟨16, 12, .ro, 0x0, 64⟩, ⟨0, 12, .ro, 0x800, 64⟩]⟩,
  ⟨.INK_CFG, 0x300C00010, [(0x1000000, 4)], 1,
    [⟨16, 12, .rw, 0x600, 64⟩, ⟨0, 12, .rw, 0x40, 64⟩]⟩,
  ⟨.INK_CREDIT, 0x300C00100, [(0x1000000, 4), (0x4, 44)], 1,
    [⟨0, 32, .ro, 0x0, 64⟩]⟩,
  ⟨.INK_ACCEPT, 0x300C00200, [(0x1000000, 4), (0x4, 44)], 1,
    [⟨0, 32, .ro, 0x0, 64⟩]⟩,
  ⟨.INK_FLOW, 0x300C02000, [(0x1000000, 4), (0x4, 256)], 1,
    [⟨31, 1, .rw, 0x0, 64⟩, ⟨30, 1, .ro, 0x0, 64⟩, ⟨16, 10, .ro, 0x0, 64⟩, ⟨0, 16, .rw, 0x0, 64⟩]⟩,
  ⟨.INK_LAGTHR, 0x300C03000, [(0x1000000, 4), (0x4, 7)], 1,
    [⟨0, 24, .rw, 0x0, 64⟩]⟩]

/-- Part 1 of the register table, in the order of the chapters. -/
def regTable1 : List RegRow := [
  ⟨.INK_LAGHOLD, 0x300C03020, [(0x1000000, 4)], 1,
    [⟨0, 24, .rw, 0x1E8480, 64⟩]⟩,
  ⟨.INK_UNIT, 0x300C03100, [(0x1000000, 4), (0x4, 60)], 1,
    [⟨31, 1, .w1c, 0x0, 64⟩, ⟨30, 1, .ro, 0x0, 64⟩, ⟨28, 2, .ro, 0x0, 0⟩, ⟨25, 3, .ro, 0x0, 0⟩, ⟨0, 24, .ro, 0x0, 0⟩]⟩,
  ⟨.INK_CTR, 0x300C80000, [(0x1000000, 4), (0x4, 16384)], 1,
    [⟨30, 2, .ro, 0x0, 64⟩, ⟨27, 3, .ro, 0x0, 64⟩, ⟨16, 11, .ro, 0x0, 64⟩, ⟨0, 12, .ro, 0x0, 64⟩]⟩,
  ⟨.RA_GSTAT, 0x300800000, [(0x1000000, 4)], 1,
    [⟨31, 1, .ro, 0x0, 64⟩, ⟨16, 5, .ro, 0x0, 64⟩, ⟨0, 12, .ro, 0x0, 64⟩]⟩,
  ⟨.RA_ENGSTAT, 0x300800100, [(0x1000000, 4), (0x4, 12)], 1,
    [⟨31, 1, .ro, 0x0, 64⟩, ⟨30, 1, .ro, 0x0, 64⟩, ⟨29, 1, .ro, 0x0, 64⟩, ⟨28, 1, .ro, 0x0, 64⟩, ⟨27, 1, .w1c, 0x0, 64⟩, ⟨16, 8, .ro, 0x0, 64⟩, ⟨0, 16, .ro, 0x0, 64⟩]⟩,
  ⟨.RA_JOBLIM, 0x300800200, [(0x1000000, 4), (0x4, 12)], 1,
    [⟨0, 32, .rw, 0x124F80, 64⟩]⟩,
  ⟨.RA_JOBCNT, 0x300800300, [(0x1000000, 4), (0x4, 12)], 1,
    [⟨0, 32, .ro, 0x0, 64⟩]⟩,
  ⟨.RA_FAILCNT, 0x300800400, [(0x1000000, 4), (0x4, 12)], 1,
    [⟨16, 16, .ro, 0x0, 64⟩, ⟨0, 16, .ro, 0x0, 64⟩]⟩,
  ⟨.RA_ERRINFO, 0x300800800, [(0x1000000, 4)], 1,
    [⟨31, 1, .w1c, 0x0, 64⟩, ⟨24, 4, .ro, 0x0, 64⟩, ⟨8, 16, .ro, 0x0, 64⟩, ⟨0, 8, .ro, 0x0, 64⟩]⟩,
  ⟨.RA_ERRTAG, 0x300800804, [(0x1000000, 4)], 1,
    [⟨0, 32, .ro, 0x0, 64⟩]⟩,
  ⟨.RA_ERRADDR_LO, 0x300800808, [(0x1000000, 4)], 1,
    [⟨6, 26, .ro, 0x0, 64⟩]⟩,
  ⟨.RA_ERRADDR_HI, 0x30080080C, [(0x1000000, 4)], 1,
    [⟨0, 16, .ro, 0x0, 64⟩]⟩,
  ⟨.HUB_SQBASE, 0x100000, [(0x40, 16)], 2,
    [⟨12, 35, .rw, 0x0, 96⟩, ⟨0, 4, .rw, 0x4, 96⟩]⟩,
  ⟨.HUB_RINGCTL, 0x100010, [(0x40, 16)], 1,
    [⟨31, 1, .rw, 0x0, 96⟩, ⟨30, 1, .rw, 0x0, 96⟩, ⟨24, 4, .rw, 0x0, 96⟩, ⟨16, 8, .rw, 0x0, 96⟩, ⟨0, 16, .rw, 0x0, 96⟩]⟩,
  ⟨.HUB_RINGSTAT, 0x100014, [(0x40, 16)], 1,
    [⟨31, 1, .ro, 0x0, 96⟩, ⟨30, 1, .ro, 0x0, 96⟩, ⟨0, 16, .ro, 0x0, 96⟩]⟩,
  ⟨.HUB_CQSTAT, 0x100018, [(0x40, 16)], 1,
    [⟨16, 13, .ro, 0x0, 96⟩, ⟨0, 16, .ro, 0x0, 96⟩]⟩,
  ⟨.HUB_CQLOST, 0x10001C, [(0x40, 16)], 1,
    [⟨0, 32, .ro, 0x0, 96⟩]⟩,
  ⟨.HUB_RINGGLB, 0x100400, [], 1,
    [⟨0, 1, .ro, 0x0, 96⟩]⟩,
  ⟨.HUB_DDRSTAT, 0x9000000, [(0x1000, 4)], 1,
    [⟨31, 1, .ro, 0x0, 96⟩, ⟨30, 1, .ro, 0x0, 96⟩, ⟨24, 4, .ro, 0x0, 96⟩, ⟨0, 16, .ro, 0x0, 96⟩]⟩,
  ⟨.HUB_CECNT, 0x140000, [(0x400, 9)], 1,
    [⟨0, 32, .ro, 0x0, 96⟩]⟩]

/-- Part 2 of the register table, in the order of the chapters. -/
def regTable2 : List RegRow := [
  ⟨.HUB_UECNT, 0x140004, [(0x400, 9)], 1,
    [⟨0, 32, .ro, 0x0, 96⟩]⟩,
  ⟨.HUB_ECCDROP, 0x140008, [(0x400, 9)], 1,
    [⟨0, 32, .ro, 0x0, 96⟩]⟩,
  ⟨.HUB_ECCCTL, 0x14000C, [(0x400, 9)], 1,
    [⟨31, 1, .wo, 0x0, 0⟩, ⟨30, 1, .ro, 0x0, 96⟩, ⟨0, 6, .ro, 0x0, 96⟩]⟩,
  ⟨.HUB_UEADDR_LO, 0x140010, [(0x400, 9)], 1,
    [⟨0, 32, .ro, 0x0, 96⟩]⟩,
  ⟨.HUB_UEADDR_HI, 0x140014, [(0x400, 9)], 1,
    [⟨31, 1, .ro, 0x0, 96⟩, ⟨30, 1, .ro, 0x0, 96⟩, ⟨16, 4, .ro, 0x0, 96⟩, ⟨0, 16, .ro, 0x0, 96⟩]⟩,
  ⟨.HUB_ECCENT, 0x140100, [(0x400, 9), (0x10, 32)], 4,
    [⟨0, 32, .ro, 0x0, 96⟩, ⟨63, 1, .ro, 0x0, 96⟩, ⟨56, 7, .ro, 0x0, 96⟩, ⟨52, 4, .ro, 0x0, 96⟩, ⟨32, 16, .ro, 0x0, 96⟩, ⟨64, 32, .ro, 0x0, 96⟩]⟩,
  ⟨.PT_RINGBASE, 0x200C00000, [(0x1000000, 24), (0x40, 16)], 2,
    [⟨5, 43, .rw, 0x0, 0⟩]⟩,
  ⟨.PT_RINGBASE, 0xA000000, [(0x40, 32)], 2,
    [⟨5, 43, .rw, 0x0, 96⟩]⟩,
  ⟨.PT_RINGLEN, 0x200C00008, [(0x1000000, 24), (0x40, 16)], 1,
    [⟨0, 13, .rw, 0x0, 0⟩]⟩,
  ⟨.PT_RINGLEN, 0xA000008, [(0x40, 32)], 1,
    [⟨0, 13, .rw, 0x0, 96⟩]⟩,
  ⟨.PT_TAIL, 0x200C0000C, [(0x1000000, 24), (0x40, 16)], 1,
    [⟨0, 12, .rw, 0x0, 0⟩]⟩,
  ⟨.PT_TAIL, 0xA00000C, [(0x40, 32)], 1,
    [⟨0, 12, .rw, 0x0, 96⟩]⟩,
  ⟨.PT_CHCTL, 0x200C00010, [(0x1000000, 24), (0x40, 16)], 1,
    [⟨31, 1, .rw, 0x0, 0⟩, ⟨30, 1, .wo, 0x0, 0⟩, ⟨28, 2, .rw, 0x1, 0⟩]⟩,
  ⟨.PT_CHCTL, 0xA000010, [(0x40, 32)], 1,
    [⟨31, 1, .rw, 0x0, 96⟩, ⟨30, 1, .wo, 0x0, 0⟩, ⟨28, 2, .rw, 0x1, 96⟩]⟩,
  ⟨.PT_CHSTAT, 0x200C00014, [(0x1000000, 24), (0x40, 16)], 1,
    [⟨31, 1, .ro, 0x0, 0⟩, ⟨30, 1, .ro, 0x0, 0⟩, ⟨29, 1, .ro, 0x0, 0⟩, ⟨28, 1, .w1c, 0x0, 0⟩, ⟨27, 1, .w1c, 0x0, 0⟩, ⟨26, 1, .ro, 0x0, 0⟩, ⟨13, 13, .ro, 0x0, 0⟩, ⟨0, 12, .ro, 0x0, 0⟩]⟩,
  ⟨.PT_CHSTAT, 0xA000014, [(0x40, 32)], 1,
    [⟨31, 1, .ro, 0x0, 96⟩, ⟨30, 1, .ro, 0x0, 96⟩, ⟨29, 1, .ro, 0x0, 96⟩, ⟨28, 1, .w1c, 0x0, 96⟩, ⟨27, 1, .w1c, 0x0, 96⟩, ⟨26, 1, .ro, 0x0, 96⟩, ⟨13, 13, .ro, 0x0, 96⟩, ⟨0, 12, .ro, 0x0, 96⟩]⟩,
  ⟨.PT_CUR, 0x200C00018, [(0x1000000, 24), (0x40, 16)], 2,
    [⟨5, 43, .ro, 0x0, 0⟩]⟩,
  ⟨.PT_CUR, 0xA000018, [(0x40, 32)], 2,
    [⟨5, 43, .ro, 0x0, 96⟩]⟩,
  ⟨.PT_DONE, 0x200C00020, [(0x1000000, 24), (0x40, 16)], 1,
    [⟨0, 32, .ro, 0x0, 0⟩]⟩,
  ⟨.PT_DONE, 0xA000020, [(0x40, 32)], 1,
    [⟨0, 32, .ro, 0x0, 96⟩]⟩]

/-- Part 3 of the register table, in the order of the chapters. -/
def regTable3 : List RegRow := [
  ⟨.PT_RELHELD, 0x200C00024, [(0x1000000, 24), (0x40, 16)], 1,
    [⟨0, 16, .ro, 0x0, 0⟩]⟩,
  ⟨.PT_RELHELD, 0xA000024, [(0x40, 32)], 1,
    [⟨0, 16, .ro, 0x0, 96⟩]⟩,
  ⟨.PT_BLKSTAT, 0x200C01000, [(0x1000000, 24)], 1,
    [⟨0, 32, .ro, 0x0, 0⟩]⟩,
  ⟨.PT_BLKSTAT, 0xA001000, [], 1,
    [⟨0, 32, .ro, 0x0, 96⟩]⟩,
  ⟨.PT_ERRINFO, 0x200C01010, [(0x1000000, 24)], 1,
    [⟨31, 1, .w1c, 0x0, 0⟩, ⟨8, 8, .ro, 0x0, 0⟩, ⟨0, 5, .ro, 0x0, 0⟩]⟩,
  ⟨.PT_ERRINFO, 0xA001010, [], 1,
    [⟨31, 1, .w1c, 0x0, 96⟩, ⟨8, 8, .ro, 0x0, 96⟩, ⟨0, 5, .ro, 0x0, 96⟩]⟩,
  ⟨.PT_ERRADDR, 0x200C01018, [(0x1000000, 24)], 2,
    [⟨0, 48, .ro, 0x0, 0⟩]⟩,
  ⟨.PT_ERRADDR, 0xA001018, [], 2,
    [⟨0, 48, .ro, 0x0, 96⟩]⟩,
  ⟨.LN_LANECFG, 0x6000000, [(0x100, 40)], 1,
    [⟨31, 1, .rw, 0x1, 96⟩, ⟨30, 1, .rw, 0x0, 96⟩, ⟨29, 1, .rw, 0x0, 96⟩, ⟨20, 4, .rw, 0x8, 96⟩, ⟨11, 5, .rw, 0x0, 96⟩, ⟨7, 4, .rw, 0x0, 96⟩]⟩,
  ⟨.LN_LANESTAT, 0x6000004, [(0x100, 40)], 1,
    [⟨31, 1, .ro, 0x0, 96⟩, ⟨30, 1, .ro, 0x0, 96⟩, ⟨26, 4, .ro, 0x0, 96⟩, ⟨0, 3, .ro, 0x0, 96⟩]⟩,
  ⟨.LN_PCIESTAT, 0x6010000, [], 1,
    [⟨31, 1, .ro, 0x0, 96⟩, ⟨30, 1, .ro, 0x0, 96⟩, ⟨16, 8, .ro, 0x0, 96⟩, ⟨0, 8, .ro, 0x0, 96⟩]⟩,
  ⟨.LN_PORTCFG, 0x6100000, [(0x10000, 12)], 1,
    [⟨31, 1, .rw, 0x0, 96⟩, ⟨30, 1, .rw, 0x0, 96⟩, ⟨29, 1, .rw, 0x0, 96⟩, ⟨25, 4, .rw, 0x0, 96⟩, ⟨12, 3, .rw, 0x0, 96⟩, ⟨0, 12, .rw, 0x0, 96⟩]⟩,
  ⟨.LN_PORTSTAT, 0x6100008, [(0x10000, 12)], 1,
    [⟨31, 1, .ro, 0x0, 96⟩, ⟨30, 1, .ro, 0x0, 96⟩, ⟨8, 4, .ro, 0x0, 96⟩, ⟨4, 4, .ro, 0x0, 96⟩]⟩,
  ⟨.LN_CNT, 0x6100100, [(0x10000, 12), (0x4, 12)], 1,
    [⟨0, 32, .ro, 0x0, 96⟩]⟩,
  ⟨.LN_TXQSTAT, 0x6101100, [(0x10000, 12), (0x4, 8)], 1,
    [⟨16, 16, .ro, 0x0, 96⟩, ⟨0, 9, .ro, 0x0, 96⟩]⟩,
  ⟨.LN_RXGRP, 0x6102000, [(0x10000, 12), (0x10, 32)], 2,
    [⟨63, 1, .rw, 0x0, 96⟩, ⟨53, 5, .rw, 0x0, 96⟩, ⟨49, 4, .rw, 0x1, 96⟩, ⟨44, 5, .rw, 0x9, 96⟩, ⟨34, 10, .rw, 0x0, 96⟩, ⟨28, 6, .rw, 0x0, 96⟩, ⟨14, 14, .rw, 0x0, 96⟩]⟩,
  ⟨.LN_RXBST, 0x6103800, [(0x10000, 12), (0x4, 31)], 1,
    [⟨31, 1, .ro, 0x0, 96⟩, ⟨16, 15, .ro, 0x0, 96⟩, ⟨0, 16, .ro, 0x0, 96⟩]⟩,
  ⟨.LN_RXPC, 0x6104000, [(0x10000, 12), (0x4, 256)], 1,
    [⟨31, 1, .rw, 0x0, 96⟩, ⟨22, 5, .rw, 0x0, 96⟩, ⟨16, 6, .rw, 0x0, 96⟩, ⟨0, 16, .rw, 0x0, 96⟩]⟩,
  ⟨.CP_CFG, 0x7000000, [(0x200000, 8)], 1,
    [⟨31, 1, .rw, 0x1, 96⟩, ⟨24, 4, .rw, 0x6, 96⟩, ⟨20, 4, .rw, 0x3, 96⟩, ⟨8, 8, .rw, 0x8, 96⟩]⟩,
  ⟨.CP_STAT, 0x7000004, [(0x200000, 8)], 1,
    [⟨29, 3, .ro, 0x0, 96⟩, ⟨28, 1, .ro, 0x0, 96⟩, ⟨27, 1, .ro, 0x0, 96⟩, ⟨26, 1, .ro, 0x0, 96⟩, ⟨25, 1, .ro, 0x0, 96⟩, ⟨24, 1, .ro, 0x0, 96⟩, ⟨23, 1, .ro, 0x0, 96⟩, ⟨16, 2, .ro, 0x0, 96⟩, ⟨0, 12, .ro, 0x0, 96⟩]⟩]

/-- Part 4 of the register table, in the order of the chapters. -/
def regTable4 : List RegRow := [
  ⟨.CP_DELAY, 0x7000008, [(0x200000, 8)], 1,
    [⟨16, 8, .ro, 0x0, 96⟩, ⟨0, 16, .ro, 0x0, 96⟩]⟩,
  ⟨.CP_RPDLY, 0x700000C, [(0x200000, 8)], 1,
    [⟨16, 16, .ro, 0x0, 96⟩, ⟨0, 16, .ro, 0x0, 96⟩]⟩,
  ⟨.CP_LOAD, 0x7000010, [(0x200000, 8), (0x4, 4)], 1,
    [⟨16, 16, .ro, 0x0, 96⟩, ⟨8, 8, .ro, 0x0, 96⟩]⟩,
  ⟨.CP_CAR, 0x7000020, [(0x200000, 8)], 1,
    [⟨31, 1, .rw, 0x0, 96⟩, ⟨26, 2, .rw, 0x3, 96⟩, ⟨24, 2, .rw, 0x3, 96⟩]⟩,
  ⟨.CP_UCFG, 0x7000024, [(0x200000, 8)], 1,
    [⟨31, 1, .rw, 0x0, 96⟩, ⟨26, 5, .rw, 0x0, 96⟩, ⟨25, 1, .rw, 0x0, 96⟩, ⟨20, 5, .rw, 0x0, 96⟩]⟩,
  ⟨.CP_TXATT, 0x7000028, [(0x200000, 8)], 1,
    [⟨0, 8, .rw, 0x0, 96⟩, ⟨8, 8, .rw, 0x0, 96⟩, ⟨16, 8, .rw, 0x0, 96⟩, ⟨24, 8, .rw, 0x0, 96⟩]⟩,
  ⟨.CP_RPSTAT, 0x7000030, [(0x200000, 8)], 1,
    [⟨24, 8, .ro, 0x0, 96⟩, ⟨0, 16, .ro, 0x0, 96⟩]⟩,
  ⟨.CP_QSTAT, 0x7000034, [(0x200000, 8)], 1,
    [⟨16, 6, .ro, 0x0, 96⟩, ⟨8, 7, .ro, 0x0, 96⟩, ⟨0, 5, .ro, 0x0, 96⟩]⟩,
  ⟨.CP_CNT, 0x7000100, [(0x200000, 8), (0x4, 10)], 1,
    [⟨0, 32, .ro, 0x0, 96⟩]⟩,
  ⟨.TK_NS, 0x2000000, [], 1,
    [⟨0, 32, .ro, 0x0, 96⟩]⟩,
  ⟨.TK_STAT, 0x2000004, [], 1,
    [⟨31, 1, .ro, 0x0, 96⟩, ⟨12, 4, .ro, 0x0, 96⟩, ⟨8, 3, .ro, 0x0, 96⟩, ⟨0, 3, .ro, 0x0, 96⟩]⟩,
  ⟨.TK_OFFSET, 0x2000008, [], 1,
    [⟨0, 32, .ro, 0x0, 96⟩]⟩,
  ⟨.TK_FADJ, 0x200000C, [], 1,
    [⟨0, 32, .ro, 0x0, 96⟩]⟩,
  ⟨.TK_EFCW, 0x2000010, [], 1,
    [⟨0, 24, .ro, 0x0, 96⟩]⟩,
  ⟨.TK_DROP, 0x2000014, [], 1,
    [⟨16, 16, .ro, 0x0, 96⟩, ⟨0, 16, .ro, 0x0, 96⟩]⟩,
  ⟨.TK_ANCHOR, 0x2000040, [], 16,
    [⟨0, 32, .ro, 0x0, 96⟩, ⟨32, 32, .ro, 0x0, 96⟩, ⟨64, 32, .ro, 0x0, 96⟩, ⟨96, 16, .ro, 0x0, 96⟩, ⟨128, 32, .ro, 0x0, 96⟩, ⟨160, 32, .ro, 0x0, 96⟩, ⟨195, 1, .ro, 0x0, 96⟩, ⟨192, 3, .ro, 0x0, 96⟩]⟩,
  ⟨.TK_PPSCAP, 0x2000080, [], 2,
    [⟨63, 1, .ro, 0x0, 96⟩, ⟨0, 32, .ro, 0x0, 96⟩]⟩,
  ⟨.TK_CAL, 0x20000C0, [(0x4, 64)], 1,
    [⟨0, 16, .ro, 0x0, 96⟩]⟩,
  ⟨.TK_EVIN, 0x2000200, [(0x8, 16)], 2,
    [⟨32, 32, .ro, 0x0, 96⟩, ⟨0, 32, .ro, 0x0, 96⟩]⟩,
  ⟨.AO_CHSTAT, 0x8000000, [(0x40, 8)], 1,
    [⟨31, 1, .w1c, 0x0, 238⟩, ⟨28, 3, .ro, 0x0, 238⟩, ⟨27, 1, .ro, 0x0, 238⟩, ⟨26, 1, .ro, 0x0, 238⟩, ⟨25, 1, .ro, 0x0, 238⟩, ⟨24, 1, .ro, 0x0, 96⟩, ⟨16, 6, .ro, 0x0, 96⟩, ⟨0, 16, .ro, 0x0, 238⟩]⟩]

/-- Part 5 of the register table, in the order of the chapters. -/
def regTable5 : List RegRow := [
  ⟨.AO_CHTGT, 0x8000004, [(0x40, 8)], 1,
    [⟨16, 16, .ro, 0x0, 238⟩, ⟨0, 16, .ro, 0x0, 238⟩]⟩,
  ⟨.AO_CHSLEW, 0x8000008, [(0x40, 8)], 1,
    [⟨12, 16, .ro, 0x63, 238⟩, ⟨0, 12, .ro, 0xF, 238⟩]⟩,
  ⟨.AO_CHCNT, 0x800000C, [(0x40, 8)], 1,
    [⟨16, 16, .ro, 0x0, 96⟩, ⟨0, 16, .ro, 0x0, 238⟩]⟩,
  ⟨.AO_MON, 0x8001000, [(0x10, 12)], 1,
    [⟨31, 1, .ro, 0x0, 238⟩, ⟨30, 1, .ro, 0x0, 238⟩, ⟨29, 1, .w1c, 0x0, 238⟩, ⟨0, 24, .ro, 0x0, 238⟩]⟩,
  ⟨.AO_GSTAT, 0x8002000, [], 1,
    [⟨31, 1, .ro, 0x0, 238⟩, ⟨30, 1, .w1c, 0x0, 238⟩, ⟨0, 8, .ro, 0x0, 238⟩]⟩,
  ⟨.PW_MODE, 0x1000000, [], 1,
    [⟨16, 8, .ro, 0x0, 96⟩, ⟨8, 8, .ro, 0x0, 96⟩, ⟨4, 4, .ro, 0x0, 96⟩, ⟨0, 4, .ro, 0x0, 96⟩]⟩,
  ⟨.PW_RSTCAUSE, 0x1000004, [], 1,
    [⟨31, 1, .w1c, 0x0, 254⟩, ⟨0, 16, .ro, 0x0, 254⟩]⟩,
  ⟨.PW_RSTKIND, 0x1000008, [], 1,
    [⟨0, 3, .ro, 0x0, 254⟩]⟩,
  ⟨.PW_WAKEREC, 0x1000010, [], 1,
    [⟨31, 1, .ro, 0x0, 254⟩, ⟨30, 1, .ro, 0x0, 254⟩, ⟨16, 4, .ro, 0x0, 254⟩, ⟨0, 16, .ro, 0x0, 254⟩]⟩,
  ⟨.PW_WAKESEC_LO, 0x1000014, [], 1,
    [⟨0, 32, .ro, 0x0, 254⟩]⟩,
  ⟨.PW_WAKESEC_HI, 0x1000018, [], 1,
    [⟨0, 16, .ro, 0x0, 254⟩]⟩,
  ⟨.PW_ALARM, 0x100001C, [], 1,
    [⟨0, 32, .ro, 0x0, 238⟩]⟩,
  ⟨.PW_SLEEPSTAT, 0x1000020, [], 1,
    [⟨31, 1, .ro, 0x0, 96⟩, ⟨30, 1, .ro, 0x0, 96⟩, ⟨16, 9, .ro, 0x0, 96⟩, ⟨0, 9, .ro, 0x0, 96⟩]⟩,
  ⟨.PW_DOMSTAT, 0x1000100, [(0x4, 11)], 1,
    [⟨0, 32, .ro, 0xFFFFFFFF, 96⟩]⟩,
  ⟨.PW_ISLAND, 0x1000200, [(0x4, 28)], 1,
    [⟨31, 1, .ro, 0x0, 96⟩, ⟨4, 3, .ro, 0x0, 96⟩, ⟨0, 3, .ro, 0x0, 96⟩]⟩,
  ⟨.NV_BOOTSTAT, 0x4000000, [], 1,
    [⟨29, 1, .ro, 0x0, 96⟩, ⟨28, 1, .ro, 0x0, 96⟩, ⟨24, 3, .ro, 0x0, 96⟩, ⟨20, 3, .ro, 0x0, 96⟩, ⟨16, 3, .ro, 0x0, 96⟩, ⟨8, 8, .ro, 0x0, 96⟩]⟩,
  ⟨.NV_FUSE, 0x4000004, [], 1,
    [⟨28, 4, .ro, 0x0, 255⟩, ⟨16, 7, .ro, 0x0, 255⟩, ⟨8, 7, .ro, 0x0, 255⟩, ⟨0, 7, .ro, 0x0, 255⟩]⟩,
  ⟨.NV_WEAR, 0x4000100, [(0x4, 6)], 1,
    [⟨0, 32, .ro, 0x0, 255⟩]⟩,
  ⟨.SEC_STAT, 0x5000000, [], 1,
    [⟨31, 1, .ro, 0x0, 96⟩, ⟨30, 1, .ro, 0x0, 96⟩, ⟨24, 4, .ro, 0x0, 96⟩, ⟨16, 4, .ro, 0x0, 96⟩]⟩,
  ⟨.GB_HEAD, 0x3000000, [], 1,
    [⟨0, 32, .ro, 0x0, 96⟩]⟩]

/-- Part 6 of the register table, in the order of the chapters. -/
def regTable6 : List RegRow := [
  ⟨.GB_STAT, 0x3000004, [], 1,
    [⟨31, 1, .ro, 0x0, 96⟩, ⟨30, 1, .ro, 0x0, 96⟩, ⟨0, 14, .ro, 0x0, 96⟩]⟩,
  ⟨.GB_FLUSHSEQ, 0x3000008, [], 1,
    [⟨0, 32, .ro, 0x0, 96⟩]⟩,
  ⟨.GB_EVLOST, 0x300000C, [], 1,
    [⟨0, 32, .ro, 0x0, 96⟩]⟩,
  ⟨.GB_RECLOST, 0x3000010, [], 1,
    [⟨0, 32, .ro, 0x0, 96⟩]⟩,
  ⟨.GB_INKFAIL, 0x3000014, [], 1,
    [⟨0, 32, .ro, 0x0, 96⟩]⟩,
  ⟨.GB_OLDEST, 0x3000018, [], 1,
    [⟨0, 32, .ro, 0x0, 96⟩]⟩,
  ⟨.GB_ROUTE, 0x3001000, [(0x4, 1536)], 1,
    [⟨26, 1, .ro, 0x0, 96⟩, ⟨24, 2, .ro, 0x0, 96⟩, ⟨10, 14, .ro, 0x0, 96⟩, ⟨9, 1, .ro, 0x1, 96⟩, ⟨8, 1, .ro, 0x0, 96⟩, ⟨0, 8, .ro, 0x0, 96⟩]⟩,
  ⟨.GB_VECSTAT, 0x3003000, [(0x4, 256)], 1,
    [⟨16, 16, .ro, 0x0, 96⟩, ⟨0, 11, .ro, 0x0, 96⟩]⟩,
  ⟨.CP_RXATT, 0x700002C, [(0x200000, 8)], 1,
    [⟨0, 8, .rw, 0x0, 96⟩, ⟨8, 8, .rw, 0x0, 96⟩, ⟨16, 8, .rw, 0x0, 96⟩, ⟨24, 8, .rw, 0x0, 96⟩]⟩,
  ⟨.HUB_CQBASE, 0x100008, [(0x40, 16)], 2,
    [⟨12, 35, .rw, 0x0, 96⟩, ⟨0, 4, .rw, 0x4, 96⟩]⟩,
  ⟨.PT_ERRDESC, 0x200C01020, [(0x1000000, 24)], 2,
    [⟨0, 48, .ro, 0x0, 0⟩]⟩,
  ⟨.PT_ERRDESC, 0xA001020, [], 2,
    [⟨0, 48, .ro, 0x0, 96⟩]⟩,
  ⟨.CX_TRIGCMD, 0x200801000, [(0x1000000, 24), (0x400, 2), (0x20, 16), (0x4, 4)], 1,
    [⟨0, 32, .rw, 0x0, 0⟩]⟩]

/-- The register table of the module. -/
def regTable : List RegRow :=
  regTable0 ++ regTable1 ++ regTable2 ++ regTable3 ++ regTable4 ++ regTable5 ++ regTable6

def TP_XSTAT.adr (i : Nat) : Nat := 0xE400F00 + 0x1000 * i
def TP_WEIGHT.adr (q p : Nat) : Nat := 0xE000000 + 0x10000 * q + 0x4 * p
def TP_DEAD0.adr : Nat := 0xE800000
def TP_DEAD1.adr : Nat := 0xE800004
def TP_ERRINFO.adr : Nat := 0xE800010
def TP_ERRADDR_LO.adr : Nat := 0xE800014
def TP_ERRADDR_HI.adr : Nat := 0xE800018
def TP_SRCCFG.adr (s : Nat) : Nat := 0xE800100 + 0x4 * s
def TP_ABSORB.adr (i : Nat) : Nat := 0xE800400 + 0x4 * i
def CX_STAT.adr (k u : Nat) : Nat := 0x200800000 + 0x1000000 * k + 0x400 * u
def CX_BIND.adr (k u i : Nat) : Nat := 0x200800010 + 0x1000000 * k + 0x400 * u + 0x4 * i
def CX_CTXST.adr (k u c : Nat) : Nat := 0x200800800 + 0x1000000 * k + 0x400 * u + 0x4 * c
def CX_TRIGCTL.adr (k u s : Nat) : Nat := 0x200801010 + 0x1000000 * k + 0x400 * u + 0x20 * s
def INK_STAT.adr (r : Nat) : Nat := 0x300C00000 + 0x1000000 * r
def INK_OCC.adr (r : Nat) : Nat := 0x300C00004 + 0x1000000 * r
def INK_CFG.adr (r : Nat) : Nat := 0x300C00010 + 0x1000000 * r
def INK_CREDIT.adr (r s : Nat) : Nat := 0x300C00100 + 0x1000000 * r + 0x4 * s
def INK_ACCEPT.adr (r s : Nat) : Nat := 0x300C00200 + 0x1000000 * r + 0x4 * s
def INK_FLOW.adr (r f : Nat) : Nat := 0x300C02000 + 0x1000000 * r + 0x4 * f
def INK_LAGTHR.adr (r c : Nat) : Nat := 0x300C03000 + 0x1000000 * r + 0x4 * c
def INK_LAGHOLD.adr (r : Nat) : Nat := 0x300C03020 + 0x1000000 * r
def INK_UNIT.adr (r u : Nat) : Nat := 0x300C03100 + 0x1000000 * r + 0x4 * u
def INK_CTR.adr (r i : Nat) : Nat := 0x300C80000 + 0x1000000 * r + 0x4 * i
def RA_GSTAT.adr (r : Nat) : Nat := 0x300800000 + 0x1000000 * r
def RA_ENGSTAT.adr (r e : Nat) : Nat := 0x300800100 + 0x1000000 * r + 0x4 * e
def RA_JOBLIM.adr (r e : Nat) : Nat := 0x300800200 + 0x1000000 * r + 0x4 * e
def RA_JOBCNT.adr (r e : Nat) : Nat := 0x300800300 + 0x1000000 * r + 0x4 * e
def RA_FAILCNT.adr (r e : Nat) : Nat := 0x300800400 + 0x1000000 * r + 0x4 * e
def RA_ERRINFO.adr (r : Nat) : Nat := 0x300800800 + 0x1000000 * r
def RA_ERRTAG.adr (r : Nat) : Nat := 0x300800804 + 0x1000000 * r
def RA_ERRADDR_LO.adr (r : Nat) : Nat := 0x300800808 + 0x1000000 * r
def RA_ERRADDR_HI.adr (r : Nat) : Nat := 0x30080080C + 0x1000000 * r
def HUB_SQBASE.adr (n : Nat) : Nat := 0x100000 + 0x40 * n
def HUB_RINGCTL.adr (n : Nat) : Nat := 0x100010 + 0x40 * n
def HUB_RINGSTAT.adr (n : Nat) : Nat := 0x100014 + 0x40 * n
def HUB_CQSTAT.adr (n : Nat) : Nat := 0x100018 + 0x40 * n
def HUB_CQLOST.adr (n : Nat) : Nat := 0x10001C + 0x40 * n
def HUB_RINGGLB.adr : Nat := 0x100400
def HUB_DDRSTAT.adr (c : Nat) : Nat := 0x9000000 + 0x1000 * c
def HUB_CECNT.adr (u : Nat) : Nat := 0x140000 + 0x400 * u
def HUB_UECNT.adr (u : Nat) : Nat := 0x140004 + 0x400 * u
def HUB_ECCDROP.adr (u : Nat) : Nat := 0x140008 + 0x400 * u
def HUB_ECCCTL.adr (u : Nat) : Nat := 0x14000C + 0x400 * u
def HUB_UEADDR_LO.adr (u : Nat) : Nat := 0x140010 + 0x400 * u
def HUB_UEADDR_HI.adr (u : Nat) : Nat := 0x140014 + 0x400 * u
def HUB_ECCENT.adr (u i : Nat) : Nat := 0x140100 + 0x400 * u + 0x10 * i
def LN_LANECFG.adr (l : Nat) : Nat := 0x6000000 + 0x100 * l
def LN_LANESTAT.adr (l : Nat) : Nat := 0x6000004 + 0x100 * l
def LN_PCIESTAT.adr : Nat := 0x6010000
def LN_PORTCFG.adr (p : Nat) : Nat := 0x6100000 + 0x10000 * p
def LN_PORTSTAT.adr (p : Nat) : Nat := 0x6100008 + 0x10000 * p
def LN_CNT.adr (p i : Nat) : Nat := 0x6100100 + 0x10000 * p + 0x4 * i
def LN_TXQSTAT.adr (p q : Nat) : Nat := 0x6101100 + 0x10000 * p + 0x4 * q
def LN_RXGRP.adr (p g : Nat) : Nat := 0x6102000 + 0x10000 * p + 0x10 * g
def LN_RXBST.adr (p g : Nat) : Nat := 0x6103800 + 0x10000 * p + 0x4 * g
def LN_RXPC.adr (p i : Nat) : Nat := 0x6104000 + 0x10000 * p + 0x4 * i
def CP_CFG.adr (p : Nat) : Nat := 0x7000000 + 0x200000 * p
def CP_STAT.adr (p : Nat) : Nat := 0x7000004 + 0x200000 * p
def CP_DELAY.adr (p : Nat) : Nat := 0x7000008 + 0x200000 * p
def CP_RPDLY.adr (p : Nat) : Nat := 0x700000C + 0x200000 * p
def CP_LOAD.adr (p q : Nat) : Nat := 0x7000010 + 0x200000 * p + 0x4 * q
def CP_CAR.adr (p : Nat) : Nat := 0x7000020 + 0x200000 * p
def CP_UCFG.adr (p : Nat) : Nat := 0x7000024 + 0x200000 * p
def CP_TXATT.adr (p : Nat) : Nat := 0x7000028 + 0x200000 * p
def CP_RPSTAT.adr (p : Nat) : Nat := 0x7000030 + 0x200000 * p
def CP_QSTAT.adr (p : Nat) : Nat := 0x7000034 + 0x200000 * p
def CP_CNT.adr (p i : Nat) : Nat := 0x7000100 + 0x200000 * p + 0x4 * i
def TK_NS.adr : Nat := 0x2000000
def TK_STAT.adr : Nat := 0x2000004
def TK_OFFSET.adr : Nat := 0x2000008
def TK_FADJ.adr : Nat := 0x200000C
def TK_EFCW.adr : Nat := 0x2000010
def TK_DROP.adr : Nat := 0x2000014
def TK_ANCHOR.adr : Nat := 0x2000040
def TK_PPSCAP.adr : Nat := 0x2000080
def TK_CAL.adr (s : Nat) : Nat := 0x20000C0 + 0x4 * s
def TK_EVIN.adr (i : Nat) : Nat := 0x2000200 + 0x8 * i
def AO_CHSTAT.adr (c : Nat) : Nat := 0x8000000 + 0x40 * c
def AO_CHTGT.adr (c : Nat) : Nat := 0x8000004 + 0x40 * c
def AO_CHSLEW.adr (c : Nat) : Nat := 0x8000008 + 0x40 * c
def AO_CHCNT.adr (c : Nat) : Nat := 0x800000C + 0x40 * c
def AO_MON.adr (m : Nat) : Nat := 0x8001000 + 0x10 * m
def AO_GSTAT.adr : Nat := 0x8002000
def PW_MODE.adr : Nat := 0x1000000
def PW_RSTCAUSE.adr : Nat := 0x1000004
def PW_RSTKIND.adr : Nat := 0x1000008
def PW_WAKEREC.adr : Nat := 0x1000010
def PW_WAKESEC_LO.adr : Nat := 0x1000014
def PW_WAKESEC_HI.adr : Nat := 0x1000018
def PW_ALARM.adr : Nat := 0x100001C
def PW_SLEEPSTAT.adr : Nat := 0x1000020
def PW_DOMSTAT.adr (w : Nat) : Nat := 0x1000100 + 0x4 * w
def PW_ISLAND.adr (i : Nat) : Nat := 0x1000200 + 0x4 * i
def NV_BOOTSTAT.adr : Nat := 0x4000000
def NV_FUSE.adr : Nat := 0x4000004
def NV_WEAR.adr (a : Nat) : Nat := 0x4000100 + 0x4 * a
def SEC_STAT.adr : Nat := 0x5000000
def GB_HEAD.adr : Nat := 0x3000000
def GB_STAT.adr : Nat := 0x3000004
def GB_FLUSHSEQ.adr : Nat := 0x3000008
def GB_EVLOST.adr : Nat := 0x300000C
def GB_RECLOST.adr : Nat := 0x3000010
def GB_INKFAIL.adr : Nat := 0x3000014
def GB_OLDEST.adr : Nat := 0x3000018
def GB_ROUTE.adr (s : Nat) : Nat := 0x3001000 + 0x4 * s
def GB_VECSTAT.adr (v : Nat) : Nat := 0x3003000 + 0x4 * v
def CP_RXATT.adr (p : Nat) : Nat := 0x700002C + 0x200000 * p
def HUB_CQBASE.adr (n : Nat) : Nat := 0x100008 + 0x40 * n
def CX_TRIGCMD.adr (k u s w : Nat) : Nat := 0x200801000 + 0x1000000 * k + 0x400 * u + 0x20 * s + 0x4 * w

/-- Base of Porter block b: the clusters' blocks 0 to 23, then the hub block 24 (R86, R87). -/
def ptBase (b : Nat) : Nat := if b < 24 then 0x200C00000 + 0x1000000 * b else 0xA000000
def PT_RINGBASE.adr (b c : Nat) : Nat := ptBase b + 0x40 * c + 0x0
def PT_RINGLEN.adr (b c : Nat) : Nat := ptBase b + 0x40 * c + 0x8
def PT_TAIL.adr (b c : Nat) : Nat := ptBase b + 0x40 * c + 0xC
def PT_CHCTL.adr (b c : Nat) : Nat := ptBase b + 0x40 * c + 0x10
def PT_CHSTAT.adr (b c : Nat) : Nat := ptBase b + 0x40 * c + 0x14
def PT_CUR.adr (b c : Nat) : Nat := ptBase b + 0x40 * c + 0x18
def PT_DONE.adr (b c : Nat) : Nat := ptBase b + 0x40 * c + 0x20
def PT_RELHELD.adr (b c : Nat) : Nat := ptBase b + 0x40 * c + 0x24
def PT_BLKSTAT.adr (b : Nat) : Nat := ptBase b + 0x1000
def PT_ERRINFO.adr (b : Nat) : Nat := ptBase b + 0x1010
def PT_ERRADDR.adr (b : Nat) : Nat := ptBase b + 0x1018
def PT_ERRDESC.adr (b : Nat) : Nat := ptBase b + 0x1020

def TP_XSTAT.XCOUNT : Fld := ⟨24, 8⟩
def TP_XSTAT.FIRST_CAUSE : Fld := ⟨18, 2⟩
def TP_XSTAT.FIRST_KIND : Fld := ⟨16, 2⟩
def TP_XSTAT.FIRST_IDX : Fld := ⟨8, 8⟩
def TP_XSTAT.ISO : Fld := ⟨4, 1⟩
def TP_XSTAT.DISC : Fld := ⟨3, 1⟩
def TP_XSTAT.TMO : Fld := ⟨1, 1⟩
def TP_XSTAT.LOST : Fld := ⟨0, 1⟩
def TP_WEIGHT.WEIGHT : Fld := ⟨0, 8⟩
def TP_DEAD0.DEAD : Fld := ⟨0, 32⟩
def TP_DEAD1.DEAD : Fld := ⟨0, 31⟩
def TP_ERRINFO.VALID : Fld := ⟨31, 1⟩
def TP_ERRINFO.STATUS : Fld := ⟨20, 3⟩
def TP_ERRINFO.SRC : Fld := ⟨14, 6⟩
def TP_ERRINFO.ISLAND : Fld := ⟨8, 6⟩
def TP_ERRINFO.TAG : Fld := ⟨0, 8⟩
def TP_ERRADDR_LO.ADDR : Fld := ⟨6, 26⟩
def TP_ERRADDR_HI.ADDR : Fld := ⟨0, 16⟩
def TP_SRCCFG.LOCK : Fld := ⟨31, 1⟩
def TP_SRCCFG.MAXPRI : Fld := ⟨2, 2⟩
def TP_SRCCFG.DEFPRI : Fld := ⟨0, 2⟩
def TP_ABSORB.COUNT : Fld := ⟨0, 32⟩
def CX_STAT.QFILL : Fld := ⟨16, 6⟩
def CX_STAT.UNAVAIL : Fld := ⟨3, 1⟩
def CX_STAT.SAT : Fld := ⟨2, 1⟩
def CX_STAT.ERR : Fld := ⟨1, 1⟩
def CX_STAT.BUSY : Fld := ⟨0, 1⟩
def CX_BIND.VALID : Fld := ⟨31, 1⟩
def CX_BIND.DEPTH : Fld := ⟨8, 2⟩
def CX_BIND.CORE : Fld := ⟨0, 8⟩
def CX_CTXST.LASTERR : Fld := ⟨8, 8⟩
def CX_CTXST.HAZ : Fld := ⟨4, 1⟩
def CX_CTXST.NOTPD : Fld := ⟨3, 1⟩
def CX_CTXST.SAT : Fld := ⟨2, 1⟩
def CX_CTXST.ERR : Fld := ⟨1, 1⟩
def CX_TRIGCTL.EN : Fld := ⟨31, 1⟩
def CX_TRIGCTL.LOST : Fld := ⟨30, 1⟩
def CX_TRIGCTL.CTX : Fld := ⟨16, 6⟩
def CX_TRIGCTL.PEND : Fld := ⟨0, 16⟩
def INK_STAT.PAUSE : Fld := ⟨31, 1⟩
def INK_STAT.CREDHOLD : Fld := ⟨30, 1⟩
def INK_STAT.RESFREE : Fld := ⟨16, 9⟩
def INK_STAT.CSLOT : Fld := ⟨0, 6⟩
def INK_OCC.READY : Fld := ⟨16, 12⟩
def INK_OCC.POOLFREE : Fld := ⟨0, 12⟩
def INK_CFG.RLWARN : Fld := ⟨16, 12⟩
def INK_CFG.CREDLOW : Fld := ⟨0, 12⟩
def INK_CREDIT.GRANT : Fld := ⟨0, 32⟩
def INK_ACCEPT.COUNT : Fld := ⟨0, 32⟩
def INK_FLOW.OPEN : Fld := ⟨31, 1⟩
def INK_FLOW.STALL : Fld := ⟨30, 1⟩
def INK_FLOW.HELD : Fld := ⟨16, 10⟩
def INK_FLOW.NEXT : Fld := ⟨0, 16⟩
def INK_LAGTHR.THRESH : Fld := ⟨0, 24⟩
def INK_LAGHOLD.HOLD : Fld := ⟨0, 24⟩
def INK_UNIT.LAG : Fld := ⟨31, 1⟩
def INK_UNIT.UNAVAIL : Fld := ⟨30, 1⟩
def INK_UNIT.DEPTH : Fld := ⟨28, 2⟩
def INK_UNIT.INFLIGHT : Fld := ⟨25, 3⟩
def INK_UNIT.LASTSVC : Fld := ⟨0, 24⟩
def INK_CTR.STATE : Fld := ⟨30, 2⟩
def INK_CTR.PRI : Fld := ⟨27, 3⟩
def INK_CTR.POOL : Fld := ⟨16, 11⟩
def INK_CTR.COUNT : Fld := ⟨0, 12⟩
def RA_GSTAT.PAUSED : Fld := ⟨31, 1⟩
def RA_GSTAT.GUARD : Fld := ⟨16, 5⟩
def RA_GSTAT.UNAVAIL : Fld := ⟨0, 12⟩
def RA_ENGSTAT.BUSY : Fld := ⟨31, 1⟩
def RA_ENGSTAT.STAGED : Fld := ⟨30, 1⟩
def RA_ENGSTAT.HWAIT : Fld := ⟨29, 1⟩
def RA_ENGSTAT.UNAVAIL : Fld := ⟨28, 1⟩
def RA_ENGSTAT.ERR : Fld := ⟨27, 1⟩
def RA_ENGSTAT.LASTCODE : Fld := ⟨16, 8⟩
def RA_ENGSTAT.LASTTAG : Fld := ⟨0, 16⟩
def RA_JOBLIM.LIMIT : Fld := ⟨0, 32⟩
def RA_JOBCNT.COUNT : Fld := ⟨0, 32⟩
def RA_FAILCNT.ERRJOBS : Fld := ⟨16, 16⟩
def RA_FAILCNT.CRCFAIL : Fld := ⟨0, 16⟩
def RA_ERRINFO.VALID : Fld := ⟨31, 1⟩
def RA_ERRINFO.ENGINE : Fld := ⟨24, 4⟩
def RA_ERRINFO.STATUS : Fld := ⟨8, 16⟩
def RA_ERRINFO.JOBTYPE : Fld := ⟨0, 8⟩
def RA_ERRTAG.JOBTAG : Fld := ⟨0, 32⟩
def RA_ERRADDR_LO.ADDR : Fld := ⟨6, 26⟩
def RA_ERRADDR_HI.ADDR : Fld := ⟨0, 16⟩
def HUB_SQBASE.BASE : Fld := ⟨12, 35⟩
def HUB_SQBASE.LOG2SIZE : Fld := ⟨0, 4⟩
def HUB_RINGCTL.EN : Fld := ⟨31, 1⟩
def HUB_RINGCTL.SLOT : Fld := ⟨30, 1⟩
def HUB_RINGCTL.CQSEL : Fld := ⟨24, 4⟩
def HUB_RINGCTL.VEC : Fld := ⟨16, 8⟩
def HUB_RINGCTL.IMOD : Fld := ⟨0, 16⟩
def HUB_RINGSTAT.ERR : Fld := ⟨31, 1⟩
def HUB_RINGSTAT.WAITTAIL : Fld := ⟨30, 1⟩
def HUB_RINGSTAT.SQHEAD : Fld := ⟨0, 16⟩
def HUB_CQSTAT.HELD : Fld := ⟨16, 13⟩
def HUB_CQSTAT.CQTAIL : Fld := ⟨0, 16⟩
def HUB_CQLOST.COUNT : Fld := ⟨0, 32⟩
def HUB_RINGGLB.READY : Fld := ⟨0, 1⟩
def HUB_DDRSTAT.READY : Fld := ⟨31, 1⟩
def HUB_DDRSTAT.TRAINFAIL : Fld := ⟨30, 1⟩
def HUB_DDRSTAT.GEOMETRY : Fld := ⟨24, 4⟩
def HUB_DDRSTAT.RATE : Fld := ⟨0, 16⟩
def HUB_CECNT.COUNT : Fld := ⟨0, 32⟩
def HUB_UECNT.COUNT : Fld := ⟨0, 32⟩
def HUB_ECCDROP.COUNT : Fld := ⟨0, 32⟩
def HUB_ECCCTL.CLR : Fld := ⟨31, 1⟩
def HUB_ECCCTL.FULL : Fld := ⟨30, 1⟩
def HUB_ECCCTL.FILL : Fld := ⟨0, 6⟩
def HUB_UEADDR_LO.ADDR : Fld := ⟨0, 32⟩
def HUB_UEADDR_HI.VALID : Fld := ⟨31, 1⟩
def HUB_UEADDR_HI.POISON : Fld := ⟨30, 1⟩
def HUB_UEADDR_HI.KIND : Fld := ⟨16, 4⟩
def HUB_UEADDR_HI.ADDR : Fld := ⟨0, 16⟩
def HUB_ECCENT.ADDR : Fld := ⟨0, 32⟩
def HUB_ECCENT.VALID : Fld := ⟨63, 1⟩
def HUB_ECCENT.POS : Fld := ⟨56, 7⟩
def HUB_ECCENT.KIND : Fld := ⟨52, 4⟩
def HUB_ECCENT.ADDR_HI : Fld := ⟨32, 16⟩
def HUB_ECCENT.HITS : Fld := ⟨64, 32⟩
def PT_RINGBASE.BASE : Fld := ⟨5, 43⟩
def PT_RINGLEN.RLEN : Fld := ⟨0, 13⟩
def PT_TAIL.TAIL : Fld := ⟨0, 12⟩
def PT_CHCTL.EN : Fld := ⟨31, 1⟩
def PT_CHCTL.CUT : Fld := ⟨30, 1⟩
def PT_CHCTL.PRI : Fld := ⟨28, 2⟩
def PT_CHSTAT.RUN : Fld := ⟨31, 1⟩
def PT_CHSTAT.PEND : Fld := ⟨30, 1⟩
def PT_CHSTAT.PAUSED : Fld := ⟨29, 1⟩
def PT_CHSTAT.TAILERR : Fld := ⟨28, 1⟩
def PT_CHSTAT.BAD : Fld := ⟨27, 1⟩
def PT_CHSTAT.INCHAIN : Fld := ⟨26, 1⟩
def PT_CHSTAT.ALEN : Fld := ⟨13, 13⟩
def PT_CHSTAT.HEAD : Fld := ⟨0, 12⟩
def PT_CUR.CUR : Fld := ⟨5, 43⟩
def PT_DONE.COUNT : Fld := ⟨0, 32⟩
def PT_RELHELD.COUNT : Fld := ⟨0, 16⟩
def PT_BLKSTAT.RUN : Fld := ⟨0, 32⟩
def PT_ERRINFO.VALID : Fld := ⟨31, 1⟩
def PT_ERRINFO.STATUS : Fld := ⟨8, 8⟩
def PT_ERRINFO.CHAN : Fld := ⟨0, 5⟩
def PT_ERRADDR.ADDR : Fld := ⟨0, 48⟩
def LN_LANECFG.AUTO : Fld := ⟨31, 1⟩
def LN_LANECFG.TXINV : Fld := ⟨30, 1⟩
def LN_LANECFG.RXINV : Fld := ⟨29, 1⟩
def LN_LANECFG.CTLE : Fld := ⟨20, 4⟩
def LN_LANECFG.TXPOST : Fld := ⟨11, 5⟩
def LN_LANECFG.TXPRE : Fld := ⟨7, 4⟩
def LN_LANESTAT.SIGDET : Fld := ⟨31, 1⟩
def LN_LANESTAT.LOCK : Fld := ⟨30, 1⟩
def LN_LANESTAT.CTLEACT : Fld := ⟨26, 4⟩
def LN_LANESTAT.LOOP : Fld := ⟨0, 3⟩
def LN_PCIESTAT.UP : Fld := ⟨31, 1⟩
def LN_PCIESTAT.BME : Fld := ⟨30, 1⟩
def LN_PCIESTAT.WIDTH : Fld := ⟨16, 8⟩
def LN_PCIESTAT.SPEED : Fld := ⟨0, 8⟩
def LN_PORTCFG.EN : Fld := ⟨31, 1⟩
def LN_PORTCFG.IML : Fld := ⟨30, 1⟩
def LN_PORTCFG.PEERV : Fld := ⟨29, 1⟩
def LN_PORTCFG.PEER : Fld := ⟨25, 4⟩
def LN_PORTCFG.PCP : Fld := ⟨12, 3⟩
def LN_PORTCFG.VLAN : Fld := ⟨0, 12⟩
def LN_PORTSTAT.UP : Fld := ⟨31, 1⟩
def LN_PORTSTAT.PEERBAD : Fld := ⟨30, 1⟩
def LN_PORTSTAT.PMODID : Fld := ⟨8, 4⟩
def LN_PORTSTAT.PPORT : Fld := ⟨4, 4⟩
def LN_CNT.COUNT : Fld := ⟨0, 32⟩
def LN_TXQSTAT.OVF : Fld := ⟨16, 16⟩
def LN_TXQSTAT.FILL : Fld := ⟨0, 9⟩
def LN_RXGRP.EN : Fld := ⟨63, 1⟩
def LN_RXGRP.CHAN : Fld := ⟨53, 5⟩
def LN_RXGRP.NBLKM1 : Fld := ⟨49, 4⟩
def LN_RXGRP.COMPW : Fld := ⟨44, 5⟩
def LN_RXGRP.NPRB : Fld := ⟨34, 10⟩
def LN_RXGRP.NSM1 : Fld := ⟨28, 6⟩
def LN_RXGRP.VBASE : Fld := ⟨14, 14⟩
def LN_RXBST.TIMED : Fld := ⟨31, 1⟩
def LN_RXBST.MISSING : Fld := ⟨16, 15⟩
def LN_RXBST.SYMID : Fld := ⟨0, 16⟩
def LN_RXPC.VALID : Fld := ⟨31, 1⟩
def LN_RXPC.GROUP : Fld := ⟨22, 5⟩
def LN_RXPC.POS : Fld := ⟨16, 6⟩
def LN_RXPC.PCID : Fld := ⟨0, 16⟩
def CP_CFG.AUTORT : Fld := ⟨31, 1⟩
def CP_CFG.MARGIN : Fld := ⟨24, 4⟩
def CP_CFG.MINMARG : Fld := ⟨20, 4⟩
def CP_CFG.RTTHR : Fld := ⟨8, 8⟩
def CP_STAT.STATE : Fld := ⟨29, 3⟩
def CP_STAT.RATE : Fld := ⟨28, 1⟩
def CP_STAT.TXTAB : Fld := ⟨27, 1⟩
def CP_STAT.RXTAB : Fld := ⟨26, 1⟩
def CP_STAT.TXSWP : Fld := ⟨25, 1⟩
def CP_STAT.RXSWP : Fld := ⟨24, 1⟩
def CP_STAT.LOCK : Fld := ⟨23, 1⟩
def CP_STAT.FAILS : Fld := ⟨16, 2⟩
def CP_STAT.PAIRMAP : Fld := ⟨0, 12⟩
def CP_DELAY.SKEW : Fld := ⟨16, 8⟩
def CP_DELAY.CABLE : Fld := ⟨0, 16⟩
def CP_RPDLY.DRX : Fld := ⟨16, 16⟩
def CP_RPDLY.DTX : Fld := ⟨0, 16⟩
def CP_LOAD.BITS : Fld := ⟨16, 16⟩
def CP_LOAD.MINMARGIN : Fld := ⟨8, 8⟩
def CP_CAR.VALID : Fld := ⟨31, 1⟩
def CP_CAR.FSSEL : Fld := ⟨26, 2⟩
def CP_CAR.NANTM1 : Fld := ⟨24, 2⟩
def CP_UCFG.UEN : Fld := ⟨31, 1⟩
def CP_UCFG.UCHAN : Fld := ⟨26, 5⟩
def CP_UCFG.MEN : Fld := ⟨25, 1⟩
def CP_UCFG.MCHAN : Fld := ⟨20, 5⟩
def CP_TXATT.ATT0 : Fld := ⟨0, 8⟩
def CP_TXATT.ATT1 : Fld := ⟨8, 8⟩
def CP_TXATT.ATT2 : Fld := ⟨16, 8⟩
def CP_TXATT.ATT3 : Fld := ⟨24, 8⟩
def CP_RPSTAT.STATUS : Fld := ⟨24, 8⟩
def CP_RPSTAT.TEMP : Fld := ⟨0, 16⟩
def CP_QSTAT.ARMS : Fld := ⟨16, 6⟩
def CP_QSTAT.SWQ : Fld := ⟨8, 7⟩
def CP_QSTAT.MTX : Fld := ⟨0, 5⟩
def CP_CNT.COUNT : Fld := ⟨0, 32⟩
def TK_NS.NS : Fld := ⟨0, 32⟩
def TK_STAT.EXTSET : Fld := ⟨31, 1⟩
def TK_STAT.SRCPORT : Fld := ⟨12, 4⟩
def TK_STAT.SRC : Fld := ⟨8, 3⟩
def TK_STAT.STATE : Fld := ⟨0, 3⟩
def TK_OFFSET.OFFSET : Fld := ⟨0, 32⟩
def TK_FADJ.FADJ : Fld := ⟨0, 32⟩
def TK_EFCW.W : Fld := ⟨0, 24⟩
def TK_DROP.LATE : Fld := ⟨16, 16⟩
def TK_DROP.LOST : Fld := ⟨0, 16⟩
def TK_ANCHOR.AT : Fld := ⟨0, 32⟩
def TK_ANCHOR.AN : Fld := ⟨32, 32⟩
def TK_ANCHOR.AS : Fld := ⟨64, 32⟩
def TK_ANCHOR.AS_HI : Fld := ⟨96, 16⟩
def TK_ANCHOR.GEN : Fld := ⟨128, 32⟩
def TK_ANCHOR.TAIUTC : Fld := ⟨160, 32⟩
def TK_ANCHOR.EXTSET : Fld := ⟨195, 1⟩
def TK_ANCHOR.STATE : Fld := ⟨192, 3⟩
def TK_PPSCAP.VALID : Fld := ⟨63, 1⟩
def TK_PPSCAP.C : Fld := ⟨0, 32⟩
def TK_CAL.K : Fld := ⟨0, 16⟩
def TK_EVIN.STAMP : Fld := ⟨32, 32⟩
def TK_EVIN.COUNT : Fld := ⟨0, 32⟩
def AO_CHSTAT.FAULT : Fld := ⟨31, 1⟩
def AO_CHSTAT.FCAUSE : Fld := ⟨28, 3⟩
def AO_CHSTAT.HOLD : Fld := ⟨27, 1⟩
def AO_CHSTAT.GAIN : Fld := ⟨26, 1⟩
def AO_CHSTAT.SLEWING : Fld := ⟨25, 1⟩
def AO_CHSTAT.TKOWN : Fld := ⟨24, 1⟩
def AO_CHSTAT.QSTEPS : Fld := ⟨16, 6⟩
def AO_CHSTAT.CODE : Fld := ⟨0, 16⟩
def AO_CHTGT.SAFE : Fld := ⟨16, 16⟩
def AO_CHTGT.TARGET : Fld := ⟨0, 16⟩
def AO_CHSLEW.PM1 : Fld := ⟨12, 16⟩
def AO_CHSLEW.SM1 : Fld := ⟨0, 12⟩
def AO_CHCNT.DEFER : Fld := ⟨16, 16⟩
def AO_CHCNT.FAULTS : Fld := ⟨0, 16⟩
def AO_MON.CRIT : Fld := ⟨31, 1⟩
def AO_MON.WARN : Fld := ⟨30, 1⟩
def AO_MON.WSEEN : Fld := ⟨29, 1⟩
def AO_MON.VALUE : Fld := ⟨0, 24⟩
def AO_GSTAT.PFW : Fld := ⟨31, 1⟩
def AO_GSTAT.PFSEEN : Fld := ⟨30, 1⟩
def AO_GSTAT.FAULT : Fld := ⟨0, 8⟩
def PW_MODE.HALTPARAM : Fld := ⟨16, 8⟩
def PW_MODE.HALTCAUSE : Fld := ⟨8, 8⟩
def PW_MODE.FROM : Fld := ⟨4, 4⟩
def PW_MODE.MODE : Fld := ⟨0, 4⟩
def PW_RSTCAUSE.WAKEF : Fld := ⟨31, 1⟩
def PW_RSTCAUSE.COUNT : Fld := ⟨0, 16⟩
def PW_RSTKIND.KIND : Fld := ⟨0, 3⟩
def PW_WAKEREC.VALID : Fld := ⟨31, 1⟩
def PW_WAKEREC.LATCHED : Fld := ⟨30, 1⟩
def PW_WAKEREC.WSRC : Fld := ⟨16, 4⟩
def PW_WAKEREC.OTHERS : Fld := ⟨0, 16⟩
def PW_WAKESEC_LO.SEC : Fld := ⟨0, 32⟩
def PW_WAKESEC_HI.SEC : Fld := ⟨0, 16⟩
def PW_ALARM.ALARM : Fld := ⟨0, 32⟩
def PW_SLEEPSTAT.PREP : Fld := ⟨31, 1⟩
def PW_SLEEPSTAT.SILENT : Fld := ⟨30, 1⟩
def PW_SLEEPSTAT.DOMAIN : Fld := ⟨16, 9⟩
def PW_SLEEPSTAT.YES : Fld := ⟨0, 9⟩
def PW_DOMSTAT.ON : Fld := ⟨0, 32⟩
def PW_ISLAND.CHANGING : Fld := ⟨31, 1⟩
def PW_ISLAND.ACTIVE : Fld := ⟨4, 3⟩
def PW_ISLAND.TARGET : Fld := ⟨0, 3⟩
def NV_BOOTSTAT.FACTORY : Fld := ⟨29, 1⟩
def NV_BOOTSTAT.ROMREC : Fld := ⟨28, 1⟩
def NV_BOOTSTAT.FALLBACK : Fld := ⟨24, 3⟩
def NV_BOOTSTAT.CAND : Fld := ⟨20, 3⟩
def NV_BOOTSTAT.SLOT : Fld := ⟨16, 3⟩
def NV_BOOTSTAT.BLEVEL : Fld := ⟨8, 8⟩
def NV_FUSE.REVOKED : Fld := ⟨28, 4⟩
def NV_FUSE.F2 : Fld := ⟨16, 7⟩
def NV_FUSE.F1 : Fld := ⟨8, 7⟩
def NV_FUSE.F0 : Fld := ⟨0, 7⟩
def NV_WEAR.WRITES : Fld := ⟨0, 32⟩
def SEC_STAT.DBGOPEN : Fld := ⟨31, 1⟩
def SEC_STAT.CHALV : Fld := ⟨30, 1⟩
def SEC_STAT.FAILS : Fld := ⟨24, 4⟩
def SEC_STAT.UNLSLOT : Fld := ⟨16, 4⟩
def GB_HEAD.SEQ : Fld := ⟨0, 32⟩
def GB_STAT.FLUSHING : Fld := ⟨31, 1⟩
def GB_STAT.HELD : Fld := ⟨30, 1⟩
def GB_STAT.UNFL : Fld := ⟨0, 14⟩
def GB_FLUSHSEQ.SEQ : Fld := ⟨0, 32⟩
def GB_EVLOST.COUNT : Fld := ⟨0, 32⟩
def GB_RECLOST.COUNT : Fld := ⟨0, 32⟩
def GB_INKFAIL.COUNT : Fld := ⟨0, 32⟩
def GB_OLDEST.SEQ : Fld := ⟨0, 32⟩
def GB_ROUTE.INKEN : Fld := ⟨26, 1⟩
def GB_ROUTE.REGION : Fld := ⟨24, 2⟩
def GB_ROUTE.CTR : Fld := ⟨10, 14⟩
def GB_ROUTE.GBEN : Fld := ⟨9, 1⟩
def GB_ROUTE.MSIEN : Fld := ⟨8, 1⟩
def GB_ROUTE.VEC : Fld := ⟨0, 8⟩
def GB_VECSTAT.COUNT : Fld := ⟨16, 16⟩
def GB_VECSTAT.LASTSRC : Fld := ⟨0, 11⟩
def CP_RXATT.ATT0 : Fld := ⟨0, 8⟩
def CP_RXATT.ATT1 : Fld := ⟨8, 8⟩
def CP_RXATT.ATT2 : Fld := ⟨16, 8⟩
def CP_RXATT.ATT3 : Fld := ⟨24, 8⟩
def HUB_CQBASE.BASE : Fld := ⟨12, 35⟩
def HUB_CQBASE.LOG2SIZE : Fld := ⟨0, 4⟩
def PT_ERRDESC.ADDR : Fld := ⟨0, 48⟩
def CX_TRIGCMD.W : Fld := ⟨0, 32⟩

end Sys2Proof.Machine
end

