-- ==== Sys2Proof/Config.lean ====
section
/-! DEFINITION. What the spec leaves open (free values: constants without a body, so that no proof can see what they
are), and the values that the spec leaves to a choice, each named in the assumption log. -/

namespace Sys2Proof.Config

/-- The source of free values: applied to the state's counter of values drawn (log entry 1). -/
opaque freeValue : Nat → Nat

/-! The channel codes of TS 38.212 and TS 36.212: the tables that the spec names and does not hold, and what an
engine's arithmetic leaves open (log entry 10). -/

/-- The base graph tables: base graph (0, 1), set index, row and column; the shift, where there is a circulant. -/
opaque ldpcShift : Nat → Nat → Nat → Nat → Option Nat
/-- What the LDPC decoder makes of a message that 10 bits do not hold (R236). -/
opaque llrMsg : Int → Int
/-- The hard decision of an LLR of 0. -/
opaque hardZero : Bool
/-- The interleaver coefficients f1 and f2 of a turbo code block size. -/
opaque turboCoef : Nat → Nat × Nat
/-- The LLR that a decoder gives a bit that every path sets to 0. -/
opaque certain : Rat
/-- The polar sequence: index by rising reliability. -/
opaque polarSeq : Nat → Nat
/-- The polar input interleaver table of 164 entries. -/
opaque polarIil : Nat → Nat
/-- The check node of the polar decoder. -/
opaque polarCheck : Int → Int → Int
/-- The LLR that the polar decoder gives a shortened bit. -/
opaque polarKnown : Int
/-- Which of two paths of equal cost the polar decoder puts first. -/
opaque pathTie : List Bool → List Bool → Bool
/-- Which of several words of equal likelihood a decoder takes. -/
opaque mlTie : List Int → Nat
/-- Which of two paths of equal metric survives, by step and state. -/
opaque viterbiTie : Nat → Nat → Bool
/-- Whether the MIMO detector's 24-bit mantissas take the upper of the two neighbours of a value they do not hold (R260). -/
opaque mantUp : Rat → Bool
/-- The value of one unit of a whitening matrix element (R259, R261). -/
opaque whitenUnit : Rat

/-! What one device holds from manufacture (R471, R546): constants of the device (log entry 5). -/

/-- The trim of capture source `n`'s K (R471), before reduction to its range. -/
opaque otpTrim : Nat → Nat
/-- The 8-bit CRC of a tuning-word ring entry (R549), whose polynomial the spec does not give. -/
opaque tuningCrc : Nat → BitVec 8
/-- The device serial, 64 bits, and the part code, 32 bits (R546). -/
opaque otpSerial : BitVec 64
opaque otpPart : BitVec 32
/-- The silicon revision, and the version of the firmware whose class 0 and 1 containers have these hashes (R321). -/
opaque siliconRev : BitVec 32
opaque firmwareVersion : List (BitVec 384) → BitVec 32
/-- The hash of key slot `n` (R546). -/
opaque otpKeyHash : Nat → BitVec 384
/-- The identity public key, X then Y, and the certificate that follows the part code (R565): issue date, certification
key identifier, signature. -/
opaque identityKey : BitVec 768
opaque identityCert : BitVec 864
/-- ECDSA with the identity private key over a SHA-384 hash (R566). -/
opaque identitySign : BitVec 384 → BitVec 768

/-! The primitives that the spec names by their standards (R550): functions of their inputs and nothing more. -/

/-- SHA-384. -/
opaque sha384 : List Byte → BitVec 384
/-- ECDSA verification on brainpoolP384r1: public key, hash, signature. -/
opaque ecdsaVerify : BitVec 768 → BitVec 384 → BitVec 768 → Bool

/-- Whether the uplink gain stage (R288) rounds a product up, by GAIN code and sample. -/
opaque gainUp : Nat → Int → Bool
/-- The codewords of the Reed–Solomon code of R442, whose field and generator the spec does not give: rate and frame; 724
symbols each. -/
opaque rsCode : Nat → List Byte → List (List Nat)
/-- The 10 bits of a symbol in the order in which they are placed. -/
opaque rsBits : Nat → List Bool
/-- The magnitude that the bits after the first select on a PAM axis, counted from 0, and whether a first bit of 1 is
positive (R437, R441). -/
opaque pamLevel : List Bool → Nat
opaque pamSign : Bool
/-- Pilots of a Carriage port (R437): the mean power of the fixed amplitude against that of a data axis, and the PRBS-11 sign by symbol
and sub-carrier, whose arrangement the spec does not give. -/
opaque pilotPower : Rat
opaque pilotSign : Nat → Nat → Bool
/-- The power I² + Q² that is 0 dBFS (R288). -/
opaque fullScale : Rat

end Sys2Proof.Config
end

