-- ==== Sys2Proof/Machine/Assoc.lean ====
section
/-! DEFINITION. Sparse maps in one canonical form: keys strictly rising, and no entry equal to what an unlisted key
reads as. Memory, the register store and every table of units are held this way, so that equal contents are equal
data. -/

namespace Sys2Proof.Machine

/-- A sparse map from Nat keys. -/
abbrev Sparse (α : Type) := List (Nat × α)

/-- The value at key `k`; `d` is what an unlisted key reads as. -/
def sget {α : Type} : Sparse α → Nat → α → α
  | [], _, d => d
  | (k', v) :: m, k, d => if k = k' then v else sget m k d

/-- The map with `v` at key `k`, in canonical form; `d` is what key `k` reads as when unlisted. -/
def sput {α : Type} [DecidableEq α] : Sparse α → Nat → α → α → Sparse α
  | [], k, v, d => if v = d then [] else [(k, v)]
  | (k', v') :: m, k, v, d =>
    if k < k' then (if v = d then (k', v') :: m else (k, v) :: (k', v') :: m)
    else if k = k' then (if v = d then m else (k, v) :: m)
    else (k', v') :: sput m k v d

/-- The map without the keys that `p` names. -/
def sdrop {α : Type} (p : Nat → Bool) (m : Sparse α) : Sparse α := m.filter fun e => !p e.1

/-- The canonical form: keys strictly rising, and every entry differing from the default of its key. -/
def swf {α : Type} [DecidableEq α] (d : Nat → α) : Sparse α → Bool
  | [] => true
  | [(k, v)] => v ≠ d k
  | (k, v) :: (k', v') :: m => v ≠ d k && k < k' && swf d ((k', v') :: m)

/-- Replaces item `i` of a list. -/
def lset {α : Type} : List α → Nat → α → List α
  | [], _, _ => []
  | _ :: xs, 0, v => v :: xs
  | x :: xs, i + 1, v => x :: lset xs i v

/-- Removes the first item that `p` holds of. -/
def ldrop1 {α : Type} (p : α → Bool) : List α → List α
  | [] => []
  | x :: xs => if p x then xs else x :: ldrop1 p xs

/-- Runs `f` over the numbers 0 to n - 1, in rising order. -/
def upto {σ : Type} (n : Nat) (f : Nat → σ → σ) (s : σ) : σ := (List.range n).foldl (fun s i => f i s) s

end Sys2Proof.Machine
end

