-- ==== Sys2Proof/Machine/State.lean ====
section
/-! DEFINITION. The state of the module: every piece of state the spec names, as plain data, and the state right after
the power-on reset. Registers that the spec places at a Turnpike address are held in one store by address (`regs`),
so that each has one home; the rest is in the tables of units below. -/

namespace Sys2Proof.Machine

/-- Why a command stops the machine. -/
inductive Fault where
  /-- The operands of the command break Sys2Proof.WellFormed (a crossing index beyond XCOUNT, a list of the wrong
  length): no such command exists. Raised by the meanings of the commands that WellFormed checks; safe, because
  nothing is claimed of what follows. -/
  | illFormed
  deriving DecidableEq, Repr

/-- Why a command has no meaning in the model. -/
inductive Refusal where
  /-- The command's arm of `exec` has no meaning yet. Raised by `exec` alone; safe, the run stops. -/
  | notModelled (mnemonic : String)
  deriving DecidableEq, Repr

/-- An event on its way to the Guestbook (R575, R576): code, source number and three parameters. -/
structure Event where
  code : Nat
  src : Nat
  p1 : Nat
  p2 : Nat
  p3 : Nat
  deriving DecidableEq, Repr

/-- What an access of memory by one code word decodes to, beyond clean (R346, R347, R350). The decoded data is what
`mem` holds; the mark says what the decoder reports. -/
inductive Mark where
  | corrected (pos : Nat)
  | uncorrectable
  | poisoned
  deriving DecidableEq, Repr

/-- What the device sends to the outside, in order of sending (the model's own record; log entry 3). -/
inductive Out where
  /-- A Turnpike response: source, tag, STATUS of R62, answering island, data bytes. -/
  | response (src tag status island : Nat) (data : List Byte)
  /-- A write of the module to host memory through PCIe: host address and bytes. -/
  | hostWrite (addr : Nat) (data : List Byte)
  /-- A completion to a host read of a BAR: status (0 successful, 1 Unsupported Request, 2 Completer Abort), data. -/
  | hostCompletion (status : Nat) (data : List Byte)
  /-- A read request of the module to host memory: host address. -/
  | hostRead (addr : Nat)
  /-- An MSI-X message of a vector. -/
  | msi (vec : Nat)
  /-- A frame sent by an Ethernet port: bytes without FCS, and whether its FCS is inverted. -/
  | ethFrame (port : Nat) (data : List Byte) (badFcs : Bool)
  /-- A lane marker of an inter-module link: lane, the sender's MODID, the sender's port and marker count. -/
  | laneMarker (lane modid port count : Nat)
  /-- A PTP message sent by an Ethernet port: port, messageType, fields in the order of the docstring of its row. -/
  | ptp (port kind : Nat) (fields : List Int)
  /-- A frame sent by a Carriage port: header and body bytes. -/
  | carriage (port : Nat) (data : List Byte)
  /-- A symbol of a Carriage port, by axis: 0x800 × pair + sub-carrier, quadrature, level, and the mean power that one level squared
  stands for. An axis that is not listed is sent as zero. -/
  | carriageSymbol (port : Nat) (axes : List (Nat × Bool × Int × Rat))
  /-- Bytes sent on the service UART. -/
  | uart (data : List Byte)
  /-- A level driven on a named pin: 0 PPS_OUT, 1 VDDQ_EN, 2 V18OUT, 3 WAKE_N, 4 FAULT_N, 5 SYNCE0, 6 SYNCE1, and the
  codes that the chapters name. -/
  | pin (pin : Nat) (level : Bool)
  /-- An analog output latched: channel, code. -/
  | analog (chan code : Nat)
  deriving DecidableEq, Repr

/-- A pulse waiting at the source side of a pulse crossing: feeding unit, target and count (R32, R36). -/
structure PulseWait where
  unit : Nat
  target : Nat
  count : Nat
  deriving DecidableEq, Repr

/-- One crossing of R638, of any kind. -/
structure Xing where
  /-- A request is in flight and its acknowledge has not arrived. -/
  busy : Bool
  /-- The destination has taken the request; the acknowledge is on its way. -/
  taken : Bool
  /-- Pulse: the count in flight, and its target (R34, R36). -/
  count : Nat
  target : Nat
  /-- Pulse: pending counts, longest waiting first (R32, R36). -/
  pend : List PulseWait
  /-- Pulse: pulses held by their units because of a full or differently bound pending count (R36). -/
  held : List PulseWait
  /-- Value: the value in flight; Gray-coded counter: the source counter; snapshot: the value captured. -/
  value : Nat
  /-- Value: the single pending slot (R38). -/
  vpend : Option Nat
  /-- What the destination holds. -/
  dst : Nat
  /-- The destination holds a value that its reader has not taken yet. -/
  fresh : Bool
  /-- Gray-coded counter: the heartbeat bit (R43). -/
  beat : Bool
  /-- Pulse: the request in flight was launched in this source cycle, so that a pulse of this cycle joins it (R33). -/
  join : Bool
  /-- Isolated under R46 or by a reset or power-off (R49, R51, R76). -/
  iso : Bool
  deriving DecidableEq, Repr

/-- A crossing at reset: idle, empty, not isolated. -/
def Xing.idle : Xing := ⟨false, false, 0, 0, [], [], 0, none, 0, false, false, false, false⟩

/-- The progress of the joint reset of an island (R51), or of its power-off (R76). -/
inductive SeqPhase where
  | none | draining | isolated | held | released
  deriving DecidableEq, Repr

/-- What the hub holds about one island: its reset sequence and its isolation. -/
structure IslandSt where
  phase : SeqPhase
  /-- The reset kind of the sequence, 0 POR to 7 DBG; 8 for the power-on of a domain. -/
  kind : Nat
  /-- The domain number of a kind 8 sequence. -/
  domain : Nat
  /-- Pulses discarded under R51 and R52. -/
  discarded : Nat
  /-- The lowest crossing index of the far island of which a pulse was discarded. -/
  disc : Option Nat
  /-- The bridge is isolated (R51, R76). -/
  iso : Bool
  deriving DecidableEq, Repr

/-- An island in service. -/
def IslandSt.idle : IslandSt := ⟨.none, 0, 0, 0, none, false⟩

/-- A Turnpike request that an island has accepted and not answered (R80, R642), or that awaits a PCIe completion. -/
structure Req where
  island : Nat
  src : Nat
  tag : Nat
  addr : Nat
  write : Bool
  /-- Flits of a burst that have arrived, while its last has not (R64). -/
  burst : Option Nat
  /-- What a write carries: line, byte enables and data of each flit that has arrived (R642). -/
  wr : List (Nat × Nat × Nat)
  deriving DecidableEq, Repr

/-- A flit in a router's input buffer, and whether age has promoted it (R71). -/
structure HeldFlit where
  flit : Flit
  promoted : Bool
  deriving DecidableEq, Repr

/-- The state of one router (R68 to R73): input buffers by 4 × input + level, deficits by 32 × output + input, the
level-3 round-robin pointer of each output, the input that holds an output for a burst, by 4 × output + level (the router's
own island counts as output 31), and the inputs whose burst has been answered and whose further flits are absorbed: by
4 × input + level as they arrive (R77, R86). -/
structure Router where
  bufs : Sparse (List HeldFlit)
  deficit : Sparse Int
  rr : Sparse Nat
  hold : Sparse Nat
  absorb : Sparse Bool
  deriving DecidableEq, Repr

/-- An empty router. -/
def Router.idle : Router := ⟨[], [], [], [], []⟩

/-- An island's event queue (R577, R578): events oldest first, and the loss count. -/
structure EvQueue where
  q : List Event
  lost : Nat
  deriving DecidableEq, Repr

/-- A report of an error decode (R354): unit, kind, address, position, outcome, POISON and count. -/
structure EccReport where
  unit : Nat
  kind : Nat
  addr : Nat
  pos : Nat
  uncorr : Bool
  poison : Bool
  count : Nat
  /-- Code words counted while the queue was full, delivered with this report (R356). -/
  addCorr : Nat
  addUnc : Nat
  deriving DecidableEq, Repr

/-- An island's report queue (R356) and its two counts of code words not queued. -/
structure EccQueue where
  q : List EccReport
  corr : Nat
  unc : Nat
  deriving DecidableEq, Repr

/-- An entry of a merge buffer (R352): the word's address, its byte mask and its bytes. -/
structure MergeEnt where
  word : Nat
  mask : Nat
  data : Nat
  deriving DecidableEq, Repr


/-- A REP in progress (R113): bundle index of the body, next iteration index, iterations left, the running best of each
search by its Sd (value and index, R118), and the word of the body once it has been fetched: no iteration fetches again. -/
structure Rep where
  body : Nat
  k : Nat
  rem : Nat
  best : Sparse (Int × Nat)
  word : Option Nat
  deriving DecidableEq, Repr

/-- The architectural registers of a core (R92), and its repeat. Unlisted registers hold their reset values. -/
structure Arch where
  v : Sparse Line
  acc : Sparse (BitVec 1280)
  x : Sparse Word
  a : Sparse (Option Addr)
  o : Sparse Word
  l : Sparse (BitVec 24)
  b : Sparse Addr
  c : Sparse Word
  pc : Nat
  rep : Option Rep
  deriving DecidableEq, Repr

/-- The architectural registers at reset: V, ACC, S, O, L, B and PC 0; A the core's own data memory base (unlisted). -/
def Arch.reset : Arch := ⟨[], [], [], [], [], [], [], [], 0, none⟩

/-- An exception found in a bundle (R129): code, DETAIL, address for C3 and C4. -/
structure Exc where
  code : Nat
  detail : Nat
  addr : Nat
  deriving DecidableEq, Repr

/-- A coprocessor operation of a bundle, acted on at its commit (R147, R148, R151, R154, R157). -/
inductive CopOp where
  /-- The commit of a local command: unit, tag, depth. -/
  | commit (u tag depth : Nat)
  /-- A local CMOV.TO: unit, context, register, value. -/
  | moveTo (u ctx n : Nat) (v : Line)
  /-- A remote command: target cluster, unit, tag, depth, the four words. -/
  | issue (k u tag depth : Nat) (words : List Word)
  /-- A remote CMOV.TO: target cluster, unit, register, depth, value. -/
  | remoteTo (k u n depth : Nat) (v : Line)
  deriving DecidableEq, Repr

/-- A bundle between issue and write-back (R123, R129): its index, the registers before it issued, the registers its
slots have written, the bytes it stores (own data memory, or remote), its coprocessor operations, the iteration of a
REP body, whether it holds a CMOV, the exception found in it, its serial number, the flags of C0 that its slots set, and the STATUS
and address of each failing response to its remote loads that came before its commit: a flush discards them (R125). -/
structure Bundle where
  pc : Nat
  before : Arch
  wrote : List Nat
  stores : List (Nat × Byte)
  rstores : List (Nat × Byte)
  cops : List CopOp
  iter : Option (Nat × Nat)
  cmov : Bool
  exc : Option Exc
  serial : Nat
  raised : Word
  errs : List (Nat × Nat)
  deriving DecidableEq, Repr

/-- How a load's bytes become a register: 0 VLD, 1 VLDB, 2 LDH, 3 LDW, 4 a remote CMOV.FROM. -/
structure RLoad where
  form : Nat
  reg : Nat
  /-- Addresses of the bytes, in the order of the register. -/
  bytes : List Nat
  /-- Bytes that the load must return whatever memory holds when its last response arrives: those of the core's own
  earlier stores, and those answered before a younger store of the core (R126). -/
  fwd : List (Nat × Byte)
  /-- The bundle that issued it. -/
  serial : Nat
  /-- Its bundle was flushed: the response is discarded (R125). -/
  dead : Bool
  /-- Lines already answered, and the STATUS of those that failed (R129). -/
  read : List Nat
  errs : List Nat
  deriving DecidableEq, Repr

/-- A coprocessor tag of a core that is outstanding (R138, R156): unit, depth, tag, target cluster of a remote command,
whether it has been committed and when, and the task that issued it. -/
structure CopTag where
  u : Nat
  depth : Nat
  tag : Nat
  remote : Option Nat
  since : Option Nat
  task : Nat
  deriving DecidableEq, Repr

/-- What a core does. -/
inductive CoreRun where
  | idle | running | saving | restoring | stopped
  deriving DecidableEq, Repr

/-- A deferred exception on its way to a core (R129, R172): code, DETAIL and address, the depth and task that take it, and
the unit and tag of the coprocessor command that raised it. -/
structure DefExc where
  exc : Exc
  depth : Nat
  task : Nat
  u : Nat
  tag : Nat
  deriving DecidableEq, Repr

/-- One vector DSP core. -/
structure Core where
  arch : Arch
  run : CoreRun
  depth : Nat
  /-- Serial number of the task at each depth, counted at dispatch. -/
  tasks : Sparse Nat
  /-- Bundles in flight, oldest first, and the serial number of the next. -/
  flight : List Bundle
  serial : Nat
  rloads : List RLoad
  tags : List CopTag
  /-- Access errors and deferred coprocessor errors that wait for a bundle boundary. -/
  defer : List DefExc
  /-- Running bests kept over an exception inside a repeat (R131). -/
  best : Sparse (Int × Nat)
  /-- The slice has interrupted the core for a dispatch (R195). -/
  irq : Bool
  /-- Depths of the tasks whose DONE is on its way to the slice, oldest first (R201). -/
  ended : List Nat
  deriving DecidableEq, Repr

/-- A core at reset (R128): idle. -/
def Core.reset : Core := ⟨Arch.reset, .idle, 0, [], [], 0, [], [], [], [], false, []⟩

/-- Who issued a coprocessor command. -/
inductive CopOrigin where
  /-- A core of the cluster: core number, depth, task. -/
  | core (n depth task : Nat)
  /-- A remote core: core number, depth. -/
  | remote (n depth : Nat)
  /-- A trigger slot. -/
  | slot (s : Nat)
  deriving DecidableEq, Repr

/-- The outcome of a coprocessor command's computation: the result bytes, and its flags. -/
structure CopResult where
  bytes : List Byte
  sat : Bool
  notpd : Bool
  deriving DecidableEq, Repr

/-- A command in a coprocessor's queue, or in progress (R143, R144, R148, R149). -/
structure CopCmd where
  words : List Word
  ctx : Nat
  tag : Nat
  origin : CopOrigin
  committed : Bool
  started : Bool
  /-- The operands as read at the start. -/
  inBytes : List Byte
  result : Option CopResult
  /-- DETAIL and address of an error (R172). -/
  err : Option (Nat × Nat)
  /-- The cluster of its remote issuer has been reset since: its notice will be ignored (R174). -/
  stale : Bool
  deriving DecidableEq, Repr

/-- One coprocessor: context registers by context × 32 + register, registers with an uncorrectable error, the queue in
order of entry, CX_BIND writes not yet in effect, and the completed command whose NTF pulse is held (R170). -/
structure Coproc where
  cr : Sparse Line
  bad : Sparse (Option Mark)
  queue : List CopCmd
  bind : Sparse (Option Nat)
  held : Option CopCmd
  deriving DecidableEq, Repr

/-- A coprocessor at reset. -/
def Coproc.reset : Coproc := ⟨[], [], [], [], none⟩


/-- A descriptor in a slice's pool (R177, R182): its 16 words, whether it is in a ready list, the cycle in which it became
ready (R191), whether task-late has been raised, and where it stands among tasks returned to the head of their lists (R214;
0: it was not, else the later the larger). -/
structure PoolEnt where
  desc : List Word
  ready : Bool
  order : Nat
  late : Bool
  front : Nat
  deriving DecidableEq, Repr

/-- A task held by a unit (R176): its pool entry, and whether an engine holds it staged. -/
structure UnitTask where
  pool : Nat
  staged : Bool
  deriving DecidableEq, Repr

/-- What a slice holds about a unit: its tasks, outermost first, its place in the order of becoming idle, and completions of it that
have reached the slice: which of its tasks has ended (a core's depth; 0 for an engine), and its status. -/
structure InkUnit where
  tasks : List UnitTask
  idle : Nat
  done : List (Nat × Nat)
  deriving DecidableEq, Repr

def InkUnit.reset : InkUnit := ⟨[], 0, []⟩

/-- The outputs of a completed task (R189): its descriptor and status, the successor entries not yet issued, once its list
has been read, and whether it takes one of the 32 completion slots (R210). -/
structure OutRec where
  desc : List Word
  status : Nat
  rest : Option (List (Option Nat))
  slot : Bool
  deriving DecidableEq, Repr

/-- An entry of the ordering reservoir (R205): flow and key, the pool entry that claimed it, and the outputs held in
it once its task has completed. -/
structure ResEnt where
  flow : Nat
  key : Nat
  pool : Nat
  out : Option OutRec
  deriving DecidableEq, Repr

/-- A completion that waits for a slot (R210): of a unit, or of a join by its pool entry. -/
inductive CompWait where
  | unit (u : Nat)
  | join (p : Nat)
  deriving DecidableEq, Repr

/-- What a decrement queue entry does to its counter (R184, R219): OP 0b00, 0b01 or 0b10 of INK_DECR. -/
inductive DecrOp where
  | amount (a : Nat)
  | clear
  | abandon
  deriving DecidableEq, Repr

/-- How a write reaches a line: one WRITE, a WRITE_PART, or a line of a burst (R63, R64). -/
inductive WrKind where
  | whole | part | burst
  deriving DecidableEq, Repr

/-- A write held in a slice's bridge (R69, R212): its source and TAG, the line, the enabled bytes and data, and the address of the request
that its answer completes, where one waits. -/
structure HeldWr where
  src : Nat
  tag : Nat
  line : Nat
  kind : WrKind
  en : Nat
  data : Nat
  answer : Option Nat
  deriving DecidableEq, Repr

/-- One Innkeeper slice. -/
structure Ink where
  pool : Sparse (Option PoolEnt)
  /-- The source that CREDIT_GRANT considers first (R180). -/
  nextSrc : Nat
  /-- The decrement queue (R184): counter and operation, oldest first. -/
  decq : List (Nat × DecrOp)
  /-- Writes held in the bridge (R212), oldest first: of INK_DECR, and what their sources wrote after them (R69). -/
  held : List HeldWr
  /-- Region fabric cycles in which something came into an order (R191, R193), whether the last holds one decrement, so
  that a second may share it (R184), and how many have applied decrements (R212). -/
  orders : Nat
  half : Bool
  applied : Nat
  units : Sparse InkUnit
  res : List ResEnt
  joinWait : List Nat
  compWait : List CompWait
  slots : List OutRec
  /-- Outputs of ordered tasks, released in key order and not yet issued (R204). -/
  released : List OutRec
  deriving DecidableEq, Repr

/-- A slice at reset. -/
def Ink.reset : Ink := ⟨[], 0, [], [], 0, false, 0, [], [], [], [], [], []⟩


/-- What a job reports in its record (R228), and the address of an error (R267). -/
structure JobRes where
  code : Nat
  detail : Nat
  errAddr : Option Nat
  ndone : Nat
  pcrc : Nat
  tbchk : Bool
  tbpass : Bool
  pbits : Nat
  zc : Nat
  c : Nat
  itersum : Nat
  itermax : Nat
  passmap : Nat
  donemap : Nat
  fails : Nat
  /-- Requests that the job may still make before something ends it, and the code with which that does (R229, R230). -/
  left : Option (Nat × Nat)
  deriving DecidableEq, Repr

/-- Which code blocks the decode job of a result record covered, with the record's bytes (R239). -/
structure RecNote where
  first : Nat
  count : Nat
  bytes : List Byte
  deriving DecidableEq, Repr

/-- A job of an engine (R224 to R229): its descriptor's address, its 192 bytes once read, the STATUS and address of a
failed read, and its status word once it has ended. -/
structure Job where
  entry : Nat
  desc : Option (List Byte)
  bad : Option (Nat × Nat)
  status : Option Nat
  deriving DecidableEq, Repr

/-- An engine of an accelerator group: the running and the staged job, the HARQ buffer it guards (R245), whether its
job-event pulse has been sent (R227), and what a job that has timed out without a record has to report (R263, R264). -/
structure Engine where
  running : Option Job
  staged : Option Job
  guard : Option Nat
  pulsed : Bool
  late : Option JobRes
  /-- Status words of ended jobs whose completion the slice has not taken yet, oldest first (R227). -/
  statuses : List Nat
  deriving DecidableEq, Repr

/-- An engine at reset. -/
def Engine.reset : Engine := ⟨none, none, none, false, none, []⟩


/-- Whom a reply answers (R303): the ring of the packet (none: the service UART), its opcode, TAG, TARGET and SEQ, and
QUIET. -/
structure Ticket where
  ring : Option Nat
  opcode : Nat
  tag : Nat
  target : Nat
  seq : Nat
  quiet : Bool
  deriving DecidableEq, Repr

/-- A reply that waits for room in its completion ring (R310), and the submission ring to whose command it is the final reply (R313). -/
structure HeldReply where
  fin : Option Nat
  bytes : List Byte
  deriving DecidableEq, Repr

/-- What the hub holds of a ring pair beside its registers (R304 to R313): submission TAIL, completion HEAD, the expected
SEQ, the replies that wait, whether the next reply carries OVFL, commands answered ACCEPTED without a final reply, the
opcode and header of the packet at the head once it has been read and must wait (for TAIL, a FENCE or credits), and the IMOD
interval: open, and a reply written in it. -/
structure Ring where
  tail : Nat
  cqHead : Nat
  seq : Option Nat
  waiting : List HeldReply
  ovfl : Bool
  opened : Nat
  waitHdr : Option (Nat × PktHdr)
  imodOpen : Bool
  imodPend : Bool
  deriving DecidableEq, Repr

/-- A ring pair at reset. -/
def Ring.reset : Ring := ⟨0, 0, none, [], false, 0, none, false, false⟩



/-- A Guestbook record (R584), its CHK apart. -/
structure Rec where
  seq : Nat
  code : Nat
  src : Nat
  /-- Microseconds in [23:0], seconds in [63:24] (R587). -/
  time : Nat
  rep : Nat
  /-- FLAGS [7:0] (R585). -/
  flags : Nat
  p1 : Nat
  p2 : Nat
  p3 : Nat
  deriving DecidableEq, Repr



/-- A timed analog step (R487): code, LT, FINAL, and the cycle that LT names once the comparator has taken it (R483). -/
structure AStep where
  code : Nat
  lt : Nat
  final : Bool
  due : Option Int
  deriving DecidableEq, Repr

/-- A slewed update (R503): target, step and period, and whether it is a move to the safe code (R507). -/
structure Slew where
  target : Nat
  step : Nat
  period : Nat
  safe : Bool
  deriving DecidableEq, Repr

/-- What an analog channel holds beside its registers: the timed steps, the slewed update in progress, deferred direct
updates (R502), the code behind the deglitcher (R501), the code at the land, the cycle of the latest latch, the clamp
(R506), and whether the Timekeeper moves the channel to the tuning word once the safe move has ended (R481). -/
structure Chan where
  steps : List AStep
  slew : Option Slew
  deferred : List Nat
  glitch : Option Nat
  land : Nat
  last : Option Nat
  clamped : Bool
  toTune : Bool
  deriving DecidableEq, Repr

/-- A channel at POR (R506): clamped. -/
def Chan.reset : Chan := ⟨[], none, [], none, 0, none, true, false⟩

/-- What a monitor holds beside its register (R515): the WARN setting in force (none: the factory's), consecutive samples beyond the low and
high WARN and the low and high CRIT limit, consecutive samples back within each, and the limits passed. -/
structure Mon where
  lim : Option Nat
  run : List Nat
  back : List Nat
  passed : List Bool
  deriving DecidableEq, Repr

def Mon.reset : Mon := ⟨none, [0, 0, 0, 0], [0, 0, 0, 0], [false, false, false, false]⟩

/-- A capture that waits for its handler (R473): source, CAPSEQ, POS, and the cycle of its strobe. -/
structure Strobe where
  src : Nat
  seq : Nat
  pos : Nat
  cyc : Nat
  deriving DecidableEq, Repr

/-- An entry of the capture log (R474): source, CAPSEQ, capture value, and its extended time (R470). -/
structure Capture where
  src : Nat
  seq : Nat
  c : Nat
  ext : Int
  deriving DecidableEq, Repr

/-- The PTP state of a port (R491): domain, role, TWOSTEP; whether an Announce has been received; the parent's
identity, clockClass and stepsRemoved; t1, t2, t3 in ns, and the sum of the correction fields in 2^-16 ns. -/
structure Ptp where
  domain : Nat
  role : Nat
  twoStep : Bool
  heard : Bool
  gm : Nat
  cls : Nat
  removed : Nat
  t1 : Option Int
  t2 : Option Int
  t3 : Option Int
  corr : Int
  deriving DecidableEq, Repr

/-- A port without PTP configuration. -/
def Ptp.reset : Ptp := ⟨24, 0, false, false, 0, 0, 0, none, none, none, 0⟩



/-- A copy of the boot record (R548): generation, and for each class the active slot (0 A, 1 B), the candidate slot when
one is valid, and the trial flag. -/
structure BootRec where
  gen : Nat
  active : List Nat
  cand : List (Option Nat)
  trial : List Bool
  deriving DecidableEq, Repr

/-- An open update (R561): class, slot, total bytes, the mode UPDATE was entered from, and the command that commits it. -/
structure Update where
  cls : Nat
  slot : Nat
  total : Nat
  from_ : Nat
  commit : Option Ticket
  deriving DecidableEq, Repr

/-- A domain power change that has no final reply yet (R519 to R522): the command, whether it powers on, the domains that
change, and the islands whose ready report is awaited. No command: the domains that HALT powers off (R531). -/
structure DomJob where
  ticket : Option Ticket
  on : Bool
  doms : List Nat
  wait : List Nat
  deriving DecidableEq, Repr

/-- A REG or CLU reset without its final reply (R51, R540): the islands not yet ready, and the command; none for a debug
reset. -/
structure RstJob where
  wait : List Nat
  ticket : Option Ticket
  deriving DecidableEq, Repr

/-- A transmit entry written in the prepare phase (R422, R533): port, queue, entry, and the request whose answer waits: source, tag
and address. -/
structure HeldTx where
  port : Nat
  queue : Nat
  ent : List Byte
  answer : Option (Nat × Nat × Nat)
  deriving DecidableEq, Repr

/-- Chrysalis entry (R532 to R538): the command, the domains that have not voted, whether commit has occurred, and the
wake events present: their sources, the seconds counter at the first, whether it came before power-down was complete, and
whether power-down is complete. -/
structure Sleep where
  ticket : Ticket
  waiting : List Nat
  yes : Nat
  committed : Bool
  latched : List Nat
  latchSec : Nat
  early : Bool
  down : Bool
  /-- CHR_WAKEEN as armed at commit (R535). -/
  armed : Nat
  /-- Transmit entries written while a port takes none (R533). -/
  held : List HeldTx
  deriving DecidableEq, Repr

/-- A scrub in progress (R360 to R364): range, next line of each controller that has not finished, counts, first and
last failing address, and its command. -/
structure Scrub where
  lo : Nat
  hi : Nat
  kind : Nat
  island : Nat
  next : List (Nat × Nat)
  lines : Nat
  read : Nat
  corrected : Nat
  uncorrectable : Nat
  first : Nat
  last : Nat
  ticket : Ticket
  deriving DecidableEq, Repr


/-- A descriptor in progress (R376, R390): its address, its 32 bytes, whether its data has been moved, the STATUS byte
once it is BAD, and the failing address. -/
structure PDesc where
  addr : Nat
  bytes : List Byte
  moved : Bool
  bad : Option Nat
  fail : Nat
  deriving DecidableEq, Repr

/-- What a Porter channel holds beside its registers (R369 to R374): the ring base in force, and the descriptor in
progress. -/
structure PChan where
  base : Nat
  desc : Option PDesc
  deriving DecidableEq, Repr

def PChan.reset : PChan := ⟨0, none⟩

/-- A stream template of a port (R424): destination and source MAC addresses, the tag, PC_ID and COMPW. -/
structure Tmpl where
  dmac : Nat
  smac : Nat
  tag : Option Nat
  pcid : Nat
  compw : Nat
  deriving DecidableEq, Repr

/-- A frame in transmit storage: its bytes without FCS, the offset of its SEQ_ID byte and its PC_ID when it is an eCPRI
type 0 message of the port (R415). -/
structure TxFrame where
  bytes : List Byte
  seqAt : Option (Nat × Nat)
  deriving DecidableEq, Repr

/-- A transmit entry in a queue (R421 to R426, R483): LT when timed, the cycle LT names once the comparator has taken it,
LEN, the storage it takes, its frames not yet sent, and whether its first frame has started. -/
structure TxEnt where
  lt : Option Nat
  due : Option Int
  len : Nat
  size : Nat
  frames : List TxFrame
  started : Bool
  deriving DecidableEq, Repr

/-- A block of a receive group (R428 to R431): header bytes 0 to 2, the cycle that RT names, the PRBs that have arrived by stream × NPRB + PRB in compressed
form, and its state: 0 armed, 1 released, 2 consumed. -/
structure RxBlock where
  app : Nat
  rt : Int
  prbs : Sparse (List Byte)
  st : Nat
  order : Nat
  deriving DecidableEq, Repr

/-- A receive group: its blocks by place in the ring, the next place to arm, and the count of releases. -/
structure RxGrp where
  blocks : Sparse (Option RxBlock)
  next : Nat
  orders : Nat
  deriving DecidableEq, Repr

def RxGrp.reset : RxGrp := ⟨[], 0, 0⟩

/-- What an Ethernet port holds beside its registers: MAC address (R321), push slots by 16,384 × slot + offset (R422),
stream templates (R424), transmit queues (R421), the queue whose frames go back to back and their LT (R426), the cycle at which the frame on the
line ends and its LT, the SEQ_ID counters (R415), the receive groups, the frames of the general group oldest first
(R432), port loopback (R401), the egress push slot used last (R335), and the count of lane markers sent (R413), modulo 256. -/
structure EthPort where
  mac : Nat
  slots : Sparse Byte
  tmpl : Sparse (Option Tmpl)
  txq : Sparse (List TxEnt)
  cont : Option (Nat × Option Nat)
  lineEnd : Int
  lineLt : Option Nat
  seqTx : Sparse Nat
  seqRx : Sparse (Option Nat)
  groups : Sparse RxGrp
  general : List (List Byte)
  loop : Nat
  egSlot : Nat
  marks : Nat
  deriving DecidableEq, Repr

def EthPort.reset : EthPort := ⟨0, [], [], [], none, 0, none, [], [], [], [], 0, 0, 0⟩

/-- A pending CP_LINK_SET (R455): request, RATE and the command. -/
structure CpReq where
  kind : Nat
  rate : Nat
  ticket : Ticket
  deriving DecidableEq, Repr

/-- A table proposal of one direction (R460 to R462): the table, whether it has been acknowledged. -/
structure CpProp where
  table : Sparse Byte
  acked : Bool
  deriving DecidableEq, Repr

/-- What a Carriage port holds beside its registers: the pending request (R455), the rate to train at, the training step
reached (R459), the axis ratios measured in training, both tables and the ratio map (R440, R460), the proposals of the
two directions, the frame counts (R443), the next downstream sample index (R450), the transmit and receive buffers by
32,768 × antenna + position, and what the receive buffer holds before the gain stage (R288, R451); armed symbols (R451), switch entries
(R453), the TXEN and RXEN in force, the next upstream sample index; management push slots, queued, in progress and received frames
(R446), and whether a broken frame that has been counted may still send fragments;
the gain codes, freezes and burst flags by antenna (R288), the noise floors, the lowest window power of the portion, the clipped samples
and the CLIP flag of the latest portion by antenna (R289); and the symbols sent, modulo 2^32. -/
structure CpPort where
  req : Option CpReq
  rate : Nat
  step : Nat
  ratios : List (Nat × Nat × Nat)
  txTab : Sparse Byte
  rxTab : Sparse Byte
  map : Sparse Byte
  theirs : Option CpProp
  ours : Option CpProp
  fcntTx : Nat
  fcntRx : Nat
  next : Nat
  tx : Sparse Word
  rx : Sparse Word
  raw : Sparse Word
  lateSaid : Bool
  arms : List (Nat × Nat × Bool)
  swq : List (Nat × Nat)
  enables : Nat
  rxNext : Nat
  slots : Sparse Byte
  mtx : List (List Byte)
  mtxAt : Nat
  mrxPart : Option (List Byte)
  mrxBroken : Bool
  mrx : List (List Byte)
  gain : List Nat
  frozen : List Bool
  burst : List Bool
  noise : List Rat
  windows : List (Option Rat)
  clip : List Nat
  clipped : List Bool
  syms : Nat
  deriving DecidableEq, Repr

def CpPort.reset : CpPort :=
  ⟨none, 0, 0, [], [], [], [], none, none, 0, 0, 0, [], [], [], false, [], [], 0, 0, [], [], 0, none, false, [],
   [0, 0, 0, 0], [false, false, false, false], [false, false, false, false], [0, 0, 0, 0], [none, none, none, none], [0, 0, 0, 0],
   [false, false, false, false], 0⟩


/-- A slot of a carrier for which a message has been taken (R283, R284, R324 to R329): T_air, SFN and number; the PDUs of
DL_CONFIG and of UL_CONFIG (none: not taken in time), whether each kind has been taken or answered LATE, the payload
entries of DL_DATA with its command, the payloads fetched and the PDUIDs whose fetch failed, the ring, TAG and SEQ of UL_CONFIG, and whether the
control messages have been launched. -/
structure SlotRec where
  tair : Int
  sfn : Nat
  slot : Nat
  dl : Option (List (List Word))
  dlSeen : Bool
  data : Option (List (Nat × Nat × Nat))
  dataSeen : Bool
  fetch : Option Ticket
  payload : List (Nat × List Byte)
  missing : List Nat
  ul : Option (List (List Word))
  ulSeen : Bool
  ulTicket : Option Ticket
  /-- Indications sent, by opcode − 0x0481. -/
  sent : List Nat
  launched : Bool
  /-- Frozen gain, burst and CLIP bits of the slot's uplink portion, by antenna (R289). -/
  gains : Sparse Nat
  /-- Reported frequency offset in Hz and PRBs of the slot's allocations, by PDUID (R286, R287). -/
  freqs : List (Nat × Int × Nat)
  deriving DecidableEq, Repr

/-- A carrier (R268 to R330): its CELL_SETUP parameters, 1 set up, 2 started, 3 stopping; the extended time of the first
frame sent, the slots for which messages have been taken, the CELL_STOP without its final reply and the extended time
at which it takes effect, and its costs in thousandths: VDC, CFFT, DEC, ENC, POL, TRB, DMP, DET, streams, DDR, FH down,
FH up (Mb/s). -/
structure Carrier where
  words : List Word
  st : Nat
  start : Int
  slots : List SlotRec
  stop : Option (Ticket × Int)
  cost : List Nat
  /-- Stream templates taken, by port and number (R424). -/
  tmpls : List (Nat × Nat)
  /-- Beam identifier and weights of the latest uplink control message, by stream (R276). -/
  wts : Sparse (Nat × List Byte)
  /-- Weighted sum of frequency offsets and PRBs of the last 64 slots with allocations, oldest first (R287). -/
  foffs : List (Int × Nat)
  deriving DecidableEq, Repr

/-- The downlink U-plane of one stream and symbol of a carrier that waits for its launch instant (R282), on its way to a queue of a
port: its frames are built when the instant comes. -/
structure Plane where
  carrier : Nat
  tair : Int
  sfn : Nat
  slot : Nat
  sym : Nat
  port : Nat
  queue : Nat
  tmpl : Tmpl
  nprb : Nat
  ent : TxEnt
  deriving DecidableEq, Repr

/-- A DELAY_MEAS in progress (R420): the command, its port, measurements not yet sent, the t1 of those awaiting a
response in ns by measurement ID, the results in ns, and the next ID. -/
structure DelayRun where
  ticket : Ticket
  port : Nat
  left : Nat
  wait : List (Nat × Int)
  got : List Int
  next : Nat
  deriving DecidableEq, Repr

/-- The controls of the endpoint's capabilities as PCI Express initialises them (PRESUMED, log entry 11): D0, payload 128 bytes, read
requests of 512 bytes. -/
def PcieCtl.initial : PcieCtl := ⟨false, 0, 2, 0, false, false⟩

/-- The state of the module. -/
structure State where
  /-- The commands that wait, first in first out. -/
  pending : List Instr
  /-- Timekeeper cycles since the reset of the Timekeeper island (R467); durations are measured in it. -/
  cyc : Nat
  /-- TK_NS (R467), modulo 2^32. -/
  tkns : Nat
  /-- Extended time in ns, AS × 10^9 + AN (R468). -/
  ext : Nat
  /-- The model's own counter of free values drawn (log entry 1). -/
  free : Nat
  /-- The register store, by address; an unlisted register holds its reset value. -/
  regs : Sparse Word
  /-- Memory bytes by address; an unlisted byte reads 0. -/
  mem : List Host.Cell
  /-- Error marks by code-word address (R346, R347, R350). -/
  marks : Sparse (Option Mark)
  /-- Merge buffers by bank key (R352), oldest entry first. -/
  mbuf : Sparse (List MergeEnt)
  /-- The model's own: bytes the host returns to the module's reads within the command being run. -/
  hostIn : List Byte
  /-- The model's own record of what the device has sent, newest first (log entry 3). -/
  out : List Out
  /-- The crossings of R638, by crossing key. -/
  xings : Sparse Xing
  /-- Reset sequence and isolation of each island (R51, R76). -/
  islands : Sparse IslandSt
  /-- Requests accepted and not answered (R80, R642). -/
  outst : List Req
  /-- Module reads that await a PCIe completion (R81, R407). -/
  hostReads : List Req
  /-- The 32 routers (R57). -/
  routers : Sparse Router
  /-- Island event queues (R577). -/
  evq : Sparse EvQueue
  /-- Events of hub core sources at the Guestbook's intake (R577). -/
  intake : List Event
  /-- Island report queues (R356). -/
  eccq : Sparse EccQueue
  /-- ECC units whose table-full event has been raised since the table filled (R358). -/
  tableFull : List Nat
  /-- The scrub that runs (R360). -/
  scrub : Option Scrub
  /-- Installed DDR capacity in GiB, 0 before training (R339, R341). -/
  ddrGiB : Nat
  /-- DDR_DEVAREA in force, in GiB (R340, R366). -/
  ddrDev : Nat
  /-- The 192 vector DSP cores (R92). -/
  cores : Sparse Core
  /-- The 48 coprocessors, by 2 × cluster + unit (R133). -/
  cops : Sparse Coproc
  /-- Cycle counters of the clusters, modulo 2^32 (C7). -/
  clk : Sparse Nat
  /-- The four Innkeeper slices (R175). -/
  inks : Sparse Ink
  /-- The Timekeeper has left LOCKED for HOLDOVER and has not reached LOCKED since (R528). -/
  heldOver : Bool
  /-- The 48 engines, by 12 × region + engine (R221). -/
  engines : Sparse Engine
  /-- Which code blocks the decode jobs behind result records covered, by the record's address (R239). -/
  jobRecs : Sparse (Option RecNote)
  /-- Egress posts that the hub has accepted and not handled (R333), oldest first. -/
  egress : List (List Byte)
  /-- The 16 ring pairs (R305), beside their registers. -/
  rings : Sparse Ring
  /-- The slot-class ring that Concierge considers first (R314). -/
  rrSlot : Nat
  /-- The PCIe link is up (R407). -/
  pcieUp : Bool
  /-- Bus Master Enable of the command register (R407). -/
  bme : Bool
  /-- Memory Space Enable of the command register (R405). -/
  memEn : Bool
  /-- The controls of the endpoint's capabilities (R404). -/
  pcieCtl : PcieCtl
  /-- MSI-X Enable (R404). -/
  msixEn : Bool
  /-- MSI-X Function Mask (R404). -/
  msixMask : Bool
  /-- The MSI-X table (R405), by DWORD; an unlisted entry is 0, and 1 for a vector control word. -/
  msixTab : Sparse Word
  /-- Vectors whose pending bit is set (R581). -/
  msixPba : List Nat
  /-- Vectors whose 1 µs interval runs (R581). -/
  msiOpen : List Nat
  /-- The model's own: the host answers the module's reads of the command being run with UR or CA. -/
  hostFail : Bool
  /-- A command of the service UART has no final reply yet (R320). -/
  uartBusy : Bool
  /-- Settings in force, by ID; an unlisted setting has its factory value (R545). -/
  settings : Sparse Nat
  /-- The Guestbook's buffer (R588), by entry. -/
  gbuf : Sparse (Option Rec)
  /-- The island that the Guestbook considers first (R579). -/
  gbNext : Nat
  /-- Records lost since the previous flush started (R588). -/
  gbLost : Nat
  /-- The first sequence lost in that interval (R588). -/
  gbLostFirst : Nat
  /-- A flush trigger that is not held back waits (R590). -/
  gbForced : Bool
  /-- A flush trigger that can be held back waits (R590). -/
  gbWanted : Bool
  /-- GB_FLUSH commands without their final reply, with GB_HEAD at their taking (R590). -/
  gbWait : List (Ticket × Nat)
  /-- Records written to the log within the last 64 s: the cycle and their number (R591). -/
  gbRate : List (Nat × Nat)
  /-- Writes to each NV store word that has been written (R574), by word address. -/
  nvWr : Sparse Nat
  /-- UTC_OFFSET has been given since the last module-wide reset (R587, R492). -/
  utcSet : Bool
  /-- The eight analog output channels (R499), beside their registers. -/
  chans : Sparse Chan
  /-- The twelve monitors (R514), beside their registers. -/
  mons : Sparse Mon
  /-- Captures that wait for their handlers, in order of starting (R473). -/
  strobes : List Strobe
  /-- The cycle at which the latest handler ends (R473). -/
  capEnd : Nat
  /-- The capture log (R474). -/
  capLog : List Capture
  /-- CAPSEQ of each Ethernet port and direction, by capture source (R472). -/
  capSeq : Sparse Nat
  /-- The PTP state of the twelve ports (R491). -/
  ptp : Sparse Ptp
  /-- The newest valid word of the tuning-word ring: index, W and save sequence (R549). -/
  tune : Option (Nat × Nat × Nat)
  /-- The cycle of the latest update of the time loop (R479). -/
  loopAt : Nat
  /-- PPS_OUT is high (R488). -/
  ppsHigh : Bool
  /-- The port whose recovered clock SYNCE_OUT0 and SYNCE_OUT1 present; none: held low (R494).. -/
  synce : List (Option Nat)
  /-- The monitor whose HALT action waits for the end of BOOT (R516). -/
  haltPend : Option Nat
  /-- The two copies of the boot record; none where the CRC is not valid (R548). -/
  bootRecs : List (Option BootRec)
  /-- The key records of the control area, by key slot (R552). -/
  keyRecs : Sparse (Option (BitVec 768))
  /-- The newest wear-account line: save sequence and accounts (R574). -/
  wearSaved : Option (Nat × List Nat)
  /-- The cycle of the latest wear-account save (R574). -/
  wearAt : Option Nat
  /-- The retirement list in force (R365), in list order: page address and page size. -/
  retired : List (Nat × Nat)
  /-- The open update (R561). -/
  update : Option Update
  /-- The random part of the valid debug challenge (R567). -/
  challenge : Option (BitVec 192)
  /-- SHA-384 of the container booted for each class (R566); 0 where none. -/
  measure : List (BitVec 384)
  /-- The honoured map (R569). -/
  levelMap : BitVec 256
  /-- The module-wide reset whose hold is in progress (R540). -/
  rst : Option Nat
  /-- The DOMAIN_SET without its final reply (R520). -/
  domJob : Option DomJob
  /-- REG and CLU resets in progress (R51). -/
  rstJobs : List RstJob
  /-- Chrysalis entry, and the sleep until the wake (R532 to R539). -/
  sleep : Option Sleep
  /-- Level changes in progress, by island, with the command (R525). -/
  plJobs : List (Nat × Ticket)
  /-- The SELFTEST that runs (R321). -/
  selfTest : Option Ticket
  /-- The 416 Porter channels, by 32 × block + channel (R369). -/
  pchans : Sparse PChan
  /-- Releases that have reached the hub Porter block and are not applied, by channel (R389). -/
  relIn : Sparse Nat
  /-- The twelve Ethernet ports (R397). -/
  eth : Sparse EthPort
  /-- The eight Carriage ports (R433). -/
  cps : Sparse CpPort
  /-- The carriers, by number (R277). -/
  carriers : Sparse (Option Carrier)
  /-- Downlink U-plane that waits for its launch instant, in the order it was built (R282). -/
  uplane : List Plane
  /-- DELAY_MEAS in progress, by carrier (R420). -/
  dels : Sparse (Option DelayRun)
  /-- PRBS runs in progress, by lane (R403). -/
  prbs : Sparse (Option Ticket)
  /-- MODID as sampled at the end of the latest hold (R607). -/
  modid : Nat
  /-- TEST_EN as sampled at the end of the latest hold (R607). -/
  testEn : Bool
  /-- VDDQ_EN is high (R613). -/
  vddq : Bool
  /-- The cycle at which Concierge last restarted the hub watchdog (R530). -/
  wdtAt : Nat
  /-- The seconds counter of the always-on domain at its latest event (R535, R537). -/
  aonSec : Nat
  /-- The alarm value that the always-on island holds (R537, R544). -/
  aonAlarm : Nat
  /-- The module drives WAKE_N low after a wake (R537). -/
  wakeDrv : Bool
  deriving DecidableEq, Repr

/-- The module right after the power-on reset has been raised (R540): every register at its reset value, memory with
nothing listed, the reset hold in progress. `RESET_HOLD_END` ends the hold. -/
def State.reset : State where
  pending := []
  cyc := 0
  tkns := 0
  ext := 0
  free := 0
  regs := []
  mem := []
  marks := []
  mbuf := []
  hostIn := []
  out := []
  xings := []
  islands := []
  outst := []
  hostReads := []
  routers := []
  evq := []
  intake := []
  eccq := []
  tableFull := []
  scrub := none
  ddrGiB := 0
  ddrDev := 4
  cores := []
  cops := []
  clk := []
  inks := []
  heldOver := false
  engines := []
  jobRecs := []
  egress := []
  rings := []
  rrSlot := 0
  pcieUp := false
  bme := false
  memEn := false
  pcieCtl := PcieCtl.initial
  msixEn := false
  msixMask := false
  msixTab := []
  msixPba := []
  msiOpen := []
  hostFail := false
  uartBusy := false
  settings := []
  gbuf := []
  gbNext := 0
  gbLost := 0
  gbLostFirst := 0
  gbForced := false
  gbWanted := false
  gbWait := []
  gbRate := []
  nvWr := []
  utcSet := false
  chans := []
  mons := []
  strobes := []
  capEnd := 0
  capLog := []
  capSeq := []
  ptp := []
  tune := none
  loopAt := 0
  ppsHigh := false
  synce := [none, none]
  haltPend := none
  bootRecs := [none, none]
  keyRecs := []
  wearSaved := none
  wearAt := none
  retired := []
  update := none
  challenge := none
  measure := [0, 0, 0]
  levelMap := 0
  rst := some 0
  domJob := none
  rstJobs := []
  sleep := none
  plJobs := []
  selfTest := none
  pchans := []
  relIn := []
  eth := []
  cps := []
  carriers := []
  uplane := []
  dels := []
  prbs := []
  modid := 0
  testEn := false
  vddq := false
  wdtAt := 0
  aonSec := 0
  aonAlarm := 0
  wakeDrv := false

end Sys2Proof.Machine
end

