-- ==== Sys2Proof/Machine/Ops.lean ====
section
/-! DEFINITION. The operations every meaning is built from: the register store, free values, events, byte memory with
its error marks and merge buffers, and the record of what the device sends. -/

namespace Sys2Proof.Machine

/-- The answer of a meaning: a next state. -/
abbrev Result := Host.Outcome State Fault Refusal

/-! ### Registers -/

/-- The indices and the remaining byte offset of an address within a register row. -/
def idxAux : List (Nat × Nat) → Nat → List Nat → List Nat × Nat
  | [], rem, acc => (acc.reverse, rem)
  | (st, n) :: ds, rem, acc => let i := min (rem / st) (n - 1); idxAux ds (rem - i * st) (i :: acc)

/-- The indices and the word of the register of row `r` at address `a`, when the row has one there. -/
def RegRow.at? (r : RegRow) (a : Nat) : Option (List Nat × Nat) :=
  if a < r.base then none else
    let (ix, rem) := idxAux r.dims (a - r.base) []
    if rem % 4 = 0 ∧ rem / 4 < r.words then some (ix, rem / 4) else none

/-- The register at address `a`: its row, its indices and the word within it. -/
def regFind (a : Nat) : Option (RegRow × List Nat × Nat) :=
  regTable.findSome? fun r => (r.at? a).map fun (ix, w) => (r, ix, w)

/-- XCOUNT of island `i`, the number of crossings it joins (R639). -/
def xcount (i : Nat) : Nat :=
  if i < 24 then 25 else if i < 28 then 7 else if i < 32 then 144 else if i < 34 then 7
  else if i = 34 then 180 else if i < 39 then 4 else if i = 39 then 3 else if i < 52 then 5
  else if i = 52 then 49 else if i < 61 then 4 else if i = 61 then 6 else 2

/-- The weight of input port `p` of router `q` (R74). -/
def routerWeight (q p : Nat) : Nat :=
  if q < 24 then (if p = 0 then 1 else if p = 1 then 43 else 0)
  else if q < 28 then (if p < 8 then 1 else if p = 8 then 36 else 0)
  else if q < 30 then (if p < 2 then 8 else if p = 2 then 28 else 0)
  else if q = 30 then (if p < 2 then 16 else if p = 2 then 12 else 0)
  else (if p = 0 then 32 else if p = 1 then 1 else if p = 2 then 10 else if p = 3 then 1 else 0)

/-- The reset value of one field of a register, where the table's value depends on the index. -/
def fieldReset (n : RegName) (ix : List Nat) (f : FieldRow) : Nat :=
  let i := ix.headD 0
  match n, f.lo with
  | .TP_XSTAT, 24 => xcount i
  | .TP_WEIGHT, _ => routerWeight i (ix.getD 1 0)
  | .TP_SRCCFG, 2 => if (28 ≤ i ∧ i ≤ 31) ∨ i = 43 then 3 else 2
  | .HUB_RINGCTL, 24 => i
  | .HUB_RINGCTL, 16 => i
  | _, _ => f.rst

/-- The reset value of a whole register. -/
def RegRow.reset (r : RegRow) (ix : List Nat) : Nat :=
  r.fields.foldl (fun v f => setBits v f.lo f.len (fieldReset r.name ix f)) 0

/-- What the register word at address `a` holds at reset; 0 where there is no register (R66). -/
def regDefault (a : Nat) : Word :=
  match regFind a with
  | some (r, ix, w) => BitVec.ofNat 32 (r.reset ix >>> (32 * w))
  | none => 0

namespace State

/-- The register word at address `a`. -/
def reg (s : State) (a : Nat) : Nat := (sget s.regs a (regDefault a)).toNat

/-- Writes the register word at address `a`. -/
def setReg (s : State) (a v : Nat) : State :=
  { s with regs := sput s.regs a (BitVec.ofNat 32 v) (regDefault a) }

/-- A field of the register at `a`. -/
def rf (s : State) (a : Nat) (f : Fld) : Nat :=
  let w := a + 4 * (f.lo / 32)
  let lo := f.lo % 32
  if lo + f.len ≤ 32 then bits (s.reg w) lo f.len
  else bits (s.reg w + 2 ^ 32 * s.reg (w + 4)) lo f.len

/-- Sets a field of the register at `a`. -/
def wf (s : State) (a : Nat) (f : Fld) (v : Nat) : State :=
  let w := a + 4 * (f.lo / 32)
  let lo := f.lo % 32
  if lo + f.len ≤ 32 then s.setReg w (setBits (s.reg w) lo f.len v)
  else
    let n := setBits (s.reg w + 2 ^ 32 * s.reg (w + 4)) lo f.len v
    (s.setReg w (n % 2 ^ 32)).setReg (w + 4) (n >>> 32)

/-- A one-bit field as a Bool. -/
def rb (s : State) (a : Nat) (f : Fld) : Bool := s.rf a f = 1

/-- Sets a one-bit field. -/
def wb (s : State) (a : Nat) (f : Fld) (b : Bool) : State := s.wf a f (b2n b)

/-- Adds to a field, saturating at its width. -/
def incSat (s : State) (a : Nat) (f : Fld) (n : Nat) : State := s.wf a f (satAt f.len (s.rf a f + n))

/-- Adds to a field, wrapping at its width. -/
def incWrap (s : State) (a : Nat) (f : Fld) (n : Nat) : State := s.wf a f (s.rf a f + n)

/-- Draws a free value of `w` bits: nothing constrains it (log entry 1). -/
def draw (s : State) (w : Nat) : Nat × State :=
  (Config.freeValue s.free % 2 ^ w, { s with free := s.free + 1 })

/-- Draws `n` free bytes. -/
def drawBytes (s : State) (n : Nat) : List Byte × State :=
  ((List.range n).map fun i => BitVec.ofNat 8 (Config.freeValue (s.free + i)), { s with free := s.free + n })

/-- Appends to the record of what the device has sent (newest first). -/
def emit (s : State) (o : Out) : State := { s with out := o :: s.out }

end State

/-! ### Events -/

/-- The island that holds an event source (R575, R577): the sources of the always-on island reach the hub core
through line control (R638). -/
def srcIsland (n : Nat) : Nat :=
  if n < 192 then n / 8 else if n < 240 then (n - 192) / 2 else if n < 624 then (n - 240) / 16
  else if n < 656 then 34 else if n < 704 then 24 + (n - 656) / 12 else if n < 708 then 28 + (n - 704)
  else if n < 770 then n - 708 else if n = 770 then 61
  else if n < 795 then 28 + (n - 771) / 6 else if n < 799 then 28 + (n - 795)
  else if n = 799 then 32 else if n = 800 then 33 else if n < 803 then 34
  else if n < 819 then 39 else if n < 843 then 40 + (n - 819) / 2 else if n < 855 then 40 + (n - 843)
  else if n = 855 then 39 else if n < 864 then 53 + (n - 856) else if n < 884 then 61
  else if n < 902 then 34 else if n = 902 then 52 else if n = 903 then 34
  else if n < 912 then 35 + (n - 904) / 2 else 34

namespace State

/-- The event queue of island `i`. -/
def evqOf (s : State) (i : Nat) : EvQueue := sget s.evq i ⟨[], 0⟩

def setEvq (s : State) (i : Nat) (q : EvQueue) : State := { s with evq := sput s.evq i q ⟨[], 0⟩ }

/-- A crossing by its key. -/
def xing (s : State) (k : Nat) : Xing := sget s.xings k Xing.idle

def setXing (s : State) (k : Nat) (x : Xing) : State := { s with xings := sput s.xings k x Xing.idle }

end State

/-- The key of a crossing: source island, destination island, role of R638 and unit. -/
def xkey (src dst role unit : Nat) : Nat := ((src * 64 + dst) * 16 + role) * 8 + unit

/-- An event as the 123 bits its crossing carries (R577): code, source, P1, P2, P3. -/
def Event.pack (e : Event) : Nat :=
  e.code % 2 ^ 16 + 2 ^ 16 * (e.src % 2 ^ 11) + 2 ^ 27 * (e.p1 % 2 ^ 32) + 2 ^ 59 * (e.p2 % 2 ^ 32) +
    2 ^ 91 * (e.p3 % 2 ^ 32)

/-- A report as the value its crossing carries (R354, R356); the spec does not give the layout (DESIGN CHOICE, log entry 27). -/
def EccReport.pack (r : EccReport) : Nat :=
  r.addr % 2 ^ 48 + 2 ^ 48 * (r.unit % 16) + 2 ^ 52 * (r.kind % 16) + 2 ^ 56 * (r.pos % 128) + 2 ^ 63 * b2n r.uncorr +
    2 ^ 64 * b2n r.poison + 2 ^ 65 * (r.count % 32) + 2 ^ 70 * (r.addCorr % 2 ^ 16) + 2 ^ 86 * (r.addUnc % 2 ^ 16)

/-- The event that 123 bits carry. -/
def Event.unpack (v : Nat) : Event := ⟨bits v 0 16, bits v 16 11, bits v 27 32, bits v 59 32, bits v 91 32⟩

namespace State

/-- Presents the head of island `i`'s event queue on its crossing when that crossing is idle (R577). -/
def evqLaunch (s : State) (i : Nat) : State :=
  let k := xkey i 34 11 0
  let x := s.xing k
  if x.busy || x.iso then s else
    match (s.evqOf i).q with
    | [] => s
    | e :: _ => s.setXing k { x with busy := true, taken := false, value := e.pack }

/-- Raises an event in island `i` (R577, R578): the hub core's enter the Guestbook's intake; any other enters its island's
queue of 16, or is lost and counted. A module that sampled TEST_EN at 1 raises none (R607). -/
def raiseIn (s : State) (i code src p1 p2 p3 : Nat) : State :=
  if s.testEn then s else
  let e : Event := ⟨code, src, p1 % 2 ^ 32, p2 % 2 ^ 32, p3 % 2 ^ 32⟩
  if i = 34 then { s with intake := s.intake ++ [e] } else
    let q := s.evqOf i
    if q.q.length < 16 then (s.setEvq i { q with q := q.q ++ [e] }).evqLaunch i
    else (s.setEvq i { q with lost := satAt 16 (q.lost + 1) }).incSat GB_EVLOST.adr GB_EVLOST.COUNT 1

/-- Raises an event in the island of its source. -/
def raise (s : State) (code src p1 p2 p3 : Nat) : State := s.raiseIn (srcIsland src) code src p1 p2 p3

/-- Raises an event whose parameters P(n), P(n+1) are a 48-bit address (R576), as its second and third parameters. -/
def raiseA (s : State) (code src p1 addr : Nat) : State := s.raise code src p1 (addr % 2 ^ 32) (addr >>> 32)

/-- Raises an event whose first two parameters are a 48-bit address (R576). -/
def raiseA2 (s : State) (code src addr : Nat) : State := s.raise code src (addr % 2 ^ 32) (addr >>> 32) 0

end State

/-! ### The address map (R86 to R88) -/

/-- The island that holds router `q` (R57). -/
def routerIsland (q : Nat) : Nat :=
  if q < 24 then 28 + q / 6 else if q < 28 then 28 + (q - 24) else if q = 28 then 32 else if q = 29 then 33 else 34

/-- The island of an offset in the LN_ slice; an unimplemented window offset has none (spec/11, LN_ block). -/
def lnIsland (o : Nat) : Option Nat :=
  if o < 0x2800 then (let l := o / 0x100; some (if l < 16 then 39 else 40 + (l - 16) / 2))
  else if 0x100000 ≤ o ∧ o < 0x1C0000 then some (40 + (o - 0x100000) / 0x10000)
  else if 0x400000 ≤ o ∧ o < 0x800000 then
    (let x := (o - 0x400000) % 0x100000; if x < 0x50000 then some (48 + (o - 0x400000) / 0x100000) else none)
  else if 0x800000 ≤ o ∧ o < 0x1000000 then some (40 + (o - 0x800000) / 0x100000)
  else some 39

/-- The island of an address in the hub register window (R87, R88); slices not listed have none. An offset of the TP_ slice
outside the router, bridge and global blocks is the hub core's (DESIGN CHOICE, log entry 23: the spec names no island). -/
def hubWinIsland (a : Nat) : Option Nat :=
  let o := a % 0x1000000
  match a / 0x1000000 with
  | 0 => some 34
  | 1 => some (if o = 4 ∨ o = 8 ∨ (0x10 ≤ o ∧ o < 0x20) then 62 else 34)
  | 2 => some 52
  | 3 => some 34
  | 4 => some 34
  | 5 => some 34
  | 6 => lnIsland o
  | 7 => some (53 + o / 0x200000)
  | 8 => some 61
  | 9 => some (if o < 0x4000 then 35 + o / 0x1000 else 34)
  | 10 => some 34
  | 14 => some (if o < 0x200000 then routerIsland (o / 0x10000)
      else if 0x400000 ≤ o ∧ o < 0x43F000 then (o - 0x400000) / 0x1000 else 34)
  | _ => none

/-- Subchannel of a DDR address (R343). -/
def ddrSub (a : Nat) : Nat := bits (a - 0x10000000000) 8 3

/-- Local address of a DDR address within its subchannel (R343). -/
def ddrLocal (a : Nat) : Nat :=
  let d := a - 0x10000000000
  bits d 0 8 + 0x100 * (d >>> 11)

/-- The target island of a Turnpike address under R86; none: outside every listed range. `gib` is the installed DDR. -/
def islandAt (gib a : Nat) : Option Nat :=
  if a < 0x10000000 then hubWinIsland a
  else if 0x100000000 ≤ a ∧ a < 0x100000000 + 192 * 0x100000 then
    let o := a % 0x100000
    if o < 0x10000 ∨ (0x40000 ≤ o ∧ o < 0x80000) then some ((a - 0x100000000) / 0x100000 / 8) else none
  else if 0x200000000 ≤ a ∧ a < 0x200000000 + 24 * 0x1000000 then
    let o := a % 0x1000000
    if o < 0x400000 ∨ (0x800000 ≤ o ∧ o < 0x810000) ∨ (0xC00000 ≤ o ∧ o < 0xC10000)
    then some ((a - 0x200000000) / 0x1000000) else none
  else if 0x300000000 ≤ a ∧ a < 0x300000000 + 4 * 0x1000000 then
    let o := a % 0x1000000
    let r := (a - 0x300000000) / 0x1000000
    if o < 0x800000 then some (28 + r) else if o < 0x900000 then some (24 + r)
    else if 0xC00000 ≤ o ∧ o < 0xD00000 then some (28 + r) else none
  else if 0x400000000 ≤ a ∧ a < 0x402000000 then some 34
  else if 0x500000000 ≤ a ∧ a < 0x501000000 then some 34
  else if 0x10000000000 ≤ a ∧ a < 0x10000000000 + 0x40000000 * gib then some (35 + ddrSub a / 2)
  else if 0x800000000000 ≤ a ∧ a < 0x1000000000000 then some 39
  else none

/-- A memory of R337: its kind (R355), its island, its reporting unit (R354) and its code-word size in bytes. -/
structure MemLoc where
  kind : Nat
  island : Nat
  unit : Nat
  wsize : Nat
  deriving DecidableEq, Repr

/-- The memory that holds byte `a`; none where the address is no memory. -/
def memLoc (gib a : Nat) : Option MemLoc :=
  if 0x100000000 ≤ a ∧ a < 0x100000000 + 192 * 0x100000 then
    let o := a % 0x100000
    let n := (a - 0x100000000) / 0x100000
    if o < 0x10000 then some ⟨0, n / 8, 4 + n / 48, 8⟩
    else if 0x40000 ≤ o ∧ o < 0x80000 then some ⟨1, n / 8, 4 + n / 48, 2⟩ else none
  else if 0x200000000 ≤ a ∧ a < 0x200000000 + 24 * 0x1000000 then
    let k := (a - 0x200000000) / 0x1000000
    if a % 0x1000000 < 0x400000 then some ⟨2, k, 4 + k / 6, 8⟩ else none
  else if 0x300000000 ≤ a ∧ a < 0x300000000 + 4 * 0x1000000 then
    let r := (a - 0x300000000) / 0x1000000
    if a % 0x1000000 < 0x800000 then some ⟨3, 28 + r, 4 + r, 8⟩ else none
  else if 0x400000000 ≤ a ∧ a < 0x402000000 then some ⟨7, 34, 8, 8⟩
  else if 0x500000000 ≤ a ∧ a < 0x501000000 then some ⟨6, 34, 8, 8⟩
  else if 0x10000000000 ≤ a ∧ a < 0x10000000000 + 0x40000000 * gib then
    some ⟨8, 35 + ddrSub a / 2, ddrSub a / 2, 4⟩
  else none

/-- The key of the merge buffer of a word (R352): island and bank; none where the memory has no merge buffers. -/
def mergeKey (l : MemLoc) (a : Nat) : Option Nat :=
  match l.kind with
  | 2 => some (l.island * 64 + bits a 6 4)
  | 3 => some (l.island * 64 + bits a 6 4)
  | 6 => some (l.island * 64 + bits a 6 4)
  | 7 => some (l.island * 64 + 63)
  | _ => none

/-- The enabled bytes of a write of the line at `line`, with their addresses, in rising order. -/
def lineItems (line en data : Nat) : List (Nat × Byte) :=
  (List.range 64).filterMap fun i => if bit en i then some (line + i, BitVec.ofNat 8 (data >>> (8 * i))) else none

/-! ### Byte memory -/

namespace State

/-- One byte of memory, as the array holds it. -/
def byteAt (s : State) (a : Nat) : Byte := sget s.mem a 0

/-- Stores one byte in the array. -/
def setByte (s : State) (a : Nat) (b : Byte) : State := { s with mem := sput s.mem a b 0 }

/-- `n` bytes of the array from address `a`. -/
def bytesAt (s : State) (a n : Nat) : List Byte := (List.range n).map fun i => s.byteAt (a + i)

/-- Stores bytes in the array from address `a`. -/
def setBytes (s : State) (a : Nat) : List Byte → State
  | [] => s
  | b :: bs => (s.setByte a b).setBytes (a + 1) bs

/-- The mark of a code word. -/
def markAt (s : State) (w : Nat) : Option Mark := sget s.marks w none

def setMark (s : State) (w : Nat) (m : Option Mark) : State := { s with marks := sput s.marks w m none }

def eccqOf (s : State) (i : Nat) : EccQueue := sget s.eccq i ⟨[], 0, 0⟩

def setEccq (s : State) (i : Nat) (q : EccQueue) : State := { s with eccq := sput s.eccq i q ⟨[], 0, 0⟩ }

/-- Presents the oldest report of island `i` on its crossing to the hub core, when that is idle (R356, R638). The hub core's own
reports cross nothing. -/
def eccLaunch (s : State) (i : Nat) : State :=
  let k := xkey i 34 12 0
  let x := s.xing k
  if i = 34 || x.busy || x.iso then s else
    match (s.eccqOf i).q with
    | [] => s
    | r :: _ => s.setXing k { x with busy := true, taken := false, value := r.pack }

/-- An error report enters the queue of its island, or is counted there (R356). -/
def report (s : State) (i : Nat) (r : EccReport) : State :=
  let q := s.eccqOf i
  if q.q.length < 4 then (s.setEccq i ⟨q.q ++ [{ r with addCorr := q.corr, addUnc := q.unc }], 0, 0⟩).eccLaunch i
  else if r.uncorr then s.setEccq i { q with unc := satAt 16 (q.unc + r.count) }
  else s.setEccq i { q with corr := satAt 16 (q.corr + r.count) }

/-- Reports the decode of one SRAM code word under its mark (R354). -/
def reportWord (s : State) (l : MemLoc) (w : Nat) (m : Mark) : State :=
  match m with
  | .corrected p => s.report l.island ⟨l.unit, l.kind, w, p, false, false, 1, 0, 0⟩
  | .uncorrectable => s.report l.island ⟨l.unit, l.kind, w, 0x7F, true, false, 1, 0, 0⟩
  | .poisoned => s.report l.island ⟨l.unit, l.kind, w, 0x7F, true, true, 1, 0, 0⟩

/-- The narrow write of some bytes of a code word as a merge with its stored contents (R350). -/
def mergeWord (s : State) (l : MemLoc) (w : Nat) (items : List (Nat × Byte)) : State :=
  let s1 := items.foldl (fun s e => s.setByte e.1 e.2) s
  match s.markAt w with
  | none => s1
  | some (.corrected p) => (s1.setMark w none).reportWord l w (.corrected p)
  | some m => (s1.setMark w (some .poisoned)).reportWord l w m

/-- The entries of a merge buffer, oldest first. -/
def mbufOf (s : State) (k : Nat) : List MergeEnt := sget s.mbuf k []

def setMbuf (s : State) (k : Nat) (es : List MergeEnt) : State := { s with mbuf := sput s.mbuf k es [] }

/-- The bytes that a merge entry holds, with their addresses. -/
def entItems (e : MergeEnt) : List (Nat × Byte) :=
  (List.range 8).filterMap fun i =>
    if bit e.mask i then some (e.word + i, BitVec.ofNat 8 (e.data >>> (8 * i))) else none

/-- Writes one merge entry to the array (R352): with no read when its mask is full, else by read-merge-write. -/
def flushEnt (s : State) (l : MemLoc) (k : Nat) (e : MergeEnt) : State :=
  let s1 := s.setMbuf k ((s.mbufOf k).filter fun x => x.word ≠ e.word)
  if e.mask = 0xFF then ((entItems e).foldl (fun s x => s.setByte x.1 x.2) s1).setMark e.word none
  else s1.mergeWord l e.word (entItems e)

/-- Writes the entry of word `w`, if there is one, before the word is read (R352). -/
def flushWord (s : State) (l : MemLoc) (w : Nat) : State :=
  match mergeKey l w with
  | none => s
  | some k =>
    match (s.mbufOf k).find? (fun e => e.word = w) with
    | none => s
    | some e => s.flushEnt l k e

/-- Writes every entry of every merge buffer of island `i` (R352, before a reset or a power-off). -/
def flushIsland (s : State) (i : Nat) : State :=
  (s.mbuf.filter fun e => e.1 / 64 = i).foldl (fun s be =>
    be.2.foldl (fun s e =>
      match memLoc s.ddrGiB e.word with
      | some l => s.flushEnt l be.1 e
      | none => s) s) s

/-- Places narrow bytes in the merge buffer of their word (R352): in the word's entry, or in a free entry, for which
the oldest entry is written when all eight are taken. A full mask is written to the array at once. -/
def bufferWord (s : State) (l : MemLoc) (k w : Nat) (items : List (Nat × Byte)) : State :=
  let s1 :=
    if (s.mbufOf k).any (fun e => e.word = w) then s
    else
      let s0 := if (s.mbufOf k).length < 8 then s else
        match s.mbufOf k with
        | e :: _ => s.flushEnt l k e
        | [] => s
      s0.setMbuf k (s0.mbufOf k ++ [⟨w, 0, 0⟩])
  let upd (e : MergeEnt) : MergeEnt :=
    if e.word ≠ w then e else
      items.foldl (fun e x =>
        let i := x.1 - w
        { e with mask := e.mask ||| 2 ^ i, data := setBits e.data (8 * i) 8 x.2.toNat }) e
  let s2 := s1.setMbuf k ((s1.mbufOf k).map upd)
  match (s2.mbufOf k).find? (fun e => e.word = w) with
  | some e => if e.mask = 0xFF then s2.flushEnt l k e else s2
  | none => s2

/-- A write that reaches one code word: whole (valid check bits, R349, R350), or narrow (R350 to R352). -/
def storeWord (s : State) (l : MemLoc) (w : Nat) (items : List (Nat × Byte)) : State :=
  if items.length = l.wsize then
    let s1 := match mergeKey l w with
      | some k => s.setMbuf k ((s.mbufOf k).filter fun x => x.word ≠ w)
      | none => s
    (items.foldl (fun s e => s.setByte e.1 e.2) s1).setMark w none
  else
    match mergeKey l w with
    | some k => s.bufferWord l k w items
    | none => s.mergeWord l w items

/-- The 16 beats of a DDR line: whether it is uncorrectable (R347), how many beats are corrected, and at what symbol. -/
def ddrDecode (s : State) (line : Nat) : Bool × Bool × Nat × Nat :=
  let ms := (List.range 16).filterMap fun j => s.markAt (line + 4 * j)
  let pos := ms.filterMap fun m => match m with | .corrected p => some p | _ => none
  let bad := ms.any fun m => match m with | .corrected _ => false | _ => true
  let poison := ms.any fun m => decide (m = .poisoned)
  let mixed := pos.any fun p => p ≠ pos.headD 0
  (bad || mixed, poison, pos.length, pos.headD 0)

/-- Reports the decode of a DDR line, when it is not clean (R354). -/
def ddrReport (s : State) (l : MemLoc) (line : Nat) : State :=
  let (unc, poison, n, pos) := s.ddrDecode line
  if unc then s.report l.island ⟨l.unit, 8, line, 0x7F, true, poison, 16, 0, 0⟩
  else if n = 0 then s
  else s.report l.island ⟨l.unit, 8, line, pos, false, false, n, 0, 0⟩

/-- A write that reaches one DDR line: whole, or as the read-merge-write of R353. -/
def storeDdr (s : State) (l : MemLoc) (line : Nat) (items : List (Nat × Byte)) : State :=
  let s1 := items.foldl (fun s e => s.setByte e.1 e.2) s
  let clear (s : State) := upto 16 (fun j s => s.setMark (line + 4 * j) none) s
  if items.length = 64 then clear s1
  else
    let (unc, _, _, _) := s.ddrDecode line
    let s2 := clear (s1.ddrReport l line)
    if unc then
      upto 16 (fun j s =>
        let covered := (List.range 4).all fun i => items.any fun e => e.1 = line + 4 * j + i
        if covered then s else s.setMark (line + 4 * j) (some .poisoned)) s2
    else s2

/-- Writes bytes within one 64-byte line of memory; `items` in rising address order. Bytes at addresses that are no
memory are dropped. -/
def memStore (s : State) (items : List (Nat × Byte)) : State :=
  match items with
  | [] => s
  | (a, _) :: _ =>
    match memLoc s.ddrGiB a with
    | none => s
    | some l =>
      if l.kind = 8 then s.storeDdr l (a / 64 * 64) items
      else
        let ws := (items.map fun e => e.1 / l.wsize * l.wsize).eraseDups
        ws.foldl (fun s w => s.storeWord l w (items.filter fun e => e.1 / l.wsize * l.wsize = w)) s

/-- Reads `n` bytes within one 64-byte line of memory: whether every code word that holds them decodes (R346 to R349),
and the bytes. Entries of the merge buffers are written first (R352); every error is reported (R354). -/
def memLoad (s : State) (a n : Nat) : Bool × List Byte × State :=
  match memLoc s.ddrGiB a with
  | none => (true, List.replicate n 0, s)
  | some l =>
    if l.kind = 8 then
      let line := a / 64 * 64
      let (unc, _, _, _) := s.ddrDecode line
      (!unc, s.bytesAt a n, s.ddrReport l line)
    else
      let w0 := a / l.wsize
      let ws := (List.range ((a + n - 1) / l.wsize - w0 + 1)).map fun i => (w0 + i) * l.wsize
      let s1 := ws.foldl (fun s w => s.flushWord l w) s
      let bad := ws.any fun w => match s1.markAt w with
        | some .uncorrectable => true
        | some .poisoned => true
        | _ => false
      let s2 := ws.foldl (fun s w => match s1.markAt w with
        | some m => s.reportWord l w m
        | none => s) s1
      (!bad, s1.bytesAt a n, s2)

/-- Chrysalis entry is in its prepare phase (R533). -/
def preparing (s : State) : Bool := match s.sleep with
  | some sl => !sl.committed
  | none => false

/-- Runs `f` with what the host returns to the module's reads meanwhile (R407). -/
def withHost (s : State) (h : HostData) (f : State → State) : State :=
  { f { s with hostIn := h.data, hostFail := h.fail } with hostIn := [], hostFail := false }

/-- What an upset's word now decodes to. -/
def upsetMark (u : Upset) : Option Mark :=
  match u.outcome with
  | 0 => none
  | 1 => some (.corrected u.pos.toNat)
  | 2 => some .uncorrectable

/-- Word `w` of register `r` of a coprocessor context decodes to `m`, with `d` in its place where it is not empty (R135). -/
def upsetCR (s : State) (k u ctx r w : Nat) (m : Option Mark) (d : List Byte) : State :=
  let c := sget s.cops (2 * k + u) Coproc.reset
  let i := ctx * 32 + r
  let v := (sget c.cr i 0).toNat
  let v1 := if d.isEmpty then v else setBits v (64 * w) 64 (leVal d % 2 ^ 64)
  let c1 : Coproc := { c with cr := sput c.cr i (BitVec.ofNat 512 v1) 0, bad := sput c.bad (8 * i + w) m none }
  { s with cops := sput s.cops (2 * k + u) c1 Coproc.reset }

/-- Whether an upset is one that can happen (R346, R347): of a code word of a memory, with its data whole, and corrected at a position
that the code word has: 72 or 22 bits, or ten symbols. -/
def upsetOk (s : State) (u : Upset) : Bool :=
  let posIn (n : Nat) : Bool := u.outcome ≠ 1 || decide (u.pos.toNat < n)
  match u.cr with
  | some _ => posIn 72
  | none => match memLoc s.ddrGiB u.addr.toNat with
    | some l => u.addr.toNat % l.wsize = 0 && (u.data.isEmpty || u.data.length = l.wsize) &&
        posIn (if l.kind = 8 then 10 else if l.kind = 1 then 22 else 72)
    | none => false

/-- What the environment does to stored words (R346, R347). -/
def applyUpsets (s : State) (us : List Upset) : State :=
  us.foldl (fun s u => if !s.upsetOk u then s else match u.cr with
    | some (k, x, ctx, r, w) => s.upsetCR k x ctx r w (upsetMark u) u.data
    | none => (s.setBytes u.addr.toNat u.data).setMark u.addr.toNat (upsetMark u)) s

end State

end Sys2Proof.Machine
end

