-- ==== Sys2Proof/Machine/Crossing.lean ====
section
/-! DEFINITION. The crossings of R638, their numbering (R639), their owners (R27), and what their sides do: launching,
delivering and acknowledging pulses and values, Gray-coded counters, snapshots, timeouts (R30 to R49), and the bridge
status register (R55). -/

namespace Sys2Proof.Machine

/-- A crossing: source island, destination island, role of R638 and unit. -/
structure Xid where
  src : Nat
  dst : Nat
  role : Nat
  unit : Nat
  deriving DecidableEq, Repr

/-- The key of a crossing in the table of crossings. -/
def Xid.key (x : Xid) : Nat := xkey x.src x.dst x.role x.unit

/-- The kinds of crossing, coded as FIRST_KIND: 0 pulse, 1 value, 2 Gray-coded counter, 3 snapshot (R30, R638). -/
def Xid.kind (x : Xid) : Nat :=
  match x.role with
  | 0 => 2
  | 1 => 2
  | 2 => 1
  | 8 => 1
  | 9 => 2
  | 10 => 3
  | 11 => 1
  | 12 => 1
  | 14 => 1
  | 15 => 1
  | _ => 0

/-- Whether islands `a` and `b` are joined by a Turnpike link bridge (R57). -/
def tpLink (a b : Nat) : Bool :=
  let one (a b : Nat) : Bool :=
    (a < 24 && b == 28 + a / 6) || (24 ≤ a && a < 28 && b == a + 4) || (28 ≤ a && a < 32 && b == 32 + (a - 28) / 2) ||
    ((a == 32 || a == 33) && b == 34) || (b == 34 && 35 ≤ a && a < 62)
  one a b || one b a

/-- The crossings of the bridge between islands `i` and `f`, numbered as island `i` numbers them (R638, R639). -/
def xingsOf (i f : Nat) : List Xid :=
  let tp := if tpLink i f then [⟨i, f, 0, 0⟩, ⟨f, i, 0, 0⟩] else []
  let both (c h : Nat) (l : List Xid) : List Xid := if (i = c ∧ f = h) ∨ (i = h ∧ f = c) then l else []
  let lo := min i f
  let hi := max i f
  let cluster (k r : Nat) : List Xid :=
    ((List.range 8).map fun j => ⟨r, k, 2, j⟩) ++ ((List.range 8).map fun j => ⟨r, k, 3, j⟩) ++
      [⟨k, r, 4, 0⟩, ⟨k, r, 5, 0⟩, ⟨k, r, 6, 0⟩, ⟨r, k, 8, 0⟩]
  let group (a r : Nat) : List Xid := [⟨a, r, 4, 0⟩, ⟨a, r, 7, 0⟩, ⟨r, a, 8, 0⟩]
  tp ++
  (if lo < 24 ∧ hi = 28 + lo / 6 then cluster lo hi else []) ++
  (if 24 ≤ lo ∧ lo < 28 ∧ hi = lo + 4 then group lo hi else []) ++
  both 34 52 [⟨34, 52, 5, 0⟩] ++
  (if 28 ≤ lo ∧ lo < 32 ∧ hi = 34 then [⟨lo, 34, 8, 0⟩] else []) ++
  (if 28 ≤ lo ∧ lo < 32 ∧ hi = 52 then [⟨52, lo, 9, 0⟩] else []) ++
  (if (lo < 24 ∨ (28 ≤ lo ∧ lo < 32)) ∧ hi = 52 then [⟨52, lo, 10, 0⟩] else []) ++
  (if (lo < 34 ∧ hi = 34) then [⟨lo, 34, 11, 0⟩] else []) ++
  (if (lo = 34 ∧ 34 < hi ∧ hi < 62) then [⟨hi, 34, 11, 0⟩] else []) ++
  (if (lo < 32 ∧ hi = 34) then [⟨lo, 34, 12, 0⟩] else []) ++
  (if (lo = 34 ∧ 35 ≤ hi ∧ hi < 39) then [⟨hi, 34, 12, 0⟩] else []) ++
  (if (lo = 34 ∧ ((40 ≤ hi ∧ hi < 52) ∨ (53 ≤ hi ∧ hi < 61))) then [⟨hi, 34, 13, 0⟩] else []) ++
  (if 40 ≤ lo ∧ lo < 52 ∧ hi = 52 then [⟨lo, 52, 14, 0⟩] else []) ++
  both 61 52 [⟨61, 52, 14, 0⟩] ++
  both 61 62 [⟨62, 61, 15, 0⟩, ⟨61, 62, 15, 1⟩]

/-- The crossings that island `i` joins, in the order of R639. -/
def islandXings (i : Nat) : List Xid :=
  (List.range 63).flatMap fun f => if f = i then [] else xingsOf i f

/-- Crossing number `x` of island `i`. -/
def xidAt (i x : Nat) : Option Xid := (islandXings i)[x]?

/-- The index of a crossing in island `i` (R639). -/
def xidIndex (i : Nat) (x : Xid) : Nat := (islandXings i).idxOf x

/-- Distance of an island from the hub core along the Turnpike. -/
def hubDistance (i : Nat) : Nat :=
  if i = 34 then 0 else if i < 28 then 3 else if i < 32 then 2 else if i = 62 then 2 else 1

/-- The owner of the bridge between two islands (R27): the farther from the hub core, else the earlier in the island
table. -/
def bridgeOwner (a b : Nat) : Nat :=
  if hubDistance a < hubDistance b then b else if hubDistance b < hubDistance a then a else min a b

/-- The crossings of the bridges that island `i` owns (R50). -/
def ownedXings (i : Nat) : List Xid := (islandXings i).filter fun x => bridgeOwner x.src x.dst = i

/-- The pulses in flight and waiting on a crossing. Those that units hold (R36) count as pending (DESIGN CHOICE, log entry 4: R48
names in-flight and pending counts only). -/
def Xing.waiting (x : Xing) : Nat := x.count + (x.pend.map PulseWait.count).sum + (x.held.map PulseWait.count).sum

namespace State

def isl (s : State) (i : Nat) : IslandSt := sget s.islands i IslandSt.idle

def setIsl (s : State) (i : Nat) (v : IslandSt) : State := { s with islands := sput s.islands i v IslandSt.idle }

/-- Whether island `i` has been declared dead (TP_DEAD, R82). -/
def deadIsl (s : State) (i : Nat) : Bool :=
  if i < 32 then bit (s.reg TP_DEAD0.adr) i else bit (s.reg TP_DEAD1.adr) (i - 32)

/-- Whether crossing `x` belongs to the bridge that a dead island's router has isolated (R82): its Turnpike link, or the bridge
between line control and always-on, which has no other (R21, R544). Its bridges to other islands stay in service. -/
def deadLink (s : State) (x : Xid) : Bool :=
  (tpLink x.src x.dst || (x.src = 61 && x.dst = 62) || (x.src = 62 && x.dst = 61)) && s.deadIsl (bridgeOwner x.src x.dst)

/-- Whether a crossing is isolated: itself (R46), or with its bridge (R51, R76, R82). -/
def xIso (s : State) (x : Xid) : Bool :=
  (s.xing x.key).iso || (s.isl (bridgeOwner x.src x.dst)).iso || s.deadLink x

/-- ISO of TP_XSTAT of island `i`: whether any crossing that it joins is isolated. -/
def islIso (s : State) (i : Nat) : Bool := (islandXings i).any fun x => s.xIso x

/-- Sets LOST (0), TMO (1) or DISC (3) of island `i`'s TP_XSTAT, capturing the first error (R55). -/
def xflag (s : State) (i flag cause kind idx : Nat) : State :=
  let a := TP_XSTAT.adr i
  let clear := !(s.rb a TP_XSTAT.LOST || s.rb a TP_XSTAT.TMO || s.rb a TP_XSTAT.DISC)
  let s1 := if clear then
      ((s.wf a TP_XSTAT.FIRST_CAUSE cause).wf a TP_XSTAT.FIRST_KIND kind).wf a TP_XSTAT.FIRST_IDX idx
    else s
  s1.wf a ⟨flag, 1⟩ 1

/-- Pulses of island `i` lost on crossing `x` (R35, R48): LOST and the crossing-lost event. -/
def pulsesLost (s : State) (x : Xid) (n : Nat) : State :=
  let idx := xidIndex x.src x
  (s.xflag x.src 0 1 0 idx).raise 0x0101 (708 + x.src) idx (min n 0xFFFF) 0

/-- Whether a pulse crossing keeps one pending count for each feeding unit (R36, and DONE, which carries the unit as
its target). -/
def multiTarget (role : Nat) : Bool := role = 4 || role = 5 || role = 6 || role = 7

/-- A pulse of unit `u` for target `t` arrives at the source side of pulse crossing `x` (R31 to R33, R35, R36, R48, R52). A
pulse into an isolated crossing is lost at once (R48); one into a bridge that a reset or a power-off has isolated is discarded and
counted (R51, R52). The first pulse after an acknowledge with which a pulse coincided is that pulse: it joins the count launched
where R33 lets it, and no later pulse does. -/
def pulse (s : State) (x : Xid) (u t : Nat) : State :=
  let was := s.xing x.key
  let st := { was with join := false }
  let o := bridgeOwner x.src x.dst
  let is := s.isl o
  if st.iso || s.deadLink x then s.pulsesLost x 1
  else if is.iso then
    if x.dst = o then
      let k := xidIndex x.src x
      s.setIsl o { is with discarded := is.discarded + 1, disc := some (min k (is.disc.getD k)) }
    else s.pulsesLost x 1
  else if !st.busy then s.setXing x.key { st with busy := true, taken := false, count := 1, target := t }
  else if was.join && decide (st.count < 15) && st.target = t then s.setXing x.key { st with count := st.count + 1 }
  else
    match st.pend.find? (fun p => p.unit = u) with
    | none => s.setXing x.key { st with pend := st.pend ++ [⟨u, t, 1⟩] }
    | some p =>
      if multiTarget x.role then
        if p.target ≠ t ∨ 15 ≤ p.count ∨ st.held.any (fun h => h.unit = u) then
          s.setXing x.key { st with held := st.held ++ [⟨u, t, 1⟩] }
        else s.setXing x.key { st with pend := st.pend.map fun q => if q.unit = u then { q with count := q.count + 1 } else q }
      else if p.count < 15 then
        s.setXing x.key { st with pend := st.pend.map fun q => if q.unit = u then { q with count := q.count + 1 } else q }
      else (s.setXing x.key st).pulsesLost x 1

/-- Whether unit `u` holds a pulse on crossing `x` (R36). -/
def pulseHeld (s : State) (x : Xid) (u : Nat) : Bool := (s.xing x.key).held.any fun h => h.unit = u

/-- The acknowledge of a pulse crossing arrives (R32, R36): the pending count that has waited longest is launched, and
a pulse its unit held becomes pending. With `join`, a pulse arrives in the same source cycle: the next pulse of the crossing
is added to the count launched when that is below 15, and becomes pending else (R33). -/
def pulseAck (s : State) (x : Xid) (join : Bool) : State :=
  let st := s.xing x.key
  if !(st.busy && st.taken) || s.xIso x then s else
    match st.pend with
    | [] => s.setXing x.key { st with busy := false, taken := false, count := 0, target := 0 }
    | p :: ps =>
      let ps' := match st.held.find? (fun h => h.unit = p.unit) with
        | some h => ps ++ [h]
        | none => ps
      s.setXing x.key { st with taken := false, count := p.count, target := p.target, pend := ps', join := join,
                                held := ldrop1 (fun h => h.unit = p.unit) st.held }

/-- A source update of value crossing `x` (R37, R38): launched when idle, else placed in the pending slot; held and not
launched on an isolated crossing (R48). -/
def valueSend (s : State) (x : Xid) (v : Nat) : State :=
  let st := s.xing x.key
  if st.busy || s.xIso x then s.setXing x.key { st with vpend := some v }
  else s.setXing x.key { st with busy := true, taken := false, value := v }

/-- The destination of value crossing `x` takes the value in flight (R37). -/
def valueTake (s : State) (x : Xid) : State :=
  let st := s.xing x.key
  if st.busy && !st.taken && !s.xIso x then s.setXing x.key { st with taken := true, dst := st.value, fresh := true }
  else s

/-- The acknowledge of a value crossing arrives (R38): a pending value is captured and launched. -/
def valueAck (s : State) (x : Xid) : State :=
  let st := s.xing x.key
  if !(st.busy && st.taken) || s.xIso x then s else
    match st.vpend with
    | none => s.setXing x.key { st with busy := false, taken := false }
    | some v => s.setXing x.key { st with taken := false, value := v, vpend := none }

/-- The acknowledge of an event queue's crossing (R577, R578): the queue advances, a waiting event-overflow event is
enqueued as room allows, and the next head is presented. An event that the Guestbook has not taken is not
acknowledged. -/
def evqAck (s : State) (x : Xid) : State :=
  let st := s.xing x.key
  if !(st.busy && st.taken) || st.fresh || s.xIso x then s else
    let s1 := s.setXing x.key { st with busy := false, taken := false }
    let q := s1.evqOf x.src
    let rest := q.q.drop 1
    let q' : EvQueue :=
      if q.lost = 0 then { q with q := rest } else ⟨rest ++ [⟨0x0F02, 708 + x.src, q.lost, 0, 0⟩], 0⟩
    (s1.setEvq x.src q').evqLaunch x.src

/-- The acknowledge of a report queue's crossing arrives (R356): the queue advances and its next head is presented. A report that
the hub has not taken is not acknowledged. -/
def eccAck (s : State) (x : Xid) : State :=
  let st := s.xing x.key
  if !(st.busy && st.taken) || st.fresh || s.xIso x then s else
    let s1 := s.setXing x.key { st with busy := false, taken := false }
    (s1.setEccq x.src { s1.eccqOf x.src with q := (s1.eccqOf x.src).q.drop 1 }).eccLaunch x.src

/-- The times of the queue heads of island `i` go to the comparator (role 14 of R638): they are sent when they have changed, or
when a head that the comparator has not taken (`new`) is not on its way. -/
def schedSend (s : State) (i v : Nat) (new : Bool) : State :=
  let x : Xid := ⟨i, 52, 14, 0⟩
  let st := s.xing x.key
  if st.vpend.getD st.value = v ∧ (new = false ∨ st.vpend.isSome = true ∨ (st.busy = true ∧ st.taken = false)) then s
  else s.valueSend x v

/-- The instant that LT names for a comparator which takes it now (R467, R483). -/
def instantOf (s : State) (lt : Nat) : Int := (s.cyc : Int) + sgn 32 (lt + 2 ^ 32 - s.tkns)

/-- The alarm and the wake flag, as line control's image holds them, go to the always-on island (R544). -/
def aonSend (s : State) : State :=
  s.valueSend ⟨61, 62, 15, 1⟩ (s.reg PW_ALARM.adr + 2 ^ 32 * s.rf PW_RSTCAUSE.adr PW_RSTCAUSE.WAKEF)

/-- The always-on island presents its registers to line control (R544). Line control's image, which the register store is, holds
them before READY is set. -/
def aonPresent (s : State) : State :=
  s.valueSend ⟨62, 61, 15, 0⟩ (wordsVal ([PW_RSTCAUSE.adr, PW_RSTKIND.adr, PW_WAKEREC.adr, PW_WAKESEC_LO.adr, PW_WAKESEC_HI.adr,
    PW_ALARM.adr].map fun a => BitVec.ofNat 32 (s.reg a)))

/-- What the source side of a Gray-coded counter holds: TK_NS for a time replica, else the crossing's own counter. -/
def graySource (s : State) (x : Xid) : Nat := if x.role = 9 then s.tkns else (s.xing x.key).value

/-- The time replica of region `r` (R42 to R44): TK_NS, with no lag (DEDUCED, log entry 6), unless a phase step holds it
at its value before the step or its crossing is isolated. -/
def replica (s : State) (r : Nat) : Nat :=
  let x : Xid := ⟨52, 28 + r, 9, 0⟩
  if s.xIso x || (s.xing x.key).fresh then (s.xing x.key).dst else s.tkns

/-- Every time replica holds its value before a phase step of TK_NS until its reload (R44). -/
def holdReplicas (s : State) : State :=
  upto 4 (fun r s =>
    let x : Xid := ⟨52, 28 + r, 9, 0⟩
    s.setXing x.key { s.xing x.key with dst := s.replica r, fresh := true }) s

/-- The counter value reaches the destination (R42); frozen on an isolated crossing (R48), and held by a replica until
its reload after a phase step (R44). -/
def grayUpdate (s : State) (x : Xid) : State :=
  let st := s.xing x.key
  if s.xIso x || (x.role = 9 && st.fresh) then s else s.setXing x.key { st with dst := s.graySource x }

/-- A snapshot read's result (R45, R48): the source value captured between request and result, or all ones with the
error bit on an isolated crossing. -/
def snapshot (s : State) (x : Xid) : State :=
  let st := s.xing x.key
  if s.xIso x then s.setXing x.key { st with dst := 2 ^ 64 - 1, fresh := false, busy := false }
  else s.setXing x.key { st with value := s.tkns, dst := s.tkns, fresh := true, busy := false }

/-- Whether side `i` of crossing `x` is waiting for the other side (R48): the source of an unacknowledged pulse or
value, the destination of a Gray-coded counter, the reader of a snapshot. A region fabric reads for the reload of its time
replica (R44); that a cluster's read is outstanding is the command's to say (log entry 4). -/
def waitsAt (s : State) (i : Nat) (x : Xid) : Bool :=
  match x.kind with
  | 0 => i = x.src && (s.xing x.key).busy
  | 1 => i = x.src && (s.xing x.key).busy
  | 2 => i = x.dst
  | _ => i = x.dst && (decide (i < 24) || (s.xing (Xid.key ⟨52, i, 9, 0⟩)).fresh)

/-- The wait of side `i` of crossing `x` times out (R46, R48): the transfer completes with error, TMO is set, the event
is raised and the crossing is isolated. -/
def xTimeout (s : State) (i : Nat) (x : Xid) : State :=
  if !s.waitsAt i x || s.xIso x then s else
    let st := s.xing x.key
    let idx := xidIndex i x
    -- of two errors of one cycle at one index, the loss is captured before the timeout (R55)
    let s0 := if x.kind = 0 then s.pulsesLost x st.waiting else s
    let s1 := (s0.xflag i 1 2 x.kind idx).raise 0x0102 (708 + i) idx x.kind 0
    match x.kind with
    | 0 => s1.setXing x.key { st with iso := true, busy := false, taken := false, count := 0, pend := [], held := [], join := false }
    | 1 => s1.setXing x.key { st with iso := true }
    | 2 => s1.setXing x.key { st with iso := true, dst := if x.role = 9 && !st.fresh then s.tkns else st.dst }
    | _ => s1.setXing x.key { st with iso := true, dst := 2 ^ 64 - 1, fresh := false, busy := false }

end State

end Sys2Proof.Machine
end

