-- ==== Sys2Proof/Machine/Turnpike.lean ====
section
/-! DEFINITION. The Turnpike network (R57 to R90): source and target islands, the answers of isolated and dead islands,
the error capture, and the routers with their buffers, levels and weighted arbitration. -/

namespace Sys2Proof

/-- Fields of a flit header (R60, R61). -/
def Flit.pri (f : Flit) : Nat := Machine.bits f.header.toNat 62 2
def Flit.type (f : Flit) : Nat := Machine.bits f.header.toNat 59 3
def Flit.src (f : Flit) : Nat := Machine.bits f.header.toNat 53 6
def Flit.tag (f : Flit) : Nat := Machine.bits f.header.toNat 45 8
def Flit.addr (f : Flit) : Nat := Machine.bits f.header.toNat 3 42 * 64
def Flit.last (f : Flit) : Bool := Machine.bit f.header.toNat 1
/-- The half line of a WRITE_PART. -/
def Flit.half (f : Flit) : Bool := Machine.bit f.header.toNat 2
/-- The flit index of a BURST_NEXT. -/
def Flit.idx (f : Flit) : Nat := Machine.bits f.header.toNat 3 6
/-- The flit with its PRI field set (R72). -/
def Flit.withPri (f : Flit) (l : Nat) : Flit := { f with header := BitVec.ofNat 64 (Machine.setBits f.header.toNat 62 2 l) }
/-- The line, byte enables and data of a flit that carries a write's data, BURST_NEXT apart (R60, R63). -/
def Flit.write (f : Flit) : List (Nat × Nat × Nat) :=
  let d := f.data.toNat
  if f.type = 1 ∨ f.type = 3 then [(f.addr, 2 ^ 64 - 1, d)]
  else if f.type = 2 then
    let h := Machine.b2n f.half
    [(f.addr, Machine.bits d 256 32 * 2 ^ (32 * h), Machine.bits d 0 256 * 2 ^ (256 * h))]
  else []
/-- A response type: READ_RESP or WRITE_RESP. -/
def Flit.isResponse (f : Flit) : Bool := f.type = 4 || f.type = 5
/-- The status of a response header. -/
def Flit.status (f : Flit) : Nat := Machine.bits f.header.toNat 42 3
/-- The island field of a response header. -/
def Flit.island (f : Flit) : Nat := Machine.bits f.header.toNat 35 6
/-- The response flit of R61: PRI 3, READ_RESP or WRITE_RESP, and ERR where STATUS is not OK. -/
def Flit.response (write : Bool) (src tag status island : Nat) (data : Line) : Flit :=
  ⟨BitVec.ofNat 64 (3 * 2 ^ 62 + (if write then 5 else 4) * 2 ^ 59 + src % 64 * 2 ^ 53 + tag % 256 * 2 ^ 45 +
    status % 8 * 2 ^ 42 + (if status % 8 = 0 then 0 else 1) * 2 ^ 41 + island % 64 * 2 ^ 35), data⟩

end Sys2Proof

namespace Sys2Proof.Machine

/-- STATUS codes of R62. -/
def stOk : Nat := 0
def stDataError : Nat := 1
def stDecodeError : Nat := 2
def stAsleep : Nat := 3
def stDead : Nat := 4
def stHostError : Nat := 5

/-- The island behind a source port (R59). -/
def sourceIsland (src : Nat) : Nat :=
  if src < 32 then src else if src < 42 then 34 else if src = 42 then 39 else 52

/-- The island of the first router that a source's request enters (R57, R59). -/
def firstRouterIsland (src : Nat) : Nat :=
  if src < 24 then 28 + src / 6 else if src < 28 then src + 4 else if src < 32 then src else 34

/-- The islands from `i` toward the hub core whose own bridges a path crosses, nearest `i` first (R27, R57). -/
def uplinks (i : Nat) : List Nat :=
  if i < 24 then [i, 28 + i / 6, 32 + i / 12] else if i < 28 then [i, i + 4, 32 + (i - 24) / 2]
  else if i < 32 then [i, 32 + (i - 28) / 2] else if i = 34 then [] else if i = 62 then [62, 61] else [i]

/-- The flit that carries a recorded response (R61): a response without data answers a write. -/
def Out.flit : Out → Option Flit
  | .response src tag status island data =>
    some (Flit.response data.isEmpty src tag status island (BitVec.ofNat 512 (leVal data)))
  | _ => none

/-- The router whose bridge leads to island `i` (R57); line control, behind router HS, leads to the always-on island (R544). -/
def bridgeRouter (i : Nat) : Nat :=
  if i < 24 then i else if i < 28 then i else if i < 32 then 28 + (i - 28) / 2 else if i < 34 then 30
  else if 35 ≤ i ∧ i < 39 then 30 else 31

/-- The island in which a path from island `f` to island `t` turns from up to down; none: in the hub core. -/
def turnIsland (f t : Nat) : Option Nat := (uplinks f).find? fun i => (uplinks t).contains i

/-- Whether a request has crossed the bridge of island `i` on its way down to its target (R80). -/
def Req.crosses (r : Req) (i : Nat) : Bool := (uplinks r.island).contains i && !(uplinks (sourceIsland r.src)).contains i

namespace State

/-- Captures the first error answer that the Turnpike itself gives while VALID is 0 (R90). -/
def errCapture (s : State) (status src isl tag addr : Nat) : State :=
  if s.rb TP_ERRINFO.adr TP_ERRINFO.VALID then s else
    let a := TP_ERRINFO.adr
    let s1 := ((((s.wf a TP_ERRINFO.VALID 1).wf a TP_ERRINFO.STATUS status).wf a TP_ERRINFO.SRC src).wf a
      TP_ERRINFO.ISLAND isl).wf a TP_ERRINFO.TAG tag
    (s1.wf TP_ERRADDR_LO.adr TP_ERRADDR_LO.ADDR (addr >>> 6)).wf TP_ERRADDR_HI.adr TP_ERRADDR_HI.ADDR (addr >>> 32)

/-- The answer for island `t` of isolation logic in island `b` (R77): TARGET_ASLEEP, the event of the target's source, which
the island of the isolation logic raises (DEDUCED, log entry 23), and the capture. -/
def asleepAnswer (s : State) (b t src tag addr : Nat) : State :=
  (s.raiseIn b 0x0104 (708 + t) src (addr % 2 ^ 32) (addr >>> 32)).errCapture stAsleep src t tag addr

/-- The answer for island `t` at or behind the dead island `i` (R83): TARGET_DEAD, counted in TP_ABSORB of island `i`, and the
capture. -/
def deadAnswer (s : State) (i t src tag addr : Nat) : State :=
  (s.incSat (TP_ABSORB.adr i) TP_ABSORB.COUNT 1).errCapture stDead src t tag addr

/-- The island that holds the isolation logic of island `i`'s bridge: its router-side half (R76). -/
def guardIsland (i : Nat) : Nat := routerIsland (bridgeRouter i)

/-- Whether island `t` has accepted the request and not answered it. Line control answers for the always-on island (R544). -/
def accepted (s : State) (t src tag addr : Nat) : Bool :=
  s.outst.any fun r => (r.island = t || (t = 62 && r.island = 61)) && r.src = src && r.tag = tag && r.addr / 64 = addr / 64

/-- The island that holds the source-side half of island `i`'s bridge: line control for the always-on island, else the island of
its router (R47, R76). -/
def flagIsland (i : Nat) : Nat := if i = 62 then 61 else guardIsland i

/-- What the network answers for a request before it reaches its target: a STATUS other than OK and the island answered
for, or none when the target takes it; with the target's island (R77, R79, R83, R85, R86). A request that its target has
accepted is past the network. An address of no target that an isolated island sends is answered for that island (DESIGN
CHOICE, log entry 23). -/
def gate (s : State) (src tag addr : Nat) : Option (Nat × Nat) × Nat × State :=
  let f := sourceIsland src
  let shut (i : Nat) : Bool := (s.isl i).iso || s.deadIsl i
  match islandAt s.ddrGiB addr with
  | none =>
    if decide (f ≠ firstRouterIsland src) && shut f then (some (stDead, f), f, s.errCapture stDead src f tag addr)
    else
      let i := firstRouterIsland src
      (some (stDecodeError, i), i, s.errCapture stDecodeError src i tag addr)
  | some t =>
    if s.accepted t src tag addr then (none, t, s) else
    let up := (uplinks f).filter fun i => !(uplinks t).contains i
    let down := ((uplinks t).filter fun i => !(uplinks f).contains i).reverse
    match up.find? shut with
    | some _ => (some (stDead, t), t, s.errCapture stDead src t tag addr)
    | none =>
      match (turnIsland f t).filter fun i => decide (i ≠ f) && s.deadIsl i with
      | some i => (some (stDead, t), t, s.deadAnswer i t src tag addr)
      | none =>
        match down.find? (fun i => shut i || decide ((s.isl i).phase ≠ .none)) with
        | some i =>
          if s.deadIsl i then (some (stDead, t), t, s.deadAnswer i t src tag addr)
          else (some (stAsleep, t), t, s.asleepAnswer (guardIsland i) t src tag addr)
        | none => (none, t, s)

end State

/-! ### Routers -/

/-- Where an output port of a router leads: another router's input, an endpoint island, or nowhere (R57). -/
inductive Hop where
  | router (q p : Nat)
  | island (i : Nat)
  | nowhere
  deriving DecidableEq, Repr

/-- What lies beyond port `p` of router `q` (R57). -/
def hopOf (q p : Nat) : Hop :=
  if q < 24 then (if p = 0 then .island q else if p = 1 then .router (24 + q / 6) (q % 6) else .nowhere)
  else if q < 28 then
    let r := q - 24
    if p < 6 then .router (6 * r + p) 1 else if p = 6 then .island (24 + r) else if p = 7 then .island (28 + r)
    else if p = 8 then .router (28 + r / 2) (r % 2) else .nowhere
  else if q < 30 then
    let d := q - 28
    if p < 2 then .router (24 + 2 * d + p) 8 else if p = 2 then .router 30 d else .nowhere
  else if q = 30 then
    if p < 2 then .router (28 + p) 2 else if p = 2 then .router 31 0
    else if p < 7 then .island (35 + (p - 3)) else if p = 7 then .island 34 else .nowhere
  else
    if p = 0 then .router 30 2 else if p = 1 then .island 39 else if p = 2 then .island 34
    else if p = 3 then .island 52 else if p < 12 then .island (40 + (p - 4)) else if p < 16 then .island (48 + (p - 12))
    else if p < 24 then .island (53 + (p - 16)) else if p = 24 then .island 61 else .nowhere

/-- The output of router `q` toward island `t`; `sram` distinguishes hub SRAM, which HN serves, from the hub core's
functions, which HS serves. A die edge serves its own registers itself (no output). -/
def routePort (q t : Nat) (sram : Bool) : Option Nat :=
  let reg : Option Nat := if t < 24 then some (t / 6) else if t < 32 then some (t % 4) else none
  let die : Option Nat := match reg with
    | some r => some (r / 2)
    | none => if t = 32 then some 0 else if t = 33 then some 1 else none
  if q < 24 then some (if t = q then 0 else 1)
  else if q < 28 then
    if reg = some (q - 24) then some (if t < 24 then t % 6 else if t < 28 then 6 else 7) else some 8
  else if q < 30 then
    if t = 32 + (q - 28) then none
    else match reg with
      | some r => if r / 2 = q - 28 then some (r % 2) else some 2
      | none => some 2
  else if q = 30 then
    match die with
    | some d => some d
    | none => if 35 ≤ t ∧ t < 39 then some (3 + (t - 35)) else if t = 34 ∧ sram then some 7 else some 2
  else
    if t = 39 then some 1 else if t = 34 ∧ !sram then some 2 else if t = 52 then some 3
    else if 40 ≤ t ∧ t < 52 then some (4 + (t - 40)) else if 53 ≤ t ∧ t < 61 then some (16 + (t - 53))
    else if t = 61 ∨ t = 62 then some 24 else some 0

namespace State

def router (s : State) (q : Nat) : Router := sget s.routers q Router.idle

def setRouter (s : State) (q : Nat) (r : Router) : State := { s with routers := sput s.routers q r Router.idle }

/-- The level at which a source sends a request that names level `l` (R72): limited by MAXPRI. -/
def sendLevel (s : State) (src l : Nat) : Nat := min l (s.rf (TP_SRCCFG.adr src) TP_SRCCFG.MAXPRI)

/-- The level of a request that names none (R72): DEFPRI, acting as MAXPRI where it is above it. -/
def defaultLevel (s : State) (src : Nat) : Nat :=
  min (s.rf (TP_SRCCFG.adr src) TP_SRCCFG.DEFPRI) (s.rf (TP_SRCCFG.adr src) TP_SRCCFG.MAXPRI)

/-- Room of a router's input buffer at a level: 8 flits, 16 at level 3 (R68). -/
def bufRoom (s : State) (q p l : Nat) : Bool :=
  (sget (s.router q).bufs (4 * p + l) []).length < (if l = 3 then 16 else 8)

def pushBuf (s : State) (q p l : Nat) (f : HeldFlit) : State :=
  let r := s.router q
  s.setRouter q { r with bufs := sput r.bufs (4 * p + l) (sget r.bufs (4 * p + l) [] ++ [f]) [] }

/-- Where router `q` sends a flit of input `p` and level `l`: its output port, or none when the router answers it (a decode
with no target, or the router's own island as target). A BURST_NEXT flit follows its burst (R70). -/
def flitPort (s : State) (q p l : Nat) (f : Flit) : Option Nat :=
  if f.isResponse then
    routePort q (sourceIsland f.src) false
  else if f.type = 6 then
    (List.range 32).find? fun o => sget (s.router q).hold (4 * o + l) 0 = p + 1
  else
    match islandAt s.ddrGiB f.addr with
    | none => none
    | some t => routePort q t (0x500000000 ≤ f.addr ∧ f.addr < 0x501000000)

/-- The level at which a head flit is arbitrated (R71). -/
def headLevel (l : Nat) (h : HeldFlit) : Nat := if h.promoted && l < 2 then 2 else l

/-- Whether the input beyond output `o` of router `q` has a credit for a flit of level `l` (R68). -/
def hasCredit (s : State) (q o l : Nat) : Bool :=
  match hopOf q o with
  | .nowhere => false
  | .island _ => true
  | .router q' p' => s.bufRoom q' p' l

/-- The head flits of router `q` that want output `o` and have a credit: input, level, flit. A burst holds the output at its
level (R70). -/
def candidates (s : State) (q o : Nat) : List (Nat × Nat × HeldFlit) :=
  (List.range 25).flatMap fun p => (List.range 4).filterMap fun l =>
    match sget (s.router q).bufs (4 * p + l) [] with
    | [] => none
    | h :: _ =>
      let held := sget (s.router q).hold (4 * o + l) 0
      if s.flitPort q p l h.flit = some o ∧ (held = 0 ∨ held = p + 1) ∧ s.hasCredit q o l = true then some (p, l, h) else none

end State

/-- The rounds until an input of weight `w` and deficit `d` may send. -/
def roundsToSend (w : Nat) (d : Int) : Nat := if 0 < d ∨ w = 0 then 0 else ((-d).toNat + w) / w

/-- A deficit after `k` more rounds: each adds the weight, and none leaves more than the weight to send (R73). -/
def afterRounds (w k : Nat) (d : Int) : Int := if k = 0 then d else min (w : Int) (d + k * w)

namespace State

/-- The choice among heads for output `o` (R71, R73): level 3 by round robin, else the highest level waiting, among its
inputs by deficit weighted round robin. A burst that has begun completes; else an input sends while its deficit is positive;
when that of none is, as many rounds begin as let one send. Within a round the lowest-numbered input goes first (DESIGN
CHOICE, log entry 23: the spec gives no order). -/
def choose (s : State) (q o : Nat) : Option (Nat × Nat × HeldFlit × State) :=
  let cs := s.candidates q o
  let l3 := cs.filter fun c => c.2.1 = 3
  let r := s.router q
  match l3 with
  | _ :: _ =>
    let last := sget r.rr o 0
    let pick := match l3.find? (fun c => last < c.1 + 1) with
      | some c => some c
      | none => l3.head?
    pick.map fun c => (c.1, c.2.1, c.2.2, s.setRouter q { r with rr := sput r.rr o (c.1 + 1) 0 })
  | [] =>
    let top := cs.foldl (fun m c => max m (headLevel c.2.1 c.2.2)) 0
    let at_ := cs.filter fun c => headLevel c.2.1 c.2.2 = top
    let dof (p : Nat) : Int := sget r.deficit (32 * o + p) 0
    match at_ with
    | [] => none
    | c0 :: _ =>
      let burst := at_.find? fun c => c.2.2.flit.type = 6
      let waits := (at_.filter fun c => 0 < routerWeight q c.1).map fun c => roundsToSend (routerWeight q c.1) (dof c.1)
      let k := if burst.isSome then 0 else waits.foldl min (waits.headD 0)
      let d1 := if k = 0 then r.deficit else (List.range 25).foldl (fun d p =>
        sput d (32 * o + p) (afterRounds (routerWeight q p) k (dof p)) 0) r.deficit
      let first := at_.find? fun c => 0 < sget d1 (32 * o + c.1) 0
      let c : Nat × Nat × HeldFlit := burst.getD (first.getD c0)
      some (c.1, c.2.1, c.2.2, s.setRouter q { r with
        deficit := sput d1 (32 * o + c.1) (sget d1 (32 * o + c.1) 0 - 1) 0 })

/-- Removes the head of an input buffer, and keeps or ends the burst's hold of the output (R70). -/
def popHead (s : State) (q p l o : Nat) (f : Flit) : State :=
  let r := s.router q
  let hold := if f.type = 3 && !f.last then sput r.hold (4 * o + l) (p + 1) 0
    else if f.type = 6 && f.last then sput r.hold (4 * o + l) 0 0 else r.hold
  s.setRouter q { r with bufs := sput r.bufs (4 * p + l) ((sget r.bufs (4 * p + l) []).drop 1) [], hold := hold }

/-- The next flit of a burst reaches island `i` (R64): out of order, or past a 4,096-byte boundary, it ends the burst with
DECODE_ERROR. -/
def burstFlit (s : State) (i : Nat) (f : Flit) : State :=
  let mine (r : Req) : Bool := r.island = i && r.src = f.src && r.tag = f.tag && r.burst.isSome
  match s.outst.find? mine with
  | none => s
  | some r =>
    let n := r.burst.getD 0
    if f.idx ≠ n ∨ 4096 < r.addr % 4096 + 64 * (n + 1) then
      { s with outst := ldrop1 mine s.outst }.emit (.response f.src f.tag stDecodeError i [])
    else
      let line := (r.addr / 64 * 64 + 64 * n, 2 ^ 64 - 1, f.data.toNat)
      { s with outst := s.outst.map fun x =>
          if x = r then { r with burst := if f.last then none else some (n + 1), wr := r.wr ++ [line] } else x }

/-- The request that a flit brings to island `i`. A WRITE_PART is for its half of the line (R60). -/
def flitReq (i : Nat) (f : Flit) : Req :=
  ⟨i, f.src, f.tag, f.addr + (if f.type = 2 ∧ f.half then 32 else 0), f.type ≠ 0, if f.type = 3 ∧ !f.last then some 1 else none,
    f.write⟩

/-- A flit reaches its endpoint: a response reaches its source and is recorded; a request is accepted by the target
island and stays unanswered until the target's command answers it (R80). -/
def arriveEndpoint (s : State) (i : Nat) (f : Flit) : State :=
  if f.isResponse then s.emit (.response f.src f.tag f.status f.island (if f.type = 5 then [] else leBytes 64 f.data.toNat))
  else if f.type = 6 then s.burstFlit i f
  else { s with outst := s.outst ++ [flitReq i f] }

/-- The further flits of a burst whose first has been answered are absorbed at input `p` (R77). -/
def setAbsorb (s : State) (q k : Nat) (f : Flit) : State :=
  let r := s.router q
  if f.type = 3 && !f.last then s.setRouter q { r with absorb := sput r.absorb k true false }
  else if f.type = 6 && f.last then s.setRouter q { r with absorb := sput r.absorb k false false }
  else s

/-- The response of the network to a flit that goes no further: poison data for a read. -/
def refuseFlit (s : State) (f : Flit) (status i : Nat) : State :=
  s.emit (.response f.src f.tag status i (if f.type = 0 then List.replicate 64 0xFF else []))

/-- The answer of a router to a request whose decode finds no target (R86): DECODE_ERROR, with poison data for a read. -/
def decodeErrorAnswer (s : State) (q : Nat) (f : Flit) : State :=
  let i := routerIsland q
  (s.errCapture stDecodeError f.src i f.tag f.addr).refuseFlit f stDecodeError i

/-- What the bridge that island `o` owns does with a flit, when it lets it pass no more (R77, R79, R83, R85, R642): down into the
island a request is answered and a response discarded; up out of it a request is answered TARGET_DEAD, and a response, late,
is discarded; the further flits of a burst are absorbed. A draining bridge turns requests away and lets the rest pass. -/
def bridgeStops (s : State) (o : Nat) (down : Bool) (f : Flit) : Option State :=
  let shut := (s.isl o).iso || s.deadIsl o
  let t := (islandAt s.ddrGiB f.addr).getD o
  if f.isResponse || f.type = 6 then (if shut then some s else none)
  else if !down then (if shut then some ((s.errCapture stDead f.src t f.tag f.addr).refuseFlit f stDead t) else none)
  else if s.deadIsl o then some ((s.deadAnswer o t f.src f.tag f.addr).refuseFlit f stDead t)
  else if shut || decide ((s.isl o).phase ≠ .none) then
    some ((s.asleepAnswer (guardIsland o) t f.src f.tag f.addr).refuseFlit f stAsleep t)
  else if o = 61 ∧ t = 62 ∧ s.deadIsl 62 = true then some ((s.deadAnswer 62 t f.src f.tag f.addr).refuseFlit f stDead t)
  else none

/-- What a router whose own island has been declared dead does with a flit (R83, R85): a request is answered TARGET_DEAD, and the
rest is discarded. -/
def ownStops (s : State) (a : Nat) (f : Flit) : Option State :=
  if !s.deadIsl a then none
  else if f.isResponse || f.type = 6 then some s
  else
    let t := (islandAt s.ddrGiB f.addr).getD a
    some ((s.deadAnswer a t f.src f.tag f.addr).refuseFlit f stDead t)

/-- A burst that came in at input `p` of router `q` at level `l` has no further flits: the outputs it holds there and in the
routers beyond are free again (R70). The first operand bounds the routers of a path. -/
def dropHold : Nat → State → Nat → Nat → Nat → State
  | 0, s, _, _, _ => s
  | n + 1, s, q, p, l =>
    match (List.range 32).find? fun o => sget (s.router q).hold (4 * o + l) 0 = p + 1 with
    | none => s
    | some o =>
      let r := s.router q
      let s1 := s.setRouter q { r with hold := sput r.hold (4 * o + l) 0 0 }
      match hopOf q o with
      | .router q' p' => dropHold n s1 q' p' l
      | _ => s1

/-- The head of a buffer of router `q` goes no further toward output `o` at level `l`: the first flit of a burst does not hold the
output (its further flits find none and are absorbed), and after a later one the routers beyond are freed. -/
def stopBurst (s : State) (q o l : Nat) (f : Flit) : State :=
  if f.type = 3 then
    let r := s.router q
    s.setRouter q { r with hold := sput r.hold (4 * o + l) 0 0 }
  else if f.type = 6 then
    match hopOf q o with
    | .router q' p' => dropHold 8 s q' p' l
    | _ => s
  else s

/-- A flit passes the link bridge from island `a` to island `b`: its FIFO's counter advances (R42, R67). The
width of that counter is not stated; it wraps at 2^32 (DESIGN CHOICE, log entry 23: R30 bounds it by 32 bits). -/
def linkCount (s : State) (a b : Nat) : State :=
  if tpLink a b then
    let k := Xid.key ⟨a, b, 0, 0⟩
    s.setXing k { s.xing k with value := ((s.xing k).value + 1) % 2 ^ 32 }
  else s

/-- The level of a flit that its source puts into input `p` of router `q` (R72): that of a request which names one, limited by
MAXPRI, and DEFPRI else; 3 for a response. -/
def entryLevel (s : State) (f : Flit) (named : Bool) : Nat :=
  if f.isResponse then 3 else if named then s.sendLevel f.src f.pri else s.defaultLevel f.src

/-- A flit presented at input `p` of router `q` enters its buffer when there is a credit for it (R68), its PRI saying its level
(R72). What an isolated island sends goes no further (R83, R85); a request whose decode finds no target is answered at once
by the first router (R86). -/
def acceptFlit (s : State) (q p : Nat) (f : Flit) (named : Bool) : State :=
  let l := s.entryLevel f named
  let k := 4 * p + l
  let f' := f.withPri l
  if f.type = 6 && sget (s.router q).absorb k false then s.setAbsorb q k f
  else if !s.bufRoom q p l then s
  else
    let stop : Option State := match hopOf q p with
      | .island i => if i = routerIsland q ∨ f.type = 6 then none else s.bridgeStops i false f
      | _ => none
    match stop with
    | some s1 => s1.setAbsorb q k f
    | none =>
      if !f.isResponse && f.type ≠ 6 && (islandAt s.ddrGiB f.addr).isNone then (s.decodeErrorAnswer q f).setAbsorb q k f
      else
        (match hopOf q p with
         | .island i => s.linkCount i (routerIsland q)
         | _ => s).pushBuf q p l ⟨f', false⟩

/-- The island on the other side of output `o` of router `q`. -/
def hopIsland (q o : Nat) : Option Nat :=
  match hopOf q o with
  | .nowhere => none
  | .island i => some i
  | .router q' _ => some (routerIsland q')

/-- What stops a flit on its way from a router in island `a` to island `b` (R77, R83, R85). -/
def linkStops (s : State) (a b : Nat) (f : Flit) : Option State :=
  match s.ownStops a f with
  | some t => some t
  | none => if a = b then none else s.bridgeStops (bridgeOwner a b) (decide (bridgeOwner a b = b)) f

/-- Router `q` forwards one flit through output `o`, when one is waiting and the next input has a credit (R67, R68); a bridge
that lets it pass no more answers or discards it (R77, R83, R85), as a router in a dead island does. -/
def forwardFlit (s : State) (q o : Nat) : State :=
  match s.choose q o with
  | none => s
  | some (p, l, h, s1) =>
    let a := routerIsland q
    let b := (hopIsland q o).getD a
    let s2 := s1.popHead q p l o h.flit
    match s2.linkStops a b h.flit with
    | some s3 => s3.stopBurst q o l h.flit
    | none =>
      match hopOf q o with
      | .nowhere => s
      | .island i => (s2.linkCount a i).arriveEndpoint i h.flit
      | .router q' p' => (s2.linkCount a b).pushBuf q' p' l ⟨h.flit, false⟩

/-- The heads of router `q` that go to no output: a flit for the router's own island is taken there, unless another burst holds
that output at its level (R70), and a flit of a burst whose first flit went no further is absorbed (R77). -/
def takeOwn (s : State) (q : Nat) : State :=
  upto 4 (fun l s => upto 25 (fun p s =>
    match sget (s.router q).bufs (4 * p + l) [] with
    | [] => s
    | h :: _ =>
      let f := h.flit
      let own (s : State) : State :=
        let s1 := s.popHead q p l 31 f
        match s1.ownStops (routerIsland q) f with
        | some s2 => s2.stopBurst q 31 l f
        | none => s1.arriveEndpoint (routerIsland q) f
      let port := s.flitPort q p l f
      if f.type = 6 then
        match port with
        | none => s.popHead q p l 30 f
        | some 31 => own s
        | some _ => s
      else if !f.isResponse && port.isNone then
        let held := sget (s.router q).hold (4 * 31 + l) 0
        if held = 0 ∨ held = p + 1 then own s else s
      else s) s) s

/-- The requests past the bridge of island `i` that lie in the buffers of its routers, or of routers beyond (R80). -/
def routedReqs (s : State) (i : Nat) : List Req :=
  s.routers.flatMap fun e =>
    if (uplinks (routerIsland e.1)).contains i then
      e.2.bufs.flatMap fun b => b.2.filterMap fun h =>
        if h.flit.isResponse || h.flit.type = 6 then none
        else ((islandAt s.ddrGiB h.flit.addr).map fun t => flitReq t h.flit).filter fun r => r.crosses i
    else []

/-- Those requests leave the buffers. -/
def dropRouted (s : State) (i : Nat) : State :=
  let past (h : HeldFlit) : Bool := !h.flit.isResponse && h.flit.type ≠ 6 &&
    ((islandAt s.ddrGiB h.flit.addr).map fun t => flitReq t h.flit).any fun r => r.crosses i
  s.routers.foldl (fun s e =>
    if (uplinks (routerIsland e.1)).contains i then
      s.setRouter e.1 { e.2 with bufs := e.2.bufs.foldl (fun m b => sput m b.1 (b.2.filter fun h => !past h) []) e.2.bufs }
    else s) s

/-- Bursts from island `i`, or from routers in it, have no further flits (R51, R70): what they hold in other routers is free. -/
def dropBursts (s : State) (i : Nat) : State :=
  let from_ (q p : Nat) : Bool := routerIsland q ≠ i && (match hopOf q p with
    | .island j => j = i
    | .router q' _ => routerIsland q' = i
    | .nowhere => false)
  if s.routers.isEmpty then s
  else upto 32 (fun q s => upto 25 (fun p s =>
    if from_ q p then upto 4 (fun l s => dropHold 8 s q p l) s else s) s) s

/-- Removes a request from those unanswered, as its target answers it. -/
def answered (s : State) (src tag addr : Nat) : State :=
  { s with outst := ldrop1 (fun r => r.src = src && r.tag = tag && r.addr / 64 = addr / 64) s.outst }

/-- Whether a dead island lies between island `i` and the source of a request, on the source's side (R85). -/
def sourceDead (s : State) (src i : Nat) : Bool :=
  (uplinks (sourceIsland src)).any fun j => !(uplinks i).contains j && s.deadIsl j

/-- The answer to a request: recorded, and no longer outstanding. A response that a target gives to a source in a dead region
is discarded (R85). -/
def respond (s : State) (src tag addr status isl : Nat) (data : List Byte) : State :=
  if status ≠ stDead ∧ s.sourceDead src isl = true then s.answered src tag addr
  else (s.answered src tag addr).emit (.response src tag status isl data)

end State

/-- The poison data of a read that is not OK (R62). -/
def poisonLine : List Byte := List.replicate 64 0xFF

end Sys2Proof.Machine
end

