-- ==== Sys2Proof/Machine/InkBase.lean ====
section
/-! DEFINITION. The Innkeeper slice (R175 to R219) up to its use of the network: descriptors, submission and credits,
dependence counters, ready lists, ordered flows and the reservoir, completion slots, deadlines, laggards and aborts. -/

namespace Sys2Proof.Machine

/-- The 64-bit word at byte offset `o` of a descriptor (R177). -/
def descWord (d : List Word) (o : Nat) : Nat := wordsVal ((d.drop (o / 4)).take 2)

def taskId (d : List Word) : Nat := bits (descWord d 0x00) 0 16
def taskCtr (d : List Word) : Nat := bits (descWord d 0x00) 16 14
def taskInit (d : List Word) : Nat := bits (descWord d 0x00) 32 12
def taskPri (d : List Word) : Nat := bits (descWord d 0x00) 48 3
def taskClass (d : List Word) : Nat := bits (descWord d 0x00) 52 8
def taskAff (d : List Word) : Nat := bits (descWord d 0x08) 0 6
def taskFlow (d : List Word) : Nat := bits (descWord d 0x08) 8 8
def taskKey (d : List Word) : Nat := bits (descWord d 0x08) 16 16
def taskDeadline (d : List Word) : Nat := bits (descWord d 0x08) 32 32
def taskEntry (d : List Word) : Nat := bits (descWord d 0x10) 0 48
def taskDlen (d : List Word) : Bool := bit (descWord d 0x10) 56
def taskSucc (d : List Word) : Nat := bits (descWord d 0x18) 0 48
def taskNsucc (d : List Word) : Nat := bits (descWord d 0x18) 48 6
def taskPkt (d : List Word) : Nat := bits (descWord d 0x20) 0 48
def taskEqueue (d : List Word) : Nat := bits (descWord d 0x20) 48 8
def taskEgv (d : List Word) : Bool := bit (descWord d 0x20) 56
def taskData (d : List Word) (i : Nat) : Nat := descWord d (0x28 + 8 * i)
/-- A join: no CLASS bit (R178). -/
def isJoin (d : List Word) : Bool := taskClass d = 0

/-- The reserved bits of a descriptor (R177) are all 0. -/
def reservedClear (d : List Word) : Bool :=
  bits (descWord d 0x00) 30 2 = 0 && bits (descWord d 0x00) 44 4 = 0 && bits (descWord d 0x00) 51 1 = 0 &&
  bits (descWord d 0x00) 60 4 = 0 && bits (descWord d 0x08) 6 2 = 0 && bits (descWord d 0x10) 48 8 = 0 &&
  bits (descWord d 0x10) 57 7 = 0 && bits (descWord d 0x18) 54 10 = 0 && bits (descWord d 0x20) 57 7 = 0

/-- The number of the class whose CLASS bit is set: 0 VDC to 6 MIMO detector; 7 for a join. -/
def classNo (d : List Word) : Nat := ((List.range 7).find? fun i => taskClass d = 2 ^ i).getD 7

/-- The first unit of a class and how many it has (R175). -/
def classUnits (c : Nat) : Nat × Nat :=
  match c with
  | 0 => (0, 48)
  | 1 => (48, 4)
  | 2 => (52, 2)
  | 3 => (54, 1)
  | 4 => (55, 1)
  | 5 => (56, 2)
  | 6 => (58, 2)
  | _ => (0, 0)

/-- The class of a unit. -/
def unitClass (u : Nat) : Nat :=
  if u < 48 then 0 else if u < 52 then 1 else if u < 54 then 2 else if u = 54 then 3 else if u = 55 then 4
  else if u < 58 then 5 else 6

/-- Whether AFFINITY admits unit `u` of the task's class (R175). -/
def admits (d : List Word) (u : Nat) : Bool :=
  unitClass u = classNo d &&
  (taskAff d = 0 || (if u < 48 then bit (taskAff d) (u / 8) else bit (taskAff d) (u - (classUnits (unitClass u)).1)))

/-- AFFINITY bits that a class may set (R181). -/
def affMask (c : Nat) : Nat :=
  match c with
  | 0 => 0x3F
  | 1 => 0xF
  | 2 => 3
  | 3 => 1
  | 4 => 1
  | 5 => 3
  | 6 => 3
  | _ => 0

/-- The window of a source (R180); 0 for a source that may not submit (R179). -/
def creditWindow (src : Nat) : Nat := if src < 24 then 16 else if src = 40 then 256 else 0

namespace State

def ink (s : State) (r : Nat) : Ink := sget s.inks r Ink.reset

def setInk (s : State) (r : Nat) (k : Ink) : State := { s with inks := sput s.inks r k Ink.reset }

/-- Submissions granted to source `src` and not made (R180). -/
def credit (s : State) (r src : Nat) : Nat :=
  (s.rf (INK_CREDIT.adr r src) INK_CREDIT.GRANT + 2 ^ 32 - s.rf (INK_ACCEPT.adr r src) INK_ACCEPT.COUNT) % 2 ^ 32

/-- Pool entries promised to grants not used yet (R180). -/
def promised (s : State) (r : Nat) : Nat := ((List.range 41).map fun src => s.credit r src).sum

/-- Unpromised free pool entries. -/
def poolFree (s : State) (r : Nat) : Nat := 2048 - (s.ink r).pool.length - s.promised r

/-- Tasks in the ready lists (R190). -/
def readyCount (s : State) (r : Nat) : Nat :=
  ((s.ink r).pool.filter fun e => match e.2 with
    | some p => p.ready
    | none => false).length

/-- Whether credits are withheld under R212. -/
def credHold (s : State) (r : Nat) : Bool :=
  decide (s.poolFree r < s.rf (INK_CFG.adr r) INK_CFG.CREDLOW) || decide (s.rf (INK_CFG.adr r) INK_CFG.RLWARN < s.readyCount r)

/-- Unit availability as the PAUSE crossings carry it: bit 0 PAUSE, bit 1 + u the UNAVAIL of unit u (R638). -/
def pauseWord (s : State) (r : Nat) : Nat :=
  b2n (s.rb (INK_STAT.adr r) INK_STAT.PAUSE) +
    (List.range 60).foldl (fun a u => a + b2n (s.rb (INK_UNIT.adr r u) INK_UNIT.UNAVAIL) * 2 ^ (u + 1)) 0

/-- Sends PAUSE and unit availability of slice `r` to its clusters, its accelerator group and the hub core (R638). -/
def sendPause (s : State) (r : Nat) : State :=
  let v := s.pauseWord r
  ([34, 24 + r] ++ (List.range 6).map (fun i => 6 * r + i)).foldl (fun s i => s.valueSend ⟨28 + r, i, 8, 0⟩ v) s

/-- Completion slots in use (R210). -/
def slotsUsed (s : State) (r : Nat) : Nat :=
  (s.ink r).slots.length + ((s.ink r).released.filter fun o => o.slot).length

/-- A new region fabric cycle of the orders that a slice keeps (R191, R193). -/
def newOrder (s : State) (r : Nat) : State :=
  s.setInk r { s.ink r with orders := (s.ink r).orders + 1, half := false }

/-- Brings the slice's status registers up to date (INK_STAT, INK_OCC) and raises or lifts PAUSE (R212): raised with
fewer than 64 of the 128 entries free, lifted with 96 free. -/
def inkSync (s : State) (r : Nat) : State :=
  let k := s.ink r
  let free := 128 - k.decq.length
  let was := s.rb (INK_STAT.adr r) INK_STAT.PAUSE
  let now := if free < 64 then true else if 96 ≤ free then false else was
  let s1 := (((s.wf (INK_STAT.adr r) INK_STAT.RESFREE (256 - k.res.length)).wf (INK_STAT.adr r) INK_STAT.CSLOT
    (s.slotsUsed r)).wb (INK_STAT.adr r) INK_STAT.CREDHOLD (s.credHold r)).wb (INK_STAT.adr r) INK_STAT.PAUSE now
  let s2 := (s1.wf (INK_OCC.adr r) INK_OCC.READY (s.readyCount r)).wf (INK_OCC.adr r) INK_OCC.POOLFREE (s.poolFree r)
  if was = now then s2 else s2.sendPause r

/-- Brings HELD and STALL of a flow up to date. -/
def flowSync (s : State) (r f : Nat) : State :=
  if f = 0 then s else
    let n := ((s.ink r).res.filter fun e => e.flow = f).length
    (s.wf (INK_FLOW.adr r f) INK_FLOW.HELD n).wb (INK_FLOW.adr r f) INK_FLOW.STALL (n ≠ 0)

/-- The state of a counter: 0 FREE, 1 ARMED, 2 READY, 3 RUNNING (R183). -/
def ctrState (s : State) (r c : Nat) : Nat := s.rf (INK_CTR.adr r c) INK_CTR.STATE

def setCtr (s : State) (r c st pri pool count : Nat) : State :=
  s.setReg (INK_CTR.adr r c) (st * 2 ^ 30 + (pri % 8) * 2 ^ 27 + (pool % 2048) * 2 ^ 16 + count % 4096)

/-- The pool entry `p` of slice `r`. -/
def poolEnt (s : State) (r p : Nat) : Option PoolEnt := sget (s.ink r).pool p none

def setPool (s : State) (r p : Nat) (e : Option PoolEnt) : State :=
  s.setInk r { s.ink r with pool := sput (s.ink r).pool p e none }

def inkUnit (s : State) (r u : Nat) : InkUnit := sget (s.ink r).units u InkUnit.reset

def setInkUnit (s : State) (r u : Nat) (v : InkUnit) : State :=
  let s1 := s.setInk r { s.ink r with units := sput (s.ink r).units u v InkUnit.reset }
  let s2 := s1.wf (INK_UNIT.adr r u) INK_UNIT.INFLIGHT v.tasks.length
  if u < 48 then s2.wf (INK_UNIT.adr r u) INK_UNIT.DEPTH (v.tasks.length - 1) else s2

/-- Returns a task's counter to FREE and frees its pool entry (R186, R201). -/
def retire (s : State) (r p : Nat) (d : List Word) : State :=
  (s.setCtr r (taskCtr d) 0 0 0 0).setPool r p none

/-- The outputs of a task enter the list of released outputs (R204); those of a task that completes now keep its slot. -/
def releaseOut (s : State) (r : Nat) (o : Option OutRec) : State :=
  match o with
  | none => s
  | some o => s.setInk r { s.ink r with released := (s.ink r).released ++ [o] }

/-- Releases, in key order, every held entry of flow `f` whose key equals NEXT (R204); `fuel` bounds the entries. -/
def releaseHeld (s : State) (r f : Nat) : Nat → State
  | 0 => s
  | fuel + 1 =>
    let next := s.rf (INK_FLOW.adr r f) INK_FLOW.NEXT
    match (s.ink r).res.find? (fun e => e.flow = f ∧ e.key = next ∧ e.pool = 4096) with
    | none => s
    | some e =>
      let s1 := (s.setInk r { s.ink r with res := ldrop1 (fun x => x = e) (s.ink r).res }).releaseOut r e.out
      -- a second completion with the key just released follows directly (R204)
      let more := (s1.ink r).res.any fun x => x.flow = f ∧ x.key = next ∧ x.pool = 4096
      (if more then s1 else s1.wf (INK_FLOW.adr r f) INK_FLOW.NEXT (next + 1)).releaseHeld r f fuel

/-- A completed or abandoned ordered task meets its flow (R204, R206): its outputs (none when abandoned) are released from
its slot, held in its reservoir entry (its slot is free at once), or released behind. `p` is its pool entry, whose claim it may
hold. -/
def flowComplete (s : State) (r p : Nat) (d : List Word) (o : Option OutRec) : State :=
  let f := taskFlow d
  let k := taskKey d
  let next := s.rf (INK_FLOW.adr r f) INK_FLOW.NEXT
  let free (s : State) : State := s.setInk r { s.ink r with res := ldrop1 (fun x => x.pool = p) (s.ink r).res }
  let s1 :=
    if k = next then
      (((free s).releaseOut r o).wf (INK_FLOW.adr r f) INK_FLOW.NEXT (next + 1)).releaseHeld r f 512
    else if (k + 2 ^ 16 - next) % 2 ^ 16 < 2 ^ 15 then
      let dup := (s.ink r).res.any fun x => x.flow = f ∧ x.key = k ∧ x.pool = 4096
      let s0 := if dup then s.raise 0x0307 (704 + r) f k next else s
      let k0 := (free s0).ink r
      (free s0).setInk r { k0 with res := k0.res ++ [⟨f, k, 4096, o.map fun o => { o with slot := false }⟩] }
    else ((free s).releaseOut r o).raise 0x0307 (704 + r) f k next
  s1.flowSync r f

/-- A task in state READY or completed leaves the slice with status `st` (R201): it is retired, and its outputs go to
a completion slot, by way of its flow when it is ordered (R204, R210). -/
def completeTask (s : State) (r p st : Nat) : State :=
  match s.poolEnt r p with
  | none => s
  | some e =>
    let d := e.desc
    let o : OutRec := ⟨d, st, none, true⟩
    let s1 := s.retire r p d
    if taskFlow d = 0 then s1.setInk r { s1.ink r with slots := (s1.ink r).slots ++ [o] }
    else s1.flowComplete r p d (some o)

/-- Whether an ordered task can have its reservoir claim (R205): its key is NEXT, or an entry is free that no join waits for. -/
def claimOk (s : State) (r : Nat) (d : List Word) : Bool :=
  taskFlow d = 0 || taskKey d = s.rf (INK_FLOW.adr r (taskFlow d)) INK_FLOW.NEXT ||
    (s.ink r).res.length + (s.ink r).joinWait.length < 256

/-- Claims a reservoir entry for an ordered task whose key is not NEXT (R205). -/
def claim (s : State) (r p : Nat) (d : List Word) : State :=
  if taskFlow d = 0 || taskKey d = s.rf (INK_FLOW.adr r (taskFlow d)) INK_FLOW.NEXT then s
  else
    (s.setInk r { s.ink r with res := (s.ink r).res ++ [⟨taskFlow d, taskKey d, p, none⟩] }).flowSync r (taskFlow d)

/-- A ready join completes (R178), or waits for a completion slot (R210). -/
def joinProceed (s : State) (r p : Nat) : State :=
  if s.slotsUsed r < 32 && (s.ink r).compWait.isEmpty then s.completeTask r p 0
  else s.setInk r { s.ink r with compWait := (s.ink r).compWait ++ [.join p] }

/-- A counter reaches zero (R185, R190): its task becomes READY and joins its ready list, or a join completes or waits. -/
def becomeReady (s : State) (r p : Nat) : State :=
  match s.poolEnt r p with
  | none => s
  | some e =>
    let d := e.desc
    let k := s.ink r
    let s1 := s.setCtr r (taskCtr d) 2 (taskPri d) p 0
    let s2 := s1.setPool r p (some { e with ready := !isJoin d, order := k.orders })
    if !isJoin d then s2
    else if s2.claimOk r d then (s2.claim r p d).joinProceed r p
    else s2.setInk r { s2.ink r with joinWait := (s2.ink r).joinWait ++ [p] }

/-- A decrement acts on its counter by state (R185). -/
def decrement (s : State) (r c a : Nat) : State :=
  if a = 0 then s else
    let reg := INK_CTR.adr r c
    match s.ctrState r c with
    | 0 =>
      let e := s.rf reg INK_CTR.COUNT
      let s1 := s.wf reg INK_CTR.COUNT (min (e + a) 4095)
      if 4095 < e + a then s1.raise 0x0302 (704 + r) c (e + a - 4095) 0 else s1
    | 1 =>
      let m := s.rf reg INK_CTR.COUNT
      let p := s.rf reg INK_CTR.POOL
      if a < m then s.wf reg INK_CTR.COUNT (m - a)
      else
        let s1 := if m < a then s.raise 0x0302 (704 + r) c (a - m) 0 else s
        s1.becomeReady r p
    | _ =>
      let id := match s.poolEnt r (s.rf reg INK_CTR.POOL) with
        | some e => taskId e.desc
        | none => 0
      s.raise 0x0303 (704 + r) c a id

/-- A decrement enters the slice's queue (R184). -/
def enqueueDecr (s : State) (r c a : Nat) : State :=
  (s.setInk r { s.ink r with decq := (s.ink r).decq ++ [(c, .amount a)] }).inkSync r

/-- Whether a join's wait in the join wait list ends (R205): a reservoir entry is free, or its key has become NEXT. -/
def joinTake (s : State) (r : Nat) : State :=
  let room : Bool := (s.ink r).res.length < 256
  let ok (p : Nat) : Bool := match s.poolEnt r p with
    | some e => room || taskKey e.desc = s.rf (INK_FLOW.adr r (taskFlow e.desc)) INK_FLOW.NEXT
    | none => true
  match (s.ink r).joinWait.find? ok with
  | none => s
  | some p =>
    let s1 := s.setInk r { s.ink r with joinWait := ldrop1 (fun x => x = p) (s.ink r).joinWait }
    match s.poolEnt r p with
    | none => s1
    | some e => ((s1.claim r p e.desc).joinProceed r p).inkSync r

/-! ### Submission -/

/-- The first condition of R181 that a descriptor breaks, 1 to 7. -/
def submitReason (s : State) (r : Nat) (d : List Word) : Option Nat :=
  let cl := taskClass d
  let oneBit := (List.range 7).any fun i => cl = 2 ^ i
  let entryOk := if isJoin d then taskEntry d = 0
    else if cl = 1 then taskEntry d < 2 ^ 13 else taskEntry d % 64 = 0
  if !(cl = 0 || oneBit) then some 1
  else if taskAff d &&& affMask (classNo d) ≠ taskAff d then some 2
  else if !entryOk then some 3
  else if s.ctrState r (taskCtr d) ≠ 0 then some 4
  else if taskFlow d ≠ 0 && !s.rb (INK_FLOW.adr r (taskFlow d)) INK_FLOW.OPEN then some 5
  else if taskNsucc d ≠ 0 && taskSucc d % 4 ≠ 0 then some 6
  else if !reservedClear d then some 7
  else none

/-- The lowest free pool entry. -/
def freePool (s : State) (r : Nat) : Nat :=
  ((List.range 2048).find? fun p => (s.poolEnt r p).isNone).getD 0

/-- A write to INK_SUBMIT (R179 to R182, R185): `whole` says that it is one 64-byte WRITE. -/
def submit (s : State) (r src : Nat) (whole : Bool) (d : List Word) : State :=
  let reject (s : State) (why : Nat) : State := s.raise 0x0301 (704 + r) (taskId d) src why
  if creditWindow src = 0 || !whole then reject s 8
  else if s.credit r src = 0 then reject s 9
  else
    let s1 := s.incWrap (INK_ACCEPT.adr r src) INK_ACCEPT.COUNT 1
    match s.submitReason r d with
    | some why => (reject s1 why).inkSync r
    | none =>
      let c := taskCtr d
      let e := s1.rf (INK_CTR.adr r c) INK_CTR.COUNT
      let p := s1.freePool r
      let s2 := s1.setPool r p (some ⟨d, false, 0, false, 0⟩)
      let s3 :=
        if e < taskInit d then s2.setCtr r c 1 (taskPri d) p (taskInit d - e)
        else
          let s0 := if taskInit d < e then s2.raise 0x0302 (704 + r) c (e - taskInit d) 0 else s2
          (s0.newOrder r).becomeReady r p
      s3.inkSync r

/-- GRANT advances for one source (R180): the first in rotation whose window has room, while an unpromised entry exists
and credits are not withheld. -/
def grant (s : State) (r : Nat) : State :=
  if s.credHold r || s.poolFree r = 0 then s else
    let k := s.ink r
    let order := (List.range 41).map fun i => (k.nextSrc + i) % 41
    match order.find? (fun src => decide (s.credit r src < creditWindow src)) with
    | none => s
    | some src =>
      ((s.incWrap (INK_CREDIT.adr r src) INK_CREDIT.GRANT 1).setInk r { k with nextSrc := (src + 1) % 41 }).inkSync r

/-! ### INK_DECR -/

/-- The task identity bound to a counter, 0 when FREE. -/
def ctrTask (s : State) (r c : Nat) : Nat :=
  if s.ctrState r c = 0 then 0 else
    match s.poolEnt r (s.rf (INK_CTR.adr r c) INK_CTR.POOL) with
    | some e => taskId e.desc
    | none => 0

/-- OP 0b01 of INK_DECR (R219): clears the early count of a FREE counter. -/
def decrClear (s : State) (r c : Nat) : State :=
  if s.ctrState r c = 0 then s.wf (INK_CTR.adr r c) INK_CTR.COUNT 0
  else s.raise 0x0303 (704 + r) c (0x80000000 + 1) (s.ctrTask r c)

/-- Retires a task without outputs (R216): an ordered task releases its key (R206). `why`: 1 unit stopped, 2 reset,
3 ABANDON. -/
def abortTask (s : State) (r p why : Nat) : State :=
  match s.poolEnt r p with
  | none => s
  | some e =>
    let d := e.desc
    let s1 := (s.retire r p d).raise 0x030A (704 + r) (taskId d) (taskCtr d) why
    let k := s1.ink r
    let s2 := s1.setInk r { k with joinWait := k.joinWait.filter (fun x => x ≠ p),
                                   compWait := k.compWait.filter (fun x => x ≠ .join p) }
    let s3 := if taskFlow d = 0 then s2 else s2.flowComplete r p d none
    s3.inkSync r

/-- OP 0b10 of INK_DECR (R216, R219): abandons an ARMED or READY task. -/
def decrAbandon (s : State) (r c : Nat) : State :=
  let st := s.ctrState r c
  if st = 1 ∨ st = 2 then s.abortTask r (s.rf (INK_CTR.adr r c) INK_CTR.POOL) 3
  else s.raise 0x0303 (704 + r) c (0x80000000 + 2) (s.ctrTask r c)

/-- An entry of the decrement queue acts on its counter (R185, R219). -/
def applyOp (s : State) (r c : Nat) : DecrOp → State
  | .amount a => s.decrement r c a
  | .clear => s.decrClear r c
  | .abandon => s.decrAbandon r c

/-- The head of the decrement queue is applied (R184, R185); `same` says in the region fabric cycle of the one before it, which
holds two. -/
def applyHead (s : State) (r : Nat) (same : Bool) : State :=
  match (s.ink r).decq with
  | [] => s
  | (c, op) :: rest =>
    let k := s.ink r
    let join := same && k.half
    (s.setInk r { k with decq := rest, orders := if join then k.orders else k.orders + 1, half := !join,
                         applied := if join then k.applied else k.applied + 1 }).applyOp r c op

/-- OP 0b01 or 0b10 of INK_DECR: after the decrements that wait (R69), and at once where none does (DESIGN CHOICE, log entry 25). -/
def decrOp (s : State) (r c : Nat) (op : DecrOp) : State :=
  if (s.ink r).decq.isEmpty then s.applyOp r c op
  else (s.setInk r { s.ink r with decq := (s.ink r).decq ++ [(c, op)] }).inkSync r

/-- Whether a word written to INK_DECR needs an entry of the decrement queue. -/
def decrNeeds (s : State) (r w : Nat) : Bool :=
  match bits w 30 2 with
  | 0 => bits w 0 12 ≠ 0
  | 1 => !(s.ink r).decq.isEmpty
  | 2 => !(s.ink r).decq.isEmpty
  | _ => false

/-- A word written to INK_DECR, by its OP (R185, R219). -/
def decrWord (s : State) (r w : Nat) : State :=
  let c := bits w 14 14
  match bits w 30 2 with
  | 0 => if bits w 0 12 = 0 then s else s.enqueueDecr r c (bits w 0 12)
  | 1 => s.decrOp r c .clear
  | 2 => s.decrOp r c .abandon
  | _ => s.raise 0x0304 (704 + r) w 0 0

/-- A misformed write to INK_DECR (R641): ignored, with the word as received. -/
def decrBad (s : State) (r w : Nat) : State := s.raise 0x0304 (704 + r) w 0 0

/-! ### Flows and units -/

/-- A write to INK_FLOW (R207): OPEN always, NEXT only while HELD is 0. `openW` and `nextW` say which fields the
enabled bytes give. -/
def flowWrite (s : State) (r f w : Nat) (openW nextLo nextHi : Bool) : State :=
  if f = 0 then s else
    let a := INK_FLOW.adr r f
    let s1 := if openW then s.wb a INK_FLOW.OPEN (bit w 31) else s
    if !nextLo && !nextHi then s1
    else if s.rf a INK_FLOW.HELD = 0 then
      let old := s.rf a INK_FLOW.NEXT
      s1.wf a INK_FLOW.NEXT ((if nextLo then bits w 0 8 else bits old 0 8) + 256 * (if nextHi then bits w 8 8 else bits old 8 8))
    else s1.raise 0x0307 (704 + r) f (bits w 0 16) (s.rf a INK_FLOW.NEXT)

/-- A unit returns to service (R214): LAG clears and unit-recovered is raised. -/
def unitRecovered (s : State) (r u why : Nat) : State :=
  if s.rb (INK_UNIT.adr r u) INK_UNIT.LAG then
    (s.wb (INK_UNIT.adr r u) INK_UNIT.LAG false).raise 0x0309 (704 + r) u why 0
  else s

/-- Threshold of a unit's class (R213): 0 disables. -/
def lagThreshold (s : State) (r u : Nat) : Nat := s.rf (INK_LAGTHR.adr r (unitClass u)) INK_LAGTHR.THRESH

/-- Engine `e` of accelerator group `r` (R221). -/
def engine (s : State) (r e : Nat) : Engine := sget s.engines (12 * r + e) Engine.reset

def setEngine (s : State) (r e : Nat) (g : Engine) : State :=
  { s with engines := sput s.engines (12 * r + e) g Engine.reset }

/-- Discards the staged job of a unit's engine (R214, R224). -/
def dropStaged (s : State) (r u : Nat) : State :=
  if u < 48 then s else
    (s.setEngine r (u - 48) { s.engine r (u - 48) with staged := none }).wb (RA_ENGSTAT.adr r (u - 48)) RA_ENGSTAT.STAGED false

/-- A unit becomes idle for dispatch now (R176, R193). -/
def stampIdle (s : State) (r u : Nat) : State :=
  let s1 := s.newOrder r
  s1.setInkUnit r u { s1.inkUnit r u with idle := (s1.ink r).orders }

/-- A unit becomes laggard (R213, R214): the event, LAG, and an engine's staged ordered task goes back to the head of
its ready list with its claim released. -/
def becomeLaggard (s : State) (r u svc : Nat) : State :=
  if s.rb (INK_UNIT.adr r u) INK_UNIT.LAG then s else
    let s1 := (s.wb (INK_UNIT.adr r u) INK_UNIT.LAG true).raise 0x0308 (704 + r) u svc 0
    let un := s1.inkUnit r u
    match un.tasks.find? (fun t => t.staged) with
    | none => s1
    | some t =>
      match s1.poolEnt r t.pool with
      | none => s1
      | some e =>
        if taskFlow e.desc = 0 then s1 else
          let s2 := ((s1.setInkUnit r u { un with tasks := ldrop1 (fun x => x = t) un.tasks }).stampIdle r u).dropStaged r u
          let s3 := s2.setInk r { s2.ink r with res := ldrop1 (fun x => x.pool = t.pool) (s2.ink r).res }
          let s4 := (s3.newOrder r).setPool r t.pool (some { e with ready := true, front := (s3.ink r).orders + 1 })
          ((s4.setCtr r (taskCtr e.desc) 2 (taskPri e.desc) t.pool 0).flowSync r (taskFlow e.desc)).inkSync r

/-- LAGGARD_THRESHOLD (R213): the task that a unit runs has been in service for `svc` region fabric cycles. -/
def lagCheck (s : State) (r u svc : Nat) : State :=
  let thr := s.lagThreshold r u
  if thr ≠ 0 ∧ thr < svc ∧ !(s.inkUnit r u).tasks.isEmpty then s.becomeLaggard r u svc else s

/-- LAGGARD_IDLE_RETURN (R214): a laggard has been idle for INK_LAGHOLD; 0 never returns it. -/
def lagIdle (s : State) (r u : Nat) : State :=
  if (s.inkUnit r u).tasks.isEmpty ∧ s.rf (INK_LAGHOLD.adr r) INK_LAGHOLD.HOLD ≠ 0 then s.unitRecovered r u 2 else s

/-- Marks a unit available or not (R194) and tells its region (R638). -/
def setUnavail (s : State) (r u : Nat) (b : Bool) : State :=
  if s.rb (INK_UNIT.adr r u) INK_UNIT.UNAVAIL = b then s
  else (s.wb (INK_UNIT.adr r u) INK_UNIT.UNAVAIL b).sendPause r

/-- Every task of a unit is aborted (R216), the innermost first. -/
def abortUnit (s : State) (r u why : Nat) : State :=
  let un := s.inkUnit r u
  let s1 := un.tasks.reverse.foldl (fun s t => s.abortTask r t.pool why) s
  let k := s1.ink r
  (((s1.setInk r { k with compWait := k.compWait.filter (fun x => x ≠ .unit u) }).setInkUnit r u InkUnit.reset).stampIdle
    r u).inkSync r

/-! ### Ready lists -/

/-- How far a deadline lies ahead of the replica, as a signed number of ns (R208). -/
def deadlineAhead (s : State) (r : Nat) (d : List Word) : Int :=
  let x : Nat := (taskDeadline d + 2 ^ 32 - s.replica r % 2 ^ 32) % 2 ^ 32
  if x ≤ 2 ^ 31 then (x : Int) else (x : Int) - 2 ^ 32

/-- Whether pool entry `x` comes before `y` in a ready list (R191, R214). -/
def readyBefore (s : State) (r : Nat) (x y : Nat × PoolEnt) : Bool :=
  let dx := x.2.desc
  let dy := y.2.desc
  if x.2.front ≠ y.2.front then decide (y.2.front < x.2.front)
  else if taskDlen dx && !taskDlen dy then true
  else if !taskDlen dx && taskDlen dy then false
  else if taskDlen dx then
    let a := s.deadlineAhead r dx
    let b := s.deadlineAhead r dy
    a < b || (a = b && taskCtr dx < taskCtr dy)
  else x.2.order < y.2.order || (x.2.order = y.2.order && taskCtr dx < taskCtr dy)

/-- Inserts an entry in a ready list. -/
def readyInsert (s : State) (r : Nat) (x : Nat × PoolEnt) : List (Nat × PoolEnt) → List (Nat × PoolEnt)
  | [] => [x]
  | y :: ys => if s.readyBefore r x y then x :: y :: ys else y :: s.readyInsert r x ys

/-- The ready list of priority `p` and class `c` (R190, R191). -/
def readyList (s : State) (r p c : Nat) : List (Nat × PoolEnt) :=
  ((s.ink r).pool.filterMap fun e => match e.2 with
    | some x => if x.ready && taskPri x.desc = p && classNo x.desc = c then some (e.1, x) else none
    | none => none).foldl (fun l x => s.readyInsert r x l) []

/-- The task that unit `u` takes (R192): from priority 7 down, the first of the first 16 of each list that AFFINITY
admits; no ordered task for a laggard; an ordered task only when its claim can be met. -/
def taskFor (s : State) (r u : Nat) (pmin : Nat) : Option (Nat × PoolEnt) :=
  let lag := s.rb (INK_UNIT.adr r u) INK_UNIT.LAG
  let ok (e : Nat × PoolEnt) : Bool :=
    admits e.2.desc u && (taskFlow e.2.desc = 0 || (!lag && s.claimOk r e.2.desc))
  ((List.range 8).reverse.filter fun p => pmin ≤ p).findSome? fun p => ((s.readyList r p (unitClass u)).take 16).find? ok

/-- A unit can be offered work (R176, R192, R194): not unavailable, and idle: a core without a task, an engine with a free
staging place. -/
def unitIdle (s : State) (r u : Nat) : Bool :=
  let un := s.inkUnit r u
  let room := if u < 48 then un.tasks.isEmpty
    else un.tasks.length < 2 && !un.tasks.any (fun t => t.staged)
  room && !s.rb (INK_UNIT.adr r u) INK_UNIT.UNAVAIL

/-- The idle units of class `c`, longest idle first, then the lowest number (R193). -/
def idleUnits (s : State) (r c : Nat) : List Nat :=
  let (u0, n) := classUnits c
  let us := ((List.range n).map fun i => u0 + i).filter fun u => s.unitIdle r u
  let before (a b : Nat) : Bool :=
    let ia := (s.inkUnit r a).idle
    let ib := (s.inkUnit r b).idle
    ia < ib || (ia = ib && a < b)
  us.foldl (fun l u => (l.filter fun x => before x u) ++ [u] ++ (l.filter fun x => !before x u)) []

/-- Takes a ready task for unit `u` (R192, R205): it leaves its list, claims its reservoir entry and runs. -/
def takeTask (s : State) (r u p : Nat) (e : PoolEnt) (staged : Bool) : State :=
  let d := e.desc
  let s1 := (s.setPool r p (some { e with ready := false, front := 0 })).setCtr r (taskCtr d) 3 (taskPri d) p 0
  let un := s1.inkUnit r u
  ((s1.claim r p d).setInkUnit r u { un with tasks := un.tasks ++ [⟨p, staged⟩] }).inkSync r

/-! ### Deadlines -/

/-- DEADLINE_SCAN (R209): task-late once for each task whose deadline the replica has passed; none while a phase step
holds the replica. -/
def deadlineScan (s : State) (r : Nat) : State :=
  if (s.xing (xkey 52 (28 + r) 9 0)).fresh then s else
    (s.ink r).pool.foldl (fun s e => match e.2 with
      | none => s
      | some x =>
        if taskDlen x.desc && !x.late && s.deadlineAhead r x.desc < 0 then
          let st := s.ctrState r (taskCtr x.desc)
          let u := ((List.range 60).find? fun u => (s.inkUnit r u).tasks.any fun t => t.pool = e.1).getD 0
          (s.setPool r e.1 (some { x with late := true })).raise 0x0306 (704 + r) (taskId x.desc) (taskCtr x.desc)
            (st + (if st = 3 then 256 * u else 0))
        else s) s

end State

end Sys2Proof.Machine
end

