-- ==== Sys2Proof/Machine/AccBase.lean ====
section
/-! DEFINITION. The region accelerators (R221 to R267) up to their use of the network: the job intake, the checks of a
descriptor, segmentation and rate matching of TS 38.212 and TS 36.212, CRCs, scrambling and constellations. -/

namespace Sys2Proof.Machine

/-! ### Descriptors (R225) -/

/-- The 64-bit word at offset `o` of a job descriptor. -/
def jw (d : List Byte) (o : Nat) : Nat := fieldAt d o 8

def jType (d : List Byte) : Nat := bits (jw d 0) 0 8
def jTag (d : List Byte) : Nat := bits (jw d 0) 32 32
def jRes (d : List Byte) : Nat := bits (jw d 8) 0 48
def jIn (d : List Byte) : Nat := bits (jw d 0x10) 0 48
def jOut (d : List Byte) : Nat := bits (jw d 0x18) 0 48
def jAux (d : List Byte) : Nat := bits (jw d 0x20) 0 48
def jEvCtr (d : List Byte) : Nat := bits (jw d 0x28) 0 14
def jEvReg (d : List Byte) : Nat := bits (jw d 0x28) 14 2
def jEvEn (d : List Byte) : Bool := bit (jw d 0x28) 16

/-- Whether engine `e` accepts a job type (R221, R232 to R258). -/
def typeOk (e t : Nat) : Bool :=
  if e < 4 then t = 0x01 || t = 0x02 else if e < 6 then t = 0x10
  else if e = 6 then t = 0x20 || t = 0x21 || t = 0x22
  else if e = 7 then t = 0x30 || t = 0x31 || t = 0x32 || t = 0x33
  else if e < 10 then t = 0x40 else t = 0x50 || t = 0x51

/-- Whether a type is a HARQ-capable decode. -/
def isDecode (t : Nat) : Bool := t = 0x01 || t = 0x30

/-- `len` bits set from bit `lo`. -/
def ones (lo len : Nat) : Nat := (2 ^ len - 1) * 2 ^ lo

/-- Reserved bits of the body word at offset `o` for a job type. -/
def bodyReserved (t o : Nat) : Nat :=
  let all := 2 ^ 64 - 1
  let code (w : Nat) (dec turbo : Bool) : Nat :=
    if w = 0x40 then ones 25 7 + ones 54 10 + (if turbo then ones 24 1 else 0)
    else if w = 0x48 then
      (if dec then ones 18 1 + ones 30 34 + (if turbo then ones 26 3 else 0) else ones 19 13 + ones 63 1)
    else if w = 0x50 then ones 56 8
    else if w = 0x58 && !dec then ones 48 16 else all
  match t with
  | 0x01 => code o true false
  | 0x30 => code o true true
  | 0x10 => code o false false
  | 0x31 => code o false true
  | 0x02 => if o = 0x40 then ones 4 60 else if o < 0x88 then ones 48 16 else all
  | 0x20 => if o = 0x40 then ones 39 1 + ones 56 8 else all
  | 0x21 => if o = 0x40 then ones 39 1 + ones 56 8 else all
  | 0x22 => if o = 0x40 then ones 4 10 + ones 30 34 else all
  | 0x32 => if o = 0x40 then ones 53 11 else all
  | 0x33 => if o = 0x40 then ones 53 11 else all
  | 0x40 => if o = 0x40 then ones 45 19 else if o = 0x48 then ones 31 1 else if o = 0x50 then ones 16 48 else all
  | 0x50 => if o = 0x40 then ones 7 1 + ones 13 19 + ones 62 2 else if o = 0x48 then ones 5 59
      else if o = 0x50 then ones 48 16 else all
  | 0x51 => if o = 0x40 then ones 7 25 + ones 52 12 else if o = 0x48 then ones 5 59 else all
  | _ => all

/-- Whether the descriptor word at offset `o` passes the checks of R225 and R229 for engine `e`. -/
def wordOk (e : Nat) (d : List Byte) (o : Nat) : Bool :=
  let w := jw d o
  let t := jType d
  match o with
  | 0x00 => typeOk e t && bits w 8 8 = 1 && bits w 16 16 = 0
  | 0x08 => w % 64 = 0 && w < 2 ^ 48
  | 0x10 => w % 64 = 0 && w < 2 ^ 48
  | 0x18 => w % 64 = 0 && w < 2 ^ 48
  | 0x20 => w < 2 ^ 48 &&
      (if isDecode t then !bit (jw d 0x48) 16 || w % 4096 = 0 else if t = 0x40 || t = 0x50 then w % 64 = 0 else true)
  | 0x28 => w < 2 ^ 17
  | 0x30 => w = 0
  | 0x38 => w = 0
  | _ =>
    w &&& bodyReserved t o = 0 &&
      (!(t = 0x02 && 0x48 ≤ o && o < 0x88 && o < 0x48 + 8 * bits (jw d 0x40) 0 4) || w % 64 = 0) &&
      (!(t = 0x50 && o = 0x50) || w % 4 = 0)

/-- The first failing descriptor word, as offset ÷ 8 (BAD_DESC, R229). -/
def badWord (e : Nat) (d : List Byte) : Option Nat := (List.range 24).find? fun i => !wordOk e d (8 * i)

/-! ### Bits -/

/-- Bits packed first bit into bit 7 of byte 0. -/
def packBits : Nat → List Bool → List Byte
  | 0, _ => []
  | n + 1, bs =>
    let h := bs.take 8
    BitVec.ofNat 8 ((List.range 8).foldl (fun a i => 2 * a + b2n (h.getD i false)) 0) :: packBits n (bs.drop 8)

/-- Packs bits into whole lines, the last padded with zeros. -/
def packLines (bs : List Bool) : List Byte := packBits ((bs.length + 511) / 512 * 64) bs

/-- The bits of bytes, first bit from bit 7. -/
def unpackBits (bs : List Byte) : List Bool := bs.flatMap msbBits

/-- The bits of a number, most significant first. -/
def natBits (n v : Nat) : List Bool := (List.range n).map fun i => bit v (n - 1 - i)

/-- Generator polynomials of TS 38.212 and TS 36.212 by CRC length (PRESUMED, log entry 10); 240 names CRC-24B. -/
def crcPoly (l : Nat) : Nat :=
  match l with
  | 24 => 0x864CFB
  | 240 => 0x800063
  | 241 => 0xB2B117
  | 16 => 0x1021
  | 11 => 0x621
  | 8 => 0x9B
  | _ => 0x21

/-- Whether bits that end with a CRC of `l` bits pass it. -/
def crcPass (l poly : Nat) (bs : List Bool) : Bool := crcBits l poly 0 bs = 0

/-! ### Segmentation and rate matching -/

/-- What segmentation gives for a transport block: number of code blocks, bits of TB CRC, and for code block i its
information bits (CRC included, fillers not), K, and circular-buffer length; the lifting size. -/
structure Geo where
  turbo : Bool
  bg : Nat
  c : Nat
  l : Nat
  zc : Nat
  kInfo : List Nat
  kLen : List Nat
  n : Nat

/-- The lifting sizes, rising (R231, LDPC decoding). -/
def liftSizes : List Nat :=
  (List.range 385).filter fun z => [2, 3, 5, 7, 9, 11, 13, 15].any fun a => (List.range 8).any fun j => z = a * 2 ^ j

/-- Segmentation of TS 38.212 (R233). -/
def ldpcGeo (a bg : Nat) : Geo :=
  let l := if 3824 < a then 24 else 16
  let b := a + l
  let kcb := if bg = 0 then 8448 else 3840
  let c := if b ≤ kcb then 1 else (b + kcb - 25) / (kcb - 24)
  let b' := if c = 1 then b else b + 24 * c
  let k' := (b' + c - 1) / c
  let kb := if bg = 0 then 22 else if 640 < b then 10 else if 560 < b then 9 else if 192 < b then 8 else 6
  let zc := (liftSizes.find? fun z => decide (k' ≤ kb * z)).getD 384
  let k := (if bg = 0 then 22 else 10) * zc
  ⟨false, bg, c, l, zc, List.replicate c k', List.replicate c k, (if bg = 0 then 66 else 50) * zc⟩

/-- The 188 interleaver sizes of TS 36.212. -/
def turboSizes : List Nat :=
  ((List.range 60).map fun i => 40 + 8 * i) ++ ((List.range 32).map fun i => 528 + 16 * i) ++
    ((List.range 32).map fun i => 1056 + 32 * i) ++ ((List.range 64).map fun i => 2112 + 64 * i)

/-- Kπ of a turbo code block size. -/
def kPi (k : Nat) : Nat := (k + 4 + 31) / 32 * 32

/-- Segmentation of TS 36.212 (R252). Fillers lie at the start of the first code block. -/
def turboGeo (a : Nat) : Geo :=
  let b := a + 24
  let c := if b ≤ 6144 then 1 else (b + 6119) / 6120
  let b' := if c = 1 then b else b + 24 * c
  let kp := (turboSizes.find? fun k => decide (b' ≤ c * k)).getD 6144
  let km := (turboSizes.reverse.find? fun k => decide (k < kp)).getD 40
  let cm := if c = 1 ∨ kp ≤ km then 0 else (c * kp - b') / (kp - km)
  let ks := (List.range c).map fun i => if i < cm then km else kp
  let f := ks.sum - b'
  ⟨true, 0, c, 24, ks.headD 0, ks.zipIdx.map (fun (k, i) => if i = 0 then k - f else k), ks, 3 * kPi kp⟩

/-- Data bits of a code block's slot (R234): its information bits without the CB CRC. -/
def Geo.kd (g : Geo) (i : Nat) : Nat := g.kInfo.getD i 0 - if g.c = 1 then 0 else 24

/-- OSTRIDE (R234). -/
def Geo.ostride (g : Geo) : Nat := ((g.kInfo.foldl max 0 - if g.c = 1 then 0 else 24) + 511) / 512 * 64

/-- The column permutation of the sub-block interleaver of TS 36.212. -/
def subPerm : List Nat :=
  [0, 16, 8, 24, 4, 20, 12, 28, 2, 18, 10, 26, 6, 22, 14, 30, 1, 17, 9, 25, 5, 21, 13, 29, 3, 19, 11, 27, 7, 23, 15, 31]

/-- The stream of a turbo code block of K bits that circular-buffer position `p` takes, and the place in it, dummies
counted. -/
def turboAt (k p : Nat) : Nat × Nat :=
  let kp := kPi k
  let r := kp / 32
  let y (q : Nat) : Nat := subPerm.getD (q / r) 0 + 32 * (q % r)
  if p < kp then (0, y p)
  else if (p - kp) % 2 = 0 then (1, y ((p - kp) / 2))
  else (2, (y ((p - kp) / 2) + 1) % kp)

/-- Whether circular-buffer position `p` of code block `i` is a filler or dummy position, which rate matching skips. -/
def Geo.isNull (g : Geo) (i p : Nat) : Bool :=
  if g.turbo then
    let k := g.kLen.getD i 0
    let nd := kPi k - (k + 4)
    let (st, y) := turboAt k p
    3 * kPi k ≤ p || y < (if st = 2 then nd else nd + (k - g.kInfo.getD i 0))
  else
    let k := g.kLen.getD i 0
    let k' := g.kInfo.getD i 0
    k' ≤ p + 2 * g.zc && p + 2 * g.zc < k

/-- The LLR that a position which rate matching skips holds (R241, R252): +127 for a filler, 0 for a dummy. -/
def Geo.nullLlr (g : Geo) (i p : Nat) : Int :=
  if !g.turbo then 127
  else
    let k := kPi (g.kLen.getD i 0)
    if 3 * k ≤ p || (turboAt (g.kLen.getD i 0) p).2 < k - (g.kLen.getD i 0 + 4) then 0 else 127

/-- Ncb of code block `i` for a job's Ncb: no more than the block's own circular buffer (R252). -/
def Geo.ncb (g : Geo) (i ncb : Nat) : Nat := if g.turbo then min ncb (3 * kPi (g.kLen.getD i 0)) else ncb

/-- The start position of a redundancy version. -/
def Geo.k0 (g : Geo) (i ncb rv : Nat) : Nat :=
  if g.turbo then
    let r := kPi (g.kLen.getD i 0) / 32
    r * (2 * ((ncb + 8 * r - 1) / (8 * r)) * rv + 2)
  else
    let m := if g.bg = 0 then [0, 17, 33, 56].getD rv 0 else [0, 13, 25, 43].getD rv 0
    m * ncb / g.n * g.zc

/-- The first `e` positions of a circular buffer from `k0`, skipping null positions. -/
def Geo.positions (g : Geo) (i ncb k0 e : Nat) : List Nat :=
  let live := ((List.range ncb).map fun j => (k0 + j) % ncb).filter fun p => !g.isNull i p
  if live.isEmpty then [] else (List.range e).map fun j => live.getD (j % live.length) 0

/-- The bit interleaver's order: received position of bit e_k for modulation order QM. -/
def interleaved (e qm k : Nat) : Nat := let r := e / qm; k % r * qm + k / r

/-- A stored LLR as a number (R231). -/
def llrVal (b : Byte) : Int := if b = 0x80 then -127 else b.toInt

/-- An LLR sum, saturated (R242). -/
def llrSat (x : Int) : Int := max (-127) (min x 127)

def llrByte (x : Int) : Byte := BitVec.ofInt 8 x

/-- Adds received LLRs to a circular buffer (R234, R242). -/
def combine (buf : List Int) (ps : List Nat) (llr : List Int) : List Int :=
  let m : Sparse Int := (buf.zipIdx).map fun (v, i) => (i, v)
  let m' := (ps.zip llr).foldl (fun m (p, x) => sput m p (llrSat (sget m p 0 + x)) 1000) m
  (List.range buf.length).map fun i => sget m' i 0

/-! ### Scrambling and constellations of TS 38.211 (PRESUMED, log entry 10) -/

/-- One step of the two sequences of the Gold generator, each held as 31 bits. -/
def goldStep (x : Nat × Nat) : Nat × Nat :=
  let (a, b) := x
  (a / 2 + 2 ^ 30 * b2n (bit a 3 != bit a 0),
   b / 2 + 2 ^ 30 * b2n ((bit b 3 != bit b 2) != (bit b 1 != bit b 0)))

/-- The Gold sequence of CINIT: `n` bits from index `from_`. -/
def gold (cinit from_ n : Nat) : List Bool :=
  let st := (List.range (1600 + from_)).foldl (fun x _ => goldStep x) (1, cinit % 2 ^ 31)
  ((List.range n).foldl (fun (r : List Bool × Nat × Nat) _ =>
    ((bit r.2.1 0 != bit r.2.2 0) :: r.1, goldStep r.2)) ([], st)).1.reverse

/-- An amplitude level from the bits of one part, first bit first. -/
def level : List Bool → Int
  | [] => 1
  | [b] => if b then -1 else 1
  | b :: bs => (if b then -1 else 1) * ((2 ^ bs.length : Nat) - level bs)

/-- The square of the normalisation of a modulation order. -/
def normSq (qm : Nat) : Nat :=
  match qm with
  | 4 => 10
  | 6 => 42
  | 8 => 170
  | 10 => 682
  | _ => 2

/-- The even and odd bits of a symbol's bits. -/
def evens : List Bool → List Bool
  | [] => []
  | [b] => [b]
  | b :: _ :: bs => b :: evens bs
def odds : List Bool → List Bool
  | [] => []
  | [_] => []
  | _ :: b :: bs => b :: odds bs

/-- round(amp × lvl ÷ √n), half up. -/
def ampPart (amp : Nat) (lvl : Int) (n : Nat) : Int :=
  let q := (2 * amp * lvl.natAbs) ^ 2 / n
  let v := ((Nat.sqrt q + 1) / 2 : Nat)
  if 0 ≤ lvl then v else -(v : Int)

/-- The sign of P − Q √n: negative, zero or positive. -/
def sgnRoot (p q : Int) (n : Nat) : Int :=
  let sp := p.sign * (p * p)
  let sq := q.sign * (q * q * n)
  (sp - sq).sign

/-- floor of Q √n. -/
def floorRoot (q : Int) (n : Nat) : Int :=
  let r : Int := Nat.sqrt (q.natAbs ^ 2 * n)
  if 0 ≤ q then r else if r * r = (q.natAbs : Int) ^ 2 * n then -r else -r - 1

namespace State

/-! ### Intake -/

/-- Event source of engine `e` of group `r` (R575). -/
def engSrc (r e : Nat) : Nat := 656 + 12 * r + e

/-- An accelerator cycle count for a time in ns, at the group's level (R222). -/
def accCycles (s : State) (r ns : Nat) : Nat :=
  let mhz := match s.rf (PW_ISLAND.adr (24 + r)) PW_ISLAND.ACTIVE with
    | 0 => 300
    | 1 => 525
    | 2 => 750
    | 3 => 900
    | 4 => 1050
    | _ => 1200
  ns * mhz / 1000

/-- A write to RA_INTAKE[e] (R266): the job is staged. -/
def intakeJob (s : State) (r e src entry : Nat) : State :=
  let g := s.engine r e
  if src ≠ 28 + r then s.raise 0x0404 (engSrc r e) src 0 0
  else if g.staged.isSome ∨ s.rb (RA_ENGSTAT.adr r e) RA_ENGSTAT.UNAVAIL then s
  else (s.setEngine r e { g with staged := some ⟨entry % 2 ^ 48, none, none, none⟩ }).wb
    (RA_ENGSTAT.adr r e) RA_ENGSTAT.STAGED true

/-- HARQ guard entries in use (R245). -/
def guardSync (s : State) (r : Nat) : State :=
  s.wf (RA_GSTAT.adr r) RA_GSTAT.GUARD (((List.range 12).filter fun e => (s.engine r e).guard.isSome).length)

end State

end Sys2Proof.Machine
end

