-- ==== Sys2Proof/Machine/Operands.lean ====
section
/-! DEFINITION. Operand forms of the vector DSP core: registers, lanes, immediates, and the access addresses of loads and
stores with linear and circular addressing (R92, R95, R96, R102 to R107). -/

namespace Sys2Proof.Machine

/-- Base of core n's data memory (R86). -/
def dmemBase (n : Nat) : Nat := 0x100040000 + 0x100000 * n

/-- Base of core n's instruction memory (R86). -/
def imemBase (n : Nat) : Nat := 0x100000000 + 0x100000 * n

/-- Numbers that name the architectural registers in write and use sets. -/
def rV (i : Nat) : Nat := i
def rAcc (i : Nat) : Nat := 16 + i
def rS (i : Nat) : Nat := 32 + i
def rA (i : Nat) : Nat := 48 + i
def rO (i : Nat) : Nat := 56 + i
def rL (i : Nat) : Nat := 64 + i
def rB (i : Nat) : Nat := 72 + i
def rC (i : Nat) : Nat := 80 + i
/-- Coprocessor register moves use the M slot alone; PC and the repeat are no operands. -/
def rNone : Nat := 99

namespace Arch

def getV (r : Arch) (i : Nat) : Line := sget r.v i 0
def setV (r : Arch) (i : Nat) (x : Line) : Arch := { r with v := sput r.v i x 0 }
def getAcc (r : Arch) (i : Nat) : BitVec 1280 := sget r.acc i 0
def setAcc (r : Arch) (i : Nat) (x : BitVec 1280) : Arch := { r with acc := sput r.acc i x 0 }
def getS (r : Arch) (i : Nat) : Word := sget r.x i 0
def setS (r : Arch) (i : Nat) (x : Word) : Arch := { r with x := sput r.x i x 0 }
/-- Ax of core `n`: its reset value is the core's own data memory base. -/
def getA (r : Arch) (n i : Nat) : Addr := (sget r.a i none).getD (BitVec.ofNat 48 (dmemBase n))
def setA (r : Arch) (n i : Nat) (x : Addr) : Arch :=
  { r with a := sput r.a i (if x = BitVec.ofNat 48 (dmemBase n) then none else some x) none }
def getO (r : Arch) (i : Nat) : Word := sget r.o i 0
def setO (r : Arch) (i : Nat) (x : Word) : Arch := { r with o := sput r.o i x 0 }
def getL (r : Arch) (i : Nat) : BitVec 24 := sget r.l i 0
def setL (r : Arch) (i : Nat) (x : BitVec 24) : Arch := { r with l := sput r.l i x 0 }
def getB (r : Arch) (i : Nat) : Addr := sget r.b i 0
def setB (r : Arch) (i : Nat) (x : Addr) : Arch := { r with b := sput r.b i x 0 }
/-- The reset value of a control register: C6.HANDLER 0x1FF8, the others 0. -/
def cReset (i : Nat) : Word := if i = 6 then 0x1FF8 else 0
def getC (r : Arch) (i : Nat) : Word := sget r.c i (cReset i)
def setC (r : Arch) (i : Nat) (x : Word) : Arch := { r with c := sput r.c i x (cReset i) }

end Arch

/-- Lane `i` of a vector register, as it stands (R92). -/
def lane (v : Line) (i : Nat) : Half := v.extractLsb' (16 * i) 16

/-- Lane `i` as a signed number. -/
def laneI (v : Line) (i : Nat) : Int := (lane v i).toInt

/-- A vector register made lane by lane. -/
def mkLanes (f : Nat → Nat) : Line := BitVec.ofNat 512 ((List.range 32).foldr (fun i acc => f i % 2 ^ 16 + 2 ^ 16 * acc) 0)

/-- Accumulator lane `i` as a signed number. -/
def accI (x : BitVec 1280) (i : Nat) : Int := (x.extractLsb' (40 * i) 40).toInt

/-- An accumulator made lane by lane, each value modulo 2^40. -/
def mkAcc (f : Nat → Int) : BitVec 1280 :=
  BitVec.ofNat 1280 ((List.range 32).foldr (fun i acc => wrapTo 40 (f i) + 2 ^ 40 * acc) 0)

/-- The byte addresses of an access of `n` bytes through Ax (R102, R103, R105): linear when Lx is 0, else circular. With an
even Bx the bytes of a halfword lie together, as R105 says; with an odd Bx the second byte of the buffer's last halfword folds
to its start, because no access addresses a byte outside the buffer (R103; DEDUCED, log entry 28). -/
def accessBytes (r : Arch) (core x n : Nat) : List Nat :=
  let ax := (r.getA core x).toNat
  let lx := (r.getL x).toNat
  let bx := (r.getB x).toNat
  if lx = 0 then (List.range n).map fun j => (ax + j) % 2 ^ 48
  else
    let d : Int := (ax : Int) - bx
    (List.range n).map fun j => (bx + ((d + (j : Nat)) % (lx : Int)).toNat) % 2 ^ 48

/-- Ax after a post-modification by Oy (R102, R103). -/
def postMod (r : Arch) (core x y : Nat) : Addr :=
  let ax := (r.getA core x).toNat
  let lx := (r.getL x).toNat
  let bx := (r.getB x).toNat
  let oy := (r.getO y).toInt
  if lx = 0 then BitVec.ofNat 48 (wrapTo 48 ((ax : Int) + oy))
  else BitVec.ofNat 48 (bx + ((((ax : Int) - bx + oy) % (lx : Int)).toNat))

/-- Whether a byte address lies in core n's own data memory. -/
def inOwnDmem (n a : Nat) : Bool := dmemBase n ≤ a && a < dmemBase n + 0x40000

end Sys2Proof.Machine
end

