-- ==== Sys2Proof/Machine/CopBase.lean ====
section
/-! DEFINITION. The coprocessors (R133 to R174) up to their use of the network: contexts, command checks, the queue and
its scoreboard, intakes, bindings, trigger slots, errors; and the cores' tags. -/

namespace Sys2Proof.Machine

/-- Base of the CX block of cluster `k` (R86). -/
def cxBase (k : Nat) : Nat := 0x200800000 + 0x1000000 * k

/-- The target cluster that a CX block base names (R153). -/
def cxCluster (a : Nat) : Option Nat := (List.range 24).find? fun k => a = cxBase k

/-! ### Command words (R139) -/

def cmdOpc (w : List Word) : Nat := bits (w.getD 0 0).toNat 24 8
def cmdTag (w : List Word) : Nat := bits (w.getD 0 0).toNat 20 4
def cmdNtf (w : List Word) : Bool := bit (w.getD 0 0).toNat 19
def cmdMem (w : List Word) : Bool := bit (w.getD 0 0).toNat 18
def cmdSsel (w : List Word) : Nat := bits (w.getD 0 0).toNat 16 2
def cmdDsel (w : List Word) : Nat := bits (w.getD 0 0).toNat 14 2
def cmdParam (w : List Word) : Nat := bits (w.getD 0 0).toNat 0 12
def cmdSrc1 (w : List Word) : Nat := bits (w.getD 1 0).toNat 27 5
def cmdSrc2 (w : List Word) : Nat := bits (w.getD 1 0).toNat 22 5
def cmdDst (w : List Word) : Nat := bits (w.getD 1 0).toNat 17 5
def cmdSaddr (w : List Word) : Nat := cmdSsel w * 2 ^ 32 + (w.getD 1 0).toNat
def cmdDaddr (w : List Word) : Nat := cmdDsel w * 2 ^ 32 + (w.getD 2 0).toNat
def cmdScale (w : List Word) : Int := sgn 5 (bits (w.getD 3 0).toNat 27 5)
def cmdOpt (w : List Word) : Nat := bits (w.getD 3 0).toNat 24 3
def cmdCtr (w : List Word) : Nat := bits (w.getD 3 0).toNat 0 14

/-- A transform size of FFT and IFFT (R163). -/
def fftSize (n : Nat) : Bool :=
  ((List.range 9).any fun a => n = 2 ^ (a + 4)) || ((List.range 9).any fun a => n = 3 * 2 ^ (a + 2))

/-- A transform size of DFT and IDFT (R163): 12 × 2^a × 3^b × 5^c up to 3,240. -/
def dftSize (n : Nat) : Bool :=
  n ≤ 3240 && ((List.range 9).any fun a => (List.range 6).any fun b => (List.range 4).any fun c =>
    n = 12 * 2 ^ a * 3 ^ b * 5 ^ c)

/-- Rows and columns of a CMAT command (R166): m, n, p of CMUL; the size of CHOL and CINV in each. -/
def matDims (w : List Word) : Nat × Nat × Nat :=
  let p := cmdParam w
  if cmdOpc w = 0x10 then (bits p 8 4 + 1, bits p 4 4 + 1, bits p 0 4 + 1)
  else (bits p 0 4 + 1, bits p 0 4 + 1, bits p 0 4 + 1)

/-- Registers of the first operand, second operand and result of a command (R163, R166). -/
def cmdRegs (u : Nat) (w : List Word) : Nat × Nat × Nat :=
  if u = 0 then let r := (cmdParam w + 1 + 15) / 16; (r, 0, r)
  else
    let (m, n, _) := matDims w
    if cmdOpc w = 0x10 then (if bit (cmdOpt w) 0 then n else m, n, m) else (n, 0, n)

/-- Bytes of the first operand, second operand and result of a memory form. -/
def cmdLens (u : Nat) (w : List Word) : Nat × Nat × Nat :=
  if u = 0 then (4 * (cmdParam w + 1), 0, 4 * (cmdParam w + 1))
  else let (a, b, c) := cmdRegs u w; (64 * a, 64 * b, 64 * c)

/-- Whether `len` bytes from `a` lie wholly within one core data memory, one cluster shared memory or one region pool
(R140). -/
def inOneMemory (a len : Nat) : Bool :=
  if 0x100000000 ≤ a ∧ a < 0x100000000 + 192 * 0x100000 then
    0x40000 ≤ a % 0x100000 && a % 0x100000 + len ≤ 0x80000
  else if 0x200000000 ≤ a ∧ a < 0x200000000 + 24 * 0x1000000 then a % 0x1000000 + len ≤ 0x400000
  else if 0x300000000 ≤ a ∧ a < 0x300000000 + 4 * 0x1000000 then a % 0x1000000 + len ≤ 0x800000
  else false

/-- Whether two runs of registers overlap. -/
def overlap (a la b lb : Nat) : Bool := a < b + lb && b < a + la

/-- The checks of R142 (R139 to R141, R163, R166). -/
def cmdLegal (u : Nat) (w : List Word) : Bool :=
  let w0 := (w.getD 0 0).toNat
  let w1 := (w.getD 1 0).toNat
  let w3 := (w.getD 3 0).toNat
  let n := cmdParam w + 1
  let opc := cmdOpc w
  let size :=
    if u = 0 then ((opc = 1 || opc = 2) && fftSize n) || ((opc = 3 || opc = 4) && dftSize n)
    else opc = 0x10 || ((opc = 0x11 || opc = 0x12) && bits (cmdParam w) 4 8 = 0)
  let opt := cmdOpt w < 2 && (u = 0 || opc = 0x10 || cmdOpt w = 0)
  let (a, b, c) := cmdRegs u w
  let form :=
    if cmdMem w then
      let (la, lb, lc) := cmdLens u w
      let al := if u = 0 then 4 else 64
      cmdSsel w ≠ 0 && cmdDsel w ≠ 0 && cmdSaddr w % al = 0 && cmdDaddr w % al = 0 &&
        inOneMemory (cmdSaddr w) la && (lb = 0 || inOneMemory (cmdSaddr w + 0x400) lb) && inOneMemory (cmdDaddr w) lc
    else
      cmdSsel w = 0 && cmdDsel w = 0 && bits w1 0 17 = 0 && (w.getD 2 0) = 0 && (u = 1 || n ≤ 256) &&
        (b ≠ 0 || cmdSrc2 w = 0) && cmdSrc1 w + a ≤ 32 && cmdSrc2 w + b ≤ 32 && cmdDst w + c ≤ 32 &&
        (opc = 0x11 || opc = 0x12 ||
          (!overlap (cmdSrc1 w) a (cmdDst w) c && !overlap (cmdSrc2 w) b (cmdDst w) c))
  size && opt && form && bits w0 12 2 = 0 && bits w3 14 10 = 0

/-- The context registers a register-form command writes. -/
def cmdWrites (u : Nat) (w : List Word) : List Nat :=
  if cmdMem w then [] else (List.range (cmdRegs u w).2.2).map fun i => cmdDst w + i

/-- The context registers a register-form command reads. -/
def cmdReads (u : Nat) (w : List Word) : List Nat :=
  if cmdMem w then [] else
    ((List.range (cmdRegs u w).1).map fun i => cmdSrc1 w + i) ++ ((List.range (cmdRegs u w).2.1).map fun i => cmdSrc2 w + i)

namespace State

/-! ### Cores and coprocessors -/

def core (s : State) (n : Nat) : Core := sget s.cores n Core.reset
def setCore (s : State) (n : Nat) (c : Core) : State := { s with cores := sput s.cores n c Core.reset }
def cop (s : State) (k u : Nat) : Coproc := sget s.cops (2 * k + u) Coproc.reset

/-- Whether power domain `d` is on (R518). -/
def domOn (s : State) (d : Nat) : Bool := bit (s.reg (PW_DOMSTAT.adr (d / 32))) (d % 32)

/-- The power domain of a coprocessor (R518). -/
def copDom (k u : Nat) : Nat := 11 * k + 9 + u

/-- Whether a coprocessor is unavailable (R172, reason 0x05). -/
def copUnavail (s : State) (k u : Nat) : Bool :=
  s.rb (CX_STAT.adr k u) CX_STAT.UNAVAIL || !s.domOn (copDom k u)

/-- Stores a coprocessor and brings QFILL and BUSY of CX_STAT up to date. -/
def setCop (s : State) (k u : Nat) (c : Coproc) : State :=
  let s1 := { s with cops := sput s.cops (2 * k + u) c Coproc.reset }
  (s1.wf (CX_STAT.adr k u) CX_STAT.QFILL c.queue.length).wb (CX_STAT.adr k u) CX_STAT.BUSY
    (c.queue.any fun x => x.started)

/-- CRn of a context. -/
def getCR (s : State) (k u ctx n : Nat) : Line := sget (s.cop k u).cr (ctx * 32 + n) 0

def setCR (s : State) (k u ctx n : Nat) (v : Line) : State :=
  let c := s.cop k u
  s.setCop k u { c with cr := sput c.cr (ctx * 32 + n) v 0, bad := sdrop (fun i => i / 8 = ctx * 32 + n) c.bad }

/-- The decode of word `w` of CRn of a context is reported (R354, R355). The spec gives no address to the registers of
contexts 0 to 31, which no window shows: theirs is free (log entry 24). -/
def crReport (s : State) (k u ctx n w : Nat) (m : Mark) : State :=
  let (free, s1) := s.draw 48
  let a := if 32 ≤ ctx then cxBase k + 0x8000 + 0x4000 * u + 0x800 * (ctx - 32) + 0x40 * n + 8 * w else free
  s1.reportWord ⟨4, k, 4 + k / 6, 8⟩ a m

/-- Reads CRn of a context: whether no word of it is uncorrectable. Each word that does not decode clean is reported (R135,
R346, R354). -/
def crDecode (s : State) (k u ctx n : Nat) : Bool × State :=
  (List.range 8).foldl (fun (r : Bool × State) w =>
    match sget (s.cop k u).bad (8 * (ctx * 32 + n) + w) none with
    | none => r
    | some m => (r.1 && (match m with | .corrected _ => true | _ => false), r.2.crReport k u ctx n w m)) (true, s)

/-- Writes the enabled bytes of CRn of a context; a word written in part is merged as R350 says. -/
def crMerge (s : State) (k u ctx n en data : Nat) : State :=
  let c := s.cop k u
  let i := ctx * 32 + n
  let byte (j : Nat) : Nat := if bit en j then bits data (8 * j) 8 else bits (sget c.cr i 0).toNat (8 * j) 8
  let v := (List.range 64).foldl (fun t j => t + byte j * 2 ^ (8 * j)) 0
  let s1 := s.setCop k u { c with cr := sput c.cr i (BitVec.ofNat 512 v) 0 }
  (List.range 8).foldl (fun s w =>
    let m := sget c.bad (8 * i + w) none
    let put (x : Option Mark) (s : State) : State := s.setCop k u { s.cop k u with bad := sput (s.cop k u).bad (8 * i + w) x none }
    match bits en (8 * w) 8, m with
    | 0, _ => s
    | _, none => s
    | 0xFF, some _ => put none s
    | _, some (.corrected p) => (put none s).crReport k u ctx n w (.corrected p)
    | _, some m => (put (some .poisoned) s).crReport k u ctx n w m) s1

/-- W of a context register (R145): a queued command of the context writes it. -/
def crW (s : State) (k u ctx n : Nat) : Bool :=
  (s.cop k u).queue.any fun x => x.ctx = ctx && (cmdWrites u x.words).contains n

/-- R of a context register (R145): a queued command of the context reads it and has not read it yet. -/
def crR (s : State) (k u ctx n : Nat) : Bool :=
  (s.cop k u).queue.any fun x => x.ctx = ctx && !x.started && (cmdReads u x.words).contains n

/-- Whether a command is issued by a remote core. -/
def isRemote (x : CopCmd) : Bool := match x.origin with
  | .remote _ _ => true
  | _ => false

/-- Shared queue entries taken (R143). -/
def sharedFill (s : State) (k u : Nat) : Nat := ((s.cop k u).queue.filter fun x => !isRemote x).length

/-- What an event names for a command: its tag, or its trigger slot (R172). -/
def cmdName (x : CopCmd) : Nat := match x.origin with
  | .slot n => n
  | _ => x.tag

/-- A command enters the queue (R143). One for an unavailable unit, or one that did not pass the checks of R142 where
it was written, holds its error from the start. -/
def copEnter (s : State) (k u : Nat) (x : CopCmd) : State :=
  let err := if s.copUnavail k u then some (5, 0) else if cmdLegal u x.words then none else some (1, 0)
  let c := s.cop k u
  s.setCop k u { c with queue := c.queue ++ [{ x with err := err }] }

/-- A command as it enters the queue. -/
def newCmd (words : List Word) (ctx : Nat) (o : CopOrigin) (committed : Bool) : CopCmd :=
  ⟨words, ctx, cmdTag words, o, committed, false, [], none, none, false⟩

/-- Sets ERR and LASTERR of a context and ERR of the unit, with the event (R172). -/
def ctxErr (s : State) (k u ctx detail name : Nat) : State :=
  let a := CX_CTXST.adr k u ctx
  (((s.wf a CX_CTXST.ERR 1).wf a CX_CTXST.LASTERR detail).wf (CX_STAT.adr k u) CX_STAT.ERR 1).raise
    0x0206 (192 + 2 * k + u) ctx detail name

/-- Changes command `i` of a queue. -/
def setCmd (s : State) (k u i : Nat) (x : CopCmd) : State :=
  let c := s.cop k u
  s.setCop k u { c with queue := lset c.queue i x }

/-! ### Bindings -/

/-- Whether a context has a command queued or in progress. -/
def ctxBusy (s : State) (k u ctx : Nat) : Bool := (s.cop k u).queue.any fun x => x.ctx = ctx

/-- A write of CX_BIND[i] (R173): at once, or when the context next has no command. -/
def bindWrite (s : State) (k u i v : Nat) : State :=
  let w := (setBits 0 31 1 (bits v 31 1)) + bits v 0 10
  let c := s.cop k u
  if s.ctxBusy k u (32 + i) then s.setCop k u { c with bind := sput c.bind i (some w) none }
  else (s.setCop k u { c with bind := sput c.bind i none none }).setReg (CX_BIND.adr k u i) w

/-- CX_BIND_APPLY (R173). -/
def bindApply (s : State) (k u i : Nat) : State :=
  let c := s.cop k u
  match sget c.bind i none with
  | none => s
  | some w =>
    if s.ctxBusy k u (32 + i) then s
    else (s.setCop k u { c with bind := sput c.bind i none none }).setReg (CX_BIND.adr k u i) w

/-- The context that a remote core and depth are bound to (R154): the lowest matching entry. CORE 192 to 255 never match. -/
def boundCtx (s : State) (k u n d : Nat) : Option Nat :=
  ((List.range 8).find? fun i =>
    decide (n < 192) && s.rb (CX_BIND.adr k u i) CX_BIND.VALID && s.rf (CX_BIND.adr k u i) CX_BIND.CORE = n &&
      s.rf (CX_BIND.adr k u i) CX_BIND.DEPTH = d).map fun i => 32 + i

/-! ### Tags and deferred errors at the issuing core -/

/-- A deferred coprocessor error reaches its core (R172), for the task that issued the command of unit `u` with `tag`. -/
def deferCop (s : State) (n u depth task tag detail addr : Nat) : State :=
  let c := s.core n
  s.setCore n { c with defer := c.defer ++ [⟨⟨8, detail, addr⟩, depth, task, u, tag⟩] }

/-- Frees a tag of a core. -/
def freeTag (s : State) (n u depth tag : Nat) (remote : Option Nat) : State :=
  let c := s.core n
  s.setCore n { c with tags := ldrop1 (fun t => t.u = u && t.depth = depth && t.tag = tag && t.remote = remote) c.tags }

/-- A completion notice reaches the issuing cluster (R156): the tag frees, and an error is deferred to the core. A
notice that matches no tag is ignored (R174). -/
def notice (s : State) (k u n depth tag target detail addr : Nat) : State :=
  if n / 8 ≠ k then s else
    match (s.core n).tags.find? (fun t => t.u = u && t.depth = depth && t.tag = tag && t.remote = some target) with
    | none => s
    | some t =>
      let s1 := s.freeTag n u depth tag (some target)
      if detail = 0 then s1 else s1.deferCop n u depth t.task tag detail addr

/-- REMOTE_TAG_TIMEOUT (R156): a remote tag without notice is freed with reason 0x07. -/
def tagTimeout (s : State) (n u depth tag : Nat) : State :=
  match (s.core n).tags.find? (fun t => t.u = u && t.depth = depth && t.tag = tag && t.remote.isSome && t.since.isSome) with
  | none => s
  | some t =>
    let k := t.remote.getD 0
    (s.freeTag n u depth tag t.remote).deferCop n u depth t.task tag 7 (cxBase k)

/-! ### Intakes, windows and trigger slots -/

/-- A write to a command intake (R154, R158) by source `src`: queued in the bound context, or answered with reason 0x03
by the notice that the result names. The result's flag says that no binding matches. A command that finds both reserved
entries of its context taken, which R155 says does not arise (a tag freed by R156's timeout, or a write by another core's
cluster, can bring it about), is dropped without a notice: DESIGN CHOICE, log entry 24. -/
def intakeCommand (s : State) (k u src n d : Nat) (words : List Word) : Bool × State :=
  if 24 ≤ src then (false, s.raise 0x0202 (192 + 2 * k + u) src (0x2000 + 0x40 * u) 0)
  else match s.boundCtx k u n d with
    | none => (true, s)
    | some ctx =>
      if 2 ≤ ((s.cop k u).queue.filter fun x => x.ctx = ctx && isRemote x).length then (false, s)
      else (false, s.copEnter k u (newCmd words ctx (.remote n d) true))

/-- A write to the completion intake (R156, R158). -/
def intakeNotice (s : State) (k src u n d tag target detail addr : Nat) : State :=
  if 24 ≤ src then s.raise 0x0202 (192 + 2 * k) src 0x2100 0 else s.notice k u n d tag target detail addr

/-- The hazard of a window access to a pending register (R159). -/
def hazard (s : State) (k u ctx n : Nat) : State :=
  if s.crW k u ctx n || s.crR k u ctx n then
    (s.wf (CX_CTXST.adr k u ctx) CX_CTXST.HAZ 1).raise 0x0203 (192 + 2 * k + u) ctx n 0
  else s

/-- The four words of trigger slot `t`. -/
def slotWords (s : State) (k u t : Nat) : List Word :=
  (List.range 4).map fun w => BitVec.ofNat 32 (s.reg (CX_TRIGCMD.adr k u t w))

/-- Issues the command of a trigger slot into its context (R160, R161). The queue captures the four words here, so that a command
which is queued keeps them, and a later write changes those that enter after it (R162; DESIGN CHOICE, log entry 24: the rule also
speaks of queued commands that start after the write). -/
def slotIssue (s : State) (k u t : Nat) : State :=
  s.copEnter k u (newCmd (s.slotWords k u t) (s.rf (CX_TRIGCTL.adr k u t) CX_TRIGCTL.CTX) (.slot t) true)

/-- A pulse of count `c` to a trigger slot (R160 to R162). One that would raise PEND above 0xFFFF is lost whole: it issues nothing
(DEDUCED, log entry 24). -/
def triggerPulse (s : State) (k u t c : Nat) : State :=
  let a := CX_TRIGCTL.adr k u t
  let ctx := s.rf a CX_TRIGCTL.CTX
  let ok := s.rb a CX_TRIGCTL.EN && 32 ≤ ctx && ctx < 40 && !s.rb (CX_BIND.adr k u (ctx - 32)) CX_BIND.VALID
  if !ok then s.raise 0x0205 (192 + 2 * k + u) t c 0
  else
    let pend := s.rf a CX_TRIGCTL.PEND
    let now := if pend = 0 then min c (32 - s.sharedFill k u) else 0
    let total := pend + (c - now)
    if total ≤ 0xFFFF then (upto now (fun _ s => s.slotIssue k u t) s).wf a CX_TRIGCTL.PEND total
    else (s.wf a CX_TRIGCTL.LOST 1).raise 0x0204 (192 + 2 * k + u) t c 0

/-- A pending issue enters the queue as a shared entry frees (R161), whatever has become of the slot's EN and CTX, or of the binding
of its context, since its pulse (DESIGN CHOICE, log entry 24: R162 speaks of pulses only). -/
def triggerEnter (s : State) (k u t : Nat) : State :=
  let a := CX_TRIGCTL.adr k u t
  if s.rf a CX_TRIGCTL.PEND = 0 ∨ 32 ≤ s.sharedFill k u then s
  else (s.wf a CX_TRIGCTL.PEND (s.rf a CX_TRIGCTL.PEND - 1)).slotIssue k u t

end State

end Sys2Proof.Machine
end

