-- ==== Sys2Proof/Machine/ModeBase.lean ====
section
/-! DEFINITION. The device mode (R527, R528): its codes, its change, and the air mode that the conditions decide. -/

namespace Sys2Proof.Machine

/-- Mode codes, in the order of R321. -/
def mBoot : Nat := 0
def mRecovery : Nat := 1
def mConfigure : Nat := 2
def mStandby : Nat := 3
def mService : Nat := 4
def mHoldover : Nat := 5
def mDegraded : Nat := 6
def mDrain : Nat := 7
def mTest : Nat := 8
def mUpdate : Nat := 9
def mHalt : Nat := 10
def mChrysalis : Nat := 11

namespace State

/-- The mode in force (PW_MODE). -/
def mode (s : State) : Nat := s.rf PW_MODE.adr PW_MODE.MODE

/-- The mode changes, with its event (R527). -/
def setMode (s : State) (m : Nat) : State :=
  let old := s.mode
  if old = m then s else
    let s1 := s.wf PW_MODE.adr PW_MODE.MODE m
    s1.raise 0x0D02 903 old m (s1.rf PW_MODE.adr PW_MODE.HALTCAUSE * 256 + s1.rf PW_MODE.adr PW_MODE.HALTPARAM)

/-- Whether a unit is stopped under R19, R132 or R264. -/
def unitStopped (s : State) : Bool :=
  (s.cores.any fun c => decide (c.2.run = .stopped)) ||
  ((List.range 4).any fun r => (List.range 12).any fun e => s.rb (RA_ENGSTAT.adr r e) RA_ENGSTAT.UNAVAIL) ||
  ((List.range 24).any fun k => (List.range 2).any fun u => s.rb (CX_STAT.adr k u) CX_STAT.UNAVAIL)

/-- The air mode that the conditions of R528 decide. -/
def airMode (s : State) : Nat :=
  if s.unitStopped ∨ s.reg TP_DEAD0.adr ≠ 0 ∨ s.reg TP_DEAD1.adr ≠ 0 then mDegraded
  else if s.heldOver then mHoldover else mService

/-- In an air mode, the mode follows the conditions of R528. -/
def airSync (s : State) : State :=
  if s.mode = mService ∨ s.mode = mHoldover ∨ s.mode = mDegraded then s.setMode s.airMode else s

end State

end Sys2Proof.Machine
end

