-- ==== Sys2Proof/Machine/SetBase.lean ====
section
/-! DEFINITION. The settings of behaviour level 1 (R545, R555): their IDs, factory values and ranges, and the store of
those in force. -/

namespace Sys2Proof.Machine

/-- The setting IDs defined at behaviour level 1 (R555), in ascending order. -/
def settingIds : List Nat :=
  (List.range 40).map (0x540 + ·) ++ (List.range 8).map (0x601 + ·) ++ (List.range 12).map (0x610 + ·) ++
    (List.range 12).map (0x620 + ·) ++ (List.range 3).map (0x701 + ·) ++ (List.range 8).map (0x800 + ·) ++
    (List.range 8).map (0x810 + ·) ++ (List.range 12).map (0x820 + ·) ++ [0x900, 0x902, 0x910, 0xA01]

/-- The WARN limits of monitor `m` from the factory, low and high, in the units of the setting (R514). -/
def warnFactory (m : Nat) : Nat × Nat :=
  if m < 6 then (wrapTo 16 (-360), 880) else if m = 6 then (wrapTo 16 (-360), 920) else if m = 7 then (3800, 7600)
  else if m = 8 then (1067, 1133) else if m = 9 then (2475, 2525) else if m = 10 then (0, 6000) else (0, 2150)

/-- The CRIT limits of monitor `m`, low and high, in the units of AO_MON (R514). -/
def critLimits (m : Nat) : Option Int × Option Int :=
  if m < 6 then (none, some 1000) else if m = 6 then (none, some 1040) else if m = 7 then (some 33000, some 80000)
  else if m = 8 then (some 1045, some 1155) else if m = 9 then (some 2450, some 2550) else if m = 10 then (none, some 7000)
  else (none, some 2350)

/-- The WARN limits that a setting value names, in the units of AO_MON (R514); none: no low limit. -/
def warnLimits (m v : Nat) : Option Int × Int :=
  let lo := bits v 0 16
  let hi := bits v 16 16
  if m < 7 then (some (sgn 16 lo), sgn 16 hi) else if m = 7 then (some (10 * lo), 10 * hi)
  else if m < 10 then (some lo, hi) else (none, hi)

/-- Whether a WARN setting is in range (R514). -/
def warnOk (m v : Nat) : Bool :=
  let (lo, hi) := warnLimits m v
  let (cl, ch) := critLimits m
  let inside (x : Int) : Bool := (match cl with | some c => decide (c ≤ x) | none => true) &&
    (match ch with | some c => decide (x ≤ c) | none => true)
  match lo with
  | some l => decide (l < hi) && inside l && inside hi
  | none => bits v 0 16 = 0 && decide (0 < hi) && inside hi

/-- The factory value of a setting (R398, R497, R513, R514, R526, R530, R537, R567, R340). -/
def factory (id : Nat) : Nat :=
  if 0x540 ≤ id ∧ id < 0x568 then 0x80800000
  else if id = 0x603 then 100 else if id = 0x604 then 14400 else if id = 0x607 then 1
  else if id = 0x701 then 6400 else if id = 0x703 then 4
  else if id = 0x800 ∨ id = 0x801 then 0x8000
  else if 0x810 ≤ id ∧ id < 0x818 then 15 + 99 * 4096
  else if 0x820 ≤ id ∧ id < 0x82C then (warnFactory (id - 0x820)).1 + 65536 * (warnFactory (id - 0x820)).2
  else if id = 0x900 then 5 else if id = 0x902 then 1000 else if id = 0x910 then 7 else if id = 0xA01 then 1
  else 0

/-- Whether `v` lies in the range of setting `id`. -/
def settingOk (id v : Nat) : Bool :=
  if 0x540 ≤ id ∧ id < 0x568 then
    -- the fields of LN_LANECFG: AUTO, TXINV, RXINV, CTLE, TXPOST and TXPRE
    (v &&& 0xE0F0FF80) = v
  else if id = 0x601 ∨ id = 0x602 then v ≤ 2
  else if id = 0x603 then (let x := sgn 32 v; decide (x ≠ 0 ∧ -10000 ≤ x ∧ x ≤ 10000))
  else if id = 0x604 then v < 2 ^ 31
  else if id = 0x605 ∨ id = 0x606 then (let x := sgn 32 v; decide (-500000000 ≤ x ∧ x ≤ 500000000))
  else if id = 0x607 then v ≤ 1
  else if id = 0x608 then (v &&& 0x1F1F) = v && bits v 0 4 < 12 && bits v 8 4 < 12
  else if 0x610 ≤ id ∧ id < 0x61C then (let x := sgn 32 v; decide (-100000 ≤ x ∧ x ≤ 100000))
  else if 0x620 ≤ id ∧ id < 0x62C then v ≤ 1
  else if id = 0x701 then v = 4800 || v = 5600 || v = 6400
  else if id = 0x702 then v ≤ 4
  else if id = 0x703 then 1 ≤ v && v ≤ 16
  else if 0x800 ≤ id ∧ id < 0x808 then v < 2 ^ 18
  else if 0x810 ≤ id ∧ id < 0x818 then v < 2 ^ 28
  else if 0x820 ≤ id ∧ id < 0x82C then warnOk (id - 0x820) v
  else if id = 0x900 then v ≤ 5
  else if id = 0x902 then 10 ≤ v && v ≤ 10000
  else if id = 0x910 then (v &&& 0xFF07) = v
  else if id = 0xA01 then v ≤ 1
  else false

/-- Settings that take effect only at boot: SETTING_SET of them is BAD_PARAM (R340, R497). -/
def bootOnly (id : Nat) : Bool := id = 0x601 || id = 0x701 || id = 0x702 || id = 0x703

namespace State

/-- The value of setting `id` in force (R545). -/
def setting (s : State) (id : Nat) : Nat := sget s.settings id (factory id)

/-- Puts a value of setting `id` in force. -/
def putSetting (s : State) (id v : Nat) : State := { s with settings := sput s.settings id v (factory id) }

end State

end Sys2Proof.Machine
end

