-- ==== Sys2Proof/Machine/AnalogBase.lean ====
section
/-! DEFINITION. The analog output channels (R499 to R513): latches, the deglitcher, deferral, slewed updates, moves to the
safe code, timed steps, faults and ownership by the Timekeeper. -/

namespace Sys2Proof.Machine

/-- A channel's event source (R575). -/
def chanSrc (c : Nat) : Nat := 864 + c

namespace State

def chan (s : State) (c : Nat) : Chan := sget s.chans c Chan.reset
def setChan (s : State) (c : Nat) (v : Chan) : State := { s with chans := sput s.chans c v Chan.reset }
def aoCode (s : State) (c : Nat) : Nat := s.rf (AO_CHSTAT.adr c) AO_CHSTAT.CODE
def aoSafe (s : State) (c : Nat) : Nat := s.rf (AO_CHTGT.adr c) AO_CHTGT.SAFE
def aoFault (s : State) (c : Nat) : Bool := s.rb (AO_CHSTAT.adr c) AO_CHSTAT.FAULT
/-- S and P of the NV profile in force. -/
def aoProfile (s : State) (c : Nat) : Nat × Nat :=
  (s.rf (AO_CHSLEW.adr c) AO_CHSLEW.SM1 + 1, s.rf (AO_CHSLEW.adr c) AO_CHSLEW.PM1 + 1)

/-- Whether a move to the safe code runs on a channel (R508). -/
def safeMoving (s : State) (c : Nat) : Bool := match (s.chan c).slew with
  | some w => w.safe
  | none => false

/-- The times of the eight channels' step queue heads, 32 bits each (role 14 of R638): 0 for an empty queue. -/
def stepTimes (s : State) : Nat :=
  wordsVal ((List.range 8).map fun c => BitVec.ofNat 32 (((s.chan c).steps.head?.map AStep.lt).getD 0))

/-- Whether some channel has a step at the head of its queue that the comparator has not taken. -/
def newSteps (s : State) : Bool := (List.range 8).any fun c => (s.chan c).steps.head?.any fun x => x.due.isNone

/-- Brings SLEWING, TARGET, QSTEPS and what the comparator is sent up to date. -/
def aoSync (s : State) (c : Nat) : State :=
  let ch := s.chan c
  (((s.wb (AO_CHSTAT.adr c) AO_CHSTAT.SLEWING ch.slew.isSome).wf (AO_CHSTAT.adr c) AO_CHSTAT.QSTEPS ch.steps.length).wf
    (AO_CHTGT.adr c) AO_CHTGT.TARGET (match ch.slew with
      | some w => w.target
      | none => s.aoCode c)).schedSend 61 s.stepTimes s.newSteps

/-- The land of a channel takes a code. -/
def aoLand (s : State) (c code : Nat) : State :=
  let ch := s.chan c
  let s1 := s.setChan c { ch with land := code, glitch := none }
  if ch.land = code then s1 else s1.emit (.analog c code)

/-- A latch (R501, R502): CODE takes the code; a direct update that crosses a segment waits in the deglitcher. -/
def aoLatch (s : State) (c code : Nat) (direct : Bool) : State :=
  let old := s.aoCode c
  let s1 := (s.wf (AO_CHSTAT.adr c) AO_CHSTAT.CODE code).setChan c { s.chan c with last := some s.cyc }
  let s2 := if direct ∧ old / 1024 ≠ code / 1024 then s1.setChan c { s1.chan c with glitch := some code } else s1.aoLand c code
  s2.aoSync c

/-- DEGLITCH_RELEASE (R501). -/
def deglitch (s : State) (c : Nat) : State := match (s.chan c).glitch with
  | some code => s.aoLand c code
  | none => s

/-- A direct update (R502, R505): ends a slewed update; deferred when it falls less than 1 µs after the previous latch or
behind updates still deferred. -/
def aoDirect (s : State) (c code : Nat) : State :=
  let ch := s.chan c
  let near := match ch.last with
    | some t => decide (s.cyc < t + 1000)
    | none => false
  let s1 := s.setChan c { ch with slew := none }
  if near || !ch.deferred.isEmpty then
    ((s1.setChan c { s1.chan c with deferred := ch.deferred ++ [code] }).incSat (AO_CHCNT.adr c) AO_CHCNT.DEFER 1).aoSync c
  else s1.aoLatch c code true

/-- DEFERRED_LATCH (R502): the update deferred longest is latched. -/
def aoDeferredLatch (s : State) (c : Nat) : State := match (s.chan c).deferred with
  | [] => s
  | code :: rest => (s.setChan c { s.chan c with deferred := rest }).aoLatch c code true

/-- The code that the tuning word gives an owned channel (R480). -/
def tuneCode (s : State) (c : Nat) : Nat :=
  let w := s.rf TK_EFCW.adr TK_EFCW.W
  if c = 0 then bits w 8 16 else bits w 0 8 * 256 + 128

/-- Whether the Timekeeper owns a channel (R480). -/
def tkOwns (s : State) (c : Nat) : Bool :=
  let m := s.setting 0x602
  (c = 0 && decide (m ≠ 0)) || (c = 1 && decide (m = 2))

/-- TKOWN of both tuning channels follows EFC_MODE. -/
def ownSync (s : State) : State :=
  (s.wb (AO_CHSTAT.adr 0) AO_CHSTAT.TKOWN (s.tkOwns 0)).wb (AO_CHSTAT.adr 1) AO_CHSTAT.TKOWN (s.tkOwns 1)

/-- A slewed update starts from the code last latched (R503, R505). -/
def aoSlew (s : State) (c target step period : Nat) (safe : Bool) : State :=
  let ch := s.chan c
  let w : Option Slew := if s.aoCode c = target then none else some ⟨target, step, period, safe⟩
  (s.setChan c { ch with slew := w }).aoSync c

/-- The Timekeeper moves an owned channel to the tuning word with the NV profile (R481, R504, R511, R534); discarded
while a safe move runs or FAULT is set. -/
def tuneMove (s : State) (c : Nat) : State :=
  if !s.tkOwns c || s.safeMoving c || s.aoFault c || (s.chan c).clamped then s
  else s.aoSlew c (s.tuneCode c) (s.aoProfile c).1 (s.aoProfile c).2 false

/-- The end of a move to the safe code: the Timekeeper takes its channel back after a boot (R481). -/
def safeEnd (s : State) (c : Nat) : State :=
  if (s.chan c).toTune ∧ (s.chan c).slew.isNone then (s.setChan c { s.chan c with toTune := false }).tuneMove c else s

/-- SLEW_LATCH (R503): the code moves towards the target by at most the step. -/
def aoSlewLatch (s : State) (c : Nat) : State := match (s.chan c).slew with
  | none => s
  | some w =>
    let code := s.aoCode c
    let next := if code < w.target then min w.target (code + w.step) else if w.target + w.step < code then code - w.step else w.target
    let s1 := if next = w.target then s.setChan c { s.chan c with slew := none } else s
    let s2 := s1.aoLatch c next false
    if next = w.target ∧ w.safe then s2.safeEnd c else s2

/-- A move to the safe code starts (R507): queued steps, deferred updates and any update in progress end. A second
trigger does not restart a move (R508). -/
def safeMove (s : State) (c : Nat) : State :=
  if s.safeMoving c || (s.chan c).clamped then
    (s.setChan c { s.chan c with steps := [], deferred := [] }).aoSync c
  else
    (s.setChan c { s.chan c with steps := [], deferred := [], slew := none }).aoSlew c (s.aoSafe c) (s.aoProfile c).1
      (s.aoProfile c).2 true

/-- Every channel moves to its safe code (R507). -/
def safeMoveAll (s : State) : State := upto 8 (fun c s => s.safeMove c) s

/-- A safe code or profile comes into force (R508, R513); `boot` also takes GAIN and restarts a move that has ended. -/
def aoLoad (s : State) (c : Nat) (boot : Bool) : State :=
  let v := s.setting (0x800 + c)
  let p := s.setting (0x810 + c)
  let differs := s.aoSafe c ≠ bits v 0 16 ∨ s.aoProfile c ≠ (bits p 0 12 + 1, bits p 12 16 + 1)
  let s1 := ((s.wf (AO_CHTGT.adr c) AO_CHTGT.SAFE (bits v 0 16)).setReg (AO_CHSLEW.adr c) (bits p 0 28)).wb
    (AO_CHSTAT.adr c) AO_CHSTAT.HOLD (bit v 17)
  let s2 := if boot then s1.wb (AO_CHSTAT.adr c) AO_CHSTAT.GAIN (bit v 16) else s1
  if (s2.safeMoving c || boot) ∧ differs ∧ !(s2.chan c).clamped then
    s2.aoSlew c (s2.aoSafe c) (s2.aoProfile c).1 (s2.aoProfile c).2 true
  else s2

/-- SAFE_CODE_LOAD (R506, R508, R481): safe codes and profiles are loaded; a clamped channel starts from code 0; owned
channels go to the tuning word once their safe moves have ended. -/
def safeCodeLoad (s : State) : State :=
  (upto 8 (fun c s =>
    let was := (s.chan c).clamped
    let s1 := s.aoLoad c true
    let s2 := if was then
        let s2 := (s1.setChan c { s1.chan c with clamped := false }).aoLatch c 0 false
        s2.aoSlew c (s2.aoSafe c) (s2.aoProfile c).1 (s2.aoProfile c).2 true
      else s1
    (s2.setChan c { s2.chan c with toTune := s2.tkOwns c }).safeEnd c) s).ownSync

/-! ### Faults -/

/-- A channel fault (R510). -/
def aoFaultOne (s : State) (c cause : Nat) : State :=
  let a := AO_CHSTAT.adr c
  let s1 := (((s.wb a AO_CHSTAT.FAULT true).wf a AO_CHSTAT.FCAUSE cause).incSat (AO_CHCNT.adr c) AO_CHCNT.FAULTS 1).wf
    AO_GSTAT.adr ⟨c, 1⟩ 1
  (s1.raise 0x0C01 (chanSrc c) cause (s1.aoCode c) 0).safeMove c

/-- CHANNEL_FAULT (R510): a reference fault faults every channel; readback is not checked during a deglitcher hold or a
slewed update. -/
def aoFaulted (s : State) (c cause : Nat) : State :=
  if cause = 3 then upto 8 (fun c s => s.aoFaultOne c 3) s
  else if cause = 2 ∧ ((s.chan c).slew.isSome ∨ (s.chan c).glitch.isSome) then s
  else s.aoFaultOne c cause

/-- AO_FAULT_CLEAR (R511): FAULT clears when no fault condition holds; the Timekeeper takes an owned channel back. -/
def aoFaultClear (s : State) (c : Nat) (holds : Bool) : State :=
  if !s.aoFault c || holds then s
  else ((s.wb (AO_CHSTAT.adr c) AO_CHSTAT.FAULT false).wf AO_GSTAT.adr ⟨c, 1⟩ 0).tuneMove c

/-! ### Timed steps -/

/-- The comparator takes the head of a channel's queue as its time is presented (R483): `lt` is the time that has arrived for the
channel, and a head of another time is still on its way. -/
def presentStep (s : State) (c lt : Nat) : State := match (s.chan c).steps with
  | [] => s
  | st :: rest =>
    if st.due.isSome ∨ st.lt ≠ lt then s
    else s.setChan c { s.chan c with steps := { st with due := some (s.instantOf lt) } :: rest }

/-- An analog-step-overflow event (R596). -/
def stepOverflow (s : State) (c lt code why : Nat) : State := s.raise 0x0B06 (chanSrc c) lt code why

/-- A step joins the queue of channel `c` (R487). -/
def queueEntry (s : State) (c : Nat) (st : AStep) : State :=
  if s.tkOwns c then s.stepOverflow c st.lt st.code 2
  else if 32 ≤ (s.chan c).steps.length then s.stepOverflow c st.lt st.code 1
  else (s.setChan c { s.chan c with steps := (s.chan c).steps ++ [st] }).aoSync c

/-- A timed step for channel `c` (R487). -/
def queueStep (s : State) (c code lt : Nat) (final : Bool) : State := s.queueEntry c ⟨code, lt, final, none⟩

/-- A paenv-late event for a dropped step (R292). -/
def stepLate (s : State) (c : Nat) (st : AStep) (late : Nat) : State := s.raise 0x0503 (chanSrc c) st.code st.lt late

/-- ANALOG_STEP_DUE (R484, R292, R502, R504, R508, R511): the head step whose instant has come. -/
def stepDue (s : State) (c : Nat) : State := match (s.chan c).steps with
  | [] => s
  | st :: rest => match st.due with
    | none => s
    | some at_ =>
      if (s.cyc : Int) < at_ then s
      else
        let late := ((s.cyc : Int) - at_).toNat
        let s1 := (s.setChan c { s.chan c with steps := rest }).aoSync c
        if s1.safeMoving c then s1.stepOverflow c st.lt st.code 4
        else if s1.aoFault c then s1.stepOverflow c st.lt st.code 5
        else if 1000 < late ∧ !st.final then s1.stepLate c st late
        else if s1.mode = mTest ∨ s1.mode = mRecovery then s1.aoSlew c st.code (s1.aoProfile c).1 (s1.aoProfile c).2 false
        else s1.aoDirect c st.code

/-- Steps discarded by a step of time, each with its late event (R482); their lateness is not stated. -/
def dropSteps (s : State) (c : Nat) : State :=
  let sts := (s.chan c).steps
  let s1 := (s.setChan c { s.chan c with steps := [] }).aoSync c
  sts.foldl (fun s st => let (l, s) := s.draw 32; s.stepLate c st l) s1

/-- A write of TK_AOSTEP (R487, R641): one step, from sources 40 and 43 only. -/
def aoStepWrite (s : State) (src : Nat) (ok : Bool) (v : Nat) : State :=
  let c := bits v 48 3
  if (src = 40 ∨ src = 43) ∧ ok ∧ bits v 52 12 = 0 then s.queueStep c (bits v 32 16) (bits v 0 32) (bit v 51)
  else s.stepOverflow c (bits v 0 32) (bits v 32 16) 3

/-- The steps queued for the ramp channels are discarded (R293). -/
def dropRamps (s : State) : State :=
  upto 4 (fun i s => (s.setChan (2 + i) { s.chan (2 + i) with steps := [] }).aoSync (2 + i)) s

/-- The mode changes; on entry to a mode without ramping, the ramp channels' queued steps are discarded (R293). -/
def enterMode (s : State) (m : Nat) : State :=
  let s1 := s.setMode m
  if m = mService ∨ m = mHoldover ∨ m = mDegraded ∨ m = mDrain then s1
  else s1.dropRamps

/-! ### Monitors -/

def mon (s : State) (m : Nat) : Mon := sget s.mons m Mon.reset
def setMon (s : State) (m : Nat) (v : Mon) : State := { s with mons := sput s.mons m v Mon.reset }

/-- The WARN setting in force of a monitor. -/
def monLim (s : State) (m : Nat) : Nat := ((s.mon m).lim).getD (factory (0x820 + m))

/-- The four limits of a monitor: WARN low, WARN high, CRIT low, CRIT high (R514). -/
def monLimits (s : State) (m : Nat) : List (Option Int) :=
  let (lo, hi) := warnLimits m (s.monLim m)
  let (cl, ch) := critLimits m
  [lo, some hi, cl, ch]

/-- Whether a sample lies beyond limit `i` (even: low). -/
def beyond (i : Nat) (lim : Option Int) (v : Int) : Bool := match lim with
  | none => false
  | some l => if i % 2 = 0 then decide (v < l) else decide (l < v)

/-- Whether a sample lies back within limit `i` by the hysteresis (R515). -/
def within (m i : Nat) (lim : Option Int) (v : Int) : Bool := match lim with
  | none => true
  | some l =>
    let h : Int := if m < 7 then 1600 else l.natAbs
    if i % 2 = 0 then decide (100 * l + h ≤ 100 * v) else decide (100 * v ≤ 100 * l - h)

/-- Samples beyond a limit after which it is passed (R514, R515). -/
def passCount (m i : Nat) : Nat := if m = 11 ∧ i = 3 then 100000 else 4

/-- WARN and CRIT show the limits passed. -/
def monSync (s : State) (m : Nat) : State :=
  let p := (s.mon m).passed
  (s.wb (AO_MON.adr m) AO_MON.WARN (p.getD 0 false || p.getD 1 false)).wb (AO_MON.adr m) AO_MON.CRIT
    (p.getD 2 false || p.getD 3 false)

/-- The event of a limit passed or cleared (R515, R516). -/
def monEvent (s : State) (m i : Nat) (lim v : Int) (pass : Bool) : State :=
  let src := 872 + m
  let w (x : Int) : Nat := wrapTo 32 x
  if i < 2 then
    if pass then (s.wb (AO_MON.adr m) AO_MON.WSEEN true).raise 0x0C02 src (i % 2) (w lim) (w v)
    else s.raise 0x0C03 src (i % 2) (w v) 0
  else if pass then s.raise 0x0C04 src (i % 2) (w lim) (w v) else s

/-- One sample of a monitor (R515): the limits newly passed, and the state with counts, flags and events. -/
def monSample (s : State) (m : Nat) (v : Int) : List Nat × State :=
  let s0 := s.wf (AO_MON.adr m) AO_MON.VALUE (wrapTo 24 v)
  let lims := s.monLimits m
  let r := (List.range 4).foldl (fun (r : List Nat × State) i =>
    let s := r.2
    let mo := s.mon m
    let lim := lims.getD i none
    let run := if beyond i lim v then mo.run.getD i 0 + 1 else 0
    let back := if within m i lim v then mo.back.getD i 0 + 1 else 0
    let was := mo.passed.getD i false
    let now := if was then decide (back < 4) else decide (passCount m i ≤ run)
    let s1 := s.setMon m { mo with run := lset mo.run i (min run 100000), back := lset mo.back i (min back 4), passed := lset mo.passed i now }
    if now = was then (r.1, s1)
    else (if now then r.1 ++ [i] else r.1, s1.monEvent m i (lim.getD 0) v now)) ([], s0)
  (r.1, r.2.monSync m)

/-- The WARN limits of a monitor come into force; a limit no longer passed clears with its event (R515). -/
def monLoad (s : State) (m : Nat) : State :=
  let s1 := s.setMon m { s.mon m with lim := some (s.setting (0x820 + m)) }
  let v := sgn 24 (s1.rf (AO_MON.adr m) AO_MON.VALUE)
  let lims := s1.monLimits m
  let s2 := (List.range 2).foldl (fun s i =>
    if (s.mon m).passed.getD i false && !beyond i (lims.getD i none) v then
      (s.setMon m { s.mon m with passed := lset (s.mon m).passed i false }).monEvent m i 0 v false
    else s) s1
  s2.monSync m

end State

end Sys2Proof.Machine
end

