-- ==== Sys2Proof/Machine/PorterBase.lean ====
section
/-! DEFINITION. Porter channels: their rings, register writes, releases and error capture (R369 to R375, R388 to R396). -/

namespace Sys2Proof.Machine

/-- Source ID of a channel (R59): the cluster's port, or the hub port of the channel's group of four. -/
def ptSrc (b ch : Nat) : Nat := if b = 24 then 32 + ch / 4 else b

/-- Event source of a channel (R575). -/
def ptEvSrc (b ch : Nat) : Nat := if b = 24 then 624 + ch else 240 + 16 * b + ch

/-- Channels of a block. -/
def ptChans (b : Nat) : Nat := if b = 24 then 32 else 16

/-- Island of a block. -/
def ptIsland (b : Nat) : Nat := if b = 24 then 34 else b

namespace State

def pchan (s : State) (b ch : Nat) : PChan := sget s.pchans (32 * b + ch) PChan.reset

def setPchan (s : State) (b ch : Nat) (c : PChan) : State :=
  { s with pchans := sput s.pchans (32 * b + ch) c PChan.reset }

def ptHead (s : State) (b ch : Nat) : Nat := s.rf (PT_CHSTAT.adr b ch) PT_CHSTAT.HEAD
def ptAlen (s : State) (b ch : Nat) : Nat := s.rf (PT_CHSTAT.adr b ch) PT_CHSTAT.ALEN
def ptTail (s : State) (b ch : Nat) : Nat := s.rf (PT_TAIL.adr b ch) PT_TAIL.TAIL
def ptEmpty (s : State) (b ch : Nat) : Bool := s.ptHead b ch = s.ptTail b ch
def ptInChain (s : State) (b ch : Nat) : Bool := s.rb (PT_CHSTAT.adr b ch) PT_CHSTAT.INCHAIN
def ptRuns (s : State) (b ch : Nat) : Bool := s.rb (PT_CHSTAT.adr b ch) PT_CHSTAT.RUN
def ptCur (s : State) (b ch : Nat) : Nat := 32 * s.rf (PT_CUR.adr b ch) PT_CUR.CUR

/-- Sets PT_CUR to the address of a descriptor (R374). -/
def setPtCur (s : State) (b ch a : Nat) : State := s.wf (PT_CUR.adr b ch) PT_CUR.CUR (a / 32)

/-- RUN of a channel, in both registers that show it. -/
def setRun (s : State) (b ch : Nat) (on : Bool) : State :=
  (s.wb (PT_CHSTAT.adr b ch) PT_CHSTAT.RUN on).wf (PT_BLKSTAT.adr b) ⟨ch, 1⟩ (b2n on)

/-- Applies the held releases that the ring has room for (R389). -/
def applyHeld (s : State) (b ch : Nat) : State :=
  let n := s.ptAlen b ch
  let held := s.rf (PT_RELHELD.adr b ch) PT_RELHELD.COUNT
  if n < 2 ∨ held = 0 then s else
    let used := (s.ptTail b ch + n - s.ptHead b ch) % n
    let k := min held (n - 1 - used)
    (s.wf (PT_TAIL.adr b ch) PT_TAIL.TAIL ((s.ptTail b ch + k) % n)).wf (PT_RELHELD.adr b ch) PT_RELHELD.COUNT (held - k)

/-- A release reaches a channel (R389): it advances TAIL, or is held, or is lost with its event. -/
def release (s : State) (b ch : Nat) : State :=
  let n := s.ptAlen b ch
  let t := (s.ptTail b ch + 1) % n
  let a := PT_RELHELD.adr b ch
  if 2 ≤ n ∧ t ≠ s.ptHead b ch then s.wf (PT_TAIL.adr b ch) PT_TAIL.TAIL t
  else if s.rf a PT_RELHELD.COUNT = 0xFFFF then let (v, s1) := s.draw 32; s1.raise 0x0804 (ptEvSrc b ch) v 0 0
  else s.incSat a PT_RELHELD.COUNT 1

/-- The requested ring takes effect (R372). -/
def applyRing (s : State) (b ch : Nat) : State :=
  let base := 32 * s.rf (PT_RINGBASE.adr b ch) PT_RINGBASE.BASE
  let a := PT_CHSTAT.adr b ch
  let s1 := (s.setPchan b ch { s.pchan b ch with base := base }).wf a PT_CHSTAT.ALEN
    (s.rf (PT_RINGLEN.adr b ch) PT_RINGLEN.RLEN)
  (((s1.wf a PT_CHSTAT.HEAD 0).wf (PT_TAIL.adr b ch) PT_TAIL.TAIL 0).wb a PT_CHSTAT.PEND false).setPtCur b ch base
    |>.applyHeld b ch

/-- Whether a ring request takes effect in the cycle of its write (R372). -/
def ptIdle (s : State) (b ch : Nat) : Bool := s.ptEmpty b ch && !s.ptInChain b ch && !s.ptRuns b ch

/-- A request of BASE or RLEN has been written (R372). -/
def ringRequest (s : State) (b ch : Nat) : State :=
  if s.ptIdle b ch then s.applyRing b ch else s.wb (PT_CHSTAT.adr b ch) PT_CHSTAT.PEND true

/-- A write of PT_RINGBASE (R372). -/
def ptBaseWrite (s : State) (b ch v : Nat) : State :=
  (s.wf (PT_RINGBASE.adr b ch) PT_RINGBASE.BASE (bits v 5 43)).ringRequest b ch

/-- A write of PT_RINGLEN (R372): above 4,096 it is ignored with its event. -/
def ptLenWrite (s : State) (b ch v : Nat) : State :=
  if 4096 < bits v 0 13 then s.raise 0x0804 (ptEvSrc b ch) v 0 0
  else (s.wf (PT_RINGLEN.adr b ch) PT_RINGLEN.RLEN (bits v 0 13)).ringRequest b ch

/-- A write of PT_TAIL (R370). A slot whose descriptor or chain has begun is in progress (DEDUCED, log entry 13). -/
def ptTailWrite (s : State) (b ch v : Nat) : State :=
  let n := s.ptAlen b ch
  let t := bits v 0 12
  let h := s.ptHead b ch
  if n < 2 ∨ n ≤ t ∨ (t = h ∧ (s.ptRuns b ch ∨ s.ptInChain b ch)) then
    (s.wb (PT_CHSTAT.adr b ch) PT_CHSTAT.TAILERR true).raise 0x0801 (ptEvSrc b ch) v h n
  else
    let s0 := s.wf (PT_TAIL.adr b ch) PT_TAIL.TAIL t
    -- a descriptor that waited (R388) may be withdrawn
    let s1 := if s0.ptIdle b ch then s0.wb (PT_CHSTAT.adr b ch) PT_CHSTAT.PAUSED false else s0
    if s1.ptIdle b ch && s1.rb (PT_CHSTAT.adr b ch) PT_CHSTAT.PEND then s1.applyRing b ch else s1

/-- HEAD advances: the slot's descriptor or chain is finished (R374), a pending ring takes effect (R372) and held
releases are applied (R389). -/
def advanceHead (s : State) (b ch : Nat) : State :=
  let n := max 1 (s.ptAlen b ch)
  let h := (s.ptHead b ch + 1) % n
  let a := PT_CHSTAT.adr b ch
  let s1 := ((s.wf a PT_CHSTAT.HEAD h).wb a PT_CHSTAT.INCHAIN false).setPtCur b ch ((s.pchan b ch).base + 32 * h)
  if s1.ptEmpty b ch && s1.rb a PT_CHSTAT.PEND then s1.applyRing b ch else s1.applyHeld b ch

/-- A write of PT_CHCTL (R375), merged with the bytes not enabled: EN, PRI, and CUT. A descriptor in progress when its
chain is cut completes, and its NEXT is not followed. -/
def ptCtlWrite (s : State) (b ch v : Nat) : State :=
  let a := PT_CHCTL.adr b ch
  let was := s.rb a PT_CHCTL.EN
  let s0 := (s.wf a PT_CHCTL.PRI (bits v 28 2)).wf a PT_CHCTL.EN (bits v 31 1)
  -- a channel that does not run waits for nothing (R388)
  let s1 := if bit v 31 then s0 else s0.wb (PT_CHSTAT.adr b ch) PT_CHSTAT.PAUSED false
  if bit v 30 && !was && s.ptInChain b ch then
    let s2 := s1.raiseA2 0x0802 (ptEvSrc b ch) (s.ptCur b ch)
    match (s2.pchan b ch).desc with
    | some d => s2.setPchan b ch { s2.pchan b ch with desc := some { d with bytes := patch d.bytes 0x18 (leBytes 6 0) } }
    | none => s2.advanceHead b ch
  else s1

/-- The error capture and event of R393 and R396: descriptor address, STATUS value, failing address or 0. -/
def ptError (s : State) (b ch daddr st fail : Nat) : State :=
  let s1 := (s.wb (PT_CHSTAT.adr b ch) PT_CHSTAT.BAD true).raise 0x0803 (ptEvSrc b ch) (daddr % 2 ^ 32)
    (daddr >>> 32 + 2 ^ 16 * st) (fail % 2 ^ 32)
  let i := PT_ERRINFO.adr b
  if s1.rb i PT_ERRINFO.VALID then s1 else
    ((((s1.wb i PT_ERRINFO.VALID true).wf i PT_ERRINFO.STATUS st).wf i PT_ERRINFO.CHAN ch).wf (PT_ERRADDR.adr b)
      PT_ERRADDR.ADDR fail).wf (PT_ERRDESC.adr b) PT_ERRDESC.ADDR daddr

end State

end Sys2Proof.Machine
end

