-- ==== Sys2Proof/Machine/EthBase.lean ====
section
/-! DEFINITION. The Ethernet ports: block floating point (R417), messages (R415, R416, R418), push slots and transmit entries
(R421 to R426), receive groups (R427 to R432), links and loopbacks (R401, R412, R413). -/

namespace Sys2Proof.Machine

/-! ### Block floating point (R416, R417, R448) -/

/-- `v / 2^e`, rounded half up (R111). -/
def rhu (v : Int) (e : Nat) : Int := if e = 0 then v else (v + 2 ^ (e - 1)) / 2 ^ e

/-- Whether a rounded value fits `w` bits. -/
def fitsW (w : Nat) (v : Int) : Bool := decide (-(2 ^ (w - 1)) ≤ v) && decide (v < 2 ^ (w - 1))

/-- The exponent of a block: the smallest from 0 to 15 for which every rounded value fits (R417). -/
def bfpExp (w : Nat) (vs : List Int) : Nat :=
  ((List.range 16).find? fun e => vs.all fun v => fitsW w (rhu v e)).getD 15

/-- Values of `w` bits packed most significant bit first, in `n` bytes. -/
def packMsb (w n : Nat) (vs : List Int) : List Byte :=
  beBytes n (vs.foldl (fun a v => a * 2 ^ w + wrapTo w v) 0)

/-- The `n` signed values of `w` bits packed most significant bit first in the low `w × n` bits of `v`. -/
def unpackMsb (w n v : Nat) : List Int := (List.range n).map fun i => sgn w (v >>> (w * (n - 1 - i)))

/-- Bytes of a PRB on the wire and in receive storage (R416, R429). -/
def prbSize (w : Nat) : Nat := if w = 16 then 48 else 3 * w + 1

/-- A PRB of 24 values, I before Q, compressed (R416, R417). -/
def prbPack (w : Nat) (vs : List Int) : List Byte :=
  if w = 16 then packMsb 16 48 vs
  else
    let e := bfpExp w vs
    BitVec.ofNat 8 e :: packMsb w (3 * w) (vs.map fun v => rhu v e)

/-- The 24 values of a compressed PRB before saturation to 16 bits. -/
def prbUnpack (w : Nat) (bs : List Byte) : List Int :=
  if w = 16 then unpackMsb 16 24 (beVal bs)
  else
    let e := bits (fieldAt bs 0 1) 0 4
    (unpackMsb w 24 (beVal (bs.drop 1))).map fun m => m * 2 ^ e

/-! ### Frames and messages -/

/-- The Ethernet header of an untagged or tagged frame. -/
def ethHeader (dmac smac : Nat) (tag : Option Nat) (etype : Nat) : List Byte :=
  beBytes 6 dmac ++ beBytes 6 smac ++ (match tag with | some t => beBytes 2 0x8100 ++ beBytes 2 t | none => []) ++
    beBytes 2 etype

/-- An eCPRI message: the common header with C = 0, and the payload (R414). -/
def ecpri (kind : Nat) (payload : List Byte) : List Byte :=
  [0x10] ++ beBytes 1 kind ++ beBytes 2 payload.length ++ payload

/-- A frame of the least size of R410: 60 bytes before its FCS. -/
def ethPad (bs : List Byte) : List Byte := bs ++ List.replicate (60 - bs.length) 0

/-- How a stream-symbol of `nprb` PRBs is divided (R418): the count of PRBs of each message. -/
def splitPrbs (nprb w : Nat) : List Nat :=
  let p := 9174 / prbSize w
  let n := (nprb + p - 1) / p
  (List.range n).map fun i => nprb / n + if i < nprb % n then 1 else 0

/-- The type 0 messages of a compressed stream-symbol (R415, R416, R418): SECID counts them, and SEQ_ID is set as each is
sent. -/
def uPlane (t : Tmpl) (apph startPrb : Nat) (prbs : List (List Byte)) : List TxFrame :=
  let hdr := ethHeader t.dmac t.smac t.tag 0xAEFE
  let go := (splitPrbs prbs.length t.compw).foldl (fun (r : List TxFrame × Nat × Nat) n =>
    let sec := beBytes 2 (r.2.1 * 16) ++ beBytes 2 ((startPrb + r.2.2) * 64) ++ beBytes 2 (n * 64) ++
      beBytes 1 t.compw ++ [0]
    let pay := beBytes 2 t.pcid ++ [0, 0x80] ++ leBytes 3 apph ++ [0] ++ sec ++
      ((prbs.drop r.2.2).take n).flatten
    (r.1 ++ [⟨ethPad (hdr ++ ecpri 0 pay), some (hdr.length + 6, t.pcid)⟩], r.2.1 + 1, r.2.2 + n)) ([], 0, 0)
  go.1

/-- Address of the data window of port `p` (spec/11, Registers). -/
def ethWin (p : Nat) : Nat := if p < 8 then 0x6800000 + 0x100000 * p else 0x6400000 + 0x100000 * (p - 8)

/-- The port and offset of an address in a data window. -/
def ethWinOf (a : Nat) : Option (Nat × Nat) :=
  if 0x6800000 ≤ a ∧ a < 0x7000000 then some ((a - 0x6800000) / 0x100000, a % 0x100000)
  else if 0x6400000 ≤ a ∧ a < 0x6800000 then some (8 + (a - 0x6400000) / 0x100000, a % 0x100000)
  else none

/-- Event source of an Ethernet port (R575). -/
def ethSrc (p : Nat) : Nat := 843 + p

/-- First lane of a port (R397). -/
def portLane (p : Nat) : Nat := 16 + 2 * p

/-- Whether frame bytes are a one-step PTP event message, and where the message starts (R486). -/
def oneStepAt (bs : List Byte) : Option Nat :=
  let o := if beVal ((bs.drop 12).take 2) = 0x8100 then 16 else 12
  if beVal ((bs.drop o).take 2) = 0x88F7 then
    let m := o + 2
    if bits (fieldAt bs m 1) 0 4 ≤ 1 ∧ !bit (fieldAt bs (m + 6) 1) 1 then some m else none
  else none

namespace State

def ethOf (s : State) (p : Nat) : EthPort := sget s.eth p EthPort.reset
def setEth (s : State) (p : Nat) (e : EthPort) : State := { s with eth := sput s.eth p e EthPort.reset }

/-- Adds to counter `i` of a port. -/
def lnCount (s : State) (p i n : Nat) : State := s.incSat (LN_CNT.adr p i) LN_CNT.COUNT n

def ethUp (s : State) (p : Nat) : Bool := s.rb (LN_PORTSTAT.adr p) LN_PORTSTAT.UP

/-! ### Receive groups (R427 to R432) -/

def rxgrp (s : State) (p g : Nat) : RxGrp := sget (s.ethOf p).groups g RxGrp.reset
def setRxgrp (s : State) (p g : Nat) (v : RxGrp) : State :=
  s.setEth p { s.ethOf p with groups := sput (s.ethOf p).groups g v RxGrp.reset }

def rxEn (s : State) (p g : Nat) : Bool := s.rb (LN_RXGRP.adr p g) LN_RXGRP.EN
def rxNs (s : State) (p g : Nat) : Nat := s.rf (LN_RXGRP.adr p g) LN_RXGRP.NSM1 + 1
def rxNprb (s : State) (p g : Nat) : Nat := s.rf (LN_RXGRP.adr p g) LN_RXGRP.NPRB
def rxCompw (s : State) (p g : Nat) : Nat := s.rf (LN_RXGRP.adr p g) LN_RXGRP.COMPW
def rxNblk (s : State) (p g : Nat) : Nat := max 1 (s.rf (LN_RXGRP.adr p g) LN_RXGRP.NBLKM1) + 1

/-- Receive storage of a group of a port (R429). -/
def rxBytes (s : State) (p g : Nat) : Nat := s.rxNblk p g * (s.rxNs p g * s.rxNprb p g * prbSize (s.rxCompw p g))

/-- Receive storage of the enabled groups 0 to 30, but for group `x`. -/
def rxTotal (s : State) (p x : Nat) : Nat :=
  ((List.range 31).map fun g => if g ≠ x && s.rxEn p g then s.rxBytes p g else 0).sum

/-- A write of LN_RXGRP (R429, R432), merged with the bytes not enabled. A midhaul port has the general group only. -/
def rxGrpWrite (s : State) (p g v : Nat) : State :=
  let a := LN_RXGRP.adr p g
  let old := s.reg a + 2 ^ 32 * s.reg (a + 4)
  let w := v - v % 2 ^ 14
  let s1 := ((s.setReg a (w % 2 ^ 32)).setReg (a + 4) ((w >>> 32) &&& 0x83FFFFFF))
  if bit v 63 ∧ g < 31 ∧ (8 ≤ p ∨ 1048576 < s1.rxTotal p g + s1.rxBytes p g) then s.raise 0x090B (ethSrc p) g 0 0
  else if g < 31 ∧ !(bit old 63 && bit v 63) then s1.setRxgrp p g RxGrp.reset
  else s1

/-- A write of LN_RXARM (R428): the next block of the ring is armed, or the arm is discarded with its event. -/
def rxArm (s : State) (p g rt app : Nat) : State :=
  let gr := s.rxgrp p g
  let free := match sget gr.blocks gr.next none with
    | some b => b.st = 2
    | none => true
  if !free then s.raise 0x0909 (ethSrc p) g app 0
  else
    let b : RxBlock := ⟨app, (s.cyc : Int) + sgn 32 (rt + 2 ^ 32 - s.tkns), [], 0, 0⟩
    s.setRxgrp p g { gr with blocks := sput gr.blocks gr.next (some b) none, next := (gr.next + 1) % s.rxNblk p g }

/-- The oldest released block of a group that has not been consumed, with its place. -/
def rxOldest (s : State) (p g : Nat) : Option (Nat × RxBlock) :=
  ((s.rxgrp p g).blocks.filterMap fun e => match e.2 with
    | some b => if b.st = 1 then some (e.1, b) else none
    | none => none).foldl (fun best e => match best with
      | none => some e
      | some m => if e.2.order < m.2.order then some e else best) none

/-- A release pulse of port island `i` to hub channel `ch` (R389, R430). R36 does not say how the channels of one port share its
RELEASE crossing: here each channel has a pending count of its own, 4 bits, and is the pulse's target (DESIGN CHOICE, log entry
14). -/
def releasePulse (s : State) (i ch : Nat) : State := s.pulse ⟨i, 34, 13, 0⟩ ch ch

/-- A write of LN_RXCON (R431, R432). -/
def rxConsume (s : State) (p g : Nat) : State :=
  if g = 31 then s.setEth p { s.ethOf p with general := (s.ethOf p).general.drop 1 }
  else match s.rxOldest p g with
    | none => s
    | some (i, b) =>
      let gr := s.rxgrp p g
      s.setRxgrp p g { gr with blocks := sput gr.blocks i (some { b with st := 2, prbs := [] }) none }

/-- RX_BLOCK_RELEASE (R430): an armed block of the group that is complete, or whose RT has been reached, is released. -/
def rxRelease (s : State) (p g : Nat) : State :=
  let gr := s.rxgrp p g
  let total := s.rxNs p g * s.rxNprb p g
  let ripe := gr.blocks.find? fun e => match e.2 with
    | some b => b.st = 0 && (b.prbs.length = total || decide (b.rt ≤ (s.cyc : Int)))
    | none => false
  match ripe with
  | some (i, some b) =>
    let missing := total - b.prbs.length
    let st := LN_RXBST.adr p g
    let sym := b.app / 256
    let s1 := s.setRxgrp p g { gr with
      blocks := sput gr.blocks i (some { b with st := 1, order := gr.orders }) none, orders := gr.orders + 1 }
    let s2 := ((s1.wb st LN_RXBST.TIMED (missing ≠ 0)).wf st LN_RXBST.MISSING missing).wf st LN_RXBST.SYMID sym
    let s3 := s2.releasePulse (40 + p) (s2.rf (LN_RXGRP.adr p g) LN_RXGRP.CHAN)
    if missing = 0 then s3 else s3.raise 0x090A (ethSrc p) g sym missing
  | _ => s

/-- The PRBs of a type 0 message: each with its number and its bytes. -/
def msgPrbs (w start n : Nat) (data : List Byte) : List (Nat × List Byte) :=
  (List.range n).map fun i => (start + i, (data.drop (prbSize w * i)).take (prbSize w))

/-- Places the PRBs of one message in a block; later copies stand and repeats are counted (R429). -/
def placePrbs (b : RxBlock) (nprb stream : Nat) (ps : List (Nat × List Byte)) : RxBlock × Nat :=
  ps.foldl (fun (r : RxBlock × Nat) x =>
    let k := stream * nprb + x.1
    let seen := r.1.prbs.any fun e => e.1 = k
    ({ r.1 with prbs := sput r.1.prbs k x.2 [] }, r.2 + b2n seen)) (b, 0)

/-- The SEQ_ID of a received eCPRI message of type 0 or 2 (R415), from its common header: whether E is 1; a gap in the sequence of its
PC_ID and direction is counted, as is E = 0. -/
def seqCheckRx (s : State) (p : Nat) (m : List Byte) : Bool × State :=
  if !bit (fieldAt m 7 1) 7 then (false, s.lnCount p 8 1)
  else
    let ep := s.ethOf p
    let key := beVal ((m.drop 4).take 2) + 65536 * bits (fieldAt m 8 1) 7 1
    let seq := fieldAt m 6 1
    let gap := match sget ep.seqRx key none with
      | some e => decide (seq ≠ e)
      | none => false
    (true, (s.setEth p { ep with seqRx := sput ep.seqRx key (some ((seq + 1) % 256)) none }).lnCount p 8 (b2n gap))

/-- ECPRI_IQ_RECEIVE (R414, R415, R427, R429): a type 0 message, from its common header. -/
def iqReceive (s : State) (p : Nat) (m : List Byte) : State :=
  let pcid := beVal ((m.drop 4).take 2)
  let app := fieldAt m 8 3
  let start := beVal ((m.drop 14).take 2) / 64
  let n := beVal ((m.drop 16).take 2) / 64
  let w := fieldAt m 18 1
  let (e, s1) := s.seqCheckRx p m
  if !e then s1
  else
    let ent := (List.range 256).find? fun i =>
      s1.rb (LN_RXPC.adr p i) LN_RXPC.VALID && s1.rf (LN_RXPC.adr p i) LN_RXPC.PCID = pcid
    match ent with
    | none => s1.lnCount p 9 1
    | some i =>
      let g := s1.rf (LN_RXPC.adr p i) LN_RXPC.GROUP
      let pos := s1.rf (LN_RXPC.adr p i) LN_RXPC.POS
      let gr := s1.rxgrp p g
      let find (st : RxBlock → Bool) := gr.blocks.find? fun e => match e.2 with
        | some b => b.app = app && st b
        | none => false
      if !s1.rxEn p g ∨ s1.rxNs p g ≤ pos ∨ w ≠ s1.rxCompw p g ∨ s1.rxNprb p g < start + n ∨ n = 0 ∨
          m.length < 20 + n * prbSize w then s1.lnCount p 9 1
      else match find (fun b => b.st = 0) with
        | some (j, some b) =>
          let (b', rep) := placePrbs b (s1.rxNprb p g) pos (msgPrbs w start n (m.drop 20))
          (s1.setRxgrp p g { gr with blocks := sput gr.blocks j (some b') none }).lnCount p 10 rep
        | _ =>
          if (find (fun b => b.st ≠ 0)).isSome then s1.lnCount p 10 1 else s1.lnCount p 9 1

/-- Receive storage of the general group (R429, R432): a fronthaul port's is what its groups leave (DEDUCED, log entry
14). -/
def generalRoom (s : State) (p : Nat) : Nat := if p < 8 then 1048576 - s.rxTotal p 31 else 262144

/-- A frame sorted to the general group (R432). -/
def generalStore (s : State) (p : Nat) (bs : List Byte) : State :=
  let g := (s.ethOf p).general
  if !s.rxEn p 31 ∨ s.generalRoom p < (g.map List.length).sum + bs.length then s.lnCount p 11 1
  else (s.setEth p { s.ethOf p with general := g ++ [bs] }).releasePulse (40 + p) (s.rf (LN_RXGRP.adr p 31) LN_RXGRP.CHAN)

/-- Loopback code of lane `i` of a port (LN_LANESTAT.LOOP). -/
def laneLoop (s : State) (p i : Nat) : Nat := s.rf (LN_LANESTAT.adr (portLane p + i)) LN_LANESTAT.LOOP

/-- Whether a lane of a port sends a pattern in place of traffic (R403). -/
def prbsOn (s : State) (p : Nat) : Bool := (List.range 2).any fun i => (sget s.prbs (portLane p + i) none).isSome

/-- Whether the RX pins of a port bring it no frames: a lane is in near-end loopback or in a pattern test (R401, R403). -/
def rxOff (s : State) (p : Nat) : Bool :=
  s.prbsOn p || (List.range 2).any fun i => s.laneLoop p i = 1 || s.laneLoop p i = 2

/-- Whether the TX pins of a port bring its frames to the far end: no lane is squelched or sends back what it receives (R401). -/
def txOut (s : State) (p : Nat) : Bool := (List.range 2).all fun i => s.laneLoop p i < 2

/-- Whether the frames that a port sends come back to its receiver: both lanes are in one near-end loopback (R401). -/
def txLoops (s : State) (p : Nat) : Bool :=
  s.laneLoop p 0 = s.laneLoop p 1 && (s.laneLoop p 0 = 1 || s.laneLoop p 0 = 2)

/-- A frame reaches the receiver of a port (R410, R411, R414, R415, R432): bytes without FCS. Frames for the Timekeeper and the eCPRI
engine are handed over, and their messages are commands of their own (log entry 14). -/
def frameIn (s : State) (p : Nat) (bs : List Byte) (fcsOk : Bool) (corr : Nat) (unc : Bool) : State :=
  if !s.ethUp p then s else
    let s1 := (s.lnCount p 3 corr).lnCount p 4 (b2n unc)
    if unc ∨ !fcsOk ∨ bs.length < 60 ∨ 9212 < bs.length then s1.lnCount p 2 1
    else
      let tagged := beVal ((bs.drop 12).take 2) = 0x8100
      let o := if tagged then 16 else 12
      let etype := beVal ((bs.drop o).take 2)
      let dst := beVal (bs.take 6)
      if etype = 0x8808 then s1.lnCount p 5 1
      else if ¬((dst = (s1.ethOf p).mac ∨ dst = 0xFFFFFFFFFFFF ∨ dst = 0x011B19000000 ∨ dst = 0x0180C200000E) ∧
          (!tagged ∨ beVal ((bs.drop 14).take 2) % 4096 = s1.rf (LN_PORTCFG.adr p) LN_PORTCFG.VLAN)) then s1
      else
        let s2 := s1.lnCount p 1 1
        if etype = 0x88F7 then s2
        else if etype = 0xAEFE then
          let rev := bits (fieldAt bs (o + 2) 1) 4 4
          let kind := fieldAt bs (o + 3) 1
          if rev ≠ 1 ∨ (kind ≠ 0 ∧ kind ≠ 2 ∧ kind ≠ 5) then s2.lnCount p 9 1
          else if kind ≠ 2 ∧ p < 8 then s2
          else if kind = 5 then s2.generalStore p bs
          else
            let (e, s3) := s2.seqCheckRx p (bs.drop (o + 2))
            if e then s3.generalStore p bs else s3
        else s2.generalStore p bs

/-- FRAME_RECEIVE (R401, R403, R410): a frame on the RX pins. In far-end loopback it is sent back as well. -/
def frameReceive (s : State) (p : Nat) (bs : List Byte) (fcsOk : Bool) (corr : Nat) (unc : Bool) : State :=
  if s.rxOff p then s
  else
    let s1 := s.frameIn p bs fcsOk corr unc
    if s.laneLoop p 0 = 3 && s.laneLoop p 1 = 3 then s1.emit (.ethFrame p bs (!fcsOk || unc)) else s1

/-! ### Transmit (R421 to R426) -/

def txqOf (s : State) (p q : Nat) : List TxEnt := sget (s.ethOf p).txq q []

/-- The times of the eight queue heads of port `p`, 32 bits each (role 14 of R638): 0 for a queue without a timed head. -/
def headTimes (s : State) (p : Nat) : Nat :=
  wordsVal ((List.range 8).map fun q => BitVec.ofNat 32 (((s.txqOf p q).head?.bind TxEnt.lt).getD 0))

/-- Whether some queue of port `p` has a timed head that the comparator has not taken. -/
def newHeads (s : State) (p : Nat) : Bool :=
  (List.range 8).any fun q => (s.txqOf p q).head?.any fun e => e.lt.isSome && e.due.isNone

/-- A transmit queue changes: its head's time is sent to the comparator (role 14 of R638). -/
def setTxq (s : State) (p q : Nat) (es : List TxEnt) : State :=
  let s1 := (s.setEth p { s.ethOf p with txq := sput (s.ethOf p).txq q es [] }).wf (LN_TXQSTAT.adr p q) LN_TXQSTAT.FILL es.length
  s1.schedSend (40 + p) (s1.headTimes p) (s1.newHeads p)

/-- The comparator takes the head of a queue as its time is presented (R483): `lt` is the time that has arrived for the queue, and
a head of another time is still on its way. -/
def presentHead (s : State) (p q lt : Nat) : State :=
  match s.txqOf p q with
  | [] => s
  | e :: rest =>
    if e.lt ≠ some lt ∨ e.due.isSome then s
    else s.setEth p { s.ethOf p with txq := sput (s.ethOf p).txq q ({ e with due := some (s.instantOf lt) } :: rest) [] }

/-- Transmit frame storage in use (R425). -/
def txUsed (s : State) (p : Nat) : Nat := ((s.ethOf p).txq.map fun e => (e.2.map TxEnt.size).sum).sum

/-- Whether an entry that has not been taken yet names push slot `k` of port `p` (R422, R533). -/
def slotHeld (s : State) (p k : Nat) : Bool :=
  match s.sleep with
  | some sl => sl.held.any fun h => h.port = p && bits (fieldAt h.ent 4 1) 0 4 = k
  | none => false

/-- A byte written to a push slot; lost while the slot's entry has not been taken (R422). -/
def slotByte (s : State) (p a : Nat) (b : Byte) : State :=
  if s.slotHeld p (a / 16384) then s else
  s.setEth p { s.ethOf p with slots := sput (s.ethOf p).slots a b 0 }

/-- The first `n` bytes of push slot `k`; bytes not written since it was last freed are 0 (R422). -/
def slotData (s : State) (p k n : Nat) : List Byte := (List.range n).map fun i => sget (s.ethOf p).slots (16384 * k + i) 0

/-- Frees a push slot. -/
def slotFree (s : State) (p k : Nat) : State :=
  s.setEth p { s.ethOf p with slots := sdrop (fun a => a / 16384 = k) (s.ethOf p).slots }

/-- A discarded entry (R421, R423, R425). -/
def txDiscard (s : State) (p q k : Nat) : State := (s.slotFree p k).incSat (LN_TXQSTAT.adr p q) LN_TXQSTAT.OVF 1

/-- A transmit-entry event: 1 range, 2 template. -/
def txEntryEvent (s : State) (p q why k : Nat) : State := s.raise 0x0906 (ethSrc p) q why k

/-- Whether an entry keeps the ranges of R423 for port `p`. -/
def txEntryOk (p : Nat) (e : List Byte) : Bool :=
  let kind := fieldAt e 5 1
  let len := fieldAt e 6 2
  let common := fieldAt e 4 1 < 16 && kind < 8 && fieldAt e 9 1 = 0 && fieldAt e 0xF 1 = 0
  match bits kind 0 2 with
  | 0 => common && 60 ≤ len && len ≤ 9212
  | 1 => common && p < 8 && len % 48 = 0 && 1 ≤ len / 48 && len / 48 ≤ 273 && fieldAt e 0xA 2 ≤ 272
  | _ => false

/-- The frames of an entry whose data is in its push slot (R422, R424), and the storage they take. -/
def txFrames (s : State) (p : Nat) (e : List Byte) (t : Option Tmpl) : List TxFrame × Nat :=
  let len := fieldAt e 6 2
  let data := s.slotData p (bits (fieldAt e 4 1) 0 4) len
  match t with
  | none => ([⟨data, none⟩], len)
  | some t =>
    let n := len / 48
    let prbs := (List.range n).map fun b =>
      prbPack t.compw ((List.range 24).map fun i => sgn 16 (fieldAt data (48 * b + 2 * i) 2))
    (uPlane t (fieldAt e 0xC 3) (fieldAt e 0xA 2) prbs, n * prbSize t.compw)

/-- A transmit entry written in the prepare phase waits until ports take entries again (R533, R534). -/
def holdEntry (s : State) (p q : Nat) (e : List Byte) : State := match s.sleep with
  | some sl => { s with sleep := some { sl with held := sl.held ++ [⟨p, q, e, none⟩] } }
  | none => s

/-- An entry of 16 bytes reaches queue `q` of port `p` (R421, R423 to R425). -/
def txEntry (s : State) (p q : Nat) (e : List Byte) : State :=
  let k := bits (fieldAt e 4 1) 0 4
  let len := fieldAt e 6 2
  if s.preparing then s.holdEntry p q e
  else if !txEntryOk p e then (s.txDiscard p q k).txEntryEvent p q 1 k
  else
    let comp := bit (fieldAt e 5 1) 0
    let t := if comp then sget (s.ethOf p).tmpl (fieldAt e 8 1) none else none
    if comp ∧ t.isNone then (s.txDiscard p q k).txEntryEvent p q 2 k
    else
      let (fs, size) := s.txFrames p e t
      if 256 ≤ (s.txqOf p q).length ∨ (if p < 8 then 786432 else 262144) < s.txUsed p + size then
        (s.txDiscard p q k).raise 0x0907 (ethSrc p) q len 0
      else
        let lt := if bit (fieldAt e 5 1) 2 then some (fieldAt e 0 4) else none
        (s.slotFree p k).setTxq p q ((s.txqOf p q) ++ [⟨lt, none, len, size, fs, false⟩])

/-- Nanoseconds a frame takes on the line at 100 Gb/s: preamble, FCS and gap are 24 bytes. -/
def lineTime (bs : List Byte) : Int := ((bs.length + 24) * 8 + 99) / 100

/-- The cycle from which the line of port `p` is free (R426). -/
def lineFree (s : State) (p : Nat) : Int := max (s.cyc : Int) (s.ethOf p).lineEnd

/-- A frame leaves a port: to the far end, or back to the port's own receiver (R401). -/
def lineSend (s : State) (p : Nat) (bs : List Byte) (bad : Bool) : State :=
  let s1 := if s.txOut p then s.emit (.ethFrame p bs bad) else s
  if s.txLoops p then s1.frameIn p bs (!bad) 0 false else s1

/-- Starts the next frame of the head of queue `q` (R426, R486): `bad`: its storage CRC fails (R425). -/
def startFrame (s : State) (p q : Nat) (bad : Bool) : State :=
  match s.txqOf p q with
  | [] => s
  | e :: rest => match e.frames with
    | [] => s.setTxq p q rest
    | f :: fs =>
      let ep := s.ethOf p
      let (bs, seq) := match f.seqAt with
        | some (o, id) =>
          let n := sget ep.seqTx id 0
          (patch f.bytes o (beBytes 1 n), sput ep.seqTx id ((n + 1) % 256) 0)
        | none => (f.bytes, ep.seqTx)
      let late : Int := match e.due with
        | some d => s.lineFree p - d
        | none => 0
      let bs' := match oneStepAt bs with
        | some m => if e.due.isSome && 0 < late then
            patch bs (m + 8) (beBytes 8 (beVal ((bs.drop (m + 8)).take 8) + late.toNat * 65536)) else bs
        | none => bs
      let behind : Bool := match e.due with
        | some d => decide (d < ep.lineEnd)
        | none => false
      let deferred := behind && !e.started && ep.cont.isNone && decide (ep.lineLt ≠ e.lt)
      let cont := if fs.isEmpty then
          (match rest with
           | e' :: _ => if e.lt.isSome ∧ e'.lt = e.lt then some (q, e.lt) else none
           | [] => none)
        else some (q, e.lt)
      let s0 := s.setEth p { ep with seqTx := seq, cont := cont, lineEnd := s.lineFree p + lineTime bs', lineLt := e.lt }
      let s1 := s0.lineSend p bs' bad
      let s2 := s1.setTxq p q (if fs.isEmpty then rest else { e with frames := fs, started := true } :: rest)
      let s3 := (s2.lnCount p 0 1).lnCount p 6 (b2n deferred)
      if bad then (s3.lnCount p 11 1).raise 0x0908 (ethSrc p) q 0 0 else s3

/-- Drops a late frame entry (R484). -/
def dropLate (s : State) (p q : Nat) (lt : Nat) (late : Int) : State :=
  ((s.setTxq p q ((s.txqOf p q).drop 1)).incSat TK_DROP.adr TK_DROP.LATE 1).raise 0x090C (ethSrc p) q lt late.toNat

/-- Whether the head of queue `q` may start now (R426): timed and its instant reached, or untimed and ending before the
earliest launch instant of the port's timed heads. -/
def eligible (s : State) (p q : Nat) : Bool :=
  match s.txqOf p q with
  | [] => false
  | e :: _ => match e.due, e.lt with
    | some d, _ => decide (d ≤ (s.cyc : Int))
    | none, some _ => false
    | none, none =>
      let fin := s.lineFree p + lineTime ((e.frames.headD ⟨[], none⟩).bytes)
      (List.range 8).all fun q' => match (s.txqOf p q').head? with
        | some e' => match e'.due with
          | some d => decide (fin < d)
          | none => true
        | none => true

/-- The port starts the head frame of queue `q`, or drops the entry as late (R484, R485). -/
def launchHead (s : State) (p q : Nat) (bad : Bool) : State :=
  match (s.txqOf p q).head? with
  | none => s
  | some e => match e.lt, e.due with
    | some lt, some d =>
      let late := s.lineFree p - d
      if !e.started && decide (1000 < late) then s.dropLate p q lt late else s.startFrame p q bad
    | _, _ => s.startFrame p q bad

/-- Whether the port sends its queued frames: up, not in far-end loopback, and no lane in a pattern test (R401, R403, R412). A port in
near-end loopback sends into its loop. -/
def txOpen (s : State) (p : Nat) : Bool := s.ethUp p && (s.ethOf p).loop ≠ 3 && !s.prbsOn p

/-- Whether waiting U-plane belongs to queue `q` of port `p` and its launch instant has been reached (R282). -/
def planeDue (s : State) (p q : Nat) (x : Plane) : Bool :=
  x.port = p && x.queue = q && x.ent.due.all fun d => decide (d ≤ (s.cyc : Int))

/-- An entry whose data is there joins a queue, or is discarded where there is no room (R421, R425). -/
def joinQueue (s : State) (p q : Nat) (e : TxEnt) : State :=
  if 256 ≤ (s.txqOf p q).length ∨ (if p < 8 then 786432 else 262144) < s.txUsed p + e.size then
    (s.incSat (LN_TXQSTAT.adr p q) LN_TXQSTAT.OVF 1).raise 0x0907 (ethSrc p) q e.len 0
  else s.setTxq p q (s.txqOf p q ++ [e])

/-- The queue whose head frame a port starts at a frame boundary (R426): the highest-numbered eligible one. -/
def nextQueue (s : State) (p : Nat) : Option Nat := (List.range 8).reverse.find? fun q => s.eligible p q

/-- At a frame boundary (R426): frames that go back to back first, then the highest-numbered eligible queue. -/
def frameStart (s : State) (p : Nat) (bad : Bool) : State :=
  if !s.txOpen p then s else
    match (s.ethOf p).cont with
    | some (q, _) => s.startFrame p q bad
    | none =>
      match s.nextQueue p with
      | some q => s.launchHead p q bad
      | none => s

/-- SCHEDULED_FRAME_LAUNCH (R426, R484): the timed head of queue `q`, when its instant has come, the line is free and no eligible head
of a higher queue goes first. A frame whose instant falls while another is on the line starts at the frame boundary. -/
def frameLaunch (s : State) (p q : Nat) (bad : Bool) : State :=
  if !s.txOpen p || (s.ethOf p).cont.isSome || decide ((s.cyc : Int) < (s.ethOf p).lineEnd) then s else
    match (s.txqOf p q).head? with
    | some e => if e.lt.isSome && s.nextQueue p = some q then s.launchHead p q bad else s
    | none => s

/-! ### Views (R431, R432) -/

/-- Size of a group's view. -/
def viewSize (s : State) (p g : Nat) : Nat :=
  if g = 31 then 9280 else (s.rxNs p g * s.rxNprb p g * 48 + 63) / 64 * 64

/-- The lowest-numbered enabled group whose view holds window offset `o`. -/
def viewGroup (s : State) (p o : Nat) : Option Nat :=
  (List.range 32).find? fun g =>
    let v := 64 * s.rf (LN_RXGRP.adr p g) LN_RXGRP.VBASE
    s.rxEn p g && decide (v ≤ o) && decide (o < v + s.viewSize p g)

/-- A 64-byte line of the receive view: whether there is a released block, and its bytes (R431, R432). Saturations are
counted as the samples are read. -/
def viewLine (s : State) (p o : Nat) : Bool × List Byte × State :=
  match s.viewGroup p o with
  | none => (true, List.replicate 64 0, s)
  | some g =>
    let off := o - 64 * s.rf (LN_RXGRP.adr p g) LN_RXGRP.VBASE
    if g = 31 then
      match (s.ethOf p).general with
      | [] => (false, List.replicate 64 0xFF, s)
      | f :: _ =>
        let img := leBytes 2 f.length ++ List.replicate 6 0 ++ f
        (true, (List.range 64).map fun i => img.getD (off + i) 0, s)
    else match s.rxOldest p g with
      | none => (false, List.replicate 64 0xFF, s)
      | some (_, b) =>
        let ns := s.rxNs p g
        let nprb := s.rxNprb p g
        let vals := (List.range 16).flatMap fun k =>
          let idx := off / 4 + k
          let n := idx / ns
          let key := idx % ns * nprb + n / 12
          if 12 * nprb ≤ n then [0, 0] else
            match sget b.prbs key [] with
            | [] => [(0 : Int), 0]
            | pb => ((prbUnpack (s.rxCompw p g) pb).drop (2 * (n % 12))).take 2
        let sat := (vals.filter fun v => clampTo 16 v ≠ v).length
        (true, vals.flatMap fun v => leBytes 2 (wrapTo 16 (clampTo 16 v)), s.lnCount p 7 sat)

/-! ### Links and loopbacks (R401, R412, R413) -/

/-- SYNCE_OUT0 and SYNCE_OUT1 follow their setting and the state of the port that it names (R494). -/
def synceSync (s : State) : State :=
  let v := s.setting 0x608
  upto 2 (fun o s =>
    let p := bits v (8 * o) 4
    let new : Option Nat := if bit v (8 * o + 4) && s.ethUp p then some p else none
    let old := s.synce.getD o none
    if new = old then s
    else
      ({ s with synce := lset s.synce o new }.emit (.pin (5 + o) new.isSome)).raise 0x0B05 902 o ((new.orElse fun _ => old).getD 0)
        (b2n new.isSome)) s

/-- Whether the check of the peer's MODID holds an inter-module link down (R413). -/
def peerBad (s : State) (p : Nat) : Bool :=
  let cfg := LN_PORTCFG.adr p
  8 ≤ p && s.rb cfg LN_PORTCFG.IML && s.rb cfg LN_PORTCFG.PEERV && s.rf cfg LN_PORTCFG.PEER ≠ s.rf (LN_PORTSTAT.adr p) LN_PORTSTAT.PMODID

/-- A port of an inter-module link sends a lane marker on each lane (R413). The markers that follow in every alignment position differ
in their count alone and are the line's timing (log entry 14). -/
def sendMarkers (s : State) (p : Nat) : State :=
  if p < 8 ∨ !s.rb (LN_PORTCFG.adr p) LN_PORTCFG.IML then s
  else
    let n := (s.ethOf p).marks
    let s1 := s.setEth p { s.ethOf p with marks := (n + 1) % 256 }
    (s1.emit (.laneMarker (portLane p) s.modid p n)).emit (.laneMarker (portLane p + 1) s.modid p n)

/-- Both lanes of a port lock and align (R398, R412, R413): the CTLE settings in use, and the peer of an inter-module link. -/
def ethLinkUp (s : State) (p c0 c1 peer pport : Nat) : State :=
  let cfg := LN_PORTCFG.adr p
  let st := LN_PORTSTAT.adr p
  if !s.rb cfg LN_PORTCFG.EN ∨ s.ethUp p then s else
    let lane (s : State) (i c : Nat) :=
      let l := portLane p + i
      let a := LN_LANESTAT.adr l
      let c' := if s.rb (LN_LANECFG.adr l) LN_LANECFG.AUTO then c else s.rf (LN_LANECFG.adr l) LN_LANECFG.CTLE
      ((s.wb a LN_LANESTAT.SIGDET true).wb a LN_LANESTAT.LOCK true).wf a LN_LANESTAT.CTLEACT c'
    let s1 := (lane (lane s 0 c0) 1 c1).sendMarkers p
    let iml := 8 ≤ p ∧ s1.rb cfg LN_PORTCFG.IML
    let s2 := if iml then (s1.wf st LN_PORTSTAT.PMODID peer).wf st LN_PORTSTAT.PPORT pport else s1
    if s2.peerBad p then
      (s2.wb st LN_PORTSTAT.PEERBAD true).raise 0x0903 (ethSrc p) (peer % 16) (pport % 16) 0
    else
      let act (i : Nat) := s2.rf (LN_LANESTAT.adr (portLane p + i)) LN_LANESTAT.CTLEACT
      (((s2.wb st LN_PORTSTAT.PEERBAD false).wb st LN_PORTSTAT.UP true).raise 0x0901 (ethSrc p) (act 0) (act 1) 0).synceSync

/-- A port loses its link (R412). -/
def ethLinkDown (s : State) (p : Nat) : State :=
  let st := LN_PORTSTAT.adr p
  let lane (s : State) (i : Nat) := s.wb (LN_LANESTAT.adr (portLane p + i)) LN_LANESTAT.LOCK false
  let was := s.ethUp p
  let s1 := ((lane (lane s 0) 1).wb st LN_PORTSTAT.UP false).wb st LN_PORTSTAT.PEERBAD false
  if was then (s1.raise 0x0902 (ethSrc p) 0 0 0).synceSync else s1

/-- LN_PORTCFG of a port has been written; `old` is its value before. A disabled port is down; a change of IML takes the line to other
markers; and a peer that the new value refuses holds the link down with its event (R412, R413). -/
def portCfgSync (s : State) (p old : Nat) : State :=
  let cfg := LN_PORTCFG.adr p
  if !s.rb cfg LN_PORTCFG.EN ∨ (8 ≤ p ∧ bit old 30 ≠ s.rb cfg LN_PORTCFG.IML) then s.ethLinkDown p
  else if s.ethUp p && s.peerBad p then
    let st := LN_PORTSTAT.adr p
    ((s.ethLinkDown p).wb st LN_PORTSTAT.PEERBAD true).raise 0x0903 (ethSrc p) (s.rf st LN_PORTSTAT.PMODID) (s.rf st LN_PORTSTAT.PPORT) 0
  else s

/-- LN_LANECFG of a lane has been written: without AUTO the receiver uses the CTLE field as written (R398). -/
def laneCfgSync (s : State) (l : Nat) : State :=
  if s.rb (LN_LANECFG.adr l) LN_LANECFG.AUTO || !s.rb (LN_LANESTAT.adr l) LN_LANESTAT.LOCK then s
  else s.wf (LN_LANESTAT.adr l) LN_LANESTAT.CTLEACT (s.rf (LN_LANECFG.adr l) LN_LANECFG.CTLE)

end State

end Sys2Proof.Machine
end

