-- ==== Sys2Proof/Machine/HubBase.lean ====
section
/-! DEFINITION. The host side of the hub (R301 to R311, R318 to R320, R336, R407, R581): MSI-X messages, posted writes to
host memory, completion and submission rings, replies, and the framing of the service UART. -/

namespace Sys2Proof.Machine

/-- Status codes (R640). -/
def sOk : Nat := 0
def sAccepted : Nat := 1
def sBadOpcode : Nat := 2
def sBadLength : Nat := 3
def sWrongMode : Nat := 4
def sTimeUnset : Nat := 5
def sAsleep : Nat := 6
def sDead : Nat := 7
def sLate : Nat := 8
def sBadParam : Nat := 9
def sAuthFail : Nat := 10
def sBusy : Nat := 11
def sNoResource : Nat := 12

/-- Slots of a packet or reply of `plen` words (R305). -/
def slotsOf (plen : Nat) : Nat := (16 + 4 * plen + 63) / 64

/-- The 16 + 4n bytes of a reply (R303), PHASE and OVFL apart. -/
def replyBytes (opcode rflags tag target status seq : Nat) (ws : List Word) : List Byte :=
  leBytes 2 opcode ++ leBytes 1 rflags ++ [1] ++ leBytes 2 tag ++ leBytes 2 target ++ leBytes 2 ws.length ++
    leBytes 2 status ++ leBytes 4 seq ++ wordBytes ws

/-- The escapes of the service UART (R319). -/
def uartEscape (bs : List Byte) : List Byte :=
  bs.flatMap fun b => if b = 0x7E then [0x7D, 0x5E] else if b = 0x7D then [0x7D, 0x5D] else [b]

/-- Removes the escapes. -/
def uartUnescape : List Byte → List Byte
  | [] => []
  | [b] => [b]
  | a :: b :: bs => if a = 0x7D then (if b = 0x5E then 0x7E else if b = 0x5D then 0x7D else b) :: uartUnescape bs
      else a :: uartUnescape (b :: bs)
termination_by structural l => l

/-- A frame of the service UART (R319): the packet and its CRC-32 between flags. -/
def uartFrame (bs : List Byte) : List Byte := [0x7E] ++ uartEscape (bs ++ leBytes 4 (crc32 bs)) ++ [0x7E]

namespace State

/-- Draws `n` free words: payload words whose content the spec does not state. -/
def drawWords (s : State) (n : Nat) : List Word × State :=
  let (v, s1) := s.draw (32 * n)
  (leWords n v, s1)

/-! ### MSI-X (R404, R405, R581) -/

/-- A DWORD of the MSI-X table; the mask bit of a vector is set initially (PRESUMED, PCI Express; log entry 11). -/
def msixDefault (i : Nat) : Word := if i % 4 = 3 then 1 else 0

def msixWord (s : State) (i : Nat) : Nat := (sget s.msixTab i (msixDefault i)).toNat

/-- Whether a message of vector `v` can be sent now. -/
def msiReady (s : State) (v : Nat) : Bool :=
  s.pcieUp && s.bme && !s.pcieCtl.d3 && s.msixEn && !s.msixMask && !bit (s.msixWord (4 * v + 3)) 0

/-- Sends the message of vector `v`, or holds its pending bit while it is masked (R581). -/
def msiSend (s : State) (v : Nat) : State :=
  if s.msiReady v then { s.emit (.msi v) with msixPba := s.msixPba.filter fun x => x ≠ v }
  else if s.msixPba.contains v then s else { s with msixPba := s.msixPba ++ [v] }

/-- A raising of vector `v` (R581): it opens the 1 µs interval at whose end one message answers every raising in it. -/
def msiRaise (s : State) (v : Nat) : State := if s.msiOpen.contains v then s else { s with msiOpen := s.msiOpen ++ [v] }

/-- The end of the interval of vector `v` (R581). -/
def msiEnd (s : State) (v : Nat) : State :=
  if s.msiOpen.contains v then { s with msiOpen := s.msiOpen.filter fun x => x ≠ v }.msiSend v else s

/-- Sends every pending message that can be sent (R581, on unmasking). -/
def msiPending (s : State) : State := s.msixPba.foldl (fun s v => if s.msiReady v then s.msiSend v else s) s

/-! ### The host window (R407) -/

/-- Whether the module's requests reach the host: the link is up, and the function is in D0 (R404) and may master the bus. -/
def hostUp (s : State) : Bool := s.pcieUp && s.bme && !s.pcieCtl.d3

/-- Non-posted requests that may be outstanding (R404). -/
def hostReadMax : Nat := 256

/-- A host-link event (R407): 1 UR or CA, 2 timeout, 3 link down, 4 Bus Master Enable clear. -/
def hostLinkEvent (s : State) (why a : Nat) : State := s.raiseA 0x0905 855 why a

/-- The reason why a new request does not reach the host. -/
def hostDownCause (s : State) : Nat := if s.pcieUp then 4 else 3

/-- A posted write to host address `a`, in TLPs of the payload that the host allows (R404); dropped with its event while the host cannot be reached (R407). -/
def hostPost (s : State) (a : Nat) (bs : List Byte) : State :=
  if s.hostUp then
    let m := 128 * 2 ^ s.pcieCtl.mps.val
    (List.range ((bs.length + m - 1) / m)).foldl (fun s i => s.emit (.hostWrite (a + m * i) ((bs.drop (m * i)).take m))) s
  else s.hostLinkEvent s.hostDownCause (0x800000000000 + a)

/-! ### Rings -/

def ring (s : State) (n : Nat) : Ring := sget s.rings n Ring.reset

def setRing (s : State) (n : Nat) (r : Ring) : State := { s with rings := sput s.rings n r Ring.reset }

def ringEn (s : State) (n : Nat) : Bool := s.rb (HUB_RINGCTL.adr n) HUB_RINGCTL.EN
def ringErr (s : State) (n : Nat) : Bool := s.rb (HUB_RINGSTAT.adr n) HUB_RINGSTAT.ERR
def sqHead (s : State) (n : Nat) : Nat := s.rf (HUB_RINGSTAT.adr n) HUB_RINGSTAT.SQHEAD
def cqTail (s : State) (n : Nat) : Nat := s.rf (HUB_CQSTAT.adr n) HUB_CQSTAT.CQTAIL
/-- The sizes of a ring pair, in slots (R305). -/
def sqSize (s : State) (n : Nat) : Nat := 2 ^ s.rf (HUB_SQBASE.adr n) HUB_SQBASE.LOG2SIZE
def cqSize (s : State) (n : Nat) : Nat := 2 ^ s.rf (HUB_CQBASE.adr n) HUB_CQBASE.LOG2SIZE

/-- Brings HELD up to date (R310). -/
def heldSync (s : State) (n : Nat) : State := s.wf (HUB_CQSTAT.adr n) HUB_CQSTAT.HELD (s.ring n).waiting.length

/-- A ring-error event (R309, R336): 1 SQ doorbell, 2 CQ doorbell, 3 base write while enabled, 4 LOG2SIZE. -/
def ringError (s : State) (n why v : Nat) : State := s.raise 0x0602 (884 + n) why v 0

/-- The interrupt of completion ring `n` after a reply (R308). -/
def ringInterrupt (s : State) (n : Nat) : State :=
  let v := s.rf (HUB_RINGCTL.adr n) HUB_RINGCTL.VEC
  let r := s.ring n
  if s.rf (HUB_RINGCTL.adr n) HUB_RINGCTL.IMOD = 0 then s.msiRaise v
  else if r.imodOpen then s.setRing n { r with imodPend := true }
  else (s.setRing n { r with imodOpen := true, imodPend := false }).msiRaise v

/-- The end of the IMOD interval of completion ring `n` (R308). -/
def imodEnd (s : State) (n : Nat) : State :=
  let r := s.ring n
  if !r.imodOpen then s
  else if r.imodPend then (s.setRing n { r with imodPend := false }).msiRaise (s.rf (HUB_RINGCTL.adr n) HUB_RINGCTL.VEC)
  else s.setRing n { r with imodOpen := false }

/-- Room in completion ring `n`, in slots (R306). -/
def cqRoom (s : State) (n : Nat) : Nat := s.cqSize n - (s.cqTail n + 2 ^ 16 - (s.ring n).cqHead) % 2 ^ 16

/-- Writes a reply to completion ring `n` (R305, R307): its slots last to first, with PHASE and OVFL in its header. -/
def writeReply (s : State) (n : Nat) (bs : List Byte) : State :=
  let tail := s.cqTail n
  let size := s.cqSize n
  let base := s.rf (HUB_CQBASE.adr n) HUB_CQBASE.BASE * 4096
  let need := (bs.length + 63) / 64
  let r := s.ring n
  -- PHASE is 1 in the first pass and flips at each later pass
  let fl := setBits (fieldAt bs 2 1 % 128) 2 1 0 ||| (if r.ovfl then 4 else 0) ||| (if tail / size % 2 = 0 then 128 else 0)
  let bs' := patch bs 2 (leBytes 1 fl)
  let s1 := (List.range need).reverse.foldl (fun s i =>
    s.hostPost (base + 64 * ((tail + i) % size)) ((bs'.drop (64 * i)).take 64)) s
  ((s1.setRing n { r with ovfl := false }).wf (HUB_CQSTAT.adr n) HUB_CQSTAT.CQTAIL (tail + need)).ringInterrupt n

/-- A reply or indication for completion ring `n` (R310): written, or waiting behind others, or lost. A ring that is
not enabled takes none (DESIGN CHOICE, log entry 11). `fin` is the submission ring whose command it is the final reply to. -/
def postReply (s : State) (n : Nat) (bs : List Byte) (fin : Option Nat) : State :=
  if !s.ringEn n then s else
    let r := s.ring n
    let need := (bs.length + 63) / 64
    if r.waiting.isEmpty && need ≤ s.cqRoom n then s.writeReply n bs
    else if r.waiting.length < 4096 && need ≤ s.cqSize n then (s.setRing n { r with waiting := r.waiting ++ [⟨fin, bs⟩] }).heldSync n
    else
      let s1 := (s.incSat (HUB_CQLOST.adr n) HUB_CQLOST.COUNT 1).setRing n { r with ovfl := true }
      s1.raise 0x0603 (884 + n) (fieldAt bs 0 2) (fieldAt bs 4 2) (s1.rf (HUB_CQLOST.adr n) HUB_CQLOST.COUNT)

/-- REPLY_WRITE (R307, R310): the reply that has waited longest is written once there is room. -/
def replyWrite (s : State) (n : Nat) : State :=
  let r := s.ring n
  match r.waiting with
  | [] => s
  | w :: rest =>
    if (w.bytes.length + 63) / 64 ≤ s.cqRoom n then ((s.setRing n { r with waiting := rest }).heldSync n).writeReply n w.bytes else s

/-- Whether the slots that the packet at the head of ring `n` claims, once its header has been read, extend beyond TAIL (R311). -/
def ringShort (s : State) (n : Nat) : Bool :=
  match (s.ring n).waitHdr with
  | some (_, h) => decide (h.plen.toNat ≤ 4092 ∧ ((s.ring n).tail + 2 ^ 16 - s.sqHead n) % 2 ^ 16 < slotsOf h.plen.toNat)
  | none => false

/-- Brings WAITTAIL up to date (R311). -/
def waitSync (s : State) (n : Nat) : State := s.wb (HUB_RINGSTAT.adr n) HUB_RINGSTAT.WAITTAIL (s.ringShort n)

/-- A submission doorbell (R306, R309); ignored on a ring that is not enabled or in error. -/
def sqDoorbell (s : State) (n v : Nat) : State :=
  if !s.ringEn n || s.ringErr n then s else
    let h := s.sqHead n
    let r := s.ring n
    let d := (v + 2 ^ 16 - h) % 2 ^ 16
    if d < (r.tail + 2 ^ 16 - h) % 2 ^ 16 ∨ s.sqSize n < d then
      (s.wb (HUB_RINGSTAT.adr n) HUB_RINGSTAT.ERR true).ringError n 1 v
    else (s.setRing n { r with tail := v }).waitSync n

/-- A completion doorbell (R306, R309). -/
def cqDoorbell (s : State) (n v : Nat) : State :=
  if !s.ringEn n || s.ringErr n then s else
    let r := s.ring n
    if (s.cqTail n + 2 ^ 16 - r.cqHead) % 2 ^ 16 < (v + 2 ^ 16 - r.cqHead) % 2 ^ 16 then
      (s.wb (HUB_RINGSTAT.adr n) HUB_RINGSTAT.ERR true).ringError n 2 v
    else s.setRing n { r with cqHead := v }

/-- Writing EN = 0 (R336). -/
def ringDisable (s : State) (n : Nat) : State :=
  if !s.ringEn n then s else
    let r := s.ring n
    ((s.wb (HUB_RINGCTL.adr n) HUB_RINGCTL.EN false).wb (HUB_RINGSTAT.adr n) HUB_RINGSTAT.WAITTAIL false).setRing n
      { r with waiting := [], waitHdr := none } |>.heldSync n

/-- Writing EN = 1 on a disabled ring pair (R336); `v` is the value written. -/
def ringEnable (s : State) (n v : Nat) : State :=
  let ok (a : Nat) : Bool := let l := s.rf a HUB_SQBASE.LOG2SIZE; 4 ≤ l && l ≤ 12
  if !ok (HUB_SQBASE.adr n) || !ok (HUB_CQBASE.adr n) then s.ringError n 4 v
  else
    let r := s.ring n
    (((s.wb (HUB_RINGCTL.adr n) HUB_RINGCTL.EN true).setReg (HUB_RINGSTAT.adr n) 0).setReg (HUB_CQSTAT.adr n) 0).setReg
      (HUB_CQLOST.adr n) 0 |>.setRing n { Ring.reset with opened := r.opened }

/-- A write to HUB_RINGCTL (R336), merged with the bytes not enabled. -/
def ringCtlWrite (s : State) (n v : Nat) : State :=
  let was := s.ringEn n
  let s1 := s.setReg (HUB_RINGCTL.adr n) ((v &&& 0x4FFFFFFF) + (if was then 2 ^ 31 else 0))
  if was && !bit v 31 then s1.ringDisable n
  else if !was && bit v 31 then s1.ringEnable n v
  else s1

/-! ### Replies -/

/-- Writes one reply (R302, R303, R318): none for a final OK under QUIET; no payload with another status, except where the
opcode gives one. -/
def reply (s : State) (t : Ticket) (status : Nat) (final : Bool) (ws : List Word) : State :=
  if final ∧ status = sOk ∧ t.quiet then s else
    let ws' := if status ≤ 1 ∨ t.opcode = 0x0903 then ws else []
    let bs := replyBytes t.opcode (b2n final) t.tag t.target status t.seq ws'
    match t.ring with
    | some n => s.postReply (s.rf (HUB_RINGCTL.adr n) HUB_RINGCTL.CQSEL) bs (if final then some n else none)
    | none => s.emit (.uart (uartFrame bs))

/-- The one reply of a command that is answered once. -/
def answer (s : State) (t : Ticket) (status : Nat) (ws : List Word) : State := s.reply t status true ws

/-- ACCEPTED (R318): the command is open until its final reply. -/
def accept (s : State) (t : Ticket) : State :=
  let s1 := s.reply t sAccepted false []
  match t.ring with
  | some n => s1.setRing n { s1.ring n with opened := (s1.ring n).opened + 1 }
  | none => { s1 with uartBusy := true }

/-- The final reply of a command answered ACCEPTED. -/
def finish (s : State) (t : Ticket) (status : Nat) (ws : List Word) : State :=
  let s1 := s.reply t status true ws
  match t.ring with
  | some n => s1.setRing n { s1.ring n with opened := (s1.ring n).opened - 1 }
  | none => { s1 with uartBusy := false }

/-- A command answered ACCEPTED that completes at once. -/
def acceptFinish (s : State) (t : Ticket) (status : Nat) (ws : List Word) : State := (s.accept t).finish t status ws

end State

end Sys2Proof.Machine
end

