-- ==== Sys2Proof/Machine/CarBase.lean ====
section
/-! DEFINITION. The Carriage ports: bit loading (R439, R440), frames (R443 to R448), sample buffers (R450, R451), TDD switching
(R453), link states (R454 to R458), training (R459), table swaps (R460 to R462) and the gain stage (R288). -/

namespace Sys2Proof.Machine

/-! ### Bit loading (R439 to R441), in units of 0.05 dB -/

/-- One axis of a data sub-carrier: 0x800 × pair + sub-carrier, quadrature, ratio, bits. -/
structure Axis where
  key : Nat
  quad : Bool
  ratio : Int
  b : Nat
  deriving DecidableEq, Repr

/-- The threshold of `b` bits (R439). -/
def axThr (b : Nat) : Int := ([0, 276, 416, 540, 662, 782, 904] : List Int).getD b 904

/-- The largest `b` that a ratio allows with a margin. -/
def axMax (r m : Int) : Nat := ((List.range 7).reverse.find? fun b => b = 0 || decide (axThr b + m ≤ r)).getD 0

/-- Whether a sub-carrier carries data (R436). -/
def isData (n : Nat) : Bool := 8 ≤ n && n % 32 ≠ 16

/-- The axes of a measurement, each with its largest `b` (R440, step 1). -/
def loadAxes (ms : List (Nat × Nat × Nat)) (m : Int) : List Axis :=
  (ms.filter fun x => isData (x.1 % 0x800)).flatMap fun x =>
    [⟨x.1, false, x.2.1, axMax x.2.1 m⟩, ⟨x.1, true, x.2.2, axMax x.2.2 m⟩]

def axBits (as : List Axis) : Nat := (as.map Axis.b).sum

/-- The place of the loaded axis with the least excess; among equals the first (R440, step 2). -/
def leastAxis (m : Int) (as : List Axis) : Option Nat :=
  let go := as.foldl (fun (r : Option (Nat × Int) × Nat) a =>
    let e := a.ratio - axThr a.b - m
    let best := if a.b = 0 then r.1 else match r.1 with
      | some (i, x) => if e < x then some (r.2, e) else some (i, x)
      | none => some (r.2, e)
    (best, r.2 + 1)) (none, 0)
  go.1.map Prod.fst

/-- Removes `n` bits one at a time (R440, step 2). -/
def dropBits (m : Int) : Nat → List Axis → List Axis
  | 0, as => as
  | n + 1, as =>
    match leastAxis m as with
    | none => as
    | some i =>
      match as[i]? with
      | some a => dropBits m n (lset as i { a with b := a.b - 1 })
      | none => as

/-- The table of some axes (spec/12, Registers): in-phase in [2:0], quadrature in [5:3]. -/
def tabOf (as : List Axis) : Sparse Byte :=
  as.foldl (fun t a => sput t a.key (BitVec.ofNat 8 ((sget t a.key 0).toNat + a.b * (if a.quad then 8 else 1))) 0) []

/-- A loading table (R440); none when it cannot be built. Measurements are listed by rising key. -/
def buildTable (ms : List (Nat × Nat × Nat)) (m : Int) (nb : Nat) : Option (Sparse Byte) :=
  let as := loadAxes ms m
  if axBits as < nb then none else some (tabOf (dropBits m (axBits as - nb) as))

/-- Lowers the margin in 0.5 dB steps until a table can be built (R460). -/
def buildLower (ms : List (Nat × Nat × Nat)) (nb : Nat) (lo : Int) : Nat → Int → Option (Sparse Byte)
  | 0, _ => none
  | n + 1, m =>
    match buildTable ms m nb with
    | some t => some t
    | none => if m ≤ lo then none else buildLower ms nb lo n (max lo (m - 10))

/-- Coded bits per symbol at a rate (R440). -/
def cpNb (rate : Nat) : Nat := if rate = 0 then 28960 else 72400

/-- Bits of an axis of a table. -/
def tabBits (t : Sparse Byte) (key : Nat) (quad : Bool) : Nat := bits (sget t key 0).toNat (if quad then 3 else 0) 3

/-- The least margin of the loaded axes of a pair under a table. -/
def leastMargin (t : Sparse Byte) (ms : List (Nat × Nat × Nat)) (q : Nat) : Option Int :=
  let xs := (ms.filter fun x => x.1 / 0x800 = q).flatMap fun x =>
    (if tabBits t x.1 false = 0 then [] else [(x.2.1 : Int) - axThr (tabBits t x.1 false)]) ++
      (if tabBits t x.1 true = 0 then [] else [(x.2.2 : Int) - axThr (tabBits t x.1 true)])
  xs.foldl (fun b x => match b with | some y => some (min x y) | none => some x) none

/-- Island and event source of port CPp. -/
def cpIsland (p : Nat) : Nat := 53 + p
def cpSrc (p : Nat) : Nat := 856 + p

/-- The port and offset of an address in the CP_ block. -/
def cpOf (a : Nat) : Option (Nat × Nat) :=
  if 0x7000000 ≤ a ∧ a < 0x8000000 then some ((a - 0x7000000) / 0x200000, a % 0x200000) else none

/-- Bytes of a frame at a rate (R442). -/
def cpFrameLen (rate : Nat) : Nat := if rate = 0 then 3420 else 8550

/-- A block of 14 samples: exponent and 28 mantissas of 9 bits (R448). -/
def iqBlock (vs : List Int) : List Byte :=
  let e := bfpExp 9 vs
  beBytes 32 (vs.foldl (fun a v => a * 512 + wrapTo 9 (rhu v e)) e)

/-- The 28 values of a block, saturated to 16 bits (R417, R448). -/
def iqUnblock (bs : List Byte) : List Int :=
  let v := beVal bs
  (unpackMsb 9 28 (v % 2 ^ 252)).map fun m => clampTo 16 (m * 2 ^ (v >>> 252))

/-- Groups of `n` items. -/
def splitEvery {α : Type} (n : Nat) : Nat → List α → List (List α)
  | 0, _ => []
  | k + 1, xs => if xs.isEmpty then [] else xs.take n :: splitEvery n k (xs.drop n)

namespace State

def cp (s : State) (p : Nat) : CpPort := sget s.cps p CpPort.reset

def setCp (s : State) (p : Nat) (c : CpPort) : State := { s with cps := sput s.cps p c CpPort.reset }

def cpState (s : State) (p : Nat) : Nat := s.rf (CP_STAT.adr p) CP_STAT.STATE
def cpRate (s : State) (p : Nat) : Nat := s.rf (CP_STAT.adr p) CP_STAT.RATE

/-- Adds to a counter of the port. -/
def cpCount (s : State) (p i n : Nat) : State := s.incSat (CP_CNT.adr p i) CP_CNT.COUNT n

/-- Samples per frame and antenna (R447), samples in 10 ms (R448), antennas. -/
def cpSpf (s : State) (p : Nat) : Nat := 42 * 2 ^ s.rf (CP_CAR.adr p) CP_CAR.FSSEL
def cpCyc (s : State) (p : Nat) : Nat := 153600 * 2 ^ s.rf (CP_CAR.adr p) CP_CAR.FSSEL
def cpAnts (s : State) (p : Nat) : Nat := s.rf (CP_CAR.adr p) CP_CAR.NANTM1 + 1
def cpValid (s : State) (p : Nat) : Bool := s.rb (CP_CAR.adr p) CP_CAR.VALID

/-- Delay from a downstream symbol boundary to the antenna, and from the antenna to an upstream one (R449), in 1/8 ns: the cable delay
measured and the reports of the radio point. -/
def cpDdl (s : State) (p : Nat) : Nat := s.rf (CP_DELAY.adr p) CP_DELAY.CABLE + 8 * s.rf (CP_RPDLY.adr p) CP_RPDLY.DTX
def cpDul (s : State) (p : Nat) : Nat := s.rf (CP_DELAY.adr p) CP_DELAY.CABLE + 8 * s.rf (CP_RPDLY.adr p) CP_RPDLY.DRX

/-- The carrier sample index of an instant, `t` 1/8 ns after a frame start (R273, R448). -/
def cpIndexAt (s : State) (p : Nat) (t : Int) : Nat :=
  ((t * (1536 * 2 ^ s.rf (CP_CAR.adr p) CP_CAR.FSSEL) / 800000) % (s.cpCyc p : Int)).toNat

/-- The sample indices of a carrier that is set up follow its frames (R273, R448, R449): the next sample to be read radiates DDL after the
boundary that lies 6 µs ahead (R450), and the next to arrive was at the antenna DUL ago. `start` is a frame start in extended time. -/
def cpAlign (s : State) (p start : Nat) : State :=
  let t : Int := 8 * ((s.ext : Int) - start)
  s.setCp p { s.cp p with next := s.cpIndexAt p (t + 48000 + s.cpDdl p), rxNext := s.cpIndexAt p (t - s.cpDul p) }

/-- The buffer position of carrier sample index `i` (R450): indices count from 0 in each 10 ms frame. -/
def cpPos (s : State) (p i : Nat) : Nat := i % s.cpCyc p % 32768

/-- Brings CP_QSTAT up to date. -/
def cpSync (s : State) (p : Nat) : State :=
  let c := s.cp p
  let a := CP_QSTAT.adr p
  ((s.wf a CP_QSTAT.ARMS c.arms.length).wf a CP_QSTAT.SWQ c.swq.length).wf a CP_QSTAT.MTX c.mtx.length

/-- A carriage-config event for a write port at offset `o` (R464). -/
def cpBad (s : State) (p o : Nat) : State := s.raise 0x0A05 (cpSrc p) o 0 0

/-! ### Write ports -/

/-- A write of CP_ULARM (R451). -/
def ulArm (s : State) (p v : Nat) : State :=
  if bits v 49 15 ≠ 0 then s.cpBad p 0x200
  else
    let c := s.cp p
    if 32 ≤ c.arms.length then s.raise 0x0A03 (cpSrc p) (bits v 0 24) 0 0
    else (s.setCp p { c with arms := c.arms ++ [(bits v 0 24, bits v 24 24, bit v 48)] }).cpSync p

/-- A write of CP_SWQ (R453). An entry that finds the 64-entry queue full is discarded (DESIGN CHOICE, log entry 15). -/
def swqWrite (s : State) (p v : Nat) : State :=
  if bits v 32 32 ≠ 0 then s.cpBad p 0x208
  else
    let c := s.cp p
    if 64 ≤ c.swq.length then s
    else (s.setCp p { c with swq := c.swq ++ [(bits v 0 24, bits v 24 8)] }).cpSync p

def cpSlotFree (s : State) (p k : Nat) : State :=
  s.setCp p { s.cp p with slots := sdrop (fun a => a / 16384 = k) (s.cp p).slots }

/-- A write of CP_MTXENT (R446): a RAW entry with LTV = 0. -/
def mtxEntry (s : State) (p : Nat) (e : List Byte) : State :=
  let k := fieldAt e 4 1
  let len := fieldAt e 6 2
  if 4 ≤ k ∨ fieldAt e 5 1 ≠ 0 ∨ fieldAt e 9 1 ≠ 0 ∨ fieldAt e 0xF 1 ≠ 0 ∨ len < 60 ∨ 9212 < len then
    (s.cpSlotFree p (k % 4)).cpBad p 0x210
  else
    let c := s.cp p
    if 16 ≤ c.mtx.length then (s.cpSlotFree p k).cpCount p 5 1
    else
      let data := (List.range len).map fun i => sget c.slots (16384 * k + i) 0
      ((s.setCp p { c with mtx := c.mtx ++ [data] }).cpSlotFree p k).cpSync p

/-- A write of CP_MRXCON (R446). -/
def mrxConsume (s : State) (p : Nat) : State := s.setCp p { s.cp p with mrx := (s.cp p).mrx.drop 1 }

/-- A write of the enabled bytes of one sample of the transmit buffer (R450): `items` are byte index and byte. While the port is not in
run the samples stay zero (R454). -/
def sampleWrite (s : State) (p ant pos : Nat) (items : List (Nat × Byte)) : State :=
  if s.cpAnts p ≤ ant then s else
    let c := s.cp p
    let k := 32768 * ant + pos
    if (pos + 32768 - c.next % 32768) % 32768 < 30720 then
      if s.cpState p ≠ 3 then s else
      let v := items.foldl (fun v x => setBits v (8 * x.1) 8 x.2.toNat) (sget c.tx k 0).toNat
      s.setCp p { c with tx := sput c.tx k (BitVec.ofNat 32 v) 0 }
    else
      let s1 := s.cpCount p 4 1
      if c.lateSaid then s1
      else
        let back := (c.next + 32768 - pos) % 32768
        let idx := (c.next + s.cpCyc p - back) % s.cpCyc p
        (s1.setCp p { c with lateSaid := true }).raise 0x0A02 (cpSrc p) ant idx c.fcntTx

/-! ### Link states (R454 to R458) -/

/-- The state of the link changes, with its event; outside run the samples in both buffers are zero (R454). -/
def setCpState (s : State) (p st : Nat) : State :=
  let old := s.cpState p
  let s1 := if old = 3 then s.setCp p { s.cp p with tx := [], rx := [], raw := [] } else s
  if old = st then s else (s1.wf (CP_STAT.adr p) CP_STAT.STATE st).raise 0x0A04 (cpSrc p) old st 0

/-- The pending request of a port ends (R455). -/
def cpReqEnd (s : State) (p status : Nat) : State :=
  match (s.cp p).req with
  | some r => (s.setCp p { s.cp p with req := none }).finish r.ticket status []
  | none => s

/-- Every proposal of a port is discarded (R456, R462). -/
def dropProposals (s : State) (p : Nat) : State :=
  ((s.setCp p { s.cp p with theirs := none, ours := none }).wb (CP_STAT.adr p) CP_STAT.TXSWP false).wb (CP_STAT.adr p)
    CP_STAT.RXSWP false

/-- The port goes to down; a request that waits to leave it ends with BUSY, one for down with OK (R455). -/
def cpDown (s : State) (p : Nat) : State :=
  let s1 := ((s.setCpState p 0).wb (CP_STAT.adr p) CP_STAT.LOCK false).dropProposals p
  let s2 := s1.setCp p { s1.cp p with step := 0 }
  match (s2.cp p).req with
  | some r => s2.cpReqEnd p (if r.kind = 0 then sOk else sBusy)
  | none => s2

/-- The port enters retrain (R456): steps 2, 5, 7 and 8 follow. -/
def cpRetrain (s : State) (p : Nat) : State :=
  let s1 := ((s.setCpState p 4).cpCount p 6 1).dropProposals p
  s1.setCp p { s1.cp p with step := 2 }

/-- Coded bits of each pair under the receive table (CP_LOAD.BITS). -/
def cpLoadBits (s : State) (p : Nat) : State :=
  upto 4 (fun q s =>
    let n := (((s.cp p).rxTab.filter fun e => e.1 / 0x800 = q).map fun e =>
      bits e.2.toNat 0 3 + bits e.2.toNat 3 3).sum
    s.wf (CP_LOAD.adr p q) CP_LOAD.BITS n) s

/-- A measurement is shown in CP_LOAD.MINMARGIN and in the ratio map. -/
def cpMeasured (s : State) (p : Nat) (ms : List (Nat × Nat × Nat)) : State :=
  let c := s.cp p
  let map := (ms.filter fun x => isData (x.1 % 0x800)).foldl (fun m x =>
    sput m x.1 (BitVec.ofNat 8 (min 255 (min x.2.1 x.2.2 / 5))) 0) []
  upto 4 (fun q s =>
    match leastMargin c.rxTab ms q with
    | some m => s.wf (CP_LOAD.adr p q) CP_LOAD.MINMARGIN (min 255 (m.toNat / 5))
    | none => s) (s.setCp p { c with map := map })

/-- The port enters run; a request for it ends with OK (R454, R455). -/
def cpRun (s : State) (p : Nat) : State :=
  let a := CP_STAT.adr p
  let s1 := (((s.setCpState p 3).wb a CP_STAT.LOCK true).wf a CP_STAT.FAILS 0).wf a CP_STAT.RATE (s.cp p).rate
  let s2 := s1.setCp p { s1.cp p with step := 0 }
  match (s2.cp p).req with
  | some r => if r.kind = 1 then s2.cpReqEnd p sOk else if r.kind = 2 then (s2.setCpState p 5).cpReqEnd p sOk else s2
  | none => s2

/-- A training step fails (R454): train goes to down, retrain tries again until its third consecutive failure. -/
def trainFail (s : State) (p : Nat) : State :=
  if s.cpState p = 4 then
    let f := s.rf (CP_STAT.adr p) CP_STAT.FAILS + 1
    let s1 := s.wf (CP_STAT.adr p) CP_STAT.FAILS f
    if 3 ≤ f then s1.cpDown p else s1.setCp p { s1.cp p with step := 2 }
  else s.cpDown p

/-- Retrain, or down, by CP_CFG.AUTORT (R456). -/
def cpLoss (s : State) (p : Nat) : State :=
  if s.rb (CP_CFG.adr p) CP_CFG.AUTORT then s.cpRetrain p else s.cpDown p

/-! ### Reads of tables, views and buffers -/

/-- A byte of the block of port `p` at offset `o` from 0x20000: management view, tables, ratio map and buffers. -/
def cpByte (s : State) (p o : Nat) : Byte :=
  let c := s.cp p
  if o < 0x20000 then 0
  else if o < 0x24000 then
    match c.mrx with
    | f :: _ => (leBytes 2 f.length ++ List.replicate 6 0 ++ f).getD (o - 0x20000) 0
    | [] => 0
  else if o < 0x40000 then 0
  else if o < 0x42000 then sget c.txTab (o - 0x40000) 0
  else if o < 0x44000 then sget c.rxTab (o - 0x42000) 0
  else if o < 0x46000 then sget c.map (o - 0x44000) 0
  else if o < 0x80000 then 0
  else if o < 0x180000 then
    let buf := if o < 0x100000 then c.tx else c.rx
    let x := (o - 0x80000) % 0x80000
    if s.cpAnts p ≤ x / 0x20000 then 0 else BitVec.ofNat 8 ((sget buf (x / 4) 0).toNat >>> (8 * (o % 4)))
  else 0

end State

end Sys2Proof.Machine
end

