-- ==== Sys2Proof/Machine/EccBase.lean ====
section
/-! DEFINITION. The hub's error counters and address tables (R356 to R359), the scrub's end (R363, R364). -/

namespace Sys2Proof.Machine

/-- Address of word `w` of table entry `i` of unit `u`. -/
def eccEnt (u i w : Nat) : Nat := 0x140100 + 0x400 * u + 0x10 * i + 4 * w

namespace State

/-- Clears a unit (R359). -/
def eccClear (s : State) (u : Nat) : State :=
  let s1 := (((((s.setReg (HUB_CECNT.adr u) 0).setReg (HUB_UECNT.adr u) 0).setReg (HUB_ECCDROP.adr u) 0).setReg
    (HUB_UEADDR_LO.adr u) 0).setReg (HUB_UEADDR_HI.adr u) 0).setReg (HUB_ECCCTL.adr u) 0
  upto 128 (fun k s => s.setReg (0x140100 + 0x400 * u + 4 * k) 0)
    { s1 with tableFull := s1.tableFull.filter fun x => x ≠ u }

/-- Whether table entry `i` of unit `u` is taken. -/
def eccTaken (s : State) (u i : Nat) : Bool := bit (s.reg (eccEnt u i 1)) 31

/-- A corrected report enters the table of its unit (R358): its entry, the lowest free entry with its event, or
HUB_ECCDROP. -/
def eccTable (s : State) (r : EccReport) : State :=
  let key := 2 ^ 31 + r.pos * 2 ^ 24 + r.kind * 2 ^ 20 + r.addr >>> 32
  let hit := (List.range 32).find? fun i =>
    s.reg (eccEnt r.unit i 0) = r.addr % 2 ^ 32 && s.reg (eccEnt r.unit i 1) = key
  match hit with
  | some i => s.incSat (eccEnt r.unit i 2) ⟨0, 32⟩ r.count
  | none =>
    match (List.range 32).find? fun i => !s.eccTaken r.unit i with
    | some i =>
      let s1 := ((s.setReg (eccEnt r.unit i 0) (r.addr % 2 ^ 32)).setReg (eccEnt r.unit i 1) key).setReg
        (eccEnt r.unit i 2) r.count
      let fill := s1.rf (HUB_ECCCTL.adr r.unit) HUB_ECCCTL.FILL + 1
      ((s1.wf (HUB_ECCCTL.adr r.unit) HUB_ECCCTL.FILL fill).wb (HUB_ECCCTL.adr r.unit) HUB_ECCCTL.FULL (fill = 32)).raiseA
        0x0704 (912 + r.unit) (r.kind + 256 * r.pos) r.addr
    | none =>
      let s1 := s.incSat (HUB_ECCDROP.adr r.unit) ⟨0, 32⟩ r.count
      if s1.tableFull.contains r.unit then s1
      else { s1.raise 0x0705 (912 + r.unit) (s1.reg (HUB_ECCDROP.adr r.unit)) 0 0 with tableFull := r.unit :: s1.tableFull }

/-- A report reaches the hub (R356 to R358). -/
def eccArrive (s : State) (r : EccReport) : State :=
  let s1 := (((s.incSat (HUB_CECNT.adr r.unit) ⟨0, 32⟩ r.addCorr).incSat (HUB_UECNT.adr r.unit) ⟨0, 32⟩ r.addUnc).incSat
    (HUB_ECCDROP.adr r.unit) ⟨0, 32⟩ r.addCorr)
  if r.uncorr then
    let s2 := (s1.incSat (HUB_UECNT.adr r.unit) ⟨0, 32⟩ r.count).setReg (HUB_UEADDR_LO.adr r.unit) (r.addr % 2 ^ 32)
    (s2.setReg (HUB_UEADDR_HI.adr r.unit)
      (2 ^ 31 + b2n r.poison * 2 ^ 30 + r.kind * 2 ^ 16 + r.addr >>> 32)).raiseA 0x0706 (912 + r.unit)
        (r.kind + b2n r.poison * 2 ^ 15) r.addr
  else (s1.incSat (HUB_CECNT.adr r.unit) ⟨0, 32⟩ r.count).eccTable r

end State

end Sys2Proof.Machine
end

