-- ==== Sys2Proof/Machine/NvBase.lean ====
section
/-! DEFINITION. The NV store (R547, R573, R574): its areas and their writers, writes with their wear account. -/

namespace Sys2Proof.Machine

/-- The address of the NV store. -/
def nvBase : Nat := 0x400000000

/-- The area of an address of the NV store (R547); none where it is reserved. -/
def nvArea (a : Nat) : Option Nat :=
  if a < 0x400010000 then some 0
  else if a < 0x400011000 then some 5
  else if a < 0x400100000 then none
  else if a < 0x400300000 then some 1
  else if a < 0x400500000 then some 3
  else if a < 0x400800000 then none
  else if a < 0x401000000 then some 2
  else if a < 0x401400000 then some 4
  else none

/-- The source that may write an area (R547). -/
def nvWriter (a : Nat) : Nat := if a = 5 then 43 else if a = 4 then 41 else 40

/-- The slot of class `c`, 0 A and 1 B: its offset and its size (R547). -/
def nvSlot (c b : Nat) : Nat × Nat :=
  if c = 0 then (0x100000 + 0x100000 * b, 0x100000)
  else if c = 2 then (0x300000 + 0x100000 * b, 0x100000)
  else (0x800000 + 0x400000 * b, 0x400000)

namespace State

/-- Accounts one write of the NV word at address `a` (R574), with its event past 80,000,000. -/
def nvCount (s : State) (a : Nat) : State :=
  let w := a / 8 * 8
  match nvArea w with
  | none => s
  | some ar =>
    let n := sget s.nvWr w 0 + 1
    let old := s.reg (NV_WEAR.adr ar)
    let s1 := { s with nvWr := sput s.nvWr w n 0 }
    if n ≤ old then s1
    else
      let s2 := s1.setReg (NV_WEAR.adr ar) (satAt 32 n)
      if old ≤ 80000000 ∧ 80000000 < n then s2.raise 0x0E07 922 ar (satAt 32 n) 0 else s2

/-- The device writes bytes of the NV store, as writes of its lines (R350, R352), each word counted once (R574). -/
def nvWrite (s : State) (a : Nat) (bs : List Byte) : State :=
  let items := bs.zipIdx.map fun (b, i) => (a + i, b)
  let s1 := ((items.map fun e => e.1 / 64 * 64).eraseDups).foldl
    (fun s l => s.memStore (items.filter fun e => e.1 / 64 * 64 = l)) s
  ((items.map fun e => e.1 / 8 * 8).eraseDups).foldl (fun s w => s.nvCount w) s1

/-- The key of the NV store's merge buffer (R352). -/
def nvBank : Nat := 34 * 64 + 63

/-- A byte of the NV store as the device reads it: its merge entry is written first (R352), and an uncorrectable word gives poison
(R62, R348). -/
def nvByte (s : State) (a : Nat) : Byte :=
  let w := a / 8 * 8
  match s.markAt w with
  | some .uncorrectable => 0xFF
  | some .poisoned => 0xFF
  | _ => match (s.mbufOf nvBank).find? fun e => e.word = w && bit e.mask (a - w) with
    | some e => BitVec.ofNat 8 (e.data >>> (8 * (a - w)))
    | none => s.byteAt a

/-- `n` bytes of the NV store from address `a`, as the device reads them. -/
def nvBytes (s : State) (a n : Nat) : List Byte := (List.range n).map fun i => s.nvByte (a + i)

/-- What a read of `n` bytes of the NV store from address `a` does: merge entries of its words are written, and its errors reported
(R352, R354). -/
def nvScan (s : State) (a n : Nat) : State :=
  let hit (w : Nat) : Bool := decide (a < w + 8 ∧ w < a + n)
  let l : MemLoc := ⟨7, 34, 8, 8⟩
  let s1 := ((s.mbufOf nvBank).filter fun e => hit e.word).foldl (fun s e => s.flushEnt l nvBank e) s
  (s1.marks.filter fun m => hit m.1).foldl (fun s m => match m.2 with
    | some x => s.reportWord l m.1 x
    | none => s) s1

end State

end Sys2Proof.Machine
end

