-- ==== Sys2Proof/Machine/GuestBase.lean ====
section
/-! DEFINITION. The Guestbook (R584 to R595): records and their bytes, merging, the buffer, flushes to the log, the scan
of the log at boot, and reading records back. -/

namespace Sys2Proof.Machine

/-- The severity of an event code (R596): 0 I, 1 W, 2 E, 3 F; `p2` tells a change of mode into HALT. -/
def severity (code p2 : Nat) : Nat :=
  if code = 0x0C04 then 3
  else if code = 0x0D02 then (if p2 = mHalt then 3 else 0)
  else if [0x0103, 0x0106, 0x0208, 0x0309, 0x0601, 0x0702, 0x0901, 0x0A04, 0x0B02, 0x0B04, 0x0B05, 0x0C03, 0x0D01,
      0x0F01].contains code then 0
  else if [0x0102, 0x0105, 0x0201, 0x0204, 0x0206, 0x0305, 0x030A, 0x0401, 0x0402, 0x0403, 0x0504, 0x0602, 0x0603,
      0x0605, 0x0701, 0x0703, 0x0706, 0x0707, 0x0803, 0x0903, 0x0905, 0x0908, 0x0A01, 0x0C01, 0x0C05, 0x0E01, 0x0E04,
      0x0E05, 0x0F03].contains code then 2
  else 1

/-- The 32 bytes of a record with CHK `chk` (R584, R585). -/
def Rec.raw (r : Rec) (chk : Nat) : List Byte :=
  leBytes 4 r.seq ++ leBytes 2 r.code ++ leBytes 2 r.src ++ leBytes 8 r.time ++ leBytes 2 r.rep ++
    leBytes 1 r.flags ++ leBytes 1 chk ++ leBytes 4 r.p1 ++ leBytes 4 r.p2 ++ leBytes 4 r.p3

/-- CHK of 32 record bytes: the CRC-8 over them with CHK taken as 0 (R585). -/
def recChk (bs : List Byte) : Nat := crcMsb 8 0x07 0 (patch bs 0x13 [0])

/-- The 32 bytes of a record (R584, R585). -/
def Rec.bytes (r : Rec) : List Byte := r.raw (recChk (r.raw 0))

/-- The record that 32 bytes hold; none when CHK fails or CODE is 0 (R584, R585). -/
def recOf (bs : List Byte) : Option Rec :=
  if fieldAt bs 0x13 1 = recChk bs ∧ fieldAt bs 4 2 ≠ 0 then
    some ⟨fieldAt bs 0 4, fieldAt bs 4 2, fieldAt bs 6 2, fieldAt bs 8 8, fieldAt bs 0x10 2, fieldAt bs 0x12 1,
      fieldAt bs 0x14 4, fieldAt bs 0x18 4, fieldAt bs 0x1C 4⟩
  else none

/-- The address of the log slot of sequence `q` (R589). -/
def logAddr (q : Nat) : Nat := nvBase + 0x1000000 + 32 * (q % 131072)

/-- Insertion into a list in rising order of a key. -/
def insertBy {α : Type} (key : α → Nat) (x : α) : List α → List α
  | [] => [x]
  | y :: ys => if key x < key y then x :: y :: ys else y :: insertBy key x ys

namespace State

def gbHead (s : State) : Nat := s.rf GB_HEAD.adr GB_HEAD.SEQ
def gbFlushSeq (s : State) : Nat := s.rf GB_FLUSHSEQ.adr GB_FLUSHSEQ.SEQ
/-- Unflushed records. -/
def gbUnfl (s : State) : Nat := (s.gbHead + 2 ^ 32 - s.gbFlushSeq) % 2 ^ 32
def gbSync (s : State) : State := s.wf GB_STAT.adr GB_STAT.UNFL s.gbUnfl
def gbFlushing (s : State) : Bool := s.rb GB_STAT.adr GB_STAT.FLUSHING
def gbEntry (s : State) (q : Nat) : Option Rec := sget s.gbuf (q % 8192) none

/-- TAI − UTC in seconds, signed (UTC_OFFSET). -/
def taiUtc (s : State) : Int := sgn 32 (s.rf TK_ANCHOR.adr TK_ANCHOR.TAIUTC)

/-- Whether extended time is set (R468). -/
def extSet (s : State) : Bool := s.rb TK_STAT.adr TK_STAT.EXTSET

/-- TIME and FLAGS of a record created now (R585, R587). -/
def stamp (s : State) (sev : Nat) : Nat × Nat :=
  let sec : Nat := s.ext / 10 ^ 9
  let us : Nat := s.ext % 10 ^ 9 / 1000
  if s.extSet then
    (us + 2 ^ 24 * wrapTo 40 ((sec : Int) - s.taiUtc - 946684800), 4 * sev + (if s.utcSet then 0 else 2))
  else (us + 2 ^ 24 * (sec % 2 ^ 40), 4 * sev + 1)

/-- Records admitted to the log within the last 64 s (R591). -/
def gbAdmitted (s : State) : Nat := ((s.gbRate.filter fun e => s.cyc < e.1 + 64000000000).map Prod.snd).sum

/-- A flush trigger (R590): HELD is set when the rate limit holds the flush back (R591). -/
def gbTrigger (s : State) (forced : Bool) : State :=
  if forced then { s with gbForced := true }
  else if 262144 < s.gbAdmitted + s.gbUnfl then { s.wb GB_STAT.adr GB_STAT.HELD true with gbWanted := true }
  else { s with gbWanted := true }

/-- An event becomes a record, or merges into the newest (R586, R588), with the flush triggers of R590. -/
def gbRecord (s : State) (e : Event) : State :=
  let h := s.gbHead
  let newest := (h + 2 ^ 32 - 1) % 2 ^ 32
  let merge := match s.gbEntry newest with
    | some r => if s.gbUnfl ≠ 0 ∧ r.seq = newest ∧ r.code = e.code ∧ r.src = e.src ∧ r.p1 = e.p1 ∧ r.p2 = e.p2 ∧
        r.p3 = e.p3 ∧ r.rep < 0xFFFF then some r else none
    | none => none
  match merge with
  | some r => { s with gbuf := sput s.gbuf (newest % 8192) (some { r with rep := r.rep + 1 }) none }
  | none =>
    let sev := severity e.code e.p2
    let (t, f) := s.stamp sev
    let s1 := if 8192 ≤ s.gbUnfl then
        -- the oldest unflushed record is overwritten and lost to the log
        let first := if s.gbLost = 0 then s.gbFlushSeq else s.gbLostFirst
        { (s.incSat GB_RECLOST.adr GB_RECLOST.COUNT 1).incWrap GB_FLUSHSEQ.adr GB_FLUSHSEQ.SEQ 1 with
          gbLost := s.gbLost + 1, gbLostFirst := first }
      else s
    let s2 := { s1 with gbuf := sput s1.gbuf (h % 8192) (some ⟨h, e.code, e.src, t, 1, f, e.p1, e.p2, e.p3⟩) none }
    let s3 := (s2.wf GB_HEAD.adr GB_HEAD.SEQ (h + 1)).gbSync
    let s4 := if sev = 3 then s3.gbTrigger true else s3
    if s4.gbUnfl = 4096 then s4.gbTrigger false else s4

/-- The unflushed records are written to the log in sequence order (R589, R590). -/
def gbWriteLog (s : State) : State :=
  let n := s.gbUnfl
  let f := s.gbFlushSeq
  let s1 := (List.range n).foldl (fun s i =>
    match s.gbEntry (f + i) with
    | some r => s.nvWrite (logAddr r.seq) r.bytes
    | none => s) s
  { (s1.wf GB_FLUSHSEQ.adr GB_FLUSHSEQ.SEQ s1.gbHead).gbSync with
    gbRate := (s.gbRate.filter fun e => s.cyc < e.1 + 64000000000) ++ (if n = 0 then [] else [(s.cyc, n)]) }

/-- The losses since the previous flush are reported by one event, which this flush writes (R588). -/
def gbReportLoss (s : State) : State :=
  if s.gbLost = 0 then s
  else { s with gbLost := 0, gbLostFirst := 0 }.gbRecord ⟨0x0F03, 923, s.gbLost, s.gbLostFirst, 0⟩

/-- GB_FLUSH commands whose records are in the log are answered (R590). -/
def gbFinish (s : State) : State :=
  let done (w : Ticket × Nat) : Bool := (s.gbFlushSeq + 2 ^ 32 - w.2) % 2 ^ 32 < 2 ^ 31
  (s.gbWait.filter done).foldl (fun s w => s.finish w.1 sOk []) { s with gbWait := s.gbWait.filter fun w => !done w }

/-- FLUSH_START (R590, R591): a waiting flush starts and writes the records present. -/
def gbFlushStart (s : State) : State :=
  if !s.gbForced && !s.gbWanted then s else
    let s1 := { (s.wb GB_STAT.adr GB_STAT.FLUSHING true).wb GB_STAT.adr GB_STAT.HELD false with
      gbForced := false, gbWanted := false }
    s1.gbReportLoss.gbWriteLog

/-- FLUSH_COMPLETE (R590): the records taken while the flush ran are written, and the flush ends. -/
def gbFlushEnd (s : State) : State :=
  if !s.gbFlushing then s else (s.gbWriteLog.wb GB_STAT.adr GB_STAT.FLUSHING false).gbFinish

/-- A flush carried out whole, before a reset is asserted (R540, R590). -/
def gbFlushNow (s : State) : State :=
  ((({ s with gbForced := false, gbWanted := false }.wb GB_STAT.adr GB_STAT.HELD false).gbReportLoss.gbWriteLog).wb
    GB_STAT.adr GB_STAT.FLUSHING false).gbFinish

/-! ### Reading -/

/-- Numbers of the log slots that hold any byte other than 0, in rising order. -/
def logSlots (s : State) : List Nat :=
  ((s.mem.filter fun c => decide (nvBase + 0x1000000 ≤ c.1 ∧ c.1 < nvBase + 0x1400000)).map fun c =>
    (c.1 - (nvBase + 0x1000000)) / 32).eraseDups

/-- The records of the log: those whose CHK passes (R585, R593). -/
def logRecs (s : State) : List Rec := s.logSlots.filterMap fun j => recOf (s.nvBytes (nvBase + 0x1000000 + 32 * j) 32)

/-- How far sequence `q` lies behind GB_HEAD; 0 for GB_HEAD itself. -/
def gbAge (s : State) (q : Nat) : Nat := (s.gbHead + 2 ^ 32 - q) % 2 ^ 32

/-- Every record held in the buffer or the log, once each, oldest first (R595). -/
def gbHeld (s : State) : List Rec :=
  let buf := s.gbuf.filterMap fun e => e.2
  let log := s.logRecs.filter fun r => buf.all fun b => b.seq ≠ r.seq
  let ok (r : Rec) : Bool := let g := s.gbAge r.seq; 0 < g && g < 2 ^ 31
  (buf ++ log).filter ok |>.foldl (fun l r => insertBy (fun x => 2 ^ 32 - s.gbAge x.seq) r l) []

/-- GB_OLDEST: the oldest sequence held; GB_HEAD when none is. -/
def gbOldest (s : State) : Nat := match s.gbHeld with
  | r :: _ => r.seq
  | [] => s.gbHead

/-- The scan of the log at boot (R593): numbering continues one past the newest record. -/
def gbScan (s : State) : State :=
  let newest := s.logRecs.foldl (fun m r => match m with
    | none => some r.seq
    | some q => if (r.seq + 2 ^ 32 - q) % 2 ^ 32 < 2 ^ 31 then some r.seq else some q) none
  let h := match newest with
    | some q => (q + 1) % 2 ^ 32
    | none => 0
  ((s.setReg GB_HEAD.adr h).setReg GB_FLUSHSEQ.adr h).gbSync

/-- The payload of GB_READ (R595). -/
def gbRead (s : State) (first n : Nat) : List Word :=
  let all := s.gbHeld
  -- from `first`, or from the oldest when `first` lies behind it
  let from_ := all.filter fun r => (r.seq + 2 ^ 32 - first) % 2 ^ 32 < 2 ^ 31
  let take := from_.take n
  [BitVec.ofNat 32 s.gbHead, BitVec.ofNat 32 s.gbOldest, BitVec.ofNat 32 take.length] ++
    take.flatMap fun r => bytesWords r.bytes

/-- The bytes of GB_BUF from offset `o`. -/
def gbView (s : State) (o n : Nat) : List Byte :=
  let q := o / 32
  let two := [q, q + 1, q + 2].flatMap fun j => match sget s.gbuf j none with
    | some r => r.bytes
    | none => List.replicate 32 0
  (two.drop (o % 32)).take n

end State

end Sys2Proof.Machine
end

