-- ==== Sys2Proof/Machine/NvImg.lean ====
section
/-! DEFINITION. Uhlash containers, the boot record, image verification at boot and at commit, settings and the retirement
list (R545 to R564). -/

namespace Sys2Proof.Machine

/-! ### Containers (R550 to R554) -/

/-- A setting or retirement record of a class 2 body (R554). -/
structure Body where
  sets : List (Nat × Option Nat)
  retire : Option (List Word)
  last : Nat
  deriving DecidableEq, Repr

/-- Reads the records of a body (R554); none when a rule breaks. A setting of behaviour level 1 has one value word. -/
def parseBody (blevel : Nat) : Nat → List Word → Body → Option Body
  | 0, _, _ => none
  | fuel + 1, ws, b => match ws with
    | [] => none
    | h :: rest =>
      let id := bits h.toNat 0 16
      let n := bits h.toNat 16 12
      let vs := rest.take n
      match bits h.toNat 28 4 with
      | 1 =>
        if vs.length = n ∧ blevel = 1 ∧ settingIds.contains id ∧ b.last < id ∧
            (n = 0 ∨ (n = 1 ∧ settingOk id (vs.headD 0).toNat)) then
          parseBody blevel fuel (rest.drop n) { b with sets := b.sets ++ [(id, vs.head?.map BitVec.toNat)], last := id }
        else none
      | 2 =>
        if vs.length = n ∧ id = 0 ∧ 2 ≤ n ∧ n % 2 = 0 ∧ n ≤ 4002 ∧ b.retire.isNone then
          parseBody blevel fuel (rest.drop n) { b with retire := some vs }
        else none
      | 15 => if id = 0 ∧ n = 0 ∧ rest.isEmpty then some b else none
      | _ => none

/-- The header of a container, as its bytes give it (R550). -/
structure Hdr where
  magic : Nat
  cls : Nat
  keySlot : Nat
  blevel : Nat
  zero : Nat
  version : Nat
  length : Nat
  zeros : Nat
  map : BitVec 256
  key : BitVec 768
  deriving DecidableEq, Repr

/-- The header fields of class `c` that are in range (R550). -/
def Hdr.ok (h : Hdr) (c : Nat) : Bool :=
  h.magic = 0x31484C55 && h.cls = c && h.zero = 0 && h.zeros = 0 && h.version ≤ 64 && h.length % 4 = 0 &&
    256 ≤ h.length && h.length ≤ (nvSlot c 0).2 &&
    (if c = 2 then 1 ≤ h.blevel && h.map = 0 else h.blevel = 0 && !h.map.getLsbD 0)

/-- Whether KEYSLOT names a slot of the class's pair (R550). -/
def Hdr.pairOk (h : Hdr) (c : Nat) : Bool := if c = 2 then h.keySlot = 2 || h.keySlot = 3 else h.keySlot ≤ 1

namespace State

/-- The fuse count of a class (R556). -/
def fuseCount (s : State) (c : Nat) : Nat := s.rf NV_FUSE.adr ⟨8 * c, 7⟩
/-- Whether a key slot is revoked. -/
def revoked (s : State) (k : Nat) : Bool := s.rb NV_FUSE.adr ⟨28 + k, 1⟩

/-- Big-endian bytes as a bit vector of `n` bytes. -/
def beAt (s : State) (a n : Nat) : Nat := beVal (s.nvBytes a n)

/-- The header of the container at address `a`. -/
def hdrAt (s : State) (a : Nat) : Hdr :=
  let b := s.nvBytes a 0x40
  ⟨fieldAt b 0 4, fieldAt b 4 1, fieldAt b 5 1, fieldAt b 6 1, fieldAt b 7 1, fieldAt b 8 4, fieldAt b 0xC 4,
    fieldAt b 0x14 12, BitVec.ofNat 256 (fieldAt b 0x20 32), BitVec.ofNat 768 (s.beAt (a + 0x40) 96)⟩

/-- The address of slot `b` of class `c`. -/
def slotAddr (c b : Nat) : Nat := nvBase + (nvSlot c b).1

/-- The container in slot `b` of class `c` is read: what that reports. -/
def slotRead (s : State) (c b : Nat) : State := s.nvScan (slotAddr c b) (min (s.hdrAt (slotAddr c b)).length (nvSlot c b).2)

/-- The records of a class 2 container. -/
def bodyAt (s : State) (a : Nat) (h : Hdr) : Option Body :=
  let ws := bytesWords (s.nvBytes (a + 0xA0) (h.length - 256))
  parseBody h.blevel (ws.length + 1) ws ⟨[], none, 0⟩

/-- Whether the signature of a container verifies with its own key (R551). -/
def sigOk (s : State) (a : Nat) (h : Hdr) : Bool :=
  Config.ecdsaVerify h.key (Config.sha384 (s.nvBytes a (h.length - 96)))
    (BitVec.ofNat 768 (s.beAt (a + h.length - 96) 96))

/-- The key checks of a container: slot of the pair, not revoked, key hash, signature (R551). -/
def authOk (s : State) (a c : Nat) (h : Hdr) : Bool :=
  h.pairOk c && !s.revoked h.keySlot &&
    Config.sha384 (beBytes 96 h.key.toNat) = Config.otpKeyHash h.keySlot && s.sigOk a h

/-- Verification of the container in slot `b` of class `c`, its BLEVEL check apart (R551). -/
def verifies (s : State) (c b : Nat) : Bool :=
  let a := slotAddr c b
  let h := s.hdrAt a
  h.ok c && decide (s.fuseCount c ≤ h.version) && (c ≠ 2 || (s.bodyAt a h).isSome) && s.authOk a c h

/-- Whether a behaviour level is set in a map (R569). -/
def levelIn (m : BitVec 256) (v : Nat) : Bool := v < 256 && m.getLsbD v

/-! ### The boot record (R548) -/

/-- The record when neither copy is valid: the A slots active, no candidate. -/
def bootDefault : BootRec := ⟨0, [0, 0, 0], [none, none, none], [false, false, false]⟩

/-- Which copy is in force: 0 or 1; none when neither is valid. -/
def bootCopy (s : State) : Option Nat :=
  match s.bootRecs with
  | [some x, some y] => if (x.gen + 2 ^ 32 - y.gen) % 2 ^ 32 < 2 ^ 31 then some 0 else some 1
  | [some _, none] => some 0
  | [none, some _] => some 1
  | _ => none

/-- The boot record in force. -/
def bootRec (s : State) : BootRec := match s.bootCopy with
  | some i => ((s.bootRecs.getD i none).getD bootDefault)
  | none => bootDefault

/-- CAND of NV_BOOTSTAT: the classes that hold a candidate awaiting trial. -/
def candSync (s : State) : State :=
  let r := s.bootRec
  upto 3 (fun c s => s.wf NV_BOOTSTAT.adr ⟨20 + c, 1⟩ (b2n ((r.cand.getD c none).isSome && !r.trial.getD c false))) s

/-- Writes the copy not in force with the generation advanced by one (R548). -/
def writeBoot (s : State) (r : BootRec) : State :=
  let i := match s.bootCopy with
    | some 0 => 1
    | _ => 0
  let s1 := { s with bootRecs := lset s.bootRecs i (some { r with gen := (r.gen + 1) % 2 ^ 32 }) }
  ((List.range 8).foldl (fun s w => s.nvCount (nvBase + 0x8000 * i + 8 * w)) s1).candSync

/-- The first container that verifies against a key slot leaves its key there (R552). -/
def keepKey (s : State) (h : Hdr) : State :=
  if (sget s.keyRecs h.keySlot none).isSome then s
  else { s with keyRecs := sput s.keyRecs h.keySlot (some h.key) none }

/-! ### Boot (R557 to R560) -/

/-- A candidate of class `c` is rejected (R558): 1 verification failed, 2 trial flag set. -/
def rejectCand (s : State) (c why : Nat) : State :=
  let r := s.bootRec
  let slot := (r.cand.getD c none).getD 0
  let s1 := s.writeBoot { r with cand := lset r.cand c none, trial := lset r.trial c false }
  (s1.wf NV_BOOTSTAT.adr ⟨24 + c, 1⟩ 1).raise 0x0E04 921 c slot why

/-- Selects and verifies a slot of class `c` (R558): the slot that verified, if any. `extra` is a further check. -/
def bootClass (s : State) (c : Nat) (extra : State → Nat → Bool) : Option Nat × State :=
  let ok (s : State) (b : Nat) : Bool := s.verifies c b && extra s (slotAddr c b)
  let r := s.bootRec
  let active (s0 : State) : Option Nat × State :=
    let b := s0.bootRec.active.getD c 0
    let s := s0.slotRead c b
    if ok s b then (some b, s.keepKey (s.hdrAt (slotAddr c b))) else (none, s)
  match r.cand.getD c none with
  | none => active s
  | some b =>
    if r.trial.getD c false then active (s.rejectCand c 2)
    else
      let s1 := (s.writeBoot { r with trial := lset r.trial c true }).slotRead c b
      if ok s1 b then (some b, s1.keepKey (s1.hdrAt (slotAddr c b))) else active (s1.rejectCand c 1)

/-- The settings that a body gives (R545). -/
def loadSettings (s : State) (b : Body) : State :=
  b.sets.foldl (fun s e => match e.2 with
    | some v => s.putSetting e.1 v
    | none => s) { s with settings := [] }

/-- DDR capacity of a geometry in GiB (R339). -/
def geometryGiB (g : Nat) : Nat := if g = 1 then 128 else if g = 2 then 256 else if g = 3 then 192 else if g = 4 then 256 else 0

/-- A retirement-entry event (R365). -/
def retireEvent (s : State) (a why : Nat) : State := s.raise 0x0708 901 (a % 2 ^ 32) (a >>> 32) why

/-- One entry of a retirement list (R365, R555): DDR entries always, SRAM entries when the serial matches. -/
def retireEntry (s : State) (a : Nat) (serial : Bool) : State :=
  if 0x10000000000 ≤ a then
    if a % 4096 ≠ 0 then s.retireEvent a 1
    else if 0x10000000000 + 0x40000000 * geometryGiB (s.setting 0x702) ≤ a then s.retireEvent a 2
    else { s with retired := s.retired ++ [(a, 4096)] }
  else if !serial then s
  else match memLoc 0 a with
    | none => if (0x400000000 ≤ a ∧ a < 0x402000000) ∨ (cxWin a) then s.retireEvent a 3 else s.retireEvent a 2
    | some l =>
      if l.kind = 7 then s.retireEvent a 3
      else if a % 1024 ≠ 0 then s.retireEvent a 1
      else { s with retired := s.retired ++ [(a, 1024)] }
where
  /-- The context windows of the coprocessors. -/
  cxWin (a : Nat) : Bool := 0x200000000 ≤ a && a < 0x200000000 + 24 * 0x1000000 && 0x808000 ≤ a % 0x1000000 &&
    a % 0x1000000 < 0x810000

/-- Pairs of words as 48-bit addresses. -/
def wordAddrs : List Word → List Nat
  | a :: b :: rest => (a.toNat + 2 ^ 32 * bits b.toNat 0 16) :: wordAddrs rest
  | _ => []
termination_by structural l => l

/-- The retirement list of an image comes into force (R365, R555). -/
def loadRetire (s : State) (b : Body) : State :=
  let s0 := { s with retired := [] }
  match b.retire with
  | none => s0
  | some ws =>
    let serial := decide (wordsVal (ws.take 2) = Config.otpSerial.toNat)
    let es := wordAddrs (ws.drop 2)
    let s1 := es.foldl (fun s a => s.retireEntry a serial) s0
    if !serial && es.any (fun a => decide (a < 0x10000000000)) then s1.raise 0x0708 901 0 0 4 else s1

/-- The image steps of BOOT (R557 to R559): selection and verification of the three classes, the honoured map, settings,
measurements and NV_BOOTSTAT. Answers whether the firmware of both classes verified. -/
def bootImages (s : State) : Bool × State :=
  let s0 := if s.bootCopy.isNone then s.raise 0x0E02 921 0 0 0 else s
  let (b0, s1) := s0.bootClass 0 fun _ _ => true
  let (b1, s2) := s1.bootClass 1 fun _ _ => true
  let map : BitVec 256 := match b0, b1 with
    | some x, some y => (s2.hdrAt (slotAddr 0 x)).map &&& (s2.hdrAt (slotAddr 1 y)).map
    | _, _ => 0
  let (b2, s3) := s2.bootClass 2 fun s a => levelIn map (s.hdrAt a).blevel
  let hash (s : State) (c : Nat) (b : Option Nat) : BitVec 384 := match b with
    | some x => Config.sha384 (s.nvBytes (slotAddr c x) (s.hdrAt (slotAddr c x)).length)
    | none => 0
  let s4 := { s3 with measure := [hash s3 0 b0, hash s3 1 b1, hash s3 2 b2], levelMap := map, settings := [], retired := [] }
  let s5 := match b2 with
    | some x =>
      let h := s4.hdrAt (slotAddr 2 x)
      let s5 := s4.wf NV_BOOTSTAT.adr NV_BOOTSTAT.BLEVEL h.blevel
      match s5.bodyAt (slotAddr 2 x) h with
      | some b => (s5.loadSettings b).loadRetire b
      | none => s5
    | none =>
      let top := (List.range 256).foldl (fun m v => if levelIn map v then v else m) 0
      ((s4.wb NV_BOOTSTAT.adr NV_BOOTSTAT.FACTORY true).wf NV_BOOTSTAT.adr NV_BOOTSTAT.BLEVEL top).raise 0x0E05 921 0 0 0
  let s6 := (s5.wf NV_BOOTSTAT.adr NV_BOOTSTAT.SLOT (b0.getD 0 + 2 * b1.getD 0 + 4 * b2.getD 0)).candSync
  let fw := b0.isSome && b1.isSome
  (fw, if fw then s6 else s6.wb NV_BOOTSTAT.adr NV_BOOTSTAT.ROMREC true)

/-- Promotion at the first CONFIGURE after a boot that tried candidates (R560): one boot-record write, then fuses. -/
def promote (s : State) : State :=
  let r := s.bootRec
  let tried := (List.range 3).filter fun c => (r.cand.getD c none).isSome && r.trial.getD c false
  if tried.isEmpty then s else
    let r' := tried.foldl (fun r c =>
      { r with active := lset r.active c ((r.cand.getD c none).getD 0), cand := lset r.cand c none, trial := lset r.trial c false }) r
    tried.foldl (fun s c =>
      let v := (s.hdrAt (slotAddr c (r'.active.getD c 0))).version
      s.wf NV_FUSE.adr ⟨8 * c, 7⟩ (max (s.fuseCount c) v)) (s.writeBoot r')

/-! ### Updates (R561, R562) -/

/-- The BAD_PARAM checks of UPD_COMMIT. -/
def commitParam (s : State) (u : Update) : Bool :=
  let a := slotAddr u.cls u.slot
  let h := s.hdrAt a
  let r := s.bootRec
  -- the slot of class `c` that boots next
  let next (c : Nat) : Nat := (r.cand.getD c none).getD (r.active.getD c 0)
  let map := (s.hdrAt (slotAddr 0 (next 0))).map &&& (s.hdrAt (slotAddr 1 (next 1))).map
  h.ok u.cls && decide (h.length = u.total) && decide (s.fuseCount u.cls ≤ h.version) &&
    (if u.cls = 2 then (s.bodyAt a h).isSome && levelIn map h.blevel
     else
       -- a class 2 slot that holds no container asks for no level
       let i := s.hdrAt (slotAddr 2 (next 2))
       !i.ok 2 || levelIn h.map i.blevel)

/-- The end of a verified update (R562): the slot becomes the candidate. -/
def commitDone (s : State) (u : Update) : State :=
  let r := s.bootRec
  (s.keepKey (s.hdrAt (slotAddr u.cls u.slot))).writeBoot
    { r with cand := lset r.cand u.cls (some u.slot), trial := lset r.trial u.cls false }

/-- Saves the wear accounts (R574); a save other than one on a power-fail warning keeps 10 minutes from the previous. -/
def wearSave (s : State) (pf : Bool) : State :=
  let near := match s.wearAt with
    | some t => decide (s.cyc < t + 600000000000)
    | none => false
  if near && !pf then s else
    let q := match s.wearSaved with
      | some (q, _) => (q + 1) % 2 ^ 32
      | none => 0
    -- the account lines' places in the control area are not stated
    let s1 := (List.range 8).foldl (fun s w => s.nvCount (nvBase + 0x1000 + 64 * (q % 16) + 8 * w)) s
    { s1 with wearAt := some s.cyc, wearSaved := some (q, (List.range 6).map fun a => s1.reg (NV_WEAR.adr a)) }

/-- The accounts in force after a boot (R574). -/
def wearLoad (s : State) : State :=
  let ws := match s.wearSaved with
    | some (_, ws) => ws
    | none => []
  upto 6 (fun a s => s.setReg (NV_WEAR.adr a) (ws.getD a 0)) { s with wearAt := none }

end State

end Sys2Proof.Machine
end

