-- ==== Sys2Proof/Machine/TimeBase.lean ====
section
/-! DEFINITION. The Timekeeper (R465 to R498): the anchor, time states, corrections, captures, PPS_OUT and PTP. -/

namespace Sys2Proof.Machine

/-- The nominal K of a capture source in ns (R471); `rate1` for a Carriage port at RATE 1. -/
def kNominal (src : Nat) (rate1 : Bool) : Int :=
  if src < 12 then 318 else if 16 ≤ src ∧ src < 28 then -146 else if src = 32 then 6
  else if 40 ≤ src ∧ src < 48 then (if rate1 then -44 else -52)
  else if 48 ≤ src ∧ src < 56 then (if rate1 then 149 else 171) else 0

/-- Whether a number names a capture source (R471). -/
def isCaptureSrc (src : Nat) : Bool :=
  src < 12 || (16 ≤ src && src < 28) || src = 32 || (40 ≤ src && src < 56)

/-- The trimmed K (R471): the trim, −8 to +7 ns, is OTP calibration. -/
def kTrimmed (src : Nat) (rate1 : Bool) : Int :=
  if isCaptureSrc src then kNominal src rate1 + ((Config.otpTrim src % 16 : Nat) : Int) - 8 else 0

/-- Time states (R476). -/
def tFreerun : Nat := 0
def tAcquire : Nat := 1
def tLocked : Nat := 2
def tHoldover : Nat := 3
def tExpired : Nat := 4

namespace State

/-- The trimmed K of a capture source at the port's active rate (TK_CAL). -/
def capK (s : State) (src : Nat) : Int :=
  kTrimmed src (40 ≤ src && src < 56 && s.rb (CP_STAT.adr ((src - 40) % 8)) CP_STAT.RATE)

def timeState (s : State) : Nat := s.rf TK_STAT.adr TK_STAT.STATE
def syncSrc (s : State) : Nat := s.rf TK_STAT.adr TK_STAT.SRC
def syncPort (s : State) : Nat := s.rf TK_STAT.adr TK_STAT.SRCPORT
def tuneWord (s : State) : Nat := s.rf TK_EFCW.adr TK_EFCW.W
/-- The latest offset, or frequency error under source 3. -/
def offset (s : State) : Int := sgn 32 (s.rf TK_OFFSET.adr TK_OFFSET.OFFSET)

/-- TK_ANCHOR is rewritten (R469). -/
def anchorWrite (s : State) : State :=
  let a := TK_ANCHOR.adr
  let sec := s.ext / 10 ^ 9
  ((((s.wf a TK_ANCHOR.AT s.tkns).wf a TK_ANCHOR.AN (s.ext % 10 ^ 9)).wf a TK_ANCHOR.AS (sec % 2 ^ 32)).wf a
    TK_ANCHOR.AS_HI (sec >>> 32)).incWrap a TK_ANCHOR.GEN 1

/-- The extended time of a 32-bit value under the anchor in force (R470), in ns. -/
def extend (s : State) (v : Nat) : Int :=
  let a := TK_ANCHOR.adr
  let d : Nat := (v + 2 ^ 32 - s.rf a TK_ANCHOR.AT) % 2 ^ 32
  let base : Nat := (s.rf a TK_ANCHOR.AS + 2 ^ 32 * s.rf a TK_ANCHOR.AS_HI) * 10 ^ 9 + s.rf a TK_ANCHOR.AN
  (base : Int) + (if 2 ^ 31 < d then (d : Int) - 2 ^ 32 else (d : Int))

/-- EXTSET, in TK_STAT and in the anchor. -/
def setExtSet (s : State) : State := (s.wb TK_STAT.adr TK_STAT.EXTSET true).wb TK_ANCHOR.adr TK_ANCHOR.EXTSET true

/-- The owned channels follow the tuning word through the slew limiter (R504). -/
def tuneMoves (s : State) : State := (s.tuneMove 0).tuneMove 1

/-- y to 0 and W to the last good tuning word (R481); 0x80_0000 where none has been saved (R549). -/
def holdTune (s : State) : State :=
  let w := match s.tune with
    | some (_, w, _) => w
    | none => 0x800000
  ((s.setReg TK_FADJ.adr 0).wf TK_EFCW.adr TK_EFCW.W w).tuneMoves

/-- A change of time state (R476, R481, R528), with its event. -/
def setTimeState (s : State) (st : Nat) : State :=
  let old := s.timeState
  if old = st then s else
    let s1 := (s.wf TK_STAT.adr TK_STAT.STATE st).wf TK_ANCHOR.adr TK_ANCHOR.STATE st
    let s2 := if st = tHoldover ∨ st = tFreerun ∨ (st = tExpired ∧ old ≠ tHoldover) then s1.holdTune else s1
    let s3 := if old = tLocked ∧ (st = tHoldover ∨ st = tExpired) then { s2 with heldOver := true }
      else if st = tLocked then { s2 with heldOver := false } else s2
    (s3.raise 0x0B02 902 old st s3.syncSrc).airSync

/-- TIME_LOCK (R478): the lock condition has held for 60 s. -/
def timeLock (s : State) : State :=
  let lim : Nat := if s.syncSrc = 3 then 1000 else 50
  if s.timeState = tAcquire ∧ s.offset.natAbs < lim then s.setTimeState tLocked else s

/-- LOCK_LOSS (R478): the offset or frequency error has been beyond its limit for 4 s. -/
def lockLoss (s : State) : State :=
  let lim : Nat := if s.syncSrc = 3 then 10000 else 200
  if s.timeState = tLocked ∧ lim < s.offset.natAbs then s.setTimeState tAcquire else s

/-- SOURCE_LOST (R476, R477). -/
def sourceLost (s : State) : State :=
  if s.timeState = tLocked then s.setTimeState (if s.setting 0x604 = 0 then tExpired else tHoldover)
  else if s.timeState = tAcquire then s.setTimeState tFreerun else s

/-- SOURCE_VALID (R476). -/
def sourceValid (s : State) : State :=
  if s.syncSrc ≠ 0 ∧ (s.timeState = tFreerun ∨ s.timeState = tHoldover ∨ s.timeState = tExpired) then s.setTimeState tAcquire
  else s

/-- HOLDOVER_EXPIRE (R476). -/
def holdExpire (s : State) : State := if s.timeState = tHoldover then s.setTimeState tExpired else s

/-- SYNC_SRC (R476, R481): another source or port starts from FREERUN. -/
def setSource (s : State) (src port : Nat) : State :=
  if s.syncSrc = src ∧ s.syncPort = port then s
  else ((s.wf TK_STAT.adr TK_STAT.SRC src).wf TK_STAT.adr TK_STAT.SRCPORT port).setTimeState tFreerun

/-- A new offset (R477), with the time-offset event beyond 1 µs (R479); `sec` is the master's seconds. -/
def setOffset (s : State) (o : Int) (sec : Nat) : State :=
  let c := clampTo 32 o
  let s1 := s.setReg TK_OFFSET.adr (wrapTo 32 c)
  if 1000 < o.natAbs then s1.raise 0x0B03 902 (wrapTo 32 c) (sec % 2 ^ 32) 0 else s1

/-- TIME_LOOP_UPDATE (R465, R479, R480, R511): y and W move within their limits; how far the loop moves them is not stated
(free values). -/
def loopUpdate (s : State) (freq : Option Int) : State :=
  let s0 := match freq with
    | some f => if s.syncSrc = 3 then s.setReg TK_OFFSET.adr (wrapTo 32 (clampTo 32 f)) else s
    | none => s
  if s0.timeState ≠ tAcquire ∧ s0.timeState ≠ tLocked then s0 else
    let (v, s1) := s0.draw 32
    let y : Int := ((v % 54975583 : Nat) : Int) - 27487791
    let s2 := { s1.setReg TK_FADJ.adr (wrapTo 32 y) with loopAt := s1.cyc }
    if s2.setting 0x602 = 0 then s2
    else
      -- at most 10 ppb per second
      let gain := (sgn 32 (s2.setting 0x603)).natAbs
      let d := 10000 * (s1.cyc - s.loopAt) / (gain * 10 ^ 9)
      let (u, s3) := s2.draw 24
      let w : Int := (s3.tuneWord : Int) + ((u % (2 * d + 1) : Nat) : Int) - d
      let s4 := s3.wf TK_EFCW.adr TK_EFCW.W (max 0 (min w 0xFFFFFF)).toNat
      upto 2 (fun c s =>
        if s.tkOwns c && !s.aoFault c && !s.safeMoving c && decide (s.aoCode c ≠ s.tuneCode c) then s.aoDirect c (s.tuneCode c)
        else s) s4

/-- TUNING_WORD_SAVE (R481, R549): the mean tuning word goes to the word of the ring after the newest. -/
def tuneSave (s : State) (w : Nat) : State :=
  if s.timeState ≠ tLocked then s else
    let (i, q) := match s.tune with
      | some (i, _, q) => ((i + 1) % 512, (q + 1) % 2 ^ 32)
      | none => (0, 0)
    let body := w % 2 ^ 24 + 2 ^ 24 * q
    { s.nvWrite (nvBase + 0x10000 + 8 * i) (leBytes 7 body ++ [Config.tuningCrc body]) with tune := some (i, w % 2 ^ 24, q) }

/-! ### Captures -/

/-- CAPTURE_STROBE (R472, R473): the strobe takes the smallest handler position that is free, or is lost. -/
def captureStrobe (s : State) (src : Nat) : State :=
  let eth := src < 12 || (16 ≤ src && src < 28)
  let seq := if eth then (sget s.capSeq src 0 + 1) % 256 else 0
  let s1 := if eth then { s with capSeq := sput s.capSeq src seq 0 } else s
  let pos := (s.capEnd - (s.cyc + 24) + 15) / 16
  if 8 ≤ pos then (s1.incSat TK_DROP.adr TK_DROP.LOST 1).raise 0x0B01 902 src seq 0
  else { s1 with strobes := s1.strobes ++ [⟨src, seq, pos, s.cyc⟩], capEnd := s.cyc + 24 + 16 * pos + 16 }

/-- The whole second nearest to an instant, in ns. -/
def nearestSecond (x : Int) : Int := (x + 500000000) / 1000000000 * 1000000000

/-- CAPTURE_HANDLER (R470, R474, R477, R495): the handler of the oldest strobe runs. It reads TK_NS 24 + 16 × POS cycles after the
strobe. Captures of PPS_IN and of the Carriage ports are used at once; those of Ethernet ports wait in the log for
their frame (log entry 12). -/
def captureHandler (s : State) : State := match s.strobes with
  | [] => s
  | st :: rest =>
    let s1 := { s with strobes := rest }
    let v := wrapTo 32 ((s.tkns : Int) - ((s.cyc : Int) - ((st.cyc : Int) + 24 + 16 * st.pos)))
    let k := s1.capK st.src
    let c := wrapTo 32 ((v : Int) - 24 - 16 * st.pos - k)
    let e := s1.extend c
    if 256 ≤ s1.capLog.length then
      (s1.incSat TK_DROP.adr TK_DROP.LOST 1).raise 0x0B01 902 st.src st.seq 0
    else if st.src = 32 then
      let s2 := (s1.wf TK_PPSCAP.adr TK_PPSCAP.C c).wf TK_PPSCAP.adr TK_PPSCAP.VALID 1
      if s2.syncSrc = 2 then
        let off := sgn 32 (s2.setting 0x605)
        s2.setOffset (e - (nearestSecond (e - off) + off)) 0
      else s2
    else if 40 ≤ st.src then s1
    else { s1 with capLog := s1.capLog ++ [⟨st.src, st.seq, c, e⟩] }

/-- Takes the capture of source `src` and CAPSEQ `seq` from the log (R472). -/
def takeCapture (s : State) (src seq : Nat) : Option Int × State :=
  match s.capLog.find? fun c => c.src = src && c.seq = seq with
  | none => (none, s)
  | some c => (some c.ext, { s with capLog := ldrop1 (fun x => x.src = src && x.seq = seq) s.capLog })

/-! ### PPS_OUT and event inputs -/

/-- Whether PPS_OUT runs (R488). -/
def ppsRuns (s : State) : Bool :=
  s.extSet && (s.setting 0x607 = 0 || s.timeState = tLocked || s.timeState = tHoldover || s.timeState = tExpired)

/-- PPS_OUT_RISE (R484, R488): at a whole second plus PPSOUT_OFF, late by at most 1 µs. -/
def ppsRise (s : State) : State :=
  let ph := ((s.ext : Int) - sgn 32 (s.setting 0x606)) % 1000000000
  if s.ppsRuns ∧ ph ≤ 1000 ∧ !s.ppsHigh then { s.emit (.pin 0 true) with ppsHigh := true } else s

/-- PPS_OUT_FALL (R488). -/
def ppsFall (s : State) : State := if s.ppsHigh then { s.emit (.pin 0 false) with ppsHigh := false } else s

/-- TK_EVENT_INPUT (R489): `n` pulses are delivered to event input `i`. -/
def evin (s : State) (i n : Nat) : State :=
  (s.incWrap (TK_EVIN.adr i) TK_EVIN.COUNT n).wf (TK_EVIN.adr i) TK_EVIN.STAMP s.tkns

/-! ### PTP (R490 to R492) -/

def ptpOf (s : State) (p : Nat) : Ptp := sget s.ptp p Ptp.reset
def setPtp (s : State) (p : Nat) (v : Ptp) : State := { s with ptp := sput s.ptp p v Ptp.reset }

/-- Whether a port is the one that SYNC_SRC = 1 names. -/
def ptpNamed (s : State) (p : Nat) : Bool := s.syncSrc = 1 && s.syncPort = p

/-- The PTP state of a port (R491): 0 DISABLED, 1 LISTENING, 2 SLAVE, 3 PASSIVE, 4 MASTER. -/
def ptpState (s : State) (p : Nat) : Nat :=
  let t := s.ptpOf p
  match t.role with
  | 0 => 0
  | 1 => if s.ptpNamed p then (if t.heard then 2 else 1) else 3
  | 2 => 4
  | _ => if s.ptpNamed p then (if t.heard then 2 else 1) else 4

/-- Whether a port takes part as a slave: it measures. -/
def ptpListens (s : State) (p : Nat) : Bool := s.ptpState p = 1 || s.ptpState p = 2 || s.ptpState p = 3

/-- ANNOUNCE_RECEIVE (R491): a port becomes SLAVE; a change of parent raises its event. -/
def announce (s : State) (p domain gm cls removed : Nat) : State :=
  let t := s.ptpOf p
  if domain ≠ t.domain ∨ !s.ptpListens p then s else
    let change := t.heard = false ∨ t.gm ≠ gm ∨ t.cls ≠ cls
    let s1 := s.setPtp p { t with heard := true, gm := gm, cls := cls, removed := removed }
    if change ∧ (s1.ptpState p = 2 ∨ s1.ptpState p = 3) then
      s1.raise 0x0B04 902 (gm % 2 ^ 32) (gm >>> 32) (cls + 256 * p + 65536 * removed)
    else s1

/-- SYNC_RECEIVE (R477): t2 is the capture of the Sync; a one-step Sync carries t1. -/
def syncReceive (s : State) (p domain seq : Nat) (t1 : Option Int) (corr : Int) : State :=
  if domain ≠ (s.ptpOf p).domain ∨ !s.ptpListens p then s else
    let (t2, s1) := s.takeCapture p seq
    s1.setPtp p { s1.ptpOf p with t1 := t1, t2 := t2, corr := corr }

/-- FOLLOW_UP_RECEIVE (R477): t1. -/
def followUp (s : State) (p domain : Nat) (t1 corr : Int) : State :=
  let t := s.ptpOf p
  if domain ≠ t.domain ∨ !s.ptpListens p ∨ t.t2.isNone then s
  else s.setPtp p { t with t1 := some t1, corr := t.corr + corr }

/-- DELAY_RESP_RECEIVE (R477): t4 completes the offset ((t2 − t1) − (t4 − t3)) ÷ 2 with the correction fields and ASYM;
which way a fraction rounds is not stated (free value). -/
def delayResp (s : State) (p domain : Nat) (t4 corr : Int) : State :=
  let t := s.ptpOf p
  if domain ≠ t.domain ∨ !s.ptpListens p then s else
    match t.t1, t.t2, t.t3 with
    | some t1, some t2, some t3 =>
      -- in 2^-16 ns; the master's corrections lengthen t1 and shorten t4
      let a := 65536 * (t2 - t1) - t.corr
      let b := 65536 * (t4 - t3) - corr
      let x := a - b - 65536 * sgn 32 (s.setting (0x610 + p))
      let (r, s1) := s.draw 1
      let o := if x % 131072 = 0 then x / 131072 else x / 131072 + (r : Int)
      let s2 := s1.setPtp p { t with t3 := none }
      if s2.ptpNamed p then s2.setOffset o (t1 / 1000000000).toNat else s2
    | _, _, _ => s

/-- The clock fields of a port's Announce (R492): clockClass, identity, stepsRemoved; none: the module's own identity. -/
def announceFields (s : State) : Nat × Option Nat × Nat :=
  let parent := s.ptpOf s.syncPort
  if s.timeState = tLocked ∧ s.syncSrc = 1 then (parent.cls, some parent.gm, parent.removed + 1)
  else if s.timeState = tLocked ∧ s.syncSrc = 2 then (6, none, 0)
  else if s.timeState = tHoldover then (135, none, 0)
  else if s.timeState = tExpired then (165, none, 0)
  else (248, none, 0)

/-- Whether a port sends as a master: MASTER, with extended time set (R468, R492). -/
def ptpMaster (s : State) (p : Nat) : Bool := s.ptpState p = 4 && s.extSet

/-- PTP_ANNOUNCE_SEND (R492): domain, clockClass, 1 and the grandmaster identity or 0 and 0 for its own, stepsRemoved,
currentUtcOffset and whether it is valid. -/
def announceSend (s : State) (p : Nat) : State :=
  if !s.ptpMaster p then s else
    let (c, g, r) := s.announceFields
    let gi : List Int := match g with
      | some g => [1, g]
      | none => [0, 0]
    s.emit (.ptp p 11 ([((s.ptpOf p).domain : Int), c] ++ gi ++ [(r : Int), s.taiUtc, b2n s.utcSet]))

/-- PTP_SYNC_SEND (R486, R492): domain, and the timestamp: in a one-step Sync the extended time of the launch plus |K|,
else 0, followed by a Follow_Up that carries the transmit capture. -/
def syncSend (s : State) (p : Nat) : State :=
  if !s.ptpMaster p then s else
    let t := s.ptpOf p
    let t1 : Int := (s.ext : Int) + (s.capK (16 + p)).natAbs
    if t.twoStep then (s.emit (.ptp p 0 [t.domain, 0])).emit (.ptp p 8 [t.domain, t1])
    else s.emit (.ptp p 0 [t.domain, t1])

/-- PTP_DELAY_REQ_SEND (R486, R490): a slave port's Delay_Req; its timestamp is t3. -/
def delayReqSend (s : State) (p : Nat) : State :=
  if s.ptpState p ≠ 2 ∧ s.ptpState p ≠ 3 then s else
    let t := s.ptpOf p
    let t3 : Int := (s.ext : Int) + (s.capK (16 + p)).natAbs
    (s.emit (.ptp p 1 [t.domain, t3])).setPtp p { t with t3 := some t3 }

/-- DELAY_REQ_RECEIVE (R492): a MASTER answers with a Delay_Resp that carries the receive capture: domain, requester,
timestamp. -/
def delayReq (s : State) (p domain seq requester : Nat) : State :=
  if domain ≠ (s.ptpOf p).domain ∨ !s.ptpMaster p then s else
    match s.takeCapture p seq with
    | (some t4, s1) => s1.emit (.ptp p 9 [domain, requester, t4])
    | (none, s1) => s1

end State

end Sys2Proof.Machine
end

