-- ==== Sys2Proof/Machine/Bus.lean ====
section
/-! DEFINITION. What a request does at its target: reads and writes of memory, registers, write ports and windows, by
any source (R62 to R66, R641). -/

namespace Sys2Proof.Machine

/-- The bit mask of a byte mask of `n` bytes. -/
def byteMask (n en : Nat) : Nat :=
  (List.range n).foldl (fun m i => if bit en i then m + 0xFF * 2 ^ (8 * i) else m) 0

/-- The mask of the bits of a register that belong to fields of the given type. -/
def RegRow.tyMask (r : RegRow) (t : FieldTy) : Nat :=
  r.fields.foldl (fun m f => if f.ty = t then m ||| ((2 ^ f.len - 1) * 2 ^ f.lo) else m) 0

/-- The address of the first word of a register, from its indices. -/
def RegRow.addr (r : RegRow) (ix : List Nat) : Nat :=
  r.base + ((r.dims.zip ix).map fun (d, i) => d.1 * i).sum

/-- `old` with the bits of mask `m` taken from `v`. -/
def mergeMask (old v m : Nat) : Nat := (old ||| m) - m + (v &&& m)

/-- Bytes at rising addresses, grouped into runs of adjacent addresses. -/
def byteRuns (items : List (Nat × Byte)) : List (Nat × List Byte) :=
  items.foldr (fun e rs => match rs with
    | (a, bs) :: rest => if e.1 + 1 = a then (e.1, e.2 :: bs) :: rest else (e.1, [e.2]) :: rs
    | [] => [(e.1, [e.2])]) []

namespace State

/-! ### Registers -/

/-- The whole register at address `a`, of `w` words. -/
def regWide (s : State) (a w : Nat) : Nat := if w = 2 then s.reg a + 2 ^ 32 * s.reg (a + 4) else s.reg a

def setRegWide (s : State) (a w v : Nat) : State :=
  if w = 2 then (s.setReg a (v % 2 ^ 32)).setReg (a + 4) (v >>> 32) else s.setReg a v

/-- A write of a register under the field types of R10 and the byte enables of R641, for a register without an effect of
its own. -/
def plainWrite (s : State) (src a : Nat) (r : RegRow) (v en : Nat) : State :=
  let m := byteMask (4 * r.words) en
  let old := s.regWide a r.words
  let v1 := mergeMask old v (r.tyMask .rw &&& m)
  let clr := v &&& m &&& r.tyMask .w1c
  let v2 := (v1 ||| clr) - clr
  let lockBits := r.tyMask .rwl &&& m
  if lockBits = 0 then s.setRegWide a r.words v2
  else if bit old 31 then (s.setRegWide a r.words v2).raise 0x0107 (708 + (islandAt s.ddrGiB a).getD 34) (a % 2 ^ 32) (a >>> 32) src
  else s.setRegWide a r.words (mergeMask v2 v lockBits)

/-- A write that reaches the register of row `r` at indices `ix`. -/
def regWrite (s : State) (src : Nat) (r : RegRow) (ix : List Nat) (v en : Nat) : State :=
  let a := r.addr ix
  let i := ix.getD 0 0
  let j := ix.getD 1 0
  let k := ix.getD 2 0
  let b := if r.dims.length = 2 then i else 24
  let ch := if r.dims.length = 2 then j else i
  let merged := mergeMask (s.regWide a r.words) v (byteMask (4 * r.words) en)
  match r.name with
  | .PT_RINGBASE => s.ptBaseWrite b ch merged
  | .PT_RINGLEN => s.ptLenWrite b ch merged
  | .PT_TAIL => s.ptTailWrite b ch merged
  | .PT_CHCTL => s.ptCtlWrite b ch (mergeMask (s.reg a) v (byteMask 4 en))
  | .LN_RXGRP => s.rxGrpWrite i j merged
  | .LN_PORTCFG =>
    (s.plainWrite src a r v en).portCfgSync i (s.reg a)
  | .LN_LANECFG => (s.plainWrite src a r v en).laneCfgSync i
  | .AO_CHSTAT =>
    -- whether the fault condition still holds is the board's (log entry 1)
    if bit en 3 && bit v 31 then let (h, s1) := s.draw 1; s1.aoFaultClear i (h = 1) else s
  | .PW_ALARM => if src = 40 then (s.setReg a merged).aonSend else s
  | .PW_RSTCAUSE => if bit en 3 && bit v 31 then (s.plainWrite src a r v en).aonSend else s
  | .HUB_ECCCTL => if bit en 3 && bit v 31 then s.eccClear i else s
  | .HUB_SQBASE => if s.ringEn i then s.ringError i 3 (v % 2 ^ 32) else s.plainWrite src a r v en
  | .HUB_CQBASE => if s.ringEn i then s.ringError i 3 (v % 2 ^ 32) else s.plainWrite src a r v en
  | .HUB_RINGCTL => s.ringCtlWrite i (mergeMask (s.reg a) v (byteMask 4 en))
  | .CX_BIND =>
    -- a write that still waits is what later bytes are written into
    s.bindWrite i j k (mergeMask ((sget (s.cop i j).bind k none).getD (s.reg a)) v (byteMask 4 en))
  | .INK_FLOW => s.flowWrite i j v (bit en 3) (bit en 0) (bit en 1)
  | .INK_UNIT => if bit en 3 && bit v 31 then s.unitRecovered i j 3 else s
  | .TP_XSTAT =>
    let s1 := s.plainWrite src a r v en
    -- the captured error clears with the last flag (R55)
    if bits (s1.reg a) 0 2 = 0 ∧ bits (s1.reg a) 3 1 = 0 then
      ((s1.wf a TP_XSTAT.FIRST_CAUSE 0).wf a TP_XSTAT.FIRST_KIND 0).wf a TP_XSTAT.FIRST_IDX 0
    else s1
  | _ => s.plainWrite src a r v en

/-- What a read of the register word at address `a` returns: the stored word, except where it presents state held
elsewhere (R10, R66). -/
def regRead (s : State) (a : Nat) : Nat :=
  match regFind a with
  | none => 0
  | some (r, ix, w) =>
    let i := ix.getD 0 0
    match r.name with
    | .TP_XSTAT => setBits (s.reg a) 4 1 (b2n (s.islIso i))
    | .TK_NS => s.tkns
    | .TK_CAL => wrapTo 16 (s.capK i)
    | .GB_OLDEST => s.gbOldest
    -- as it stands once the decrements that wait have been applied (R220)
    | .INK_CTR => ((s.ink i).decq.foldl (fun s e => s.applyOp i e.1 e.2) s).reg a
    -- a binding that waits for its context is read as written (R65, R173)
    | .CX_BIND => (sget (s.cop i (ix.getD 1 0)).bind (ix.getD 2 0) none).getD (s.reg a)
    | _ => if w = 1 then s.reg a else s.reg a - (s.reg a &&& r.tyMask .wo)

/-! ### Write ports and windows -/

/-- An off unit inside an island answers for its memories and windows as R523 states: the island that answers. -/
def unitAsleep (s : State) (a : Nat) : Option Nat :=
  if 0x100000000 ≤ a ∧ a < 0x100000000 + 192 * 0x100000 then
    let n := (a - 0x100000000) / 0x100000
    if s.domOn (11 * (n / 8) + 1 + n % 8) then none else some (n / 8)
  else if 0x200000000 ≤ a ∧ a < 0x200000000 + 24 * 0x1000000 ∧ 0x800000 ≤ a % 0x1000000 ∧ a % 0x1000000 < 0x810000 then
    let k := (a - 0x200000000) / 0x1000000
    let o := a % 0x1000000 - 0x800000
    let u : Option Nat :=
      if o < 0x2000 then some (o / 0x400 % 2)
      else if 0x2000 ≤ o ∧ o < 0x2080 then some (bits o 6 1)
      else if 0x8000 ≤ o then some (o / 0x4000 % 2) else none
    match u with
    | some u => if s.domOn (copDom k u) then none else some k
    | none => none
  else none

/-- A unit of an island answers a request at its memories and windows: off, as R523 states; stopped after a fault, as a dead
target (R20), which no TP_ABSORB counts, since no island is dead (DEDUCED, log entry 23). -/
def unitRefuses (s : State) (src tag a : Nat) : Option (Nat × Nat × State) :=
  match s.unitAsleep a with
  | some i => some (stAsleep, i, s.asleepAnswer i i src tag a)
  | none =>
    let n := (a - 0x100000000) / 0x100000
    if 0x100000000 ≤ a ∧ n < 192 ∧ (s.core n).run = .stopped then
      some (stDead, n / 8, s.errCapture stDead src (n / 8) tag a)
    else none

/-- Whether every byte of `lo` to `lo + n - 1` is enabled. -/
def allEn (en lo n : Nat) : Bool := (List.range n).all fun i => bit en (lo + i)

/-- Whether some byte of `lo` to `lo + n - 1` is enabled. -/
def anyEn (en lo n : Nat) : Bool := (List.range n).any fun i => bit en (lo + i)

/-- The words of the enabled bytes of a line, from byte `lo`. -/
def enVal (en data lo n : Nat) : Nat := bits data (8 * lo) (8 * n) &&& byteMask n (en >>> lo)

/-- The completion notice that cluster `k` writes to the completion intake of the issuing cluster (R156); it reaches
the cluster unless the network stops it, and is ignored where that cluster has been reset since the command (R174). -/
def sendNotice (s : State) (k u n d tag detail addr : Nat) (stale : Bool) : State :=
  let (t, s0) := s.draw 8
  match s0.gate k t (0x2100 + cxBase (n / 8)) with
  | (some _, _, s1) => s1
  | (none, _, s1) => if stale then s1 else s1.intakeNotice (n / 8) k u n d tag k detail addr

/-- A write to the command intake of unit `u` of cluster `k` (R154); the notice of a failed binding goes back by R156. -/
def portCommand (s : State) (k u src data : Nat) : State :=
  let words := leWords 4 data
  let n := bits data 128 8
  let d := bits data 136 2
  let (unbound, s1) := s.intakeCommand k u src n d words
  if unbound ∧ n < 192 then s1.sendNotice k u n d (cmdTag words) 3 (cxBase k) false else s1

/-- A write to the completion intake of cluster `k` (R156): core, depth, tag, unit, reason and target (log entry 7). -/
def portNotice (s : State) (k src data : Nat) : State :=
  s.intakeNotice k src (bits data 16 1) (bits data 0 8) (bits data 8 2) (bits data 12 4) (bits data 24 5) (bits data 32 8)
    (bits data 48 48)

/-- The CX block of cluster `k`: intakes and context windows (R154, R156, R159). -/
def cxLine (s : State) (k src o : Nat) (en data : Nat) : State :=
  if o = 0x2000 ∨ o = 0x2040 then
    let u := bits o 6 1
    if allEn en 0 20 then s.portCommand k u src data
    else if 24 ≤ src && anyEn en 0 20 then s.raise 0x0202 (192 + 2 * k + u) src o 0 else s
  else if o = 0x2100 then
    if allEn en 0 12 then s.portNotice k src data
    else if 24 ≤ src && anyEn en 0 12 then s.raise 0x0202 (192 + 2 * k) src o 0 else s
  else if 0x8000 ≤ o then
    let u := bits o 14 1
    let ctx := 32 + bits o 11 3
    let n := bits o 6 5
    if en = 0 then s else
      (s.crMerge k u ctx n en data).hazard k u ctx n
  else s

/-- The registers of a line of which `p` holds, in ascending order (R641). -/
def regsPass (s : State) (p : RegRow → Bool) (src line en data : Nat) : State :=
  upto 16 (fun w s =>
    match regFind (line + 4 * w) with
    | some (r, ix, 0) =>
      let n := 4 * r.words
      if p r && anyEn en (4 * w) n then s.regWrite src r ix (bits data (32 * w) (8 * n)) (bits en (4 * w) n) else s
    | _ => s) s

/-- Whether a register holds flags that a write clears, and nothing that a write stores. -/
def flagsOnly (r : RegRow) : Bool := r.tyMask .w1c ≠ 0 && r.tyMask .rw = 0

/-- The registers of a line, in ascending order (R641). Flags that the write clears are cleared before its other effects, so that a
flag which those set ends set (R11). -/
def regsLine (s : State) (src line en data : Nat) : State :=
  (s.regsPass flagsOnly src line en data).regsPass (fun r => !flagsOnly r) src line en data

/-- RA_INTAKE (R266): the engines whose 8 bytes the write enables. -/
def raIntakeLine (s : State) (r src line en data : Nat) : State :=
  upto 8 (fun i s =>
    let e := (line % 0x1000000 - 0x801000) / 8 + i
    if 12 ≤ e then s
    else if allEn en (8 * i) 8 then s.intakeJob r e src (bits data (64 * i) 48)
    else if src ≠ 28 + r ∧ anyEn en (8 * i) 8 then s.raise 0x0404 (engSrc r e) src 0 0 else s) s

/-- HUB_EGRESS (R333): one post of 16 bytes, from the slices only. -/
def egressPort (s : State) (src : Nat) (k : WrKind) (en data : Nat) : State :=
  let post := leBytes 16 data
  if 28 ≤ src ∧ src ≤ 31 then
    if k ≠ .burst ∧ allEn en 0 16 then { s with egress := s.egress ++ [post] } else s
  else if anyEn en 0 16 then s.raise 0x0605 901 (fieldAt post 8 2) (fieldAt post 10 2) 0xFFFF else s

/-- The write ports and registers of an Ethernet port (R423, R428, R431, R641). -/
def ethLine (s : State) (src p o line en data : Nat) : State :=
  if 0x1000 ≤ o ∧ o < 0x1080 then
    upto 4 (fun i s =>
      let q := (o - 0x1000) / 0x10 + i
      if allEn en (16 * i) 16 then s.txEntry p q (leBytes 16 (data >>> (128 * i)))
      else if anyEn en (16 * i) 16 then s.txEntryEvent p q 1 (bits (enVal en data (16 * i + 4) 1) 0 4) else s) s
  else if 0x3000 ≤ o ∧ o < 0x3100 then
    upto 8 (fun i s =>
      let g := (o - 0x3000) / 8 + i
      if g < 31 ∧ allEn en (8 * i) 8 ∧ bits data (64 * i + 56) 8 = 0 then
        s.rxArm p g (bits data (64 * i) 32) (bits data (64 * i + 32) 24) else s) s
  else if o = 0x3400 then
    if allEn en 0 4 ∧ bits data 5 27 = 0 then s.rxConsume p (bits data 0 5) else s
  else s.regsLine src line en data

/-- The write ports, push slots and transmit buffers of a Carriage port (R446, R450, R451, R453, R464, R641). -/
def cpLine (s : State) (src p o line en data : Nat) : State :=
  let bytes (n lo : Nat) : List (Nat × Byte) := (List.range n).filterMap fun i =>
    if bit en (lo + i) then some (i, BitVec.ofNat 8 (data >>> (8 * (lo + i)))) else none
  if o = 0x200 then
    let port (s : State) (lo n off : Nat) (f : State → State) : State :=
      if allEn en lo n then f s else if anyEn en lo n then s.cpBad p off else s
    let s1 := port s 0 8 0x200 fun s => s.ulArm p (bits data 0 64)
    let s2 := port s1 8 8 0x208 fun s => s.swqWrite p (bits data 64 64)
    let s3 := port s2 16 16 0x210 fun s => s.mtxEntry p (leBytes 16 (data >>> 128))
    port s3 32 4 0x220 fun s => s.mrxConsume p
  else if o < 0x10000 then s.regsLine src line en data
  else if o < 0x20000 then
    (bytes 64 0).foldl (fun s x =>
      s.setCp p { s.cp p with slots := sput (s.cp p).slots (o - 0x10000 + x.1) x.2 0 }) s
  else if 0x80000 ≤ o ∧ o < 0x100000 then
    upto 16 (fun i s =>
      let items := bytes 4 (4 * i)
      if items.isEmpty then s else s.sampleWrite p ((o - 0x80000) / 0x20000) ((o % 0x20000) / 4 + i) items) s
  else s

/-- A write to a line of registers or write ports of the target. HUB_SQDB and HUB_CQDB act on a write that enables the two bytes of
their INDEX (DESIGN CHOICE, log entry 11: their chapter does not say which bytes they take). -/
def devLine (s : State) (src line : Nat) (k : WrKind) (en data : Nat) : State :=
  if 0x200000000 ≤ line ∧ line < 0x200000000 + 24 * 0x1000000 ∧ line % 0x1000000 < 0x810000 then
    let c := (line - 0x200000000) / 0x1000000
    let o := line % 0x1000000 - 0x800000
    if 0x2000 ≤ o then s.cxLine c src o en data else s.regsLine src line en data
  else if 0x300000000 ≤ line ∧ line < 0x300000000 + 4 * 0x1000000 then
    let r := (line - 0x300000000) / 0x1000000
    let o := line % 0x1000000
    if o = 0xC01000 then
      if en = 0 then s else s.submit r src (k = .whole) (leWords 16 data)
    else if o = 0xC01040 then
      if allEn en 0 4 then s.decrWord r (bits data 0 32)
      else if anyEn en 0 4 then s.decrBad r (enVal en data 0 4) else s
    else if o = 0x801000 ∨ o = 0x801040 then s.raIntakeLine r src line en data
    else s.regsLine src line en data
  else if 0x110000 ≤ line ∧ line < 0x120000 ∧ line % 0x1000 = 0 then
    let n := (line - 0x110000) / 0x1000
    let s1 := if allEn en 0 2 then s.sqDoorbell n (bits data 0 16) else s
    if allEn en 4 2 then s1.cqDoorbell n (bits data 32 16) else s1
  else if line = 0x120000 then s.egressPort src k en data
  else if line = 0x2000300 then
    let s1 := if anyEn en 0 8 then s.aoStepWrite src (allEn en 0 8) (bits data 0 64) else s
    s1.regsLine src line en data
  else if 0x6100000 ≤ line ∧ line < 0x61C0000 then
    s.ethLine src ((line - 0x6100000) / 0x10000) (line % 0x10000) line en data
  else match ethWinOf line with
  | some (p, o) =>
    if o < 0x40000 then
      upto 64 (fun i s => if bit en i then s.slotByte p (o + i) (BitVec.ofNat 8 (data >>> (8 * i))) else s) s
    else s
  | none => match cpOf line with
  | some (p, o) => s.cpLine src p o line en data
  | none => s.regsLine src line en data

/-! ### Requests -/

/-- The bytes that the host returns to a read of the module: those the command carries, then free bytes. -/
def hostBytes (s : State) (n : Nat) : List Byte × State :=
  let have_ := s.hostIn.take n
  let (rest, s1) := s.drawBytes (n - have_.length)
  (have_ ++ rest, { s1 with hostIn := s1.hostIn.drop n })

/-- A read of `n` bytes within one line that its target takes: STATUS and data. -/
def targetRead (s : State) (a n : Nat) : Nat × List Byte × State :=
  if 0x800000000000 ≤ a then
    if !s.hostUp then (stHostError, List.replicate n 0xFF, s.hostLinkEvent s.hostDownCause a)
    else if s.hostFail then
      (stHostError, List.replicate n 0xFF, (s.emit (.hostRead (a - 0x800000000000))).hostLinkEvent 1 a)
    else
      let (d, s1) := (s.emit (.hostRead (a - 0x800000000000))).hostBytes n
      (stOk, d, s1)
  else if nvBase ≤ a ∧ a < nvBase + 0x10000 then
    -- the control area, whose layout the spec does not give (log entry 5)
    let (ok, _, s0) := s.memLoad a n
    let (d, s1) := s0.drawBytes n
    if ok then (stOk, d, s1) else (stDataError, List.replicate n 0xFF, s1)
  else if 0x3100000 ≤ a ∧ a < 0x3140000 then (stOk, s.gbView (a - 0x3100000) n, s)
  else match memLoc s.ddrGiB a with
    | some _ =>
      let (ok, d, s1) := s.memLoad a n
      if ok then (stOk, d, s1) else (stDataError, List.replicate n 0xFF, s1)
    | none => match ethWinOf a with
    | some (p, o) =>
      if o < 0x40000 then let (d, s1) := s.drawBytes n; (stOk, d, s1)
      else
        let (ok, d, s1) := s.viewLine p (o / 64 * 64)
        (if ok then stOk else stDataError, (d.drop (o % 64)).take n, s1)
    | none => match (cpOf a).filter fun x => 0x10000 ≤ x.2 with
    | some (p, o) =>
      if o < 0x20000 then let (d, s1) := s.drawBytes n; (stOk, d, s1)
      else (stOk, (List.range n).map fun i => s.cpByte p (o + i), s)
    | none =>
      let line := a / 64 * 64
      if 0x200000000 ≤ a ∧ a < 0x200000000 + 24 * 0x1000000 ∧ 0x808000 ≤ a % 0x1000000 ∧ a % 0x1000000 < 0x810000 then
        let c := (a - 0x200000000) / 0x1000000
        let o := line % 0x1000000 - 0x800000
        let u := bits o 14 1
        let ctx := 32 + bits o 11 3
        let r := bits o 6 5
        let (ok, s1) := (s.hazard c u ctx r).crDecode c u ctx r
        if ok then (stOk, ((leBytes 64 (s.getCR c u ctx r).toNat).drop (a - line)).take n, s1)
        else (stDataError, List.replicate n 0xFF, s1)
      else
        let ws := (List.range 16).flatMap fun w => leBytes 4 (s.regRead (line + 4 * w))
        (stOk, (ws.drop (a - line)).take n, s)

/-- A request to read `n` bytes within one line: STATUS, answering island, data. -/
def lineRead (s : State) (src tag a n : Nat) : Nat × Nat × List Byte × State :=
  let poison := List.replicate n (0xFF : Byte)
  match s.gate src tag a with
  | (some (st, i), _, s1) => (st, i, poison, s1)
  | (none, t, s1) =>
    match s1.unitRefuses src tag a with
    | some (st, i, s2) => (st, i, poison, s2)
    | none =>
      -- a READ returns its whole line (R63); of a line of host memory, the bytes asked for
      if 0x800000000000 ≤ a then
        let (st, d, s2) := s1.targetRead a n
        (st, t, d, s2)
      else
        let (st, d, s2) := s1.targetRead (a / 64 * 64) 64
        (st, t, (d.drop (a % 64)).take n, s2)

/-- Offset of INK_DECR in slice `r`'s block, as an address. -/
def inkDecrLine (r : Nat) : Nat := 0x300C01040 + 0x1000000 * r

/-- Whether slice `r`'s bridge holds a write (R69, R212): one of INK_DECR that finds no free entry, or one behind another that needs an
entry, and every write of a source that has one held. -/
def mustHold (s : State) (r src line en data : Nat) : Bool :=
  let k := s.ink r
  k.held.any (fun h => h.src = src) ||
    (line = inkDecrLine r && allEn en 0 4 && s.decrNeeds r (bits data 0 32) && (decide (128 ≤ k.decq.length) || !k.held.isEmpty))

/-- INK_DECR_HELD (R212): the write held longest in the bridge has its effect, once an entry is free if it needs one, and is answered
where its request waits. -/
def heldTake (s : State) (r : Nat) : State :=
  let k := s.ink r
  match k.held with
  | [] => s
  | h :: hs =>
    if needs s h && 128 ≤ k.decq.length then s
    else
      let s1 := ((s.setInk r { k with held := hs }).devLine h.src h.line h.kind h.en h.data).inkSync r
      match h.answer with
      | none => s1
      | some a => if s1.outst.any (fun q => q.src = h.src && q.tag = h.tag && q.addr / 64 = a / 64)
        then s1.respond h.src h.tag a stOk (28 + r) [] else s1
  where
    needs (s : State) (h : HeldWr) : Bool := h.line = inkDecrLine r && allEn h.en 0 4 && s.decrNeeds r (bits h.data 0 32)

/-- A request that its target has taken and not answered stays outstanding at island `i`. -/
def withhold (s : State) (src tag a i : Nat) : State :=
  if s.outst.any (fun q => q.src = src && q.tag = tag && q.addr / 64 = a / 64) then s
  else { s with outst := s.outst ++ [⟨i, src, tag, a, true, none, []⟩] }

/-- Transmit entries that no port has taken (R533). -/
def heldTx (s : State) : List HeldTx := match s.sleep with
  | some sl => sl.held
  | none => []

/-- The answer to a write (R63, R65): withheld while the write, begun in state `s0`, is itself held in the bridge of the slice that
answers (R212), or has written a transmit entry that its port does not take yet (R422, R533). -/
def answerWrite (s0 s : State) (src tag a st i : Nat) : State :=
  let r := i - 28
  let held := (s.ink r).held
  if st = stOk ∧ 28 ≤ i ∧ i < 32 ∧ (s0.ink r).held.length < held.length then
    (s.setInk r { s.ink r with held := held.dropLast ++ (held.getLast?.map fun h => { h with answer := some a }).toList }).withhold
      src tag a i
  else match s.sleep with
  | some sl =>
    if st = stOk ∧ s0.heldTx.length < sl.held.length then
      let hs := sl.held.dropLast ++ (sl.held.getLast?.map fun x => { x with answer := some (src, tag, a) }).toList
      { s with sleep := some { sl with held := hs } }.withhold src tag a i
    else s.respond src tag a st i []
  | none => s.respond src tag a st i []

/-- Whether a request waits behind a write of its source that a slice's bridge holds (R69). -/
def behindHeld (s : State) (src a : Nat) : Bool :=
  match islandAt s.ddrGiB a with
  | some t => decide (28 ≤ t) && decide (t < 32) && (s.ink (t - 28)).held.any fun h => h.src = src
  | none => false

/-- Island `t` takes a write of the enabled bytes of the line at `line`: STATUS and answering island. -/
def takeWrite (s1 : State) (src tag t line : Nat) (k : WrKind) (en data : Nat) : Nat × Nat × State :=
  match s1.unitRefuses src tag line with
  | some (st, i, s2) => (st, i, s2)
  | none =>
    let items := lineItems line en data
    if 0x800000000000 ≤ line then
      if !s1.hostUp then (stHostError, t, s1.hostLinkEvent s1.hostDownCause line)
      else (stOk, t, (byteRuns items).foldl (fun s r => s.emit (.hostWrite (r.1 - 0x800000000000) r.2)) s1)
    else match memLoc s1.ddrGiB line with
      | some l =>
        if l.kind = 7 then
          if (nvArea line).any fun ar => nvWriter ar = src then
            (stOk, t, (items.map fun e => e.1 / 8 * 8).eraseDups.foldl (fun s w => s.nvCount w) (s1.memStore items))
          else (stDecodeError, t, s1.raise 0x0E01 922 src (line - nvBase) 0)
        else (stOk, t, s1.memStore items)
      | none =>
        if 28 ≤ t ∧ t < 32 ∧ s1.mustHold (t - 28) src line en data then
          let q := s1.ink (t - 28)
          (stOk, t, s1.setInk (t - 28) { q with held := q.held ++ [⟨src, tag, line, k, en, data, none⟩] })
        else (stOk, t, s1.devLine src line k en data)

/-- A request to write the enabled bytes of the line at `line`: STATUS and answering island. -/
def lineWrite (s : State) (src tag line : Nat) (k : WrKind) (en data : Nat) : Nat × Nat × State :=
  match s.gate src tag line with
  | (some (st, i), _, s1) => (st, i, s1)
  | (none, t, s1) => s1.takeWrite src tag t line k en data

/-- The pieces of `n` bytes from `a` within 64-byte lines: address and length of each. -/
def pieces : Nat → Nat → Nat → List (Nat × Nat)
  | 0, _, _ => []
  | fuel + 1, a, n =>
    if n = 0 then [] else
      let m := min n (64 - a % 64)
      (a, m) :: pieces fuel (a + m) (n - m)

/-- The requests that write `n` bytes from `a`: whole lines, and the parts of half lines (R63). -/
def reqPieces (a n : Nat) : List (Nat × Nat) :=
  (pieces (n / 64 + 2) a n).flatMap fun p =>
    let lo := 32 - p.1 % 64
    if p.2 = 64 ∨ 32 ≤ p.1 % 64 ∨ p.2 ≤ lo then [p] else [(p.1, lo), (p.1 + lo, p.2 - lo)]

/-- A module source reads `n` bytes: the first STATUS that is not OK with the address of its line, and the bytes. -/
def busRead (s : State) (src a n : Nat) : Option (Nat × Nat) × List Byte × State :=
  (pieces (n / 64 + 2) a n).foldl (fun (r : Option (Nat × Nat) × List Byte × State) p =>
    let (tag, s0) := r.2.2.draw 8
    let (st, _, d, s1) := s0.lineRead src tag p.1 p.2
    (if r.1.isNone && st ≠ stOk then some (st, p.1) else r.1, r.2.1 ++ d, s1)) (none, [], s)

/-- A module source writes the enabled bytes of a line: one WRITE when they fill it, else one WRITE_PART per half line
touched (R63, R124). The STATUS of each request that fails. -/
def storeLine (s : State) (src line en data : Nat) : List Nat × State :=
  let one (k : WrKind) (en : Nat) (r : List Nat × State) : List Nat × State :=
    if en = 0 then r else
      let (tag, s0) := r.2.draw 8
      let (st, _, s1) := s0.lineWrite src tag line k en data
      (if st = stOk then r.1 else r.1 ++ [st], s1)
  if bits en 0 64 = 2 ^ 64 - 1 then one .whole (2 ^ 64 - 1) ([], s)
  else one .part (bits en 32 32 * 2 ^ 32) (one .part (bits en 0 32) ([], s))

/-- A module source writes bytes, as the smallest set of WRITE and WRITE_PART requests (R124): the first STATUS that is
not OK with its address. -/
def busWrite (s : State) (src a : Nat) (bs : List Byte) : Option (Nat × Nat) × State :=
  (pieces (bs.length / 64 + 2) a bs.length).foldl (fun (r : Option (Nat × Nat) × State) p =>
    let o := p.1 % 64
    let chunk := (bs.drop (p.1 - a)).take p.2
    let (sts, s1) := r.2.storeLine src (p.1 - o) ((2 ^ p.2 - 1) * 2 ^ o) (leVal chunk * 2 ^ (8 * o))
    (if r.1.isNone then sts.head?.map fun st => (st, p.1) else r.1, s1)) (none, s)

end State

end Sys2Proof.Machine
end

