-- ==== Sys2Proof/Machine/Flags.lean ====
section
/-! DEFINITION. The flags of CSTAT and the saturating and rounding results that set them (R108, R111, R112), and the field
types of the control registers (R10). -/

namespace Sys2Proof.Machine

/-- Sets SAT of C0 when `b` holds; the flag is sticky (R112). -/
def setSat (r : Arch) (b : Bool) : Arch := if b then r.setC 0 (r.getC 0 ||| 1#32) else r

/-- Sets AOVF of C0 when `b` holds; the flag is sticky (R108, R109). -/
def setAovf (r : Arch) (b : Bool) : Arch := if b then r.setC 0 (r.getC 0 ||| 2#32) else r

/-- Whether a signed value lies outside `w` bits. -/
def exceeds (w : Nat) (i : Int) : Bool := clampTo w i ≠ i

/-- Round half up of x ÷ 2^sh (R111). -/
def roundShift (x : Int) (sh : Nat) : Int := if sh = 0 then x else (x + 2 ^ (sh - 1)) / 2 ^ sh

/-- Round half up of x ÷ 2^sh for a signed shift: a negative shift multiplies. -/
def roundScale (x : Int) (sh : Int) : Int := if 0 ≤ sh then roundShift x sh.toNat else x * 2 ^ (-sh).toNat

/-- The value that MTC of `v` leaves in control register `i` holding `old` (R10): W1C flags of C0 and C1, the RW fields
of C2, C5 and C6; C3, C4 and C7 ignore writes. -/
def mtcValue (i : Nat) (old v : Word) : Word :=
  match i with
  | 0 => old &&& ~~~(v &&& 3#32)
  | 1 => old &&& ~~~(v &&& 0x80000000#32)
  | 2 => v &&& 0x1FFF#32
  | 5 => v &&& 0x0FFF0FFF#32
  | 6 => v &&& 0x1FFF#32
  | _ => old

end Sys2Proof.Machine
end

