-- ==== Sys2Proof/Machine/VdcAlu.lean ====
section
/-! DEFINITION. What the vector, scalar, long-immediate and control operations of a bundle compute on the architectural
registers (R97, R99, R100, R108 to R120), with the fields each requires to be 0 (R101). -/

namespace Sys2Proof.Machine

/-- Where an operation runs: its core, the registers before the bundle issued (R93), the bundle's index, the repeat
iteration (R110, R118), whether it is inside a repeat and in its last iteration, C7.CYCLE, and the flags of C0 that other slots
of the bundle have set. -/
structure SlotCtx where
  core : Nat
  before : Arch
  pc : Nat
  k : Nat
  inRep : Bool
  last : Bool
  cycle : Nat
  raised : Word

/-- An operation of a slot: the registers it reads and writes, whether its encoding is legal (R101), and its effect. -/
structure SlotOp where
  reads : List Nat
  writes : List Nat
  legal : Bool
  run : SlotCtx → Arch → Arch

/-- The operation that does nothing. -/
def opNop (legal : Bool) : SlotOp := ⟨[], [], legal, fun _ r => r⟩

/-! ### Vector slot -/

/-- A lane-wise operation of Va and Vb into Vd. -/
def vLanes (d a b : Nat) (legal : Bool) (f : Half → Half → Half) : SlotOp :=
  ⟨[rV a, rV b], [rV d], legal, fun c r =>
    r.setV d (mkLanes fun i => (f (lane (c.before.getV a) i) (lane (c.before.getV b) i)).toNat)⟩

/-- A lane-wise operation of Va alone into Vd. -/
def vLanes1 (d a : Nat) (legal : Bool) (f : Half → Half) : SlotOp :=
  ⟨[rV a], [rV d], legal, fun c r => r.setV d (mkLanes fun i => (f (lane (c.before.getV a) i)).toNat)⟩

/-- A saturating lane-wise sum or difference into Vd, setting SAT when any lane is clamped (R112). -/
def vSat (d a b : Nat) (legal : Bool) (f : Int → Int → Int) : SlotOp :=
  ⟨[rV a, rV b], [rV d], legal, fun c r =>
    let y i := f (laneI (c.before.getV a) i) (laneI (c.before.getV b) i)
    setSat (r.setV d (mkLanes fun i => wrapTo 16 (clampTo 16 (y i)))) ((List.range 32).any fun i => exceeds 16 (y i))⟩

/-- Writes lane values to ACCd: `f` gives the exact new value of each lane; a result that wraps sets AOVF (R108). -/
def accWrite (r : Arch) (d : Nat) (f : Nat → Int) : Arch :=
  setAovf (r.setAcc d (mkAcc f)) ((List.range 32).any fun i => exceeds 40 (f i))

/-- A multiply operation on ACCd: `f old product` per lane (R108). -/
def vMul (d a b : Nat) (md : Nat) (f : Int → Int → Int) : SlotOp :=
  ⟨[rV a, rV b, rAcc (d % 4)], [rAcc (d % 4)], d < 4 ∧ md = 0, fun c r =>
    accWrite r d fun i => f (accI (c.before.getAcc d) i) (laneI (c.before.getV a) i * laneI (c.before.getV b) i)⟩

/-- VMACB (R110): every lane of Va by one lane of Vb. -/
def vMacb (d a b md : Nat) : SlotOp :=
  ⟨[rV a, rV b, rAcc (d % 4)], [rAcc (d % 4)], d < 4, fun c r =>
    let l := if bit md 5 then (md % 32 + c.k) % 32 else md % 32
    accWrite r d fun i => accI (c.before.getAcc d) i + laneI (c.before.getV a) i * laneI (c.before.getV b) l⟩

/-- Complex products of one half (R109), written to or added to ACCd. -/
def vComplex (d a b md : Nat) (add : Bool) : SlotOp :=
  ⟨[rV a, rV b, rAcc (d % 4)], [rAcc (d % 4)], d < 4 ∧ bits md 0 3 = 0 ∧ bits md 5 1 = 0, fun c r =>
    let h := bits md 4 1
    let va := c.before.getV a
    let vb := c.before.getV b
    let old := c.before.getAcc d
    accWrite r d fun i =>
      if i / 16 ≠ h then accI old i else
        let e := 2 * (i / 2)
        let x := laneI va e
        let y := laneI va (e + 1)
        let u := laneI vb e
        let v := if bit md 3 then - laneI vb (e + 1) else laneI vb (e + 1)
        let p := if i % 2 = 0 then x * u - y * v else x * v + y * u
        if add then accI old i + p else p⟩

/-- VCLRA: ACCd = 0. -/
def vClra (d a b md : Nat) : SlotOp :=
  ⟨[], [rAcc (d % 4)], d < 4 ∧ a = 0 ∧ b = 0 ∧ md = 0, fun _ r => r.setAcc d 0⟩

/-- VEXT and VEXTS (R111, R112). -/
def vExt (d a b md : Nat) (sat : Bool) : SlotOp :=
  ⟨[rAcc (a % 4)], [rV d], a < 4 ∧ b = 0 ∧ md ≤ 24, fun c r =>
    let y i := roundShift (accI (c.before.getAcc a) i) (md % 32)
    if sat then
      setSat (r.setV d (mkLanes fun i => wrapTo 16 (clampTo 16 (y i)))) ((List.range 32).any fun i => exceeds 16 (y i))
    else r.setV d (mkLanes fun i => wrapTo 16 (y i))⟩

/-- A search with index (R118 to R120): `better x y` says that candidate x replaces best y. Outside a repeat the best
starts from lane 0; inside, it carries across iterations and is written after the last. -/
def vSearch (d a b md : Nat) (better : Int → Int → Bool) : SlotOp :=
  ⟨[rV a], [rS d, rS (d + 1)], d % 2 = 0 ∧ b = 0 ∧ md = 0, fun c r =>
    let v := c.before.getV a
    let k := if c.inRep then c.k else 0
    let first : Int × Nat := (laneI v 0, 32 * k)
    let start : Int × Nat := match r.rep with
      | some p => if c.inRep then ((p.best.find? fun e => e.1 = d).map Prod.snd).getD first else first
      | none => first
    let best := (List.range 32).foldl (fun (m : Int × Nat) i =>
      if better (laneI v i) m.1 then (laneI v i, 32 * k + i) else m) start
    let r1 : Arch := match r.rep with
      | some p => if c.inRep then { r with rep := some { p with best := (d, best) :: p.best.filter fun e => e.1 ≠ d } } else r
      | none => r
    if c.last then (r1.setS d (BitVec.ofInt 32 best.1)).setS (d + 1) (BitVec.ofNat 32 best.2) else r1⟩

/-- The vector operation of an opcode and its raw fields (R96, R97); none: no such opcode. -/
def vOp (vop d a b md : Nat) : Option SlotOp :=
  match vop with
  | 0x00 => some (opNop (d = 0 ∧ a = 0 ∧ b = 0 ∧ md = 0))
  | 0x01 => some (vLanes d a b (md = 0) fun x y => x + y)
  | 0x02 => some (vLanes d a b (md = 0) fun x y => x - y)
  | 0x03 => some (vSat d a b (md = 0) fun x y => x + y)
  | 0x04 => some (vSat d a b (md = 0) fun x y => x - y)
  | 0x05 => some (vLanes d a b (md = 0) fun x y => x &&& y)
  | 0x06 => some (vLanes d a b (md = 0) fun x y => x ||| y)
  | 0x07 => some (vLanes d a b (md = 0) fun x y => x ^^^ y)
  | 0x08 => some (vLanes1 d a (b = 0 ∧ md < 16) fun x => x <<< (md % 16))
  | 0x09 => some (vLanes1 d a (b = 0 ∧ md < 16) fun x => x.sshiftRight (md % 16))
  | 0x0A => some (vLanes1 d a (b = 0 ∧ md = 0) fun x => x)
  | 0x10 => some (vMul d a b md fun _ p => p)
  | 0x11 => some (vMul d a b md fun o p => o + p)
  | 0x12 => some (vMul d a b md fun o p => o - p)
  | 0x13 => some (vMacb d a b md)
  | 0x14 => some (vComplex d a b md false)
  | 0x15 => some (vComplex d a b md true)
  | 0x16 => some (vClra d a b md)
  | 0x18 => some (vExt d a b md false)
  | 0x19 => some (vExt d a b md true)
  | 0x20 => some (vSearch d a b md fun x y => y < x)
  | 0x21 => some (vSearch d a b md fun x y => x < y)
  | _ => none

/-! ### Scalar slot -/

/-- Sd = f Sa Sb. -/
def sAlu (d a b : Nat) (f : Word → Word → Word) : SlotOp :=
  ⟨[rS a, rS (b % 16)], [rS d], b < 16, fun c r => r.setS d (f (c.before.getS a) (c.before.getS b))⟩

/-- A conditional branch on Sd with a displacement from the branch's own index (R96, R99). -/
def sBranch (d disp : Nat) (p : Word → Bool) : SlotOp :=
  ⟨[rS d], [], true, fun c r =>
    if p (c.before.getS d) then { r with pc := wrapTo 13 ((c.pc : Int) + sgn 9 disp) } else r⟩

/-- The scalar operations that only touch registers and PC, by opcode and raw fields; `disp` is SA and SB together.
DONE, RETE and TRAP are with the core's control. -/
def sOp (sop d a b : Nat) : Option SlotOp :=
  let disp := a * 32 + b
  match sop with
  | 0x00 => some (opNop (d = 0 ∧ a = 0 ∧ b = 0))
  | 0x01 => some (sAlu d a b fun x y => x + y)
  | 0x02 => some (sAlu d a b fun x y => x - y)
  | 0x03 => some (sAlu d a b fun x y => x &&& y)
  | 0x04 => some (sAlu d a b fun x y => x ||| y)
  | 0x05 => some (sAlu d a b fun x y => x ^^^ y)
  | 0x06 => some (sAlu d a b fun x y => x <<< (y.toNat % 32))
  | 0x07 => some (sAlu d a b fun x y => x.sshiftRight (y.toNat % 32))
  | 0x08 => some ⟨[rS a], [rS d], true, fun c r => r.setS d (c.before.getS a + BitVec.ofInt 32 (sgn 5 b))⟩
  | 0x0A => some ⟨[rS a, rA d], [rA (d % 8)], d < 8 ∧ b = 0, fun c r =>
      r.setA c.core d (BitVec.ofNat 48 (setBits (c.before.getA c.core d).toNat 0 32 (c.before.getS a).toNat))⟩
  | 0x0B => some ⟨[rS a], [rO (d % 8)], d < 8 ∧ b = 0, fun c r => r.setO d (c.before.getS a)⟩
  | 0x0C => some ⟨[rS a], [rL (d % 8)], d < 8 ∧ b = 0, fun c r =>
      r.setL d (BitVec.ofNat 24 (2 * bits (c.before.getS a).toNat 1 23))⟩
  | 0x0D => some ⟨[rA (a % 8)], [rB (d % 8)], d < 8 ∧ a < 8 ∧ b = 0, fun c r => r.setB d (c.before.getA c.core a)⟩
  | 0x0E => some ⟨[rA (a % 8)], [rS d], a < 8 ∧ b = 0, fun c r => r.setS d ((c.before.getA c.core a).setWidth 32)⟩
  | 0x0F => some ⟨[rC (a % 8)], [rS d], a < 8 ∧ b = 0, fun c r =>
      r.setS d (if a = 7 then BitVec.ofNat 32 c.cycle else c.before.getC a)⟩
  | 0x10 => some ⟨[rS a], [rC (d % 8)], d < 8 ∧ b = 0, fun c r =>
      -- a flag set in the same cycle stays set (R11)
      let set := if d = 0 then c.raised else 0#32
      r.setC d (mtcValue d (c.before.getC d) (c.before.getS a) ||| set)⟩
  | 0x20 => some (sBranch d disp fun x => x = 0)
  | 0x21 => some (sBranch d disp fun x => x ≠ 0)
  | 0x22 => some (sBranch d disp fun x => x.msb)
  | 0x23 => some (sBranch d disp fun x => !x.msb)
  | _ => none

/-! ### Long immediate -/

/-- The long operations (R100), by LOP and raw fields. -/
def lOp (lop d imm : Nat) : SlotOp :=
  match lop with
  | 0 => ⟨[], [rS d], true, fun _ r => r.setS d (BitVec.ofNat 32 imm)⟩
  | 1 => ⟨[], [rO (d % 8)], d < 8, fun _ r => r.setO d (BitVec.ofNat 32 imm)⟩
  | 2 => ⟨[rA (d % 8)], [rA (d % 8)], d < 8, fun c r =>
      r.setA c.core d (BitVec.ofNat 48 (setBits (c.before.getA c.core d).toNat 0 32 imm))⟩
  | _ => ⟨[rA (d % 8)], [rA (d % 8)], d < 8 ∧ bits imm 16 16 = 0, fun c r =>
      r.setA c.core d (BitVec.ofNat 48 (setBits (c.before.getA c.core d).toNat 32 16 imm))⟩

/-! ### Control bundles without a repeat -/

/-- JMP, CALL and RET (R100), by COP and operands. CALL in bundle 8,191 puts 0 in S15: what PC + 1 is there the spec does not
say (DESIGN CHOICE, log entry 28). -/
def cOp (cop opnd : Nat) : Option SlotOp :=
  match cop with
  | 0x03 => some ⟨[], [], opnd < 2 ^ 13, fun _ r => { r with pc := opnd % 2 ^ 13 }⟩
  | 0x04 => some ⟨[], [rS 15], opnd < 2 ^ 13, fun c r =>
      { r.setS 15 (BitVec.ofNat 32 ((c.pc + 1) % 2 ^ 13)) with pc := opnd % 2 ^ 13 }⟩
  | 0x05 => some ⟨[rS 15], [], opnd = 0, fun c r => { r with pc := (c.before.getS 15).toNat % 2 ^ 13 }⟩
  | _ => none

/-! ### Bundle words -/

/-- The V slot of a bundle word (R95, R96): VOP, VD, VA, VB, MOD. -/
def wordVop (w : Nat) : Nat × Nat × Nat × Nat × Nat := (bits w 56 6, bits w 52 4, bits w 48 4, bits w 44 4, bits w 38 6)

/-- The M slot: MOP, MR, MA, MO, PM and bits [3:0]. -/
def wordMop (w : Nat) : Nat × Nat × Nat × Nat × Bool × Nat :=
  (bits w 34 4, bits w 30 4, bits w 27 3, bits w 24 3, bit w 23, bits w 19 4)

/-- The S slot: SOP, SD, SA, SB. -/
def wordSop (w : Nat) : Nat × Nat × Nat × Nat := (bits w 13 6, bits w 9 4, bits w 5 4, bits w 0 5)

/-- The registers that a load/store reads and writes (R98, R102, R103). -/
def mUses (mop mr ma mo : Nat) (pm : Bool) : List Nat × List Nat :=
  let addr := [rA ma, rL ma, rB ma] ++ (if pm then [rO mo] else [])
  let post := if pm then [rA ma] else []
  match mop with
  | 1 => (addr, rV mr :: post)
  | 2 => (rV mr :: addr, post)
  | 3 => (addr, rV mr :: post)
  | 4 => (addr, rS mr :: post)
  | 5 => (addr, rS mr :: post)
  | 6 => (rS mr :: addr, post)
  | 7 => (rS mr :: addr, post)
  | 8 => (rS mr :: addr, post)
  | _ => ([], [])

/-- Whether the fields of a load/store are legal (R98, R101): those of MNOP but MR and [3:0] are ignored, FENCE names none, and
0xA and 0xB are no operations. -/
def memLegal (mop mr ma mo : Nat) (pm : Bool) (low : Nat) : Bool :=
  low = 0 && (if mop = 0 then mr = 0 else if mop = 9 then mr = 0 && ma = 0 && mo = 0 && !pm else mop < 9)

/-- Whether the fields of a CMOV are legal (R136, R137); `f` is M slot bits [14:0]. -/
def cmovLegal (f : Nat) : Bool := !bit f 0 && (bit f 4 || bits f 1 3 = 0)

/-- Whether the fields of a CISSUE are legal (R136, R137). -/
def cissueLegal (f : Nat) : Bool := cmovLegal f && bits f 5 5 = 0 && bits f 11 4 % 4 = 0

/-- Whether the fields of a CWAIT are legal (R136, R137). -/
def cwaitLegal (f : Nat) : Bool := bits f 0 10 = 0

/-- Whether an M slot is legal (R98, R101, R136), and the registers it writes. -/
def mSlot (w : Nat) : Bool × List Nat :=
  let (mop, mr, ma, mo, pm, low) := wordMop w
  let f := bits w 19 15
  match mop with
  | 0xC => (cmovLegal f, [])
  | 0xD => (cmovLegal f, [rV mr])
  | 0xE => (cissueLegal f, [])
  | 0xF => (cwaitLegal f, [])
  | _ => (memLegal mop mr ma mo pm low, (mUses mop mr ma mo pm).2)

/-- Whether an S slot is legal (R99, R101), and the registers it writes. -/
def sSlot (w : Nat) : Bool × List Nat :=
  let (sop, sd, sa, sb) := wordSop w
  match sop with
  | 0x30 => (sd = 0 && sa = 0 && sb = 0, [])
  | 0x31 => (sd = 0 && sa = 0 && sb = 0, [rC 1])
  | 0x32 => (sd = 0 && sa = 0, [])
  | _ => match sOp sop sd sa sb with
    | some o => (o.legal, o.writes)
    | none => (false, [])

/-- Whether a control bundle is legal (R100, R101). -/
def cSlot (w : Nat) : Bool :=
  let opnd := bits w 0 56
  match bits w 56 6 with
  | 1 => opnd < 2 ^ 12
  | 2 => bits opnd 0 12 = 0 && bits opnd 16 40 = 0
  | c => match cOp c opnd with
    | some o => o.legal
    | none => false

/-- Whether a bundle word is legal (R93, R95 to R101, R136, R137): its format, every slot's opcode and fields, and no register
written by two slots. -/
def wordLegal (w : Nat) : Bool :=
  let (vop, vd, va, vb, md) := wordVop w
  let (vOk, vw) := match vOp vop vd va vb md with
    | some o => (o.legal, o.writes)
    | none => (false, [])
  match bits w 62 2 with
  | 0 => vOk && (mSlot w).1 && (sSlot w).1 && decide (vw ++ (mSlot w).2 ++ (sSlot w).2).Nodup
  | 1 =>
    let o := lOp (bits w 36 2) (bits w 32 4) (bits w 0 32)
    vOk && o.legal && decide (vw ++ o.writes).Nodup
  | 2 => cSlot w
  | _ => false

end Sys2Proof.Machine
end

