-- ==== Sys2Proof/Machine/VdcCore.lean ====
section
/-! DEFINITION. How a core runs bundles (R93 to R132): issue of a slot's operation, loads and stores, coprocessor
operations, repeats, commit, flush and exceptions. -/

namespace Sys2Proof.Machine

namespace State

/-- C7.CYCLE of the cores of cluster `k`. -/
def clusterCycle (s : State) (k : Nat) : Nat := sget s.clk k 0

/-- Core cycles pass between two bundles: at least one, and as many more as nothing in the model says (log entry 4). -/
def cyclesPass (s : State) (k : Nat) : State :=
  let (d, s1) := s.draw 32
  { s1 with clk := sput s1.clk k ((s.clusterCycle k + 1 + d) % 2 ^ 32) 0 }

/-! ### Bundles -/

/-- The youngest bundle of a core. -/
def youngest (s : State) (n : Nat) : Option Bundle := (s.core n).flight.getLast?

/-- The registers that an operation reads (R93): those before its bundle issued. -/
def srcArch (s : State) (n : Nat) (nb : Bool) : Arch :=
  if nb then (s.core n).arch else match s.youngest n with
    | some b => b.before
    | none => (s.core n).arch

/-- Replaces the youngest bundle. -/
def setYoungest (s : State) (n : Nat) (b : Bundle) : State :=
  let c := s.core n
  s.setCore n { c with flight := c.flight.dropLast ++ [b] }

def setArch (s : State) (n : Nat) (r : Arch) : State := s.setCore n { s.core n with arch := r }

/-- Fetches the bundle at index `pc` of core `n`: whether its word decodes cleanly, and the word (R129, code 0x05). -/
def fetchBundle (s : State) (n pc : Nat) : Bool × Nat × State :=
  let (ok, d, s1) := s.memLoad (imemBase n + 8 * pc) 8
  (ok, leVal d, s1)

/-- The exception of a fetched word (R129): code 0x05 where it does not decode cleanly, 0x01 where it is no legal bundle
(R95 to R101). -/
def fetchExc (ok : Bool) (w : Nat) : Option Exc :=
  if !ok then some ⟨5, 0, 0⟩ else if wordLegal w then none else some ⟨1, 0, 0⟩

/-- Opens a bundle at PC: it is fetched, PC moves to the next bundle, and the registers before it are kept (R93, R129). The
commands that follow are the operations of its slots; the fetched word says whether there is a bundle at all. Bundle 0 follows
bundle 8,191: the spec does not say what does (DESIGN CHOICE, log entry 28). No bundle is fetched ahead: of the two beyond PC that
R127 says may have been, the model takes none (DESIGN CHOICE, log entry 28). -/
def openBundle (s : State) (n : Nat) : State :=
  let pc := (s.core n).arch.pc
  let (ok, w, s1) := (s.cyclesPass (n / 8)).fetchBundle n pc
  let c := s1.core n
  let b : Bundle := ⟨pc, c.arch, [], [], [], [], none, false, fetchExc ok w, c.serial, 0, []⟩
  s1.setCore n { c with arch := { c.arch with pc := (pc + 1) % 2 ^ 13 }, flight := c.flight ++ [b], serial := c.serial + 1 }

/-- A core that can issue: running, outside a repeat. -/
def canIssue (s : State) (n : Nat) : Bool := (s.core n).run = .running && (s.core n).arch.rep.isNone

/-- Opens a bundle when the operation is the first of one. -/
def ready (s : State) (n : Nat) (nb : Bool) : State :=
  if nb || (s.core n).flight.isEmpty then s.openBundle n else s

/-- An exception is found in the youngest bundle (R129): the bundle has no effect in any slot. Of several in one bundle the
first in the order of the commands stands, which the spec does not settle (DESIGN CHOICE, log entry 28). -/
def fault (s : State) (n : Nat) (e : Exc) : State :=
  match s.youngest n with
  | none => s
  | some b =>
    if b.exc.isSome then s else
      (s.setYoungest n { b with exc := some e, stores := [], rstores := [] }).setArch n
        { b.before with pc := (s.core n).arch.pc, rep := (s.core n).arch.rep }

/-- The bundle that an operation joins: none when it opens one. -/
def joins (s : State) (n : Nat) (nb : Bool) : Option Nat := if nb then none else (s.youngest n).map Bundle.serial

/-- Whether a register waits for a remote load of an earlier bundle (R93, R94): an operation that reads or writes it stalls. -/
def waits (s : State) (n : Nat) (nb : Bool) (regs : List Nat) : Bool :=
  (s.core n).rloads.any fun l => !l.dead && regs.contains l.reg && decide (s.joins n nb ≠ some l.serial)

/-- Registers that the youngest bundle would write twice (R93). -/
def clash (b : Bundle) (regs : List Nat) : Bool := regs.any fun r => b.wrote.contains r

/-- Runs an operation of a slot in the youngest bundle (R93, R101). -/
def runSlot (s : State) (n : Nat) (op : SlotOp) : State :=
  match s.youngest n with
  | none => s
  | some b =>
    if b.exc.isSome then s
    else if !op.legal || clash b op.writes then s.fault n ⟨1, 0, 0⟩
    else
      let (k, inRep, last) := match b.iter with
        | some (k, rem) => (k, true, decide (rem = 1))
        | none => (0, false, true)
      let c : SlotCtx := ⟨n, b.before, b.pc, k, inRep, last, s.clusterCycle (n / 8), b.raised⟩
      let r := (s.core n).arch
      -- the flags that the operation itself sets, whatever they were before
      let sets := if op.writes.contains (rC 0) then 0#32 else (op.run c (r.setC 0 0)).getC 0
      (s.setYoungest n { b with wrote := b.wrote ++ op.writes, raised := b.raised ||| sets }).setArch n (op.run c r)

/-- Issues one operation of a slot: `nb` opens a new bundle. A core that does not run, or an operation whose registers
wait for a remote load, does not issue (R94). -/
def issue (s : State) (n : Nat) (nb : Bool) (op : SlotOp) : State :=
  if !s.canIssue n || s.waits n nb (op.reads ++ op.writes) then s else (s.ready n nb).runSlot n op

/-! ### Loads and stores -/

/-- Bytes of own stores that have not landed, youngest first found (R121, R126). -/
def pendingByte (s : State) (n a : Nat) : Option Byte :=
  ((s.core n).flight.reverse.flatMap fun b => b.stores.reverse ++ b.rstores.reverse).findSome? fun e =>
    if e.1 = a then some e.2 else none

/-- Reads bytes of a core's own data memory, with its uncommitted stores forwarded: whether every halfword read decodes
(R121, R129 code 0x04). -/
def ownLoad (s : State) (n : Nat) (addrs : List Nat) : Bool × List Byte × State :=
  let ws := (addrs.map fun a => a / 2 * 2).eraseDups.filter fun w =>
    !((s.pendingByte n w).isSome && (s.pendingByte n (w + 1)).isSome)
  let (ok, s1) := ws.foldl (fun (r : Bool × State) w =>
    let (g, _, s2) := r.2.memLoad w 2
    (r.1 && g, s2)) (true, s)
  (ok, addrs.map fun a => (s.pendingByte n a).getD (s.byteAt a), s1)

/-- Writes a loaded value to its register: 0 VLD, 1 VLDB, 2 LDH, 3 LDW, 4 CMOV.FROM (R98). -/
def landLoad (r : Arch) (form reg : Nat) (d : List Byte) : Arch :=
  match form with
  | 0 => r.setV reg (BitVec.ofNat 512 (leVal d))
  | 1 => r.setV reg (mkLanes fun _ => leVal d)
  | 2 => r.setS (reg - 32) (BitVec.ofInt 32 (sgn 16 (leVal d)))
  | 3 => r.setS (reg - 32) (BitVec.ofNat 32 (leVal d))
  | _ => r.setV reg (BitVec.ofNat 512 (leVal d))

/-- Bytes of an access. -/
def mBytes (mop : Nat) : Nat :=
  match mop with
  | 1 => 64
  | 2 => 64
  | 3 => 2
  | 4 => 2
  | 5 => 4
  | 6 => 2
  | 7 => 4
  | _ => 1

/-- A load or store of the youngest bundle, whose fields are legal (R98, R102 to R107, R115, R124). Two points that the spec
leaves open (DESIGN CHOICE, log entry 28): in a REP body, an access both odd and outside own data memory raises alignment; and
an access that lies partly in own data memory and partly outside is remote as a whole. -/
def access (s : State) (n mop mr ma mo : Nat) (pm : Bool) : State :=
  match s.youngest n with
  | none => s
  | some b =>
    let r := b.before
    let addrs := accessBytes r n ma (mBytes mop)
    let a0 := addrs.headD 0
    let own := addrs.all fun a => inOwnDmem n a
    let (_, wr) := mUses mop mr ma mo pm
    let move (s : State) : State :=
      if pm then s.setArch n ((s.core n).arch.setA n ma (postMod r n ma mo)) else s
    if mop ≠ 8 ∧ a0 % 2 = 1 then s.fault n ⟨2, 0, a0⟩
    else if b.iter.isSome ∧ !own then s.fault n ⟨3, 0, a0⟩
    else if 2 ≤ mop ∧ mop ≠ 3 ∧ mop ≠ 4 ∧ mop ≠ 5 then
      let v := if mop = 2 then leBytes 64 (r.getV mr).toNat else leBytes (mBytes mop) (r.getS mr).toNat
      let items := addrs.zip v
      move (s.setYoungest n { b with wrote := b.wrote ++ wr,
                                     stores := if own then items else [], rstores := if own then [] else items })
    else
      let form := match mop with
        | 1 => 0
        | 3 => 1
        | 4 => 2
        | _ => 3
      let reg := if mop = 1 ∨ mop = 3 then rV mr else rS mr
      if own then
        let (ok, d, s1) := s.ownLoad n addrs
        if !ok then s1.fault n ⟨4, 0, a0⟩
        else move ((s1.setYoungest n { b with wrote := b.wrote ++ wr }).setArch n (landLoad (s1.core n).arch form reg d))
      else
        let fwd := addrs.filterMap fun a => (s.pendingByte n a).map fun v => (a, v)
        let s1 := s.setYoungest n { b with wrote := b.wrote ++ wr }
        let c := s1.core n
        move (s1.setCore n { c with rloads := c.rloads ++ [⟨form, reg, addrs, fwd, b.serial, false, [], []⟩] })

/-- Whether an access would be remote. -/
def isRemoteAccess (s : State) (n : Nat) (nb : Bool) (mop ma : Nat) : Bool :=
  !((accessBytes (s.srcArch n nb) n ma (mBytes mop)).all fun a => inOwnDmem n a)

/-- A load/store operation of the youngest bundle, with its fields checked (R96, R98, R101). -/
def runMem (s : State) (n mop mr ma mo : Nat) (pm : Bool) (low : Nat) : State :=
  match s.youngest n with
  | none => s
  | some b =>
    let (_, wr) := mUses mop mr ma mo pm
    if b.exc.isSome then s
    else if !memLegal mop mr ma mo pm low || clash b wr then s.fault n ⟨1, 0, 0⟩
    else if mop = 0 ∨ mop = 9 then s
    else s.access n mop mr ma mo pm

/-- The remote stores of a core that are not answered, CMOV.TO counted (R125, R147). A store is answered as it is sent, at its
bundle's commit, so these are the stores of uncommitted bundles (log entry 4). -/
def storesOut (s : State) (n : Nat) : Nat :=
  ((s.core n).flight.filter fun b => !b.rstores.isEmpty || b.cops.any fun o => match o with
    | .remoteTo _ _ _ _ _ => true
    | _ => false).length

/-- Issues a load/store operation; it stalls on its registers (R94), and a ninth remote load or a ninth remote store stalls
(R125). -/
def issueMem (s : State) (n : Nat) (nb : Bool) (mop mr ma mo : Nat) (pm : Bool) (low : Nat) : State :=
  let (rd, wr) := mUses mop mr ma mo pm
  let loads := mop = 1 ∨ mop = 3 ∨ mop = 4 ∨ mop = 5
  let stores := mop = 2 ∨ mop = 6 ∨ mop = 7 ∨ mop = 8
  let full := (loads ∧ 8 ≤ (s.core n).rloads.length) ∨ (stores ∧ 8 ≤ s.storesOut n)
  if !s.canIssue n || s.waits n nb (rd ++ wr) then s
  else if full ∧ s.isRemoteAccess n nb mop ma then s
  else (s.ready n nb).runMem n mop mr ma mo pm low

/-- Whether every Turnpike access of the core has been answered (R98, R125). -/
def allAnswered (s : State) (n : Nat) : Bool :=
  (s.core n).rloads.isEmpty && (s.core n).flight.all fun b => b.rstores.isEmpty && b.cops.all fun o => match o with
    | .issue _ _ _ _ _ => false
    | .remoteTo _ _ _ _ _ => false
    | _ => true

/-- FENCE (R98): issues when every access has been answered. -/
def issueFence (s : State) (n : Nat) (nb : Bool) (mr ma mo : Nat) (pm : Bool) (low : Nat) : State :=
  if s.canIssue n && s.allAnswered n then (s.ready n nb).runMem n 9 mr ma mo pm low else s

/-! ### Coprocessor operations -/

/-- The context of core `n` at depth `d` in its own cluster (R133). -/
def ownCtx (n d : Nat) : Nat := 4 * (n % 8) + d

/-- The remote cluster that A(x) names, when RM = 1 (R153). -/
def remoteTarget (s : State) (n : Nat) (nb : Bool) (f : Nat) : Option Nat :=
  cxCluster ((s.srcArch n nb).getA n (bits f 1 3)).toNat

/-- The youngest uncommitted local CMOV.TO to a register (R147, forwarding). -/
def pendingCR (s : State) (n u ctx r : Nat) : Option Line :=
  ((s.core n).flight.reverse.flatMap fun b => b.cops.reverse).findSome? fun o => match o with
    | .moveTo u' c' r' v => if u' = u ∧ c' = ctx ∧ r' = r then some v else none
    | _ => none

/-- Whether the core has a command outstanding to a remote coprocessor (R155, R157). -/
def remoteOut (s : State) (n u k : Nat) : Nat := ((s.core n).tags.filter fun t => t.u = u && t.remote = some k).length

/-- Whether a remote CMOV.FROM of unit `u` of cluster `k` waits for its data: a command or a CMOV.TO that follows it there is
not issued, so that the read finds no pending register and no younger value (R157). -/
def remoteRead (s : State) (n u k : Nat) : Bool :=
  (s.core n).rloads.any fun l => !l.dead && l.form = 4 && decide (l.bytes.take 2 = [k, u])

/-- Adds a coprocessor operation to the youngest bundle. -/
def addCop (s : State) (n : Nat) (o : CopOp) (mv : Bool) (wr : List Nat) : State :=
  match s.youngest n with
  | none => s
  | some b => s.setYoungest n { b with cops := b.cops ++ [o], cmov := b.cmov || mv, wrote := b.wrote ++ wr }

/-- CMOV.TO (R136, R145, R147, R153, R157); `f` is M slot bits [14:0]. -/
def cmovTo (s : State) (n : Nat) (nb : Bool) (f : Nat) : State :=
  let u := bits f 10 1
  let k := n / 8
  let d := (s.core n).depth
  let cr := bits f 5 5
  let ctx := ownCtx n d
  let vs := bits f 11 4
  if !s.canIssue n || s.waits n nb [rV vs] then s
  else if !cmovLegal f then (s.ready n nb).fault n ⟨1, 0, 0⟩
  else if bit f 4 then
    match s.remoteTarget n nb f with
    | none => (s.ready n nb).fault n ⟨8, 2, ((s.srcArch n nb).getA n (bits f 1 3)).toNat⟩
    | some t =>
      if s.remoteOut n u t ≠ 0 ∨ s.remoteRead n u t ∨ 8 ≤ s.storesOut n then s else
        let s1 := s.ready n nb
        match s1.youngest n with
        | none => s
        | some b => if b.exc.isSome then s1 else s1.addCop n (.remoteTo t u cr d (b.before.getV vs)) true []
  else if s.copUnavail k u then (s.ready n nb).fault n ⟨8, 5, 0⟩
  else if s.crW k u ctx cr || s.crR k u ctx cr then s
  else
    let s1 := s.ready n nb
    match s1.youngest n with
    | none => s
    | some b => if b.exc.isSome then s1 else s1.addCop n (.moveTo u ctx cr (b.before.getV vs)) true []

/-- CMOV.FROM (R136, R145, R147, R157, R172). -/
def cmovFrom (s : State) (n : Nat) (nb : Bool) (f : Nat) : State :=
  let u := bits f 10 1
  let k := n / 8
  let d := (s.core n).depth
  let cr := bits f 5 5
  let ctx := ownCtx n d
  let vd := bits f 11 4
  let mark (s : State) (b : Bundle) : State := s.setYoungest n { b with wrote := b.wrote ++ [rV vd], cmov := true }
  if !s.canIssue n || s.waits n nb [rV vd] then s
  else if !cmovLegal f then (s.ready n nb).fault n ⟨1, 0, 0⟩
  else if bit f 4 then
    match s.remoteTarget n nb f with
    | none => (s.ready n nb).fault n ⟨8, 2, ((s.srcArch n nb).getA n (bits f 1 3)).toNat⟩
    | some t =>
      if s.remoteOut n u t ≠ 0 ∨ 8 ≤ (s.core n).rloads.length then s else
        let s1 := s.ready n nb
        match s1.youngest n with
        | none => s
        | some b =>
          if b.exc.isSome then s1
          else if clash b [rV vd] then s1.fault n ⟨1, 0, 0⟩
          else
            let s2 := mark s1 b
            let c := s2.core n
            -- the target cluster, unit, register and depth stand in place of byte addresses
            s2.setCore n { c with rloads := c.rloads ++ [⟨4, rV vd, [t, u, cr, d], [], b.serial, false, [], []⟩] }
  else if s.copUnavail k u then (s.ready n nb).fault n ⟨8, 5, 0⟩
  else if s.crW k u ctx cr then s
  else
    let s1 := s.ready n nb
    match s1.youngest n with
    | none => s
    | some b =>
      if b.exc.isSome then s1
      else if clash b [rV vd] then s1.fault n ⟨1, 0, 0⟩
      else
        match s1.pendingCR n u ctx cr with
        | some v => (mark s1 b).setArch n ((s1.core n).arch.setV vd v)
        | none =>
          let (ok, s2) := s1.crDecode k u ctx cr
          if !ok then s2.fault n ⟨8, 6, 0⟩
          else (mark s2 b).setArch n ((s2.core n).arch.setV vd (s2.getCR k u ctx cr))

/-- CISSUE (R136 to R143, R153 to R155). A tag names one outstanding command of a depth, over both units and their remote
ones, so that a task has at most 16 outstanding (R137, R138) and the notice of R156 names one (DEDUCED, log entry 24). A remote
command that fails both R153 and the checks of R142 raises DETAIL 0x02 (DESIGN CHOICE, log entry 24: the spec gives no order). -/
def cissue (s : State) (n : Nat) (nb : Bool) (f : Nat) : State :=
  let u := bits f 10 1
  let k := n / 8
  let c := s.core n
  let d := c.depth
  let m := bits f 11 4
  let rm := bit f 4
  let r := s.srcArch n nb
  let words := (List.range 4).map fun i => r.getS (m + i)
  let target := if rm then s.remoteTarget n nb f else none
  let tag := cmdTag words
  let task := sget c.tasks d 0
  if !s.canIssue n || s.waits n nb ((List.range 4).map fun i => rS (m + i)) then s
  else if !cissueLegal f then (s.ready n nb).fault n ⟨1, 0, 0⟩
  else if rm ∧ target.isNone then (s.ready n nb).fault n ⟨8, 2, (r.getA n (bits f 1 3)).toNat⟩
  else if !cmdLegal u words then (s.ready n nb).fault n ⟨8, 1, 0⟩
  else if c.tags.any (fun t => t.depth = d && t.tag = tag) then s
  else match target with
    | some t =>
      if 2 ≤ s.remoteOut n u t ∨ s.remoteRead n u t then s else
        let s1 := s.ready n nb
        match s1.youngest n with
        | none => s
        | some b =>
          if b.exc.isSome then s1 else
            let s2 := s1.addCop n (.issue t u tag d words) false []
            let c2 := s2.core n
            s2.setCore n { c2 with tags := c2.tags ++ [⟨u, d, tag, some t, none, task⟩] }
    | none =>
      if 32 ≤ s.sharedFill k u then s else
        let s1 := s.ready n nb
        match s1.youngest n with
        | none => s
        | some b =>
          if b.exc.isSome then s1 else
            let s2 := s1.addCop n (.commit u tag d) false []
            let c2 := s2.core n
            (s2.setCore n { c2 with tags := c2.tags ++ [⟨u, d, tag, none, none, task⟩] }).copEnter k u
              (newCmd words (ownCtx n d) (.core n d task) false)

/-- CWAIT (R136, R137): issues when the tag, or every tag, of the current depth is free. -/
def cwait (s : State) (n : Nat) (nb : Bool) (f : Nat) : State :=
  let c := s.core n
  let busy := c.tags.any fun t => t.depth = c.depth && (bit f 10 || t.tag = bits f 11 4)
  if !s.canIssue n then s
  else if !cwaitLegal f then (s.ready n nb).fault n ⟨1, 0, 0⟩
  else if busy then s else s.ready n nb

/-! ### Repeats -/

/-- Whether a bundle may be a REP body (R114). A word of format 0b11, which R114 does not list, raises its illegal instruction
when the body issues, as any other illegal word (DEDUCED, log entry 28). -/
def bodyLegal (w : Nat) : Bool :=
  let (vop, vd, _, _, _) := wordVop w
  let (mop, mr, _, _, _, _) := wordMop w
  let (sop, _, sa, sb) := wordSop w
  let ext := vop = 0x18 || vop = 0x19
  let search := vop = 0x20 || vop = 0x21
  let found (r : Nat) : Bool := r = vd || r = vd + 1
  match bits w 62 2 with
  | 0 =>
    let sBad := sop = 0x0F || sop = 0x10 || (0x20 ≤ sop && sop ≤ 0x23) || (0x30 ≤ sop && sop ≤ 0x32)
    let mBad := 0xC ≤ mop || mop = 8
    let late := (ext && mop = 2 && mr = vd) ||
      (search && ((mop = 6 || mop = 7) && found mr)) ||
      (search && ((1 ≤ sop && sop ≤ 7 && (found sa || found (sb % 16))) ||
        ((sop = 8 || (0x0A ≤ sop && sop ≤ 0x0C)) && found sa)))
    !sBad && !mBad && !late
  | 2 => false
  | _ => true

/-- Registers a body reads or writes in its M slot and S slot that could wait for a remote load (R114). -/
def bodyRegs (w : Nat) : List Nat :=
  let (vop, vd, va, vb, md) := wordVop w
  let (sop, sd, sa, sb) := wordSop w
  let vs := match vOp vop vd va vb md with
    | some o => o.reads ++ o.writes
    | none => []
  if bits w 62 2 = 0 then
    let (mop, mr, ma, mo, pm, _) := wordMop w
    let (r, wr) := mUses mop mr ma mo pm
    let ss := match sOp sop sd sa sb with
      | some o => o.reads ++ o.writes
      | none => []
    vs ++ r ++ wr ++ ss
  else let o := lOp (bits w 36 2) (bits w 32 4) (bits w 0 32); vs ++ o.reads ++ o.writes

/-- REP with n iterations, its operand bits legal (R113, R114): the body is fetched here, and no iteration fetches it again. A
body whose fetch finds an uncorrectable word raises that exception when it issues. -/
def startRep (s : State) (n count : Nat) (legal : Bool) : State :=
  let s1 := s.openBundle n
  match s1.youngest n with
  | none => s
  | some b =>
    if b.exc.isSome then s1
    else
      let body := (b.pc + 1) % 2 ^ 13
      let (ok, w, s2) := s1.fetchBundle n body
      let r := (s2.core n).arch
      if !legal || (ok && !bodyLegal w) then s2.fault n ⟨1, 0, 0⟩
      else if count = 0 then s2.setArch n { r with pc := (body + 1) % 2 ^ 13 }
      else s2.setArch n { r with pc := body, rep := some ⟨body, 0, count, [], if ok then some w else none⟩ }

/-- Runs the slots of a body in the youngest bundle; its word is legal. -/
def runBody (s : State) (n w : Nat) : State :=
  let (vop, vd, va, vb, md) := wordVop w
  let s1 := match vOp vop vd va vb md with
    | some o => s.runSlot n o
    | none => s
  if bits w 62 2 = 0 then
    let (mop, mr, ma, mo, pm, low) := wordMop w
    let (sop, sd, sa, sb) := wordSop w
    let s2 := s1.runMem n mop mr ma mo pm low
    match sOp sop sd sa sb with
    | some o => s2.runSlot n o
    | none => s2
  else s1.runSlot n (lOp (bits w 36 2) (bits w 32 4) (bits w 0 32))

/-- The word of the body of a repeat: kept from its fetch at the REP, or fetched once when RETE re-entered the repeat (R113,
R127, R131). -/
def bodyWord (s : State) (n : Nat) (p : Rep) : Bool × Nat × State :=
  match p.word with
  | some w => (true, w, s)
  | none => s.fetchBundle n p.body

/-- One iteration of a REP body issues (R113, R117). A repeat that RETE re-entered on a word that may not be a body raises
illegal instruction in its iteration (DESIGN CHOICE, log entry 28). -/
def iterate (s : State) (n : Nat) : State :=
  let c := s.core n
  match c.arch.rep with
  | none => s
  | some p =>
    let (ok, w, s1) := (s.cyclesPass (n / 8)).bodyWord n p
    let fence := bits w 62 2 = 0 && bits w 34 4 = 9
    if c.run ≠ .running ∨ s.waits n true (bodyRegs w) ∨ (fence ∧ !s.allAnswered n) then s
    else
      let c1 := s1.core n
      let e := if ok && !bodyLegal w then some ⟨1, 0, 0⟩ else fetchExc ok w
      let b : Bundle := ⟨p.body, c1.arch, [], [], [], [], some (p.k, p.rem), false, e, c1.serial, 0, []⟩
      let s2 := (s1.setCore n { c1 with flight := c1.flight ++ [b], serial := c1.serial + 1 }).runBody n w
      let r := (s2.core n).arch
      match r.rep with
      | none => s2
      | some q =>
        if q.rem ≤ 1 then s2.setArch n { r with rep := none, pc := (q.body + 1) % 2 ^ 13 }
        else s2.setArch n { r with rep := some { q with k := q.k + 1, rem := q.rem - 1, word := if ok then some w else none } }

/-! ### Commit -/

/-- Bytes grouped for writing: the last write of each byte, in rising order. A vector stored to a buffer shorter than itself
writes a byte more than once; the spec does not say which lane stands, the model keeps the highest (DESIGN CHOICE, log entry
28). -/
def lastBytes (items : List (Nat × Byte)) : List (Nat × Byte) :=
  (items.foldl (fun (m : Sparse (Option Byte)) e => sput m e.1 (some e.2) none) []).filterMap fun e =>
    e.2.map fun v => (e.1, v)

/-- The items that lie in each line, line by line. -/
def byLine (items : List (Nat × Byte)) : List (List (Nat × Byte)) :=
  ((items.map fun e => e.1 / 64).eraseDups).map fun l => items.filter fun e => e.1 / 64 = l

/-- Changes remote load `i` of a core. -/
def setLoad (s : State) (n i : Nat) (f : RLoad → RLoad) : State :=
  let c := s.core n
  s.setCore n { c with rloads := (c.rloads.zipIdx).map fun x => if x.2 = i then f x.1 else x.1 }

/-- The READs of remote load `i` for the lines that `p` names are answered (R124): one per line, each answered once. -/
def answerLines (s : State) (n i : Nat) (p : Nat → Bool) : State :=
  match (s.core n).rloads[i]? with
  | none => s
  | some l =>
    let lines := ((l.bytes.map fun a => a / 64).eraseDups).filter fun ln => p ln && !l.read.contains ln
    lines.foldl (fun s ln =>
      let (e, data, s1) := s.busRead (n / 8) (64 * ln) 64
      s1.setLoad n i fun l =>
        let new := l.bytes.filter fun a => a / 64 = ln && !l.fwd.any fun x => x.1 = a
        { l with read := l.read ++ [ln], errs := l.errs ++ (e.map Prod.fst).toList,
                 fwd := l.fwd ++ new.map fun a => (a, data.getD (a % 64) 0xFF) }) s

/-- Before a younger store lands, the READs of older remote loads of the core for the same lines are answered: a core observes
its own accesses in program order (R126). -/
def keepOlder (s : State) (n : Nat) (b : Bundle) : State :=
  let hit := ((b.stores ++ b.rstores).map fun e => e.1 / 64).eraseDups
  upto (s.core n).rloads.length (fun i s => match (s.core n).rloads[i]? with
    | some l => if l.serial < b.serial ∧ l.form ≠ 4 ∧ !l.dead then s.answerLines n i fun ln => hit.contains ln else s
    | none => s) s

/-- An access error waits for a bundle boundary of core `n` (R129). -/
def accessError (s : State) (n st a : Nat) : State :=
  let c := s.core n
  s.setCore n { c with defer := c.defer ++ [⟨⟨7, st, a⟩, c.depth, sget c.tasks c.depth 0, 0, 0⟩] }

/-- A response to a remote load of bundle `serial` fails (R125, R129): while the bundle can still be flushed its error waits with it,
and it is an access error once the bundle has committed (DEDUCED, log entry 28). -/
def loadError (s : State) (n serial st a : Nat) : State :=
  let c := s.core n
  if c.flight.any fun b => b.serial = serial then
    s.setCore n { c with flight := c.flight.map fun b => if b.serial = serial then { b with errs := b.errs ++ [(st, a)] } else b }
  else s.accessError n st a

/-- Marks the tag of a committed command with the time of its commit. -/
def stampTag (s : State) (n u d tag : Nat) (remote : Option Nat) : State :=
  let c := s.core n
  s.setCore n { c with tags := c.tags.map fun t =>
    if t.u = u ∧ t.depth = d ∧ t.tag = tag ∧ t.remote = remote then { t with since := some s.cyc } else t }

/-- The write of a module source, with an access error of core `n` where it fails. -/
def coreWrite (s : State) (n a : Nat) (bs : List Byte) : State :=
  match s.busWrite (n / 8) a bs with
  | (some (st, fa), s1) => s1.accessError n st fa
  | (none, s1) => s1

/-- A coprocessor operation of a committing bundle (R147 to R157). A remote CMOV that finds no binding, for which R172 names a
reason only for commands, defers reason 0x03 (DESIGN CHOICE, log entry 24). -/
def commitCop (s : State) (n : Nat) (o : CopOp) : State :=
  let k := n / 8
  match o with
  | .commit u tag d =>
    let c := s.cop k u
    let mine (x : CopCmd) : Bool := x.tag = tag && x.ctx = ownCtx n d && !isRemote x
    (s.setCop k u { c with queue := c.queue.map fun x => if mine x then { x with committed := true } else x }).stampTag n u d tag none
  | .moveTo u ctx r v => s.setCR k u ctx r v
  | .issue t u tag d words =>
    (s.coreWrite n (cxBase t + 0x2000 + 0x40 * u) (wordBytes words ++ leBytes 4 (n + 256 * d))).stampTag n u d tag (some t)
  | .remoteTo t u r d v =>
    match s.boundCtx t u n d with
    | some ctx => s.coreWrite n (cxBase t + 0x8000 + 0x4000 * u + 0x800 * (ctx - 32) + 0x40 * r) (leBytes 64 v.toNat)
    | none => s.deferCop n u d (sget (s.core n).tasks d 0) 0 3 (cxBase t)

/-- The oldest bundle of a core reaches write-back (R123, R148, R151). -/
def commit (s : State) (n : Nat) : State :=
  match (s.core n).flight with
  | [] => s
  | b :: rest =>
    if b.exc.isSome then s else
      let s1 := s.keepOlder n b
      let s2 := s1.setCore n { s1.core n with flight := rest }
      let s3 := (byLine (lastBytes b.stores)).foldl (fun s l => s.memStore l) s2
      let s4 := (byLine (lastBytes b.rstores)).foldl (fun s l =>
        let a0 := (l.headD (0, 0)).1 / 64 * 64
        let en := l.foldl (fun m e => m ||| 2 ^ (e.1 - a0)) 0
        let data := l.foldl (fun m e => m + e.2.toNat * 2 ^ (8 * (e.1 - a0))) 0
        let (sts, s') := s.storeLine (n / 8) a0 en data
        -- C3 and C4 will hold the address of the access
        sts.foldl (fun s st => s.accessError n st (b.rstores.headD (0, 0)).1) s') s3
      let s5 := b.errs.foldl (fun s e => s.accessError n e.1 e.2) s4
      b.cops.foldl (fun s o => s.commitCop n o) s5

/-- The last response of remote load `i` of a core arrives (R94, R124 to R126): its register is written, and each response with
a STATUS that is not OK is an access error at the load's address (R129). A remote CMOV.FROM is sent only once its bundle has
committed (R151); one that finds no binding, for which R172 names a reason only for commands, reads all ones and defers reason
0x03 (DESIGN CHOICE, log entry 24). -/
def loadArrives (s : State) (n i : Nat) : State :=
  match (s.core n).rloads[i]? with
  | none => s
  | some l =>
    let drop (s : State) : State := let c := s.core n; s.setCore n { c with rloads := c.rloads.eraseIdx i }
    if l.dead then drop s else
      let land (s : State) (d : List Byte) : State :=
        let c := s.core n
        let f (r : Arch) : Arch := landLoad r l.form l.reg d
        s.setCore n { c with arch := f c.arch, rloads := c.rloads.eraseIdx i,
                             flight := c.flight.map fun b => if l.serial < b.serial then { b with before := f b.before } else b }
      if l.form = 4 then
        if (s.core n).flight.any fun b => b.serial = l.serial then s else
          let t := l.bytes.getD 0 0
          let u := l.bytes.getD 1 0
          let r := l.bytes.getD 2 0
          let d := l.bytes.getD 3 0
          match s.boundCtx t u n d with
          | none => (land s (List.replicate 64 0xFF)).deferCop n u d (sget (s.core n).tasks d 0) 0 3 (cxBase t)
          | some ctx =>
            let (e, data, s1) := s.busRead (n / 8) (cxBase t + 0x8000 + 0x4000 * u + 0x800 * (ctx - 32) + 0x40 * r) 64
            let s2 := land s1 data
            match e with
            | some (st, fa) => s2.accessError n st fa
            | none => s2
      else
        let s1 := s.answerLines n i fun _ => true
        let l1 := ((s1.core n).rloads[i]?).getD l
        let data := l.bytes.map fun a => ((l1.fwd.find? fun e => e.1 = a).map Prod.snd).getD 0xFF
        l1.errs.foldl (fun s st => s.loadError n l.serial st (l.bytes.headD 0)) (land s1 data)

/-! ### Flush and exceptions -/

/-- Squashes the coprocessor operations of a flushed bundle (R150). -/
def squash (s : State) (n : Nat) (b : Bundle) : State :=
  let k := n / 8
  b.cops.foldl (fun s o => match o with
    | .commit u tag d =>
      let c := s.cop k u
      let mine (x : CopCmd) : Bool := x.tag = tag && x.ctx = ownCtx n d && !isRemote x && !x.committed
      (s.setCop k u { c with queue := ldrop1 mine c.queue }).freeTag n u d tag none
    | .issue t u tag d _ => s.freeTag n u d tag (some t)
    | _ => s) s

/-- Flushes every bundle in flight (R125, R129, R150): the registers are those before the oldest of them. -/
def flush (s : State) (n : Nat) : State :=
  match (s.core n).flight with
  | [] => s
  | b :: _ =>
    let s1 := (s.core n).flight.foldl (fun s x => s.squash n x) s
    let c := s1.core n
    s1.setCore n { c with flight := [], arch := b.before,
                          rloads := c.rloads.map fun l => if b.serial ≤ l.serial then { l with dead := true } else l }

/-- The handler is entered (R130): C1 to C5 are written, C1.VALID set, and PC is C6.HANDLER. -/
def enterHandler (s : State) (n : Nat) (e : Exc) (epc : Nat) (it : Option (Nat × Nat)) (best : Sparse (Int × Nat)) : State :=
  let c := s.core n
  let r := c.arch
  let (k, rem) := it.getD (0, 0)
  let r1 := ((((r.setC 1 (BitVec.ofNat 32 (2 ^ 31 + e.detail * 256 + e.code))).setC 2 (BitVec.ofNat 32 epc)).setC 3
    (BitVec.ofNat 32 e.addr)).setC 4 (BitVec.ofNat 32 ((e.addr >>> 32) % 2 ^ 16))).setC 5 (BitVec.ofNat 32 (k * 2 ^ 16 + rem))
  s.setCore n { c with arch := { r1 with pc := (r.getC 6).toNat % 2 ^ 13, rep := none }, best := best }

/-- The registers as the committed bundles of a core leave them. -/
def committedArch (s : State) (n : Nat) : Arch :=
  match (s.core n).flight with
  | [] => (s.core n).arch
  | b :: _ => b.before

/-- C1.VALID of a core, as its committed bundles leave it: a RETE that may still be flushed has not cleared it. -/
def handling (s : State) (n : Nat) : Bool := ((s.committedArch n).getC 1).msb

/-- A core stops as a faulting unit (R132): unavailable to its slice, every task of it aborted, DEGRADED where R528 says
so. -/
def stopCore (s : State) (n first second : Nat) : State :=
  let r := n / 48
  let s1 := (s.setCore n { s.core n with run := .stopped }).raise 0x0201 n n first second
  ((s1.setUnavail r (n % 48) true).abortUnit r (n % 48) 1).airSync

/-- EXCEPTION_TAKEN (R129 to R132): the oldest bundle reaches write-back with an exception. -/
def takeException (s : State) (n : Nat) : State :=
  match (s.core n).flight with
  | [] => s
  | b :: _ =>
    match b.exc with
    | none => s
    | some e =>
      let s1 := s.flush n
      if s1.handling n then s1.stopCore n (bits ((s1.core n).arch.getC 1).toNat 0 8) e.code
      else
        let best := match b.before.rep with
          | some p => p.best
          | none => []
        s1.enterHandler n e b.pc b.iter best

/-- Counts a further access error while C1.VALID is 1 (R130, R172), in the registers and in those a flush would restore. -/
def countMore (s : State) (n : Nat) : State :=
  let c := s.core n
  let more (r : Arch) : Arch :=
    let c1 := (r.getC 1).toNat
    r.setC 1 (BitVec.ofNat 32 (setBits c1 16 8 (min (bits c1 16 8 + 1) 0xFF)))
  s.setCore n { c with arch := more c.arch, flight := c.flight.map fun b => { b with before := more b.before } }

/-- Whether the boundary of R152 has been reached: no bundle in flight holds a CMOV and no remote CMOV awaits its data. -/
def atBoundary (s : State) (n : Nat) : Bool :=
  (s.core n).flight.all (fun b => !b.cmov) && (s.core n).rloads.all fun l => l.form ≠ 4 || l.dead

/-- An exception at a bundle boundary is taken (R130, R152): the bundles in flight are flushed, and C2 holds the next
bundle to issue. -/
def takeAtBoundary (s : State) (n : Nat) (e : Exc) : State :=
  if s.handling n then s.countMore n
  else
    let it := match (s.core n).flight with
      | b :: _ => b.iter
      | [] => (s.core n).arch.rep.map fun p => (p.k, p.rem)
    let s1 := s.flush n
    let r := (s1.core n).arch
    let best := match r.rep with
      | some p => p.best
      | none => []
    s1.enterHandler n e (match r.rep with | some p => p.body | none => r.pc) it best

end State

end Sys2Proof.Machine
end

