-- ==== Sys2Proof/Machine/CopRun.lean ====
section
/-! DEFINITION. The coprocessors at work (R139 to R174): the start of a command, its computation, its completion, the
intakes, the trigger slots and the bindings. -/

namespace Sys2Proof.Machine

/-! ### Arithmetic -/

/-- A complex number of integers. -/
structure CInt where
  re : Int
  im : Int
  deriving DecidableEq, Repr

def CInt.add (x y : CInt) : CInt := ⟨x.re + y.re, x.im + y.im⟩
def CInt.mul (x y : CInt) : CInt := ⟨x.re * y.re - x.im * y.im, x.re * y.im + x.im * y.re⟩
def CInt.conj (x : CInt) : CInt := ⟨x.re, -x.im⟩

/-- 2π scaled by 2^80. -/
def twoPi80 : Int := 7595904947272677161575987

/-- cos and sin of 2π m/M scaled by 2^60, for 8 m ≤ M, by their series. -/
def cisSmall (m M : Nat) : CInt :=
  let x : Int := twoPi80 * (m : Int) / (M : Int)
  let term (a : Int) (i : Nat) : Int := a * x / 2 ^ 80 / ((i : Int) + 1)
  let (c, s, _) := (List.range 24).foldl (fun (r : Int × Int × Int) i =>
    let (c, s, a) := r
    let t := term a i
    match i % 4 with
    | 0 => (c, s + t, t)
    | 1 => (c - t, s, t)
    | 2 => (c, s - t, t)
    | _ => (c + t, s, t)) ((2 : Int) ^ 80, 0, 2 ^ 80)
  ⟨(c + 2 ^ 19) / 2 ^ 20, (s + 2 ^ 19) / 2 ^ 20⟩

/-- cos and sin of 2π m/M scaled by 2^60, for M a multiple of 8: the octants by symmetry, so that exact cancellations
stay exact. -/
def cis (m M : Nat) : CInt :=
  let m := m % M
  let q := 4 * m / M
  let r := m - q * (M / 4)
  let z := if 8 * r ≤ M then cisSmall r M else let w := cisSmall (M / 4 - r) M; ⟨w.im, w.re⟩
  match q with
  | 0 => z
  | 1 => ⟨-z.im, z.re⟩
  | 2 => ⟨-z.re, -z.im⟩
  | _ => ⟨z.im, -z.re⟩

/-- The complex elements of a run of 64-byte lines, or of bytes: real part in the lower halfword. -/
def cElems (bs : List Byte) (n : Nat) : List CInt :=
  (List.range n).map fun i => ⟨sgn 16 (fieldAt bs (4 * i) 2), sgn 16 (fieldAt bs (4 * i + 2) 2)⟩

/-- An output part: the exact value rounded half up, with the error that R164 and R167 allow, saturated; and whether it
saturates. `free` selects the free error within `bound`. -/
def outPart (v : Int) (bound free : Nat) : Nat × Bool :=
  let e : Int := (Config.freeValue free % (2 * bound + 1) : Nat) - (bound : Int)
  (wrapTo 16 (clampTo 16 (v + e)), exceeds 16 (v + e))

/-- An exact output part. -/
def exactPart (v : Int) : Nat × Bool := (wrapTo 16 (clampTo 16 v), exceeds 16 v)

/-- The bytes of complex outputs. -/
def partBytes (ps : List ((Nat × Bool) × (Nat × Bool))) : List Byte :=
  ps.flatMap fun p => leBytes 2 p.1.1 ++ leBytes 2 p.2.1

def anySat (ps : List ((Nat × Bool) × (Nat × Bool))) : Bool := ps.any fun p => p.1.2 || p.2.2

/-- The transform of R164, each part within ±2 LSB of the value of the formula. -/
def transform (xs : List CInt) (inverse half : Bool) (scale : Int) (free : Nat) : List ((Nat × Bool) × (Nat × Bool)) :=
  let n := xs.length
  let m := 2 * n
  (List.range n).map fun k =>
    let sum := (List.range n).foldl (fun (a : CInt) i =>
      let turn := if inverse then 2 * k * i else m * i - 2 * k * i
      a.add ((xs.getD i ⟨0, 0⟩).mul (cis (turn + if half then i else 0) m))) ⟨0, 0⟩
    -- a sum on a tie, known to within far less than this, rounds up
    let part (v : Int) : Int := roundScale (v + 2 ^ 24) (60 + scale)
    (outPart (part sum.re) 2 (free + 2 * k), outPart (part sum.im) 2 (free + 2 * k + 1))

/-- Element (i, j) of a matrix laid out one row per 64-byte line. -/
def elemAt (bs : List Byte) (i j : Nat) : CInt :=
  ⟨sgn 16 (fieldAt bs (64 * i + 4 * j) 2), sgn 16 (fieldAt bs (64 * i + 4 * j + 2) 2)⟩

/-- CMUL (R166, R167): parts of C, row by row; lanes beyond the last column are free. -/
def matMul (a b : List Byte) (m n p : Nat) (herm : Bool) (scale : Int) (free : Nat) : List Byte × Bool :=
  let rows := (List.range m).map fun i => (List.range 16).map fun j =>
    if j < p then
      let sum := (List.range n).foldl (fun (t : CInt) l =>
        t.add ((if herm then (elemAt a l i).conj else elemAt a i l).mul (elemAt b l j))) ⟨0, 0⟩
      (exactPart (roundScale sum.re (15 + scale)), exactPart (roundScale sum.im (15 + scale)))
    else ((Config.freeValue (free + 32 * i + 2 * j) % 2 ^ 16, false), (Config.freeValue (free + 32 * i + 2 * j + 1) % 2 ^ 16, false))
  (rows.flatMap partBytes, rows.any anySat)

/-- A complex rational. -/
structure CRat where
  re : Rat
  im : Rat

def CRat.zero : CRat := ⟨0, 0⟩
def CRat.add (x y : CRat) : CRat := ⟨x.re + y.re, x.im + y.im⟩
def CRat.sub (x y : CRat) : CRat := ⟨x.re - y.re, x.im - y.im⟩
def CRat.mul (x y : CRat) : CRat := ⟨x.re * y.re - x.im * y.im, x.re * y.im + x.im * y.re⟩
def CRat.conj (x : CRat) : CRat := ⟨x.re, -x.im⟩
def CRat.scale (q : Rat) (x : CRat) : CRat := ⟨q * x.re, q * x.im⟩
def CRat.normSq (x : CRat) : Rat := x.re * x.re + x.im * x.im

/-- A matrix as rows. -/
abbrev CMatQ := List (List CRat)

def mAt (m : CMatQ) (i j : Nat) : CRat := (m.getD i []).getD j CRat.zero

/-- The Hermitian matrix of a CHOL or CINV: the lower triangle and the real part of the diagonal (R167). -/
def hermOf (bs : List Byte) (n : Nat) : CMatQ :=
  (List.range n).map fun i => (List.range n).map fun j =>
    let q (z : CInt) : CRat := ⟨(z.re : Rat) / 32768, (z.im : Rat) / 32768⟩
    if j < i then q (elemAt bs i j) else if i = j then ⟨(q (elemAt bs i i)).re, 0⟩ else (q (elemAt bs j i)).conj

/-- The factorisation A = L D L^H of a Hermitian matrix, column by column: the columns of L below the unit diagonal (as
rows of pairs) and the pivots. A pivot of 0 leaves a zero column. -/
def ldl (a : CMatQ) (n : Nat) : CMatQ × List Rat :=
  (List.range n).foldl (fun (r : CMatQ × List Rat) j =>
    let (cols, ds) := r
    -- cols.getD l [] is column l of L
    let lAt (i l : Nat) : CRat := (cols.getD l []).getD i CRat.zero
    let d := (mAt a j j).re - ((List.range j).map fun l => ds.getD l 0 * (lAt j l).normSq).sum
    let col := (List.range n).map fun i =>
      if i < j then CRat.zero else if i = j then ⟨1, 0⟩ else
        let t := (List.range j).foldl (fun t l => t.sub (CRat.scale (ds.getD l 0) ((lAt i l).mul (lAt j l).conj))) (mAt a i j)
        if d = 0 then CRat.zero else CRat.scale (1 / d) t
    (cols ++ [col], ds ++ [d])) ([], [])

/-- The threshold of R168. -/
def pivotFails (a : CMatQ) (n : Nat) (ds : List Rat) : Bool :=
  let top := (List.range n).foldl (fun (m : Rat) i => if m < (mAt a i i).re then (mAt a i i).re else m) ((mAt a 0 0).re)
  let t := if 0 < top / 2 ^ 24 then top / 2 ^ 24 else 0
  ds.any fun d => decide (d ≤ t)

/-- The inverse of L (columns `cols`, unit lower triangular), row by row. -/
def lowerInv (cols : CMatQ) (n : Nat) : CMatQ :=
  (List.range n).foldl (fun rows i =>
    rows ++ [(List.range n).map fun j =>
      if i < j then CRat.zero else if i = j then ⟨1, 0⟩ else
        (List.range i).foldl (fun t l => t.sub (((cols.getD l []).getD i CRat.zero).mul (mAt rows l j))) CRat.zero]) []

/-- A^(-1) = L^(-H) D^(-1) L^(-1). -/
def hermInv (cols : CMatQ) (ds : List Rat) (n : Nat) : CMatQ :=
  let li := lowerInv cols n
  (List.range n).map fun i => (List.range n).map fun j =>
    (List.range n).foldl (fun t l => t.add (CRat.scale (1 / ds.getD l 1) ((mAt li l i).conj.mul (mAt li l j)))) CRat.zero

/-- The square root of a rational to 2^-60. -/
def sqrtQ (q : Rat) : Rat := (Nat.sqrt ((q * 2 ^ 120).floor.toNat) : Rat) / 2 ^ 60

/-- The whole LSBs within 2 + κ/2^11, the error bound of R167. The spec does not name the norm of κ; this is the Frobenius
norm's, which is never below the spectral one (DESIGN CHOICE, log entry 24). -/
def errBound (a inv : CMatQ) : Nat :=
  let fro (m : CMatQ) : Rat := (m.map fun r => (r.map CRat.normSq).sum).sum
  2 + Nat.sqrt ((fro a * fro inv / 2 ^ 22).floor.toNat)

/-- round(y × 2^(15 − SCALE)), half up. -/
def fracPart (y : Rat) (scale : Int) : Int :=
  let k := 15 - scale
  let z := if 0 ≤ k then y * 2 ^ k.toNat else y / 2 ^ (-k).toNat
  (z + 1 / 2).floor

/-- CHOL and CINV (R166 to R168): the result bytes, whether a part saturates, and whether a pivot fails. Lanes beyond column n, which
hold no result element, are free. -/
def factor (bs : List Byte) (n : Nat) (inverse : Bool) (scale : Int) (free : Nat) : List Byte × Bool × Bool :=
  let a := hermOf bs n
  let (cols, ds) := ldl a n
  let lane (i j : Nat) : Nat := free + 32 * i + 2 * j
  let open_ (f : Nat) : (Nat × Bool) × Nat × Bool := ((Config.freeValue f % 2 ^ 16, false), (Config.freeValue (f + 1) % 2 ^ 16, false))
  if pivotFails a n ds then
    (((List.range n).map fun i => (List.range 16).map fun j => if n ≤ j then open_ (lane i j) else ((0, false), (0, false))).flatMap
      partBytes, false, true)
  else
    let inv := hermInv cols ds n
    let b := errBound a inv
    let rows := (List.range n).map fun i => (List.range 16).map fun j =>
      let f := lane i j
      if n ≤ j then open_ f
      else if !inverse && i < j then ((0, false), (0, false))
      else
        let y := if inverse then mAt inv i j else CRat.scale (sqrtQ (ds.getD j 0)) ((cols.getD j []).getD i CRat.zero)
        (outPart (fracPart y.re scale) b f, outPart (fracPart y.im scale) b (f + 1))
    (rows.flatMap partBytes, rows.any anySat, false)

namespace State

/-! ### Start -/

/-- Whether an earlier CMOV.TO of the command's context has not committed (R144). -/
def moveBefore (s : State) (u : Nat) (x : CopCmd) : Bool :=
  match x.origin with
  | .core n d _ =>
    if x.committed then false else
      let own (o : CopOp) : Bool := decide (o = .commit u x.tag d)
      ((s.core n).flight.takeWhile fun b => !b.cops.any own).any fun b => b.cops.any fun o => match o with
        | .moveTo u' c _ _ => decide (u' = u ∧ c = x.ctx)
        | _ => false
  | _ => false

/-- The lines a register-form command reads: whether all decode, and their bytes (R135). -/
def readRegs (s : State) (k u : Nat) (x : CopCmd) : Bool × List Byte × State :=
  let rs := cmdReads u x.words
  let (ok, s1) := rs.foldl (fun (m : Bool × State) r => let (g, s') := m.2.crDecode k u x.ctx r; (m.1 && g, s')) (true, s)
  (ok, rs.flatMap fun r => leBytes 64 (s.getCR k u x.ctx r).toNat, s1)

/-- COPROC_COMMAND_START (R144, R148, R149, R169): the next command in queue order starts when it may, and takes in its
operands. -/
def copStart (s : State) (k u : Nat) : State :=
  let c := s.cop k u
  let solo (x : CopCmd) : Bool := cmdOpc x.words = 0x11 || cmdOpc x.words = 0x12
  let run := c.queue.filter fun x => x.started
  match c.queue.findIdx? (fun x => !x.started && x.err.isNone) with
  | none => s
  | some i =>
    match c.queue[i]? with
    | none => s
    | some x =>
      if 2 ≤ run.length || run.any solo || (solo x && !run.isEmpty) || (cmdMem x.words && !x.committed) ||
          s.moveBefore u x || s.copUnavail k u then s
      else if cmdMem x.words then
        let (la, lb, _) := cmdLens u x.words
        let (e1, d1, s1) := s.busRead k (cmdSaddr x.words) la
        let (e2, d2, s2) := if lb = 0 then ((none : Option (Nat × Nat)), ([] : List Byte), s1) else
          s1.busRead k (cmdSaddr x.words + 0x400) lb
        let e : Option (Nat × Nat) := if e1.isSome then e1 else e2
        s2.setCmd k u i { x with started := true, inBytes := d1 ++ d2, err := e.map fun (p : Nat × Nat) => (4 + 16 * p.1, p.2) }
      else
        let (ok, d, s1) := s.readRegs k u x
        s1.setCmd k u i { x with started := true, inBytes := d, err := if ok then none else some (6, 0) }

/-! ### Computation -/

/-- The result of command `x` of unit `u` from its operands; `free` numbers the free values it may draw. -/
def copResult (u : Nat) (x : CopCmd) (free : Nat) : CopResult :=
  let w := x.words
  if u = 0 then
    let n := cmdParam w + 1
    let ps := transform (cElems x.inBytes n) (cmdOpc w = 2 || cmdOpc w = 4) (bit (cmdOpt w) 0) (cmdScale w) free
    let bs := partBytes ps
    let pad := if cmdMem w then bs else bs ++ List.replicate (64 * ((n + 15) / 16) - 4 * n) 0
    ⟨pad, anySat ps, false⟩
  else
    let (m, n, p) := matDims w
    if cmdOpc w = 0x10 then
      let (a, _, _) := cmdRegs u w
      let (bs, sat) := matMul x.inBytes (x.inBytes.drop (64 * a)) m n p (bit (cmdOpt w) 0) (cmdScale w) free
      ⟨bs, sat, false⟩
    else
      let (bs, sat, notpd) := factor x.inBytes n (cmdOpc w = 0x12) (cmdScale w) free
      ⟨bs, sat, notpd⟩

/-- The oldest started command of an opcode computes its result (R164, R167). -/
def copCompute (s : State) (k u opc : Nat) : State :=
  match (s.cop k u).queue.findIdx? (fun x => x.started && x.err.isNone && x.result.isNone && cmdOpc x.words = opc) with
  | none => s
  | some i =>
    match (s.cop k u).queue[i]? with
    | none => s
    | some x => { s.setCmd k u i { x with result := some (copResult u x s.free) } with free := s.free + 16384 }

/-! ### Completion -/

/-- The crossing that carries the NTF pulses of cluster `k` (R170, R638). -/
def ntfXing (k : Nat) : Xid := ⟨k, 28 + k / 6, 6, 0⟩

/-- Frees the tag of a completed command: at the issuing core, or by the notice to it (R138, R156). -/
def tagDone (s : State) (k u : Nat) (x : CopCmd) (detail addr : Nat) : State :=
  match x.origin with
  | .core n d task =>
    let s1 := s.freeTag n u d x.tag none
    if detail = 0 then s1 else s1.deferCop n u d task x.tag detail addr
  | .remote n d => s.sendNotice k u n d x.tag detail addr x.stale
  | .slot _ => s

/-- Writes the results of a command (R148, R171): the error of the first write that fails. -/
def writeResult (s : State) (k u : Nat) (x : CopCmd) (r : CopResult) : Option (Nat × Nat) × State :=
  if cmdMem x.words then s.busWrite k (cmdDaddr x.words) r.bytes
  else
    (none, (cmdWrites u x.words).zipIdx.foldl (fun s (n, i) =>
      s.setCR k u x.ctx n (BitVec.ofNat 512 (fieldAt r.bytes (64 * i) 64))) s)

/-- COPROC_COMMAND_COMPLETE (R170 to R172): the first command with its result, or its error, completes. -/
def copComplete (s : State) (k u : Nat) : State :=
  let c := s.cop k u
  if c.held.isSome then s else
    match c.queue.findIdx? (fun x => x.committed && (x.err.isSome || x.result.isSome)) with
    | none => s
    | some i =>
      match c.queue[i]? with
      | none => s
      | some x =>
        let s0 := s.setCop k u { c with queue := c.queue.eraseIdx i }
        let src := 192 + 2 * k + u
        let (err, s1) := match x.err, x.result with
          | some e, _ => (some e, s0)
          | none, some r =>
            let (e, s') := s0.writeResult k u x r
            let a := CX_CTXST.adr k u x.ctx
            let s' := if r.sat then
              ((s'.wf a CX_CTXST.SAT 1).wf (CX_STAT.adr k u) CX_STAT.SAT 1).raise 0x0208 src x.ctx (cmdName x) 0 else s'
            let s' := if r.notpd then (s'.wf a CX_CTXST.NOTPD 1).raise 0x0207 src x.ctx (cmdName x) 0 else s'
            (e.map fun (p : Nat × Nat) => (4 + 16 * p.1, p.2), s')
          | none, none => (none, s0)
        match err with
        | some (d, a) => (s1.ctxErr k u x.ctx d (cmdName x)).tagDone k u x d a
        | none =>
          if !cmdNtf x.words then s1.tagDone k u x 0 0
          else
            let s2 := s1.pulse (ntfXing k) u (cmdCtr x.words)
            if s2.pulseHeld (ntfXing k) u then s2.setCop k u { s2.cop k u with held := some x }
            else s2.tagDone k u x 0 0

/-- A pulse that a coprocessor held has been taken (R170): its command's tag frees. -/
def ntfTaken (s : State) (k u : Nat) : State :=
  match (s.cop k u).held with
  | none => s
  | some x =>
    if s.pulseHeld (ntfXing k) u then s
    else (s.setCop k u { s.cop k u with held := none }).tagDone k u x 0 0

/-- COPROC_DEFERRED_EXCEPTION (R172): the oldest deferred coprocessor error that can be taken at this boundary, or whose
task has ended. -/
def copDeferred (s : State) (n : Nat) : State :=
  let c := s.core n
  let ended (d : DefExc) : Bool := sget c.tasks d.depth 0 ≠ d.task
  let now (d : DefExc) : Bool := d.exc.code = 8 && (ended d || (c.run = .running && c.depth = d.depth))
  match c.defer.find? now with
  | none => s
  | some d =>
    let s1 := s.setCore n { c with defer := ldrop1 (fun x => x = d) c.defer }
    if ended d then
      -- reasons 3 and 7 have no context at a target: the issuer's own context of that depth names them
      let r := d.exc.detail % 16
      if r = 3 ∨ r = 7 then s1.ctxErr (n / 8) d.u (ownCtx n d.depth) d.exc.detail d.tag else s1
    else if s.handling n then s1.countMore n
    else if s.atBoundary n then s1.takeAtBoundary n d.exc else s

end State

/-- COPROC_COMMAND_START (R144). -/
def execCoprocCommandStart (k : ClusterId) (u : UnitId) (s : State) : Result := .next (s.copStart k u)

/-- FFT (R163 to R165). -/
def execFft (k : ClusterId) (s : State) : Result := .next (s.copCompute k 0 1)

/-- IFFT (R163 to R165). -/
def execIfft (k : ClusterId) (s : State) : Result := .next (s.copCompute k 0 2)

/-- DFT (R163 to R165). -/
def execDft (k : ClusterId) (s : State) : Result := .next (s.copCompute k 0 3)

/-- IDFT (R163 to R165). -/
def execIdft (k : ClusterId) (s : State) : Result := .next (s.copCompute k 0 4)

/-- CMUL (R166, R167). -/
def execCmul (k : ClusterId) (s : State) : Result := .next (s.copCompute k 1 0x10)

/-- CHOL (R166 to R168). -/
def execChol (k : ClusterId) (s : State) : Result := .next (s.copCompute k 1 0x11)

/-- CINV (R166 to R168). -/
def execCinv (k : ClusterId) (s : State) : Result := .next (s.copCompute k 1 0x12)

/-- COPROC_COMMAND_COMPLETE (R143, R170 to R172). -/
def execCoprocCommandComplete (k : ClusterId) (u : UnitId) (s : State) : Result := .next (s.copComplete k u)

/-- COMMAND_INTAKE_WRITE (R154, R158): the four words and the issuer word. -/
def execCommandIntakeWrite (k : ClusterId) (u : UnitId) (src : SrcId) (core : BitVec 8) (depth : BitVec 2)
    (w0 w1 w2 w3 : Word) (s : State) : Result :=
  .next (s.portCommand k u src (wordsVal [w0, w1, w2, w3] + 2 ^ 128 * (core.toNat + 256 * depth.toNat)))

/-- COMPLETION_INTAKE_WRITE (R156, R158, R174). -/
def execCompletionIntakeWrite (k : ClusterId) (src : SrcId) (u : UnitId) (core : BitVec 8) (depth : BitVec 2)
    (tag : BitVec 4) (target : ClusterId) (detail : BitVec 8) (addr : Addr) (s : State) : Result :=
  .next (s.intakeNotice k src u core.toNat depth.toNat tag.toNat target detail.toNat addr.toNat)

/-- REMOTE_TAG_TIMEOUT (R156). -/
def execRemoteTagTimeout (n : CoreId) (u : UnitId) (depth : BitVec 2) (tag : BitVec 4) (s : State) : Result :=
  .next (s.tagTimeout n u depth.toNat tag.toNat)

/-- CONTEXT_WINDOW_ACCESS (R157, R159): a read, or a write of the enabled bytes, of CR `r` of context 32 + `i`. -/
def execContextWindowAccess (src : SrcId) (tag : BitVec 8) (k : ClusterId) (u : UnitId) (i : Fin 8) (r : Fin 32)
    (write : Option (BitVec 64 × Line)) (s : State) : Result :=
  let a := cxBase k + 0x8000 + 0x4000 * u.val + 0x800 * i.val + 0x40 * r.val
  .next (match write with
    | none =>
      let (st, isl, d, s1) := s.lineRead src tag.toNat a 64
      s1.respond src tag.toNat a st isl d
    | some (en, data) =>
      let (st, isl, s1) := s.lineWrite src tag.toNat a .part en.toNat data.toNat
      s1.respond src tag.toNat a st isl [])

/-- COPROC_DEFERRED_EXCEPTION (R172). -/
def execCoprocDeferredException (n : CoreId) (s : State) : Result := .next (s.copDeferred n)

/-- TRIGGER_PULSE (R160 to R162). -/
def execTriggerPulse (k : ClusterId) (u : UnitId) (slot : Fin 16) (count : BitVec 4) (s : State) : Result :=
  .next (s.triggerPulse k u slot count.toNat)

/-- TRIGGER_PEND_ENTER (R161). -/
def execTriggerPendEnter (k : ClusterId) (u : UnitId) (slot : Fin 16) (s : State) : Result :=
  .next (s.triggerEnter k u slot)

/-- CX_BIND_APPLY (R173). -/
def execCxBindApply (k : ClusterId) (u : UnitId) (i : Fin 8) (s : State) : Result := .next (s.bindApply k u i)

end Sys2Proof.Machine
end

