-- ==== Sys2Proof/Machine/Codes.lean ====
section
/-! DEFINITION. What the engines of an accelerator group compute: the LDPC, polar, short block, turbo and convolutional
codes (R236, R237, R247 to R253) and the detection of R260 and R261. The constructions are those of the standards that
the spec names (PRESUMED, log entry 10); their tables, and what an engine's arithmetic leaves open, are constants of
Config without a body. LLRs and bits are in the order of the standards. -/

namespace Sys2Proof.Machine

/-- The hard decision of an LLR (R231). Which bit an LLR of 0 gives is the engine's. -/
def hardBit (x : Rat) : Bool := if x = 0 then Config.hardZero else decide (x < 0)

/-- The sum modulo 2 of the items of `bs` at the positions `ps`. -/
def xorAt (bs : List Bool) (ps : List Nat) : Bool := ps.foldl (fun a p => a != bs.getD p false) false

/-- Solves linear equations over GF(2) in unknowns 0 to n − 1: bit j of an equation is the coefficient of unknown j, and
bit n is its right side. -/
def gf2Solve (n : Nat) (eqs : List Nat) : List Bool :=
  let (done, _) := (List.range n).foldl (fun (a : List (Nat × Nat) × List Nat) j =>
    match a.2.find? (fun r => bit r j) with
    | none => a
    | some p =>
      let clear (r : Nat) : Nat := if bit r j then r ^^^ p else r
      (a.1.map (fun q => (q.1, clear q.2)) ++ [(j, p)], (ldrop1 (fun r => r = p) a.2).map clear)) ([], eqs)
  (List.range n).map fun j => done.any fun q => q.1 = j && bit q.2 n

/-! ### LDPC codes -/

/-- Information columns and rows of a base graph. -/
def bgInfo (bg : Nat) : Nat := if bg = 0 then 22 else 10
def bgRows (bg : Nat) : Nat := if bg = 0 then 46 else 42

/-- The set index of a lifting size. -/
def liftSet (zc : Nat) : Nat :=
  ((List.range 8).find? fun i => (List.range 8).any fun j => zc = [2, 3, 5, 7, 9, 11, 13, 15].getD i 0 * 2 ^ j).getD 0

/-- The circulants of base graph row `r`: column and shift. Rows from the fifth on end in a unit column. -/
def ldpcRow (bg zc r : Nat) : List (Nat × Nat) :=
  ((List.range (bgInfo bg + 4)).filterMap fun c => (Config.ldpcShift bg (liftSet zc) r c).map fun v => (c, v % zc)) ++
    if 4 ≤ r then [(bgInfo bg + r, 0)] else []

/-- The code word positions of check `i` of a row. -/
def checkBits (zc i : Nat) (row : List (Nat × Nat)) : List Nat := row.map fun (c, v) => c * zc + (i + v) % zc

/-- The N bits of the circular buffer of K information bits, fillers 0 (R247): the parity bits of the first four rows
solve their checks, and every further row gives one parity column. -/
def ldpcEncode (bg zc : Nat) (info : List Bool) : List Bool :=
  let kb := bgInfo bg
  let eq (r i : Nat) : Nat :=
    let (known, open_) := (checkBits zc i (ldpcRow bg zc r)).partition fun p => p < kb * zc
    open_.foldl (fun a p => a ^^^ 2 ^ (p - kb * zc)) (b2n (xorAt info known) * 2 ^ (4 * zc))
  let core := gf2Solve (4 * zc) ((List.range 4).flatMap fun r => (List.range zc).map (eq r))
  let w := info ++ core
  let ext := (List.range (bgRows bg - 4)).flatMap fun r => (List.range zc).map fun i =>
    xorAt w (checkBits zc i ((ldpcRow bg zc (r + 4)).dropLast))
  (w ++ ext).drop (2 * zc)

/-- P of R237: one more than the highest position that holds an LLR other than 0. -/
def topLlr (llr : List Int) : Nat := llr.zipIdx.foldl (fun m (v, p) => if v = 0 then m else p + 1) 0

/-- The active rows of R237. -/
def activeRows (bg zc : Nat) (llr : List Int) : Nat :=
  max 4 ((topLlr llr + 2 * zc + zc - 1) / zc - bgInfo bg)

/-- A message of 10 bits (R236). What a value outside them becomes is the engine's. -/
def msg10 (x : Int) : Int := if -512 ≤ x ∧ x < 512 then x else clampTo 10 (Config.llrMsg x)

/-- A decoder's state: the LLR of every code word bit, and the messages of every check to its bits. -/
structure LayerSt where
  post : List Int
  msgs : List (List Int)

/-- Offset min-sum at check `k` on the bits `ps` (R236): each bit hears the product of the other bits' signs and the
least of their magnitudes, less the offset. -/
def minSum (offset : Nat) (x : LayerSt) (k : Nat) (ps : List Nat) : LayerSt :=
  let old := x.msgs.getD k []
  let ins := ps.zipIdx.map fun (p, j) => msg10 (x.post.getD p 0 - old.getD j 0)
  let outs := ins.zipIdx.map fun (_, j) =>
    let others := ins.eraseIdx j
    let m : Nat := others.foldl (fun m v => min m v.natAbs) 512 - offset
    if (others.filter fun v => decide (v < 0)).length % 2 = 1 then -(m : Int) else m
  { post := (ps.zip (ins.zip outs)).foldl (fun l (p, (a, b)) => l.set p (a + b)) x.post, msgs := x.msgs.set k outs }

/-- Runs iterations until `stop` holds of the state after one, at most `n`: how many ran, and the last state. -/
def iterateUntil {σ : Type} (f : σ → σ) (stop : σ → Bool) : Nat → Nat → σ → Nat × σ
  | 0, done, x => (done, x)
  | n + 1, done, x => let y := f x; if stop y then (done + 1, y) else iterateUntil f stop n (done + 1) y

/-- The LDPC decoder (R236, R237): layered offset min-sum over the active rows, from the first row on. `pass` is the CRC
check of the hard decisions. The iterations run, and the K hard decisions. -/
def ldpcDecode (bg zc : Nat) (llr : List Int) (imax et offset : Nat) (pass : List Bool → Bool) : Nat × List Bool :=
  let checks := (List.range (activeRows bg zc llr)).flatMap fun r =>
    (List.range zc).map fun i => checkBits zc i (ldpcRow bg zc r)
  -- code bits that are never sent, before the circular buffer and past its end, have no input
  let all := (bgInfo bg + bgRows bg) * zc
  let sent := List.replicate (2 * zc) 0 ++ llr
  let start : LayerSt := ⟨sent ++ List.replicate (all - sent.length) 0, checks.map fun _ => []⟩
  let hard (x : LayerSt) : List Bool := x.post.map fun v => hardBit v
  let info (x : LayerSt) : List Bool := (hard x).take (bgInfo bg * zc)
  let stop (x : LayerSt) : Bool := (et = 1 || et = 2) && checks.all (fun ps => !xorAt (hard x) ps) && (et = 1 || pass (info x))
  let (n, x) := iterateUntil (fun x => checks.zipIdx.foldl (fun x (ps, k) => minSum offset x k ps) x) stop imax 0 start
  (n, info x)

/-! ### Turbo codes -/

/-- One step of the constituent encoder, octal 13 and 15, from a state whose bit 0 is the newest: the next state and the
parity bit. -/
def rscStep (st : Nat) (x : Bool) : Nat × Bool :=
  let a := x != (bit st 1 != bit st 2)
  (2 * st % 8 + b2n a, a != (bit st 0 != bit st 2))

/-- The input that drives the constituent encoder towards state 0. -/
def rscTail (st : Nat) : Bool := bit st 1 != bit st 2

/-- A constituent encoder over bits and its three termination steps: parities, then the tail's inputs and parities. -/
def rscEncode (xs : List Bool) : List Bool × List Bool :=
  let (st, ps) := xs.foldl (fun (a : Nat × List Bool) x => let (t, p) := rscStep a.1 x; (t, a.2 ++ [p])) (0, [])
  let (_, tail) := (List.range 3).foldl (fun (a : Nat × List Bool) _ =>
    let (t, p) := rscStep a.1 (rscTail a.1)
    (t, a.2 ++ [rscTail a.1, p])) (st, [])
  (ps, tail)

/-- The turbo code internal interleaver: the quadratic permutation of K with the coefficients of its table. -/
def turboPerm (k i : Nat) : Nat := let (f1, f2) := Config.turboCoef k; (f1 * i + f2 * i * i) % k

/-- The interleaved order of a list. -/
def turboMix {α : Type} (d : α) (k : Nat) (xs : List α) : List α := (List.range k).map fun i => xs.getD (turboPerm k i) d

/-- The list whose interleaved order is `xs`. -/
def turboUnmix {α : Type} (d : α) (k : Nat) (xs : List α) : List α :=
  (List.range k).foldl (fun l i => l.set (turboPerm k i) (xs.getD i d)) (List.replicate k d)

/-- The circular buffer of a turbo code block of K bits. -/
def turboEncode (k : Nat) (xs : List Bool) : List Bool :=
  let (p1, t1) := rscEncode xs
  let (p2, t2) := rscEncode (turboMix false k xs)
  let tail := t1 ++ t2
  let stream (st : Nat) : List Bool :=
    (match st with | 0 => xs | 1 => p1 | _ => p2) ++ (List.range 4).map fun j => tail.getD (3 * j + st) false
  (List.range (3 * kPi k)).map fun p =>
    let (st, y) := turboAt k p
    let nd := kPi k - (k + 4)
    y ≥ nd && (stream st).getD (y - nd) false

/-- The larger of two metrics, where none is no path. -/
def pathMax : Option Rat → Option Rat → Option Rat
  | none, b => b
  | some a, none => some a
  | some a, some b => some (if a < b then b else a)

/-- The branch metric of a bit with an LLR. -/
def branch (l : Rat) (b : Bool) : Rat := if b then -l / 2 else l / 2

/-- The max-log-MAP decoder of one constituent code (R252): LLRs of the K inputs and three tail inputs, a priori included,
and of their parities; `zero j` names an input known to be 0. The LLRs of the K inputs. -/
def maxLogMap (k : Nat) (zero : Nat → Bool) (sys par : List Rat) : List Rat :=
  let moves (j st : Nat) : List Bool := if k ≤ j then [rscTail st] else if zero j then [false] else [false, true]
  let gamma (j st : Nat) (x : Bool) : Rat := branch (sys.getD j 0) x + branch (par.getD j 0) (rscStep st x).2
  let at_ (m : List (Option Rat)) (st : Nat) : Option Rat := m.getD st none
  let open_ : List (Option Rat) := some 0 :: List.replicate 7 none
  let fwd := (List.range k).foldl (fun (l : List (List (Option Rat))) j =>
    let m := l.getLastD open_
    l ++ [(List.range 8).map fun t => (List.range 8).foldl (fun best st => (moves j st).foldl (fun best x =>
      if (rscStep st x).1 = t then pathMax best ((at_ m st).map fun v => v + gamma j st x) else best) best) none]) [open_]
  let bwd := (List.range (k + 3)).reverse.foldl (fun (l : List (List (Option Rat))) j =>
    let m := l.headD open_
    ((List.range 8).map fun st => (moves j st).foldl (fun best x =>
      pathMax best ((at_ m (rscStep st x).1).map fun v => v + gamma j st x)) none) :: l) [open_]
  (List.range k).map fun j =>
    let best (x : Bool) : Option Rat := (List.range 8).foldl (fun best st =>
      if (moves j st).contains x then
        match at_ (fwd.getD j []) st, at_ (bwd.getD (j + 1) []) (rscStep st x).1 with
        | some a, some b => pathMax best (some (a + gamma j st x + b))
        | _, _ => best
      else best) none
    match best false, best true with
    | some a, some b => a - b
    | some _, none => Config.certain
    | _, _ => -Config.certain

/-- The turbo decoder's state: the extrinsic LLRs of the second constituent, in the order of the inputs, and the LLRs. -/
structure TurboSt where
  ext : List Rat
  out : List Rat

/-- The turbo decoder (R252): max-log-MAP with extrinsics scaled by 0.75. `fill` bits at the start are known to be 0.
The iterations run, and the K hard decisions. -/
def turboDecode (k fill : Nat) (llr : List Int) (imax et : Nat) (pass : List Bool → Bool) : Nat × List Bool :=
  let nd := kPi k - (k + 4)
  let stream (st : Nat) : List Rat := (List.range (k + 4)).map fun i =>
    match (List.range (3 * kPi k)).find? (fun p => turboAt k p = (st, nd + i)) with
    | some p => (llr.getD p 0 : Int)
    | none => 0
  let (d0, d1, d2) := (stream 0, stream 1, stream 2)
  let tail (i : Nat) : Rat := ((match i % 3 with | 0 => d0 | 1 => d1 | _ => d2).getD (k + i / 3) 0)
  let tails (lo : Nat) : List Rat := [tail lo, tail (lo + 2), tail (lo + 4)]
  let sys := d0.take k
  let add (a b : List Rat) : List Rat := (a.zip b).map fun (x, y) => x + y
  let less (a b : List Rat) : List Rat := (a.zip b).map fun (x, y) => 3 / 4 * (x - y)
  let step (x : TurboSt) : TurboSt :=
    let in1 := add sys x.ext
    let e1 := less (maxLogMap k (fun j => j < fill) (in1 ++ tails 0) (d1.take k ++ tails 1)) in1
    let in2 := turboMix 0 k (add sys e1)
    let l2 := maxLogMap k (fun j => turboPerm k j < fill) (in2 ++ tails 6) (d2.take k ++ tails 7)
    ⟨turboUnmix 0 k (less l2 in2), turboUnmix 0 k l2⟩
  let hard (x : TurboSt) : List Bool := x.out.map hardBit
  let (n, x) := iterateUntil step (fun x => et = 1 && pass (hard x)) imax 0 ⟨List.replicate k 0, []⟩
  (n, hard x)

/-! ### Polar codes -/

/-- The sub-block interleaver's order: item n is J(n). -/
def polarJ (len n : Nat) : Nat :=
  [0, 1, 2, 4, 3, 5, 6, 7, 8, 16, 9, 17, 10, 18, 11, 19, 12, 20, 13, 21, 14, 22, 15, 23, 24, 25, 26, 28, 27, 29, 30, 31].getD
    (32 * n / len) 0 * (len / 32) + n % (len / 32)

/-- Whether rate matching to fewer bits punctures: K/E ≤ 7/16. -/
def punctured (k e : Nat) : Bool := 16 * k ≤ 7 * e

/-- The information bit indices of a polar code, least reliable first: the K + NPC most reliable that rate matching
leaves. -/
def polarInfo (len k e npc : Nat) : List Nat :=
  let barred (i : Nat) : Bool :=
    if len ≤ e then false
    else if punctured k e then
      (List.range (len - e)).any (fun n => polarJ len n = i) ||
        (if 3 * len ≤ 4 * e then decide (i < (3 * len - 2 * e + 3) / 4) else decide (i < (9 * len - 4 * e + 15) / 16))
    else (List.range (len - e)).any fun n => polarJ len (e + n) = i
  let free := ((List.range 1024).map Config.polarSeq).filter fun i => i < len && !barred i
  free.drop (free.length - (k + npc))

/-- Ones in a number below 2,048. -/
def popCount (i : Nat) : Nat := ((List.range 11).filter fun b => bit i b).length

/-- The indices among the information bits that carry parity checks. -/
def polarChecks (info : List Nat) (npc : Nat) (wm : Bool) : List Nat :=
  if npc = 0 then [] else
    let low := info.take (npc - b2n wm)
    let rest := info.drop npc
    let least := rest.foldl (fun m i => min m (popCount i)) 10
    low ++ if wm then ((rest.filter fun i => popCount i = least).getLast?).toList else []

/-- The polar transform: the product with the Kronecker power of the 2 by 2 kernel. -/
def polarTransform : Nat → List Bool → List Bool
  | 0, u => u
  | m + 1, u =>
    let a := polarTransform m (u.take (2 ^ m))
    let b := polarTransform m (u.drop (2 ^ m))
    ((a.zip b).map fun (x, y) => x != y) ++ b

/-- The input interleaver's order of K bits (IIL). -/
def polarIn (iil : Bool) (k : Nat) : List Nat :=
  if iil then ((List.range 164).filterMap fun m =>
    let v := Config.polarIil m
    if 164 ≤ v + k then some (v + k - 164) else none) else List.range k

/-- The order in which the triangular channel interleaver (IBIL) sends `e` bits. -/
def polarOut (ibil : Bool) (e : Nat) : List Nat :=
  if ibil then
    let t := ((List.range 130).find? fun t => decide (2 * e ≤ t * (t + 1))).getD 0
    (List.range t).flatMap fun j => (List.range (t - j)).filterMap fun i =>
      let p := i * t - i * (i - 1) / 2 + j
      if p < e then some p else none
  else List.range e

/-- The place in the polar code word of rate-matched bit `j`. -/
def polarPlace (len k e j : Nat) : Nat :=
  polarJ len (if len ≤ e then j % len else if punctured k e then j + len - e else j)

/-- What the polar code does at index `n` of its input: `none` for a frozen bit, else whether it is a parity check. -/
def polarRole (info checks : List Nat) (n : Nat) : Option Bool :=
  if info.contains n then some (checks.contains n) else none

/-- The parity register of five bits, moved on by one index. -/
def polarTurn (y : List Bool) : List Bool := y.drop 1 ++ y.take 1

/-- The fields of a polar job (R249): log2 of the length, K, E, NPC, PCWM, IIL, IBIL, LIST. -/
structure PolarPar where
  m : Nat
  k : Nat
  e : Nat
  npc : Nat
  wm : Bool
  iil : Bool
  ibil : Bool
  list : Nat

def polarPar (w : Nat) : PolarPar :=
  ⟨bits w 0 4, bits w 4 10, bits w 14 16, bits w 32 2, bit w 34, bit w 35, bit w 36, bits w 37 2⟩

/-- The polar encoder (R249): K bits to E bits. LIST plays no part. -/
def polarEncode (x : PolarPar) (c : List Bool) : List Bool :=
  let len := 2 ^ x.m
  let info := polarInfo len x.k x.e x.npc
  let checks := polarChecks info x.npc x.wm
  let c' := (polarIn x.iil x.k).map fun p => c.getD p false
  let (u, _, _) := (List.range len).foldl (fun (a : List Bool × List Bool × List Bool) n =>
    let y := polarTurn a.2.1
    match polarRole info checks n with
    | none => (a.1 ++ [false], y, a.2.2)
    | some true => (a.1 ++ [y.headD false], y, a.2.2)
    | some false =>
      let b := a.2.2.headD false
      (a.1 ++ [b], (y.headD false != b) :: y.drop 1, a.2.2.drop 1)) ([], List.replicate 5 false, c')
  let d := polarTransform x.m u
  (polarOut x.ibil x.e).map fun j => d.getD (polarPlace len x.k x.e j) false

/-- The LLR of the next input bit of a polar code of 2^m bits after the bits `us`. The check node is the engine's. -/
def polarLlr : Nat → List Int → List Bool → Int
  | 0, l, _ => l.headD 0
  | m + 1, l, us =>
    let h := 2 ^ m
    let ab := (l.take h).zip (l.drop h)
    if us.length < h then polarLlr m (ab.map fun (a, b) => Config.polarCheck a b) us
    else
      let x := polarTransform m (us.take h)
      polarLlr m ((ab.zip x).map fun ((a, b), u) => if u then b - a else b + a) (us.drop h)

/-- A path of the list decoder: its metric, its input bits, its parity register and its information bits. -/
structure PolarPath where
  cost : Nat
  us : List Bool
  reg : List Bool
  info : List Bool

/-- A path goes before another: the smaller cost, and at equal costs as the engine has it. -/
def pathBefore (a b : PolarPath) : Bool := a.cost < b.cost || (a.cost = b.cost && Config.pathTie a.us b.us)

/-- A path put in its place in a list of paths. -/
def pathInsert (p : PolarPath) : List PolarPath → List PolarPath
  | [] => [p]
  | q :: qs => if pathBefore p q then p :: q :: qs else q :: pathInsert p qs

/-- The polar decoder (R249): successive cancellation with a list of 2^LIST paths; the K bits of the first path, in the
order of cost, whose word passes the CRC, or else of the first. -/
def polarDecode (x : PolarPar) (llr : List Int) (pass : List Bool → Bool) : List Bool :=
  let len := 2 ^ x.m
  let info := polarInfo len x.k x.e x.npc
  let checks := polarChecks info x.npc x.wm
  -- a shortened bit is known to be 0, a punctured one is unknown
  let blank : List Int := (List.range len).map fun i =>
    if x.e < len && !punctured x.k x.e && (List.range (len - x.e)).any (fun n => polarJ len (x.e + n) = i) then
      Config.polarKnown else 0
  let chan := ((polarOut x.ibil x.e).zip llr).foldl (fun (l : List Int) (j, v) =>
    let p := polarPlace len x.k x.e j
    l.set p (l.getD p 0 + v)) blank
  let grow (n : Nat) (p : PolarPath) : List PolarPath :=
    let v := polarLlr x.m chan p.us
    let y := polarTurn p.reg
    let cost (b : Bool) : Nat := if (b && decide (0 < v)) || (!b && decide (v < 0)) then p.cost + v.natAbs else p.cost
    match polarRole info checks n with
    | none => [⟨cost false, p.us ++ [false], y, p.info⟩]
    | some true => let b := y.headD false; [⟨cost b, p.us ++ [b], y, p.info⟩]
    | some false => [false, true].map fun b => ⟨cost b, p.us ++ [b], (y.headD false != b) :: y.drop 1, p.info ++ [b]⟩
  let paths := (List.range len).foldl (fun (ps : List PolarPath) n =>
    ((ps.flatMap (grow n)).foldl (fun l p => pathInsert p l) []).take (2 ^ x.list)) [⟨0, [], List.replicate 5 false, []⟩]
  let word (p : PolarPath) : List Bool :=
    ((polarIn x.iil x.k).zip p.info).foldl (fun l (q, b) => l.set q b) (List.replicate x.k false)
  let words := paths.map word
  (words.find? pass).getD (words.headD [])

/-! ### Short block codes -/

/-- The basis sequences of the (32, O) code, one number a row. -/
def rmRows : List Nat :=
  [1027, 1543, 1865, 1293, 1167, 1491, 1877, 1433, 1691, 1629, 1765, 1383, 1961, 1707, 1201, 1779, 631, 313, 251, 97, 1093,
   1547, 1425, 1815, 991, 1251, 813, 943, 373, 509, 2047, 1]

/-- Bit `j` of the code word of the `o` bits of `v`, bit 0 of `v` first: repetition, simplex or Reed–Muller (R250). -/
def shortBit (o v j : Nat) : Bool :=
  if o = 1 then bit v 0
  else if o = 2 then (match j % 3 with | 0 => bit v 0 | 1 => bit v 1 | _ => bit v 0 != bit v 1)
  else decide (popCount (v &&& rmRows.getD (j % 32) 0) % 2 = 1)

/-- The short block decoder (R250): the word of `o` bits of the greatest likelihood; among several, the engine's. -/
def shortDecode (o : Nat) (llr : List Int) : List Bool :=
  let score (v : Nat) : Int := llr.zipIdx.foldl (fun a (l, j) => if shortBit o v j then a - l else a + l) 0
  let best := (List.range (2 ^ o)).foldl (fun m v => max m (score v)) (score 0)
  let ties := (List.range (2 ^ o)).filter fun v => score v = best
  let v := ties.getD (Config.mlTie llr % ties.length) 0
  (List.range o).map fun i => bit v i

/-! ### Convolutional codes -/

/-- The bits that input `x` gives from a state of six bits, newest in bit 0: octal 133, 171 and 165. -/
def convOut (st : Nat) (x : Bool) : List Bool :=
  [x != (bit st 1 != (bit st 2 != (bit st 4 != bit st 5))),
   x != (bit st 0 != (bit st 1 != (bit st 2 != bit st 5))),
   x != (bit st 0 != (bit st 1 != (bit st 3 != bit st 5)))]

def convNext (st : Nat) (x : Bool) : Nat := 2 * st % 64 + b2n x

/-- The column permutation of the sub-block interleaver of convolutional codes. -/
def convPerm : List Nat :=
  [1, 17, 9, 25, 5, 21, 13, 29, 3, 19, 11, 27, 7, 23, 15, 31, 0, 16, 8, 24, 4, 20, 12, 28, 2, 18, 10, 26, 6, 22, 14, 30]

/-- The stream and bit index of each place of the circular buffer of K bits, dummies left out. -/
def convOrder (k : Nat) : List (Nat × Nat) :=
  let r := (k + 31) / 32
  let nd := 32 * r - k
  (List.range 3).flatMap fun st => (List.range (32 * r)).filterMap fun q =>
    let y := convPerm.getD (q / r) 0 + 32 * (q % r)
    if y < nd then none else some (st, y - nd)

/-- The tail-biting encoder (R253): K bits to E bits. -/
def convEncode (k e : Nat) (xs : List Bool) : List Bool :=
  let start := (xs.drop (k - 6)).foldl convNext 0
  let (_, outs) := xs.foldl (fun (a : Nat × List (List Bool)) x => (convNext a.1 x, a.2 ++ [convOut a.1 x])) (start, [])
  let order := convOrder k
  (List.range e).map fun j =>
    let (st, i) := order.getD (j % order.length) (0, 0)
    (outs.getD i []).getD st false

/-- One pass of the Viterbi decoder: the metric and the survivor's bits, newest first, of each of the 64 states. Which of
two paths of one metric survives is the engine's. -/
def viterbiPass (ls : List (List Int)) (m : List (Int × List Bool)) : List (Int × List Bool) :=
  ls.zipIdx.foldl (fun m (l, j) => (List.range 64).map fun t =>
    let x := bit t 0
    let from_ (st : Nat) : Int × List Bool :=
      let (v, p) := m.getD st (0, [])
      (((convOut st x).zip l).foldl (fun a (b, w) => if b then a - w else a + w) v, x :: p)
    let a := from_ (t / 2)
    let b := from_ (t / 2 + 32)
    if a.1 < b.1 then b else if b.1 < a.1 then a else if Config.viterbiTie j t then b else a) m

/-- The wrap-around Viterbi decoder of two passes (R253): the second starts from the first's metrics. -/
def convDecode (k : Nat) (llr : List Int) : List Bool :=
  let order := convOrder k
  let sums := llr.zipIdx.foldl (fun (m : List (List Int)) (v, j) =>
    let (st, i) := order.getD (j % order.length) (0, 0)
    let l := m.getD i []
    m.set i (l.set st (l.getD st 0 + v))) (List.replicate k [0, 0, 0])
  let one := viterbiPass sums (List.replicate 64 (0, []))
  let two := viterbiPass sums (one.map fun p => (p.1, []))
  let best := two.foldl (fun m p => max m p.1) ((two.headD (0, [])).1)
  let ties := two.filter fun p => p.1 = best
  ((ties.getD (Config.mlTie llr % ties.length) (0, [])).2).reverse

/-! ### MIMO detection (R258 to R261) -/

/-- The real and imaginary part at byte `o`, in units of one. -/
def intAt (bs : List Byte) (o : Nat) : CRat :=
  ⟨(sgn 16 (fieldAt bs o 2) : Rat), (sgn 16 (fieldAt bs (o + 2) 2) : Rat)⟩

/-- Rows of `v` lines as a matrix: element a of row k at byte 64 v k + 4 a (R259). -/
def rowsAt (bs : List Byte) (v rows cols : Nat) : CMatQ :=
  (List.range rows).map fun k => (List.range cols).map fun a => intAt bs (64 * v * k + 4 * a)

/-- The product of an m by n and an n by p matrix, and the conjugate transpose. -/
def matMulQ (a b : CMatQ) (m n p : Nat) : CMatQ :=
  (List.range m).map fun i => (List.range p).map fun j =>
    (List.range n).foldl (fun t l => t.add ((mAt a i l).mul (mAt b l j))) CRat.zero
def matHerm (a : CMatQ) (m n : Nat) : CMatQ := (List.range n).map fun i => (List.range m).map fun j => (mAt a j i).conj

/-- A power of 2. -/
def pow2 (e : Int) : Rat := if 0 ≤ e then 2 ^ e.toNat else 1 / 2 ^ (-e).toNat

/-- The least `e` with |x| below 2^(24 + e), for x other than 0. -/
def expo24 (x : Rat) : Int :=
  let n : Int := Nat.log2 x.num.natAbs
  let d : Int := Nat.log2 x.den
  let e := n - d - 24
  -- |x| lies between 2^(n − d − 1) and 2^(n − d + 1)
  if (if x < 0 then -x else x) < pow2 (24 + e) then e else e + 1

/-- A value in a 24-bit mantissa (R260): exact where that holds it, else one of its two neighbours, as the engine rounds. -/
def mant24q (x : Rat) : Rat :=
  if x = 0 then 0
  else
    let u := pow2 (expo24 x)
    let m := (x / u).floor
    if (m : Rat) * u = x then x else ((m + if Config.mantUp x then 1 else 0 : Int) : Rat) * u

/-- Every part of a matrix in the detector's 24-bit mantissas (R260). -/
def mant24 (a : CMatQ) : CMatQ := a.map fun r => r.map fun z => ⟨mant24q z.re, mant24q z.im⟩

/-- W of R260 from H, NRX by NL, and G = Lw⁻ᴴ Lw⁻¹: W = (Hᴴ G H + I)⁻¹ Hᴴ G. -/
def weights (h g : CMatQ) (nrx nl : Nat) : CMatQ :=
  let hg := matMulQ (matHerm h nrx nl) g nl nrx nrx
  let a := (matMulQ hg h nl nrx nl).zipIdx.map fun (r, i) => r.zipIdx.map fun (z, j) => if i = j then z.add ⟨1, 0⟩ else z
  let (cols, ds) := ldl a nl
  mant24 (matMulQ (hermInv cols ds nl) hg nl nl nrx)

/-- G of a group from what follows H in its record (R259): I/σ², or Lw⁻ᴴ Lw⁻¹; none for σ² = 0. -/
def groupGram (rest : List Byte) (irc : Bool) (v nrx : Nat) : Option CMatQ :=
  if irc then
    -- a stored part is a count of units that the spec does not state
    let l : CMatQ := (rowsAt rest v nrx nrx).zipIdx.map fun (r, i) => r.zipIdx.map fun (z, j) =>
      if i < j then CRat.zero else z.scale Config.whitenUnit
    some (matMulQ (matHerm l nrx nrx) l nrx nrx nrx)
  else
    let n := fieldAt rest 0 4
    if n = 0 then none else
      some ((List.range nrx).map fun i => (List.range nrx).map fun j => if i = j then ⟨1 / (n : Rat), 0⟩ else CRat.zero)

/-- A value rounded half up (R111) and saturated to 16 bits. -/
def round16 (x : Rat) : Nat := wrapTo 16 (clampTo 16 (x + 1 / 2).floor)

/-- 10 log10 γ in units of 1/256, saturated to 16 bits (R260): the greatest value not above it; −∞ saturates. -/
def logField (g : Rat) : Int :=
  let below (n : Int) : Bool := if 0 ≤ n then decide ((10 : Rat) ^ n.toNat ≤ g ^ 2560) else decide (1 ≤ g ^ 2560 * 10 ^ (-n).toNat)
  (((List.range 65535).filter fun i => below ((i : Int) - 32767)).length : Int) - 32768

/-- Whether the logarithm of R260 needs no rounding at `n` units: γ is 0 or below the range, or n units are its value. -/
def logExact (g : Rat) (n : Int) : Bool :=
  g = 0 || (if 0 ≤ n then (10 : Rat) ^ n.toNat = g ^ 2560 else g ^ 2560 * 10 ^ (-n).toNat = 1) ||
    (n = -32768 && g ^ 2560 * 10 ^ 32768 < 1)

/-- The gain word of a layer with μ (R260). `free` numbers its free values: how a logarithm between two units is rounded, and the
word for a μ that no arithmetic without error gives. -/
def gainWord (mu : Rat) (free : Nat) : Nat :=
  if mu < 0 ∨ 1 ≤ mu then Config.freeValue free % 2 ^ 32
  else
    let g := mu / (1 - mu)
    let n := logField g
    min (256 * g + 1 / 2).floor.toNat 0xFFFF +
      2 ^ 16 * wrapTo 16 (clampTo 16 (n + if logExact g n then 0 else (Config.freeValue free % 2 : Nat)))

/-- x̂_l, 32 bits (R260); a μ of 0 leaves it free. -/
def detected (z : CRat) (mu : Rat) (osh free : Nat) : Nat :=
  if mu = 0 then Config.freeValue free % 2 ^ 32
  else round16 (2 ^ osh * z.re / mu) + 2 ^ 16 * round16 (2 ^ osh * z.im / mu)

/-- Lw⁻¹ of a covariance (R261): the inverse of its Cholesky factor, rows of `v` lines, all zero when a pivot fails. -/
def whitening (bs : List Byte) (v n : Nat) : List Byte × Bool :=
  let a := (List.range n).map fun i => (List.range n).map fun j =>
    let z := intAt bs (64 * v * max i j + 4 * min i j)
    if j < i then z else if i = j then ⟨z.re, 0⟩ else z.conj
  let (cols, ds) := ldl a n
  if pivotFails a n ds then (List.replicate (64 * v * n) 0, true)
  else
    let li := lowerInv cols n
    ((List.range n).flatMap fun i => (List.range (16 * v)).flatMap fun j =>
      if i < j then [0, 0, 0, 0] else
        let z := CRat.scale (1 / (sqrtQ (ds.getD i 1) * Config.whitenUnit)) (mAt li i j)
        leBytes 2 (round16 (mant24q z.re)) ++ leBytes 2 (if i = j then 0 else round16 (mant24q z.im)), false)

end Sys2Proof.Machine
end

