-- ==== Sys2Proof/Machine/Accel.lean ====
section
/-! DEFINITION. The region accelerators at work (R224 to R267): the start of a job, what each job type reads, computes
and writes, its record, its completion, its timeout, and the stop of an engine. -/

namespace Sys2Proof.Machine

/-- A job that has done nothing: OK. -/
def JobRes.ok : JobRes := ⟨0, 0, none, 0, 0, false, false, 0, 0, 0, 0, 0, 0, 0, 0, none⟩

/-- A job at its start, which a code ends after some requests (R230). -/
def JobRes.begin (left : Option (Nat × Nat)) : JobRes := { JobRes.ok with left := left }

/-- A job that ends with a code and a detail. -/
def JobRes.err (c d : Nat) : JobRes := { JobRes.ok with code := c, detail := d }

/-- A job error has ended the job (R230). -/
def JobRes.stopped (r : JobRes) : Bool := 0x10 ≤ r.code

/-- The job makes a request: what ends it may come first. -/
def JobRes.spend (r : JobRes) : JobRes :=
  match r.left with
  | none => r
  | some (0, c) => if r.stopped then r else { r with code := c, detail := 0, left := none }
  | some (n + 1, c) => { r with left := some (n, c) }

/-- What is still to end the job ends it after its last request. -/
def JobRes.finish (r : JobRes) : JobRes :=
  match r.left with
  | none => r
  | some (_, c) => if r.stopped then { r with left := none } else { r with code := c, detail := 0, left := none }

/-- An access of phase `ph` has failed (R229). -/
def JobRes.access (r : JobRes) (ph : Nat) (e : Option (Nat × Nat)) : JobRes :=
  match e with
  | none => r
  | some (st, a) => if r.stopped then r else { r with code := 0x20, detail := 16 * ph + st, errAddr := some a }

/-- CRC failures decide the code (R229, R238). -/
def JobRes.crc (r : JobRes) (n : Nat) : JobRes :=
  if r.stopped then r
  else if n = 0 then r else { r with code := 1, detail := min n 255, fails := r.fails + n }

/-- The status word (R229). -/
def JobRes.status (r : JobRes) : Nat := 256 * r.code + r.detail

/-- The 128 bytes of a result record (R228). -/
def recordBytes (r : JobRes) (tag dur : Nat) : List Byte :=
  leBytes 2 r.status ++ leBytes 2 (r.ndone % 256) ++ leBytes 4 tag ++
  leBytes 4 (r.pcrc % 2 ^ 24 + 2 ^ 24 * b2n r.tbchk + 2 ^ 25 * b2n r.tbpass) ++ leBytes 4 r.pbits ++
  leBytes 4 (r.zc % 512 + 512 * (r.c % 256)) ++ leBytes 4 dur ++
  leBytes 8 (r.itersum % 2 ^ 16 + 2 ^ 16 * (r.itermax % 32)) ++
  leBytes 32 r.passmap ++ leBytes 32 r.donemap ++ List.replicate 32 0

/-! ### Parameters -/

/-- The fields of a code job's body (R232, R246). -/
def jTbs (d : List Byte) : Nat := bits (jw d 0x40) 0 24
def jBg (d : List Byte) : Nat := bits (jw d 0x40) 24 1
def jFirst (d : List Byte) : Nat := bits (jw d 0x40) 32 8
def jNcb (d : List Byte) : Nat := bits (jw d 0x40) 40 8
def jQm (d : List Byte) : Nat := bits (jw d 0x40) 48 4
def jRv (d : List Byte) : Nat := bits (jw d 0x40) 52 2
def jNcbb (d : List Byte) : Nat := bits (jw d 0x48) 0 16
def jHarq (d : List Byte) : Bool := bit (jw d 0x48) 16
def jNew (d : List Byte) : Bool := bit (jw d 0x48) 17
def jEt (d : List Byte) : Nat := bits (jw d 0x48) 19 2
def jImax (d : List Byte) : Nat := bits (jw d 0x48) 21 5
def jOffset (d : List Byte) : Nat := bits (jw d 0x48) 26 3
def jTbcrc (d : List Byte) : Bool := bit (jw d 0x48) 29
/-- E of job code block `j` (R232). -/
def jE (d : List Byte) (j : Nat) : Nat :=
  if j < bits (jw d 0x50) 48 8 then bits (jw d 0x50) 0 24 else bits (jw d 0x50) 24 24

/-- The segmentation of a code job. -/
def jGeo (d : List Byte) : Geo := if jType d = 0x30 ∨ jType d = 0x31 then turboGeo (jTbs d) else ldpcGeo (jTbs d) (jBg d)

/-- Ncb (R232): NCBB, or the full length. -/
def jNcbLen (d : List Byte) : Nat := if jNcbb d = 0 then (jGeo d).n else jNcbb d

/-- The first word of a code job's body that holds a value out of range, as offset ÷ 8 (R229, R232, R233, R246, R252). -/
def codeParam (d : List Byte) : Option Nat :=
  let turbo := jType d = 0x30 ∨ jType d = 0x31
  let dec := isDecode (jType d)
  let tbsOk := if turbo then 16 ≤ jTbs d ∧ jTbs d ≤ 391656 else 24 ≤ jTbs d ∧ jTbs d ≤ 1277992
  let g := jGeo d
  let qmOk := [1, 2, 4, 6, 8, 10].contains (jQm d)
  let n := jNcb d
  let sym := !dec && bit (jw d 0x48) 18
  let all := jFirst d = 0 ∧ n = g.c
  if ¬ tbsOk ∨ !qmOk ∨ (sym ∧ jQm d = 1) then some 8
  else if 152 < g.c ∨ (n ≠ 0 ∧ g.c < jFirst d + n) then some 8
  else if g.n < jNcbb d then some 9
  else if dec ∧ (3 ≤ jEt d ∨ (turbo ∧ jEt d = 2) ∨ jImax d = 0 ∨ (if turbo then 8 else 25) < jImax d) then some 9
  else if dec ∧ jTbcrc d ∧ ¬ all then some 9
  else if !dec ∧ bit (jw d 0x48) 16 ∧ ¬ all then some 9
  else if bits (jw d 0x50) 0 24 % jQm d ≠ 0 ∨ bits (jw d 0x50) 24 24 % jQm d ≠ 0 then some 10
  else if dec ∧ jHarq d ∧ jNew d ∧ (List.range n).any (fun j => jE d j = 0) then some 10
  else if sym ∧ bits (jw d 0x58) 32 16 = 0 then some 11
  else none

/-- ceil(log2 n). -/
def clog2 (n : Nat) : Nat := ((List.range 32).find? fun i => decide (n ≤ 2 ^ i)).getD 32

/-- The code length exponent of TS 38.212 for a largest exponent `nmax` (R250; PRESUMED, log entry 10). -/
def polarN (k e nmax : Nat) : Nat :=
  let m := clog2 e
  let n1 := if 8 * e ≤ 9 * 2 ^ (m - 1) ∧ 16 * k < 9 * e then m - 1 else m
  max (min n1 (min (clog2 (8 * k)) nmax)) 5

/-- CRC length and polynomial of a polar or convolutional job. -/
def polarCrc (t : Nat) : Nat × Nat := match t with | 0 => (6, crcPoly 6) | 1 => (11, crcPoly 11) | _ => (24, crcPoly 241)
def convCrc (t : Nat) : Nat × Nat := match t with | 1 => (8, crcPoly 8) | 2 => (16, crcPoly 16) | _ => (0, 0)

/-- Whether a polar job's parameters are in range (R249, R250). -/
def polarOk (d : List Byte) (enc : Bool) : Bool :=
  let w := jw d 0x40
  let ln := bits w 0 4
  let k := bits w 4 10
  let e := bits w 14 16
  5 ≤ ln && ln ≤ (if enc then 9 else 10) && 12 ≤ k && 1 ≤ e && e ≤ 8192 && bits w 30 2 ≠ 3 &&
    (bits w 32 2 = 0 || bits w 32 2 = 3) && k ≤ 2 ^ ln && k ≤ e && (polarN k e 9 = ln || polarN k e 10 = ln)

/-- The first word out of range of any job (R250 to R258). -/
def paramFails (d : List Byte) : Option Nat :=
  let w := jw d 0x40
  match jType d with
  | 0x02 => if 8 < bits w 0 4 then some 8 else none
  | 0x20 => if polarOk d false then none else some 8
  | 0x21 => if polarOk d true then none else some 8
  | 0x22 => if 1 ≤ bits w 0 4 ∧ bits w 0 4 ≤ 11 ∧ 1 ≤ bits w 14 16 ∧ bits w 14 16 ≤ 8192 then none else some 8
  | 0x32 => if 8 ≤ bits w 0 11 ∧ bits w 0 11 ≤ 1024 ∧ bits w 35 2 ≠ 3 then none else some 8
  | 0x33 => if 8 ≤ bits w 0 11 ∧ bits w 0 11 ≤ 1024 ∧ bits w 35 2 ≠ 3 then none else some 8
  | 0x40 => if !([0, 1, 2, 4, 6, 8, 10].contains (bits w 20 4)) then some 8
      else if bits (jw d 0x50) 0 16 = 0 then some 10 else none
  | 0x50 => if 1 ≤ bits w 0 7 ∧ bits w 0 7 ≤ 64 ∧ 1 ≤ bits w 8 4 ∧ bits w 8 4 ≤ 8 ∧ bits w 52 10 ≠ 0 then none else some 8
  | 0x51 => if 1 ≤ bits w 0 7 ∧ bits w 0 7 ≤ 64 then none else some 8
  | _ => codeParam d

/-! ### Signal arithmetic -/

/-- The amplitude of a part, saturating where the spec states no result: a part beyond 16 bits is free (log entry 1). -/
def symPart (amp : Nat) (lvl : Int) (n free : Nat) : Nat :=
  let v := ampPart amp lvl n
  if -32768 ≤ v ∧ v < 32768 then wrapTo 16 v else Config.freeValue free % 2 ^ 16

/-- A list cut into pieces of `k`, the last padded with false. -/
def chunks (k : Nat) : Nat → List Bool → List (List Bool)
  | 0, _ => []
  | n + 1, bs => if bs.isEmpty then [] else
      ((bs.take k) ++ List.replicate (k - bs.length) false) :: chunks k n (bs.drop k)

/-- Bits mapped to 32-bit symbols (R247). -/
def mapSymbols (qm amp free : Nat) (bs : List Bool) : List Byte :=
  ((chunks qm bs.length bs).zipIdx).flatMap fun (b, i) =>
    leBytes 2 (symPart amp (level (evens b)) (normSq qm) (free + 2 * i)) ++
    leBytes 2 (symPart amp (level (odds b)) (normSq qm) (free + 2 * i + 1))

/-- Bytes padded with zeros to whole lines. -/
def padLine (bs : List Byte) : List Byte := bs ++ List.replicate ((64 - bs.length % 64) % 64) 0

/-- The smallest of a non-empty list of metrics P + Q √n. -/
def minMetric (n : Nat) (l : List (Int × Int)) : Int × Int :=
  l.foldl (fun m x => if sgnRoot (x.1 - m.1) (m.2 - x.2) n < 0 then x else m) (l.headD (0, 0))

/-- n × M_k of R256 as P + Q √n, over candidates given as bit and metric. -/
def metricDiff (n : Nat) (cs : List (Bool × (Int × Int))) : Int × Int :=
  let a := minMetric n ((cs.filter fun c => c.1).map Prod.snd)
  let b := minMetric n ((cs.filter fun c => !c.1).map Prod.snd)
  (a.1 - b.1, a.2 - b.2)

/-- The LLR of one bit (R256): rounded half up, saturated. -/
def demapLlr (g sh n : Nat) (m : Int × Int) : Int :=
  let num : Int := 2 * g * m.1 + (n : Int) * 2 ^ sh + floorRoot (2 * g * m.2) n
  llrSat (num / ((n : Int) * 2 ^ (sh + 1)))

/-- The candidates of bit `k` on one axis of a square constellation with `h` bits an axis. -/
def axisCands (amp h k : Nat) (x : Int) : List (Bool × (Int × Int)) :=
  (List.range (2 ^ h)).map fun v =>
    let bs := natBits h v
    let l := level bs
    (bs.getD k false, ((amp : Int) ^ 2 * l ^ 2, -2 * amp * x * l))

/-- The LLRs of one symbol before descrambling. -/
def demapSymbol (md amp sh g : Nat) (turn : Bool) (xr xi : Int) : List Int :=
  if md ≤ 1 then
    -- the two points ±(1 + j)/√2, turned by a quarter for odd π/2-BPSK symbols
    let re : Int := if turn then -xr else xr
    let c (b : Bool) : Bool × (Int × Int) := (b, (2 * (amp : Int) ^ 2, (if b then 1 else -1) * (2 * amp * (re + xi))))
    [demapLlr g sh 2 (metricDiff 2 [c false, c true])]
  else
    let n := normSq md
    (List.range md).map fun k =>
      demapLlr g sh n (metricDiff n (axisCands amp (md / 2) (k / 2) (if k % 2 = 0 then xr else xi)))

namespace State

/-! ### Accesses of a job -/

/-- Reads for a job, request by request: nothing once the job has ended in error (R230). -/
def jobRead (s : State) (r ph a n : Nat) (x : JobRes) : List Byte × JobRes × State :=
  (pieces (n / 64 + 2) a n).foldl (fun (t : List Byte × JobRes × State) p =>
    let x := t.2.1.spend
    if x.stopped then (t.1 ++ List.replicate p.2 0, x, t.2.2) else
      let (e, d, s1) := t.2.2.busRead (24 + r) p.1 p.2
      (t.1 ++ d, x.access ph e, s1)) ([], x, s)

/-- Writes for a job, request by request: nothing once the job has ended in error (R230). -/
def jobWrite (s : State) (r ph a : Nat) (bs : List Byte) (x : JobRes) : JobRes × State :=
  (reqPieces a bs.length).foldl (fun (t : JobRes × State) p =>
    let x := t.1.spend
    if x.stopped then (x, t.2) else
      let (e, s1) := t.2.busWrite (24 + r) p.1 ((bs.drop (p.1 - a)).take p.2)
      (x.access ph e, s1)) (x, s)

/-- The reports of an engine's internal buffers (R337, R346, R354, R355); the spec gives their words no address (log entry 1). -/
def bufReports (s : State) (r : Nat) (ecc : BufErrs) (unc : Bool) : State :=
  let one (s : State) (pos : Nat) (u : Bool) : State :=
    let (a, s1) := s.draw 48
    s1.report (24 + r) ⟨4 + r, 5, a, pos, u, false, 1, 0, 0⟩
  let s1 := ecc.corrected.foldl (fun s p => one s p.val false) s
  if unc then one s1 0x7F true else s1

/-! ### Start and end -/

/-- Reads the three descriptor lines of the staged job (R224). -/
def fetchDesc (s : State) (r e : Nat) : State :=
  match (s.engine r e).staged with
  | none => s
  | some j =>
    if j.desc.isSome || j.bad.isSome then s else
      let (d, x, s1) := s.jobRead r 1 j.entry 192 JobRes.ok
      let j' := match x.errAddr with
        | none => { j with desc := some d }
        | some a => { j with bad := some (x.detail % 16, a) }
      s1.setEngine r e { s1.engine r e with staged := some j' }

/-- Captures a job error (R267). Of jobs that end in one accelerator cycle, that of the lower-numbered engine is taken first: the sender
puts the events of one cycle in that order (log entry 4). -/
def jobCapture (s : State) (r e status type tag addr : Nat) : State :=
  let a := RA_ERRINFO.adr r
  if s.rb a RA_ERRINFO.VALID then s else
    let s1 := (((s.wf a RA_ERRINFO.VALID 1).wf a RA_ERRINFO.ENGINE e).wf a RA_ERRINFO.STATUS status).wf a RA_ERRINFO.JOBTYPE type
    ((s1.wf (RA_ERRTAG.adr r) RA_ERRTAG.JOBTAG tag).wf (RA_ERRADDR_LO.adr r) RA_ERRADDR_LO.ADDR (addr >>> 6)).wf
      (RA_ERRADDR_HI.adr r) RA_ERRADDR_HI.ADDR (addr >>> 32)

/-- Releases the HARQ guard of an engine (R245). -/
def guardRelease (s : State) (r e : Nat) : State :=
  (s.setEngine r e { s.engine r e with guard := none }).guardSync r

/-- The running job has ended: its record is written, and an error counted, raised and captured (R228 to R230, R267). -/
def endJob (s : State) (r e : Nat) (j : Job) (x : JobRes) (dur : Nat) : State :=
  let (tag, type) := match j.desc with
    | some d => (jTag d, jType d)
    | none => (0, 0)
  let (st, addr, s1) := match j.desc with
    | some d =>
      let (err, s1) := s.busWrite (24 + r) (jRes d) (recordBytes x tag dur)
      match err with
      | none => (x.status, x.errAddr.getD j.entry, s1)
      | some (t, _) => (if x.stopped then x.status else 0x2000 + 16 * 5 + t, jRes d, s1)
    | none => (x.status, x.errAddr.getD j.entry, s)
  let s1 := match j.desc with
    | some d => if isDecode (jType d) && decide (x.code < 0x10) then
        { s1 with jobRecs := sput s1.jobRecs (jRes d) (some ⟨jFirst d, jNcb d, recordBytes x tag dur⟩) none }
      else s1
    | none => s1
  let s2 := s1.incSat (RA_FAILCNT.adr r e) RA_FAILCNT.CRCFAIL x.fails
  let s3 := if 0x1000 ≤ st then
      ((((s2.wb (RA_ENGSTAT.adr r e) RA_ENGSTAT.ERR true).incSat (RA_FAILCNT.adr r e) RA_FAILCNT.ERRJOBS 1).raise 0x0401
        (engSrc r e) tag st 0).jobCapture r e st type tag addr)
    else s2
  (s3.setEngine r e { s3.engine r e with running := some { j with status := some st }, late := none }).guardRelease r e

/-- The guard entry is free to claim: no other engine of the group holds the same buffer (R245). -/
def guardFree (s : State) (r e aux : Nat) : Bool :=
  !(List.range 12).any fun o => o ≠ e && decide ((s.engine r o).guard = some aux)

/-- JOB_START (R210, R224, R226, R229, R245): the staged job runs, unless the engine's last completion waits for a slot; a failed
descriptor ends it at once. -/
def jobStart (s : State) (r e : Nat) : State :=
  let s0 := s.fetchDesc r e
  let g := s0.engine r e
  match g.running, g.staged with
  | none, some j =>
    if s0.rb (RA_ENGSTAT.adr r e) RA_ENGSTAT.UNAVAIL || (s0.ink r).compWait.contains (.unit (48 + e)) then s else
      let un := s0.inkUnit r (48 + e)
      let s1 := (s0.setInkUnit r (48 + e) { un with tasks := un.tasks.map fun t => { t with staged := false } }).stampIdle
        r (48 + e)
      let s2 := ((s1.setEngine r e { g with running := some j, staged := none, pulsed := false, late := none }).wb
        (RA_ENGSTAT.adr r e) RA_ENGSTAT.STAGED false).wb (RA_ENGSTAT.adr r e) RA_ENGSTAT.BUSY true
      match j.desc with
      | none =>
        let p := j.bad.getD (0, j.entry)
        s2.endJob r e j (JobRes.ok.access 1 (some p)) 0
      | some d =>
        match badWord e d with
        | some w =>
          let (dur, s3) := s2.draw 32
          s3.endJob r e j (.err 0x10 w) dur
        | none =>
          if isDecode (jType d) && jHarq d then
            if s2.guardFree r e (jAux d) then
              (s2.setEngine r e { s2.engine r e with guard := some (jAux d) }).guardSync r
            else s2.wb (RA_ENGSTAT.adr r e) RA_ENGSTAT.HWAIT true
          else s2
  | _, _ => s0

/-- HARQ_GUARD_ACQUIRE (R245): a job that waits claims its entry once no other engine holds it. -/
def guardAcquire (s : State) (r e : Nat) : State :=
  match (s.engine r e).running with
  | none => s
  | some j =>
    match j.desc with
    | none => s
    | some d =>
      if s.rb (RA_ENGSTAT.adr r e) RA_ENGSTAT.HWAIT && s.guardFree r e (jAux d) then
        ((s.setEngine r e { s.engine r e with guard := some (jAux d) }).guardSync r).wb (RA_ENGSTAT.adr r e) RA_ENGSTAT.HWAIT false
      else s

/-- Runs a computation for the running job of a type, when it is due: started, not waiting, not ended. -/
def withJob (s : State) (r e : Nat) (types : List Nat) (ecc : BufErrs) (dur : Nat)
    (f : Option (Nat × Nat) → List Byte → State → JobRes × State) : State :=
  let g := s.engine r e
  match g.running with
  | none => s
  | some j =>
    match j.desc with
    | none => s
    | some d =>
      if j.status.isSome || g.late.isSome || s.rb (RA_ENGSTAT.adr r e) RA_ENGSTAT.HWAIT || !types.contains (jType d) then s
      else
        match paramFails d with
        | some w => s.endJob r e j (JobRes.err 0x11 w) dur
        | none =>
          let (x, s1) := f (ecc.bad.map fun n => (n, 0x21)) d s
          (s1.bufReports r ecc (x.finish.code = 0x21)).endJob r e j x.finish dur

/-! ### Decoding -/

/-- What a decode carries from code block to code block: the LLR offset, the TB CRC register, whether the header says
WRITING, the OKMAP, and the result. -/
structure DecAcc where
  off : Nat
  reg : Nat
  writing : Bool
  okmap : Nat
  fails : Nat
  res : JobRes
  st : State

/-- The header line of a HARQ buffer (R240). -/
def harqHeader (turbo : Bool) (c state ncb gen okmap : Nat) : List Byte :=
  leBytes 2 (if turbo then 0x5442 else 0x4C44) ++ leBytes 1 c ++ leBytes 1 state ++ leBytes 2 ncb ++ leBytes 2 0 ++
  leBytes 4 gen ++ leBytes 4 0 ++ leBytes 32 okmap ++ List.replicate 16 0

/-- Whether the information bits of a code block pass their check (R238): CRC-24B, or the TB CRC of a single block. -/
def blockPass (g : Geo) (info : List Bool) : Bool :=
  if g.c = 1 then crcPass g.l (crcPoly g.l) info else crcPass 24 (crcPoly 240) info

/-- The decoder's answer for one code block: iterations and information bits, fillers removed. -/
def decodeBlock (d : List Byte) (g : Geo) (i : Nat) (llr : List Int) : Nat × List Bool :=
  let k := g.kLen.getD i 0
  let k' := g.kInfo.getD i 0
  let info (bs : List Bool) : List Bool := (bs.drop (if g.turbo then k - k' else 0)).take k'
  let (n, bs) := if g.turbo then turboDecode k (k - k') llr (jImax d) (jEt d) fun bs => blockPass g (info bs)
    else ldpcDecode g.bg g.zc llr (jImax d) (jEt d) (jOffset d) fun bs => blockPass g (info bs)
  (n, info bs)

/-- One code block of a decode job (R234, R235, R238, R241 to R244). `hdr` gives GEN and OKMAP as read. -/
def decodeCb (d : List Byte) (r gen : Nat) (x : DecAcc) (j : Nat) : DecAcc :=
  let g := jGeo d
  let i := jFirst d + j
  let e := jE d j
  let ncb := jNcbLen d
  let kd := g.kd i
  let slot := jOut d + g.ostride * j
  let stride := (ncb + 63) / 64 * 64
  let area := jAux d + 0x40 + i * stride
  if x.res.stopped then x
  else if e = 0 ∨ (jHarq d ∧ !jNew d ∧ bit x.okmap i) then
    -- not decoded by this job: its data is read back for the TB CRC
    let (bs, res, s1) := x.st.jobRead r 4 slot ((kd + 7) / 8) x.res
    let data := (unpackBits bs).take kd
    { x with off := x.off + e, reg := crcBits g.l (crcPoly g.l) x.reg data, res := { res with pbits := res.pbits + kd }, st := s1 }
  else
    let (lb, res1, s1) := x.st.jobRead r 2 (jIn d + x.off) e x.res
    let fresh := (List.range ncb).map fun p => if g.isNull i p then g.nullLlr i p else 0
    let (base, res2, s2) :=
      if jHarq d && !jNew d then
        let (ab, res2, s2) := s1.jobRead r 3 area ncb res1
        (ab.map llrVal, res2, s2)
      else (fresh, res1, s1)
    let nb := g.ncb i ncb
    let ps := g.positions i nb (g.k0 i nb (jRv d)) e
    let llr := (List.range e).map fun k => llrVal (lb.getD (interleaved e (jQm d) k) 0)
    let comb := combine base ps llr
    let (its, info) := decodeBlock d g i comb
    let pass := blockPass g info
    let data := info.take kd
    let (res4, s3) := s2.jobWrite r 4 slot (packBits g.ostride data) res2
    let keep := jHarq d && !pass
    -- the header says WRITING before the first area is written
    let (res5, s4) := if keep && !x.writing then
        s3.jobWrite r 3 (jAux d) (harqHeader g.turbo g.c 0xA5 ncb gen x.okmap) res4
      else (res4, s3)
    let (res6, s5) := if keep then
        s4.jobWrite r 3 area ((comb.map llrByte) ++ List.replicate (stride - ncb) 0) res5
      else (res5, s4)
    let fin := if res6.stopped then res6 else
      { res6 with ndone := res6.ndone + 1, itersum := res6.itersum + its, itermax := max res6.itermax its,
                  donemap := res6.donemap + 2 ^ j, passmap := res6.passmap + (if pass then 2 ^ j else 0),
                  pbits := res6.pbits + kd }
    { off := x.off + e, reg := crcBits g.l (crcPoly g.l) x.reg data, writing := x.writing || keep,
      okmap := if pass then x.okmap ||| 2 ^ i else x.okmap, fails := x.fails + b2n (!pass), res := fin, st := s5 }

/-- A decode job (R232 to R244, R252). -/
def decodeJob (r : Nat) (lim : Option (Nat × Nat)) (d : List Byte) (s : State) : JobRes × State :=
  let g := jGeo d
  let ncb := jNcbLen d
  let (zc, s0) := if g.turbo then
      let k := g.kLen.getD (jFirst d) 0
      if k < 512 then (k, s) else s.draw 9
    else (g.zc, s)
  let x0 : JobRes := { JobRes.begin lim with zc := zc, c := g.c }
  if jNcb d = 0 then (x0, s0) else
    let (hb, x1, s1) := if jHarq d && !jNew d then s0.jobRead r 3 (jAux d) 64 x0 else (List.replicate 64 0, x0, s0)
    let mism : Option Nat := if !(jHarq d && !jNew d) then none
      else if fieldAt hb 0 2 ≠ (if g.turbo then 0x5442 else 0x4C44) then some 1
      else if fieldAt hb 2 1 ≠ g.c then some 2
      else if fieldAt hb 4 2 ≠ ncb then some 3
      else if fieldAt hb 3 1 ≠ 0x5A then some 4 else none
    if x1.stopped then (x1, s1)
    else match mism with
    | some m => ({ x1 with code := 0x12, detail := m }, s1)
    | none =>
      let gen := fieldAt hb 8 4
      let acc := (List.range (jNcb d)).foldl (decodeCb d r gen) ⟨0, 0, false, fieldAt hb 0x10 32, 0, x1, s1⟩
      let (x2, s2) := if jHarq d then
          acc.st.jobWrite r 3 (jAux d) (harqHeader g.turbo g.c 0x5A ncb ((gen + 1) % 2 ^ 32) acc.okmap) acc.res
        else (acc.res, acc.st)
      if x2.stopped then (x2, s2) else
        let x3 := { x2 with pcrc := acc.reg, tbchk := jTbcrc d, tbpass := jTbcrc d && acc.reg = 0 }
        (x3.crc (acc.fails + b2n (x3.tbchk && !x3.tbpass)), s2)

/-- Whether spans of code blocks, first and count, cover blocks `at_` to `c` − 1 in consecutive order (R239). -/
def inOrder (c at_ : Nat) : List (Nat × Nat) → Bool
  | [] => at_ = c
  | (f, n) :: l => f = at_ && inOrder c (at_ + n) l

/-- TB_CRC_COMBINE (R239): joins the partial CRCs of the records named. A record does not say which code blocks its job covered; the
module keeps that beside it (`jobRecs`). Whether anything else at a named address stands for such a record is free (log entry 10). -/
def combineJob (r : Nat) (lim : Option (Nat × Nat)) (d : List Byte) (s : State) : JobRes × State :=
  let n := bits (jw d 0x40) 0 4
  let adr (k : Nat) : Nat := bits (jw d (0x48 + 8 * k)) 0 48
  let (recs, x, s1) := (List.range n).foldl (fun (a : List (List Byte) × JobRes × State) k =>
    let (bs, x, s) := a.2.2.jobRead r 2 (adr k) 128 a.2.1
    (a.1 ++ [bs], x, s)) ([], JobRes.begin lim, s)
  match recs with
  | [] => (x, s1)
  | r0 :: _ =>
    if x.stopped then (x, s1) else
      let word (b : List Byte) : Nat := bits (fieldAt b 0x10 4) 0 17
      let total := (recs.map fun b => fieldAt b 0x0C 4).sum
      let spans := recs.zipIdx.map fun (b, k) => (sget s.jobRecs (adr k) none).filter fun y => y.bytes = b
      let (covered, s2) :=
        if spans.all Option.isSome then
          (recs.all (fun b => word b = word r0) &&
            inOrder (bits (word r0) 9 8) 0 (spans.filterMap fun y => y.map fun y => (y.first, y.count)), s1)
        else let (f, s2) := s1.draw 1; (f = 1, s2)
      if !covered then ({ x with code := 0x11, detail := 9 }, s2)
      else
        let l := if 3840 < total then 24 else 16
        let reg := recs.foldl (fun reg b =>
          crcBits l (crcPoly l) reg (List.replicate (fieldAt b 0x0C 4) false) ^^^ fieldAt b 8 3) 0
        let x1 := { x with tbchk := true, tbpass := reg = 0 }
        (x1.crc (b2n (!x1.tbpass)), s2)

/-! ### Encoding -/

/-- The E output bits of one code block before scrambling (R247). -/
def encodeBlock (d : List Byte) (g : Geo) (i e : Nat) (data : List Bool) : List Bool :=
  let info := if g.c = 1 then data else data ++ natBits 24 (crcBits 24 (crcPoly 240) 0 data)
  let k := g.kLen.getD i 0
  let fill := List.replicate (k - info.length) false
  let cw := if g.turbo then turboEncode k (fill ++ info) else ldpcEncode g.bg g.zc (info ++ fill)
  let ncb := g.ncb i (jNcbLen d)
  let es := (g.positions i ncb (g.k0 i ncb (jRv d)) e).map fun p => cw.getD p false
  let rows := e / jQm d
  (List.range e).map fun m => es.getD (m % jQm d * rows + m / jQm d) false

/-- An encode job (R246, R247, R252). -/
def encodeJob (r : Nat) (lim : Option (Nat × Nat)) (d : List Byte) (s : State) : JobRes × State :=
  let g := jGeo d
  let n := jNcb d
  let crcgen := bit (jw d 0x48) 16
  let a := jTbs d
  let start (i : Nat) : Nat := ((List.range i).map g.kd).sum
  let (zc, s0) := if g.turbo then
      let k := g.kLen.getD (jFirst d) 0
      if k < 512 then (k, s) else s.draw 9
    else (g.zc, s)
  let x0 : JobRes := { JobRes.begin lim with zc := zc, c := g.c }
  if n = 0 then (x0, s0) else
    let lo := start (jFirst d)
    let hi := start (jFirst d + n)
    let top := if crcgen then a else hi
    let b0 := lo / 8
    let (bs, x1, s1) := s0.jobRead r 2 (jIn d + b0) ((top + 7) / 8 - b0) x0
    let got := (unpackBits bs).drop (lo - 8 * b0)
    let tb := if crcgen then got.take a ++ natBits g.l (crcBits g.l (crcPoly g.l) 0 (got.take a)) else got.take (hi - lo)
    let out := (List.range n).flatMap fun j =>
      let i := jFirst d + j
      if jE d j = 0 then [] else encodeBlock d g i (jE d j) ((tb.drop (start i - lo)).take (g.kd i))
    let scr := if bit (jw d 0x48) 17 then
        (out.zip (gold (bits (jw d 0x48) 32 31) (bits (jw d 0x58) 0 32) out.length)).map fun (b, c) => b != c
      else out
    let bytes := if bit (jw d 0x48) 18 then padLine (mapSymbols (jQm d) (bits (jw d 0x58) 32 16) s1.free scr)
      else packLines scr
    let s2 := { s1 with free := s1.free + 2 * scr.length }
    let (x2, s3) := s2.jobWrite r 4 (jOut d) bytes x1
    let js := (List.range n).filter fun j => jE d j ≠ 0
    (if x2.stopped then x2 else { x2 with ndone := js.length, donemap := (js.map fun j => 2 ^ j).sum }, s3)

/-! ### Polar, short block and convolutional codes -/

/-- Received LLRs at the input of a job. -/
def jobLlrs (s : State) (r : Nat) (d : List Byte) (e : Nat) (x : JobRes) : List Int × JobRes × State :=
  let (bs, x1, s1) := s.jobRead r 2 (jIn d) e x
  (bs.map llrVal, x1, s1)

/-- The last 16 of `l` CRC bits of a word of bits XORed with RMASK (R249, R253). -/
def maskCrc (l rmask : Nat) (bs : List Bool) : List Bool :=
  let m := min l 16
  bs.take (bs.length - m) ++ ((bs.drop (bs.length - m)).zip (natBits m rmask)).map fun (b, c) => b != c

/-- A decode of one code word: the K bits, checked and written without their CRC. -/
def wordDecode (r : Nat) (lim : Option (Nat × Nat)) (d : List Byte) (e k l poly rmask : Nat) (f : List Int → List Bool) (s : State) :
    JobRes × State :=
  let (llr, x, s1) := s.jobLlrs r d e (JobRes.begin lim)
  let raw := f llr
  let bs := maskCrc l rmask ((List.range k).map fun i => raw.getD i false)
  let pass := l = 0 || crcPass l poly bs
  let (x1, s2) := s1.jobWrite r 4 (jOut d) (packLines (bs.take (k - l))) x
  if x1.stopped then (x1, s2)
  else (({ x1 with ndone := 1, passmap := b2n pass }).crc (b2n (!pass)), s2)

/-- An encode of one code word: K − CRC bits read, the masked CRC attached, E bits written. -/
def wordEncode (r : Nat) (lim : Option (Nat × Nat)) (d : List Byte) (e k l poly rmask : Nat) (f : List Bool → List Bool) (s : State) :
    JobRes × State :=
  let (ib, x, s1) := s.jobRead r 2 (jIn d) ((k - l + 7) / 8) (JobRes.begin lim)
  let data := (unpackBits ib).take (k - l)
  let cw := f (maskCrc l rmask (data ++ natBits l (crcBits l poly 0 data)))
  let (x1, s2) := s1.jobWrite r 4 (jOut d) (packLines ((List.range e).map fun i => cw.getD i false)) x
  (if x1.stopped then x1 else { x1 with ndone := 1 }, s2)

/-- POLAR_DECODE (R249, R250). -/
def polarDecJob (r : Nat) (lim : Option (Nat × Nat)) (d : List Byte) (s : State) : JobRes × State :=
  let w := jw d 0x40
  let (l, poly) := polarCrc (bits w 30 2)
  wordDecode r lim d (bits w 14 16) (bits w 4 10) l poly (bits w 40 16)
    (fun llr => polarDecode (polarPar w) llr fun bs => crcPass l poly (maskCrc l (bits w 40 16) bs)) s

/-- POLAR_ENCODE (R249, R250). -/
def polarEncJob (r : Nat) (lim : Option (Nat × Nat)) (d : List Byte) (s : State) : JobRes × State :=
  let w := jw d 0x40
  let (l, poly) := polarCrc (bits w 30 2)
  wordEncode r lim d (bits w 14 16) (bits w 4 10) l poly (bits w 40 16) (polarEncode (polarPar w)) s

/-- SHORT_BLOCK_DECODE (R249, R250): no CRC, PASSMAP bit 0 always. -/
def shortJob (r : Nat) (lim : Option (Nat × Nat)) (d : List Byte) (s : State) : JobRes × State :=
  let w := jw d 0x40
  wordDecode r lim d (bits w 14 16) (bits w 0 4) 0 0 0 (shortDecode (bits w 0 4)) s

/-- CONV_DECODE (R253). -/
def convDecJob (r : Nat) (lim : Option (Nat × Nat)) (d : List Byte) (s : State) : JobRes × State :=
  let w := jw d 0x40
  let (l, poly) := convCrc (bits w 35 2)
  wordDecode r lim d (bits w 11 24) (bits w 0 11) l poly (bits w 37 16) (convDecode (bits w 0 11)) s

/-- CONV_ENCODE (R253). -/
def convEncJob (r : Nat) (lim : Option (Nat × Nat)) (d : List Byte) (s : State) : JobRes × State :=
  let w := jw d 0x40
  let (l, poly) := convCrc (bits w 35 2)
  wordEncode r lim d (bits w 11 24) (bits w 0 11) l poly (bits w 37 16) (convEncode (bits w 0 11) (bits w 11 24)) s

/-! ### Demapping and detection -/

/-- SOFT_DEMAP (R255, R256). -/
def demapJob (r : Nat) (lim : Option (Nat × Nat)) (d : List Byte) (s : State) : JobRes × State :=
  let w := jw d 0x40
  let nsym := bits w 0 20
  let md := bits w 20 4
  let nl := bits w 30 3 + 1
  let gre := bits w 33 10
  let qm := max md 1
  let gi (i : Nat) : Nat := if gre = 0 then i % nl else i / (nl * gre) * nl + i % nl
  if nsym = 0 then ((JobRes.begin lim), s) else
    let top := ((List.range nsym).map gi).foldl max 0
    let (ib, x1, s1) := s.jobRead r 2 (jIn d) (4 * nsym) (JobRes.begin lim)
    let (gb, x2, s2) := s1.jobRead r 3 (jAux d) (4 * (top + 1)) x1
    let llrs := (List.range nsym).flatMap fun i =>
      demapSymbol md (bits (jw d 0x50) 0 16) (bits w 24 6) (fieldAt gb (4 * gi i) 2) (md = 0 && (i + b2n (bit w 44)) % 2 = 1)
        (sgn 16 (fieldAt ib (4 * i) 2)) (sgn 16 (fieldAt ib (4 * i + 2) 2))
    let out := if bit w 43 then
        (llrs.zip (gold (bits (jw d 0x48) 0 31) (bits (jw d 0x48) 32 32) (nsym * qm))).map fun (v, c) => if c then -v else v
      else llrs
    s2.jobWrite r 4 (jOut d) (padLine (out.map llrByte)) x2

/-- MIMO_DETECT (R258 to R260): per group the weights and μ, then every resource element's symbols and every group's gain
words. A group with σ² = 0 has free outputs (log entry 1). -/
def detectJob (r : Nat) (lim : Option (Nat × Nat)) (d : List Byte) (s : State) : JobRes × State :=
  let w := jw d 0x40
  let nrx := bits w 0 7
  let nl := bits w 8 4
  let nre := bits w 32 20
  let gre := bits w 52 10
  let v := (nrx + 15) / 16
  let ng := (nre + gre - 1) / gre
  let sz := 64 * v * (nl + if bit w 12 then nrx else 1)
  if nre = 0 then ((JobRes.begin lim), s) else
    let (yb, x1, s1) := s.jobRead r 2 (jIn d) (64 * v * nre) (JobRes.begin lim)
    let (gb, x2, s2) := s1.jobRead r 3 (jAux d) (sz * ng) x1
    let groups : List (CMatQ × List Rat) := (List.range ng).map fun g =>
      let rec_ := gb.drop (sz * g)
      let cols := rowsAt rec_ v nl nrx
      let h := (List.range nrx).map fun a => (List.range nl).map fun l => mAt cols l a
      match groupGram (rec_.drop (64 * v * nl)) (bit w 12) v nrx with
      | none => ([], List.replicate nl 0)
      | some gram =>
        let wm := weights h gram nrx nl
        (wm, (List.range nl).map fun l => (mAt (matMulQ wm h nl nrx nl) l l).re)
    let mu (g l : Nat) : Rat := ((groups.getD g ([], [])).2).getD l 0
    let known (g : Nat) : Bool := !((groups.getD g ([], [])).1).isEmpty
    let sym := (List.range nre).flatMap fun n =>
      let y := (List.range nrx).map fun a => [intAt yb (64 * v * n + 4 * a)]
      let z := matMulQ (groups.getD (n / gre) ([], [])).1 y nl nrx 1
      (List.range nl).flatMap fun l => leBytes 4 (detected (mAt z l 0) (mu (n / gre) l) (bits (jw d 0x48) 0 5) (s2.free + nl * n + l))
    let gain := (List.range ng).flatMap fun g => (List.range nl).flatMap fun l =>
      let f := s2.free + nl * (nre + g) + l
      leBytes 4 (if known g then gainWord (mu g l) f else Config.freeValue f % 2 ^ 32)
    let s3 := { s2 with free := s2.free + nl * (nre + ng) }
    let (x3, s4) := s3.jobWrite r 4 (jOut d) sym x2
    s4.jobWrite r 4 (bits (jw d 0x50) 0 48) gain x3

/-- MIMO_FACTOR (R259, R261): of each row the lines up to its diagonal are read; a group that is not positive definite
writes zeros and counts. -/
def factorJob (r : Nat) (lim : Option (Nat × Nat)) (d : List Byte) (s : State) : JobRes × State :=
  let w := jw d 0x40
  let nrx := bits w 0 7
  let v := (nrx + 15) / 16
  let sz := 64 * v * nrx
  let (x, bad, s1) := (List.range (bits w 32 20)).foldl (fun (a : JobRes × Nat × State) g =>
    let (bs, x, s) := (List.range nrx).foldl (fun (t : List Byte × JobRes × State) i =>
      let n := 64 * (i / 16 + 1)
      let (b, x, s) := t.2.2.jobRead r 2 (jIn d + g * sz + 64 * v * i) n t.2.1
      (t.1 ++ b ++ List.replicate (64 * v - n) 0, x, s)) ([], a.1, a.2.2)
    let (out, fails) := whitening bs v nrx
    let (x', s') := s.jobWrite r 4 (jOut d + g * sz) out x
    (x', a.2.1 + b2n (fails && !x'.stopped), s')) ((JobRes.begin lim), 0, s)
  (if x.stopped || bad = 0 then x else { x with code := 2, detail := min bad 255 }, s1)

/-! ### Completion, timeout and stop -/

/-- The job-event crossing of a group (R227, R638), and its DONE crossing. -/
def jobEvXing (r : Nat) : Xid := ⟨24 + r, 28 + r, 7, 0⟩
def engDoneXing (r : Nat) : Xid := ⟨24 + r, 28 + r, 4, 0⟩

/-- JOB_COMPLETE (R212, R226, R227): the job-event pulse, then the completion to the slice. A pulse that the engine holds
is waited for. -/
def jobComplete (s : State) (r e : Nat) : State :=
  let g := s.engine r e
  match g.running with
  | none => s
  | some j0 =>
    if s.rb (RA_GSTAT.adr r) RA_GSTAT.PAUSED then s else
      -- a timed-out job writes its record first
      let s0 := match g.late with
        | some x =>
          let (dur, s') := s.draw 32
          s'.endJob r e j0 x dur
        | none => s
      match (s0.engine r e).running with
      | none => s
      | some j =>
        match j.status with
        | none => s
        | some st =>
          let d := j.desc.getD []
          let s1 := if jEvEn d && !g.pulsed then
              let s' := if jEvReg d = r then s0.pulse (jobEvXing r) e (jEvCtr d)
                else (s0.busWrite (24 + r) (0x300C01040 + 0x1000000 * jEvReg d) (leBytes 4 (1 + 2 ^ 14 * jEvCtr d))).2
              s'.setEngine r e { s'.engine r e with pulsed := true }
            else s0
          if s1.pulseHeld (jobEvXing r) e then s1 else
            let s2 := s1.pulse (engDoneXing r) e (48 + e)
            let g2 := s2.engine r e
            let s3 := s2.setEngine r e { g2 with running := none, pulsed := false, late := none, statuses := g2.statuses ++ [st] }
            ((((s3.wb (RA_ENGSTAT.adr r e) RA_ENGSTAT.BUSY false).incWrap (RA_JOBCNT.adr r e) RA_JOBCNT.COUNT 1).wf
              (RA_ENGSTAT.adr r e) RA_ENGSTAT.LASTCODE (st / 256)).wf (RA_ENGSTAT.adr r e) RA_ENGSTAT.LASTTAG (jTag d))

/-- What a job of each type does (R221 to R261). -/
def jobWork (r : Nat) (lim : Option (Nat × Nat)) (d : List Byte) (s : State) : JobRes × State :=
  match jType d with
  | 0x01 => decodeJob r lim d s
  | 0x02 => combineJob r lim d s
  | 0x10 => encodeJob r lim d s
  | 0x20 => polarDecJob r lim d s
  | 0x21 => polarEncJob r lim d s
  | 0x22 => shortJob r lim d s
  | 0x30 => decodeJob r lim d s
  | 0x31 => encodeJob r lim d s
  | 0x32 => convDecJob r lim d s
  | 0x33 => convEncJob r lim d s
  | 0x40 => demapJob r lim d s
  | 0x50 => detectJob r lim d s
  | _ => factorJob r lim d s

/-- JOB_TIMEOUT (R230, R263): the running job reaches RA_JOBLIM after `done` requests; `overdue` says that its record has not
been written. A job that an error has ended before is not timed out. -/
def jobTimeout (s : State) (r e : Nat) (overdue : Bool) (done : Nat) : State :=
  let g := s.engine r e
  let lim := s.rf (RA_JOBLIM.adr r e) RA_JOBLIM.LIMIT
  match g.running with
  | none => s
  | some j =>
    if j.status.isSome || g.late.isSome || lim = 0 then s else
      let end_ (d : List Byte) (x : JobRes) (s0 : State) : State :=
        let s1 := (if x.code = 0x30 then s0.raise 0x0402 (engSrc r e) (jTag d) lim 0 else s0).wb (RA_ENGSTAT.adr r e) RA_ENGSTAT.HWAIT false
        if overdue then s1.setEngine r e { s1.engine r e with late := some x }
        else
          let (dur, s2) := s1.draw 32
          s2.endJob r e j x dur
      match j.desc with
      | none => s
      | some d =>
        if s.rb (RA_ENGSTAT.adr r e) RA_ENGSTAT.HWAIT then end_ d (.err 0x30 0) s
        else match paramFails d with
          | some w => end_ d (.err 0x11 w) s
          | none =>
            let (x, s1) := jobWork r (some (done, 0x30)) d s
            end_ d x.finish s1

/-- An engine stops as a faulting unit (R264): 1 record overdue, 2 control store. -/
def stopEngine (s : State) (r e why : Nat) : State :=
  if s.rb (RA_ENGSTAT.adr r e) RA_ENGSTAT.UNAVAIL then s else
    let g := s.engine r e
    let tag := match g.running with
      | some j => (j.desc.map jTag).getD 0
      | none => 0
    let s1 := (s.setEngine r e { Engine.reset with statuses := g.statuses }).guardSync r
    let a := RA_ENGSTAT.adr r e
    let s2 := ((((s1.wb a RA_ENGSTAT.BUSY false).wb a RA_ENGSTAT.STAGED false).wb a RA_ENGSTAT.HWAIT false).wb a
      RA_ENGSTAT.UNAVAIL true).wf (RA_GSTAT.adr r) ⟨e, 1⟩ 1
    (((s2.setUnavail r (48 + e) true).abortUnit r (48 + e) 1).raise 0x0403 (engSrc r e) tag why 0).airSync

end State

/-- RA_INTAKE_WRITE (R197, R224, R266): a source writes ENTRY to an engine's intake. -/
def execRaIntakeWrite (r : RegionId) (e : EngineId) (src : SrcId) (entry : Addr) (s : State) : Result :=
  .next (((s.busWrite src (0x300801000 + 0x1000000 * r.val + 8 * e.val) (leBytes 8 entry.toNat)).2).fetchDesc r e)

/-- JOB_START (R224, R226, R245). -/
def execJobStart (r : RegionId) (e : EngineId) (s : State) : Result := .next (s.jobStart r e)

/-- LDPC_DECODE (R231 to R244); `ecc` says that the engine's buffers hold an uncorrectable error, `dur` is DURATION. -/
def execLdpcDecode (r : RegionId) (e : EngineId) (ecc : BufErrs) (dur : Word) (s : State) : Result :=
  .next (s.withJob r e [0x01] ecc dur.toNat (State.decodeJob r))

/-- TB_CRC_COMBINE (R239). -/
def execTbCrcCombine (r : RegionId) (e : EngineId) (ecc : BufErrs) (dur : Word) (s : State) : Result :=
  .next (s.withJob r e [0x02] ecc dur.toNat (State.combineJob r))

/-- LDPC_ENCODE (R246 to R248). -/
def execLdpcEncode (r : RegionId) (e : EngineId) (ecc : BufErrs) (dur : Word) (s : State) : Result :=
  .next (s.withJob r e [0x10] ecc dur.toNat (State.encodeJob r))

/-- POLAR_DECODE (R249 to R251). -/
def execPolarDecode (r : RegionId) (e : EngineId) (ecc : BufErrs) (dur : Word) (s : State) : Result :=
  .next (s.withJob r e [0x20] ecc dur.toNat (State.polarDecJob r))

/-- POLAR_ENCODE (R249 to R251). -/
def execPolarEncode (r : RegionId) (e : EngineId) (ecc : BufErrs) (dur : Word) (s : State) : Result :=
  .next (s.withJob r e [0x21] ecc dur.toNat (State.polarEncJob r))

/-- SHORT_BLOCK_DECODE (R249 to R251). -/
def execShortBlockDecode (r : RegionId) (e : EngineId) (ecc : BufErrs) (dur : Word) (s : State) : Result :=
  .next (s.withJob r e [0x22] ecc dur.toNat (State.shortJob r))

/-- TURBO_DECODE (R252). -/
def execTurboDecode (r : RegionId) (e : EngineId) (ecc : BufErrs) (dur : Word) (s : State) : Result :=
  .next (s.withJob r e [0x30] ecc dur.toNat (State.decodeJob r))

/-- TURBO_ENCODE (R252). -/
def execTurboEncode (r : RegionId) (e : EngineId) (ecc : BufErrs) (dur : Word) (s : State) : Result :=
  .next (s.withJob r e [0x31] ecc dur.toNat (State.encodeJob r))

/-- CONV_DECODE (R253). -/
def execConvDecode (r : RegionId) (e : EngineId) (ecc : BufErrs) (dur : Word) (s : State) : Result :=
  .next (s.withJob r e [0x32] ecc dur.toNat (State.convDecJob r))

/-- CONV_ENCODE (R253). -/
def execConvEncode (r : RegionId) (e : EngineId) (ecc : BufErrs) (dur : Word) (s : State) : Result :=
  .next (s.withJob r e [0x33] ecc dur.toNat (State.convEncJob r))

/-- SOFT_DEMAP (R255 to R257). -/
def execSoftDemap (r : RegionId) (e : EngineId) (ecc : BufErrs) (dur : Word) (s : State) : Result :=
  .next (s.withJob r e [0x40] ecc dur.toNat (State.demapJob r))

/-- MIMO_DETECT (R258 to R260). -/
def execMimoDetect (r : RegionId) (e : EngineId) (ecc : BufErrs) (dur : Word) (s : State) : Result :=
  .next (s.withJob r e [0x50] ecc dur.toNat (State.detectJob r))

/-- MIMO_FACTOR (R258, R261). -/
def execMimoFactor (r : RegionId) (e : EngineId) (ecc : BufErrs) (dur : Word) (s : State) : Result :=
  .next (s.withJob r e [0x51] ecc dur.toNat (State.factorJob r))

/-- HARQ_GUARD_ACQUIRE (R245). -/
def execHarqGuardAcquire (r : RegionId) (e : EngineId) (s : State) : Result := .next (s.guardAcquire r e)

/-- JOB_COMPLETE (R226 to R230). -/
def execJobComplete (r : RegionId) (e : EngineId) (s : State) : Result := .next (s.jobComplete r e)

/-- JOB_TIMEOUT (R263). -/
def execJobTimeout (r : RegionId) (e : EngineId) (overdue : Overrun) (s : State) : Result :=
  .next (s.jobTimeout r e overdue.overdue overdue.done)

/-- ENGINE_STOP (R264): the record of a timed-out job is overdue. -/
def execEngineStop (r : RegionId) (e : EngineId) (s : State) : Result :=
  .next (if (s.engine r e).late.isSome then s.stopEngine r e 1 else s)

/-- CONTROL_STORE_ERROR (R264). -/
def execControlStoreError (r : RegionId) (e : EngineId) (s : State) : Result := .next (s.stopEngine r e 2)

end Sys2Proof.Machine
end

