-- ==== Sys2Proof/Machine/Innkeeper.lean ====
section
/-! DEFINITION. The Innkeeper slice at work (R175 to R219): dispatch to cores and engines, pre-emption, save and restore,
completion, the issue of outputs, and the commands that act on a slice. -/

namespace Sys2Proof.Machine

/-- Base of slice r's INK_ block (R86). -/
def inkBase (r : Nat) : Nat := 0x300C00000 + 0x1000000 * r

/-- Address of INK_DECR of slice r. -/
def inkDecrAddr (r : Nat) : Nat := inkBase r + 0x1040

/-- The crossings of a dispatch to core `n` (R195, R638): the value, and the interrupt. -/
def dispatchXing (n : Nat) : Xid := ⟨28 + n / 48, n / 8, 2, n % 8⟩
def interruptXing (n : Nat) : Xid := ⟨28 + n / 48, n / 8, 3, n % 8⟩

/-- The 237 bits of a dispatch (R195): DATA0 to DATA2, ENTRY, TASK_ID and OKEY. -/
def dispatchValue (d : List Word) : Nat :=
  taskData d 0 + 2 ^ 64 * taskData d 1 + 2 ^ 128 * taskData d 2 + 2 ^ 192 * (taskEntry d % 2 ^ 13) +
    2 ^ 205 * taskId d + 2 ^ 221 * taskKey d

/-- The registers that a dispatch loads (R195). -/
def loadDispatch (r : Arch) (n v : Nat) : Arch :=
  let data (i : Nat) : Nat := bits v (64 * i) 64
  let r1 := (List.range 3).foldl (fun r i => r.setA n i (BitVec.ofNat 48 (data i))) r
  let r2 := (List.range 3).foldl (fun r i => r.setS (2 + i) (BitVec.ofNat 32 (data i >>> 48))) r1
  let r3 := (r2.setS 0 (BitVec.ofNat 32 (bits v 205 16))).setS 1 (BitVec.ofNat 32 (bits v 221 16))
  { r3 with pc := bits v 192 13, rep := none }

/-- The 2,048 bytes of a save area (R200); `cycle` is C7 as MFC reads it. -/
def saveBytes (r : Arch) (n cycle : Nat) : List Byte :=
  (List.range 16).flatMap (fun i => leBytes 64 (r.getV i).toNat) ++
  (List.range 4).flatMap (fun i => leBytes 160 (r.getAcc i).toNat) ++
  (List.range 16).flatMap (fun i => leBytes 4 (r.getS i).toNat) ++
  (List.range 8).flatMap (fun i => leBytes 8 (r.getA n i).toNat) ++
  (List.range 8).flatMap (fun i => leBytes 8 (r.getB i).toNat) ++
  (List.range 8).flatMap (fun i => leBytes 4 (r.getO i).toNat) ++
  (List.range 8).flatMap (fun i => leBytes 4 (r.getL i).toNat) ++
  (List.range 7).flatMap (fun i => leBytes 4 (r.getC i).toNat) ++ leBytes 4 cycle ++
  leBytes 4 (r.pc % 2 ^ 13) ++ List.replicate 92 0

/-- The registers that a save area holds (R200): every register listed except C7. -/
def loadSaved (r : Arch) (n : Nat) (bs : List Byte) : Arch :=
  let f := fieldAt bs
  let r := (List.range 16).foldl (fun r i => r.setV i (BitVec.ofNat 512 (f (64 * i) 64))) r
  let r := (List.range 4).foldl (fun r i => r.setAcc i (BitVec.ofNat 1280 (f (0x400 + 160 * i) 160))) r
  let r := (List.range 16).foldl (fun r i => r.setS i (BitVec.ofNat 32 (f (0x680 + 4 * i) 4))) r
  let r := (List.range 8).foldl (fun r i => r.setA n i (BitVec.ofNat 48 (f (0x6C0 + 8 * i) 6))) r
  let r := (List.range 8).foldl (fun r i => r.setB i (BitVec.ofNat 48 (f (0x700 + 8 * i) 6))) r
  let r := (List.range 8).foldl (fun r i => r.setO i (BitVec.ofNat 32 (f (0x740 + 4 * i) 4))) r
  let r := (List.range 8).foldl (fun r i => r.setL i (BitVec.ofNat 24 (f (0x760 + 4 * i) 3))) r
  let r := (List.range 7).foldl (fun r i => r.setC i (BitVec.ofNat 32 (f (0x780 + 4 * i) 4))) r
  { r with pc := bits (f 0x7A0 4) 0 13, rep := none }

/-- Address of the save area of core `n` for depth `d` (R200). -/
def saveArea (n d : Nat) : Nat := dmemBase n + 0x3E800 + 0x800 * d

namespace State

/-- The power domains that unit `u` of region `r` needs (R518). -/
def unitOn (s : State) (r u : Nat) : Bool :=
  let (i, d) := if u < 48 then (6 * r + u / 8, 11 * (6 * r + u / 8) + 1 + u % 8) else (24 + r, 266 + 14 * r + (u - 48))
  s.domOn d && !s.deadIsl i && !(s.isl i).iso

/-- Whether the slice dispatches to a unit (R194). -/
def dispatchable (s : State) (r u : Nat) : Bool :=
  s.unitOn r u && !(u < 48 && s.handling (48 * r + u))

/-- Sends a dispatch to a core (R195). -/
def sendDispatch (s : State) (n : Nat) (d : List Word) : State :=
  (s.valueSend (dispatchXing n) (dispatchValue d)).pulse (interruptXing n) 0 0

/-- A dispatch to core `n` is on its way or waits at the core. -/
def dispatchPending (s : State) (n : Nat) : Bool :=
  let x := s.xing (dispatchXing n).key
  x.busy || x.fresh || x.vpend.isSome || (s.core n).irq

/-- Gives a ready task to a unit (R192, R195, R197). -/
def dispatchTo (s : State) (r u p : Nat) (e : PoolEnt) : State :=
  let s1 := s.takeTask r u p e (48 ≤ u)
  if u < 48 then s1.sendDispatch (48 * r + u) e.desc
  else
    let a := 0x300801000 + 0x1000000 * r + 8 * (u - 48)
    ((s1.busWrite (28 + r) a (leBytes 8 (taskEntry e.desc))).2).fetchDesc r (u - 48)

/-- TASK_DISPATCH (R192 to R194): the unit of class `c` that has been idle longest and is offered a task takes it. -/
def taskDispatch (s : State) (r c : Nat) : State :=
  let us := (s.idleUnits r c).filter fun u => s.dispatchable r u
  match us.findSome? (fun u => (s.taskFor r u 0).map fun e => (u, e)) with
  | none => s
  | some (u, p, e) => s.dispatchTo r u p e

/-- An iteration of a repeat has not committed: a flush would go back into the repeat. -/
def inRepeat (s : State) (n : Nat) : Bool := (s.core n).arch.rep.isSome || (s.core n).flight.any fun b => b.iter.isSome

/-- DISPATCH_TAKE (R116, R152, R195, R199): an idle core, or one that has ended a pre-empting task, loads the dispatch
and runs; a running core, outside a repeat whose last iteration has not committed, comes to the boundary and begins to save. -/
def dispatchTake (s : State) (n : Nat) : State :=
  let x := dispatchXing n
  let st := s.xing x.key
  let c := s.core n
  if !(st.fresh && c.irq) then s
  else match c.run with
    | .running =>
      if s.inRepeat n || s.handling n || !s.atBoundary n then s
      else
        let s1 := s.flush n
        s1.setCore n { s1.core n with run := .saving, irq := false }
    | .saving => s
    | .stopped => s
    | _ =>
      let s1 := s.setXing x.key { st with fresh := false }
      s1.setCore n { c with arch := loadDispatch c.arch n st.dst, run := .running, irq := false,
                            tasks := sput c.tasks c.depth (c.serial + 1) 0, serial := c.serial + 1 }

/-- The priority of the task that a unit runs. -/
def runningPri (s : State) (r u : Nat) : Nat :=
  match (s.inkUnit r u).tasks.getLast? with
  | none => 8
  | some t => match s.poolEnt r t.pool with
    | some e => taskPri e.desc
    | none => 8

/-- The core that a ready task of priority `p` pre-empts (R194, R198). -/
def preemptTarget (s : State) (r p : Nat) (d : List Word) : Option Nat :=
  let ok (u : Nat) : Bool :=
    let un := s.inkUnit r u
    !un.tasks.isEmpty && un.tasks.length ≤ 3 && un.done.isEmpty && admits d u && s.dispatchable r u &&
      !s.rb (INK_UNIT.adr r u) INK_UNIT.UNAVAIL && !s.dispatchPending (48 * r + u) &&
      decide ((s.core (48 * r + u)).run = .running) && s.runningPri r u + 2 ≤ p &&
      (taskFlow d = 0 || (!s.rb (INK_UNIT.adr r u) INK_UNIT.LAG && s.claimOk r d))
  ((List.range 48).filter ok).foldl (fun (b : Option Nat) u =>
    match b with
    | none => some u
    | some v => if s.runningPri r u < s.runningPri r v then some u else some v) none

/-- PREEMPTION (R198): the first ready VDC task, from priority 7 down, that finds no idle admitted core and can pre-empt
one. -/
def preempt (s : State) (r : Nat) : State :=
  let idle := (s.idleUnits r 0).filter fun u => s.dispatchable r u
  let cand (e : Nat × PoolEnt) : Option (Nat × Nat × PoolEnt) :=
    if idle.any (fun u => admits e.2.desc u) then none
    else (s.preemptTarget r (taskPri e.2.desc) e.2.desc).map fun u => (u, e.1, e.2)
  match (List.range 8).reverse.findSome? (fun p => ((s.readyList r p 0).take 16).findSome? cand) with
  | none => s
  | some (u, p, e) => s.dispatchTo r u p e

/-- Writes bytes of a core's own data memory, line by line. -/
def ownWrite (s : State) (a : Nat) (bs : List Byte) : State :=
  (List.range ((bs.length + 63) / 64)).foldl (fun s i =>
    s.memStore (((bs.drop (64 * i)).take 64).zipIdx.map fun (b, j) => (a + 64 * i + j, b))) s

/-- Reads bytes of a core's own data memory, line by line. -/
def ownRead (s : State) (a lines : Nat) : List Byte × State :=
  (List.range lines).foldl (fun (r : List Byte × State) i =>
    let (_, d, s1) := r.2.memLoad (a + 64 * i) 64
    (r.1 ++ d, s1)) ([], s)

/-- PREEMPT_SAVE_DONE (R199, R200): every remote load answered, the registers are saved, the depth rises and the new task
is loaded. -/
def saveDone (s : State) (n : Nat) : State :=
  let c := s.core n
  let st := s.xing (dispatchXing n).key
  if c.run ≠ .saving || c.rloads.any (fun l => !l.dead) || !st.fresh then s
  else
    let s1 := s.ownWrite (saveArea n c.depth) (saveBytes c.arch n (s.clusterCycle (n / 8)))
    let c1 := s1.core n
    (s1.setXing (dispatchXing n).key { st with fresh := false }).setCore n
      { c1 with arch := loadDispatch c1.arch n st.dst, run := .running, depth := c1.depth + 1,
                tasks := sput c1.tasks (c1.depth + 1) (c1.serial + 1) 0, serial := c1.serial + 1 }

/-- TASK_RESTORE (R202): after a DONE at depth 1 or more, a task that outranks the saved one by two levels is dispatched
at that depth; otherwise the saved task is restored. -/
def taskRestore (s : State) (n : Nat) : State :=
  let c := s.core n
  let r := n / 48
  let u := n % 48
  if c.run ≠ .restoring || (s.inkUnit r u).tasks.length ≠ c.depth || s.dispatchPending n || c.depth = 0 then s
  else
    match (if s.dispatchable r u && !s.rb (INK_UNIT.adr r u) INK_UNIT.UNAVAIL then s.taskFor r u (s.runningPri r u + 2) else none) with
    | some (p, e) => s.dispatchTo r u p e
    | none =>
      let (bs, s1) := s.ownRead (saveArea n (c.depth - 1)) 32
      let c1 := s1.core n
      s1.setCore n { c1 with arch := loadSaved c1.arch n bs, run := .running, depth := c1.depth - 1 }

/-! ### Completion -/

/-- The task of a unit that completes next: the one at the depth that ended, which is the oldest of an engine. A dispatch that
crossed the DONE stands after it. -/
def completing (s : State) (r u : Nat) : Option UnitTask :=
  match (s.inkUnit r u).done with
  | [] => none
  | (d, _) :: _ => (s.inkUnit r u).tasks[d]?

/-- The first completion of a unit takes a slot (R201, R210): its task is retired and the unit is free. A core is idle once it
has no task; an engine has been since its staging place became free (R176, R193). -/
def unitComplete (s : State) (r u : Nat) : State :=
  let un := s.inkUnit r u
  match s.completing r u, un.done with
  | some t, (d, st) :: rest =>
    let s1 := s.setInkUnit r u { un with tasks := un.tasks.eraseIdx d, done := rest }
    let s2 := if u < 48 && (s1.inkUnit r u).tasks.isEmpty then s1.stampIdle r u else s1
    (s2.completeTask r t.pool st).inkSync r
  | _, _ => s

/-- TASK_COMPLETE (R201, R210, R213, R214): a completion that has reached the slice; `svc` is its service time in region
fabric cycles. Where the class's threshold is 0, which no task exceeds, a completion returns a laggard to service (DESIGN CHOICE, log
entry 25: the spec does not say so of a class whose monitoring is disabled). -/
def taskComplete (s : State) (r u svc : Nat) : State :=
  let un := s.inkUnit r u
  if un.done.isEmpty || un.tasks.isEmpty || (s.ink r).compWait.contains (.unit u) then s
  else
    let s1 := s.wf (INK_UNIT.adr r u) INK_UNIT.LASTSVC (satAt 24 svc)
    let thr := s.lagThreshold r u
    let s2 := if thr ≠ 0 ∧ thr < svc then s1.becomeLaggard r u svc else s1.unitRecovered r u 1
    if s2.slotsUsed r < 32 && (s2.ink r).compWait.isEmpty then s2.unitComplete r u
    else s2.setInk r { s2.ink r with compWait := (s2.ink r).compWait ++ [.unit u] }

/-- COMPLETION_SLOT_TAKE (R210): the completion that has waited longest takes a free slot. -/
def slotTake (s : State) (r : Nat) : State :=
  if 32 ≤ s.slotsUsed r then s else
    match (s.ink r).compWait with
    | [] => s
    | w :: ws =>
      let s1 := s.setInk r { s.ink r with compWait := ws }
      match w with
      | .unit u => s1.unitComplete r u
      | .join p => (s1.completeTask r p 0).inkSync r

/-- The lines of a successor list: address, first entry and how many (R188). -/
def succLines (a n : Nat) : List (Nat × Nat) :=
  (List.range n).foldl (fun l i =>
    let line := (a + 4 * i) / 64 * 64
    match l.getLast? with
    | some (x, k) => if x = line then l.dropLast ++ [(x, k + 1)] else l ++ [(line, 1)]
    | none => [(line, 1)]) []

/-- Reads the successor list of a completed task (R188): the entries of the lines that were read OK. -/
def readSucc (s : State) (r : Nat) (o : OutRec) : List (Option Nat) × State :=
  let a := taskSucc o.desc
  let (es, _, s1) := (succLines a (taskNsucc o.desc)).foldl (fun (x : List (Option Nat) × Nat × State) l =>
    let (es, i, s) := x
    let (tag, s0) := s.draw 8
    let (st, _, d, s1) := s0.lineRead (28 + r) tag (a + 4 * i) (4 * l.2)
    if st ≠ stOk then (es, i + l.2, s1.raise 0x0305 (704 + r) (taskId o.desc) l.1 st)
    else (es ++ (List.range l.2).map (fun j => some (fieldAt d (4 * j) 4)), i + l.2, s1)) ([], 0, s)
  (es, s1)

/-- Issues successor entries in list order while the decrement queue has room (R187, R188, R211): what is left. -/
def issueSucc (s : State) (r id : Nat) : List (Option Nat) → List (Option Nat) × State
  | [] => ([], s)
  | none :: es => s.issueSucc r id es
  | some e :: es =>
    if bits e 28 2 ≠ 0 ∨ bits e 12 2 ≠ 0 then (s.raise 0x0304 (704 + r) e id 0).issueSucc r id es
    else if bits e 0 12 = 0 then s.issueSucc r id es
    else if bits e 30 2 = r then
      if 128 ≤ (s.ink r).decq.length then (some e :: es, s)
      else (s.enqueueDecr r (bits e 14 14) (bits e 0 12)).issueSucc r id es
    else
      ((s.busWrite (28 + r) (inkDecrAddr (bits e 30 2)) (leBytes 4 (bits e 0 12 + 2 ^ 14 * bits e 14 14))).2).issueSucc r id es

/-- The 16 bytes of an egress post (R333). -/
def postBytes (o : OutRec) : List Byte :=
  leBytes 6 (taskPkt o.desc) ++ leBytes 1 (taskEqueue o.desc) ++ [0] ++ leBytes 2 (taskId o.desc) ++ leBytes 2 o.status ++
    List.replicate 4 0

/-- Issues the outputs of one record (R188, R189): none when the decrement queue has taken only part of them. -/
def issueOut (s : State) (r : Nat) (o : OutRec) : Option OutRec × State :=
  let (es, s1) := match o.rest with
    | some es => (es, s)
    | none => s.readSucc r o
  let (left, s2) := s1.issueSucc r (taskId o.desc) es
  if left.isEmpty then
    (none, if taskEgv o.desc then (s2.busWrite (28 + r) 0x120000 (postBytes o)).2 else s2)
  else (some { o with rest := some left }, s2)

/-- The record at place `j` of a list once what is left of it is known. -/
def putOut (o : Option OutRec) (j : Nat) (l : List OutRec) : List OutRec :=
  match o with
  | none => l.eraseIdx j
  | some o => l.set j o

/-- The outputs of released record `j` are issued, or those of slot `j`. -/
def drainReleased (s : State) (r j : Nat) (o : OutRec) : State :=
  let (left, s1) := s.issueOut r o
  (s1.setInk r { s1.ink r with released := putOut left j (s1.ink r).released }).inkSync r

def drainSlot (s : State) (r j : Nat) (o : OutRec) : State :=
  let (left, s1) := s.issueOut r o
  (s1.setInk r { s1.ink r with slots := putOut left j (s1.ink r).slots }).inkSync r

/-- COMPLETION_SLOT_DRAIN (R204, R211): released outputs, or those of the first slot, are issued. -/
def slotDrain (s : State) (r : Nat) : State :=
  match (s.ink r).released, (s.ink r).slots with
  | o :: _, _ => s.drainReleased r 0 o
  | [], o :: _ => s.drainSlot r 0 o
  | [], [] => s

/-- Successor entries that wait for room enter the decrement queue (R211). -/
def succRefill (s : State) (r : Nat) : State :=
  let waits (l : List OutRec) : Option (OutRec × Nat) := l.zipIdx.find? fun x => x.1.rest.isSome
  if 128 ≤ (s.ink r).decq.length then s
  else match waits (s.ink r).released, waits (s.ink r).slots with
    | some (o, j), _ => s.drainReleased r j o
    | none, some (o, j) => s.drainSlot r j o
    | none, none => s

/-- DECREMENT_APPLY (R184, R185, R211, R212): the entry that frees goes to a waiting successor decrement, else to a held
INK_DECR write; in one of 32 region fabric cycles, here every 32nd that applies a decrement (DESIGN CHOICE, log entry 25), the
first entry goes to the held write. -/
def applyDecr (s : State) (r : Nat) (same : Bool) : State :=
  let s1 := s.applyHead r same
  let turn := (s1.ink r).applied % 32 = 0 ∧ (s1.ink r).half
  let s2 := if turn then s1.heldTake r else s1
  ((s2.succRefill r).heldTake r).inkSync r

end State

/-- INK_SUBMIT (R179 to R182): `whole` says that the write is one 64-byte WRITE. -/
def execInkSubmit (r : RegionId) (src : SrcId) (whole : Bool) (data : Line) (s : State) : Result :=
  let (tag, s0) := s.draw 8
  .next (s0.lineWrite src tag (inkBase r + 0x1000) (if whole then .whole else .burst) (2 ^ 64 - 1) data.toNat).2.2

/-- CREDIT_GRANT (R180, R212). -/
def execCreditGrant (r : RegionId) (s : State) : Result := .next (if s.preparing then s else s.grant r)

/-- A word written to INK_DECR. -/
def inkDecr (r : RegionId) (src : SrcId) (w : Nat) (s : State) : State := (s.busWrite src (inkDecrAddr r) (leBytes 4 w)).2

/-- INK_DECR_DECREMENT (R184, R185, R219): OP 0b00. -/
def execInkDecrDecrement (r : RegionId) (src : SrcId) (c : BitVec 14) (a : BitVec 12) (s : State) : Result :=
  .next (inkDecr r src (a.toNat + 2 ^ 14 * c.toNat) s)

/-- INK_DECR_CLEAR_EARLY (R219): OP 0b01. -/
def execInkDecrClearEarly (r : RegionId) (src : SrcId) (c : BitVec 14) (s : State) : Result :=
  .next (inkDecr r src (2 ^ 30 + 2 ^ 14 * c.toNat) s)

/-- INK_DECR_ABANDON (R216, R219): OP 0b10. -/
def execInkDecrAbandon (r : RegionId) (src : SrcId) (c : BitVec 14) (s : State) : Result :=
  .next (inkDecr r src (2 ^ 31 + 2 ^ 14 * c.toNat) s)

/-- INK_DECR_RESERVED_OP (R219): OP 0b11. -/
def execInkDecrReservedOp (r : RegionId) (src : SrcId) (w : BitVec 30) (s : State) : Result :=
  .next (inkDecr r src (3 * 2 ^ 30 + w.toNat) s)

/-- INK_DECR_HELD (R212). -/
def execInkDecrHeld (r : RegionId) (s : State) : Result := .next (s.heldTake r)

/-- DECREMENT_APPLY (R184, R185). -/
def execDecrementApply (r : DecrAt) (s : State) : Result := .next (s.applyDecr r.region r.same)

/-- JOIN_TAKE_RESERVOIR (R205). -/
def execJoinTakeReservoir (r : RegionId) (s : State) : Result := .next (s.joinTake r)

/-- TASK_DISPATCH (R192 to R197), for a class. -/
def execTaskDispatch (r : RegionId) (c : Fin 7) (s : State) : Result := .next (if s.preparing then s else s.taskDispatch r c)

/-- DISPATCH_TAKE (R195). -/
def execDispatchTake (n : CoreId) (s : State) : Result := .next (s.dispatchTake n)

/-- PREEMPTION (R198). -/
def execPreemption (r : RegionId) (s : State) : Result := .next (if s.preparing then s else s.preempt r)

/-- PREEMPT_SAVE_DONE (R199, R200). -/
def execPreemptSaveDone (n : CoreId) (s : State) : Result := .next (s.saveDone n)

/-- TASK_RESTORE (R202). -/
def execTaskRestore (n : CoreId) (s : State) : Result := .next (s.taskRestore n)

/-- TASK_COMPLETE (R201). -/
def execTaskComplete (r : RegionId) (u : Fin 60) (svc : Word) (s : State) : Result := .next (s.taskComplete r u svc.toNat)

/-- COMPLETION_SLOT_TAKE (R210). -/
def execCompletionSlotTake (r : RegionId) (s : State) : Result := .next (s.slotTake r)

/-- COMPLETION_SLOT_DRAIN (R188, R189, R211). -/
def execCompletionSlotDrain (r : RegionId) (s : State) : Result := .next (s.slotDrain r)

/-- DEADLINE_SCAN (R209). -/
def execDeadlineScan (r : RegionId) (s : State) : Result := .next (s.deadlineScan r)

/-- LAGGARD_THRESHOLD (R213): the running task of a unit has been in service for `svc` region fabric cycles. -/
def execLaggardThreshold (r : RegionId) (u : Fin 60) (svc : Word) (s : State) : Result := .next (s.lagCheck r u svc.toNat)

/-- LAGGARD_IDLE_RETURN (R214). -/
def execLaggardIdleReturn (r : RegionId) (u : Fin 60) (s : State) : Result := .next (s.lagIdle r u)

/-- INK_UNIT_LAG_CLEAR (R214): a write of 1 to LAG. -/
def execInkUnitLagClear (r : RegionId) (u : Fin 60) (src : SrcId) (s : State) : Result :=
  .next (s.busWrite src (INK_UNIT.adr r u) (leBytes 4 (2 ^ 31))).2

/-- INK_FLOW_WRITE (R207, R641): a write of the enabled bytes of INK_FLOW[f]. -/
def execInkFlowWrite (r : RegionId) (f : Fin 256) (src : SrcId) (en : BitVec 4) (w : Word) (s : State) : Result :=
  let a := INK_FLOW.adr r f
  let (tag, s0) := s.draw 8
  .next (s0.lineWrite src tag (a / 64 * 64) .part (en.toNat * 2 ^ (a % 64)) (w.toNat * 2 ^ (8 * (a % 64)))).2.2

end Sys2Proof.Machine
end

