-- ==== Sys2Proof/WellFormed.lean ====
section
/-! DEFINITION. Which commands a sender can form: checks beyond the types of the operands. -/

namespace Sys2Proof

/-- A Porter channel exists: 16 in a cluster block, 32 in the hub's (R369). -/
def chanOk (b : BlockId) (ch : Fin 32) : Bool := b = 24 || ch.val < 16

/-- XCOUNT: the crossings that an island joins (R55, R638). -/
def xingCount (i : Nat) : Nat :=
  if i < 24 then 25
  else if i < 28 then 7
  else if i < 32 then 144
  else if i < 34 then 7
  else if i = 34 then 180
  else if i < 39 then 4
  else if i = 39 then 3
  else if i < 52 then 5
  else if i = 52 then 49
  else if i < 61 then 4
  else if i = 61 then 6
  else 2

/-- The crossing that a command names: its island and its index there. -/
def crossingOf : Instr → Option (IslandId × Nat)
  | .pulseDeliver i x => some (i, x)
  | .pulseAck i x => some (i, x.xing)
  | .valueDeliver i x => some (i, x)
  | .valueAck i x => some (i, x)
  | .grayCounterUpdate i x => some (i, x)
  | .heartbeatToggle i x => some (i, x)
  | .snapshotResult i x => some (i, x)
  | .crossingTimeout i x => some (i, x)
  | _ => none

/-- The Porter channel that a command names: its block and its number there. -/
def channelOf : Instr → Option (BlockId × Fin 32)
  | .ptTailWrite b ch _ _ => some (b, ch)
  | .ptRingbaseWrite b ch _ _ => some (b, ch)
  | .ptRinglenWrite b ch _ _ => some (b, ch)
  | .ptChannelEnable b ch _ => some (b, ch)
  | .ptChannelDisable b ch _ => some (b, ch)
  | .ptChainCut b ch _ => some (b, ch)
  | .descriptorStart b ch _ => some (b, ch)
  | .descCopy b ch _ => some (b, ch)
  | .descInterleave b ch _ => some (b, ch)
  | .descDeinterleave b ch _ => some (b, ch)
  | .descWordsToPlanes b ch _ => some (b, ch)
  | .descPlanesToWords b ch _ => some (b, ch)
  | .descriptorFinish b ch => some (b, ch)
  | _ => none

/-- The command's operands are ones a sender can give: a crossing below XCOUNT of its island, a channel that its Porter
block has. -/
def WellFormed (c : Instr) : Bool :=
  (match crossingOf c with
   | some (i, x) => decide (x < xingCount i.val)
   | none => true) &&
  (match channelOf c with
   | some (b, ch) => chanOk b ch
   | none => true)

end Sys2Proof
end

