-- ==== Sys2Proof/Machine/Ethernet.lean ====
section
/-! DEFINITION. The commands of the Ethernet ports (R401 to R432), and one-way delay measurement (R420). -/

namespace Sys2Proof.Machine

/-- A timestamp of a type 5 message: 48-bit seconds and 32-bit nanoseconds (R420). -/
def stampBytes (t : Int) : List Byte :=
  let n := t.toNat
  beBytes 6 (n / 1000000000) ++ beBytes 4 (n % 1000000000)

/-- The timestamp of ten bytes, in ns. -/
def stampVal (bs : List Byte) : Int := (beVal (bs.take 6) : Int) * 1000000000 + beVal ((bs.drop 6).take 4)

namespace State

/-- The frame of a type 5 message from port `p` to a MAC address: ID, action, timestamp; its compensation value is the module's and not
stated (free). -/
def delayFrame (s : State) (p dmac id action : Nat) (t : Int) : List Byte × State :=
  let (c, s1) := s.draw 64
  let vlan := s1.rf (LN_PORTCFG.adr p) LN_PORTCFG.VLAN
  let tag := if vlan = 0 then none else some (s1.rf (LN_PORTCFG.adr p) LN_PORTCFG.PCP * 2 ^ 13 + vlan)
  let pay := beBytes 1 id ++ beBytes 1 action ++ stampBytes t ++ beBytes 8 c
  (ethPad (ethHeader dmac (s1.ethOf p).mac tag 0xAEFE ++ ecpri 5 pay), s1)

/-- DELAY_REQUEST_RECEIVE (R420): a Request with the capture of its arrival is answered with a Response. -/
def delayRequest (s : State) (p seq smac : Nat) (m : List Byte) : State :=
  if 8 ≤ p ∨ !s.ethUp p ∨ fieldAt m 5 1 ≠ 0 then s else
    match s.takeCapture p seq with
    | (some t, s1) =>
      let (bs, s2) := s1.delayFrame p smac (fieldAt m 4 1) 2 t
      (s2.lineSend p bs false).lnCount p 0 1
    | (none, s1) => s1

def delRun (s : State) (c : Nat) : Option DelayRun := sget s.dels c none
def setDelRun (s : State) (c : Nat) (r : Option DelayRun) : State := { s with dels := sput s.dels c r none }

/-- A DELAY_MEAS with nothing left to send or await ends with its final reply (R420). Which way the mean rounds is not
stated. -/
def delDone (s : State) (c : Nat) : State :=
  match s.delRun c with
  | none => s
  | some r =>
    if r.left ≠ 0 ∨ !r.wait.isEmpty then s else
      let (b, s0) := s.draw 1
      let s1 := s0.setDelRun c none
      match r.got with
      | [] => s1.finish r.ticket sOk [0xFFFFFFFF, 0xFFFFFFFF, 0xFFFFFFFF, 0]
      | x :: xs =>
        let n : Int := r.got.length
        let mean := if r.got.sum % n = 0 then r.got.sum / n else r.got.sum / n + (b : Int)
        let w (i : Int) : Word := BitVec.ofNat 32 (wrapTo 32 i)
        s1.finish r.ticket sOk [w (xs.foldl min x), w mean, w (xs.foldl max x), BitVec.ofNat 32 r.got.length]

/-- DELAY_MEAS_SEND (R420): the next Request of carrier `c`'s measurement, a timed entry of the port: t1 is the instant that its LT
names at the module lands (R471, R484). How far ahead LT lies, 20 µs or more as for the Timekeeper's own messages (R486), and which
queue it takes are not stated (free). -/
def delSend (s : State) (c dmac : Nat) : State :=
  match s.delRun c with
  | none => s
  | some r =>
    if r.left = 0 then s else
      let (v, s0) := s.draw 12
      let (q, s1) := s0.draw 3
      let lead := 20000 + v
      let t1 : Int := (s.ext : Int) + lead + (s.capK (16 + r.port)).natAbs
      let (bs, s2) := (s1.setDelRun c (some { r with left := r.left - 1, wait := r.wait ++ [(r.next, t1)], next := (r.next + 1) % 256 }))
        |>.delayFrame r.port dmac r.next 0 t1
      s2.joinQueue r.port q ⟨some (wrapTo 32 ((s.tkns : Int) + lead)), none, bs.length, bs.length, [⟨bs, none⟩], false⟩

/-- DELAY_RESPONSE_RECEIVE (R420): t2 − t1 − compensation of the request it answers. -/
def delayResponse (s : State) (c : Nat) (m : List Byte) : State :=
  match s.delRun c with
  | none => s
  | some r =>
    if fieldAt m 5 1 ≠ 2 then s else
      match r.wait.find? fun w => w.1 = fieldAt m 4 1 with
      | none => s
      | some (id, t1) =>
        -- the compensation value counts 2^-16 ns
        let comp := sgn 64 (beVal ((m.drop 16).take 8)) / 65536
        let d := stampVal ((m.drop 6).take 10) - t1 - comp
        (s.setDelRun c (some { r with wait := r.wait.filter fun w => w.1 ≠ id, got := r.got ++ [d] })).delDone c

/-- DELAY_RESPONSE_TIMEOUT (R420): the Response of a Request is lost. -/
def delayLost (s : State) (c id : Nat) : State :=
  match s.delRun c with
  | none => s
  | some r => (s.setDelRun c (some { r with wait := r.wait.filter fun w => w.1 ≠ id })).delDone c

end State

def execEthLinkUp (p : PortId) (c0 c1 peer pport : BitVec 4) (s : State) : Result :=
  .next (s.ethLinkUp p c0.toNat c1.toNat peer.toNat pport.toNat)
def execEthLinkDown (p : PortId) (s : State) : Result := .next (s.ethLinkDown p)
def execFrameReceive (p : PortId) (frame : List Byte) (fcsOk : Bool) (corrected : BitVec 16) (uncorrectable : Bool)
    (s : State) : Result := .next (s.frameReceive p frame fcsOk corrected.toNat uncorrectable)
/-- The message reaches the eCPRI engine of a fronthaul port that is up. -/
def execEcpriIqReceive (p : PortId) (m : List Byte) (s : State) : Result :=
  .next (if p.val < 8 && s.ethUp p then s.iqReceive p m else s)
def execDelayRequestReceive (p : PortId) (seq : Byte) (smac : Addr) (m : List Byte) (s : State) : Result :=
  .next (s.delayRequest p seq.toNat smac.toNat m)
def execDelayResponseReceive (c : CarrierId) (m : List Byte) (s : State) : Result := .next (s.delayResponse c m)
/-- Bytes within push slot `k`; a write beyond its end is no write of the slot. -/
def execPushSlotWrite (src : SrcId) (p : PortId) (k : Fin 16) (off : BitVec 14) (data : List Byte) (s : State) : Result :=
  .next (s.busWrite src (ethWin p + 16384 * k + off.toNat) (data.take (16384 - off.toNat))).2
def execTxEntryWrite (src : SrcId) (p : PortId) (q : Fin 8) (entry : BitVec 128) (s : State) : Result :=
  .next (s.busWrite src (0x6101000 + 0x10000 * p + 0x10 * q) (leBytes 16 entry.toNat)).2
def execFrameStart (p : PortId) (crcBad : Bool) (s : State) : Result := .next (s.frameStart p crcBad)
def execRxGroupWrite (src : SrcId) (p : PortId) (g : Fin 32) (v : BitVec 64) (s : State) : Result :=
  .next (s.busWrite src (LN_RXGRP.adr p g) (leBytes 8 v.toNat)).2
def execRxArm (src : SrcId) (p : PortId) (g : Fin 31) (rt : Word) (app : BitVec 24) (s : State) : Result :=
  .next (s.busWrite src (0x6103000 + 0x10000 * p + 8 * g) (leBytes 4 rt.toNat ++ leBytes 4 app.toNat)).2
def execRxBlockRelease (p : PortId) (g : Fin 31) (s : State) : Result := .next (s.rxRelease p g)
def execRxConsume (src : SrcId) (p : PortId) (g : Fin 32) (s : State) : Result :=
  .next (s.busWrite src (0x6103400 + 0x10000 * p) (leBytes 4 g.val)).2
def execDelayResponseTimeout (c : CarrierId) (id : Byte) (s : State) : Result := .next (s.delayLost c id.toNat)

end Sys2Proof.Machine
end

