-- ==== Sys2Proof/Machine/CellBase.lean ====
section
/-! DEFINITION. Carriers (R268 to R300, R322): the fields of CELL_SETUP, what a carrier holds of ports, and its removal. -/

namespace Sys2Proof.Machine

/-- The field of `n` bytes at packet offset `o` of CELL_SETUP parameters (R322). -/
def cellField (ws : List Word) (o n : Nat) : Nat := fieldAt (wordBytes ws) (o - 0x10) n

/-- The fields of CELL_SETUP (R322). -/
def cRat (ws : List Word) : Nat := cellField ws 0x10 1
def cMu (ws : List Word) : Nat := cellField ws 0x11 1
def cDuplex (ws : List Word) : Nat := cellField ws 0x12 1
def cRegion (ws : List Word) : Nat := cellField ws 0x13 1
def cNprb (ws : List Word) : Nat := cellField ws 0x14 2
def cCat (ws : List Word) : Nat := cellField ws 0x16 1
def cCompw (ws : List Word) : Nat := cellField ws 0x17 1
def cFoffset (ws : List Word) : Nat := cellField ws 0x18 4
def cFdl (ws : List Word) : Nat := cellField ws 0x1C 4
def cFul (ws : List Word) : Nat := cellField ws 0x20 4
def cNtaoff (ws : List Word) : Nat := cellField ws 0x24 4
def cTadv (ws : List Word) : Nat := cellField ws 0x28 4
def cTcp (ws : List Word) : Nat := cellField ws 0x2C 4
def cTul (ws : List Word) : Nat := cellField ws 0x30 4
def cNant (ws : List Word) : Nat := cellField ws 0x34 1
def cNrxp (ws : List Word) : Nat := cellField ws 0x35 1
def cNdls (ws : List Word) : Nat := cellField ws 0x36 1
def cSlotRing (ws : List Word) : Nat := bits (cellField ws 0x37 1) 0 4
def cIndRing (ws : List Word) : Nat := bits (cellField ws 0x37 1) 4 4
def cFhdl0 (ws : List Word) : Nat := cellField ws 0x38 1
def cFhdl1 (ws : List Word) : Nat := cellField ws 0x39 1
def cFhul0 (ws : List Word) : Nat := cellField ws 0x3A 1
def cFhul1 (ws : List Word) : Nat := cellField ws 0x3B 1
def cDlSplit (ws : List Word) : Nat := cellField ws 0x3C 2
def cUlSplit (ws : List Word) : Nat := cellField ws 0x3E 2
def cRmac (ws : List Word) : Nat := cellField ws 0x40 6
def cEaxc (ws : List Word) : Nat := cellField ws 0x46 2
def cCport (ws : List Word) : Nat := cellField ws 0x48 1
def cOwnclu (ws : List Word) : Nat := cellField ws 0x49 1
def cTgt (ws : List Word) : Int := sgn 8 (cellField ws 0x4A 1)
def cBthr (ws : List Word) : Nat := cellField ws 0x4B 1
def cPaenv (ws : List Word) : Nat := cellField ws 0x4C 1
def cNup (ws : List Word) : Nat := cellField ws 0x4D 1
def cNdn (ws : List Word) : Nat := cellField ws 0x4E 1
def cOpmode (ws : List Word) : Nat := cellField ws 0x4F 1
def cPartner (ws : List Word) : Nat := cellField ws 0x50 2
def cPci (ws : List Word) : Nat := cellField ws 0x52 2
def cPer1 (ws : List Word) : Nat := cellField ws 0x54 2
def cPer2 (ws : List Word) : Nat := cellField ws 0x56 2
def cNsympat (ws : List Word) : Nat := cellField ws 0x58 2

/-- Step `i` of the ramp-up (`up`) or ramp-down profile (R290): code, FINAL, offset in ns. -/
def cRamp (ws : List Word) (up : Bool) (i : Nat) : Nat × Bool × Int :=
  let o := (if up then 0x60 else 0xA0) + 8 * i
  (cellField ws o 2, bit (cellField ws (o + 2) 1) 0, sgn 32 (cellField ws (o + 4) 4))

/-- Symbol `i` of the TDD pattern: 0 downlink, 1 uplink, 2 guard. -/
def cPat (ws : List Word) (i : Nat) : Nat := bits ((ws.getD (52 + i / 16) 0).toNat) (2 * (i % 16)) 2

/-- Whether a carrier has Ethernet fronthaul. -/
def cEth (ws : List Word) : Bool := cCat ws ≠ 3

/-- Slot duration in ns (R271). -/
def cSlotNs (ws : List Word) : Nat := 1000000 / 2 ^ cMu ws

/-- Whether a slot is not over at extended time `now`: it has not ended, a fetch runs, or indications are due (R329). -/
def SlotRec.isOpen (x : SlotRec) (slotNs now : Nat) : Bool :=
  decide ((now : Int) < x.tair + slotNs) || x.fetch.isSome || x.ulTicket.isSome

/-- The ports of downlink and uplink stream 0 and the second ports that a carrier names. -/
def cPorts (ws : List Word) : List Nat :=
  if cCat ws = 3 then [] else [cFhdl0 ws, cFhdl1 ws, cFhul0 ws, cFhul1 ws].filter fun p => p ≠ 0xFF

/-- The power domains of the ports that a carrier names (R520). -/
def cPortDoms (ws : List Word) : List Nat := if cCat ws = 3 then [342 + cCport ws] else (cPorts ws).map (329 + ·)

/-- Streams of a carrier in the downlink and in the uplink (R275). -/
def cDlStreams (ws : List Word) : Nat := if cCat ws = 2 then cNdls ws else cNant ws
def cUlStreams (ws : List Word) : Nat := if cCat ws = 2 then cNrxp ws else cNant ws

namespace State

def carrier (s : State) (n : Nat) : Option Carrier := sget s.carriers n none

def setCarrier (s : State) (n : Nat) (c : Option Carrier) : State := { s with carriers := sput s.carriers n c none }

/-- The carriers set up, with their numbers. -/
def mapped (s : State) : List (Nat × Carrier) := s.carriers.filterMap fun e => e.2.map fun c => (e.1, c)

/-- Writes or disables stream template `k` of a port (R424). -/
def setTmpl (s : State) (p k : Nat) (t : Option Tmpl) : State :=
  let e := s.ethOf p
  s.setEth p { e with tmpl := sput e.tmpl k t none }

/-- A carrier leaves the device: its stream templates are disabled, its U-plane not yet launched is dropped, and its Carriage port carries no radio point; a
command of it without a final reply is answered `status` (R279, R329). -/
def dropCarrier (s : State) (n status : Nat) : State :=
  match s.carrier n with
  | none => s
  | some c =>
    let s1 := c.tmpls.foldl (fun s t => s.setTmpl t.1 t.2 none)
      ({ s with uplane := s.uplane.filter fun x => x.carrier ≠ n }.setCarrier n none)
    let s2 := if cCat c.words = 3 then s1.wb (CP_CAR.adr (cCport c.words)) CP_CAR.VALID false else s1
    let s3 := c.slots.foldl (fun s x => match x.fetch with
      | some t => s.finish t status [0]
      | none => s) s2
    let s4 := match c.stop with
      | some (t, _) => s3.finish t status []
      | none => s3
    match s4.delRun n with
    | some r => (s4.setDelRun n none).finish r.ticket status []
    | none => s4

/-- Every carrier of a region is stopped (R279). -/
def dropRegion (s : State) (r : Nat) : State :=
  s.mapped.foldl (fun s c => if cRegion c.2.words = r then s.dropCarrier c.1 sOk else s) s

end State

end Sys2Proof.Machine
end

