-- ==== Sys2Proof/Machine/ResetBase.lean ====
section
/-! DEFINITION. Resets and power (R20 to R22, R50 to R54, R76 to R84, R364, R518 to R523, R531, R540 to R543, R642): what a
reset clears, the joint reset of an island's bridges, dead islands, the power of domains, entry into HALT, and the
module-wide resets. -/

namespace Sys2Proof.Machine

/-- Reset kinds in the order of the reset table, and 8 for the power-on of a domain (R522). -/
def kPor : Nat := 0
def kPin : Nat := 1
def kWdt : Nat := 2
def kCmd : Nat := 3
def kWake : Nat := 4
def kReg : Nat := 5
def kClu : Nat := 6
def kDbg : Nat := 7
def kOn : Nat := 8

/-- The islands that a REG of region `r` resets. -/
def regionIslands (r : Nat) : List Nat := (List.range 6).map (6 * r + ·) ++ [24 + r, 28 + r]

/-- The region of a compute island. -/
def islandRegion (i : Nat) : Nat := if i < 24 then i / 6 else i % 4

/-- The power domain that holds an island as a whole (R518). -/
def islandDom (i : Nat) : Option Nat :=
  if i < 24 then some (11 * i) else if i < 28 then some (265 + 14 * (i - 24)) else if i < 32 then some (264 + 14 * (i - 28))
  else if i < 34 then some (320 + (i - 32)) else if 40 ≤ i ∧ i < 52 then some (329 + (i - 40))
  else if 53 ≤ i ∧ i < 61 then some (342 + (i - 53)) else none

/-- The island whose domain is `d`. -/
def domIsland (d : Nat) : Option Nat := (List.range 63).find? fun i => islandDom i = some d

/-- The parent of a domain (R518). -/
def domParent (d : Nat) : Option Nat :=
  if d < 264 then (if d % 11 = 0 then some (264 + 14 * (d / 66)) else some (d / 11 * 11))
  else if d < 320 then
    let r := (d - 264) / 14
    let x := (d - 264) % 14
    if x = 0 then some (320 + r / 2) else if x = 1 then some (264 + 14 * r) else some (265 + 14 * r)
  else if d = 322 ∨ 350 ≤ d then none else some 322

/-- The island that holds or encloses a domain (R522). -/
def domHome (d : Nat) : Nat :=
  if d < 264 then d / 11 else if d < 320 then
    let r := (d - 264) / 14
    if (d - 264) % 14 = 0 then 28 + r else 24 + r
  else (domIsland d).getD 34

/-- Depth of a domain below the hub core. -/
def domDepth (d : Nat) : Nat :=
  if d < 264 then (if d % 11 = 0 then 3 else 4)
  else if d < 320 then (if (d - 264) % 14 < 2 then (d - 264) % 14 + 2 else 4)
  else if d = 322 ∨ 350 ≤ d then 0 else 1

/-- Whether domain `d` is `a` or lies below it. -/
def domWithin (a d : Nat) : Bool :=
  let p (x : Option Nat) : Option Nat := x.bind domParent
  some d = some a || p (some d) = some a || p (p (some d)) = some a || p (p (p (some d))) = some a ||
    p (p (p (p (some d)))) = some a

/-- The domains at and below `a`, the outermost first (R519). -/
def domsBelow (a : Nat) : List Nat :=
  let ds := (List.range 352).filter fun d => domWithin a d
  [4, 3, 2, 1, 0].flatMap fun n => ds.filter fun d => domDepth d = n

/-- A domain and its parents, from the hub outward (R519). -/
def domsAbove (d : Nat) : List Nat :=
  let ds := (List.range 352).filter fun x => domWithin x d
  [0, 1, 2, 3, 4].flatMap fun n => ds.filter fun x => domDepth x = n

/-- The unit that a domain holds: its region and its number in the slice (R175); none for other domains and for
coprocessors, which the slices do not schedule. -/
def domUnit (d : Nat) : Option (Nat × Nat) :=
  if d < 264 then
    let k := d / 11
    let x := d % 11
    if 1 ≤ x ∧ x < 9 then some (k / 6, k % 6 * 8 + (x - 1)) else none
  else if d < 320 then
    let x := (d - 264) % 14
    if 2 ≤ x then some ((d - 264) / 14, 48 + (x - 2)) else none
  else none

/-- What a register word keeps across a reset kind, field by field (R13); its reset value elsewhere. -/
def keepWord (a v kind : Nat) : Nat :=
  match regFind a with
  | none => 0
  | some (r, ix, w) =>
    let x := r.fields.foldl (fun x f =>
      if bit f.keep kind then setBits x f.lo f.len (bits (v <<< (32 * w)) f.lo f.len) else x) (r.reset ix)
    (x >>> (32 * w)) % 2 ^ 32

namespace State

/-! ### What a reset clears -/

/-- Every register that `p` names takes its value after a reset of kind `kind` (R13). -/
def resetRegs (s : State) (p : Nat → Bool) (kind : Nat) : State :=
  s.regs.foldl (fun s e => if p e.1 then s.setReg e.1 (keepWord e.1 e.2.toNat kind) else s) s

/-- The bytes and error marks that `p` names are written with zero and valid check bits (R338, R522). -/
def zeroMem (s : State) (p : Nat → Bool) : State :=
  { s with mem := sdrop p s.mem, marks := sdrop p s.marks }

/-- The events in an island's queue are discarded and counted (R578); the head that the Guestbook has taken is none of
them. -/
def dropEvents (s : State) (i : Nat) : State :=
  let x := s.xing (xkey i 34 11 0)
  let n := (s.evqOf i).q.length - (if x.busy && x.taken && !x.fresh then 1 else 0)
  (s.setEvq i ⟨[], 0⟩).incSat GB_EVLOST.adr GB_EVLOST.COUNT n

/-- The cores that `p` names take their reset state. A power-on, which is no reset, leaves a stopped core stopped (R132, R20). -/
def resetCores (s : State) (p : Nat → Bool) (kind : Nat) : State :=
  upto 192 (fun n s =>
    if kind = kOn ∧ p n = true ∧ (sget s.cores n Core.reset).run = .stopped then s.setCore n { Core.reset with run := .stopped } else s)
    { s with cores := sdrop (fun n => p n && !(decide (kind = kOn) && decide ((sget s.cores n Core.reset).run = .stopped))) s.cores }

/-- The commands that cores of cluster `i` have sent to other clusters' coprocessors outlive its reset; their notices will be ignored
(R174). -/
def staleCmds (s : State) (i : Nat) : State :=
  let mine (x : CopCmd) : Bool := match x.origin with
    | .remote n _ => n / 8 = i
    | _ => false
  let marked (x : CopCmd) : CopCmd := if mine x then { x with stale := true } else x
  s.cops.foldl (fun s e =>
    let c := { e.2 with queue := e.2.queue.map marked, held := e.2.held.map marked }
    { s with cops := sput s.cops e.1 c Coproc.reset }) s

/-- The state of an island other than its registers and memories takes its reset value. -/
def resetUnits (s : State) (i kind : Nat) : State :=
  if i < 24 then
    let t := (s.resetCores (fun n => n / 8 = i) kind).staleCmds i
    { t with cops := sdrop (fun n => n / 2 = i) t.cops,
             pchans := sdrop (fun n => n / 32 = i) t.pchans, clk := sdrop (fun n => n = i) t.clk }
  else if i < 28 then { s with engines := sdrop (fun n => n / 12 = i - 24) s.engines }
  else if i < 34 then
    { s with inks := sdrop (fun n => n = i - 28) s.inks, routers := sdrop (fun q => routerIsland q = i) s.routers }
  else if 40 ≤ i ∧ i < 52 then
    { s with eth := sdrop (fun n => n = i - 40) s.eth,
             capSeq := sdrop (fun n => n = i - 40 ∨ n = i - 40 + 16) s.capSeq }
  else if 53 ≤ i ∧ i < 61 then { s with cps := sdrop (fun n => n = i - 53) s.cps }
  else s

/-- A power-on, which is no reset, leaves the engines of island `i` that stopped after a fault unavailable, as `was` had them (R20,
R264). -/
def keepStopped (s was : State) (i kind : Nat) : State :=
  if kind = kOn ∧ 24 ≤ i ∧ i < 28 then
    upto 12 (fun e s =>
      let a := RA_ENGSTAT.adr (i - 24) e
      if was.rb a RA_ENGSTAT.UNAVAIL then s.wb a RA_ENGSTAT.UNAVAIL true else s) s
  else s

/-- Reset is asserted to island `i` and to both halves of the bridges it owns (R50, R51 step 4, R543). -/
def resetIsland (s : State) (i kind : Nat) : State :=
  let s1 := (s.dropEvents i).setEccq i ⟨[], 0, 0⟩
  let s2 := (ownedXings i).foldl (fun s x => s.setXing x.key Xing.idle) s1
  (((s2.resetRegs (fun a => islandAt s.ddrGiB a = some i) kind).keepStopped s i kind).resetUnits i kind).dropBursts i

/-- Whether a retired page lies in a memory of core `n` (R367). -/
def coreRetired (s : State) (n : Nat) : Bool :=
  s.retired.any fun e => 0x100000000 + 0x100000 * n ≤ e.1 && e.1 < 0x100000000 + 0x100000 * (n + 1)

/-- Whether a domain is on and no DOMAIN_SET is switching it off. -/
def domReady (s : State) (d : Nat) : Bool :=
  s.domOn d && !(match s.domJob with
    | some j => !j.on && j.doms.contains d
    | none => false)

/-- Whether unit `u` of region `r` cannot be dispatched to (R132, R194, R264, R367, R521). -/
def unitGone (s : State) (r u : Nat) : Bool :=
  if u < 48 then
    let n := 48 * r + u
    s.coreRetired n || !s.domReady (n / 8 * 11 + 1 + n % 8) || decide ((s.core n).run = .stopped)
  else s.rb (RA_ENGSTAT.adr r (u - 48)) RA_ENGSTAT.UNAVAIL || !s.domReady (266 + 14 * r + (u - 48))

/-- UNAVAIL of the units of region `r` that `p` names follows their state. -/
def unitsSync (s : State) (r : Nat) (p : Nat → Bool) : State :=
  upto 60 (fun u s => if p u then s.setUnavail r u (s.unitGone r u) else s) s

/-! ### Scrub (R364) -/

/-- A scrub whose range lies in island `i` ends. -/
def scrubAbort (s : State) (i status : Nat) : State :=
  match s.scrub with
  | none => s
  | some sc =>
    if sc.island = i ∨ (sc.kind = 8 ∧ 35 ≤ i ∧ i < 39) then
      ({ s with scrub := none }.finish sc.ticket status []).raise 0x0707 901 sc.lines status 0
    else s

/-! ### Outstanding requests (R82, R642) -/

/-- The request of the lowest source (R90). -/
def lowestReq (rs : List Req) : Option Req := rs.find? fun r => rs.all fun x => r.src ≤ x.src

/-- A write that its island accepted and has not answered may have taken effect in the island's memories (R642): nothing says
whether. -/
def maybeWritten (s : State) (r : Req) : State :=
  if r.wr.isEmpty then s
  else
    let (b, s1) := s.draw 1
    if b = 1 then r.wr.foldl (fun s w => s.memStore (lineItems w.1 w.2.1 w.2.2)) s1 else s1

/-- The requests that have crossed island `i`'s bridge and are unanswered: those that islands have accepted, those on their way in
routers beyond the bridge, and reads that await a PCIe completion. -/
def heldReqs (s : State) (i : Nat) : List Req :=
  (s.outst.filter fun r => r.crosses i) ++ s.routedReqs i ++ (if i = 39 then s.hostReads else [])

/-- Every request that has crossed island `i`'s bridge and is unanswered is answered `status` with poison data, and the capture
takes that of the lowest source (R90); answers how many. A response bound for a source in a dead region is discarded (R85). -/
def answerHeld (s : State) (i status : Nat) : Nat × State :=
  let rs := s.heldReqs i
  let s0 := s.dropRouted i
  let s1 := { s0 with outst := s.outst.filter fun r => !r.crosses i, hostReads := if i = 39 then [] else s.hostReads }
  let s2 := match lowestReq rs with
    | some r => s1.errCapture status r.src r.island r.tag r.addr
    | none => s1
  (rs.length, rs.foldl (fun s r =>
    let s0 := s.maybeWritten r
    let s' := if s0.sourceDead r.src i then s0
      else s0.emit (.response r.src r.tag status r.island (if r.write then [] else poisonLine))
    if status = stAsleep then
      s'.raiseIn (guardIsland i) 0x0104 (708 + r.island) r.src (r.addr % 2 ^ 32) (r.addr >>> 32)
    else s') s2)

/-- Responses for sources inside island `i` are discarded (R642). -/
def dropFrom (s : State) (i : Nat) : State :=
  { s with outst := s.outst.filter fun r => sourceIsland r.src ≠ i,
           hostReads := s.hostReads.filter fun r => sourceIsland r.src ≠ i }

/-! ### Dead islands (R80 to R84) -/

/-- The bit of island `i` in TP_DEAD. -/
def setDead (s : State) (i : Nat) (b : Bool) : State :=
  if i < 32 then s.wf TP_DEAD0.adr ⟨i, 1⟩ (b2n b) else s.wf TP_DEAD1.adr ⟨i - 32, 1⟩ (b2n b)

end State

/-! ### Domains -/

namespace State

/-- A domain changes state, with its event (R519). -/
def setDom (s : State) (d : Nat) (b : Bool) : State :=
  if s.domOn d = b then s
  else (s.wf (PW_DOMSTAT.adr (d / 32)) ⟨d % 32, 1⟩ (b2n b)).raise 0x0D01 903 d (b2n b) 0

/-- Everything held in a domain is lost (R521). -/
def clearDom (s : State) (d : Nat) : State :=
  match domIsland d with
  | some i => s.resetIsland i kOn
  | none =>
    if d < 264 then
      let k := d / 11
      let x := d % 11
      if x < 9 then s.resetCores (fun n => n = 8 * k + (x - 1)) kOn
      else
        -- commands that are queued or in progress complete with reason 0x05 (R172)
        let c := s.cop k (x - 9)
        let fail (x : CopCmd) : CopCmd := { x with started := false, inBytes := [], result := none, err := some (x.err.getD (5, 0)) }
        s.setCop k (x - 9) { Coproc.reset with queue := c.queue.map fail, held := c.held }
    else { s with engines := sdrop (fun n => n = 12 * ((d - 264) / 14) + ((d - 264) % 14 - 2)) s.engines }

/-- Whether address `a` lies in a memory of domain `d` (R518). -/
def domMem (d a : Nat) : Bool :=
  if d < 264 then
    let k := d / 11
    let x := d % 11
    if x = 0 then 0x200000000 + 0x1000000 * k ≤ a && a < 0x200400000 + 0x1000000 * k
    else if x < 9 then 0x100000000 + 0x100000 * (8 * k + (x - 1)) ≤ a && a < 0x100000000 + 0x100000 * (8 * k + x)
    else false
  else if d < 320 ∧ (d - 264) % 14 = 0 then
    let b := 0x300000000 + 0x1000000 * ((d - 264) / 14)
    b ≤ a && a < b + 0x800000
  else false

/-- A domain loses power: its island's bridges are isolated, unanswered requests are answered, and its contents are lost
(R76, R521). -/
def domOff (s : State) (d : Nat) : State :=
  if !s.domOn d then s else
    let s1 := match domUnit d with
      | some (r, u) => s.abortUnit r u 1
      | none => s
    let s2 := match domIsland d with
      | some i =>
        let s' := ((s1.scrubAbort i sAsleep).flushIsland i).dropFrom i
        let s'' := (s'.answerHeld i stAsleep).2
        s''.setIsl i { s''.isl i with iso := true, phase := .none }
      | none => s1
    (((s2.clearDom d).zeroMem (domMem d)).setDom d false).synceSync

/-- A reset-complete event (R51, R522, R542). -/
def resetDone (s : State) (i kind p3 : Nat) : State := s.raise 0x0103 903 i kind p3

/-- A domain receives power (R522): an island's bridges stay isolated and in reset until it is ready; a domain inside an
island is reset at once. -/
def domUp (s : State) (d : Nat) : State :=
  let s1 := ((s.clearDom d).zeroMem (domMem d)).setDom d true
  match domIsland d with
  | some i => s1.setIsl i { IslandSt.idle with phase := .held, kind := kOn, domain := d, iso := true }
  | none =>
    let s2 := s1.resetDone (domHome d) kOn d
    match domUnit d with
    | some (r, u) => s2.setUnavail r u (s2.unitGone r u)
    | none => s2

/-! ### HALT (R531) -/

/-- The timed entries of every Ethernet port are discarded (R482, R531). -/
def dropTimedTx (s : State) : State :=
  upto 12 (fun p s => upto 8 (fun q s =>
    if (s.txqOf p q).any fun e => e.lt.isSome then
      s.setTxq p q ((s.txqOf p q).filter fun e => e.lt.isNone || e.started)
    else s) s) s

/-- The timed steps of every analog channel are discarded. -/
def dropTimedSteps (s : State) : State := upto 8 (fun c s => (s.setChan c { s.chan c with steps := [] }).aoSync c) s

/-- The domains that HALT powers off (R531), outermost first. -/
def haltDoms : List Nat :=
  let ds := (List.range 352).filter fun d => d < 322 || (329 ≤ d && d < 341) || (342 ≤ d && d < 350)
  [4, 3, 2, 1].flatMap fun n => ds.filter fun d => domDepth d = n

/-- SLEEP_ENTER ends without sleep (R534, R536): voters resume. -/
def sleepEnd (s : State) (status : Nat) (ws : List Word) : State :=
  match s.sleep with
  | none => s
  | some sl =>
    let s1 := ({ s with sleep := none }.wb PW_SLEEPSTAT.adr PW_SLEEPSTAT.PREP false).finish sl.ticket status ws
    sl.held.foldl (fun s h =>
      let s2 := s.txEntry h.port h.queue h.ent
      match h.answer with
      | some (src, tag, a) =>
        if s2.outst.any (fun q => q.src = src && q.tag = tag && q.addr / 64 = a / 64) then
          s2.respond src tag a stOk (40 + h.port) [] else s2
      | none => s2) s1

/-- A carrier without its slots in progress. -/
def noSlots (e : Nat × Option Carrier) : Nat × Option Carrier :=
  match e.2 with
  | some c => (e.1, some { c with slots := [] })
  | none => e

/-- A domain is to lose power (R455, R521): its unit takes nothing more, and the link of a Carriage port goes down, which ends its pending
request. -/
def domQuiesce (s : State) (d : Nat) : State :=
  let s1 := match domUnit d with
    | some (r, u) => s.setUnavail r u true
    | none => s
  match domIsland d with
  | some i => if 53 ≤ i ∧ i < 61 then s1.cpDown (i - 53) else s1
  | none => s1

/-- The domains that HALT powers off start to drain, as R521 has it for every power-off (R26, R531): their units are unavailable, and
DOMAIN_DRAIN_END completes it. A DOMAIN_SET in progress becomes part of it: one that switches off is answered at its end, one that
switches on ends with WRONG_MODE (DESIGN CHOICE, log entry 20: the spec does not say). -/
def haltDrain (s : State) : State :=
  let ds := haltDoms.filter fun d => s.domOn d
  let (t, s1) : Option Ticket × State := match s.domJob with
    | some j => if j.on then (none, match j.ticket with
        | some t => { s with domJob := none }.finish t sWrongMode []
        | none => s) else (j.ticket, s)
    | none => (none, s)
  ds.foldl (fun s x => s.domQuiesce x) { s1 with domJob := some ⟨t, false, ds, []⟩ }

/-- Every loopback is switched off and every PRBS run ends with its final reply (R402); what its reply counts is what the
run has compared, which is not stated (free). -/
def leaveTest (s : State) : State :=
  let s1 := upto 40 (fun l s => s.wf (LN_LANESTAT.adr l) LN_LANESTAT.LOOP 0) s
  let s2 := upto 12 (fun p s => s.setEth p { s.ethOf p with loop := 0 }) s1
  (s2.prbs.filterMap fun e => e.2).foldl (fun s t => let (f, s) := s.drawWords 4; let (b, s) := s.draw 1
    s.finish t sOk (f ++ [BitVec.ofNat 32 b])) { s2 with prbs := [] }

/-- Entry into HALT (R531): slots in progress and queued timed entries are discarded, the Guestbook is flushed, the analog
outputs move to their safe codes, and the domains start to power off; FAULT_N goes low (R617). -/
def haltEnter (s : State) (cause param : Nat) : State :=
  if s.mode = mHalt ∨ s.mode = mChrysalis then s else
    let s0 := if s.mode = mTest then s.leaveTest else s
    let s1 := (s0.wf PW_MODE.adr PW_MODE.HALTCAUSE cause).wf PW_MODE.adr PW_MODE.HALTPARAM param
    let s2 := ((s1.enterMode mHalt).sleepEnd sWrongMode []).dropTimedTx.dropTimedSteps
    let s3 := { s2 with carriers := s2.carriers.map noSlots }
    let s4 := (s3.gbTrigger true).safeMoveAll.emit (.pin 4 false)
    s4.haltDrain

/-- The pulses that wait on the crossings of island `i`'s own bridges that `p` names, or are in flight there, are lost (R48). -/
def losePulses (s : State) (i : Nat) (p : Xid → Bool) : State :=
  (ownedXings i).foldl (fun s x =>
    let st := s.xing x.key
    if x.kind = 0 ∧ p x = true ∧ st.waiting ≠ 0 then
      (s.setXing x.key { st with busy := false, taken := false, count := 0, pend := [], held := [], join := false }).pulsesLost x
        st.waiting
    else s) s

/-- The router declares island `i` dead (R82): its bridge is isolated (`deadLink`), TMO is set in the router's island with its event,
unless a crossing timeout there has just done both (`said`: R56), every outstanding request is answered TARGET_DEAD, TP_DEAD and the
event name it, and the mode follows (R19, R528). The crossing that the timeout event and TP_XSTAT name is the one that carries flits
toward the island (DESIGN CHOICE, log entry 23: the spec names none). -/
def deadDeclare (s : State) (i : Nat) (said : Bool) : State :=
  if s.deadIsl i ∨ (s.isl i).iso then s else
    let far := flagIsland i
    let x : Xid := if i = 62 then ⟨61, 62, 15, 1⟩ else ⟨far, i, 0, 0⟩
    let idx := xidIndex far x
    let s1 := if said then s else (s.xflag far 1 2 x.kind idx).raise 0x0102 (708 + far) idx x.kind 0
    let (n, s2) := (s1.losePulses i fun _ => true).answerHeld i stDead
    let s3 := ((s2.setDead i true).raise 0x0105 (771 + bridgeRouter i) i n 0).scrubAbort i sDead
    if i = 61 then s3.haltEnter 3 0 else s3.airSync

/-! ### REG and CLU (R51, R53, R542) -/

/-- Step 1 of R51 for island `i`: its bridges drain; a scrub in it stops (R364). -/
def drainStart (s : State) (i kind : Nat) : State :=
  (s.setIsl i { s.isl i with phase := .draining, kind := kind, discarded := 0, disc := none }).scrubAbort i sAsleep

/-- The islands of a REG (`kind` 5) of region `n` or a CLU (`kind` 6) of cluster `n`. -/
def resetSet (kind n : Nat) : List Nat := if kind = kReg then regionIslands n else [n]

/-- A REG or CLU completes for island `i` whose domain is off (R542): it is dead no longer (R84), and units of it that stopped after
a fault are so no longer (R20, R132, R264). Its contents are the power-on's to reset (DEDUCED, log entry 20). -/
def reviveOff (s : State) (i : Nat) : State :=
  let s1 := (s.setDead i false).wf (TP_ABSORB.adr i) TP_ABSORB.COUNT 0
  if i < 24 then { s1 with cores := sdrop (fun n => n / 8 = i && decide ((sget s1.cores n Core.reset).run = .stopped)) s1.cores }
  else if i < 28 then upto 12 (fun e s => s.wb (RA_ENGSTAT.adr (i - 24) e) RA_ENGSTAT.UNAVAIL false) s1
  else s1

/-- Starts a REG or CLU (R51, R53, R542): islands that are off complete at once; a CLU during a REG of its region is
absorbed into it; a REG replaces the CLU sequences of its region. The command is answered once every island is ready. -/
def localReset (s : State) (kind n : Nat) (t : Option Ticket) : State :=
  let busy (i : Nat) : Bool := decide ((s.isl i).phase ≠ .none) && (s.isl i).kind = kReg
  -- a CLU during a REG of its region waits with it
  let join := if kind = kClu then (regionIslands (n / 6)).filter busy else []
  let is := if join.isEmpty then resetSet kind n else join
  let on (i : Nat) : Bool := match islandDom i with
    | some d => s.domOn d && !((s.isl i).kind = kOn && decide ((s.isl i).phase ≠ .none))
    | none => true
  let off := is.filter fun i => !on i
  let run := is.filter on
  -- any reset discards the ramp steps still queued (R293)
  let s1 := off.foldl (fun s i => (s.reviveOff i).resetDone i kind 0) s.dropRamps
  let s2 := run.foldl (fun s i => if busy i then s else s.drainStart i kind) s1
  if run.isEmpty then (match t with
    | some t => s2.finish t sOk []
    | none => s2)
  else { s2 with rstJobs := s2.rstJobs ++ [⟨run, t⟩] }

/-- Pulses waiting at or in flight toward island `i` from islands outside `set`, with their crossings (R51 step 5). -/
def pulsesToward (s : State) (set : List Nat) (i : Nat) : List (Xid × Nat) :=
  (ownedXings i).filterMap fun x =>
    if x.dst = i && x.kind = 0 && !set.contains x.src then
      let st := s.xing x.key
      let n := (st.pend.map PulseWait.count).sum + (st.held.map PulseWait.count).sum +
        (if st.busy && !st.taken then st.count else 0)
      if n = 0 then none else some (x, n)
    else none

/-- Pulses of island `i` that have not reached their destination outside `set` (R217), and those of its Porter block wherever they go
(R394): they are discarded and counted too. -/
def pulsesFrom (s : State) (set : List Nat) (i : Nat) : Nat :=
  ((ownedXings i).map fun x =>
    if x.src = i && x.kind = 0 && (x.role = 5 || !set.contains x.dst) then
      let st := s.xing x.key
      (st.pend.map PulseWait.count).sum + (st.held.map PulseWait.count).sum + (if st.busy && !st.taken then st.count else 0)
    else 0).sum

/-- BRIDGE_DRAIN_COMPLETE (steps 3 and 4 of R51, R52, R352, R642). -/
def drainComplete (s : State) (i : Nat) : State :=
  let st := s.isl i
  if st.phase ≠ .draining ∨ st.kind = kOn then s else
    let set := resetSet st.kind (if st.kind = kReg then islandRegion i else i)
    let s1 := s.flushIsland i
    let ps := s1.pulsesToward set i
    let n := (ps.map Prod.snd).sum + s1.pulsesFrom set i
    let low := ps.foldl (fun (m : Option Nat) p =>
      let k := xidIndex p.1.src p.1
      some (min k (m.getD k))) none
    let s2 := ((s1.answerHeld i stAsleep).2).dropFrom i
    let s3 := if i < 24 ∧ st.kind = kClu then
        upto 8 (fun j s => s.abortUnit (i / 6) (i % 6 * 8 + j) 2) s2
      else s2
    let s4 := if 28 ≤ i ∧ i < 32 then s3.dropRegion (i - 28) else s3
    (s4.resetIsland i st.kind).setIsl i { st with phase := .held, iso := true, discarded := n, disc := low }

/-- The island at the other end of the bridge that island `i` owns toward the hub core. -/
def farIsland (i : Nat) : Nat := if i < 24 then 28 + i / 6 else if i < 28 then i + 4 else if i < 32 then 32 + (i - 28) / 2 else 34

/-- BRIDGE_RESET_RELEASE (step 5 of R51): destination registers take their reset values, and DISC is set where pulses were
discarded. -/
def resetRelease (s : State) (i : Nat) : State :=
  let st := s.isl i
  if st.phase ≠ .held then s else
    let s1 := (ownedXings i).foldl (fun s x => s.setXing x.key Xing.idle) s
    let s2 := match st.disc with
      | some k => if st.kind = kOn then s1 else s1.xflag (farIsland i) 3 3 0 k
      | none => s1
    s2.setIsl i { s2.isl i with phase := .released }

/-- REG and CLU resets whose islands are all ready are answered (R321, R540). -/
def jobsReady (s : State) (i : Nat) : State :=
  let js := s.rstJobs.map fun j => { j with wait := j.wait.filter fun x => x ≠ i }
  (js.filter fun j => j.wait.isEmpty).foldl (fun s j => match j.ticket with
    | some t => s.finish t sOk []
    | none => s) { s with rstJobs := js.filter fun j => !j.wait.isEmpty }

/-- A DOMAIN_SET ON whose islands are all ready is answered (R522). -/
def domJobReady (s : State) (i : Nat) : State :=
  match s.domJob with
  | none => s
  | some j =>
    if !j.on then s
    else
      let w := j.wait.filter fun x => x ≠ i
      if w.isEmpty then (match j.ticket with
        | some t => { s with domJob := none }.finish t sOk []
        | none => { s with domJob := none })
      else { s with domJob := some { j with wait := w } }

/-- ISLAND_READY (step 6 of R51, R84, R522): isolation is lifted, TP_DEAD and TP_ABSORB clear, and the event and the reply
are sent. -/
def islandReady (s : State) (i : Nat) : State :=
  let st := s.isl i
  if st.phase ≠ .released then s else
    -- the power-on of a domain revives no dead island (R84)
    let dead := decide (st.kind = kOn) && s.deadIsl i
    let s0 := s.setIsl i IslandSt.idle
    let s1 := if dead then s0 else (s0.setDead i false).wf (TP_ABSORB.adr i) TP_ABSORB.COUNT 0
    let s2 := s1.resetDone i st.kind (if st.kind = kOn then st.domain else min st.discarded 0xFFFFFFFF)
    let s3 := if st.kind = kOn then s2.domJobReady i else s2.jobsReady i
    let s4 := if i < 24 then s3.unitsSync (i / 6) (fun u => u < 48 && u / 8 = i % 6)
      else if i < 32 then s3.unitsSync (i % 4) (fun _ => true) else s3
    s4.airSync

/-! ### Module-wide resets (R15, R21, R540 to R543) -/

/-- What a module-wide reset of kind `kind` leaves (R14, R543): the contents of the NV store and OTP; the registers kept by
their tables; line control and always-on, but for POR; the rest at its reset value. The NV store's merge buffer is
written first. The queue of commands and the model's own records are no state of the module. -/
def wiped (s : State) (kind : Nat) : State :=
  let s0 := s.flushIsland 34
  let nv (a : Nat) : Bool := !(nvBase ≤ a && a < nvBase + 0x2000000)
  let base : State := { State.reset with
    pending := s0.pending, free := s0.free, out := s0.out,
    regs := s0.regs, mem := sdrop nv s0.mem, marks := sdrop nv s0.marks,
    evq := sdrop (fun i => i ≠ 61 || kind = kPor) s0.evq,
    nvWr := s0.nvWr, bootRecs := s0.bootRecs, keyRecs := s0.keyRecs, wearSaved := s0.wearSaved, tune := s0.tune,
    rst := none }
  -- fuses are OTP, which no reset alters (R14)
  let s1 := base.resetRegs (fun a => a ≠ NV_FUSE.adr) kind
  if kind = kPor then s1
  else if kind = kWake then
    -- R512: the channels whose HOLD is 1 keep their code; every other channel is clamped
    upto 8 (fun c s1 =>
      if s.rb (AO_CHSTAT.adr c) AO_CHSTAT.HOLD then
        (s1.wf (AO_CHSTAT.adr c) AO_CHSTAT.CODE (s.aoCode c)).setChan c { Chan.reset with clamped := false, land := (s.chan c).land }
      else (s1.wf (AO_CHSTAT.adr c) AO_CHSTAT.CODE 0).setChan c Chan.reset)
      { s1 with vddq := s0.vddq, aonSec := s0.aonSec, aonAlarm := s0.aonAlarm, wakeDrv := s0.wakeDrv }
  else
    s0.chans.foldl (fun s e => s.setChan e.1 { e.2 with steps := [], deferred := [], last := none })
      { s1 with mons := s0.mons, vddq := s0.vddq, aonSec := s0.aonSec, aonAlarm := s0.aonAlarm, wakeDrv := s0.wakeDrv }

/-- `wiped`, with line control's event queue, which stands but for POR, presenting its head again (R21, R577). -/
def wipe (s : State) (kind : Nat) : State := (s.wiped kind).evqLaunch 61

/-- The levels of output pins that a module-wide reset changes: PPS_OUT and SYNCE_OUT fall, FAULT_N is released on
leaving HALT (R488, R494, R617). -/
def pinsReset (s : State) : State :=
  let s1 := if s.ppsHigh then s.emit (.pin 0 false) else s
  let s2 := upto 2 (fun o s => if (s.synce.getD o none).isSome then s.emit (.pin (5 + o) false) else s) s1
  if s2.mode = mHalt then s2.emit (.pin 4 true) else s2

/-- A module-wide reset is asserted (R15, R540): its kind and count are recorded; a kind that coincides with a reset whose
hold is in progress is recorded by the order of the reset table. -/
def moduleReset (s : State) (kind record : Nat) : State :=
  let k := match s.rst with
    | some k => min k record
    | none => record
  let s1 := s.pinsReset.wipe kind
  let s2 := if s.rst.isSome ∨ kind = kPor then s1 else s1.incSat PW_RSTCAUSE.adr PW_RSTCAUSE.COUNT 1
  { (s2.wf PW_RSTKIND.adr PW_RSTKIND.KIND k).aonPresent with rst := some k }

end State

end Sys2Proof.Machine
end

