-- ==== Sys2Proof/Machine/Analog.lean ====
section
/-! DEFINITION. The commands of the analog outputs and monitors (R499 to R517). In Chrysalis the monitors do not sample and
the channels take no step. -/

namespace Sys2Proof.Machine

namespace State

/-- Line control takes steps: always but in Chrysalis. -/
def onLine (s : State) (f : State → State) : State := if s.mode = mChrysalis then s else f s

/-- The HALT action of monitor `m` (R516): taken when BOOT ends if the limit is passed in BOOT or during a hold. -/
def monHalt (s : State) (m : Nat) : State :=
  if s.mode = mBoot ∨ s.rst.isSome then { s with haltPend := some (s.haltPend.getD m) } else s.haltEnter 1 m

/-- The action of a newly passed CRIT limit (R514, R516); `i` is 2 low, 3 high. VIN low acts by its comparator, VIN high
after 100 ms. -/
def monAction (s : State) (m i : Nat) : State :=
  if i < 2 ∨ m = 7 then s else if m = 9 then s.aoFaulted 0 3 else s.monHalt m

/-- MONITOR_SAMPLE (R515, R516): the monitors sample from VIN good after POR; VDDQ while VDDQ_EN is high, and after a
wake from the end of the hold (R613). -/
def monitorSample (s : State) (m : Nat) (v : Int) : State :=
  if s.rst = some kPor ∨ (m = 8 ∧ (!s.vddq ∨ s.rst = some kWake)) then s else
    let (passed, s1) := s.monSample m v
    passed.foldl (fun s i => s.monAction m i) s1

/-- VIN_HIGH_HALT_TIMER (R516). -/
def vinHighTimer (s : State) : State := if (s.mon 7).passed.getD 3 false then s.monHalt 7 else s

/-- POWER_FAIL_WARNING (R517). -/
def powerFail (s : State) (mv : Nat) : State :=
  if s.rb AO_GSTAT.adr AO_GSTAT.PFW then s else
    (((s.wb AO_GSTAT.adr AO_GSTAT.PFW true).wb AO_GSTAT.adr AO_GSTAT.PFSEEN true).raise 0x0C05 879 mv 0 0).gbTrigger true

/-- PFW_CLEAR (R517). -/
def pfwClear (s : State) : State := s.wb AO_GSTAT.adr AO_GSTAT.PFW false

end State

def execDeglitchRelease (c : ChanId) (s : State) : Result := .next (s.onLine fun s => s.deglitch c.val)

def execDeferredLatch (c : ChanId) (s : State) : Result := .next (s.onLine fun s => s.aoDeferredLatch c.val)

def execSlewLatch (c : ChanId) (s : State) : Result := .next (s.onLine fun s => s.aoSlewLatch c.val)

/-- CHANNEL_FAULT (R510): `cause` 0 to 2 stand for FCAUSE 1 to 3. -/
def execChannelFault (c : ChanId) (cause : Fin 3) (s : State) : Result :=
  .next (s.onLine fun s => s.aoFaulted c.val (cause.val + 1))

/-- AO_FAULT_CLEAR (R511): `holds` tells whether a condition of R510 still holds. -/
def execAoFaultClear (c : ChanId) (_src : SrcId) (holds : Bool) (s : State) : Result :=
  .next (s.onLine fun s => s.aoFaultClear c.val holds)

def execSafeCodeLoad (s : State) : Result := .next (s.onLine State.safeCodeLoad)

def execMonitorSample (m : MonId) (v : BitVec 24) (s : State) : Result :=
  .next (s.onLine fun s => s.monitorSample m.val v.toInt)

def execVinHighHaltTimer (s : State) : Result := .next (s.onLine State.vinHighTimer)

def execPowerFailWarning (mv : Word) (s : State) : Result := .next (s.onLine fun s => s.powerFail mv.toNat)

def execPfwClear (s : State) : Result := .next (s.onLine State.pfwClear)

end Sys2Proof.Machine
end

