-- ==== Sys2Proof/Machine/Tick.lean ====
section
/-! DEFINITION. The passing of time. -/

namespace Sys2Proof.Machine

/-- The Timekeeper is powered and out of reset (R467, R518). -/
def State.tkRuns (s : State) : Bool := s.rst.isNone && s.rb (PW_DOMSTAT.adr 10) ⟨21, 1⟩

/-- One Timekeeper cycle passes: TK_NS and extended time advance by one nanosecond (R467, R468). -/
def State.tick (s : State) : State :=
  if s.tkRuns then { s with cyc := s.cyc + 1, tkns := (s.tkns + 1) % 2 ^ 32, ext := s.ext + 1 }
  else { s with cyc := s.cyc + 1 }

end Sys2Proof.Machine
end

