-- ==== Sys2Proof/Machine/Carriage.lean ====
section
/-! DEFINITION. The commands of the Carriage ports (R443 to R462), and the gain stage (R288, R289). -/

namespace Sys2Proof.Machine

/-- A measurement as the tables use it. -/
def ratiosOf (rs : List AxisRatio) : List (Nat × Nat × Nat) := rs.map fun r => (r.key.val, r.i.toNat, r.q.toNat)

/-- An axis takes 0 to 6 bits (R437); of a table that names 7 it takes none (DESIGN CHOICE, log entry 15). -/
def axisBits (b : Nat) : Nat := if b ≤ 6 then b else 0

/-- A table that came in link messages: of data sub-carriers only (R436, R437). -/
def tabFrom (t : List (Fin 8192 × BitVec 6)) : Sparse Byte :=
  (t.filter fun e => isData (e.1 % 0x800)).foldl (fun m e =>
    sput m e.1 (BitVec.ofNat 8 (axisBits (bits e.2.toNat 0 3) + 8 * axisBits (bits e.2.toNat 3 3))) 0) []

/-- A new portion of an antenna begins with noise floor `nf` (R288, R289). -/
def CpPort.portion (c : CpPort) (ant : Nat) (nf : Rat) : CpPort :=
  { c with noise := lset c.noise ant nf, frozen := lset c.frozen ant false, burst := lset c.burst ant false,
           clip := lset c.clip ant 0 }

/-- A whole power of a factor. -/
def ratPow (r : Rat) (k : Int) : Rat := if 0 ≤ k then r ^ k.toNat else 1 / r ^ (-k).toNat

/-- GAIN × 1.5 dB − 12 dB as a factor (R288): the power GAIN − 8 of 10^(3/40), which is taken to 2^-64. -/
def gainStep1 : Rat := (21923996420564421523 : Rat) / 2 ^ 64
def gainRatio (code : Nat) : Rat := ratPow gainStep1 ((code : Int) - 8)

/-- `d` dB as a ratio of powers: 10^(1/10) is taken to 2^-64. -/
def dbRatio (d : Int) : Rat := ratPow ((23223074879256410845 : Rat) / 2 ^ 64) d

/-- The coded bits of a frame in the order in which they are placed (R442): the 10-bit symbols of the codewords in turn. -/
def codedBits (rate : Nat) (frame : List Byte) : List Bool :=
  let ws := Config.rsCode rate frame
  (List.range 724).flatMap fun i => (List.range (if rate = 0 then 4 else 10)).flatMap fun w =>
    let b := Config.rsBits (((ws.getD w []).getD i 0) % 1024)
    (List.range 10).map fun j => b.getD j false

/-- The PAM level of `b` bits, the first of which selects the sign (R437, R441). -/
def pamValue (bs : List Bool) : Int :=
  let m : Int := 2 * (Config.pamLevel (bs.drop 1) % 2 ^ (bs.length - 1) : Nat) + 1
  if bs.headD false = Config.pamSign then m else -m

/-- The axes of a symbol in loading order (R441): by sub-carrier, pair, in-phase before quadrature; an axis without bits is
skipped. -/
def placeBits (tab : Sparse Byte) (bs : List Bool) : List (Nat × Bool × Int) :=
  let axes := (List.range 0x800).flatMap fun n => (List.range 4).flatMap fun q => [(0x800 * q + n, false), (0x800 * q + n, true)]
  (axes.foldl (fun (r : List (Nat × Bool × Int) × List Bool) x =>
    let b := if isData (x.1 % 0x800) then tabBits tab x.1 x.2 else 0
    if b = 0 then r else (r.1 ++ [(x.1, x.2, pamValue (r.2.take b))], r.2.drop b)) ([], bs)).1

/-- The levels of a symbol as sent (R437): every axis with bits has the same mean power, and the levels of `b` bits have the mean square
(4^b − 1) ÷ 3. -/
def symbolTones (tab : Sparse Byte) (bs : List Bool) : List (Nat × Bool × Int × Rat) :=
  (placeBits tab bs).map fun x => (x.1, x.2.1, x.2.2, (3 : Rat) / (4 ^ tabBits tab x.1 x.2.1 - 1))

/-- The pilots of symbol `n` on some pairs (R436, R437): on the in-phase axes of the 64 sub-carriers 32k + 16, with the table indicator
multiplied in on pair A. -/
def pilotTones (n : Nat) (pairs : List Nat) (ind : Bool) : List (Nat × Bool × Int × Rat) :=
  pairs.flatMap fun q => (List.range 64).map fun k =>
    let sub := 32 * k + 16
    let neg := xor (Config.pilotSign n sub) (q = 0 && ind)
    (0x800 * q + sub, false, if neg then -1 else 1, Config.pilotPower)

/-- The mean power of the window maps to a target `t` (R288, step 2): the whole codes of 1.5 dB from −8 to 8 by which GAIN moves. Which
way a fraction of a code rounds is not stated (`up`). -/
def gainMove (p t : Rat) (up : Bool) : Int :=
  let q : Rat := gainStep1 * gainStep1
  let at_ (k : Int) : Rat := p * ratPow q k
  let i : Nat := ((List.range 17).reverse.find? fun (i : Nat) => decide (at_ ((i : Int) - 8) ≤ t)).getD 0
  let k : Int := (i : Int) - 8
  if up && k < 8 && decide (at_ k < t) then k + 1 else k

/-- GAIN after a window, within 0 to 36. -/
def gainNext (old : Nat) (p t : Rat) (up : Bool) : Nat := (max 0 (min 36 ((old : Int) + gainMove p t up))).toNat

namespace State

/-- The port strobes the Timekeeper's capture at a boundary whose FCNT is a multiple of 64 (R449, R471). -/
def cpStrobe (s : State) (src fcnt : Nat) : State :=
  if fcnt % 64 = 0 ∧ s.tkRuns then s.captureStrobe src else s

/-- CARRIAGE_DETECT (R454): a pilot-only symbol on pair A, which the follower answers, or not. -/
def cpDetect (s : State) (p : Nat) (answer : Bool) : State :=
  if s.cpState p ≠ 1 then s
  else
    let s1 := s.emit (.carriageSymbol p (pilotTones (s.cp p).syms [0] (s.rb (CP_STAT.adr p) CP_STAT.TXTAB)))
    if answer then (s1.setCpState p 2).setCp p { (s1.setCpState p 2).cp p with step := 1 } else s1

/-- The step of the training table that follows step `n` (R454, R459): all in train; 2, 5, 7 and 8 in retrain. -/
def nextStep (st n : Nat) : Nat := if st = 2 then n + 1 else if n = 2 then 5 else if n = 5 then 7 else n + 1

/-- What a passed step leaves (R434, R449, R459); none: the step fails. -/
def trainEffect (s : State) (p n : Nat) (r : TrainRes) : Option State :=
  let c := s.cp p
  if !r.pass then none else
    match n with
    | 1 => some (s.wf (CP_STAT.adr p) CP_STAT.PAIRMAP r.pairMap.toNat)
    | 5 => some (s.setCp p { c with ratios := ratiosOf r.ratios })
    | 6 =>
      if 100 < r.skew.toNat ∨ 2500 < r.dtx.toNat ∨ 2500 < r.drx.toNat then none
      else some ((((s.wf (CP_DELAY.adr p) CP_DELAY.SKEW r.skew.toNat).wf (CP_DELAY.adr p) CP_DELAY.CABLE r.cable.toNat).wf
        (CP_RPDLY.adr p) CP_RPDLY.DTX r.dtx.toNat).wf (CP_RPDLY.adr p) CP_RPDLY.DRX r.drx.toNat)
    | 7 =>
      match buildTable c.ratios (20 * s.rf (CP_CFG.adr p) CP_CFG.MARGIN) (cpNb c.rate) with
      | none => none
      | some t => some (((s.setCp p { c with rxTab := t, txTab := tabFrom r.txTab }).cpLoadBits p).cpMeasured p c.ratios)
    | 8 =>
      let min := 20 * s.rf (CP_CFG.adr p) CP_CFG.MINMARG
      let ok := (List.range 4).all fun q => match leastMargin c.rxTab c.ratios q with
        | some m => decide ((min : Int) ≤ m)
        | none => true
      if r.uncorrectable ∨ !ok then none else some s
    | _ => some s

/-- TRAIN_STEP (R454, R459): the step in progress ends. -/
def trainStep (s : State) (p : Nat) (r : TrainRes) : State :=
  let st := s.cpState p
  if st ≠ 2 ∧ st ≠ 4 then s else
    let n := (s.cp p).step
    match s.trainEffect p n r with
    | none => s.trainFail p
    | some s1 => if n = 8 then s1.cpRun p else s1.setCp p { s1.cp p with step := nextStep st n }

/-- TRAIN_TIMEOUT (R454): run is not reached 2 s after the request. -/
def trainTimeout (s : State) (p : Nat) : State := if s.cpState p = 1 ∨ s.cpState p = 2 then s.cpDown p else s

/-- The samples of one antenna of a frame, read and zeroed (R450). -/
def takeTx (s : State) (p ant n : Nat) : List Int × State :=
  (List.range n).foldl (fun (r : List Int × State) i =>
    let c := r.2.cp p
    let k := 32768 * ant + s.cpPos p (c.next + i)
    let v := (sget c.tx k 0).toNat
    (r.1 ++ [sgn 16 v, sgn 16 (v >>> 16)], r.2.setCp p { c with tx := sput c.tx k 0 0 })) ([], s)

/-- The switch of this frame (R453): the oldest entry whose frame has been sent, at sample 0 and counted as late; else the entry whose
sample comes first in the frame, at its place. -/
def takeSwitch (s : State) (p n : Nat) : Option (Nat × Nat) × State :=
  let c := s.cp p
  let cyc := s.cpCyc p
  let dist (e : Nat × Nat) : Nat := (e.1 + cyc - c.next % cyc) % cyc
  match c.swq.find? fun e => decide (cyc ≤ 2 * dist e) with
  | some e =>
    (some (0, e.2), ((s.setCp p { c with swq := ldrop1 (fun x => decide (cyc ≤ 2 * dist x)) c.swq }).cpSync p).cpCount p 9 1)
  | none =>
    match (List.range n).find? fun d => c.swq.any fun e => dist e = d with
    | some d => match c.swq.find? fun e => dist e = d with
      | some e => (some (d, e.2), (s.setCp p { c with swq := ldrop1 (fun x => dist x = d) c.swq }).cpSync p)
      | none => (none, s)
    | none => (none, s)

/-- The MGMT section of a frame (R446): the next fragment of the oldest management frame. -/
def takeMgmt (s : State) (p room : Nat) : List Byte × State :=
  let c := s.cp p
  match c.mtx with
  | [] => (List.replicate room 0, s)
  | f :: rest =>
    if room < 3 then (List.replicate room 0, s) else
      let part := (f.drop c.mtxAt).take (room - 2)
      let last := f.length ≤ c.mtxAt + part.length
      let h := part.length + b2n (c.mtxAt = 0) * 2 ^ 14 + b2n last * 2 ^ 15
      let c' := if last then { c with mtx := rest, mtxAt := 0 } else { c with mtxAt := c.mtxAt + part.length }
      (leBytes 2 h ++ part ++ List.replicate (room - 2 - part.length) 0, (s.setCp p c').cpSync p)

/-- CARRIAGE_FRAME_SEND (R436, R437, R441 to R443, R445, R446, R448 to R450, R453, R454): one symbol of the port. The buffer advances in
every state; a frame is sent in each symbol in run and in one of 64 in power-save, with pilots in every symbol of both. The LINK bytes, whose stream the spec does not give, and CTRL byte 1 of a
frame without a switch are free. -/
def cpSend (s : State) (p : Nat) : State :=
  let n := s.cpSpf p
  let st := s.cpState p
  let live := st = 3 && s.cpValid p
  let sends := st = 3 || (st = 5 && (s.cp p).syms % 64 = 0)
  let c := s.cp p
  let (iq, s1) := (List.range 4).foldl (fun (r : List Byte × State) a =>
    let (vs, s') := r.2.takeTx p a n
    (if live && a < s.cpAnts p then r.1 ++ (splitEvery 28 (n / 14) vs).flatMap iqBlock else r.1, s')) ([], s)
  let (sw, s2) := if sends then s1.takeSwitch p n else (none, s1)
  let now := (s2.cp p).enables
  let (link, s3) := s2.drawBytes 8
  let (fv, s4) := s3.draw 8
  let (b1, swi, after) := match sw with
    | some (d, v) => (v, d, v)
    | none => (fv, 0xFFFF, now)
  let rest := cpFrameLen (s.cpRate p) - 48 - iq.length
  let (mg, s5) := if sends then s4.takeMgmt p rest else ([], s4)
  let frame := leBytes 4 c.fcntTx ++ leBytes 4 (c.next % s.cpCyc p + b2n live * 2 ^ 24) ++ link ++
    (leBytes 1 now ++ leBytes 1 b1 ++ leBytes 2 swi ++ leBytes 4 (s.reg (CP_TXATT.adr p)) ++
      leBytes 4 (s.reg (CP_RXATT.adr p)) ++ List.replicate 20 0) ++ iq ++ mg
  let pilots := if st = 3 ∨ st = 5 then pilotTones c.syms [0, 1, 2, 3] (s.rb (CP_STAT.adr p) CP_STAT.TXTAB) else []
  let s6 := if sends then
      ((s5.emit (.carriage p frame)).emit (.carriageSymbol p (pilots ++ symbolTones c.txTab (codedBits (s.cpRate p) frame)))).cpStrobe
        (40 + p) c.fcntTx
    else if st = 5 then s5.emit (.carriageSymbol p pilots) else s5
  let c' := s6.cp p
  s6.setCp p { c' with next := (c.next + n) % s.cpCyc p, fcntTx := if sends then (c.fcntTx + 1) % 2 ^ 32 else c.fcntTx,
                       lateSaid := false, enables := after, syms := (c.syms + 1) % 2 ^ 32 }

/-- The gain stage applied to one value of an antenna (R288): which way it rounds a product is not stated. -/
def gainValue (code : Nat) (v : Int) : Int :=
  let x : Rat := v * gainRatio code
  wholeOf x (Config.gainUp code v)

/-- Writes one upstream sample of an antenna at its carrier sample index (R288, R289, R451): after the gain stage in the receive buffer;
samples that saturate are counted once the gain is frozen. -/
def rxStore (s : State) (p ant idx : Nat) (raw : Word) : State :=
  let c := s.cp p
  let g := c.gain.getD ant 8
  let vs := [sgn 16 raw.toNat, sgn 16 (raw.toNat >>> 16)].map (gainValue g)
  let sat := vs.any fun v => clampTo 16 v ≠ v
  let w := wrapTo 16 (clampTo 16 (vs.getD 0 0)) + 2 ^ 16 * wrapTo 16 (clampTo 16 (vs.getD 1 0))
  let k := 32768 * ant + s.cpPos p idx
  s.setCp p { c with rx := sput c.rx k (BitVec.ofNat 32 w) 0, raw := sput c.raw k raw 0,
                     clip := if sat && c.frozen.getD ant false then lset c.clip ant (c.clip.getD ant 0 + 1) else c.clip }

/-- Writes upstream samples of one antenna (R451): `vs` I and Q in turn. -/
def putRx (s : State) (p ant idx : Nat) (vs : List Int) : State :=
  (splitEvery 2 (vs.length / 2) vs).foldl (fun (r : State × Nat) x =>
    (r.1.rxStore p ant r.2 (BitVec.ofNat 32 (wrapTo 16 (x.getD 0 0) + 2 ^ 16 * wrapTo 16 (x.getD 1 0))), r.2 + 1)) (s, idx) |>.1

/-- Zeros in place of a lost frame's samples. -/
def zeroRx (s : State) (p idx n : Nat) : State :=
  upto (4 * n) (fun i s =>
    let c := s.cp p
    let k := 32768 * (i / n) + s.cpPos p (idx + i % n)
    s.setCp p { c with rx := sput c.rx k 0 0, raw := sput c.raw k 0 0 }) s

/-- The mean power I² + Q² of `n` samples of an antenna from an index, at the gain that they were stored with (R288). -/
def rxPower (s : State) (p ant idx n : Nat) : Rat :=
  let c := s.cp p
  let sum := ((List.range n).map fun i =>
    let v := (sget c.rx (32768 * ant + s.cpPos p (idx + i)) 0).toNat
    sgn 16 v * sgn 16 v + sgn 16 (v >>> 16) * sgn 16 (v >>> 16)).sum
  (sum : Rat) / n

/-- The samples that have arrived from an index on take the gain just set. -/
def regain (s : State) (p ant idx : Nat) : State :=
  let cyc := s.cpCyc p
  upto (((s.cp p).rxNext + cyc - idx % cyc) % cyc) (fun i s =>
    s.rxStore p ant (idx + i) (sget (s.cp p).raw (32768 * ant + s.cpPos p (idx + i)) 0)) s

/-- The management fragment of a frame (R444, R446). -/
def putMgmt (s : State) (p : Nat) (mg : List Byte) : State :=
  let h := fieldAt mg 0 2
  let n := bits h 0 14
  let c := s.cp p
  if n = 0 then s else
    let part := (mg.drop 2).take n
    let whole := match c.mrxPart with
      | some x => if bit h 14 then some part else some (x ++ part)
      | none => if bit h 14 then some part else none
    match whole with
    | none =>
      -- a fragment of a frame whose first one was lost: the frame is counted once
      (s.setCp p { c with mrxBroken := !bit h 15 }).cpCount p 5 (b2n (!c.mrxBroken))
    | some f =>
      if !bit h 15 then s.setCp p { c with mrxPart := some f, mrxBroken := false }
      else
        let s1 := s.setCp p { c with mrxPart := none, mrxBroken := false }
        let u := CP_UCFG.adr p
        if !s.rb u CP_UCFG.MEN ∨ 16384 < (c.mrx.map List.length).sum + f.length then s1.cpCount p 5 1
        else (s1.setCp p { s1.cp p with mrx := c.mrx ++ [f] }).releasePulse (cpIsland p) (s.rf u CP_UCFG.MCHAN)

/-- The upstream table indicator is read (R461, R462): a flip adopts the port's acknowledged proposal. In power-save the tables are
held (R457). -/
def cpIndicator (s : State) (p : Nat) (ind : Option Bool) : State :=
  let a := CP_STAT.adr p
  match ind with
  | none => s.cpCount p 3 1
  | some v =>
    if s.cpState p = 5 ∨ s.rb a CP_STAT.RXTAB = v then s else
      let s1 := s.wb a CP_STAT.RXTAB v
      match (s1.cp p).ours with
      | some pr => (((s1.setCp p { s1.cp p with rxTab := pr.table, ours := none }).wb a CP_STAT.RXSWP false).cpLoadBits p).cpCount p 7 1
      | none => s1

/-- CARRIAGE_FRAME_RECEIVE (R442, R444 to R446, R448, R449, R451, R462): one upstream symbol. Each codeword corrects up to 20 symbols. -/
def cpReceive (s : State) (p : Nat) (r : CpRx) : State :=
  let st := s.cpState p
  let n := s.cpSpf p
  let cyc := s.cpCyc p
  let idx := (s.cp p).rxNext
  let step (s : State) (i : Nat) := s.setCp p { s.cp p with rxNext := (i + n) % cyc }
  if st ≠ 3 ∧ st ≠ 5 then step (s.zeroRx p idx n) idx
  else
    let es := (List.range (if s.cpRate p = 0 then 4 else 10)).map fun i => (r.errs.getD i 0).val
    let bad := (es.filter fun e => 20 < e).length
    let s1 := ((s.cpIndicator p r.indicator).cpCount p 0 (es.filter fun e => e ≤ 20).sum).cpCount p 1 bad
    if bad ≠ 0 then
      let c := s1.cp p
      let s2 := (s1.cpCount p 2 1).cpCount p 5 (b2n c.mrxPart.isSome)
      step ((s2.setCp p { s2.cp p with mrxPart := none, mrxBroken := c.mrxPart.isSome || c.mrxBroken }).zeroRx p idx n) idx
    else
      let f := r.frame
      let old := s1.rf (CP_RPSTAT.adr p) CP_RPSTAT.STATUS
      let ctrl := fieldAt f 16 3
      let s2 := (((s1.setCp p { s1.cp p with fcntRx := fieldAt f 0 4 }).cpStrobe (48 + p) (fieldAt f 0 4)).wf (CP_RPSTAT.adr p) CP_RPSTAT.STATUS
        (ctrl % 256)).wf (CP_RPSTAT.adr p) CP_RPSTAT.TEMP (ctrl / 256)
      let s3 := if bit ctrl 2 && !bit old 2 then s2.raise 0x0A01 (cpSrc p) ctrl 0 0 else s2
      let iqv := bit (fieldAt f 7 1) 0
      let i := fieldAt f 4 3
      let niq := if iqv then s.cpAnts p * (n / 14) * 32 else 0
      let s4 := if iqv && st = 3 then
          upto (s.cpAnts p) (fun a s =>
            let blk := (f.drop (48 + a * (n / 14) * 32)).take (n / 14 * 32)
            s.putRx p a i ((splitEvery 32 (n / 14) blk).flatMap iqUnblock)) s3
        else s3.zeroRx p idx n
      step (s4.putMgmt p (f.drop (48 + niq))) (if iqv && st = 3 then i else idx)

/-- LINK_MESSAGE_RECEIVE (R444, R449, R461): a complete link message, acknowledged. A delay report above 2,500 ns fails training, and is
not taken in another state (DEDUCED, log entry 15). -/
def linkMessage (s : State) (p : Nat) (m : LinkMsg) : State :=
  if s.cpState p = 0 then s else
    let c := s.cp p
    match m with
    | .ack => match c.ours with
      | some pr => s.setCp p { c with ours := some { pr with acked := true } }
      | none => s
    | .proposal t =>
      if s.cpState p = 3 ∧ c.theirs.isNone then
        (s.setCp p { c with theirs := some ⟨tabFrom t, true⟩ }).wb (CP_STAT.adr p) CP_STAT.TXSWP true
      else s
    | .delays dtx drx =>
      if 2500 < dtx.toNat ∨ 2500 < drx.toNat then (if s.cpState p = 2 ∨ s.cpState p = 4 then s.trainFail p else s)
      else (s.wf (CP_RPDLY.adr p) CP_RPDLY.DTX dtx.toNat).wf (CP_RPDLY.adr p) CP_RPDLY.DRX drx.toNat
    | .stateRequest => s

/-- RETRAIN_TRIGGER (R456): frames lost in 1 ms, or pilot lock lost (R463). -/
def retrainTrigger (s : State) (p lost : Nat) (lock : Bool) : State :=
  if s.cpState p ≠ 3 then s else
    let t := s.rf (CP_CFG.adr p) CP_CFG.RTTHR
    if lock then (s.wb (CP_STAT.adr p) CP_STAT.LOCK false).cpLoss p
    else if t ≠ 0 ∧ t < lost then s.cpLoss p else s

/-- SNR_MEASURE (R460): the ratios of 1,024 symbols; a loaded axis below MINMARG brings a proposal or retrain. -/
def snrMeasure (s : State) (p : Nat) (ms : List (Nat × Nat × Nat)) : State :=
  if s.cpState p ≠ 3 then s else
    let s1 := s.cpMeasured p ms
    let c := s1.cp p
    let lo : Int := 20 * s1.rf (CP_CFG.adr p) CP_CFG.MINMARG
    let low := (List.range 4).any fun q => match leastMargin c.rxTab ms q with
      | some m => decide (m < lo)
      | none => false
    if !low ∨ c.ours.isSome then s1
    else match buildLower ms (cpNb (s1.cpRate p)) lo 32 (20 * s1.rf (CP_CFG.adr p) CP_CFG.MARGIN) with
    | some t => (s1.setCp p { c with ours := some ⟨t, false⟩ }).wb (CP_STAT.adr p) CP_STAT.RXSWP true
    | none => s1.cpRetrain p

/-- TABLE_ADOPT (R457, R461): the transmitter adopts the acknowledged proposal in run and flips its indicator; in power-save the tables
are held. -/
def tableAdopt (s : State) (p : Nat) : State :=
  if s.cpState p ≠ 3 then s else
  let c := s.cp p
  let a := CP_STAT.adr p
  match c.theirs with
  | some pr =>
    (((s.setCp p { c with txTab := pr.table, theirs := none }).wb a CP_STAT.TXTAB (!s.rb a CP_STAT.TXTAB)).wb a
      CP_STAT.TXSWP false).cpCount p 7 1
  | none => s

/-- PROPOSAL_LAPSE (R462): the port's own acknowledged proposal (`ours`), counted, or the partner's. -/
def proposalLapse (s : State) (p : Nat) (ours : Bool) : State :=
  let c := s.cp p
  if ours then
    match c.ours with
    | some pr => if pr.acked then
        ((s.setCp p { c with ours := none }).wb (CP_STAT.adr p) CP_STAT.RXSWP false).cpCount p 8 1 else s
    | none => s
  else match c.theirs with
    | some _ => (s.setCp p { c with theirs := none }).wb (CP_STAT.adr p) CP_STAT.TXSWP false
    | none => s

/-- POWER_SAVE_RESUME (R457): the follower acknowledges the resume; `lost` frames of the first 256 are lost. -/
def powerSaveResume (s : State) (p lost : Nat) : State :=
  if s.cpState p ≠ 5 ∨ !(s.cp p).req.any (fun r => r.kind = 1) then s else
    let other := (s.cp p).req.any fun r => r.rate ≠ s.cpRate p
    if other then
      let s1 := s.setCpState p 3
      (s1.setCp p { s1.cp p with rate := (((s1.cp p).req).map CpReq.rate).getD 0 }).cpRetrain p
    else
    let s1 := s.cpRun p
    let t := s1.rf (CP_CFG.adr p) CP_CFG.RTTHR
    if t ≠ 0 ∧ t < lost then s1.cpRetrain p else s1

/-- UL_SYMBOL_RELEASE (R451): the last sample of the oldest armed symbol has been written. -/
def ulRelease (s : State) (p : Nat) : State :=
  let c := s.cp p
  match c.arms with
  | [] => s
  | (_, last, _) :: rest =>
    let cyc := s.cpCyc p
    let d := (c.rxNext + 2 * cyc - 1 - last) % cyc
    if cyc ≤ 2 * d then s else
      let s1 := (s.setCp p { c with arms := rest }).cpSync p
      let u := CP_UCFG.adr p
      if s.rb u CP_UCFG.UEN then s1.releasePulse (cpIsland p) (s.rf u CP_UCFG.UCHAN) else s1

/-- UL_GAIN_WINDOW (R288): the window of `m` samples from index `a` ends. Window 0 is the noise floor of a TDD portion; in FDD it is the
lowest window power of the portion before. Windows 1 to 4 set GAIN, and detect a burst or, at the fourth, freeze; what has arrived since
takes the new gain. The power of no samples is free. `tgt` and `bthr` of the carrier in dB. -/
def gainWindow (s : State) (p ant win a m : Nat) (tgt bthr : Int) (tdd : Bool) : State :=
  let (power, s0) : Rat × State := if m = 0 then let (v, s') := s.draw 32; ((v : Rat), s') else (s.rxPower p ant a m, s)
  let c := s0.cp p
  if win = 0 then (if tdd then s0.setCp p (c.portion ant power) else s)
  else
    -- an FDD portion begins with its first window; with no portion before it, its floor is free
    let last := c.windows.getD ant none
    let (s1, c) := if win = 1 ∧ !tdd then
        let (v, s') := if last.isSome then (0, s0) else s0.draw 32
        (s', c.portion ant (last.getD (v : Rat)))
      else (s0, c)
    if c.frozen.getD ant false then s1.setCp p c
    else
      let (b, s2) := s1.draw 1
      let g := gainNext (c.gain.getD ant 0) power (Config.fullScale * dbRatio tgt) (b = 1)
      let hit : Bool := decide (c.noise.getD ant 0 * dbRatio bthr < power)
      let low : Rat := match last with
        | some w => if win = 1 then power else min w power
        | none => power
      (s2.setCp p { c with gain := lset c.gain ant g, burst := lset c.burst ant hit,
                           frozen := lset c.frozen ant (hit || win = 4), windows := lset c.windows ant (some low) }).regain p ant (a + m)

end State

def execCarriageDetect (p : CpId) (answer : Bool) (s : State) : Result := .next (s.cpDetect p answer)
def execTrainStep (p : CpId) (r : TrainRes) (s : State) : Result := .next (s.trainStep p r)
def execTrainTimeout (p : CpId) (s : State) : Result := .next (s.trainTimeout p)
def execCarriageFrameSend (p : CpId) (s : State) : Result := .next (s.cpSend p)
def execCarriageFrameReceive (p : CpId) (r : CpRx) (s : State) : Result := .next (s.cpReceive p r)
def execLinkMessageReceive (p : CpId) (m : LinkMsg) (s : State) : Result := .next (s.linkMessage p m)
def execRetrainTrigger (p : CpId) (lost : BitVec 16) (lock : Bool) (s : State) : Result :=
  .next (s.retrainTrigger p lost.toNat lock)
def execSnrMeasure (p : CpId) (ratios : List AxisRatio) (s : State) : Result := .next (s.snrMeasure p (ratiosOf ratios))
def execTableAdopt (p : CpId) (s : State) : Result := .next (s.tableAdopt p)
def execProposalLapse (p : CpId) (ours : Bool) (s : State) : Result := .next (s.proposalLapse p ours)
def execPowerSaveResume (p : CpId) (lost : BitVec 9) (s : State) : Result := .next (s.powerSaveResume p lost.toNat)
/-- A source writes one sample of the transmit buffer. -/
def execSampleWrite (src : SrcId) (p : CpId) (ant : Fin 4) (pos : BitVec 15) (v : Word) (s : State) : Result :=
  .next (s.busWrite src (0x7080000 + 0x200000 * p + 0x20000 * ant + 4 * pos.toNat) (leBytes 4 v.toNat)).2
def execUlArm (src : SrcId) (p : CpId) (v : BitVec 64) (s : State) : Result :=
  .next (s.busWrite src (0x7000200 + 0x200000 * p) (leBytes 8 v.toNat)).2
def execUlSymbolRelease (p : CpId) (s : State) : Result := .next (s.ulRelease p)
def execSwitchQueueWrite (src : SrcId) (p : CpId) (v : BitVec 64) (s : State) : Result :=
  .next (s.busWrite src (0x7000208 + 0x200000 * p) (leBytes 8 v.toNat)).2
def execMgmtTxEntry (src : SrcId) (p : CpId) (entry : BitVec 128) (s : State) : Result :=
  .next (s.busWrite src (0x7000210 + 0x200000 * p) (leBytes 16 entry.toNat)).2
def execMgmtRxConsume (src : SrcId) (p : CpId) (v : Word) (s : State) : Result :=
  .next (s.busWrite src (0x7000220 + 0x200000 * p) (leBytes 4 v.toNat)).2

end Sys2Proof.Machine
end

