-- ==== Sys2Proof/Machine/Guestbook.lean ====
section
/-! DEFINITION. The commands of the Guestbook (R577 to R591): taking an event, routing it, MSI-X intervals and flushes. -/

namespace Sys2Proof.Machine

namespace State

/-- Whether the head of island `i`'s queue has reached the hub and waits to be taken (R577). -/
def evWaiting (s : State) (i : Nat) : Bool :=
  if i = 34 then !s.intake.isEmpty else (s.xing (xkey i 34 11 0)).fresh

/-- Takes the head of island `i`'s queue (R577): its event crossing can then be acknowledged. -/
def evPop (s : State) (i : Nat) : Event × State :=
  if i = 34 then (s.intake.headD ⟨0, 0, 0, 0, 0⟩, { s with intake := s.intake.drop 1 })
  else
    let k := xkey i 34 11 0
    let x := s.xing k
    (Event.unpack x.dst, s.setXing k { x with fresh := false })

/-- The effects of an event's route (R580 to R583). -/
def evRoute (s : State) (e : Event) : State :=
  let a := GB_ROUTE.adr e.src
  let s1 := if s.rb a GB_ROUTE.GBEN then s.gbRecord e else s
  let s2 := if s.rb a GB_ROUTE.MSIEN then
      let v := s.rf a GB_ROUTE.VEC
      ((s1.incWrap (GB_VECSTAT.adr v) GB_VECSTAT.COUNT 1).wf (GB_VECSTAT.adr v) GB_VECSTAT.LASTSRC e.src).msiRaise v
    else s1
  if s.rb a GB_ROUTE.INKEN then
    match s2.busWrite 41 (inkDecrAddr (s.rf a GB_ROUTE.REGION)) (leBytes 4 (1 + 2 ^ 14 * s.rf a GB_ROUTE.CTR)) with
    | (none, s3) => s3
    | (some _, s3) => s3.incSat GB_INKFAIL.adr GB_INKFAIL.COUNT 1
  else s2

/-- EVENT_TAKE (R579): one event, the islands served in rotating order. -/
def eventTake (s : State) : State :=
  match ((List.range 63).map fun j => (s.gbNext + j) % 63).find? fun i => s.evWaiting i with
  | none => s
  | some i =>
    let (e, s1) := s.evPop i
    { s1 with gbNext := (i + 1) % 63 }.evRoute e

end State

def execEventTake (s : State) : Result := .next s.eventTake

def execMsiIntervalEnd (v : Byte) (s : State) : Result := .next (s.msiEnd v.toNat)

def execFlushStart (s : State) : Result := .next s.gbFlushStart

def execFlushComplete (s : State) : Result := .next s.gbFlushEnd

end Sys2Proof.Machine
end

