-- ==== Sys2Proof/Machine/Memory.lean ====
section
/-! DEFINITION. The commands of the memories (R338 to R364): the end of DDR initialisation, command parity errors, refresh,
merge buffers, error reports and scrubbing. -/

namespace Sys2Proof.Machine

namespace State

/-- DDR_INIT_COMPLETE (R342): the channel has written every line, and READY is set; when the last channel is ready the initialisation is
complete: every channel's bridge opens, and the module raises one ddr-ready event. -/
def ddrInit (s : State) (ch : Nat) : State :=
  if s.ddrGiB = 0 ∨ s.rb (HUB_DDRSTAT.adr ch) HUB_DDRSTAT.READY then s else
    let s1 := s.wb (HUB_DDRSTAT.adr ch) HUB_DDRSTAT.READY true
    if (List.range 4).all fun c => s1.rb (HUB_DDRSTAT.adr c) HUB_DDRSTAT.READY then
      (upto 4 (fun c s => s.setIsl (35 + c) { s.isl (35 + c) with iso := false }) s1).raise 0x0702 901 s1.ddrGiB 0 0
    else s1

/-- DDR_ALERT (R345): a failed command is retried; the fourth failure is answered DATA_ERROR, a read with poison data, counted and reported. -/
def ddrAlert (s : State) (src tag addr attempts : Nat) : State :=
  if attempts < 4 ∨ addr < 0x10000000000 ∨ s.ddrGiB * 0x40000000 ≤ addr - 0x10000000000 then s else
    let ch := ddrSub addr / 2
    let write := s.outst.any fun r => r.src = src && r.tag = tag && r.addr = addr && r.write
    let s1 := (s.respond src tag addr stDataError (35 + ch) (if write then [] else poisonLine)).incSat (HUB_UECNT.adr ch) ⟨0, 32⟩ 1
    s1.raise 0x0703 (904 + ddrSub addr) (ddrLocal addr % 2 ^ 32) (ddrLocal addr >>> 32) 0

/-- MERGE_BUFFER_FLUSH (R352): the oldest entry of the bank is written to the array. -/
def mergeFlush (s : State) (i bank : Nat) : State :=
  let k := 64 * i + bank
  match s.mbufOf k with
  | [] => s
  | e :: _ => match memLoc s.ddrGiB e.word with
    | some l => s.flushEnt l k e
    | none => s

/-- The hub takes the oldest report of island `i` once the crossing has delivered it (R356); one of the hub core's own at once. -/
def eccTake (s : State) (i : Nat) : State :=
  let k := xkey i 34 12 0
  if i = 34 then s.setEccq i { s.eccqOf i with q := (s.eccqOf i).q.drop 1 } else s.setXing k { s.xing k with fresh := false }

/-- ECC_REPORT (R356 to R358, R531): the oldest report of island `i` reaches the hub; `concierge` tells an error in
Concierge's own code or state in hub SRAM. -/
def eccReport (s : State) (i : Nat) (concierge : Bool) : State :=
  match (s.eccqOf i).q with
  | [] => s
  | r :: _ =>
    if i ≠ 34 ∧ (s.xing (xkey i 34 12 0)).fresh = false then s
    else
      let s1 := (s.eccTake i).eccArrive r
      if concierge ∧ r.uncorr ∧ r.kind = 6 then s1.haltEnter 4 r.kind else s1

/-! ### Scrubbing -/

/-- One code word, or DDR line, counted by a scrub (R363). -/
def scrubCount (sc : Scrub) (read corr unc addr : Nat) : Scrub :=
  let sc1 := { sc with read := satAt 32 (sc.read + read), corrected := satAt 32 (sc.corrected + corr),
                       uncorrectable := satAt 32 (sc.uncorrectable + unc) }
  if corr = 0 ∧ unc = 0 then sc1
  else { sc1 with first := if sc.first = 0 then addr else min sc.first addr, last := max sc.last addr }

/-- One SRAM or NV store code word is scrubbed (R361, R362): a corrected word is written back. -/
def scrubWord (l : MemLoc) (x : State × Scrub) (w : Nat) : State × Scrub :=
  let s := x.1.flushWord l w
  match s.markAt w with
  | none => (s, scrubCount x.2 1 0 0 w)
  | some (.corrected p) =>
    let s1 := (s.reportWord l w (.corrected p)).setMark w none
    (if l.kind = 7 then s1.nvCount w else s1, scrubCount x.2 1 1 0 w)
  | some m => (s.reportWord l w m, scrubCount x.2 1 0 1 w)

/-- One DDR line is scrubbed. -/
def scrubDdr (l : MemLoc) (x : State × Scrub) (line : Nat) : State × Scrub :=
  let (unc, _, n, _) := x.1.ddrDecode line
  let s1 := x.1.ddrReport l line
  if unc then (s1, scrubCount x.2 16 0 16 line)
  else (upto 16 (fun j s => s.setMark (line + 4 * j) none) s1, scrubCount x.2 16 n 0 line)

/-- The next line of a scrub after `line` in its controller (R343, R362). -/
def scrubNext (kind line : Nat) : Nat :=
  if kind = 8 ∧ (line + 64) % 512 = 0 then line + 64 + 1536 else line + 64

/-- The first line of DDR channel `ch` at or after `a`. -/
def ddrFirst (a ch : Nat) : Nat :=
  let b := a / 2048 * 2048
  if a < b + 512 * ch then b + 512 * ch else if a < b + 512 * (ch + 1) then a else b + 2048 + 512 * ch

/-- The seven words of a scrub's final reply (R321, R363). -/
def scrubWords (sc : Scrub) : List Word :=
  [sc.read, sc.corrected, sc.uncorrectable, sc.first, sc.first >>> 32, sc.last, sc.last >>> 32].map fun x => BitVec.ofNat 32 x

/-- SCRUB_LINE (R361 to R363): the controller in island `i` scrubs its next line; the last line ends the scrub. -/
def scrubLine (s : State) (i : Nat) : State :=
  match s.scrub with
  | none => s
  | some sc => match sc.next.find? fun n => n.1 = i with
    | none => s
    | some (_, line) => match memLoc s.ddrGiB line with
      | none => s
      | some l =>
        let (s1, sc1) :=
          if l.kind = 8 then scrubDdr l (s, sc) line
          else (List.range (64 / l.wsize)).foldl (fun x j => scrubWord l x (line + j * l.wsize)) (s, sc)
        let nx := scrubNext sc.kind line
        let next := sc1.next.filterMap fun n => if n.1 ≠ i then some n else if nx < sc.hi then some (i, nx) else none
        let sc2 := { sc1 with next := next, lines := sc1.lines + 1 }
        if next.isEmpty then { s1 with scrub := none }.finish sc.ticket sOk (scrubWords sc2)
        else { s1 with scrub := some sc2 }

/-- A scrub of `n` lines from `a` starts (R360, R362); none of no lines. -/
def scrubStart (s : State) (a n : Nat) (l : MemLoc) (t : Ticket) : State :=
  let hi := a + 64 * n
  let next := if l.kind = 8 then
      (List.range 4).filterMap fun c => if ddrFirst a c < hi then some (35 + c, ddrFirst a c) else none
    else [(l.island, a)]
  { s with scrub := some ⟨a, hi, l.kind, l.island, next, 0, 0, 0, 0, 0, 0, t⟩ }

end State

def execDdrInitComplete (ch : Fin 4) (s : State) : Result := .next (s.ddrInit ch.val)

def execDdrAlert (src : SrcId) (tag : BitVec 8) (line : BitVec 42) (attempts : Fin 5) (s : State) : Result :=
  .next (s.ddrAlert src.val tag.toNat (64 * line.toNat) attempts.val)

/-- DDR_REFRESH (R344): the controller's own business; no state that the spec gives changes. -/
def execDdrRefresh (_ch : Fin 4) (s : State) : Result := .next s

def execMergeBufferFlush (i : IslandId) (bank : Fin 64) (s : State) : Result := .next (s.mergeFlush i.val bank.val)

def execEccReport (i : IslandId) (concierge : Bool) (s : State) : Result := .next (s.eccReport i.val concierge)

/-- ECCCTL_CLEAR (R359): a write of 1 to CLR. -/
def execEccctlClear (u : Fin 9) (_src : SrcId) (s : State) : Result := .next (s.eccClear u.val)

def execScrubLine (i : IslandId) (ups : List Upset) (s : State) : Result := .next ((s.applyUpsets ups).scrubLine i.val)

end Sys2Proof.Machine
end

