-- ==== Sys2Proof/Machine/Reset.lean ====
section
/-! DEFINITION. The commands of modes, watchdog, Chrysalis, resets and boot (R341, R526 to R543, R557 to R560, R574, R607,
R613). -/

namespace Sys2Proof.Machine

namespace State

/-- The module is powered and out of reset. -/
def running (s : State) : Bool := s.rst.isNone && decide (s.mode ≠ mChrysalis)

/-! ### DRAIN and watchdog -/

/-- DRAIN_COMPLETE (R529): once no slot is in progress, started carriers return to set up and the mode becomes STANDBY. -/
def drainDone (s : State) : State :=
  if s.mode ≠ mDrain ∨ !(s.mapped.all fun c => c.2.slots.all fun x => !x.isOpen (cSlotNs c.2.words) s.ext) then s
  else (s.mapped.foldl (fun s c => if c.2.st = 2 then s.setCarrier c.1 (some { c.2 with st := 1, slots := [] }) else s) s).enterMode mStandby

/-- The hub watchdog runs (R530). -/
def wdtRuns (s : State) : Bool := s.running && decide (s.mode ≠ mBoot)

/-- WATCHDOG_KICK (R530). -/
def wdtKick (s : State) : State := if s.wdtRuns then { s with wdtAt := s.cyc } else s

/-- The module-wide reset whose hold is in progress, as recorded. -/
def withRst (s : State) (k : Nat) : State := { s with rst := some k }

/-- A WDT or CMD reset (R540): analog moves start and the Guestbook is flushed before it is asserted. -/
def flushReset (s : State) (kind : Nat) : State := (s.safeMoveAll.gbFlushNow).moduleReset kind kind

/-- WATCHDOG_EXPIRE (R530, R540). An expiry that coincides with a reset just asserted is recorded by the order of the reset
table (R15). -/
def wdtExpire (s : State) : State :=
  match s.rst with
  | some k => (s.wf PW_RSTKIND.adr PW_RSTKIND.KIND (min k kWdt)).withRst (min k kWdt)
  | none => if s.wdtRuns then s.flushReset kWdt else s

/-! ### Chrysalis (R532 to R539) -/

/-- The voters of the prepare phase but the hub core, which votes last: every powered domain except always-on (R533). -/
def voters (s : State) : List Nat := (List.range 351).filter fun d => s.domOn d && decide (d ≠ 322)

/-- Whether a voter refuses (R533): a region fabric whose pool holds a task, an Ethernet port with a timed entry. -/
def voterRefuses (s : State) (d : Nat) : Bool :=
  if d < 320 ∧ 264 ≤ d ∧ (d - 264) % 14 = 0 then !(sget s.inks ((d - 264) / 14) Ink.reset).pool.isEmpty
  else if 329 ≤ d ∧ d < 341 then
    (List.range 8).any fun q => (s.txqOf (d - 329) q).any fun e => e.lt.isSome && !e.started
  else false

/-- Whether a voter has finished quiescing (R512): line control once every move to a safe code has ended. -/
def voterQuiet (s : State) (d : Nat) : Bool := if d = 350 then (List.range 8).all fun c => !s.safeMoving c else true

/-- Whether the hub core refuses (R533): a scrub, a command answered ACCEPTED other than SLEEP_ENTER, a REG or CLU. -/
def hubRefuses (s : State) (t : Ticket) : Bool :=
  s.scrub.isSome || !s.rstJobs.isEmpty ||
    (List.range 63).any (fun i => decide ((s.isl i).phase ≠ .none) && decide ((s.isl i).kind ≠ kOn)) ||
    (List.range 16).any (fun n => decide ((if t.ring = some n then 1 else 0) < (s.ring n).opened)) ||
    (s.uartBusy && t.ring.isSome)

/-- Entry aborts (R534): the domain, whether it was silent. -/
def sleepAbort (s : State) (d : Nat) (silent : Bool) : State :=
  match s.sleep with
  | none => s
  | some sl =>
    let w := d + b2n silent * 2 ^ 31
    let s1 := (s.wb PW_SLEEPSTAT.adr PW_SLEEPSTAT.SILENT silent).wf PW_SLEEPSTAT.adr PW_SLEEPSTAT.DOMAIN d
    ((s1.raise 0x0D03 903 w sl.yes 0).sleepEnd sBusy [BitVec.ofNat 32 w]).tuneMoves

/-- Commit of Chrysalis entry (R535): the final OK; the always-on domain arms; every other domain but line control loses
power. HOLD stays in force until the wake. -/
def sleepCommit (s : State) (sl : Sleep) : State :=
  let s1 := s.gbFlushNow.finish sl.ticket sOk []
  let alarm := s1.reg PW_ALARM.adr
  let hold (c : Nat) := s1.rb (AO_CHSTAT.adr c) AO_CHSTAT.HOLD
  let armed := s1.setting 0x910
  let s2 := (s1.pinsReset.wipe kWake).setReg PW_ALARM.adr alarm
  let s3 := upto 8 (fun c s => s.wb (AO_CHSTAT.adr c) AO_CHSTAT.HOLD (hold c)) s2
  let s4 := upto 11 (fun w s => s.setReg (PW_DOMSTAT.adr w) (if w = 10 then 0xC0000000 else 0)) s3
  let s5 := upto 61 (fun i s => s.setIsl i { IslandSt.idle with iso := true }) s4
  { (s5.wf PW_MODE.adr PW_MODE.MODE mChrysalis).emit (.pin 1 false) with
    sleep := some { sl with waiting := [], committed := true, armed := armed, latched := [], latchSec := 0, held := [] }
    aonSec := 0, vddq := false, rst := none }

/-- Once every other voter has voted yes, the hub core votes last (R533, R535). -/
def hubVote (s : State) : State :=
  match s.sleep with
  | none => s
  | some sl =>
    if sl.committed ∨ !sl.waiting.isEmpty then s
    else if s.hubRefuses sl.ticket then s.sleepAbort 322 false
    else (s.wf PW_SLEEPSTAT.adr PW_SLEEPSTAT.YES (sl.yes + 1)).sleepCommit sl

/-- VOTER_VOTE (R533, R534). A vote of no comes from a voter that has ground to refuse. -/
def voterVote (s : State) (d : Nat) (yes : Bool) : State :=
  match s.sleep with
  | none => s
  | some sl =>
    if sl.committed ∨ !sl.waiting.contains d then s
    else if s.voterRefuses d then s.sleepAbort d false
    else if !yes ∨ !s.voterQuiet d then s
    else
      let sl' := { sl with waiting := sl.waiting.filter fun x => x ≠ d, yes := sl.yes + 1 }
      ({ s with sleep := some sl' }.wf PW_SLEEPSTAT.adr PW_SLEEPSTAT.YES sl'.yes).hubVote

/-- VOTE_TIMEOUT (R533, R534): a voter that has not voted is silent; the lowest-numbered domain is named. -/
def voteTimeout (s : State) : State :=
  match s.sleep with
  | none => s
  | some sl =>
    if sl.committed then s
    else match sl.waiting with
      | [] => s.hubVote
      | d :: ds =>
        let low := ds.foldl min d
        if s.hubRefuses sl.ticket ∧ 322 < low then s.sleepAbort 322 false else s.sleepAbort low true

/-- POWER_DOWN_COMPLETE (R535, R538). -/
def powerDown (s : State) : State :=
  match s.sleep with
  | some sl => if sl.committed then { s with sleep := some { sl with down := true } } else s
  | none => s

/-- A wake event of source `n` at `sec` seconds (R537, R538): only an armed source after commit is one. -/
def wakeEvent (s : State) (n sec : Nat) : State :=
  match s.sleep with
  | some sl =>
    if !sl.committed ∨ !bit sl.armed n ∨ sl.latched.contains n then s
    else if sl.latched.isEmpty then
      { s with sleep := some { sl with latched := [n], latchSec := sec, early := !sl.down }, aonSec := sec }
    else { s with sleep := some { sl with latched := sl.latched ++ [n] }, aonSec := sec }
  | none => s

/-- WAKE (R538, R539): once power-down is complete. -/
def wake (s : State) : State :=
  match s.sleep with
  | none => s
  | some sl =>
    match sl.latched with
    | [] => s
    | n :: ns =>
      if !sl.down then s else
        let w := ns.foldl min n
        let others := (sl.latched.filter fun x => x ≠ w).foldl (fun m x => m + 2 ^ x) 0
        let a := PW_WAKEREC.adr
        let s1 := (((s.wb a PW_WAKEREC.VALID true).wb a PW_WAKEREC.LATCHED sl.early).wf a PW_WAKEREC.WSRC w).wf a
          PW_WAKEREC.OTHERS others
        let s2 := ((s1.setReg PW_WAKESEC_LO.adr (sl.latchSec % 2 ^ 32)).setReg PW_WAKESEC_HI.adr (bits sl.latchSec 32 16)).wb
          PW_RSTCAUSE.adr PW_RSTCAUSE.WAKEF true
        let s3 := ((s2.setReg PW_ALARM.adr 0).emit (.pin 1 true)).emit (.pin 3 false)
        { s3 with vddq := true, wakeDrv := true, aonAlarm := 0 }.moduleReset kWake kWake

/-! ### Resets (R540) -/

/-- POWER_ON_RESET (R540, R613, R614): VIN below the brownout limit lowers VDDQ_EN and V18OUT. -/
def powerOnReset (s : State) (brownout : Bool) : State :=
  let s1 := s.moduleReset kPor kPor
  if brownout ∨ s.vddq then { (s1.emit (.pin 1 false)).emit (.pin 2 false) with vddq := false } else s1

/-- VDDQ_EN_RISE (R613, R614): during the hold of POR. -/
def vddqRise (s : State) : State :=
  if s.rst = some kPor ∧ !s.vddq then { (s.emit (.pin 1 true)).emit (.pin 2 true) with vddq := true } else s

/-- PIN and DBG of module scope (R540, R22): analog moves start. A module in Chrysalis powers up again. -/
def pinReset (s : State) (record : Nat) : State :=
  let s1 := if s.mode = mChrysalis then { s.emit (.pin 1 true) with vddq := true } else s
  s1.safeMoveAll.moduleReset kPin record

/-- DEBUG_RESET (R22, R540, R568): from the unlocked debug port. The reset-complete event of a region or a cluster reset so
names kind 5 REG or 6 CLU, whose sequence it obeys exactly, and not 7 DBG (DESIGN CHOICE, log entry 20). -/
def debugReset (s : State) (kind unit : Nat) : State :=
  if !s.rb SEC_STAT.adr SEC_STAT.DBGOPEN ∨ !s.running then s
  else match kind with
    | 0 => s.pinReset 5
    | 1 => s.localReset kReg (unit % 4) none
    | _ => s.localReset kClu unit none

/-! ### BOOT -/

/-- The monitor whose HALT action is taken as BOOT ends (R516): one that waits, or one whose limit is still passed. -/
def critHold (s : State) : Option Nat :=
  match s.haltPend with
  | some m => some m
  | none => [0, 1, 2, 3, 4, 5, 6, 8, 10, 11].find? fun m =>
      (s.mon m).passed.getD 2 false || (s.mon m).passed.getD 3 false

/-- BOOT ends in HALT, RECOVERY or CONFIGURE (R516, R527, R560). -/
def bootEnd (s : State) (recovery : Bool) : State :=
  match s.critHold with
  | some m => { s with haltPend := none }.haltEnter 1 m
  | none => if recovery then s.enterMode mRecovery else (s.enterMode mConfigure).promote

/-- What firmware puts in force before READY (R526, R545, R549, R557, R574, R593): settings of levels, lanes, monitors
and tuning, wear accounts, and the Guestbook's numbering with its first record. -/
def bootLoad (s : State) : State :=
  let lvl := s.setting 0x900
  let s1 := upto 28 (fun i s => (s.wf (PW_ISLAND.adr i) PW_ISLAND.ACTIVE lvl).wf (PW_ISLAND.adr i) PW_ISLAND.TARGET lvl) s
  let s2 := upto 40 (fun l s => s.setReg (LN_LANECFG.adr l) (s.setting (0x540 + l))) s1
  let w := match s2.tune with
    | some (_, w, _) => w
    | none => 0x800000
  let s3 := upto 12 (fun m s => s.monLoad m) (s2.wf TK_EFCW.adr TK_EFCW.W w)
  let s4 := (s3.ownSync.wearLoad.gbScan).synceSync
  let s5 := s4.gbRecord ⟨0x0F01, 923, s4.rf PW_RSTKIND.adr PW_RSTKIND.KIND, s4.rf PW_RSTCAUSE.adr PW_RSTCAUSE.COUNT,
    s4.reg PW_WAKEREC.adr⟩
  if s5.retired.isEmpty then s5 else upto 4 (fun r s => s.unitsSync r fun _ => true) s5

/-- RESET_HOLD_END (R541, R557, R559, R607): straps are sampled and BOOT runs up to READY. DDR trains then (R341); a module
without firmware ends BOOT in RECOVERY. -/
def holdEnd (s : State) (modid : Nat) (testEn : Bool) : State :=
  match s.rst with
  | none => s
  | some _ =>
    let s1 := { s with rst := none, modid := modid, testEn := testEn }
    if testEn then s1 else
      let (fw, s2) := s1.bootImages
      let s3 := s2.bootLoad
      if fw then
        upto 4 (fun c s => s.setIsl (35 + c) { s.isl (35 + c) with iso := true }) (s3.wb HUB_RINGGLB.adr HUB_RINGGLB.READY true)
      else s3.bootEnd true

/-- DDR_TRAIN_COMPLETE (R341, R342, R527): training ends, and BOOT with it. -/
def ddrTrain (s : State) (fail : Option Nat) : State :=
  if s.mode ≠ mBoot ∨ s.rst.isSome ∨ !s.rb HUB_RINGGLB.adr HUB_RINGGLB.READY then s else
    let g := s.setting 0x702
    let gib := geometryGiB g
    let dev := s.setting 0x703
    let wrong := decide (g = 0 ∨ gib ≤ dev)
    let s1 := upto 4 (fun c s => s.wf (HUB_DDRSTAT.adr c) HUB_DDRSTAT.GEOMETRY g) s
    match wrong, fail with
    | false, none =>
      let s2 := upto 4 (fun c s => s.wf (HUB_DDRSTAT.adr c) HUB_DDRSTAT.RATE (s.setting 0x701))
        { s1 with ddrGiB := gib, ddrDev := dev }
      s2.bootEnd (s2.rb NV_BOOTSTAT.adr NV_BOOTSTAT.FACTORY)
    | _, _ =>
      let sub := if wrong then 0xFF else fail.getD 0xFF
      let s2 := if wrong then s1 else s1.wb (HUB_DDRSTAT.adr (sub / 2)) HUB_DDRSTAT.TRAINFAIL true
      let s3 := upto 4 (fun c s => s.setIsl (35 + c) { s.isl (35 + c) with iso := false }) s2
      (s3.raise 0x0701 901 sub 0 0).bootEnd true

/-- HUB_CORE_FAULT (R19, R531). -/
def hubFault (s : State) : State := if s.rst.isSome then s else s.haltEnter 2 0

end State

def execDdrTrainComplete (fail : Option (Fin 8)) (s : State) : Result := .next (s.ddrTrain (fail.map Fin.val))

def execDrainComplete (s : State) : Result := .next s.drainDone

def execWatchdogKick (s : State) : Result := .next s.wdtKick

def execWatchdogExpire (s : State) : Result := .next s.wdtExpire

def execVoterVote (d : Fin 352) (yes : Bool) (s : State) : Result := .next (s.voterVote d.val yes)

def execVoteTimeout (s : State) : Result := .next s.voteTimeout

def execPowerDownComplete (s : State) : Result := .next s.powerDown

def execWakeNAssert (sec : BitVec 48) (s : State) : Result := .next (s.wakeEvent 0 sec.toNat)

/-- ALARM_EXPIRE (R537, R544): the seconds counter reaches the alarm value that the always-on island holds, when that is not
0. -/
def execAlarmExpire (s : State) : Result :=
  .next (if s.aonAlarm = 0 then s else s.wakeEvent 1 s.aonAlarm)

def execUartBreakWake (sec : BitVec 48) (s : State) : Result := .next (s.wakeEvent 2 sec.toNat)

/-- CARRIAGE_ENERGY_DETECT (R458, R537). -/
def execCarriageEnergyDetect (p : CpId) (sec : BitVec 48) (s : State) : Result := .next (s.wakeEvent (8 + p.val) sec.toNat)

def execWake (s : State) : Result := .next s.wake

def execPowerOnReset (brownout : Bool) (s : State) : Result := .next (s.powerOnReset brownout)

def execVddqEnRise (s : State) : Result := .next s.vddqRise

def execPinReset (s : State) : Result := .next (s.pinReset kPin)

/-- DEBUG_RESET: `kind` 0 module, 1 region, 2 cluster. -/
def execDebugReset (kind : Fin 3) (unit : Fin 24) (s : State) : Result := .next (s.debugReset kind.val unit.val)

def execResetHoldEnd (modid : Fin 16) (testEn : Bool) (s : State) : Result := .next (s.holdEnd modid.val testEn)

/-- WEAR_ACCOUNT_SAVE (R574). -/
def execWearAccountSave (powerFail : Bool) (s : State) : Result := .next (if s.running then s.wearSave powerFail else s)

def execHubCoreFault (s : State) : Result := .next s.hubFault

end Sys2Proof.Machine
end

