-- ==== Sys2Proof/Machine/HubCmd.lean ====
section
/-! DEFINITION. Command packets (R302, R317, R318, R321): the packet taken, the opcode table, the checks in their order, and
the handlers of the opcodes but those of carriers. -/

namespace Sys2Proof.Machine

/-- A packet as taken: opcode, header, its PLEN parameter words, and the ring it came on (none: the service UART). -/
structure Cmd where
  op : Nat
  hdr : PktHdr
  ws : List Word
  ring : Option Nat
  deriving DecidableEq, Repr

namespace Cmd

/-- Parameter word `i`. -/
def w (c : Cmd) (i : Nat) : Nat := (c.ws.getD i 0).toNat
def plen (c : Cmd) : Nat := c.hdr.plen.toNat
def tgt (c : Cmd) : Nat := c.hdr.target.toNat
/-- The 48-bit number of words `i` and `i + 1`. -/
def w48 (c : Cmd) (i : Nat) : Nat := c.w i + 2 ^ 32 * bits (c.w (i + 1)) 0 16
/-- What replies to the packet echo (R303); QUIET is FLAGS [0]. -/
def ticket (c : Cmd) : Ticket :=
  ⟨c.ring, c.op, c.hdr.tag.toNat, c.tgt, c.hdr.seq.toNat, bit c.hdr.flags.toNat 0⟩

end Cmd

/-- The mode sets of R321. -/
def setAny : List Nat := [1, 2, 3, 4, 5, 6, 7, 8, 9]
def setAnyHalt : List Nat := setAny ++ [mHalt]
def setOp : List Nat := [2, 3, 4, 5, 6, 7, 8]
def setSet : List Nat := [2, 3]
def setAir : List Nat := [4, 5, 6]

/-- A row of the opcode table (R321): opcode, least and largest PLEN, modes, T, U. -/
structure OpRow where
  op : Nat
  lo : Nat
  hi : Nat
  modes : List Nat
  t : Bool
  u : Bool
  deriving DecidableEq, Repr

/-- The opcodes (R321). -/
def opTable : List OpRow := [
  ⟨0x0101, 0, 0, setAnyHalt, false, true⟩, ⟨0x0102, 1, 1, setAny, false, true⟩,
  ⟨0x0103, 1, 1, setAnyHalt, false, true⟩, ⟨0x0104, 0, 0, setAnyHalt, false, true⟩,
  ⟨0x0105, 1, 4092, setAny, false, true⟩, ⟨0x0201, 1, 1, setAny, false, true⟩,
  ⟨0x0202, 1, 4092, setSet ++ [1], false, true⟩, ⟨0x0203, 1, 1, setAny, false, true⟩,
  ⟨0x0301, 52, 4092, setSet ++ setAir, false, false⟩, ⟨0x0302, 1, 1, setAir, true, false⟩,
  ⟨0x0303, 0, 0, setSet ++ setAir ++ [7], false, false⟩, ⟨0x0304, 0, 0, setOp, false, false⟩,
  ⟨0x0401, 2, 4092, setAir, true, false⟩, ⟨0x0402, 2, 4092, setAir, true, false⟩,
  ⟨0x0403, 2, 4092, setAir, true, false⟩, ⟨0x0501, 4, 4, setSet, false, false⟩,
  ⟨0x0502, 1, 1, setOp, false, false⟩, ⟨0x0503, 1, 1, setOp ++ [1], false, false⟩,
  ⟨0x0504, 0, 0, setAny, false, true⟩] ++ [
  ⟨0x0505, 2, 2, setSet ++ [8, 1], false, true⟩, ⟨0x0506, 2, 2, setSet ++ [8, 1], false, true⟩,
  ⟨0x0601, 0, 0, setAnyHalt, false, true⟩, ⟨0x0602, 4, 4, setSet, false, true⟩,
  ⟨0x0603, 1, 1, setOp ++ [1], false, true⟩, ⟨0x0604, 1, 1, setSet, false, false⟩,
  ⟨0x0605, 1, 1, setOp, false, false⟩, ⟨0x0701, 3, 3, setOp ++ [1], false, true⟩,
  ⟨0x0702, 1, 1, setAny, false, true⟩, ⟨0x0703, 1, 1, setOp ++ [1], false, true⟩,
  ⟨0x0704, 0, 0, setAny, false, true⟩, ⟨0x0705, 3, 3, [8, 1], false, true⟩,
  ⟨0x0706, 3, 1025, [8, 1], false, true⟩, ⟨0x0801, 0, 0, setAnyHalt, false, true⟩,
  ⟨0x0802, 2, 2, setAnyHalt, false, true⟩, ⟨0x0803, 2, 2, setSet ++ [8], false, false⟩,
  ⟨0x0901, 1, 1, setOp, false, false⟩, ⟨0x0902, 1, 1, setOp, false, false⟩,
  ⟨0x0903, 0, 0, setSet, false, true⟩, ⟨0x0904, 1, 1, setOp ++ [1], false, true⟩] ++ [
  ⟨0x0905, 0, 0, setAny, false, true⟩, ⟨0x0A01, 12, 12, setAny, false, true⟩,
  ⟨0x0A02, 0, 0, setAny, false, true⟩, ⟨0x0A03, 0, 0, setAny, false, true⟩,
  ⟨0x0A04, 24, 24, [8, 1], false, true⟩, ⟨0x0A05, 2, 2, setSet ++ [1], false, true⟩,
  ⟨0x0A06, 25, 25, setSet ++ [1], false, true⟩, ⟨0x0B01, 1, 1, [8], false, false⟩,
  ⟨0x0B02, 2, 2, [8], false, false⟩, ⟨0x0B03, 1, 1, [8, 1], false, true⟩,
  ⟨0x0C01, 2, 2, setSet ++ [1], false, true⟩, ⟨0x0C02, 2, 4092, [9], false, true⟩,
  ⟨0x0C03, 0, 0, [9], false, true⟩, ⟨0x0C04, 0, 0, [9], false, true⟩]

/-- The row of an opcode. -/
def opRow (op : Nat) : Option OpRow := opTable.find? fun r => r.op = op

/-- The opcodes of slot messages. -/
def isSlotMsg (op : Nat) : Bool := op = 0x0401 || op = 0x0402 || op = 0x0403

/-- The PDUs of a slot message body (R326), each with its envelope words; none when their NW do not fill the body. -/
def pdusOf : Nat → List Word → Option (List (List Word))
  | 0, ws => if ws.isEmpty then some [] else none
  | n + 1, ws => match ws with
    | [] => none
    | h :: _ =>
      let nw := bits h.toNat 16 8
      if nw = 0 ∨ ws.length < nw then none else (pdusOf n (ws.drop nw)).map fun ps => ws.take nw :: ps

namespace Cmd

/-- Check 2 of R317. -/
def lenOk (c : Cmd) (r : OpRow) : Bool :=
  r.lo ≤ c.plen && c.plen ≤ r.hi &&
    (match c.op with
     | 0x0202 => decide (c.plen = 1 + c.w 0 / 2 ^ 16)
     | 0x0301 => decide (c.plen = 52 + (bits (c.w 18) 0 16 + 15) / 16)
     | 0x0401 => (pdusOf (bits (c.w 0) 24 8) (c.ws.drop 2)).isSome
     | 0x0403 => (pdusOf (bits (c.w 0) 24 8) (c.ws.drop 2)).isSome
     | 0x0402 => decide (c.plen = 2 + 4 * bits (c.w 0) 24 8)
     | _ => true)

/-- How many targets the opcode numbers; none where it names the device. -/
def targets (c : Cmd) : Option Nat :=
  let g := c.op / 0x100
  if g = 3 ∨ g = 4 ∨ c.op = 0x0502 then some 512
  else match c.op with
    | 0x0501 => some 12
    | 0x0503 => some 8
    | 0x0504 => some 8
    | 0x0505 => some 8
    | 0x0506 => some 8
    | 0x0604 => some 12
    | 0x0901 => some 28
    | 0x0902 => some 352
    | 0x0B01 => some (if bit (c.w 0) 2 then 12 else 40)
    | 0x0B02 => some 40
    | _ => none

/-- TARGET is in range (R302, R321). -/
def tgtOk (c : Cmd) : Bool := match c.targets with
  | some n => c.tgt < n && (c.op ≠ 0x0506 || 6 ≤ c.tgt)
  | none => c.tgt = 0xFFFF

/-- The header's reserved bits are 0 and TARGET is in range (check 8 of R317). -/
def hdrOk (c : Cmd) : Bool := c.hdr.flags.toNat < 4 && c.hdr.resv = 0 && c.tgtOk

/-- The domains and islands of the target (checks 5 and 6 of R317). -/
def homes (c : Cmd) (region : Option Nat) : List (Nat × Nat) :=
  let port (p : Nat) := [(329 + p, 40 + p)]
  if !c.tgtOk then [] else
    match c.op with
    | 0x0501 => port c.tgt
    | 0x0604 => port c.tgt
    | 0x0503 => [(342 + c.tgt, 53 + c.tgt)]
    | 0x0504 => [(342 + c.tgt, 53 + c.tgt)]
    | 0x0505 => [(350, 61)]
    | 0x0506 => [(350, 61)]
    | 0x0902 => [(c.tgt, domHome c.tgt)]
    | 0x0901 => if c.tgt < 24 then [(11 * c.tgt, c.tgt)] else [(265 + 14 * (c.tgt - 24), c.tgt)]
    | 0x0B01 => if bit (c.w 0) 2 then port c.tgt else if c.tgt < 16 then [] else port ((c.tgt - 16) / 2)
    | 0x0B02 => if c.tgt < 16 then [] else port ((c.tgt - 16) / 2)
    | 0x0301 =>
      let r := bits (c.w 0) 24 8
      if r < 4 then [(264 + 14 * r, 28 + r), (265 + 14 * r, 24 + r)] else []
    | _ => match region with
      | some r => [(264 + 14 * r, 28 + r)]
      | none => []

end Cmd

namespace State

/-! ### Checks 3, 5 and 6 of R317 -/

/-- Whether MODE_SET to `m` is a change that R527 lists. Naming the mode in force changes nothing (DEDUCED, log
entry 16). -/
def modeMay (s : State) (m : Nat) : Bool :=
  let cur := s.mode
  if cur = m then true
  else if cur = mConfigure ∨ cur = mStandby then m ≠ mDrain
  else if cur = mRecovery then m = mTest
  else if setAir.contains cur then m = mDrain
  else if cur = mTest then
    let f := s.rf PW_MODE.adr PW_MODE.FROM
    m = f && (f = mConfigure || f = mStandby)
  else false

/-- The modes that MODE_SET may name (R321). -/
def modeNames : List Nat := [mConfigure, mStandby, mService, mDrain, mTest]

/-- The boot ROM is in control (R559). -/
def romRec (s : State) : Bool := s.rb NV_BOOTSTAT.adr NV_BOOTSTAT.ROMREC

/-- Check 3 of R317, with R316, R320, R527 and R559. -/
def modeOk (s : State) (c : Cmd) (r : OpRow) : Bool :=
  r.modes.contains s.mode && (c.ring.isSome || r.u) &&
    (!s.romRec || ((c.op = 0x0101 || c.op = 0x0104 || c.op = 0x0A02 || 0x0C00 ≤ c.op) &&
      (c.op ≠ 0x0C01 || bits (c.w 0) 0 2 ≠ 2))) &&
    (c.op ≠ 0x0102 || !modeNames.contains (bits (c.w 0) 0 4) || s.modeMay (bits (c.w 0) 0 4))

/-- The region of the carrier that a command targets. -/
def tgtRegion (s : State) (c : Cmd) : Option Nat := (s.carrier c.tgt).map fun x => cRegion x.words

/-- DDR is being initialised (R342). -/
def ddrBusy (s : State) : Bool := s.ddrGiB ≠ 0 && (List.range 4).any fun c => !s.rb (HUB_DDRSTAT.adr c) HUB_DDRSTAT.READY

/-- Whether two addresses lie in one scrub range (R360). -/
def scrubSame (gib a b : Nat) : Bool :=
  let size (l : MemLoc) : Nat := match l.kind with
    | 0 => 0x10000
    | 1 => 0x40000
    | 2 => 0x400000
    | 3 => 0x800000
    | 6 => 0x1000000
    | 7 => 0x2000000
    | _ => 0x40000000 * gib
  match memLoc gib a, memLoc gib b with
  | some l, some m =>
    l.kind = m.kind && (if l.kind = 8 then true else a / size l = b / size m)
  | _, _ => false

/-- Whether a SCRUB names lines of one range (R360); none at all do. -/
def scrubOk (s : State) (c : Cmd) : Bool :=
  c.w 2 = 0 || scrubSame s.ddrGiB (c.w48 0) (c.w48 0 + 64 * c.w 2 - 1)

/-- The domain, where it has one that can be off, and the island that hold the range of a SCRUB. -/
def scrubHomes (s : State) (c : Cmd) : List (Option Nat × Nat) :=
  if c.w 2 = 0 ∨ !s.scrubOk c then [] else
    let a := c.w48 0
    let i := ((memLoc s.ddrGiB a).getD ⟨0, 0, 0, 8⟩).island
    (islandDom i, i) ::
      (if 0x100000000 ≤ a ∧ a < 0x100000000 + 192 * 0x100000 then
        [(some ((a - 0x100000000) / 0x100000 / 8 * 11 + 1 + (a - 0x100000000) / 0x100000 % 8), i)] else [])

/-- The domains and islands of a command's target. -/
def tgtHomes (s : State) (c : Cmd) : List (Option Nat × Nat) :=
  if c.op = 0x0701 then s.scrubHomes c else (c.homes (s.tgtRegion c)).map fun h => (some h.1, h.2)

/-- Check 5 of R317. The state of its domain is what a DOMAIN_SET changes (R519), and does not stop it (DEDUCED, log entry 20). -/
def tgtOff (s : State) (c : Cmd) : Bool := c.op ≠ 0x0902 && (s.tgtHomes c).any fun h => h.1.any fun d => !s.domOn d
def tgtDead (s : State) (c : Cmd) : Bool := (s.tgtHomes c).any fun h => s.deadIsl h.2

/-! ### Answers -/

/-- BAD_PARAM unless `ok`. -/
def chk (s : State) (t : Ticket) (ok : Bool) (st : Nat) (f : State → State) : State := if ok then f s else s.answer t st []

/-- A command that is answered once, later: open until then (R313). -/
def hold (s : State) (t : Ticket) : State :=
  match t.ring with
  | some n => s.setRing n { s.ring n with opened := (s.ring n).opened + 1 }
  | none => { s with uartBusy := true }

def word (n : Nat) : Word := BitVec.ofNat 32 n

/-- A number as one word. -/
def wordZ (i : Int) : Word := BitVec.ofNat 32 (wrapTo 32 i)

/-! ### Device -/

/-- DEV_INFO (R321): the fields one word each, then the map; the last two words are not stated (free). The silicon revision and the
version of the firmware in force are the device's own (log entry 17). -/
def hDevInfo (s : State) (t : Ticket) : State :=
  let (f, s1) := s.drawWords 2
  s1.answer t sOk ([BitVec.ofNat 32 Config.otpPart.toNat, Config.siliconRev, Config.firmwareVersion (s.measure.take 2),
    word s.modid, word s.mode, word (s.rf NV_BOOTSTAT.adr NV_BOOTSTAT.BLEVEL)] ++ leWords 8 s.levelMap.toNat ++ f)

/-- The monitor summary (R321): for each monitor, whether it is beyond a WARN limit, then whether it is beyond a CRIT limit. Where the
bits stand is not stated (DESIGN CHOICE, log entry 17). -/
def monSummary (s : State) : Nat :=
  ((List.range 12).map fun m => (s.rf (AO_MON.adr m) AO_MON.WARN) * 2 ^ m + (s.rf (AO_MON.adr m) AO_MON.CRIT) * 2 ^ (m + 12)).sum

/-- STATUS_GET (R321): one word each; the last two words are not stated (free). -/
def hStatus (s : State) (t : Ticket) : State :=
  let (f, s1) := s.drawWords 2
  s1.answer t sOk ([word s.mode, word (s.rf PW_RSTKIND.adr PW_RSTKIND.KIND), word (s.reg TP_DEAD0.adr),
    word (s.reg TP_DEAD1.adr), word s.timeState, word s.monSummary] ++ f)

/-- MODE_SET (R321, R527). -/
def hModeSet (s : State) (c : Cmd) : State :=
  let t := c.ticket
  let m := c.w 0
  s.chk t (m < 16 && modeNames.contains m && (m ≠ mService || s.extSet)) sBadParam fun s =>
    let cur := s.mode
    let s1 := s.answer t sOk []
    if cur = m then s1
    else if m = mService then s1.enterMode s1.airMode
    else if m = mTest then (s1.enterMode mTest).wf PW_MODE.adr PW_MODE.FROM cur
    else (if cur = mTest then s1.leaveTest else s1).enterMode m

/-- DEV_RESET (R321, R540, R51). The unit field of kind 0 has no meaning. -/
def hReset (s : State) (c : Cmd) : State :=
  let t := c.ticket
  let w := c.w 0
  let k := bits w 0 2
  let u := bits w 8 5
  s.chk t (w &&& 0x1F03 = w && k < 3 && (k ≠ 1 || u < 4) && (k ≠ 2 || u < 24)) sBadParam fun s =>
    if k = 0 then (s.answer t sOk []).flushReset kCmd
    else (s.accept t).localReset (if k = 1 then kReg else kClu) u (some t)

/-! ### Settings (R545) -/

def hSettingGet (s : State) (c : Cmd) : State :=
  s.chk c.ticket (settingIds.contains (c.w 0)) sBadParam fun s => s.answer c.ticket sOk [word (s.setting (c.w 0))]

/-- A setting takes effect in the running device (R497, R508, R513, R514). LN_LANECFG is loaded at boot only (R398). -/
def applySetting (s : State) (id : Nat) : State :=
  if id = 0x602 then s.ownSync
  else if id = 0x608 then s.synceSync
  else if 0x800 ≤ id ∧ id < 0x808 then s.aoLoad (id - 0x800) false
  else if 0x810 ≤ id ∧ id < 0x818 then s.aoLoad (id - 0x810) false
  else if 0x820 ≤ id ∧ id < 0x82C then s.monLoad (id - 0x820)
  else s

/-- SETTING_SET (R321, R340, R497, R513). -/
def hSettingSet (s : State) (c : Cmd) : State :=
  let id := bits (c.w 0) 0 16
  let n := bits (c.w 0) 16 16
  let v := if n = 0 then factory id else c.w 1
  s.chk c.ticket (settingIds.contains id && n < 2 && !bootOnly id && settingOk id v &&
      !(0x800 ≤ id && id < 0x808 && bit v 16 != bit (s.setting id) 16)) sBadParam fun s =>
    ((s.putSetting id v).applySetting id).answer c.ticket sOk []

/-- SETTING_LIST (R321): for each setting its ID and N as in SETTING_SET, then its value (log entry 17). -/
def hSettingList (s : State) (c : Cmd) : State :=
  let first := bits (c.w 0) 0 16
  let n := bits (c.w 0) 16 16
  let ids := settingIds.filter fun i => first ≤ i
  s.chk c.ticket (first ≠ 0) sBadParam fun s =>
    s.answer c.ticket sOk ((ids.take (if n = 0 then 2046 else min n 2046)).flatMap fun i =>
      [word (i + 0x10000), word (s.setting i)])

/-! ### Ports, Carriage links -/

/-- FH_PORT_CFG (R321, R432). A MAC address of 0 has no stated meaning. -/
def hPortCfg (s : State) (c : Cmd) : State :=
  let mac := c.w48 0
  s.chk c.ticket (c.w 1 < 2 ^ 16 && mac ≠ 0 && c.w 2 < 2 ^ 15 && c.w 3 < 2) sBadParam fun s =>
    let p := c.tgt
    let old := s.reg (LN_PORTCFG.adr p)
    let v := setBits (setBits (setBits old 0 12 (bits (c.w 2) 0 12)) 12 3 (bits (c.w 2) 12 3)) 31 1 (c.w 3)
    let s1 := s.setEth p { s.ethOf p with mac := mac }
    (s1.busWrite 40 (LN_PORTCFG.adr p) (leBytes 4 v)).2.answer c.ticket sOk []

/-- CP_LINK_SET (R455). A request 2 outside run and power-save waits for run (DEDUCED, log entry 15). -/
def hCpLink (s : State) (c : Cmd) : State :=
  let t := c.ticket
  let p := c.tgt
  let k := bits (c.w 0) 0 2
  let rate := bits (c.w 0) 2 1
  let started := s.mapped.any fun e => cCat e.2.words = 3 && cCport e.2.words = p && decide (e.2.st ≠ 1)
  s.chk t (c.w 0 < 8 && k < 3) sBadParam fun s =>
    s.chk t (k = 0 || ((s.cp p).req.isNone && !(k = 2 && started))) sBusy fun s =>
      let s1 := s.accept t
      let st := s1.cpState p
      let pend (s : State) := s.setCp p { s.cp p with req := some ⟨k, rate, t⟩ }
      if k = 0 then ((s1.cpReqEnd p sBusy).cpDown p).finish t sOk []
      else if k = 1 then
        if st = 3 ∧ s1.cpRate p = rate then s1.finish t sOk []
        else if st = 3 then ((pend s1).setCp p { (pend s1).cp p with rate := rate }).cpRetrain p
        else if st = 0 then ((pend s1).setCp p { (pend s1).cp p with rate := rate }).setCpState p 1
        else if st = 5 then pend s1
        else (pend s1).setCp p { (pend s1).cp p with rate := rate }
      else if st = 3 then (s1.setCpState p 5).finish t sOk []
      else if st = 5 then s1.finish t sOk []
      else pend s1

/-- CP_LINK_STATUS (R464). -/
def hCpStatus (s : State) (c : Cmd) : State :=
  let p := c.tgt
  let f (x : Fld) : Nat := s.rf (CP_STAT.adr p) x
  s.answer c.ticket sOk ([word (f CP_STAT.STATE + 8 * f CP_STAT.RATE + 16 * f CP_STAT.TXTAB + 32 * f CP_STAT.RXTAB +
      64 * max (f CP_STAT.TXSWP) (f CP_STAT.RXSWP)), word (s.reg (CP_DELAY.adr p))] ++
    (List.range 4).map (fun q => word (s.reg (CP_LOAD.adr p q))) ++
    [word (s.reg (CP_CNT.adr p 1)), word (s.reg (CP_CNT.adr p 2))])

/-! ### Analog outputs (R504, R505) -/

/-- Whether a carrier names an analog channel (R290). -/
def chanNamed (s : State) (ch : Nat) : Bool := s.mapped.any fun e => cPaenv e.2.words ≠ 0 && cPaenv e.2.words + 1 = ch

/-- AO_SET (R321, R503 to R505, R508, R511). -/
def hAoSet (s : State) (c : Cmd) : State :=
  let t := c.ticket
  let ch := c.tgt
  let code := bits (c.w 0) 0 16
  let a := s.chan ch
  s.chk t (c.w 0 < 2 ^ 17 && c.w 1 < 2 ^ 28) sBadParam fun s =>
    s.chk t (!s.chanNamed ch && !s.tkOwns ch && a.steps.isEmpty && !s.aoFault ch && !s.safeMoving ch && !a.clamped) sBusy fun s =>
      let s1 := s.answer t sOk []
      if bit (c.w 0) 16 then s1.aoSlew ch code (bits (c.w 1) 0 12 + 1) (bits (c.w 1) 12 16 + 1) false
      else if s.mode = mTest ∨ s.mode = mRecovery then s1.aoSlew ch code (s.aoProfile ch).1 (s.aoProfile ch).2 false
      else s1.aoDirect ch code

/-- AO_STEP (R321, R487): Concierge writes the step to TK_AOSTEP with FINAL 0. -/
def hAoStep (s : State) (c : Cmd) : State :=
  let t := c.ticket
  let ch := c.tgt
  s.chk t (c.w 0 < 2 ^ 16) sBadParam fun s =>
    s.chk t (decide ((s.chan ch).steps.length < 32) && !s.aoFault ch && !s.safeMoving ch) sBusy fun s =>
      (s.aoStepWrite 40 true (c.w 1 + 2 ^ 32 * c.w 0 + 2 ^ 48 * ch)).answer t sOk []

/-! ### Time -/

/-- TIME_GET (R321): TAI seconds in words 0 and 1, with the time state in the upper half of word 1 (DEDUCED: four words hold the four
fields in no other way with each in its word; log entry 17), nanoseconds, TAI − UTC. -/
def hTimeGet (s : State) (t : Ticket) : State :=
  let sec := s.ext / 10 ^ 9
  s.answer t sOk [word (sec % 2 ^ 32), word (bits sec 32 16 + 2 ^ 16 * s.timeState), word (s.ext % 10 ^ 9), wordZ s.taiUtc]

/-- A step discards the timed entries that wait at every port, each with its late event (R482); their lateness is not
stated. -/
def stepDropTx (s : State) : State :=
  upto 12 (fun p s => upto 8 (fun q s =>
    let drop (e : TxEnt) : Bool := e.lt.isSome && !e.started
    let es := s.txqOf p q
    if es.any drop then
      (es.filter drop).foldl (fun s e =>
        let (l, s) := s.draw 32
        (s.incSat TK_DROP.adr TK_DROP.LATE 1).raise 0x090C (ethSrc p) q (e.lt.getD 0) l)
        (s.setTxq p q (es.filter fun e => !drop e))
    else s) s) s

/-- A step of time applies (R44, R482): `d` is the change of extended time, and `tk` whether TK_NS moves with it. -/
def timeStep (s : State) (d : Int) (tk : Bool) : State :=
  let s1 := s.holdReplicas
  let s2 := { s1 with ext := (((s.ext : Int) + d) % (2 ^ 48 * 10 ^ 9)).toNat,
                      tkns := if tk then wrapTo 32 ((s.tkns : Int) + d) else s.tkns }
  let s3 := (upto 8 (fun c s => s.dropSteps c) s2.anchorWrite.stepDropTx)
  s3.raise 0x0106 902 (wrapTo 64 d % 2 ^ 32) (wrapTo 64 d >>> 32) 0

/-- TIME_STEP (R321, R482). -/
def hTimeStep (s : State) (c : Cmd) : State :=
  let t := c.ticket
  let sec := c.w48 1
  let ns := c.w 3
  s.chk t (c.w 0 < 2 && c.w 2 < 2 ^ 16 && ns < 10 ^ 9) sBadParam fun s =>
    let d : Int := if c.w 0 = 1 then ((sec * 10 ^ 9 + ns : Nat) : Int) - s.ext else sgn 48 sec * 10 ^ 9 + ns
    if c.w 0 = 1 then
      (if s.extSet then s.timeStep d true else (s.setExtSet).timeStep d false).answer t sOk []
    else if d = 0 then s.answer t sOk []
    else (s.timeStep d true).answer t sOk []

/-- UTC_OFFSET (R492). -/
def hUtc (s : State) (c : Cmd) : State :=
  ({ s with utcSet := true }.wf TK_ANCHOR.adr TK_ANCHOR.TAIUTC (c.w 0)).answer c.ticket sOk []

/-- PTP_CFG (R321, R491): another domain starts without an Announce. -/
def hPtpCfg (s : State) (c : Cmd) : State :=
  let d := bits (c.w 0) 0 8
  s.chk c.ticket (c.w 0 < 2 ^ 11 && 24 ≤ d && d ≤ 43) sBadParam fun s =>
    let o := s.ptpOf c.tgt
    let n : Ptp := if o.domain = d then o else { Ptp.reset with domain := d }
    (s.setPtp c.tgt { n with role := bits (c.w 0) 8 2, twoStep := bit (c.w 0) 10 }).answer c.ticket sOk []

/-- SYNC_SRC (R321, R477, R491). -/
def hSyncSrc (s : State) (c : Cmd) : State :=
  let src := bits (c.w 0) 0 3
  let port := bits (c.w 0) 4 4
  let named := src = 1 || src = 3
  s.chk c.ticket (c.w 0 &&& 0xF7 = c.w 0 && src < 4 && (!named || port < 12) &&
      (src ≠ 1 || (s.ptpOf port).role = 1 || (s.ptpOf port).role = 3)) sBadParam fun s =>
    (s.setSource src (if named then port else 0)).answer c.ticket sOk []

/-! ### Memories -/

/-- SCRUB (R321, R342, R360). -/
def hScrub (s : State) (c : Cmd) : State :=
  let t := c.ticket
  let a := c.w48 0
  let n := c.w 2
  let l := (memLoc s.ddrGiB a).getD ⟨0, 0, 0, 8⟩
  s.chk t (c.w 1 < 2 ^ 16 && a % 64 = 0 && s.scrubOk c) sBadParam fun s =>
    s.chk t (s.scrub.isNone && !(n ≠ 0 && l.kind = 8 && s.ddrBusy)) sBusy fun s =>
      if n = 0 then s.acceptFinish t sOk (List.replicate 7 0) else (s.accept t).scrubStart a n l t

/-- ECC_GET (R321): counters, then the addresses of the table's entries with their second words (log entry 17). -/
def hEccGet (s : State) (c : Cmd) : State :=
  let u := c.w 0
  s.chk c.ticket (u < 9) sBadParam fun s =>
    let es := (List.range 32).filter fun i => s.eccTaken u i
    s.answer c.ticket sOk ([word (s.reg (HUB_CECNT.adr u)), word (s.reg (HUB_UECNT.adr u)), word (s.reg (HUB_ECCDROP.adr u))] ++
      es.flatMap fun i => [word (s.reg (eccEnt u i 0)), word (s.reg (eccEnt u i 1))])

def hEccClear (s : State) (c : Cmd) : State :=
  s.chk c.ticket (c.w 0 < 9) sBadParam fun s => (s.eccClear (c.w 0)).answer c.ticket sOk []

/-- RETIRE_GET (R368). -/
def hRetire (s : State) (t : Ticket) : State :=
  s.answer t sOk (word s.retired.length :: s.retired.flatMap fun e => [word (e.1 % 2 ^ 32), word (e.1 >>> 32)])

/-- The answer to an access of MEM_READ or MEM_WRITE by its first failing STATUS (DEDUCED, log entry 18). -/
def memStatus (f : Option (Nat × Nat)) : Nat := match f with
  | some (st, _) => if st = stAsleep then sAsleep else if st = stDead then sDead else if st = stDecodeError then sBadParam else sOk
  | none => sOk

/-- Whether an access of `n` bytes reaches DDR while it is being initialised (R342). -/
def memBusy (s : State) (a n : Nat) : Bool :=
  s.ddrBusy && decide (0x10000000000 < a + n ∧ a < 0x10000000000 + s.ddrGiB * 0x40000000)

/-- MEM_READ (R321). -/
def hMemRead (s : State) (c : Cmd) : State :=
  let t := c.ticket
  let a := c.w48 0
  let n := c.w 2
  s.chk t (c.w 1 < 2 ^ 16 && a % 4 = 0 && 1 ≤ n && n ≤ 1023) sBadParam fun s =>
    s.chk t (!s.memBusy a (4 * n)) sBusy fun s =>
      let (f, bs, s1) := s.busRead 40 a (4 * n)
      s1.answer t (memStatus f) (bytesWords bs)

/-- A write of MEM_WRITE within one line, as Concierge's; R14 does not name the command among the writers of the NV store, so that
its lines are refused as R547 states (DEDUCED, log entry 18). -/
def memLine (s : State) (a : Nat) (bs : List Byte) : Option (Nat × Nat) × State :=
  if nvBase ≤ a ∧ (nvArea a).isSome then (some (stDecodeError, a), s.raise 0x0E01 922 40 (a / 64 * 64 - nvBase) 0)
  else s.busWrite 40 a bs

/-- MEM_WRITE's writes. A line that its target does not take stops the command before any is written: no part of a rejected command
takes effect (R317). -/
def memWrite (s : State) (a : Nat) (bs : List Byte) : Option (Nat × Nat) × State :=
  let ps := (pieces (bs.length / 64 + 2) a bs.length).map fun p => (p.1, (bs.drop (p.1 - a)).take p.2)
  match ps.find? fun p => (s.memLine p.1 p.2).1.isSome with
  | some p => s.memLine p.1 p.2
  | none => ps.foldl (fun (r : Option (Nat × Nat) × State) p =>
      let (e, s1) := r.2.memLine p.1 p.2
      (r.1.orElse fun _ => e, s1)) (none, s)

/-- MEM_WRITE (R321). -/
def hMemWrite (s : State) (c : Cmd) : State :=
  let t := c.ticket
  let a := c.w48 0
  s.chk t (c.w 1 < 2 ^ 16 && a % 4 = 0) sBadParam fun s =>
    s.chk t (!s.memBusy a (4 * (c.plen - 2))) sBusy fun s =>
      let (f, s1) := s.memWrite a (wordBytes (c.ws.drop 2))
      s1.answer t (memStatus f) []

/-! ### Guestbook -/

/-- GB_FLUSH (R590). -/
def hGbFlush (s : State) (t : Ticket) : State :=
  let s1 := s.accept t
  { s1 with gbWait := s1.gbWait ++ [(t, s1.gbHead)] }.gbTrigger true

/-- GB_READ (R595): what reading the log reports. -/
def hGbRead (s : State) (c : Cmd) : State :=
  s.chk c.ticket (c.w 1 < 128) sBadParam fun s =>
    (s.nvScan (nvBase + 0x1000000) 0x400000).answer c.ticket sOk (s.gbRead (c.w 0) (c.w 1))

/-- EVT_ROUTE (R321, R580). -/
def hEvtRoute (s : State) (c : Cmd) : State :=
  s.chk c.ticket (c.w 0 < 1536 && c.w 1 < 2 ^ 27) sBadParam fun s =>
    (s.setReg (GB_ROUTE.adr (c.w 0)) (c.w 1)).answer c.ticket sOk []

/-! ### Alarm, power -/

/-- ALARM_SET (R537, R544). -/
def hAlarm (s : State) (c : Cmd) : State := (s.setReg PW_ALARM.adr (c.w 0)).aonSend.answer c.ticket sOk []

/-- POWER_GET (R321): VIN, input power, the 28 levels and the domains on, in this order (log entry 17). -/
def hPower (s : State) (t : Ticket) : State :=
  s.answer t sOk ([word (s.rf (AO_MON.adr 7) AO_MON.VALUE), word (s.rf (AO_MON.adr 11) AO_MON.VALUE)] ++
    ((List.range 28).map fun i => word (s.rf (PW_ISLAND.adr i) PW_ISLAND.ACTIVE)) ++
    ((List.range 11).map fun i => word (s.reg (PW_DOMSTAT.adr i))))

/-! ### Chrysalis -/

/-- SLEEP_ENTER (R512, R532, R533): prepare goes to every voter; the Guestbook flush and the moves to the safe codes start. -/
def hSleep (s : State) (t : Ticket) : State :=
  let s1 := s.accept t
  let s2 := { s1 with sleep := some ⟨t, s1.voters, 0, false, [], 0, false, false, 0, []⟩ }
  (((s2.setReg PW_SLEEPSTAT.adr 0).wb PW_SLEEPSTAT.adr PW_SLEEPSTAT.PREP true).safeMoveAll).gbTrigger true

/-! ### Security -/

/-- ATTEST (R566). -/
def hAttest (s : State) (c : Cmd) : State :=
  let b := NV_BOOTSTAT.adr
  let flags := s.rf SEC_STAT.adr SEC_STAT.DBGOPEN + 2 * s.rf b NV_BOOTSTAT.FACTORY +
    (if s.rf b ⟨24, 3⟩ = 0 then 0 else 4) + 8 * s.rf b NV_BOOTSTAT.ROMREC
  let fuses := s.fuseCount 0 + 2 ^ 8 * s.fuseCount 1 + 2 ^ 16 * s.fuseCount 2 + 2 ^ 24 * s.rf NV_FUSE.adr ⟨28, 4⟩
  let rep := leBytes 4 0x54544131 ++ leBytes 2 1 ++ leBytes 1 (s.rf b NV_BOOTSTAT.BLEVEL) ++ leBytes 1 s.mode ++
    leBytes 8 Config.otpSerial.toNat ++ leBytes 4 flags ++ leBytes 4 fuses ++
    leBytes 8 (s.ext / 10 ^ 9 % 2 ^ 48 + 2 ^ 63 * b2n s.extSet) ++ wordBytes c.ws ++
    s.measure.flatMap (fun h => beBytes 48 h.toNat)
  s.answer c.ticket sOk (bytesWords (rep ++ beBytes 96 (Config.identitySign (Config.sha384 rep)).toNat))

/-- ID_GET (R565). -/
def hIdGet (s : State) (t : Ticket) : State :=
  s.answer t sOk (bytesWords (beBytes 96 Config.identityKey.toNat ++ leBytes 8 Config.otpSerial.toNat ++
    leBytes 4 Config.otpPart.toNat ++ beBytes 108 Config.identityCert.toNat))

/-- The 32 bytes of a challenge (R567). -/
def chalBytes (r : BitVec 192) : List Byte := leBytes 24 r.toNat ++ leBytes 8 Config.otpSerial.toNat

/-- DBG_CHALLENGE (R567): the random part is free. -/
def hChallenge (s : State) (t : Ticket) : State :=
  s.chk t (s.rf SEC_STAT.adr SEC_STAT.FAILS < 8) sBusy fun s =>
    let (r, s1) := s.draw 192
    ({ s1 with challenge := some (BitVec.ofNat 192 r) }.wb SEC_STAT.adr SEC_STAT.CHALV true).answer t sOk
      (bytesWords (chalBytes (BitVec.ofNat 192 r)))

/-- A signature as it comes in parameter words. -/
def sigWords (ws : List Word) : BitVec 768 := BitVec.ofNat 768 (beVal (wordBytes ws))

/-- DBG_UNLOCK (R567, R568): the lowest-numbered unrevoked slot whose key record verifies the signature. -/
def hUnlock (s : State) (c : Cmd) : State :=
  let slot := match s.challenge with
    | none => none
    | some r => if s.setting 0xA01 = 0 then none else
      (List.range 4).find? fun k => !s.revoked k && (match sget s.keyRecs k none with
        | some key => Config.ecdsaVerify key (Config.sha384 (chalBytes r)) (sigWords c.ws)
        | none => false)
  let a := SEC_STAT.adr
  let s1 := { s with challenge := none }.wb a SEC_STAT.CHALV false
  match slot with
  | none => (s1.wf a SEC_STAT.FAILS (min 8 (s1.rf a SEC_STAT.FAILS + 1))).answer c.ticket sAuthFail []
  | some k => (((s1.wb a SEC_STAT.DBGOPEN true).wf a SEC_STAT.UNLSLOT k).raise 0x0E06 921 k 0 0).answer c.ticket sOk []

/-- The slot of class 2 that was booted. -/
def imageSlot (s : State) : Nat := slotAddr 2 (s.rf NV_BOOTSTAT.adr NV_BOOTSTAT.SLOT / 4)

/-- IMAGE_EXPORT (R564). -/
def hExport (s : State) (c : Cmd) : State :=
  let a := s.imageSlot
  let o := c.w 0
  let n := c.w 1
  s.chk c.ticket (1 ≤ n && n ≤ 4092 && o % 4 = 0 && !s.rb NV_BOOTSTAT.adr NV_BOOTSTAT.FACTORY &&
      decide (o + 4 * n ≤ (s.hdrAt a).length)) sBadParam fun s =>
    (s.nvScan (a + o) (4 * n)).answer c.ticket sOk (bytesWords (s.nvBytes (a + o) (4 * n)))

/-- Whether the active or candidate container of any class of slot `k`'s pair was signed with `k` (R553). -/
def keyUsed (s : State) (k : Nat) : Bool :=
  let r := s.bootRec
  (if k < 2 then [0, 1] else [2]).any fun c =>
    (r.active.getD c 0 :: (r.cand.getD c none).toList).any fun b =>
      let h := s.hdrAt (slotAddr c b)
      h.ok c && h.keySlot = k

/-- KEY_REVOKE (R553). -/
def hRevoke (s : State) (c : Cmd) : State :=
  let k := c.w 0
  let m := leBytes 4 0x4B565231 ++ leBytes 1 k ++ leBytes 1 (k ^^^ 1) ++ List.replicate 10 0
  let good := match sget s.keyRecs (k ^^^ 1) none with
    | some key => Config.ecdsaVerify key (Config.sha384 m) (sigWords (c.ws.drop 1))
    | none => false
  s.chk c.ticket (k < 4 && !s.revoked k && !s.revoked (k ^^^ 1) && !s.keyUsed k) sBadParam fun s =>
    s.chk c.ticket good sAuthFail fun s =>
      ((s.wf NV_FUSE.adr ⟨28 + k, 1⟩ 1).raise 0x0E03 921 k 0 0).answer c.ticket sOk []

/-! ### Tests of lanes -/

/-- LOOP_SET (R401, R402). -/
def hLoop (s : State) (c : Cmd) : State :=
  let t := c.ticket
  let k := bits (c.w 0) 0 2
  let isPort := bit (c.w 0) 2
  s.chk t (c.w 0 < 8 && (isPort || 16 ≤ c.tgt)) sBadParam fun s =>
    let p := if isPort then c.tgt else (c.tgt - 16) / 2
    let lanes := (List.range 2).any fun i => s.rf (LN_LANESTAT.adr (portLane p + i)) LN_LANESTAT.LOOP ≠ 0 && (s.ethOf p).loop = 0
    s.chk t (if isPort then !lanes else (s.ethOf p).loop = 0) sBusy fun s =>
      let s1 := if isPort then
          upto 2 (fun i s => s.wf (LN_LANESTAT.adr (portLane p + i)) LN_LANESTAT.LOOP k) (s.setEth p { s.ethOf p with loop := k })
        else s.wf (LN_LANESTAT.adr c.tgt) LN_LANESTAT.LOOP k
      s1.answer t sOk []

/-- PRBS_RUN (R401 to R403). -/
def hPrbs (s : State) (c : Cmd) : State :=
  let t := c.ticket
  s.chk t (16 ≤ c.tgt && (c.w 0 = 1 || c.w 0 = 2) && 1 ≤ c.w 1 && c.w 1 < 2 ^ 16) sBadParam fun s =>
    s.chk t (sget s.prbs c.tgt none).isNone sBusy fun s =>
      let s1 := s.accept t
      { s1 with prbs := sput s1.prbs c.tgt (some t) none }

/-- PRBS_RUN_END (R403). -/
def prbsEnd (s : State) (l cmp errs : Nat) (lost : Bool) : State :=
  match sget s.prbs l none with
  | none => s
  | some t => { s with prbs := sput s.prbs l none none }.finish t sOk (leWords 2 cmp ++ leWords 2 errs ++ [word (b2n lost)])

/-- SELFTEST (R321): the mask is not 0; one runs at a time. -/
def hSelfTest (s : State) (c : Cmd) : State :=
  s.chk c.ticket (c.w 0 ≠ 0) sBadParam fun s =>
    s.chk c.ticket s.selfTest.isNone sBusy fun s => { s.accept c.ticket with selfTest := some c.ticket }

/-- SELFTEST_COMPLETE: what the reply holds comes from the tests. -/
def selfTestEnd (s : State) (ws : List Word) : State :=
  match s.selfTest with
  | some t => { s with selfTest := none }.finish t sOk (ws.take 4092)
  | none => s

/-! ### Updates (R561, R562) -/

/-- UPD_BEGIN (R561). -/
def hUpdBegin (s : State) (c : Cmd) : State :=
  let k := c.w 0
  let n := c.w 1
  s.chk c.ticket (k < 3 && n % 4 = 0 && 256 ≤ n && decide (n ≤ (nvSlot k 0).2)) sBadParam fun s =>
    s.chk c.ticket s.update.isNone sBusy fun s =>
      let r := s.bootRec
      let b := 1 - r.active.getD k 0
      let s1 := if r.cand.getD k none = some b then
          s.writeBoot { r with cand := lset r.cand k none, trial := lset r.trial k false }
        else s
      let from_ := s1.mode
      (({ s1 with update := some ⟨k, b, n, from_, none⟩ }.enterMode mUpdate).wf PW_MODE.adr PW_MODE.FROM from_).answer
        c.ticket sOk []

/-- UPD_CHUNK (R561). -/
def hUpdChunk (s : State) (c : Cmd) : State :=
  match s.update with
  | none => s.answer c.ticket sBadParam []
  | some u =>
    s.chk c.ticket (c.w 0 % 4 = 0 && decide (c.w 0 + 4 * (c.plen - 1) ≤ u.total)) sBadParam fun s =>
      s.chk c.ticket u.commit.isNone sBusy fun s =>
        (s.nvWrite (slotAddr u.cls u.slot + c.w 0) (wordBytes (c.ws.drop 1))).answer c.ticket sOk []

/-- The update is closed and the mode is the one it was entered from (R527, R562). -/
def updClose (s : State) (u : Update) : State := { s with update := none }.enterMode u.from_

/-- UPD_COMMIT (R562): a BAD_PARAM check that fails is the final reply. -/
def hUpdCommit (s : State) (t : Ticket) : State :=
  match s.update with
  | none => s.answer t sBadParam []
  | some u =>
    s.chk t u.commit.isNone sBusy fun s =>
      if !s.commitParam u then (s.answer t sBadParam []).updClose u
      else { s.accept t with update := some { u with commit := some t } }

/-- UPD_VERIFY_COMPLETE (R562). -/
def updVerify (s0 : State) : State :=
  match s0.update with
  | some u => match u.commit with
    | some t =>
      let s := s0.slotRead u.cls u.slot
      if s.authOk (slotAddr u.cls u.slot) u.cls (s.hdrAt (slotAddr u.cls u.slot)) then
        ((s.commitDone u).finish t sOk []).updClose u
      else (s.finish t sAuthFail []).updClose u
    | none => s0
  | none => s0

/-- UPD_ABORT (R321, R527). -/
def hUpdAbort (s : State) (t : Ticket) : State :=
  match s.update with
  | none => s.answer t sBadParam []
  | some u => s.chk t u.commit.isNone sBusy fun s => (s.answer t sOk []).updClose u

end State

end Sys2Proof.Machine
end

