-- ==== Sys2Proof/Machine/CellFit.lean ====
section
/-! DEFINITION. The capacity worksheet (R295 to R300): costs of a carrier, the sums of a region and of the device, and the
loads of the fronthaul ports. -/

namespace Sys2Proof.Machine

/-- The costs of R297, in thousandths: VDC, CFFT, DEC, ENC, POL, TRB, DMP, DET in per cent, streams, DDR in per cent. -/
def costA : List Nat := [32000, 8000, 24000, 12000, 6000, 0, 10000, 18000, 64000, 6000]
def costA64 : List Nat := [34000, 8000, 24000, 12000, 6000, 0, 10000, 45000, 64000, 7000]
def costB : List Nat := [7500, 1500, 8000, 4000, 800, 0, 6500, 2000, 4000, 1500]
def costBC : List Nat := [8000, 3000, 8000, 4000, 800, 0, 6500, 2000, 4000, 1500]
def costC : List Nat := [1900, 500, 0, 0, 0, 2000, 1200, 500, 4000, 350]
def costN : List Nat := [550, 100, 0, 0, 0, 500, 100, 50, 1000, 20]
def costE : List Nat := [85000, 20000, 40000, 30000, 10000, 0, 15000, 25000, 4000, 12000]

/-- The row of R297 that describes a carrier; none when no row does. -/
def rowCost (ws : List Word) : Option (List Nat) :=
  let nr100 := cRat ws = 1 && cMu ws = 1 && cNprb ws = 273 && cDuplex ws = 1
  let four := cNant ws = 4 && (cCat ws ≠ 2 || (cNdls ws = 4 && cNrxp ws = 4))
  if nr100 && cCat ws = 2 && cNant ws = 64 && cNdls ws = 16 && cNrxp ws = 16 then some costA
  else if nr100 && cCat ws = 2 && cNant ws = 64 && cNdls ws = 16 && cNrxp ws = 64 then some costA64
  else if nr100 && four then some (if cCat ws = 3 then costBC else costB)
  else if cRat ws = 2 && cNprb ws = 100 && cDuplex ws = 0 && four then some costC
  else if cRat ws = 3 && cNant ws ≤ 2 then some costN
  else if cRat ws = 1 && cMu ws = 3 && cNprb ws = 264 && ((cCat ws = 1 && cNant ws = 4) || (cCat ws = 2 && cNdls ws = 4 && cNrxp ws = 4)) then
    some costE
  else none

/-- Symbols of the pattern of a kind: 0 downlink, 1 uplink. -/
def patCount (ws : List Word) (k : Nat) : Nat := ((List.range (cNsympat ws)).filter fun i => cPat ws i = k).length

/-- What multiplies column `k` of a carrier by its pattern (R298), as a fraction. -/
def patScale (ws : List Word) (k : Nat) : Nat × Nat :=
  let n := cNsympat ws
  let u := patCount ws 1
  let d := patCount ws 0
  if cDuplex ws = 0 ∨ n = 0 ∨ (u * 70 ≤ 16 * n ∧ d * 70 ≤ 52 * n) then (1, 1)
  else
    let fu := (u * 70, 16 * n)
    let fd := (d * 70, 52 * n)
    if k = 2 ∨ k = 4 ∨ k = 6 ∨ k = 7 then fu
    else if k = 3 then fd
    else if k ≤ 1 then (if fd.1 * fu.2 ≤ fu.1 * fd.2 then fu else fd)
    else (1, 1)

/-- The sum of two fractions with positive denominators. -/
def fracAdd (a b : Nat × Nat) : Nat × Nat := if a.2 = b.2 then (a.1 + b.1, a.2) else (a.1 * b.2 + b.1 * a.2, a.2 * b.2)

/-- The sum of column `k` ov carriers, in thousandths. -/
def colSum (cs : List Carrier) (k : Nat) : Nat × Nat :=
  (cs.map fun c => let f := patScale c.words k; (c.cost.getD k 0 * f.1, f.2)).foldl fracAdd (0, 1)

/-- Cluster frequency of a level in MHz (R524), and accelerator frequency (R222). -/
def cluMHz (lvl : Nat) : Nat := [400, 700, 1000, 1200, 1400, 1600].getD lvl 1600
def accMHz (lvl : Nat) : Nat := [300, 525, 750, 900, 1050, 1200].getD lvl 1200

/-- Bit/s of a stream of a carrier (R300); a carrier that shares its partner's streams adds none (R270). -/
def streamRate (ws : List Word) : Nat :=
  if cPartner ws ≠ 0 then 0
  else cNprb ws * (24 * cCompw ws + if cCompw ws = 16 then 0 else 8) * 140 * 101 * 2 ^ cMu ws

/-- Streams of a direction that travel on the first and on the second port (R322). -/
def splitOf (n split : Nat) : Nat × Nat := if split = 0 then (n, 0) else (split, n - split)

/-- Streams of a carrier on port `p` in the downlink (`dl`) or in the uplink. -/
def streamsOn (ws : List Word) (p : Nat) (dl : Bool) : Nat :=
  if cCat ws = 3 then 0
  else
    let sp := if dl then splitOf (cDlStreams ws) (cDlSplit ws) else splitOf (cUlStreams ws) (cUlSplit ws)
    let a := if dl then cFhdl0 ws else cFhul0 ws
    let b := if dl then cFhdl1 ws else cFhul1 ws
    (if a = p then sp.1 else 0) + (if b = p then sp.2 else 0)

/-- Bit/s of carriers on port `p` in a direction. -/
def portLoad (cs : List Carrier) (p : Nat) (dl : Bool) : Nat :=
  (cs.map fun c => streamsOn c.words p dl * streamRate c.words).sum

namespace State

/-- Carriers of region `r`. -/
def regionCarriers (s : State) (r : Nat) : List Carrier := (s.mapped.filter fun c => cRegion c.2.words = r).map Prod.snd

/-- The level of island `i`, where `ov` names an island and the level it would have. -/
def levelOf (s : State) (i : Nat) (ov : Option (Nat × Nat)) : Nat :=
  match ov with
  | some (x, l) => if x = i then l else s.rf (PW_ISLAND.adr i) PW_ISLAND.ACTIVE
  | none => s.rf (PW_ISLAND.adr i) PW_ISLAND.ACTIVE

/-- Whether region `r` with carriers `cs` fits (R295, R299): clusters at `mhz`; `ov`: an island at another level; `units`:
column, units that are on, units that would remain on (R520). -/
def regionFits (s : State) (r mhz : Nat) (cs : List Carrier) (ov : Option (Nat × Nat)) (units : Option (Nat × Nat × Nat)) :
    Bool :=
  let acc := accMHz (s.levelOf (24 + r) ov)
  (List.range 8).all fun k =>
    let f := colSum cs k
    let (m, q) := if k ≤ 1 then (1600, mhz) else (1200, acc)
    let (on, left) := match units with
      | some (c, x, y) => if c = k then (x, y) else (1, 1)
      | none => (1, 1)
    if left = 0 then f.1 = 0 else decide (f.1 * m * on ≤ 100000 * q * f.2 * left)

/-- Whether region `r` fits. Which cluster's level counts where the levels of a region's clusters differ is not stated: the
answer is free where the slowest and the fastest cluster disagree. -/
def regionOk (s : State) (r : Nat) (cs : List Carrier) (ov : Option (Nat × Nat)) (units : Option (Nat × Nat × Nat)) :
    Bool × State :=
  let fs := (List.range 6).map fun j => cluMHz (s.levelOf (6 * r + j) ov)
  let lo := s.regionFits r (fs.foldl min 1600) cs ov units
  let hi := s.regionFits r (fs.foldl max 0) cs ov units
  if lo = hi then (lo, s) else let (b, s1) := s.draw 1; (b = 1, s1)

/-- Whether the carriers already set up fit together with `c` (R277, R295). -/
def worksheet (s : State) (c : Carrier) : Bool × State :=
  let r := cRegion c.words
  let rs := s.regionCarriers r ++ [c]
  let cs := s.mapped.map Prod.snd ++ [c]
  let counts := rs.length ≤ 128 && cs.length ≤ 512
  let streams := decide ((cs.map fun c => c.cost.getD 8 0).sum ≤ 1024000)
  let ddr := decide ((cs.map fun c => c.cost.getD 9 0).sum ≤ 100000)
  let ports := (List.range 8).all fun p =>
    decide (portLoad cs p true ≤ 97000000000) && decide (portLoad cs p false ≤ 97000000000)
  let cp := !(cCat c.words = 3 && s.mapped.any fun x => cCat x.2.words = 3 && cCport x.2.words = cCport c.words)
  if counts && streams && ddr && ports && cp then s.regionOk r rs none none else (false, s)

end State

end Sys2Proof.Machine
end

