-- ==== Sys2Proof/Machine/CellPdu.lean ====
section
/-! DEFINITION. Slot messages (R273, R281 to R283, R324 to R329): the timeline of a carrier, and the PDUs and entries that
Concierge accepts. -/

namespace Sys2Proof.Machine

/-! ### The timeline (R273, R281, R283) -/

/-- The epoch of R273 in ns of extended time: 1980-01-06T00:00:00 in GPS time is TAI 315,964,819 s. -/
def gpsEpoch : Nat := 315964819 * 10 ^ 9

/-- Symbols of a slot: 12 with the extended CP of 60 kHz, which only a pattern declares (R323). -/
def cSyms (ws : List Word) : Nat :=
  if cDuplex ws = 1 ∧ cMu ws = 2 ∧ cNsympat ws * 1000 = (cPer1 ws + cPer2 ws) * 48 then 12 else 14

/-- Start of symbol `x` of a 1 ms subframe, in 1/2^μ of 1/30.72 µs, by the CP lengths of TS 38.211 (R273). -/
def symTs (ws : List Word) (x : Nat) : Nat :=
  if cSyms ws = 12 then 2560 * x
  else if x = 0 then 0 else 2192 * x + 16 * 2 ^ cMu ws * (if 7 * 2 ^ cMu ws < x then 2 else 1)

/-- The same in ns. -/
def symNs (ws : List Word) (x : Nat) : Nat := symTs ws x * 15625 / (480 * 2 ^ cMu ws)

/-- Start of symbol `x` of slot `slot` in its 10 ms frame, in ns. -/
def inFrame (ws : List Word) (slot x : Nat) : Nat :=
  slot / 2 ^ cMu ws * 1000000 + symNs ws (slot % 2 ^ cMu ws * cSyms ws + x)

/-- Start of frame `k` of the epoch of a carrier, in ns of extended time. -/
def frameStartAt (ws : List Word) (k : Int) : Int := (gpsEpoch + cFoffset ws : Nat) + k * 10000000

/-- T_air of the occurrence of a slot nearest to extended time `now` (R273, R283). -/
def airOf (ws : List Word) (sfn slot now : Nat) : Int :=
  let t0 := frameStartAt ws sfn + inFrame ws slot 0
  t0 + ((now : Int) - t0 + 5120000000) / 10240000000 * 10240000000

/-- NTAOFF in ns, rounded down (Tc is 15,625 ÷ 30,720 ns). -/
def cNtaNs (ws : List Word) : Nat := cNtaoff ws * 15625 / 30720

/-- Deadlines of R281 in ns before T_air. -/
def cfgLead (mu : Nat) : Nat := [500000, 250000, 200000, 150000].getD mu 150000
def dataLead (mu : Nat) : Nat := [400000, 200000, 160000, 120000].getD mu 120000

/-- Whether symbol `x` of a slot is downlink (0), uplink (1) or guard (2) in the pattern of a TDD carrier; the pattern starts
with SFN 0. -/
def patAt (ws : List Word) (sfn slot x : Nat) : Nat :=
  cPat ws (((sfn * 10 * 2 ^ cMu ws + slot) * cSyms ws + x) % max 1 (cNsympat ws))

/-- Whether symbol `x` of a slot carries the downlink (`dl`) or the uplink (R282). -/
def carries (ws : List Word) (sfn slot x : Nat) (dl : Bool) : Bool :=
  x < cSyms ws && (cDuplex ws = 0 || patAt ws sfn slot x = if dl then 0 else 1)

/-! ### PDUs (R326 to R328) -/

/-- Bits `[lo + n - 1 : lo]` of word `i` of a PDU. -/
def pf (p : List Word) (i lo n : Nat) : Nat := bits ((p.getD i 0).toNat) lo n

def pduType (p : List Word) : Nat := pf p 0 0 16
def pduId (p : List Word) : Nat := pf p 1 0 16

/-- Every bit outside the masks of words 2 onward is 0 (R317). -/
def masked (p : List Word) (ms : List Nat) : Bool :=
  ms.zipIdx.all fun (m, i) => (p.getD (i + 2) 0).toNat &&& m = (p.getD (i + 2) 0).toNat

/-- Whether a carrier is of FR2 (R268). -/
def cFr2 (ws : List Word) : Bool := 7125000 < cFdl ws

/-- A PRB range in words: start at bit 0, count at bit `n`, of `k` bits. -/
def prbsIn (ws p : List Word) (i n k : Nat) : Bool :=
  1 ≤ pf p i n k && decide (pf p i 0 9 + pf p i n k ≤ cNprb ws)

/-- A symbol range of word 3: start at bit `a`, count at bit `a + 4`. -/
def symsIn (ws p : List Word) (a : Nat) : Bool :=
  1 ≤ pf p 3 (a + 4) 4 && decide (pf p 3 a 4 + pf p 3 (a + 4) 4 ≤ cSyms ws)

/-- The symbols that a DMRS symbol map names. -/
def mapSyms (m : Nat) : Nat := ((List.range 14).filter fun i => bit m i).length

/-- The words that PDSCH and PUSCH share (R327): allocation, TBS, DMRS. A field without a stated zero meaning is not 0
(R321); the DMRS symbol map names the 1 to 4 symbols that w2 [29:28] counts (R268; DEDUCED, log entry 21). -/
def sharedOk (ws p : List Word) : Bool :=
  pf p 2 0 16 ≠ 0 && prbsIn ws p 3 9 9 && symsIn ws p 18 && pf p 4 0 24 ≠ 0 && mapSyms (pf p 5 0 14) = pf p 2 28 2 + 1 &&
    pf p 5 16 12 ≠ 0

/-! The ranges of TS 38.211 that R327 names (PRESUMED, log entry 21). -/

/-- CDM type (0 none, 1 of two in frequency, 2 of two by two, 3 of two by four) and density (0 and 1 one half, 2 one, 3 three) of
CSI-RS table row 1 to 18. -/
def csiRsOk (row cdm density : Nat) : Bool :=
  cdm = [0, 0, 0, 1, 1, 1, 1, 1, 2, 1, 2, 1, 2, 1, 2, 3, 1, 2, 3].getD row 0 &&
    (if row = 1 then density = 3
     else if row = 2 ∨ row = 3 ∨ 11 ≤ row then density ≤ 2 else density = 2)

/-- Symbols, PRBs and orthogonal cover of a PUCCH of a format: 1 or 2 symbols for 0 and 2, else 4 to 14; one PRB but for 2 and 3; a
cyclic shift below 12; a cover of up to seven for format 1, of 2 or 4 for format 4 and none for the others. -/
def pucchOk (fmt nprb nsym shift occ len : Nat) : Bool :=
  (if fmt = 0 ∨ fmt = 2 then 1 ≤ nsym && nsym ≤ 2 else 4 ≤ nsym) && (fmt = 2 || fmt = 3 || nprb = 1) && shift < 12 &&
    (match fmt with
     | 1 => occ < 7
     | 4 => (len = 2 || len = 4) && occ < len
     | _ => occ = 0 && len = 0)

/-- Root and set of a PRACH: long formats have 838 roots, short formats 138 and no restricted set. -/
def prachOk (fmt root set : Nat) : Bool := if fmt < 4 then root < 838 && set ≤ 2 else root < 138 && set = 0

/-- Cyclic shift and offset of an SRS of comb 2, 4 or 8 (`c` 0, 1, 2). -/
def srsOk (c shift offset : Nat) : Bool := shift < [8, 12, 6].getD c 0 && offset < 2 ^ (c + 1)

/-- DCI `i` of a PDCCH PDU. -/
def dciOk (p : List Word) (i : Nat) : Bool :=
  let w (k : Nat) := (p.getD (6 + 8 * i + k) 0).toNat
  bits (w 0) 0 16 ≠ 0 && bits (w 0) 29 3 = 0 && [1, 2, 4, 8, 16].contains (bits (w 0) 16 5) &&
    12 ≤ bits (w 1) 0 8 && bits (w 1) 0 8 ≤ 140 && bits (w 1) 24 8 = 0 && w 2 < 2 ^ 16

/-- The words of a PDU by its low nibble and direction (R327). -/
def pduWords (p : List Word) : Nat :=
  match pduType p &&& 0xFF0F with
  | 0x0001 => 5
  | 0x0002 => 6 + 8 * pf p 5 0 5
  | 0x0003 => 9
  | 0x0004 => 6
  | 0x0101 => 13
  | 0x0102 => 8
  | 0x0103 => 5
  | _ => 6

/-- The ranges of an NR PDU (R268, R327). -/
def nrPduOk (ws p : List Word) : Bool :=
  let fr2 := cFr2 ws
  let beam := if cCat ws = 2 then 0xFFFF else 1
  match pduType p with
  | 0x0001 => masked p [0xFFFFF, 0xFFFFFF, 0xFFFF] && pf p 2 0 6 < (if fr2 then 64 else 8) && pf p 2 6 5 < 24
  | 0x0002 => masked p [0x7FFFF, 0xFFFFFFFF, 0x1FFF, 0x1F] && 1 ≤ pf p 2 4 2 && decide (pf p 2 0 4 + pf p 2 4 2 ≤ cSyms ws) && pf p 2 6 2 ≠ 3 &&
      1 ≤ pf p 5 0 5 && pf p 5 0 5 ≤ 16 && (List.range (pf p 5 0 5)).all fun i => dciOk p i
  | 0x0003 => masked p [0x3FFFFFFF, 0xFFFFFFF, 0xFFFFFF, 0xFFF7FFF, 0x3FFFFFF, beam, 0xFFFF] && sharedOk ws p &&
      1 ≤ pf p 2 16 4 && pf p 2 16 4 ≤ 8 && ([2, 4, 6, 8].contains (pf p 2 20 4) || (pf p 2 20 4 = 10 && !fr2))
  | 0x0004 => masked p [0x7F, 0x3FFFF, 0xFFFFFF, 0xFFFF03FF] && 1 ≤ pf p 2 0 5 && pf p 2 0 5 ≤ 18 && prbsIn ws p 3 9 9 &&
      pf p 4 0 4 < cSyms ws && pf p 4 4 4 < cSyms ws && csiRsOk (pf p 2 0 5) (pf p 4 20 2) (pf p 4 22 2)
  | 0x0101 => masked p [0x7FFFFFFF, 0xFFFFFFF, 0x1FFFFFFF, 0xFFF7FFF, 0x3FFFFFF, 0xFFFFFFFF, 0x1FFFFFF, 0xFFFFFFF, 0x3FFF,
        0xFFFFFFFF, 0x7FFF] && sharedOk ws p &&
      1 ≤ pf p 2 16 4 && pf p 2 16 4 ≤ 4 && [1, 2, 4, 6, 8].contains (pf p 2 20 4) &&
      (pf p 2 20 4 ≠ 1 || pf p 2 30 1 = 1) && (pf p 2 30 1 = 0 || pf p 2 16 4 = 1) && pf p 8 21 4 ≤ 8 && pf p 11 0 6 = 0
  | 0x0102 => masked p [0xFFFFF, 0xFFFFFFFF, 0xFFFFFFF, 0x3FFFFFF, 0x3FFF, 0xFFFF] && pf p 2 0 16 ≠ 0 && pf p 2 16 3 ≤ 4 &&
      pf p 3 9 5 ≤ 16 && prbsIn ws p 3 9 5 && symsIn ws p 14 &&
      pucchOk (pf p 2 16 3) (pf p 3 9 5) (pf p 3 18 4) (pf p 6 0 8) (pf p 6 8 3) (pf p 6 11 3) &&
      (pf p 3 22 1 = 0 || decide (pf p 3 23 9 + pf p 3 9 5 ≤ cNprb ws))
  | 0x0103 => masked p [0xFFF, 0xFFFF, 0xFFFF01FF] && pf p 2 0 4 ≤ 12 && 1 ≤ pf p 2 4 4 && pf p 2 4 4 ≤ 8 &&
      pf p 2 8 4 < cSyms ws && prachOk (pf p 2 0 4) (pf p 3 0 10) (pf p 3 14 2) && pf p 4 0 9 < cNprb ws
  | _ => masked p [0x1FFFFF, 0x3FFFFFF, 0x3FFFF, 0xFFFF] && pf p 2 0 16 ≠ 0 && [1, 2, 4].contains (pf p 2 16 3) && pf p 2 19 2 ≠ 3 &&
      prbsIn ws p 3 9 9 && symsIn ws p 18 && pf p 3 22 4 ≤ 4 && srsOk (pf p 2 19 2) (pf p 4 10 4) (pf p 4 14 4)

/-- The types that a carrier's RAT accepts (R328). -/
def pduTypes (rat : Nat) (dl : Bool) : List Nat :=
  match rat, dl with
  | 1, true => [0x0001, 0x0002, 0x0003, 0x0004]
  | 1, false => [0x0101, 0x0102, 0x0103, 0x0104]
  | 2, true => [0x0011, 0x0012, 0x0013, 0x0014]
  | 2, false => [0x0111, 0x0112, 0x0113, 0x0114]
  | _, true => [0x0021, 0x0022, 0x0023]
  | _, false => [0x0121, 0x0123]

/-- The bits of words 2 onward of an LTE or NB-IoT PDU that have a meaning in TS 36.211 to 36.213 (PRESUMED, log entry 21); the
others are reserved (R328). A control region's words are followed by its DCIs. -/
def lteMasks (p : List Word) : List Nat :=
  match pduType p &&& 0xFF0F with
  | 0x0001 => [0, 0xFFFFFF, 0xFFFF]
  | 0x0002 => [if pduType p = 0x0012 then 3 else 0, 0, 0, 0x1F]
  | 0x0003 => [0x3FFFFFF, 0x3FFFFFF, 0xFFFFFF, 0xFFF4000, 0x3FFFFFF, 0xFFFF, 0xFFFF]
  | 0x0004 => [0x3F, 0x3FFFF, 0xFFFFFF, 0xFFFF03FF]
  | 0x0101 => [0x3FFFFFF, 0x3FFFFFF, 0x1FFFFFFF, 0xFFF4000, 0x3FFFFFF, 0xFFFFFFFF, 0x1FFFFF, 0xFFFFFFF, 0xFFF, 0xFFFFFFFF, 0x7FFF]
  | 0x0102 => [0xFFFFF, 0xFFFFFFFF, 0xFFFFFFF, 0x3FFFFFF, 0x3FFF, 0xFFFF]
  | 0x0103 => [0xFFF, 0xFFFF, 0xFFFF01FF]
  | _ => [0x1FFFFF, 0x3FFFFFF, 0x3FFFF, 0xFFFF]

/-- The ranges of an LTE or NB-IoT PDU that R269, R271 and R328 state, and those of the standards that they name (PRESUMED, log entry
21): CFI 1 to 3; aggregation levels up to 8, and 2 for NB-IoT; modulation of whole bits up to 256QAM, and QPSK or below for NB-IoT;
PUCCH formats 1 to 5; PRACH formats 0 to 4 and NPRACH formats 0 to 2; one to twelve tones of the 48 of 3.75 kHz or the 12 of 15 kHz;
SRS combs 2 and 4. -/
def ltePduOk (ws p : List Word) : Bool :=
  let nb := cRat ws = 3
  masked p (lteMasks p) &&
    match pduType p &&& 0xFF0F with
    | 0x0002 => (nb || pf p 2 0 2 ≠ 0) && 1 ≤ pf p 5 0 5 && pf p 5 0 5 ≤ 16 && (List.range (pf p 5 0 5)).all fun i =>
        dciOk p i && pf p (6 + 8 * i) 16 5 ≤ if nb then 2 else 8
    | 0x0003 => (if nb then pf p 2 20 4 = 2 else [2, 4, 6, 8].contains (pf p 2 20 4)) && 1 ≤ pf p 2 16 4 && pf p 2 16 4 ≤ 8 &&
        pf p 4 0 24 ≠ 0
    | 0x0101 => (if nb then pf p 2 20 4 = 1 || pf p 2 20 4 = 2 else [2, 4, 6, 8].contains (pf p 2 20 4)) &&
        1 ≤ pf p 2 16 4 && pf p 2 16 4 ≤ 4 && pf p 4 0 24 ≠ 0 && pf p 11 0 6 = 0 &&
        (!nb || (pf p 3 9 9 = 1 && pf p 3 0 9 < 48) || ([3, 6, 12].contains (pf p 3 9 9) && pf p 3 0 9 + pf p 3 9 9 ≤ 12))
    | 0x0102 => pf p 2 0 16 ≠ 0 && 1 ≤ pf p 2 16 3 && pf p 2 16 3 ≤ 5
    | 0x0103 => if nb then pf p 2 0 4 ≤ 2 && pf p 4 0 9 < 48
        else pf p 2 0 4 ≤ 4 && pf p 3 0 10 < 838 && pf p 3 14 2 ≤ 2 && pf p 4 0 9 < cNprb ws
    | 0x0104 => pf p 2 0 16 ≠ 0 && [1, 2, 4].contains (pf p 2 16 3) && pf p 2 19 2 < 2 &&
        srsOk (pf p 2 19 2) (pf p 4 10 4) (pf p 4 14 4)
    | _ => true

/-- The layers of the PDSCH or PUSCH PDUs of a slot that meet on one PRB of a symbol are at most `lim` (R268: 16 and 8 per carrier;
DEDUCED, log entry 21: PDUs on other PRBs or symbols do not add). -/
def layersOk (ws : List Word) (ps : List (List Word)) (lim : Nat) : Bool :=
  let qs := ps.filter fun p => pduType p = 0x0003 || pduType p = 0x0101
  let on (p : List Word) (b x : Nat) : Bool :=
    pf p 3 0 9 ≤ b && b < pf p 3 0 9 + pf p 3 9 9 && pf p 3 18 4 ≤ x && x < pf p 3 18 4 + pf p 3 22 4
  cRat ws ≠ 1 || qs.all fun p => qs.all fun q =>
    decide (((qs.filter fun r => on r (pf p 3 0 9) (pf q 3 18 4)).map fun r => pf r 2 16 4).sum ≤ lim)

/-- Whether a PDU is accepted, its HARQ buffer apart. -/
def pduOk (ws p : List Word) (dl : Bool) : Bool :=
  (pduTypes (cRat ws) dl).contains (pduType p) && pf p 0 16 8 = pduWords p && pf p 0 24 8 = 0 && pf p 1 16 16 = 0 &&
    if cRat ws = 1 then nrPduOk ws p else ltePduOk ws p

/-- No two PDUs carry the same PDUID (R326). -/
def distinctIds (ps : List (List Word)) : Bool := (ps.map pduId).eraseDups.length = ps.length

/-- Bytes of the HARQ buffer of a PUSCH-class PDU (R367): 64 + C × STRIDE. -/
def harqLen (ws p : List Word) : Nat :=
  let g := if cRat ws = 1 then ldpcGeo (pf p 4 0 24) (pf p 3 26 1) else turboGeo (pf p 4 0 24)
  let ncb := if pf p 8 0 16 = 0 then g.n else min g.n (pf p 8 0 16)
  64 + g.c * ((ncb + 63) / 64 * 64)

namespace State

/-- Whether the HARQ buffer of a PDU, if it names one, lies in the host area and touches no retired page (R366, R367). -/
def harqOk (s : State) (ws p : List Word) : Bool :=
  if pduType p &&& 0xFF0F ≠ 0x0101 ∨ pf p 7 0 32 = 0 then true
  else
    let a := pf p 7 0 32 * 4096
    let e := a + harqLen ws p
    decide (0x10000000000 + 0x40000000 * s.ddrDev ≤ a) && decide (e ≤ 0x10000000000 + 0x40000000 * s.ddrGiB) &&
      !(s.retired.any fun x => decide (x.1 < e ∧ a < x.1 + x.2))

end State

/-- A DL_DATA entry (R329): PDUID, LEN and host address of a PDSCH-class PDU of the slot's DL_CONFIG. -/
def dataOk (dl : List (List Word)) (e : List Word) : Bool :=
  pf e 0 16 16 = 0 && pf e 1 24 8 = 0 && pf e 3 15 17 = 0 &&
    dl.any fun p => pduType p &&& 0xFF0F = 0x0003 && pduId p = pf e 0 0 16 && pf p 4 0 24 = 8 * pf e 1 0 24

end Sys2Proof.Machine
end

