-- ==== Sys2Proof/Machine/CellAir.lean ====
section
/-! DEFINITION. What the slots of a carrier put on the air and report: the downlink U-plane (R282, R284), the estimates of
timing and frequency (R285 to R287) and the deadlines of PRACH (R281). -/

namespace Sys2Proof.Machine

/-- Start of symbol `x` of the slot with T_air `tair`, in extended time. -/
def symAir (ws : List Word) (tair : Int) (slot x : Nat) : Int := tair - inFrame ws slot 0 + inFrame ws slot x

/-! ### Downlink U-plane (R282, R284) -/

/-- The payload of PDSCH `p` of a slot does not reach the module: its DL_DATA is late, does not name it, or its fetch failed
(R284, R329). -/
def payloadMissing (x : SlotRec) (p : List Word) : Bool :=
  !((x.data.getD []).any fun e => e.1 = pduId p) || x.missing.contains (pduId p)

/-- Whether symbol `sym` of an LTE subframe may carry cell-specific reference signals of up to four ports (PRESUMED, log entry 22: TS
36.211). -/
def crsSym (sym : Nat) : Bool := [0, 1, 4, 7, 8, 11].contains sym

/-- Whether symbol `sym` of an NB-IoT subframe may carry narrowband reference signals (PRESUMED, log entry 22: TS 36.211). -/
def nrsSym (sym : Nat) : Bool := [5, 6, 12, 13].contains sym

/-- Whether PDU `p` of the slot may put anything on a PRB of a symbol. The symbols and PRBs of a PDSCH, the symbols of a PDCCH
and those of the control region are its own; the places of other PDUs follow the standards. A PDSCH whose payload is missing puts
nothing there (R284). -/
def pduBusy (ws : List Word) (x : SlotRec) (sym prb : Nat) (p : List Word) : Bool :=
  let inside (v a n : Nat) : Bool := a ≤ v && v < a + n
  match pduType p with
  | 0x0002 => inside sym (pf p 2 0 4) (pf p 2 4 2)
  | 0x0003 | 0x0013 => !payloadMissing x p && inside prb (pf p 3 0 9) (pf p 3 9 9) && inside sym (pf p 3 18 4) (pf p 3 22 4)
  | 0x0012 => sym < pf p 2 0 2 + if cNprb ws ≤ 10 then 1 else 0
  | 0x0023 => !payloadMissing x p
  | _ => true

/-- Whether the slot may put anything on a PRB of a symbol; any other PRB carries zero. A slot with PDUs carries its RAT's
reference signals. -/
def prbBusy (ws : List Word) (x : SlotRec) (sym prb : Nat) : Bool :=
  let ps := x.dl.getD []
  (!ps.isEmpty && (cRat ws = 2 && crsSym sym || cRat ws = 3 && (nrsSym sym || cOpmode ws ≠ 0 && crsSym sym))) ||
    ps.any fun p => pduBusy ws x sym prb p

/-- The application header of a slot's symbol, as bytes (R415). -/
def appHeader (ws : List Word) (dl : Bool) (sfn slot sym : Nat) : List Byte :=
  beBytes 1 (b2n dl * 128 + slot / 2 ^ cMu ws) ++ beBytes 1 (sfn % 256) ++ beBytes 1 (16 * (slot % 2 ^ cMu ws) + sym)

namespace State

/-- The port of stream `i` of a carrier in a direction (R296, R322). -/
def streamPort (ws : List Word) (dl : Bool) (i : Nat) : Nat :=
  let (n, split, p0, p1) := if dl then (cDlStreams ws, cDlSplit ws, cFhdl0 ws, cFhdl1 ws)
    else (cUlStreams ws, cUlSplit ws, cFhul0 ws, cFhul1 ws)
  if i < (splitOf n split).1 then p0 else p1

/-- A PRB of a downlink symbol: zeros, or what the slot's processing puts there, which is free (log entry 22). -/
def planePrb (s : State) (compw : Nat) (busy : Bool) : List Byte × State :=
  if busy then let (bs, s1) := s.drawBytes 48; (prbPack compw ((List.range 24).map fun i => sgn 16 (fieldAt bs (2 * i) 2)), s1)
  else (prbPack compw (List.replicate 24 0), s)

/-- The carrier whose fronthaul streams carrier `k` uses: its partner's where it names one (R270). -/
def streamHost (s : State) (k : Carrier) : Option Carrier :=
  if cPartner k.words = 0 then some k else s.carrier (cPartner k.words - 1)

/-- Whether carrier `k` sends the messages of a slot whose T_air is `tair` (R282, R329): started, and not stopped by then. -/
def runsAt (k : Carrier) (tair : Int) : Bool :=
  2 ≤ k.st && decide (k.start ≤ tair) && (match k.stop with
    | some (_, e) => decide (tair < e)
    | none => true)

/-- Whether carrier `k` itself sends what symbol `x` of a slot asks for (R270, R282): the symbol carries the direction, and the carrier
whose streams it uses, where that is another, sends nothing for the symbol: it does not run, has other frames or another numerology,
or its pattern differs there (DEDUCED, log entry 22). -/
def sendsSym (s : State) (k : Carrier) (tair : Int) (sfn slot x : Nat) (dl : Bool) : Bool :=
  carries k.words sfn slot x dl && (cPartner k.words = 0 || match s.streamHost k with
    | some h => !(runsAt h tair && cMu h.words = cMu k.words && cFoffset h.words = cFoffset k.words &&
        carries h.words sfn slot x dl)
    | none => false)

/-- The stream template of stream `i` of a carrier in the downlink. -/
def streamTmpl (s : State) (h : Carrier) (i : Nat) : Option Tmpl :=
  let p := streamPort h.words true i
  h.tmpls.findSome? fun t => if t.1 = p then
    match sget (s.ethOf p).tmpl t.2 none with
    | some m => if m.pcid = (cEaxc h.words + i) % 65536 then some m else none
    | none => none
    else none

/-- The U-plane of stream `i` in downlink symbol `sym` waits for its launch at the symbol's air time − TADV (R282), on the streams of
carrier `h`. Which queue of the port it takes is not stated (free). -/
def planeAdd (s : State) (n : Nat) (k h : Carrier) (x : SlotRec) (i sym : Nat) : State :=
  match s.streamTmpl h i with
  | none => s
  | some m =>
    let (q, s1) := s.draw 3
    let ahead := symAir k.words x.tair x.slot sym - cTadv k.words - s.ext
    let ent : TxEnt := ⟨some (wrapTo 32 ((s.tkns : Int) + ahead)), some ((s.cyc : Int) + ahead), 48 * cNprb h.words,
      cNprb h.words * prbSize m.compw, [], false⟩
    { s1 with uplane := s1.uplane ++ [⟨n, x.tair, x.sfn, x.slot, sym, streamPort h.words true i, q, m, cNprb h.words, ent⟩] }

/-- The U-plane of every downlink symbol of a slot (R282): of the pattern, or of an FDD downlink. -/
def slotPlane (s : State) (n : Nat) (k h : Carrier) (x : SlotRec) : State :=
  upto (cSyms k.words) (fun sym s =>
    if s.sendsSym k x.tair x.sfn x.slot sym true then upto (cDlStreams h.words) (fun i s => s.planeAdd n k h x i sym) s else s) s

/-- What a PRB of a waiting symbol carries as its frames are built (R284): nothing where no PDU of its slot takes it; where another
carrier shares the streams, what that one puts there is free too. -/
def planeBusy (s : State) (u : Plane) (b : Nat) : Bool :=
  match s.carrier u.carrier with
  | none => false
  | some k =>
    cPartner k.words ≠ 0 || (s.mapped.any fun c => cPartner c.2.words = u.carrier + 1) ||
      (match k.slots.find? fun x => x.tair = u.tair with
       | some x => prbBusy k.words x u.sym b
       | none => false)

/-- The frames of a waiting symbol (R282, R284, R415 to R418): built from what the slot's messages and fetches have brought by now. -/
def planeFill (s : State) (u : Plane) : Plane × State :=
  let ws := ((s.carrier u.carrier).map Carrier.words).getD []
  let (prbs, s1) := (List.range u.nprb).foldl (fun (r : List (List Byte) × State) b =>
    let (bs, s) := r.2.planePrb u.tmpl.compw (s.planeBusy u b)
    (r.1 ++ [bs], s)) ([], s)
  let fs := uPlane u.tmpl (leVal (appHeader ws true u.sfn u.slot u.sym)) 0 prbs
  ({ u with ent := { u.ent with frames := fs } }, s1)

end State

/-! ### Timing and frequency (R285, R286) -/

/-- Half the normal CP in ns: ±1,172 ns at 30 kHz (R285). -/
def halfCp (mu : Nat) : Int := (((9375 : Rat) / 4) / 2 ^ mu + 1 / 2).floor

/-- The timing offset of a phase slope, in ns: a later signal turns backwards with frequency (DEDUCED, log entry 22). -/
def timingNs (mu : Nat) (slope : Int) : Rat := -(slope : Rat) * 10 ^ 9 / (2 ^ 32 * 15000 * 2 ^ mu)

/-- Timing as reported (R285, R331): ns and advance-command units of 16 × 64 × Tc ÷ 2^μ, and SAT beyond the range. -/
def timingWord (mu : Nat) (slope : Int) (up : Bool) : Nat × Bool :=
  let t := timingNs mu slope
  let lim : Rat := halfCp mu
  let v := if lim < t then lim else if t < -lim then -lim else t
  -- Tc is 15,625 ÷ 30,720 ns
  let unit : Rat := (1024 * 15625 : Rat) / (30720 * 2 ^ mu)
  (wrapTo 16 (wholeOf v up) + 2 ^ 16 * wrapTo 16 (wholeOf (v / unit) up), lim < t || t < -lim)

/-- The shortest spacing of two pilot symbols of a DMRS symbol map (R286): 0 when there is one at most. -/
def dmrsGap (m : Nat) : Nat :=
  ((List.range 14).find? fun d => d ≠ 0 && (List.range 14).any fun i => bit m i && bit m (i + d)).getD 0

/-- The spacing of pilot symbols of an entry's allocation: of the DMRS map of an NR PUSCH without PTRS, else as measured. -/
def pilotGap (ws p : List Word) (e : IndEntry) : Nat :=
  if cRat ws = 1 && pduType p = 0x0101 && pf p 3 27 1 = 0 then dmrsGap (pf p 5 0 14) else e.gap

/-- Frequency offset in Hz of a phase change over `gap` symbols (R286): within ±1 ÷ (2 ΔT). -/
def freqHz (ws : List Word) (gap : Nat) (turn : Word) : Rat :=
  (sgn 32 turn.toNat : Rat) * ((10 ^ 9 * cSyms ws : Nat) : Rat) / ((2 ^ 32 * gap * cSlotNs ws : Nat) : Rat)

/-- Whether a PDU's allocation is tracked (R285): PUSCH, PUCCH formats 2 to 4, SRS. -/
def tracked (p : List Word) : Bool :=
  match pduType p &&& 0xFF0F with
  | 0x0101 => true
  | 0x0102 => decide (2 ≤ pf p 2 16 3)
  | 0x0104 => true
  | _ => false

/-- PRBs of an uplink allocation. -/
def ulPrbs (p : List Word) : Nat := if pduType p &&& 0xFF0F = 0x0102 then pf p 3 9 5 else pf p 3 9 9

/-- The mean of the mean offsets of the slots kept (R287); 0 of none. -/
def meanOffset (l : List (Int × Nat)) : Rat := (l.map fun x => (x.1 : Rat) / x.2).sum / l.length

/-- The slot's weighted sum joins the last 64 (R287). -/
def keepOffsets (l : List (Int × Nat)) (fs : List (Nat × Int × Nat)) : List (Int × Nat) :=
  let w := (fs.map fun f => f.2.2).sum
  if w = 0 then l else
    let l' := l ++ [((fs.map fun f => f.2.1 * (f.2.2 : Int)).sum, w)]
    l'.drop (l'.length - 64)

/-! ### PRACH (R281) -/

/-- Length of a PRACH preamble with its CP in 1/30.72 µs, by the formats of TS 38.211 and TS 36.211 (PRESUMED, log entry
21); a short format of NR is divided by 2^μ. -/
def prachTs (rat fmt : Nat) : Nat :=
  if rat = 1 then
    [27744, 70176, 102992, 27744, 4384, 8768, 13152, 4312, 8552, 12792, 25512, 3288, 10240].getD fmt 0
  else [27744, 45600, 55392, 70176, 4544].getD fmt 0

/-- End of a PRACH occasion in extended time. -/
def prachEnd (ws : List Word) (tair : Int) (slot : Nat) (p : List Word) : Int :=
  let fmt := pf p 2 0 4
  symAir ws tair slot (pf p 2 8 4) + (prachTs (cRat ws) fmt * 15625 / (480 * if 4 ≤ fmt ∧ cRat ws = 1 then 2 ^ cMu ws else 1) : Nat)

/-- Whether a PRACH indication sent now is late (R281): 1,000 µs after the last occasion of the slot. The length of an
NPRACH, which its repetitions decide, is the sender's to know. -/
def prachLate (ws : List Word) (x : SlotRec) (now : Nat) (late : Bool) : Bool :=
  if cRat ws = 3 then late
  else
    let ends := ((x.ul.getD []).filter fun p => pduType p &&& 0xFF0F = 0x0103).map fun p => prachEnd ws x.tair x.slot p
    decide (ends.foldl max x.tair + 1000000 < now)

end Sys2Proof.Machine
end

