-- ==== Sys2Proof/Machine/Cells.lean ====
section
/-! DEFINITION. Carriers and their slots (R268 to R299, R322 to R332): CELL_SETUP, CELL_START, CELL_STOP, CELL_QUERY, the slot
messages, control messages, indications, ramps and gain; and DELAY_MEAS, PL_SET and DOMAIN_SET. -/

namespace Sys2Proof.Machine

/-! ### CELL_SETUP -/

/-- A value that is one of a carrier's ports 0 to 7. -/
def portOk (p : Nat) : Bool := p < 8

/-- The fields of radio and spectrum (R268, R269, R271, R272, R322). The bounds of FR1 and FR2 are those of 3GPP
(PRESUMED, log entry 21). -/
def bandOk (ws : List Word) : Bool :=
  let fr2 := cFr2 ws
  let tdd := cDuplex ws = 1
  cDuplex ws < 2 && cRegion ws < 4 && 1 ≤ cCat ws && cCat ws ≤ 3 && cFdl ws ≠ 0 &&
    (if fr2 then 24250000 ≤ cFdl ws && cFdl ws ≤ 52600000 else cRat ws ≠ 1 || 410000 ≤ cFdl ws) &&
    (cFul ws = 0 || (!tdd && cFul ws ≤ 7125000 && (cRat ws ≠ 1 || 410000 ≤ cFul ws))) &&
    (match cRat ws with
     | 1 => 1 ≤ cNprb ws && cPci ws ≤ 1007 && cOpmode ws = 0 &&
        (if fr2 then tdd && (cMu ws = 2 || cMu ws = 3) && cNprb ws ≤ 264
         else cMu ws ≤ 2 && cNprb ws ≤ [270, 273, 135].getD (cMu ws) 0) && (cCat ws ≠ 3 || cMu ws ≤ 1)
     | 2 => !fr2 && cMu ws = 0 && [6, 15, 25, 50, 75, 100].contains (cNprb ws) && cPci ws ≤ 503 && cOpmode ws = 0
     | 3 => !fr2 && !tdd && cMu ws = 0 && cNprb ws = 1 && cPci ws ≤ 503 && cOpmode ws ≤ 3 && cCat ws ≠ 3
     | _ => false)

/-- The timing of R281 and R294, with R452. -/
def timingOk (ws : List Word) : Bool :=
  let mu := cMu ws
  let least := if cCat ws = 3 then 13000 else 0
  cFoffset ws ≤ 9999999 && [0, 25600, 39936].contains (cNtaoff ws) && max 1000 least ≤ cTadv ws &&
    cTadv ws ≤ [350000, 150000, 110000, 70000].getD mu 0 && cTadv ws + cTcp ws ≤ [450000, 200000, 150000, 100000].getD mu 0 &&
    least ≤ cTul ws && cTul ws ≤ [100000, 100000, 50000, 25000].getD mu 0

/-- The ports that a direction's streams travel on. -/
def dirPorts (p0 p1 split n : Nat) : List Nat := if (splitOf n split).2 = 0 then [p0] else [p0, p1]

/-- A carrier's streams travel on one port, or on two where a direction divides (R296). The other direction then stays on
those two, as in the spec's example (DEDUCED, log entry 21). -/
def onePort (ws : List Word) : Bool :=
  let d := dirPorts (cFhdl0 ws) (cFhdl1 ws) (cDlSplit ws) (cDlStreams ws)
  let u := dirPorts (cFhul0 ws) (cFhul1 ws) (cUlSplit ws) (cUlStreams ws)
  d.all (fun p => u.contains p) || u.all fun p => d.contains p

/-- Antennas, streams, compression and ports (R272, R275, R294, R296, R322, R447). A second port is not the first
(DEDUCED, log entry 21). Of a category 3 carrier's fields of Ethernet ports R322 ignores FHDL0 alone: the others keep their ranges,
and no second port is permitted. -/
def streamsOk (ws : List Word) : Bool :=
  let second (p0 p1 split n : Nat) : Bool :=
    portOk p0 && split ≤ n &&
      (if p1 = 0xFF then split = 0 || split = n
       else portOk p1 && p1 ≠ p0 && decide (97000000000 < n * streamRate ws))
  1 ≤ cNant ws &&
    (match cCat ws with
     | 1 => cNant ws ≤ 16
     | 2 => cNant ws ≤ 64 && 1 ≤ cNrxp ws && cNrxp ws ≤ 64 && 1 ≤ cNdls ws && cNdls ws ≤ 16
     | _ => cNant ws ≤ 4) &&
    (if cCat ws = 3 then
      cCompw ws = 9 && cCport ws < 8 && cOwnclu ws < 24 && cOwnclu ws / 6 = cRegion ws &&
        decide (-30 ≤ cTgt ws) && decide (cTgt ws ≤ -6) && 3 ≤ cBthr ws && cBthr ws ≤ 20 &&
        cFhdl1 ws = 0xFF && portOk (cFhul0 ws) && cFhul1 ws = 0xFF && (cDlSplit ws = 0 || cDlSplit ws = cNant ws) &&
        (cUlSplit ws = 0 || cUlSplit ws = cNant ws)
     else
      [8, 9, 12, 14, 16].contains (cCompw ws) && cRmac ws ≠ 0 &&
        second (cFhdl0 ws) (cFhdl1 ws) (cDlSplit ws) (cDlStreams ws) &&
        second (cFhul0 ws) (cFhul1 ws) (cUlSplit ws) (cUlStreams ws) && onePort ws)

/-- The subframes of LTE uplink–downlink configurations 0 to 6 (0 downlink, 1 uplink, 2 special), and the DwPTS and UpPTS
symbols of special subframe configurations 0 to 10 (PRESUMED, log entry 21: TS 36.211). -/
def lteFrames : List (List Nat) :=
  [[0, 2, 1, 1, 1, 0, 2, 1, 1, 1], [0, 2, 1, 1, 0, 0, 2, 1, 1, 0], [0, 2, 1, 0, 0, 0, 2, 1, 0, 0],
   [0, 2, 1, 1, 1, 0, 0, 0, 0, 0], [0, 2, 1, 1, 0, 0, 0, 0, 0, 0], [0, 2, 1, 0, 0, 0, 0, 0, 0, 0],
   [0, 2, 1, 1, 1, 0, 2, 1, 1, 0]]
def lteSpecials : List (Nat × Nat) :=
  [(3, 1), (9, 1), (10, 1), (11, 1), (12, 1), (3, 2), (9, 2), (10, 2), (11, 2), (6, 2), (6, 6)]

/-- The pattern of an LTE TDD carrier is one of its configurations (R269, R323). -/
def ltePattern (ws : List Word) : Bool :=
  (cNsympat ws = 70 || cNsympat ws = 140) && lteFrames.any fun f => lteSpecials.any fun (dw, up) =>
    (List.range 140).all fun i =>
      let k := i % 14
      let want := match f.getD (i / 14) 0 with
        | 2 => if k < dw then 0 else if 14 - up ≤ k then 1 else 2
        | v => v
      cPat ws (i % cNsympat ws) = want

/-- The TDD pattern (R268, R322, R323), and the reserved bytes. -/
def patternOk (ws : List Word) : Bool :=
  let n := cNsympat ws
  cellField ws 0x5A 6 = 0 &&
    (if cDuplex ws = 0 then cPer1 ws = 0 && cPer2 ws = 0 && n = 0
     else
      500 ≤ cPer1 ws && cPer1 ws ≤ 10000 && (cPer2 ws = 0 || (500 ≤ cPer2 ws && cPer2 ws ≤ 10000)) && n ≠ 0 &&
        (n * 1000 = (cPer1 ws + cPer2 ws) * 14 * 2 ^ cMu ws ||
          (cMu ws = 2 && n * 1000 = (cPer1 ws + cPer2 ws) * 12 * 4)) &&
        (cRat ws ≠ 2 || ltePattern ws) && ((List.range n).all fun i => cPat ws i ≠ 3) &&
        ((List.range ((n + 15) / 16 * 16 - n)).all fun i => cPat ws (n + i) = 0))

/-- The shortest run of guard symbols of the pattern, repeated; none when the pattern has none (R290). -/
def guardRun (ws : List Word) : Option Nat :=
  let n := cNsympat ws
  let run (i : Nat) : Nat := ((List.range n).find? fun k => cPat ws ((i + k) % n) ≠ 2).getD n
  ((List.range n).filter fun i => cPat ws i = 2 && cPat ws ((i + n - 1) % n) ≠ 2).foldl (fun m i => match m with
    | some x => some (min x (run i))
    | none => some (run i)) none

/-- The steps of a ramp profile rise strictly, keep reserved bits at 0, and are 0 beyond the profile's count. -/
def rampSteps (ws : List Word) (up : Bool) (n : Nat) : Bool :=
  let o (i : Nat) := (if up then 0x60 else 0xA0) + 8 * i
  1 ≤ n && n ≤ 8 && ((List.range n).all fun i => cellField ws (o i + 2) 2 < 2) &&
    ((List.range (n - 1)).all fun i => decide ((cRamp ws up i).2.2 < (cRamp ws up (i + 1)).2.2)) &&
    ((List.range 8).all fun i => i < n || cellField ws (o i) 8 = 0)

/-- The reserved bits of every step of a ramp profile are 0 (R322). -/
def stepsClear (ws : List Word) (up : Bool) : Bool :=
  (List.range 8).all fun i => cellField ws ((if up then 0x60 else 0xA0) + 8 * i + 2) 2 < 2

/-- The amplifier ramps (R290, R293, R322): without a channel the counts and profiles are ignored, but for reserved bits. A guard run of `g` symbols lasts `g` mean symbols of its slot: 71.4 µs for 2 at 30 kHz. -/
def rampOk (ws : List Word) : Bool :=
  if cPaenv ws = 0 then stepsClear ws true && stepsClear ws false
  else
    let nup := cNup ws
    let ndn := cNdn ws
    let guard := (guardRun ws).getD 0
    cPaenv ws ≤ 4 && rampSteps ws true nup && rampSteps ws false ndn && (cRamp ws false (ndn - 1)).2.1 &&
      (if cDuplex ws = 0 then nup = 1
       else
        ((List.range nup).all fun i =>
          let x := (cRamp ws true i).2.2
          decide (x ≤ 0) && decide (-(15625 * cNtaoff ws : Nat) ≤ x * 30720)) &&
        ((List.range ndn).all fun i =>
          let x := (cRamp ws false i).2.2
          decide (0 ≤ x) &&
            decide ((x * 30720 + (cNtaoff ws * 15625 + 30720000 : Nat)) * cSyms ws ≤ (guard * cSlotNs ws * 30720 : Nat))))

namespace State

/-- PARTNER (R270, R278): what a carrier may name. -/
def partnerOk (s : State) (ws : List Word) : Bool :=
  let named := cRat ws = 1 || (cRat ws = 3 && cOpmode ws ≠ 0)
  if cPartner ws = 0 then cRat ws ≠ 3 || cOpmode ws = 0
  else named && cPartner ws ≤ 512 &&
    (match s.carrier (cPartner ws - 1) with
     | some h => cRat h.words = 2 && cRegion h.words = cRegion ws &&
        !(cRat ws = 1 && s.mapped.any fun x => cRat x.2.words = 1 && cPartner x.2.words = cPartner ws)
     | none => false)

/-- Whether the parameters of CELL_SETUP are accepted (R268 to R272, R278, R290, R294). -/
def setupOk (s : State) (ws : List Word) : Bool :=
  bandOk ws && timingOk ws && streamsOk ws && patternOk ws && rampOk ws && s.partnerOk ws &&
    (cPaenv ws = 0 || !(s.mapped.any fun x => cPaenv x.2.words = cPaenv ws))

/-- The costs of a carrier: those of its row; where no row describes it, its antennas as streams, as every row of R297 with
more than two has it (DEDUCED, log entry 21; R275), and free values. -/
def costOf (s : State) (ws : List Word) : List Nat × State :=
  match rowCost ws with
  | some c => (c, s)
  | none => (List.range 10).foldl (fun (r : List Nat × State) k =>
      if k = 8 then (r.1 ++ [1000 * cNant ws], r.2) else let (v, s) := r.2.draw 20; (r.1 ++ [v], s)) ([], s)

/-- The tag of a port's frames (R321). -/
def portTag (s : State) (p : Nat) : Option Nat :=
  let v := s.rf (LN_PORTCFG.adr p) LN_PORTCFG.VLAN
  if v = 0 then none else some (s.rf (LN_PORTCFG.adr p) LN_PORTCFG.PCP * 2 ^ 13 + v)

/-- Concierge writes the downlink stream templates of a carrier (R424); which number a stream takes is not stated: the first
disabled one from a free start. -/
def setTmpls (s : State) (n : Nat) (ws : List Word) : State :=
  if cCat ws = 3 ∨ cPartner ws ≠ 0 then s
  else upto (cDlStreams ws) (fun i s =>
    let p := streamPort ws true i
    let (v, s1) := s.draw 8
    match (List.range 256).find? fun j => (sget (s1.ethOf p).tmpl ((v + j) % 256) none).isNone with
    | none => s1
    | some j =>
      let k := (v + j) % 256
      let s2 := s1.setTmpl p k (some ⟨cRmac ws, (s1.ethOf p).mac, s1.portTag p, (cEaxc ws + i) % 65536, cCompw ws⟩)
      match s2.carrier n with
      | some c => s2.setCarrier n (some { c with tmpls := c.tmpls ++ [(p, k)] })
      | none => s2) s

/-- FSSEL of a carrier's bandwidth (R447); the bandwidths of PRB counts are those of TS 38.101 (PRESUMED, log entry 21). -/
def fsSel (ws : List Word) : Nat :=
  let n := cNprb ws
  if cRat ws = 2 then (if n ≤ 50 then 0 else 1)
  else if cMu ws = 0 then (if n ≤ 52 then 0 else if n ≤ 133 then 1 else 2)
  else if n ≤ 24 then 0 else if n ≤ 65 then 1 else if n ≤ 133 then 2 else 3

/-- Whether a retired page lies in memory that Concierge's allocators hand out (R367). -/
def retiredOwn (s : State) : Bool := s.retired.any fun e => match memLoc s.ddrGiB e.1 with
  | some l => l.kind = 2 || l.kind = 3 || l.kind = 6 || (l.kind = 8 && decide (e.1 < 0x10000000000 + 0x40000000 * s.ddrDev))
  | none => false

/-- CELL_SETUP (R277, R322, R323, R342, R367). -/
def hCellSetup (s : State) (c : Cmd) : State :=
  let t := c.ticket
  let ws := c.ws
  s.chk t (s.setupOk ws) sBadParam fun s =>
    s.chk t ((s.carrier c.tgt).isNone && !s.ddrBusy) sBusy fun s =>
      let (cost, s1) := s.costOf ws
      let car : Carrier := ⟨ws, 1, 0, [], none, cost, [], [], []⟩
      let (ok, s2) := s1.worksheet car
      -- what storage a carrier needs of the pages that are left is not stated
      let (b, s3) := if s2.retiredOwn then s2.draw 1 else (0, s2)
      s3.chk t (ok && b = 0) sNoResource fun s =>
        let s4 := (s.setCarrier c.tgt (some car)).setTmpls c.tgt ws
        let a := CP_CAR.adr (cCport ws)
        let s5 := if cCat ws = 3 then
            (((s4.wf a CP_CAR.FSSEL (fsSel ws)).wf a CP_CAR.NANTM1 (cNant ws - 1)).wb a CP_CAR.VALID true).cpAlign (cCport ws)
              (gpsEpoch + cFoffset ws)
          else s4
        s5.answer t sOk []

/-! ### Start, stop, query -/

/-- The number of the last frame boundary of a carrier at or before an instant. -/
def frameAt (ws : List Word) (x : Int) : Int := (x - frameStartAt ws 0) / 10000000

/-- The ramp channel of a carrier, if it names one. -/
def rampChan (ws : List Word) : Option Nat := if cPaenv ws = 0 then none else some (1 + cPaenv ws)

/-- Whether ramping runs in the mode (R293). -/
def rampMode (s : State) : Bool := setAir.contains s.mode || s.mode = mDrain

/-- The step of an FDD carrier at its start, or its final ramp-down step at its stop (R293): `x` is the instant in extended time,
which takes the place of TDL and TDE (DEDUCED, log entry 22). -/
def fddStep (s : State) (ws : List Word) (up : Bool) (i : Nat) (x : Int) : State :=
  match rampChan ws with
  | none => s
  | some ch =>
    if cDuplex ws ≠ 0 ∨ !s.rampMode then s
    else
      let (code, fin, off) := cRamp ws up i
      let ahead := x + off - s.ext
      s.queueEntry ch ⟨code, wrapTo 32 ((s.tkns : Int) + ahead), fin && !up, some ((s.cyc : Int) + ahead)⟩

/-- CELL_START (R321): the next frame of the SFN, or with NEXT the first boundary at least 2 ms ahead. -/
def hCellStart (s : State) (c : Cmd) : State :=
  let t := c.ticket
  let w := c.w 0
  let next := bit w 31
  match s.carrier c.tgt with
  | none => s.answer t sBadParam []
  | some k =>
    s.chk t (k.st = 1 && bits w 10 21 = 0 && (!next || bits w 0 10 = 0)) sBadParam fun s =>
      let f := if next then frameAt k.words ((s.ext : Int) + 2000000 - 1) + 1
        else
          let g := frameAt k.words s.ext + 1
          g + ((bits w 0 10 : Int) - g) % 1024
      let start := frameStartAt k.words f
      ((s.setCarrier c.tgt (some { k with st := 2, start := start })).fddStep k.words true 0 start).answer t sOk []

/-- CELL_STOP (R321, R329). -/
def hCellStop (s : State) (c : Cmd) : State :=
  let t := c.ticket
  match s.carrier c.tgt with
  | none => s.answer t sBadParam []
  | some k =>
    s.chk t (k.st ≠ 3) sBusy fun s =>
      if k.st = 1 then ((s.accept t).dropCarrier c.tgt sOk).finish t sOk []
      else
        let e := k.slots.foldl (fun (m : Int) x => max m (x.tair + cSlotNs k.words)) (s.ext : Int)
        ((s.accept t).setCarrier c.tgt (some { k with st := 3, stop := some (t, e) })).fddStep k.words false (cNdn k.words - 1) e

/-- CELL_STOP_EFFECT (R293, R329): the last slot taken has ended, its indications are sent and no ramp is in progress. -/
def cellStopEffect (s : State) (n : Nat) : State :=
  match s.carrier n with
  | some c => match c.stop with
    | some (_, e) =>
      let ramping : Bool := match rampChan c.words with
        | some ch => !(s.chan ch).steps.isEmpty
        | none => false
      if (s.ext : Int) < e ∨ (c.slots.any fun x => x.isOpen (cSlotNs c.words) s.ext) ∨ ramping then s else s.dropCarrier n sOk
    | none => s
  | none => s

/-- SFN and number of the next slot of a carrier: the first whose T_air lies ahead. -/
def nextSlot (s : State) (ws : List Word) : Nat × Nat :=
  let f := frameAt ws s.ext
  let rel := ((s.ext : Int) - frameStartAt ws f).toNat
  match (List.range (10 * 2 ^ cMu ws)).find? fun k => decide (rel < inFrame ws k 0) with
  | some k => ((f % 1024).toNat, k)
  | none => (((f + 1) % 1024).toNat, 0)

/-- CELL_QUERY (R321): one word each; what the words of an absent carrier hold, and the next slot while extended time is not
set, are not stated (free). -/
def hCellQuery (s : State) (c : Cmd) : State :=
  match s.carrier c.tgt with
  | none => let (f, s1) := s.drawWords 3; s1.answer c.ticket sOk (0 :: f)
  | some k =>
    if s.extSet then
      let (sfn, sl) := s.nextSlot k.words
      s.answer c.ticket sOk [word k.st, word (cRegion k.words), word sfn, word sl]
    else let (f, s1) := s.drawWords 2; s1.answer c.ticket sOk ([word k.st, word (cRegion k.words)] ++ f)

/-! ### Slot messages -/

/-- A slot record with nothing taken. -/
def newSlot (tair : Int) (sfn slot : Nat) : SlotRec :=
  ⟨tair, sfn, slot, none, false, none, false, none, [], [], none, false, none, [], false, [], []⟩

def slotRec (k : Carrier) (tair : Int) : Option SlotRec := k.slots.find? fun x => x.tair = tair

/-- Stores a slot record; records of slots that are over are forgotten. -/
def putSlot (s : State) (n : Nat) (x : SlotRec) : State :=
  match s.carrier n with
  | none => s
  | some k =>
    let keep := k.slots.filter fun y => y.tair ≠ x.tair && y.isOpen (cSlotNs k.words) s.ext
    s.setCarrier n (some { k with slots := keep ++ [x] })

/-- The record of a slot of carrier `k`, new where no message has been taken. -/
def recOf (k : Carrier) (tair : Int) (sfn slot : Nat) : SlotRec := (slotRec k tair).getD (newSlot tair sfn slot)

/-- Concierge arms the receive block of uplink symbol `x` (R428): every group of the carrier's uplink ports that sorts one
of its streams. RT lies TUL after the end of the symbol on air (DEDUCED, log entry 22). -/
def armSymbol (s : State) (ws : List Word) (tair : Int) (sfn slot x : Nat) : State :=
  let sub := slot % 2 ^ cMu ws
  let fin := tair - inFrame ws slot 0 + inFrame ws slot (x + 1)
  let rt := wrapTo 32 ((s.tkns : Int) + (fin - cNtaNs ws + cTul ws) - s.ext)
  let app := slot / 2 ^ cMu ws + sfn % 256 * 2 ^ 8 + (16 * sub + x) * 2 ^ 16
  let streams := List.range (cUlStreams ws)
  upto 8 (fun p s =>
    let ids := (streams.filter fun i => streamPort ws false i = p).map fun i => (cEaxc ws + i) % 65536
    upto 31 (fun g s =>
      let sorts := (List.range 256).any fun e =>
        let a := LN_RXPC.adr p e
        s.rb a LN_RXPC.VALID && s.rf a LN_RXPC.GROUP = g && ids.contains (s.rf a LN_RXPC.PCID)
      if sorts then (s.busWrite 40 (0x6103000 + 0x10000 * p + 8 * g) (leBytes 8 (rt + app * 2 ^ 32))).2 else s) s) s

/-- Samples of a 10 ms frame at FS of a category 3 carrier (R448), and the sample at which symbol `y` of a slot nominally begins. -/
def frameSamples (ws : List Word) : Nat := 153600 * 2 ^ fsSel ws
def symStart (ws : List Word) (slot y : Nat) : Nat :=
  (slot / 2 ^ cMu ws * 30720 + symTs ws (slot % 2 ^ cMu ws * cSyms ws + y) / 2 ^ cMu ws) * 2 ^ fsSel ws / 2 % frameSamples ws

/-- The carrier sample index at which reception of uplink symbol `y` begins: NTAOFF early (R273). -/
def rxStart (ws : List Word) (slot y : Nat) : Nat :=
  (symStart ws slot y + frameSamples ws - cNtaoff ws * 2 ^ fsSel ws / 128) % frameSamples ws

/-- Concierge arms uplink symbol `x` of a category 3 carrier (R451): its first and last samples at FS, and PFIRST in the first symbol of an
uplink portion. -/
def armSamples (s : State) (ws : List Word) (sfn slot x : Nat) : State :=
  let cyc := frameSamples ws
  let n := 10 * 2 ^ cMu ws
  let before := if x = 0 then carries ws (if slot = 0 then (sfn + 1023) % 1024 else sfn) ((slot + n - 1) % n) (cSyms ws - 1) false
    else carries ws sfn slot (x - 1) false
  let first := x = 0 && cDuplex ws = 0 || !before
  s.ulArm (cCport ws) (rxStart ws slot x + (rxStart ws slot (x + 1) + cyc - 1) % cyc * 2 ^ 24 + b2n first * 2 ^ 48)

/-- Every uplink symbol of a slot is armed. -/
def armSlot (s : State) (ws : List Word) (tair : Int) (sfn slot : Nat) : State :=
  upto (cSyms ws) (fun x s =>
    if carries ws sfn slot x false then
      (if cCat ws = 3 then s.armSamples ws sfn slot x else s.armSymbol ws tair sfn slot x)
    else s) s

/-- A slot message (R281 to R284, R315, R324 to R329), after checks 1 to 6 of R317. -/
def hSlot (s : State) (c : Cmd) : State :=
  let t := c.ticket
  let sfn := bits (c.w 0) 0 16
  let slot := bits (c.w 0) 16 8
  let npdu := bits (c.w 0) 24 8
  match s.carrier c.tgt with
  | none => s.answer t sBadParam []
  | some k =>
    let ws := k.words
    let named := sfn < 1024 && slot < 10 * 2 ^ cMu ws
    let tair := airOf ws sfn slot s.ext
    let x := recOf k tair sfn slot
    let lead := if c.op = 0x0402 then dataLead (cMu ws) else cfgLead (cMu ws)
    let late := named && (decide (tair - lead < s.ext) || (c.op = 0x0402 && x.dlSeen && x.dl.isNone))
    let seen : Bool := match c.op with
      | 0x0401 => x.dlSeen
      | 0x0402 => x.dataSeen
      | _ => x.ulSeen
    if late then
      let x' := match c.op with
        | 0x0401 => { x with dlSeen := true }
        | 0x0402 => { x with dataSeen := true }
        | _ => { x with ulSeen := true }
      (if seen ∨ k.st ≠ 2 ∨ !c.hdrOk then s else s.putSlot c.tgt x').answer t sLate []
    else
      let body := c.ws.drop 2
      let ps := (pdusOf npdu body).getD []
      let es := splitEvery 4 npdu body
      let bodyOk := match c.op with
        | 0x0401 => (ps.all fun p => pduOk ws p true) && distinctIds ps && layersOk ws ps 16
        | 0x0402 => es.all fun e => dataOk (x.dl.getD []) e
        | _ => (ps.all fun p => pduOk ws p false && s.harqOk ws p) && distinctIds ps && layersOk ws ps 8
      s.chk t (c.hdrOk && named && c.w 1 = 0 && k.st = 2 && c.ring = some (cSlotRing ws) && !seen &&
          decide (tair ≤ (s.ext : Int) + 20000000) && bodyOk) sBadParam fun s =>
        match c.op with
        | 0x0401 => (s.putSlot c.tgt { x with dl := some ps, dlSeen := true }).answer t sOk []
        | 0x0402 =>
          let items := es.map fun e => (pf e 0 0 16, pf e 1 0 24, pf e 2 0 32 + 2 ^ 32 * pf e 3 0 32)
          if npdu = 0 then (s.putSlot c.tgt { x with data := some [], dataSeen := true }).acceptFinish t sOk [0]
          else (s.putSlot c.tgt { x with data := some items, dataSeen := true, fetch := some t }).accept t
        | _ =>
          let s1 := s.putSlot c.tgt { x with ul := some ps, ulSeen := true, ulTicket := if npdu = 0 then none else some t }
          (if npdu = 0 then s1 else s1.armSlot ws tair sfn slot).answer t sOk []

/-- One payload, fetched by hub Porter channels through the host window (R329): the payloads and the failed entries with the STATUS of
the Porter, so far, grow by it. `failed` names the entries that the host does not serve. -/
def fetchOne (failed : List (Nat × Nat)) (r : List (Nat × List Byte) × List (Nat × Nat) × State) (e : Nat × Nat × Nat) :
    List (Nat × List Byte) × List (Nat × Nat) × State :=
  let (f, bs, s1) := r.2.2.busRead 40 (0x800000000000 + e.2.2) e.2.1
  match (failed.find? fun g => g.1 = e.1).map Prod.snd |>.orElse fun _ => f.map Prod.fst with
  | some st => (r.1, r.2.1 ++ [(e.1, st)], s1)
  | none => (r.1 ++ [(e.1, bs)], r.2.1, s1)

/-- DL_DATA_FETCH_DONE (R329). -/
def fetchDone (s : State) (n sfn slot : Nat) (failed : List (Nat × Nat)) : State :=
  match s.carrier n with
  | none => s
  | some k =>
    match slotRec k (airOf k.words sfn slot s.ext) with
    | none => s
    | some x =>
      match x.fetch with
      | none => s
      | some t =>
        let (got, bad, s0) := (x.data.getD []).foldl (fetchOne failed) ([], [], s)
        let s1 := s0.putSlot n { x with fetch := none, payload := got, missing := bad.map Prod.fst }
        let s2 := bad.foldl (fun s f => s.raise 0x0504 (1024 + n) (sfn * 2 ^ 16 + slot) f.1 f.2) s1
        s2.finish t sOk (word bad.length :: bad.map fun f => word f.1)

/-! ### Indications (R330 to R332) -/

/-- Whether the sent indications `sent` are the last of a slot: the slot indication, and a PRACH indication where the slot
holds PRACH PDUs. -/
def indDone (ps : List (List Word)) (sent : List Nat) : Bool :=
  sent.contains 5 && (sent.contains 4 || !(ps.any fun p => pduType p &&& 0xFF0F = 0x0103))

/-- The PDU of a slot's UL_CONFIG that an entry names. -/
def ulPdu (x : SlotRec) (e : IndEntry) : Option (List Word) :=
  (x.ul.getD []).find? fun p => pduId p = bits ((e.words.getD 0 0).toNat) 0 16

/-- Word `i` of an entry, written. -/
def putWord (e : List Word) (i v : Nat) : List Word := lset e i (word v)

/-- The gain, burst and CLIP bits of an antenna of a radio point: those frozen for the slot's portion, or the stage's own while
the portion lasts (R289). -/
def gainBits (s : State) (ws : List Word) (x : SlotRec) (a : Nat) : Nat :=
  let p := s.cp (cCport ws)
  (x.gains.find? fun g => g.1 = a).elim
    (p.gain.getD a 0 + 64 * b2n (p.burst.getD a false) + 128 * b2n (p.clipped.getD a false)) Prod.snd

/-- What an entry reports of its allocation's pilots (R285, R286): timing with SAT, and frequency, in the words of its kind; the
frequency offset where there is one. `f` numbers the free values. -/
def pilotWords (ws : List Word) (op f : Nat) (p : List Word) (e : IndEntry) : List Word × Option Int :=
  let gap := pilotGap ws p e
  let hz := wholeOf (freqHz ws gap e.turn) (Config.freeValue f % 2 = 1)
  let (tw, sat) := timingWord (cMu ws) e.slope (Config.freeValue (f + 1) % 2 = 1)
  let fw := if gap = 0 then Config.freeValue (f + 2) % 2 ^ 32 else wrapTo 32 hz
  let at_ := if op = 1 then 3 else 1
  let head := setBits ((e.words.getD 0 0).toNat) 19 1 (b2n sat)
  (if op = 1 ∨ op = 3 then putWord (putWord (putWord e.words 0 head) at_ tw) (at_ + 1) fw else e.words,
   if gap = 0 ∨ !tracked p then none else some hz)

/-- An entry that depends on an aborted task is sent with CRC failure (R284): ABORTED clears PASS. -/
def entryHead (h len : Nat) : Nat :=
  let v := setBits (setBits h 24 8 len) 21 3 0
  if bit v 17 then setBits v 16 1 0 else v

/-- Words of an entry (R331). -/
def entryLen (ws : List Word) (op : Nat) (e : List Word) : Nat :=
  let w := (e.getD 1 0).toNat
  match op with
  | 0 => 2 + (bits w 0 8 + bits w 9 10 + bits w 19 10 + 31) / 32
  | 1 => 6
  | 2 => 2
  | 3 => 4
  | 4 => 3
  | _ => 2 + cNant ws

/-- Bytes that an entry writes at DADDR (R331): none where the data fails. -/
def entryBytes (op : Nat) (e : IndEntry) : List Byte :=
  if op = 1 ∧ bit (entryHead ((e.words.getD 0 0).toNat) 6) 16 then e.data else []

/-- An entry as sent, with its words, flags and reserved bits (R284, R330, R331). -/
def entryWords (s : State) (ws : List Word) (x : SlotRec) (op f : Nat) (mean : Nat) (e : IndEntry) : List Word :=
  let n := entryLen ws op e.words
  let have_ := (List.range n).map fun i => e.words.getD i 0
  let body := match ulPdu x e with
    | some p => if op = 1 ∨ op = 3 then (pilotWords ws op f p { e with words := have_ }).1 else have_
    | none => have_
  let body := if op = 1 then putWord body 2 (entryBytes op e).length else body
  let body := if op ≠ 5 then body else
    (putWord (putWord body 0 (setBits ((body.getD 0 0).toNat) 0 16 0xFFFF)) 1 mean).zipIdx.map fun (w, i) =>
      if 2 ≤ i ∧ cCat ws = 3 then word (setBits w.toNat 0 8 (s.gainBits ws x (i - 2))) else w
  word (entryHead ((body.getD 0 0).toNat) n) :: body.drop 1

/-- The data of an entry goes to host memory at DADDR (R327, R332). -/
def entryWrite (s : State) (x : SlotRec) (op : Nat) (e : IndEntry) : State :=
  match ulPdu x e with
  | some p => if (entryBytes op e).isEmpty then s
      else s.hostPost (pf p 11 0 32 + 2 ^ 32 * pf p 12 0 32 + e.place) (entryBytes op e)
  | none => s

/-- The offsets that the entries of an indication add to those of the slot, each PDU once (R287). -/
def entryFreqs (ws : List Word) (x : SlotRec) (op f : Nat) (es : List IndEntry) : List (Nat × Int × Nat) :=
  (es.zipIdx).foldl (fun fs (e, i) =>
    match ulPdu x e with
    | none => fs
    | some p => match (pilotWords ws op (f + 3 * i) p e).2 with
      | some hz => if fs.any (fun g => g.1 = pduId p) then fs else fs ++ [(pduId p, hz, ulPrbs p)]
      | none => fs) x.freqs

/-- INDICATION_SEND (R281, R284 to R287, R289, R330): of a slot whose UL_CONFIG has been taken with PDUs. The deadlines and LATEIND
follow R281. Uplink data reaches host memory before the indication (R332). The slot indication closes the slot's offsets and reports the mean; with no slot kept it is free. -/
def indSend (s : State) (n op sfn slot : Nat) (late aborted : Bool) (es : List IndEntry) : State :=
  match s.carrier n with
  | none => s
  | some k =>
    match slotRec k (airOf k.words sfn slot s.ext) with
    | none => s
    | some x =>
      match x.ulTicket with
      | none => s
      | some t =>
        let due := x.tair + cSlotNs k.words + (if op = 0 then 250000 else 500000 : Int)
        let isLate := if op = 4 then prachLate k.words x s.ext late else decide (due < s.ext)
        let offs := if op = 5 then keepOffsets k.foffs x.freqs else k.foffs
        let f := s.free + 1
        let mean := if offs.isEmpty then Config.freeValue s.free % 2 ^ 32
          else wrapTo 32 (wholeOf (meanOffset offs) (Config.freeValue s.free % 2 = 1))
        let freqs := if op ≤ 3 ∧ op ≠ 2 then entryFreqs k.words x op f es else x.freqs
        let ws := word (sfn + slot * 2 ^ 16 + (es.length % 256) * 2 ^ 24) :: word (b2n isLate + 2 * b2n aborted) ::
          es.zipIdx.flatMap fun (e, i) => s.entryWords k.words x op (f + 3 * i) mean e
        let sent := x.sent ++ [op]
        let s0 := { s with free := f + 3 * es.length }.setCarrier n (some { k with foffs := offs })
        let s1 := es.foldl (fun s e => s.entryWrite x op e) s0
        let s2 := s1.postReply (cIndRing k.words) (replyBytes (0x0481 + op) 3 t.tag n sOk t.seq ws) none
        s2.putSlot n { x with sent := sent, ulTicket := if indDone (x.ul.getD []) sent then none else some t, freqs := freqs }

/-! ### Control messages (R276, R282, R419) -/

/-- The beam that the slot's PDUs give PRB `b` of downlink stream `i` in a symbol: the PDSCHs there take the streams in the order of the
message, one for each layer (R275; DEDUCED, log entry 22); else a CSI-RS there. -/
def beamAt (ps : List (List Word)) (i x b : Nat) : Option Nat :=
  let inside (v a n : Nat) : Bool := a ≤ v && v < a + n
  let sch := (ps.filter fun p => pduType p &&& 0xFF0F = 0x0003 && inside b (pf p 3 0 9) (pf p 3 9 9) &&
    inside x (pf p 3 18 4) (pf p 3 22 4)).foldl (fun (r : Option Nat × Nat) p =>
      (if r.1.isNone && inside i r.2 (pf p 2 16 4) then some (pf p 7 0 15) else r.1, r.2 + pf p 2 16 4)) (none, 0)
  sch.1.orElse fun _ =>
    (ps.find? fun p => pduType p &&& 0xFF0F = 0x0004 && inside b (pf p 3 0 9) (pf p 3 9 9) &&
      (x = pf p 4 0 4 || x = pf p 4 4 4)).map fun p => pf p 5 16 15

/-- The PRBs of a stream in a symbol, cut where the beam changes: first PRB, count, beam. -/
def beamCuts (n : Nat) (beam : Nat → Option Nat) : List (Nat × Nat × Option Nat) :=
  (List.range n).foldl (fun l b => match l.getLast? with
    | some (a, k, v) => if v = beam b then l.dropLast ++ [(a, k + 1, v)] else l ++ [(b, 1, beam b)]
    | none => [(b, 1, beam b)]) []

/-- The runs of symbols of a slot that a control message covers: first symbol, length and what its sections name, which is the same for
each. -/
def symRuns {α : Type} [DecidableEq α] (n : Nat) (f : Nat → Bool) (g : Nat → α) : List (Nat × Nat × α) :=
  (List.range n).foldl (fun rs x =>
    if !f x then rs
    else match rs.getLast? with
      | some (a, k, v) => if a + k = x ∧ v = g x then rs.dropLast ++ [(a, k + 1, v)] else rs ++ [(x, 1, g x)]
      | none => [(x, 1, g x)]) []

/-- One section of a type 2 message (R419): its PRBs, its symbols, a beam and, where there are any, weights. -/
def ctrlSection (ws : List Word) (secid prb n nsym beam : Nat) (wts : List Byte) : List Byte :=
  let ef := !wts.isEmpty
  beBytes 2 (secid * 16) ++ beBytes 2 (prb * 64) ++ beBytes 2 (n % 1024 * 64) ++ beBytes 2 (0xFFF0 + nsym) ++
    beBytes 2 (b2n ef * 2 ^ 15 + beam) ++ beBytes 1 (cCompw ws) ++ [0] ++ (if ef then beBytes 2 (cNant ws) ++ wts else [])

/-- Sections divided among messages (R419): as many whole ones in each as fit in `room` bytes, and in the count of one byte. -/
def packSections (room : Nat) (secs : List (List Byte)) : List (List (List Byte)) :=
  secs.foldl (fun ms x => match ms.getLast? with
    | some m => if (m.map List.length).sum + x.length ≤ room ∧ m.length < 255 then ms.dropLast ++ [m ++ [x]] else ms ++ [[x]]
    | none => [[x]]) []

/-- The type 2 messages of stream `i` for a run of symbols (R410, R415, R419), as timed entries of queue `q` of its port with launch
instant `lt` in extended time (R282): `ws` are the fields of the carrier whose streams they use. -/
def ctrlMessage (s : State) (ws ts : List Word) (dl : Bool) (sfn slot i q : Nat) (lt : Int) (sym : Nat) (secs : List (List Byte)) :
    State :=
  let p := streamPort ws dl i
  let id := (cEaxc ws + i) % 65536
  let hdr := ethHeader (cRmac ws) (s.ethOf p).mac (s.portTag p) 0xAEFE
  -- common header, PC_ID, SEQ_ID, application header, NSEC and FCS
  (packSections (9216 - hdr.length - 20) secs).foldl (fun s m =>
    let pay := beBytes 2 id ++ [0, 0x80] ++ appHeader ts dl sfn slot sym ++ [0] ++ beBytes 1 m.length ++ [0, 0, 0] ++ m.flatten
    let bs := ethPad (hdr ++ ecpri 2 pay)
    s.joinQueue p q ⟨some (wrapTo 32 ((s.tkns : Int) + (lt - s.ext))), some ((s.cyc : Int) + (lt - s.ext)), bs.length, bs.length,
      [⟨bs, some (hdr.length + 6, if dl then id else 65536 + id)⟩], false⟩) s

/-- The beam and the weights of uplink stream `i` of a category B radio for a slot (R276): those of the previous slot when the new ones
are not ready; what CMAT computes is free. -/
def ulWeights (s : State) (k : Carrier) (h : List Word) (stale : Bool) (i : Nat) : (Nat × List Byte) × State :=
  match k.wts.find? fun w => w.1 = i, stale with
  | some w, true => (w.2, s)
  | _, _ =>
    let (beam, s1) := s.draw 15
    let (wts, s2) := if cNrxp h ≠ cNant h then s1.drawBytes (4 * cNant h) else ([], s1)
    ((beam, wts), s2)

/-- Whether a slot has an uplink control message of carrier `k`. -/
def hasUl (s : State) (k : Carrier) (tair : Int) (sfn slot : Nat) : Bool :=
  (List.range (cSyms k.words)).any fun x => s.sendsSym k tair sfn slot x false

/-- The uplink control messages of a slot (R276, R282) on the streams of `h`: weights go once, with the first run of symbols. A slot
without uplink symbols has none. -/
def ulControl (s : State) (n : Nat) (k : Carrier) (h : List Word) (x : SlotRec) (q : Nat) (lt : Int) (stale : Bool) : State :=
  if !s.hasUl k x.tair x.sfn x.slot then s
  else
    let catB := cCat h = 2
    let (bw, s1) := (List.range (if catB then cUlStreams h else 0)).foldl (fun (r : Sparse (Nat × List Byte) × State) i =>
      let (w, s) := r.2.ulWeights k h stale i
      (r.1 ++ [(i, w)], s)) ([], s)
    let s2 := if catB then s1.setCarrier n (some { k with wts := bw }) else s1
    (symRuns (cSyms k.words) (fun y => s.sendsSym k x.tair x.sfn x.slot y false) fun _ => ()).zipIdx.foldl (fun s (r, j) =>
      upto (cUlStreams h) (fun i s =>
        let (beam, wts) := sget bw i (0, [])
        s.ctrlMessage h k.words false x.sfn x.slot i q lt r.1 [ctrlSection h 0 0 (cNprb h) r.2.1 beam (if j = 0 then wts else [])]) s) s2

/-- The sections of a run for a downlink stream; a beam that no PDU gives is free. -/
def dlSections (s : State) (h : List Word) (nsym : Nat) (cuts : List (Nat × Nat × Option Nat)) : List (List Byte) × State :=
  cuts.foldl (fun (r : List (List Byte) × State) c =>
    let (beam, s) := match c.2.2 with
      | some b => (b, r.2)
      | none => r.2.draw 15
    (r.1 ++ [ctrlSection h r.1.length c.1 c.2.1 nsym beam []], s)) ([], s)

/-- The downlink control messages of a slot (R282, R419) on the streams of `h`: those of a category B radio carry the beams of the slot's
PDUs. -/
def dlControl (s : State) (k : Carrier) (h : List Word) (x : SlotRec) (q : Nat) (lt : Int) : State :=
  let ps := x.dl.getD []
  upto (cDlStreams h) (fun i s =>
    let beam (y b : Nat) : Option Nat := if cCat h = 2 then beamAt ps i y b else some 0
    (symRuns (cSyms k.words) (fun y => s.sendsSym k x.tair x.sfn x.slot y true) fun y => beamCuts (cNprb h) (beam y)).foldl (fun s r =>
      let (secs, s1) := s.dlSections h r.2.1 r.2.2
      s1.ctrlMessage h k.words true x.sfn x.slot i q lt r.1 secs) s) s

/-- CONTROL_MESSAGE_LAUNCH (R270, R276, R279, R282, R284): the control messages of a slot of a started carrier, once, with their launch
instant T_air − TADV − TCP, and the U-plane of its downlink symbols, each for its own instant; the pattern alone decides which symbols
they name. Which queue of a port they take is not stated (free). -/
def ctrlLaunch (s : State) (n sfn slot : Nat) (stale : Bool) : State :=
  match s.carrier n with
  | none => s
  | some k => match s.streamHost k with
    | none => s
    | some h =>
      let ws := k.words
      let tair := airOf ws sfn slot s.ext
      let x := recOf k tair sfn slot
      let lt := tair - cTadv ws - cTcp ws
      if cCat h.words = 3 ∨ runsAt k tair = false ∨ x.launched ∨ 10 * 2 ^ cMu ws ≤ slot ∨ (s.ext : Int) < lt then s
      else
        let (q, s0) := s.draw 3
        let s1 := (((s0.dlControl k h.words x q lt).ulControl n k h.words x q lt stale).slotPlane n k h x).putSlot n
          { x with launched := true }
        if stale && cCat h.words = 2 && s.hasUl k tair sfn slot then s1.raise 0x0501 (1024 + n) (sfn * 2 ^ 16 + slot) 0 0 else s1

/-- SCHEDULED_FRAME_LAUNCH (R282, R426, R484): U-plane whose launch instant has come joins its queue with its frames; then the timed
head of the queue starts, or is dropped as late. -/
def scheduledLaunch (s : State) (p q : Nat) (bad : Bool) : State :=
  match s.uplane.find? (s.planeDue p q) with
  | none => s.frameLaunch p q bad
  | some u =>
    let (u1, s1) := { s with uplane := ldrop1 (s.planeDue p q) s.uplane }.planeFill u
    (s1.joinQueue p q u1.ent).frameLaunch p q bad

/-! ### Ramps and gain -/

/-- Whether symbol `x` of a slot begins (`up`) or ends a downlink run of the pattern (R290). -/
def rampEdge (ws : List Word) (up : Bool) (sfn slot x : Nat) : Bool :=
  let n := 10 * 2 ^ cMu ws
  let next := if x + 1 < cSyms ws then carries ws sfn slot (x + 1) true
    else if slot + 1 < n then carries ws sfn (slot + 1) 0 true else carries ws ((sfn + 1) % 1024) 0 0 true
  let prev := if 0 < x then carries ws sfn slot (x - 1) true
    else if 0 < slot then carries ws sfn (slot - 1) (cSyms ws - 1) true
    else carries ws ((sfn + 1023) % 1024) (n - 1) (cSyms ws - 1) true
  carries ws sfn slot x true && !(if up then prev else next)

/-- RAMP_QUEUE (R290, R291, R293): the steps of the transition at the downlink run that begins (TDL) or ends (TDE) with a symbol of the
TDD pattern, at least 100 µs before its first step. FINAL is of ramp-down steps only (R292). -/
def rampQueue (s : State) (n : Nat) (up : Bool) (sfn slot sym : Nat) : State :=
  match s.carrier n with
  | none => s
  | some k =>
    let ws := k.words
    match rampChan ws with
    | none => s
    | some ch =>
      let t := symAir ws (airOf ws sfn slot s.ext) slot (if up then sym else sym + 1)
      let ahead (i : Nat) : Int := t + (cRamp ws up i).2.2 - s.ext
      if !s.rampMode ∨ k.st < 2 ∨ (up ∧ k.st = 3) ∨ cDuplex ws ≠ 1 ∨ !rampEdge ws up sfn slot sym ∨ ahead 0 < 100000 then s
      else
        (List.range (if up then cNup ws else cNdn ws)).foldl (fun s i =>
          s.queueStep ch (cRamp ws up i).1 (wrapTo 32 ((s.tkns : Int) + ahead i)) ((cRamp ws up i).2.1 && !up)) s

/-- The end of the guard period before an uplink symbol, as the samples that its noise floor is measured over (R288, step 1): first index
and count, 1,024 or all of it when shorter. -/
def guardSpan (ws : List Word) (sfn slot sym : Nat) : Nat × Nat :=
  let n := cNsympat ws
  let at_ := (sfn * 10 * 2 ^ cMu ws + slot) * cSyms ws + sym
  let g := ((List.range n).find? fun i => cPat ws ((at_ + n * (at_ / max 1 n + 1) - 1 - i) % n) ≠ 2).getD n
  let total := 10 * 2 ^ cMu ws * cSyms ws
  let b := (slot * cSyms ws + sym + total - g % total) % total
  let cyc := frameSamples ws
  let len := if g = 0 then 0 else (rxStart ws slot sym + cyc - symStart ws (b / cSyms ws) (b % cSyms ws)) % cyc
  ((rxStart ws slot sym + cyc - min 1024 len) % cyc, min 1024 len)

/-- W of a portion whose first symbol is given (R288): an eighth of its CP in samples. -/
def gainW (ws : List Word) (slot sym : Nat) : Nat :=
  let cyc := frameSamples ws
  ((rxStart ws slot (sym + 1) + cyc - rxStart ws slot sym) % cyc - 2048 * 2 ^ fsSel ws / 2 ^ (cMu ws + 1)) / 8

/-- UL_GAIN_WINDOW (R288) of a category 3 carrier: window `win` of the portion whose first symbol is named, which is armed with PFIRST
(R451), once the window's samples have arrived. -/
def cellGain (s : State) (n ant win sfn slot sym : Nat) : State :=
  match s.carrier n with
  | some k =>
    let ws := k.words
    let p := cCport ws
    let cyc := s.cpCyc p
    let c := s.cp p
    let (a, m) := if win = 0 then guardSpan ws sfn slot sym
      else ((rxStart ws slot sym + (win - 1) * gainW ws slot sym) % cyc, gainW ws slot sym)
    if cCat ws = 3 ∧ ant < cNant ws ∧ 2 ≤ k.st ∧ (c.arms.any fun x => x.1 = rxStart ws slot sym && x.2.2) = true ∧
        2 * ((c.rxNext + cyc - (a + m) % cyc) % cyc) < cyc then
      s.gainWindow p ant win a m (cTgt ws) (cBthr ws) (cDuplex ws = 1) else s
  | none => s

/-- The frozen bits of antenna `ant` stand for every open slot of the portion that ends (R289). -/
def holdGains (k : Carrier) (tair : Int) (ant v : Nat) : Carrier :=
  { k with slots := k.slots.map fun x =>
      if x.tair ≤ tair ∧ !x.gains.any (fun g => g.1 = ant) then { x with gains := x.gains ++ [(ant, v)] } else x }

/-- UL_PORTION_END (R289): more than 1 in 1,024 samples saturate. -/
def portionEnd (s : State) (n ant sfn slot samples : Nat) : State :=
  match s.carrier n with
  | some k =>
    if cCat k.words = 3 ∧ ant < cNant k.words then
      let p := cCport k.words
      let c := s.cp p
      let hit := decide (samples < 1024 * c.clip.getD ant 0)
      let v := c.gain.getD ant 0 + 64 * b2n (c.burst.getD ant false) + 128 * b2n hit
      let s1 := (s.setCp p { c with clipped := lset c.clipped ant hit, clip := lset c.clip ant 0 }).setCarrier n
        (some (holdGains k (airOf k.words sfn slot s.ext) ant v))
      if hit then s1.raise 0x0502 (1024 + n) (sfn * 2 ^ 16 + slot) ant 0 else s1
    else s
  | none => s

/-! ### DELAY_MEAS (R420) -/

/-- DELAY_MEAS: of a carrier with Ethernet fronthaul; one runs at a time for a carrier. -/
def hDelayMeas (s : State) (c : Cmd) : State :=
  match s.carrier c.tgt with
  | none => s.answer c.ticket sBadParam []
  | some k =>
    s.chk c.ticket (1 ≤ c.w 0 && c.w 0 ≤ 64 && cEth k.words) sBadParam fun s =>
      s.chk c.ticket (s.delRun c.tgt).isNone sBusy fun s =>
        (s.accept c.ticket).setDelRun c.tgt (some ⟨c.ticket, cFhdl0 k.words, c.w 0, [], [], 0⟩)

/-- DELAY_MEAS_SEND: the next Request goes to the carrier's radio. -/
def delayMeasSend (s : State) (n : Nat) : State :=
  match s.carrier n with
  | some k => s.delSend n (cRmac k.words)
  | none => s

/-! ### PL_SET, DOMAIN_SET -/

/-- PL_SET (R299, R525). -/
def hPlSet (s : State) (c : Cmd) : State :=
  let t := c.ticket
  let i := c.tgt
  let l := c.w 0
  let r := islandRegion i
  let a := PW_ISLAND.adr i
  s.chk t (l < 6) sBadParam fun s =>
    s.chk t (!(s.plJobs.any fun j => j.1 = i)) sBusy fun s =>
      if s.rf a PW_ISLAND.ACTIVE = l then s.answer t sOk []
      else
        let cs := s.regionCarriers r
        let (ok, s1) := if cs.isEmpty then (true, s) else s.regionOk r cs (some (i, l)) none
        s1.chk t ok sNoResource fun s =>
          let s2 := ((s.wf a PW_ISLAND.TARGET l).wb a PW_ISLAND.CHANGING true).hold t
          { s2 with plJobs := s2.plJobs ++ [(i, t)] }

/-- PL_CHANGE_COMPLETE (R525, step 4). -/
def plDone (s : State) (i : Nat) : State :=
  match s.plJobs.find? fun j => j.1 = i with
  | none => s
  | some (_, t) =>
    let a := PW_ISLAND.adr i
    ({ s with plJobs := s.plJobs.filter fun j => j.1 ≠ i }.wf a PW_ISLAND.ACTIVE (s.rf a PW_ISLAND.TARGET)).wb a
      PW_ISLAND.CHANGING false |>.finish t sOk []

/-- Whether a mapped carrier uses domain `d` (R520). -/
def domUsed (s : State) (d : Nat) : Bool :=
  s.mapped.any fun x =>
    let ws := x.2.words
    let r := cRegion ws
    let ds := [264 + 14 * r, 265 + 14 * r, 320 + r / 2] ++ (if cCat ws = 3 then [11 * cOwnclu ws] else []) ++ cPortDoms ws
    ds.any fun y => domWithin d y

/-- Column of the worksheet that a unit's domain belongs to, and the domains of its class in its region (R520). -/
def unitColumn (d : Nat) : Option (Nat × Nat × List Nat) :=
  if d < 264 then
    let r := d / 66
    let x := d % 11
    let cl (p : Nat → Bool) := (List.range 66).filterMap fun k => if p (k % 11) then some (66 * r + k) else none
    if x = 0 then none
    else if x < 9 then some (0, r, cl fun y => 1 ≤ y && y < 9)
    else if x = 9 then some (1, r, cl fun y => y = 9)
    else some (0, r, cl fun y => y = 10)
  else if d < 320 then
    let r := (d - 264) / 14
    let x := (d - 264) % 14
    if x < 2 then none
    else
      let e := x - 2
      let g (lo hi col : Nat) := some (col, r, (List.range (hi - lo)).map fun k => 266 + 14 * r + lo + k)
      if e < 4 then g 0 4 2 else if e < 6 then g 4 6 3 else if e = 6 then g 6 7 4 else if e = 7 then g 7 8 5
      else if e < 10 then g 8 10 6 else g 10 12 7
  else none

/-- Whether region columns allow domain `d` to be switched off (R520). -/
def domFits (s : State) (d : Nat) : Bool × State :=
  match unitColumn d with
  | none => (true, s)
  | some (k, r, ds) =>
    let cs := s.regionCarriers r
    if cs.isEmpty then (true, s)
    else
      let on := (ds.filter fun x => s.domOn x).length
      let left := (ds.filter fun x => x ≠ d && s.domOn x).length
      s.regionOk r cs none (some (k, on, left))

/-- DOMAIN_SET (R519 to R522). R520's refusals are read for both values of ON. -/
def hDomain (s : State) (c : Cmd) : State :=
  let t := c.ticket
  let d := c.tgt
  let on := bit (c.w 0) 0
  s.chk t (c.w 0 < 2 && (d < 322 || (329 ≤ d && d < 341) || (342 ≤ d && d < 350))) sBadParam fun s =>
    s.chk t (s.domJob.isNone && !s.domUsed d) sBusy fun s =>
      if on then
        let ds := (domsAbove d).filter fun x => !s.domOn x
        let s1 := ds.foldl (fun s x => s.domUp x) (s.accept t)
        let wait := ds.filterMap domIsland
        if wait.isEmpty then s1.finish t sOk [] else { s1 with domJob := some ⟨t, true, ds, wait⟩ }
      else
        let (ok, s0) := s.domFits d
        s0.chk t ok sNoResource fun s =>
          let ds := (domsBelow d).filter fun x => s.domOn x
          if ds.isEmpty then s.acceptFinish t sOk []
          else
            let s1 := { s.accept t with domJob := some ⟨t, false, ds, []⟩ }
            ds.foldl (fun s x => s.domQuiesce x) s1

/-- Islands among `ds` whose bridges must still drain before their power goes (R26, R76): requests have crossed and are unanswered, or
a pulse or value is in flight. -/
def domUndrained (s : State) (ds : List Nat) : List Nat :=
  (ds.filterMap domIsland).filter fun i => decide ((s.isl i).phase = .none) &&
    (!(s.heldReqs i).isEmpty || (ownedXings i).any fun x => (s.xing x.key).busy)

/-- DOMAIN_DRAIN_END (R76, R521, steps 2 and 3): held tasks are aborted; where requests are still in flight the bridges drain, turning
new ones away, and the next such command finds the drain complete or timed out; then the power goes. -/
def domDrainEnd (s : State) : State :=
  match s.domJob with
  | some j =>
    if j.on then s
    else
      let wait := s.domUndrained j.doms
      if wait.isEmpty then
        let s1 := j.doms.foldl (fun (s : State) d => s.domOff d) s
        match j.ticket with
        | some t => { s1 with domJob := none }.finish t sOk []
        | none => { s1 with domJob := none }
      else
        let s1 := j.doms.foldl (fun (s : State) d => match domUnit d with
          | some (r, u) => s.abortUnit r u 1
          | none => s) s
        wait.foldl (fun s i => s.drainStart i kOn) s1
  | none => s

/-- CHALLENGE_EXPIRE (R567). -/
def challengeExpire (s : State) : State :=
  match s.challenge with
  | some _ => { s with challenge := none }.wb SEC_STAT.adr SEC_STAT.CHALV false
  | none => s

end State

end Sys2Proof.Machine
end

