-- ==== Sys2Proof/Machine/Packets.lean ====
section
/-! DEFINITION. Taking packets (R302 to R335): the checks of R317 and the dispatch of opcodes, submission rings, the service
UART, egress posts, and the commands of the rows that carry a packet. -/

namespace Sys2Proof.Machine

/-- Parameter words of a packet: PLEN of them, as they stand in the ring. -/
def packetWords (plen : Nat) (ws : List Word) : List Word := ws.take plen ++ List.replicate (plen - ws.length) 0

/-- No host answers a command that reads nothing of host memory. -/
def noHost : HostData := ⟨[], false⟩

namespace State

/-- The handler of an opcode that has passed checks 1 to 6 of R317, its header checked. -/
def dispatch (s : State) (c : Cmd) : State :=
  match c.op with
  | 0x0101 => s.hDevInfo c.ticket
  | 0x0102 => s.hModeSet c
  | 0x0103 => s.hReset c
  | 0x0104 => s.hStatus c.ticket
  | 0x0105 => s.answer c.ticket sOk c.ws
  | 0x0201 => s.hSettingGet c
  | 0x0202 => s.hSettingSet c
  | 0x0203 => s.hSettingList c
  | 0x0301 => s.hCellSetup c
  | 0x0302 => s.hCellStart c
  | 0x0303 => s.hCellStop c
  | 0x0304 => s.hCellQuery c
  | 0x0501 => s.hPortCfg c
  | 0x0502 => s.hDelayMeas c
  | 0x0503 => s.hCpLink c
  | 0x0504 => s.hCpStatus c
  | 0x0505 => s.hAoSet c
  | 0x0506 => s.hAoStep c
  | 0x0601 => s.hTimeGet c.ticket
  | 0x0602 => s.hTimeStep c
  | 0x0603 => s.hUtc c
  | 0x0604 => s.hPtpCfg c
  | 0x0605 => s.hSyncSrc c
  | 0x0701 => s.hScrub c
  | 0x0702 => s.hEccGet c
  | 0x0703 => s.hEccClear c
  | 0x0704 => s.hRetire c.ticket
  | 0x0705 => s.hMemRead c
  | 0x0706 => s.hMemWrite c
  | 0x0801 => s.hGbFlush c.ticket
  | 0x0802 => s.hGbRead c
  | 0x0803 => s.hEvtRoute c
  | 0x0901 => s.hPlSet c
  | 0x0902 => s.hDomain c
  | 0x0903 => s.hSleep c.ticket
  | 0x0904 => s.hAlarm c
  | 0x0905 => s.hPower c.ticket
  | 0x0A01 => s.hAttest c
  | 0x0A02 => s.hIdGet c.ticket
  | 0x0A03 => s.hChallenge c.ticket
  | 0x0A04 => s.hUnlock c
  | 0x0A05 => s.hExport c
  | 0x0A06 => s.hRevoke c
  | 0x0B01 => s.hLoop c
  | 0x0B02 => s.hPrbs c
  | 0x0B03 => s.hSelfTest c
  | 0x0C01 => s.hUpdBegin c
  | 0x0C02 => s.hUpdChunk c
  | 0x0C03 => s.hUpdCommit c.ticket
  | 0x0C04 => s.hUpdAbort c.ticket
  | _ => s

/-- The checks of R317 in their order, and the command. -/
def serve (s : State) (c : Cmd) : State :=
  match opRow c.op with
  | none => s.answer c.ticket sBadOpcode []
  | some r =>
    s.chk c.ticket (c.hdr.version = 1) sBadOpcode fun s =>
      s.chk c.ticket (c.lenOk r) sBadLength fun s =>
        s.chk c.ticket (s.modeOk c r) sWrongMode fun s =>
          s.chk c.ticket (!r.t || s.extSet) sTimeUnset fun s =>
            s.chk c.ticket (!s.tgtOff c) sAsleep fun s =>
              s.chk c.ticket (!s.tgtDead c) sDead fun s =>
                if isSlotMsg c.op then s.hSlot c
                else s.chk c.ticket c.hdrOk sBadParam fun s => s.dispatch c

/-! ### Submission rings (R304 to R316) -/

/-- Whether Concierge takes packets at all: out of reset, awake, READY, and no sleep being prepared (R316, R533). -/
def serving (s : State) : Bool :=
  s.running && s.rb HUB_RINGGLB.adr HUB_RINGGLB.READY && decide (s.mode ≠ mBoot) && !s.preparing

/-- Whether a packet waits at the head of ring `n` and may be read (R309, R312): a level change of the ring awaits its one reply. -/
def ringHas (s : State) (n : Nat) : Bool :=
  s.ringEn n && !s.ringErr n && decide (s.sqHead n ≠ (s.ring n).tail) && !(s.plJobs.any fun j => j.2.ring = some n)

/-- Whether every earlier packet of ring `n` has had its final reply written (R313): none is open, and none waits for room. A reply
that was lost is waited for no longer (DEDUCED, log entry 11). -/
def ringSettled (s : State) (n : Nat) : Bool :=
  (s.ring n).opened = 0 && !((List.range 16).any fun m => (s.ring m).waiting.any fun w => w.fin = some n)

/-- Whether ring `n` lets a packet go (R313, R314): FENCE waits for every final reply; a slot message waits while the slice of its
region withholds credits. -/
def ringTakes (s : State) (n op : Nat) (h : PktHdr) : Bool :=
  (!bit h.flags.toNat 1 || s.ringSettled n) &&
    !(isSlotMsg op && match s.carrier h.target.toNat with
      | some k => s.credHold (cRegion k.words)
      | none => false)

/-- Whether ring `n` has a packet that nothing known holds back: one whose header has not been read counts. -/
def ringReady (s : State) (n : Nat) : Bool :=
  s.ringHas n && !s.ringShort n && (s.ring n).waitHdr.all fun p => s.ringTakes n p.1 p.2

/-- The slot-class ring whose turn it is (R314), by round robin. -/
def slotTurn (s : State) : Option Nat :=
  ((List.range 16).map fun i => (s.rrSlot + i) % 16).find? fun n => s.rb (HUB_RINGCTL.adr n) HUB_RINGCTL.SLOT && s.ringReady n

/-- Whether ring `n` is served now (R314): slot-class rings go ahead of all others, in turn. -/
def ringTurn (s : State) (n : Nat) : Bool := s.slotTurn.all fun m => m = n

/-- The turn passes on after a packet of a slot-class ring (R314). -/
def turnNext (s : State) (n : Nat) : State :=
  if s.rb (HUB_RINGCTL.adr n) HUB_RINGCTL.SLOT then { s with rrSlot := (n + 1) % 16 } else s

/-- The SEQ of a packet against the one expected, with the command-sequence event (R304). -/
def seqCheck (s : State) (n seq : Nat) : State :=
  let r := s.ring n
  let s1 := s.setRing n { r with seq := some ((seq + 1) % 2 ^ 32) }
  match r.seq with
  | some e => if e = seq then s1 else s1.raise 0x0601 (884 + n) e seq 0
  | none => s1

def setSqHead (s : State) (n v : Nat) : State := s.wf (HUB_RINGSTAT.adr n) HUB_RINGSTAT.SQHEAD (v % 2 ^ 16)

/-- The header of the packet at the head of ring `n` that must wait, or none (R311, R313, R314). -/
def headWaits (s : State) (n : Nat) (h : Option (Nat × PktHdr)) : State :=
  (s.setRing n { s.ring n with waitHdr := h }).waitSync n

/-- The packet at the head of ring `n` (R304, R305, R311 to R314). -/
def takeRing (s : State) (n op : Nat) (h : PktHdr) (ws : List Word) : State :=
  if !s.serving || !s.ringHas n || !s.ringTurn n then s else
    let s1 := s.headWaits n (some (op, h))
    if s1.ringShort n ∨ !s.ringTakes n op h then s1
    else
      let plen := h.plen.toNat
      let t : Ticket := ⟨some n, op, h.tag.toNat, h.target.toNat, h.seq.toNat, bit h.flags.toNat 0⟩
      let s2 := ((s.headWaits n none).turnNext n).seqCheck n h.seq.toNat
      if 4092 < plen then (s2.setSqHead n (s.ring n).tail).answer t sBadLength []
      else (s2.setSqHead n (s.sqHead n + slotsOf plen)).serve ⟨op, h, packetWords plen ws, some n⟩

/-- TAIL_WAIT_TIMEOUT (R311): without effect once the slots that the header claims no longer extend beyond TAIL. -/
def tailTimeout (s : State) (n : Nat) : State :=
  match (s.ring n).waitHdr with
  | none => s
  | some (op, h) =>
    if !s.serving || !s.ringShort n then s else
      let t : Ticket := ⟨some n, op, h.tag.toNat, h.target.toNat, h.seq.toNat, bit h.flags.toNat 0⟩
      (((s.headWaits n none).seqCheck n h.seq.toNat).setSqHead n (s.ring n).tail).answer t sBadLength []

/-! ### The service UART (R319, R320) -/

/-- Whether the UART takes packets. -/
def uartOpen (s : State) : Bool :=
  s.running && !s.testEn && !s.preparing && (s.mode ≠ mBoot || s.rb HUB_RINGGLB.adr HUB_RINGGLB.READY)

/-- A packet of the service UART (R320). -/
def takeUart (s : State) (op : Nat) (h : PktHdr) (ws : List Word) : State :=
  if !s.uartOpen then s else
    let c : Cmd := ⟨op, h, ws, none⟩
    if s.uartBusy then s.answer c.ticket sBusy [] else s.serve c

/-- A packet's header from its first 16 bytes (R302). -/
def hdrOf (b : List Byte) : PktHdr :=
  let f (o n : Nat) := fieldAt b o n
  ⟨BitVec.ofNat 8 (f 2 1), BitVec.ofNat 8 (f 3 1), BitVec.ofNat 16 (f 4 2), BitVec.ofNat 16 (f 6 2), BitVec.ofNat 16 (f 8 2),
   BitVec.ofNat 16 (f 0xA 2), BitVec.ofNat 32 (f 0xC 4)⟩

/-- UART_FRAME (R319, R320): the bytes between two flags. -/
def uartReceive (s : State) (bs : List Byte) : State :=
  if !s.uartOpen then s else
    let b := uartUnescape bs
    let n := b.length
    if 16388 < n ∨ n < 20 then s.raise 0x0604 900 2 n 0
    else
      let p := b.take (n - 4)
      if crc32 p ≠ leVal (b.drop (n - 4)) then s.raise 0x0604 900 1 n 0
      else
        let h := hdrOf p
        let op := fieldAt p 0 2
        if n - 20 = 4 * h.plen.toNat then s.takeUart op h (bytesWords (p.drop 16))
        else
          let c : Cmd := ⟨op, h, [], none⟩
          if s.uartBusy then s.answer c.ticket sBusy []
          else s.answer c.ticket (if (opRow op).isSome && h.version = 1 then sBadLength else sBadOpcode) []

/-- A packet of opcode `op` is taken from its ring or from the service UART; what the host returns to reads meanwhile is
`host`. -/
def takePacket (s : State) (op : Nat) (p : Packet) (host : HostData) : State :=
  s.withHost host fun s => match p.ring with
    | some n => s.takeRing n op p.hdr p.words
    | none => s.takeUart op p.hdr (packetWords p.hdr.plen.toNat p.words)

/-! ### Egress posts (R333 to R335) -/

/-- An egress-discard event. -/
def egressDrop (s : State) (post : List Byte) : State :=
  s.raise 0x0605 901 (fieldAt post 8 2) (fieldAt post 10 2) (fieldAt post 6 1)

/-- LEN of an entry within the range of R423. -/
def egressLen (e : List Byte) : Bool :=
  let len := fieldAt e 6 2
  if bit (fieldAt e 5 1) 0 then len % 48 = 0 && 1 ≤ len / 48 && len / 48 ≤ 273 else 60 ≤ len && len ≤ 9212

/-- Whether a post must wait (R335): the push slot that it would use next is named by an entry that has no WRITE_RESP yet. -/
def egressWaits (s : State) (post : List Byte) : Bool :=
  let q := fieldAt post 6 1
  let p := (q - 16) / 8
  16 ≤ q && q < 112 && s.slotHeld p (if (s.ethOf p).egSlot = 14 then 15 else 14)

/-- EGRESS_POST (R334, R335): the oldest post that does not wait. -/
def egressPost (s : State) : State :=
  match s.egress.find? fun post => !s.egressWaits post with
  | none => s
  | some post =>
    let s0 := { s with egress := s.egress.erase post }
    let pkt := fieldAt post 0 6
    let q := fieldAt post 6 1
    if q < 16 then
      let (f, h, s1) := s0.busRead 40 pkt 16
      let plen := fieldAt h 8 2
      if f.isSome ∨ 4092 < plen then s1.egressDrop post
      else
        let (f2, b, s2) := s1.busRead 40 (pkt + 16) (4 * plen)
        if f2.isSome then s2.egressDrop post else s2.postReply q (h ++ b) none
    else if q < 112 then
      let p := (q - 16) / 8
      let (f, e, s1) := s0.busRead 40 pkt 16
      if f.isSome ∨ !egressLen e then s1.egressDrop post
      else
        let (f2, d, s2) := s1.busRead 40 (pkt + 64) (fieldAt e 6 2)
        if f2.isSome then s2.egressDrop post
        else
          let k := if (s2.ethOf p).egSlot = 14 then 15 else 14
          let s3 := s2.setEth p { s2.ethOf p with egSlot := k }
          let s4 := (s3.busWrite 40 (ethWin p + 16384 * k) d).2
          (s4.busWrite 40 (0x6101000 + 0x10000 * p + 0x10 * ((q - 16) % 8)) (patch e 4 (leBytes 1 k))).2
    else s0.egressDrop post

end State

/-- A packet with the bits `[lo + n - 1 : lo]` of word 0 set to `v`: rows that share an opcode differ in them. -/
def selWord (p : Packet) (lo n v : Nat) : Packet :=
  { p with words := BitVec.ofNat 32 (setBits ((p.words.getD 0 0).toNat) lo n v) :: p.words.drop 1 }

/-! ### The rows -/

def execPacketTake (op : BitVec 16) (p : Packet) (host : HostData) (s : State) : Result := .next (s.takePacket op.toNat p host)
def execTailWaitTimeout (n : RingId) (s : State) : Result := .next (s.tailTimeout n)
/-- A write to a doorbell or to HUB_RINGCTL has its effect while the module runs. -/
def execSqDoorbell (n : RingId) (v : BitVec 16) (s : State) : Result := .next (if s.running then s.sqDoorbell n v.toNat else s)
def execCqDoorbell (n : RingId) (v : BitVec 16) (s : State) : Result := .next (if s.running then s.cqDoorbell n v.toNat else s)
def execRingEnable (n : RingId) (v : Word) (s : State) : Result :=
  .next (if s.running then s.ringCtlWrite n (setBits v.toNat 31 1 1) else s)
def execRingDisable (n : RingId) (v : Word) (s : State) : Result :=
  .next (if s.running then s.ringCtlWrite n (setBits v.toNat 31 1 0) else s)
def execReplyWrite (n : RingId) (s : State) : Result := .next (s.replyWrite n)
def execImodIntervalEnd (n : RingId) (s : State) : Result := .next (s.imodEnd n)
def execUartFrame (bytes : List Byte) (host : HostData) (s : State) : Result :=
  .next (s.withHost host fun s => s.uartReceive bytes)
/-- Outside CHRYSALIS a break only resets the frame decoder, and frames reach the model whole. -/
def execUartBreak (s : State) : Result := .next s
def execDevInfo (p : Packet) (s : State) : Result := .next (s.takePacket 0x0101 p noHost)
def execModeSet (p : Packet) (s : State) : Result := .next (s.takePacket 0x0102 p noHost)
def execDevResetCmd (p : Packet) (s : State) : Result := .next (s.takePacket 0x0103 (selWord p 0 2 0) noHost)
def execDevResetReg (p : Packet) (s : State) : Result := .next (s.takePacket 0x0103 (selWord p 0 2 1) noHost)
def execDevResetClu (p : Packet) (s : State) : Result := .next (s.takePacket 0x0103 (selWord p 0 2 2) noHost)
def execStatusGet (p : Packet) (s : State) : Result := .next (s.takePacket 0x0104 p noHost)
def execEcho (p : Packet) (s : State) : Result := .next (s.takePacket 0x0105 p noHost)
def execSettingGet (p : Packet) (s : State) : Result := .next (s.takePacket 0x0201 p noHost)
def execSettingSet (p : Packet) (s : State) : Result := .next (s.takePacket 0x0202 p noHost)
def execSettingList (p : Packet) (s : State) : Result := .next (s.takePacket 0x0203 p noHost)
def execCellSetup (p : Packet) (s : State) : Result := .next (s.takePacket 0x0301 p noHost)
def execCellStart (p : Packet) (s : State) : Result := .next (s.takePacket 0x0302 p noHost)
def execCellStop (p : Packet) (s : State) : Result := .next (s.takePacket 0x0303 p noHost)
def execCellQuery (p : Packet) (s : State) : Result := .next (s.takePacket 0x0304 p noHost)
def execDlConfig (p : Packet) (s : State) : Result := .next (s.takePacket 0x0401 p noHost)
def execDlData (p : Packet) (s : State) : Result := .next (s.takePacket 0x0402 p noHost)
def execUlConfig (p : Packet) (s : State) : Result := .next (s.takePacket 0x0403 p noHost)
def execFhPortCfg (p : Packet) (s : State) : Result := .next (s.takePacket 0x0501 p noHost)
def execDelayMeas (p : Packet) (s : State) : Result := .next (s.takePacket 0x0502 p noHost)
def execCpLinkDown (p : Packet) (s : State) : Result := .next (s.takePacket 0x0503 (selWord p 0 2 0) noHost)
def execCpLinkTrain (p : Packet) (s : State) : Result := .next (s.takePacket 0x0503 (selWord p 0 2 1) noHost)
def execCpLinkPowerSave (p : Packet) (s : State) : Result := .next (s.takePacket 0x0503 (selWord p 0 2 2) noHost)
def execCpLinkStatus (p : Packet) (s : State) : Result := .next (s.takePacket 0x0504 p noHost)
def execAoSetDirect (p : Packet) (s : State) : Result := .next (s.takePacket 0x0505 (selWord p 16 1 0) noHost)
def execAoSetSlewed (p : Packet) (s : State) : Result := .next (s.takePacket 0x0505 (selWord p 16 1 1) noHost)
def execAoStep (p : Packet) (s : State) : Result := .next (s.takePacket 0x0506 p noHost)
def execTimeGet (p : Packet) (s : State) : Result := .next (s.takePacket 0x0601 p noHost)
def execTimeStepRelative (p : Packet) (s : State) : Result := .next (s.takePacket 0x0602 (selWord p 0 1 0) noHost)
def execTimeStepAbsolute (p : Packet) (s : State) : Result := .next (s.takePacket 0x0602 (selWord p 0 1 1) noHost)
def execUtcOffset (p : Packet) (s : State) : Result := .next (s.takePacket 0x0603 p noHost)
def execPtpCfg (p : Packet) (s : State) : Result := .next (s.takePacket 0x0604 p noHost)
def execSyncSrc (p : Packet) (s : State) : Result := .next (s.takePacket 0x0605 p noHost)
def execScrub (p : Packet) (s : State) : Result := .next (s.takePacket 0x0701 p noHost)
def execEccGet (p : Packet) (s : State) : Result := .next (s.takePacket 0x0702 p noHost)
def execEccClear (p : Packet) (s : State) : Result := .next (s.takePacket 0x0703 p noHost)
def execRetireGet (p : Packet) (s : State) : Result := .next (s.takePacket 0x0704 p noHost)
def execMemRead (p : Packet) (host : HostData) (s : State) : Result := .next (s.takePacket 0x0705 p host)
def execMemWrite (p : Packet) (s : State) : Result := .next (s.takePacket 0x0706 p noHost)
def execGbFlush (p : Packet) (s : State) : Result := .next (s.takePacket 0x0801 p noHost)
def execGbRead (p : Packet) (s : State) : Result := .next (s.takePacket 0x0802 p noHost)
def execEvtRoute (p : Packet) (s : State) : Result := .next (s.takePacket 0x0803 p noHost)
def execPlSet (p : Packet) (s : State) : Result := .next (s.takePacket 0x0901 p noHost)
def execDomainPowerOn (p : Packet) (s : State) : Result := .next (s.takePacket 0x0902 (selWord p 0 1 1) noHost)
def execDomainPowerOff (p : Packet) (s : State) : Result := .next (s.takePacket 0x0902 (selWord p 0 1 0) noHost)
def execSleepEnter (p : Packet) (s : State) : Result := .next (s.takePacket 0x0903 p noHost)
def execAlarmSet (p : Packet) (s : State) : Result := .next (s.takePacket 0x0904 p noHost)
def execPowerGet (p : Packet) (s : State) : Result := .next (s.takePacket 0x0905 p noHost)
def execAttest (p : Packet) (s : State) : Result := .next (s.takePacket 0x0A01 p noHost)
def execIdGet (p : Packet) (s : State) : Result := .next (s.takePacket 0x0A02 p noHost)
def execDbgChallenge (p : Packet) (s : State) : Result := .next (s.takePacket 0x0A03 p noHost)
def execDbgUnlock (p : Packet) (s : State) : Result := .next (s.takePacket 0x0A04 p noHost)
def execImageExport (p : Packet) (s : State) : Result := .next (s.takePacket 0x0A05 p noHost)
def execKeyRevoke (p : Packet) (s : State) : Result := .next (s.takePacket 0x0A06 p noHost)
def execLoopSet (p : Packet) (s : State) : Result := .next (s.takePacket 0x0B01 p noHost)
def execPrbsRun (p : Packet) (s : State) : Result := .next (s.takePacket 0x0B02 p noHost)
def execSelftest (p : Packet) (s : State) : Result := .next (s.takePacket 0x0B03 p noHost)
def execUpdBegin (p : Packet) (s : State) : Result := .next (s.takePacket 0x0C01 p noHost)
def execUpdChunk (p : Packet) (s : State) : Result := .next (s.takePacket 0x0C02 p noHost)
def execUpdCommit (p : Packet) (s : State) : Result := .next (s.takePacket 0x0C03 p noHost)
def execUpdAbort (p : Packet) (s : State) : Result := .next (s.takePacket 0x0C04 p noHost)
def execCellStopEffect (c : CarrierId) (s : State) : Result := .next (s.cellStopEffect c)
def execDlDataFetchDone (c : CarrierId) (sfn : BitVec 10) (slot : Byte) (fetched : FetchEnd) (s : State) : Result :=
  .next (s.withHost fetched.host fun s => s.fetchDone c sfn.toNat slot.toNat (fetched.failed.map fun f => (f.1.toNat, f.2.toNat)))
def execDelayMeasSend (c : CarrierId) (s : State) : Result := .next (s.delayMeasSend c)
def execPlChangeComplete (i : Fin 28) (s : State) : Result := .next (s.plDone i)
def execDomainDrainEnd (s : State) : Result := .next s.domDrainEnd
def execChallengeExpire (s : State) : Result := .next s.challengeExpire
def execPrbsRunEnd (l : Fin 40) (compared errors : BitVec 64) (lost : Bool) (s : State) : Result :=
  .next (s.prbsEnd l compared.toNat errors.toNat lost)
def execEgressPost (host : HostData) (s : State) : Result := .next (s.withHost host State.egressPost)
def execIndicationSend (c : CarrierId) (op : Fin 6) (sfn : BitVec 10) (slot : Byte) (late aborted : Bool)
    (entries : List IndEntry) (s : State) : Result :=
  .next (s.indSend c op sfn.toNat slot.toNat late aborted entries)
def execControlMessageLaunch (c : CarrierId) (sfn : BitVec 10) (slot : Byte) (stale : Bool) (s : State) : Result :=
  .next (s.ctrlLaunch c sfn.toNat slot.toNat stale)
def execScheduledFrameLaunch (p : PortId) (q : Fin 8) (crcBad : Bool) (s : State) : Result :=
  .next (s.scheduledLaunch p q crcBad)
def execRampQueue (c : CarrierId) (up : Bool) (t : SymbolAt) (s : State) : Result :=
  .next (s.rampQueue c up t.sfn.toNat t.slot.toNat t.sym)
def execUlGainWindow (c : CarrierId) (ant : Fin 4) (win : Fin 5) (t : SymbolAt) (s : State) : Result :=
  .next (s.cellGain c ant win t.sfn.toNat t.slot.toNat t.sym)
def execUlPortionEnd (c : CarrierId) (ant : Fin 4) (sfn : BitVec 10) (slot : Byte) (samples : Word) (s : State) : Result :=
  .next (s.portionEnd c ant sfn.toNat slot.toNat samples.toNat)
def execUpdVerifyComplete (s : State) : Result := .next s.updVerify
def execSelftestComplete (words : List Word) (s : State) : Result := .next (s.selfTestEnd words)

end Sys2Proof.Machine
end

