-- ==== Sys2Proof/Machine/Pcie.lean ====
section
/-! DEFINITION. The PCIe endpoint (R404 to R409, R581, R616): accesses of the host, the link, completions and resets. -/

namespace Sys2Proof.Machine

namespace State

/-- A host-access-error event (R406). -/
def hostAccessError (s : State) (st a : Nat) : State := s.raiseA 0x0904 855 st a

/-- A completion to the host: 0 successful, 1 Unsupported Request; 2 successful with EP set. -/
def hostDone (s : State) (st : Nat) (d : List Byte) : State := s.emit (.hostCompletion st d)

/-- Where a BAR offset leads: a Turnpike address; or a region of the endpoint itself. -/
inductive BarPlace where
  | bus (a : Nat)
  | zero
  | msix (o : Nat)
  | pba (o : Nat)
  | debug
  | none

/-- The BARs (R405). -/
def barPlace (s : State) (bar off n : Nat) : BarPlace :=
  match bar with
  | 0 => .bus off
  | 2 => if 0x10000 < off + n then .none else if off < 0x1000 then .bus (0x100000 + off)
    else if 0x8000 ≤ off ∧ off < 0x9000 then .msix (off - 0x8000)
    else if 0x9000 ≤ off ∧ off < 0x9020 then .pba (off - 0x9000) else .zero
  | 3 => if 0x10000 < off + n then .none else .bus (0x110000 + off)
  | 4 => if s.rb SEC_STAT.adr SEC_STAT.DBGOPEN ∧ off + n ≤ 0x1000000 then .debug else .none
  | _ => .none

/-- Whether the endpoint takes memory requests (none in D3hot: R404), and an access of `n` bytes is aligned and within a line (R406). -/
def tlpOk (s : State) (off n : Nat) : Bool := s.pcieUp && s.memEn && !s.pcieCtl.d3 && off % 4 = 0 && decide (off % 64 + n ≤ 64) && n ≠ 0

/-- The pending bits of 32 vectors (R581). -/
def pbaWord (s : State) (w : Nat) : Nat :=
  (List.range 32).foldl (fun a i => a + b2n (s.msixPba.contains (32 * w + i)) * 2 ^ i) 0

/-- A host read of a BAR (R405, R406). -/
def hostReadBar (s : State) (bar off n : Nat) : State :=
  if !s.pcieUp then s
  else if !s.tlpOk off n then s.hostDone 1 []
  else match s.barPlace bar off n with
  | .bus a =>
    let (tag, s0) := s.draw 8
    let (st, _, d, s1) := s0.lineRead 42 tag a n
    if st = stOk then s1.hostDone 0 d else (s1.hostDone 2 (List.replicate n 0xFF)).hostAccessError st a
  | .zero => s.hostDone 0 (List.replicate n 0)
  | .msix o => s.hostDone 0 ((List.range (n / 4)).flatMap fun i => leBytes 4 (s.msixWord (o / 4 + i)))
  | .pba o => s.hostDone 0 ((List.range (n / 4)).flatMap fun i => leBytes 4 (s.pbaWord (o / 4 + i)))
  | .debug => let (d, s1) := s.drawBytes n; s1.hostDone 0 d
  | .none => s.hostDone 1 []

/-- A host write of a BAR (R405, R406, R581): `en` enables bytes of `data`. A write is posted; one that is not supported
has no effect. -/
def hostWriteBar (s : State) (bar off en : Nat) (data : List Byte) : State :=
  let n := data.length
  if !s.tlpOk off n then s else
    match s.barPlace bar off n with
    | .bus a =>
      let (tag, s0) := s.draw 8
      let o := a % 64
      let (st, _, s1) := s0.lineWrite 42 tag (a - o) .part ((en % 2 ^ n) * 2 ^ o) (leVal data * 2 ^ (8 * o))
      if st = stOk then s1 else s1.hostAccessError st a
    | .msix o =>
      let s1 := upto (n / 4) (fun i s =>
        let w := o / 4 + i
        let v := mergeMask (s.msixWord w) (fieldAt data (4 * i) 4) (byteMask 4 (en >>> (4 * i)))
        { s with msixTab := sput s.msixTab w (BitVec.ofNat 32 v) (msixDefault w) }) s
      s1.msiPending
    | _ => s

/-- A module READ that awaits its PCIe completion is answered HOST_ERROR with its event (R81, R407). -/
def hostReadFail (s : State) (r : Req) (why : Nat) : State :=
  (s.respond r.src r.tag r.addr stHostError 39 poisonLine).hostLinkEvent why r.addr

/-- Every module READ that awaits its completion is answered HOST_ERROR (R407). -/
def hostReadsFail (s : State) (why : Nat) : State :=
  s.hostReads.foldl (fun s r => s.hostReadFail r why) { s with hostReads := [] }

/-- Bus Master Enable takes a value (R407). -/
def setBme (s : State) (on : Bool) : State :=
  let s1 := { s with bme := on }.wb LN_PCIESTAT.adr LN_PCIESTAT.BME on
  if on then s1.msiPending else s1.hostReadsFail 4

/-- A write of the configuration bits that the module's behaviour rests on. -/
def hostConfig (s : State) (bme mem msix mask : Bool) : State :=
  if !s.pcieUp then s
  else ({ s with memEn := mem, msixEn := msix, msixMask := mask }.setBme bme).msiPending

/-- A write of the controls of the endpoint's capabilities (R404). -/
def hostCtl (s : State) (c : PcieCtl) : State := if s.pcieUp then { s with pcieCtl := c }.msiPending else s

/-- The link goes down (R407): no receiver is locked. -/
def pcieDown (s0 : State) : State :=
  let a := LN_PCIESTAT.adr
  let s := upto 16 (fun l s => s.wb (LN_LANESTAT.adr l) LN_LANESTAT.LOCK false) s0
  ((({ s with pcieUp := false }.wb a LN_PCIESTAT.UP false).wf a LN_PCIESTAT.WIDTH 0).wf a LN_PCIESTAT.SPEED 0).hostReadsFail 3

/-- The receiver of PCIe lane `l` has trained (R398): it is locked, with the CTLE setting that it has adapted (free: the channel decides
it), or that its field gives. -/
def pcieLane (s : State) (l : Nat) : State :=
  let a := LN_LANESTAT.adr l
  let (c, s1) := if s.rb (LN_LANECFG.adr l) LN_LANECFG.AUTO then s.draw 4 else (s.rf (LN_LANECFG.adr l) LN_LANECFG.CTLE, s)
  ((s1.wb a LN_LANESTAT.SIGDET true).wb a LN_LANESTAT.LOCK true).wf a LN_LANESTAT.CTLEACT c

/-- The link reaches L0 (R398, R537, R616): the lanes of its width are trained, and WAKE_N is released. -/
def pcieLinkUp (s0 : State) (width speed : Nat) : State :=
  let a := LN_PCIESTAT.adr
  let s := upto width (fun l s => s.pcieLane l) s0
  let s1 := (({ s with pcieUp := true }.wb a LN_PCIESTAT.UP true).wf a LN_PCIESTAT.WIDTH width).wf a LN_PCIESTAT.SPEED speed
  if s1.wakeDrv then { s1.emit (.pin 3 true) with wakeDrv := false } else s1

/-- Configuration space and MSI-X return to their initial state and every ring pair is disabled (R408). -/
def flr (s : State) : State :=
  let s1 := { s with memEn := false, pcieCtl := PcieCtl.initial, msixEn := false, msixMask := false, msixTab := [], msixPba := [] }.setBme false
  upto 16 (fun n s => s.ringDisable n) s1

/-- The READ at the front of those awaiting completions for an address that has been sent is taken off, and the next that waits for fewer
than 256 to be outstanding is sent (R404). -/
def hostReadEnd (s : State) (r : Req) : State :=
  let s1 := { s with hostReads := ldrop1 (fun x => x.addr = r.addr) s.hostReads }
  match s1.hostReads[hostReadMax - 1]? with
  | some x => s1.emit (.hostRead (x.addr - 0x800000000000))
  | none => s1

/-- The oldest READ sent to address `addr` that awaits its completion. -/
def hostReadAt (s : State) (addr : Nat) : Option Req := (s.hostReads.take hostReadMax).find? fun r => r.addr = addr

/-- The completion of a module READ (R407): the oldest that awaits one for the address. -/
def hostCompletion (s : State) (addr : Nat) (fail : Bool) (d : List Byte) : State :=
  match s.hostReadAt addr with
  | none => s
  | some r =>
    let s1 := s.hostReadEnd r
    if fail then s1.hostReadFail r 1
    else
      let (rest, s2) := s1.drawBytes (64 - d.length)
      s2.respond r.src r.tag r.addr stOk 39 ((d ++ rest).take 64)

/-- A module READ times out at the PCIe completion timeout (R81, R407). -/
def hostTimeout (s : State) (addr : Nat) : State :=
  match s.hostReadAt addr with
  | none => s
  | some r => (s.hostReadEnd r).hostReadFail r 2

end State

def execHostAccess (t : HostTlp) (s : State) : Result :=
  match t with
  | .config b m x k => .next (s.hostConfig b m x k)
  | .ctl c => .next (s.hostCtl c)
  | .read bar off n => .next (s.hostReadBar bar off.toNat (4 * n))
  | .write bar off en data => .next (s.hostWriteBar bar off.toNat en.toNat data)
def execHostCompletionTimeout (addr : Addr) (s : State) : Result := .next (s.hostTimeout addr.toNat)
/-- The link goes down (true), or Bus Master Enable is cleared. -/
def execPcieLinkDown (link : Bool) (s : State) : Result := .next (if link then s.pcieDown else s.setBme false)
/-- Training begins (R616): the receivers of the sixteen lanes see a signal; nothing else is stated until L0. -/
def execPcieTrainStart (s : State) : Result :=
  .next (upto 16 (fun l s => s.wb (LN_LANESTAT.adr l) LN_LANESTAT.SIGDET true) s)
def execFunctionLevelReset (s : State) : Result := .next s.flr
/-- The fundamental reset input acts as a function level reset and restarts link training (R408). -/
def execFundamentalReset (s : State) : Result := .next s.flr.pcieDown
/-- Width 1 to 16, speed 1 to 5 (LN_PCIESTAT). -/
def execPcieLinkUp (width : Fin 5) (speed : Fin 5) (s : State) : Result :=
  .next (s.pcieLinkUp (2 ^ width.val) (speed.val + 1))
def execPcieCompletionReceive (addr : Addr) (fail : Bool) (data : List Byte) (s : State) : Result :=
  .next (s.hostCompletion addr.toNat fail data)

end Sys2Proof.Machine
end

