-- ==== Sys2Proof/Machine/Porter.lean ====
section
/-! DEFINITION. Porter descriptors at work (R371 to R393). -/

namespace Sys2Proof.Machine

/-! ### Descriptor fields (R376) -/

def dSrc (d : List Byte) : Nat := fieldAt d 0 6
def dFlags (d : List Byte) : Nat := fieldAt d 6 2
def dSfix (d : List Byte) : Bool := bit (dFlags d) 0
def dDfix (d : List Byte) : Bool := bit (dFlags d) 1
def dEsize (d : List Byte) : Nat := bits (dFlags d) 2 2
def dMode (d : List Byte) : Nat := bits (dFlags d) 4 4
def dK (d : List Byte) : Nat := bits (dFlags d) 8 7
def dDst (d : List Byte) : Nat := fieldAt d 8 6
def dStride (d : List Byte) : Nat := 64 * fieldAt d 14 2
def dLen (d : List Byte) : Nat := fieldAt d 16 3
def dEv (d : List Byte) : Nat := fieldAt d 19 5
def dEvKind (d : List Byte) : Nat := bits (dEv d) 0 2
def dEvReg (d : List Byte) : Nat := bits (dEv d) 2 2
def dEvIdx (d : List Byte) : Nat := bits (dEv d) 4 14
def dHoldBad (d : List Byte) : Bool := bit (dEv d) 18
def dNext (d : List Byte) : Nat := fieldAt d 24 6
/-- Element size in bytes. -/
def dElem (d : List Byte) : Nat := 2 * 2 ^ dEsize d
/-- Elements of a stream (R381). -/
def dM (d : List Byte) : Nat := dLen d / (dK d * dElem d)
/-- Words of a bit-plane move (R382). -/
def dN (d : List Byte) : Nat := 8 * dLen d / dK d
/-- Bytes of a stream or of a plane. -/
def dPart (d : List Byte) : Nat := if dMode d ≤ 2 then dM d * dElem d else dN d / 8
/-- Stream or plane stride in bytes. -/
def dStep (d : List Byte) : Nat := if dStride d = 0 then dPart d else dStride d

/-- The source range: its first byte and its length (R380). -/
def srcRange (d : List Byte) : Nat × Nat := (dSrc d, if dSfix d then dElem d else dLen d)

/-- The destination span (R379 to R382). -/
def dstSpan (d : List Byte) : Nat × Nat :=
  (dDst d,
    match dMode d with
    | 0 => if dDfix d then dElem d else dLen d
    | 2 => (dK d - 1) * dStep d + dPart d
    | 3 => (dK d - 1) * dStep d + dPart d
    | _ => dLen d)

/-- Whether the event target is one that a channel of block `b` may use (R386). -/
def evTargetOk (b : Nat) (d : List Byte) : Bool :=
  match dEvKind d with
  | 0 => true
  | 1 => true
  | 2 => b < 24 && dEvIdx d < 32
  | _ => b = 24 && dEvIdx d < 16

/-- The check of R377: the reason code, the lowest of those that hold; 0 when it passes. -/
def descCheck (b : Nat) (d : List Byte) : Nat :=
  let e := dElem d
  let len := dLen d
  let m := dMode d
  let k := dK d
  let moves : Bool := len ≠ 0
  -- an invalid ESIZE gives no element size, and an invalid RMODE no unit
  let sized : Bool := dEsize d ≠ 3
  let r1 := dNext d % 32 ≠ 0 || (moves && sized && (dSrc d % e ≠ 0 || dDst d % e ≠ 0))
  let unit := if m = 0 then e else if m ≤ 2 then k * e else 8 * k
  let r2 := moves && (if m ≤ 2 then sized else m ≤ 4) && len % unit ≠ 0
  let kBad : Bool := match m with
    | 0 => k ≠ 0
    | 1 => !(2 ≤ k && k ≤ 64)
    | 2 => !(2 ≤ k && k ≤ 64)
    | _ => !(k = 8 || k = 16)
  let r3 := moves && (dEsize d = 3 || 5 ≤ m || kBad || (m ≠ 0 && (dSfix d || dDfix d)) || (3 ≤ m && dEsize d ≠ 0))
  let (sa, sn) := srcRange d
  let (da, dn) := dstSpan d
  let r4 := moves && decide (sa < da + dn) && decide (da < sa + sn)
  let r6 := moves && m ≠ 0 && dStride d ≠ 0 && decide (dStride d < dPart d)
  let r7 := bit (dFlags d) 15 || bits (dEv d) 19 21 ≠ 0 || fieldAt d 31 1 ≠ 0
  if r1 then 1 else if r2 then 2 else if r3 then 3 else if r4 then 4 else if !evTargetOk b d then 5
  else if r6 then 6 else if r7 then 7 else 0

/-! ### Reshuffling of bytes (R381, R382) -/

/-- K streams of elements, interleaved. -/
def interleave (k m e : Nat) (streams : List (List Byte)) : List Byte :=
  (List.range m).flatMap fun j => (List.range k).flatMap fun i => ((streams.getD i []).drop (j * e)).take e

/-- Stream `i` of interleaved bytes. -/
def deinterleave (k m e i : Nat) (bs : List Byte) : List Byte :=
  (List.range m).flatMap fun j => (bs.drop ((j * k + i) * e)).take e

/-- Plane `b` of `n` words of `k` bits: bit n in bit 7 − (n mod 8) of byte n div 8. -/
def planeOf (k n b : Nat) (bs : List Byte) : List Byte :=
  (List.range (n / 8)).map fun y =>
    BitVec.ofNat 8 ((List.range 8).foldl (fun a x => 2 * a + b2n (bit (fieldAt bs ((8 * y + x) * k / 8) (k / 8)) b)) 0)

/-- The words of `k` bits of some planes. -/
def wordsOf (k n : Nat) (planes : List (List Byte)) : List Byte :=
  (List.range n).flatMap fun w =>
    leBytes (k / 8) ((List.range k).foldl (fun a b =>
      a + b2n (bit (fieldAt (planes.getD b []) (w / 8) 1) (7 - w % 8)) * 2 ^ b) 0)

namespace State

/-- A descriptor's data movement: the state, and phase, STATUS and address of the access that failed. -/
abbrev Moved := State × Option (Nat × Nat × Nat)

/-- Reads source bytes; on a failure, phase 2. -/
def mvRead (m : Moved) (src a n : Nat) : List Byte × Moved :=
  if m.2.isSome then ([], m) else
    let (e, d, s1) := m.1.busRead src a n
    (d, (s1, e.map fun x => (2, x.1, x.2)))

/-- Writes destination bytes, request by request; on a failure, phase 3, and none follows (R391). -/
def mvWrite (m : Moved) (src a : Nat) (bs : List Byte) : Moved :=
  (reqPieces a bs.length).foldl (fun m p => if m.2.isSome then m else
    let (e, s1) := m.1.busWrite src p.1 ((bs.drop (p.1 - a)).take p.2)
    (s1, e.map fun x => (3, x.1, x.2))) m

/-- RMODE 0 (R379): the source in order, whole lines at a time, the destination by lines; a fixed side element by
element. -/
def moveCopy (s : State) (src : Nat) (d : List Byte) : Moved :=
  let e := dElem d
  let srcs := if dSfix d then List.replicate (dLen d / e) (dSrc d, e) else pieces (dLen d / 64 + 2) (dSrc d) (dLen d)
  let go := srcs.foldl (fun (r : Moved × List Byte × Nat) c =>
    let (bs, m) := mvRead r.1 src c.1 c.2
    if m.2.isSome then (m, [], r.2.2)
    else if dDfix d then
      ((splitEvery e (bs.length / e) bs).foldl (fun m x => mvWrite m src (dDst d) x) m, [], r.2.2)
    else
      let pend := r.2.1 ++ bs
      let room := 64 - r.2.2 % 64
      if pend.length < room then (m, pend, r.2.2)
      else
        let m1 := mvWrite m src r.2.2 (pend.take room)
        let rest := pend.drop room
        if rest.length < 64 then (m1, rest, r.2.2 + room)
        else (mvWrite m1 src (r.2.2 + room) (rest.take 64), rest.drop 64, r.2.2 + room + 64)) ((s, none), [], dDst d)
  if go.2.1.isEmpty then go.1 else mvWrite go.1 src go.2.2 go.2.1

/-- A reshuffling at work (R383, R384): the movement so far; by stream or plane of the source, the address and bytes of the line being
read; and by stream or plane of the destination, the address and bytes staged and not written. -/
structure Staging where
  moved : Moved
  rd : Sparse (Nat × List Byte)
  wr : Sparse (Nat × List Byte)

/-- The next `n` bytes from `a` of source stream `i`, which ends at `hi`: a line is read once. -/
def stRead (g : Staging) (src i hi a n : Nat) : List Byte × Staging :=
  (pieces (n / 64 + 2) a n).foldl (fun (r : List Byte × Staging) p =>
    let c := sget r.2.rd i (0, [])
    if c.1 ≤ p.1 ∧ p.1 + p.2 ≤ c.1 + c.2.length then (r.1 ++ (c.2.drop (p.1 - c.1)).take p.2, r.2)
    else
      let (bs, m) := mvRead r.2.moved src p.1 (min (p.1 / 64 * 64 + 64) hi - p.1)
      (r.1 ++ bs.take p.2, { r.2 with moved := m, rd := sput r.2.rd i (p.1, bs) (0, []) })) ([], g)

/-- The next bytes of destination stream `i` are staged; a line is written when its last byte has come (R383). -/
def stWrite (g : Staging) (src i a : Nat) (bs : List Byte) : Staging :=
  (pieces (bs.length / 64 + 2) a bs.length).foldl (fun g p =>
    let c := sget g.wr i (0, [])
    let run := (if c.2.isEmpty then p.1 else c.1, c.2 ++ (bs.drop (p.1 - a)).take p.2)
    if (p.1 + p.2) % 64 = 0 then { g with moved := mvWrite g.moved src run.1 run.2, wr := sput g.wr i (0, []) (0, []) }
    else { g with wr := sput g.wr i run (0, []) }) g

/-- The partial lines at the ends of the streams are written at the end of the descriptor (R383). -/
def stEnd (g : Staging) (src : Nat) : Moved :=
  g.wr.foldl (fun m e => mvWrite m src e.2.1 e.2.2) g.moved

/-- Runs `f` for each row of a descriptor while nothing has failed (R391). -/
def stRows (s : State) (src n : Nat) (f : Nat → Staging → Staging) : Moved :=
  let g := (List.range n).foldl (fun g j => if g.moved.2.isSome then g else f j g) ⟨(s, none), [], []⟩
  stEnd g src

/-- RMODE 1 (R381), in ascending element order. -/
def moveInterleave (s : State) (src : Nat) (d : List Byte) : Moved :=
  let e := dElem d
  let k := dK d
  stRows s src (dM d) fun j g =>
    let (streams, g1) := (List.range k).foldl (fun (r : List (List Byte) × Staging) i =>
      let a := dSrc d + i * dStep d
      let (bs, g) := stRead r.2 src i (a + dPart d) (a + j * e) e
      (r.1 ++ [bs], g)) ([], g)
    if g1.moved.2.isSome then g1 else stWrite g1 src 0 (dDst d + j * k * e) (interleave k 1 e streams)

/-- RMODE 2 (R381), in ascending element order. -/
def moveDeinterleave (s : State) (src : Nat) (d : List Byte) : Moved :=
  let e := dElem d
  let k := dK d
  stRows s src (dM d) fun j g =>
    let (row, g1) := stRead g src 0 (dSrc d + dLen d) (dSrc d + j * k * e) (k * e)
    if g1.moved.2.isSome then g1
    else (List.range k).foldl (fun g i => stWrite g src i (dDst d + i * dStep d + j * e) (deinterleave k 1 e i row)) g1

/-- RMODE 3 (R382), eight words at a time: a byte of each plane. -/
def movePlanes (s : State) (src : Nat) (d : List Byte) : Moved :=
  let k := dK d
  stRows s src (dN d / 8) fun y g =>
    let (row, g1) := stRead g src 0 (dSrc d + dLen d) (dSrc d + y * k) k
    if g1.moved.2.isSome then g1
    else (List.range k).foldl (fun g b => stWrite g src b (dDst d + b * dStep d + y) (planeOf k 8 b row)) g1

/-- RMODE 4 (R382), eight words at a time: a byte of each plane. -/
def moveWords (s : State) (src : Nat) (d : List Byte) : Moved :=
  let k := dK d
  stRows s src (dN d / 8) fun y g =>
    let (planes, g1) := (List.range k).foldl (fun (r : List (List Byte) × Staging) b =>
      let a := dSrc d + b * dStep d
      let (bs, g) := stRead r.2 src b (a + dPart d) (a + y) 1
      (r.1 ++ [bs], g)) ([], g)
    if g1.moved.2.isSome then g1 else stWrite g1 src 0 (dDst d + y * k) (wordsOf k 8 planes)

/-- Runs the data movement of a descriptor in progress whose RMODE is `mode` (R384, R391). -/
def descMove (s : State) (b ch mode : Nat) (f : State → Nat → List Byte → Moved) : State :=
  match (s.pchan b ch).desc with
  | none => s
  | some p =>
    if p.moved ∨ p.bad.isSome ∨ dLen p.bytes = 0 ∨ dMode p.bytes ≠ mode then s else
      let (s1, e) := f s (ptSrc b ch) p.bytes
      let p' : PDesc := match e with
        | none => { p with moved := true }
        | some (ph, st, a) => { p with moved := true, bad := some (0x80 + 16 * ph + st), fail := a }
      s1.setPchan b ch { s1.pchan b ch with desc := some p' }

/-- Marks a descriptor BAD (R390, R393): the STATUS write, the event and the capture. A STATUS write that fails leaves the descriptor
unmarked (R392), and the one error is that failure. -/
def descBad (s : State) (b ch daddr st fail : Nat) : State :=
  (s.busWrite (ptSrc b ch) (daddr + 0x1E) [BitVec.ofNat 8 st]).2.ptError b ch daddr st fail

/-- Staging sets of a block in use (R383). -/
def stagingUsed (s : State) (b : Nat) : Nat :=
  ((List.range (ptChans b)).filter fun c => match (s.pchan b c).desc with
    | some p => decide (dMode p.bytes ≠ 0) && (p.moved || p.bad.isNone)
    | none => false).length

/-- The event crossing of a block: a cluster's to its slice, the hub's to the Timekeeper (R386, R387). -/
def ptXing (b : Nat) : Xid := if b = 24 then ⟨34, 52, 5, 0⟩ else ⟨b, 28 + b / 6, 5, 0⟩

/-- Whether the slice of the region of a descriptor's counter has paused the channel's island (R212, R388). -/
def ptPaused (s : State) (b : Nat) (d : List Byte) : Bool :=
  dEvKind d = 1 && bit ((s.xing (Xid.key ⟨28 + dEvReg d, if b = 24 then 34 else b, 8, 0⟩)).dst) 0

/-- DESCRIPTOR_START (R371, R374, R377, R383, R387, R388, R392). A paused target makes it wait whatever its check finds. A cluster block starts none while the module prepares
for CHRYSALIS. -/
def descStart (s : State) (b ch : Nat) : State :=
  let ready := s.rb (PT_CHCTL.adr b ch) PT_CHCTL.EN && !s.ptRuns b ch && (s.ptInChain b ch || !s.ptEmpty b ch) &&
    !s.pulseHeld (ptXing b) ch && !(b < 24 && s.sleep.isSome)
  if !ready then s else
    let cur := s.ptCur b ch
    let (e, d, s1) := s.busRead (ptSrc b ch) cur 32
    if e.isSome then ((s1.wb (PT_CHSTAT.adr b ch) PT_CHSTAT.PAUSED false).ptError b ch cur 0 0).advanceHead b ch
    else
      let why := descCheck b d
      if s1.ptPaused b d then s.wb (PT_CHSTAT.adr b ch) PT_CHSTAT.PAUSED true
      else if why = 0 ∧ dMode d ≠ 0 ∧ dLen d ≠ 0 ∧ 2 ≤ s1.stagingUsed b then s
      else
        let s2 := (s1.wb (PT_CHSTAT.adr b ch) PT_CHSTAT.PAUSED false).setRun b ch true
        let p : PDesc := ⟨cur, d, false, if why = 0 then none else some (0x90 + why), 0⟩
        let s3 := s2.setPchan b ch { s2.pchan b ch with desc := some p }
        if why = 0 then s3 else s3.descBad b ch cur (0x90 + why) 0

/-- The pulse of a finished descriptor (R386), to a target that its channel may use: sent, or an INK_DECR write whose failure is answered. -/
def descPulse (s : State) (b ch : Nat) (d : List Byte) : Option (Nat × Nat) × State :=
  match dEvKind d with
  | 1 =>
    if b < 24 ∧ dEvReg d = b / 6 then (none, s.pulse (ptXing b) ch (dEvIdx d))
    else s.busWrite (ptSrc b ch) (inkDecrAddr (dEvReg d)) (leBytes 4 (dEvIdx d * 2 ^ 14 + 1))
  | 2 => (none, s.triggerPulse b (dEvIdx d / 16) (dEvIdx d % 16) 1)
  | 3 => (none, s.pulse (ptXing b) ch (dEvIdx d))
  | _ => (none, s)

/-- DESCRIPTOR_FINISH (R374, R386, R390 to R393). -/
def descFinish (s : State) (b ch : Nat) : State :=
  match (s.pchan b ch).desc with
  | none => s
  | some p =>
    if !p.moved && p.bad.isNone && dLen p.bytes ≠ 0 then s else
      let s1 := match p.bad with
        | some st => if p.moved then s.descBad b ch p.addr st p.fail else s
        | none => s
      let silent := evTargetOk b p.bytes = false ∨ (p.bad.isSome ∧ dHoldBad p.bytes)
      let (e, s2) := if silent then (none, s1) else s1.descPulse b ch p.bytes
      let s3 := match e with
        | some (st, a) => s2.descBad b ch p.addr (0xC0 + st) a
        | none => s2
      let s4 := ((s3.setPchan b ch { s3.pchan b ch with desc := none }).setRun b ch false).incWrap (PT_DONE.adr b ch)
        PT_DONE.COUNT 1
      if dNext p.bytes = 0 then s4.advanceHead b ch
      else (s4.setPtCur b ch (dNext p.bytes)).wb (PT_CHSTAT.adr b ch) PT_CHSTAT.INCHAIN true

/-- PORTER_RELEASE (R389): the oldest release that has reached the hub block for a channel is applied. -/
def porterRelease (s : State) (ch : Nat) : State :=
  let n := sget s.relIn ch 0
  if n = 0 then s else { s with relIn := sput s.relIn ch (n - 1) 0 }.release 24 ch

/-- A write of a channel's register by a source (R373). -/
def ptWrite (s : State) (src a : Nat) (bs : List Byte) : State := (s.busWrite src a bs).2

end State

/-- The answer of a command to a Porter channel. -/
def onChan (b : BlockId) (ch : Fin 32) (s : State) : Result := if chanOk b ch then .next s else .fault .illFormed

def execPtTailWrite (b : BlockId) (ch : Fin 32) (src : SrcId) (v : Word) (s : State) : Result :=
  onChan b ch (s.ptWrite src (PT_TAIL.adr b ch) (leBytes 4 v.toNat))
def execPtRingbaseWrite (b : BlockId) (ch : Fin 32) (src : SrcId) (v : BitVec 64) (s : State) : Result :=
  onChan b ch (s.ptWrite src (PT_RINGBASE.adr b ch) (leBytes 8 v.toNat))
def execPtRinglenWrite (b : BlockId) (ch : Fin 32) (src : SrcId) (v : Word) (s : State) : Result :=
  onChan b ch (s.ptWrite src (PT_RINGLEN.adr b ch) (leBytes 4 v.toNat))
/-- PT_CHCTL is written with EN = 1 and its PRI kept. -/
def execPtChannelEnable (b : BlockId) (ch : Fin 32) (src : SrcId) (s : State) : Result :=
  onChan b ch (s.ptWrite src (PT_CHCTL.adr b ch) (leBytes 4 (s.reg (PT_CHCTL.adr b ch) ||| 0x80000000)))
/-- PT_CHCTL is written with EN = 0 and its PRI kept. -/
def execPtChannelDisable (b : BlockId) (ch : Fin 32) (src : SrcId) (s : State) : Result :=
  onChan b ch (s.ptWrite src (PT_CHCTL.adr b ch) (leBytes 4 (s.reg (PT_CHCTL.adr b ch) % 0x80000000)))
/-- PT_CHCTL is written with CUT = 1 and its other fields kept. -/
def execPtChainCut (b : BlockId) (ch : Fin 32) (src : SrcId) (s : State) : Result :=
  onChan b ch (s.ptWrite src (PT_CHCTL.adr b ch) (leBytes 4 (s.reg (PT_CHCTL.adr b ch) ||| 0x40000000)))
def execDescriptorStart (b : BlockId) (ch : Fin 32) (host : HostData) (s : State) : Result :=
  onChan b ch (if s.preparing && b.val < 24 then s else s.withHost host fun s => s.descStart b ch)
def execDescCopy (b : BlockId) (ch : Fin 32) (host : HostData) (s : State) : Result :=
  onChan b ch (s.withHost host fun s => s.descMove b ch 0 State.moveCopy)
def execDescInterleave (b : BlockId) (ch : Fin 32) (host : HostData) (s : State) : Result :=
  onChan b ch (s.withHost host fun s => s.descMove b ch 1 State.moveInterleave)
def execDescDeinterleave (b : BlockId) (ch : Fin 32) (host : HostData) (s : State) : Result :=
  onChan b ch (s.withHost host fun s => s.descMove b ch 2 State.moveDeinterleave)
def execDescWordsToPlanes (b : BlockId) (ch : Fin 32) (host : HostData) (s : State) : Result :=
  onChan b ch (s.withHost host fun s => s.descMove b ch 3 State.movePlanes)
def execDescPlanesToWords (b : BlockId) (ch : Fin 32) (host : HostData) (s : State) : Result :=
  onChan b ch (s.withHost host fun s => s.descMove b ch 4 State.moveWords)
def execDescriptorFinish (b : BlockId) (ch : Fin 32) (s : State) : Result := onChan b ch (s.descFinish b ch)
def execPorterRelease (ch : Fin 32) (s : State) : Result := .next (s.porterRelease ch)

end Sys2Proof.Machine
end

