-- ==== Sys2Proof/Machine/Network.lean ====
section
/-! DEFINITION. The commands of crossings, bridges and the Turnpike (R30 to R56, R60 to R90, R641, R642). -/

namespace Sys2Proof.Machine

namespace State

/-! ### Crossings -/

/-- One delivered occurrence of a completion (R195, R227): the unit and the status that the slice takes with it. -/
def doneOne (s : State) (x : Xid) (u : Nat) : State :=
  let r := x.dst - 28
  let (st, s1) := if u < 48 then
      let n := 48 * r + u
      let c := s.core n
      ((c.ended.headD 0, 0), s.setCore n { c with ended := c.ended.drop 1 })
    else
      let g := s.engine r (u - 48)
      ((0, g.statuses.headD 0), s.setEngine r (u - 48) { g with statuses := g.statuses.drop 1 })
  s1.setInkUnit r u { s1.inkUnit r u with done := (s1.inkUnit r u).done ++ [st] }

/-- What a delivered count does at its destination (R34, R195, R227, R386, R389, R489). -/
def pulseEffect (s : State) (x : Xid) (t c : Nat) : State :=
  match x.role with
  | 3 =>
    let n := 8 * x.dst + x.unit
    s.setCore n { s.core n with irq := true }
  | 4 => upto c (fun _ s => s.doneOne x t) s
  | 5 => if x.dst = 52 then s.evin t c else s.enqueueDecr (x.dst - 28) t c
  | 13 => { s with relIn := sput s.relIn t (sget s.relIn t 0 + c) 0 }
  | _ => s.enqueueDecr (x.dst - 28) t c

/-- Whether the decrement queue that a pulse enters is full (R212): the pulse then stays in the crossing. -/
def queueFull (s : State) (x : Xid) : Bool :=
  x.kind = 0 && x.role ≠ 3 && x.role ≠ 4 && x.role ≠ 13 && x.dst ≠ 52 && decide (128 ≤ (s.ink (x.dst - 28)).decq.length)

/-- PULSE_DELIVER (R34): the count in flight is applied in one destination cycle. -/
def pulseDeliver (s : State) (x : Xid) : State :=
  let st := s.xing x.key
  if x.kind ≠ 0 || !st.busy || st.taken || s.xIso x || s.queueFull x then s
  else (s.setXing x.key { st with taken := true, join := false }).pulseEffect x st.target st.count

/-- PULSE_ACK (R32, R36, R170): a coprocessor whose held pulse has been taken frees its command's tag. -/
def pulseAcked (s : State) (x : Xid) (join : Bool) : State :=
  if x.kind ≠ 0 then s
  else
    let s1 := s.pulseAck x join
    if x.role = 6 then (s1.ntfTaken x.src 0).ntfTaken x.src 1 else s1

/-- VALUE_DELIVER (R37, R212, R483, R544): PAUSE shows in RA_GSTAT of the accelerator group it reaches, the always-on island takes its
alarm, and the comparator the times of queue heads. -/
def valueDeliver (s : State) (x : Xid) : State :=
  if x.kind ≠ 1 then s
  else
    let st := s.xing x.key
    let took := st.busy && !st.taken && !s.xIso x
    let s1 := s.valueTake x
    if !took then s1
    else if x.role = 8 ∧ 24 ≤ x.dst ∧ x.dst < 28 then
      s1.wb (RA_GSTAT.adr (x.dst - 24)) RA_GSTAT.PAUSED (bit (s1.xing x.key).dst 0)
    else if x.role = 15 ∧ x.unit = 1 then { s1 with aonAlarm := bits (s1.xing x.key).dst 0 32 }
    else if x.role = 14 then
      upto 8 (fun k s => if x.src = 61 then s.presentStep k (bits st.value (32 * k) 32)
        else s.presentHead (x.src - 40) k (bits st.value (32 * k) 32)) s1
    else s1

/-- VALUE_ACK (R38, R356, R577). -/
def valueAcked (s : State) (x : Xid) : State :=
  if x.kind ≠ 1 then s else if x.role = 11 then s.evqAck x else if x.role = 12 then s.eccAck x else s.valueAck x

/-- HEARTBEAT_TOGGLE (R43). -/
def heartbeat (s : State) (x : Xid) : State :=
  if x.kind ≠ 2 then s else let st := s.xing x.key; s.setXing x.key { st with beat := !st.beat }

/-- Coprocessors of cluster `k` whose held pulses have gone, delivered or lost, complete again (R170). -/
def ntfFree (s : State) (k : Nat) : State := if k < 24 then (s.ntfTaken k 0).ntfTaken k 1 else s

/-- CROSSING_TIMEOUT (R46 to R49, R80): a timeout on a Turnpike link bridge, or between line control and always-on, also declares its
target dead. Of the errors that this brings in island `i` in one cycle, the lowest index is captured (R55). -/
def crossingTimeout (s : State) (i : Nat) (x : Xid) : State :=
  if !s.waitsAt i x || s.xIso x then s
  else
    let o := bridgeOwner x.src x.dst
    if tpLink x.src x.dst || (x.src = 61 && x.dst = 62) || (x.src = 62 && x.dst = 61) then
      let s0 := s.losePulses o fun y => y.src = i && decide (xidIndex i y < xidIndex i x)
      ((s0.xTimeout i x).deadDeclare o (decide (i ≠ o))).ntfFree o
    else s.xTimeout i x

/-- REPLICA_RELOAD (R44): the snapshot of TK_NS reaches the region fabric and the replica follows TK_NS again. An isolated
snapshot crossing brings no time (R48), and the replica holds on. -/
def replicaReload (s : State) (r : Nat) : State :=
  let x : Xid := ⟨52, 28 + r, 9, 0⟩
  if s.xIso x || s.xIso ⟨52, 28 + r, 10, 0⟩ then s else s.setXing x.key { s.xing x.key with dst := s.tkns, fresh := false }

/-- DEAD_TIMER_EXPIRE (R80, R81): the timer runs while a request that has crossed the island's bridge is unanswered. -/
def deadTimer (s : State) (i : Nat) : State :=
  if s.outst.any (fun r => r.crosses i) || !(s.routedReqs i).isEmpty then (s.deadDeclare i false).ntfFree i else s

/-! ### Turnpike requests -/

/-- TP_READ (R62, R63, R407): a line of host memory awaits its PCIe completion; its request is sent once fewer than
256 are outstanding (R404). A read behind a held write of its source is not served
yet (R69). -/
def tpRead (s : State) (src tag a : Nat) : State :=
  if 0x800000000000 ≤ a then
    match s.gate src tag a with
    | (some (st, i), _, s1) => s1.respond src tag a st i poisonLine
    | (none, t, s1) =>
      if !s1.hostUp then (s1.hostLinkEvent s1.hostDownCause a).respond src tag a stHostError t poisonLine
      else
        let s2 := s1.answered src tag a
        let s2 := if s2.hostReads.length < hostReadMax then s2.emit (.hostRead (a - 0x800000000000)) else s2
        { s2 with hostReads := s2.hostReads ++ [⟨t, src, tag, a, false, none, []⟩] }
  else if s.behindHeld src a then s
  else
    let (st, i, d, s1) := s.lineRead src tag a 64
    s1.respond src tag a st i d

/-- A write of one line and its answer (R63, R65). -/
def tpWrite (s : State) (src tag a : Nat) (k : WrKind) (en data : Nat) : State :=
  let (st, i, s1) := s.lineWrite src tag a k en data
  s.answerWrite s1 src tag a st i

/-- Whether the flits of a burst have consecutive indices, LAST on the last alone, and keep within 4,096 bytes (R64). -/
def burstOk (a : Nat) (fl : List BurstFlit) : Bool :=
  (fl.zipIdx.all fun (f, i) => f.idx.val = i && f.last = decide (i + 1 = fl.length)) &&
    decide (a % 4096 + 64 * fl.length ≤ 4096)

/-- TP_BURST (R64): a burst that breaks its rules is dropped whole. A burst of one flit is a WRITE. -/
def tpBurst (s : State) (src tag a : Nat) (fl : List BurstFlit) : State :=
  match fl with
  | [] => s
  | f :: _ =>
    if fl.length = 1 && f.last && f.idx.val = 0 then s.tpWrite src tag a .whole (2 ^ 64 - 1) f.data.toNat
    else if !burstOk a fl then
      match s.gate src tag a with
      | (some (st, i), _, s1) => s1.respond src tag a st i []
      | (none, t, s1) => s1.respond src tag a stDecodeError t []
    else
      -- a burst that its target has accepted is past the network with all its lines (R79)
      let past := (islandAt s.ddrGiB a).filter fun t => s.accepted t src tag a
      let r := fl.zipIdx.foldl (fun (r : Option (Nat × Nat) × Nat × State) (x : BurstFlit × Nat) =>
        match r.1 with
        | some _ => r
        | none =>
          let (st, i, s1) := match past with
            | some t => r.2.2.takeWrite src tag t (a + 64 * x.2) .burst (2 ^ 64 - 1) x.1.data.toNat
            | none => r.2.2.lineWrite src tag (a + 64 * x.2) .burst (2 ^ 64 - 1) x.1.data.toNat
          (if st = stOk then none else some (st, i), i, s1)) ((none : Option (Nat × Nat)), 0, s)
      match r.1 with
      | some (st, i) => r.2.2.respond src tag a st i []
      | none => s.answerWrite r.2.2 src tag a stOk r.2.1

/-- A request that reaches an isolated bridge, or a unit that is off inside an island (`want` TARGET_ASLEEP: R77, R523), or
a dead island (TARGET_DEAD: R83): answered so; a request to any other target is not this command's. -/
def refusedRequest (s : State) (want src tag a : Nat) (write : Bool) : State :=
  let d := if write then [] else poisonLine
  match s.gate src tag a with
  | (some (st, i), _, s1) => if st = want then s1.respond src tag a st i d else s
  | (none, _, s1) =>
    match s1.unitRefuses src tag a with
    | some (st, i, s2) => if st = want then s2.respond src tag a st i d else s
    | none => s

/-- TP_ROUTE_FLIT (R67 to R73, R86): a flit that arrives enters its buffer, the router's own island takes what is for it, and
output `o` forwards one flit. -/
def routeFlit (s : State) (q : Nat) (arrive : Option (Nat × Flit × Bool)) (o : Nat) : State :=
  let s1 := match arrive with
    | some (p, f, named) => s.acceptFlit q p f named
    | none => s
  (s1.takeOwn q).forwardFlit q o

/-- TP_AGE_PROMOTE (R71): the head of an input at level 0 or 1 counts as level 2. -/
def agePromote (s : State) (q p l : Nat) : State :=
  if 2 ≤ l then s
  else match sget (s.router q).bufs (4 * p + l) [] with
    | [] => s
    | h :: hs => s.setRouter q { s.router q with bufs := sput (s.router q).bufs (4 * p + l) ({ h with promoted := true } :: hs) [] }

end State

/-- The crossing that a command names (R639): none beyond XCOUNT. -/
def onXing (i : IslandId) (x : Nat) (f : Xid → State) : Result :=
  match xidAt i x with
  | some c => .next (f c)
  | none => .fault .illFormed

def execPulseDeliver (i : IslandId) (x : Nat) (s : State) : Result :=
  onXing i x fun c => if c.dst = i.val then s.pulseDeliver c else s
def execPulseAck (i : IslandId) (x : AckAt) (s : State) : Result :=
  onXing i x.xing fun c => if c.src = i.val then s.pulseAcked c x.join else s
def execValueDeliver (i : IslandId) (x : Nat) (s : State) : Result :=
  onXing i x fun c => if c.dst = i.val then s.valueDeliver c else s
def execValueAck (i : IslandId) (x : Nat) (s : State) : Result :=
  onXing i x fun c => if c.src = i.val then s.valueAcked c else s
def execGrayCounterUpdate (i : IslandId) (x : Nat) (s : State) : Result :=
  onXing i x fun c => if c.kind = 2 ∧ c.dst = i.val then s.grayUpdate c else s
def execHeartbeatToggle (i : IslandId) (x : Nat) (s : State) : Result :=
  onXing i x fun c => if c.src = i.val then s.heartbeat c else s
def execSnapshotResult (i : IslandId) (x : Nat) (s : State) : Result :=
  onXing i x fun c => if c.kind = 3 ∧ c.dst = i.val then s.snapshot c else s
def execCrossingTimeout (i : IslandId) (x : Nat) (s : State) : Result := onXing i x fun c => s.crossingTimeout i c
def execReplicaReload (r : RegionId) (s : State) : Result := .next (s.replicaReload r)
def execBridgeDrainComplete (i : IslandId) (s : State) : Result := .next (s.drainComplete i)
def execBridgeResetRelease (i : IslandId) (s : State) : Result := .next (s.resetRelease i)
def execIslandReady (i : IslandId) (s : State) : Result := .next (s.islandReady i)
/-- TP_ROUTE_FLIT: a flit that arrives comes with its input and whether its request names a level (R72). -/
def execTpRouteFlit (q : Fin 32) (arrive : Option (Fin 32 × Flit × Bool)) (o : Fin 32) (s : State) : Result :=
  .next (s.routeFlit q (arrive.map fun x => (x.1.val, x.2)) o)
def execTpAgePromote (q p : Fin 32) (lvl : Fin 4) (s : State) : Result := .next (s.agePromote q p lvl)
def execTpRead (src : SrcId) (tag : BitVec 8) (line : BitVec 42) (ups : List Upset) (s : State) : Result :=
  .next ((s.applyUpsets ups).tpRead src tag.toNat (line.toNat * 64))
def execTpWrite (src : SrcId) (tag : BitVec 8) (line : BitVec 42) (data : Line) (s : State) : Result :=
  .next (s.tpWrite src tag.toNat (line.toNat * 64) .whole (2 ^ 64 - 1) data.toNat)
/-- The enabled bytes of the half line: data bits [255:0], enables in bits [287:256] (R63). -/
def execTpWritePart (src : SrcId) (tag : BitVec 8) (line : BitVec 42) (half : Bool) (data : Line) (s : State) : Result :=
  .next (s.tpWrite src tag.toNat (line.toNat * 64) .part (bits data.toNat 256 32 * 2 ^ (32 * b2n half))
    (bits data.toNat 0 256 * 2 ^ (256 * b2n half)))
def execTpBurst (src : SrcId) (tag : BitVec 8) (line : BitVec 42) (flits : List BurstFlit) (s : State) : Result :=
  .next (s.tpBurst src tag.toNat (line.toNat * 64) flits)
def execRegisterWrite (src : SrcId) (tag : BitVec 8) (line : BitVec 42) (en : BitVec 64) (data : Line) (s : State) : Result :=
  .next (s.tpWrite src tag.toNat (line.toNat * 64) .part en.toNat data.toNat)
def execIsolatedRequest (src : SrcId) (tag : BitVec 8) (line : BitVec 42) (write : Bool) (s : State) : Result :=
  .next (s.refusedRequest stAsleep src tag.toNat (line.toNat * 64) write)
def execDeadTimerExpire (i : IslandId) (s : State) : Result := .next (s.deadTimer i)
def execDeadTargetAbsorb (src : SrcId) (tag : BitVec 8) (line : BitVec 42) (write : Bool) (s : State) : Result :=
  .next (s.refusedRequest stDead src tag.toNat (line.toNat * 64) write)

end Sys2Proof.Machine
end

