-- ==== Sys2Proof/Machine/Timekeeper.lean ====
section
/-! DEFINITION. The commands of the Timekeeper (R465 to R498). A Timekeeper that is off or in reset takes none. -/

namespace Sys2Proof.Machine

/-- Runs `f` while the Timekeeper is powered and out of reset. -/
def State.onTk (s : State) (f : State → State) : State := if s.tkRuns then f s else s

/-- A strobe of a number that names no source (R471) does not occur. The strobes of Carriage ports occur with their frames, in
CARRIAGE_FRAME_SEND and CARRIAGE_FRAME_RECEIVE (R449). -/
def execCaptureStrobe (src : Fin 64) (s : State) : Result :=
  .next (s.onTk fun s => if isCaptureSrc src.val && src.val < 40 then s.captureStrobe src.val else s)

def execCaptureHandler (s : State) : Result := .next (s.onTk State.captureHandler)

/-- ANCHOR_REWRITE (R469). -/
def execAnchorRewrite (s : State) : Result := .next (s.onTk State.anchorWrite)

def execSyncReceive (p : PortId) (domain seq : Byte) (t1 : Option Int) (corr : Int) (s : State) : Result :=
  .next (s.onTk fun s => s.syncReceive p.val domain.toNat seq.toNat t1 corr)

def execFollowUpReceive (p : PortId) (domain : Byte) (t1 corr : Int) (s : State) : Result :=
  .next (s.onTk fun s => s.followUp p.val domain.toNat t1 corr)

def execDelayReqReceive (p : PortId) (domain seq : Byte) (requester : BitVec 80) (s : State) : Result :=
  .next (s.onTk fun s => s.delayReq p.val domain.toNat seq.toNat requester.toNat)

def execDelayRespReceive (p : PortId) (domain : Byte) (t4 corr : Int) (s : State) : Result :=
  .next (s.onTk fun s => s.delayResp p.val domain.toNat t4 corr)

def execAnnounceReceive (p : PortId) (domain : Byte) (gm : BitVec 64) (cls : Byte) (removed : BitVec 16) (s : State) : Result :=
  .next (s.onTk fun s => s.announce p.val domain.toNat gm.toNat cls.toNat removed.toNat)

def execPtpSyncSend (p : PortId) (s : State) : Result := .next (s.onTk fun s => s.syncSend p.val)

def execPtpAnnounceSend (p : PortId) (s : State) : Result := .next (s.onTk fun s => s.announceSend p.val)

def execPtpDelayReqSend (p : PortId) (s : State) : Result := .next (s.onTk fun s => s.delayReqSend p.val)

def execTimeLoopUpdate (freq : Option (BitVec 32)) (s : State) : Result :=
  .next (s.onTk fun s => s.loopUpdate (freq.map BitVec.toInt))

def execTimeLock (s : State) : Result := .next (s.onTk State.timeLock)

def execLockLoss (s : State) : Result := .next (s.onTk State.lockLoss)

def execSourceLost (s : State) : Result := .next (s.onTk State.sourceLost)

def execSourceValid (s : State) : Result := .next (s.onTk State.sourceValid)

def execHoldoverExpire (s : State) : Result := .next (s.onTk State.holdExpire)

def execTuningWordSave (w : BitVec 24) (s : State) : Result := .next (s.onTk fun s => s.tuneSave w.toNat)

def execAnalogStepDue (c : ChanId) (s : State) : Result := .next (s.onTk fun s => s.stepDue c.val)

def execPpsOutRise (s : State) : Result := .next (s.onTk State.ppsRise)

def execPpsOutFall (s : State) : Result := .next (s.onTk State.ppsFall)

def execAostepWrite (src : SrcId) (whole : Bool) (v : BitVec 64) (s : State) : Result :=
  .next (s.onTk fun s => s.aoStepWrite src.val whole v.toNat)

def execTkEventInput (i : Fin 16) (n : Fin 16) (s : State) : Result := .next (s.onTk fun s => s.evin i.val n.val)

end Sys2Proof.Machine
end

