-- ==== Sys2Proof/Machine/Vdc.lean ====
section
/-! DEFINITION. The commands of the vector DSP core (R92 to R135): one operation of a slot each, and what happens to
bundles and cores. `nb` says that the operation is the first of a new bundle, issued at PC. -/

namespace Sys2Proof.Machine

namespace State

/-- Issues a vector operation. -/
def issueV (s : State) (n : Nat) (nb : Bool) (vop : Nat) (vd va vb : BitVec 4) (md : BitVec 6) : State :=
  match vOp vop vd.toNat va.toNat vb.toNat md.toNat with
  | some op => s.issue n nb op
  | none => s

/-- Issues a scalar operation. -/
def issueS (s : State) (n : Nat) (nb : Bool) (sop : Nat) (sd sa : BitVec 4) (sb : BitVec 5) : State :=
  match sOp sop sd.toNat sa.toNat sb.toNat with
  | some op => s.issue n nb op
  | none => s

/-- Issues a branch. -/
def issueB (s : State) (n : Nat) (nb : Bool) (sop : Nat) (sd : BitVec 4) (disp : BitVec 9) : State :=
  match sOp sop sd.toNat (disp.toNat / 32) (disp.toNat % 32) with
  | some op => s.issue n nb op
  | none => s

/-- Issues a control bundle other than a repeat. -/
def issueC (s : State) (n cop : Nat) (opnds : BitVec 56) : State :=
  match cOp cop opnds.toNat with
  | some op => s.issue n true op
  | none => s

/-- RETE as an operation (R131); `best` holds the running bests that the handler found. -/
def reteOp (legal : Bool) (best : Sparse (Int × Nat)) : SlotOp :=
  ⟨[], [rC 1], legal, fun c r =>
    let epc := (c.before.getC 2).toNat % 2 ^ 13
    let rem := bits (c.before.getC 5).toNat 0 12
    let k := bits (c.before.getC 5).toNat 16 12
    let r1 := (r.setC 1 (r.getC 1 &&& 0x7FFFFFFF#32))
    { r1 with pc := epc, rep := if rem = 0 then none else some ⟨epc, k, rem, best, none⟩ }⟩

/-- The task of a core ends (R201, R202): C1.VALID clears, the completion goes to the slice, and the core is idle, or
waits for the task it returns to. -/
def endTask (s : State) (n : Nat) : State :=
  let c := s.core n
  let r := c.arch.setC 1 (c.arch.getC 1 &&& 0x7FFFFFFF#32)
  let s1 := s.setCore n { c with arch := r, run := if c.depth = 0 then .idle else .restoring, best := [],
                                 tasks := sput c.tasks c.depth 0 0, ended := c.ended ++ [c.depth] }
  s1.pulse ⟨n / 8, 28 + n / 48, 4, 0⟩ (n % 8) (n % 48)

/-- DONE (R99, R201): waits, as FENCE does, until every access has been answered, and for the bundles before it and its
own to commit. An access error of a store of its own bundle finds the task ended (DESIGN CHOICE, log entry 28). -/
def issueDone (s : State) (n : Nat) (nb legal : Bool) : State :=
  if !s.canIssue n || (s.core n).defer.any (fun d => d.exc.code = 7) then s
  else if !legal then (s.ready n nb).fault n ⟨1, 0, 0⟩
  else if nb || (s.core n).flight.isEmpty then
    if !(s.core n).flight.isEmpty || !s.allAnswered n then s else
      let s1 := s.openBundle n
      match s1.youngest n with
      | none => s
      | some b => if b.exc.isSome then s1 else (s1.commit n).endTask n
  else match (s.core n).flight with
    | [b] =>
      if b.exc.isSome || !(s.core n).rloads.isEmpty then s else
        (s.commit n).endTask n
    | _ => s

end State

/-- DONE (R99, R201). -/
def execDone (n : CoreId) (nb : Bool) (sd sa : BitVec 4) (sb : BitVec 5) (s : State) : Result :=
  .next (s.issueDone n nb (sd = 0 && sa = 0 && sb = 0))

/-- RETE (R99, R131). -/
def execRete (n : CoreId) (nb : Bool) (sd sa : BitVec 4) (sb : BitVec 5) (s : State) : Result :=
  .next (s.issue n nb (State.reteOp (sd = 0 && sa = 0 && sb = 0) (s.core n).best))

/-- TRAP (R99, R129): the trap exception with code SB. -/
def execTrap (n : CoreId) (nb : Bool) (sd sa : BitVec 4) (sb : BitVec 5) (s : State) : Result :=
  .next (if !s.canIssue n then s
    else (s.ready n nb).fault n (if sd = 0 ∧ sa = 0 then ⟨6, sb.toNat, 0⟩ else ⟨1, 0, 0⟩))

/-- REP (R100, R113, R114). -/
def execRep (n : CoreId) (opnds : BitVec 56) (s : State) : Result :=
  .next (if s.canIssue n then s.startRep n (opnds.toNat % 2 ^ 12) (opnds.toNat < 2 ^ 12) else s)

/-- REPS (R100, R113, R114): as REP with n from Sa, at most 4,095. -/
def execReps (n : CoreId) (opnds : BitVec 56) (s : State) : Result :=
  let a := bits opnds.toNat 12 4
  .next (if s.canIssue n && !s.waits n true [rS a] then
      s.startRep n (min ((s.core n).arch.getS a).toNat 4095) (bits opnds.toNat 0 12 = 0 && bits opnds.toNat 16 40 = 0)
    else s)

/-- REP_ITERATION (R113 to R117). -/
def execRepIteration (n : CoreId) (s : State) : Result := .next (s.iterate n)

/-- BUNDLE_COMMIT (R123, R125, R148, R151). -/
def execBundleCommit (n : CoreId) (s : State) : Result := .next (s.commit n)

/-- REMOTE_LOAD_RESPONSE (R124, R125): remote load `i` of the core, oldest first. -/
def execRemoteLoadResponse (n : CoreId) (i : Fin 8) (s : State) : Result := .next (s.loadArrives n i)

/-- EXCEPTION_TAKEN (R129, R130, R132, R150). -/
def execExceptionTaken (n : CoreId) (s : State) : Result := .next (s.takeException n)

/-- ACCESS_ERROR_EXCEPTION (R129, R130, R152): the oldest access error that waits is taken at the boundary. -/
def execAccessErrorException (n : CoreId) (s : State) : Result :=
  let c := s.core n
  .next (match c.defer.find? (fun d => d.exc.code = 7) with
    | none => s
    | some d =>
      let s1 := s.setCore n { c with defer := ldrop1 (fun x => x = d) c.defer }
      if sget c.tasks d.depth 0 ≠ d.task then s1
      else if c.run ≠ .running ∨ c.depth ≠ d.depth then s
      else if s.handling n then s1.countMore n
      else if s.atBoundary n then s1.takeAtBoundary n d.exc else s)

/-- VNOP (R97). -/
def execVnop (n : CoreId) (nb : Bool) (vd va vb : BitVec 4) (md : BitVec 6) (s : State) : Result :=
  .next (s.issueV n nb 0x00 vd va vb md)

/-- VADD (R97). -/
def execVadd (n : CoreId) (nb : Bool) (vd va vb : BitVec 4) (md : BitVec 6) (s : State) : Result :=
  .next (s.issueV n nb 0x01 vd va vb md)

/-- VSUB (R97). -/
def execVsub (n : CoreId) (nb : Bool) (vd va vb : BitVec 4) (md : BitVec 6) (s : State) : Result :=
  .next (s.issueV n nb 0x02 vd va vb md)

/-- VADDS (R97, R112). -/
def execVadds (n : CoreId) (nb : Bool) (vd va vb : BitVec 4) (md : BitVec 6) (s : State) : Result :=
  .next (s.issueV n nb 0x03 vd va vb md)

/-- VSUBS (R97, R112). -/
def execVsubs (n : CoreId) (nb : Bool) (vd va vb : BitVec 4) (md : BitVec 6) (s : State) : Result :=
  .next (s.issueV n nb 0x04 vd va vb md)

/-- VAND (R97). -/
def execVand (n : CoreId) (nb : Bool) (vd va vb : BitVec 4) (md : BitVec 6) (s : State) : Result :=
  .next (s.issueV n nb 0x05 vd va vb md)

/-- VOR (R97). -/
def execVor (n : CoreId) (nb : Bool) (vd va vb : BitVec 4) (md : BitVec 6) (s : State) : Result :=
  .next (s.issueV n nb 0x06 vd va vb md)

/-- VXOR (R97). -/
def execVxor (n : CoreId) (nb : Bool) (vd va vb : BitVec 4) (md : BitVec 6) (s : State) : Result :=
  .next (s.issueV n nb 0x07 vd va vb md)

/-- VSHL (R97). -/
def execVshl (n : CoreId) (nb : Bool) (vd va vb : BitVec 4) (md : BitVec 6) (s : State) : Result :=
  .next (s.issueV n nb 0x08 vd va vb md)

/-- VSHRA (R97). -/
def execVshra (n : CoreId) (nb : Bool) (vd va vb : BitVec 4) (md : BitVec 6) (s : State) : Result :=
  .next (s.issueV n nb 0x09 vd va vb md)

/-- VMOV (R97). -/
def execVmov (n : CoreId) (nb : Bool) (vd va vb : BitVec 4) (md : BitVec 6) (s : State) : Result :=
  .next (s.issueV n nb 0x0a vd va vb md)

/-- VMUL (R108). -/
def execVmul (n : CoreId) (nb : Bool) (vd va vb : BitVec 4) (md : BitVec 6) (s : State) : Result :=
  .next (s.issueV n nb 0x10 vd va vb md)

/-- VMAC (R108). -/
def execVmac (n : CoreId) (nb : Bool) (vd va vb : BitVec 4) (md : BitVec 6) (s : State) : Result :=
  .next (s.issueV n nb 0x11 vd va vb md)

/-- VMSU (R108). -/
def execVmsu (n : CoreId) (nb : Bool) (vd va vb : BitVec 4) (md : BitVec 6) (s : State) : Result :=
  .next (s.issueV n nb 0x12 vd va vb md)

/-- VMACB (R110). -/
def execVmacb (n : CoreId) (nb : Bool) (vd va vb : BitVec 4) (md : BitVec 6) (s : State) : Result :=
  .next (s.issueV n nb 0x13 vd va vb md)

/-- VCMUL (R109). -/
def execVcmul (n : CoreId) (nb : Bool) (vd va vb : BitVec 4) (md : BitVec 6) (s : State) : Result :=
  .next (s.issueV n nb 0x14 vd va vb md)

/-- VCMAC (R109). -/
def execVcmac (n : CoreId) (nb : Bool) (vd va vb : BitVec 4) (md : BitVec 6) (s : State) : Result :=
  .next (s.issueV n nb 0x15 vd va vb md)

/-- VCLRA (R97). -/
def execVclra (n : CoreId) (nb : Bool) (vd va vb : BitVec 4) (md : BitVec 6) (s : State) : Result :=
  .next (s.issueV n nb 0x16 vd va vb md)

/-- VEXT (R111, R112). -/
def execVext (n : CoreId) (nb : Bool) (vd va vb : BitVec 4) (md : BitVec 6) (s : State) : Result :=
  .next (s.issueV n nb 0x18 vd va vb md)

/-- VEXTS (R111, R112). -/
def execVexts (n : CoreId) (nb : Bool) (vd va vb : BitVec 4) (md : BitVec 6) (s : State) : Result :=
  .next (s.issueV n nb 0x19 vd va vb md)

/-- VMAXI (R118 to R120). -/
def execVmaxi (n : CoreId) (nb : Bool) (vd va vb : BitVec 4) (md : BitVec 6) (s : State) : Result :=
  .next (s.issueV n nb 0x20 vd va vb md)

/-- VMINI (R118 to R120). -/
def execVmini (n : CoreId) (nb : Bool) (vd va vb : BitVec 4) (md : BitVec 6) (s : State) : Result :=
  .next (s.issueV n nb 0x21 vd va vb md)

/-- MNOP (R98, R102 to R107, R123 to R126). -/
def execMnop (n : CoreId) (nb : Bool) (mr : BitVec 4) (ma mo : BitVec 3) (pm : Bool) (low : BitVec 4) (s : State) : Result :=
  .next (s.issueMem n nb 0 mr.toNat ma.toNat mo.toNat pm low.toNat)

/-- VLD (R98, R102 to R107, R123 to R126). -/
def execVld (n : CoreId) (nb : Bool) (mr : BitVec 4) (ma mo : BitVec 3) (pm : Bool) (low : BitVec 4) (s : State) : Result :=
  .next (s.issueMem n nb 1 mr.toNat ma.toNat mo.toNat pm low.toNat)

/-- VST (R98, R102 to R107, R123 to R126). -/
def execVst (n : CoreId) (nb : Bool) (mr : BitVec 4) (ma mo : BitVec 3) (pm : Bool) (low : BitVec 4) (s : State) : Result :=
  .next (s.issueMem n nb 2 mr.toNat ma.toNat mo.toNat pm low.toNat)

/-- VLDB (R98, R102 to R107, R123 to R126). -/
def execVldb (n : CoreId) (nb : Bool) (mr : BitVec 4) (ma mo : BitVec 3) (pm : Bool) (low : BitVec 4) (s : State) : Result :=
  .next (s.issueMem n nb 3 mr.toNat ma.toNat mo.toNat pm low.toNat)

/-- LDH (R98, R102 to R107, R123 to R126). -/
def execLdh (n : CoreId) (nb : Bool) (mr : BitVec 4) (ma mo : BitVec 3) (pm : Bool) (low : BitVec 4) (s : State) : Result :=
  .next (s.issueMem n nb 4 mr.toNat ma.toNat mo.toNat pm low.toNat)

/-- LDW (R98, R102 to R107, R123 to R126). -/
def execLdw (n : CoreId) (nb : Bool) (mr : BitVec 4) (ma mo : BitVec 3) (pm : Bool) (low : BitVec 4) (s : State) : Result :=
  .next (s.issueMem n nb 5 mr.toNat ma.toNat mo.toNat pm low.toNat)

/-- STH (R98, R102 to R107, R123 to R126). -/
def execSth (n : CoreId) (nb : Bool) (mr : BitVec 4) (ma mo : BitVec 3) (pm : Bool) (low : BitVec 4) (s : State) : Result :=
  .next (s.issueMem n nb 6 mr.toNat ma.toNat mo.toNat pm low.toNat)

/-- STW (R98, R102 to R107, R123 to R126). -/
def execStw (n : CoreId) (nb : Bool) (mr : BitVec 4) (ma mo : BitVec 3) (pm : Bool) (low : BitVec 4) (s : State) : Result :=
  .next (s.issueMem n nb 7 mr.toNat ma.toNat mo.toNat pm low.toNat)

/-- STB (R98, R102 to R107, R123 to R126). -/
def execStb (n : CoreId) (nb : Bool) (mr : BitVec 4) (ma mo : BitVec 3) (pm : Bool) (low : BitVec 4) (s : State) : Result :=
  .next (s.issueMem n nb 8 mr.toNat ma.toNat mo.toNat pm low.toNat)

/-- FENCE (R98, R125). -/
def execFence (n : CoreId) (nb : Bool) (mr : BitVec 4) (ma mo : BitVec 3) (pm : Bool) (low : BitVec 4) (s : State) : Result :=
  .next (s.issueFence n nb mr.toNat ma.toNat mo.toNat pm low.toNat)

/-- CMOV_TO (R136, R145, R147, R157); `f` holds M slot bits [14:0]. -/
def execCmovTo (n : CoreId) (nb : Bool) (f : BitVec 15) (s : State) : Result :=
  .next (s.cmovTo n nb f.toNat)

/-- CMOV_FROM (R136, R145, R147, R157); `f` holds M slot bits [14:0]. -/
def execCmovFrom (n : CoreId) (nb : Bool) (f : BitVec 15) (s : State) : Result :=
  .next (s.cmovFrom n nb f.toNat)

/-- CISSUE (R136 to R145, R153, R155); `f` holds M slot bits [14:0]. -/
def execCissue (n : CoreId) (nb : Bool) (f : BitVec 15) (s : State) : Result :=
  .next (s.cissue n nb f.toNat)

/-- CWAIT (R136, R137); `f` holds M slot bits [14:0]. -/
def execCwait (n : CoreId) (nb : Bool) (f : BitVec 15) (s : State) : Result :=
  .next (s.cwait n nb f.toNat)

/-- SNOP (R99). -/
def execSnop (n : CoreId) (nb : Bool) (sd sa : BitVec 4) (sb : BitVec 5) (s : State) : Result :=
  .next (s.issueS n nb 0x00 sd sa sb)

/-- ADD (R99). -/
def execAdd (n : CoreId) (nb : Bool) (sd sa : BitVec 4) (sb : BitVec 5) (s : State) : Result :=
  .next (s.issueS n nb 0x01 sd sa sb)

/-- SUB (R99). -/
def execSub (n : CoreId) (nb : Bool) (sd sa : BitVec 4) (sb : BitVec 5) (s : State) : Result :=
  .next (s.issueS n nb 0x02 sd sa sb)

/-- AND (R99). -/
def execAnd (n : CoreId) (nb : Bool) (sd sa : BitVec 4) (sb : BitVec 5) (s : State) : Result :=
  .next (s.issueS n nb 0x03 sd sa sb)

/-- OR (R99). -/
def execOr (n : CoreId) (nb : Bool) (sd sa : BitVec 4) (sb : BitVec 5) (s : State) : Result :=
  .next (s.issueS n nb 0x04 sd sa sb)

/-- XOR (R99). -/
def execXor (n : CoreId) (nb : Bool) (sd sa : BitVec 4) (sb : BitVec 5) (s : State) : Result :=
  .next (s.issueS n nb 0x05 sd sa sb)

/-- SHL (R99). -/
def execShl (n : CoreId) (nb : Bool) (sd sa : BitVec 4) (sb : BitVec 5) (s : State) : Result :=
  .next (s.issueS n nb 0x06 sd sa sb)

/-- SHRA (R99). -/
def execShra (n : CoreId) (nb : Bool) (sd sa : BitVec 4) (sb : BitVec 5) (s : State) : Result :=
  .next (s.issueS n nb 0x07 sd sa sb)

/-- ADDI (R99). -/
def execAddi (n : CoreId) (nb : Bool) (sd sa : BitVec 4) (sb : BitVec 5) (s : State) : Result :=
  .next (s.issueS n nb 0x08 sd sa sb)

/-- MOVA (R99). -/
def execMova (n : CoreId) (nb : Bool) (sd sa : BitVec 4) (sb : BitVec 5) (s : State) : Result :=
  .next (s.issueS n nb 0x0a sd sa sb)

/-- MOVO (R99). -/
def execMovo (n : CoreId) (nb : Bool) (sd sa : BitVec 4) (sb : BitVec 5) (s : State) : Result :=
  .next (s.issueS n nb 0x0b sd sa sb)

/-- MOVL (R99). -/
def execMovl (n : CoreId) (nb : Bool) (sd sa : BitVec 4) (sb : BitVec 5) (s : State) : Result :=
  .next (s.issueS n nb 0x0c sd sa sb)

/-- MOVB (R99). -/
def execMovb (n : CoreId) (nb : Bool) (sd sa : BitVec 4) (sb : BitVec 5) (s : State) : Result :=
  .next (s.issueS n nb 0x0d sd sa sb)

/-- MFA (R99). -/
def execMfa (n : CoreId) (nb : Bool) (sd sa : BitVec 4) (sb : BitVec 5) (s : State) : Result :=
  .next (s.issueS n nb 0x0e sd sa sb)

/-- MFC (R99). -/
def execMfc (n : CoreId) (nb : Bool) (sd sa : BitVec 4) (sb : BitVec 5) (s : State) : Result :=
  .next (s.issueS n nb 0x0f sd sa sb)

/-- MTC (R99). -/
def execMtc (n : CoreId) (nb : Bool) (sd sa : BitVec 4) (sb : BitVec 5) (s : State) : Result :=
  .next (s.issueS n nb 0x10 sd sa sb)

/-- BEQZ (R99). -/
def execBeqz (n : CoreId) (nb : Bool) (sd : BitVec 4) (disp : BitVec 9) (s : State) : Result :=
  .next (s.issueB n nb 0x20 sd disp)

/-- BNEZ (R99). -/
def execBnez (n : CoreId) (nb : Bool) (sd : BitVec 4) (disp : BitVec 9) (s : State) : Result :=
  .next (s.issueB n nb 0x21 sd disp)

/-- BLTZ (R99). -/
def execBltz (n : CoreId) (nb : Bool) (sd : BitVec 4) (disp : BitVec 9) (s : State) : Result :=
  .next (s.issueB n nb 0x22 sd disp)

/-- BGEZ (R99). -/
def execBgez (n : CoreId) (nb : Bool) (sd : BitVec 4) (disp : BitVec 9) (s : State) : Result :=
  .next (s.issueB n nb 0x23 sd disp)

/-- MOVI (R100). -/
def execMovi (n : CoreId) (nb : Bool) (d : BitVec 4) (imm : BitVec 32) (s : State) : Result :=
  .next (s.issue n nb (lOp 0 d.toNat imm.toNat))

/-- MOVI_O (R100). -/
def execMoviO (n : CoreId) (nb : Bool) (d : BitVec 4) (imm : BitVec 32) (s : State) : Result :=
  .next (s.issue n nb (lOp 1 d.toNat imm.toNat))

/-- MOVI_AL (R100). -/
def execMoviAl (n : CoreId) (nb : Bool) (d : BitVec 4) (imm : BitVec 32) (s : State) : Result :=
  .next (s.issue n nb (lOp 2 d.toNat imm.toNat))

/-- MOVI_AH (R100). -/
def execMoviAh (n : CoreId) (nb : Bool) (d : BitVec 4) (imm : BitVec 32) (s : State) : Result :=
  .next (s.issue n nb (lOp 3 d.toNat imm.toNat))

/-- JMP (R100). -/
def execJmp (n : CoreId) (opnds : BitVec 56) (s : State) : Result :=
  .next (s.issueC n 3 opnds)

/-- CALL (R100). -/
def execCall (n : CoreId) (opnds : BitVec 56) (s : State) : Result :=
  .next (s.issueC n 4 opnds)

/-- RET (R100). -/
def execRet (n : CoreId) (opnds : BitVec 56) (s : State) : Result :=
  .next (s.issueC n 5 opnds)

end Sys2Proof.Machine
end

