-- ==== Sys2Proof/Machine/Dispatch.lean ====
section
/-! DEFINITION. The meaning of every command, one arm for each constructor. -/

namespace Sys2Proof.Machine

def exec (i : Instr) (s : State) : Host.Outcome State Fault Refusal :=
  match i with
  | .pulseDeliver ix x => Sys2Proof.Machine.execPulseDeliver ix x s
  | .pulseAck ix x => Sys2Proof.Machine.execPulseAck ix x s
  | .valueDeliver ix x => Sys2Proof.Machine.execValueDeliver ix x s
  | .valueAck ix x => Sys2Proof.Machine.execValueAck ix x s
  | .grayCounterUpdate ix x => Sys2Proof.Machine.execGrayCounterUpdate ix x s
  | .heartbeatToggle ix x => Sys2Proof.Machine.execHeartbeatToggle ix x s
  | .snapshotResult ix x => Sys2Proof.Machine.execSnapshotResult ix x s
  | .crossingTimeout ix x => Sys2Proof.Machine.execCrossingTimeout ix x s
  | .replicaReload r => Sys2Proof.Machine.execReplicaReload r s
  | .bridgeDrainComplete ix => Sys2Proof.Machine.execBridgeDrainComplete ix s
  | .bridgeResetRelease ix => Sys2Proof.Machine.execBridgeResetRelease ix s
  | .islandReady ix => Sys2Proof.Machine.execIslandReady ix s
  | .tpRouteFlit q arrive o => Sys2Proof.Machine.execTpRouteFlit q arrive o s
  | .tpAgePromote q p lvl => Sys2Proof.Machine.execTpAgePromote q p lvl s
  | .tpRead src tag line ups => Sys2Proof.Machine.execTpRead src tag line ups s
  | .tpWrite src tag line data => Sys2Proof.Machine.execTpWrite src tag line data s
  | .tpWritePart src tag line half data => Sys2Proof.Machine.execTpWritePart src tag line half data s
  | .tpBurst src tag line flits => Sys2Proof.Machine.execTpBurst src tag line flits s
  | .registerWrite src tag line en data => Sys2Proof.Machine.execRegisterWrite src tag line en data s
  | .isolatedRequest src tag line write => Sys2Proof.Machine.execIsolatedRequest src tag line write s
  | .deadTimerExpire ix => Sys2Proof.Machine.execDeadTimerExpire ix s
  | .deadTargetAbsorb src tag line write => Sys2Proof.Machine.execDeadTargetAbsorb src tag line write s
  | .vnop n nb vd va vb md => Sys2Proof.Machine.execVnop n nb vd va vb md s
  | .vadd n nb vd va vb md => Sys2Proof.Machine.execVadd n nb vd va vb md s
  | .vsub n nb vd va vb md => Sys2Proof.Machine.execVsub n nb vd va vb md s
  | .vadds n nb vd va vb md => Sys2Proof.Machine.execVadds n nb vd va vb md s
  | .vsubs n nb vd va vb md => Sys2Proof.Machine.execVsubs n nb vd va vb md s
  | .vand n nb vd va vb md => Sys2Proof.Machine.execVand n nb vd va vb md s
  | .vor n nb vd va vb md => Sys2Proof.Machine.execVor n nb vd va vb md s
  | .vxor n nb vd va vb md => Sys2Proof.Machine.execVxor n nb vd va vb md s
  | .vshl n nb vd va vb md => Sys2Proof.Machine.execVshl n nb vd va vb md s
  | .vshra n nb vd va vb md => Sys2Proof.Machine.execVshra n nb vd va vb md s
  | .vmov n nb vd va vb md => Sys2Proof.Machine.execVmov n nb vd va vb md s
  | .vmul n nb vd va vb md => Sys2Proof.Machine.execVmul n nb vd va vb md s
  | .vmac n nb vd va vb md => Sys2Proof.Machine.execVmac n nb vd va vb md s
  | .vmsu n nb vd va vb md => Sys2Proof.Machine.execVmsu n nb vd va vb md s
  | .vmacb n nb vd va vb md => Sys2Proof.Machine.execVmacb n nb vd va vb md s
  | .vcmul n nb vd va vb md => Sys2Proof.Machine.execVcmul n nb vd va vb md s
  | .vcmac n nb vd va vb md => Sys2Proof.Machine.execVcmac n nb vd va vb md s
  | .vclra n nb vd va vb md => Sys2Proof.Machine.execVclra n nb vd va vb md s
  | .vext n nb vd va vb md => Sys2Proof.Machine.execVext n nb vd va vb md s
  | .vexts n nb vd va vb md => Sys2Proof.Machine.execVexts n nb vd va vb md s
  | .vmaxi n nb vd va vb md => Sys2Proof.Machine.execVmaxi n nb vd va vb md s
  | .vmini n nb vd va vb md => Sys2Proof.Machine.execVmini n nb vd va vb md s
  | .mnop n nb mr ma mo pm low => Sys2Proof.Machine.execMnop n nb mr ma mo pm low s
  | .vld n nb mr ma mo pm low => Sys2Proof.Machine.execVld n nb mr ma mo pm low s
  | .vst n nb mr ma mo pm low => Sys2Proof.Machine.execVst n nb mr ma mo pm low s
  | .vldb n nb mr ma mo pm low => Sys2Proof.Machine.execVldb n nb mr ma mo pm low s
  | .ldh n nb mr ma mo pm low => Sys2Proof.Machine.execLdh n nb mr ma mo pm low s
  | .ldw n nb mr ma mo pm low => Sys2Proof.Machine.execLdw n nb mr ma mo pm low s
  | .sth n nb mr ma mo pm low => Sys2Proof.Machine.execSth n nb mr ma mo pm low s
  | .stw n nb mr ma mo pm low => Sys2Proof.Machine.execStw n nb mr ma mo pm low s
  | .stb n nb mr ma mo pm low => Sys2Proof.Machine.execStb n nb mr ma mo pm low s
  | .fence n nb mr ma mo pm low => Sys2Proof.Machine.execFence n nb mr ma mo pm low s
  | .cmovTo n nb f => Sys2Proof.Machine.execCmovTo n nb f s
  | .cmovFrom n nb f => Sys2Proof.Machine.execCmovFrom n nb f s
  | .cissue n nb f => Sys2Proof.Machine.execCissue n nb f s
  | .cwait n nb f => Sys2Proof.Machine.execCwait n nb f s
  | .snop n nb sd sa sb => Sys2Proof.Machine.execSnop n nb sd sa sb s
  | .add n nb sd sa sb => Sys2Proof.Machine.execAdd n nb sd sa sb s
  | .sub n nb sd sa sb => Sys2Proof.Machine.execSub n nb sd sa sb s
  | .and n nb sd sa sb => Sys2Proof.Machine.execAnd n nb sd sa sb s
  | .or n nb sd sa sb => Sys2Proof.Machine.execOr n nb sd sa sb s
  | .xor n nb sd sa sb => Sys2Proof.Machine.execXor n nb sd sa sb s
  | .shl n nb sd sa sb => Sys2Proof.Machine.execShl n nb sd sa sb s
  | .shra n nb sd sa sb => Sys2Proof.Machine.execShra n nb sd sa sb s
  | .addi n nb sd sa sb => Sys2Proof.Machine.execAddi n nb sd sa sb s
  | .mova n nb sd sa sb => Sys2Proof.Machine.execMova n nb sd sa sb s
  | .movo n nb sd sa sb => Sys2Proof.Machine.execMovo n nb sd sa sb s
  | .movl n nb sd sa sb => Sys2Proof.Machine.execMovl n nb sd sa sb s
  | .movb n nb sd sa sb => Sys2Proof.Machine.execMovb n nb sd sa sb s
  | .mfa n nb sd sa sb => Sys2Proof.Machine.execMfa n nb sd sa sb s
  | .mfc n nb sd sa sb => Sys2Proof.Machine.execMfc n nb sd sa sb s
  | .mtc n nb sd sa sb => Sys2Proof.Machine.execMtc n nb sd sa sb s
  | .beqz n nb sd disp => Sys2Proof.Machine.execBeqz n nb sd disp s
  | .bnez n nb sd disp => Sys2Proof.Machine.execBnez n nb sd disp s
  | .bltz n nb sd disp => Sys2Proof.Machine.execBltz n nb sd disp s
  | .bgez n nb sd disp => Sys2Proof.Machine.execBgez n nb sd disp s
  | .done n nb sd sa sb => Sys2Proof.Machine.execDone n nb sd sa sb s
  | .rete n nb sd sa sb => Sys2Proof.Machine.execRete n nb sd sa sb s
  | .trap n nb sd sa sb => Sys2Proof.Machine.execTrap n nb sd sa sb s
  | .movi n nb d imm => Sys2Proof.Machine.execMovi n nb d imm s
  | .moviO n nb d imm => Sys2Proof.Machine.execMoviO n nb d imm s
  | .moviAl n nb d imm => Sys2Proof.Machine.execMoviAl n nb d imm s
  | .moviAh n nb d imm => Sys2Proof.Machine.execMoviAh n nb d imm s
  | .rep n opnds => Sys2Proof.Machine.execRep n opnds s
  | .reps n opnds => Sys2Proof.Machine.execReps n opnds s
  | .jmp n opnds => Sys2Proof.Machine.execJmp n opnds s
  | .call n opnds => Sys2Proof.Machine.execCall n opnds s
  | .ret n opnds => Sys2Proof.Machine.execRet n opnds s
  | .repIteration n => Sys2Proof.Machine.execRepIteration n s
  | .bundleCommit n => Sys2Proof.Machine.execBundleCommit n s
  | .remoteLoadResponse n ix => Sys2Proof.Machine.execRemoteLoadResponse n ix s
  | .exceptionTaken n => Sys2Proof.Machine.execExceptionTaken n s
  | .accessErrorException n => Sys2Proof.Machine.execAccessErrorException n s
  | .coprocCommandStart k u => Sys2Proof.Machine.execCoprocCommandStart k u s
  | .fft k => Sys2Proof.Machine.execFft k s
  | .ifft k => Sys2Proof.Machine.execIfft k s
  | .dft k => Sys2Proof.Machine.execDft k s
  | .idft k => Sys2Proof.Machine.execIdft k s
  | .cmul k => Sys2Proof.Machine.execCmul k s
  | .chol k => Sys2Proof.Machine.execChol k s
  | .cinv k => Sys2Proof.Machine.execCinv k s
  | .coprocCommandComplete k u => Sys2Proof.Machine.execCoprocCommandComplete k u s
  | .commandIntakeWrite k u src core depth w0 w1 w2 w3 => Sys2Proof.Machine.execCommandIntakeWrite k u src core depth w0 w1 w2 w3 s
  | .completionIntakeWrite k src u core depth tag target detail addr => Sys2Proof.Machine.execCompletionIntakeWrite k src u core depth tag target detail addr s
  | .remoteTagTimeout n u depth tag => Sys2Proof.Machine.execRemoteTagTimeout n u depth tag s
  | .contextWindowAccess src tag k u ix r write => Sys2Proof.Machine.execContextWindowAccess src tag k u ix r write s
  | .coprocDeferredException n => Sys2Proof.Machine.execCoprocDeferredException n s
  | .triggerPulse k u slot count => Sys2Proof.Machine.execTriggerPulse k u slot count s
  | .triggerPendEnter k u slot => Sys2Proof.Machine.execTriggerPendEnter k u slot s
  | .cxBindApply k u ix => Sys2Proof.Machine.execCxBindApply k u ix s
  | .inkSubmit r src whole data => Sys2Proof.Machine.execInkSubmit r src whole data s
  | .creditGrant r => Sys2Proof.Machine.execCreditGrant r s
  | .inkDecrDecrement r src c a => Sys2Proof.Machine.execInkDecrDecrement r src c a s
  | .inkDecrClearEarly r src c => Sys2Proof.Machine.execInkDecrClearEarly r src c s
  | .inkDecrAbandon r src c => Sys2Proof.Machine.execInkDecrAbandon r src c s
  | .inkDecrReservedOp r src w => Sys2Proof.Machine.execInkDecrReservedOp r src w s
  | .inkDecrHeld r => Sys2Proof.Machine.execInkDecrHeld r s
  | .decrementApply r => Sys2Proof.Machine.execDecrementApply r s
  | .joinTakeReservoir r => Sys2Proof.Machine.execJoinTakeReservoir r s
  | .taskDispatch r c => Sys2Proof.Machine.execTaskDispatch r c s
  | .dispatchTake n => Sys2Proof.Machine.execDispatchTake n s
  | .preemption r => Sys2Proof.Machine.execPreemption r s
  | .preemptSaveDone n => Sys2Proof.Machine.execPreemptSaveDone n s
  | .taskRestore n => Sys2Proof.Machine.execTaskRestore n s
  | .taskComplete r u svc => Sys2Proof.Machine.execTaskComplete r u svc s
  | .completionSlotTake r => Sys2Proof.Machine.execCompletionSlotTake r s
  | .completionSlotDrain r => Sys2Proof.Machine.execCompletionSlotDrain r s
  | .deadlineScan r => Sys2Proof.Machine.execDeadlineScan r s
  | .laggardThreshold r u svc => Sys2Proof.Machine.execLaggardThreshold r u svc s
  | .laggardIdleReturn r u => Sys2Proof.Machine.execLaggardIdleReturn r u s
  | .inkUnitLagClear r u src => Sys2Proof.Machine.execInkUnitLagClear r u src s
  | .inkFlowWrite r f src en w => Sys2Proof.Machine.execInkFlowWrite r f src en w s
  | .raIntakeWrite r e src entry => Sys2Proof.Machine.execRaIntakeWrite r e src entry s
  | .jobStart r e => Sys2Proof.Machine.execJobStart r e s
  | .ldpcDecode r e ecc dur => Sys2Proof.Machine.execLdpcDecode r e ecc dur s
  | .tbCrcCombine r e ecc dur => Sys2Proof.Machine.execTbCrcCombine r e ecc dur s
  | .ldpcEncode r e ecc dur => Sys2Proof.Machine.execLdpcEncode r e ecc dur s
  | .polarDecode r e ecc dur => Sys2Proof.Machine.execPolarDecode r e ecc dur s
  | .polarEncode r e ecc dur => Sys2Proof.Machine.execPolarEncode r e ecc dur s
  | .shortBlockDecode r e ecc dur => Sys2Proof.Machine.execShortBlockDecode r e ecc dur s
  | .turboDecode r e ecc dur => Sys2Proof.Machine.execTurboDecode r e ecc dur s
  | .turboEncode r e ecc dur => Sys2Proof.Machine.execTurboEncode r e ecc dur s
  | .convDecode r e ecc dur => Sys2Proof.Machine.execConvDecode r e ecc dur s
  | .convEncode r e ecc dur => Sys2Proof.Machine.execConvEncode r e ecc dur s
  | .softDemap r e ecc dur => Sys2Proof.Machine.execSoftDemap r e ecc dur s
  | .mimoDetect r e ecc dur => Sys2Proof.Machine.execMimoDetect r e ecc dur s
  | .mimoFactor r e ecc dur => Sys2Proof.Machine.execMimoFactor r e ecc dur s
  | .harqGuardAcquire r e => Sys2Proof.Machine.execHarqGuardAcquire r e s
  | .jobComplete r e => Sys2Proof.Machine.execJobComplete r e s
  | .jobTimeout r e overdue => Sys2Proof.Machine.execJobTimeout r e overdue s
  | .engineStop r e => Sys2Proof.Machine.execEngineStop r e s
  | .controlStoreError r e => Sys2Proof.Machine.execControlStoreError r e s
  | .packetTake op p host => Sys2Proof.Machine.execPacketTake op p host s
  | .tailWaitTimeout n => Sys2Proof.Machine.execTailWaitTimeout n s
  | .sqDoorbell n v => Sys2Proof.Machine.execSqDoorbell n v s
  | .cqDoorbell n v => Sys2Proof.Machine.execCqDoorbell n v s
  | .ringEnable n v => Sys2Proof.Machine.execRingEnable n v s
  | .ringDisable n v => Sys2Proof.Machine.execRingDisable n v s
  | .replyWrite n => Sys2Proof.Machine.execReplyWrite n s
  | .imodIntervalEnd n => Sys2Proof.Machine.execImodIntervalEnd n s
  | .uartFrame bytes host => Sys2Proof.Machine.execUartFrame bytes host s
  | .uartBreak => Sys2Proof.Machine.execUartBreak s
  | .devInfo p => Sys2Proof.Machine.execDevInfo p s
  | .modeSet p => Sys2Proof.Machine.execModeSet p s
  | .devResetCmd p => Sys2Proof.Machine.execDevResetCmd p s
  | .devResetReg p => Sys2Proof.Machine.execDevResetReg p s
  | .devResetClu p => Sys2Proof.Machine.execDevResetClu p s
  | .statusGet p => Sys2Proof.Machine.execStatusGet p s
  | .echo p => Sys2Proof.Machine.execEcho p s
  | .settingGet p => Sys2Proof.Machine.execSettingGet p s
  | .settingSet p => Sys2Proof.Machine.execSettingSet p s
  | .settingList p => Sys2Proof.Machine.execSettingList p s
  | .cellSetup p => Sys2Proof.Machine.execCellSetup p s
  | .cellStart p => Sys2Proof.Machine.execCellStart p s
  | .cellStop p => Sys2Proof.Machine.execCellStop p s
  | .cellStopEffect c => Sys2Proof.Machine.execCellStopEffect c s
  | .cellQuery p => Sys2Proof.Machine.execCellQuery p s
  | .dlConfig p => Sys2Proof.Machine.execDlConfig p s
  | .dlData p => Sys2Proof.Machine.execDlData p s
  | .dlDataFetchDone c sfn slot fetched => Sys2Proof.Machine.execDlDataFetchDone c sfn slot fetched s
  | .ulConfig p => Sys2Proof.Machine.execUlConfig p s
  | .fhPortCfg p => Sys2Proof.Machine.execFhPortCfg p s
  | .delayMeas p => Sys2Proof.Machine.execDelayMeas p s
  | .delayMeasSend c => Sys2Proof.Machine.execDelayMeasSend c s
  | .delayResponseTimeout c id => Sys2Proof.Machine.execDelayResponseTimeout c id s
  | .cpLinkDown p => Sys2Proof.Machine.execCpLinkDown p s
  | .cpLinkTrain p => Sys2Proof.Machine.execCpLinkTrain p s
  | .cpLinkPowerSave p => Sys2Proof.Machine.execCpLinkPowerSave p s
  | .cpLinkStatus p => Sys2Proof.Machine.execCpLinkStatus p s
  | .aoSetDirect p => Sys2Proof.Machine.execAoSetDirect p s
  | .aoSetSlewed p => Sys2Proof.Machine.execAoSetSlewed p s
  | .aoStep p => Sys2Proof.Machine.execAoStep p s
  | .timeGet p => Sys2Proof.Machine.execTimeGet p s
  | .timeStepRelative p => Sys2Proof.Machine.execTimeStepRelative p s
  | .timeStepAbsolute p => Sys2Proof.Machine.execTimeStepAbsolute p s
  | .utcOffset p => Sys2Proof.Machine.execUtcOffset p s
  | .ptpCfg p => Sys2Proof.Machine.execPtpCfg p s
  | .syncSrc p => Sys2Proof.Machine.execSyncSrc p s
  | .scrub p => Sys2Proof.Machine.execScrub p s
  | .eccGet p => Sys2Proof.Machine.execEccGet p s
  | .eccClear p => Sys2Proof.Machine.execEccClear p s
  | .retireGet p => Sys2Proof.Machine.execRetireGet p s
  | .memRead p host => Sys2Proof.Machine.execMemRead p host s
  | .memWrite p => Sys2Proof.Machine.execMemWrite p s
  | .gbFlush p => Sys2Proof.Machine.execGbFlush p s
  | .gbRead p => Sys2Proof.Machine.execGbRead p s
  | .evtRoute p => Sys2Proof.Machine.execEvtRoute p s
  | .plSet p => Sys2Proof.Machine.execPlSet p s
  | .plChangeComplete ix => Sys2Proof.Machine.execPlChangeComplete ix s
  | .domainPowerOn p => Sys2Proof.Machine.execDomainPowerOn p s
  | .domainPowerOff p => Sys2Proof.Machine.execDomainPowerOff p s
  | .domainDrainEnd => Sys2Proof.Machine.execDomainDrainEnd s
  | .sleepEnter p => Sys2Proof.Machine.execSleepEnter p s
  | .alarmSet p => Sys2Proof.Machine.execAlarmSet p s
  | .powerGet p => Sys2Proof.Machine.execPowerGet p s
  | .attest p => Sys2Proof.Machine.execAttest p s
  | .idGet p => Sys2Proof.Machine.execIdGet p s
  | .dbgChallenge p => Sys2Proof.Machine.execDbgChallenge p s
  | .dbgUnlock p => Sys2Proof.Machine.execDbgUnlock p s
  | .challengeExpire => Sys2Proof.Machine.execChallengeExpire s
  | .imageExport p => Sys2Proof.Machine.execImageExport p s
  | .keyRevoke p => Sys2Proof.Machine.execKeyRevoke p s
  | .loopSet p => Sys2Proof.Machine.execLoopSet p s
  | .prbsRun p => Sys2Proof.Machine.execPrbsRun p s
  | .prbsRunEnd l compared errors lost => Sys2Proof.Machine.execPrbsRunEnd l compared errors lost s
  | .selftest p => Sys2Proof.Machine.execSelftest p s
  | .updBegin p => Sys2Proof.Machine.execUpdBegin p s
  | .updChunk p => Sys2Proof.Machine.execUpdChunk p s
  | .updCommit p => Sys2Proof.Machine.execUpdCommit p s
  | .updAbort p => Sys2Proof.Machine.execUpdAbort p s
  | .egressPost host => Sys2Proof.Machine.execEgressPost host s
  | .indicationSend c op sfn slot late aborted entries => Sys2Proof.Machine.execIndicationSend c op sfn slot late aborted entries s
  | .controlMessageLaunch c sfn slot stale => Sys2Proof.Machine.execControlMessageLaunch c sfn slot stale s
  | .rampQueue c up t => Sys2Proof.Machine.execRampQueue c up t s
  | .ulGainWindow c ant win t => Sys2Proof.Machine.execUlGainWindow c ant win t s
  | .ulPortionEnd c ant sfn slot samples => Sys2Proof.Machine.execUlPortionEnd c ant sfn slot samples s
  | .ddrTrainComplete fail => Sys2Proof.Machine.execDdrTrainComplete fail s
  | .ddrInitComplete ch => Sys2Proof.Machine.execDdrInitComplete ch s
  | .ddrAlert src tag line attempts => Sys2Proof.Machine.execDdrAlert src tag line attempts s
  | .ddrRefresh ch => Sys2Proof.Machine.execDdrRefresh ch s
  | .mergeBufferFlush ix bank => Sys2Proof.Machine.execMergeBufferFlush ix bank s
  | .eccReport ix concierge => Sys2Proof.Machine.execEccReport ix concierge s
  | .eccctlClear u src => Sys2Proof.Machine.execEccctlClear u src s
  | .scrubLine ix ups => Sys2Proof.Machine.execScrubLine ix ups s
  | .ptTailWrite b ch src v => Sys2Proof.Machine.execPtTailWrite b ch src v s
  | .ptRingbaseWrite b ch src v => Sys2Proof.Machine.execPtRingbaseWrite b ch src v s
  | .ptRinglenWrite b ch src v => Sys2Proof.Machine.execPtRinglenWrite b ch src v s
  | .ptChannelEnable b ch src => Sys2Proof.Machine.execPtChannelEnable b ch src s
  | .ptChannelDisable b ch src => Sys2Proof.Machine.execPtChannelDisable b ch src s
  | .ptChainCut b ch src => Sys2Proof.Machine.execPtChainCut b ch src s
  | .descriptorStart b ch host => Sys2Proof.Machine.execDescriptorStart b ch host s
  | .descCopy b ch host => Sys2Proof.Machine.execDescCopy b ch host s
  | .descInterleave b ch host => Sys2Proof.Machine.execDescInterleave b ch host s
  | .descDeinterleave b ch host => Sys2Proof.Machine.execDescDeinterleave b ch host s
  | .descWordsToPlanes b ch host => Sys2Proof.Machine.execDescWordsToPlanes b ch host s
  | .descPlanesToWords b ch host => Sys2Proof.Machine.execDescPlanesToWords b ch host s
  | .descriptorFinish b ch => Sys2Proof.Machine.execDescriptorFinish b ch s
  | .porterRelease ch => Sys2Proof.Machine.execPorterRelease ch s
  | .hostAccess t => Sys2Proof.Machine.execHostAccess t s
  | .hostCompletionTimeout addr => Sys2Proof.Machine.execHostCompletionTimeout addr s
  | .pcieLinkDown link => Sys2Proof.Machine.execPcieLinkDown link s
  | .pcieTrainStart => Sys2Proof.Machine.execPcieTrainStart s
  | .functionLevelReset => Sys2Proof.Machine.execFunctionLevelReset s
  | .fundamentalReset => Sys2Proof.Machine.execFundamentalReset s
  | .ethLinkUp p c0 c1 peer pport => Sys2Proof.Machine.execEthLinkUp p c0 c1 peer pport s
  | .ethLinkDown p => Sys2Proof.Machine.execEthLinkDown p s
  | .frameReceive p frame fcsOk corrected uncorrectable => Sys2Proof.Machine.execFrameReceive p frame fcsOk corrected uncorrectable s
  | .ecpriIqReceive p m => Sys2Proof.Machine.execEcpriIqReceive p m s
  | .delayRequestReceive p seq smac m => Sys2Proof.Machine.execDelayRequestReceive p seq smac m s
  | .delayResponseReceive c m => Sys2Proof.Machine.execDelayResponseReceive c m s
  | .pushSlotWrite src p k off data => Sys2Proof.Machine.execPushSlotWrite src p k off data s
  | .txEntryWrite src p q entry => Sys2Proof.Machine.execTxEntryWrite src p q entry s
  | .frameStart p crcBad => Sys2Proof.Machine.execFrameStart p crcBad s
  | .rxGroupWrite src p g v => Sys2Proof.Machine.execRxGroupWrite src p g v s
  | .rxArm src p g rt app => Sys2Proof.Machine.execRxArm src p g rt app s
  | .rxBlockRelease p g => Sys2Proof.Machine.execRxBlockRelease p g s
  | .rxConsume src p g => Sys2Proof.Machine.execRxConsume src p g s
  | .carriageDetect p answer => Sys2Proof.Machine.execCarriageDetect p answer s
  | .trainStep p r => Sys2Proof.Machine.execTrainStep p r s
  | .trainTimeout p => Sys2Proof.Machine.execTrainTimeout p s
  | .carriageFrameSend p => Sys2Proof.Machine.execCarriageFrameSend p s
  | .carriageFrameReceive p r => Sys2Proof.Machine.execCarriageFrameReceive p r s
  | .linkMessageReceive p m => Sys2Proof.Machine.execLinkMessageReceive p m s
  | .retrainTrigger p lost lock => Sys2Proof.Machine.execRetrainTrigger p lost lock s
  | .snrMeasure p ratios => Sys2Proof.Machine.execSnrMeasure p ratios s
  | .tableAdopt p => Sys2Proof.Machine.execTableAdopt p s
  | .proposalLapse p ours => Sys2Proof.Machine.execProposalLapse p ours s
  | .powerSaveResume p lost => Sys2Proof.Machine.execPowerSaveResume p lost s
  | .sampleWrite src p ant pos v => Sys2Proof.Machine.execSampleWrite src p ant pos v s
  | .ulArm src p v => Sys2Proof.Machine.execUlArm src p v s
  | .ulSymbolRelease p => Sys2Proof.Machine.execUlSymbolRelease p s
  | .switchQueueWrite src p v => Sys2Proof.Machine.execSwitchQueueWrite src p v s
  | .mgmtTxEntry src p entry => Sys2Proof.Machine.execMgmtTxEntry src p entry s
  | .mgmtRxConsume src p v => Sys2Proof.Machine.execMgmtRxConsume src p v s
  | .captureStrobe src => Sys2Proof.Machine.execCaptureStrobe src s
  | .captureHandler => Sys2Proof.Machine.execCaptureHandler s
  | .anchorRewrite => Sys2Proof.Machine.execAnchorRewrite s
  | .syncReceive p domain seq t1 corr => Sys2Proof.Machine.execSyncReceive p domain seq t1 corr s
  | .followUpReceive p domain t1 corr => Sys2Proof.Machine.execFollowUpReceive p domain t1 corr s
  | .delayReqReceive p domain seq requester => Sys2Proof.Machine.execDelayReqReceive p domain seq requester s
  | .delayRespReceive p domain t4 corr => Sys2Proof.Machine.execDelayRespReceive p domain t4 corr s
  | .announceReceive p domain gm cls removed => Sys2Proof.Machine.execAnnounceReceive p domain gm cls removed s
  | .ptpSyncSend p => Sys2Proof.Machine.execPtpSyncSend p s
  | .ptpAnnounceSend p => Sys2Proof.Machine.execPtpAnnounceSend p s
  | .ptpDelayReqSend p => Sys2Proof.Machine.execPtpDelayReqSend p s
  | .timeLoopUpdate freq => Sys2Proof.Machine.execTimeLoopUpdate freq s
  | .timeLock => Sys2Proof.Machine.execTimeLock s
  | .lockLoss => Sys2Proof.Machine.execLockLoss s
  | .sourceLost => Sys2Proof.Machine.execSourceLost s
  | .sourceValid => Sys2Proof.Machine.execSourceValid s
  | .holdoverExpire => Sys2Proof.Machine.execHoldoverExpire s
  | .tuningWordSave w => Sys2Proof.Machine.execTuningWordSave w s
  | .scheduledFrameLaunch p q crcBad => Sys2Proof.Machine.execScheduledFrameLaunch p q crcBad s
  | .analogStepDue c => Sys2Proof.Machine.execAnalogStepDue c s
  | .ppsOutRise => Sys2Proof.Machine.execPpsOutRise s
  | .ppsOutFall => Sys2Proof.Machine.execPpsOutFall s
  | .aostepWrite src whole v => Sys2Proof.Machine.execAostepWrite src whole v s
  | .tkEventInput ix n => Sys2Proof.Machine.execTkEventInput ix n s
  | .deglitchRelease c => Sys2Proof.Machine.execDeglitchRelease c s
  | .deferredLatch c => Sys2Proof.Machine.execDeferredLatch c s
  | .slewLatch c => Sys2Proof.Machine.execSlewLatch c s
  | .channelFault c cause => Sys2Proof.Machine.execChannelFault c cause s
  | .aoFaultClear c src holds => Sys2Proof.Machine.execAoFaultClear c src holds s
  | .safeCodeLoad => Sys2Proof.Machine.execSafeCodeLoad s
  | .monitorSample m v => Sys2Proof.Machine.execMonitorSample m v s
  | .vinHighHaltTimer => Sys2Proof.Machine.execVinHighHaltTimer s
  | .powerFailWarning mv => Sys2Proof.Machine.execPowerFailWarning mv s
  | .pfwClear => Sys2Proof.Machine.execPfwClear s
  | .drainComplete => Sys2Proof.Machine.execDrainComplete s
  | .watchdogKick => Sys2Proof.Machine.execWatchdogKick s
  | .watchdogExpire => Sys2Proof.Machine.execWatchdogExpire s
  | .voterVote d yes => Sys2Proof.Machine.execVoterVote d yes s
  | .voteTimeout => Sys2Proof.Machine.execVoteTimeout s
  | .powerDownComplete => Sys2Proof.Machine.execPowerDownComplete s
  | .wakeNAssert sec => Sys2Proof.Machine.execWakeNAssert sec s
  | .alarmExpire => Sys2Proof.Machine.execAlarmExpire s
  | .uartBreakWake sec => Sys2Proof.Machine.execUartBreakWake sec s
  | .carriageEnergyDetect p sec => Sys2Proof.Machine.execCarriageEnergyDetect p sec s
  | .wake => Sys2Proof.Machine.execWake s
  | .powerOnReset brownout => Sys2Proof.Machine.execPowerOnReset brownout s
  | .vddqEnRise => Sys2Proof.Machine.execVddqEnRise s
  | .pinReset => Sys2Proof.Machine.execPinReset s
  | .debugReset kind unit => Sys2Proof.Machine.execDebugReset kind unit s
  | .resetHoldEnd modid testEn => Sys2Proof.Machine.execResetHoldEnd modid testEn s
  | .wearAccountSave powerFail => Sys2Proof.Machine.execWearAccountSave powerFail s
  | .eventTake => Sys2Proof.Machine.execEventTake s
  | .msiIntervalEnd v => Sys2Proof.Machine.execMsiIntervalEnd v s
  | .flushStart => Sys2Proof.Machine.execFlushStart s
  | .flushComplete => Sys2Proof.Machine.execFlushComplete s
  | .pcieLinkUp width speed => Sys2Proof.Machine.execPcieLinkUp width speed s
  | .pcieCompletionReceive addr fail data => Sys2Proof.Machine.execPcieCompletionReceive addr fail data s
  | .hubCoreFault => Sys2Proof.Machine.execHubCoreFault s
  | .updVerifyComplete => Sys2Proof.Machine.execUpdVerifyComplete s
  | .selftestComplete words => Sys2Proof.Machine.execSelftestComplete words s

end Sys2Proof.Machine
end

