-- ==== Sys2Proof/Safety.lean ====
section
/-! DEFINITION. What counts as a safe run, and the invariant of the state that every step keeps. -/

namespace Sys2Proof.Machine

/-- A step that goes on: no fault and no refusal. -/
def Safe (s : State) : Prop := ∃ t, step s = .next t

/-- The canonical form of byte memory: addresses strictly rising, and no entry equal to 0, which an unlisted address
reads as (log entry 2). -/
def Memory.wf (m : List Host.Cell) : Bool := swf (fun _ => (0 : Byte)) m

/-- The canonical form of the register store: addresses strictly rising, and no entry equal to the reset value of its
register. -/
def Registers.wf (m : Sparse Word) : Bool := swf regDefault m

/-- The canonical form of the error marks: code words strictly rising, and no entry for a clean one. -/
def Marks.wf (m : Sparse (Option Mark)) : Bool := swf (fun _ => none) m

/-- The canonical form of every table of units: keys strictly rising, and no entry equal to what an unlisted key reads as. -/
def State.tablesWf (s : State) : Bool :=
  swf (fun _ => Xing.idle) s.xings && swf (fun _ => IslandSt.idle) s.islands && swf (fun _ => ⟨[], 0⟩) s.evq &&
  swf (fun _ => ⟨[], 0, 0⟩) s.eccq && swf (fun _ => []) s.mbuf && swf (fun _ => Core.reset) s.cores &&
  swf (fun _ => Coproc.reset) s.cops && swf (fun _ => 0) s.clk && swf (fun _ => Ink.reset) s.inks &&
  swf (fun _ => Engine.reset) s.engines && swf (fun _ => none) s.jobRecs && swf (fun _ => Ring.reset) s.rings && swf (fun _ => Router.idle) s.routers &&
  swf (fun _ => PChan.reset) s.pchans && swf (fun _ => 0) s.relIn && swf (fun _ => EthPort.reset) s.eth &&
  swf (fun _ => CpPort.reset) s.cps && swf (fun _ => Chan.reset) s.chans && swf (fun _ => Mon.reset) s.mons &&
  swf (fun _ => none) s.carriers && swf (fun _ => none) s.dels && swf (fun _ => none) s.prbs &&
  swf (fun _ => none) s.gbuf && swf (fun _ => none) s.keyRecs && swf (fun _ => 0) s.nvWr &&
  swf (fun _ => 0) s.capSeq && swf (fun _ => Ptp.reset) s.ptp && swf factory s.settings &&
  swf msixDefault s.msixTab

/-- What every step keeps: memory, registers, error marks and every table of units stay canonical, so that equal contents are
equal data; TK_NS stays a 32-bit counter (R467); MODID stays a 4-bit strap (R607). -/
structure State.Inv (s : State) : Prop where
  mem : Memory.wf s.mem = true
  regs : Registers.wf s.regs = true
  marks : Marks.wf s.marks = true
  tables : s.tablesWf = true
  tkns : s.tkns < 2 ^ 32
  modid : s.modid < 16

end Sys2Proof.Machine
end

