-- ==== Sys2Proof/Claims.lean ====
section
/-! DEFINITION. The terms that the statements are made in: when an operation of a core issues and what it then leaves, which
requests the network lets through, and what a taken command packet answers. -/

namespace Sys2Proof

/-- The core that a command of a slot names: the operations of the V, M, S and long slots, but for those that reach beyond the
core (CISSUE, DONE) and for the events of a core. -/
def Instr.slotCore : Instr → Option Nat
  | .vnop n _ _ _ _ _ => some n
  | .vadd n _ _ _ _ _ => some n
  | .vsub n _ _ _ _ _ => some n
  | .vadds n _ _ _ _ _ => some n
  | .vsubs n _ _ _ _ _ => some n
  | .vand n _ _ _ _ _ => some n
  | .vor n _ _ _ _ _ => some n
  | .vxor n _ _ _ _ _ => some n
  | .vshl n _ _ _ _ _ => some n
  | .vshra n _ _ _ _ _ => some n
  | .vmov n _ _ _ _ _ => some n
  | .vmul n _ _ _ _ _ => some n
  | .vmac n _ _ _ _ _ => some n
  | .vmsu n _ _ _ _ _ => some n
  | .vmacb n _ _ _ _ _ => some n
  | .vcmul n _ _ _ _ _ => some n
  | .vcmac n _ _ _ _ _ => some n
  | .vclra n _ _ _ _ _ => some n
  | .vext n _ _ _ _ _ => some n
  | .vexts n _ _ _ _ _ => some n
  | .vmaxi n _ _ _ _ _ => some n
  | .vmini n _ _ _ _ _ => some n
  | .mnop n _ _ _ _ _ _ => some n
  | .vld n _ _ _ _ _ _ => some n
  | .vst n _ _ _ _ _ _ => some n
  | .vldb n _ _ _ _ _ _ => some n
  | .ldh n _ _ _ _ _ _ => some n
  | .ldw n _ _ _ _ _ _ => some n
  | .sth n _ _ _ _ _ _ => some n
  | .stw n _ _ _ _ _ _ => some n
  | .stb n _ _ _ _ _ _ => some n
  | .fence n _ _ _ _ _ _ => some n
  | .cmovTo n _ _ => some n
  | .cmovFrom n _ _ => some n
  | .cwait n _ _ => some n
  | .snop n _ _ _ _ => some n
  | .add n _ _ _ _ => some n
  | .sub n _ _ _ _ => some n
  | .and n _ _ _ _ => some n
  | .or n _ _ _ _ => some n
  | .xor n _ _ _ _ => some n
  | .shl n _ _ _ _ => some n
  | .shra n _ _ _ _ => some n
  | .addi n _ _ _ _ => some n
  | .mova n _ _ _ _ => some n
  | .movo n _ _ _ _ => some n
  | .movl n _ _ _ _ => some n
  | .movb n _ _ _ _ => some n
  | .mfa n _ _ _ _ => some n
  | .mfc n _ _ _ _ => some n
  | .mtc n _ _ _ _ => some n
  | .beqz n _ _ _ => some n
  | .bnez n _ _ _ => some n
  | .bltz n _ _ _ => some n
  | .bgez n _ _ _ => some n
  | .rete n _ _ _ _ => some n
  | .trap n _ _ _ _ => some n
  | .movi n _ _ _ => some n
  | .moviO n _ _ _ => some n
  | .moviAl n _ _ _ => some n
  | .moviAh n _ _ _ => some n
  | .rep n _ => some n
  | .reps n _ => some n
  | .jmp n _ => some n
  | .call n _ => some n
  | .ret n _ => some n
  | _ => none

end Sys2Proof

namespace Sys2Proof.Machine

namespace State

/-! ### The Turnpike -/

/-- No bridge on the way from source `src` to address `a` stops a request (R77, R83, R86). -/
def wayOpen (s : State) (src a : Nat) : Prop := ∀ tag, (s.gate src tag a).1 = none

/-- The state once one free value has been drawn, the tag of a request that no rule names (log entry 1). -/
def drawn (s : State) : State := { s with free := s.free + 1 }

/-! ### Vector DSP cores -/

/-- An operation of core `n` that uses `regs` issues (R94), in the bundle `b`, open in the state `u`; no exception has been
found in the bundle (R129). -/
structure Issues (s : State) (n : Nat) (nb : Bool) (regs : List Nat) (u : State) (b : Bundle) : Prop where
  can : s.canIssue n = true
  free : s.waits n nb regs = false
  opened : s.ready n nb = u
  bundle : u.youngest n = some b
  fine : b.exc = none

/-- The open bundle `b` has written `regs`, its operation has set the flags `sets` of CSTAT, and the registers of core `n` are
`r`: all that a legal operation of a slot changes. -/
def slotDone (u : State) (n : Nat) (b : Bundle) (regs : List Nat) (r : Arch) (sets : Word := 0#32) : State :=
  (u.setYoungest n { b with wrote := b.wrote ++ regs, raised := b.raised ||| sets }).setArch n r

/-- Ax of core `n` after the post-modification that an operation asks for, on the registers `r` (R102, R103). -/
def postMoved (s : State) (n x y : Nat) (pm : Bool) (r : Arch) : State :=
  if pm then s.setArch n ((s.core n).arch.setA n x (postMod r n x y)) else s

/-- The open bundle `b` has found the exception `e`: it has no effect in any slot (R129), and the core's registers are those
before it, but for PC and the repeat. -/
def bundleFaulted (u : State) (n : Nat) (b : Bundle) (e : Exc) : State :=
  (u.setYoungest n { b with exc := some e, stores := [], rstores := [] }).setArch n
    { b.before with pc := (u.core n).arch.pc, rep := (u.core n).arch.rep }

/-! ### Resets -/

/-- What a module-wide reset leaves at its reset value (R14, R15, R543): the units, the carriers, every event queue but that of
line control, and all memory but for the NV store. -/
def resetLeft (u : State) : Prop :=
  u.cores = [] ∧ u.cops = [] ∧ u.engines = [] ∧ u.inks = [] ∧ u.rings = [] ∧ u.routers = [] ∧ u.outst = [] ∧ u.eth = [] ∧ u.cps = [] ∧
  u.carriers = [] ∧ u.uplane = [] ∧ u.gbuf = [] ∧ u.sleep = none ∧ (∀ i, i ≠ 61 → u.evqOf i = ⟨[], 0⟩) ∧
  ∀ a, a < nvBase ∨ nvBase + 0x2000000 ≤ a → sget u.mem a 0 = 0

/-! ### Command packets -/

/-- The host answers reads with `h`. -/
def hosting (s : State) (h : HostData) : State := { s with hostIn := h.data, hostFail := h.fail }

/-- No data of the host is left over from a read. -/
def calm (s : State) : State := { s with hostIn := [], hostFail := false }

/-- A packet whose opcode is `op` is taken (R304, R309, R311 to R316, R320): whole, from the head of its submission ring when that
ring's turn has come, its slots reach TAIL and nothing holds it back, the ring then moving on by those slots; or from the service
UART. `u` is the state in which its command `c` is then checked. -/
def Takes (s : State) (op : Nat) (p : Packet) (u : State) (c : Cmd) : Prop :=
  let plen := p.hdr.plen.toNat
  c = ⟨op, p.hdr, packetWords plen p.words, p.ring.map fun n => n.val⟩ ∧
  match p.ring with
  | some n => s.serving = true ∧ s.ringHas n = true ∧ s.ringTurn n = true ∧
      (s.headWaits n (some (op, p.hdr))).ringShort n = false ∧ s.ringTakes n op p.hdr = true ∧ plen ≤ 4092 ∧
      u = (((s.headWaits n none).turnNext n).seqCheck n p.hdr.seq.toNat).setSqHead n (s.sqHead n + slotsOf plen)
  | none => s.uartOpen = true ∧ s.uartBusy = false ∧ u = s

/-- The checks 1 to 6 of R317 on a taken command, each with the status that answers it when it fails. -/
def gates (u : State) (c : Cmd) : List (Bool × Nat) := match opRow c.op with
  | none => [(false, sBadOpcode)]
  | some r => [(decide (c.hdr.version = 1), sBadOpcode), (c.lenOk r, sBadLength), (u.modeOk c r, sWrongMode),
      (!r.t || u.extSet, sTimeUnset), (!u.tgtOff c, sAsleep), (!u.tgtDead c, sDead)]

/-- A taken packet passes the checks 1 to 6 of R317 and, when it is no slot message, has a good header (check 8). -/
structure Serves (s : State) (op : Nat) (p : Packet) (u : State) (c : Cmd) : Prop where
  takes : s.Takes op p u c
  gates : (u.gates c).all (fun g => g.1) = true
  header : isSlotMsg op = true ∨ c.hdrOk = true

/-- What the row `i`, a packet of opcode `op`, leaves when its packet `p` is served and `ok` holds of its parameters. -/
def Serving (s : State) (i : Instr) (op : Nat) (p : Packet) (ok : State → Cmd → Prop) (f : State → Cmd → State) : Prop :=
  ∀ (u : State) (c : Cmd), s.calm.Serves op p u c → ok u c → exec i s = .next (f u c).calm

end State

end Sys2Proof.Machine
end

