-- ==== Sys2Proof/Certificates/Slice0/Obligations.lean ====
section
/-! DEFINITION. What the model states of itself, for the provers: one definition for each statement. A clause that names a
command says that the command completes: exec answers a next state, which the clause describes. Where the next state is
written out, everything that it does not name is as before; where it is not, the clause says what else is unchanged. -/

open Sys2Proof Sys2Proof.Machine

/-! ### Crossings (R30 to R56) -/

/-- A pulse crossing applies the whole count in flight at its destination in one step and becomes ready to acknowledge
(R34); on its acknowledge the pending count that has waited longest is launched, or the crossing becomes idle (R32, R36). A
value crossing hands over its value unchanged (R37) and launches its pending value on the acknowledge (R38).

A Gray-coded counter shows its source's value at the destination (R42), a heartbeat toggles (R43), a snapshot returns
TK_NS, or all ones on an isolated crossing (R45, R48), and a time replica follows TK_NS after its reload (R44). Nothing but
the crossing changes. -/
def Obligations.CrossingsDeliverAcknowledgeAndCount : Prop :=
  (∀ (s : State) (i : IslandId) (x : Nat) (c : Xid), xidAt i x = some c → s.xIso c = false → (s.xing c.key).busy = true →
     -- PULSE_DELIVER
     (c.dst = i.val → c.kind = 0 → (s.xing c.key).taken = false →
       exec (.pulseDeliver i x) s = .next (if s.queueFull c = true then s else
         (s.setXing c.key { s.xing c.key with taken := true, join := false }).pulseEffect c
           (s.xing c.key).target (s.xing c.key).count)) ∧
     -- PULSE_ACK, but for the role of R170, which also frees a tag
     (c.src = i.val → c.kind = 0 → c.role ≠ 6 → (s.xing c.key).taken = true → ∀ join,
       ((s.xing c.key).pend = [] → exec (.pulseAck i ⟨x, join⟩) s =
         .next (s.setXing c.key { s.xing c.key with busy := false, taken := false, count := 0, target := 0 })) ∧
       (∀ p ps, (s.xing c.key).pend = p :: ps → exec (.pulseAck i ⟨x, join⟩) s = .next (s.setXing c.key { s.xing c.key with
         taken := false, count := p.count, target := p.target, join := join,
         pend := ps ++ ((s.xing c.key).held.find? fun h => h.unit = p.unit).toList,
         held := ldrop1 (fun h => h.unit = p.unit) (s.xing c.key).held }))) ∧
     -- VALUE_DELIVER: PAUSE also shows in RA_GSTAT (R212), the alarm is taken by the always-on island (R544), and the times of
     -- queue heads by the comparator (R483)
     (c.dst = i.val → c.kind = 1 → (s.xing c.key).taken = false →
       let t := s.setXing c.key { s.xing c.key with taken := true, dst := (s.xing c.key).value, fresh := true }
       (c.role ≠ 8 ∨ c.dst < 24 ∨ 28 ≤ c.dst → c.role ≠ 15 ∨ c.unit ≠ 1 → c.role ≠ 14 → exec (.valueDeliver i x) s = .next t) ∧
       (c.role = 8 → 24 ≤ c.dst → c.dst < 28 → s.Inv → exec (.valueDeliver i x) s =
         .next (t.wb (RA_GSTAT.adr (c.dst - 24)) RA_GSTAT.PAUSED (bit (s.xing c.key).value 0))) ∧
       (c.role = 15 → c.unit = 1 → s.Inv → exec (.valueDeliver i x) s =
         .next { t with aonAlarm := bits (s.xing c.key).value 0 32 }) ∧
       (c.role = 14 → exec (.valueDeliver i x) s = .next (upto 8 (fun k t =>
         if c.src = 61 then t.presentStep k (bits (s.xing c.key).value (32 * k) 32)
         else t.presentHead (c.src - 40) k (bits (s.xing c.key).value (32 * k) 32)) t))) ∧
     -- VALUE_ACK, but for the crossings of events (R577) and of error reports (R356), which advance their queues
     (c.src = i.val → c.kind = 1 → c.role ≠ 11 → c.role ≠ 12 → (s.xing c.key).taken = true →
       exec (.valueAck i x) s = .next (s.setXing c.key (match (s.xing c.key).vpend with
         | none => { s.xing c.key with busy := false, taken := false }
         | some v => { s.xing c.key with taken := false, value := v, vpend := none })))) ∧
  ((∀ (s : State) (i : IslandId) (x : Nat) (c : Xid), xidAt i x = some c →
     -- GRAY_COUNTER_UPDATE
     (c.dst = i.val → c.kind = 2 → s.xIso c = false → c.role ≠ 9 →
       exec (.grayCounterUpdate i x) s = .next (s.setXing c.key { s.xing c.key with dst := (s.xing c.key).value })) ∧
     (c.dst = i.val → c.role = 9 → s.xIso c = false → (s.xing c.key).fresh = false →
       exec (.grayCounterUpdate i x) s = .next (s.setXing c.key { s.xing c.key with dst := s.tkns })) ∧
     -- HEARTBEAT_TOGGLE
     (c.src = i.val → c.kind = 2 →
       exec (.heartbeatToggle i x) s = .next (s.setXing c.key { s.xing c.key with beat := !(s.xing c.key).beat })) ∧
     -- SNAPSHOT_RESULT
     (c.dst = i.val → c.kind = 3 → exec (.snapshotResult i x) s = .next (s.setXing c.key (if s.xIso c = true
       then { s.xing c.key with dst := 2 ^ 64 - 1, fresh := false, busy := false }
       else { s.xing c.key with value := s.tkns, dst := s.tkns, fresh := true, busy := false })))) ∧
   -- REPLICA_RELOAD
   (∀ (s : State) (r : RegionId), s.xIso ⟨52, 28 + r.val, 9, 0⟩ = false → s.xIso ⟨52, 28 + r.val, 10, 0⟩ = false →
     s.Inv → ∃ t, exec (.replicaReload r) s = .next t ∧ t.replica r.val = s.tkns ∧
       t = s.setXing (xkey 52 (28 + r.val) 9 0) { s.xing (xkey 52 (28 + r.val) 9 0) with dst := s.tkns, fresh := false }))

/-- A side that waits on a crossing that never answers completes with error: TMO shows in its bridge status register, the
crossing is isolated, pulses not acknowledged are lost, a counter freezes and a snapshot reads all ones (R46, R48, R55). On a
Turnpike link bridge, and between line control and always-on, the timeout also declares the target dead; of the losses and the
timeout that this brings, the one of the lowest index is captured (R55, R56). A side that does not wait times out in nothing.

An island whose dead timer ends while a request that has crossed its bridge is unanswered is declared dead: its bridge is
isolated, TP_DEAD names it, its outstanding requests are answered TARGET_DEAD, and the module goes to HALT when the island is line
control, else to the mode that it can still serve (R80 to R82, R528). With no such request the timer does not run. -/
def Obligations.TimeoutsIsolateAndDeclareDead : Prop :=
  (∀ (s : State) (i : IslandId) (x : Nat) (c : Xid), xidAt i x = some c →
     let link := tpLink c.src c.dst || (c.src = 61 && c.dst = 62) || (c.src = 62 && c.dst = 61)
     let o := bridgeOwner c.src c.dst
     (s.waitsAt i c = false ∨ s.xIso c = true → exec (.crossingTimeout i x) s = .next s) ∧
     (s.waitsAt i c = true → s.xIso c = false → link = true → exec (.crossingTimeout i x) s =
       .next ((((s.losePulses o fun y => y.src = i && decide (xidIndex i y < xidIndex i c)).xTimeout i c).deadDeclare o
         (decide (i.val ≠ o))).ntfFree o)) ∧
     (s.waitsAt i c = true → s.xIso c = false → link = false → s.Inv → ∃ t : State, exec (.crossingTimeout i x) s = .next t ∧
       (t.xing c.key).iso = true ∧ t.rb (TP_XSTAT.adr i) TP_XSTAT.TMO = true ∧
       (c.kind = 0 → (t.xing c.key).busy = false ∧ (t.xing c.key).pend = [] ∧ (t.xing c.key).held = []) ∧
       (c.kind = 1 → (t.xing c.key).value = (s.xing c.key).value) ∧
       (c.kind = 2 → (t.xing c.key).dst = if c.role = 9 ∧ (s.xing c.key).fresh = false then s.tkns else (s.xing c.key).dst) ∧
       (c.kind = 3 → (t.xing c.key).dst = 2 ^ 64 - 1) ∧
       t = { s with xings := t.xings, regs := t.regs, evq := t.evq, intake := t.intake })) ∧
  (∀ (s : State) (i : IslandId),
     let waits := s.outst.any (fun r => r.crosses i) || !(s.routedReqs i).isEmpty
     (waits = false → exec (.deadTimerExpire i) s = .next s) ∧
     (s.Inv → waits = true → s.deadIsl i = false → (s.isl i).iso = false → s.scrub = none → ∃ u : State,
       exec (.deadTimerExpire i) s = .next ((if i.val = 61 then u.haltEnter 3 0 else u.airSync).ntfFree i) ∧
       u.deadIsl i = true ∧ s.out <:+ u.out ∧
       (∀ c : Xid, tpLink c.src c.dst = true → bridgeOwner c.src c.dst = i.val → u.xIso c = true) ∧
       ((∀ r ∈ s.heldReqs i, r.wr = []) → u.outst = s.outst.filter (fun r => !r.crosses i) ∧ u.mem = s.mem ∧ u.marks = s.marks ∧
         ∀ r ∈ s.outst, r.crosses i = true → s.sourceDead r.src i = false →
           Out.response r.src r.tag stDead r.island (if r.write then [] else poisonLine) ∈ u.out)))

/-- A request whose way leads over an isolated bridge, or to a unit that is off inside an island, is answered TARGET_ASLEEP, with
poison data for a read, and raises its event; one that goes to or through a dead island, or to a core that has stopped, is answered
TARGET_DEAD, and counted in TP_ABSORB of the dead island; the first error is captured in TP_ERRINFO (R20, R77, R83, R90, R523). A
request that no bridge and no unit refuses is neither command's, and nothing changes.

The joint reset of an island (R51): when its bridges have drained, they are isolated and the island is held in reset; then
the crossings it owns take their reset values, and DISC shows in the island beyond where pulses were discarded; then isolation is
lifted and, but after a power-on (R84), TP_DEAD and TP_ABSORB clear. In any other phase the three commands change nothing; a
bridge that drains for a power-off is DOMAIN_DRAIN_END's. -/
def Obligations.IsolationAnswersAndReopens : Prop :=
  (∀ (s : State) (src : SrcId) (tag : BitVec 8) (line : BitVec 42) (write : Bool), s.Inv →
     let a := line.toNat * 64
     let d := if write then [] else poisonLine
     -- what the answer `st` of island `i` leaves: the capture, when it is the first
     let answers (c : Instr) (st i : Nat) : Prop :=
       ∃ u : State, exec c s = .next u ∧ u.out = .response src tag.toNat st i d :: s.out ∧
         u = { s with out := u.out, outst := u.outst, regs := u.regs, evq := u.evq, xings := u.xings, intake := u.intake } ∧
         (s.rb TP_ERRINFO.adr TP_ERRINFO.VALID = false → i < 64 → u.rf TP_ERRINFO.adr TP_ERRINFO.STATUS = st ∧
           u.rf TP_ERRINFO.adr TP_ERRINFO.SRC = src ∧ u.rf TP_ERRINFO.adr TP_ERRINFO.ISLAND = i ∧
           u.rf TP_ERRINFO.adr TP_ERRINFO.TAG = tag.toNat)
     (∀ i, (s.gate src tag.toNat a).1 = some (stAsleep, i) → s.sourceDead src i = false →
       answers (.isolatedRequest src tag line write) stAsleep i) ∧
     (∀ i, (s.gate src tag.toNat a).1 = none → s.unitAsleep a = some i → s.sourceDead src i = false →
       answers (.isolatedRequest src tag line write) stAsleep i) ∧
     (∀ i, (s.gate src tag.toNat a).1 = some (stDead, i) → answers (.deadTargetAbsorb src tag line write) stDead i) ∧
     (∀ i t, s.gate src tag.toNat a = (some (stDead, t), t, s.deadAnswer i t src tag.toNat a) → i < 63 →
       ∃ u : State, exec (.deadTargetAbsorb src tag line write) s = .next u ∧
         u.rf (TP_ABSORB.adr i) TP_ABSORB.COUNT = satAt TP_ABSORB.COUNT.len (s.rf (TP_ABSORB.adr i) TP_ABSORB.COUNT + 1)) ∧
     (∀ n : CoreId, (s.gate src tag.toNat a).1 = none → s.unitAsleep a = none → a / 0x100000 = 0x1000 + n.val →
       (s.core n).run = .stopped → answers (.deadTargetAbsorb src tag line write) stDead (n.val / 8)) ∧
     ((s.gate src tag.toNat a).1 = none → s.unitRefuses src tag.toNat a = none →
       exec (.isolatedRequest src tag line write) s = .next s ∧ exec (.deadTargetAbsorb src tag line write) s = .next s)) ∧
  (∀ (s : State) (i : IslandId),
     ((s.isl i).phase ≠ .draining ∨ (s.isl i).kind = kOn → exec (.bridgeDrainComplete i) s = .next s) ∧
     (s.Inv → (s.isl i).phase = .draining → (s.isl i).kind ≠ kOn → ∃ t : State, exec (.bridgeDrainComplete i) s = .next t ∧
       (t.isl i).phase = .held ∧ (t.isl i).iso = true ∧ (t.isl i).kind = (s.isl i).kind) ∧
     ((s.isl i).phase ≠ .held → exec (.bridgeResetRelease i) s = .next s) ∧
     (s.Inv → (s.isl i).phase = .held → ∃ t : State, exec (.bridgeResetRelease i) s = .next t ∧ (t.isl i).phase = .released ∧
       (t.isl i).iso = (s.isl i).iso ∧ (∀ c ∈ ownedXings i, t.xing c.key = Xing.idle) ∧
       (∀ k, (s.isl i).disc = some k → (s.isl i).kind ≠ kOn → t.rb (TP_XSTAT.adr (State.farIsland i)) TP_XSTAT.DISC = true) ∧
       t = { s with xings := t.xings, islands := t.islands, regs := t.regs }) ∧
     ((s.isl i).phase ≠ .released → exec (.islandReady i) s = .next s) ∧
     (s.Inv → (s.isl i).phase = .released → ∃ t : State, exec (.islandReady i) s = .next t ∧
       (t.isl i).phase = .none ∧ (t.isl i).iso = false ∧
       (s.rstJobs = [] → s.domJob = none → t.mem = s.mem ∧ t.marks = s.marks ∧ ((s.isl i).kind ≠ kOn → t.deadIsl i = false))))

/-- A router takes an arriving flit into the buffer of its level when there is room, and forwards the flit that its arbitration
chooses, once, to where its output leads (R57, R67, R68, R71), unless the bridge on the way lets it pass no more (R77, R83);
a waiting low-level flit is promoted (R71). -/
def Obligations.RoutersBufferForwardAndPromote : Prop :=
  ∀ (s : State) (q o : Fin 32),
    ((s.takeOwn q).choose q o = none → exec (.tpRouteFlit q none o) s = .next (s.takeOwn q)) ∧
    (∀ (p l : Nat) (h : HeldFlit) (u : State), (s.takeOwn q).choose q o = some (p, l, h, u) →
      let a := routerIsland q
      let b := (State.hopIsland q o).getD a
      let v := u.popHead q p l o h.flit
      (v.linkStops a b h.flit = none →
        (∀ i, hopOf q o = .island i → exec (.tpRouteFlit q none o) s = .next ((v.linkCount a i).arriveEndpoint i h.flit)) ∧
        (∀ q' p', hopOf q o = .router q' p' →
          exec (.tpRouteFlit q none o) s = .next ((v.linkCount a b).pushBuf q' p' l ⟨h.flit, false⟩))) ∧
      (∀ t, v.linkStops a b h.flit = some t → exec (.tpRouteFlit q none o) s = .next (t.stopBurst q o l h.flit))) ∧
    (∀ (p : Fin 32) (f : Flit) (named : Bool),
      (f.isResponse = true ∨ f.type = 6 ∨ (islandAt s.ddrGiB f.addr).isSome = true) →
      let l := s.entryLevel f named
      (f.type = 6 → sget (s.router q).absorb (4 * p + l) false = false) →
      (∀ i, hopOf q p = .island i → i = routerIsland q ∨ f.type = 6 ∨ s.bridgeStops i false f = none) →
      exec (.tpRouteFlit q (some (p, f, named)) o) s = .next ((((if s.bufRoom q p l = true then
        (match hopOf q p with
          | .island i => s.linkCount i (routerIsland q)
          | _ => s).pushBuf q p l ⟨f.withPri l, false⟩ else s).takeOwn q).forwardFlit q o))) ∧
    (∀ (p : Fin 32) (l : Fin 4) (h : HeldFlit) (hs : List HeldFlit), l.val < 2 →
      sget (s.router q).bufs (4 * p + l) [] = h :: hs → exec (.tpAgePromote q p l) s =
        .next (s.setRouter q { s.router q with bufs := sput (s.router q).bufs (4 * p + l) ({ h with promoted := true } :: hs) [] }))

/-- Reads and writes of a DDR line that decodes cleanly and whose way is open: a write stores exactly its enabled bytes, answers
OK, and changes no other byte; a read answers the 64 bytes of the line and changes nothing (R62, R63, R64, R353). -/
def Obligations.MemoryRequestsReadAndWriteLines : Prop :=
  ∀ (s : State) (src : SrcId) (tag : BitVec 8) (line : BitVec 42) (data : Line) (l : MemLoc) (t : Nat),
    let a := line.toNat * 64
    s.Inv → s.gate src tag.toNat a = (none, t, s) → s.sourceDead src t = false → memLoc s.ddrGiB a = some l → l.kind = 8 → a < 0x800000000000 →
    (∀ j < 16, s.markAt (a + 4 * j) = none) →
    let done (c : Instr) (bytes : Nat → Option Byte) : Prop :=
      ∃ u : State, exec c s = .next u ∧ u.out = .response src tag.toNat stOk t [] :: s.out ∧
        (∀ i < 64, u.byteAt (a + i) = (bytes i).getD (s.byteAt (a + i))) ∧
        (∀ b, b < a ∨ a + 64 ≤ b → u.byteAt b = s.byteAt b) ∧ (∀ w, u.markAt w = s.markAt w) ∧
        u = { s with out := u.out, mem := u.mem, marks := u.marks, outst := u.outst }
    (exec (.tpRead src tag line []) s = .next ((s.answered src tag.toNat a).emit
      (.response src tag.toNat stOk t (s.bytesAt a 64)))) ∧
    done (.tpWrite src tag line data) (fun i => some (BitVec.ofNat 8 (data.toNat >>> (8 * i)))) ∧
    (∀ half, done (.tpWritePart src tag line half data) (fun i =>
      if i / 32 = b2n half ∧ bit data.toNat (256 + i % 32) = true
      then some (BitVec.ofNat 8 (data.toNat >>> (8 * (i % 32)))) else none)) ∧
    (∀ f : BurstFlit, f.idx.val = 0 → f.last = true →
      done (.tpBurst src tag line [f]) (fun i => some (BitVec.ofNat 8 (f.data.toNat >>> (8 * i)))))

/-- A write of one register under its field types and byte enables (R10, R641). TP_SRCCFG is written while it is not locked, and
its reserved bits are not; once locked, the write changes no register and raises its event. The flags of TP_XSTAT clear where
a 1 is written, and the first error with the last of them (R55). TP_ABSORB ignores the write. No other register changes. -/
def Obligations.RegisterWritesFollowFieldTypes : Prop :=
  ∀ (s : State) (src : SrcId) (tag : BitVec 8) (data : Line) (t : Nat), s.Inv →
    let write (a : Nat) (en : BitVec 64) : Instr := .registerWrite src tag (BitVec.ofNat 42 (a / 64)) en data
    let open_ (a : Nat) : Prop := s.gate src tag.toNat (a / 64 * 64) = (none, t, s) ∧ s.sourceDead src t = false
    let ok (u : State) : Prop := u.out = .response src tag.toNat stOk t [] :: s.out
    (∀ j : Fin 44, let a := TP_SRCCFG.adr j; let v := bits data.toNat (32 * (j.val % 16)) 32
      open_ a → ∃ u : State, exec (write a (0xF#64 <<< (4 * (j.val % 16)))) s = .next u ∧ ok u ∧
        (bit (s.reg a) 31 = false → (∀ k < 32, bit (u.reg a) k = if k < 4 ∨ k = 31 then bit v k else bit (s.reg a) k) ∧
          ∀ b, b ≠ a → u.reg b = s.reg b) ∧
        (bit (s.reg a) 31 = true → u = (s.raise 0x0107 742 a 0 src).respond src tag.toNat (a / 64 * 64) stOk t [])) ∧
    (∀ i : IslandId, let a := TP_XSTAT.adr i; let old := bits (s.reg a) 0 4
      let new := old - (old &&& (bits data.toNat 0 4 &&& 11))
      open_ a → ∃ u : State, exec (write a 1) s = .next u ∧ ok u ∧ bits (u.reg a) 0 4 = new ∧
        (bits new 0 2 = 0 ∧ bits new 3 1 = 0 → u.rf a TP_XSTAT.FIRST_CAUSE = 0 ∧ u.rf a TP_XSTAT.FIRST_KIND = 0 ∧
          u.rf a TP_XSTAT.FIRST_IDX = 0) ∧
        u.rf a TP_XSTAT.XCOUNT = s.rf a TP_XSTAT.XCOUNT ∧ ∀ b, b ≠ a → u.reg b = s.reg b) ∧
    (∀ i : IslandId, let a := TP_ABSORB.adr i
      open_ a → ∃ u : State, exec (write a (0xF#64 <<< (4 * (i.val % 16)))) s = .next u ∧ ok u ∧ ∀ b, u.reg b = s.reg b)

/-! ### Vector DSP cores (R92 to R132) -/

/-- The lane operations of R97 write their result lane by lane from Va and Vb as they stood before the bundle (R93); the
saturating ones clamp and set SAT (R112), and an extraction rounds half up and wraps or clamps (R111). Only the core changes. -/
def Obligations.VectorLanesComputeAndSaturate : Prop :=
  ∀ (s u : State) (n : CoreId) (nb : Bool) (d a v : BitVec 4) (md : BitVec 6) (b : Bundle),
    State.clash b [rV d.toNat] = false →
    let A := b.before.getV a.toNat
    let B := b.before.getV v.toNat
    let C := b.before.getAcc a.toNat
    let R := (u.core n).arch
    -- a result `w` in Vd, with SAT set when `sat` holds, whose lane i is `f i`
    let lanes (c : Instr) (sat : Bool) (f : Nat → Half) : Prop :=
      ∃ w, exec c s = .next (u.slotDone n b [rV d.toNat] (setSat (R.setV d.toNat w) sat) (if sat then 1#32 else 0#32)) ∧
        ∀ i < 32, lane w i = f i
    let clamped (c : Instr) (f : Nat → Int) : Prop :=
      lanes c ((List.range 32).any fun i => exceeds 16 (f i)) fun i => BitVec.ofInt 16 (clampTo 16 (f i))
    (s.Issues n nb [] u b → d = 0 → a = 0 → v = 0 → md = 0 →
      exec (.vnop n nb d a v md) s = .next (u.slotDone n b [] R)) ∧
    (s.Issues n nb [rV a.toNat, rV v.toNat, rV d.toNat] u b → md = 0 →
      lanes (.vadd n nb d a v md) false (fun i => lane A i + lane B i) ∧
      lanes (.vsub n nb d a v md) false (fun i => lane A i - lane B i) ∧
      lanes (.vand n nb d a v md) false (fun i => lane A i &&& lane B i) ∧
      lanes (.vor n nb d a v md) false (fun i => lane A i ||| lane B i) ∧
      lanes (.vxor n nb d a v md) false (fun i => lane A i ^^^ lane B i) ∧
      clamped (.vadds n nb d a v md) (fun i => laneI A i + laneI B i) ∧
      clamped (.vsubs n nb d a v md) (fun i => laneI A i - laneI B i)) ∧
    (s.Issues n nb [rV a.toNat, rV d.toNat] u b → v = 0 →
      (md.toNat < 16 → lanes (.vshl n nb d a v md) false (fun i => lane A i <<< md.toNat)) ∧
      (md.toNat < 16 → lanes (.vshra n nb d a v md) false (fun i => (lane A i).sshiftRight md.toNat)) ∧
      (md = 0 → lanes (.vmov n nb d a v md) false (fun i => lane A i))) ∧
    (s.Issues n nb [rAcc a.toNat, rV d.toNat] u b → a.toNat < 4 → v = 0 → md.toNat ≤ 24 →
      lanes (.vext n nb d a v md) false (fun i => BitVec.ofInt 16 (roundShift (accI C i) md.toNat)) ∧
      clamped (.vexts n nb d a v md) (fun i => roundShift (accI C i) md.toNat))

/-- The multiply operations write the exact 40-bit sums of signed lane products to ACCd, modulo 2^40, and set AOVF when a lane
wraps (R108 to R110); the searches outside a repeat leave the extreme lane value, sign-extended, and the lowest index that
holds it (R118 to R120). Only the core changes. -/
def Obligations.AccumulatorsAndSearchesCompute : Prop :=
  ∀ (s u : State) (n : CoreId) (nb : Bool) (d a v : BitVec 4) (md : BitVec 6) (b : Bundle),
    let A := b.before.getV a.toNat
    let B := b.before.getV v.toNat
    let O := b.before.getAcc d.toNat
    let R := (u.core n).arch
    let acc (c : Instr) (f : Nat → Int) : Prop :=
      let aovf := (List.range 32).any fun i => exceeds 40 (f i)
      ∃ w, exec c s = .next (u.slotDone n b [rAcc d.toNat] (setAovf (R.setAcc d.toNat w) aovf) (if aovf then 2#32 else 0#32)) ∧
        ∀ i < 32, w.extractLsb' (40 * i) 40 = BitVec.ofInt 40 (f i)
    let product (h : Nat) (i : Nat) : Int :=
      let x := laneI A (2 * (i / 2))
      let y := laneI A (2 * (i / 2) + 1)
      let p := laneI B (2 * (i / 2))
      let q := if bit md.toNat 3 then - laneI B (2 * (i / 2) + 1) else laneI B (2 * (i / 2) + 1)
      if i / 16 ≠ h then 0 else if i % 2 = 0 then x * p - y * q else x * q + y * p
    (s.Issues n nb [rV a.toNat, rV v.toNat, rAcc d.toNat, rAcc d.toNat] u b → d.toNat < 4 → State.clash b [rAcc d.toNat] = false →
      (md = 0 → acc (.vmul n nb d a v md) (fun i => laneI A i * laneI B i)) ∧
      (md = 0 → acc (.vmac n nb d a v md) (fun i => accI O i + laneI A i * laneI B i)) ∧
      (md = 0 → acc (.vmsu n nb d a v md) (fun i => accI O i - laneI A i * laneI B i)) ∧
      acc (.vmacb n nb d a v md) (fun i => accI O i + laneI A i *
        laneI B ((md.toNat % 32 + if bit md.toNat 5 then (b.iter.map Prod.fst).getD 0 else 0) % 32)) ∧
      (bits md.toNat 0 3 = 0 → bits md.toNat 5 1 = 0 →
        acc (.vcmul n nb d a v md) (fun i => if i / 16 = bits md.toNat 4 1 then product (bits md.toNat 4 1) i else accI O i) ∧
        acc (.vcmac n nb d a v md) (fun i => accI O i + product (bits md.toNat 4 1) i))) ∧
    (s.Issues n nb [rAcc d.toNat] u b → d.toNat < 4 → a = 0 → v = 0 → md = 0 → State.clash b [rAcc d.toNat] = false →
      exec (.vclra n nb d a v md) s = .next (u.slotDone n b [rAcc d.toNat] (R.setAcc d.toNat 0))) ∧
    (s.Issues n nb [rV a.toNat, rS d.toNat, rS (d.toNat + 1)] u b → d.toNat % 2 = 0 → v = 0 → md = 0 → b.iter = none →
      R.rep = none → State.clash b [rS d.toNat, rS (d.toNat + 1)] = false →
      (∃ i, i < 32 ∧ (∀ j < 32, laneI A j ≤ laneI A i) ∧ (∀ j < i, laneI A j < laneI A i) ∧
        exec (.vmaxi n nb d a v md) s = .next (u.slotDone n b [rS d.toNat, rS (d.toNat + 1)]
          ((R.setS d.toNat (BitVec.ofInt 32 (laneI A i))).setS (d.toNat + 1) (BitVec.ofNat 32 i)))) ∧
      (∃ i, i < 32 ∧ (∀ j < 32, laneI A i ≤ laneI A j) ∧ (∀ j < i, laneI A i < laneI A j) ∧
        exec (.vmini n nb d a v md) s = .next (u.slotDone n b [rS d.toNat, rS (d.toNat + 1)]
          ((R.setS d.toNat (BitVec.ofInt 32 (laneI A i))).setS (d.toNat + 1) (BitVec.ofNat 32 i)))))

/-- The scalar and long-immediate operations of R99 and R100 that write a register: 32-bit two's complement, wrapping, with
shift counts modulo 32, on the registers before the bundle (R93). Only the core changes. -/
def Obligations.ScalarAndImmediateOperationsCompute : Prop :=
  ∀ (s u : State) (n : CoreId) (nb : Bool) (d a : BitVec 4) (v : BitVec 5) (imm : BitVec 32) (b : Bundle),
    let A := b.before.getS a.toNat
    let B := b.before.getS v.toNat
    let X := b.before.getA n
    let R := (u.core n).arch
    (s.Issues n nb [] u b → d = 0 → a = 0 → v = 0 → exec (.snop n nb d a v) s = .next (u.slotDone n b [] R)) ∧
    (State.clash b [rS d.toNat] = false →
      (s.Issues n nb [rS a.toNat, rS v.toNat, rS d.toNat] u b → v.toNat < 16 →
        let put (c : Instr) (x : Word) : Prop := exec c s = .next (u.slotDone n b [rS d.toNat] (R.setS d.toNat x))
        put (.add n nb d a v) (A + B) ∧ put (.sub n nb d a v) (A - B) ∧ put (.and n nb d a v) (A &&& B) ∧
        put (.or n nb d a v) (A ||| B) ∧ put (.xor n nb d a v) (A ^^^ B) ∧
        put (.shl n nb d a v) (A <<< (B.toNat % 32)) ∧ put (.shra n nb d a v) (A.sshiftRight (B.toNat % 32))) ∧
      (s.Issues n nb [rS a.toNat, rS d.toNat] u b →
        exec (.addi n nb d a v) s = .next (u.slotDone n b [rS d.toNat] (R.setS d.toNat (A + v.signExtend 32)))) ∧
      (s.Issues n nb [rA a.toNat, rS d.toNat] u b → a.toNat < 8 → v = 0 →
        exec (.mfa n nb d a v) s = .next (u.slotDone n b [rS d.toNat] (R.setS d.toNat ((X a.toNat).setWidth 32)))) ∧
      (s.Issues n nb [rC a.toNat, rS d.toNat] u b → a.toNat < 8 → v = 0 →
        exec (.mfc n nb d a v) s = .next (u.slotDone n b [rS d.toNat] (R.setS d.toNat
          (if a.toNat = 7 then BitVec.ofNat 32 (u.clusterCycle (n / 8)) else b.before.getC a.toNat)))) ∧
      (s.Issues n nb [rS d.toNat] u b →
        exec (.movi n nb d imm) s = .next (u.slotDone n b [rS d.toNat] (R.setS d.toNat imm)))) ∧
    (d.toNat < 8 →
      (s.Issues n nb [rS a.toNat, rA d.toNat, rA d.toNat] u b → v = 0 → State.clash b [rA d.toNat] = false →
        ∃ w : Addr, exec (.mova n nb d a v) s = .next (u.slotDone n b [rA d.toNat] (R.setA n d.toNat w)) ∧
          w.extractLsb' 0 32 = A ∧ w.extractLsb' 32 16 = (X d.toNat).extractLsb' 32 16) ∧
      (s.Issues n nb [rS a.toNat, rO d.toNat] u b → v = 0 → State.clash b [rO d.toNat] = false →
        exec (.movo n nb d a v) s = .next (u.slotDone n b [rO d.toNat] (R.setO d.toNat A))) ∧
      (s.Issues n nb [rS a.toNat, rL d.toNat] u b → v = 0 → State.clash b [rL d.toNat] = false →
        exec (.movl n nb d a v) s = .next (u.slotDone n b [rL d.toNat] (R.setL d.toNat (A.setWidth 24 &&& 0xFFFFFE#24)))) ∧
      (s.Issues n nb [rA a.toNat, rB d.toNat] u b → a.toNat < 8 → v = 0 → State.clash b [rB d.toNat] = false →
        exec (.movb n nb d a v) s = .next (u.slotDone n b [rB d.toNat] (R.setB d.toNat (X a.toNat)))) ∧
      (s.Issues n nb [rS a.toNat, rC d.toNat] u b → v = 0 → State.clash b [rC d.toNat] = false →
        exec (.mtc n nb d a v) s = .next (u.slotDone n b [rC d.toNat] (R.setC d.toNat (mtcValue d.toNat (b.before.getC d.toNat) A |||
          if d.toNat = 0 then b.raised else 0#32)))) ∧
      (s.Issues n nb [rO d.toNat] u b → State.clash b [rO d.toNat] = false →
        exec (.moviO n nb d imm) s = .next (u.slotDone n b [rO d.toNat] (R.setO d.toNat imm))) ∧
      (s.Issues n nb [rA d.toNat, rA d.toNat] u b → State.clash b [rA d.toNat] = false →
        (∃ w : Addr, exec (.moviAl n nb d imm) s = .next (u.slotDone n b [rA d.toNat] (R.setA n d.toNat w)) ∧
          w.extractLsb' 0 32 = imm ∧ w.extractLsb' 32 16 = (X d.toNat).extractLsb' 32 16) ∧
        (imm.toNat < 2 ^ 16 →
          ∃ w : Addr, exec (.moviAh n nb d imm) s = .next (u.slotDone n b [rA d.toNat] (R.setA n d.toNat w)) ∧
            w.extractLsb' 32 16 = imm.setWidth 16 ∧ w.extractLsb' 0 32 = (X d.toNat).extractLsb' 0 32)))

/-- Branches add their signed 9-bit displacement to their own bundle index when their condition holds (R96, R99); JMP, CALL
and RET set PC, CALL leaving its return index in S15 (R100); REP and REPS enter the next bundle as a body, or skip it for a
count of 0, REPS taking at most 4,095 from Sa (R113); an iteration advances the repeat or ends it behind the body. -/
def Obligations.BranchesAndRepeatsSteerPC : Prop :=
  ∀ (s u : State) (n : CoreId) (nb : Bool) (d : BitVec 4) (disp : BitVec 9) (o : BitVec 56) (b : Bundle),
    let R := (u.core n).arch
    let D := b.before.getS d.toNat
    let goes (c : Instr) (p : Prop) [Decidable p] : Prop := exec c s = .next (u.slotDone n b []
      (if p then { R with pc := ((b.pc + disp.toInt) % 2 ^ 13).toNat } else R))
    let body := (b.pc + 1) % 2 ^ 13
    let f := u.fetchBundle n body
    let rep (c : Instr) (k : Nat) : Prop := exec c s = .next (f.2.2.setArch n (if k = 0 then { R with pc := (body + 1) % 2 ^ 13 }
      else { R with pc := body, rep := some ⟨body, 0, k, [], if f.1 then some f.2.1 else none⟩ }))
    (s.Issues n nb [rS d.toNat] u b →
      goes (.beqz n nb d disp) (D = 0) ∧ goes (.bnez n nb d disp) (D ≠ 0) ∧
      goes (.bltz n nb d disp) (D.toInt < 0) ∧ goes (.bgez n nb d disp) (0 ≤ D.toInt)) ∧
    (s.Issues n true [] u b → o.toNat < 2 ^ 13 →
      exec (.jmp n o) s = .next (u.slotDone n b [] { R with pc := o.toNat })) ∧
    (s.Issues n true [rS 15] u b → o.toNat < 2 ^ 13 → State.clash b [rS 15] = false →
      exec (.call n o) s = .next (u.slotDone n b [rS 15]
        { R.setS 15 (BitVec.ofNat 32 body) with pc := o.toNat })) ∧
    (s.Issues n true [rS 15] u b → o = 0 →
      exec (.ret n o) s = .next (u.slotDone n b [] { R with pc := (b.before.getS 15).toNat % 2 ^ 13 })) ∧
    (s.canIssue n = true → s.openBundle n = u → u.youngest n = some b → b.exc = none →
      (f.1 = true → State.bodyLegal f.2.1 = true) →
      (o.toNat < 2 ^ 12 → rep (.rep n o) o.toNat) ∧
      (s.waits n true [rS (bits o.toNat 12 4)] = false → bits o.toNat 0 12 = 0 → bits o.toNat 16 40 = 0 →
        rep (.reps n o) (min ((s.core n).arch.getS (bits o.toNat 12 4)).toNat 4095))) ∧
    (∀ (p : Rep) (w : Nat) (v : State) (ok : Bool), (s.core n).run = .running → (s.core n).arch.rep = some p →
      (s.cyclesPass (n / 8)).bodyWord n p = (ok, w, v) → s.waits n true (State.bodyRegs w) = false →
      (bits w 62 2 = 0 ∧ bits w 34 4 = 9 → s.allAnswered n = true) → s.Inv →
      ∃ t, exec (.repIteration n) s = .next t ∧
        (p.rem ≤ 1 → (t.core n).arch.rep = none ∧ (t.core n).arch.pc = (p.body + 1) % 2 ^ 13) ∧
        (1 < p.rem → ∃ best, (t.core n).arch.rep = some ⟨p.body, p.k + 1, p.rem - 1, best, if ok then some w else none⟩))

/-- Every load and store completes, its operation issuing (R98, R102 to R107, R121, R123 to R126, R129): a load of the core's own
data memory takes its bytes from memory, or from the core's own stores that have not landed, and a word of it that does not
decode is an exception of its bundle; a store waits in its bundle for its commit; a remote access waits for its responses or
its commit. MNOP, whose address fields are ignored, and FENCE, once every access has been answered, change no register. -/
def Obligations.LoadsAndStoresAccessMemory : Prop :=
  ∀ (s u : State) (n : CoreId) (nb : Bool) (m : BitVec 4) (x y : BitVec 3) (pm : Bool) (b : Bundle),
    let r := b.before
    let post := if pm then [rA x.toNat] else []
    let addr := [rA x.toNat, rL x.toNat, rB x.toNat] ++ if pm then [rO y.toNat] else []
    let at_ (k : Nat) := accessBytes r n x.toNat k
    let own (k : Nat) : Prop := ∀ a ∈ at_ k, inOwnDmem n a = true
    let marked (v : State) (w : List Nat) := v.setYoungest n { b with wrote := b.wrote ++ w }
    -- a load of `k` bytes into register number `g`, that puts `f` of them
    let load (c : Instr) (k form g : Nat) (f : Arch → List Byte → Arch) : Prop :=
      s.Issues n nb (addr ++ g :: post) u b → (at_ k).headD 0 % 2 = 0 → State.clash b (g :: post) = false →
      let l := u.ownLoad n (at_ k)
      (own k → exec c s = .next (if l.1 = true
        then ((marked l.2.2 (g :: post)).setArch n (f (l.2.2.core n).arch l.2.1)).postMoved n x.toNat y.toNat pm r
        else l.2.2.bundleFaulted n b ⟨4, 0, (at_ k).headD 0⟩)) ∧
      (¬ own k → (s.core n).rloads.length < 8 → b.iter = none → exec c s = .next
        (((marked u (g :: post)).setCore n { (marked u (g :: post)).core n with
          rloads := ((marked u (g :: post)).core n).rloads ++ [⟨form, g, at_ k,
            (at_ k).filterMap fun a => (u.pendingByte n a).map fun v => (a, v), b.serial, false, [], []⟩] }).postMoved
              n x.toNat y.toNat pm r))
    -- a store of the bytes `bs`, which reads register number `g`
    let store (c : Instr) (g : Nat) (bs : List Byte) : Prop :=
      s.Issues n nb (g :: addr ++ post) u b → (bs.length ≠ 1 → (at_ bs.length).headD 0 % 2 = 0) → State.clash b post = false →
      (own bs.length → exec c s = .next ((u.setYoungest n { b with
        wrote := b.wrote ++ post, stores := (at_ bs.length).zip bs, rstores := [] }).postMoved n x.toNat y.toNat pm r)) ∧
      (¬ own bs.length → s.storesOut n < 8 → b.iter = none → exec c s = .next ((u.setYoungest n { b with
        wrote := b.wrote ++ post, stores := [], rstores := (at_ bs.length).zip bs }).postMoved n x.toNat y.toNat pm r))
    load (.vld n nb m x y pm 0) 64 0 (rV m.toNat) (fun q bs => q.setV m.toNat (BitVec.ofNat 512 (leVal bs))) ∧
    load (.vldb n nb m x y pm 0) 2 1 (rV m.toNat) (fun q bs => q.setV m.toNat (mkLanes fun _ => leVal bs)) ∧
    load (.ldh n nb m x y pm 0) 2 2 (rS m.toNat) (fun q bs => q.setS m.toNat ((BitVec.ofNat 16 (leVal bs)).signExtend 32)) ∧
    load (.ldw n nb m x y pm 0) 4 3 (rS m.toNat) (fun q bs => q.setS m.toNat (BitVec.ofNat 32 (leVal bs))) ∧
    store (.vst n nb m x y pm 0) (rV m.toNat) (leBytes 64 (r.getV m.toNat).toNat) ∧
    store (.sth n nb m x y pm 0) (rS m.toNat) (leBytes 2 (r.getS m.toNat).toNat) ∧
    store (.stw n nb m x y pm 0) (rS m.toNat) (leBytes 4 (r.getS m.toNat).toNat) ∧
    store (.stb n nb m x y pm 0) (rS m.toNat) (leBytes 1 (r.getS m.toNat).toNat) ∧
    -- MNOP, its fields but MR and [3:0] ignored, and FENCE
    (s.Issues n nb [] u b → exec (.mnop n nb 0 x y pm 0) s = .next u) ∧
    (s.Issues n nb [] u b → s.allAnswered n = true → exec (.fence n nb 0 0 0 false 0) s = .next u) ∧
    -- what a load of its own data memory finds where no word of it is in error
    (∀ k, own k → u.mbuf = [] → (∀ a ∈ at_ k, u.markAt (a / 2 * 2) = none) → u.ownLoad n (at_ k) =
      (true, (at_ k).map fun a => (u.pendingByte n a).getD (u.byteAt a), u))

/-- The coprocessor operations of the M slot (R136 to R157): CMOV.TO waits in its bundle, CMOV.FROM reads the context
register or an older CMOV.TO, CISSUE enters the shared queue uncommitted and takes its tag, CWAIT issues once its tags are
free. -/
def Obligations.CoprocessorOperationsIssue : Prop :=
  ∀ (s u : State) (n : CoreId) (nb : Bool) (f : BitVec 15) (b : Bundle),
    let k := n.val / 8
    let x := bits f.toNat 10 1
    let m := bits f.toNat 11 4
    let cr := bits f.toNat 5 5
    let d := (s.core n).depth
    let ctx := State.ownCtx n d
    let R := (u.core n).arch
    (bits f.toNat 0 5 = 0 → s.copUnavail k x = false →
      (s.Issues n nb [rV m] u b → s.crW k x ctx cr = false → s.crR k x ctx cr = false →
        exec (.cmovTo n nb f) s = .next (u.setYoungest n { b with
          cops := b.cops ++ [.moveTo x ctx cr (b.before.getV m)], cmov := true, wrote := b.wrote ++ [] })) ∧
      (s.Issues n nb [rV m] u b → s.crW k x ctx cr = false → State.clash b [rV m] = false →
        (∀ v, u.pendingCR n x ctx cr = some v ∨ (u.pendingCR n x ctx cr = none ∧ v = u.getCR k x ctx cr ∧
            ∀ w < 8, sget (u.cop k x).bad (8 * (ctx * 32 + cr) + w) none = none) →
          exec (.cmovFrom n nb f) s = .next ((u.setYoungest n { b with wrote := b.wrote ++ [rV m], cmov := true }).setArch n
            (R.setV m v))))) ∧
    (bits f.toNat 0 10 = 0 → m % 4 = 0 → s.Issues n nb ((List.range 4).map fun i => rS (m + i)) u b →
      ∀ words : List Word, (List.range 4).map (fun i => (s.srcArch n nb).getS (m + i)) = words → cmdLegal x words = true →
      ((s.core n).tags.any fun t => t.depth = d && t.tag = cmdTag words) = false →
      s.sharedFill k x < 32 →
      let v := u.addCop n (.commit x (cmdTag words) d) false []
      let task := sget (s.core n).tasks d 0
      exec (.cissue n nb f) s = .next ((v.setCore n { v.core n with
        tags := (v.core n).tags ++ [⟨x, d, cmdTag words, none, none, task⟩] }).copEnter k x
          (State.newCmd words ctx (.core n d task) false))) ∧
    (bits f.toNat 0 10 = 0 → s.Issues n nb [] u b →
      ((s.core n).tags.any fun t => t.depth = d && (bit f.toNat 10 || t.tag = m)) = false →
      exec (.cwait n nb f) s = .next u)

/-- TRAP finds its exception in the open bundle, which then has no effect in any slot (R99, R129); RETE clears C1.VALID and
resumes at C2, inside the repeat that C5 names (R131); DONE, once every access has been answered, commits its bundle and ends
the task (R99, R201). -/
def Obligations.TrapsReturnsAndTaskEnds : Prop :=
  ∀ (s u : State) (n : CoreId) (nb : Bool) (b : Bundle),
    (∀ v : BitVec 5, s.Issues n nb [] u b → exec (.trap n nb 0 0 v) s = .next (u.bundleFaulted n b ⟨6, v.toNat, 0⟩)) ∧
    (s.Issues n nb [rC 1] u b → State.clash b [rC 1] = false →
      let R := (u.core n).arch
      let R1 := R.setC 1 (R.getC 1 &&& 0x7FFFFFFF#32)
      let epc := (b.before.getC 2).toNat % 2 ^ 13
      let k := bits (b.before.getC 5).toNat 16 12
      let rem := bits (b.before.getC 5).toNat 0 12
      exec (.rete n nb 0 0 0) s = .next (u.slotDone n b [rC 1] { R1 with
        pc := epc, rep := if rem = 0 then none else some ⟨epc, k, rem, (s.core n).best, none⟩ })) ∧
    (s.Issues n true [] u b → (s.core n).flight = [] → s.allAnswered n = true →
      (s.core n).defer.any (fun d => d.exc.code = 7) = false →
      let v := u.commit n
      let c := v.core n
      exec (.done n true 0 0 0) s = .next ((v.setCore n { c with
        arch := c.arch.setC 1 (c.arch.getC 1 &&& 0x7FFFFFFF#32), run := if c.depth = 0 then .idle else .restoring,
        best := [], tasks := sput c.tasks c.depth 0 0, ended := c.ended ++ [c.depth] }).pulse ⟨n / 8, 28 + n / 48, 4, 0⟩ (n % 8) (n % 48)))

/-- An exception is taken precisely: the bundles in flight are flushed, the registers are those before the faulting bundle, C1
to C5 record it, and execution goes on at C6 (R129, R130); one found while C1.VALID is 1 stops the core (R132), and a further
access error is only counted (R130). -/
def Obligations.ExceptionsEnterTheHandler : Prop :=
  ∀ (s : State) (n : CoreId), s.Inv →
    let saved (r : Arch) (e : Exc) (epc : Nat) (k rem : Nat) : Arch :=
      ((((r.setC 1 (BitVec.ofNat 32 (2 ^ 31 + e.detail * 256 + e.code))).setC 2 (BitVec.ofNat 32 epc)).setC 3
        (BitVec.ofNat 32 e.addr)).setC 4 (BitVec.ofNat 32 ((e.addr >>> 32) % 2 ^ 16))).setC 5 (BitVec.ofNat 32 (k * 2 ^ 16 + rem))
    (∀ (b : Bundle) (rest : List Bundle) (e : Exc), (s.core n).flight = b :: rest → b.exc = some e →
      ((b.before.getC 1).msb = false → ∃ t : State, exec (.exceptionTaken n) s = .next t ∧
        (t.core n).flight = [] ∧ (t.core n).run = (s.core n).run ∧
        (t.core n).best = (match b.before.rep with
          | some p => p.best
          | none => []) ∧
        (t.core n).arch = { saved b.before e b.pc (b.iter.getD (0, 0)).1 (b.iter.getD (0, 0)).2 with
          pc := (b.before.getC 6).toNat % 2 ^ 13, rep := none } ∧
        (∀ l ∈ (t.core n).rloads, b.serial ≤ l.serial → l.dead = true) ∧
        (∀ m, m ≠ n.val → t.core m = s.core m) ∧ t = { s with cores := t.cores, cops := t.cops, regs := t.regs }) ∧
      ((b.before.getC 1).msb = true → exec (.exceptionTaken n) s =
        .next ((s.flush n).stopCore n (bits (b.before.getC 1).toNat 0 8) e.code))) ∧
    (∀ d : DefExc, (s.core n).defer.find? (fun x => x.exc.code = 7) = some d →
      sget (s.core n).tasks d.depth 0 = d.task → (s.core n).run = .running → (s.core n).depth = d.depth →
      let c := { s.core n with defer := ldrop1 (fun x => x = d) (s.core n).defer }
      -- MORE counts up to 255, also in the registers that a flush would bring back
      let more (r : Arch) : Arch := let c1 := (r.getC 1).toNat
        r.setC 1 (BitVec.ofNat 32 (Machine.setBits c1 16 8 (min (bits c1 16 8 + 1) 255)))
      (s.handling n = true → exec (.accessErrorException n) s = .next (s.setCore n { c with
        arch := more c.arch, flight := c.flight.map fun b => { b with before := more b.before } })) ∧
      (s.handling n = false → (s.core n).flight = [] → (s.core n).arch.rep = none → s.atBoundary n = true →
        exec (.accessErrorException n) s = .next (s.setCore n { c with best := [], arch :=
          { saved c.arch d.exc c.arch.pc 0 0 with pc := (c.arch.getC 6).toNat % 2 ^ 13, rep := none } })))

/-- The oldest bundle reaches write-back: its stores, the later of two to one byte winning, become the bytes of its core's data
memory, no other byte changes (R123), and the errors that its remote loads have met become access errors of its task; a remote
load's response puts the bytes into its register, those of the core's own
earlier stores first, and a flushed load's response is discarded (R94, R124 to R126). -/
def Obligations.BundlesCommitAndLoadsReturn : Prop :=
  ∀ (s : State) (n : CoreId), s.Inv →
    (∀ (b : Bundle) (rest : List Bundle), (s.core n).flight = b :: rest → b.exc = none → b.cops = [] → b.rstores = [] →
      (s.core n).rloads = [] → (∀ e ∈ b.stores, inOwnDmem n e.1 = true ∧ s.markAt (e.1 / 2 * 2) = none) →
      ∃ t : State, exec (.bundleCommit n) s = .next t ∧
          let late := b.errs.map (fun e => ⟨⟨7, e.1, e.2⟩, (s.core n).depth, sget (s.core n).tasks (s.core n).depth 0, 0, 0⟩)
          t.core n = { s.core n with flight := rest, defer := (s.core n).defer ++ late } ∧
        (∀ m, m ≠ n.val → t.core m = s.core m) ∧
        (∀ a, t.byteAt a = ((b.stores.reverse.find? fun e => e.1 = a).map Prod.snd).getD (s.byteAt a)) ∧
        (∀ w, t.markAt w = s.markAt w) ∧ t = { s with cores := t.cores, mem := t.mem, marks := t.marks }) ∧
    (∀ (i : Fin 8) (l : RLoad), (s.core n).rloads[i.val]? = some l →
      (l.dead = true → exec (.remoteLoadResponse n i) s =
        .next (s.setCore n { s.core n with rloads := (s.core n).rloads.eraseIdx i })) ∧
      (∀ (ln : Nat) (d : List Byte) (v : State), l.dead = false → l.form ≠ 4 → l.read = [] → l.errs = [] → l.bytes ≠ [] → (∀ a ∈ l.bytes, a / 64 = ln) →
        s.busRead (n / 8) (64 * ln) 64 = (none, d, v) →
        let got := l.bytes.map fun a => match l.fwd.find? (fun e => e.1 = a) with
          | some e => e.2
          | none => d.getD (a % 64) 0xFF
        let put (r : Arch) : Arch := State.landLoad r l.form l.reg got
        exec (.remoteLoadResponse n i) s = .next (v.setCore n { v.core n with
          arch := put (v.core n).arch, rloads := (v.core n).rloads.eraseIdx i,
          flight := (v.core n).flight.map fun b => if l.serial < b.serial then { b with before := put b.before } else b })))

/-- An operation of a slot changes its own core, the cluster's cycle counter, the error reports of its fetch, of its loads and of
the registers that CMOV.FROM reads, the crossing that presents them to the hub, and the model's counter of free values, and
nothing else. -/
def Obligations.SlotOperationsChangeOnlyTheirCore : Prop :=
  ∀ (s t : State) (c : Instr) (n : Nat), c.slotCore = some n → (s.core n).arch.pc < 2 ^ 13 → exec c s = .next t →
    t = { s with cores := t.cores, clk := t.clk, eccq := t.eccq, xings := t.xings, free := t.free } ∧
    (∀ m, m ≠ n → t.core m = s.core m) ∧ (∀ k, k ≠ n / 8 → t.clusterCycle k = s.clusterCycle k)

/-! ### Coprocessors (R133 to R174) -/

/-- The next command of a register form starts: it takes in its operands from the context registers (R144, R149). A completed
command writes its result registers, sets the flags of its outcome and frees its tag; one that ended in error sets ERR and its
reason, and the error is deferred to its core (R148, R170 to R172). -/
def Obligations.CoprocessorCommandsStartAndComplete : Prop :=
  ∀ (s : State) (k : ClusterId) (u : UnitId) (x : CopCmd) (xs : List CopCmd), (s.cop k u).queue = x :: xs →
    let src := 192 + 2 * k.val + u.val
    (x.started = false → x.err = none → xs.all (fun y => !y.started) = true → cmdMem x.words = false →
      s.moveBefore u x = false → s.copUnavail k u = false →
      (∀ r ∈ cmdReads u x.words, ∀ w < 8, sget (s.cop k u).bad (8 * (x.ctx * 32 + r) + w) none = none) →
      let operands := (cmdReads u x.words).flatMap fun r => leBytes 64 (s.getCR k u x.ctx r).toNat
      exec (.coprocCommandStart k u) s = .next (s.setCop k u { s.cop k u with
        queue := { x with started := true, inBytes := operands } :: xs })) ∧
    (x.committed = true → (s.cop k u).held = none → ∀ (n d task : Nat), x.origin = .core n d task →
      let v := s.setCop k u { s.cop k u with queue := xs }
      let tag (t : CopTag) : Bool := t.u = u.val && t.depth = d && t.tag = x.tag && t.remote = none
      let free (w : State) := w.setCore n { w.core n with tags := ldrop1 tag (w.core n).tags }
      (∀ r : CopResult, x.err = none → x.result = some r → cmdMem x.words = false → cmdNtf x.words = false → r.sat = false →
        r.notpd = false → exec (.coprocCommandComplete k u) s = .next (free
          ((cmdWrites u x.words).zipIdx.foldl (fun w p => w.setCR k u x.ctx p.1 (BitVec.ofNat 512 (fieldAt r.bytes (64 * p.2) 64))) v))) ∧
      (∀ (why a : Nat), x.err = some (why, a) → why ≠ 0 →
        let e := (((v.wf (CX_CTXST.adr k u x.ctx) CX_CTXST.ERR 1).wf (CX_CTXST.adr k u x.ctx) CX_CTXST.LASTERR why).wf
          (CX_STAT.adr k u) CX_STAT.ERR 1).raise 0x0206 src x.ctx why (State.cmdName x)
        exec (.coprocCommandComplete k u) s = .next ((free e).setCore n { (free e).core n with
          defer := ((free e).core n).defer ++ [⟨⟨8, why, a⟩, d, task, u.val, x.tag⟩] })))

/-- The oldest started command of an opcode computes: each part of a transform lies within 2 of the rounded and saturated value
of its formula (R164); a matrix product is exact, rounded half up and saturated (R167); a factorisation whose pivot fails
writes zeros and says so (R168). Only the command's result and the count of free values change. -/
def Obligations.CoprocessorsComputeTransformsAndMatrices : Prop :=
  ∀ (s : State) (k : ClusterId) (u : UnitId) (x : CopCmd) (xs : List CopCmd), (s.cop k u).queue = x :: xs →
    x.started = true → x.err = none → x.result = none →
    let w := x.words
    let done (c : Instr) (p : CopResult → Prop) : Prop :=
      ∃ r : CopResult, p r ∧ exec c s = .next { s.setCop k u { s.cop k u with queue := { x with result := some r } :: xs } with
        free := s.free + 16384 }
    let part (r : CopResult) (o : Nat) (v : Int) : Prop := fieldAt r.bytes o 2 = wrapTo 16 (clampTo 16 v)
    -- the transform of R164: output K is the sum over i of x(i) times a point of the unit circle
    let fourier (c : Instr) (turn : Nat → Nat → Nat → Nat) : Prop :=
      let n := cmdParam w + 1
      let half := b2n (bit (cmdOpt w) 0)
      done c fun r => ∀ j < n,
        let sum := (List.range n).foldl (fun (a : CInt) i => a.add (((cElems x.inBytes n).getD i ⟨0, 0⟩).mul
          (cis (turn n j i + half * i) (2 * n)))) ⟨0, 0⟩
        ∃ e f : Int, -2 ≤ e ∧ e ≤ 2 ∧ -2 ≤ f ∧ f ≤ 2 ∧
          part r (4 * j) (roundScale (sum.re + 2 ^ 24) (60 + cmdScale w) + e) ∧
          part r (4 * j + 2) (roundScale (sum.im + 2 ^ 24) (60 + cmdScale w) + f)
    (u = 0 →
      (cmdOpc w = 1 → fourier (.fft k) fun n j i => 2 * n * i - 2 * j * i) ∧
      (cmdOpc w = 2 → fourier (.ifft k) fun _ j i => 2 * j * i) ∧
      (cmdOpc w = 3 → fourier (.dft k) fun n j i => 2 * n * i - 2 * j * i) ∧
      (cmdOpc w = 4 → fourier (.idft k) fun _ j i => 2 * j * i)) ∧
    (u = 1 →
      -- with OPT 1 the first operand is used as its conjugate transpose
      (cmdOpc w = 0x10 → done (.cmul k) fun r =>
        let herm := bit (cmdOpt w) 0
        let m := bits (cmdParam w) 8 4 + 1
        let n := bits (cmdParam w) 4 4 + 1
        let p := bits (cmdParam w) 0 4 + 1
        ∀ i < m, ∀ j < p,
          let sum := (List.range n).foldl (fun (t : CInt) l =>
            t.add ((if herm = true then (elemAt x.inBytes l i).conj else elemAt x.inBytes i l).mul
              (elemAt (x.inBytes.drop (64 * (if herm = true then n else m))) l j))) ⟨0, 0⟩
          part r (64 * i + 4 * j) (roundScale sum.re (15 + cmdScale w)) ∧
          part r (64 * i + 4 * j + 2) (roundScale sum.im (15 + cmdScale w))) ∧
      (∀ (c : Instr) (o : Nat), (c, o) ∈ [(Instr.chol k, 0x11), (Instr.cinv k, 0x12)] → cmdOpc w = o →
        let n := bits (cmdParam w) 0 4 + 1
        let a := hermOf x.inBytes n
        done c fun r =>
          (pivotFails a n (ldl a n).2 = true → r.sat = false ∧ r.notpd = true ∧ r.bytes.length = 64 * n ∧
            ∀ i < n, ∀ j < n, fieldAt r.bytes (64 * i + 4 * j) 4 = 0) ∧
          (pivotFails a n (ldl a n).2 = false → r.notpd = false ∧ r.bytes.length = 64 * n ∧
            (o = 0x11 → ∀ i < n, ∀ j < n, i < j → fieldAt r.bytes (64 * i + 4 * j) 4 = 0))))

/-- A remote command enters the queue of its bound context, committed (R154); a completion notice frees its tag and defers its
error (R156); a remote tag without notice is freed with reason 7 (R156); a window read returns its register (R159); and a
deferred coprocessor error is taken at a bundle boundary (R172).

A pulse to an enabled trigger slot issues its command once for each count that finds a shared queue entry, and the rest wait
in PEND; a pulse that PEND cannot hold is lost, and one to a slot that is not ready raises its event (R160 to R162). A waiting issue enters as an entry frees (R161),
and a binding that waited takes effect when its context has no command (R173). -/
def Obligations.RemoteCommandsTriggersAndBindingsAct : Prop :=
  (∀ (s : State) (k : ClusterId) (n : CoreId) (u : UnitId) (depth : BitVec 2),
     (∀ (src : SrcId) (core : BitVec 8) (w0 w1 w2 w3 : Word) (ctx : Nat), src.val < 24 →
       s.boundCtx k u core.toNat depth.toNat = some ctx →
       ((s.cop k u).queue.filter fun x => x.ctx = ctx && State.isRemote x).length < 2 →
       exec (.commandIntakeWrite k u src core depth w0 w1 w2 w3) s = .next (s.copEnter k u
         (State.newCmd [w0, w1, w2, w3] ctx (.remote core.toNat depth.toNat) true))) ∧
     (∀ (src : SrcId) (core : BitVec 8) (tag : BitVec 4) (target : ClusterId) (why : BitVec 8) (a : Addr) (t : CopTag),
       src.val < 24 → core.toNat / 8 = k.val → (s.core core.toNat).tags.find? (fun t =>
         t.u = u.val && t.depth = depth.toNat && t.tag = tag.toNat && t.remote = some target.val) = some t →
       let v := s.freeTag core.toNat u depth.toNat tag.toNat (some target.val)
       exec (.completionIntakeWrite k src u core depth tag target why a) s = .next (if why = 0 then v
         else v.setCore core.toNat { v.core core.toNat with
           defer := (v.core core.toNat).defer ++ [⟨⟨8, why.toNat, a.toNat⟩, depth.toNat, t.task, u.val, tag.toNat⟩] })) ∧
     (∀ (tag : BitVec 4) (t : CopTag) (far : Nat), (s.core n).tags.find? (fun t => t.u = u.val && t.depth = depth.toNat &&
         t.tag = tag.toNat && t.remote.isSome && t.since.isSome) = some t → t.remote = some far →
       let v := s.freeTag n u depth.toNat tag.toNat (some far)
       exec (.remoteTagTimeout n u depth tag) s = .next (v.setCore n { v.core n with
         defer := (v.core n).defer ++ [⟨⟨8, 7, cxBase far⟩, depth.toNat, t.task, u.val, tag.toNat⟩] })) ∧
     (∀ (src : SrcId) (tag : BitVec 8) (ix : Fin 8) (r : Fin 32),
       let a := cxBase k + 0x8000 + 0x4000 * u.val + 0x800 * ix.val + 0x40 * r.val
       s.gate src tag.toNat a = (none, k.val, s) → s.sourceDead src k = false → s.domOn (State.copDom k u) = true →
       (∀ w < 8, sget (s.cop k u).bad (8 * ((32 + ix.val) * 32 + r.val) + w) none = none) →
       s.crW k u (32 + ix.val) r = false → s.crR k u (32 + ix.val) r = false →
       exec (.contextWindowAccess src tag k u ix r none) s = .next (s.respond src tag.toNat a stOk k
         (leBytes 64 (s.getCR k u (32 + ix.val) r).toNat))) ∧
     (∀ d : DefExc, (s.core n).defer = [d] → d.exc.code = 8 → sget (s.core n).tasks d.depth 0 = d.task →
       (s.core n).run = .running → (s.core n).depth = d.depth → s.Inv → s.handling n = false → s.atBoundary n = true →
       exec (.coprocDeferredException n) s = .next ((s.setCore n { s.core n with defer := [] }).takeAtBoundary n d.exc))) ∧
  (∀ (s : State) (k : ClusterId) (u : UnitId) (slot : Fin 16),
     let a := CX_TRIGCTL.adr k u slot
     let ctx := s.rf a CX_TRIGCTL.CTX
     let ok := s.rb a CX_TRIGCTL.EN = true ∧ 32 ≤ ctx ∧ ctx < 40 ∧ s.rb (CX_BIND.adr k u (ctx - 32)) CX_BIND.VALID = false
     (∀ count : BitVec 4,
       (¬ ok → exec (.triggerPulse k u slot count) s = .next (s.raise 0x0205 (192 + 2 * k.val + u.val) slot count.toNat 0)) ∧
       (ok →
         let now := if s.rf a CX_TRIGCTL.PEND = 0 then min count.toNat (32 - s.sharedFill k u) else 0
         let rest := s.rf a CX_TRIGCTL.PEND + (count.toNat - now)
         exec (.triggerPulse k u slot count) s = .next (if rest ≤ 0xFFFF
           then (upto now (fun _ v => v.slotIssue k u slot) s).wf a CX_TRIGCTL.PEND rest
           else (s.wf a CX_TRIGCTL.LOST 1).raise 0x0204 (192 + 2 * k.val + u.val) slot count.toNat 0))) ∧
     (0 < s.rf a CX_TRIGCTL.PEND → s.sharedFill k u < 32 → exec (.triggerPendEnter k u slot) s =
       .next ((s.wf a CX_TRIGCTL.PEND (s.rf a CX_TRIGCTL.PEND - 1)).slotIssue k u slot)) ∧
     (∀ (ix : Fin 8) (w : Nat), sget (s.cop k u).bind ix.val none = some w → s.ctxBusy k u (32 + ix.val) = false →
       exec (.cxBindApply k u ix) s =
         .next ((s.setCop k u { s.cop k u with bind := sput (s.cop k u).bind ix.val none none }).setReg (CX_BIND.adr k u ix) w)))

/-! ### Innkeeper (R175 to R219) -/

/-- A submission to a slice (R179 to R185): refused with its event from a source that may not submit, without a credit, or when
its descriptor breaks a condition; else its counter is armed with INIT less the early decrements, and the descriptor takes the
lowest free pool entry; a task whose early decrements are INIT, or more, which raises their event, is ready. A write of a source
that already has one held in the slice's bridge is held behind it (R69) and is not meant here. A credit goes to the next source in rotation whose window has room (R180). -/
def Obligations.SubmissionsSpendCreditsAndArmCounters : Prop :=
  ∀ (s : State) (r : RegionId), s.preparing = false →
    (∀ (src : SrcId) (whole : Bool) (data : Line), s.wayOpen src (inkBase r + 0x1000) → ((s.ink r).held.any fun h => h.src = src) = false →
      let d := leWords 16 data.toNat
      let no (v : State) (why : Nat) : State := v.raise 0x0301 (704 + r.val) (taskId d) src why
      let paid := s.drawn.incWrap (INK_ACCEPT.adr r src) INK_ACCEPT.COUNT 1
      let c := taskCtr d
      let early := paid.rf (INK_CTR.adr r c) INK_CTR.COUNT
      let p := paid.freePool r
      (creditWindow src = 0 ∨ whole = false → exec (.inkSubmit r src whole data) s = .next (no s.drawn 8)) ∧
      (creditWindow src ≠ 0 → s.credit r src = 0 → exec (.inkSubmit r src true data) s = .next (no s.drawn 9)) ∧
      (∀ why, creditWindow src ≠ 0 → s.credit r src ≠ 0 → s.submitReason r d = some why →
        exec (.inkSubmit r src true data) s = .next ((no paid why).inkSync r)) ∧
      (creditWindow src ≠ 0 → s.credit r src ≠ 0 → s.submitReason r d = none →
        let kept := paid.setPool r p (some ⟨d, false, 0, false, 0⟩)
        (early < taskInit d → exec (.inkSubmit r src true data) s =
          .next ((kept.setCtr r c 1 (taskPri d) p (taskInit d - early)).inkSync r)) ∧
        (early = taskInit d → exec (.inkSubmit r src true data) s = .next (((kept.newOrder r).becomeReady r p).inkSync r)) ∧
        (taskInit d < early → exec (.inkSubmit r src true data) s =
          .next (((((kept.raise 0x0302 (704 + r.val) c (early - taskInit d) 0).newOrder r).becomeReady r p)).inkSync r)))) ∧
    (∀ (src : Nat), s.credHold r = false → s.poolFree r ≠ 0 → ((List.range 41).map fun i => ((s.ink r).nextSrc + i) % 41).find?
        (fun x => decide (s.credit r x < creditWindow x)) = some src →
      exec (.creditGrant r) s = .next (((s.incWrap (INK_CREDIT.adr r src) INK_CREDIT.GRANT 1).setInk r
        { s.ink r with nextSrc := (src + 1) % 41 }).inkSync r))

/-- Writes to INK_DECR by their OP (R184, R212, R216, R219) and the decrement queue (R184, R185): a decrement waits in the
queue, or in the bridge when the queue is full or another write waits there; OP 0b01 and 0b10 act after the decrements that wait
before them (R69). At the head a decrement lowers an armed counter, counts early on a free one, and makes its task ready at zero;
on a ready or running one it raises its event; the entry that frees goes to a waiting successor decrement, else to a held write,
and in every 32nd cycle to the held write first. A held write has its effect, and is answered where its request waits. A join takes
the next reservoir entry (R205). -/
def Obligations.DecrementsQueueAndReachTheirCounters : Prop :=
  ∀ (s : State) (r : RegionId),
    let reg (c : Nat) := INK_CTR.adr r c
    let count (c : Nat) := s.rf (reg c) INK_CTR.COUNT
    let line := inkDecrAddr r
    let q := (s.ink r).decq
    (∀ (src : SrcId) (c : BitVec 14) (a : BitVec 12) (w : BitVec 30), s.wayOpen src line →
      ((s.ink r).held.any fun h => h.src = src) = false →
      -- a write that joins the queue, and one that the bridge holds
      let queued (i : Instr) (op : DecrOp) : Prop :=
        exec i s = .next ((s.drawn.setInk r { s.ink r with decq := q ++ [(c.toNat, op)] }).inkSync r)
      let held (i : Instr) (word : Nat) : Prop := ∃ h : HeldWr, h.src = src ∧ h.line = line ∧ h.en = 15 ∧
        bits h.data 0 32 = word ∧ h.answer = none ∧
        exec i s = .next (s.drawn.setInk r { s.ink r with held := (s.ink r).held ++ [h] })
      let room := q.length < 128 ∧ (s.ink r).held = []
      let none_ := 128 ≤ q.length ∨ (s.ink r).held ≠ []
      (a = 0 → exec (.inkDecrDecrement r src c a) s = .next s.drawn) ∧
      (a ≠ 0 → (room → queued (.inkDecrDecrement r src c a) (.amount a.toNat)) ∧
        (none_ → held (.inkDecrDecrement r src c a) (a.toNat + 2 ^ 14 * c.toNat))) ∧
      (q ≠ [] → (room → queued (.inkDecrClearEarly r src c) .clear ∧ queued (.inkDecrAbandon r src c) .abandon) ∧
        (none_ → held (.inkDecrClearEarly r src c) (2 ^ 30 + 2 ^ 14 * c.toNat) ∧
          held (.inkDecrAbandon r src c) (2 ^ 31 + 2 ^ 14 * c.toNat))) ∧
      (q = [] → exec (.inkDecrClearEarly r src c) s = .next (if s.ctrState r c.toNat = 0 then s.drawn.wf (reg c.toNat) INK_CTR.COUNT 0
          else s.drawn.raise 0x0303 (704 + r.val) c.toNat 0x80000001 (s.ctrTask r c.toNat)) ∧
        exec (.inkDecrAbandon r src c) s = .next (if s.ctrState r c.toNat = 1 ∨ s.ctrState r c.toNat = 2
          then s.drawn.abortTask r (s.rf (reg c.toNat) INK_CTR.POOL) 3
          else s.drawn.raise 0x0303 (704 + r.val) c.toNat 0x80000002 (s.ctrTask r c.toNat))) ∧
      exec (.inkDecrReservedOp r src w) s = .next (s.drawn.raise 0x0304 (704 + r.val) (3 * 2 ^ 30 + w.toNat) 0 0)) ∧
    (∀ h hs, (s.ink r).held = h :: hs →
      let done := ((s.setInk r { s.ink r with held := hs }).devLine h.src h.line h.kind h.en h.data).inkSync r
      let needs := h.line = line ∧ bits h.en 0 4 = 15 ∧ s.decrNeeds r (bits h.data 0 32) = true
      (needs → 128 ≤ q.length → exec (.inkDecrHeld r) s = .next s) ∧
      (needs → bits h.data 30 2 = 0 → q.length < 128 → h.answer = none → exec (.inkDecrHeld r) s = .next
        (((s.setInk r { s.ink r with held := hs, decq := q ++ [(bits h.data 14 14, .amount (bits h.data 0 12))] }).inkSync
          r).inkSync r)) ∧
      (¬ needs ∨ q.length < 128 →
        (h.answer = none → exec (.inkDecrHeld r) s = .next done) ∧
        (∀ a, h.answer = some a → exec (.inkDecrHeld r) s = .next
          (if (done.outst.any fun x => x.src = h.src && x.tag = h.tag && x.addr / 64 = a / 64) = true
            then done.respond h.src h.tag a stOk (28 + r) [] else done)))) ∧
    (∀ (c : Nat) (op : DecrOp) (rest : List (Nat × DecrOp)) (same : Bool), q = (c, op) :: rest →
      let k := s.ink r
      let join := same && k.half
      let v := s.setInk r { k with decq := rest, orders := if join then k.orders else k.orders + 1, half := !join,
                                   applied := if join then k.applied else k.applied + 1 }
      let applied (u : State) : Prop := exec (.decrementApply ⟨r, same⟩) s = .next ((((if (u.ink r).applied % 32 = 0 ∧ (u.ink r).half
        then u.heldTake r else u).succRefill r).heldTake r).inkSync r)
      (∀ a, op = .amount a → a ≠ 0 →
        (s.ctrState r c = 0 → count c + a ≤ 4095 → applied (v.wf (reg c) INK_CTR.COUNT (count c + a))) ∧
        (s.ctrState r c = 0 → 4095 < count c + a →
          applied ((v.wf (reg c) INK_CTR.COUNT 4095).raise 0x0302 (704 + r.val) c (count c + a - 4095) 0)) ∧
        (s.ctrState r c = 1 → a < count c → applied (v.wf (reg c) INK_CTR.COUNT (count c - a))) ∧
        (s.ctrState r c = 1 → a = count c → applied (v.becomeReady r (s.rf (reg c) INK_CTR.POOL))) ∧
        (s.ctrState r c = 1 → count c < a → applied
          ((v.raise 0x0302 (704 + r.val) c (a - count c) 0).becomeReady r (s.rf (reg c) INK_CTR.POOL))) ∧
        (2 ≤ s.ctrState r c → applied (v.raise 0x0303 (704 + r.val) c a (v.ctrTask r c)))) ∧
      (op = .clear → applied (v.decrClear r c)) ∧ (op = .abandon → applied (v.decrAbandon r c))) ∧
    (∀ (p : Nat) (ps : List Nat) (e : PoolEnt), (s.ink r).joinWait = p :: ps → s.poolEnt r p = some e →
      ((s.ink r).res.length < 256 ∨ taskKey e.desc = s.rf (INK_FLOW.adr r (taskFlow e.desc)) INK_FLOW.NEXT) →
      exec (.joinTakeReservoir r) s = .next ((((s.setInk r { s.ink r with joinWait := ps }).claim r p e.desc).joinProceed
        r p).inkSync r))

/-- Dispatch (R192 to R202): the longest idle unit that a ready task admits takes it, a core by its dispatch crossing and an
interrupt; the core loads the dispatch and runs; a task two levels above a running one pre-empts it, whose registers are saved
and later restored. -/
def Obligations.TasksDispatchPreemptAndRestore : Prop :=
  ∀ (s : State) (r : RegionId) (n : CoreId),
    let st := s.xing (dispatchXing n).key
    let c := s.core n
    (s.preparing = false →
      (∀ (u p : Nat) (e : PoolEnt), u < 48 → ((s.idleUnits r 0).filter fun u => s.dispatchable r u).findSome?
          (fun u => (s.taskFor r u 0).map fun e => (u, e)) = some (u, p, e) →
        exec (.taskDispatch r 0) s = .next (((s.takeTask r u p e false).valueSend (dispatchXing (48 * r + u))
          (dispatchValue e.desc)).pulse (interruptXing (48 * r + u)) 0 0)) ∧
      (∀ (p q u : Nat) (e : PoolEnt) (rest : List (Nat × PoolEnt)), p < 8 → u < 48 → (∀ m, p < m → m < 8 → s.readyList r m 0 = []) →
        s.readyList r p 0 = (q, e) :: rest → (s.idleUnits r 0).all (fun x => !s.dispatchable r x) = true →
        s.preemptTarget r (taskPri e.desc) e.desc = some u →
        s.runningPri r u + 2 ≤ taskPri e.desc ∧ exec (.preemption r) s =
          .next (((s.takeTask r u q e false).valueSend (dispatchXing (48 * r + u)) (dispatchValue e.desc)).pulse
            (interruptXing (48 * r + u)) 0 0))) ∧
    (st.fresh = true → c.irq = true → c.run = .idle ∨ c.run = .restoring → exec (.dispatchTake n) s =
      .next ((s.setXing (dispatchXing n).key { st with fresh := false }).setCore n { c with
        arch := loadDispatch c.arch n st.dst, run := .running, irq := false,
        tasks := sput c.tasks c.depth (c.serial + 1) 0, serial := c.serial + 1 })) ∧
    (st.fresh = true → c.irq = true → c.run = .running → s.inRepeat n = false → s.handling n = false → s.atBoundary n = true →
      exec (.dispatchTake n) s =
        .next ((s.flush n).setCore n { (s.flush n).core n with run := .saving, irq := false })) ∧
    (c.run = .saving → c.rloads.all (fun l => l.dead) = true → st.fresh = true →
      let v := s.ownWrite (saveArea n c.depth) (saveBytes c.arch n (s.clusterCycle (n / 8)))
      exec (.preemptSaveDone n) s = .next ((v.setXing (dispatchXing n).key { st with fresh := false }).setCore n { v.core n with
        arch := loadDispatch (v.core n).arch n st.dst, run := .running, depth := (v.core n).depth + 1,
        tasks := sput (v.core n).tasks ((v.core n).depth + 1) ((v.core n).serial + 1) 0, serial := (v.core n).serial + 1 })) ∧
    (c.run = .restoring → c.depth ≠ 0 → (s.inkUnit (n / 48) (n % 48)).tasks.length = c.depth → s.dispatchPending n = false →
      (s.dispatchable (n / 48) (n % 48) = true → s.rb (INK_UNIT.adr (n / 48) (n % 48)) INK_UNIT.UNAVAIL = false →
        s.taskFor (n / 48) (n % 48) (s.runningPri (n / 48) (n % 48) + 2) = none) →
      let v := (s.ownRead (saveArea n (c.depth - 1)) 32).2
      exec (.taskRestore n) s = .next (v.setCore n { v.core n with
        arch := loadSaved (v.core n).arch n (s.ownRead (saveArea n (c.depth - 1)) 32).1, run := .running,
        depth := (v.core n).depth - 1 }))

/-- Completion (R188, R201, R210, R211): a completed task leaves its unit and its outputs take a completion slot; a completion
that waited takes a slot that frees; a slot's outputs are issued, each local successor as a decrement. -/
def Obligations.CompletionsTakeSlotsAndIssueOutputs : Prop :=
  ∀ (s : State) (r : RegionId), s.slotsUsed r < 32 →
    (∀ (u : Fin 60) (svc : Word) (t : UnitTask) (st : Nat) (rest : List (Nat × Nat)), (s.inkUnit r u).tasks = [t] →
      (s.inkUnit r u).done = (0, st) :: rest → (s.ink r).compWait = [] → s.lagThreshold r u = 0 →
      let v := s.wf (INK_UNIT.adr r u) INK_UNIT.LASTSVC (satAt 24 svc.toNat)
      v.rb (INK_UNIT.adr r u) INK_UNIT.LAG = false →
      let w := v.setInkUnit r u { v.inkUnit r u with tasks := [], done := rest }
      exec (.taskComplete r u svc) s =
        .next (((if u.val < 48 && (w.inkUnit r u).tasks.isEmpty then w.stampIdle r u else w).completeTask r t.pool st).inkSync r)) ∧
    (∀ (w : CompWait) (ws : List CompWait), (s.ink r).compWait = w :: ws →
      let v := s.setInk r { s.ink r with compWait := ws }
      (∀ p, w = .join p → exec (.completionSlotTake r) s = .next ((v.completeTask r p 0).inkSync r)) ∧
      (∀ u, w = .unit u → exec (.completionSlotTake r) s = .next (v.unitComplete r u))) ∧
    -- any completion of a unit: the slot, or the wait for one
    (∀ (u : Fin 60) (svc : Word), (s.inkUnit r u).done ≠ [] → (s.inkUnit r u).tasks ≠ [] → (s.ink r).compWait.contains (.unit u) = false →
      let v := s.wf (INK_UNIT.adr r u) INK_UNIT.LASTSVC (satAt 24 svc.toNat)
      let w := if s.lagThreshold r u ≠ 0 ∧ s.lagThreshold r u < svc.toNat then v.becomeLaggard r u svc.toNat else v.unitRecovered r u 1
      exec (.taskComplete r u svc) s = .next (if (w.slotsUsed r < 32 && (w.ink r).compWait.isEmpty) = true then w.unitComplete r u
        else w.setInk r { w.ink r with compWait := (w.ink r).compWait ++ [.unit u] })) ∧
    -- the outputs of a released record, or of the first slot: its egress post follows its successors
    (∀ (o : OutRec) (os : List OutRec), o.rest = some [] ∨ (o.rest = none ∧ taskNsucc o.desc = 0) →
      let v := if taskEgv o.desc = true then (s.busWrite (28 + r) 0x120000 (State.postBytes o)).2 else s
      ((s.ink r).released = o :: os → exec (.completionSlotDrain r) s =
        .next ((v.setInk r { v.ink r with released := (v.ink r).released.eraseIdx 0 }).inkSync r)) ∧
      ((s.ink r).released = [] → (s.ink r).slots = o :: os → exec (.completionSlotDrain r) s =
        .next ((v.setInk r { v.ink r with slots := (v.ink r).slots.eraseIdx 0 }).inkSync r))) ∧
    (∀ (o : OutRec) (os : List OutRec) (e : Nat), (s.ink r).released = [] → (s.ink r).slots = o :: os → taskEgv o.desc = false →
      o.rest = some [some e] → bits e 28 2 = 0 → bits e 12 2 = 0 → bits e 0 12 ≠ 0 → bits e 30 2 = r → (s.ink r).decq.length < 128 →
      let v := s.enqueueDecr r (bits e 14 14) (bits e 0 12)
      exec (.completionSlotDrain r) s = .next ((v.setInk r { v.ink r with slots := (v.ink r).slots.eraseIdx 0 }).inkSync r))

/-- Deadlines, laggards and flows (R207, R209, R213, R214): a task whose deadline has passed is reported once; a unit in service
beyond its class's threshold becomes a laggard, and returns when it has been idle or its LAG is written 1; OPEN and NEXT of a
flow take a write of all bytes, NEXT only while nothing is held. -/
def Obligations.DeadlinesLaggardsAndFlows : Prop :=
  ∀ (s : State) (r : RegionId),
    (∀ (p : Nat) (x : PoolEnt), (s.xing (xkey 52 (28 + r.val) 9 0)).fresh = false → (s.ink r).pool = [(p, some x)] →
      taskDlen x.desc = true → x.late = false → s.deadlineAhead r x.desc < 0 → s.ctrState r (taskCtr x.desc) ≠ 3 →
      exec (.deadlineScan r) s = .next ((s.setPool r p (some { x with late := true })).raise 0x0306 (704 + r.val)
        (taskId x.desc) (taskCtr x.desc) (s.ctrState r (taskCtr x.desc)))) ∧
    (∀ (u : Fin 60) (svc : Word), s.lagThreshold r u ≠ 0 → s.lagThreshold r u < svc.toNat → (s.inkUnit r u).tasks ≠ [] →
      s.rb (INK_UNIT.adr r u) INK_UNIT.LAG = false →
      ((((s.wb (INK_UNIT.adr r u) INK_UNIT.LAG true).raise 0x0308 (704 + r.val) u svc.toNat 0).inkUnit r u).tasks.all
        fun t => !t.staged) = true →
      exec (.laggardThreshold r u svc) s =
        .next ((s.wb (INK_UNIT.adr r u) INK_UNIT.LAG true).raise 0x0308 (704 + r.val) u svc.toNat 0)) ∧
    (∀ (u : Fin 60), s.rb (INK_UNIT.adr r u) INK_UNIT.LAG = true →
      ((s.inkUnit r u).tasks = [] → s.rf (INK_LAGHOLD.adr r) INK_LAGHOLD.HOLD ≠ 0 → exec (.laggardIdleReturn r u) s =
        .next ((s.wb (INK_UNIT.adr r u) INK_UNIT.LAG false).raise 0x0309 (704 + r.val) u 2 0)) ∧
      (∀ src : SrcId, s.wayOpen src (INK_UNIT.adr r u / 64 * 64) → ((s.ink r).held.any fun h => h.src = src) = false → exec (.inkUnitLagClear r u src) s =
        .next ((s.drawn.wb (INK_UNIT.adr r u) INK_UNIT.LAG false).raise 0x0309 (704 + r.val) u 3 0))) ∧
    (∀ (f : Fin 256) (src : SrcId) (w : Word), f ≠ 0 → s.wayOpen src (INK_FLOW.adr r f / 64 * 64) →
      ((s.ink r).held.any fun h => h.src = src) = false →
      let a := INK_FLOW.adr r f
      let v := s.drawn.wb a INK_FLOW.OPEN (bit w.toNat 31)
      (s.rf a INK_FLOW.HELD = 0 → exec (.inkFlowWrite r f src 15 w) s =
        .next (v.wf a INK_FLOW.NEXT (bits w.toNat 0 16))) ∧
      (s.rf a INK_FLOW.HELD ≠ 0 → exec (.inkFlowWrite r f src 15 w) s =
        .next (v.raise 0x0307 (704 + r.val) f (bits w.toNat 0 16) (s.rf a INK_FLOW.NEXT))))

/-! ### Region accelerators (R221 to R267) -/

/-- A job reaches an engine (R197, R224, R266): only its slice may stage one; a staged job runs when the engine has none, ends at
once with BAD_DESC when a descriptor word fails its check (R229), and otherwise, as a decode that keeps a HARQ buffer, claims
the guard of that buffer or waits for it (R245). -/
def Obligations.JobsStageStartAndClaimBuffers : Prop :=
  ∀ (s : State) (r : RegionId) (e : EngineId),
    let st := RA_ENGSTAT.adr r e
    (∀ (src : SrcId) (entry : Addr), s.wayOpen src (0x300801000 + 0x1000000 * r.val + 8 * e.val / 64 * 64) →
      (src.val ≠ 28 + r.val → (s.engine r e).staged = none →
        exec (.raIntakeWrite r e src entry) s = .next (s.drawn.raise 0x0404 (State.engSrc r e) src 0 0)) ∧
      (src.val = 28 + r.val → (s.engine r e).staged = none → s.rb st RA_ENGSTAT.UNAVAIL = false → ∃ u : State,
        u = (s.drawn.setEngine r e { s.engine r e with staged := some ⟨entry.toNat, none, none, none⟩ }).wb st RA_ENGSTAT.STAGED true ∧
        exec (.raIntakeWrite r e src entry) s = .next (u.fetchDesc r e))) ∧
    (∀ (j : Job) (d : List Byte), (s.engine r e).running = none → (s.engine r e).staged = some j → j.desc = some d →
      s.rb st RA_ENGSTAT.UNAVAIL = false → (s.ink r).compWait.contains (.unit (48 + e.val)) = false →
      let un := s.inkUnit r (48 + e.val)
      let run := ((((s.setInkUnit r (48 + e.val) { un with tasks := un.tasks.map fun t => { t with staged := false } }).stampIdle
        r (48 + e.val)).setEngine r e { s.engine r e with running := some j, staged := none, pulsed := false, late := none }).wb
        st RA_ENGSTAT.STAGED false).wb st RA_ENGSTAT.BUSY true
      (∀ w, badWord e d = some w → exec (.jobStart r e) s = .next
        (run.drawn.endJob r e j (.err 0x10 w) (Config.freeValue s.free % 2 ^ 32))) ∧
      (badWord e d = none → (isDecode (jType d) && jHarq d) = false → exec (.jobStart r e) s = .next run) ∧
      (badWord e d = none → (isDecode (jType d) && jHarq d) = true →
        (run.guardFree r e (jAux d) = true → exec (.jobStart r e) s =
          .next ((run.setEngine r e { run.engine r e with guard := some (jAux d) }).guardSync r)) ∧
        (run.guardFree r e (jAux d) = false → exec (.jobStart r e) s = .next (run.wb st RA_ENGSTAT.HWAIT true)))) ∧
    (∀ (j : Job) (d : List Byte), (s.engine r e).running = some j → j.desc = some d → s.rb st RA_ENGSTAT.HWAIT = true →
      s.guardFree r e (jAux d) = true → exec (.harqGuardAcquire r e) s = .next
        (((s.setEngine r e { s.engine r e with guard := some (jAux d) }).guardSync r).wb st RA_ENGSTAT.HWAIT false))

/-- The computation of each job type (R231 to R261) runs on the running job of that type, once, when it is due, and its record
is written (R228): with BAD_PARAM and the first word that is out of range when there is one (R229), else with what the
computation reports, which an uncorrectable error of its buffers ends after the requests made by then, with its reports (R346,
R355). -/
def Obligations.EnginesRunJobsOfTheirTypes : Prop :=
  ∀ (s : State) (r : RegionId) (e : EngineId) (ecc : BufErrs) (dur : Word) (j : Job) (d : List Byte),
    (s.engine r e).running = some j → j.desc = some d → j.status = none → (s.engine r e).late = none →
    s.rb (RA_ENGSTAT.adr r e) RA_ENGSTAT.HWAIT = false → s.Inv →
    ∀ (c : Instr) (type : Nat) (f : Option (Nat × Nat) → List Byte → State → JobRes × State),
      (c, type, f) ∈ [
        (Instr.ldpcDecode r e ecc dur, 0x01, State.decodeJob r), (Instr.tbCrcCombine r e ecc dur, 0x02, State.combineJob r),
        (Instr.ldpcEncode r e ecc dur, 0x10, State.encodeJob r), (Instr.polarDecode r e ecc dur, 0x20, State.polarDecJob r),
        (Instr.polarEncode r e ecc dur, 0x21, State.polarEncJob r), (Instr.shortBlockDecode r e ecc dur, 0x22, State.shortJob r),
        (Instr.turboDecode r e ecc dur, 0x30, State.decodeJob r), (Instr.turboEncode r e ecc dur, 0x31, State.encodeJob r),
        (Instr.convDecode r e ecc dur, 0x32, State.convDecJob r), (Instr.convEncode r e ecc dur, 0x33, State.convEncJob r),
        (Instr.softDemap r e ecc dur, 0x40, State.demapJob r), (Instr.mimoDetect r e ecc dur, 0x50, State.detectJob r),
        (Instr.mimoFactor r e ecc dur, 0x51, State.factorJob r)] →
      jType d = type →
      (∀ w, paramFails d = some w → exec c s = .next (s.endJob r e j (.err 0x11 w) dur.toNat)) ∧
      (paramFails d = none →
        let y := f (ecc.bad.map fun n => (n, 0x21)) d s
        exec c s = .next ((y.2.bufReports r ecc (y.1.finish.code = 0x21)).endJob r e j y.1.finish dur.toNat)) ∧
      (∀ t : State, exec c s = .next t →
        (∃ word, (t.engine r e).running = some { j with status := some word } ∧
          (∀ w, paramFails d = some w → word = 0x1100 + w)) ∧
        (t.engine r e).guard = none)

/-- A job whose record is written ends (R226, R227): the engine is free, its completion goes to the slice, and the counts and the
last code and tag show it. A job that reaches its limit ends with TIMEOUT after the requests it
has made by then, unless an error has ended it before (R230, R263); an engine whose record is overdue, or whose
control store fails, stops as a faulting unit (R264). -/
def Obligations.JobsCompleteTimeOutAndEnginesStop : Prop :=
  ∀ (s : State) (r : RegionId) (e : EngineId) (j : Job) (d : List Byte), (s.engine r e).running = some j → j.desc = some d →
    let st := RA_ENGSTAT.adr r e
    let g := s.engine r e
    (∀ word, j.status = some word → g.late = none → s.rb (RA_GSTAT.adr r) RA_GSTAT.PAUSED = false → jEvEn d = false →
      s.pulseHeld (State.jobEvXing r) e = false →
      let v := s.pulse (State.engDoneXing r) e (48 + e.val)
      exec (.jobComplete r e) s = .next (((((v.setEngine r e { v.engine r e with
        running := none, pulsed := false, late := none, statuses := (v.engine r e).statuses ++ [word] }).wb st RA_ENGSTAT.BUSY
        false).incWrap (RA_JOBCNT.adr r e) RA_JOBCNT.COUNT 1).wf st RA_ENGSTAT.LASTCODE (word / 256)).wf st
        RA_ENGSTAT.LASTTAG (jTag d))) ∧
    (∀ done : Nat, j.status = none → g.late = none → s.rf (RA_JOBLIM.adr r e) RA_JOBLIM.LIMIT ≠ 0 →
      let part := if s.rb st RA_ENGSTAT.HWAIT then (JobRes.err 0x30 0, s)
        else match paramFails d with
          | some w => (.err 0x11 w, s)
          | none => ((State.jobWork r (some (done, 0x30)) d s).1.finish, (State.jobWork r (some (done, 0x30)) d s).2)
      let u := if part.1.code = 0x30 then
          part.2.raise 0x0402 (State.engSrc r e) (jTag d) (s.rf (RA_JOBLIM.adr r e) RA_JOBLIM.LIMIT) 0
        else part.2
      let v := u.wb st RA_ENGSTAT.HWAIT false
      exec (.jobTimeout r e ⟨true, done⟩) s = .next (v.setEngine r e { v.engine r e with late := some part.1 }) ∧
      exec (.jobTimeout r e ⟨false, done⟩) s = .next (v.drawn.endJob r e j part.1 (Config.freeValue v.free % 2 ^ 32))) ∧
    (∀ (x : JobRes) (n c : Nat), x.left = some (n, c) → x.stopped = false →
      (n = 0 → x.spend = { x with code := c, detail := 0, left := none }) ∧
      (∀ k, n = k + 1 → x.spend = { x with left := some (k, c) }) ∧
      x.finish = { x with code := c, detail := 0, left := none }) ∧
    (∀ (x : JobRes), x.stopped = true → x.finish = { x with left := none } ∨ x.left = none ∧ x.finish = x) ∧
    (s.rb st RA_ENGSTAT.UNAVAIL = false →
      let idle := (s.setEngine r e { Engine.reset with statuses := g.statuses }).guardSync r
      let off := ((((idle.wb st RA_ENGSTAT.BUSY false).wb st RA_ENGSTAT.STAGED false).wb st RA_ENGSTAT.HWAIT false).wb st
        RA_ENGSTAT.UNAVAIL true).wf (RA_GSTAT.adr r) ⟨e, 1⟩ 1
      let stopped (why : Nat) : State :=
        (((off.setUnavail r (48 + e.val) true).abortUnit r (48 + e.val) 1).raise 0x0403 (State.engSrc r e) (jTag d) why 0).airSync
      (g.late.isSome = true → exec (.engineStop r e) s = .next (stopped 1)) ∧
      exec (.controlStoreError r e) s = .next (stopped 2))

/-! ### Command packets (R301 to R337) -/

/-- A packet is taken whole from the head of its ring or from the service UART and checked in the order of R317: the first
check that fails answers the command, and nothing else changes. A packet that has no turn, slot-class rings going first, changes
nothing (R314); one that waits for TAIL, for the replies before a FENCE or for credits leaves its header with its ring (R311,
R313, R314); one whose PLEN is too large, or whose slots TAIL does not cover within 1 ms, discards its ring up to TAIL and is
answered BAD_LENGTH (R304, R305, R311, R317).

The service UART (R319, R320): a frame whose CRC-32 fails, or whose length no packet has, raises its event; while a command
of the UART is open another is answered BUSY; ECHO answers its parameters; a break changes nothing outside CHRYSALIS. -/
def Obligations.PacketsAndFramesPassTheirChecks : Prop :=
  (∀ (s : State) (op : BitVec 16) (p : Packet) (host : HostData),
     let v := s.hosting host
     let plen := p.hdr.plen.toNat
     (∀ (u : State) (c : Cmd), v.Takes op.toNat p u c →
       (∀ g : Bool × Nat, (u.gates c).find? (fun g => !g.1) = some g →
         exec (.packetTake op p host) s = .next (u.answer c.ticket g.2 []).calm) ∧
       ((u.gates c).all (fun g => g.1) = true → isSlotMsg op.toNat = false → c.hdrOk = false →
         exec (.packetTake op p host) s = .next (u.answer c.ticket sBadParam []).calm) ∧
       ((u.gates c).all (fun g => g.1) = true → op.toNat = 0x0105 → c.hdrOk = true →
         exec (.packetTake op p host) s = .next (u.answer c.ticket sOk c.ws).calm)) ∧
     (∀ n, p.ring = some n →
       let t : Ticket := ⟨some n, op.toNat, p.hdr.tag.toNat, p.hdr.target.toNat, p.hdr.seq.toNat, bit p.hdr.flags.toNat 0⟩
       let waits := v.headWaits n (some (op.toNat, p.hdr))
       ((v.serving && v.ringHas n && v.ringTurn n) = false → exec (.packetTake op p host) s = .next s.calm) ∧
       (v.serving = true → v.ringHas n = true → v.ringTurn n = true →
         ((waits.ringShort n = true ∨ v.ringTakes n op.toNat p.hdr = false) → exec (.packetTake op p host) s = .next waits.calm) ∧
         (waits.ringShort n = false → v.ringTakes n op.toNat p.hdr = true → 4092 < plen → exec (.packetTake op p host) s =
           .next (((((v.headWaits n none).turnNext n).seqCheck n p.hdr.seq.toNat).setSqHead n (v.ring n).tail).answer t
             sBadLength []).calm)) ∧
       (waits.ringShort n = true ↔ plen ≤ 4092 ∧ ((v.ring n).tail + 2 ^ 16 - v.sqHead n) % 2 ^ 16 < slotsOf plen)) ∧
     (∀ n : RingId, (s.ring n).waitHdr = some (op.toNat, p.hdr) → s.serving = true →
       (s.ringShort n = true → exec (.tailWaitTimeout n) s =
         .next ((((s.headWaits n none).seqCheck n p.hdr.seq.toNat).setSqHead n (s.ring n).tail).answer
           ⟨some n, op.toNat, p.hdr.tag.toNat, p.hdr.target.toNat, p.hdr.seq.toNat, bit p.hdr.flags.toNat 0⟩ sBadLength [])) ∧
       (s.ringShort n = false → exec (.tailWaitTimeout n) s = .next s)) ∧
     (∀ n m : RingId, s.ringTurn n = true → s.rb (HUB_RINGCTL.adr n) HUB_RINGCTL.SLOT = false →
       s.rb (HUB_RINGCTL.adr m) HUB_RINGCTL.SLOT = true → s.ringReady m = false)) ∧
  (∀ (s : State) (host : HostData), exec .uartBreak s = .next s ∧
     (∀ bytes : List Byte, s.uartOpen = true →
       let v := s.hosting host
       let b := uartUnescape bytes
       let n := b.length
       let body := b.take (n - 4)
       let h := State.hdrOf body
       let c : Cmd := ⟨fieldAt body 0 2, h, bytesWords (body.drop 16), none⟩
       (n < 20 ∨ 16388 < n → exec (.uartFrame bytes host) s = .next (v.raise 0x0604 900 2 n 0).calm) ∧
       (20 ≤ n → n ≤ 16388 → crc32 body ≠ leVal (b.drop (n - 4)) → exec (.uartFrame bytes host) s =
         .next (v.raise 0x0604 900 1 n 0).calm) ∧
       (20 ≤ n → n ≤ 16388 → crc32 body = leVal (b.drop (n - 4)) → n - 20 = 4 * h.plen.toNat →
         (s.uartBusy = true → exec (.uartFrame bytes host) s = .next (v.answer c.ticket sBusy []).calm) ∧
         (s.uartBusy = false → c.op = 0x0105 → (v.gates c).all (fun g => g.1) = true → c.hdrOk = true →
           exec (.uartFrame bytes host) s = .next (v.answer c.ticket sOk c.ws).calm))))

/-- The rings of the host interface: a doorbell moves TAIL or HEAD when it is a possible index, and puts its ring in error with
an event when it is not (R306, R309); EN opens and closes a ring pair (R336); the reply that has waited longest is written,
its slots last to first, with PHASE by its pass and OVFL after a loss (R305, R307, R310), and its interrupt is moderated
(R308). -/
def Obligations.RingsAndRepliesMove : Prop :=
  ∀ (s : State) (n : RingId), s.running = true →
    let g := s.ring n
    let tail := s.cqTail n
    (∀ v : BitVec 16, s.ringEn n = true → s.ringErr n = false →
      let ahead (x y : Nat) : Nat := (x + 2 ^ 16 - y) % 2 ^ 16
      let bad (why : Nat) : State := (s.wb (HUB_RINGSTAT.adr n) HUB_RINGSTAT.ERR true).raise 0x0602 (884 + n.val) why v.toNat 0
      exec (.sqDoorbell n v) s = .next (if ahead g.tail (s.sqHead n) ≤ ahead v.toNat (s.sqHead n) ∧
          ahead v.toNat (s.sqHead n) ≤ s.sqSize n then (s.setRing n { g with tail := v.toNat }).waitSync n else bad 1) ∧
      exec (.cqDoorbell n v) s = .next (if ahead v.toNat g.cqHead ≤ ahead tail g.cqHead
        then s.setRing n { g with cqHead := v.toNat } else bad 2)) ∧
    (∀ v : Word, s.Inv →
      (s.ringEn n = false → 4 ≤ s.rf (HUB_SQBASE.adr n) HUB_SQBASE.LOG2SIZE → s.rf (HUB_SQBASE.adr n) HUB_SQBASE.LOG2SIZE ≤ 12 →
        4 ≤ s.rf (HUB_CQBASE.adr n) HUB_CQBASE.LOG2SIZE → s.rf (HUB_CQBASE.adr n) HUB_CQBASE.LOG2SIZE ≤ 12 →
        ∃ t : State, exec (.ringEnable n v) s = .next t ∧ t.ringEn n = true ∧ t.sqHead n = 0 ∧ t.cqTail n = 0 ∧
          t.ringErr n = false ∧ t.ring n = { Ring.reset with opened := g.opened } ∧ t.reg (HUB_CQLOST.adr n) = 0 ∧
          (∀ m, m ≠ n.val → t.ring m = s.ring m) ∧ t = { s with regs := t.regs, rings := t.rings }) ∧
      (s.ringEn n = true → ∃ t : State, exec (.ringDisable n v) s = .next t ∧ t.ringEn n = false ∧
        t.ring n = { g with waiting := [], waitHdr := none } ∧ t = { s with regs := t.regs, rings := t.rings })) ∧
    (∀ w rest, g.waiting = w :: rest → (w.bytes.length + 63) / 64 ≤ s.cqRoom n → s.hostUp = true → s.Inv →
      s.rf (HUB_RINGCTL.adr n) HUB_RINGCTL.IMOD ≠ 0 → g.imodOpen = false →
      let need := (w.bytes.length + 63) / 64
      let size := s.cqSize n
      let flags := setBits (fieldAt w.bytes 2 1 % 128) 2 1 0 ||| (if g.ovfl then 4 else 0) ||| (if tail / size % 2 = 0 then 128 else 0)
      ∃ t : State, exec (.replyWrite n) s = .next t ∧ t.cqTail n = (tail + need) % 2 ^ 16 ∧
        t.out = ((List.range need).map fun i => Out.hostWrite
          (s.rf (HUB_CQBASE.adr n) HUB_CQBASE.BASE * 4096 + 64 * ((tail + i) % size))
          (((patch w.bytes 2 (leBytes 1 flags)).drop (64 * i)).take 64)) ++ s.out ∧
        t.ring n = { g with waiting := rest, ovfl := false, imodOpen := true, imodPend := false } ∧
        s.rf (HUB_RINGCTL.adr n) HUB_RINGCTL.VEC ∈ t.msiOpen) ∧
    (g.imodOpen = true → exec (.imodIntervalEnd n) s = .next (if g.imodPend
      then (s.setRing n { g with imodPend := false }).msiRaise (s.rf (HUB_RINGCTL.adr n) HUB_RINGCTL.VEC)
      else s.setRing n { g with imodOpen := false }))

/-- Commands of the device (R321, R527, R540): DEV_INFO, MODE_SET, DEV_RESET of the module, a region or a cluster, STATUS_GET
and ECHO, each with its answer and its effect; a parameter out of range is answered BAD_PARAM. -/
def Obligations.DeviceCommandsAnswer : Prop :=
  ∀ (s : State) (p : Packet),
    s.Serving (.devInfo p) 0x0101 p (fun _ _ => True) (fun u c => u.drawn.answer c.ticket sOk
      ([BitVec.ofNat 32 Config.otpPart.toNat, Config.siliconRev, Config.firmwareVersion (u.measure.take 2), State.word u.modid,
        State.word u.mode, State.word (u.rf NV_BOOTSTAT.adr NV_BOOTSTAT.BLEVEL)] ++ leWords 8 u.levelMap.toNat ++
        (u.drawWords 2).1)) ∧
    s.Serving (.statusGet p) 0x0104 p (fun _ _ => True) (fun u c => u.drawn.answer c.ticket sOk
      ([State.word u.mode, State.word (u.rf PW_RSTKIND.adr PW_RSTKIND.KIND), State.word (u.reg TP_DEAD0.adr),
        State.word (u.reg TP_DEAD1.adr), State.word u.timeState, State.word u.monSummary] ++ (u.drawWords 2).1)) ∧
    s.Serving (.echo p) 0x0105 p (fun _ _ => True) (fun u c => u.answer c.ticket sOk c.ws) ∧
    s.Serving (.modeSet p) 0x0102 p (fun _ c => c.w 0 ∉ State.modeNames) (fun u c => u.answer c.ticket sBadParam []) ∧
    s.Serving (.modeSet p) 0x0102 p (fun u c => c.w 0 = mService ∧ u.extSet = false)
      (fun u c => u.answer c.ticket sBadParam []) ∧
    s.Serving (.modeSet p) 0x0102 p (fun u c => c.w 0 ∈ State.modeNames ∧ c.w 0 = u.mode ∧ (c.w 0 = mService → u.extSet = true))
      (fun u c => u.answer c.ticket sOk []) ∧
    s.Serving (.modeSet p) 0x0102 p (fun u c => c.w 0 = mService ∧ u.extSet = true ∧ u.mode ≠ mService)
      (fun u c => (u.answer c.ticket sOk []).enterMode (u.answer c.ticket sOk []).airMode) ∧
    s.Serving (.modeSet p) 0x0102 p (fun u c => c.w 0 = mTest ∧ u.mode ≠ mTest)
      (fun u c => ((u.answer c.ticket sOk []).enterMode mTest).wf PW_MODE.adr PW_MODE.FROM u.mode) ∧
    s.Serving (.modeSet p) 0x0102 p (fun u c => c.w 0 ∈ [mConfigure, mStandby, mDrain] ∧ u.mode ≠ mTest ∧ u.mode ≠ c.w 0)
      (fun u c => (u.answer c.ticket sOk []).enterMode (c.w 0)) ∧
    s.Serving (.modeSet p) 0x0102 p (fun u c => c.w 0 ∈ [mConfigure, mStandby] ∧ u.mode = mTest)
      (fun u c => (u.answer c.ticket sOk []).leaveTest.enterMode (c.w 0)) ∧
    s.Serving (.devResetCmd p) 0x0103 (selWord p 0 2 0) (fun _ _ => True) (fun u c =>
      if c.w 0 &&& 0x1F03 = c.w 0 then ((u.answer c.ticket sOk []).safeMoveAll.gbFlushNow).moduleReset kCmd kCmd
      else u.answer c.ticket sBadParam []) ∧
    s.Serving (.devResetReg p) 0x0103 (selWord p 0 2 1) (fun _ _ => True) (fun u c =>
      if c.w 0 &&& 0x1F03 = c.w 0 ∧ bits (c.w 0) 8 5 < 4 then (u.accept c.ticket).localReset kReg (bits (c.w 0) 8 5) (some c.ticket)
      else u.answer c.ticket sBadParam []) ∧
    s.Serving (.devResetClu p) 0x0103 (selWord p 0 2 2) (fun _ _ => True) (fun u c =>
      if c.w 0 &&& 0x1F03 = c.w 0 ∧ bits (c.w 0) 8 5 < 24 then (u.accept c.ticket).localReset kClu (bits (c.w 0) 8 5) (some c.ticket)
      else u.answer c.ticket sBadParam [])

/-- Settings (R321, R545, R555): SETTING_GET answers the value in force; SETTING_SET puts a value of its range, or with N = 0 the
factory value, in force and has it take effect, and refuses one that is read at boot only or a change of GAIN; SETTING_LIST
answers the settings from an ID on. -/
def Obligations.SettingsAreReadSetAndListed : Prop :=
  ∀ (s : State) (p : Packet),
    let id (c : Cmd) := bits (c.w 0) 0 16
    let n (c : Cmd) := bits (c.w 0) 16 16
    let value (c : Cmd) := if n c = 0 then factory (id c) else c.w 1
    let fits (u : State) (c : Cmd) : Prop := id c ∈ settingIds ∧ n c < 2 ∧ bootOnly (id c) = false ∧
      settingOk (id c) (value c) = true ∧
      ¬ (0x800 ≤ id c ∧ id c < 0x808 ∧ bit (value c) 16 ≠ bit (u.setting (id c)) 16)
    s.Serving (.settingGet p) 0x0201 p (fun _ _ => True) (fun u c =>
      if c.w 0 ∈ settingIds then u.answer c.ticket sOk [State.word (u.setting (c.w 0))] else u.answer c.ticket sBadParam []) ∧
    s.Serving (.settingSet p) 0x0202 p (fun u c => ¬ fits u c) (fun u c => u.answer c.ticket sBadParam []) ∧
    s.Serving (.settingSet p) 0x0202 p (fun u c => fits u c) (fun u c =>
      let v : State := { u with settings := sput u.settings (id c) (value c) (factory (id c)) }
      (if id c = 0x602 then v.ownSync else if id c = 0x608 then v.synceSync
        else if 0x800 ≤ id c ∧ id c < 0x808 then v.aoLoad (id c - 0x800) false
        else if 0x810 ≤ id c ∧ id c < 0x818 then v.aoLoad (id c - 0x810) false
        else if 0x820 ≤ id c ∧ id c < 0x82C then v.monLoad (id c - 0x820) else v).answer c.ticket sOk []) ∧
    s.Serving (.settingList p) 0x0203 p (fun _ _ => True) (fun u c =>
      if id c ≠ 0 then u.answer c.ticket sOk (((settingIds.filter fun i => id c ≤ i).take (if n c = 0 then 2046 else min (n c) 2046)).flatMap
        fun i => [State.word (i + 0x10000), State.word (u.setting i)])
      else u.answer c.ticket sBadParam [])

/-- Links, analog channels and ports (R321, R455, R464, R503 to R505): CP_LINK_SET takes its port down, trains or retrains it at
a rate, or puts it to power-save, and CP_LINK_STATUS answers its registers; AO_SET latches a code directly or slewed and is
BUSY on a channel that another use holds; AO_STEP queues a timed step. -/
def Obligations.LinksAndAnalogChannelsAreCommanded : Prop :=
  ∀ (s : State) (p : Packet),
    let rate (c : Cmd) := bits (c.w 0) 2 1
    let started (u : State) (c : Cmd) := u.mapped.any fun e => cCat e.2.words = 3 && cCport e.2.words = c.tgt && decide (e.2.st ≠ 1)
    let asked (k : Nat) (u : State) (c : Cmd) : State := u.setCp c.tgt { u.cp c.tgt with req := some ⟨k, rate c, c.ticket⟩ }
    let timed (k : Nat) (u : State) (c : Cmd) : State :=
      (asked k u c).setCp c.tgt { (asked k u c).cp c.tgt with rate := rate c }
    let idle (u : State) (c : Cmd) : Prop := c.w 0 < 8 ∧ (u.cp c.tgt).req = none
    let down (u : State) (c : Cmd) : State := ((u.accept c.ticket).cpReqEnd c.tgt sBusy).cpDown c.tgt
    s.Serving (.cpLinkDown p) 0x0503 (selWord p 0 2 0) (fun _ _ => True) (fun u c =>
      if c.w 0 < 8 then (down u c).finish c.ticket sOk [] else u.answer c.ticket sBadParam []) ∧
    s.Serving (.cpLinkTrain p) 0x0503 (selWord p 0 2 1) idle (fun u c =>
      let v := u.accept c.ticket
      let st := v.cpState c.tgt
      if st = 3 ∧ v.cpRate c.tgt = rate c then v.finish c.ticket sOk [] else if st = 3 then (timed 1 v c).cpRetrain c.tgt
      else if st = 0 then (timed 1 v c).setCpState c.tgt 1 else if st = 5 then asked 1 v c else timed 1 v c) ∧
    s.Serving (.cpLinkPowerSave p) 0x0503 (selWord p 0 2 2) idle (fun u c =>
      let v := u.accept c.ticket
      if started u c = true then u.answer c.ticket sBusy []
      else if v.cpState c.tgt = 3 then (v.setCpState c.tgt 5).finish c.ticket sOk []
      else if v.cpState c.tgt = 5 then v.finish c.ticket sOk [] else asked 2 v c) ∧
    s.Serving (.cpLinkTrain p) 0x0503 (selWord p 0 2 1) (fun u c => c.w 0 < 8 ∧ (u.cp c.tgt).req ≠ none)
      (fun u c => u.answer c.ticket sBusy []) ∧
    s.Serving (.cpLinkStatus p) 0x0504 p (fun _ _ => True) (fun u c =>
      let f (x : Fld) : Nat := u.rf (CP_STAT.adr c.tgt) x
      u.answer c.ticket sOk ([State.word (f CP_STAT.STATE + 8 * f CP_STAT.RATE + 16 * f CP_STAT.TXTAB + 32 * f CP_STAT.RXTAB +
        64 * max (f CP_STAT.TXSWP) (f CP_STAT.RXSWP)), State.word (u.reg (CP_DELAY.adr c.tgt))] ++
        (List.range 4).map (fun q => State.word (u.reg (CP_LOAD.adr c.tgt q))) ++
        [State.word (u.reg (CP_CNT.adr c.tgt 1)), State.word (u.reg (CP_CNT.adr c.tgt 2))])) ∧
    let held (u : State) (c : Cmd) : Prop := u.chanNamed c.tgt = true ∨ u.tkOwns c.tgt = true ∨ (u.chan c.tgt).steps ≠ [] ∨
      u.aoFault c.tgt = true ∨ u.safeMoving c.tgt = true ∨ (u.chan c.tgt).clamped = true
    let code (c : Cmd) := bits (c.w 0) 0 16
    let sized (c : Cmd) : Prop := c.w 0 < 2 ^ 17 ∧ c.w 1 < 2 ^ 28
    s.Serving (.aoSetDirect p) 0x0505 (selWord p 16 1 0) (fun u c => sized c ∧ ¬ held u c) (fun u c =>
      let v := u.answer c.ticket sOk []
      if u.mode = mTest ∨ u.mode = mRecovery then v.aoSlew c.tgt (code c) (u.aoProfile c.tgt).1 (u.aoProfile c.tgt).2 false
      else v.aoDirect c.tgt (code c)) ∧
    s.Serving (.aoSetSlewed p) 0x0505 (selWord p 16 1 1) (fun u c => sized c ∧ ¬ held u c) (fun u c =>
      (u.answer c.ticket sOk []).aoSlew c.tgt (code c) (bits (c.w 1) 0 12 + 1) (bits (c.w 1) 12 16 + 1) false) ∧
    s.Serving (.aoSetSlewed p) 0x0505 (selWord p 16 1 1) (fun u c => sized c ∧ held u c) (fun u c => u.answer c.ticket sBusy []) ∧
    s.Serving (.aoStep p) 0x0506 p (fun u c => c.w 0 < 2 ^ 16 ∧ (u.chan c.tgt).steps.length < 32 ∧ u.aoFault c.tgt = false ∧
        u.safeMoving c.tgt = false ∧ u.tkOwns c.tgt = false) (fun u c =>
      let v := u.setChan c.tgt { u.chan c.tgt with steps := (u.chan c.tgt).steps ++ [⟨c.w 0, c.w 1, false, none⟩] }
      (v.aoSync c.tgt).answer c.ticket sOk [])

/-- Time commands (R321, R482, R491, R492): TIME_GET answers extended time and, beside its seconds, the time state
(log entry 17: the place is deduced); TIME_STEP moves it by or to a time, rewrites the
anchor, discards what waits on a time and raises its event; UTC_OFFSET, PTP_CFG and SYNC_SRC set what they name. FH_PORT_CFG
writes its port's address and LN_PORTCFG (R321, R432). -/
def Obligations.TimeAndPortCommandsSetState : Prop :=
  ∀ (s : State) (p : Packet),
    s.Serving (.timeGet p) 0x0601 p (fun _ _ => True) (fun u c =>
      let sec := u.ext / 10 ^ 9
      u.answer c.ticket sOk [State.word (sec % 2 ^ 32), State.word (bits sec 32 16 + 2 ^ 16 * u.timeState),
        State.word (u.ext % 10 ^ 9), State.wordZ u.taiUtc]) ∧
    let good (c : Cmd) : Prop := c.w 0 < 2 ∧ c.w 2 < 2 ^ 16 ∧ c.w 3 < 10 ^ 9
    let bad (u : State) (c : Cmd) : State := u.answer c.ticket sBadParam []
    let moved (u : State) (d : Int) (tk : Bool) : State :=
      let h := u.holdReplicas
      let v : State := { h with ext := (((u.ext : Int) + d) % (2 ^ 48 * 10 ^ 9)).toNat,
                                tkns := if tk then wrapTo 32 ((u.tkns : Int) + d) else u.tkns }
      ((upto 8 (fun c s => s.dropSteps c) v.anchorWrite.stepDropTx)).raise 0x0106 902 (wrapTo 64 d % 2 ^ 32) (wrapTo 64 d >>> 32) 0
    s.Serving (.timeStepRelative p) 0x0602 (selWord p 0 1 0) (fun _ c => good c) (fun u c =>
      let d : Int := sgn 48 (c.w48 1) * 10 ^ 9 + c.w 3
      if d = 0 then u.answer c.ticket sOk [] else (moved u d true).answer c.ticket sOk []) ∧
    s.Serving (.timeStepRelative p) 0x0602 (selWord p 0 1 0) (fun _ c => ¬ good c) bad ∧
    s.Serving (.timeStepAbsolute p) 0x0602 (selWord p 0 1 1) (fun _ c => good c) (fun u c =>
      let d : Int := ((c.w48 1 * 10 ^ 9 + c.w 3 : Nat) : Int) - u.ext
      if u.extSet = true then (moved u d true).answer c.ticket sOk [] else (moved u.setExtSet d false).answer c.ticket sOk []) ∧
    s.Serving (.timeStepAbsolute p) 0x0602 (selWord p 0 1 1) (fun _ c => ¬ good c) bad ∧
    s.Serving (.utcOffset p) 0x0603 p (fun _ _ => True) (fun u c =>
      (State.wf { u with utcSet := true } TK_ANCHOR.adr TK_ANCHOR.TAIUTC (c.w 0)).answer c.ticket sOk []) ∧
    s.Serving (.ptpCfg p) 0x0604 p (fun _ _ => True) (fun u c =>
      let d := bits (c.w 0) 0 8
      let o := u.ptpOf c.tgt
      if c.w 0 < 2 ^ 11 ∧ 24 ≤ d ∧ d ≤ 43 then (u.setPtp c.tgt { (if o.domain = d then o else { Ptp.reset with domain := d }) with
        role := bits (c.w 0) 8 2, twoStep := bit (c.w 0) 10 }).answer c.ticket sOk [] else bad u c) ∧
    s.Serving (.syncSrc p) 0x0605 p (fun _ _ => True) (fun u c =>
      let src := bits (c.w 0) 0 3
      let port := bits (c.w 0) 4 4
      if c.w 0 &&& 0xF7 = c.w 0 ∧ src < 4 ∧ (src = 1 ∨ src = 3 → port < 12) ∧
          (src = 1 → (u.ptpOf port).role = 1 ∨ (u.ptpOf port).role = 3)
      then (u.setSource src (if src = 1 ∨ src = 3 then port else 0)).answer c.ticket sOk [] else bad u c) ∧
    s.Serving (.fhPortCfg p) 0x0501 p (fun _ _ => True) (fun u c =>
      let v := setBits (setBits (setBits (u.reg (LN_PORTCFG.adr c.tgt)) 0 12 (bits (c.w 2) 0 12)) 12 3 (bits (c.w 2) 12 3)) 31 1 (c.w 3)
      if c.w 1 < 2 ^ 16 ∧ c.w48 0 ≠ 0 ∧ c.w 2 < 2 ^ 15 ∧ c.w 3 < 2
      then ((u.setEth c.tgt { u.ethOf c.tgt with mac := c.w48 0 }).busWrite 40 (LN_PORTCFG.adr c.tgt) (leBytes 4 v)).2.answer c.ticket sOk []
      else bad u c)

/-- Memory commands (R321, R342, R358 to R362, R368): SCRUB starts a scrub of its lines, MEM_READ and MEM_WRITE reach the words they
name while DDR is ready, ECC_GET, ECC_CLEAR and RETIRE_GET answer and clear the hub's tables; what is out of range, off, dead or
busy is answered so. -/
def Obligations.MemoryCommandsReachMemories : Prop :=
  ∀ (s : State) (p : Packet) (host : HostData),
    let a (c : Cmd) := c.w48 0
    let lines (c : Cmd) := c.w 2
    let l (u : State) (c : Cmd) : MemLoc := (memLoc u.ddrGiB (a c)).getD ⟨0, 0, 0, 8⟩
    -- the range lies in one memory
    let whole (u : State) (c : Cmd) : Prop := c.w 1 < 2 ^ 16 ∧ a c % 64 = 0 ∧ lines c ≠ 0 ∧
      State.scrubSame u.ddrGiB (a c) (a c + 64 * lines c - 1) = true
    s.Serving (.scrub p) 0x0701 p (fun u c => whole u c ∧ u.scrub = none ∧ ((l u c).kind = 8 → u.ddrBusy = false))
      (fun u c => (u.accept c.ticket).scrubStart (a c) (lines c) (l u c) c.ticket) ∧
    s.Serving (.scrub p) 0x0701 p (fun u c => whole u c ∧ u.scrub ≠ none) (fun u c => u.answer c.ticket sBusy []) ∧
    (∀ (u : State) (c : Cmd), s.calm.Takes 0x0701 p u c → ∀ st, (u.gates c).find? (fun g => !g.1) = some (false, st) →
      exec (.scrub p) s = .next (u.answer c.ticket st []).calm) ∧
    -- the gates of SCRUB: its lines lie in a memory that is off, or dead
    (∀ (u : State) (c : Cmd), c.op = 0x0701 → whole u c →
      (u.tgtOff c = true ↔ (∃ d, islandDom (l u c).island = some d ∧ u.domOn d = false) ∨
        (0x100000000 ≤ a c ∧ a c < 0x100000000 + 192 * 0x100000 ∧
          u.domOn ((a c - 0x100000000) / 0x100000 / 8 * 11 + 1 + (a c - 0x100000000) / 0x100000 % 8) = false)) ∧
      u.tgtDead c = u.deadIsl (l u c).island) ∧
    s.Serving (.scrub p) 0x0701 p (fun u c => lines c = 0 ∧ c.w 1 < 2 ^ 16 ∧ a c % 64 = 0 ∧ u.scrub = none)
      (fun u c => u.acceptFinish c.ticket sOk (List.replicate 7 0)) ∧
    s.Serving (.eccGet p) 0x0702 p (fun _ _ => True) (fun u c =>
      if c.w 0 < 9 then u.answer c.ticket sOk ([State.word (u.reg (HUB_CECNT.adr (c.w 0))), State.word (u.reg (HUB_UECNT.adr (c.w 0))),
        State.word (u.reg (HUB_ECCDROP.adr (c.w 0)))] ++ ((List.range 32).filter fun i => u.eccTaken (c.w 0) i).flatMap fun i =>
          [State.word (u.reg (eccEnt (c.w 0) i 0)), State.word (u.reg (eccEnt (c.w 0) i 1))])
      else u.answer c.ticket sBadParam []) ∧
    s.Serving (.eccClear p) 0x0703 p (fun _ _ => True) (fun u c =>
      if c.w 0 < 9 then (u.eccClear (c.w 0)).answer c.ticket sOk [] else u.answer c.ticket sBadParam []) ∧
    s.Serving (.retireGet p) 0x0704 p (fun _ _ => True) (fun u c => u.answer c.ticket sOk
      (State.word u.retired.length :: u.retired.flatMap fun e => [State.word (e.1 % 2 ^ 32), State.word (e.1 >>> 32)])) ∧
    (∀ (u : State) (c : Cmd), (s.hosting host).Serves 0x0705 p u c →
      let n := lines c
      (c.w 1 < 2 ^ 16 → a c % 4 = 0 → 1 ≤ n → n ≤ 1023 →
        (u.memBusy (a c) (4 * n) = true → exec (.memRead p host) s = .next (u.answer c.ticket sBusy []).calm) ∧
        (u.memBusy (a c) (4 * n) = false → ∀ (bs : List Byte) (v : State), u.busRead 40 (a c) (4 * n) = (none, bs, v) →
          exec (.memRead p host) s = .next (v.answer c.ticket sOk (bytesWords bs)).calm)) ∧
      (a c % 4 ≠ 0 ∨ n = 0 ∨ 1023 < n → exec (.memRead p host) s = .next (u.answer c.ticket sBadParam []).calm)) ∧
    s.Serving (.memWrite p) 0x0706 p (fun u c => c.w 1 < 2 ^ 16 ∧ a c % 4 = 0 ∧ u.memBusy (a c) (4 * (c.plen - 2)) = false ∧
        (u.memWrite (a c) (wordBytes (c.ws.drop 2))).1 = none)
      (fun u c => (u.memWrite (a c) (wordBytes (c.ws.drop 2))).2.answer c.ticket sOk []) ∧
    -- a line that its target does not take stops MEM_WRITE before any line is written
    (∀ (u : State) (b : Nat) (bs : List Byte) (q : Nat × List Byte),
      (((State.pieces (bs.length / 64 + 2) b bs.length).map fun x => (x.1, (bs.drop (x.1 - b)).take x.2)).find? fun x =>
        (u.memLine x.1 x.2).1.isSome) = some q → u.memWrite b bs = u.memLine q.1 q.2)

/-- Commands of the Guestbook and of power (R321, R519 to R525, R532, R533, R537, R580, R590, R595): GB_FLUSH forces a flush and waits
for it, GB_READ answers records, EVT_ROUTE writes a route, PL_SET and DOMAIN_SET change levels and domains when the carriers of the
region allow it (a power-off drains the bridges with requests in flight before it takes the power, R76), SLEEP_ENTER starts the
vote, ALARM_SET and POWER_GET write and answer registers. -/
def Obligations.GuestbookAndPowerCommandsAct : Prop :=
  ∀ (s : State) (p : Packet),
    let bad (u : State) (c : Cmd) : State := u.answer c.ticket sBadParam []
    s.Serving (.gbFlush p) 0x0801 p (fun _ _ => True) (fun u c =>
      let v := u.accept c.ticket
      { v with gbWait := v.gbWait ++ [(c.ticket, v.gbHead)], gbForced := true }) ∧
    s.Serving (.gbRead p) 0x0802 p (fun _ _ => True) (fun u c =>
      if c.w 1 < 128 then (u.nvScan (nvBase + 0x1000000) 0x400000).answer c.ticket sOk (u.gbRead (c.w 0) (c.w 1)) else bad u c) ∧
    s.Serving (.evtRoute p) 0x0803 p (fun _ _ => True) (fun u c =>
      if c.w 0 < 1536 ∧ c.w 1 < 2 ^ 27 then (u.setReg (GB_ROUTE.adr (c.w 0)) (c.w 1)).answer c.ticket sOk [] else bad u c) ∧
    s.Serving (.alarmSet p) 0x0904 p (fun _ _ => True) (fun u c => (u.setReg PW_ALARM.adr (c.w 0)).aonSend.answer c.ticket sOk []) ∧
    s.Serving (.powerGet p) 0x0905 p (fun _ _ => True) (fun u c => u.answer c.ticket sOk
      ([State.word (u.rf (AO_MON.adr 7) AO_MON.VALUE), State.word (u.rf (AO_MON.adr 11) AO_MON.VALUE)] ++
        ((List.range 28).map fun i => State.word (u.rf (PW_ISLAND.adr i) PW_ISLAND.ACTIVE)) ++
        ((List.range 11).map fun i => State.word (u.reg (PW_DOMSTAT.adr i))))) ∧
    let act (u : State) (c : Cmd) : Nat := u.rf (PW_ISLAND.adr c.tgt) PW_ISLAND.ACTIVE
    let hosts (u : State) (c : Cmd) := u.regionCarriers (islandRegion c.tgt)
    let change (u : State) (c : Cmd) : State :=
      let v := ((u.wf (PW_ISLAND.adr c.tgt) PW_ISLAND.TARGET (c.w 0)).wb (PW_ISLAND.adr c.tgt) PW_ISLAND.CHANGING true).hold c.ticket
      { v with plJobs := v.plJobs ++ [(c.tgt, c.ticket)] }
    s.Serving (.plSet p) 0x0901 p (fun _ c => 6 ≤ c.w 0) bad ∧
    s.Serving (.plSet p) 0x0901 p (fun u c => c.w 0 < 6 ∧ ∃ j ∈ u.plJobs, j.1 = c.tgt) (fun u c => u.answer c.ticket sBusy []) ∧
    s.Serving (.plSet p) 0x0901 p (fun u c => c.w 0 < 6 ∧ (∀ j ∈ u.plJobs, j.1 ≠ c.tgt) ∧ act u c = c.w 0)
      (fun u c => u.answer c.ticket sOk []) ∧
    s.Serving (.plSet p) 0x0901 p (fun u c => c.w 0 < 6 ∧ (∀ j ∈ u.plJobs, j.1 ≠ c.tgt) ∧ act u c ≠ c.w 0 ∧ hosts u c = []) change ∧
    s.Serving (.plSet p) 0x0901 p (fun u c => c.w 0 < 6 ∧ (∀ j ∈ u.plJobs, j.1 ≠ c.tgt) ∧ act u c ≠ c.w 0 ∧ hosts u c ≠ [])
      (fun u c =>
        let fit := u.regionOk (islandRegion c.tgt) (hosts u c) (some (c.tgt, c.w 0)) none
        if fit.1 = true then change fit.2 c else fit.2.answer c.ticket sNoResource []) ∧
    (∀ (i : Fin 28) (t : Ticket), s.plJobs.find? (fun j => j.1 = i.val) = some (i.val, t) →
      exec (.plChangeComplete i) s = .next ((({ s with plJobs := s.plJobs.filter fun j => j.1 ≠ i.val }.wf (PW_ISLAND.adr i)
        PW_ISLAND.ACTIVE (s.rf (PW_ISLAND.adr i) PW_ISLAND.TARGET)).wb (PW_ISLAND.adr i) PW_ISLAND.CHANGING false).finish t sOk [])) ∧
    let named (c : Cmd) : Prop := c.w 0 < 2 ∧ (c.tgt < 322 ∨ (329 ≤ c.tgt ∧ c.tgt < 341) ∨ (342 ≤ c.tgt ∧ c.tgt < 350))
    let free (u : State) (c : Cmd) : Prop := u.domJob = none ∧ u.domUsed c.tgt = false
    s.Serving (.domainPowerOn p) 0x0902 (selWord p 0 1 1) (fun u c => named c ∧ free u c) (fun u c =>
      let ds := (domsAbove c.tgt).filter fun x => !u.domOn x
      let v := ds.foldl (fun s x => s.domUp x) (u.accept c.ticket)
      if ds.filterMap domIsland = [] then v.finish c.ticket sOk []
      else { v with domJob := some ⟨c.ticket, true, ds, ds.filterMap domIsland⟩ }) ∧
    s.Serving (.domainPowerOn p) 0x0902 (selWord p 0 1 1) (fun u c => named c ∧ ¬ free u c) (fun u c => u.answer c.ticket sBusy []) ∧
    s.Serving (.domainPowerOff p) 0x0902 (selWord p 0 1 0) (fun u c => named c ∧ free u c ∧ (u.domFits c.tgt).1 = false)
      (fun u c => (u.domFits c.tgt).2.answer c.ticket sNoResource []) ∧
    s.Serving (.domainPowerOff p) 0x0902 (selWord p 0 1 0) (fun u c => named c ∧ free u c ∧ (u.domFits c.tgt).1 = true)
      (fun u c =>
        let v := (u.domFits c.tgt).2
        let ds := (domsBelow c.tgt).filter fun x => v.domOn x
        if ds = [] then v.acceptFinish c.ticket sOk []
        else ds.foldl (fun s x => s.domQuiesce x) { v.accept c.ticket with domJob := some ⟨c.ticket, false, ds, []⟩ }) ∧
    (∀ j : DomJob, s.domJob = some j → j.on = false →
      let gone : State := { j.doms.foldl (fun (v : State) d => v.domOff d) s with domJob := none }
      (s.domUndrained j.doms = [] → exec .domainDrainEnd s = .next (match j.ticket with
        | some t => gone.finish t sOk []
        | none => gone)) ∧
      (s.domUndrained j.doms ≠ [] → exec .domainDrainEnd s = .next ((s.domUndrained j.doms).foldl (fun v i => v.drainStart i kOn)
        (j.doms.foldl (fun (v : State) d => match domUnit d with
          | some (r, k) => v.abortUnit r k 1
          | none => v) s)))) ∧
    s.Serving (.sleepEnter p) 0x0903 p (fun _ _ => True) (fun u c =>
      let v := u.accept c.ticket
      let w : State := { v with sleep := some ⟨c.ticket, v.voters, 0, false, [], 0, false, false, 0, []⟩ }
      { ((w.setReg PW_SLEEPSTAT.adr 0).wb PW_SLEEPSTAT.adr PW_SLEEPSTAT.PREP true).safeMoveAll with gbForced := true })

/-- Security and update commands (R549 to R568): ATTEST and ID_GET sign and name the device; a challenge is drawn, expires, and
unlocks debug once with a signature under an unrevoked key; IMAGE_EXPORT answers the booted image; KEY_REVOKE burns its fuse; an
update is begun in a mode of its own, its chunks are stored, and it ends committed, failed or aborted in the mode it came from. -/
def Obligations.SecurityAndUpdateCommandsAct : Prop :=
  ∀ (s : State) (p : Packet),
    let bad (u : State) (c : Cmd) : State := u.answer c.ticket sBadParam []
    let boot (u : State) (f : Fld) : Nat := u.rf NV_BOOTSTAT.adr f
    s.Serving (.attest p) 0x0A01 p (fun _ _ => True) (fun u c =>
      let flags := u.rf SEC_STAT.adr SEC_STAT.DBGOPEN + 2 * boot u NV_BOOTSTAT.FACTORY + (if boot u ⟨24, 3⟩ = 0 then 0 else 4) +
        8 * boot u NV_BOOTSTAT.ROMREC
      let fuses := u.fuseCount 0 + 2 ^ 8 * u.fuseCount 1 + 2 ^ 16 * u.fuseCount 2 + 2 ^ 24 * u.rf NV_FUSE.adr ⟨28, 4⟩
      let rep := leBytes 4 0x54544131 ++ leBytes 2 1 ++ leBytes 1 (boot u NV_BOOTSTAT.BLEVEL) ++ leBytes 1 u.mode ++
        leBytes 8 Config.otpSerial.toNat ++ leBytes 4 flags ++ leBytes 4 fuses ++
        leBytes 8 (u.ext / 10 ^ 9 % 2 ^ 48 + 2 ^ 63 * b2n u.extSet) ++ wordBytes c.ws ++ u.measure.flatMap (fun h => beBytes 48 h.toNat)
      u.answer c.ticket sOk (bytesWords (rep ++ beBytes 96 (Config.identitySign (Config.sha384 rep)).toNat))) ∧
    s.Serving (.idGet p) 0x0A02 p (fun _ _ => True) (fun u c => u.answer c.ticket sOk (bytesWords (beBytes 96 Config.identityKey.toNat ++
      leBytes 8 Config.otpSerial.toNat ++ leBytes 4 Config.otpPart.toNat ++ beBytes 108 Config.identityCert.toNat))) ∧
    s.Serving (.dbgChallenge p) 0x0A03 p (fun _ _ => True) (fun u c =>
      let r := BitVec.ofNat 192 (u.draw 192).1
      if u.rf SEC_STAT.adr SEC_STAT.FAILS < 8 then (State.wb { u.drawn with challenge := some r } SEC_STAT.adr SEC_STAT.CHALV true).answer
        c.ticket sOk (bytesWords (State.chalBytes r)) else u.answer c.ticket sBusy []) ∧
    (∀ r, s.challenge = some r → exec .challengeExpire s =
      .next (State.wb { s with challenge := none } SEC_STAT.adr SEC_STAT.CHALV false)) ∧
    let spent (u : State) : State := State.wb { u with challenge := none } SEC_STAT.adr SEC_STAT.CHALV false
    let verifies (u : State) (c : Cmd) (r : BitVec 192) (k : Nat) : Bool := !u.revoked k && (match sget u.keyRecs k none with
      | some key => Config.ecdsaVerify key (Config.sha384 (State.chalBytes r)) (State.sigWords c.ws)
      | none => false)
    s.Serving (.dbgUnlock p) 0x0A04 p (fun u c => u.setting 0xA01 = 0 ∨ u.challenge = none ∨
        ∃ r, u.challenge = some r ∧ ∀ k < 4, verifies u c r k = false)
      (fun u c => ((spent u).wf SEC_STAT.adr SEC_STAT.FAILS (min 8 ((spent u).rf SEC_STAT.adr SEC_STAT.FAILS + 1))).answer
        c.ticket sAuthFail []) ∧
    (∀ k < 4, s.Serving (.dbgUnlock p) 0x0A04 p (fun u c => u.setting 0xA01 ≠ 0 ∧ ∃ r, u.challenge = some r ∧
        verifies u c r k = true ∧ ∀ j < k, verifies u c r j = false)
      (fun u c => ((((spent u).wb SEC_STAT.adr SEC_STAT.DBGOPEN true).wf SEC_STAT.adr SEC_STAT.UNLSLOT k).raise 0x0E06 921 k 0 0).answer
        c.ticket sOk [])) ∧
    s.Serving (.imageExport p) 0x0A05 p (fun _ _ => True) (fun u c =>
      if 1 ≤ c.w 1 ∧ c.w 1 ≤ 4092 ∧ c.w 0 % 4 = 0 ∧ u.rb NV_BOOTSTAT.adr NV_BOOTSTAT.FACTORY = false ∧
          c.w 0 + 4 * c.w 1 ≤ (u.hdrAt u.imageSlot).length
      then (u.nvScan (u.imageSlot + c.w 0) (4 * c.w 1)).answer c.ticket sOk
        (bytesWords (u.nvBytes (u.imageSlot + c.w 0) (4 * c.w 1))) else bad u c) ∧
    let signed (u : State) (c : Cmd) : Bool := match sget u.keyRecs (c.w 0 ^^^ 1) none with
      | some key => Config.ecdsaVerify key (Config.sha384 (leBytes 4 0x4B565231 ++ leBytes 1 (c.w 0) ++ leBytes 1 (c.w 0 ^^^ 1) ++
          List.replicate 10 0)) (State.sigWords (c.ws.drop 1))
      | none => false
    s.Serving (.keyRevoke p) 0x0A06 p (fun _ _ => True) (fun u c =>
      if c.w 0 < 4 ∧ u.revoked (c.w 0) = false ∧ u.revoked (c.w 0 ^^^ 1) = false ∧ u.keyUsed (c.w 0) = false then
        (if signed u c = true then ((u.wf NV_FUSE.adr ⟨28 + c.w 0, 1⟩ 1).raise 0x0E03 921 (c.w 0) 0 0).answer c.ticket sOk []
          else u.answer c.ticket sAuthFail [])
      else bad u c) ∧
    s.Serving (.updBegin p) 0x0C01 p (fun u c => c.w 0 < 3 ∧ c.w 1 % 4 = 0 ∧ 256 ≤ c.w 1 ∧ c.w 1 ≤ (nvSlot (c.w 0) 0).2 ∧
        u.update = none ∧ u.bootRec.cand.getD (c.w 0) none ≠ some (1 - u.bootRec.active.getD (c.w 0) 0)) (fun u c =>
      ((State.enterMode { u with update := some ⟨c.w 0, 1 - u.bootRec.active.getD (c.w 0) 0, c.w 1, u.mode, none⟩ } mUpdate).wf
        PW_MODE.adr PW_MODE.FROM u.mode).answer c.ticket sOk []) ∧
    (∀ x : Update,
      s.Serving (.updChunk p) 0x0C02 p (fun u c => u.update = some x ∧ x.commit = none ∧ c.w 0 % 4 = 0 ∧
          c.w 0 + 4 * (c.plen - 1) ≤ x.total)
        (fun u c => (u.nvWrite (State.slotAddr x.cls x.slot + c.w 0) (wordBytes (c.ws.drop 1))).answer c.ticket sOk []) ∧
      s.Serving (.updCommit p) 0x0C03 p (fun u _ => u.update = some x ∧ x.commit = none) (fun u c =>
        if u.commitParam x = true then { u.accept c.ticket with update := some { x with commit := some c.ticket } }
        else State.enterMode { u.answer c.ticket sBadParam [] with update := none } x.from_) ∧
      s.Serving (.updAbort p) 0x0C04 p (fun u _ => u.update = some x ∧ x.commit = none)
        (fun u c => State.enterMode { u.answer c.ticket sOk [] with update := none } x.from_) ∧
      (∀ t, s.update = some x → x.commit = some t →
        let a := State.slotAddr x.cls x.slot
        let v := s.slotRead x.cls x.slot
        exec .updVerifyComplete s = .next (if v.authOk a x.cls (v.hdrAt a) = true
          then State.enterMode { (v.commitDone x).finish t sOk [] with update := none } x.from_
          else State.enterMode { v.finish t sAuthFail [] with update := none } x.from_)))

/-- Tests (R321, R401 to R403): LOOP_SET switches the loopback of a port or of a lane, PRBS_RUN runs on a lane until its final reply
counts what it compared, and SELFTEST until its tests end. -/
def Obligations.TestCommandsAct : Prop :=
  ∀ (s : State) (p : Packet),
    let kind (c : Cmd) := bits (c.w 0) 0 2
    let lane (x i : Nat) : Nat := LN_LANESTAT.adr (portLane x + i)
    s.Serving (.loopSet p) 0x0B01 p (fun u c => c.w 0 < 8 ∧ bit (c.w 0) 2 = true ∧
        ∀ i < 2, u.rf (lane c.tgt i) LN_LANESTAT.LOOP = 0 ∨ (u.ethOf c.tgt).loop ≠ 0)
      (fun u c => (((u.setEth c.tgt { u.ethOf c.tgt with loop := kind c }).wf (lane c.tgt 0) LN_LANESTAT.LOOP (kind c)).wf (lane c.tgt 1)
        LN_LANESTAT.LOOP (kind c)).answer c.ticket sOk []) ∧
    s.Serving (.loopSet p) 0x0B01 p (fun u c => c.w 0 < 8 ∧ bit (c.w 0) 2 = false ∧ 16 ≤ c.tgt ∧ (u.ethOf ((c.tgt - 16) / 2)).loop = 0)
      (fun u c => (u.wf (LN_LANESTAT.adr c.tgt) LN_LANESTAT.LOOP (kind c)).answer c.ticket sOk []) ∧
    s.Serving (.loopSet p) 0x0B01 p (fun u c => c.w 0 < 8 ∧ bit (c.w 0) 2 = false ∧ 16 ≤ c.tgt ∧ (u.ethOf ((c.tgt - 16) / 2)).loop ≠ 0)
      (fun u c => u.answer c.ticket sBusy []) ∧
    let good (c : Cmd) : Prop := 16 ≤ c.tgt ∧ (c.w 0 = 1 ∨ c.w 0 = 2) ∧ 1 ≤ c.w 1 ∧ c.w 1 < 2 ^ 16
    s.Serving (.prbsRun p) 0x0B02 p (fun u c => good c ∧ sget u.prbs c.tgt none = none)
      (fun u c => { u.accept c.ticket with prbs := sput (u.accept c.ticket).prbs c.tgt (some c.ticket) none }) ∧
    s.Serving (.prbsRun p) 0x0B02 p (fun u c => good c ∧ sget u.prbs c.tgt none ≠ none) (fun u c => u.answer c.ticket sBusy []) ∧
    s.Serving (.prbsRun p) 0x0B02 p (fun _ c => ¬ good c) (fun u c => u.answer c.ticket sBadParam []) ∧
    (∀ (l : Fin 40) (compared errors : BitVec 64) (lost : Bool) (t : Ticket), sget s.prbs l.val none = some t →
      exec (.prbsRunEnd l compared errors lost) s = .next (State.finish { s with prbs := sput s.prbs l.val none none } t sOk
        (leWords 2 compared.toNat ++ leWords 2 errors.toNat ++ [State.word (b2n lost)]))) ∧
    s.Serving (.selftest p) 0x0B03 p (fun _ _ => True) (fun u c =>
      if c.w 0 = 0 then u.answer c.ticket sBadParam [] else if u.selfTest = none
      then { u.accept c.ticket with selfTest := some c.ticket } else u.answer c.ticket sBusy []) ∧
    (∀ (words : List Word) (t : Ticket), s.selfTest = some t → exec (.selftestComplete words) s =
      .next (State.finish { s with selfTest := none } t sOk (words.take 4092)))

/-! ### Carriers and slots (R268 to R300, R322 to R332) -/

/-- Carriers (R268 to R279, R293, R297, R321 to R323, R329): CELL_SETUP takes parameters that keep every rule and fit with the
carriers already set up, CELL_START starts the carrier at the frame it names or at the next boundary 2 ms ahead, CELL_STOP removes
a carrier that has not started at once and a started one when its last slot has ended, and CELL_QUERY answers its state; the start
and the stop of an FDD carrier step its amplifier (R293). -/
def Obligations.CarriersAreSetUpStartedAndStopped : Prop :=
  ∀ (s : State) (p : Packet),
    s.Serving (.cellSetup p) 0x0301 p (fun u c => u.setupOk c.ws = false) (fun u c => u.answer c.ticket sBadParam []) ∧
    s.Serving (.cellSetup p) 0x0301 p (fun u c => u.setupOk c.ws = true ∧ (u.carrier c.tgt ≠ none ∨ u.ddrBusy = true))
      (fun u c => u.answer c.ticket sBusy []) ∧
    s.Serving (.cellSetup p) 0x0301 p (fun u c => u.setupOk c.ws = true ∧ u.carrier c.tgt = none ∧ u.ddrBusy = false)
      (fun u c =>
        let car : Carrier := ⟨c.ws, 1, 0, [], none, (u.costOf c.ws).1, [], [], []⟩
        let fit := (u.costOf c.ws).2.worksheet car
        -- whether the pages that are left to the allocators hold a carrier is free (R367, log entry 21)
        let pages := if fit.2.retiredOwn = true then fit.2.draw 1 else (0, fit.2)
        let v := (pages.2.setCarrier c.tgt (some car)).setTmpls c.tgt c.ws
        let a := CP_CAR.adr (cCport c.ws)
        if fit.1 = true ∧ pages.1 = 0 then
          (if cCat c.ws = 3 then (((v.wf a CP_CAR.FSSEL (State.fsSel c.ws)).wf a CP_CAR.NANTM1 (cNant c.ws - 1)).wb a CP_CAR.VALID
              true).cpAlign (cCport c.ws) (gpsEpoch + cFoffset c.ws)
            else v).answer c.ticket sOk []
        else pages.2.answer c.ticket sNoResource []) ∧
    (∀ k : Carrier,
      let good (u : State) (c : Cmd) : Prop := u.carrier c.tgt = some k ∧ k.st = 1 ∧ bits (c.w 0) 10 21 = 0
      let start (f : State → Cmd → Int) (u : State) (c : Cmd) : State :=
        let x := frameStartAt k.words (f u c)
        ((u.setCarrier c.tgt (some { k with st := 2, start := x })).fddStep k.words true 0 x).answer c.ticket sOk []
      s.Serving (.cellStart p) 0x0302 p (fun u c => good u c ∧ bit (c.w 0) 31 = false) (start fun u c =>
        let g := State.frameAt k.words u.ext + 1
        g + ((bits (c.w 0) 0 10 : Int) - g) % 1024) ∧
      s.Serving (.cellStart p) 0x0302 p (fun u c => good u c ∧ bit (c.w 0) 31 = true ∧ bits (c.w 0) 0 10 = 0) (start fun u _ =>
        State.frameAt k.words ((u.ext : Int) + 2000000 - 1) + 1) ∧
      s.Serving (.cellStart p) 0x0302 p (fun u c => u.carrier c.tgt = some k ∧ k.st ≠ 1) (fun u c => u.answer c.ticket sBadParam []) ∧
      s.Serving (.cellStop p) 0x0303 p (fun u c => u.carrier c.tgt = some k ∧ k.st = 1)
        (fun u c => ((u.accept c.ticket).dropCarrier c.tgt sOk).finish c.ticket sOk []) ∧
      s.Serving (.cellStop p) 0x0303 p (fun u c => u.carrier c.tgt = some k ∧ k.st = 2)
        (fun u c =>
          let e := k.slots.foldl (fun (m : Int) x => max m (x.tair + cSlotNs k.words)) (u.ext : Int)
          ((u.accept c.ticket).setCarrier c.tgt (some { k with st := 3, stop := some (c.ticket, e) })).fddStep k.words false
            (cNdn k.words - 1) e) ∧
      s.Serving (.cellStop p) 0x0303 p (fun u c => u.carrier c.tgt = some k ∧ k.st = 3) (fun u c => u.answer c.ticket sBusy []) ∧
      s.Serving (.cellQuery p) 0x0304 p (fun u c => u.carrier c.tgt = some k ∧ u.extSet = true)
        (fun u c => u.answer c.ticket sOk [State.word k.st, State.word (cRegion k.words), State.word (u.nextSlot k.words).1,
          State.word (u.nextSlot k.words).2]) ∧
      (∀ (n : CarrierId) (t : Ticket) (e : Int), s.carrier n = some k → k.stop = some (t, e) → e ≤ s.ext →
        (∀ x ∈ k.slots, x.isOpen (cSlotNs k.words) s.ext = false) → (∀ ch, State.rampChan k.words = some ch → (s.chan ch).steps = []) →
        exec (.cellStopEffect n) s = .next (s.dropCarrier n sOk))) ∧
    s.Serving (.cellStart p) 0x0302 p (fun u c => u.carrier c.tgt = none) (fun u c => u.answer c.ticket sBadParam []) ∧
    s.Serving (.cellQuery p) 0x0304 p (fun u c => u.carrier c.tgt = none)
      (fun u c => u.drawn.answer c.ticket sOk (0 :: (u.drawWords 3).1))

/-- The downlink measurement of R420: DELAY_MEAS starts a run of requests, each is a timed entry of its port
whose t1 is its launch, and is awaited, and a lost response is waited for no longer; the run ends with its final reply when nothing is left to send or await.

Egress posts (R333 to R335): a post to a queue below 16 becomes a reply in its completion ring, with the packet that it names; one to
a queue of an Ethernet port is written to a push slot and its transmit entry; another, or one whose packet cannot be read, is
discarded with its event. A post that needs a push slot which a held entry names waits, and the posts behind it do not (R335). -/
def Obligations.DelayMeasurementsAndEgressPostsAct : Prop :=
  (∀ (s : State) (p : Packet),
     (∀ k : Carrier,
       let good (u : State) (c : Cmd) : Prop := u.carrier c.tgt = some k ∧ 1 ≤ c.w 0 ∧ c.w 0 ≤ 64 ∧ cCat k.words ≠ 3
       s.Serving (.delayMeas p) 0x0502 p (fun u c => good u c ∧ u.delRun c.tgt = none)
         (fun u c => (u.accept c.ticket).setDelRun c.tgt (some ⟨c.ticket, cFhdl0 k.words, c.w 0, [], [], 0⟩)) ∧
       s.Serving (.delayMeas p) 0x0502 p (fun u c => good u c ∧ u.delRun c.tgt ≠ none) (fun u c => u.answer c.ticket sBusy []) ∧
       (∀ (n : CarrierId) (r : DelayRun), s.carrier n = some k → s.delRun n = some r → r.left ≠ 0 →
         -- how far the launch lies ahead and its queue are free (log entry 14)
         let lead := 20000 + (s.draw 12).1
         let q := (s.draw 12).2.draw 3
         let t1 : Int := (s.ext : Int) + lead + (s.capK (16 + r.port)).natAbs
         let y := (q.2.setDelRun n (some { r with left := r.left - 1, wait := r.wait ++ [(r.next, t1)],
                                                  next := (r.next + 1) % 256 })).delayFrame r.port (cRmac k.words) r.next 0 t1
         exec (.delayMeasSend n) s = .next (y.2.joinQueue r.port q.1
           ⟨some (wrapTo 32 ((s.tkns : Int) + lead)), none, y.1.length, y.1.length, [⟨y.1, none⟩], false⟩))) ∧
     s.Serving (.delayMeas p) 0x0502 p (fun u c => u.carrier c.tgt = none ∨ c.w 0 = 0 ∨ 64 < c.w 0)
       (fun u c => u.answer c.ticket sBadParam []) ∧
     (∀ (n : CarrierId) (id : Byte) (r : DelayRun), s.Inv → s.delRun n = some r →
       let w := r.wait.filter fun x => x.1 ≠ id.toNat
       let v := s.setDelRun n (some { r with wait := w })
       (r.left ≠ 0 ∨ w ≠ [] → exec (.delayResponseTimeout n id) s = .next v) ∧
       (r.left = 0 → w = [] → r.got = [] → exec (.delayResponseTimeout n id) s =
         .next (State.finish (v.drawn.setDelRun n none) r.ticket sOk [0xFFFFFFFF, 0xFFFFFFFF, 0xFFFFFFFF, 0])))) ∧
  (∀ (s : State) (host : HostData) (post : List Byte) (rest : List (List Byte)), s.egress = post :: rest →
     State.egressWaits s post = false →
     let u : State := { s.hosting host with egress := rest }
     let pkt := fieldAt post 0 6
     let q := fieldAt post 6 1
     let drop (v : State) : State := v.raise 0x0605 901 (fieldAt post 8 2) (fieldAt post 10 2) (fieldAt post 6 1)
     (112 ≤ q → exec (.egressPost host) s = .next (drop u).calm) ∧
     (∀ (h : List Byte) (v : State), q < 16 → u.busRead 40 pkt 16 = (none, h, v) →
       (4092 < fieldAt h 8 2 → exec (.egressPost host) s = .next (drop v).calm) ∧
       (∀ (b : List Byte) (w : State), fieldAt h 8 2 ≤ 4092 → v.busRead 40 (pkt + 16) (4 * fieldAt h 8 2) = (none, b, w) →
         exec (.egressPost host) s = .next (w.postReply q (h ++ b) none).calm)) ∧
     (∀ (h : List Byte) (v : State) (e : Nat × Nat), q < 112 → u.busRead 40 pkt 16 = (some e, h, v) →
       exec (.egressPost host) s = .next (drop v).calm) ∧
     (∀ (e d : List Byte) (v w : State), 16 ≤ q → q < 112 → u.busRead 40 pkt 16 = (none, e, v) → State.egressLen e = true →
       v.busRead 40 (pkt + 64) (fieldAt e 6 2) = (none, d, w) →
       let p := (q - 16) / 8
       let k := if (w.ethOf p).egSlot = 14 then 15 else 14
       let x := ((w.setEth p { w.ethOf p with egSlot := k }).busWrite 40 (ethWin p + 16384 * k) d).2
       exec (.egressPost host) s =
         .next ((x.busWrite 40 (0x6101000 + 0x10000 * p + 0x10 * ((q - 16) % 8)) (patch e 4 (leBytes 1 k))).2).calm))

/-- Slot messages (R281 to R284, R315, R325 to R329): one taken in time, on the ring of its carrier, once, with PDUs that keep every
rule, is recorded for its slot, DL_DATA begins its fetch, and UL_CONFIG arms the uplink symbols; one that is late is answered LATE and
its slot remembers it; a fetch through the host window that ends leaves its payloads and is answered with the entries that failed. -/
def Obligations.SlotMessagesAreTakenInTime : Prop :=
  ∀ (s : State) (p : Packet) (k : Carrier),
    let sfn (c : Cmd) := bits (c.w 0) 0 16
    let slot (c : Cmd) := bits (c.w 0) 16 8
    let npdu (c : Cmd) := bits (c.w 0) 24 8
    let air (u : State) (c : Cmd) : Int := airOf k.words (sfn c) (slot c) u.ext
    let rec' (u : State) (c : Cmd) : SlotRec := State.recOf k (air u c) (sfn c) (slot c)
    let pdus (c : Cmd) := (pdusOf (npdu c) (c.ws.drop 2)).getD []
    let entries (c : Cmd) := splitEvery 4 (npdu c) (c.ws.drop 2)
    let named (c : Cmd) : Prop := sfn c < 1024 ∧ slot c < 10 * 2 ^ cMu k.words
    let good (lead : Nat) (u : State) (c : Cmd) : Prop := u.carrier c.tgt = some k ∧ named c ∧ (u.ext : Int) ≤ air u c - lead ∧
      air u c ≤ (u.ext : Int) + 20000000 ∧ c.hdrOk = true ∧ c.w 1 = 0 ∧ k.st = 2 ∧ c.ring = some (cSlotRing k.words)
    let config := cfgLead (cMu k.words)
    let data := dataLead (cMu k.words)
    s.Serving (.dlConfig p) 0x0401 p (fun u c => good config u c ∧ (rec' u c).dlSeen = false ∧
        (∀ q ∈ pdus c, pduOk k.words q true = true) ∧ distinctIds (pdus c) = true ∧ layersOk k.words (pdus c) 16 = true)
      (fun u c => (u.putSlot c.tgt { rec' u c with dl := some (pdus c), dlSeen := true }).answer c.ticket sOk []) ∧
    s.Serving (.dlConfig p) 0x0401 p (fun u c => good config u c ∧ (rec' u c).dlSeen = true) (fun u c => u.answer c.ticket sBadParam []) ∧
    s.Serving (.dlConfig p) 0x0401 p (fun u c => u.carrier c.tgt = some k ∧ named c ∧ air u c - config < (u.ext : Int) ∧
        (rec' u c).dlSeen = false ∧ k.st = 2 ∧ c.hdrOk = true)
      (fun u c => (u.putSlot c.tgt { rec' u c with dlSeen := true }).answer c.ticket sLate []) ∧
    (∀ q : List (List Word),
      let items (c : Cmd) := (entries c).map fun e => (pf e 0 0 16, pf e 1 0 24, pf e 2 0 32 + 2 ^ 32 * pf e 3 0 32)
      s.Serving (.dlData p) 0x0402 p (fun u c => good data u c ∧ (rec' u c).dl = some q ∧ (rec' u c).dataSeen = false ∧
          (∀ e ∈ entries c, dataOk q e = true))
        (fun u c => if npdu c = 0
          then (u.putSlot c.tgt { rec' u c with data := some [], dataSeen := true }).acceptFinish c.ticket sOk [0]
          else (u.putSlot c.tgt { rec' u c with data := some (items c), dataSeen := true, fetch := some c.ticket }).accept c.ticket)) ∧
    s.Serving (.ulConfig p) 0x0403 p (fun u c => good config u c ∧ (rec' u c).ulSeen = false ∧
        (∀ q ∈ pdus c, pduOk k.words q false = true ∧ u.harqOk k.words q = true) ∧ distinctIds (pdus c) = true ∧
        layersOk k.words (pdus c) 8 = true)
      (fun u c =>
        let v := u.putSlot c.tgt { rec' u c with ul := some (pdus c), ulSeen := true, ulTicket := if npdu c = 0 then none else some c.ticket }
        (if npdu c = 0 then v else v.armSlot k.words (air u c) (sfn c) (slot c)).answer c.ticket sOk []) ∧
    s.Serving (.ulConfig p) 0x0403 p (fun u c => u.carrier c.tgt = none) (fun u c => u.answer c.ticket sBadParam []) ∧
    (∀ (n : CarrierId) (f : BitVec 10) (b : Byte) (failed : List (BitVec 16 × Byte)) (host : HostData) (x : SlotRec) (t : Ticket),
      s.carrier n = some k → State.slotRec k (airOf k.words f.toNat b.toNat s.ext) = some x → x.fetch = some t →
      let got := (x.data.getD []).foldl (State.fetchOne (failed.map fun f => (f.1.toNat, f.2.toNat))) ([], [], s.hosting host)
      let bad := got.2.1
      let v := got.2.2.putSlot n { x with fetch := none, payload := got.1, missing := bad.map Prod.fst }
      exec (.dlDataFetchDone n f b ⟨failed, host⟩) s = .next ((bad.foldl (fun s g =>
        s.raise 0x0504 (1024 + n.val) (f.toNat * 2 ^ 16 + b.toNat) g.1 g.2) v).finish t sOk
          (State.word bad.length :: bad.map fun g => State.word g.1)).calm) ∧
    -- an entry that the host serves, and whose bytes the window delivers, brings its payload
    (∀ (failed : List (Nat × Nat)) (e : Nat × Nat × Nat) (got : List (Nat × List Byte)) (bad : List (Nat × Nat)) (u v : State)
        (bs : List Byte), (∀ g ∈ failed, g.1 ≠ e.1) → u.busRead 40 (0x800000000000 + e.2.2) e.2.1 = (none, bs, v) →
      State.fetchOne failed (got, bad, u) e = (got ++ [(e.1, bs)], bad, v))

/-- What a slot sends and moves (R276, R281, R282, R284 to R293, R330, R331): indications go to the ring of the carrier with LATEIND by
their deadline, and the slot indication with the mean frequency offset of the slots kept; control messages go once to the radio of
a started carrier in the air, with the U-plane of the downlink symbols planned for its instants; an amplifier ramp is queued as
timed steps at a downlink edge of the TDD pattern, and the gain of an antenna follows its windows and counts saturations. -/
def Obligations.SlotsSendIndicationsAndSteerTheRadio : Prop :=
  ∀ (s : State) (n : CarrierId) (k : Carrier) (f : BitVec 10) (b : Byte), s.carrier n = some k →
    let tair := airOf k.words f.toNat b.toNat s.ext
    (∀ (op : Fin 6) (late aborted : Bool) (es : List IndEntry) (x : SlotRec) (t : Ticket),
      State.slotRec k tair = some x → x.ulTicket = some t →
      let due := x.tair + cSlotNs k.words + (if op = 0 then 250000 else 500000 : Int)
      let isLate := if op = 4 then prachLate k.words x s.ext late else decide (due < s.ext)
      let offs := if op = 5 then keepOffsets k.foffs x.freqs else k.foffs
      let mean := if offs = [] then Config.freeValue s.free % 2 ^ 32
        else wrapTo 32 (wholeOf (meanOffset offs) (Config.freeValue s.free % 2 = 1))
      let freqs := if op.val ≤ 3 ∧ op.val ≠ 2 then State.entryFreqs k.words x op (s.free + 1) es else x.freqs
      let ws := State.word (f.toNat + b.toNat * 2 ^ 16 + (es.length % 256) * 2 ^ 24) :: State.word (b2n isLate + 2 * b2n aborted) ::
        es.zipIdx.flatMap fun e => s.entryWords k.words x op (s.free + 1 + 3 * e.2) mean e.1
      let sent := x.sent ++ [op.val]
      let v := State.setCarrier { s with free := s.free + 1 + 3 * es.length } n (some { k with foffs := offs })
      exec (.indicationSend n op f b late aborted es) s = .next (((es.foldl (fun v e => v.entryWrite x op e) v).postReply
        (cIndRing k.words) (replyBytes (0x0481 + op) 3 t.tag n sOk t.seq ws) none).putSlot n
        { x with sent := sent, freqs := freqs, ulTicket :=
          if 5 ∈ sent ∧ (4 ∈ sent ∨ ∀ q ∈ x.ul.getD [], pduType q &&& 0xFF0F ≠ 0x0103) then none else some t })) ∧
    -- uplink data reaches its place in host memory before its indication (R332)
    (∀ (v : State) (x : SlotRec) (e : IndEntry) (q : List Word), State.ulPdu x e = some q → e.data ≠ [] →
      (bit (State.entryHead ((e.words.getD 0 0).toNat) 6) 16 = true →
        v.entryWrite x 1 e = v.hostPost (pf q 11 0 32 + 2 ^ 32 * pf q 12 0 32 + e.place) e.data) ∧
      (bit (State.entryHead ((e.words.getD 0 0).toNat) 6) 16 = false → v.entryWrite x 1 e = v)) ∧
    (∀ (stale : Bool) (h : Carrier), s.streamHost k = some h → cCat h.words ≠ 3 → State.runsAt k tair = true →
      (State.recOf k tair f.toNat b.toNat).launched = false → b.toNat < 10 * 2 ^ cMu k.words →
      tair - cTadv k.words - cTcp k.words ≤ (s.ext : Int) →
      let x := State.recOf k tair f.toNat b.toNat
      let lt := tair - cTadv k.words - cTcp k.words
      -- the queue that the messages take is free (log entry 22)
      let q := s.draw 3
      let v := (((q.2.dlControl k h.words x q.1 lt).ulControl n k h.words x q.1 lt stale).slotPlane n k h x).putSlot n
        { x with launched := true }
      exec (.controlMessageLaunch n f b stale) s = .next (if stale = true ∧ cCat h.words = 2 ∧
          s.hasUl k tair f.toNat b.toNat = true then v.raise 0x0501 (1024 + n.val) (f.toNat * 2 ^ 16 + b.toNat) 0 0 else v)) ∧
    -- messages to a radio that is not of category B: one section of all PRBs for a run of symbols, no beam, no weights
    (∀ (v : State) (h : List Word) (x : SlotRec) (q nsym beam : Nat) (lt : Int) (stale : Bool),
      (∀ m, 1 ≤ m → State.beamCuts m (fun _ => some beam) = [(0, m, some beam)] ∧
        v.dlSections h nsym [(0, m, some beam)] = ([State.ctrlSection h 0 0 m nsym beam []], v)) ∧
      (cCat h ≠ 2 → v.hasUl k x.tair x.sfn x.slot = true → v.ulControl n k h x q lt stale =
        (State.symRuns (cSyms k.words) (fun y => v.sendsSym k x.tair x.sfn x.slot y false) fun _ => ()).foldl (fun v r =>
          upto (cUlStreams h) (fun i v => v.ctrlMessage h k.words false x.sfn x.slot i q lt r.1
            [State.ctrlSection h 0 0 (cNprb h) r.2.1 0 []]) v) v)) ∧
    -- sections that fit one frame go in one message, a timed entry of its queue (R419)
    (∀ (v : State) (ws ts : List Word) (dl : Bool) (slot i q : Nat) (lt : Int) (sym : Nat) (secs : List (List Byte)),
      let port := State.streamPort ws dl i
      let id := (cEaxc ws + i) % 65536
      let hdr := ethHeader (cRmac ws) (v.ethOf port).mac (v.portTag port) 0xAEFE
      secs ≠ [] → secs.length ≤ 255 → (secs.map List.length).sum ≤ 9216 - hdr.length - 20 →
      let bs := ethPad (hdr ++ ecpri 2 (beBytes 2 id ++ [0, 0x80] ++ appHeader ts dl f.toNat slot sym ++ [0] ++
        beBytes 1 secs.length ++ [0, 0, 0] ++ secs.flatten))
      v.ctrlMessage ws ts dl f.toNat slot i q lt sym secs = v.joinQueue port q ⟨some (wrapTo 32 ((v.tkns : Int) + (lt - v.ext))),
        some ((v.cyc : Int) + (lt - v.ext)), bs.length, bs.length, [⟨bs, some (hdr.length + 6, if dl then id else 65536 + id)⟩],
        false⟩) ∧
    (∀ (up : Bool) (sym : Fin 14) (ch : Nat), State.rampChan k.words = some ch →
      s.mode ∈ [mService, mHoldover, mDegraded, mDrain] → 2 ≤ k.st → (up = true → k.st ≠ 3) → cDuplex k.words = 1 →
      State.rampEdge k.words up f.toNat b.toNat sym = true →
      let t := symAir k.words tair b.toNat (if up then sym.val else sym.val + 1)
      let ahead (i : Nat) : Int := t + (cRamp k.words up i).2.2 - s.ext
      (100000 ≤ ahead 0 → exec (.rampQueue n up ⟨f, b, sym⟩) s = .next ((List.range (if up then cNup k.words else cNdn k.words)).foldl
        (fun v i => v.queueStep ch (cRamp k.words up i).1 (wrapTo 32 ((v.tkns : Int) + ahead i)) ((cRamp k.words up i).2.1 && !up)) s)) ∧
      (ahead 0 < 100000 → exec (.rampQueue n up ⟨f, b, sym⟩) s = .next s)) ∧
    (cCat k.words = 3 → ∀ (ant : Fin 4), ant.val < cNant k.words →
      let cp := cCport k.words
      let c := s.cp cp
      -- a window of `m` samples from `a` of a portion armed with PFIRST, all of them arrived (R288, R451)
      (∀ (win : Fin 5) (y : SymbolAt) (a m : Nat), 2 ≤ k.st →
        (a, m) = (if win = 0 then State.guardSpan k.words y.sfn.toNat y.slot.toNat y.sym
          else ((State.rxStart k.words y.slot.toNat y.sym + (win.val - 1) * State.gainW k.words y.slot.toNat y.sym) % s.cpCyc cp,
            State.gainW k.words y.slot.toNat y.sym)) →
        (c.arms.any fun x => x.1 = State.rxStart k.words y.slot.toNat y.sym && x.2.2) = true →
        2 * ((c.rxNext + s.cpCyc cp - (a + m) % s.cpCyc cp) % s.cpCyc cp) < s.cpCyc cp →
        let power := s.rxPower cp ant a m
        let target := Config.fullScale * dbRatio (cTgt k.words)
        -- the portion begins with noise floor `x`
        let begun (x : Rat) : CpPort := { c with noise := lset c.noise ant x, frozen := lset c.frozen ant false,
                                                 burst := lset c.burst ant false, clip := lset c.clip ant 0 }
        (cDuplex k.words ≠ 1 → win = 0 → exec (.ulGainWindow n ant win y) s = .next s) ∧
        (cDuplex k.words = 1 → win = 0 → 0 < m → exec (.ulGainWindow n ant win y) s = .next (s.setCp cp (begun power))) ∧
        -- without guard samples the floor of an FDD portion is the lowest window of the one before
        (∀ g : CpPort, (cDuplex k.words = 1 ∨ win ≠ 1) ∧ g = c ∨ cDuplex k.words ≠ 1 ∧ win = 1 ∧ (∃ w, c.windows.getD ant none = some w ∧
            g = begun w) → win ≠ 0 → 0 < m →
          (g.frozen.getD ant false = true → exec (.ulGainWindow n ant win y) s = .next (s.setCp cp g)) ∧
          (g.frozen.getD ant false = false →
            let hit : Bool := decide (g.noise.getD ant 0 * dbRatio (cBthr k.words) < power)
            ∃ (step : Nat) (low : Rat), step ≤ 36 ∧ (∀ d : Int, -8 ≤ d → d ≤ 8 → 0 < power →
                power * ratPow (gainStep1 * gainStep1) d = target → (step : Int) = max 0 (min 36 ((g.gain.getD ant 0 : Int) + d))) ∧
              (low = power ∨ ∃ w, g.windows.getD ant none = some w ∧ low = min w power) ∧
              exec (.ulGainWindow n ant win y) s = .next ((s.drawn.setCp cp { g with
                gain := lset g.gain ant step, burst := lset g.burst ant hit, frozen := lset g.frozen ant (hit || win = 4),
                windows := lset g.windows ant (some low) }).regain cp ant (a + m))))) ∧
      (∀ samples : Word,
        let hit := decide (samples.toNat < 1024 * c.clip.getD ant 0)
        let held := c.gain.getD ant 0 + 64 * b2n (c.burst.getD ant false) + 128 * b2n hit
        let v := (s.setCp cp { c with clipped := lset c.clipped ant hit, clip := lset c.clip ant 0 }).setCarrier n
          (some (State.holdGains k tair ant held))
        exec (.ulPortionEnd n ant f b samples) s =
          .next (if hit then v.raise 0x0502 (1024 + n.val) (f.toNat * 2 ^ 16 + b.toNat) ant 0 else v)))

/-! ### Memories (R338 to R364) -/

/-- DDR comes up and fails (R341 to R345, R527): training that succeeds takes the geometry of the settings into force and ends BOOT;
a channel is ready when it has been initialised, and the last opens the bridges of all and raises ddr-ready; a command that fails
four times is answered DATA_ERROR, a read with poison data, counted and reported; refresh changes no state.

Check bits (R348 to R363): the oldest entry of a merge buffer is written to its word; an error report reaches the counters and the
address table of its unit, and an uncorrectable one in Concierge's own memory halts the module; CLR clears a unit; a scrub writes
corrected words back, counts what it meets, and ends with its reply. -/
def Obligations.DdrAndEccAct : Prop :=
  (∀ (s : State),
     (s.mode = mBoot → s.rst = none → s.rb HUB_RINGGLB.adr HUB_RINGGLB.READY = true → s.setting 0x702 ≠ 0 →
       s.setting 0x703 < State.geometryGiB (s.setting 0x702) →
       let g := upto 4 (fun c v => v.wf (HUB_DDRSTAT.adr c) HUB_DDRSTAT.GEOMETRY (s.setting 0x702)) s
       let v := upto 4 (fun c v => v.wf (HUB_DDRSTAT.adr c) HUB_DDRSTAT.RATE (s.setting 0x701))
         { g with ddrGiB := State.geometryGiB (s.setting 0x702), ddrDev := s.setting 0x703 }
       exec (.ddrTrainComplete none) s = .next (v.bootEnd (v.rb NV_BOOTSTAT.adr NV_BOOTSTAT.FACTORY)) ∧
       ∀ sub : Fin 8, exec (.ddrTrainComplete (some sub)) s = .next (((upto 4 (fun c v => v.setIsl (35 + c)
         { v.isl (35 + c) with iso := false }) (g.wb (HUB_DDRSTAT.adr (sub.val / 2)) HUB_DDRSTAT.TRAINFAIL true)).raise 0x0701 901
           sub.val 0 0).bootEnd true)) ∧
     (∀ ch : Fin 4, exec (.ddrRefresh ch) s = .next s ∧
       (s.ddrGiB ≠ 0 → s.rb (HUB_DDRSTAT.adr ch) HUB_DDRSTAT.READY = false →
         let v := s.wb (HUB_DDRSTAT.adr ch) HUB_DDRSTAT.READY true
         exec (.ddrInitComplete ch) s = .next (if ((List.range 4).all fun c => v.rb (HUB_DDRSTAT.adr c) HUB_DDRSTAT.READY) = true
           then (upto 4 (fun c v => v.setIsl (35 + c) { v.isl (35 + c) with iso := false }) v).raise 0x0702 901 s.ddrGiB 0 0
           else v))) ∧
     (∀ (src : SrcId) (tag : BitVec 8) (line : BitVec 42) (attempts : Fin 5),
       let a := 64 * line.toNat
       let i := 35 + ddrSub a / 2
       (attempts.val < 4 → exec (.ddrAlert src tag line attempts) s = .next s) ∧
       (attempts = 4 → 0x10000000000 ≤ a → a - 0x10000000000 < s.ddrGiB * 0x40000000 → s.Inv →
         s.sourceDead src.val i = false → ∃ u : State, exec (.ddrAlert src tag line attempts) s = .next u ∧
           Out.response src tag.toNat stDataError i (if (s.outst.any fun r => r.src = src.val && r.tag = tag.toNat && r.addr = a &&
             r.write) = true then [] else poisonLine) ∈ u.out ∧ s.out <:+ u.out ∧
           u.rf (HUB_UECNT.adr (ddrSub a / 2)) ⟨0, 32⟩ = satAt 32 (s.rf (HUB_UECNT.adr (ddrSub a / 2)) ⟨0, 32⟩ + 1) ∧
           u.mem = s.mem ∧ u.marks = s.marks))) ∧
  (∀ (s : State), s.Inv →
     (∀ (i : IslandId) (bank : Fin 64) (e : MergeEnt) (es : List MergeEnt) (l : MemLoc), s.mbufOf (64 * i.val + bank.val) = e :: es →
       memLoc s.ddrGiB e.word = some l → e.mask = 0xFF → e.word % 8 = 0 → (∀ x ∈ es, x.word ≠ e.word) →
       ∃ u : State, exec (.mergeBufferFlush i bank) s = .next u ∧ u.mbufOf (64 * i.val + bank.val) = es ∧
         (∀ j < 8, u.byteAt (e.word + j) = BitVec.ofNat 8 (e.data >>> (8 * j))) ∧ u.markAt e.word = none ∧
         (∀ a, a < e.word ∨ e.word + 8 ≤ a → u.byteAt a = s.byteAt a) ∧ u = { s with mbuf := u.mbuf, mem := u.mem, marks := u.marks }) ∧
     (∀ (i : IslandId) (concierge : Bool), i.val ≠ 34 → (s.xing (xkey i.val 34 12 0)).fresh = false →
       exec (.eccReport i concierge) s = .next s) ∧
     (∀ (i : IslandId) (concierge : Bool) (r : EccReport) (rest : List EccReport), (s.eccqOf i).q = r :: rest →
       (i.val = 34 ∨ (s.xing (xkey i.val 34 12 0)).fresh = true) →
       let v := if i.val = 34 then s.setEccq 34 { s.eccqOf 34 with q := rest }
         else s.setXing (xkey i.val 34 12 0) { s.xing (xkey i.val 34 12 0) with fresh := false }
       let counted := ((v.incSat (HUB_CECNT.adr r.unit) ⟨0, 32⟩ r.addCorr).incSat (HUB_UECNT.adr r.unit) ⟨0, 32⟩ r.addUnc).incSat
         (HUB_ECCDROP.adr r.unit) ⟨0, 32⟩ r.addCorr
       (r.uncorr = false → exec (.eccReport i concierge) s =
         .next ((counted.incSat (HUB_CECNT.adr r.unit) ⟨0, 32⟩ r.count).eccTable r)) ∧
       (r.uncorr = true →
         let w := ((((counted.incSat (HUB_UECNT.adr r.unit) ⟨0, 32⟩ r.count).setReg (HUB_UEADDR_LO.adr r.unit) (r.addr % 2 ^ 32)).setReg
           (HUB_UEADDR_HI.adr r.unit) (2 ^ 31 + b2n r.poison * 2 ^ 30 + r.kind * 2 ^ 16 + r.addr >>> 32)).raiseA 0x0706 (912 + r.unit)
             (r.kind + b2n r.poison * 2 ^ 15) r.addr)
         exec (.eccReport i concierge) s = .next (if concierge = true ∧ r.kind = 6 then w.haltEnter 4 r.kind else w))) ∧
     (∀ (n : Fin 9) (src : SrcId), ∃ u : State, exec (.eccctlClear n src) s = .next u ∧ u.reg (HUB_CECNT.adr n) = 0 ∧
       u.reg (HUB_UECNT.adr n) = 0 ∧ u.reg (HUB_ECCDROP.adr n) = 0 ∧ u.reg (HUB_ECCCTL.adr n) = 0 ∧
       u.reg (HUB_UEADDR_LO.adr n) = 0 ∧ u.reg (HUB_UEADDR_HI.adr n) = 0 ∧ (∀ i < 32, u.eccTaken n i = false) ∧
       u = { s with regs := u.regs, tableFull := u.tableFull }) ∧
     (∀ (i : IslandId) (sc : Scrub) (line : Nat) (l : MemLoc), s.scrub = some sc → sc.next = [(i.val, line)] →
       memLoc s.ddrGiB line = some l → l.kind = 2 → sc.kind = 2 → line % 64 = 0 → (∀ j < 8, s.markAt (line + 8 * j) = none) →
       (∀ k, s.mbufOf k = []) →
       let sc' := { sc with read := min (2 ^ 32 - 1) (sc.read + 8), lines := sc.lines + 1 }
       (line + 64 < sc.hi → exec (.scrubLine i []) s = .next { s with scrub := some { sc' with next := [(i.val, line + 64)] } }) ∧
       (sc.hi ≤ line + 64 → exec (.scrubLine i []) s = .next (State.finish { s with scrub := none } sc.ticket sOk
         (State.scrubWords { sc' with next := [] })))) ∧
     (∀ (i : IslandId) (sc : Scrub) (line : Nat) (l : MemLoc) (p : Nat), s.scrub = some sc → sc.next = [(i.val, line)] →
       memLoc s.ddrGiB line = some l → l.kind = 2 → sc.kind = 2 → line % 64 = 0 → s.markAt line = some (.corrected p) →
       (∀ j, 1 ≤ j → j < 8 → s.markAt (line + 8 * j) = none) → (∀ k, s.mbufOf k = []) → line + 64 < sc.hi →
       ∃ (u : State) (sc' : Scrub), exec (.scrubLine i []) s = .next u ∧ u.scrub = some sc' ∧ u.markAt line = none ∧
         sc'.corrected = min (2 ^ 32 - 1) (sc.corrected + 1) ∧ sc'.next = [(i.val, line + 64)] ∧ u.mem = s.mem))

/-! ### Porter (R369 to R396) -/

/-- A channel of a Porter block (R370 to R375, R388, R389): TAIL outside the ring, or on a slot in progress, is refused with its
event; a new ring takes effect at once on an idle channel, else waits; EN starts and stops the channel, which waits for nothing while it is stopped (R388), and CUT ends a chain that
is stopped in it; a release advances TAIL, or is held while the ring is full. A channel that the block lacks is no channel. -/
def Obligations.PorterChannelsTakeWritesAndReleases : Prop :=
  ∀ (s : State) (b : BlockId) (ch : Fin 32) (src : SrcId), s.Inv →
    (chanOk b ch = false → ∀ v w, exec (.ptTailWrite b ch src v) s = .fault .illFormed ∧
      exec (.ptRingbaseWrite b ch src w) s = .fault .illFormed) ∧
    (chanOk b ch = true → s.wayOpen src (PT_TAIL.adr b ch / 64 * 64) →
      let st := PT_CHSTAT.adr b ch
      let n := s.ptAlen b ch
      let h := s.ptHead b ch
      let ctl := s.reg (PT_CHCTL.adr b ch)
      (∀ v : Word, let t := bits v.toNat 0 12
        (n < 2 ∨ n ≤ t ∨ (t = h ∧ (s.ptRuns b ch = true ∨ s.ptInChain b ch = true)) → exec (.ptTailWrite b ch src v) s =
          .next ((s.drawn.wb st PT_CHSTAT.TAILERR true).raise 0x0801 (ptEvSrc b ch) v.toNat h n)) ∧
        (2 ≤ n → t < n → t ≠ h ∨ (s.ptRuns b ch = false ∧ s.ptInChain b ch = false) → s.rb st PT_CHSTAT.PEND = false →
          let u := s.drawn.wf (PT_TAIL.adr b ch) PT_TAIL.TAIL t
          exec (.ptTailWrite b ch src v) s = .next (if u.ptIdle b ch = true then u.wb st PT_CHSTAT.PAUSED false else u)) ∧
        (4096 < bits v.toNat 0 13 → exec (.ptRinglenWrite b ch src v) s = .next (s.drawn.raise 0x0804 (ptEvSrc b ch) v.toNat 0 0)) ∧
        (bits v.toNat 0 13 ≤ 4096 → s.ptIdle b ch = false → exec (.ptRinglenWrite b ch src v) s =
          .next ((s.drawn.wf (PT_RINGLEN.adr b ch) PT_RINGLEN.RLEN (bits v.toNat 0 13)).wb st PT_CHSTAT.PEND true)) ∧
        (bits v.toNat 0 13 ≤ 4096 → s.ptIdle b ch = true → ∃ u : State, exec (.ptRinglenWrite b ch src v) s = .next u ∧
          u.ptAlen b ch = bits v.toNat 0 13 ∧ u.ptHead b ch = 0 ∧
          (u.pchan b ch).base = 32 * s.rf (PT_RINGBASE.adr b ch) PT_RINGBASE.BASE ∧
          u = { s.drawn with regs := u.regs, pchans := u.pchans })) ∧
      (∀ v : BitVec 64, s.ptIdle b ch = false → exec (.ptRingbaseWrite b ch src v) s =
        .next ((s.drawn.wf (PT_RINGBASE.adr b ch) PT_RINGBASE.BASE (bits v.toNat 5 43)).wb st PT_CHSTAT.PEND true)) ∧
      (∀ v : BitVec 64, s.ptIdle b ch = true → ∃ u : State, exec (.ptRingbaseWrite b ch src v) s = .next u ∧
        (u.pchan b ch).base = 32 * bits v.toNat 5 43 ∧ u.ptHead b ch = 0 ∧ u.ptCur b ch = 32 * bits v.toNat 5 43 ∧
        u = { s.drawn with regs := u.regs, pchans := u.pchans }) ∧
      (bit ctl 30 = false →
        (∃ u : State, exec (.ptChannelEnable b ch src) s = .next u ∧ u.rb (PT_CHCTL.adr b ch) PT_CHCTL.EN = true ∧
          (∀ x, x ≠ PT_CHCTL.adr b ch → u.reg x = s.reg x) ∧ u = { s.drawn with regs := u.regs }) ∧
        (∃ u : State, exec (.ptChannelDisable b ch src) s = .next u ∧ u.rb (PT_CHCTL.adr b ch) PT_CHCTL.EN = false ∧
          u.reg st = (s.wb st PT_CHSTAT.PAUSED false).reg st ∧
          (∀ x, x ≠ PT_CHCTL.adr b ch → x ≠ st → u.reg x = s.reg x) ∧ u = { s.drawn with regs := u.regs })) ∧
      (s.rb (PT_CHCTL.adr b ch) PT_CHCTL.EN = false → s.ptInChain b ch = true → s.rb st PT_CHSTAT.PEND = false →
        (s.pchan b ch).desc = none →
        ∃ u : State, exec (.ptChainCut b ch src) s = .next u ∧ u.ptHead b ch = (h + 1) % max 1 n % 2 ^ 12 ∧ u.ptInChain b ch = false ∧
          u.mem = s.mem ∧ u.out = s.out)) ∧
    (∀ ch' : Fin 32, let k := sget s.relIn ch'.val 0
      let v : State := { s with relIn := sput s.relIn ch'.val (k - 1) 0 }
      let n := s.ptAlen 24 ch'
      let t := (s.ptTail 24 ch' + 1) % n
      (k = 0 → exec (.porterRelease ch') s = .next s) ∧
      (k ≠ 0 → 2 ≤ n → t ≠ s.ptHead 24 ch' → exec (.porterRelease ch') s = .next (v.wf (PT_TAIL.adr 24 ch') PT_TAIL.TAIL t)) ∧
      (k ≠ 0 → n < 2 ∨ t = s.ptHead 24 ch' → s.rf (PT_RELHELD.adr 24 ch') PT_RELHELD.COUNT < 0xFFFF → exec (.porterRelease ch') s =
        .next (v.incSat (PT_RELHELD.adr 24 ch') PT_RELHELD.COUNT 1)))

/-- A descriptor (R371, R374, R376 to R387, R390 to R393): it is read from the ring or the chain and checked; one that fails is
marked BAD; one that passes moves its bytes once by its RMODE, sends its pulse, is counted, and gives way to the next of its chain
or of the ring. A failed access makes it BAD with its phase and STATUS, and one whose target its
channel may not use sends no pulse (R386). -/
def Obligations.PorterDescriptorsRun : Prop :=
  ∀ (s : State) (b : BlockId) (ch : Fin 32) (host : HostData), chanOk b ch = true →
    let c := s.pchan b ch
    let st := PT_CHSTAT.adr b ch
    let cur := s.ptCur b ch
    (s.rb (PT_CHCTL.adr b ch) PT_CHCTL.EN = true → s.ptRuns b ch = false → s.ptInChain b ch = true ∨ s.ptEmpty b ch = false →
      s.pulseHeld (State.ptXing b) ch = false → b.val = 24 ∨ s.sleep = none →
      ∀ (d : List Byte) (v : State), (s.hosting host).busRead (ptSrc b ch) cur 32 = (none, d, v) →
        let w := (v.wb st PT_CHSTAT.PAUSED false).setRun b ch true
        (v.ptPaused b d = true → exec (.descriptorStart b ch host) s =
          .next ((s.hosting host).wb st PT_CHSTAT.PAUSED true).calm) ∧
        (descCheck b d = 0 → v.ptPaused b d = false → dMode d = 0 ∨ dLen d = 0 ∨ v.stagingUsed b < 2 →
          exec (.descriptorStart b ch host) s = .next (w.setPchan b ch { w.pchan b ch with desc := some ⟨cur, d, false, none, 0⟩ }).calm) ∧
        (descCheck b d ≠ 0 → v.ptPaused b d = false → exec (.descriptorStart b ch host) s = .next ((w.setPchan b ch { w.pchan b ch with
          desc := some ⟨cur, d, false, some (0x90 + descCheck b d), 0⟩ }).descBad b ch cur (0x90 + descCheck b d) 0).calm)) ∧
    -- a descriptor that cannot be read
    (s.rb (PT_CHCTL.adr b ch) PT_CHCTL.EN = true → s.ptRuns b ch = false → s.ptInChain b ch = true ∨ s.ptEmpty b ch = false →
      s.pulseHeld (State.ptXing b) ch = false → b.val = 24 ∨ s.sleep = none →
      ∀ (e : Nat × Nat) (d : List Byte) (v : State), (s.hosting host).busRead (ptSrc b ch) cur 32 = (some e, d, v) →
        exec (.descriptorStart b ch host) s =
          .next (((v.wb st PT_CHSTAT.PAUSED false).ptError b ch cur 0 0).advanceHead b ch).calm) ∧
    (∀ p : PDesc, c.desc = some p → p.moved = false → p.bad = none → dLen p.bytes ≠ 0 →
      ∀ (i : Instr) (mode : Nat) (f : State → Nat → List Byte → State.Moved),
        (i, mode, f) ∈ [(Instr.descCopy b ch host, 0, State.moveCopy), (Instr.descInterleave b ch host, 1, State.moveInterleave),
          (Instr.descDeinterleave b ch host, 2, State.moveDeinterleave), (Instr.descWordsToPlanes b ch host, 3, State.movePlanes),
          (Instr.descPlanesToWords b ch host, 4, State.moveWords)] → dMode p.bytes = mode →
        let r := f (s.hosting host) (ptSrc b ch) p.bytes
        let q : PDesc := match r.2 with
          | none => { p with moved := true }
          | some e => { p with moved := true, bad := some (0x80 + 16 * e.1 + e.2.1), fail := e.2.2 }
        exec i s = .next (r.1.setPchan b ch { r.1.pchan b ch with desc := some q }).calm) ∧
    -- what one line holds is copied to one line; a read that fails leaves nothing written
    (∀ (d bs : List Byte) (v : State), dSfix d = false → dDfix d = false → dLen d ≠ 0 → dSrc d % 64 + dLen d ≤ 64 → dDst d % 64 + dLen d ≤ 64 →
      s.busRead (ptSrc b ch) (dSrc d) (dLen d) = (none, bs, v) → bs.length = dLen d →
      s.moveCopy (ptSrc b ch) d = State.mvWrite (v, none) (ptSrc b ch) (dDst d) bs) ∧
    -- a write that is one request: within a half line, or a whole line
    (∀ (v : State) (a : Nat) (bs : List Byte), bs ≠ [] → a % 64 + bs.length ≤ 32 ∨ (32 ≤ a % 64 ∧ a % 64 + bs.length ≤ 64) ∨
        (a % 64 = 0 ∧ bs.length = 64) →
      State.mvWrite (v, none) (ptSrc b ch) a bs = ((v.busWrite (ptSrc b ch) a bs).2,
        (v.busWrite (ptSrc b ch) a bs).1.map fun x => (3, x.1, x.2))) ∧
    (∀ (d bs : List Byte) (v : State) (e : Nat × Nat), dSfix d = false → dLen d ≠ 0 → dSrc d % 64 + dLen d ≤ 64 →
      s.busRead (ptSrc b ch) (dSrc d) (dLen d) = (some e, bs, v) → s.moveCopy (ptSrc b ch) d = (v, some (2, e.1, e.2))) ∧
    (∀ (k m e : Nat) (streams : List (List Byte)), streams.length = k → (∀ x ∈ streams, x.length = m * e) →
      (∀ i < k, deinterleave k m e i (interleave k m e streams) = streams.getD i []) ∧
      (∀ i < k, ∀ j < m, ((interleave k m e streams).drop ((j * k + i) * e)).take e = ((streams.getD i []).drop (j * e)).take e)) ∧
    (∀ (k n : Nat) (bs : List Byte), (k = 8 ∨ k = 16) → n % 8 = 0 → bs.length = n * (k / 8) →
      (∀ x < n, ∀ q < k, bit (fieldAt (planeOf k n q bs) (x / 8) 1) (7 - x % 8) = bit (fieldAt bs (x * (k / 8)) (k / 8)) q) ∧
      wordsOf k n ((List.range k).map fun q => planeOf k n q bs) = bs) ∧
    (∀ p : PDesc, c.desc = some p → p.bad.isSome = true ∨ p.moved = true ∨ dLen p.bytes = 0 →
      let s1 := match p.bad with
        | some x => if p.moved = true then s.descBad b ch p.addr x p.fail else s
        | none => s
      let silent : Prop := evTargetOk b p.bytes = false ∨ (p.bad.isSome = true ∧ dHoldBad p.bytes = true)
      let own : Prop := dEvKind p.bytes = 1 ∧ b.val < 24 ∧ dEvReg p.bytes = b.val / 6
      let sent : Option (Nat × Nat) × State :=
        if silent then (none, s1)
        else if own ∨ dEvKind p.bytes = 3 then (none, s1.pulse (State.ptXing b) ch (dEvIdx p.bytes))
        else if dEvKind p.bytes = 1 then
          s1.busWrite (ptSrc b ch) (inkDecrAddr (dEvReg p.bytes)) (leBytes 4 (dEvIdx p.bytes * 2 ^ 14 + 1))
        else if dEvKind p.bytes = 2 then (none, s1.triggerPulse b (dEvIdx p.bytes / 16) (dEvIdx p.bytes % 16) 1)
        else (none, s1)
      let told := match sent.1 with
        | some e => sent.2.descBad b ch p.addr (0xC0 + e.1) e.2
        | none => sent.2
      let w := ((told.setPchan b ch { told.pchan b ch with desc := none }).setRun b ch false).incWrap (PT_DONE.adr b ch)
        PT_DONE.COUNT 1
      exec (.descriptorFinish b ch) s = .next (if Sys2Proof.Machine.dNext p.bytes = 0 then w.advanceHead b ch
        else (w.setPtCur b ch (Sys2Proof.Machine.dNext p.bytes)).wb st PT_CHSTAT.INCHAIN true))

/-! ### PCIe (R404 to R409, R581, R616) -/

/-- What the host does to the module (R404 to R408, R581, R616): reads and writes of its BARs and of its
configuration space, its completions and timeouts of the module's reads, the link's coming up and going down, and the resets of the function. -/
def Obligations.HostAccessesAndLinkChangesAct : Prop :=
  ∀ (s : State),
    let st := LN_PCIESTAT.adr
    (∀ (bar : Fin 6) (off : BitVec 28) (n : Fin 17), s.pcieUp = true →
      let read := exec (.hostAccess (.read bar off n)) s
      let place := s.barPlace bar off.toNat (4 * n)
      (s.tlpOk off.toNat (4 * n) = false → read = .next (s.emit (.hostCompletion 1 []))) ∧
      (s.tlpOk off.toNat (4 * n) = true →
        (∀ (a t : Nat) (d : List Byte) (v : State), place = .bus a → s.drawn.lineRead 42 (s.draw 8).1 a (4 * n) = (stOk, t, d, v) →
          read = .next (v.emit (.hostCompletion 0 d))) ∧
        (∀ (a e t : Nat) (d : List Byte) (v : State), e ≠ stOk → place = .bus a →
          s.drawn.lineRead 42 (s.draw 8).1 a (4 * n) = (e, t, d, v) →
          read = .next ((v.emit (.hostCompletion 2 (List.replicate (4 * n) 0xFF))).raiseA 0x0904 855 e a)) ∧
        (∀ o, place = .msix o → read = .next (s.emit (.hostCompletion 0
          ((List.range n).flatMap fun i => leBytes 4 (s.msixWord (o / 4 + i)))))) ∧
        (∀ o, place = .pba o → read = .next (s.emit (.hostCompletion 0
          ((List.range n).flatMap fun i => leBytes 4 (s.pbaWord (o / 4 + i)))))) ∧
        (place = .zero → read = .next (s.emit (.hostCompletion 0 (List.replicate (4 * n) 0)))) ∧
        (place = .none → read = .next (s.emit (.hostCompletion 1 []))))) ∧
    (∀ (bar : Fin 6) (off : BitVec 28) (en : BitVec 64) (d : List Byte),
      let n := d.length
      let write := exec (.hostAccess (.write bar off en d)) s
      (s.tlpOk off.toNat n = false → write = .next s) ∧
      (s.tlpOk off.toNat n = true → ∀ (a t : Nat) (v : State), s.barPlace bar off.toNat n = .bus a →
        s.drawn.lineWrite 42 (s.draw 8).1 (a - a % 64) .part (en.toNat % 2 ^ n * 2 ^ (a % 64)) (leVal d * 2 ^ (8 * (a % 64))) = (stOk, t, v) →
        write = .next v) ∧
      (s.tlpOk off.toNat n = true → ∀ (a e t : Nat) (v : State), e ≠ stOk → s.barPlace bar off.toNat n = .bus a →
        s.drawn.lineWrite 42 (s.draw 8).1 (a - a % 64) .part (en.toNat % 2 ^ n * 2 ^ (a % 64)) (leVal d * 2 ^ (8 * (a % 64))) = (e, t, v) →
        write = .next (v.raiseA 0x0904 855 e a)) ∧
      (s.tlpOk off.toNat n = true → s.barPlace bar off.toNat n = .zero ∨ s.barPlace bar off.toNat n = .none → write = .next s)) ∧
    (∀ (bme mem msix mask : Bool), s.pcieUp = true → ∃ u : State, exec (.hostAccess (.config bme mem msix mask)) s = .next u ∧
      u.bme = bme ∧ u.memEn = mem ∧ u.msixEn = msix ∧ u.msixMask = mask ∧ u.mem = s.mem ∧
      u.rb st LN_PCIESTAT.BME = bme ∧ (bme = true → u.hostReads = s.hostReads) ∧ (bme = false → u.hostReads = [])) ∧
    (∀ c : PcieCtl, (s.pcieUp = false → exec (.hostAccess (.ctl c)) s = .next s) ∧
      (s.pcieUp = true → exec (.hostAccess (.ctl c)) s = .next { s with pcieCtl := c }.msiPending)) ∧
    (∀ (a : Addr) (r : Req), s.hostReadAt a.toNat = some r → s.sourceDead r.src 39 = false →
      let waits := ldrop1 (fun x => x.addr = r.addr) s.hostReads
      -- the next that waits for fewer than 256 to be outstanding is sent (R404)
      let v : State := { s with hostReads := waits, out := match waits[255]? with
        | some x => .hostRead (x.addr - 0x800000000000) :: s.out
        | none => s.out }
      let done (e : Nat) (d : List Byte) : State := (v.answered r.src r.tag r.addr).emit (.response r.src r.tag e 39 d)
      let fail (why : Nat) : State := (done stHostError (List.replicate 64 0xFF)).raiseA 0x0905 855 why r.addr
      exec (.hostCompletionTimeout a) s = .next (fail 2) ∧ (∀ data, exec (.pcieCompletionReceive a true data) s = .next (fail 1)) ∧
      (∀ data : List Byte, data.length = 64 → exec (.pcieCompletionReceive a false data) s = .next (done stOk data))) ∧
    (∀ a : Addr, s.hostReadAt a.toNat = none → exec (.hostCompletionTimeout a) s = .next s ∧
      ∀ (fail : Bool) (data : List Byte), exec (.pcieCompletionReceive a fail data) s = .next s) ∧
    (s.Inv → ∃ u : State, exec (.pcieLinkDown true) s = .next u ∧ u.pcieUp = false ∧ u.rb st LN_PCIESTAT.UP = false ∧
      u.rf st LN_PCIESTAT.WIDTH = 0 ∧ u.hostReads = [] ∧ u.mem = s.mem ∧
      (∀ l < 16, u.rb (LN_LANESTAT.adr l) LN_LANESTAT.LOCK = false) ∧
      ∀ r ∈ s.hostReads, s.sourceDead r.src 39 = false →
        Out.response r.src r.tag stHostError 39 (List.replicate 64 0xFF) ∈ u.out) ∧
    (s.Inv → ∃ u : State, exec (.pcieLinkDown false) s = .next u ∧ u.bme = false ∧ u.rb st LN_PCIESTAT.BME = false ∧
      u.hostReads = [] ∧ u.pcieUp = s.pcieUp ∧ u.mem = s.mem) ∧
    (s.Inv → ∃ u : State, exec .functionLevelReset s = .next u ∧ u.bme = false ∧ u.memEn = false ∧ u.msixEn = false ∧
      u.msixTab = [] ∧ u.msixPba = [] ∧ u.pcieCtl = PcieCtl.initial ∧ u.hostReads = [] ∧ (∀ n < 16, u.ringEn n = false) ∧ u.pcieUp = s.pcieUp ∧ u.mem = s.mem) ∧
    (s.Inv → ∃ u : State, exec .fundamentalReset s = .next u ∧ u.bme = false ∧ u.pcieUp = false ∧ (∀ n < 16, u.ringEn n = false) ∧
      u.mem = s.mem) ∧
    (s.Inv → ∃ u : State, exec .pcieTrainStart s = .next u ∧ (∀ l < 16, u.rb (LN_LANESTAT.adr l) LN_LANESTAT.SIGDET = true) ∧
      u = { s with regs := u.regs }) ∧
    (∀ width speed : Fin 5, s.Inv → ∃ u : State, exec (.pcieLinkUp width speed) s = .next u ∧ u.pcieUp = true ∧
      u.rb st LN_PCIESTAT.UP = true ∧ u.rf st LN_PCIESTAT.WIDTH = 2 ^ width.val ∧ u.rf st LN_PCIESTAT.SPEED = speed.val + 1 ∧
      (s.wakeDrv = true → u.out = .pin 3 true :: s.out) ∧ (s.wakeDrv = false → u.out = s.out) ∧ u.wakeDrv = false ∧
      (∀ l < 2 ^ width.val, u.rb (LN_LANESTAT.adr l) LN_LANESTAT.SIGDET = true ∧ u.rb (LN_LANESTAT.adr l) LN_LANESTAT.LOCK = true ∧
        (s.rb (LN_LANECFG.adr l) LN_LANECFG.AUTO = false →
          u.rf (LN_LANESTAT.adr l) LN_LANESTAT.CTLEACT = s.rf (LN_LANECFG.adr l) LN_LANECFG.CTLE)) ∧
      u = { s with pcieUp := true, regs := u.regs, out := u.out, wakeDrv := u.wakeDrv, free := u.free })

/-! ### Ethernet (R397 to R432) -/

/-- Links and frames of an Ethernet port (R401, R410 to R412, R421 to R426, R432, R484): the link comes up when its lanes lock and goes
down; a frame that is bad is counted and dropped, and one for the port goes to the general group while it has room; push slots and
transmit entries fill the queues; at a frame boundary the chosen head is sent, and a timed frame that is late is dropped. -/
def Obligations.EthernetLinksAndFramesMove : Prop :=
  ∀ (s : State) (p : PortId), s.Inv →
    let cfg := LN_PORTCFG.adr p
    let lane (i : Nat) := LN_LANESTAT.adr (portLane p + i)
    (∀ c0 c1 peer pport : BitVec 4, s.rb cfg LN_PORTCFG.EN = true → s.ethUp p = false →
      (p.val < 8 ∨ s.rb cfg LN_PORTCFG.IML = false ∨ s.rb cfg LN_PORTCFG.PEERV = false ∨ s.rf cfg LN_PORTCFG.PEER = peer.toNat →
        ∃ u : State, exec (.ethLinkUp p c0 c1 peer pport) s = .next u ∧ u.ethUp p = true ∧
        (∀ i < 2, u.rb (lane i) LN_LANESTAT.LOCK = true ∧ u.rf (lane i) LN_LANESTAT.CTLEACT =
          if s.rb (LN_LANECFG.adr (portLane p + i)) LN_LANECFG.AUTO = true then (if i = 0 then c0.toNat else c1.toNat)
          else s.rf (LN_LANECFG.adr (portLane p + i)) LN_LANECFG.CTLE) ∧ u.mem = s.mem ∧
        (p.val < 8 ∨ s.rb cfg LN_PORTCFG.IML = false → u.eth = s.eth) ∧
        -- each lane of an inter-module link sends its marker (R413)
        (8 ≤ p.val → s.rb cfg LN_PORTCFG.IML = true → ∀ i < 2,
          Out.laneMarker (portLane p + i) s.modid p (s.ethOf p).marks ∈ u.out)) ∧
      (8 ≤ p.val → s.rb cfg LN_PORTCFG.IML = true → s.rb cfg LN_PORTCFG.PEERV = true → s.rf cfg LN_PORTCFG.PEER ≠ peer.toNat →
        ∃ u : State, exec (.ethLinkUp p c0 c1 peer pport) s = .next u ∧ u.ethUp p = false ∧
          u.rb (LN_PORTSTAT.adr p) LN_PORTSTAT.PEERBAD = true ∧ u.rf (LN_PORTSTAT.adr p) LN_PORTSTAT.PMODID = peer.toNat)) ∧
    (∃ u : State, exec (.ethLinkDown p) s = .next u ∧ u.ethUp p = false ∧ (∀ i < 2, u.rb (lane i) LN_LANESTAT.LOCK = false) ∧
      u.eth = s.eth ∧ u.mem = s.mem) ∧
    (∀ (f : List Byte) (ok : Bool) (corr : BitVec 16) (unc : Bool), s.ethUp p = true →
      let v := (s.lnCount p 3 corr.toNat).lnCount p 4 (b2n unc)
      let w := v.lnCount p 1 1
      let etype := beVal ((f.drop 12).take 2)
      -- in far-end loopback the lanes send back what they receive (R401)
      let back (x : State) : State :=
        if s.laneLoop p 0 = 3 ∧ s.laneLoop p 1 = 3 then x.emit (.ethFrame p f (!ok || unc)) else x
      (s.rxOff p = true → exec (.frameReceive p f ok corr unc) s = .next s) ∧
      (s.rxOff p = false →
      (unc = true ∨ ok = false ∨ f.length < 60 ∨ 9212 < f.length → exec (.frameReceive p f ok corr unc) s = .next (back (v.lnCount p 2 1))) ∧
      (unc = false → ok = true → 60 ≤ f.length → f.length ≤ 9212 → etype ∉ [0x8100, 0x8808, 0x88F7, 0xAEFE] →
        beVal (f.take 6) = (s.ethOf p).mac ∨ beVal (f.take 6) = 0xFFFFFFFFFFFF →
        let full := (((s.ethOf p).general.map List.length).sum + f.length : Nat)
        (w.rxEn p 31 = true → full ≤ w.generalRoom p → exec (.frameReceive p f ok corr unc) s =
          .next (back ((w.setEth p { w.ethOf p with general := (s.ethOf p).general ++ [f] }).releasePulse (40 + p)
            (w.rf (LN_RXGRP.adr p 31) LN_RXGRP.CHAN)))) ∧
        (w.rxEn p 31 = false ∨ w.generalRoom p < full → exec (.frameReceive p f ok corr unc) s = .next (back (w.lnCount p 11 1)))))) ∧
    (∀ (src : SrcId) (k : Fin 16) (off : BitVec 14) (d : List Byte), 0 < d.length → off.toNat % 64 + d.length ≤ 64 →
      let a := 16384 * k.val + off.toNat
      -- one request, or one for each of the two half lines that it touches
      let requests := if d.length < 64 ∧ off.toNat % 64 < 32 ∧ 32 < off.toNat % 64 + d.length then 2 else 1
      s.wayOpen src (ethWin p + a / 64 * 64) → exec (.pushSlotWrite src p k off d) s =
        .next (d.zipIdx.foldl (fun v x => v.slotByte p (a + x.2) x.1) { s with free := s.free + requests })) ∧
    -- while CHRYSALIS is prepared an entry waits for its port, and its slot is its own (R422, R533)
    (∀ (src : SrcId) (q : Fin 8) (entry : BitVec 128) (sl : Sleep), s.sleep = some sl → sl.committed = false →
      s.wayOpen src ((0x6101000 + 0x10000 * p.val + 0x10 * q.val) / 64 * 64) → exec (.txEntryWrite src p q entry) s =
        .next { s.drawn with sleep := some { sl with held := sl.held ++ [⟨p, q, leBytes 16 entry.toNat, none⟩] } }) ∧
    (∀ (k : Nat) (a : Nat) (x : Byte), a / 16384 = k → s.slotHeld p k = true → s.slotByte p a x = s) ∧
    (∀ (src : SrcId) (q : Fin 8) (entry : BitVec 128), s.preparing = false → s.wayOpen src ((0x6101000 + 0x10000 * p.val + 0x10 * q.val) / 64 * 64) →
      let e := leBytes 16 entry.toNat
      let k := bits (fieldAt e 4 1) 0 4
      let len := fieldAt e 6 2
      let drop := (s.drawn.slotFree p k).incSat (LN_TXQSTAT.adr p q) LN_TXQSTAT.OVF 1
      let room := if p.val < 8 then 786432 else 262144
      (State.txEntryOk p e = false → exec (.txEntryWrite src p q entry) s = .next (drop.raise 0x0906 (ethSrc p) q 1 k)) ∧
      (State.txEntryOk p e = true → bit (fieldAt e 5 1) 0 = false →
        ((s.txqOf p q).length < 256 → s.txUsed p + len ≤ room → exec (.txEntryWrite src p q entry) s =
          .next ((s.drawn.slotFree p k).setTxq p q (s.txqOf p q ++ [⟨if bit (fieldAt e 5 1) 2 then some (fieldAt e 0 4) else none, none,
            len, len, [⟨s.slotData p k len, none⟩], false⟩]))) ∧
        (256 ≤ (s.txqOf p q).length ∨ room < s.txUsed p + len → exec (.txEntryWrite src p q entry) s =
          .next (drop.raise 0x0907 (ethSrc p) q len 0))) ∧
      (State.txEntryOk p e = true → bit (fieldAt e 5 1) 0 = true →
        (sget (s.ethOf p).tmpl (fieldAt e 8 1) none = none → exec (.txEntryWrite src p q entry) s =
          .next (drop.raise 0x0906 (ethSrc p) q 2 k)) ∧
        (∀ t : Tmpl, sget (s.ethOf p).tmpl (fieldAt e 8 1) none = some t → (s.txqOf p q).length < 256 →
          s.txUsed p + len / 48 * prbSize t.compw ≤ room →
          let prbs := (List.range (len / 48)).map fun b => prbPack t.compw ((List.range 24).map fun i =>
            sgn 16 (fieldAt (s.slotData p k len) (48 * b + 2 * i) 2))
          exec (.txEntryWrite src p q entry) s = .next ((s.drawn.slotFree p k).setTxq p q (s.txqOf p q ++
            [⟨if bit (fieldAt e 5 1) 2 then some (fieldAt e 0 4) else none, none, len, len / 48 * prbSize t.compw,
              uPlane t (fieldAt e 0xC 3) (fieldAt e 0xA 2) prbs, false⟩]))))) ∧
    (∀ (q : Fin 8) (e : TxEnt) (es : List TxEnt) (f : TxFrame), s.txOpen p = true → (s.ethOf p).cont = none → s.txqOf p q = e :: es →
      e.frames = [f] → e.started = false → f.seqAt = none →
      let sent (cont : Option (Nat × Option Nat)) (deferred : Nat) : State :=
        ((((s.setEth p { s.ethOf p with
          cont := cont, lineEnd := s.lineFree p + State.lineTime f.bytes, lineLt := e.lt }).lineSend p f.bytes false).setTxq p q es).lnCount
            p 0 1).lnCount p 6 deferred
      -- a frame goes out on the TX pins, back to the receiver of a port in near-end loopback, or both (R401)
      (∀ v : State, v.txLoops p = false → v.txOut p = true → v.lineSend p f.bytes false = v.emit (.ethFrame p f.bytes false)) ∧
      (∀ v : State, v.txLoops p = true → v.txOut p = true →
        v.lineSend p f.bytes false = (v.emit (.ethFrame p f.bytes false)).frameIn p f.bytes true 0 false) ∧
      (∀ v : State, v.txLoops p = true → v.txOut p = false → v.lineSend p f.bytes false = v.frameIn p f.bytes true 0 false) ∧
      (e.lt = none → e.due = none → (List.range 8).reverse.find? (fun q => s.eligible p q) = some q.val →
        exec (.frameStart p false) s = .next (sent none 0)) ∧
      (∀ (lt : Nat) (d : Int), e.lt = some lt → e.due = some d → (∀ x ∈ s.uplane, x.port ≠ p.val ∨ x.queue ≠ q.val) →
        ((s.cyc : Int) < (s.ethOf p).lineEnd → ∀ bad, exec (.scheduledFrameLaunch p q bad) s = .next s) ∧
        ((s.ethOf p).lineEnd ≤ (s.cyc : Int) → s.nextQueue p ≠ some q.val → ∀ bad, exec (.scheduledFrameLaunch p q bad) s = .next s) ∧
        ((s.ethOf p).lineEnd ≤ (s.cyc : Int) → s.nextQueue p = some q.val → 1000 < (s.cyc : Int) - d → ∀ bad, exec (.scheduledFrameLaunch p q bad) s =
          .next (((s.setTxq p q es).incSat TK_DROP.adr TK_DROP.LATE 1).raise 0x090C (ethSrc p) q lt ((s.cyc : Int) - d).toNat)) ∧
        ((s.ethOf p).lineEnd ≤ (s.cyc : Int) → s.nextQueue p = some q.val → (s.cyc : Int) - d ≤ 1000 → oneStepAt f.bytes = none → exec (.scheduledFrameLaunch p q false) s =
          .next (sent (match es with
            | e' :: _ => if e'.lt = some lt then some (q.val, some lt) else none
            | [] => none) (b2n (decide (d < (s.ethOf p).lineEnd) && decide ((s.ethOf p).lineLt ≠ some lt))))) ∧
        ((s.cyc : Int) < d → ∀ bad, exec (.scheduledFrameLaunch p q bad) s = .next s))) ∧
    -- U-plane whose instant has come joins its queue first
    (∀ (q : Fin 8) (x : Plane) (d : Int) (bad : Bool), s.uplane = [x] → x.port = p.val → x.queue = q.val → x.ent.due = some d →
      d ≤ s.cyc → let r := ({ s with uplane := [] } : State).planeFill x
      (r.2.txqOf p q).length < 256 → r.2.txUsed p + r.1.ent.size ≤ (if p.val < 8 then 786432 else 262144) →
      exec (.scheduledFrameLaunch p q bad) s =
        exec (.scheduledFrameLaunch p q bad) (r.2.setTxq p q (r.2.txqOf p q ++ [r.1.ent])))

/-- Receive groups (R420, R427 to R432): a group is enabled while storage is left; an arm takes the next block of its ring; a type 0
message places its PRBs in the armed block of its symbol; a block is released when it is complete or due and freed when it is
consumed; a delay request is answered with the capture of its arrival, and a response is counted. -/
def Obligations.ReceiveGroupsSortAndRelease : Prop :=
  ∀ (s : State) (p : PortId), s.Inv →
    (∀ (src : SrcId) (g : Fin 32) (v : BitVec 64), s.wayOpen src (LN_RXGRP.adr p g / 64 * 64) →
      let a := LN_RXGRP.adr p g
      let w := v.toNat - v.toNat % 2 ^ 14
      let u := (s.drawn.setReg a (w % 2 ^ 32)).setReg (a + 4) ((w >>> 32) &&& 0x83FFFFFF)
      (bit v.toNat 63 = true → g.val < 31 → 8 ≤ p.val ∨ 1048576 < u.rxTotal p g + u.rxBytes p g → exec (.rxGroupWrite src p g v) s =
        .next (s.drawn.raise 0x090B (ethSrc p) g 0 0)) ∧
      (bit v.toNat 63 = false → exec (.rxGroupWrite src p g v) s = .next (if g.val < 31 then u.setRxgrp p g RxGrp.reset else u)) ∧
      (g.val = 31 → exec (.rxGroupWrite src p g v) s = .next u) ∧
      (bit v.toNat 63 = true → g.val < 31 → p.val < 8 → u.rxTotal p g + u.rxBytes p g ≤ 1048576 → s.rxEn p g = false →
        exec (.rxGroupWrite src p g v) s = .next (u.setRxgrp p g RxGrp.reset))) ∧
    (∀ (src : SrcId) (g : Fin 31) (rt : Word) (app : BitVec 24), s.wayOpen src ((0x6103000 + 0x10000 * p.val + 8 * g.val) / 64 * 64) →
      let gr := s.rxgrp p g
      let b : RxBlock := ⟨app.toNat, (s.cyc : Int) + sgn 32 (rt.toNat + 2 ^ 32 - s.tkns), [], 0, 0⟩
      ((∀ x, sget gr.blocks gr.next none = some x → x.st = 2) → exec (.rxArm src p g rt app) s = .next (s.drawn.setRxgrp p g
        { gr with blocks := sput gr.blocks gr.next (some b) none, next := (gr.next + 1) % s.rxNblk p g })) ∧
      (∀ x, sget gr.blocks gr.next none = some x → x.st ≠ 2 → exec (.rxArm src p g rt app) s =
        .next (s.drawn.raise 0x0909 (ethSrc p) g app.toNat 0))) ∧
    (∀ m : List Byte, p.val < 8 → s.ethUp p = true → bit (fieldAt m 7 1) 7 = false → exec (.ecpriIqReceive p m) s = .next (s.lnCount p 8 1)) ∧
    (∀ m : List Byte, p.val < 8 → s.ethUp p = true → bit (fieldAt m 7 1) 7 = true →
      let id := beVal ((m.drop 4).take 2)
      let start := beVal ((m.drop 14).take 2) / 64
      let n := beVal ((m.drop 16).take 2) / 64
      let w := fieldAt m 18 1
      -- sequence numbers count by PC_ID and direction (R415)
      let key := id + 65536 * bits (fieldAt m 8 1) 7 1
      let v := (s.setEth p { s.ethOf p with seqRx := sput (s.ethOf p).seqRx key (some ((fieldAt m 6 1 + 1) % 256)) none }).lnCount p 8
        (match sget (s.ethOf p).seqRx key none with
          | some e => b2n (decide (fieldAt m 6 1 ≠ e))
          | none => 0)
      (∀ i : Nat, (List.range 256).find? (fun i => v.rb (LN_RXPC.adr p i) LN_RXPC.VALID && v.rf (LN_RXPC.adr p i) LN_RXPC.PCID = id) = some i →
        let g := v.rf (LN_RXPC.adr p i) LN_RXPC.GROUP
        let pos := v.rf (LN_RXPC.adr p i) LN_RXPC.POS
        let gr := v.rxgrp p g
        ∀ (j : Nat) (b : RxBlock), v.rxEn p g = true → pos < v.rxNs p g → w = v.rxCompw p g → start + n ≤ v.rxNprb p g → n ≠ 0 →
          20 + n * prbSize w ≤ m.length →
          gr.blocks.find? (fun e => match e.2 with
            | some b => b.app = fieldAt m 8 3 && decide (b.st = 0)
            | none => false) = some (j, some b) →
          let prb (k : Nat) := (m.drop (20 + k * prbSize w)).take (prbSize w)
          let slot (k : Nat) := pos * v.rxNprb p g + (start + k)
          ∃ (b' : RxBlock) (repeats : Nat), b'.prbs = (List.range n).foldl (fun x k => sput x (slot k) (prb k) []) b.prbs ∧
            b' = { b with prbs := b'.prbs } ∧ exec (.ecpriIqReceive p m) s =
              .next ((v.setRxgrp p g { gr with blocks := sput gr.blocks j (some b') none }).lnCount p 10 repeats)) ∧
      ((List.range 256).find? (fun i => v.rb (LN_RXPC.adr p i) LN_RXPC.VALID && v.rf (LN_RXPC.adr p i) LN_RXPC.PCID = id) = none →
        exec (.ecpriIqReceive p m) s = .next (v.lnCount p 9 1))) ∧
    (∀ (g : Fin 31) (i : Nat) (b : RxBlock),
      let gr := s.rxgrp p g
      let total := s.rxNs p g * s.rxNprb p g
      gr.blocks.find? (fun e => match e.2 with
        | some b => b.st = 0 && (b.prbs.length = total || decide (b.rt ≤ (s.cyc : Int)))
        | none => false) = some (i, some b) →
      let missing := total - b.prbs.length
      let v := s.setRxgrp p g { gr with
        blocks := sput gr.blocks i (some { b with st := 1, order := gr.orders }) none, orders := gr.orders + 1 }
      let st := LN_RXBST.adr p g
      let w := ((v.wb st LN_RXBST.TIMED (missing ≠ 0)).wf st LN_RXBST.MISSING missing).wf st LN_RXBST.SYMID (b.app / 256)
      let x := w.releasePulse (40 + p) (w.rf (LN_RXGRP.adr p g) LN_RXGRP.CHAN)
      exec (.rxBlockRelease p g) s = .next (if missing = 0 then x else x.raise 0x090A (ethSrc p) g (b.app / 256) missing)) ∧
    (∀ (src : SrcId) (g : Fin 32), s.wayOpen src ((0x6103400 + 0x10000 * p.val) / 64 * 64) →
      (g.val = 31 → exec (.rxConsume src p g) s = .next (s.drawn.setEth p { s.ethOf p with general := (s.ethOf p).general.drop 1 })) ∧
      (g.val < 31 → s.rxOldest p g = none → exec (.rxConsume src p g) s = .next s.drawn) ∧
      (∀ (i : Nat) (b : RxBlock), g.val < 31 → s.rxOldest p g = some (i, b) → exec (.rxConsume src p g) s = .next (s.drawn.setRxgrp p g
        { s.rxgrp p g with blocks := sput (s.rxgrp p g).blocks i (some { b with st := 2, prbs := [] }) none }))) ∧
    (∀ (seq : Byte) (smac : Addr) (m : List Byte) (t : Int) (v : State), p.val < 8 → s.ethUp p = true → fieldAt m 5 1 = 0 →
      s.takeCapture p seq.toNat = (some t, v) →
      let f := v.delayFrame p smac.toNat (fieldAt m 4 1) 2 t
      exec (.delayRequestReceive p seq smac m) s = .next ((f.2.lineSend p f.1 false).lnCount p 0 1)) ∧
    (∀ (n : CarrierId) (m : List Byte) (r : DelayRun) (id : Nat) (t1 : Int), s.delRun n = some r → fieldAt m 5 1 = 2 → id = fieldAt m 4 1 →
      r.wait.find? (fun w => w.1 = id) = some (id, t1) → 0 < r.left →
      let d := stampVal ((m.drop 6).take 10) - t1 - sgn 64 (beVal ((m.drop 16).take 8)) / 65536
      exec (.delayResponseReceive n m) s = .next (s.setDelRun n (some { r with
        wait := r.wait.filter fun w => w.1 ≠ id, got := r.got ++ [d] })))

/-! ### Carriage (R433 to R464) -/

/-- Links of a Carriage port (R454 to R462): the follower's answer starts training; a step of the training that passes leads to the
next and the last one to run; a step that fails, and a start that takes too long, lead down; lost frames and lost lock retrain; low
margins bring a proposal; an acknowledged proposal is adopted at the flip of its indicator; proposals lapse; power-save ends. -/
def Obligations.CarriageLinksTrainSwapAndResume : Prop :=
  ∀ (s : State) (p : CpId), s.Inv →
    let c := s.cp p
    let st := s.cpState p
    let a := CP_STAT.adr p
    let cfg := CP_CFG.adr p
    -- detection and the end of the wait for run
    (st = 1 → let sent := s.emit (.carriageSymbol p (pilotTones c.syms [0] (s.rb a CP_STAT.TXTAB)))
      let v := (sent.wf a CP_STAT.STATE 2).raise 0x0A04 (cpSrc p) 1 2 0
      exec (.carriageDetect p false) s = .next sent ∧ exec (.carriageDetect p true) s = .next (v.setCp p { c with step := 1 })) ∧
    (st ≠ 1 → ∀ answer, exec (.carriageDetect p answer) s = .next s) ∧
    (st = 1 ∨ st = 2 → let v := (((s.setCpState p 0).wb a CP_STAT.LOCK false).wb a CP_STAT.TXSWP false).wb a CP_STAT.RXSWP false
      ∃ u : State, exec (.trainTimeout p) s = .next u ∧
        (c.req = none → u = v.setCp p { c with theirs := none, ours := none, step := 0 }) ∧
        (∀ r : CpReq, c.req = some r → u = (v.setCp p { c with theirs := none, ours := none, step := 0, req := none }).finish r.ticket
          (if r.kind = 0 then sOk else sBusy) [])) ∧
    (st ≠ 1 → st ≠ 2 → exec (.trainTimeout p) s = .next s) ∧
    -- training
    (∀ r : TrainRes, st ≠ 2 → st ≠ 4 → exec (.trainStep p r) s = .next s) ∧
    (∀ r : TrainRes, r.pass = false → (st = 2 → exec (.trainStep p r) s = .next (s.cpDown p)) ∧
      (st = 4 → let v := s.wf a CP_STAT.FAILS (s.rf a CP_STAT.FAILS + 1)
        (s.rf a CP_STAT.FAILS < 2 → exec (.trainStep p r) s = .next (v.setCp p { c with step := 2 })) ∧
        (2 ≤ s.rf a CP_STAT.FAILS → exec (.trainStep p r) s = .next (v.cpDown p)))) ∧
    (∀ r : TrainRes, r.pass = true → st = 2 →
      (c.step = 1 → exec (.trainStep p r) s = .next ((s.wf a CP_STAT.PAIRMAP r.pairMap.toNat).setCp p { c with step := 2 })) ∧
      (c.step ∈ [2, 3, 4] → exec (.trainStep p r) s = .next (s.setCp p { c with step := c.step + 1 })) ∧
      (c.step = 5 → exec (.trainStep p r) s = .next (s.setCp p { c with ratios := ratiosOf r.ratios, step := 6 })) ∧
      (c.step = 6 → (r.skew.toNat ≤ 100 → r.dtx.toNat ≤ 2500 → r.drx.toNat ≤ 2500 →
          let d := CP_DELAY.adr p
          let e := CP_RPDLY.adr p
          exec (.trainStep p r) s = .next (((((s.wf d CP_DELAY.SKEW r.skew.toNat).wf d CP_DELAY.CABLE r.cable.toNat).wf e CP_RPDLY.DTX
            r.dtx.toNat).wf e CP_RPDLY.DRX r.drx.toNat).setCp p { c with step := 7 })) ∧
        (100 < r.skew.toNat ∨ 2500 < r.dtx.toNat ∨ 2500 < r.drx.toNat → exec (.trainStep p r) s = .next (s.cpDown p)))) ∧
    -- retrain goes from step 2 to 5, and from 5 to 7 (R454)
    (∀ r : TrainRes, r.pass = true → st = 4 → (c.step = 2 → exec (.trainStep p r) s = .next (s.setCp p { c with step := 5 })) ∧
      (c.step = 5 → exec (.trainStep p r) s = .next (s.setCp p { c with ratios := ratiosOf r.ratios, step := 7 }))) ∧
    (∀ r : TrainRes, r.pass = true → st = 2 ∨ st = 4 → c.step = 7 →
      let nb := if c.rate = 0 then 28960 else 72400
      (∀ t, buildTable c.ratios (20 * s.rf cfg CP_CFG.MARGIN) nb = some t →
        ∃ u : State, exec (.trainStep p r) s = .next u ∧ (u.cp p).rxTab = t ∧ (u.cp p).txTab = tabFrom r.txTab ∧ (u.cp p).step = 8 ∧
          u = { s with cps := u.cps, regs := u.regs } ∧ ∀ k, k ≠ p.val → u.cp k = s.cp k) ∧
      (buildTable c.ratios (20 * s.rf cfg CP_CFG.MARGIN) nb = none → exec (.trainStep p r) s = .next (s.trainFail p))) ∧
    (∀ r : TrainRes, r.pass = true → st = 2 ∨ st = 4 → c.step = 8 →
      (r.uncorrectable = false → (∀ q < 4, ∀ m, leastMargin c.rxTab c.ratios q = some m → (20 * s.rf cfg CP_CFG.MINMARG : Int) ≤ m) →
        let v := ((((s.wf a CP_STAT.STATE 3).raise 0x0A04 (cpSrc p) st 3 0).wb a CP_STAT.LOCK true).wf a CP_STAT.FAILS 0).wf a CP_STAT.RATE
          c.rate
        (c.req = none → exec (.trainStep p r) s = .next (v.setCp p { c with step := 0 })) ∧
        (∀ q : CpReq, c.req = some q → q.kind = 1 → exec (.trainStep p r) s =
          .next ((v.setCp p { c with step := 0, req := none }).finish q.ticket sOk []))) ∧
      (r.uncorrectable = true → exec (.trainStep p r) s = .next (s.trainFail p))) ∧
    -- loss, in run
    (∀ (lost : BitVec 16) (lock : Bool), st ≠ 3 → exec (.retrainTrigger p lost lock) s = .next s) ∧
    (∀ (lost : BitVec 16), st = 3 →
      let thr := s.rf cfg CP_CFG.RTTHR
      let v := ((((s.wf a CP_STAT.STATE 4).raise 0x0A04 (cpSrc p) 3 4 0).cpCount p 6 1).wb a CP_STAT.TXSWP false).wb a CP_STAT.RXSWP false
      (s.rb cfg CP_CFG.AUTORT = true → thr ≠ 0 → thr < lost.toNat → exec (.retrainTrigger p lost false) s =
        -- outside run the samples in both buffers are zero (R454)
        .next (v.setCp p { c with theirs := none, ours := none, step := 2, tx := [], rx := [], raw := [] })) ∧
      (s.rb cfg CP_CFG.AUTORT = false → thr ≠ 0 → thr < lost.toNat → exec (.retrainTrigger p lost false) s = .next (s.cpDown p)) ∧
      (thr = 0 ∨ lost.toNat ≤ thr → exec (.retrainTrigger p lost false) s = .next s) ∧
      exec (.retrainTrigger p lost true) s = .next ((s.wb a CP_STAT.LOCK false).cpLoss p)) ∧
    -- margins and tables
    (∀ rs : List AxisRatio, (st ≠ 3 → exec (.snrMeasure p rs) s = .next s) ∧
      (st = 3 → (∀ q < 4, ∀ m, leastMargin c.rxTab (ratiosOf rs) q = some m → (20 * s.rf cfg CP_CFG.MINMARG : Int) ≤ m) →
        exec (.snrMeasure p rs) s = .next (s.cpMeasured p (ratiosOf rs))) ∧
      (∀ (q : Nat) (m : Int) (t : Sparse Byte), st = 3 → q < 4 → leastMargin c.rxTab (ratiosOf rs) q = some m →
        m < (20 * s.rf cfg CP_CFG.MINMARG : Int) → c.ours = none →
        buildTable (ratiosOf rs) (20 * s.rf cfg CP_CFG.MARGIN) (cpNb (s.cpRate p)) = some t →
        ∃ u : State, exec (.snrMeasure p rs) s = .next u ∧ (u.cp p).ours = some ⟨t, false⟩ ∧ u.rb a CP_STAT.RXSWP = true ∧
          u = { s with cps := u.cps, regs := u.regs } ∧ ∀ k, k ≠ p.val → u.cp k = s.cp k)) ∧
    (∀ rs : List AxisRatio, st = 3 → c.ours = none → (∃ q < 4, ∃ m, leastMargin c.rxTab (ratiosOf rs) q = some m ∧
        m < (20 * s.rf cfg CP_CFG.MINMARG : Int)) →
      buildLower (ratiosOf rs) (cpNb (s.cpRate p)) (20 * s.rf cfg CP_CFG.MINMARG) 32 (20 * s.rf cfg CP_CFG.MARGIN) = none →
      exec (.snrMeasure p rs) s = .next ((s.cpMeasured p (ratiosOf rs)).cpRetrain p)) ∧
    (st ≠ 3 → exec (.tableAdopt p) s = .next s) ∧
    (∀ pr : CpProp, st = 3 → c.theirs = some pr → exec (.tableAdopt p) s = .next ((((s.setCp p { c with txTab := pr.table, theirs := none }).wb
      a CP_STAT.TXTAB (!s.rb a CP_STAT.TXTAB)).wb a CP_STAT.TXSWP false).cpCount p 7 1)) ∧
    (c.theirs = none → exec (.tableAdopt p) s = .next s ∧ exec (.proposalLapse p false) s = .next s) ∧
    (∀ pr : CpProp, c.theirs = some pr → exec (.proposalLapse p false) s = .next ((s.setCp p { c with theirs := none }).wb a CP_STAT.TXSWP
      false)) ∧
    (∀ pr : CpProp, c.ours = some pr → exec (.proposalLapse p true) s = .next (if pr.acked then
      ((s.setCp p { c with ours := none }).wb a CP_STAT.RXSWP false).cpCount p 8 1 else s)) ∧
    (st ≠ 0 → (∀ pr : CpProp, c.ours = some pr → exec (.linkMessageReceive p .ack) s =
        .next (s.setCp p { c with ours := some { pr with acked := true } })) ∧
      (∀ dtx drx : BitVec 16, 2500 < dtx.toNat ∨ 2500 < drx.toNat → exec (.linkMessageReceive p (.delays dtx drx)) s =
        .next (if st = 2 ∨ st = 4 then s.trainFail p else s)) ∧
      (∀ dtx drx : BitVec 16, dtx.toNat ≤ 2500 → drx.toNat ≤ 2500 → exec (.linkMessageReceive p (.delays dtx drx)) s = .next ((s.wf (CP_RPDLY.adr p) CP_RPDLY.DTX dtx.toNat).wf
        (CP_RPDLY.adr p) CP_RPDLY.DRX drx.toNat)) ∧
      (∀ t, st = 3 → c.theirs = none → exec (.linkMessageReceive p (.proposal t)) s =
        .next ((s.setCp p { c with theirs := some ⟨tabFrom t, true⟩ }).wb a CP_STAT.TXSWP true)) ∧
      (∀ t pr, st = 3 → c.theirs = some pr → exec (.linkMessageReceive p (.proposal t)) s = .next s)) ∧
    (st = 0 → ∀ m, exec (.linkMessageReceive p m) s = .next s) ∧
    -- power-save
    (∀ lost : BitVec 9, st ≠ 5 ∨ c.req = none → exec (.powerSaveResume p lost) s = .next s) ∧
    (∀ q : CpReq, st = 5 → c.req = some q → q.kind = 1 → q.rate = s.cpRate p →
      let v := ((((s.wf a CP_STAT.STATE 3).raise 0x0A04 (cpSrc p) 5 3 0).wb a CP_STAT.LOCK true).wf a CP_STAT.FAILS 0).wf a CP_STAT.RATE
        c.rate
      let u := (v.setCp p { c with step := 0, req := none }).finish q.ticket sOk []
      let thr := u.rf cfg CP_CFG.RTTHR
      ∀ lost : BitVec 9, exec (.powerSaveResume p lost) s = .next (if thr ≠ 0 ∧ thr < lost.toNat then u.cpRetrain p else u)) ∧
    (∀ (q : CpReq) (lost : BitVec 9), st = 5 → c.req = some q → q.kind = 1 → q.rate ≠ s.cpRate p →
      exec (.powerSaveResume p lost) s =
        .next (((s.setCpState p 3).setCp p { c with rate := q.rate }).cpRetrain p))

/-- Frames, buffers and queues of a Carriage port (R443 to R453): a frame of each symbol takes the buffer's samples and clears them,
and is sent in run and, one in 64, in power-save, its coded bits placed on the axes that the table in use loads, beside the pilots; a frame received in run gives its count, its status and its samples; one that cannot be corrected
is lost; a sample is written into the buffer, or is late; symbols are armed and released; switch and management entries are queued. -/
def Obligations.CarriageFramesAndQueuesMove : Prop :=
  ∀ (s : State) (p : CpId), s.Inv →
    let c := s.cp p
    let st := s.cpState p
    let n := s.cpSpf p
    let cyc := s.cpCyc p
    let runs := st = 3 ∨ st = 5
    let base := 0x7000000 + 0x200000 * p.val
    -- in power-save one symbol of 64 carries a frame (R454)
    let sends := st = 3 ∨ (st = 5 ∧ c.syms % 64 = 0)
    let pilots := pilotTones c.syms [0, 1, 2, 3] (s.rb (CP_STAT.adr p) CP_STAT.TXTAB)
    let strobes (fcnt : Nat) := fcnt % 64 = 0 ∧ s.tkRuns = true
    let away (e : Nat × Nat) := (e.1 + cyc - c.next % cyc) % cyc
    (∃ u : State, exec (.carriageFrameSend p) s = .next u ∧ (u.cp p).next = (c.next + n) % cyc ∧ (u.cp p).lateSaid = false ∧
      (u.cp p).syms = (c.syms + 1) % 2 ^ 32 ∧
      -- the sample index wraps at the end of 10 ms, and the buffer at 32,768 samples (R450)
      (u.cp p).tx = (List.range 4).foldl (fun t ant => (List.range n).foldl (fun t i =>
        sput t (32768 * ant + (c.next + i) % cyc % 32768) 0 0) t) c.tx ∧
      (u.cp p).rx = c.rx ∧ (∀ k, k ≠ p.val → u.cp k = s.cp k) ∧
      (¬ (sends ∧ strobes c.fcntTx) → u = { s with cps := u.cps, regs := u.regs, out := u.out, free := u.free }) ∧
      (¬ runs → u.out = s.out) ∧ (st = 5 → ¬ sends → u.out = .carriageSymbol p pilots :: s.out) ∧
      (¬ sends → (u.cp p).fcntTx = c.fcntTx ∧ (u.cp p).swq = c.swq ∧ (u.cp p).mtx = c.mtx ∧ (u.cp p).enables = c.enables) ∧
      (sends → (u.cp p).fcntTx = (c.fcntTx + 1) % 2 ^ 32 ∧ ∃ frame : List Byte,
        u.out = .carriageSymbol p (pilots ++ symbolTones c.txTab (codedBits (s.cpRate p) frame)) :: .carriage p frame :: s.out ∧
        frame.take 4 = leBytes 4 c.fcntTx ∧
        (frame.drop 4).take 4 = leBytes 4 (c.next % cyc + b2n (decide (st = 3) && s.cpValid p) * 2 ^ 24) ∧
        (frame.drop 20).take 4 = leBytes 4 (s.reg (CP_TXATT.adr p)) ∧ (frame.drop 24).take 4 = leBytes 4 (s.reg (CP_RXATT.adr p)) ∧
        -- the switch of the frame: at its sample, or at sample 0 when it is late (R453)
        (∀ e : Nat × Nat, c.swq = [e] → away e < n → 2 * away e < cyc → (u.cp p).swq = [] ∧ (u.cp p).enables = e.2 ∧
          (frame.drop 17).take 3 = leBytes 1 e.2 ++ leBytes 2 (away e)) ∧
        (∀ e : Nat × Nat, c.swq = [e] → cyc ≤ 2 * away e → (u.cp p).swq = [] ∧ (u.cp p).enables = e.2 ∧
          (frame.drop 17).take 3 = leBytes 1 e.2 ++ leBytes 2 0) ∧
        (∀ e : Nat × Nat, c.swq = [e] → n ≤ away e → 2 * away e < cyc → (u.cp p).swq = [e] ∧ (u.cp p).enables = c.enables) ∧
        (∀ e e' : Nat × Nat, c.swq = [e, e'] → n ≤ away e → 2 * away e < cyc → away e' < n → 2 * away e' < cyc →
          (u.cp p).swq = [e] ∧ (u.cp p).enables = e'.2)) ∧
      (sends → c.swq = [] → (u.cp p).enables = c.enables)) ∧
    (∀ r : CpRx, ¬ runs → let z := s.zeroRx p c.rxNext n
      exec (.carriageFrameReceive p r) s = .next (z.setCp p { z.cp p with rxNext := (c.rxNext + n) % cyc })) ∧
    -- a codeword corrects up to 20 symbols; with more in one of them the frame is lost (R442)
    (∀ r : CpRx, runs → (∃ i < (if s.cpRate p = 0 then 4 else 10), 20 < (r.errs.getD i 0).val) → r.indicator = none → ∃ u : State, exec (.carriageFrameReceive p r) s = .next u ∧
      (u.cp p).rxNext = (c.rxNext + n) % cyc ∧ (u.cp p).mrxPart = none ∧
      (u.cp p).mrxBroken = (c.mrxPart.isSome || c.mrxBroken) ∧ (u.cp p).fcntRx = c.fcntRx ∧ (u.cp p).mrx = c.mrx ∧
      u = { s with cps := u.cps, regs := u.regs } ∧ ∀ k, k ≠ p.val → u.cp k = s.cp k) ∧
    (∀ r : CpRx, runs → (∀ i < (if s.cpRate p = 0 then 4 else 10), (r.errs.getD i 0).val ≤ 20) → r.indicator = none → let f := r.frame
      let live := bit (fieldAt f 7 1) 0 = true ∧ st = 3
      ∃ u : State, exec (.carriageFrameReceive p r) s = .next u ∧ (u.cp p).fcntRx = fieldAt f 0 4 ∧ u.mem = s.mem ∧ u.out = s.out ∧
        (∀ k, k ≠ p.val → u.cp k = s.cp k) ∧
        (live → (u.cp p).rxNext = (fieldAt f 4 3 + n) % cyc) ∧ (¬ live → (u.cp p).rxNext = (c.rxNext + n) % cyc)) ∧
    (∀ (src : SrcId) (ant : Fin 4) (pos : BitVec 15) (v : Word),
      s.wayOpen src ((base + 0x80000 + 0x20000 * ant.val + 4 * pos.toNat) / 64 * 64) →
      let k := 32768 * ant.val + pos.toNat
      let back := (c.next + 32768 - pos.toNat) % 32768
      (s.cpAnts p ≤ ant.val → exec (.sampleWrite src p ant pos v) s = .next s.drawn) ∧
      (ant.val < s.cpAnts p → (pos.toNat + 32768 - c.next % 32768) % 32768 < 30720 → exec (.sampleWrite src p ant pos v) s =
        .next (if st = 3 then s.drawn.setCp p { c with tx := sput c.tx k v 0 } else s.drawn)) ∧
      (ant.val < s.cpAnts p → 30720 ≤ (pos.toNat + 32768 - c.next % 32768) % 32768 →
        (c.lateSaid = true → exec (.sampleWrite src p ant pos v) s = .next (s.drawn.cpCount p 4 1)) ∧
        (c.lateSaid = false → exec (.sampleWrite src p ant pos v) s = .next (((s.drawn.cpCount p 4 1).setCp p
          { c with lateSaid := true }).raise 0x0A02 (cpSrc p) ant ((c.next + cyc - back) % cyc) c.fcntTx)))) ∧
    (∀ (src : SrcId) (v : BitVec 64), s.wayOpen src ((base + 0x200) / 64 * 64) →
      (bits v.toNat 49 15 ≠ 0 → exec (.ulArm src p v) s = .next (s.drawn.raise 0x0A05 (cpSrc p) 0x200 0 0)) ∧
      (bits v.toNat 49 15 = 0 → c.arms.length < 32 → exec (.ulArm src p v) s = .next ((s.drawn.setCp p
        { c with arms := c.arms ++ [(bits v.toNat 0 24, bits v.toNat 24 24, bit v.toNat 48)] }).cpSync p)) ∧
      (bits v.toNat 49 15 = 0 → 32 ≤ c.arms.length → exec (.ulArm src p v) s = .next (s.drawn.raise 0x0A03 (cpSrc p) (bits v.toNat 0 24) 0
        0)) ∧
      (bits v.toNat 32 32 ≠ 0 → exec (.switchQueueWrite src p v) s = .next (s.drawn.raise 0x0A05 (cpSrc p) 0x208 0 0)) ∧
      (bits v.toNat 32 32 = 0 → c.swq.length < 64 → exec (.switchQueueWrite src p v) s = .next ((s.drawn.setCp p
        { c with swq := c.swq ++ [(bits v.toNat 0 24, bits v.toNat 24 8)] }).cpSync p)) ∧
      (bits v.toNat 32 32 = 0 → 64 ≤ c.swq.length → exec (.switchQueueWrite src p v) s = .next s.drawn)) ∧
    (c.arms = [] → exec (.ulSymbolRelease p) s = .next s) ∧
    (∀ (first last : Nat) (x : Bool) (rest : List (Nat × Nat × Bool)), c.arms = (first, last, x) :: rest →
      let d := (c.rxNext + 2 * cyc - 1 - last) % cyc
      let v := (s.setCp p { c with arms := rest }).cpSync p
      let cfg := CP_UCFG.adr p
      (cyc ≤ 2 * d → exec (.ulSymbolRelease p) s = .next s) ∧
      (2 * d < cyc → s.rb cfg CP_UCFG.UEN = true → exec (.ulSymbolRelease p) s = .next (v.releasePulse (53 + p) (s.rf cfg
        CP_UCFG.UCHAN))) ∧
      (2 * d < cyc → s.rb cfg CP_UCFG.UEN = false → exec (.ulSymbolRelease p) s = .next v)) ∧
    (∀ (src : SrcId) (entry : BitVec 128), s.wayOpen src ((base + 0x210) / 64 * 64) →
      let e := leBytes 16 entry.toNat
      let k := fieldAt e 4 1
      let len := fieldAt e 6 2
      let left := sdrop (fun a => a / 16384 = k) c.slots
      (k < 4 → fieldAt e 5 1 = 0 → fieldAt e 9 1 = 0 → fieldAt e 0xF 1 = 0 → 60 ≤ len → len ≤ 9212 →
        (c.mtx.length < 16 → exec (.mgmtTxEntry src p entry) s = .next ((s.drawn.setCp p
          { c with slots := left, mtx := c.mtx ++ [(List.range len).map fun i => sget c.slots (16384 * k + i) 0] }).cpSync p)) ∧
        (16 ≤ c.mtx.length → exec (.mgmtTxEntry src p entry) s = .next ((s.drawn.setCp p { c with slots := left }).cpCount p 5 1))) ∧
      (len < 60 ∨ 9212 < len → k < 4 → exec (.mgmtTxEntry src p entry) s = .next ((s.drawn.setCp p { c with slots := left }).raise 0x0A05
        (cpSrc p) 0x210 0 0))) ∧
    (∀ (src : SrcId) (v : Word), s.wayOpen src ((base + 0x220) / 64 * 64) →
      exec (.mgmtRxConsume src p v) s = .next (s.drawn.setCp p { c with mrx := c.mrx.drop 1 }))

/-! ### Timekeeper (R465 to R498) -/

/-- The Timekeeper's states and its loop (R469, R476 to R481, R549): the anchor is rewritten; lock, loss of lock, loss and return of the
source and the end of holdover change the time state, with its event; the loop moves the frequency and the tuning word within their
limits while the module acquires or is locked; a tuning word is saved in the ring while it is locked. -/
def Obligations.TimeStatesFollowTheSourceAndTheLoop : Prop :=
  ∀ s : State, s.Inv →
    (s.tkRuns = false → ∀ c ∈ ([.captureHandler, .anchorRewrite, .timeLock, .lockLoss, .sourceLost, .sourceValid, .holdoverExpire,
      .ppsOutRise, .ppsOutFall] : List Instr), exec c s = .next s) ∧
    (s.tkRuns = true →
      let st := s.timeState
      let entered (n : Nat) : State := (s.wf TK_STAT.adr TK_STAT.STATE n).wf TK_ANCHOR.adr TK_ANCHOR.STATE n
      let event (v : State) (n : Nat) : State := (v.raise 0x0B02 902 st n s.syncSrc).airSync
      (∃ u : State, exec .anchorRewrite s = .next u ∧ u.rf TK_ANCHOR.adr TK_ANCHOR.AT = s.tkns ∧
        u.rf TK_ANCHOR.adr TK_ANCHOR.AN = s.ext % 10 ^ 9 ∧ u.rf TK_ANCHOR.adr TK_ANCHOR.AS = s.ext / 10 ^ 9 % 2 ^ 32 ∧
        u.rf TK_ANCHOR.adr TK_ANCHOR.AS_HI = s.ext / 10 ^ 9 / 2 ^ 32 % 2 ^ TK_ANCHOR.AS_HI.len ∧
        u.rf TK_ANCHOR.adr TK_ANCHOR.GEN = (s.rf TK_ANCHOR.adr TK_ANCHOR.GEN + 1) % 2 ^ TK_ANCHOR.GEN.len ∧
        u = { s with regs := u.regs } ∧ ∀ b, b < TK_ANCHOR.adr ∨ TK_ANCHOR.adr + 20 ≤ b → u.reg b = s.reg b) ∧
      (st = 1 → s.offset.natAbs < (if s.syncSrc = 3 then 1000 else 50) → exec .timeLock s = .next (event { entered 2 with heldOver := false } 2)) ∧
      (st ≠ 1 ∨ (if s.syncSrc = 3 then 1000 else 50) ≤ s.offset.natAbs → exec .timeLock s = .next s) ∧
      (st = 2 → (if s.syncSrc = 3 then 10000 else 200) < s.offset.natAbs → exec .lockLoss s = .next (event (entered 1) 1)) ∧
      (st ≠ 2 ∨ s.offset.natAbs ≤ (if s.syncSrc = 3 then 10000 else 200) → exec .lockLoss s = .next s) ∧
      (st = 2 → exec .sourceLost s = .next (let n := if s.setting 0x604 = 0 then 4 else 3; event { (entered n).holdTune with heldOver := true } n)) ∧
      (st = 1 → exec .sourceLost s = .next (event (entered 0).holdTune 0)) ∧
      (st ≠ 1 → st ≠ 2 → exec .sourceLost s = .next s) ∧
      (s.syncSrc ≠ 0 → st = 0 ∨ st = 3 ∨ st = 4 → exec .sourceValid s = .next (event (entered 1) 1)) ∧
      (s.syncSrc = 0 ∨ st = 1 ∨ st = 2 → exec .sourceValid s = .next s) ∧
      (st = 3 → exec .holdoverExpire s = .next (event (entered 4) 4)) ∧
      (st ≠ 3 → exec .holdoverExpire s = .next s) ∧
      (st ≠ 1 → st ≠ 2 → exec (.timeLoopUpdate none) s = .next s) ∧
      (∀ freq : Option (BitVec 32), st = 1 ∨ st = 2 → ∃ u : State, exec (.timeLoopUpdate freq) s = .next u ∧
        (sgn 32 (u.reg TK_FADJ.adr)).natAbs ≤ 27487791 ∧ u.timeState = st ∧
        u = { s with regs := u.regs, free := u.free, loopAt := s.cyc, chans := u.chans, xings := u.xings, out := u.out } ∧
        (s.setting 0x602 = 0 → u.tuneWord = s.tuneWord ∧ u.chans = s.chans) ∧
        (s.setting 0x602 ≠ 0 → let d := 10000 * (s.cyc - s.loopAt) / ((sgn 32 (s.setting 0x603)).natAbs * 10 ^ 9)
          u.tuneWord ≤ s.tuneWord + d ∧ s.tuneWord ≤ u.tuneWord + d)) ∧
      (∀ w : BitVec 24, (st ≠ 2 → exec (.tuningWordSave w) s = .next s) ∧
        (∀ i w0 q : Nat, st = 2 → s.tune = some (i, w0, q) → let j := (i + 1) % 512
          let n := (q + 1) % 2 ^ 32
          let body := w.toNat + 2 ^ 24 * n
          exec (.tuningWordSave w) s = .next { s.nvWrite (nvBase + 0x10000 + 8 * j) (leBytes 7 body ++ [Config.tuningCrc body]) with
            tune := some (j, w.toNat, n) })))

/-- Captures, PTP and timed outputs (R470 to R474, R477, R484 to R492): a strobe takes a free handler position or is lost; its handler
computes the capture and logs it; messages of the port's domain give the four times and the offset; a master sends and answers; PPS_OUT
rises at the second; timed steps are queued, and those that are due are latched; event inputs count. -/
def Obligations.CapturesPtpAndTimedOutputsMove : Prop :=
  ∀ s : State, s.Inv → s.tkRuns = true →
    -- the strobes of the Carriage ports come with their frames (R449)
    (∀ src : Fin 64, isCaptureSrc src.val = false ∨ 40 ≤ src.val → exec (.captureStrobe src) s = .next s) ∧
    (∀ src : Fin 64, isCaptureSrc src.val = true → src.val < 40 →
      let eth : Bool := decide (src.val < 12) || (decide (16 ≤ src.val) && decide (src.val < 28))
      let seq := if eth then (sget s.capSeq src.val 0 + 1) % 256 else 0
      let pos := (s.capEnd - (s.cyc + 24) + 15) / 16
      let v : State := if eth then { s with capSeq := sput s.capSeq src.val seq 0 } else s
      (pos < 8 → exec (.captureStrobe src) s = .next { v with
        strobes := s.strobes ++ [⟨src.val, seq, pos, s.cyc⟩], capEnd := s.cyc + 24 + 16 * pos + 16 }) ∧
      (8 ≤ pos → exec (.captureStrobe src) s = .next ((v.incSat TK_DROP.adr TK_DROP.LOST 1).raise 0x0B01 902 src.val seq 0))) ∧
    (s.strobes = [] → exec .captureHandler s = .next s) ∧
    (∀ (x : Strobe) (rest : List Strobe), s.strobes = x :: rest →
      let v : State := { s with strobes := rest }
      let at_ : Int := (x.cyc : Int) + 24 + 16 * x.pos
      let ns := wrapTo 32 ((s.tkns : Int) - ((s.cyc : Int) - at_))
      let c := wrapTo 32 ((ns : Int) - 24 - 16 * x.pos - s.capK x.src)
      (256 ≤ s.capLog.length → exec .captureHandler s = .next ((v.incSat TK_DROP.adr TK_DROP.LOST 1).raise 0x0B01 902 x.src x.seq 0)) ∧
      (s.capLog.length < 256 → x.src < 32 → exec .captureHandler s = .next { v with
        capLog := s.capLog ++ [⟨x.src, x.seq, c, s.extend c⟩] }) ∧
      (s.capLog.length < 256 → x.src = 32 → s.syncSrc ≠ 2 → exec .captureHandler s =
        .next ((v.wf TK_PPSCAP.adr TK_PPSCAP.C c).wf TK_PPSCAP.adr TK_PPSCAP.VALID 1))) ∧
    (∀ (p : PortId) (domain seq : Byte) (t1 : Option Int) (corr : Int), s.ptpListens p = true →
      let t := s.ptpOf p
      (domain.toNat = t.domain → (∀ (t2 : Option Int) (v : State), s.takeCapture p seq.toNat = (t2, v) →
          exec (.syncReceive p domain seq t1 corr) s = .next (v.setPtp p { t with t1 := t1, t2 := t2, corr := corr })) ∧
        (∀ (t1 t2 : Int), t.t2 = some t2 → exec (.followUpReceive p domain t1 corr) s =
          .next (s.setPtp p { t with t1 := some t1, corr := t.corr + corr })) ∧
        (∀ (t1 t2 t3 t4 : Int), t.t1 = some t1 → t.t2 = some t2 → t.t3 = some t3 →
          let x := 65536 * (t2 - t1) - t.corr - (65536 * (t4 - t3) - corr) - 65536 * sgn 32 (s.setting (0x610 + p))
          let v := s.drawn.setPtp p { t with t3 := none }
          x % 131072 = 0 → s.ptpNamed p = true → (x / 131072).natAbs ≤ 1000 → exec (.delayRespReceive p domain t4 corr) s =
            .next (v.setReg TK_OFFSET.adr (wrapTo 32 (x / 131072)))) ∧
        (∀ (gm : BitVec 64) (cls : Byte) (removed : BitVec 16), t.heard = true → t.gm = gm.toNat → t.cls = cls.toNat →
          exec (.announceReceive p domain gm cls removed) s = .next (s.setPtp p { t with removed := removed.toNat })) ∧
        (∀ (gm : BitVec 64) (cls : Byte) (removed : BitVec 16), t.heard = false ∨ t.gm ≠ gm.toNat →
          exec (.announceReceive p domain gm cls removed) s = .next ((s.setPtp p
            { t with heard := true, gm := gm.toNat, cls := cls.toNat, removed := removed.toNat }).raise 0x0B04 902 (gm.toNat % 2 ^ 32)
            (gm.toNat / 2 ^ 32) (cls.toNat + 256 * p + 65536 * removed.toNat)))) ∧
      (domain.toNat ≠ t.domain → exec (.syncReceive p domain seq t1 corr) s = .next s ∧
        (∀ t1, exec (.followUpReceive p domain t1 corr) s = .next s) ∧ (∀ t4, exec (.delayRespReceive p domain t4 corr) s = .next s) ∧
        (∀ gm cls removed, exec (.announceReceive p domain gm cls removed) s = .next s))) ∧
    (∀ (p : PortId), let t := s.ptpOf p
      let out : Int := (s.ext : Int) + (s.capK (16 + p)).natAbs
      (s.ptpMaster p = true → t.twoStep = true → exec (.ptpSyncSend p) s =
        .next ((s.emit (.ptp p 0 [t.domain, 0])).emit (.ptp p 8 [t.domain, out]))) ∧
      (s.ptpMaster p = true → t.twoStep = false → exec (.ptpSyncSend p) s = .next (s.emit (.ptp p 0 [t.domain, out]))) ∧
      (s.ptpMaster p = true → s.timeState = 3 → exec (.ptpAnnounceSend p) s =
        .next (s.emit (.ptp p 11 [t.domain, 135, 0, 0, 0, s.taiUtc, b2n s.utcSet]))) ∧
      (s.ptpMaster p = true → s.timeState = 2 → s.syncSrc = 2 → exec (.ptpAnnounceSend p) s =
        .next (s.emit (.ptp p 11 [t.domain, 6, 0, 0, 0, s.taiUtc, b2n s.utcSet]))) ∧
      (s.ptpState p = 2 → exec (.ptpDelayReqSend p) s = .next ((s.emit (.ptp p 1 [t.domain, out])).setPtp p { t with t3 := some out })) ∧
      (s.ptpMaster p = false → exec (.ptpSyncSend p) s = .next s ∧ exec (.ptpAnnounceSend p) s = .next s) ∧
      (∀ (seq : Byte) (who : BitVec 80) (t4 : Int) (v : State), s.ptpMaster p = true → s.takeCapture p seq.toNat = (some t4, v) →
        exec (.delayReqReceive p (BitVec.ofNat 8 t.domain) seq who) s =
          if t.domain < 256 then .next (v.emit (.ptp p 9 [t.domain, who.toNat, t4])) else .next s)) ∧
    (let ph := ((s.ext : Int) - sgn 32 (s.setting 0x606)) % 1000000000
     (s.ppsRuns = true → ph ≤ 1000 → s.ppsHigh = false → exec .ppsOutRise s = .next { s.emit (.pin 0 true) with ppsHigh := true }) ∧
     (s.ppsRuns = false ∨ 1000 < ph → exec .ppsOutRise s = .next s)) ∧
    exec .ppsOutFall s = .next (if s.ppsHigh then { s.emit (.pin 0 false) with ppsHigh := false } else s) ∧
    (∀ i n : Fin 16, exec (.tkEventInput i n) s = .next ((s.incWrap (TK_EVIN.adr i) TK_EVIN.COUNT n).wf (TK_EVIN.adr i) TK_EVIN.STAMP s.tkns)) ∧
    (∀ (src : SrcId) (whole : Bool) (v : BitVec 64),
      let c := bits v.toNat 48 3
      let code := bits v.toNat 32 16
      let lt := bits v.toNat 0 32
      let step : AStep := ⟨code, lt, bit v.toNat 51, none⟩
      (src.val ≠ 40 → src.val ≠ 43 → exec (.aostepWrite src whole v) s = .next (s.stepOverflow c lt code 3)) ∧
      (bits v.toNat 52 12 ≠ 0 ∨ whole = false → exec (.aostepWrite src whole v) s = .next (s.stepOverflow c lt code 3)) ∧
      (src.val = 40 ∨ src.val = 43 → bits v.toNat 52 12 = 0 →
        (s.tkOwns c = true → exec (.aostepWrite src true v) s = .next (s.stepOverflow c lt code 2)) ∧
        (s.tkOwns c = false → 32 ≤ (s.chan c).steps.length → exec (.aostepWrite src true v) s = .next (s.stepOverflow c lt code 1)) ∧
        (s.tkOwns c = false → (s.chan c).steps.length < 32 → exec (.aostepWrite src true v) s =
            .next ((s.setChan c { s.chan c with steps := (s.chan c).steps ++ [step] }).aoSync c)))) ∧
    (∀ c : ChanId, (s.chan c).steps = [] → exec (.analogStepDue c) s = .next s) ∧
    (∀ (c : ChanId) (x : AStep) (rest : List AStep), (s.chan c).steps = x :: rest → x.due = none → exec (.analogStepDue c) s = .next s) ∧
    (∀ (c : ChanId) (x : AStep) (rest : List AStep) (d : Int), (s.chan c).steps = x :: rest → x.due = some d →
      let v : State := (s.setChan c { s.chan c with steps := rest }).aoSync c
      ((s.cyc : Int) < d → exec (.analogStepDue c) s = .next s) ∧
      (d ≤ s.cyc → s.safeMoving c = true → exec (.analogStepDue c) s = .next (v.stepOverflow c x.lt x.code 4)) ∧
      (d ≤ s.cyc → s.safeMoving c = false → s.aoFault c = true → exec (.analogStepDue c) s = .next (v.stepOverflow c x.lt x.code 5)) ∧
      (s.safeMoving c = false → s.aoFault c = false → x.final = false → 1000 < (s.cyc : Int) - d → exec (.analogStepDue c) s =
        .next (v.stepLate c x ((s.cyc : Int) - d).toNat)) ∧
      (s.safeMoving c = false → s.aoFault c = false → d ≤ s.cyc → (s.cyc : Int) - d ≤ 1000 ∨ x.final = true →
        (s.mode ≠ mTest → s.mode ≠ mRecovery → exec (.analogStepDue c) s = .next (v.aoDirect c x.code)) ∧
        (s.mode = mTest ∨ s.mode = mRecovery → exec (.analogStepDue c) s =
          .next (v.aoSlew c x.code (s.aoProfile c).1 (s.aoProfile c).2 false))))

/-! ### Analog outputs and monitors (R499 to R517) -/

/-- Channels and monitors outside Chrysalis (R501 to R517): a held code is released to its land; the update deferred longest is latched; a
slewed update moves by at most its step; a fault is recorded and moves the channel to its safe code, and clears when no condition
holds; a sample beyond a limit for as many samples as the limit asks for passes it; a power-fail warning is said once. -/
def Obligations.ChannelsLatchSlewAndFaultMonitorsPass : Prop :=
  ∀ s : State, s.Inv → s.mode ≠ mChrysalis →
    (∀ c : ChanId,
      let ch := s.chan c
      let code := s.aoCode c
      let a := AO_CHSTAT.adr c
      (ch.glitch = none → exec (.deglitchRelease c) s = .next s) ∧
      (∀ k, ch.glitch = some k → exec (.deglitchRelease c) s = .next (let v := s.setChan c { ch with land := k, glitch := none }
        if ch.land = k then v else v.emit (.analog c k))) ∧
      (ch.deferred = [] → exec (.deferredLatch c) s = .next s) ∧
      (∀ k rest, ch.deferred = k :: rest → let v := s.wf a AO_CHSTAT.CODE k
        (code / 1024 ≠ k / 1024 → exec (.deferredLatch c) s =
          .next ((v.setChan c { ch with deferred := rest, last := some s.cyc, glitch := some k }).aoSync c)) ∧
        (code / 1024 = k / 1024 → exec (.deferredLatch c) s =
          .next (((v.setChan c { ch with deferred := rest, last := some s.cyc }).aoLand c k).aoSync c))) ∧
      (ch.slew = none → exec (.slewLatch c) s = .next s) ∧
      (∀ (w : Slew) (k : Nat), ch.slew = some w → k = (if code < w.target then min w.target (code + w.step) else
          if w.target + w.step < code then code - w.step else w.target) → k ≠ w.target → ch.land ≠ k →
        exec (.slewLatch c) s = .next ((((s.wf a AO_CHSTAT.CODE k).setChan c { ch with last := some s.cyc, land := k, glitch := none }).emit
          (.analog c k)).aoSync c)) ∧
      (∀ w : Slew, ch.slew = some w → w.safe = false → w.target ≤ code + w.step → code ≤ w.target + w.step →
        ∃ u : State, exec (.slewLatch c) s = .next u ∧ u.aoCode c = w.target % 2 ^ AO_CHSTAT.CODE.len ∧ (u.chan c).slew = none ∧
          (u.chan c).land = w.target ∧ u = { s with regs := u.regs, chans := u.chans, xings := u.xings, out := u.out }) ∧
      (∀ cause : Fin 3, cause.val < 2 → (cause.val = 1 → ch.slew = none ∧ ch.glitch = none) → ∃ u : State, exec (.channelFault c cause) s = .next u ∧
        u.aoFault c = true ∧ u.rf a AO_CHSTAT.FCAUSE = cause.val + 1 ∧ (u.chan c).steps = [] ∧ (u.chan c).deferred = [] ∧
        u = { s with regs := u.regs, chans := u.chans, evq := u.evq, xings := u.xings, intake := u.intake } ∧
        (∀ k, k ≠ c.val → u.chan k = s.chan k) ∧
        (s.safeMoving c = false → ch.clamped = false → code ≠ s.aoSafe c →
          (u.chan c).slew = some ⟨s.aoSafe c, (s.aoProfile c).1, (s.aoProfile c).2, true⟩)) ∧
      (ch.slew ≠ none ∨ ch.glitch ≠ none → exec (.channelFault c 1) s = .next s) ∧
      (∃ u : State, exec (.channelFault c 2) s = .next u ∧
        u = { s with regs := u.regs, chans := u.chans, evq := u.evq, xings := u.xings, intake := u.intake } ∧ ∀ k < 8, u.aoFault k = true ∧ u.rf (AO_CHSTAT.adr k) AO_CHSTAT.FCAUSE = 3) ∧
      (∀ src : SrcId, (s.aoFault c = false → ∀ holds, exec (.aoFaultClear c src holds) s = .next s) ∧
        exec (.aoFaultClear c src true) s = .next s ∧
        (s.aoFault c = true → s.tkOwns c = false → exec (.aoFaultClear c src false) s =
          .next ((s.wb a AO_CHSTAT.FAULT false).wf AO_GSTAT.adr ⟨c, 1⟩ 0)))) ∧
    (∃ u : State, exec .safeCodeLoad s = .next u ∧ u = { s with regs := u.regs, chans := u.chans, xings := u.xings, out := u.out } ∧ ∀ c < 8, u.aoSafe c = s.setting (0x800 + c) % 2 ^ 16 ∧
      u.rb (AO_CHSTAT.adr c) AO_CHSTAT.HOLD = bit (s.setting (0x800 + c)) 17 ∧
      u.rb (AO_CHSTAT.adr c) AO_CHSTAT.GAIN = bit (s.setting (0x800 + c)) 16 ∧ (u.chan c).clamped = false ∧
      u.reg (AO_CHSLEW.adr c) = s.setting (0x810 + c) % 2 ^ 28) ∧
    (∀ (m : MonId) (v : BitVec 24), s.rst = none → m.val ≠ 8 →
      let l := s.monLimits m
      let mo := s.mon m
      (∀ i < 4, mo.passed.getD i false = false ∧ State.beyond i (l.getD i none) v.toInt = false) →
      mo.run.length = 4 → mo.back.length = 4 → mo.passed.length = 4 →
      ∃ u : State, exec (.monitorSample m v) s = .next u ∧ u.rf (AO_MON.adr m) AO_MON.VALUE = v.toNat ∧ (u.mon m).run = [0, 0, 0, 0] ∧
        u.rb (AO_MON.adr m) AO_MON.WARN = false ∧ u.rb (AO_MON.adr m) AO_MON.CRIT = false ∧ u = { s with regs := u.regs, mons := u.mons }) ∧
    (∀ (m : MonId) (v : BitVec 24), s.rst = some kPor → exec (.monitorSample m v) s = .next s) ∧
    (∀ (v : BitVec 24) (lim : Int), s.rst = none → (s.monLimits 1).getD 3 none = some lim → lim < v.toInt → (s.mon 1).run = [0, 0, 3, 3] →
      (s.mon 1).back = [0, 0, 0, 0] → (s.mon 1).passed = [false, false, false, false] → s.mode = mService →
      exec (.monitorSample 1 v) s = .next ((s.monSample 1 v.toInt).2.haltEnter 1 1)) ∧
    (s.rst = none → s.mode ≠ mBoot → exec .vinHighHaltTimer s = .next (if (s.mon 7).passed.getD 3 false then s.haltEnter 1 7 else s)) ∧
    (∀ mv : Word, exec (.powerFailWarning mv) s = .next (if s.rb AO_GSTAT.adr AO_GSTAT.PFW then s else
      { ((s.wb AO_GSTAT.adr AO_GSTAT.PFW true).wb AO_GSTAT.adr AO_GSTAT.PFSEEN true).raise 0x0C05 879 mv.toNat 0 0 with
        gbForced := true })) ∧
    exec .pfwClear s = .next (s.wb AO_GSTAT.adr AO_GSTAT.PFW false)

/-! ### Modes, resets and Chrysalis (R526 to R543) -/

/-- Drain, watchdog and resets (R529 to R531, R540 to R543, R574, R613): DRAIN ends in STANDBY when no slot is open; the watchdog is
kicked and expires while it runs, and an expiry that coincides with a reset is recorded by the order of kinds; every module-wide reset clears the module and starts a hold of its kind; the hold's end samples the
straps; a reset of a region or a cluster drains its islands; a fault of the hub core enters HALT; wear accounts are saved. -/
def Obligations.ResetsClearAndHoldsEnd : Prop :=
  ∀ s : State, s.Inv →
    (s.mode ≠ mDrain → exec .drainComplete s = .next s) ∧
    (s.mode = mDrain → (∀ n c, s.carrier n = some c → ∀ x ∈ c.slots, x.isOpen (cSlotNs c.words) s.ext = false) →
      ∃ u : State, exec .drainComplete s = .next u ∧ u.mode = mStandby ∧
        (∀ n c, s.carrier n = some c → u.carrier n = some (if c.st = 2 then { c with st := 1, slots := [] } else c)) ∧
        u = { s with carriers := u.carriers, regs := u.regs, chans := u.chans, evq := u.evq, xings := u.xings, intake := u.intake }) ∧
    (∀ n c x, s.carrier n = some c → x ∈ c.slots → x.isOpen (cSlotNs c.words) s.ext = true → exec .drainComplete s = .next s) ∧
    (s.rst = none → s.mode ≠ mChrysalis → s.mode ≠ mBoot → exec .watchdogKick s = .next { s with wdtAt := s.cyc } ∧
      ∃ u : State, exec .watchdogExpire s = .next u ∧ u.rst = some 2 ∧ u.resetLeft) ∧
    (s.rst ≠ none ∨ s.mode = mChrysalis ∨ s.mode = mBoot → exec .watchdogKick s = .next s) ∧
    (s.rst = none → s.mode = mChrysalis ∨ s.mode = mBoot → exec .watchdogExpire s = .next s) ∧
    -- an expiry that coincides with a reset is recorded by the order of the reset table
    (∀ k, s.rst = some k → exec .watchdogExpire s = .next { s.wf PW_RSTKIND.adr PW_RSTKIND.KIND (min k 2) with rst := some (min k 2) }) ∧
    (∀ brownout, ∃ u : State, exec (.powerOnReset brownout) s = .next u ∧ u.rst = some 0 ∧ u.resetLeft ∧ u.chans = [] ∧
      u.mons = [] ∧ u.vddq = false) ∧
    (∃ u : State, exec .pinReset s = .next u ∧ u.rst = some (min 1 (s.rst.getD 1)) ∧ u.resetLeft ∧
      u.vddq = (s.vddq || decide (s.mode = mChrysalis))) ∧
    (s.rst = some 0 → s.vddq = false → exec .vddqEnRise s = .next { (s.emit (.pin 1 true)).emit (.pin 2 true) with vddq := true }) ∧
    (s.rst ≠ some 0 ∨ s.vddq = true → exec .vddqEnRise s = .next s) ∧
    (∀ (kind : Fin 3) (n : Fin 24), s.rb SEC_STAT.adr SEC_STAT.DBGOPEN = false ∨ s.rst ≠ none ∨ s.mode = mChrysalis →
      exec (.debugReset kind n) s = .next s) ∧
    (∀ n : Fin 24, s.rb SEC_STAT.adr SEC_STAT.DBGOPEN = true → s.rst = none → s.mode ≠ mChrysalis →
      (∃ u : State, exec (.debugReset 0 n) s = .next u ∧ u.rst = some 5 ∧ u.resetLeft) ∧
      (s.scrub = none → (s.isl n).phase = .none → s.domOn (11 * n.val) = true →
        (∀ i ∈ regionIslands (n.val / 6), (s.isl i).phase = .none ∨ (s.isl i).kind ≠ 5) →
        exec (.debugReset 2 n) s = .next { s.dropRamps.setIsl n { s.isl n with phase := .draining, kind := 6, discarded := 0, disc := none } with
          rstJobs := s.rstJobs ++ [⟨[n.val], none⟩] }) ∧
      (s.scrub = none → (∀ i ∈ regionIslands (n.val % 4), (s.isl i).phase = .none ∧ ∀ d, islandDom i = some d → s.domOn d = true) →
        ∃ u : State, exec (.debugReset 1 n) s = .next u ∧ (∀ i ∈ regionIslands (n.val % 4), (u.isl i).phase = .draining ∧ (u.isl i).kind = 5) ∧
          (∀ i, i ∉ regionIslands (n.val % 4) → u.isl i = s.isl i) ∧ u.rstJobs = s.rstJobs ++ [⟨regionIslands (n.val % 4), none⟩] ∧
          u.mem = s.mem ∧ u.cores = s.cores)) ∧
    (∀ (m : Fin 16), let v (t : Bool) : State := { s with rst := none, modid := m, testEn := t }
      (s.rst = none → ∀ t, exec (.resetHoldEnd m t) s = .next s) ∧
      (s.rst ≠ none → exec (.resetHoldEnd m true) s = .next (v true)) ∧
      (∀ w : State, s.rst ≠ none → (v false).bootImages = (false, w) → exec (.resetHoldEnd m false) s = .next (w.bootLoad.bootEnd true)) ∧
      (∀ w : State, s.rst ≠ none → (v false).bootImages = (true, w) → exec (.resetHoldEnd m false) s =
        .next (upto 4 (fun c s => s.setIsl (35 + c) { s.isl (35 + c) with iso := true }) (w.bootLoad.wb HUB_RINGGLB.adr HUB_RINGGLB.READY
          true)))) ∧
    (∀ pf : Bool, (s.rst ≠ none ∨ s.mode = mChrysalis → exec (.wearAccountSave pf) s = .next s) ∧
      (s.rst = none → s.mode ≠ mChrysalis → pf = true ∨ s.wearAt = none → ∃ u : State, exec (.wearAccountSave pf) s = .next u ∧
        u.wearAt = some s.cyc ∧ u.mem = s.mem ∧ u.settings = s.settings) ∧
      (∀ t, s.wearAt = some t → s.cyc < t + 600000000000 → exec (.wearAccountSave false) s = .next s)) ∧
    (s.rst ≠ none → exec .hubCoreFault s = .next s) ∧
    (s.rst = none → s.mode ≠ mHalt → s.mode ≠ mChrysalis →
      -- leaving TEST ends its loopbacks and patterns (R402)
      let v0 := if s.mode = mTest then s.leaveTest else s
      let v := ((((v0.wf PW_MODE.adr PW_MODE.HALTCAUSE 2).wf PW_MODE.adr PW_MODE.HALTPARAM 0).enterMode mHalt).sleepEnd sWrongMode
        []).dropTimedTx.dropTimedSteps
      let w : State := { v with carriers := v.carriers.map State.noSlots, gbForced := true }
      exec .hubCoreFault s = .next (w.safeMoveAll.emit (.pin 4 false)).haltDrain) ∧
    (s.rst = none → s.mode = mHalt ∨ s.mode = mChrysalis → exec .hubCoreFault s = .next s) ∧
    -- the domains of HALT drain before they lose power (R26, R531)
    (s.domJob = none → let ds := State.haltDoms.filter fun d => s.domOn d
      s.haltDrain = ds.foldl (fun x d => x.domQuiesce d) { s with domJob := some ⟨none, false, ds, []⟩ })

/-- Chrysalis (R532 to R539): a voter that has ground to refuse ends the entry; a vote of yes is counted; a silent voter ends it; the power
goes down; an armed source that asserts after the commit is latched, the first with its time; the wake records the lowest of them and
resets the module. -/
def Obligations.ChrysalisIsVotedAndLeft : Prop :=
  ∀ s : State, s.Inv →
    (s.sleep = none → (∀ (d : Fin 352) yes, exec (.voterVote d yes) s = .next s) ∧ exec .voteTimeout s = .next s ∧
      exec .powerDownComplete s = .next s ∧ (∀ sec, exec (.wakeNAssert sec) s = .next s ∧ exec (.uartBreakWake sec) s = .next s ∧
        ∀ p, exec (.carriageEnergyDetect p sec) s = .next s) ∧ exec .alarmExpire s = .next s ∧ exec .wake s = .next s) ∧
    (∀ sl : Sleep, s.sleep = some sl → sl.committed = false →
      (∀ (d : Fin 352) yes, d.val ∉ sl.waiting → exec (.voterVote d yes) s = .next s) ∧
      (∀ (d : Fin 352) yes, d.val ∈ sl.waiting → s.voterRefuses d = true →
        let v := (s.wb PW_SLEEPSTAT.adr PW_SLEEPSTAT.SILENT false).wf PW_SLEEPSTAT.adr PW_SLEEPSTAT.DOMAIN d
        exec (.voterVote d yes) s = .next (((v.raise 0x0D03 903 d sl.yes 0).sleepEnd sBusy [BitVec.ofNat 32 d]).tuneMoves)) ∧
      (∀ d : Fin 352, d.val ∈ sl.waiting → s.voterRefuses d = false → exec (.voterVote d false) s = .next s) ∧
      (∀ d : Fin 352, d.val ∈ sl.waiting → s.voterRefuses d = false → d.val ≠ 350 → (∃ e ∈ sl.waiting, e ≠ d.val) →
        let sl' : Sleep := { sl with waiting := sl.waiting.filter fun x => x ≠ d.val, yes := sl.yes + 1 }
        exec (.voterVote d true) s = .next ({ s with sleep := some sl' }.wf PW_SLEEPSTAT.adr PW_SLEEPSTAT.YES (sl.yes + 1))) ∧
      (∀ d : Nat, sl.waiting = [d] → d < 352 → s.hubRefuses sl.ticket = false →
        let v := (s.wb PW_SLEEPSTAT.adr PW_SLEEPSTAT.SILENT true).wf PW_SLEEPSTAT.adr PW_SLEEPSTAT.DOMAIN d
        exec .voteTimeout s = .next (((v.raise 0x0D03 903 (d + 2 ^ 31) sl.yes 0).sleepEnd sBusy [BitVec.ofNat 32 (d + 2 ^ 31)]).tuneMoves)) ∧
      exec .powerDownComplete s = .next s ∧ (∀ sec, exec (.wakeNAssert sec) s = .next s)) ∧
    (∀ sl : Sleep, s.sleep = some sl → sl.committed = true →
      let first (n sec : Nat) : Sleep := { sl with latched := [n], latchSec := sec, early := !sl.down }
      let later (n : Nat) : Sleep := { sl with latched := sl.latched ++ [n] }
      let latch (n sec : Nat) : State := { s with aonSec := sec, sleep := some (if sl.latched = [] then first n sec else later n) }
      exec .powerDownComplete s = .next { s with sleep := some { sl with down := true } } ∧
      (∀ sec : BitVec 48, bit sl.armed 0 = true → 0 ∉ sl.latched → exec (.wakeNAssert sec) s = .next (latch 0 sec.toNat)) ∧
      (∀ sec : BitVec 48, bit sl.armed 0 = false ∨ 0 ∈ sl.latched → exec (.wakeNAssert sec) s = .next s) ∧
      (bit sl.armed 1 = true → 1 ∉ sl.latched → exec .alarmExpire s = .next (if s.aonAlarm = 0 then s else
        latch 1 s.aonAlarm)) ∧
      (∀ sec : BitVec 48, bit sl.armed 2 = true → 2 ∉ sl.latched → exec (.uartBreakWake sec) s = .next (latch 2 sec.toNat)) ∧
      (∀ (p : CpId) (sec : BitVec 48), bit sl.armed (8 + p) = true → (8 + p.val) ∉ sl.latched → exec (.carriageEnergyDetect p sec) s =
        .next (latch (8 + p) sec.toNat)) ∧
      (sl.latched = [] ∨ sl.down = false → exec .wake s = .next s) ∧
      (sl.latched ≠ [] → sl.down = true → ∃ u : State, exec .wake s = .next u ∧ u.rst = some (min 4 (s.rst.getD 4)) ∧ u.vddq = true ∧
        u.wakeDrv = true ∧ u.resetLeft))

/-! ### Guestbook (R577 to R595) -/

/-- The Guestbook (R579 to R583, R586, R590, R591): the waiting event of the next island in turn is taken and goes where its source's route
says: into a record, to its vector, to a counter of its region; at the end of a vector's interval its message is sent or held pending;
a flush writes the records that have not been flushed, each to its slot of the log. -/
def Obligations.EventsAreTakenRoutedAndFlushed : Prop :=
  ∀ s : State, s.Inv →
    ((∀ i < 63, s.evWaiting i = false) → exec .eventTake s = .next s) ∧
    (∀ (i k : Nat) (e : Event) (v : State), i = (s.gbNext + k) % 63 → k < 63 → s.evWaiting i = true →
      (∀ j < k, s.evWaiting ((s.gbNext + j) % 63) = false) → s.evPop i = (e, v) →
      let r := GB_ROUTE.adr e.src
      let gb := s.rb r GB_ROUTE.GBEN
      let msi := s.rb r GB_ROUTE.MSIEN
      let ink := s.rb r GB_ROUTE.INKEN
      let w : State := { v with gbNext := (i + 1) % 63 }
      let vec := s.rf r GB_ROUTE.VEC
      (gb = false → msi = false → ink = false → exec .eventTake s = .next w) ∧
      (gb = true → msi = false → ink = false → exec .eventTake s = .next (w.gbRecord e)) ∧
      (gb = false → msi = true → ink = false → exec .eventTake s = .next (((w.incWrap (GB_VECSTAT.adr vec) GB_VECSTAT.COUNT 1).wf
        (GB_VECSTAT.adr vec) GB_VECSTAT.LASTSRC e.src).msiRaise vec)) ∧
      (gb = false → msi = false → ink = true → ∀ (o : Option (Nat × Nat)) (x : State),
        w.busWrite 41 (inkDecrAddr (s.rf r GB_ROUTE.REGION)) (leBytes 4 (1 + 2 ^ 14 * s.rf r GB_ROUTE.CTR)) = (o, x) →
        exec .eventTake s = .next (if o.isSome then x.incSat GB_INKFAIL.adr GB_INKFAIL.COUNT 1 else x))) ∧
    (s.intake ≠ [] → s.gbNext = 34 → s.rb (GB_ROUTE.adr (s.intake.headD ⟨0, 0, 0, 0, 0⟩).src) GB_ROUTE.GBEN = true →
      s.rb (GB_ROUTE.adr (s.intake.headD ⟨0, 0, 0, 0, 0⟩).src) GB_ROUTE.MSIEN = false →
      s.rb (GB_ROUTE.adr (s.intake.headD ⟨0, 0, 0, 0, 0⟩).src) GB_ROUTE.INKEN = false → s.gbUnfl = 0 →
      let e := s.intake.headD ⟨0, 0, 0, 0, 0⟩
      ∃ (u : State) (t f : Nat), exec .eventTake s = .next u ∧ u.intake = s.intake.drop 1 ∧ u.gbNext = 35 ∧
        sget u.gbuf (s.gbHead % 8192) none = some ⟨s.gbHead, e.code, e.src, t, 1, f, e.p1, e.p2, e.p3⟩ ∧
        u.gbHead = (s.gbHead + 1) % 2 ^ 32 ∧ u.mem = s.mem) ∧
    (∀ v : Byte, v.toNat ∉ s.msiOpen → exec (.msiIntervalEnd v) s = .next s) ∧
    (∀ v : Byte, v.toNat ∈ s.msiOpen → let w : State := { s with msiOpen := s.msiOpen.filter fun x => x ≠ v.toNat }
      (s.msiReady v.toNat = true → exec (.msiIntervalEnd v) s =
        .next { w.emit (.msi v.toNat) with msixPba := s.msixPba.filter fun x => x ≠ v.toNat }) ∧
      (s.msiReady v.toNat = false → exec (.msiIntervalEnd v) s = .next (if v.toNat ∈ s.msixPba then w else
        { w with msixPba := s.msixPba ++ [v.toNat] }))) ∧
    (s.gbForced = false → s.gbWanted = false → exec .flushStart s = .next s) ∧
    (s.gbForced = true ∨ s.gbWanted = true → s.gbLost = 0 →
      let v : State := { (s.wb GB_STAT.adr GB_STAT.FLUSHING true).wb GB_STAT.adr GB_STAT.HELD false with gbForced := false, gbWanted := false }
      exec .flushStart s = .next v.gbWriteLog ∧ v.gbWriteLog.gbFlushSeq = s.gbHead ∧ v.gbWriteLog.gbHead = s.gbHead) ∧
    (s.gbFlushing = false → exec .flushComplete s = .next s) ∧
    (s.gbFlushing = true → s.gbWait = [] → ∃ u : State, exec .flushComplete s = .next u ∧ u.gbFlushing = false ∧ u.gbFlushSeq = s.gbHead ∧
      u.gbHead = s.gbHead)

/-! ### The block -/

/-- A step takes the command at the front of the queue and runs it on the state with the rest of the queue; on an empty queue a clock
passes (the model's choice, log entry 4). -/
def Obligations.StepRunsTheFrontCommand : Prop :=
  (∀ (s : State) (c : Instr) (rest : List Instr), s.pending = c :: rest → step s = exec c { s with pending := rest }) ∧
  (∀ s : State, s.pending = [] → step s = .next s.tick)

/-- Reset (R13, R14, R467, R540, R588): the module comes up in BOOT, in the hold of a power-on, with no unit, ring, carrier or event in any
state but its reset value, every register at the reset value of its fields, and nothing in memory; the invariant holds there. -/
def Obligations.ResetIsTheStateAfterPowerOn : Prop :=
  State.reset.Inv ∧ State.reset.pending = [] ∧ State.reset.mem = [] ∧ State.reset.mode = mBoot ∧ State.reset.rst = some kPor ∧
  State.reset.resetLeft ∧ (∀ n, State.reset.core n = Core.reset) ∧
  (∀ d < 352, State.reset.domOn d = true) ∧ (∀ i < 63, State.reset.rf (TP_XSTAT.adr i) TP_XSTAT.XCOUNT = xingCount i) ∧
  (∀ p < 8, State.reset.cpState p = 0) ∧ (∀ p < 12, State.reset.ethUp p = false) ∧
  State.reset.timeState = 0 ∧ State.reset.extSet = false ∧ State.reset.gbHead = 0 ∧
  State.reset.rb HUB_RINGGLB.adr HUB_RINGGLB.READY = false

/-- Every step keeps the invariant: memory, registers, error marks and the tables of the units stay canonical, TK_NS stays a 32-bit counter
(R467), and MODID stays a 4-bit strap (R607). -/
def Obligations.EveryStepKeepsTheInvariant : Prop :=
  ∀ s t : State, s.Inv → step s = .next t → t.Inv

/-- A command changes neither the queue nor what has left the module: what the module has sent stays sent, and only grows. -/
def Obligations.CommandsLeaveTheQueueAndWhatWasSent : Prop :=
  ∀ (c : Instr) (s t : State), exec c s = .next t → t.pending = s.pending ∧ s.out <:+ t.out

/-- A well-formed command is never turned away, and an ill-formed one always is, by name: the only commands that end in a fault name a
crossing past those of its island (R8) or a Porter channel past those of its block. -/
def Obligations.WellFormedCommandsRun : Prop :=
  ∀ (c : Instr) (s : State), (WellFormed c = true → ∃ t, exec c s = .next t) ∧
    (WellFormed c = false → exec c s = .fault .illFormed)
end

