-- ==== Sys2Proof/Laws/Keep.lean ====
section
/-! SUPPORT. What running any part of a command keeps: the queue, what has been sent, and the invariant. One lemma for each
function over the state says so; no later proof unfolds one for it. -/

namespace Sys2Proof.Machine

/-- From `a` to `b` the queue stands, what has been sent stays sent, and the invariant is kept. -/
structure Keeps (a b : State) : Prop where
  queue : b.pending = a.pending
  sent : a.out <:+ b.out
  inv : a.Inv → b.Inv

theorem Keeps.refl (s : State) : Keeps s s := ⟨rfl, List.suffix_refl _, id⟩

theorem Keeps.trans {a b c : State} (h : Keeps a b) (g : Keeps b c) : Keeps a c :=
  ⟨g.queue.trans h.queue, h.sent.trans g.sent, fun i => g.inv (h.inv i)⟩

/-- A change of other fields keeps what `Keeps` speaks of. -/
theorem Keeps.mk_other {a s : State} (h : Keeps a s)
    {cyc_ : ℕ}    {ext_ : ℕ}    {free_ : ℕ}
    {hostIn_ : List Sys2Proof.Byte}    {outst_ : List Req}    {hostReads_ : List Req}
    {intake_ : List Event}    {tableFull_ : List ℕ}    {scrub_ : Option Scrub}
    {ddrGiB_ : ℕ}    {ddrDev_ : ℕ}    {heldOver_ : Bool}
    {egress_ : List (List Sys2Proof.Byte)}    {pcieUp_ : Bool}    {bme_ : Bool}
    {memEn_ : Bool}    {msixEn_ : Bool}    {msixMask_ : Bool}
    {msixPba_ : List ℕ}    {msiOpen_ : List ℕ}    {hostFail_ : Bool}
    {uartBusy_ : Bool}    {gbNext_ : ℕ}    {gbLost_ : ℕ}
    {gbLostFirst_ : ℕ}    {gbForced_ : Bool}    {gbWanted_ : Bool}
    {gbWait_ : List (Ticket × ℕ)}    {gbRate_ : List (ℕ × ℕ)}    {utcSet_ : Bool}
    {strobes_ : List Strobe}    {capEnd_ : ℕ}    {capLog_ : List Capture}
    {tune_ : Option (ℕ × ℕ × ℕ)}    {loopAt_ : ℕ}    {ppsHigh_ : Bool}
    {synce_ : List (Option ℕ)}    {haltPend_ : Option ℕ}    {bootRecs_ : List (Option BootRec)}
    {wearSaved_ : Option (ℕ × List ℕ)}    {wearAt_ : Option ℕ}    {retired_ : List (ℕ × ℕ)}
    {update_ : Option Update}    {challenge_ : Option (BitVec 192)}    {measure_ : List (BitVec 384)}
    {levelMap_ : BitVec 256}    {rst_ : Option ℕ}    {domJob_ : Option DomJob}
    {rstJobs_ : List RstJob}    {sleep_ : Option Sleep}    {plJobs_ : List (ℕ × Ticket)}
    {selfTest_ : Option Ticket}    {testEn_ : Bool}    {vddq_ : Bool}
    {wdtAt_ : ℕ}    {aonSec_ : ℕ}    {wakeDrv_ : Bool}    {aonAlarm_ : ℕ}    {uplane_ : List Plane}    {rrSlot_ : ℕ}    {pcieCtl_ : PcieCtl}
 :
    Keeps a (State.mk s.pending cyc_ s.tkns ext_ free_ s.regs s.mem s.marks s.mbuf hostIn_ s.out s.xings s.islands outst_ hostReads_ s.routers s.evq intake_ s.eccq tableFull_ scrub_ ddrGiB_ ddrDev_ s.cores s.cops s.clk s.inks heldOver_ s.engines s.jobRecs egress_ s.rings rrSlot_ pcieUp_ bme_ memEn_ pcieCtl_ msixEn_ msixMask_ s.msixTab msixPba_ msiOpen_ hostFail_ uartBusy_ s.settings s.gbuf gbNext_ gbLost_ gbLostFirst_ gbForced_ gbWanted_ gbWait_ gbRate_ s.nvWr utcSet_ s.chans s.mons strobes_ capEnd_ capLog_ s.capSeq s.ptp tune_ loopAt_ ppsHigh_ synce_ haltPend_ bootRecs_ s.keyRecs wearSaved_ wearAt_ retired_ update_ challenge_ measure_ levelMap_ rst_ domJob_ rstJobs_ sleep_ plJobs_ selfTest_ s.pchans s.relIn s.eth s.cps s.carriers uplane_ s.dels s.prbs s.modid testEn_ vddq_ wdtAt_ aonSec_ aonAlarm_ wakeDrv_) :=
  ⟨h.queue, h.sent, fun i => ⟨(h.inv i).mem, (h.inv i).regs, (h.inv i).marks, (h.inv i).tables, (h.inv i).tkns, (h.inv i).modid⟩⟩

/-- A change of the tables of units keeps what `Keeps` speaks of when the tables stay canonical. -/
theorem Keeps.mk_tables {a s : State} (h : Keeps a s)
    {cyc_ : ℕ}    {ext_ : ℕ}    {free_ : ℕ}
    {mbuf_ : Sparse (List MergeEnt)}    {hostIn_ : List Sys2Proof.Byte}    {xings_ : Sparse Xing}
    {islands_ : Sparse IslandSt}    {outst_ : List Req}    {hostReads_ : List Req}
    {routers_ : Sparse Router}    {evq_ : Sparse EvQueue}    {intake_ : List Event}
    {eccq_ : Sparse EccQueue}    {tableFull_ : List ℕ}    {scrub_ : Option Scrub}
    {ddrGiB_ : ℕ}    {ddrDev_ : ℕ}    {cores_ : Sparse Core}
    {cops_ : Sparse Coproc}    {clk_ : Sparse ℕ}    {inks_ : Sparse Ink}
    {heldOver_ : Bool}    {engines_ : Sparse Engine}    {egress_ : List (List Sys2Proof.Byte)}
    {rings_ : Sparse Sys2Proof.Machine.Ring}    {pcieUp_ : Bool}    {bme_ : Bool}
    {memEn_ : Bool}    {msixEn_ : Bool}    {msixMask_ : Bool}
    {msixTab_ : Sparse Sys2Proof.Word}    {msixPba_ : List ℕ}    {msiOpen_ : List ℕ}
    {hostFail_ : Bool}    {uartBusy_ : Bool}    {settings_ : Sparse ℕ}
    {gbuf_ : Sparse (Option Rec)}    {gbNext_ : ℕ}    {gbLost_ : ℕ}
    {gbLostFirst_ : ℕ}    {gbForced_ : Bool}    {gbWanted_ : Bool}
    {gbWait_ : List (Ticket × ℕ)}    {gbRate_ : List (ℕ × ℕ)}    {nvWr_ : Sparse ℕ}
    {utcSet_ : Bool}    {chans_ : Sparse Chan}    {mons_ : Sparse Mon}
    {strobes_ : List Strobe}    {capEnd_ : ℕ}    {capLog_ : List Capture}
    {capSeq_ : Sparse ℕ}    {ptp_ : Sparse Ptp}    {tune_ : Option (ℕ × ℕ × ℕ)}
    {loopAt_ : ℕ}    {ppsHigh_ : Bool}    {synce_ : List (Option ℕ)}
    {haltPend_ : Option ℕ}    {bootRecs_ : List (Option BootRec)}    {keyRecs_ : Sparse (Option (BitVec 768))}
    {wearSaved_ : Option (ℕ × List ℕ)}    {wearAt_ : Option ℕ}    {retired_ : List (ℕ × ℕ)}
    {update_ : Option Update}    {challenge_ : Option (BitVec 192)}    {measure_ : List (BitVec 384)}
    {levelMap_ : BitVec 256}    {rst_ : Option ℕ}    {domJob_ : Option DomJob}
    {rstJobs_ : List RstJob}    {sleep_ : Option Sleep}    {plJobs_ : List (ℕ × Ticket)}
    {selfTest_ : Option Ticket}    {pchans_ : Sparse PChan}    {relIn_ : Sparse ℕ}
    {eth_ : Sparse EthPort}    {cps_ : Sparse CpPort}    {carriers_ : Sparse (Option Carrier)}
    {dels_ : Sparse (Option DelayRun)}    {prbs_ : Sparse (Option Ticket)}    {testEn_ : Bool}
    {vddq_ : Bool}    {wdtAt_ : ℕ}    {aonSec_ : ℕ}
    {wakeDrv_ : Bool}    {aonAlarm_ : ℕ}    {uplane_ : List Plane}    {rrSlot_ : ℕ}    {pcieCtl_ : PcieCtl}
    {jobRecs_ : Sparse (Option RecNote)}
    (ht : s.tablesWf = true → (State.mk s.pending cyc_ s.tkns ext_ free_ s.regs s.mem s.marks mbuf_ hostIn_ s.out xings_ islands_ outst_ hostReads_ routers_ evq_ intake_ eccq_ tableFull_ scrub_ ddrGiB_ ddrDev_ cores_ cops_ clk_ inks_ heldOver_ engines_ jobRecs_ egress_ rings_ rrSlot_ pcieUp_ bme_ memEn_ pcieCtl_ msixEn_ msixMask_ msixTab_ msixPba_ msiOpen_ hostFail_ uartBusy_ settings_ gbuf_ gbNext_ gbLost_ gbLostFirst_ gbForced_ gbWanted_ gbWait_ gbRate_ nvWr_ utcSet_ chans_ mons_ strobes_ capEnd_ capLog_ capSeq_ ptp_ tune_ loopAt_ ppsHigh_ synce_ haltPend_ bootRecs_ keyRecs_ wearSaved_ wearAt_ retired_ update_ challenge_ measure_ levelMap_ rst_ domJob_ rstJobs_ sleep_ plJobs_ selfTest_ pchans_ relIn_ eth_ cps_ carriers_ uplane_ dels_ prbs_ s.modid testEn_ vddq_ wdtAt_ aonSec_ aonAlarm_ wakeDrv_).tablesWf = true) :
    Keeps a (State.mk s.pending cyc_ s.tkns ext_ free_ s.regs s.mem s.marks mbuf_ hostIn_ s.out xings_ islands_ outst_ hostReads_ routers_ evq_ intake_ eccq_ tableFull_ scrub_ ddrGiB_ ddrDev_ cores_ cops_ clk_ inks_ heldOver_ engines_ jobRecs_ egress_ rings_ rrSlot_ pcieUp_ bme_ memEn_ pcieCtl_ msixEn_ msixMask_ msixTab_ msixPba_ msiOpen_ hostFail_ uartBusy_ settings_ gbuf_ gbNext_ gbLost_ gbLostFirst_ gbForced_ gbWanted_ gbWait_ gbRate_ nvWr_ utcSet_ chans_ mons_ strobes_ capEnd_ capLog_ capSeq_ ptp_ tune_ loopAt_ ppsHigh_ synce_ haltPend_ bootRecs_ keyRecs_ wearSaved_ wearAt_ retired_ update_ challenge_ measure_ levelMap_ rst_ domJob_ rstJobs_ sleep_ plJobs_ selfTest_ pchans_ relIn_ eth_ cps_ carriers_ uplane_ dels_ prbs_ s.modid testEn_ vddq_ wdtAt_ aonSec_ aonAlarm_ wakeDrv_) :=
  ⟨h.queue, h.sent, fun i => ⟨(h.inv i).mem, (h.inv i).regs, (h.inv i).marks, ht (h.inv i).tables, (h.inv i).tkns, (h.inv i).modid⟩⟩

/-! ### Sparse maps keep their canonical form -/

theorem swf_tail {α : Type} [DecidableEq α] {d : Nat → α} {k : Nat} {v : α} {m : Sparse α} (h : swf d ((k, v) :: m) = true) :
    swf d m = true := by
  cases m with
  | nil => rfl
  | cons e m => obtain ⟨k', v'⟩ := e; simp [swf] at h; exact h.2

/-- Keys below the first key of a canonical map may be put in front of it. -/
theorem swf_cons {α : Type} [DecidableEq α] {d : Nat → α} {k : Nat} {v : α} {m : Sparse α} :
    swf d ((k, v) :: m) = true ↔ v ≠ d k ∧ (∀ e ∈ m.head?, k < e.1) ∧ swf d m = true := by
  cases m with
  | nil => simp [swf]
  | cons e m => obtain ⟨k', v'⟩ := e; simp [swf, and_assoc]

theorem sput_head {α : Type} [DecidableEq α] {d : Nat → α} {m : Sparse α} {k j : Nat} {v : α} (hj : j < k)
    (h : swf d m = true) (hm : ∀ e ∈ m.head?, j < e.1) : ∀ e ∈ (sput m k v (d k)).head?, j < e.1 := by
  cases m with
  | nil => intro e; simp only [sput]; split <;> simp; intro he; subst he; exact hj
  | cons e m =>
    obtain ⟨k', v'⟩ := e
    have hk' : j < k' := hm (k', v') (by simp)
    intro x
    simp only [sput]
    split
    · split <;> (simp; intro hx; subst hx; assumption)
    · split
      · split
        · intro hx
          have h2 := (swf_cons.mp h).2.1 x hx
          omega
        · simp; intro hx; subst hx; exact hj
      · simp; intro hx; subst hx; exact hk'

theorem swf_sput {α : Type} [DecidableEq α] {d : Nat → α} {m : Sparse α} {k : Nat} {v : α} (h : swf d m = true) :
    swf d (sput m k v (d k)) = true := by
  induction m with
  | nil => simp only [sput]; split <;> simp_all [swf]
  | cons e m ih =>
    obtain ⟨k', v'⟩ := e
    have h' := swf_cons.mp h
    simp only [sput]
    split
    · split
      · exact h
      · exact swf_cons.mpr ⟨by assumption, by simpa using by assumption, h⟩
    · split
      · split
        · exact h'.2.2
        · rename_i hk hv
          subst hk
          exact swf_cons.mpr ⟨hv, h'.2.1, h'.2.2⟩
      · exact swf_cons.mpr ⟨h'.1, sput_head (by omega) h'.2.2 h'.2.1, ih h'.2.2⟩

theorem swf_sdrop {α : Type} [DecidableEq α] {d : Nat → α} {m : Sparse α} (p : Nat → Bool) (h : swf d m = true) :
    swf d (sdrop p m) = true ∧ ∀ j : Nat, (∀ e ∈ m.head?, j < e.1) → ∀ e ∈ (sdrop p m).head?, j < e.1 := by
  induction m with
  | nil => exact ⟨rfl, fun j hj => hj⟩
  | cons e m ih =>
    obtain ⟨k, v⟩ := e
    have h' := swf_cons.mp h
    have ih' := ih h'.2.2
    have hd : sdrop p ((k, v) :: m) = if p k then sdrop p m else (k, v) :: sdrop p m := by
      simp [sdrop, List.filter_cons]; split <;> simp_all
    rw [hd]
    split
    · refine ⟨ih'.1, fun j hj => ih'.2 j fun e he => ?_⟩
      have := h'.2.1 e he
      have := hj (k, v) (by simp)
      simp at this
      omega
    · exact ⟨swf_cons.mpr ⟨h'.1, ih'.2 k h'.2.1, ih'.1⟩, fun j hj e he => hj e (by simpa using he)⟩

theorem swf_drop {α : Type} [DecidableEq α] {d : Nat → α} {m : Sparse α} (p : Nat → Bool) (h : swf d m = true) :
    swf d (sdrop p m) = true := (swf_sdrop p h).1

/-! ### Folds keep what their steps keep -/

theorem Keeps.foldl {α : Type} {a s : State} {f : State → α → State} {l : List α} (hf : ∀ t x, Keeps a t → Keeps a (f t x))
    (h : Keeps a s) : Keeps a (l.foldl f s) := by
  induction l generalizing s with
  | nil => exact h
  | cons x l ih => exact ih (hf s x h)

theorem Keeps.foldl_snd {α β : Type} {a : State} {r : β × State} {f : β × State → α → β × State} {l : List α}
    (hf : ∀ t x, Keeps a t.2 → Keeps a (f t x).2) (h : Keeps a r.2) : Keeps a (l.foldl f r).2 := by
  induction l generalizing r with
  | nil => exact h
  | cons x l ih => exact ih (hf r x h)

theorem Keeps.foldl_snd_snd {α β γ : Type} {a : State} {r : β × γ × State} {f : β × γ × State → α → β × γ × State} {l : List α}
    (hf : ∀ t x, Keeps a t.2.2 → Keeps a (f t x).2.2) (h : Keeps a r.2.2) : Keeps a (l.foldl f r).2.2 := by
  induction l generalizing r with
  | nil => exact h
  | cons x l ih => exact ih (hf r x h)

theorem Keeps.foldl_trd {α β γ δ : Type} {a : State} {r : β × γ × δ × State} {f : β × γ × δ × State → α → β × γ × δ × State}
    {l : List α} (hf : ∀ t x, Keeps a t.2.2.2 → Keeps a (f t x).2.2.2) (h : Keeps a r.2.2.2) :
    Keeps a (l.foldl f r).2.2.2 := by
  induction l generalizing r with
  | nil => exact h
  | cons x l ih => exact ih (hf r x h)

theorem Keeps.foldl_fst {α β : Type} {a : State} {r : State × β} {f : State × β → α → State × β} {l : List α}
    (hf : ∀ t x, Keeps a t.1 → Keeps a (f t x).1) (h : Keeps a r.1) : Keeps a (l.foldl f r).1 := by
  induction l generalizing r with
  | nil => exact h
  | cons x l ih => exact ih (hf r x h)

theorem Keeps.foldl_fst_fst {α β γ : Type} {a : State} {r : (State × β) × γ} {f : (State × β) × γ → α → (State × β) × γ}
    {l : List α} (hf : ∀ t x, Keeps a t.1.1 → Keeps a (f t x).1.1) (h : Keeps a r.1.1) : Keeps a (l.foldl f r).1.1 := by
  induction l generalizing r with
  | nil => exact h
  | cons x l ih => exact ih (hf r x h)

theorem Keeps.foldl_mid {α β γ : Type} {a : State} {r : β × State × γ} {f : β × State × γ → α → β × State × γ}
    {l : List α} (hf : ∀ t x, Keeps a t.2.1 → Keeps a (f t x).2.1) (h : Keeps a r.2.1) : Keeps a (l.foldl f r).2.1 := by
  induction l generalizing r with
  | nil => exact h
  | cons x l ih => exact ih (hf r x h)

theorem Keeps.upto {a s : State} {n : Nat} {f : Nat → State → State} (hf : ∀ t i, Keeps a t → Keeps a (f i t))
    (h : Keeps a s) : Keeps a (upto n f s) := Keeps.foldl (fun t i ht => hf t i ht) h

theorem Keeps.of1 {α : Type} {a t : State} {p : State × α} {x : α} (e : p = (t, x)) (h : Keeps a p.1) : Keeps a t := by
  subst e; exact h

theorem Keeps.of2 {α : Type} {a t : State} {p : α × State} {x : α} (e : p = (x, t)) (h : Keeps a p.2) : Keeps a t := by
  subst e; exact h

theorem Keeps.of3 {α β : Type} {a t : State} {p : α × β × State} {x : α} {y : β} (e : p = (x, y, t)) (h : Keeps a p.2.2) :
    Keeps a t := by
  subst e; exact h

theorem Keeps.of4 {α β γ : Type} {a t : State} {p : α × β × γ × State} {x : α} {y : β} {z : γ} (e : p = (x, y, z, t))
    (h : Keeps a p.2.2.2) : Keeps a t := by
  subst e; exact h

/-! ### The fields that the invariant speaks of -/

theorem Keeps.setReg {a s : State} (h : Keeps a s) (k v : Nat) : Keeps a (s.setReg k v) :=
  ⟨h.queue, h.sent, fun i => ⟨(h.inv i).mem, swf_sput (h.inv i).regs, (h.inv i).marks, (h.inv i).tables, (h.inv i).tkns, (h.inv i).modid⟩⟩

theorem Keeps.setByte {a s : State} (h : Keeps a s) (k : Nat) (b : Byte) : Keeps a (s.setByte k b) :=
  ⟨h.queue, h.sent, fun i => ⟨swf_sput (d := fun _ => (0 : Byte)) (h.inv i).mem, (h.inv i).regs, (h.inv i).marks, (h.inv i).tables, (h.inv i).tkns,
    (h.inv i).modid⟩⟩

theorem Keeps.setMark {a s : State} (h : Keeps a s) (k : Nat) (m : Option Mark) : Keeps a (s.setMark k m) :=
  ⟨h.queue, h.sent, fun i => ⟨(h.inv i).mem, (h.inv i).regs, swf_sput (d := fun _ => none) (h.inv i).marks, (h.inv i).tables, (h.inv i).tkns,
    (h.inv i).modid⟩⟩

theorem Keeps.emit {a s : State} (h : Keeps a s) (o : Out) : Keeps a (s.emit o) :=
  ⟨h.queue, h.sent.trans (List.suffix_cons _ _), fun i => ⟨(h.inv i).mem, (h.inv i).regs, (h.inv i).marks, (h.inv i).tables, (h.inv i).tkns,
    (h.inv i).modid⟩⟩

theorem Keeps.zeroMem {a s : State} (h : Keeps a s) (p : Nat → Bool) : Keeps a (s.zeroMem p) :=
  ⟨h.queue, h.sent, fun i => ⟨(swf_sdrop p (h.inv i).mem).1, (h.inv i).regs, (swf_sdrop p (h.inv i).marks).1, (h.inv i).tables, (h.inv i).tkns,
    (h.inv i).modid⟩⟩

/-! ### Updates of a table beside its setters -/

theorem Keeps.clearSettings {a s : State} (h : Keeps a s) : Keeps a { s with settings := [] } :=
  h.mk_tables (by simp +contextual [State.tablesWf, swf])

theorem Keeps.clearLoaded {a s : State} (h : Keeps a s) (m : List (BitVec 384)) (l : BitVec 256) :
    Keeps a { s with measure := m, levelMap := l, settings := [], retired := [] } :=
  h.mk_tables (by simp +contextual [State.tablesWf, swf])

theorem Keeps.putGbuf {a s : State} (h : Keeps a s) (k l f : Nat) (r : Option Rec) :
    Keeps a { s with gbuf := sput s.gbuf k r none, gbLost := l, gbLostFirst := f } :=
  h.mk_tables (by simp +contextual [State.tablesWf, swf_sput])

theorem Keeps.clearPrbs {a s : State} (h : Keeps a s) : Keeps a { s with prbs := [] } :=
  h.mk_tables (by simp +contextual [State.tablesWf, swf])

theorem Keeps.clearMsix {a s : State} (h : Keeps a s) (e x m : Bool) (p : List Nat) :
    Keeps a { s with memEn := e, msixEn := x, msixMask := m, msixTab := [], msixPba := p } :=
  h.mk_tables (by simp +contextual [State.tablesWf, swf])

end Sys2Proof.Machine
end

