-- ==== Sys2Proof/Laws/Assoc.lean ====
section
/-! SUPPORT. Reading after writing: sparse maps, bit fields, registers, register fields, memory and the tables of units. -/

namespace Sys2Proof.Machine

/-! ### Sparse maps -/

/-- A key below every key of a canonical map is not listed. -/
theorem sget_below {α : Type} [DecidableEq α] {d : Nat → α} {m : Sparse α} {k : Nat} (h : swf d m = true)
    (hm : ∀ e ∈ m.head?, k < e.1) (x : α) : sget m k x = x := by
  induction m with
  | nil => rfl
  | cons e m ih =>
    obtain ⟨k', v'⟩ := e
    have h' := swf_cons.mp h
    have hk : k < k' := hm (k', v') (by simp)
    simp only [sget, if_neg (by omega : ¬k = k')]
    refine ih h'.2.2 fun e he => ?_
    have := h'.2.1 e he
    omega

theorem sget_sput_same {α : Type} [DecidableEq α] {d : Nat → α} {m : Sparse α} {k : Nat} {v : α} (h : swf d m = true) :
    sget (sput m k v (d k)) k (d k) = v := by
  induction m with
  | nil => simp only [sput]; split <;> simp_all [sget]
  | cons e m ih =>
    obtain ⟨k', v'⟩ := e
    have h' := swf_cons.mp h
    simp only [sput]
    split
    · split
      · rename_i hv; rw [sget_below h (by simpa using by assumption)]; exact hv.symm
      · simp [sget]
    · split
      · rename_i hk; subst hk
        split
        · rename_i hv; rw [sget_below h'.2.2 h'.2.1]; exact hv.symm
        · simp [sget]
      · rename_i hk; simp only [sget, if_neg hk]; exact ih h'.2.2

theorem sget_sput_ne {α : Type} [DecidableEq α] {m : Sparse α} {j k : Nat} {v e x : α} (hj : j ≠ k) :
    sget (sput m k v e) j x = sget m j x := by
  induction m with
  | nil => simp only [sput]; split <;> simp [sget, hj]
  | cons a m ih =>
    obtain ⟨k', v'⟩ := a
    simp only [sput]
    split
    · split <;> simp [sget, hj]
    · split
      · rename_i hk; subst hk; split <;> simp [sget, hj]
      · simp only [sget]; split <;> simp [ih]

/-! ### Bit fields -/

theorem bits_lt (w lo len : Nat) : bits w lo len < 2 ^ len := Nat.mod_lt _ (by positivity)

theorem bits_setBits_same (w lo len v : Nat) : bits (setBits w lo len v) lo len = v % 2 ^ len := by
  unfold bits setBits
  rw [Nat.shiftRight_eq_div_pow, Nat.shiftRight_eq_div_pow, Nat.pow_add]
  have h0 : (0 : Nat) < 2 ^ lo := by positivity
  have h1 : w % 2 ^ lo < 2 ^ lo := Nat.mod_lt _ h0
  have : (w % 2 ^ lo + v % 2 ^ len * 2 ^ lo + w / (2 ^ lo * 2 ^ len) * (2 ^ lo * 2 ^ len)) / 2 ^ lo
      = v % 2 ^ len + w / (2 ^ lo * 2 ^ len) * 2 ^ len := by
    rw [show w % 2 ^ lo + v % 2 ^ len * 2 ^ lo + w / (2 ^ lo * 2 ^ len) * (2 ^ lo * 2 ^ len)
      = w % 2 ^ lo + (v % 2 ^ len + w / (2 ^ lo * 2 ^ len) * 2 ^ len) * 2 ^ lo by ring]
    rw [Nat.add_mul_div_right _ _ h0, Nat.div_eq_of_lt h1, Nat.zero_add]
  rw [this, Nat.add_mul_mod_self_right, Nat.mod_mod]

/-! ### Registers -/

namespace State

theorem reg_setReg_same {s : State} (h : Registers.wf s.regs = true) (a v : Nat) : (s.setReg a v).reg a = v % 2 ^ 32 := by
  simp only [reg, setReg]
  rw [sget_sput_same (d := regDefault) h, BitVec.toNat_ofNat]

theorem reg_setReg_ne (s : State) {a b : Nat} (v : Nat) (hab : a ≠ b) : (s.setReg b v).reg a = s.reg a := by
  simp only [reg, setReg]
  rw [sget_sput_ne hab]

/-- A field within one word reads as it was last written, cut to its width. -/
theorem rf_wf_same {s : State} (h : Registers.wf s.regs = true) (a v : Nat) (f : Fld) (hf : f.lo + f.len ≤ 32) (hl : 0 < f.len) :
    (s.wf a f v).rf a f = v % 2 ^ f.len := by
  have h0 : f.lo / 32 = 0 := by omega
  have h1 : f.lo % 32 = f.lo := by omega
  simp only [rf, wf, h0, h1, if_pos hf, Nat.mul_zero, Nat.add_zero]
  rw [reg_setReg_same h]
  have hlt : setBits (s.reg a) f.lo f.len v < 2 ^ 32 := by
    have hr : s.reg a < 2 ^ 32 := (sget s.regs a (regDefault a)).isLt
    have e1 : s.reg a % 2 ^ f.lo < 2 ^ f.lo := Nat.mod_lt _ (by positivity)
    have e2 : v % 2 ^ f.len < 2 ^ f.len := Nat.mod_lt _ (by positivity)
    have e3 : s.reg a / 2 ^ (f.lo + f.len) < 2 ^ (32 - (f.lo + f.len)) := by
      rw [Nat.div_lt_iff_lt_mul (by positivity), ← Nat.pow_add]
      rwa [show 32 - (f.lo + f.len) + (f.lo + f.len) = 32 by omega]
    unfold setBits
    rw [Nat.shiftRight_eq_div_pow]
    have e4 : v % 2 ^ f.len * 2 ^ f.lo + 2 ^ f.lo ≤ 2 ^ (f.lo + f.len) := by
      rw [Nat.pow_add, Nat.mul_comm (2 ^ f.lo)]
      have := Nat.mul_le_mul_right (2 ^ f.lo) (Nat.succ_le_of_lt e2)
      rw [Nat.succ_mul] at this; exact this
    have e5 : s.reg a / 2 ^ (f.lo + f.len) * 2 ^ (f.lo + f.len) + 2 ^ (f.lo + f.len) ≤ 2 ^ 32 := by
      have := Nat.mul_le_mul_right (2 ^ (f.lo + f.len)) (Nat.succ_le_of_lt e3)
      rw [Nat.succ_mul, ← Nat.pow_add] at this
      rwa [show 32 - (f.lo + f.len) + (f.lo + f.len) = 32 by omega] at this
    omega
  rw [Nat.mod_eq_of_lt hlt, bits_setBits_same]

/-! ### Memory -/

theorem byteAt_setByte_same {s : State} (h : Memory.wf s.mem = true) (a : Nat) (b : Byte) : (s.setByte a b).byteAt a = b := by
  simp only [byteAt, setByte]
  exact sget_sput_same (d := fun _ => (0 : Byte)) h

theorem byteAt_setByte_ne (s : State) {a c : Nat} (b : Byte) (h : a ≠ c) : (s.setByte c b).byteAt a = s.byteAt a := by
  simp only [byteAt, setByte]
  rw [sget_sput_ne h]

end State

/-! ### The tables of units -/

namespace State

/-- A canonical table, from the conjunction that `tablesWf` is. -/
theorem xings_wf {s : State} (h : s.tablesWf = true) : swf (fun _ => Xing.idle) s.xings = true := by simp only [tablesWf, Bool.and_eq_true] at h; simp only [h]
theorem islands_wf {s : State} (h : s.tablesWf = true) : swf (fun _ => IslandSt.idle) s.islands = true := by simp only [tablesWf, Bool.and_eq_true] at h; simp only [h]
theorem evq_wf {s : State} (h : s.tablesWf = true) : swf (fun _ => ⟨[], 0⟩) s.evq = true := by simp only [tablesWf, Bool.and_eq_true] at h; simp only [h]
theorem eccq_wf {s : State} (h : s.tablesWf = true) : swf (fun _ => ⟨[], 0, 0⟩) s.eccq = true := by simp only [tablesWf, Bool.and_eq_true] at h; simp only [h]
theorem mbuf_wf {s : State} (h : s.tablesWf = true) : swf (fun _ => []) s.mbuf = true := by simp only [tablesWf, Bool.and_eq_true] at h; simp only [h]
theorem cores_wf {s : State} (h : s.tablesWf = true) : swf (fun _ => Core.reset) s.cores = true := by simp only [tablesWf, Bool.and_eq_true] at h; simp only [h]
theorem inks_wf {s : State} (h : s.tablesWf = true) : swf (fun _ => Ink.reset) s.inks = true := by simp only [tablesWf, Bool.and_eq_true] at h; simp only [h]
theorem rings_wf {s : State} (h : s.tablesWf = true) : swf (fun _ => Ring.reset) s.rings = true := by simp only [tablesWf, Bool.and_eq_true] at h; simp only [h]
theorem routers_wf {s : State} (h : s.tablesWf = true) : swf (fun _ => Router.idle) s.routers = true := by simp only [tablesWf, Bool.and_eq_true] at h; simp only [h]
theorem eth_wf {s : State} (h : s.tablesWf = true) : swf (fun _ => EthPort.reset) s.eth = true := by simp only [tablesWf, Bool.and_eq_true] at h; simp only [h]
theorem cps_wf {s : State} (h : s.tablesWf = true) : swf (fun _ => CpPort.reset) s.cps = true := by simp only [tablesWf, Bool.and_eq_true] at h; simp only [h]
theorem chans_wf {s : State} (h : s.tablesWf = true) : swf (fun _ => Chan.reset) s.chans = true := by simp only [tablesWf, Bool.and_eq_true] at h; simp only [h]
theorem mons_wf {s : State} (h : s.tablesWf = true) : swf (fun _ => Mon.reset) s.mons = true := by simp only [tablesWf, Bool.and_eq_true] at h; simp only [h]
theorem carriers_wf {s : State} (h : s.tablesWf = true) : swf (fun _ => none) s.carriers = true := by simp only [tablesWf, Bool.and_eq_true] at h; simp only [h]
theorem ptp_wf {s : State} (h : s.tablesWf = true) : swf (fun _ => Ptp.reset) s.ptp = true := by simp only [tablesWf, Bool.and_eq_true] at h; simp only [h]
theorem settings_wf {s : State} (h : s.tablesWf = true) : swf (factory) s.settings = true := by simp only [tablesWf, Bool.and_eq_true] at h; simp only [h]

theorem xing_setXing_same {s : State} (h : s.tablesWf = true) (k v) : (s.setXing k v).xing k = v := sget_sput_same (d := fun _ => Xing.idle) (xings_wf h)
theorem xing_setXing_ne (s : State) {j k : Nat} (v) (h : j ≠ k) : (s.setXing k v).xing j = s.xing j := sget_sput_ne h
theorem isl_setIsl_same {s : State} (h : s.tablesWf = true) (k v) : (s.setIsl k v).isl k = v := sget_sput_same (d := fun _ => IslandSt.idle) (islands_wf h)
theorem isl_setIsl_ne (s : State) {j k : Nat} (v) (h : j ≠ k) : (s.setIsl k v).isl j = s.isl j := sget_sput_ne h
theorem evqOf_setEvq_same {s : State} (h : s.tablesWf = true) (k v) : (s.setEvq k v).evqOf k = v := sget_sput_same (d := fun _ => (⟨[], 0⟩ : EvQueue)) (evq_wf h)
theorem evqOf_setEvq_ne (s : State) {j k : Nat} (v) (h : j ≠ k) : (s.setEvq k v).evqOf j = s.evqOf j := sget_sput_ne h
theorem eccqOf_setEccq_same {s : State} (h : s.tablesWf = true) (k v) : (s.setEccq k v).eccqOf k = v := sget_sput_same (d := fun _ => (⟨[], 0, 0⟩ : EccQueue)) (eccq_wf h)
theorem eccqOf_setEccq_ne (s : State) {j k : Nat} (v) (h : j ≠ k) : (s.setEccq k v).eccqOf j = s.eccqOf j := sget_sput_ne h
theorem mbufOf_setMbuf_same {s : State} (h : s.tablesWf = true) (k v) : (s.setMbuf k v).mbufOf k = v := sget_sput_same (d := fun _ => ([] : List MergeEnt)) (mbuf_wf h)
theorem mbufOf_setMbuf_ne (s : State) {j k : Nat} (v) (h : j ≠ k) : (s.setMbuf k v).mbufOf j = s.mbufOf j := sget_sput_ne h
theorem core_setCore_same {s : State} (h : s.tablesWf = true) (k v) : (s.setCore k v).core k = v := sget_sput_same (d := fun _ => Core.reset) (cores_wf h)
theorem core_setCore_ne (s : State) {j k : Nat} (v) (h : j ≠ k) : (s.setCore k v).core j = s.core j := sget_sput_ne h
theorem ink_setInk_same {s : State} (h : s.tablesWf = true) (k v) : (s.setInk k v).ink k = v := sget_sput_same (d := fun _ => Ink.reset) (inks_wf h)
theorem ink_setInk_ne (s : State) {j k : Nat} (v) (h : j ≠ k) : (s.setInk k v).ink j = s.ink j := sget_sput_ne h
theorem ring_setRing_same {s : State} (h : s.tablesWf = true) (k v) : (s.setRing k v).ring k = v := sget_sput_same (d := fun _ => Ring.reset) (rings_wf h)
theorem ring_setRing_ne (s : State) {j k : Nat} (v) (h : j ≠ k) : (s.setRing k v).ring j = s.ring j := sget_sput_ne h
theorem router_setRouter_same {s : State} (h : s.tablesWf = true) (k v) : (s.setRouter k v).router k = v := sget_sput_same (d := fun _ => Router.idle) (routers_wf h)
theorem router_setRouter_ne (s : State) {j k : Nat} (v) (h : j ≠ k) : (s.setRouter k v).router j = s.router j := sget_sput_ne h
theorem ethOf_setEth_same {s : State} (h : s.tablesWf = true) (k v) : (s.setEth k v).ethOf k = v := sget_sput_same (d := fun _ => EthPort.reset) (eth_wf h)
theorem ethOf_setEth_ne (s : State) {j k : Nat} (v) (h : j ≠ k) : (s.setEth k v).ethOf j = s.ethOf j := sget_sput_ne h
theorem cp_setCp_same {s : State} (h : s.tablesWf = true) (k v) : (s.setCp k v).cp k = v := sget_sput_same (d := fun _ => CpPort.reset) (cps_wf h)
theorem cp_setCp_ne (s : State) {j k : Nat} (v) (h : j ≠ k) : (s.setCp k v).cp j = s.cp j := sget_sput_ne h
theorem chan_setChan_same {s : State} (h : s.tablesWf = true) (k v) : (s.setChan k v).chan k = v := sget_sput_same (d := fun _ => Chan.reset) (chans_wf h)
theorem chan_setChan_ne (s : State) {j k : Nat} (v) (h : j ≠ k) : (s.setChan k v).chan j = s.chan j := sget_sput_ne h
theorem mon_setMon_same {s : State} (h : s.tablesWf = true) (k v) : (s.setMon k v).mon k = v := sget_sput_same (d := fun _ => Mon.reset) (mons_wf h)
theorem mon_setMon_ne (s : State) {j k : Nat} (v) (h : j ≠ k) : (s.setMon k v).mon j = s.mon j := sget_sput_ne h
theorem carrier_setCarrier_same {s : State} (h : s.tablesWf = true) (k v) : (s.setCarrier k v).carrier k = v := sget_sput_same (d := fun _ => (none : Option Carrier)) (carriers_wf h)
theorem carrier_setCarrier_ne (s : State) {j k : Nat} (v) (h : j ≠ k) : (s.setCarrier k v).carrier j = s.carrier j := sget_sput_ne h
theorem ptpOf_setPtp_same {s : State} (h : s.tablesWf = true) (k v) : (s.setPtp k v).ptpOf k = v := sget_sput_same (d := fun _ => Ptp.reset) (ptp_wf h)
theorem ptpOf_setPtp_ne (s : State) {j k : Nat} (v) (h : j ≠ k) : (s.setPtp k v).ptpOf j = s.ptpOf j := sget_sput_ne h
theorem setting_putSetting_same {s : State} (h : s.tablesWf = true) (k v) : (s.putSetting k v).setting k = v := sget_sput_same (d := factory) (settings_wf h)
theorem setting_putSetting_ne (s : State) {j k : Nat} (v) (h : j ≠ k) : (s.putSetting k v).setting j = s.setting j := sget_sput_ne h
theorem engine_setEngine_same {s : State} (h : s.tablesWf = true) (r e v) : (s.setEngine r e v).engine r e = v := sget_sput_same (d := fun _ => Engine.reset) (by simp only [tablesWf, Bool.and_eq_true] at h; simp only [h])
theorem pchan_setPchan_same {s : State} (h : s.tablesWf = true) (b c v) : (s.setPchan b c v).pchan b c = v := sget_sput_same (d := fun _ => PChan.reset) (by simp only [tablesWf, Bool.and_eq_true] at h; simp only [h])

end State

end Sys2Proof.Machine
end

