-- ==== Sys2Proof/Laws/Frames.lean ====
section
/-! SUPPORT. What the shared operations can do, each said once: two writes of one key, raising an event, a write of the bus that lies in
one line, a gate that stops nothing, and the registers and records that a reset leaves. -/

namespace Sys2Proof.Machine

/-- A second write of a key takes the place of the first. -/
theorem sput_sput_same {α : Type} [DecidableEq α] {d : Nat → α} {m : Sparse α} {k : Nat} {v w : α} (h : swf d m = true) :
    sput (sput m k v (d k)) k w (d k) = sput m k w (d k) := by
  induction m with
  | nil => simp only [sput]; split <;> simp [sput]
  | cons e m ih =>
    obtain ⟨k', v'⟩ := e
    have h' := swf_cons.mp h
    simp only [sput]
    split
    · rename_i hk
      split
      · simp only [sput, if_pos hk]
      · simp [sput]
    · rename_i hk
      split
      · rename_i hk'; subst hk'
        split
        · rename_i hv
          cases m with
          | nil => simp [sput]
          | cons e m =>
            obtain ⟨k2, v2⟩ := e
            have hlt : k < k2 := by simpa using h'.2.1
            simp [sput, hlt]
        · simp [sput]
      · rename_i hk'
        simp only [sput, if_neg hk, if_neg hk', ih h'.2.2]

namespace State

/-- An event changes only the event queues, their crossings, the intake of the Guestbook and the count of lost events. -/
theorem raise_frame (s : State) (code src p1 p2 p3 : Nat) : ∃ evq xings intake regs,
    s.raise code src p1 p2 p3 = { s with evq := evq, xings := xings, intake := intake, regs := regs } := by
  unfold raise raiseIn
  dsimp only
  split
  · exact ⟨s.evq, s.xings, s.intake, s.regs, rfl⟩
  · split
    · exact ⟨s.evq, s.xings, _, s.regs, rfl⟩
    · split
      · unfold evqLaunch
        dsimp only
        split
        · exact ⟨_, s.xings, s.intake, s.regs, rfl⟩
        · split
          · exact ⟨_, s.xings, s.intake, s.regs, rfl⟩
          · exact ⟨_, _, s.intake, s.regs, rfl⟩
      · exact ⟨_, s.xings, s.intake, _, rfl⟩

/-- A gate that stops nothing leaves the state as it is. -/
theorem gate_none {s : State} {src tag a : Nat} (h : (s.gate src tag a).1 = none) : ∃ t, s.gate src tag a = (none, t, s) := by
  revert h
  unfold State.gate
  split
  · dsimp only
    split <;> simp
  · dsimp only
    split
    · simp
    · split
      · simp
      · split
        · simp
        · split
          · split <;> simp
          · simp

/-- The byte enables of bytes that lie in one half line, half by half. -/
theorem half_enables {o n : Nat} (h0 : 0 < n) (h : o % 32 + n ≤ 32) (ho : o < 64) :
    (o < 32 ∧ bits ((2 ^ n - 1) * 2 ^ o) 32 32 = 0 ∧ bits ((2 ^ n - 1) * 2 ^ o) 0 32 = (2 ^ n - 1) * 2 ^ o) ∨
    (bits ((2 ^ n - 1) * 2 ^ o) 0 32 = 0 ∧ bits ((2 ^ n - 1) * 2 ^ o) 32 32 * 2 ^ 32 = (2 ^ n - 1) * 2 ^ o) := by
  have h1 : 2 ^ n ≤ 2 ^ (32 - o % 32) := Nat.pow_le_pow_right (by omega) (by omega)
  have h2 : 2 ^ (32 - o % 32) * 2 ^ (o % 32) = 2 ^ 32 := by rw [← Nat.pow_add]; congr 1; omega
  have h3 : 0 < 2 ^ (o % 32) := by positivity
  have h4 : (2 ^ n - 1) * 2 ^ (o % 32) < 2 ^ 32 := by
    rw [← h2]; exact Nat.mul_lt_mul_of_pos_right (by have : 0 < 2 ^ n := by positivity
                                                     omega) h3
  unfold bits
  by_cases hb : o < 32
  · left
    rw [Nat.mod_eq_of_lt hb] at h4
    simp only [Nat.shiftRight_eq_div_pow]
    refine ⟨hb, ?_, ?_⟩
    · rw [Nat.div_eq_of_lt h4]; rfl
    · simp only [Nat.pow_zero, Nat.div_one]; exact Nat.mod_eq_of_lt h4
  · right
    have ho' : o % 32 + 32 = o := by omega
    have he : (2 ^ n - 1) * 2 ^ o = (2 ^ n - 1) * 2 ^ (o % 32) * 2 ^ 32 := by
      rw [Nat.mul_assoc, ← Nat.pow_add, ho']
    rw [he]
    simp only [Nat.shiftRight_eq_div_pow]
    generalize (2 ^ n - 1) * 2 ^ (o % 32) = x at h4 ⊢
    omega

/-- A write of the bus whose bytes fill a line or lie in one half line is one request. -/
theorem busWrite_line (s : State) (src a : Nat) (bs : List Byte) (h0 : bs ≠ [])
    (h : (a % 64 = 0 ∧ bs.length = 64) ∨ a % 32 + bs.length ≤ 32) :
    s.busWrite src a bs =
      let r := s.drawn.lineWrite src (s.draw 8).1 (a - a % 64) (if bs.length = 64 then .whole else .part)
        ((2 ^ bs.length - 1) * 2 ^ (a % 64)) (leVal bs * 2 ^ (8 * (a % 64)))
      (if r.1 ≠ stOk then some (r.1, a) else none, r.2.2) := by
  have hl : bs.length ≠ 0 := by simpa using h0
  have hl' : 0 < bs.length := by omega
  have hp : ∀ n, pieces (n + 2) a bs.length = [(a, bs.length)] := by
    intro n
    have hm : min bs.length (64 - a % 64) = bs.length := by omega
    simp only [pieces, if_neg hl, hm, Nat.sub_self, if_true]
  have hs : ∀ e d k, ((e = 2 ^ 64 - 1 ∧ k = WrKind.whole) ∨ (0 < e ∧ bits e 0 64 ≠ 2 ^ 64 - 1 ∧ k = WrKind.part ∧
      ((bits e 32 32 = 0 ∧ bits e 0 32 = e) ∨ (bits e 0 32 = 0 ∧ bits e 32 32 * 2 ^ 32 = e)))) →
      s.storeLine src (a - a % 64) e d =
        let r := s.drawn.lineWrite src (s.draw 8).1 (a - a % 64) k e d
        (if r.1 = stOk then [] else [r.1], r.2.2) := by
    rintro e d k (⟨rfl, rfl⟩ | ⟨he, hne, rfl, ⟨h1, h2⟩ | ⟨h1, h2⟩⟩)
    · unfold storeLine
      dsimp only
      rw [if_pos (by decide), if_neg (by decide)]
      simp only [List.nil_append]
      rfl
    · unfold storeLine
      dsimp only
      rw [if_neg hne, h1, h2]
      simp only [Nat.zero_mul, if_true, if_neg (Nat.pos_iff_ne_zero.mp he), List.nil_append]
      rfl
    · unfold storeLine
      dsimp only
      rw [if_neg hne, h1, h2]
      simp only [if_true, if_neg (Nat.pos_iff_ne_zero.mp he), List.nil_append]
      rfl
  unfold busWrite
  rw [hp]
  simp only [List.foldl_cons, List.foldl_nil, Nat.sub_self, List.drop_zero, List.take_length]
  rw [hs _ _ (if bs.length = 64 then .whole else .part)]
  · generalize s.drawn.lineWrite src (s.draw 8).1 (a - a % 64) (if bs.length = 64 then .whole else .part)
      ((2 ^ bs.length - 1) * 2 ^ (a % 64)) (leVal bs * 2 ^ (8 * (a % 64))) = r
    by_cases hr : r.1 = stOk <;> simp [hr]
  · by_cases hst : bs.length = 64
    · left
      have : a % 64 = 0 := by omega
      simp [hst, this]
    · right
      have hh : a % 32 + bs.length ≤ 32 := by omega
      have hw : (2 ^ bs.length - 1) * 2 ^ (a % 64) ≠ 0 := by
        have : 1 < 2 ^ bs.length := Nat.one_lt_two_pow hl
        have : 0 < 2 ^ (a % 64) := by positivity
        exact Nat.mul_ne_zero (by omega) (by omega)
      have hx := half_enables (o := a % 64) hl' (by omega) (by omega)
      refine ⟨by omega, ?_, by simp [hst], ?_⟩
      · rcases hx with ⟨-, hx, hy⟩ | ⟨hx, hy⟩ <;>
          (unfold bits at hx ⊢; simp only [Nat.shiftRight_eq_div_pow, Nat.pow_zero, Nat.div_one] at hx ⊢; omega)
      · rcases hx with ⟨-, hx, hy⟩ | hx
        · exact Or.inl ⟨hx, hy⟩
        · exact Or.inr hx

/-- A reset of registers changes registers only. -/
theorem resetRegs_frame (s : State) (p : Nat → Bool) (k : Nat) : ∃ r, s.resetRegs p k = { s with regs := r } := by
  unfold resetRegs
  generalize s.regs = l
  induction l generalizing s with
  | nil => exact ⟨s.regs, rfl⟩
  | cons a l ih =>
    simp only [List.foldl_cons]
    obtain ⟨r, hr⟩ := ih (if p a.1 then s.setReg a.1 (keepWord a.1 a.2.toNat k) else s)
    rw [hr]
    split <;> exact ⟨r, rfl⟩

end State

end Sys2Proof.Machine
end

