-- ==== Sys2Proof/Laws/KeepOps.lean ====
section
/-! SUPPORT. The functions of Machine/Ops.lean keep the queue, what has been sent, and the invariant. -/

namespace Sys2Proof.Machine

theorem State.setXing_keeps {z₀ s : State} (k : ℕ) (x : Xing) (hz : Keeps z₀ s) :
    Keeps z₀ (State.setXing s k x) := by
  unfold State.setXing
  repeat' (first
    | with_reducible assumption
    | split
    | intro _ _ _
    | intro _ _
    | intro _
    | with_reducible refine Keeps.of2 (by with_reducible assumption) ?_
    | with_reducible refine Keeps.of1 (by with_reducible assumption) ?_
    | with_reducible refine Keeps.of3 (by with_reducible assumption) ?_
    | with_reducible refine Keeps.of4 (by with_reducible assumption) ?_
    | with_reducible apply Keeps.upto
    | with_reducible apply Keeps.foldl
    | with_reducible apply Keeps.foldl_snd_snd
    | with_reducible apply Keeps.foldl_snd
    | with_reducible apply Keeps.foldl_trd
    | with_reducible apply Keeps.foldl_fst_fst
    | with_reducible apply Keeps.foldl_fst
    | with_reducible apply Keeps.foldl_mid
    | dsimp only
    | (with_reducible apply Keeps.mk_other; with_reducible assumption)
    | (refine Keeps.mk_tables ?_ (by simp +contextual [State.tablesWf, swf_sput, swf_drop]); with_reducible assumption))

theorem State.evqLaunch_keeps {z₀ s : State} (i : ℕ) (hz : Keeps z₀ s) :
    Keeps z₀ (State.evqLaunch s i) := by
  unfold State.evqLaunch
  repeat' (first
    | with_reducible assumption
    | with_reducible apply State.setXing_keeps
    | split
    | intro _ _ _
    | intro _ _
    | intro _
    | with_reducible refine Keeps.of2 (by with_reducible assumption) ?_
    | with_reducible refine Keeps.of1 (by with_reducible assumption) ?_
    | with_reducible refine Keeps.of3 (by with_reducible assumption) ?_
    | with_reducible refine Keeps.of4 (by with_reducible assumption) ?_
    | with_reducible apply Keeps.upto
    | with_reducible apply Keeps.foldl
    | with_reducible apply Keeps.foldl_snd_snd
    | with_reducible apply Keeps.foldl_snd
    | with_reducible apply Keeps.foldl_trd
    | with_reducible apply Keeps.foldl_fst_fst
    | with_reducible apply Keeps.foldl_fst
    | with_reducible apply Keeps.foldl_mid
    | dsimp only)

theorem State.setEvq_keeps {z₀ s : State} (i : ℕ) (q : EvQueue) (hz : Keeps z₀ s) :
    Keeps z₀ (State.setEvq s i q) := by
  unfold State.setEvq
  repeat' (first
    | with_reducible assumption
    | split
    | intro _ _ _
    | intro _ _
    | intro _
    | with_reducible refine Keeps.of2 (by with_reducible assumption) ?_
    | with_reducible refine Keeps.of1 (by with_reducible assumption) ?_
    | with_reducible refine Keeps.of3 (by with_reducible assumption) ?_
    | with_reducible refine Keeps.of4 (by with_reducible assumption) ?_
    | with_reducible apply Keeps.upto
    | with_reducible apply Keeps.foldl
    | with_reducible apply Keeps.foldl_snd_snd
    | with_reducible apply Keeps.foldl_snd
    | with_reducible apply Keeps.foldl_trd
    | with_reducible apply Keeps.foldl_fst_fst
    | with_reducible apply Keeps.foldl_fst
    | with_reducible apply Keeps.foldl_mid
    | dsimp only
    | (with_reducible apply Keeps.mk_other; with_reducible assumption)
    | (refine Keeps.mk_tables ?_ (by simp +contextual [State.tablesWf, swf_sput, swf_drop]); with_reducible assumption))

theorem State.wf_keeps {z₀ s : State} (a : ℕ) (f : Fld) (v : ℕ) (hz : Keeps z₀ s) :
    Keeps z₀ (State.wf s a f v) := by
  unfold State.wf
  repeat' (first
    | with_reducible assumption
    | with_reducible apply Keeps.setReg
    | split
    | intro _ _ _
    | intro _ _
    | intro _
    | with_reducible refine Keeps.of2 (by with_reducible assumption) ?_
    | with_reducible refine Keeps.of1 (by with_reducible assumption) ?_
    | with_reducible refine Keeps.of3 (by with_reducible assumption) ?_
    | with_reducible refine Keeps.of4 (by with_reducible assumption) ?_
    | with_reducible apply Keeps.upto
    | with_reducible apply Keeps.foldl
    | with_reducible apply Keeps.foldl_snd_snd
    | with_reducible apply Keeps.foldl_snd
    | with_reducible apply Keeps.foldl_trd
    | with_reducible apply Keeps.foldl_fst_fst
    | with_reducible apply Keeps.foldl_fst
    | with_reducible apply Keeps.foldl_mid
    | dsimp only)

theorem State.incSat_keeps {z₀ s : State} (a : ℕ) (f : Fld) (n : ℕ) (hz : Keeps z₀ s) :
    Keeps z₀ (State.incSat s a f n) := by
  unfold State.incSat
  repeat' (first
    | with_reducible assumption
    | with_reducible apply State.wf_keeps)

theorem State.raiseIn_keeps {z₀ s : State} (i : ℕ) (code : ℕ) (src : ℕ) (p1 : ℕ) (p2 : ℕ) (p3 : ℕ) (hz : Keeps z₀ s) :
    Keeps z₀ (State.raiseIn s i code src p1 p2 p3) := by
  unfold State.raiseIn
  repeat' (first
    | with_reducible assumption
    | with_reducible apply State.evqLaunch_keeps
    | with_reducible apply State.setEvq_keeps
    | with_reducible apply State.incSat_keeps
    | split
    | intro _ _ _
    | intro _ _
    | intro _
    | with_reducible refine Keeps.of2 (by with_reducible assumption) ?_
    | with_reducible refine Keeps.of1 (by with_reducible assumption) ?_
    | with_reducible refine Keeps.of3 (by with_reducible assumption) ?_
    | with_reducible refine Keeps.of4 (by with_reducible assumption) ?_
    | with_reducible apply Keeps.upto
    | with_reducible apply Keeps.foldl
    | with_reducible apply Keeps.foldl_snd_snd
    | with_reducible apply Keeps.foldl_snd
    | with_reducible apply Keeps.foldl_trd
    | with_reducible apply Keeps.foldl_fst_fst
    | with_reducible apply Keeps.foldl_fst
    | with_reducible apply Keeps.foldl_mid
    | dsimp only
    | (with_reducible apply Keeps.mk_other; with_reducible assumption))

theorem State.raise_keeps {z₀ s : State} (code : ℕ) (src : ℕ) (p1 : ℕ) (p2 : ℕ) (p3 : ℕ) (hz : Keeps z₀ s) :
    Keeps z₀ (State.raise s code src p1 p2 p3) := by
  unfold State.raise
  repeat' (first
    | with_reducible assumption
    | with_reducible apply State.raiseIn_keeps)

theorem State.wb_keeps {z₀ s : State} (a : ℕ) (f : Fld) (b : Bool) (hz : Keeps z₀ s) :
    Keeps z₀ (State.wb s a f b) := by
  unfold State.wb
  repeat' (first
    | with_reducible assumption
    | with_reducible apply State.wf_keeps)

theorem State.draw_keeps {z₀ s : State} (w : ℕ) (hz : Keeps z₀ s) :
    Keeps z₀ (State.draw s w).2 := by
  unfold State.draw
  repeat' (first
    | with_reducible assumption
    | split
    | intro _ _ _
    | intro _ _
    | intro _
    | with_reducible refine Keeps.of2 (by with_reducible assumption) ?_
    | with_reducible refine Keeps.of1 (by with_reducible assumption) ?_
    | with_reducible refine Keeps.of3 (by with_reducible assumption) ?_
    | with_reducible refine Keeps.of4 (by with_reducible assumption) ?_
    | with_reducible apply Keeps.upto
    | with_reducible apply Keeps.foldl
    | with_reducible apply Keeps.foldl_snd_snd
    | with_reducible apply Keeps.foldl_snd
    | with_reducible apply Keeps.foldl_trd
    | with_reducible apply Keeps.foldl_fst_fst
    | with_reducible apply Keeps.foldl_fst
    | with_reducible apply Keeps.foldl_mid
    | dsimp only
    | (with_reducible apply Keeps.mk_other; with_reducible assumption))

theorem State.raiseA_keeps {z₀ s : State} (code : ℕ) (src : ℕ) (p1 : ℕ) (addr : ℕ) (hz : Keeps z₀ s) :
    Keeps z₀ (State.raiseA s code src p1 addr) := by
  unfold State.raiseA
  repeat' (first
    | with_reducible assumption
    | with_reducible apply State.raise_keeps)

theorem State.drawBytes_keeps {z₀ s : State} (n : ℕ) (hz : Keeps z₀ s) :
    Keeps z₀ (State.drawBytes s n).2 := by
  unfold State.drawBytes
  repeat' (first
    | with_reducible assumption
    | split
    | intro _ _ _
    | intro _ _
    | intro _
    | with_reducible refine Keeps.of2 (by with_reducible assumption) ?_
    | with_reducible refine Keeps.of1 (by with_reducible assumption) ?_
    | with_reducible refine Keeps.of3 (by with_reducible assumption) ?_
    | with_reducible refine Keeps.of4 (by with_reducible assumption) ?_
    | with_reducible apply Keeps.upto
    | with_reducible apply Keeps.foldl
    | with_reducible apply Keeps.foldl_snd_snd
    | with_reducible apply Keeps.foldl_snd
    | with_reducible apply Keeps.foldl_trd
    | with_reducible apply Keeps.foldl_fst_fst
    | with_reducible apply Keeps.foldl_fst
    | with_reducible apply Keeps.foldl_mid
    | dsimp only
    | (with_reducible apply Keeps.mk_other; with_reducible assumption))

theorem State.eccLaunch_keeps {z₀ s : State} (i : ℕ) (hz : Keeps z₀ s) :
    Keeps z₀ (State.eccLaunch s i) := by
  unfold State.eccLaunch
  repeat' (first
    | with_reducible assumption
    | with_reducible apply State.setXing_keeps
    | split
    | intro _ _ _
    | intro _ _
    | intro _
    | with_reducible refine Keeps.of2 (by with_reducible assumption) ?_
    | with_reducible refine Keeps.of1 (by with_reducible assumption) ?_
    | with_reducible refine Keeps.of3 (by with_reducible assumption) ?_
    | with_reducible refine Keeps.of4 (by with_reducible assumption) ?_
    | with_reducible apply Keeps.upto
    | with_reducible apply Keeps.foldl
    | with_reducible apply Keeps.foldl_snd_snd
    | with_reducible apply Keeps.foldl_snd
    | with_reducible apply Keeps.foldl_trd
    | with_reducible apply Keeps.foldl_fst_fst
    | with_reducible apply Keeps.foldl_fst
    | with_reducible apply Keeps.foldl_mid
    | dsimp only)

theorem State.setEccq_keeps {z₀ s : State} (i : ℕ) (q : EccQueue) (hz : Keeps z₀ s) :
    Keeps z₀ (State.setEccq s i q) := by
  unfold State.setEccq
  repeat' (first
    | with_reducible assumption
    | split
    | intro _ _ _
    | intro _ _
    | intro _
    | with_reducible refine Keeps.of2 (by with_reducible assumption) ?_
    | with_reducible refine Keeps.of1 (by with_reducible assumption) ?_
    | with_reducible refine Keeps.of3 (by with_reducible assumption) ?_
    | with_reducible refine Keeps.of4 (by with_reducible assumption) ?_
    | with_reducible apply Keeps.upto
    | with_reducible apply Keeps.foldl
    | with_reducible apply Keeps.foldl_snd_snd
    | with_reducible apply Keeps.foldl_snd
    | with_reducible apply Keeps.foldl_trd
    | with_reducible apply Keeps.foldl_fst_fst
    | with_reducible apply Keeps.foldl_fst
    | with_reducible apply Keeps.foldl_mid
    | dsimp only
    | (with_reducible apply Keeps.mk_other; with_reducible assumption)
    | (refine Keeps.mk_tables ?_ (by simp +contextual [State.tablesWf, swf_sput, swf_drop]); with_reducible assumption))

theorem State.report_keeps {z₀ s : State} (i : ℕ) (r : EccReport) (hz : Keeps z₀ s) :
    Keeps z₀ (State.report s i r) := by
  unfold State.report
  repeat' (first
    | with_reducible assumption
    | with_reducible apply State.eccLaunch_keeps
    | with_reducible apply State.setEccq_keeps
    | split
    | intro _ _ _
    | intro _ _
    | intro _
    | with_reducible refine Keeps.of2 (by with_reducible assumption) ?_
    | with_reducible refine Keeps.of1 (by with_reducible assumption) ?_
    | with_reducible refine Keeps.of3 (by with_reducible assumption) ?_
    | with_reducible refine Keeps.of4 (by with_reducible assumption) ?_
    | with_reducible apply Keeps.upto
    | with_reducible apply Keeps.foldl
    | with_reducible apply Keeps.foldl_snd_snd
    | with_reducible apply Keeps.foldl_snd
    | with_reducible apply Keeps.foldl_trd
    | with_reducible apply Keeps.foldl_fst_fst
    | with_reducible apply Keeps.foldl_fst
    | with_reducible apply Keeps.foldl_mid
    | dsimp only)

theorem State.ddrReport_keeps {z₀ s : State} (l : MemLoc) (line : ℕ) (hz : Keeps z₀ s) :
    Keeps z₀ (State.ddrReport s l line) := by
  unfold State.ddrReport
  repeat' (first
    | with_reducible assumption
    | with_reducible apply State.report_keeps
    | split)

theorem State.setMbuf_keeps {z₀ s : State} (k : ℕ) (es : List MergeEnt) (hz : Keeps z₀ s) :
    Keeps z₀ (State.setMbuf s k es) := by
  unfold State.setMbuf
  repeat' (first
    | with_reducible assumption
    | split
    | intro _ _ _
    | intro _ _
    | intro _
    | with_reducible refine Keeps.of2 (by with_reducible assumption) ?_
    | with_reducible refine Keeps.of1 (by with_reducible assumption) ?_
    | with_reducible refine Keeps.of3 (by with_reducible assumption) ?_
    | with_reducible refine Keeps.of4 (by with_reducible assumption) ?_
    | with_reducible apply Keeps.upto
    | with_reducible apply Keeps.foldl
    | with_reducible apply Keeps.foldl_snd_snd
    | with_reducible apply Keeps.foldl_snd
    | with_reducible apply Keeps.foldl_trd
    | with_reducible apply Keeps.foldl_fst_fst
    | with_reducible apply Keeps.foldl_fst
    | with_reducible apply Keeps.foldl_mid
    | dsimp only
    | (with_reducible apply Keeps.mk_other; with_reducible assumption)
    | (refine Keeps.mk_tables ?_ (by simp +contextual [State.tablesWf, swf_sput, swf_drop]); with_reducible assumption))

theorem State.reportWord_keeps {z₀ s : State} (l : MemLoc) (w : ℕ) (m : Mark) (hz : Keeps z₀ s) :
    Keeps z₀ (State.reportWord s l w m) := by
  unfold State.reportWord
  repeat' (first
    | with_reducible assumption
    | with_reducible apply State.report_keeps
    | split)

theorem State.mergeWord_keeps {z₀ s : State} (l : MemLoc) (w : ℕ) (items : List (ℕ × Byte)) (hz : Keeps z₀ s) :
    Keeps z₀ (State.mergeWord s l w items) := by
  unfold State.mergeWord
  repeat' (first
    | with_reducible assumption
    | with_reducible apply Keeps.setByte
    | with_reducible apply State.reportWord_keeps
    | with_reducible apply Keeps.setMark
    | split
    | intro _ _ _
    | intro _ _
    | intro _
    | with_reducible refine Keeps.of2 (by with_reducible assumption) ?_
    | with_reducible refine Keeps.of1 (by with_reducible assumption) ?_
    | with_reducible refine Keeps.of3 (by with_reducible assumption) ?_
    | with_reducible refine Keeps.of4 (by with_reducible assumption) ?_
    | with_reducible apply Keeps.upto
    | with_reducible apply Keeps.foldl)

theorem State.flushEnt_keeps {z₀ s : State} (l : MemLoc) (k : ℕ) (e : MergeEnt) (hz : Keeps z₀ s) :
    Keeps z₀ (State.flushEnt s l k e) := by
  unfold State.flushEnt
  repeat' (first
    | with_reducible assumption
    | with_reducible apply State.setMbuf_keeps
    | with_reducible apply Keeps.setMark
    | with_reducible apply Keeps.setByte
    | with_reducible apply State.mergeWord_keeps
    | split
    | intro _ _ _
    | intro _ _
    | intro _
    | with_reducible refine Keeps.of2 (by with_reducible assumption) ?_
    | with_reducible refine Keeps.of1 (by with_reducible assumption) ?_
    | with_reducible refine Keeps.of3 (by with_reducible assumption) ?_
    | with_reducible refine Keeps.of4 (by with_reducible assumption) ?_
    | with_reducible apply Keeps.upto
    | with_reducible apply Keeps.foldl)

theorem State.flushWord_keeps {z₀ s : State} (l : MemLoc) (w : ℕ) (hz : Keeps z₀ s) :
    Keeps z₀ (State.flushWord s l w) := by
  unfold State.flushWord
  repeat' (first
    | with_reducible assumption
    | with_reducible apply State.flushEnt_keeps
    | split)

theorem State.memLoad_keeps {z₀ s : State} (a : ℕ) (n : ℕ) (hz : Keeps z₀ s) :
    Keeps z₀ (State.memLoad s a n).2.2 := by
  unfold State.memLoad
  repeat' (first
    | with_reducible assumption
    | with_reducible apply State.ddrReport_keeps
    | with_reducible apply State.flushWord_keeps
    | with_reducible apply State.reportWord_keeps
    | split
    | intro _ _ _
    | intro _ _
    | intro _
    | with_reducible refine Keeps.of2 (by with_reducible assumption) ?_
    | with_reducible refine Keeps.of1 (by with_reducible assumption) ?_
    | with_reducible refine Keeps.of3 (by with_reducible assumption) ?_
    | with_reducible refine Keeps.of4 (by with_reducible assumption) ?_
    | with_reducible apply Keeps.upto
    | with_reducible apply Keeps.foldl)

theorem State.storeDdr_keeps {z₀ s : State} (l : MemLoc) (line : ℕ) (items : List (ℕ × Byte)) (hz : Keeps z₀ s) :
    Keeps z₀ (State.storeDdr s l line items) := by
  unfold State.storeDdr
  repeat' (first
    | with_reducible assumption
    | with_reducible apply Keeps.setByte
    | with_reducible apply Keeps.setMark
    | with_reducible apply State.ddrReport_keeps
    | split
    | intro _ _ _
    | intro _ _
    | intro _
    | with_reducible refine Keeps.of2 (by with_reducible assumption) ?_
    | with_reducible refine Keeps.of1 (by with_reducible assumption) ?_
    | with_reducible refine Keeps.of3 (by with_reducible assumption) ?_
    | with_reducible refine Keeps.of4 (by with_reducible assumption) ?_
    | with_reducible apply Keeps.upto
    | with_reducible apply Keeps.foldl
    | with_reducible apply Keeps.foldl_snd_snd
    | with_reducible apply Keeps.foldl_snd
    | with_reducible apply Keeps.foldl_trd
    | with_reducible apply Keeps.foldl_fst_fst
    | with_reducible apply Keeps.foldl_fst
    | with_reducible apply Keeps.foldl_mid
    | dsimp only)

theorem State.bufferWord_keeps {z₀ s : State} (l : MemLoc) (k : ℕ) (w : ℕ) (items : List (ℕ × Byte)) (hz : Keeps z₀ s) :
    Keeps z₀ (State.bufferWord s l k w items) := by
  unfold State.bufferWord
  repeat' (first
    | with_reducible assumption
    | with_reducible apply State.flushEnt_keeps
    | with_reducible apply State.setMbuf_keeps
    | split
    | intro _ _ _
    | intro _ _
    | intro _
    | with_reducible refine Keeps.of2 (by with_reducible assumption) ?_
    | with_reducible refine Keeps.of1 (by with_reducible assumption) ?_
    | with_reducible refine Keeps.of3 (by with_reducible assumption) ?_
    | with_reducible refine Keeps.of4 (by with_reducible assumption) ?_
    | with_reducible apply Keeps.upto
    | with_reducible apply Keeps.foldl
    | with_reducible apply Keeps.foldl_snd_snd
    | with_reducible apply Keeps.foldl_snd
    | with_reducible apply Keeps.foldl_trd
    | with_reducible apply Keeps.foldl_fst_fst
    | with_reducible apply Keeps.foldl_fst
    | with_reducible apply Keeps.foldl_mid
    | dsimp only)

theorem State.storeWord_keeps {z₀ s : State} (l : MemLoc) (w : ℕ) (items : List (ℕ × Byte)) (hz : Keeps z₀ s) :
    Keeps z₀ (State.storeWord s l w items) := by
  unfold State.storeWord
  repeat' (first
    | with_reducible assumption
    | with_reducible apply State.setMbuf_keeps
    | with_reducible apply Keeps.setMark
    | with_reducible apply Keeps.setByte
    | with_reducible apply State.bufferWord_keeps
    | with_reducible apply State.mergeWord_keeps
    | split
    | intro _ _ _
    | intro _ _
    | intro _
    | with_reducible refine Keeps.of2 (by with_reducible assumption) ?_
    | with_reducible refine Keeps.of1 (by with_reducible assumption) ?_
    | with_reducible refine Keeps.of3 (by with_reducible assumption) ?_
    | with_reducible refine Keeps.of4 (by with_reducible assumption) ?_
    | with_reducible apply Keeps.upto
    | with_reducible apply Keeps.foldl)

theorem State.memStore_keeps {z₀ s : State} (items : List (ℕ × Byte)) (hz : Keeps z₀ s) :
    Keeps z₀ (State.memStore s items) := by
  unfold State.memStore
  repeat' (first
    | with_reducible assumption
    | with_reducible apply State.storeDdr_keeps
    | with_reducible apply State.storeWord_keeps
    | split
    | intro _ _ _
    | intro _ _
    | intro _
    | with_reducible refine Keeps.of2 (by with_reducible assumption) ?_
    | with_reducible refine Keeps.of1 (by with_reducible assumption) ?_
    | with_reducible refine Keeps.of3 (by with_reducible assumption) ?_
    | with_reducible refine Keeps.of4 (by with_reducible assumption) ?_
    | with_reducible apply Keeps.upto
    | with_reducible apply Keeps.foldl)

theorem State.raiseA2_keeps {z₀ s : State} (code : ℕ) (src : ℕ) (addr : ℕ) (hz : Keeps z₀ s) :
    Keeps z₀ (State.raiseA2 s code src addr) := by
  unfold State.raiseA2
  repeat' (first
    | with_reducible assumption
    | with_reducible apply State.raise_keeps)

theorem State.incWrap_keeps {z₀ s : State} (a : ℕ) (f : Fld) (n : ℕ) (hz : Keeps z₀ s) :
    Keeps z₀ (State.incWrap s a f n) := by
  unfold State.incWrap
  repeat' (first
    | with_reducible assumption
    | with_reducible apply State.wf_keeps)

theorem State.flushIsland_keeps {z₀ s : State} (i : ℕ) (hz : Keeps z₀ s) :
    Keeps z₀ (State.flushIsland s i) := by
  unfold State.flushIsland
  repeat' (first
    | with_reducible assumption
    | with_reducible apply State.flushEnt_keeps
    | split
    | intro _ _ _
    | intro _ _
    | intro _
    | with_reducible refine Keeps.of2 (by with_reducible assumption) ?_
    | with_reducible refine Keeps.of1 (by with_reducible assumption) ?_
    | with_reducible refine Keeps.of3 (by with_reducible assumption) ?_
    | with_reducible refine Keeps.of4 (by with_reducible assumption) ?_
    | with_reducible apply Keeps.upto
    | with_reducible apply Keeps.foldl)

theorem State.setBytes_keeps {z₀ s : State} (a : ℕ) (arg2 : List Byte) (hz : Keeps z₀ s) :
    Keeps z₀ (State.setBytes s a arg2) := by
  induction arg2 generalizing s a with
  | nil => exact hz
  | cons b bs ih => exact ih _ (Keeps.setByte hz a b)

theorem State.withHost_keeps {z₀ s : State} (h : HostData) (f : State → State) (hz : Keeps z₀ s) (h_f : ∀ y0, Keeps z₀ y0 → Keeps z₀ (f y0)) :
    Keeps z₀ (State.withHost s h f) := by
  unfold State.withHost
  repeat' (first
    | with_reducible assumption
    | with_reducible apply h_f
    | split
    | intro _ _ _
    | intro _ _
    | intro _
    | with_reducible refine Keeps.of2 (by with_reducible assumption) ?_
    | with_reducible refine Keeps.of1 (by with_reducible assumption) ?_
    | with_reducible refine Keeps.of3 (by with_reducible assumption) ?_
    | with_reducible refine Keeps.of4 (by with_reducible assumption) ?_
    | with_reducible apply Keeps.upto
    | with_reducible apply Keeps.foldl
    | with_reducible apply Keeps.foldl_snd_snd
    | with_reducible apply Keeps.foldl_snd
    | with_reducible apply Keeps.foldl_trd
    | with_reducible apply Keeps.foldl_fst_fst
    | with_reducible apply Keeps.foldl_fst
    | with_reducible apply Keeps.foldl_mid
    | dsimp only
    | (with_reducible apply Keeps.mk_other; first | with_reducible assumption | with_reducible apply h_f))

theorem State.upsetCR_keeps {z₀ s : State} (k : ℕ) (u : ℕ) (ctx : ℕ) (r : ℕ) (w : ℕ) (m : Option Mark) (d : List Byte) (hz : Keeps z₀ s) :
    Keeps z₀ (State.upsetCR s k u ctx r w m d) := by
  unfold State.upsetCR
  repeat' (first
    | with_reducible assumption
    | split
    | intro _ _ _
    | intro _ _
    | intro _
    | with_reducible refine Keeps.of2 (by with_reducible assumption) ?_
    | with_reducible refine Keeps.of1 (by with_reducible assumption) ?_
    | with_reducible refine Keeps.of3 (by with_reducible assumption) ?_
    | with_reducible refine Keeps.of4 (by with_reducible assumption) ?_
    | with_reducible apply Keeps.upto
    | with_reducible apply Keeps.foldl
    | with_reducible apply Keeps.foldl_snd_snd
    | with_reducible apply Keeps.foldl_snd
    | with_reducible apply Keeps.foldl_trd
    | with_reducible apply Keeps.foldl_fst_fst
    | with_reducible apply Keeps.foldl_fst
    | with_reducible apply Keeps.foldl_mid
    | dsimp only
    | (refine Keeps.mk_tables ?_ (by simp +contextual [State.tablesWf, swf_sput, swf_drop, swf]); with_reducible assumption))

theorem State.applyUpsets_keeps {z₀ s : State} (us : List Upset) (hz : Keeps z₀ s) :
    Keeps z₀ (State.applyUpsets s us) := by
  unfold State.applyUpsets
  repeat' (first
    | with_reducible assumption
    | with_reducible apply State.upsetCR_keeps
    | with_reducible apply Keeps.setMark
    | with_reducible apply State.setBytes_keeps
    | split
    | intro _ _ _
    | intro _ _
    | intro _
    | with_reducible refine Keeps.of2 (by with_reducible assumption) ?_
    | with_reducible refine Keeps.of1 (by with_reducible assumption) ?_
    | with_reducible refine Keeps.of3 (by with_reducible assumption) ?_
    | with_reducible refine Keeps.of4 (by with_reducible assumption) ?_
    | with_reducible apply Keeps.upto
    | with_reducible apply Keeps.foldl
    | with_reducible apply Keeps.foldl_snd_snd
    | with_reducible apply Keeps.foldl_snd
    | with_reducible apply Keeps.foldl_trd
    | with_reducible apply Keeps.foldl_fst_fst
    | with_reducible apply Keeps.foldl_fst
    | with_reducible apply Keeps.foldl_mid
    | dsimp only
    | (with_reducible apply Keeps.mk_other
       first
       | with_reducible assumption
       | with_reducible apply State.upsetCR_keeps
       | with_reducible apply Keeps.setMark
       | with_reducible apply State.setBytes_keeps
       | split
       | intro _ _ _
       | intro _ _
       | intro _
       | with_reducible refine Keeps.of2 (by with_reducible assumption) ?_
       | with_reducible refine Keeps.of1 (by with_reducible assumption) ?_
       | with_reducible refine Keeps.of3 (by with_reducible assumption) ?_
       | with_reducible refine Keeps.of4 (by with_reducible assumption) ?_
       | with_reducible apply Keeps.upto
       | with_reducible apply Keeps.foldl
       | with_reducible apply Keeps.foldl_snd_snd
       | with_reducible apply Keeps.foldl_snd
       | with_reducible apply Keeps.foldl_trd
       | with_reducible apply Keeps.foldl_fst_fst
       | with_reducible apply Keeps.foldl_fst
       | with_reducible apply Keeps.foldl_mid
       | dsimp only)
    | (refine Keeps.mk_tables ?_ (by simp +contextual [State.tablesWf, swf_sput, swf_drop, swf])
       first
       | with_reducible assumption
       | with_reducible apply State.upsetCR_keeps
       | with_reducible apply Keeps.setMark
       | with_reducible apply State.setBytes_keeps
       | split
       | intro _ _ _
       | intro _ _
       | intro _
       | with_reducible refine Keeps.of2 (by with_reducible assumption) ?_
       | with_reducible refine Keeps.of1 (by with_reducible assumption) ?_
       | with_reducible refine Keeps.of3 (by with_reducible assumption) ?_
       | with_reducible refine Keeps.of4 (by with_reducible assumption) ?_
       | with_reducible apply Keeps.upto
       | with_reducible apply Keeps.foldl
       | with_reducible apply Keeps.foldl_snd_snd
       | with_reducible apply Keeps.foldl_snd
       | with_reducible apply Keeps.foldl_trd
       | with_reducible apply Keeps.foldl_fst_fst
       | with_reducible apply Keeps.foldl_fst
       | with_reducible apply Keeps.foldl_mid
       | dsimp only))

end Sys2Proof.Machine
end

