-- ==== Sys2Proof/Laws/KeepCrossing.lean ====
section
/-! SUPPORT. The functions of Machine/Crossing.lean keep the queue, what has been sent, and the invariant. -/

namespace Sys2Proof.Machine

theorem State.valueSend_keeps {z₀ s : State} (x : Xid) (v : ℕ) (hz : Keeps z₀ s) :
    Keeps z₀ (State.valueSend s x v) := by
  unfold State.valueSend
  repeat' (first
    | with_reducible assumption
    | with_reducible apply State.setXing_keeps
    | split
    | intro _ _ _
    | intro _ _
    | intro _
    | with_reducible refine Keeps.of2 (by with_reducible assumption) ?_
    | with_reducible refine Keeps.of1 (by with_reducible assumption) ?_
    | with_reducible refine Keeps.of3 (by with_reducible assumption) ?_
    | with_reducible refine Keeps.of4 (by with_reducible assumption) ?_
    | with_reducible apply Keeps.upto
    | with_reducible apply Keeps.foldl
    | with_reducible apply Keeps.foldl_snd_snd
    | with_reducible apply Keeps.foldl_snd
    | with_reducible apply Keeps.foldl_trd
    | with_reducible apply Keeps.foldl_fst_fst
    | with_reducible apply Keeps.foldl_fst
    | with_reducible apply Keeps.foldl_mid
    | dsimp only)

theorem State.schedSend_keeps {z₀ s : State} (i : ℕ) (v : ℕ) (new : Bool) (hz : Keeps z₀ s) :
    Keeps z₀ (State.schedSend s i v new) := by
  unfold State.schedSend
  repeat' (first
    | with_reducible assumption
    | with_reducible apply State.valueSend_keeps
    | split
    | intro _ _ _
    | intro _ _
    | intro _
    | with_reducible refine Keeps.of2 (by with_reducible assumption) ?_
    | with_reducible refine Keeps.of1 (by with_reducible assumption) ?_
    | with_reducible refine Keeps.of3 (by with_reducible assumption) ?_
    | with_reducible refine Keeps.of4 (by with_reducible assumption) ?_
    | with_reducible apply Keeps.upto
    | with_reducible apply Keeps.foldl
    | with_reducible apply Keeps.foldl_snd_snd
    | with_reducible apply Keeps.foldl_snd
    | with_reducible apply Keeps.foldl_trd
    | with_reducible apply Keeps.foldl_fst_fst
    | with_reducible apply Keeps.foldl_fst
    | with_reducible apply Keeps.foldl_mid
    | dsimp only
    | (with_reducible apply Keeps.mk_other
       first
       | with_reducible assumption
       | with_reducible apply State.valueSend_keeps
       | split
       | intro _ _ _
       | intro _ _
       | intro _
       | with_reducible refine Keeps.of2 (by with_reducible assumption) ?_
       | with_reducible refine Keeps.of1 (by with_reducible assumption) ?_
       | with_reducible refine Keeps.of3 (by with_reducible assumption) ?_
       | with_reducible refine Keeps.of4 (by with_reducible assumption) ?_
       | with_reducible apply Keeps.upto
       | with_reducible apply Keeps.foldl
       | with_reducible apply Keeps.foldl_snd_snd
       | with_reducible apply Keeps.foldl_snd
       | with_reducible apply Keeps.foldl_trd
       | with_reducible apply Keeps.foldl_fst_fst
       | with_reducible apply Keeps.foldl_fst
       | with_reducible apply Keeps.foldl_mid
       | dsimp only)
    | (refine Keeps.mk_tables ?_ (by simp +contextual [State.tablesWf, swf_sput, swf_drop, swf])
       first
       | with_reducible assumption
       | with_reducible apply State.valueSend_keeps
       | split
       | intro _ _ _
       | intro _ _
       | intro _
       | with_reducible refine Keeps.of2 (by with_reducible assumption) ?_
       | with_reducible refine Keeps.of1 (by with_reducible assumption) ?_
       | with_reducible refine Keeps.of3 (by with_reducible assumption) ?_
       | with_reducible refine Keeps.of4 (by with_reducible assumption) ?_
       | with_reducible apply Keeps.upto
       | with_reducible apply Keeps.foldl
       | with_reducible apply Keeps.foldl_snd_snd
       | with_reducible apply Keeps.foldl_snd
       | with_reducible apply Keeps.foldl_trd
       | with_reducible apply Keeps.foldl_fst_fst
       | with_reducible apply Keeps.foldl_fst
       | with_reducible apply Keeps.foldl_mid
       | dsimp only))

theorem State.aonSend_keeps {z₀ s : State} (hz : Keeps z₀ s) :
    Keeps z₀ (State.aonSend s) := by
  unfold State.aonSend
  repeat' (first
    | with_reducible assumption
    | with_reducible apply State.valueSend_keeps)

theorem State.xflag_keeps {z₀ s : State} (i : ℕ) (flag : ℕ) (cause : ℕ) (kind : ℕ) (idx : ℕ) (hz : Keeps z₀ s) :
    Keeps z₀ (State.xflag s i flag cause kind idx) := by
  unfold State.xflag
  repeat' (first
    | with_reducible assumption
    | with_reducible apply State.wf_keeps
    | split)

theorem State.pulsesLost_keeps {z₀ s : State} (x : Xid) (n : ℕ) (hz : Keeps z₀ s) :
    Keeps z₀ (State.pulsesLost s x n) := by
  unfold State.pulsesLost
  repeat' (first
    | with_reducible assumption
    | with_reducible apply State.raise_keeps
    | with_reducible apply State.xflag_keeps)

theorem State.setIsl_keeps {z₀ s : State} (i : ℕ) (v : IslandSt) (hz : Keeps z₀ s) :
    Keeps z₀ (State.setIsl s i v) := by
  unfold State.setIsl
  repeat' (first
    | with_reducible assumption
    | split
    | intro _ _ _
    | intro _ _
    | intro _
    | with_reducible refine Keeps.of2 (by with_reducible assumption) ?_
    | with_reducible refine Keeps.of1 (by with_reducible assumption) ?_
    | with_reducible refine Keeps.of3 (by with_reducible assumption) ?_
    | with_reducible refine Keeps.of4 (by with_reducible assumption) ?_
    | with_reducible apply Keeps.upto
    | with_reducible apply Keeps.foldl
    | with_reducible apply Keeps.foldl_snd_snd
    | with_reducible apply Keeps.foldl_snd
    | with_reducible apply Keeps.foldl_trd
    | with_reducible apply Keeps.foldl_fst_fst
    | with_reducible apply Keeps.foldl_fst
    | with_reducible apply Keeps.foldl_mid
    | dsimp only
    | (with_reducible apply Keeps.mk_other; with_reducible assumption)
    | (refine Keeps.mk_tables ?_ (by simp +contextual [State.tablesWf, swf_sput, swf_drop]); with_reducible assumption))

theorem State.pulse_keeps {z₀ s : State} (x : Xid) (u : ℕ) (t : ℕ) (hz : Keeps z₀ s) :
    Keeps z₀ (State.pulse s x u t) := by
  unfold State.pulse
  repeat' (first
    | with_reducible assumption
    | with_reducible apply State.pulsesLost_keeps
    | with_reducible apply State.setIsl_keeps
    | with_reducible apply State.setXing_keeps
    | split
    | intro _ _ _
    | intro _ _
    | intro _
    | with_reducible refine Keeps.of2 (by with_reducible assumption) ?_
    | with_reducible refine Keeps.of1 (by with_reducible assumption) ?_
    | with_reducible refine Keeps.of3 (by with_reducible assumption) ?_
    | with_reducible refine Keeps.of4 (by with_reducible assumption) ?_
    | with_reducible apply Keeps.upto
    | with_reducible apply Keeps.foldl
    | with_reducible apply Keeps.foldl_snd_snd
    | with_reducible apply Keeps.foldl_snd
    | with_reducible apply Keeps.foldl_trd
    | with_reducible apply Keeps.foldl_fst_fst
    | with_reducible apply Keeps.foldl_fst
    | with_reducible apply Keeps.foldl_mid
    | dsimp only
    | (with_reducible apply Keeps.mk_other
       first
       | with_reducible assumption
       | with_reducible apply State.pulsesLost_keeps
       | with_reducible apply State.setIsl_keeps
       | with_reducible apply State.setXing_keeps
       | split
       | intro _ _ _
       | intro _ _
       | intro _
       | with_reducible refine Keeps.of2 (by with_reducible assumption) ?_
       | with_reducible refine Keeps.of1 (by with_reducible assumption) ?_
       | with_reducible refine Keeps.of3 (by with_reducible assumption) ?_
       | with_reducible refine Keeps.of4 (by with_reducible assumption) ?_
       | with_reducible apply Keeps.upto
       | with_reducible apply Keeps.foldl
       | with_reducible apply Keeps.foldl_snd_snd
       | with_reducible apply Keeps.foldl_snd
       | with_reducible apply Keeps.foldl_trd
       | with_reducible apply Keeps.foldl_fst_fst
       | with_reducible apply Keeps.foldl_fst
       | with_reducible apply Keeps.foldl_mid
       | dsimp only)
    | (refine Keeps.mk_tables ?_ (by simp +contextual [State.tablesWf, swf_sput, swf_drop, swf])
       first
       | with_reducible assumption
       | with_reducible apply State.pulsesLost_keeps
       | with_reducible apply State.setIsl_keeps
       | with_reducible apply State.setXing_keeps
       | split
       | intro _ _ _
       | intro _ _
       | intro _
       | with_reducible refine Keeps.of2 (by with_reducible assumption) ?_
       | with_reducible refine Keeps.of1 (by with_reducible assumption) ?_
       | with_reducible refine Keeps.of3 (by with_reducible assumption) ?_
       | with_reducible refine Keeps.of4 (by with_reducible assumption) ?_
       | with_reducible apply Keeps.upto
       | with_reducible apply Keeps.foldl
       | with_reducible apply Keeps.foldl_snd_snd
       | with_reducible apply Keeps.foldl_snd
       | with_reducible apply Keeps.foldl_trd
       | with_reducible apply Keeps.foldl_fst_fst
       | with_reducible apply Keeps.foldl_fst
       | with_reducible apply Keeps.foldl_mid
       | dsimp only))

theorem State.pulseAck_keeps {z₀ s : State} (x : Xid) (join : Bool) (hz : Keeps z₀ s) :
    Keeps z₀ (State.pulseAck s x join) := by
  unfold State.pulseAck
  repeat' (first
    | with_reducible assumption
    | with_reducible apply State.setXing_keeps
    | split
    | intro _ _ _
    | intro _ _
    | intro _
    | with_reducible refine Keeps.of2 (by with_reducible assumption) ?_
    | with_reducible refine Keeps.of1 (by with_reducible assumption) ?_
    | with_reducible refine Keeps.of3 (by with_reducible assumption) ?_
    | with_reducible refine Keeps.of4 (by with_reducible assumption) ?_
    | with_reducible apply Keeps.upto
    | with_reducible apply Keeps.foldl
    | with_reducible apply Keeps.foldl_snd_snd
    | with_reducible apply Keeps.foldl_snd
    | with_reducible apply Keeps.foldl_trd
    | with_reducible apply Keeps.foldl_fst_fst
    | with_reducible apply Keeps.foldl_fst
    | with_reducible apply Keeps.foldl_mid
    | dsimp only)

theorem State.valueTake_keeps {z₀ s : State} (x : Xid) (hz : Keeps z₀ s) :
    Keeps z₀ (State.valueTake s x) := by
  unfold State.valueTake
  repeat' (first
    | with_reducible assumption
    | with_reducible apply State.setXing_keeps
    | split
    | intro _ _ _
    | intro _ _
    | intro _
    | with_reducible refine Keeps.of2 (by with_reducible assumption) ?_
    | with_reducible refine Keeps.of1 (by with_reducible assumption) ?_
    | with_reducible refine Keeps.of3 (by with_reducible assumption) ?_
    | with_reducible refine Keeps.of4 (by with_reducible assumption) ?_
    | with_reducible apply Keeps.upto
    | with_reducible apply Keeps.foldl
    | with_reducible apply Keeps.foldl_snd_snd
    | with_reducible apply Keeps.foldl_snd
    | with_reducible apply Keeps.foldl_trd
    | with_reducible apply Keeps.foldl_fst_fst
    | with_reducible apply Keeps.foldl_fst
    | with_reducible apply Keeps.foldl_mid
    | dsimp only)

theorem State.valueAck_keeps {z₀ s : State} (x : Xid) (hz : Keeps z₀ s) :
    Keeps z₀ (State.valueAck s x) := by
  unfold State.valueAck
  repeat' (first
    | with_reducible assumption
    | with_reducible apply State.setXing_keeps
    | split
    | intro _ _ _
    | intro _ _
    | intro _
    | with_reducible refine Keeps.of2 (by with_reducible assumption) ?_
    | with_reducible refine Keeps.of1 (by with_reducible assumption) ?_
    | with_reducible refine Keeps.of3 (by with_reducible assumption) ?_
    | with_reducible refine Keeps.of4 (by with_reducible assumption) ?_
    | with_reducible apply Keeps.upto
    | with_reducible apply Keeps.foldl
    | with_reducible apply Keeps.foldl_snd_snd
    | with_reducible apply Keeps.foldl_snd
    | with_reducible apply Keeps.foldl_trd
    | with_reducible apply Keeps.foldl_fst_fst
    | with_reducible apply Keeps.foldl_fst
    | with_reducible apply Keeps.foldl_mid
    | dsimp only)

theorem State.evqAck_keeps {z₀ s : State} (x : Xid) (hz : Keeps z₀ s) :
    Keeps z₀ (State.evqAck s x) := by
  unfold State.evqAck
  repeat' (first
    | with_reducible assumption
    | with_reducible apply State.setXing_keeps
    | with_reducible apply State.evqLaunch_keeps
    | with_reducible apply State.setEvq_keeps
    | split
    | intro _ _ _
    | intro _ _
    | intro _
    | with_reducible refine Keeps.of2 (by with_reducible assumption) ?_
    | with_reducible refine Keeps.of1 (by with_reducible assumption) ?_
    | with_reducible refine Keeps.of3 (by with_reducible assumption) ?_
    | with_reducible refine Keeps.of4 (by with_reducible assumption) ?_
    | with_reducible apply Keeps.upto
    | with_reducible apply Keeps.foldl
    | with_reducible apply Keeps.foldl_snd_snd
    | with_reducible apply Keeps.foldl_snd
    | with_reducible apply Keeps.foldl_trd
    | with_reducible apply Keeps.foldl_fst_fst
    | with_reducible apply Keeps.foldl_fst
    | with_reducible apply Keeps.foldl_mid
    | dsimp only)

theorem State.eccAck_keeps {z₀ s : State} (x : Xid) (hz : Keeps z₀ s) :
    Keeps z₀ (State.eccAck s x) := by
  unfold State.eccAck
  repeat' (first
    | with_reducible assumption
    | with_reducible apply State.setXing_keeps
    | with_reducible apply State.eccLaunch_keeps
    | with_reducible apply State.setEccq_keeps
    | split
    | intro _ _ _
    | intro _ _
    | intro _
    | with_reducible refine Keeps.of2 (by with_reducible assumption) ?_
    | with_reducible refine Keeps.of1 (by with_reducible assumption) ?_
    | with_reducible refine Keeps.of3 (by with_reducible assumption) ?_
    | with_reducible refine Keeps.of4 (by with_reducible assumption) ?_
    | with_reducible apply Keeps.upto
    | with_reducible apply Keeps.foldl
    | with_reducible apply Keeps.foldl_snd_snd
    | with_reducible apply Keeps.foldl_snd
    | with_reducible apply Keeps.foldl_trd
    | with_reducible apply Keeps.foldl_fst_fst
    | with_reducible apply Keeps.foldl_fst
    | with_reducible apply Keeps.foldl_mid
    | dsimp only)

theorem State.aonPresent_keeps {z₀ s : State} (hz : Keeps z₀ s) :
    Keeps z₀ (State.aonPresent s) := by
  unfold State.aonPresent
  repeat' (first
    | with_reducible assumption
    | with_reducible apply State.valueSend_keeps)

theorem State.holdReplicas_keeps {z₀ s : State} (hz : Keeps z₀ s) :
    Keeps z₀ (State.holdReplicas s) := by
  unfold State.holdReplicas
  repeat' (first
    | with_reducible assumption
    | with_reducible apply State.setXing_keeps
    | split
    | intro _ _ _
    | intro _ _
    | intro _
    | with_reducible refine Keeps.of2 (by with_reducible assumption) ?_
    | with_reducible refine Keeps.of1 (by with_reducible assumption) ?_
    | with_reducible refine Keeps.of3 (by with_reducible assumption) ?_
    | with_reducible refine Keeps.of4 (by with_reducible assumption) ?_
    | with_reducible apply Keeps.upto)

theorem State.grayUpdate_keeps {z₀ s : State} (x : Xid) (hz : Keeps z₀ s) :
    Keeps z₀ (State.grayUpdate s x) := by
  unfold State.grayUpdate
  repeat' (first
    | with_reducible assumption
    | with_reducible apply State.setXing_keeps
    | split
    | intro _ _ _
    | intro _ _
    | intro _
    | with_reducible refine Keeps.of2 (by with_reducible assumption) ?_
    | with_reducible refine Keeps.of1 (by with_reducible assumption) ?_
    | with_reducible refine Keeps.of3 (by with_reducible assumption) ?_
    | with_reducible refine Keeps.of4 (by with_reducible assumption) ?_
    | with_reducible apply Keeps.upto
    | with_reducible apply Keeps.foldl
    | with_reducible apply Keeps.foldl_snd_snd
    | with_reducible apply Keeps.foldl_snd
    | with_reducible apply Keeps.foldl_trd
    | with_reducible apply Keeps.foldl_fst_fst
    | with_reducible apply Keeps.foldl_fst
    | with_reducible apply Keeps.foldl_mid
    | dsimp only)

theorem State.snapshot_keeps {z₀ s : State} (x : Xid) (hz : Keeps z₀ s) :
    Keeps z₀ (State.snapshot s x) := by
  unfold State.snapshot
  repeat' (first
    | with_reducible assumption
    | with_reducible apply State.setXing_keeps
    | split)

theorem State.xTimeout_keeps {z₀ s : State} (i : ℕ) (x : Xid) (hz : Keeps z₀ s) :
    Keeps z₀ (State.xTimeout s i x) := by
  unfold State.xTimeout
  repeat' (first
    | with_reducible assumption
    | with_reducible apply State.pulsesLost_keeps
    | with_reducible apply State.raise_keeps
    | with_reducible apply State.xflag_keeps
    | with_reducible apply State.setXing_keeps
    | split)

end Sys2Proof.Machine
end

