-- ==== Sys2Proof/Laws/KeepTurnpike.lean ====
section
/-! SUPPORT. The functions of Machine/Turnpike.lean keep the queue, what has been sent, and the invariant. -/

namespace Sys2Proof.Machine

theorem State.errCapture_keeps {z₀ s : State} (status : ℕ) (src : ℕ) (isl : ℕ) (tag : ℕ) (addr : ℕ) (hz : Keeps z₀ s) :
    Keeps z₀ (State.errCapture s status src isl tag addr) := by
  unfold State.errCapture
  repeat' (first
    | with_reducible assumption
    | with_reducible apply State.wf_keeps
    | split)

theorem State.deadAnswer_keeps {z₀ s : State} (i : ℕ) (t : ℕ) (src : ℕ) (tag : ℕ) (addr : ℕ) (hz : Keeps z₀ s) :
    Keeps z₀ (State.deadAnswer s i t src tag addr) := by
  unfold State.deadAnswer
  repeat' (first
    | with_reducible assumption
    | with_reducible apply State.errCapture_keeps
    | with_reducible apply State.incSat_keeps)

theorem State.asleepAnswer_keeps {z₀ s : State} (b : ℕ) (t : ℕ) (src : ℕ) (tag : ℕ) (addr : ℕ) (hz : Keeps z₀ s) :
    Keeps z₀ (State.asleepAnswer s b t src tag addr) := by
  unfold State.asleepAnswer
  repeat' (first
    | with_reducible assumption
    | with_reducible apply State.errCapture_keeps
    | with_reducible apply State.raiseIn_keeps)

theorem State.gate_keeps {z₀ s : State} (src : ℕ) (tag : ℕ) (addr : ℕ) (hz : Keeps z₀ s) :
    Keeps z₀ (State.gate s src tag addr).2.2 := by
  unfold State.gate
  repeat' (first
    | with_reducible assumption
    | with_reducible apply State.errCapture_keeps
    | with_reducible apply State.deadAnswer_keeps
    | with_reducible apply State.asleepAnswer_keeps
    | split
    | intro _ _ _
    | intro _ _
    | intro _
    | with_reducible refine Keeps.of2 (by with_reducible assumption) ?_
    | with_reducible refine Keeps.of1 (by with_reducible assumption) ?_
    | with_reducible refine Keeps.of3 (by with_reducible assumption) ?_
    | with_reducible refine Keeps.of4 (by with_reducible assumption) ?_
    | with_reducible apply Keeps.upto
    | with_reducible apply Keeps.foldl
    | with_reducible apply Keeps.foldl_snd_snd
    | with_reducible apply Keeps.foldl_snd
    | with_reducible apply Keeps.foldl_trd
    | with_reducible apply Keeps.foldl_fst_fst
    | with_reducible apply Keeps.foldl_fst
    | with_reducible apply Keeps.foldl_mid
    | dsimp only)

theorem State.answered_keeps {z₀ s : State} (src : ℕ) (tag : ℕ) (addr : ℕ) (hz : Keeps z₀ s) :
    Keeps z₀ (State.answered s src tag addr) := by
  unfold State.answered
  repeat' (first
    | with_reducible assumption
    | split
    | intro _ _ _
    | intro _ _
    | intro _
    | with_reducible refine Keeps.of2 (by with_reducible assumption) ?_
    | with_reducible refine Keeps.of1 (by with_reducible assumption) ?_
    | with_reducible refine Keeps.of3 (by with_reducible assumption) ?_
    | with_reducible refine Keeps.of4 (by with_reducible assumption) ?_
    | with_reducible apply Keeps.upto
    | with_reducible apply Keeps.foldl
    | with_reducible apply Keeps.foldl_snd_snd
    | with_reducible apply Keeps.foldl_snd
    | with_reducible apply Keeps.foldl_trd
    | with_reducible apply Keeps.foldl_fst_fst
    | with_reducible apply Keeps.foldl_fst
    | with_reducible apply Keeps.foldl_mid
    | dsimp only
    | (with_reducible apply Keeps.mk_other; with_reducible assumption))

theorem State.respond_keeps {z₀ s : State} (src : ℕ) (tag : ℕ) (addr : ℕ) (status : ℕ) (isl : ℕ) (data : List Byte) (hz : Keeps z₀ s) :
    Keeps z₀ (State.respond s src tag addr status isl data) := by
  unfold State.respond
  repeat' (first
    | with_reducible assumption
    | with_reducible apply State.answered_keeps
    | with_reducible apply Keeps.emit
    | split)

theorem State.setRouter_keeps {z₀ s : State} (q : ℕ) (r : Router) (hz : Keeps z₀ s) :
    Keeps z₀ (State.setRouter s q r) := by
  unfold State.setRouter
  repeat' (first
    | with_reducible assumption
    | split
    | intro _ _ _
    | intro _ _
    | intro _
    | with_reducible refine Keeps.of2 (by with_reducible assumption) ?_
    | with_reducible refine Keeps.of1 (by with_reducible assumption) ?_
    | with_reducible refine Keeps.of3 (by with_reducible assumption) ?_
    | with_reducible refine Keeps.of4 (by with_reducible assumption) ?_
    | with_reducible apply Keeps.upto
    | with_reducible apply Keeps.foldl
    | with_reducible apply Keeps.foldl_snd_snd
    | with_reducible apply Keeps.foldl_snd
    | with_reducible apply Keeps.foldl_trd
    | with_reducible apply Keeps.foldl_fst_fst
    | with_reducible apply Keeps.foldl_fst
    | with_reducible apply Keeps.foldl_mid
    | dsimp only
    | (with_reducible apply Keeps.mk_other; with_reducible assumption)
    | (refine Keeps.mk_tables ?_ (by simp +contextual [State.tablesWf, swf_sput, swf_drop]); with_reducible assumption))

theorem State.dropHold_keeps {z₀ : State} (n : ℕ) {s : State} (q p l : ℕ) (hz : Keeps z₀ s) :
    Keeps z₀ (State.dropHold n s q p l) := by
  induction n generalizing s q p with
  | zero => exact hz
  | succ n ih =>
    unfold State.dropHold
    split
    · exact hz
    · dsimp only
      split
      · exact ih _ _ (State.setRouter_keeps _ _ hz)
      · exact State.setRouter_keeps _ _ hz

theorem State.dropBursts_keeps {z₀ s : State} (i : ℕ) (hz : Keeps z₀ s) :
    Keeps z₀ (State.dropBursts s i) := by
  unfold State.dropBursts
  repeat' (first
    | with_reducible assumption
    | with_reducible apply State.dropHold_keeps
    | split
    | intro _ _ _
    | intro _ _
    | intro _
    | with_reducible refine Keeps.of2 (by with_reducible assumption) ?_
    | with_reducible refine Keeps.of1 (by with_reducible assumption) ?_
    | with_reducible refine Keeps.of3 (by with_reducible assumption) ?_
    | with_reducible refine Keeps.of4 (by with_reducible assumption) ?_
    | with_reducible apply Keeps.upto
    | with_reducible apply Keeps.foldl
    | with_reducible apply Keeps.foldl_snd_snd
    | with_reducible apply Keeps.foldl_snd
    | with_reducible apply Keeps.foldl_trd
    | with_reducible apply Keeps.foldl_fst_fst
    | with_reducible apply Keeps.foldl_fst
    | with_reducible apply Keeps.foldl_mid
    | dsimp only
    | (with_reducible apply Keeps.mk_other
       first
       | with_reducible assumption
       | with_reducible apply State.dropHold_keeps
       | split
       | intro _ _ _
       | intro _ _
       | intro _
       | with_reducible refine Keeps.of2 (by with_reducible assumption) ?_
       | with_reducible refine Keeps.of1 (by with_reducible assumption) ?_
       | with_reducible refine Keeps.of3 (by with_reducible assumption) ?_
       | with_reducible refine Keeps.of4 (by with_reducible assumption) ?_
       | with_reducible apply Keeps.upto
       | with_reducible apply Keeps.foldl
       | with_reducible apply Keeps.foldl_snd_snd
       | with_reducible apply Keeps.foldl_snd
       | with_reducible apply Keeps.foldl_trd
       | with_reducible apply Keeps.foldl_fst_fst
       | with_reducible apply Keeps.foldl_fst
       | with_reducible apply Keeps.foldl_mid
       | dsimp only)
    | (refine Keeps.mk_tables ?_ (by simp +contextual [State.tablesWf, swf_sput, swf_drop, swf])
       first
       | with_reducible assumption
       | with_reducible apply State.dropHold_keeps
       | split
       | intro _ _ _
       | intro _ _
       | intro _
       | with_reducible refine Keeps.of2 (by with_reducible assumption) ?_
       | with_reducible refine Keeps.of1 (by with_reducible assumption) ?_
       | with_reducible refine Keeps.of3 (by with_reducible assumption) ?_
       | with_reducible refine Keeps.of4 (by with_reducible assumption) ?_
       | with_reducible apply Keeps.upto
       | with_reducible apply Keeps.foldl
       | with_reducible apply Keeps.foldl_snd_snd
       | with_reducible apply Keeps.foldl_snd
       | with_reducible apply Keeps.foldl_trd
       | with_reducible apply Keeps.foldl_fst_fst
       | with_reducible apply Keeps.foldl_fst
       | with_reducible apply Keeps.foldl_mid
       | dsimp only))

theorem State.dropRouted_keeps {z₀ s : State} (i : ℕ) (hz : Keeps z₀ s) :
    Keeps z₀ (State.dropRouted s i) := by
  unfold State.dropRouted
  repeat' (first
    | with_reducible assumption
    | with_reducible apply State.setRouter_keeps
    | split
    | intro _ _ _
    | intro _ _
    | intro _
    | with_reducible refine Keeps.of2 (by with_reducible assumption) ?_
    | with_reducible refine Keeps.of1 (by with_reducible assumption) ?_
    | with_reducible refine Keeps.of3 (by with_reducible assumption) ?_
    | with_reducible refine Keeps.of4 (by with_reducible assumption) ?_
    | with_reducible apply Keeps.upto
    | with_reducible apply Keeps.foldl
    | with_reducible apply Keeps.foldl_snd_snd
    | with_reducible apply Keeps.foldl_snd
    | with_reducible apply Keeps.foldl_trd
    | with_reducible apply Keeps.foldl_fst_fst
    | with_reducible apply Keeps.foldl_fst
    | with_reducible apply Keeps.foldl_mid
    | dsimp only
    | (with_reducible apply Keeps.mk_other
       first
       | with_reducible assumption
       | with_reducible apply State.setRouter_keeps
       | split
       | intro _ _ _
       | intro _ _
       | intro _
       | with_reducible refine Keeps.of2 (by with_reducible assumption) ?_
       | with_reducible refine Keeps.of1 (by with_reducible assumption) ?_
       | with_reducible refine Keeps.of3 (by with_reducible assumption) ?_
       | with_reducible refine Keeps.of4 (by with_reducible assumption) ?_
       | with_reducible apply Keeps.upto
       | with_reducible apply Keeps.foldl
       | with_reducible apply Keeps.foldl_snd_snd
       | with_reducible apply Keeps.foldl_snd
       | with_reducible apply Keeps.foldl_trd
       | with_reducible apply Keeps.foldl_fst_fst
       | with_reducible apply Keeps.foldl_fst
       | with_reducible apply Keeps.foldl_mid
       | dsimp only)
    | (refine Keeps.mk_tables ?_ (by simp +contextual [State.tablesWf, swf_sput, swf_drop, swf])
       first
       | with_reducible assumption
       | with_reducible apply State.setRouter_keeps
       | split
       | intro _ _ _
       | intro _ _
       | intro _
       | with_reducible refine Keeps.of2 (by with_reducible assumption) ?_
       | with_reducible refine Keeps.of1 (by with_reducible assumption) ?_
       | with_reducible refine Keeps.of3 (by with_reducible assumption) ?_
       | with_reducible refine Keeps.of4 (by with_reducible assumption) ?_
       | with_reducible apply Keeps.upto
       | with_reducible apply Keeps.foldl
       | with_reducible apply Keeps.foldl_snd_snd
       | with_reducible apply Keeps.foldl_snd
       | with_reducible apply Keeps.foldl_trd
       | with_reducible apply Keeps.foldl_fst_fst
       | with_reducible apply Keeps.foldl_fst
       | with_reducible apply Keeps.foldl_mid
       | dsimp only))

theorem State.setAbsorb_keeps {z₀ s : State} (q : ℕ) (k : ℕ) (f : Flit) (hz : Keeps z₀ s) :
    Keeps z₀ (State.setAbsorb s q k f) := by
  unfold State.setAbsorb
  repeat' (first
    | with_reducible assumption
    | with_reducible apply State.setRouter_keeps
    | split)

theorem State.refuseFlit_keeps {z₀ s : State} (f : Flit) (status : ℕ) (i : ℕ) (hz : Keeps z₀ s) :
    Keeps z₀ (State.refuseFlit s f status i) := by
  unfold State.refuseFlit
  repeat' (first
    | with_reducible assumption
    | with_reducible apply Keeps.emit)

theorem State.bridgeStops_keeps {z₀ s t : State} {o : ℕ} {down : Bool} {f : Flit} (e : s.bridgeStops o down f = some t)
    (hz : Keeps z₀ s) : Keeps z₀ t := by
  unfold State.bridgeStops at e
  dsimp only at e
  have h1 : ∀ x y, Keeps z₀ ((s.errCapture stDead f.src x f.tag f.addr).refuseFlit f stDead y) := fun x y =>
    State.refuseFlit_keeps _ _ _ (State.errCapture_keeps _ _ _ _ _ hz)
  have h2 : ∀ x y, Keeps z₀ ((s.deadAnswer x y f.src f.tag f.addr).refuseFlit f stDead y) := fun x y =>
    State.refuseFlit_keeps _ _ _ (State.deadAnswer_keeps _ _ _ _ _ hz)
  have h3 : ∀ x y, Keeps z₀ ((s.asleepAnswer x y f.src f.tag f.addr).refuseFlit f stAsleep y) := fun x y =>
    State.refuseFlit_keeps _ _ _ (State.asleepAnswer_keeps _ _ _ _ _ hz)
  split at e
  · split at e
    · cases e; exact hz
    · cases e
  · split at e
    · split at e
      · cases e; exact h1 _ _
      · cases e
    · split at e
      · cases e; exact h2 _ _
      · split at e
        · cases e; exact h3 _ _
        · split at e
          · cases e; exact h2 _ _
          · cases e

theorem some_of_ite {α : Type} {c : Prop} [Decidable c] {x : Option α} {y : α} (h : (if c then none else x) = some y) :
    x = some y := by
  split at h
  · cases h
  · exact h

theorem State.decodeErrorAnswer_keeps {z₀ s : State} (q : ℕ) (f : Flit) (hz : Keeps z₀ s) :
    Keeps z₀ (State.decodeErrorAnswer s q f) := by
  unfold State.decodeErrorAnswer
  repeat' (first
    | with_reducible assumption
    | with_reducible apply State.refuseFlit_keeps
    | with_reducible apply State.errCapture_keeps)

theorem State.pushBuf_keeps {z₀ s : State} (q : ℕ) (p : ℕ) (l : ℕ) (f : HeldFlit) (hz : Keeps z₀ s) :
    Keeps z₀ (State.pushBuf s q p l f) := by
  unfold State.pushBuf
  repeat' (first
    | with_reducible assumption
    | with_reducible apply State.setRouter_keeps)

theorem State.linkCount_keeps {z₀ s : State} (a : ℕ) (b : ℕ) (hz : Keeps z₀ s) :
    Keeps z₀ (State.linkCount s a b) := by
  unfold State.linkCount
  repeat' (first
    | with_reducible assumption
    | with_reducible apply State.setXing_keeps
    | split)

theorem State.acceptFlit_keeps {z₀ s : State} (q : ℕ) (p : ℕ) (f : Flit) (named : Bool) (hz : Keeps z₀ s) :
    Keeps z₀ (State.acceptFlit s q p f named) := by
  unfold State.acceptFlit
  repeat' (first
    | with_reducible assumption
    | with_reducible apply State.setAbsorb_keeps
    | with_reducible refine State.bridgeStops_keeps (by with_reducible assumption) ?_
    | with_reducible refine State.bridgeStops_keeps (some_of_ite (by with_reducible assumption)) ?_
    | with_reducible apply State.decodeErrorAnswer_keeps
    | with_reducible apply State.pushBuf_keeps
    | with_reducible apply State.linkCount_keeps
    | split
    | intro _ _ _
    | intro _ _
    | intro _
    | with_reducible refine Keeps.of2 (by with_reducible assumption) ?_
    | with_reducible refine Keeps.of1 (by with_reducible assumption) ?_
    | with_reducible refine Keeps.of3 (by with_reducible assumption) ?_
    | with_reducible refine Keeps.of4 (by with_reducible assumption) ?_
    | with_reducible apply Keeps.upto
    | with_reducible apply Keeps.foldl
    | with_reducible apply Keeps.foldl_snd_snd
    | with_reducible apply Keeps.foldl_snd
    | with_reducible apply Keeps.foldl_trd
    | with_reducible apply Keeps.foldl_fst_fst
    | with_reducible apply Keeps.foldl_fst
    | with_reducible apply Keeps.foldl_mid
    | dsimp only)

theorem State.choose_keeps {z₀ s t : State} {q o p l : ℕ} {f : HeldFlit} (e : s.choose q o = some (p, l, f, t))
    (hz : Keeps z₀ s) : Keeps z₀ t := by
  unfold State.choose at e
  dsimp only at e
  split at e
  · obtain ⟨c, -, hc⟩ := Option.map_eq_some_iff.mp e
    injection hc with _ hc; injection hc with _ hc; injection hc with _ hc
    exact hc ▸ State.setRouter_keeps _ _ hz
  · split at e
    · cases e
    · injection e with e; injection e with _ e; injection e with _ e; injection e with _ e
      exact e ▸ State.setRouter_keeps _ _ hz

theorem State.popHead_keeps {z₀ s : State} (q : ℕ) (p : ℕ) (l : ℕ) (o : ℕ) (f : Flit) (hz : Keeps z₀ s) :
    Keeps z₀ (State.popHead s q p l o f) := by
  unfold State.popHead
  repeat' (first
    | with_reducible assumption
    | with_reducible apply State.setRouter_keeps)

theorem State.ownStops_keeps {z₀ s t : State} {a : ℕ} {f : Flit} (e : s.ownStops a f = some t) (hz : Keeps z₀ s) :
    Keeps z₀ t := by
  unfold State.ownStops at e
  split at e
  · exact nomatch e
  · split at e
    · exact Option.some.inj e ▸ hz
    · exact Option.some.inj e ▸ State.refuseFlit_keeps _ _ _ (State.deadAnswer_keeps _ _ _ _ _ hz)

theorem State.linkStops_keeps {z₀ s t : State} {a b : ℕ} {f : Flit} (e : s.linkStops a b f = some t) (hz : Keeps z₀ s) :
    Keeps z₀ t := by
  unfold State.linkStops at e
  split at e
  · next h => exact State.ownStops_keeps (h.trans e) hz
  · exact State.bridgeStops_keeps (some_of_ite e) hz

theorem State.stopBurst_keeps {z₀ s : State} (q : ℕ) (o : ℕ) (l : ℕ) (f : Flit) (hz : Keeps z₀ s) :
    Keeps z₀ (State.stopBurst s q o l f) := by
  unfold State.stopBurst
  repeat' (first
    | with_reducible assumption
    | with_reducible apply State.setRouter_keeps
    | with_reducible apply State.dropHold_keeps
    | split
    | intro _ _ _
    | intro _ _
    | intro _
    | with_reducible refine Keeps.of2 (by with_reducible assumption) ?_
    | with_reducible refine Keeps.of1 (by with_reducible assumption) ?_
    | with_reducible refine Keeps.of3 (by with_reducible assumption) ?_
    | with_reducible refine Keeps.of4 (by with_reducible assumption) ?_
    | with_reducible apply Keeps.upto
    | with_reducible apply Keeps.foldl
    | with_reducible apply Keeps.foldl_snd_snd
    | with_reducible apply Keeps.foldl_snd
    | with_reducible apply Keeps.foldl_trd
    | with_reducible apply Keeps.foldl_fst_fst
    | with_reducible apply Keeps.foldl_fst
    | with_reducible apply Keeps.foldl_mid
    | dsimp only
    | (with_reducible apply Keeps.mk_other
       first
       | with_reducible assumption
       | with_reducible apply State.setRouter_keeps
       | with_reducible apply State.dropHold_keeps
       | split
       | intro _ _ _
       | intro _ _
       | intro _
       | with_reducible refine Keeps.of2 (by with_reducible assumption) ?_
       | with_reducible refine Keeps.of1 (by with_reducible assumption) ?_
       | with_reducible refine Keeps.of3 (by with_reducible assumption) ?_
       | with_reducible refine Keeps.of4 (by with_reducible assumption) ?_
       | with_reducible apply Keeps.upto
       | with_reducible apply Keeps.foldl
       | with_reducible apply Keeps.foldl_snd_snd
       | with_reducible apply Keeps.foldl_snd
       | with_reducible apply Keeps.foldl_trd
       | with_reducible apply Keeps.foldl_fst_fst
       | with_reducible apply Keeps.foldl_fst
       | with_reducible apply Keeps.foldl_mid
       | dsimp only)
    | (refine Keeps.mk_tables ?_ (by simp +contextual [State.tablesWf, swf_sput, swf_drop, swf])
       first
       | with_reducible assumption
       | with_reducible apply State.setRouter_keeps
       | with_reducible apply State.dropHold_keeps
       | split
       | intro _ _ _
       | intro _ _
       | intro _
       | with_reducible refine Keeps.of2 (by with_reducible assumption) ?_
       | with_reducible refine Keeps.of1 (by with_reducible assumption) ?_
       | with_reducible refine Keeps.of3 (by with_reducible assumption) ?_
       | with_reducible refine Keeps.of4 (by with_reducible assumption) ?_
       | with_reducible apply Keeps.upto
       | with_reducible apply Keeps.foldl
       | with_reducible apply Keeps.foldl_snd_snd
       | with_reducible apply Keeps.foldl_snd
       | with_reducible apply Keeps.foldl_trd
       | with_reducible apply Keeps.foldl_fst_fst
       | with_reducible apply Keeps.foldl_fst
       | with_reducible apply Keeps.foldl_mid
       | dsimp only))

theorem State.burstFlit_keeps {z₀ s : State} (i : ℕ) (f : Flit) (hz : Keeps z₀ s) :
    Keeps z₀ (State.burstFlit s i f) := by
  unfold State.burstFlit
  repeat' (first
    | with_reducible assumption
    | with_reducible apply Keeps.emit
    | split
    | intro _ _ _
    | intro _ _
    | intro _
    | with_reducible refine Keeps.of2 (by with_reducible assumption) ?_
    | with_reducible refine Keeps.of1 (by with_reducible assumption) ?_
    | with_reducible refine Keeps.of3 (by with_reducible assumption) ?_
    | with_reducible refine Keeps.of4 (by with_reducible assumption) ?_
    | with_reducible apply Keeps.upto
    | with_reducible apply Keeps.foldl
    | with_reducible apply Keeps.foldl_snd_snd
    | with_reducible apply Keeps.foldl_snd
    | with_reducible apply Keeps.foldl_trd
    | with_reducible apply Keeps.foldl_fst_fst
    | with_reducible apply Keeps.foldl_fst
    | with_reducible apply Keeps.foldl_mid
    | dsimp only
    | (with_reducible apply Keeps.mk_other
       first
       | with_reducible assumption
       | with_reducible apply Keeps.emit
       | split
       | intro _ _ _
       | intro _ _
       | intro _
       | with_reducible refine Keeps.of2 (by with_reducible assumption) ?_
       | with_reducible refine Keeps.of1 (by with_reducible assumption) ?_
       | with_reducible refine Keeps.of3 (by with_reducible assumption) ?_
       | with_reducible refine Keeps.of4 (by with_reducible assumption) ?_
       | with_reducible apply Keeps.upto
       | with_reducible apply Keeps.foldl
       | with_reducible apply Keeps.foldl_snd_snd
       | with_reducible apply Keeps.foldl_snd
       | with_reducible apply Keeps.foldl_trd
       | with_reducible apply Keeps.foldl_fst_fst
       | with_reducible apply Keeps.foldl_fst
       | with_reducible apply Keeps.foldl_mid
       | dsimp only)
    | (refine Keeps.mk_tables ?_ (by simp +contextual [State.tablesWf, swf_sput, swf_drop, swf])
       first
       | with_reducible assumption
       | with_reducible apply Keeps.emit
       | split
       | intro _ _ _
       | intro _ _
       | intro _
       | with_reducible refine Keeps.of2 (by with_reducible assumption) ?_
       | with_reducible refine Keeps.of1 (by with_reducible assumption) ?_
       | with_reducible refine Keeps.of3 (by with_reducible assumption) ?_
       | with_reducible refine Keeps.of4 (by with_reducible assumption) ?_
       | with_reducible apply Keeps.upto
       | with_reducible apply Keeps.foldl
       | with_reducible apply Keeps.foldl_snd_snd
       | with_reducible apply Keeps.foldl_snd
       | with_reducible apply Keeps.foldl_trd
       | with_reducible apply Keeps.foldl_fst_fst
       | with_reducible apply Keeps.foldl_fst
       | with_reducible apply Keeps.foldl_mid
       | dsimp only))

theorem State.arriveEndpoint_keeps {z₀ s : State} (i : ℕ) (f : Flit) (hz : Keeps z₀ s) :
    Keeps z₀ (State.arriveEndpoint s i f) := by
  unfold State.arriveEndpoint
  repeat' (first
    | with_reducible assumption
    | with_reducible apply Keeps.emit
    | with_reducible apply State.burstFlit_keeps
    | split
    | intro _ _ _
    | intro _ _
    | intro _
    | with_reducible refine Keeps.of2 (by with_reducible assumption) ?_
    | with_reducible refine Keeps.of1 (by with_reducible assumption) ?_
    | with_reducible refine Keeps.of3 (by with_reducible assumption) ?_
    | with_reducible refine Keeps.of4 (by with_reducible assumption) ?_
    | with_reducible apply Keeps.upto
    | with_reducible apply Keeps.foldl
    | with_reducible apply Keeps.foldl_snd_snd
    | with_reducible apply Keeps.foldl_snd
    | with_reducible apply Keeps.foldl_trd
    | with_reducible apply Keeps.foldl_fst_fst
    | with_reducible apply Keeps.foldl_fst
    | with_reducible apply Keeps.foldl_mid
    | dsimp only
    | (with_reducible apply Keeps.mk_other
       first
       | with_reducible assumption
       | with_reducible apply Keeps.emit
       | with_reducible apply State.burstFlit_keeps
       | split
       | intro _ _ _
       | intro _ _
       | intro _
       | with_reducible refine Keeps.of2 (by with_reducible assumption) ?_
       | with_reducible refine Keeps.of1 (by with_reducible assumption) ?_
       | with_reducible refine Keeps.of3 (by with_reducible assumption) ?_
       | with_reducible refine Keeps.of4 (by with_reducible assumption) ?_
       | with_reducible apply Keeps.upto
       | with_reducible apply Keeps.foldl
       | with_reducible apply Keeps.foldl_snd_snd
       | with_reducible apply Keeps.foldl_snd
       | with_reducible apply Keeps.foldl_trd
       | with_reducible apply Keeps.foldl_fst_fst
       | with_reducible apply Keeps.foldl_fst
       | with_reducible apply Keeps.foldl_mid
       | dsimp only)
    | (refine Keeps.mk_tables ?_ (by simp +contextual [State.tablesWf, swf_sput, swf_drop, swf])
       first
       | with_reducible assumption
       | with_reducible apply Keeps.emit
       | with_reducible apply State.burstFlit_keeps
       | split
       | intro _ _ _
       | intro _ _
       | intro _
       | with_reducible refine Keeps.of2 (by with_reducible assumption) ?_
       | with_reducible refine Keeps.of1 (by with_reducible assumption) ?_
       | with_reducible refine Keeps.of3 (by with_reducible assumption) ?_
       | with_reducible refine Keeps.of4 (by with_reducible assumption) ?_
       | with_reducible apply Keeps.upto
       | with_reducible apply Keeps.foldl
       | with_reducible apply Keeps.foldl_snd_snd
       | with_reducible apply Keeps.foldl_snd
       | with_reducible apply Keeps.foldl_trd
       | with_reducible apply Keeps.foldl_fst_fst
       | with_reducible apply Keeps.foldl_fst
       | with_reducible apply Keeps.foldl_mid
       | dsimp only))

theorem State.forwardFlit_keeps {z₀ s : State} (q : ℕ) (o : ℕ) (hz : Keeps z₀ s) :
    Keeps z₀ (State.forwardFlit s q o) := by
  unfold State.forwardFlit
  repeat' (first
    | with_reducible assumption
    | with_reducible refine State.choose_keeps (by with_reducible assumption) ?_
    | with_reducible apply State.popHead_keeps
    | with_reducible refine State.linkStops_keeps (by with_reducible assumption) ?_
    | with_reducible apply State.stopBurst_keeps
    | with_reducible apply State.arriveEndpoint_keeps
    | with_reducible apply State.linkCount_keeps
    | with_reducible apply State.pushBuf_keeps
    | split
    | intro _ _ _
    | intro _ _
    | intro _
    | with_reducible refine Keeps.of2 (by with_reducible assumption) ?_
    | with_reducible refine Keeps.of1 (by with_reducible assumption) ?_
    | with_reducible refine Keeps.of3 (by with_reducible assumption) ?_
    | with_reducible refine Keeps.of4 (by with_reducible assumption) ?_
    | with_reducible apply Keeps.upto
    | with_reducible apply Keeps.foldl
    | with_reducible apply Keeps.foldl_snd_snd
    | with_reducible apply Keeps.foldl_snd
    | with_reducible apply Keeps.foldl_trd
    | with_reducible apply Keeps.foldl_fst_fst
    | with_reducible apply Keeps.foldl_fst
    | with_reducible apply Keeps.foldl_mid
    | dsimp only
    | (with_reducible apply Keeps.mk_other
       first
       | with_reducible assumption
       | with_reducible refine State.choose_keeps (by with_reducible assumption) ?_
       | with_reducible apply State.popHead_keeps
       | with_reducible refine State.linkStops_keeps (by with_reducible assumption) ?_
       | with_reducible apply State.stopBurst_keeps
       | with_reducible apply State.arriveEndpoint_keeps
       | with_reducible apply State.linkCount_keeps
       | with_reducible apply State.pushBuf_keeps
       | split
       | intro _ _ _
       | intro _ _
       | intro _
       | with_reducible refine Keeps.of2 (by with_reducible assumption) ?_
       | with_reducible refine Keeps.of1 (by with_reducible assumption) ?_
       | with_reducible refine Keeps.of3 (by with_reducible assumption) ?_
       | with_reducible refine Keeps.of4 (by with_reducible assumption) ?_
       | with_reducible apply Keeps.upto
       | with_reducible apply Keeps.foldl
       | with_reducible apply Keeps.foldl_snd_snd
       | with_reducible apply Keeps.foldl_snd
       | with_reducible apply Keeps.foldl_trd
       | with_reducible apply Keeps.foldl_fst_fst
       | with_reducible apply Keeps.foldl_fst
       | with_reducible apply Keeps.foldl_mid
       | dsimp only)
    | (refine Keeps.mk_tables ?_ (by simp +contextual [State.tablesWf, swf_sput, swf_drop, swf])
       first
       | with_reducible assumption
       | with_reducible refine State.choose_keeps (by with_reducible assumption) ?_
       | with_reducible apply State.popHead_keeps
       | with_reducible refine State.linkStops_keeps (by with_reducible assumption) ?_
       | with_reducible apply State.stopBurst_keeps
       | with_reducible apply State.arriveEndpoint_keeps
       | with_reducible apply State.linkCount_keeps
       | with_reducible apply State.pushBuf_keeps
       | split
       | intro _ _ _
       | intro _ _
       | intro _
       | with_reducible refine Keeps.of2 (by with_reducible assumption) ?_
       | with_reducible refine Keeps.of1 (by with_reducible assumption) ?_
       | with_reducible refine Keeps.of3 (by with_reducible assumption) ?_
       | with_reducible refine Keeps.of4 (by with_reducible assumption) ?_
       | with_reducible apply Keeps.upto
       | with_reducible apply Keeps.foldl
       | with_reducible apply Keeps.foldl_snd_snd
       | with_reducible apply Keeps.foldl_snd
       | with_reducible apply Keeps.foldl_trd
       | with_reducible apply Keeps.foldl_fst_fst
       | with_reducible apply Keeps.foldl_fst
       | with_reducible apply Keeps.foldl_mid
       | dsimp only))

theorem State.takeOwn_keeps {z₀ s : State} (q : ℕ) (hz : Keeps z₀ s) :
    Keeps z₀ (State.takeOwn s q) := by
  unfold State.takeOwn
  repeat' (first
    | with_reducible assumption
    | with_reducible apply State.popHead_keeps
    | with_reducible refine State.ownStops_keeps (by with_reducible assumption) ?_
    | with_reducible apply State.stopBurst_keeps
    | with_reducible apply State.arriveEndpoint_keeps
    | split
    | intro _ _ _
    | intro _ _
    | intro _
    | with_reducible refine Keeps.of2 (by with_reducible assumption) ?_
    | with_reducible refine Keeps.of1 (by with_reducible assumption) ?_
    | with_reducible refine Keeps.of3 (by with_reducible assumption) ?_
    | with_reducible refine Keeps.of4 (by with_reducible assumption) ?_
    | with_reducible apply Keeps.upto
    | with_reducible apply Keeps.foldl
    | with_reducible apply Keeps.foldl_snd_snd
    | with_reducible apply Keeps.foldl_snd
    | with_reducible apply Keeps.foldl_trd
    | with_reducible apply Keeps.foldl_fst_fst
    | with_reducible apply Keeps.foldl_fst
    | with_reducible apply Keeps.foldl_mid
    | dsimp only
    | (with_reducible apply Keeps.mk_other
       first
       | with_reducible assumption
       | with_reducible apply State.popHead_keeps
       | with_reducible refine State.ownStops_keeps (by with_reducible assumption) ?_
       | with_reducible apply State.stopBurst_keeps
       | with_reducible apply State.arriveEndpoint_keeps
       | split
       | intro _ _ _
       | intro _ _
       | intro _
       | with_reducible refine Keeps.of2 (by with_reducible assumption) ?_
       | with_reducible refine Keeps.of1 (by with_reducible assumption) ?_
       | with_reducible refine Keeps.of3 (by with_reducible assumption) ?_
       | with_reducible refine Keeps.of4 (by with_reducible assumption) ?_
       | with_reducible apply Keeps.upto
       | with_reducible apply Keeps.foldl
       | with_reducible apply Keeps.foldl_snd_snd
       | with_reducible apply Keeps.foldl_snd
       | with_reducible apply Keeps.foldl_trd
       | with_reducible apply Keeps.foldl_fst_fst
       | with_reducible apply Keeps.foldl_fst
       | with_reducible apply Keeps.foldl_mid
       | dsimp only)
    | (refine Keeps.mk_tables ?_ (by simp +contextual [State.tablesWf, swf_sput, swf_drop, swf])
       first
       | with_reducible assumption
       | with_reducible apply State.popHead_keeps
       | with_reducible refine State.ownStops_keeps (by with_reducible assumption) ?_
       | with_reducible apply State.stopBurst_keeps
       | with_reducible apply State.arriveEndpoint_keeps
       | split
       | intro _ _ _
       | intro _ _
       | intro _
       | with_reducible refine Keeps.of2 (by with_reducible assumption) ?_
       | with_reducible refine Keeps.of1 (by with_reducible assumption) ?_
       | with_reducible refine Keeps.of3 (by with_reducible assumption) ?_
       | with_reducible refine Keeps.of4 (by with_reducible assumption) ?_
       | with_reducible apply Keeps.upto
       | with_reducible apply Keeps.foldl
       | with_reducible apply Keeps.foldl_snd_snd
       | with_reducible apply Keeps.foldl_snd
       | with_reducible apply Keeps.foldl_trd
       | with_reducible apply Keeps.foldl_fst_fst
       | with_reducible apply Keeps.foldl_fst
       | with_reducible apply Keeps.foldl_mid
       | dsimp only))

end Sys2Proof.Machine
end

