-- ==== Sys2Proof/Laws/KeepInkBase.lean ====
section
/-! SUPPORT. The functions of Machine/InkBase.lean keep the queue, what has been sent, and the invariant. -/

namespace Sys2Proof.Machine

theorem State.setEngine_keeps {z₀ s : State} (r : ℕ) (e : ℕ) (g : Engine) (hz : Keeps z₀ s) :
    Keeps z₀ (State.setEngine s r e g) := by
  unfold State.setEngine
  repeat' (first
    | with_reducible assumption
    | split
    | intro _ _ _
    | intro _ _
    | intro _
    | with_reducible refine Keeps.of2 (by with_reducible assumption) ?_
    | with_reducible refine Keeps.of1 (by with_reducible assumption) ?_
    | with_reducible refine Keeps.of3 (by with_reducible assumption) ?_
    | with_reducible refine Keeps.of4 (by with_reducible assumption) ?_
    | with_reducible apply Keeps.upto
    | with_reducible apply Keeps.foldl
    | with_reducible apply Keeps.foldl_snd_snd
    | with_reducible apply Keeps.foldl_snd
    | with_reducible apply Keeps.foldl_trd
    | with_reducible apply Keeps.foldl_fst_fst
    | with_reducible apply Keeps.foldl_fst
    | with_reducible apply Keeps.foldl_mid
    | dsimp only
    | (with_reducible apply Keeps.mk_other; with_reducible assumption)
    | (refine Keeps.mk_tables ?_ (by simp +contextual [State.tablesWf, swf_sput, swf_drop]); with_reducible assumption))

theorem State.setInk_keeps {z₀ s : State} (r : ℕ) (k : Ink) (hz : Keeps z₀ s) :
    Keeps z₀ (State.setInk s r k) := by
  unfold State.setInk
  repeat' (first
    | with_reducible assumption
    | split
    | intro _ _ _
    | intro _ _
    | intro _
    | with_reducible refine Keeps.of2 (by with_reducible assumption) ?_
    | with_reducible refine Keeps.of1 (by with_reducible assumption) ?_
    | with_reducible refine Keeps.of3 (by with_reducible assumption) ?_
    | with_reducible refine Keeps.of4 (by with_reducible assumption) ?_
    | with_reducible apply Keeps.upto
    | with_reducible apply Keeps.foldl
    | with_reducible apply Keeps.foldl_snd_snd
    | with_reducible apply Keeps.foldl_snd
    | with_reducible apply Keeps.foldl_trd
    | with_reducible apply Keeps.foldl_fst_fst
    | with_reducible apply Keeps.foldl_fst
    | with_reducible apply Keeps.foldl_mid
    | dsimp only
    | (with_reducible apply Keeps.mk_other; with_reducible assumption)
    | (refine Keeps.mk_tables ?_ (by simp +contextual [State.tablesWf, swf_sput, swf_drop]); with_reducible assumption))

theorem State.flowWrite_keeps {z₀ s : State} (r : ℕ) (f : ℕ) (w : ℕ) (openW : Bool) (nextLo : Bool) (nextHi : Bool) (hz : Keeps z₀ s) :
    Keeps z₀ (State.flowWrite s r f w openW nextLo nextHi) := by
  unfold State.flowWrite
  repeat' (first
    | with_reducible assumption
    | with_reducible apply State.wb_keeps
    | with_reducible apply State.wf_keeps
    | with_reducible apply State.raise_keeps
    | split
    | intro _ _ _
    | intro _ _
    | intro _
    | with_reducible refine Keeps.of2 (by with_reducible assumption) ?_
    | with_reducible refine Keeps.of1 (by with_reducible assumption) ?_
    | with_reducible refine Keeps.of3 (by with_reducible assumption) ?_
    | with_reducible refine Keeps.of4 (by with_reducible assumption) ?_
    | with_reducible apply Keeps.upto
    | with_reducible apply Keeps.foldl
    | with_reducible apply Keeps.foldl_snd_snd
    | with_reducible apply Keeps.foldl_snd
    | with_reducible apply Keeps.foldl_trd
    | with_reducible apply Keeps.foldl_fst_fst
    | with_reducible apply Keeps.foldl_fst
    | with_reducible apply Keeps.foldl_mid
    | dsimp only)

theorem State.unitRecovered_keeps {z₀ s : State} (r : ℕ) (u : ℕ) (why : ℕ) (hz : Keeps z₀ s) :
    Keeps z₀ (State.unitRecovered s r u why) := by
  unfold State.unitRecovered
  repeat' (first
    | with_reducible assumption
    | with_reducible apply State.raise_keeps
    | with_reducible apply State.wb_keeps
    | split)

theorem State.sendPause_keeps {z₀ s : State} (r : ℕ) (hz : Keeps z₀ s) :
    Keeps z₀ (State.sendPause s r) := by
  unfold State.sendPause
  repeat' (first
    | with_reducible assumption
    | with_reducible apply State.valueSend_keeps
    | split
    | intro _ _ _
    | intro _ _
    | intro _
    | with_reducible refine Keeps.of2 (by with_reducible assumption) ?_
    | with_reducible refine Keeps.of1 (by with_reducible assumption) ?_
    | with_reducible refine Keeps.of3 (by with_reducible assumption) ?_
    | with_reducible refine Keeps.of4 (by with_reducible assumption) ?_
    | with_reducible apply Keeps.upto
    | with_reducible apply Keeps.foldl)

theorem State.inkSync_keeps {z₀ s : State} (r : ℕ) (hz : Keeps z₀ s) :
    Keeps z₀ (State.inkSync s r) := by
  unfold State.inkSync
  repeat' (first
    | with_reducible assumption
    | with_reducible apply State.wb_keeps
    | with_reducible apply State.wf_keeps
    | with_reducible apply State.sendPause_keeps
    | split
    | intro _ _ _
    | intro _ _
    | intro _
    | with_reducible refine Keeps.of2 (by with_reducible assumption) ?_
    | with_reducible refine Keeps.of1 (by with_reducible assumption) ?_
    | with_reducible refine Keeps.of3 (by with_reducible assumption) ?_
    | with_reducible refine Keeps.of4 (by with_reducible assumption) ?_
    | with_reducible apply Keeps.upto
    | with_reducible apply Keeps.foldl
    | with_reducible apply Keeps.foldl_snd_snd
    | with_reducible apply Keeps.foldl_snd
    | with_reducible apply Keeps.foldl_trd
    | with_reducible apply Keeps.foldl_fst_fst
    | with_reducible apply Keeps.foldl_fst
    | with_reducible apply Keeps.foldl_mid
    | dsimp only)

theorem State.setPool_keeps {z₀ s : State} (r : ℕ) (p : ℕ) (e : Option PoolEnt) (hz : Keeps z₀ s) :
    Keeps z₀ (State.setPool s r p e) := by
  unfold State.setPool
  repeat' (first
    | with_reducible assumption
    | with_reducible apply State.setInk_keeps)

theorem State.setCtr_keeps {z₀ s : State} (r : ℕ) (c : ℕ) (st : ℕ) (pri : ℕ) (pool : ℕ) (count : ℕ) (hz : Keeps z₀ s) :
    Keeps z₀ (State.setCtr s r c st pri pool count) := by
  unfold State.setCtr
  repeat' (first
    | with_reducible assumption
    | with_reducible apply Keeps.setReg)

theorem State.retire_keeps {z₀ s : State} (r : ℕ) (p : ℕ) (d : List Word) (hz : Keeps z₀ s) :
    Keeps z₀ (State.retire s r p d) := by
  unfold State.retire
  repeat' (first
    | with_reducible assumption
    | with_reducible apply State.setPool_keeps
    | with_reducible apply State.setCtr_keeps)

theorem State.releaseOut_keeps {z₀ s : State} (r : ℕ) (o : Option OutRec) (hz : Keeps z₀ s) :
    Keeps z₀ (State.releaseOut s r o) := by
  unfold State.releaseOut
  repeat' (first
    | with_reducible assumption
    | with_reducible apply State.setInk_keeps
    | split)

theorem State.releaseHeld_keeps {z₀ s : State} (r : ℕ) (f : ℕ) (arg3 : ℕ) (hz : Keeps z₀ s) :
    Keeps z₀ (State.releaseHeld s r f arg3) := by
  induction arg3 generalizing s with
  | zero => exact hz
  | succ k ih =>
    unfold State.releaseHeld
    repeat' (first
      | with_reducible assumption
      | with_reducible apply ih
      | with_reducible apply State.wf_keeps
      | with_reducible apply State.releaseOut_keeps
      | with_reducible apply State.setInk_keeps
      | split
      | dsimp only)

theorem State.flowSync_keeps {z₀ s : State} (r : ℕ) (f : ℕ) (hz : Keeps z₀ s) :
    Keeps z₀ (State.flowSync s r f) := by
  unfold State.flowSync
  repeat' (first
    | with_reducible assumption
    | with_reducible apply State.wb_keeps
    | with_reducible apply State.wf_keeps
    | split)

theorem State.flowComplete_keeps {z₀ s : State} (r : ℕ) (p : ℕ) (d : List Word) (o : Option OutRec) (hz : Keeps z₀ s) :
    Keeps z₀ (State.flowComplete s r p d o) := by
  unfold State.flowComplete
  repeat' (first
    | with_reducible assumption
    | with_reducible apply State.setInk_keeps
    | with_reducible apply State.releaseHeld_keeps
    | with_reducible apply State.wf_keeps
    | with_reducible apply State.releaseOut_keeps
    | with_reducible apply State.raise_keeps
    | with_reducible apply State.flowSync_keeps
    | split)

theorem State.completeTask_keeps {z₀ s : State} (r : ℕ) (p : ℕ) (st : ℕ) (hz : Keeps z₀ s) :
    Keeps z₀ (State.completeTask s r p st) := by
  unfold State.completeTask
  repeat' (first
    | with_reducible assumption
    | with_reducible apply State.retire_keeps
    | with_reducible apply State.setInk_keeps
    | with_reducible apply State.flowComplete_keeps
    | split
    | intro _ _ _
    | intro _ _
    | intro _
    | with_reducible refine Keeps.of2 (by with_reducible assumption) ?_
    | with_reducible refine Keeps.of1 (by with_reducible assumption) ?_
    | with_reducible refine Keeps.of3 (by with_reducible assumption) ?_
    | with_reducible refine Keeps.of4 (by with_reducible assumption) ?_
    | with_reducible apply Keeps.upto
    | with_reducible apply Keeps.foldl
    | with_reducible apply Keeps.foldl_snd_snd
    | with_reducible apply Keeps.foldl_snd
    | with_reducible apply Keeps.foldl_trd
    | with_reducible apply Keeps.foldl_fst_fst
    | with_reducible apply Keeps.foldl_fst
    | with_reducible apply Keeps.foldl_mid
    | dsimp only)

theorem State.joinProceed_keeps {z₀ s : State} (r : ℕ) (p : ℕ) (hz : Keeps z₀ s) :
    Keeps z₀ (State.joinProceed s r p) := by
  unfold State.joinProceed
  repeat' (first
    | with_reducible assumption
    | with_reducible apply State.completeTask_keeps
    | with_reducible apply State.setInk_keeps
    | split)

theorem State.claim_keeps {z₀ s : State} (r : ℕ) (p : ℕ) (d : List Word) (hz : Keeps z₀ s) :
    Keeps z₀ (State.claim s r p d) := by
  unfold State.claim
  repeat' (first
    | with_reducible assumption
    | with_reducible apply State.flowSync_keeps
    | with_reducible apply State.setInk_keeps
    | split)

theorem State.becomeReady_keeps {z₀ s : State} (r : ℕ) (p : ℕ) (hz : Keeps z₀ s) :
    Keeps z₀ (State.becomeReady s r p) := by
  unfold State.becomeReady
  repeat' (first
    | with_reducible assumption
    | with_reducible apply State.setCtr_keeps
    | with_reducible apply State.setPool_keeps
    | with_reducible apply State.joinProceed_keeps
    | with_reducible apply State.claim_keeps
    | with_reducible apply State.setInk_keeps
    | split
    | intro _ _ _
    | intro _ _
    | intro _
    | with_reducible refine Keeps.of2 (by with_reducible assumption) ?_
    | with_reducible refine Keeps.of1 (by with_reducible assumption) ?_
    | with_reducible refine Keeps.of3 (by with_reducible assumption) ?_
    | with_reducible refine Keeps.of4 (by with_reducible assumption) ?_
    | with_reducible apply Keeps.upto
    | with_reducible apply Keeps.foldl
    | with_reducible apply Keeps.foldl_snd_snd
    | with_reducible apply Keeps.foldl_snd
    | with_reducible apply Keeps.foldl_trd
    | with_reducible apply Keeps.foldl_fst_fst
    | with_reducible apply Keeps.foldl_fst
    | with_reducible apply Keeps.foldl_mid
    | dsimp only)

theorem State.newOrder_keeps {z₀ s : State} (r : ℕ) (hz : Keeps z₀ s) :
    Keeps z₀ (State.newOrder s r) := by
  unfold State.newOrder
  repeat' (first
    | with_reducible assumption
    | with_reducible apply State.setInk_keeps)

theorem State.submit_keeps {z₀ s : State} (r : ℕ) (src : ℕ) (whole : Bool) (d : List Word) (hz : Keeps z₀ s) :
    Keeps z₀ (State.submit s r src whole d) := by
  unfold State.submit
  repeat' (first
    | with_reducible assumption
    | with_reducible apply State.raise_keeps
    | with_reducible apply State.incWrap_keeps
    | with_reducible apply State.inkSync_keeps
    | with_reducible apply State.setPool_keeps
    | with_reducible apply State.setCtr_keeps
    | with_reducible apply State.becomeReady_keeps
    | with_reducible apply State.newOrder_keeps
    | split)

theorem State.enqueueDecr_keeps {z₀ s : State} (r : ℕ) (c : ℕ) (a : ℕ) (hz : Keeps z₀ s) :
    Keeps z₀ (State.enqueueDecr s r c a) := by
  unfold State.enqueueDecr
  repeat' (first
    | with_reducible assumption
    | with_reducible apply State.inkSync_keeps
    | with_reducible apply State.setInk_keeps
    | split
    | intro _ _ _
    | intro _ _
    | intro _
    | with_reducible refine Keeps.of2 (by with_reducible assumption) ?_
    | with_reducible refine Keeps.of1 (by with_reducible assumption) ?_
    | with_reducible refine Keeps.of3 (by with_reducible assumption) ?_
    | with_reducible refine Keeps.of4 (by with_reducible assumption) ?_
    | with_reducible apply Keeps.upto
    | with_reducible apply Keeps.foldl
    | with_reducible apply Keeps.foldl_snd_snd
    | with_reducible apply Keeps.foldl_snd
    | with_reducible apply Keeps.foldl_trd
    | with_reducible apply Keeps.foldl_fst_fst
    | with_reducible apply Keeps.foldl_fst
    | with_reducible apply Keeps.foldl_mid
    | dsimp only
    | (with_reducible apply Keeps.mk_other
       first
       | with_reducible assumption
       | with_reducible apply State.inkSync_keeps
       | with_reducible apply State.setInk_keeps
       | split
       | intro _ _ _
       | intro _ _
       | intro _
       | with_reducible refine Keeps.of2 (by with_reducible assumption) ?_
       | with_reducible refine Keeps.of1 (by with_reducible assumption) ?_
       | with_reducible refine Keeps.of3 (by with_reducible assumption) ?_
       | with_reducible refine Keeps.of4 (by with_reducible assumption) ?_
       | with_reducible apply Keeps.upto
       | with_reducible apply Keeps.foldl
       | with_reducible apply Keeps.foldl_snd_snd
       | with_reducible apply Keeps.foldl_snd
       | with_reducible apply Keeps.foldl_trd
       | with_reducible apply Keeps.foldl_fst_fst
       | with_reducible apply Keeps.foldl_fst
       | with_reducible apply Keeps.foldl_mid
       | dsimp only)
    | (refine Keeps.mk_tables ?_ (by simp +contextual [State.tablesWf, swf_sput, swf_drop, swf])
       first
       | with_reducible assumption
       | with_reducible apply State.inkSync_keeps
       | with_reducible apply State.setInk_keeps
       | split
       | intro _ _ _
       | intro _ _
       | intro _
       | with_reducible refine Keeps.of2 (by with_reducible assumption) ?_
       | with_reducible refine Keeps.of1 (by with_reducible assumption) ?_
       | with_reducible refine Keeps.of3 (by with_reducible assumption) ?_
       | with_reducible refine Keeps.of4 (by with_reducible assumption) ?_
       | with_reducible apply Keeps.upto
       | with_reducible apply Keeps.foldl
       | with_reducible apply Keeps.foldl_snd_snd
       | with_reducible apply Keeps.foldl_snd
       | with_reducible apply Keeps.foldl_trd
       | with_reducible apply Keeps.foldl_fst_fst
       | with_reducible apply Keeps.foldl_fst
       | with_reducible apply Keeps.foldl_mid
       | dsimp only))

theorem State.decrement_keeps {z₀ s : State} (r : ℕ) (c : ℕ) (a : ℕ) (hz : Keeps z₀ s) :
    Keeps z₀ (State.decrement s r c a) := by
  unfold State.decrement
  repeat' (first
    | with_reducible assumption
    | with_reducible apply State.wf_keeps
    | with_reducible apply State.raise_keeps
    | with_reducible apply State.becomeReady_keeps
    | split
    | intro _ _ _
    | intro _ _
    | intro _
    | with_reducible refine Keeps.of2 (by with_reducible assumption) ?_
    | with_reducible refine Keeps.of1 (by with_reducible assumption) ?_
    | with_reducible refine Keeps.of3 (by with_reducible assumption) ?_
    | with_reducible refine Keeps.of4 (by with_reducible assumption) ?_
    | with_reducible apply Keeps.upto
    | with_reducible apply Keeps.foldl
    | with_reducible apply Keeps.foldl_snd_snd
    | with_reducible apply Keeps.foldl_snd
    | with_reducible apply Keeps.foldl_trd
    | with_reducible apply Keeps.foldl_fst_fst
    | with_reducible apply Keeps.foldl_fst
    | with_reducible apply Keeps.foldl_mid
    | dsimp only)

theorem State.decrClear_keeps {z₀ s : State} (r : ℕ) (c : ℕ) (hz : Keeps z₀ s) :
    Keeps z₀ (State.decrClear s r c) := by
  unfold State.decrClear
  repeat' (first
    | with_reducible assumption
    | with_reducible apply State.wf_keeps
    | with_reducible apply State.raise_keeps
    | split)

theorem State.abortTask_keeps {z₀ s : State} (r : ℕ) (p : ℕ) (why : ℕ) (hz : Keeps z₀ s) :
    Keeps z₀ (State.abortTask s r p why) := by
  unfold State.abortTask
  repeat' (first
    | with_reducible assumption
    | with_reducible apply State.raise_keeps
    | with_reducible apply State.retire_keeps
    | with_reducible apply State.setInk_keeps
    | with_reducible apply State.flowComplete_keeps
    | with_reducible apply State.inkSync_keeps
    | split)

theorem State.decrAbandon_keeps {z₀ s : State} (r : ℕ) (c : ℕ) (hz : Keeps z₀ s) :
    Keeps z₀ (State.decrAbandon s r c) := by
  unfold State.decrAbandon
  repeat' (first
    | with_reducible assumption
    | with_reducible apply State.abortTask_keeps
    | with_reducible apply State.raise_keeps
    | split
    | intro _ _ _
    | intro _ _
    | intro _
    | with_reducible refine Keeps.of2 (by with_reducible assumption) ?_
    | with_reducible refine Keeps.of1 (by with_reducible assumption) ?_
    | with_reducible refine Keeps.of3 (by with_reducible assumption) ?_
    | with_reducible refine Keeps.of4 (by with_reducible assumption) ?_
    | with_reducible apply Keeps.upto
    | with_reducible apply Keeps.foldl
    | with_reducible apply Keeps.foldl_snd_snd
    | with_reducible apply Keeps.foldl_snd
    | with_reducible apply Keeps.foldl_trd
    | with_reducible apply Keeps.foldl_fst_fst
    | with_reducible apply Keeps.foldl_fst
    | with_reducible apply Keeps.foldl_mid
    | dsimp only)

theorem State.applyOp_keeps {z₀ s : State} (r : ℕ) (c : ℕ) (arg3 : DecrOp) (hz : Keeps z₀ s) :
    Keeps z₀ (State.applyOp s r c arg3) := by
  unfold State.applyOp
  repeat' (first
    | with_reducible assumption
    | with_reducible apply State.decrement_keeps
    | with_reducible apply State.decrClear_keeps
    | with_reducible apply State.decrAbandon_keeps
    | split
    | intro _ _ _
    | intro _ _
    | intro _
    | with_reducible refine Keeps.of2 (by with_reducible assumption) ?_
    | with_reducible refine Keeps.of1 (by with_reducible assumption) ?_
    | with_reducible refine Keeps.of3 (by with_reducible assumption) ?_
    | with_reducible refine Keeps.of4 (by with_reducible assumption) ?_
    | with_reducible apply Keeps.upto
    | with_reducible apply Keeps.foldl
    | with_reducible apply Keeps.foldl_snd_snd
    | with_reducible apply Keeps.foldl_snd
    | with_reducible apply Keeps.foldl_trd
    | with_reducible apply Keeps.foldl_fst_fst
    | with_reducible apply Keeps.foldl_fst
    | with_reducible apply Keeps.foldl_mid
    | dsimp only
    | (with_reducible apply Keeps.mk_other
       first
       | with_reducible assumption
       | with_reducible apply State.decrement_keeps
       | with_reducible apply State.decrClear_keeps
       | with_reducible apply State.decrAbandon_keeps
       | split
       | intro _ _ _
       | intro _ _
       | intro _
       | with_reducible refine Keeps.of2 (by with_reducible assumption) ?_
       | with_reducible refine Keeps.of1 (by with_reducible assumption) ?_
       | with_reducible refine Keeps.of3 (by with_reducible assumption) ?_
       | with_reducible refine Keeps.of4 (by with_reducible assumption) ?_
       | with_reducible apply Keeps.upto
       | with_reducible apply Keeps.foldl
       | with_reducible apply Keeps.foldl_snd_snd
       | with_reducible apply Keeps.foldl_snd
       | with_reducible apply Keeps.foldl_trd
       | with_reducible apply Keeps.foldl_fst_fst
       | with_reducible apply Keeps.foldl_fst
       | with_reducible apply Keeps.foldl_mid
       | dsimp only)
    | (refine Keeps.mk_tables ?_ (by simp +contextual [State.tablesWf, swf_sput, swf_drop, swf])
       first
       | with_reducible assumption
       | with_reducible apply State.decrement_keeps
       | with_reducible apply State.decrClear_keeps
       | with_reducible apply State.decrAbandon_keeps
       | split
       | intro _ _ _
       | intro _ _
       | intro _
       | with_reducible refine Keeps.of2 (by with_reducible assumption) ?_
       | with_reducible refine Keeps.of1 (by with_reducible assumption) ?_
       | with_reducible refine Keeps.of3 (by with_reducible assumption) ?_
       | with_reducible refine Keeps.of4 (by with_reducible assumption) ?_
       | with_reducible apply Keeps.upto
       | with_reducible apply Keeps.foldl
       | with_reducible apply Keeps.foldl_snd_snd
       | with_reducible apply Keeps.foldl_snd
       | with_reducible apply Keeps.foldl_trd
       | with_reducible apply Keeps.foldl_fst_fst
       | with_reducible apply Keeps.foldl_fst
       | with_reducible apply Keeps.foldl_mid
       | dsimp only))

theorem State.decrOp_keeps {z₀ s : State} (r : ℕ) (c : ℕ) (op : DecrOp) (hz : Keeps z₀ s) :
    Keeps z₀ (State.decrOp s r c op) := by
  unfold State.decrOp
  repeat' (first
    | with_reducible assumption
    | with_reducible apply State.applyOp_keeps
    | with_reducible apply State.inkSync_keeps
    | with_reducible apply State.setInk_keeps
    | split
    | intro _ _ _
    | intro _ _
    | intro _
    | with_reducible refine Keeps.of2 (by with_reducible assumption) ?_
    | with_reducible refine Keeps.of1 (by with_reducible assumption) ?_
    | with_reducible refine Keeps.of3 (by with_reducible assumption) ?_
    | with_reducible refine Keeps.of4 (by with_reducible assumption) ?_
    | with_reducible apply Keeps.upto
    | with_reducible apply Keeps.foldl
    | with_reducible apply Keeps.foldl_snd_snd
    | with_reducible apply Keeps.foldl_snd
    | with_reducible apply Keeps.foldl_trd
    | with_reducible apply Keeps.foldl_fst_fst
    | with_reducible apply Keeps.foldl_fst
    | with_reducible apply Keeps.foldl_mid
    | dsimp only
    | (with_reducible apply Keeps.mk_other
       first
       | with_reducible assumption
       | with_reducible apply State.applyOp_keeps
       | with_reducible apply State.inkSync_keeps
       | with_reducible apply State.setInk_keeps
       | split
       | intro _ _ _
       | intro _ _
       | intro _
       | with_reducible refine Keeps.of2 (by with_reducible assumption) ?_
       | with_reducible refine Keeps.of1 (by with_reducible assumption) ?_
       | with_reducible refine Keeps.of3 (by with_reducible assumption) ?_
       | with_reducible refine Keeps.of4 (by with_reducible assumption) ?_
       | with_reducible apply Keeps.upto
       | with_reducible apply Keeps.foldl
       | with_reducible apply Keeps.foldl_snd_snd
       | with_reducible apply Keeps.foldl_snd
       | with_reducible apply Keeps.foldl_trd
       | with_reducible apply Keeps.foldl_fst_fst
       | with_reducible apply Keeps.foldl_fst
       | with_reducible apply Keeps.foldl_mid
       | dsimp only)
    | (refine Keeps.mk_tables ?_ (by simp +contextual [State.tablesWf, swf_sput, swf_drop, swf])
       first
       | with_reducible assumption
       | with_reducible apply State.applyOp_keeps
       | with_reducible apply State.inkSync_keeps
       | with_reducible apply State.setInk_keeps
       | split
       | intro _ _ _
       | intro _ _
       | intro _
       | with_reducible refine Keeps.of2 (by with_reducible assumption) ?_
       | with_reducible refine Keeps.of1 (by with_reducible assumption) ?_
       | with_reducible refine Keeps.of3 (by with_reducible assumption) ?_
       | with_reducible refine Keeps.of4 (by with_reducible assumption) ?_
       | with_reducible apply Keeps.upto
       | with_reducible apply Keeps.foldl
       | with_reducible apply Keeps.foldl_snd_snd
       | with_reducible apply Keeps.foldl_snd
       | with_reducible apply Keeps.foldl_trd
       | with_reducible apply Keeps.foldl_fst_fst
       | with_reducible apply Keeps.foldl_fst
       | with_reducible apply Keeps.foldl_mid
       | dsimp only))

theorem State.decrWord_keeps {z₀ s : State} (r : ℕ) (w : ℕ) (hz : Keeps z₀ s) :
    Keeps z₀ (State.decrWord s r w) := by
  unfold State.decrWord
  repeat' (first
    | with_reducible assumption
    | with_reducible apply State.enqueueDecr_keeps
    | with_reducible apply State.decrOp_keeps
    | with_reducible apply State.raise_keeps
    | split
    | intro _ _ _
    | intro _ _
    | intro _
    | with_reducible refine Keeps.of2 (by with_reducible assumption) ?_
    | with_reducible refine Keeps.of1 (by with_reducible assumption) ?_
    | with_reducible refine Keeps.of3 (by with_reducible assumption) ?_
    | with_reducible refine Keeps.of4 (by with_reducible assumption) ?_
    | with_reducible apply Keeps.upto
    | with_reducible apply Keeps.foldl
    | with_reducible apply Keeps.foldl_snd_snd
    | with_reducible apply Keeps.foldl_snd
    | with_reducible apply Keeps.foldl_trd
    | with_reducible apply Keeps.foldl_fst_fst
    | with_reducible apply Keeps.foldl_fst
    | with_reducible apply Keeps.foldl_mid
    | dsimp only
    | (with_reducible apply Keeps.mk_other
       first
       | with_reducible assumption
       | with_reducible apply State.enqueueDecr_keeps
       | with_reducible apply State.decrOp_keeps
       | with_reducible apply State.raise_keeps
       | split
       | intro _ _ _
       | intro _ _
       | intro _
       | with_reducible refine Keeps.of2 (by with_reducible assumption) ?_
       | with_reducible refine Keeps.of1 (by with_reducible assumption) ?_
       | with_reducible refine Keeps.of3 (by with_reducible assumption) ?_
       | with_reducible refine Keeps.of4 (by with_reducible assumption) ?_
       | with_reducible apply Keeps.upto
       | with_reducible apply Keeps.foldl
       | with_reducible apply Keeps.foldl_snd_snd
       | with_reducible apply Keeps.foldl_snd
       | with_reducible apply Keeps.foldl_trd
       | with_reducible apply Keeps.foldl_fst_fst
       | with_reducible apply Keeps.foldl_fst
       | with_reducible apply Keeps.foldl_mid
       | dsimp only)
    | (refine Keeps.mk_tables ?_ (by simp +contextual [State.tablesWf, swf_sput, swf_drop, swf])
       first
       | with_reducible assumption
       | with_reducible apply State.enqueueDecr_keeps
       | with_reducible apply State.decrOp_keeps
       | with_reducible apply State.raise_keeps
       | split
       | intro _ _ _
       | intro _ _
       | intro _
       | with_reducible refine Keeps.of2 (by with_reducible assumption) ?_
       | with_reducible refine Keeps.of1 (by with_reducible assumption) ?_
       | with_reducible refine Keeps.of3 (by with_reducible assumption) ?_
       | with_reducible refine Keeps.of4 (by with_reducible assumption) ?_
       | with_reducible apply Keeps.upto
       | with_reducible apply Keeps.foldl
       | with_reducible apply Keeps.foldl_snd_snd
       | with_reducible apply Keeps.foldl_snd
       | with_reducible apply Keeps.foldl_trd
       | with_reducible apply Keeps.foldl_fst_fst
       | with_reducible apply Keeps.foldl_fst
       | with_reducible apply Keeps.foldl_mid
       | dsimp only))

theorem State.decrBad_keeps {z₀ s : State} (r : ℕ) (w : ℕ) (hz : Keeps z₀ s) :
    Keeps z₀ (State.decrBad s r w) := by
  unfold State.decrBad
  repeat' (first
    | with_reducible assumption
    | with_reducible apply State.raise_keeps)

theorem State.setInkUnit_keeps {z₀ s : State} (r : ℕ) (u : ℕ) (v : InkUnit) (hz : Keeps z₀ s) :
    Keeps z₀ (State.setInkUnit s r u v) := by
  unfold State.setInkUnit
  repeat' (first
    | with_reducible assumption
    | with_reducible apply State.setInk_keeps
    | with_reducible apply State.wf_keeps
    | split)

theorem State.stampIdle_keeps {z₀ s : State} (r : ℕ) (u : ℕ) (hz : Keeps z₀ s) :
    Keeps z₀ (State.stampIdle s r u) := by
  unfold State.stampIdle
  repeat' (first
    | with_reducible assumption
    | with_reducible apply State.newOrder_keeps
    | with_reducible apply State.setInkUnit_keeps)

theorem State.abortUnit_keeps {z₀ s : State} (r : ℕ) (u : ℕ) (why : ℕ) (hz : Keeps z₀ s) :
    Keeps z₀ (State.abortUnit s r u why) := by
  unfold State.abortUnit
  repeat' (first
    | with_reducible assumption
    | with_reducible apply State.abortTask_keeps
    | with_reducible apply State.inkSync_keeps
    | with_reducible apply State.stampIdle_keeps
    | with_reducible apply State.setInkUnit_keeps
    | with_reducible apply State.setInk_keeps
    | split
    | intro _ _ _
    | intro _ _
    | intro _
    | with_reducible refine Keeps.of2 (by with_reducible assumption) ?_
    | with_reducible refine Keeps.of1 (by with_reducible assumption) ?_
    | with_reducible refine Keeps.of3 (by with_reducible assumption) ?_
    | with_reducible refine Keeps.of4 (by with_reducible assumption) ?_
    | with_reducible apply Keeps.upto
    | with_reducible apply Keeps.foldl)

theorem State.setUnavail_keeps {z₀ s : State} (r : ℕ) (u : ℕ) (b : Bool) (hz : Keeps z₀ s) :
    Keeps z₀ (State.setUnavail s r u b) := by
  unfold State.setUnavail
  repeat' (first
    | with_reducible assumption
    | with_reducible apply State.sendPause_keeps
    | with_reducible apply State.wb_keeps
    | split)

theorem State.joinTake_keeps {z₀ s : State} (r : ℕ) (hz : Keeps z₀ s) :
    Keeps z₀ (State.joinTake s r) := by
  unfold State.joinTake
  repeat' (first
    | with_reducible assumption
    | with_reducible apply State.setInk_keeps
    | with_reducible apply State.inkSync_keeps
    | with_reducible apply State.joinProceed_keeps
    | with_reducible apply State.claim_keeps
    | split
    | intro _ _ _
    | intro _ _
    | intro _
    | with_reducible refine Keeps.of2 (by with_reducible assumption) ?_
    | with_reducible refine Keeps.of1 (by with_reducible assumption) ?_
    | with_reducible refine Keeps.of3 (by with_reducible assumption) ?_
    | with_reducible refine Keeps.of4 (by with_reducible assumption) ?_
    | with_reducible apply Keeps.upto
    | with_reducible apply Keeps.foldl
    | with_reducible apply Keeps.foldl_snd_snd
    | with_reducible apply Keeps.foldl_snd
    | with_reducible apply Keeps.foldl_trd
    | with_reducible apply Keeps.foldl_fst_fst
    | with_reducible apply Keeps.foldl_fst
    | with_reducible apply Keeps.foldl_mid
    | dsimp only)

theorem State.grant_keeps {z₀ s : State} (r : ℕ) (hz : Keeps z₀ s) :
    Keeps z₀ (State.grant s r) := by
  unfold State.grant
  repeat' (first
    | with_reducible assumption
    | with_reducible apply State.inkSync_keeps
    | with_reducible apply State.setInk_keeps
    | with_reducible apply State.incWrap_keeps
    | split
    | intro _ _ _
    | intro _ _
    | intro _
    | with_reducible refine Keeps.of2 (by with_reducible assumption) ?_
    | with_reducible refine Keeps.of1 (by with_reducible assumption) ?_
    | with_reducible refine Keeps.of3 (by with_reducible assumption) ?_
    | with_reducible refine Keeps.of4 (by with_reducible assumption) ?_
    | with_reducible apply Keeps.upto
    | with_reducible apply Keeps.foldl
    | with_reducible apply Keeps.foldl_snd_snd
    | with_reducible apply Keeps.foldl_snd
    | with_reducible apply Keeps.foldl_trd
    | with_reducible apply Keeps.foldl_fst_fst
    | with_reducible apply Keeps.foldl_fst
    | with_reducible apply Keeps.foldl_mid
    | dsimp only)

theorem State.applyHead_keeps {z₀ s : State} (r : ℕ) (same : Bool) (hz : Keeps z₀ s) :
    Keeps z₀ (State.applyHead s r same) := by
  unfold State.applyHead
  repeat' (first
    | with_reducible assumption
    | with_reducible apply State.applyOp_keeps
    | with_reducible apply State.setInk_keeps
    | split
    | intro _ _ _
    | intro _ _
    | intro _
    | with_reducible refine Keeps.of2 (by with_reducible assumption) ?_
    | with_reducible refine Keeps.of1 (by with_reducible assumption) ?_
    | with_reducible refine Keeps.of3 (by with_reducible assumption) ?_
    | with_reducible refine Keeps.of4 (by with_reducible assumption) ?_
    | with_reducible apply Keeps.upto
    | with_reducible apply Keeps.foldl
    | with_reducible apply Keeps.foldl_snd_snd
    | with_reducible apply Keeps.foldl_snd
    | with_reducible apply Keeps.foldl_trd
    | with_reducible apply Keeps.foldl_fst_fst
    | with_reducible apply Keeps.foldl_fst
    | with_reducible apply Keeps.foldl_mid
    | dsimp only
    | (with_reducible apply Keeps.mk_other
       first
       | with_reducible assumption
       | with_reducible apply State.applyOp_keeps
       | with_reducible apply State.setInk_keeps
       | split
       | intro _ _ _
       | intro _ _
       | intro _
       | with_reducible refine Keeps.of2 (by with_reducible assumption) ?_
       | with_reducible refine Keeps.of1 (by with_reducible assumption) ?_
       | with_reducible refine Keeps.of3 (by with_reducible assumption) ?_
       | with_reducible refine Keeps.of4 (by with_reducible assumption) ?_
       | with_reducible apply Keeps.upto
       | with_reducible apply Keeps.foldl
       | with_reducible apply Keeps.foldl_snd_snd
       | with_reducible apply Keeps.foldl_snd
       | with_reducible apply Keeps.foldl_trd
       | with_reducible apply Keeps.foldl_fst_fst
       | with_reducible apply Keeps.foldl_fst
       | with_reducible apply Keeps.foldl_mid
       | dsimp only)
    | (refine Keeps.mk_tables ?_ (by simp +contextual [State.tablesWf, swf_sput, swf_drop, swf])
       first
       | with_reducible assumption
       | with_reducible apply State.applyOp_keeps
       | with_reducible apply State.setInk_keeps
       | split
       | intro _ _ _
       | intro _ _
       | intro _
       | with_reducible refine Keeps.of2 (by with_reducible assumption) ?_
       | with_reducible refine Keeps.of1 (by with_reducible assumption) ?_
       | with_reducible refine Keeps.of3 (by with_reducible assumption) ?_
       | with_reducible refine Keeps.of4 (by with_reducible assumption) ?_
       | with_reducible apply Keeps.upto
       | with_reducible apply Keeps.foldl
       | with_reducible apply Keeps.foldl_snd_snd
       | with_reducible apply Keeps.foldl_snd
       | with_reducible apply Keeps.foldl_trd
       | with_reducible apply Keeps.foldl_fst_fst
       | with_reducible apply Keeps.foldl_fst
       | with_reducible apply Keeps.foldl_mid
       | dsimp only))

theorem State.dropStaged_keeps {z₀ s : State} (r : ℕ) (u : ℕ) (hz : Keeps z₀ s) :
    Keeps z₀ (State.dropStaged s r u) := by
  unfold State.dropStaged
  repeat' (first
    | with_reducible assumption
    | with_reducible apply State.wb_keeps
    | with_reducible apply State.setEngine_keeps
    | split)

theorem State.becomeLaggard_keeps {z₀ s : State} (r : ℕ) (u : ℕ) (svc : ℕ) (hz : Keeps z₀ s) :
    Keeps z₀ (State.becomeLaggard s r u svc) := by
  unfold State.becomeLaggard
  repeat' (first
    | with_reducible assumption
    | with_reducible apply State.raise_keeps
    | with_reducible apply State.wb_keeps
    | with_reducible apply State.dropStaged_keeps
    | with_reducible apply State.stampIdle_keeps
    | with_reducible apply State.setInkUnit_keeps
    | with_reducible apply State.setInk_keeps
    | with_reducible apply State.setPool_keeps
    | with_reducible apply State.newOrder_keeps
    | with_reducible apply State.inkSync_keeps
    | with_reducible apply State.flowSync_keeps
    | with_reducible apply State.setCtr_keeps
    | split
    | intro _ _ _
    | intro _ _
    | intro _
    | with_reducible refine Keeps.of2 (by with_reducible assumption) ?_
    | with_reducible refine Keeps.of1 (by with_reducible assumption) ?_
    | with_reducible refine Keeps.of3 (by with_reducible assumption) ?_
    | with_reducible refine Keeps.of4 (by with_reducible assumption) ?_
    | with_reducible apply Keeps.upto
    | with_reducible apply Keeps.foldl
    | with_reducible apply Keeps.foldl_snd_snd
    | with_reducible apply Keeps.foldl_snd
    | with_reducible apply Keeps.foldl_trd
    | with_reducible apply Keeps.foldl_fst_fst
    | with_reducible apply Keeps.foldl_fst
    | with_reducible apply Keeps.foldl_mid
    | dsimp only)

theorem State.lagCheck_keeps {z₀ s : State} (r : ℕ) (u : ℕ) (svc : ℕ) (hz : Keeps z₀ s) :
    Keeps z₀ (State.lagCheck s r u svc) := by
  unfold State.lagCheck
  repeat' (first
    | with_reducible assumption
    | with_reducible apply State.becomeLaggard_keeps
    | split
    | intro _ _ _
    | intro _ _
    | intro _
    | with_reducible refine Keeps.of2 (by with_reducible assumption) ?_
    | with_reducible refine Keeps.of1 (by with_reducible assumption) ?_
    | with_reducible refine Keeps.of3 (by with_reducible assumption) ?_
    | with_reducible refine Keeps.of4 (by with_reducible assumption) ?_
    | with_reducible apply Keeps.upto
    | with_reducible apply Keeps.foldl
    | with_reducible apply Keeps.foldl_snd_snd
    | with_reducible apply Keeps.foldl_snd
    | with_reducible apply Keeps.foldl_trd
    | with_reducible apply Keeps.foldl_fst_fst
    | with_reducible apply Keeps.foldl_fst
    | with_reducible apply Keeps.foldl_mid
    | dsimp only)

theorem State.lagIdle_keeps {z₀ s : State} (r : ℕ) (u : ℕ) (hz : Keeps z₀ s) :
    Keeps z₀ (State.lagIdle s r u) := by
  unfold State.lagIdle
  repeat' (first
    | with_reducible assumption
    | with_reducible apply State.unitRecovered_keeps
    | split)

theorem State.takeTask_keeps {z₀ s : State} (r : ℕ) (u : ℕ) (p : ℕ) (e : PoolEnt) (staged : Bool) (hz : Keeps z₀ s) :
    Keeps z₀ (State.takeTask s r u p e staged) := by
  unfold State.takeTask
  repeat' (first
    | with_reducible assumption
    | with_reducible apply State.setCtr_keeps
    | with_reducible apply State.setPool_keeps
    | with_reducible apply State.inkSync_keeps
    | with_reducible apply State.setInkUnit_keeps
    | with_reducible apply State.claim_keeps)

theorem State.deadlineScan_keeps {z₀ s : State} (r : ℕ) (hz : Keeps z₀ s) :
    Keeps z₀ (State.deadlineScan s r) := by
  unfold State.deadlineScan
  repeat' (first
    | with_reducible assumption
    | with_reducible apply State.raise_keeps
    | with_reducible apply State.setPool_keeps
    | split
    | intro _ _ _
    | intro _ _
    | intro _
    | with_reducible refine Keeps.of2 (by with_reducible assumption) ?_
    | with_reducible refine Keeps.of1 (by with_reducible assumption) ?_
    | with_reducible refine Keeps.of3 (by with_reducible assumption) ?_
    | with_reducible refine Keeps.of4 (by with_reducible assumption) ?_
    | with_reducible apply Keeps.upto
    | with_reducible apply Keeps.foldl)

end Sys2Proof.Machine
end

