-- ==== Sys2Proof/Laws/KeepAccBase.lean ====
section
/-! SUPPORT. The functions of Machine/AccBase.lean keep the queue, what has been sent, and the invariant. -/

namespace Sys2Proof.Machine

theorem State.intakeJob_keeps {z₀ s : State} (r : ℕ) (e : ℕ) (src : ℕ) (entry : ℕ) (hz : Keeps z₀ s) :
    Keeps z₀ (State.intakeJob s r e src entry) := by
  unfold State.intakeJob
  repeat' (first
    | with_reducible assumption
    | with_reducible apply State.raise_keeps
    | with_reducible apply State.wb_keeps
    | with_reducible apply State.setEngine_keeps
    | split
    | intro _ _ _
    | intro _ _
    | intro _
    | with_reducible refine Keeps.of2 (by with_reducible assumption) ?_
    | with_reducible refine Keeps.of1 (by with_reducible assumption) ?_
    | with_reducible refine Keeps.of3 (by with_reducible assumption) ?_
    | with_reducible refine Keeps.of4 (by with_reducible assumption) ?_
    | with_reducible apply Keeps.upto
    | with_reducible apply Keeps.foldl
    | with_reducible apply Keeps.foldl_snd_snd
    | with_reducible apply Keeps.foldl_snd
    | with_reducible apply Keeps.foldl_trd
    | with_reducible apply Keeps.foldl_fst_fst
    | with_reducible apply Keeps.foldl_fst
    | with_reducible apply Keeps.foldl_mid
    | dsimp only)

theorem State.guardSync_keeps {z₀ s : State} (r : ℕ) (hz : Keeps z₀ s) :
    Keeps z₀ (State.guardSync s r) := by
  unfold State.guardSync
  repeat' (first
    | with_reducible assumption
    | with_reducible apply State.wf_keeps)

end Sys2Proof.Machine
end

