-- ==== Sys2Proof/Laws/KeepCopBase.lean ====
section
/-! SUPPORT. The functions of Machine/CopBase.lean keep the queue, what has been sent, and the invariant. -/

namespace Sys2Proof.Machine

theorem State.crReport_keeps {z₀ s : State} (k : ℕ) (u : ℕ) (ctx : ℕ) (n : ℕ) (w : ℕ) (m : Mark) (hz : Keeps z₀ s) :
    Keeps z₀ (State.crReport s k u ctx n w m) := by
  unfold State.crReport
  repeat' (first
    | with_reducible assumption
    | with_reducible apply State.draw_keeps
    | with_reducible apply State.reportWord_keeps)

theorem State.crDecode_keeps {z₀ s : State} (k : ℕ) (u : ℕ) (ctx : ℕ) (n : ℕ) (hz : Keeps z₀ s) :
    Keeps z₀ (State.crDecode s k u ctx n).2 := by
  unfold State.crDecode
  repeat' (first
    | with_reducible assumption
    | with_reducible apply State.crReport_keeps
    | split
    | intro _ _ _
    | intro _ _
    | intro _
    | with_reducible refine Keeps.of2 (by with_reducible assumption) ?_
    | with_reducible refine Keeps.of1 (by with_reducible assumption) ?_
    | with_reducible refine Keeps.of3 (by with_reducible assumption) ?_
    | with_reducible refine Keeps.of4 (by with_reducible assumption) ?_
    | with_reducible apply Keeps.upto
    | with_reducible apply Keeps.foldl
    | with_reducible apply Keeps.foldl_snd_snd
    | with_reducible apply Keeps.foldl_snd)

theorem State.hazard_keeps {z₀ s : State} (k : ℕ) (u : ℕ) (ctx : ℕ) (n : ℕ) (hz : Keeps z₀ s) :
    Keeps z₀ (State.hazard s k u ctx n) := by
  unfold State.hazard
  repeat' (first
    | with_reducible assumption
    | with_reducible apply State.raise_keeps
    | with_reducible apply State.wf_keeps
    | split)

theorem State.setCop_keeps {z₀ s : State} (k : ℕ) (u : ℕ) (c : Coproc) (hz : Keeps z₀ s) :
    Keeps z₀ (State.setCop s k u c) := by
  unfold State.setCop
  repeat' (first
    | with_reducible assumption
    | with_reducible apply State.wb_keeps
    | with_reducible apply State.wf_keeps
    | split
    | intro _ _ _
    | intro _ _
    | intro _
    | with_reducible refine Keeps.of2 (by with_reducible assumption) ?_
    | with_reducible refine Keeps.of1 (by with_reducible assumption) ?_
    | with_reducible refine Keeps.of3 (by with_reducible assumption) ?_
    | with_reducible refine Keeps.of4 (by with_reducible assumption) ?_
    | with_reducible apply Keeps.upto
    | with_reducible apply Keeps.foldl
    | with_reducible apply Keeps.foldl_snd_snd
    | with_reducible apply Keeps.foldl_snd
    | with_reducible apply Keeps.foldl_trd
    | with_reducible apply Keeps.foldl_fst_fst
    | with_reducible apply Keeps.foldl_fst
    | with_reducible apply Keeps.foldl_mid
    | dsimp only
    | (with_reducible apply Keeps.mk_other; with_reducible assumption)
    | (refine Keeps.mk_tables ?_ (by simp +contextual [State.tablesWf, swf_sput, swf_drop]); with_reducible assumption))

theorem State.copEnter_keeps {z₀ s : State} (k : ℕ) (u : ℕ) (x : CopCmd) (hz : Keeps z₀ s) :
    Keeps z₀ (State.copEnter s k u x) := by
  unfold State.copEnter
  repeat' (first
    | with_reducible assumption
    | with_reducible apply State.setCop_keeps)

theorem State.intakeCommand_keeps {z₀ s : State} (k : ℕ) (u : ℕ) (src : ℕ) (n : ℕ) (d : ℕ) (words : List Word) (hz : Keeps z₀ s) :
    Keeps z₀ (State.intakeCommand s k u src n d words).2 := by
  unfold State.intakeCommand
  repeat' (first
    | with_reducible assumption
    | with_reducible apply State.raise_keeps
    | with_reducible apply State.copEnter_keeps
    | split)

theorem State.setCore_keeps {z₀ s : State} (n : ℕ) (c : Core) (hz : Keeps z₀ s) :
    Keeps z₀ (State.setCore s n c) := by
  unfold State.setCore
  repeat' (first
    | with_reducible assumption
    | split
    | intro _ _ _
    | intro _ _
    | intro _
    | with_reducible refine Keeps.of2 (by with_reducible assumption) ?_
    | with_reducible refine Keeps.of1 (by with_reducible assumption) ?_
    | with_reducible refine Keeps.of3 (by with_reducible assumption) ?_
    | with_reducible refine Keeps.of4 (by with_reducible assumption) ?_
    | with_reducible apply Keeps.upto
    | with_reducible apply Keeps.foldl
    | with_reducible apply Keeps.foldl_snd_snd
    | with_reducible apply Keeps.foldl_snd
    | with_reducible apply Keeps.foldl_trd
    | with_reducible apply Keeps.foldl_fst_fst
    | with_reducible apply Keeps.foldl_fst
    | with_reducible apply Keeps.foldl_mid
    | dsimp only
    | (with_reducible apply Keeps.mk_other; with_reducible assumption)
    | (refine Keeps.mk_tables ?_ (by simp +contextual [State.tablesWf, swf_sput, swf_drop]); with_reducible assumption))

theorem State.freeTag_keeps {z₀ s : State} (n : ℕ) (u : ℕ) (depth : ℕ) (tag : ℕ) (remote : Option ℕ) (hz : Keeps z₀ s) :
    Keeps z₀ (State.freeTag s n u depth tag remote) := by
  unfold State.freeTag
  repeat' (first
    | with_reducible assumption
    | with_reducible apply State.setCore_keeps)

theorem State.deferCop_keeps {z₀ s : State} (n : ℕ) (u : ℕ) (depth : ℕ) (task : ℕ) (tag : ℕ) (detail : ℕ) (addr : ℕ) (hz : Keeps z₀ s) :
    Keeps z₀ (State.deferCop s n u depth task tag detail addr) := by
  unfold State.deferCop
  repeat' (first
    | with_reducible assumption
    | with_reducible apply State.setCore_keeps)

theorem State.notice_keeps {z₀ s : State} (k : ℕ) (u : ℕ) (n : ℕ) (depth : ℕ) (tag : ℕ) (target : ℕ) (detail : ℕ) (addr : ℕ) (hz : Keeps z₀ s) :
    Keeps z₀ (State.notice s k u n depth tag target detail addr) := by
  unfold State.notice
  repeat' (first
    | with_reducible assumption
    | with_reducible apply State.freeTag_keeps
    | with_reducible apply State.deferCop_keeps
    | split)

theorem State.intakeNotice_keeps {z₀ s : State} (k : ℕ) (src : ℕ) (u : ℕ) (n : ℕ) (d : ℕ) (tag : ℕ) (target : ℕ) (detail : ℕ) (addr : ℕ) (hz : Keeps z₀ s) :
    Keeps z₀ (State.intakeNotice s k src u n d tag target detail addr) := by
  unfold State.intakeNotice
  repeat' (first
    | with_reducible assumption
    | with_reducible apply State.raise_keeps
    | with_reducible apply State.notice_keeps
    | split)

theorem State.crMerge_keeps {z₀ s : State} (k : ℕ) (u : ℕ) (ctx : ℕ) (n : ℕ) (en : ℕ) (data : ℕ) (hz : Keeps z₀ s) :
    Keeps z₀ (State.crMerge s k u ctx n en data) := by
  unfold State.crMerge
  repeat' (first
    | with_reducible assumption
    | with_reducible apply State.setCop_keeps
    | with_reducible apply State.crReport_keeps
    | split
    | intro _ _ _
    | intro _ _
    | intro _
    | with_reducible refine Keeps.of2 (by with_reducible assumption) ?_
    | with_reducible refine Keeps.of1 (by with_reducible assumption) ?_
    | with_reducible refine Keeps.of3 (by with_reducible assumption) ?_
    | with_reducible refine Keeps.of4 (by with_reducible assumption) ?_
    | with_reducible apply Keeps.upto
    | with_reducible apply Keeps.foldl
    | with_reducible apply Keeps.foldl_snd_snd
    | with_reducible apply Keeps.foldl_snd
    | with_reducible apply Keeps.foldl_trd
    | with_reducible apply Keeps.foldl_fst_fst
    | with_reducible apply Keeps.foldl_fst
    | with_reducible apply Keeps.foldl_mid
    | dsimp only)

theorem State.bindWrite_keeps {z₀ s : State} (k : ℕ) (u : ℕ) (i : ℕ) (v : ℕ) (hz : Keeps z₀ s) :
    Keeps z₀ (State.bindWrite s k u i v) := by
  unfold State.bindWrite
  repeat' (first
    | with_reducible assumption
    | with_reducible apply State.setCop_keeps
    | with_reducible apply Keeps.setReg
    | split)

theorem State.setCR_keeps {z₀ s : State} (k : ℕ) (u : ℕ) (ctx : ℕ) (n : ℕ) (v : Line) (hz : Keeps z₀ s) :
    Keeps z₀ (State.setCR s k u ctx n v) := by
  unfold State.setCR
  repeat' (first
    | with_reducible assumption
    | with_reducible apply State.setCop_keeps)

theorem State.ctxErr_keeps {z₀ s : State} (k : ℕ) (u : ℕ) (ctx : ℕ) (detail : ℕ) (name : ℕ) (hz : Keeps z₀ s) :
    Keeps z₀ (State.ctxErr s k u ctx detail name) := by
  unfold State.ctxErr
  repeat' (first
    | with_reducible assumption
    | with_reducible apply State.raise_keeps
    | with_reducible apply State.wf_keeps)

theorem State.setCmd_keeps {z₀ s : State} (k : ℕ) (u : ℕ) (i : ℕ) (x : CopCmd) (hz : Keeps z₀ s) :
    Keeps z₀ (State.setCmd s k u i x) := by
  unfold State.setCmd
  repeat' (first
    | with_reducible assumption
    | with_reducible apply State.setCop_keeps)

theorem State.bindApply_keeps {z₀ s : State} (k : ℕ) (u : ℕ) (i : ℕ) (hz : Keeps z₀ s) :
    Keeps z₀ (State.bindApply s k u i) := by
  unfold State.bindApply
  repeat' (first
    | with_reducible assumption
    | with_reducible apply Keeps.setReg
    | with_reducible apply State.setCop_keeps
    | split
    | intro _ _ _
    | intro _ _
    | intro _
    | with_reducible refine Keeps.of2 (by with_reducible assumption) ?_
    | with_reducible refine Keeps.of1 (by with_reducible assumption) ?_
    | with_reducible refine Keeps.of3 (by with_reducible assumption) ?_
    | with_reducible refine Keeps.of4 (by with_reducible assumption) ?_
    | with_reducible apply Keeps.upto
    | with_reducible apply Keeps.foldl
    | with_reducible apply Keeps.foldl_snd_snd
    | with_reducible apply Keeps.foldl_snd
    | with_reducible apply Keeps.foldl_trd
    | with_reducible apply Keeps.foldl_fst_fst
    | with_reducible apply Keeps.foldl_fst
    | with_reducible apply Keeps.foldl_mid
    | dsimp only)

theorem State.tagTimeout_keeps {z₀ s : State} (n : ℕ) (u : ℕ) (depth : ℕ) (tag : ℕ) (hz : Keeps z₀ s) :
    Keeps z₀ (State.tagTimeout s n u depth tag) := by
  unfold State.tagTimeout
  repeat' (first
    | with_reducible assumption
    | with_reducible apply State.deferCop_keeps
    | with_reducible apply State.freeTag_keeps
    | split)

theorem State.slotIssue_keeps {z₀ s : State} (k : ℕ) (u : ℕ) (t : ℕ) (hz : Keeps z₀ s) :
    Keeps z₀ (State.slotIssue s k u t) := by
  unfold State.slotIssue
  repeat' (first
    | with_reducible assumption
    | with_reducible apply State.copEnter_keeps)

theorem State.triggerPulse_keeps {z₀ s : State} (k : ℕ) (u : ℕ) (t : ℕ) (c : ℕ) (hz : Keeps z₀ s) :
    Keeps z₀ (State.triggerPulse s k u t c) := by
  unfold State.triggerPulse
  repeat' (first
    | with_reducible assumption
    | with_reducible apply State.raise_keeps
    | with_reducible apply State.wf_keeps
    | with_reducible apply State.slotIssue_keeps
    | split
    | intro _ _ _
    | intro _ _
    | intro _
    | with_reducible refine Keeps.of2 (by with_reducible assumption) ?_
    | with_reducible refine Keeps.of1 (by with_reducible assumption) ?_
    | with_reducible refine Keeps.of3 (by with_reducible assumption) ?_
    | with_reducible refine Keeps.of4 (by with_reducible assumption) ?_
    | with_reducible apply Keeps.upto
    | with_reducible apply Keeps.foldl
    | with_reducible apply Keeps.foldl_snd_snd
    | with_reducible apply Keeps.foldl_snd
    | with_reducible apply Keeps.foldl_trd
    | with_reducible apply Keeps.foldl_fst_fst
    | with_reducible apply Keeps.foldl_fst
    | with_reducible apply Keeps.foldl_mid
    | dsimp only
    | (with_reducible apply Keeps.mk_other
       first
       | with_reducible assumption
       | with_reducible apply State.raise_keeps
       | with_reducible apply State.wf_keeps
       | with_reducible apply State.slotIssue_keeps
       | split
       | intro _ _ _
       | intro _ _
       | intro _
       | with_reducible refine Keeps.of2 (by with_reducible assumption) ?_
       | with_reducible refine Keeps.of1 (by with_reducible assumption) ?_
       | with_reducible refine Keeps.of3 (by with_reducible assumption) ?_
       | with_reducible refine Keeps.of4 (by with_reducible assumption) ?_
       | with_reducible apply Keeps.upto
       | with_reducible apply Keeps.foldl
       | with_reducible apply Keeps.foldl_snd_snd
       | with_reducible apply Keeps.foldl_snd
       | with_reducible apply Keeps.foldl_trd
       | with_reducible apply Keeps.foldl_fst_fst
       | with_reducible apply Keeps.foldl_fst
       | with_reducible apply Keeps.foldl_mid
       | dsimp only)
    | (refine Keeps.mk_tables ?_ (by simp +contextual [State.tablesWf, swf_sput, swf_drop, swf])
       first
       | with_reducible assumption
       | with_reducible apply State.raise_keeps
       | with_reducible apply State.wf_keeps
       | with_reducible apply State.slotIssue_keeps
       | split
       | intro _ _ _
       | intro _ _
       | intro _
       | with_reducible refine Keeps.of2 (by with_reducible assumption) ?_
       | with_reducible refine Keeps.of1 (by with_reducible assumption) ?_
       | with_reducible refine Keeps.of3 (by with_reducible assumption) ?_
       | with_reducible refine Keeps.of4 (by with_reducible assumption) ?_
       | with_reducible apply Keeps.upto
       | with_reducible apply Keeps.foldl
       | with_reducible apply Keeps.foldl_snd_snd
       | with_reducible apply Keeps.foldl_snd
       | with_reducible apply Keeps.foldl_trd
       | with_reducible apply Keeps.foldl_fst_fst
       | with_reducible apply Keeps.foldl_fst
       | with_reducible apply Keeps.foldl_mid
       | dsimp only))

theorem State.triggerEnter_keeps {z₀ s : State} (k : ℕ) (u : ℕ) (t : ℕ) (hz : Keeps z₀ s) :
    Keeps z₀ (State.triggerEnter s k u t) := by
  unfold State.triggerEnter
  repeat' (first
    | with_reducible assumption
    | with_reducible apply State.slotIssue_keeps
    | with_reducible apply State.wf_keeps
    | split
    | intro _ _ _
    | intro _ _
    | intro _
    | with_reducible refine Keeps.of2 (by with_reducible assumption) ?_
    | with_reducible refine Keeps.of1 (by with_reducible assumption) ?_
    | with_reducible refine Keeps.of3 (by with_reducible assumption) ?_
    | with_reducible refine Keeps.of4 (by with_reducible assumption) ?_
    | with_reducible apply Keeps.upto
    | with_reducible apply Keeps.foldl
    | with_reducible apply Keeps.foldl_snd_snd
    | with_reducible apply Keeps.foldl_snd
    | with_reducible apply Keeps.foldl_trd
    | with_reducible apply Keeps.foldl_fst_fst
    | with_reducible apply Keeps.foldl_fst
    | with_reducible apply Keeps.foldl_mid
    | dsimp only)

end Sys2Proof.Machine
end

