-- ==== Sys2Proof/Laws/KeepModeBase.lean ====
section
/-! SUPPORT. The functions of Machine/ModeBase.lean keep the queue, what has been sent, and the invariant. -/

namespace Sys2Proof.Machine

theorem State.setMode_keeps {z₀ s : State} (m : ℕ) (hz : Keeps z₀ s) :
    Keeps z₀ (State.setMode s m) := by
  unfold State.setMode
  repeat' (first
    | with_reducible assumption
    | with_reducible apply State.wf_keeps
    | with_reducible apply State.raise_keeps
    | split
    | intro _ _ _
    | intro _ _
    | intro _
    | with_reducible refine Keeps.of2 (by with_reducible assumption) ?_
    | with_reducible refine Keeps.of1 (by with_reducible assumption) ?_
    | with_reducible refine Keeps.of3 (by with_reducible assumption) ?_
    | with_reducible refine Keeps.of4 (by with_reducible assumption) ?_
    | with_reducible apply Keeps.upto
    | with_reducible apply Keeps.foldl
    | with_reducible apply Keeps.foldl_snd_snd
    | with_reducible apply Keeps.foldl_snd
    | with_reducible apply Keeps.foldl_trd
    | with_reducible apply Keeps.foldl_fst_fst
    | with_reducible apply Keeps.foldl_fst
    | with_reducible apply Keeps.foldl_mid
    | dsimp only)

theorem State.airSync_keeps {z₀ s : State} (hz : Keeps z₀ s) :
    Keeps z₀ (State.airSync s) := by
  unfold State.airSync
  repeat' (first
    | with_reducible assumption
    | with_reducible apply State.setMode_keeps
    | split)

end Sys2Proof.Machine
end

