-- ==== Sys2Proof/Laws/KeepSetBase.lean ====
section
/-! SUPPORT. The functions of Machine/SetBase.lean keep the queue, what has been sent, and the invariant. -/

namespace Sys2Proof.Machine

theorem State.putSetting_keeps {z₀ s : State} (id : ℕ) (v : ℕ) (hz : Keeps z₀ s) :
    Keeps z₀ (State.putSetting s id v) := by
  unfold State.putSetting
  repeat' (first
    | with_reducible assumption
    | split
    | intro _ _ _
    | intro _ _
    | intro _
    | with_reducible refine Keeps.of2 (by with_reducible assumption) ?_
    | with_reducible refine Keeps.of1 (by with_reducible assumption) ?_
    | with_reducible refine Keeps.of3 (by with_reducible assumption) ?_
    | with_reducible refine Keeps.of4 (by with_reducible assumption) ?_
    | with_reducible apply Keeps.upto
    | with_reducible apply Keeps.foldl
    | with_reducible apply Keeps.foldl_snd_snd
    | with_reducible apply Keeps.foldl_snd
    | with_reducible apply Keeps.foldl_trd
    | with_reducible apply Keeps.foldl_fst_fst
    | with_reducible apply Keeps.foldl_fst
    | with_reducible apply Keeps.foldl_mid
    | dsimp only
    | (with_reducible apply Keeps.mk_other; with_reducible assumption)
    | (refine Keeps.mk_tables ?_ (by simp +contextual [State.tablesWf, swf_sput, swf_drop]); with_reducible assumption))

end Sys2Proof.Machine
end

