-- ==== Sys2Proof/Laws/KeepAnalogBase.lean ====
section
/-! SUPPORT. The functions of Machine/AnalogBase.lean keep the queue, what has been sent, and the invariant. -/

namespace Sys2Proof.Machine

theorem State.aoSync_keeps {z₀ s : State} (c : ℕ) (hz : Keeps z₀ s) :
    Keeps z₀ (State.aoSync s c) := by
  unfold State.aoSync
  repeat' (first
    | with_reducible assumption
    | with_reducible apply State.schedSend_keeps
    | with_reducible apply State.wf_keeps
    | with_reducible apply State.wb_keeps
    | split
    | intro _ _ _
    | intro _ _
    | intro _
    | with_reducible refine Keeps.of2 (by with_reducible assumption) ?_
    | with_reducible refine Keeps.of1 (by with_reducible assumption) ?_
    | with_reducible refine Keeps.of3 (by with_reducible assumption) ?_
    | with_reducible refine Keeps.of4 (by with_reducible assumption) ?_
    | with_reducible apply Keeps.upto
    | with_reducible apply Keeps.foldl
    | with_reducible apply Keeps.foldl_snd_snd
    | with_reducible apply Keeps.foldl_snd
    | with_reducible apply Keeps.foldl_trd
    | with_reducible apply Keeps.foldl_fst_fst
    | with_reducible apply Keeps.foldl_fst
    | with_reducible apply Keeps.foldl_mid
    | dsimp only
    | (with_reducible apply Keeps.mk_other
       first
       | with_reducible assumption
       | with_reducible apply State.schedSend_keeps
       | with_reducible apply State.wf_keeps
       | with_reducible apply State.wb_keeps
       | split
       | intro _ _ _
       | intro _ _
       | intro _
       | with_reducible refine Keeps.of2 (by with_reducible assumption) ?_
       | with_reducible refine Keeps.of1 (by with_reducible assumption) ?_
       | with_reducible refine Keeps.of3 (by with_reducible assumption) ?_
       | with_reducible refine Keeps.of4 (by with_reducible assumption) ?_
       | with_reducible apply Keeps.upto
       | with_reducible apply Keeps.foldl
       | with_reducible apply Keeps.foldl_snd_snd
       | with_reducible apply Keeps.foldl_snd
       | with_reducible apply Keeps.foldl_trd
       | with_reducible apply Keeps.foldl_fst_fst
       | with_reducible apply Keeps.foldl_fst
       | with_reducible apply Keeps.foldl_mid
       | dsimp only)
    | (refine Keeps.mk_tables ?_ (by simp +contextual [State.tablesWf, swf_sput, swf_drop, swf])
       first
       | with_reducible assumption
       | with_reducible apply State.schedSend_keeps
       | with_reducible apply State.wf_keeps
       | with_reducible apply State.wb_keeps
       | split
       | intro _ _ _
       | intro _ _
       | intro _
       | with_reducible refine Keeps.of2 (by with_reducible assumption) ?_
       | with_reducible refine Keeps.of1 (by with_reducible assumption) ?_
       | with_reducible refine Keeps.of3 (by with_reducible assumption) ?_
       | with_reducible refine Keeps.of4 (by with_reducible assumption) ?_
       | with_reducible apply Keeps.upto
       | with_reducible apply Keeps.foldl
       | with_reducible apply Keeps.foldl_snd_snd
       | with_reducible apply Keeps.foldl_snd
       | with_reducible apply Keeps.foldl_trd
       | with_reducible apply Keeps.foldl_fst_fst
       | with_reducible apply Keeps.foldl_fst
       | with_reducible apply Keeps.foldl_mid
       | dsimp only))

theorem State.setChan_keeps {z₀ s : State} (c : ℕ) (v : Chan) (hz : Keeps z₀ s) :
    Keeps z₀ (State.setChan s c v) := by
  unfold State.setChan
  repeat' (first
    | with_reducible assumption
    | split
    | intro _ _ _
    | intro _ _
    | intro _
    | with_reducible refine Keeps.of2 (by with_reducible assumption) ?_
    | with_reducible refine Keeps.of1 (by with_reducible assumption) ?_
    | with_reducible refine Keeps.of3 (by with_reducible assumption) ?_
    | with_reducible refine Keeps.of4 (by with_reducible assumption) ?_
    | with_reducible apply Keeps.upto
    | with_reducible apply Keeps.foldl
    | with_reducible apply Keeps.foldl_snd_snd
    | with_reducible apply Keeps.foldl_snd
    | with_reducible apply Keeps.foldl_trd
    | with_reducible apply Keeps.foldl_fst_fst
    | with_reducible apply Keeps.foldl_fst
    | with_reducible apply Keeps.foldl_mid
    | dsimp only
    | (with_reducible apply Keeps.mk_other; with_reducible assumption)
    | (refine Keeps.mk_tables ?_ (by simp +contextual [State.tablesWf, swf_sput, swf_drop]); with_reducible assumption))

theorem State.aoSlew_keeps {z₀ s : State} (c : ℕ) (target : ℕ) (step : ℕ) (period : ℕ) (safe : Bool) (hz : Keeps z₀ s) :
    Keeps z₀ (State.aoSlew s c target step period safe) := by
  unfold State.aoSlew
  repeat' (first
    | with_reducible assumption
    | with_reducible apply State.aoSync_keeps
    | with_reducible apply State.setChan_keeps)

theorem State.tuneMove_keeps {z₀ s : State} (c : ℕ) (hz : Keeps z₀ s) :
    Keeps z₀ (State.tuneMove s c) := by
  unfold State.tuneMove
  repeat' (first
    | with_reducible assumption
    | with_reducible apply State.aoSlew_keeps
    | split)

theorem State.aoFaultClear_keeps {z₀ s : State} (c : ℕ) (holds : Bool) (hz : Keeps z₀ s) :
    Keeps z₀ (State.aoFaultClear s c holds) := by
  unfold State.aoFaultClear
  repeat' (first
    | with_reducible assumption
    | with_reducible apply State.tuneMove_keeps
    | with_reducible apply State.wf_keeps
    | with_reducible apply State.wb_keeps
    | split)

theorem State.stepOverflow_keeps {z₀ s : State} (c : ℕ) (lt : ℕ) (code : ℕ) (why : ℕ) (hz : Keeps z₀ s) :
    Keeps z₀ (State.stepOverflow s c lt code why) := by
  unfold State.stepOverflow
  repeat' (first
    | with_reducible assumption
    | with_reducible apply State.raise_keeps)

theorem State.queueEntry_keeps {z₀ s : State} (c : ℕ) (st : AStep) (hz : Keeps z₀ s) :
    Keeps z₀ (State.queueEntry s c st) := by
  unfold State.queueEntry
  repeat' (first
    | with_reducible assumption
    | with_reducible apply State.stepOverflow_keeps
    | with_reducible apply State.aoSync_keeps
    | with_reducible apply State.setChan_keeps
    | split
    | intro _ _ _
    | intro _ _
    | intro _
    | with_reducible refine Keeps.of2 (by with_reducible assumption) ?_
    | with_reducible refine Keeps.of1 (by with_reducible assumption) ?_
    | with_reducible refine Keeps.of3 (by with_reducible assumption) ?_
    | with_reducible refine Keeps.of4 (by with_reducible assumption) ?_
    | with_reducible apply Keeps.upto
    | with_reducible apply Keeps.foldl
    | with_reducible apply Keeps.foldl_snd_snd
    | with_reducible apply Keeps.foldl_snd
    | with_reducible apply Keeps.foldl_trd
    | with_reducible apply Keeps.foldl_fst_fst
    | with_reducible apply Keeps.foldl_fst
    | with_reducible apply Keeps.foldl_mid
    | dsimp only
    | (with_reducible apply Keeps.mk_other
       first
       | with_reducible assumption
       | with_reducible apply State.stepOverflow_keeps
       | with_reducible apply State.aoSync_keeps
       | with_reducible apply State.setChan_keeps
       | split
       | intro _ _ _
       | intro _ _
       | intro _
       | with_reducible refine Keeps.of2 (by with_reducible assumption) ?_
       | with_reducible refine Keeps.of1 (by with_reducible assumption) ?_
       | with_reducible refine Keeps.of3 (by with_reducible assumption) ?_
       | with_reducible refine Keeps.of4 (by with_reducible assumption) ?_
       | with_reducible apply Keeps.upto
       | with_reducible apply Keeps.foldl
       | with_reducible apply Keeps.foldl_snd_snd
       | with_reducible apply Keeps.foldl_snd
       | with_reducible apply Keeps.foldl_trd
       | with_reducible apply Keeps.foldl_fst_fst
       | with_reducible apply Keeps.foldl_fst
       | with_reducible apply Keeps.foldl_mid
       | dsimp only)
    | (refine Keeps.mk_tables ?_ (by simp +contextual [State.tablesWf, swf_sput, swf_drop, swf])
       first
       | with_reducible assumption
       | with_reducible apply State.stepOverflow_keeps
       | with_reducible apply State.aoSync_keeps
       | with_reducible apply State.setChan_keeps
       | split
       | intro _ _ _
       | intro _ _
       | intro _
       | with_reducible refine Keeps.of2 (by with_reducible assumption) ?_
       | with_reducible refine Keeps.of1 (by with_reducible assumption) ?_
       | with_reducible refine Keeps.of3 (by with_reducible assumption) ?_
       | with_reducible refine Keeps.of4 (by with_reducible assumption) ?_
       | with_reducible apply Keeps.upto
       | with_reducible apply Keeps.foldl
       | with_reducible apply Keeps.foldl_snd_snd
       | with_reducible apply Keeps.foldl_snd
       | with_reducible apply Keeps.foldl_trd
       | with_reducible apply Keeps.foldl_fst_fst
       | with_reducible apply Keeps.foldl_fst
       | with_reducible apply Keeps.foldl_mid
       | dsimp only))

theorem State.queueStep_keeps {z₀ s : State} (c : ℕ) (code : ℕ) (lt : ℕ) (final : Bool) (hz : Keeps z₀ s) :
    Keeps z₀ (State.queueStep s c code lt final) := by
  unfold State.queueStep
  repeat' (first
    | with_reducible assumption
    | with_reducible apply State.queueEntry_keeps)

theorem State.aoStepWrite_keeps {z₀ s : State} (src : ℕ) (ok : Bool) (v : ℕ) (hz : Keeps z₀ s) :
    Keeps z₀ (State.aoStepWrite s src ok v) := by
  unfold State.aoStepWrite
  repeat' (first
    | with_reducible assumption
    | with_reducible apply State.queueStep_keeps
    | with_reducible apply State.stepOverflow_keeps
    | split)

theorem State.dropRamps_keeps {z₀ s : State} (hz : Keeps z₀ s) :
    Keeps z₀ (State.dropRamps s) := by
  unfold State.dropRamps
  repeat' (first
    | with_reducible assumption
    | with_reducible apply State.aoSync_keeps
    | with_reducible apply State.setChan_keeps
    | split
    | intro _ _ _
    | intro _ _
    | intro _
    | with_reducible refine Keeps.of2 (by with_reducible assumption) ?_
    | with_reducible refine Keeps.of1 (by with_reducible assumption) ?_
    | with_reducible refine Keeps.of3 (by with_reducible assumption) ?_
    | with_reducible refine Keeps.of4 (by with_reducible assumption) ?_
    | with_reducible apply Keeps.upto)

theorem State.enterMode_keeps {z₀ s : State} (m : ℕ) (hz : Keeps z₀ s) :
    Keeps z₀ (State.enterMode s m) := by
  unfold State.enterMode
  repeat' (first
    | with_reducible assumption
    | with_reducible apply State.setMode_keeps
    | with_reducible apply State.dropRamps_keeps
    | split)

theorem State.safeMove_keeps {z₀ s : State} (c : ℕ) (hz : Keeps z₀ s) :
    Keeps z₀ (State.safeMove s c) := by
  unfold State.safeMove
  repeat' (first
    | with_reducible assumption
    | with_reducible apply State.aoSync_keeps
    | with_reducible apply State.setChan_keeps
    | with_reducible apply State.aoSlew_keeps
    | split)

theorem State.safeMoveAll_keeps {z₀ s : State} (hz : Keeps z₀ s) :
    Keeps z₀ (State.safeMoveAll s) := by
  unfold State.safeMoveAll
  repeat' (first
    | with_reducible assumption
    | with_reducible apply State.safeMove_keeps
    | split
    | intro _ _ _
    | intro _ _
    | intro _
    | with_reducible refine Keeps.of2 (by with_reducible assumption) ?_
    | with_reducible refine Keeps.of1 (by with_reducible assumption) ?_
    | with_reducible refine Keeps.of3 (by with_reducible assumption) ?_
    | with_reducible refine Keeps.of4 (by with_reducible assumption) ?_
    | with_reducible apply Keeps.upto)

theorem State.aoFaultOne_keeps {z₀ s : State} (c : ℕ) (cause : ℕ) (hz : Keeps z₀ s) :
    Keeps z₀ (State.aoFaultOne s c cause) := by
  unfold State.aoFaultOne
  repeat' (first
    | with_reducible assumption
    | with_reducible apply State.wf_keeps
    | with_reducible apply State.incSat_keeps
    | with_reducible apply State.wb_keeps
    | with_reducible apply State.safeMove_keeps
    | with_reducible apply State.raise_keeps)

theorem State.aoFaulted_keeps {z₀ s : State} (c : ℕ) (cause : ℕ) (hz : Keeps z₀ s) :
    Keeps z₀ (State.aoFaulted s c cause) := by
  unfold State.aoFaulted
  repeat' (first
    | with_reducible assumption
    | with_reducible apply State.aoFaultOne_keeps
    | split
    | intro _ _ _
    | intro _ _
    | intro _
    | with_reducible refine Keeps.of2 (by with_reducible assumption) ?_
    | with_reducible refine Keeps.of1 (by with_reducible assumption) ?_
    | with_reducible refine Keeps.of3 (by with_reducible assumption) ?_
    | with_reducible refine Keeps.of4 (by with_reducible assumption) ?_
    | with_reducible apply Keeps.upto)

theorem State.setMon_keeps {z₀ s : State} (m : ℕ) (v : Mon) (hz : Keeps z₀ s) :
    Keeps z₀ (State.setMon s m v) := by
  unfold State.setMon
  repeat' (first
    | with_reducible assumption
    | split
    | intro _ _ _
    | intro _ _
    | intro _
    | with_reducible refine Keeps.of2 (by with_reducible assumption) ?_
    | with_reducible refine Keeps.of1 (by with_reducible assumption) ?_
    | with_reducible refine Keeps.of3 (by with_reducible assumption) ?_
    | with_reducible refine Keeps.of4 (by with_reducible assumption) ?_
    | with_reducible apply Keeps.upto
    | with_reducible apply Keeps.foldl
    | with_reducible apply Keeps.foldl_snd_snd
    | with_reducible apply Keeps.foldl_snd
    | with_reducible apply Keeps.foldl_trd
    | with_reducible apply Keeps.foldl_fst_fst
    | with_reducible apply Keeps.foldl_fst
    | with_reducible apply Keeps.foldl_mid
    | dsimp only
    | (with_reducible apply Keeps.mk_other; with_reducible assumption)
    | (refine Keeps.mk_tables ?_ (by simp +contextual [State.tablesWf, swf_sput, swf_drop]); with_reducible assumption))

theorem State.monEvent_keeps {z₀ s : State} (m : ℕ) (i : ℕ) (lim : ℤ) (v : ℤ) (pass : Bool) (hz : Keeps z₀ s) :
    Keeps z₀ (State.monEvent s m i lim v pass) := by
  unfold State.monEvent
  repeat' (first
    | with_reducible assumption
    | with_reducible apply State.raise_keeps
    | with_reducible apply State.wb_keeps
    | split)

theorem State.monSync_keeps {z₀ s : State} (m : ℕ) (hz : Keeps z₀ s) :
    Keeps z₀ (State.monSync s m) := by
  unfold State.monSync
  repeat' (first
    | with_reducible assumption
    | with_reducible apply State.wb_keeps)

theorem State.monSample_keeps {z₀ s : State} (m : ℕ) (v : ℤ) (hz : Keeps z₀ s) :
    Keeps z₀ (State.monSample s m v).2 := by
  unfold State.monSample
  repeat' (first
    | with_reducible assumption
    | with_reducible apply State.wf_keeps
    | with_reducible apply State.setMon_keeps
    | with_reducible apply State.monEvent_keeps
    | with_reducible apply State.monSync_keeps
    | split
    | intro _ _ _
    | intro _ _
    | intro _
    | with_reducible refine Keeps.of2 (by with_reducible assumption) ?_
    | with_reducible refine Keeps.of1 (by with_reducible assumption) ?_
    | with_reducible refine Keeps.of3 (by with_reducible assumption) ?_
    | with_reducible refine Keeps.of4 (by with_reducible assumption) ?_
    | with_reducible apply Keeps.upto
    | with_reducible apply Keeps.foldl
    | with_reducible apply Keeps.foldl_snd_snd
    | with_reducible apply Keeps.foldl_snd
    | with_reducible apply Keeps.foldl_trd
    | with_reducible apply Keeps.foldl_fst_fst
    | with_reducible apply Keeps.foldl_fst
    | with_reducible apply Keeps.foldl_mid
    | dsimp only)

theorem State.aoLand_keeps {z₀ s : State} (c : ℕ) (code : ℕ) (hz : Keeps z₀ s) :
    Keeps z₀ (State.aoLand s c code) := by
  unfold State.aoLand
  repeat' (first
    | with_reducible assumption
    | with_reducible apply State.setChan_keeps
    | with_reducible apply Keeps.emit
    | split
    | intro _ _ _
    | intro _ _
    | intro _
    | with_reducible refine Keeps.of2 (by with_reducible assumption) ?_
    | with_reducible refine Keeps.of1 (by with_reducible assumption) ?_
    | with_reducible refine Keeps.of3 (by with_reducible assumption) ?_
    | with_reducible refine Keeps.of4 (by with_reducible assumption) ?_
    | with_reducible apply Keeps.upto
    | with_reducible apply Keeps.foldl
    | with_reducible apply Keeps.foldl_snd_snd
    | with_reducible apply Keeps.foldl_snd
    | with_reducible apply Keeps.foldl_trd
    | with_reducible apply Keeps.foldl_fst_fst
    | with_reducible apply Keeps.foldl_fst
    | with_reducible apply Keeps.foldl_mid
    | dsimp only)

theorem State.aoLatch_keeps {z₀ s : State} (c : ℕ) (code : ℕ) (direct : Bool) (hz : Keeps z₀ s) :
    Keeps z₀ (State.aoLatch s c code direct) := by
  unfold State.aoLatch
  repeat' (first
    | with_reducible assumption
    | with_reducible apply State.setChan_keeps
    | with_reducible apply State.wf_keeps
    | with_reducible apply State.aoLand_keeps
    | with_reducible apply State.aoSync_keeps
    | split)

theorem State.deglitch_keeps {z₀ s : State} (c : ℕ) (hz : Keeps z₀ s) :
    Keeps z₀ (State.deglitch s c) := by
  unfold State.deglitch
  repeat' (first
    | with_reducible assumption
    | with_reducible apply State.aoLand_keeps
    | split)

theorem State.aoDirect_keeps {z₀ s : State} (c : ℕ) (code : ℕ) (hz : Keeps z₀ s) :
    Keeps z₀ (State.aoDirect s c code) := by
  unfold State.aoDirect
  repeat' (first
    | with_reducible assumption
    | with_reducible apply State.setChan_keeps
    | with_reducible apply State.aoSync_keeps
    | with_reducible apply State.incSat_keeps
    | with_reducible apply State.aoLatch_keeps
    | split
    | intro _ _ _
    | intro _ _
    | intro _
    | with_reducible refine Keeps.of2 (by with_reducible assumption) ?_
    | with_reducible refine Keeps.of1 (by with_reducible assumption) ?_
    | with_reducible refine Keeps.of3 (by with_reducible assumption) ?_
    | with_reducible refine Keeps.of4 (by with_reducible assumption) ?_
    | with_reducible apply Keeps.upto
    | with_reducible apply Keeps.foldl
    | with_reducible apply Keeps.foldl_snd_snd
    | with_reducible apply Keeps.foldl_snd
    | with_reducible apply Keeps.foldl_trd
    | with_reducible apply Keeps.foldl_fst_fst
    | with_reducible apply Keeps.foldl_fst
    | with_reducible apply Keeps.foldl_mid
    | dsimp only)

theorem State.aoDeferredLatch_keeps {z₀ s : State} (c : ℕ) (hz : Keeps z₀ s) :
    Keeps z₀ (State.aoDeferredLatch s c) := by
  unfold State.aoDeferredLatch
  repeat' (first
    | with_reducible assumption
    | with_reducible apply State.aoLatch_keeps
    | with_reducible apply State.setChan_keeps
    | split)

theorem State.ownSync_keeps {z₀ s : State} (hz : Keeps z₀ s) :
    Keeps z₀ (State.ownSync s) := by
  unfold State.ownSync
  repeat' (first
    | with_reducible assumption
    | with_reducible apply State.wb_keeps)

theorem State.safeEnd_keeps {z₀ s : State} (c : ℕ) (hz : Keeps z₀ s) :
    Keeps z₀ (State.safeEnd s c) := by
  unfold State.safeEnd
  repeat' (first
    | with_reducible assumption
    | with_reducible apply State.tuneMove_keeps
    | with_reducible apply State.setChan_keeps
    | split)

theorem State.aoSlewLatch_keeps {z₀ s : State} (c : ℕ) (hz : Keeps z₀ s) :
    Keeps z₀ (State.aoSlewLatch s c) := by
  unfold State.aoSlewLatch
  repeat' (first
    | with_reducible assumption
    | with_reducible apply State.setChan_keeps
    | with_reducible apply State.aoLatch_keeps
    | with_reducible apply State.safeEnd_keeps
    | split
    | intro _ _ _
    | intro _ _
    | intro _
    | with_reducible refine Keeps.of2 (by with_reducible assumption) ?_
    | with_reducible refine Keeps.of1 (by with_reducible assumption) ?_
    | with_reducible refine Keeps.of3 (by with_reducible assumption) ?_
    | with_reducible refine Keeps.of4 (by with_reducible assumption) ?_
    | with_reducible apply Keeps.upto
    | with_reducible apply Keeps.foldl
    | with_reducible apply Keeps.foldl_snd_snd
    | with_reducible apply Keeps.foldl_snd
    | with_reducible apply Keeps.foldl_trd
    | with_reducible apply Keeps.foldl_fst_fst
    | with_reducible apply Keeps.foldl_fst
    | with_reducible apply Keeps.foldl_mid
    | dsimp only)

theorem State.aoLoad_keeps {z₀ s : State} (c : ℕ) (boot : Bool) (hz : Keeps z₀ s) :
    Keeps z₀ (State.aoLoad s c boot) := by
  unfold State.aoLoad
  repeat' (first
    | with_reducible assumption
    | with_reducible apply State.wb_keeps
    | with_reducible apply Keeps.setReg
    | with_reducible apply State.wf_keeps
    | with_reducible apply State.aoSlew_keeps
    | split
    | intro _ _ _
    | intro _ _
    | intro _
    | with_reducible refine Keeps.of2 (by with_reducible assumption) ?_
    | with_reducible refine Keeps.of1 (by with_reducible assumption) ?_
    | with_reducible refine Keeps.of3 (by with_reducible assumption) ?_
    | with_reducible refine Keeps.of4 (by with_reducible assumption) ?_
    | with_reducible apply Keeps.upto
    | with_reducible apply Keeps.foldl
    | with_reducible apply Keeps.foldl_snd_snd
    | with_reducible apply Keeps.foldl_snd
    | with_reducible apply Keeps.foldl_trd
    | with_reducible apply Keeps.foldl_fst_fst
    | with_reducible apply Keeps.foldl_fst
    | with_reducible apply Keeps.foldl_mid
    | dsimp only)

theorem State.safeCodeLoad_keeps {z₀ s : State} (hz : Keeps z₀ s) :
    Keeps z₀ (State.safeCodeLoad s) := by
  unfold State.safeCodeLoad
  repeat' (first
    | with_reducible assumption
    | with_reducible apply State.ownSync_keeps
    | with_reducible apply State.aoLoad_keeps
    | with_reducible apply State.aoLatch_keeps
    | with_reducible apply State.setChan_keeps
    | with_reducible apply State.aoSlew_keeps
    | with_reducible apply State.safeEnd_keeps
    | split
    | intro _ _ _
    | intro _ _
    | intro _
    | with_reducible refine Keeps.of2 (by with_reducible assumption) ?_
    | with_reducible refine Keeps.of1 (by with_reducible assumption) ?_
    | with_reducible refine Keeps.of3 (by with_reducible assumption) ?_
    | with_reducible refine Keeps.of4 (by with_reducible assumption) ?_
    | with_reducible apply Keeps.upto)

theorem State.presentStep_keeps {z₀ s : State} (c : ℕ) (lt : ℕ) (hz : Keeps z₀ s) :
    Keeps z₀ (State.presentStep s c lt) := by
  unfold State.presentStep
  repeat' (first
    | with_reducible assumption
    | with_reducible apply State.setChan_keeps
    | split
    | intro _ _ _
    | intro _ _
    | intro _
    | with_reducible refine Keeps.of2 (by with_reducible assumption) ?_
    | with_reducible refine Keeps.of1 (by with_reducible assumption) ?_
    | with_reducible refine Keeps.of3 (by with_reducible assumption) ?_
    | with_reducible refine Keeps.of4 (by with_reducible assumption) ?_
    | with_reducible apply Keeps.upto
    | with_reducible apply Keeps.foldl
    | with_reducible apply Keeps.foldl_snd_snd
    | with_reducible apply Keeps.foldl_snd
    | with_reducible apply Keeps.foldl_trd
    | with_reducible apply Keeps.foldl_fst_fst
    | with_reducible apply Keeps.foldl_fst
    | with_reducible apply Keeps.foldl_mid
    | dsimp only
    | (with_reducible apply Keeps.mk_other
       first
       | with_reducible assumption
       | with_reducible apply State.setChan_keeps
       | split
       | intro _ _ _
       | intro _ _
       | intro _
       | with_reducible refine Keeps.of2 (by with_reducible assumption) ?_
       | with_reducible refine Keeps.of1 (by with_reducible assumption) ?_
       | with_reducible refine Keeps.of3 (by with_reducible assumption) ?_
       | with_reducible refine Keeps.of4 (by with_reducible assumption) ?_
       | with_reducible apply Keeps.upto
       | with_reducible apply Keeps.foldl
       | with_reducible apply Keeps.foldl_snd_snd
       | with_reducible apply Keeps.foldl_snd
       | with_reducible apply Keeps.foldl_trd
       | with_reducible apply Keeps.foldl_fst_fst
       | with_reducible apply Keeps.foldl_fst
       | with_reducible apply Keeps.foldl_mid
       | dsimp only)
    | (refine Keeps.mk_tables ?_ (by simp +contextual [State.tablesWf, swf_sput, swf_drop, swf])
       first
       | with_reducible assumption
       | with_reducible apply State.setChan_keeps
       | split
       | intro _ _ _
       | intro _ _
       | intro _
       | with_reducible refine Keeps.of2 (by with_reducible assumption) ?_
       | with_reducible refine Keeps.of1 (by with_reducible assumption) ?_
       | with_reducible refine Keeps.of3 (by with_reducible assumption) ?_
       | with_reducible refine Keeps.of4 (by with_reducible assumption) ?_
       | with_reducible apply Keeps.upto
       | with_reducible apply Keeps.foldl
       | with_reducible apply Keeps.foldl_snd_snd
       | with_reducible apply Keeps.foldl_snd
       | with_reducible apply Keeps.foldl_trd
       | with_reducible apply Keeps.foldl_fst_fst
       | with_reducible apply Keeps.foldl_fst
       | with_reducible apply Keeps.foldl_mid
       | dsimp only))

theorem State.stepLate_keeps {z₀ s : State} (c : ℕ) (st : AStep) (late : ℕ) (hz : Keeps z₀ s) :
    Keeps z₀ (State.stepLate s c st late) := by
  unfold State.stepLate
  repeat' (first
    | with_reducible assumption
    | with_reducible apply State.raise_keeps)

theorem State.stepDue_keeps {z₀ s : State} (c : ℕ) (hz : Keeps z₀ s) :
    Keeps z₀ (State.stepDue s c) := by
  unfold State.stepDue
  repeat' (first
    | with_reducible assumption
    | with_reducible apply State.aoSync_keeps
    | with_reducible apply State.setChan_keeps
    | with_reducible apply State.stepOverflow_keeps
    | with_reducible apply State.stepLate_keeps
    | with_reducible apply State.aoSlew_keeps
    | with_reducible apply State.aoDirect_keeps
    | split
    | intro _ _ _
    | intro _ _
    | intro _
    | with_reducible refine Keeps.of2 (by with_reducible assumption) ?_
    | with_reducible refine Keeps.of1 (by with_reducible assumption) ?_
    | with_reducible refine Keeps.of3 (by with_reducible assumption) ?_
    | with_reducible refine Keeps.of4 (by with_reducible assumption) ?_
    | with_reducible apply Keeps.upto
    | with_reducible apply Keeps.foldl
    | with_reducible apply Keeps.foldl_snd_snd
    | with_reducible apply Keeps.foldl_snd
    | with_reducible apply Keeps.foldl_trd
    | with_reducible apply Keeps.foldl_fst_fst
    | with_reducible apply Keeps.foldl_fst
    | with_reducible apply Keeps.foldl_mid
    | dsimp only
    | (with_reducible apply Keeps.mk_other
       first
       | with_reducible assumption
       | with_reducible apply State.aoSync_keeps
       | with_reducible apply State.setChan_keeps
       | with_reducible apply State.stepOverflow_keeps
       | with_reducible apply State.stepLate_keeps
       | with_reducible apply State.aoSlew_keeps
       | with_reducible apply State.aoDirect_keeps
       | split
       | intro _ _ _
       | intro _ _
       | intro _
       | with_reducible refine Keeps.of2 (by with_reducible assumption) ?_
       | with_reducible refine Keeps.of1 (by with_reducible assumption) ?_
       | with_reducible refine Keeps.of3 (by with_reducible assumption) ?_
       | with_reducible refine Keeps.of4 (by with_reducible assumption) ?_
       | with_reducible apply Keeps.upto
       | with_reducible apply Keeps.foldl
       | with_reducible apply Keeps.foldl_snd_snd
       | with_reducible apply Keeps.foldl_snd
       | with_reducible apply Keeps.foldl_trd
       | with_reducible apply Keeps.foldl_fst_fst
       | with_reducible apply Keeps.foldl_fst
       | with_reducible apply Keeps.foldl_mid
       | dsimp only)
    | (refine Keeps.mk_tables ?_ (by simp +contextual [State.tablesWf, swf_sput, swf_drop, swf])
       first
       | with_reducible assumption
       | with_reducible apply State.aoSync_keeps
       | with_reducible apply State.setChan_keeps
       | with_reducible apply State.stepOverflow_keeps
       | with_reducible apply State.stepLate_keeps
       | with_reducible apply State.aoSlew_keeps
       | with_reducible apply State.aoDirect_keeps
       | split
       | intro _ _ _
       | intro _ _
       | intro _
       | with_reducible refine Keeps.of2 (by with_reducible assumption) ?_
       | with_reducible refine Keeps.of1 (by with_reducible assumption) ?_
       | with_reducible refine Keeps.of3 (by with_reducible assumption) ?_
       | with_reducible refine Keeps.of4 (by with_reducible assumption) ?_
       | with_reducible apply Keeps.upto
       | with_reducible apply Keeps.foldl
       | with_reducible apply Keeps.foldl_snd_snd
       | with_reducible apply Keeps.foldl_snd
       | with_reducible apply Keeps.foldl_trd
       | with_reducible apply Keeps.foldl_fst_fst
       | with_reducible apply Keeps.foldl_fst
       | with_reducible apply Keeps.foldl_mid
       | dsimp only))

theorem State.dropSteps_keeps {z₀ s : State} (c : ℕ) (hz : Keeps z₀ s) :
    Keeps z₀ (State.dropSteps s c) := by
  unfold State.dropSteps
  repeat' (first
    | with_reducible assumption
    | with_reducible apply State.aoSync_keeps
    | with_reducible apply State.setChan_keeps
    | with_reducible apply State.draw_keeps
    | with_reducible apply State.stepLate_keeps
    | split
    | intro _ _ _
    | intro _ _
    | intro _
    | with_reducible refine Keeps.of2 (by with_reducible assumption) ?_
    | with_reducible refine Keeps.of1 (by with_reducible assumption) ?_
    | with_reducible refine Keeps.of3 (by with_reducible assumption) ?_
    | with_reducible refine Keeps.of4 (by with_reducible assumption) ?_
    | with_reducible apply Keeps.upto
    | with_reducible apply Keeps.foldl)

theorem State.monLoad_keeps {z₀ s : State} (m : ℕ) (hz : Keeps z₀ s) :
    Keeps z₀ (State.monLoad s m) := by
  unfold State.monLoad
  repeat' (first
    | with_reducible assumption
    | with_reducible apply State.setMon_keeps
    | with_reducible apply State.monEvent_keeps
    | with_reducible apply State.monSync_keeps
    | split
    | intro _ _ _
    | intro _ _
    | intro _
    | with_reducible refine Keeps.of2 (by with_reducible assumption) ?_
    | with_reducible refine Keeps.of1 (by with_reducible assumption) ?_
    | with_reducible refine Keeps.of3 (by with_reducible assumption) ?_
    | with_reducible refine Keeps.of4 (by with_reducible assumption) ?_
    | with_reducible apply Keeps.upto
    | with_reducible apply Keeps.foldl)

end Sys2Proof.Machine
end

