-- ==== Sys2Proof/Laws/KeepPorterBase.lean ====
section
/-! SUPPORT. The functions of Machine/PorterBase.lean keep the queue, what has been sent, and the invariant. -/

namespace Sys2Proof.Machine

theorem State.setPchan_keeps {z₀ s : State} (b : ℕ) (ch : ℕ) (c : PChan) (hz : Keeps z₀ s) :
    Keeps z₀ (State.setPchan s b ch c) := by
  unfold State.setPchan
  repeat' (first
    | with_reducible assumption
    | split
    | intro _ _ _
    | intro _ _
    | intro _
    | with_reducible refine Keeps.of2 (by with_reducible assumption) ?_
    | with_reducible refine Keeps.of1 (by with_reducible assumption) ?_
    | with_reducible refine Keeps.of3 (by with_reducible assumption) ?_
    | with_reducible refine Keeps.of4 (by with_reducible assumption) ?_
    | with_reducible apply Keeps.upto
    | with_reducible apply Keeps.foldl
    | with_reducible apply Keeps.foldl_snd_snd
    | with_reducible apply Keeps.foldl_snd
    | with_reducible apply Keeps.foldl_trd
    | with_reducible apply Keeps.foldl_fst_fst
    | with_reducible apply Keeps.foldl_fst
    | with_reducible apply Keeps.foldl_mid
    | dsimp only
    | (with_reducible apply Keeps.mk_other; with_reducible assumption)
    | (refine Keeps.mk_tables ?_ (by simp +contextual [State.tablesWf, swf_sput, swf_drop]); with_reducible assumption))

theorem State.applyHeld_keeps {z₀ s : State} (b : ℕ) (ch : ℕ) (hz : Keeps z₀ s) :
    Keeps z₀ (State.applyHeld s b ch) := by
  unfold State.applyHeld
  repeat' (first
    | with_reducible assumption
    | with_reducible apply State.wf_keeps
    | split
    | intro _ _ _
    | intro _ _
    | intro _
    | with_reducible refine Keeps.of2 (by with_reducible assumption) ?_
    | with_reducible refine Keeps.of1 (by with_reducible assumption) ?_
    | with_reducible refine Keeps.of3 (by with_reducible assumption) ?_
    | with_reducible refine Keeps.of4 (by with_reducible assumption) ?_
    | with_reducible apply Keeps.upto
    | with_reducible apply Keeps.foldl
    | with_reducible apply Keeps.foldl_snd_snd
    | with_reducible apply Keeps.foldl_snd
    | with_reducible apply Keeps.foldl_trd
    | with_reducible apply Keeps.foldl_fst_fst
    | with_reducible apply Keeps.foldl_fst
    | with_reducible apply Keeps.foldl_mid
    | dsimp only)

theorem State.setPtCur_keeps {z₀ s : State} (b : ℕ) (ch : ℕ) (a : ℕ) (hz : Keeps z₀ s) :
    Keeps z₀ (State.setPtCur s b ch a) := by
  unfold State.setPtCur
  repeat' (first
    | with_reducible assumption
    | with_reducible apply State.wf_keeps)

theorem State.applyRing_keeps {z₀ s : State} (b : ℕ) (ch : ℕ) (hz : Keeps z₀ s) :
    Keeps z₀ (State.applyRing s b ch) := by
  unfold State.applyRing
  repeat' (first
    | with_reducible assumption
    | with_reducible apply State.wf_keeps
    | with_reducible apply State.setPchan_keeps
    | with_reducible apply State.applyHeld_keeps
    | with_reducible apply State.setPtCur_keeps
    | with_reducible apply State.wb_keeps)

theorem State.ringRequest_keeps {z₀ s : State} (b : ℕ) (ch : ℕ) (hz : Keeps z₀ s) :
    Keeps z₀ (State.ringRequest s b ch) := by
  unfold State.ringRequest
  repeat' (first
    | with_reducible assumption
    | with_reducible apply State.applyRing_keeps
    | with_reducible apply State.wb_keeps
    | split)

theorem State.ptBaseWrite_keeps {z₀ s : State} (b : ℕ) (ch : ℕ) (v : ℕ) (hz : Keeps z₀ s) :
    Keeps z₀ (State.ptBaseWrite s b ch v) := by
  unfold State.ptBaseWrite
  repeat' (first
    | with_reducible assumption
    | with_reducible apply State.ringRequest_keeps
    | with_reducible apply State.wf_keeps)

theorem State.ptLenWrite_keeps {z₀ s : State} (b : ℕ) (ch : ℕ) (v : ℕ) (hz : Keeps z₀ s) :
    Keeps z₀ (State.ptLenWrite s b ch v) := by
  unfold State.ptLenWrite
  repeat' (first
    | with_reducible assumption
    | with_reducible apply State.raise_keeps
    | with_reducible apply State.ringRequest_keeps
    | with_reducible apply State.wf_keeps
    | split)

theorem State.ptTailWrite_keeps {z₀ s : State} (b : ℕ) (ch : ℕ) (v : ℕ) (hz : Keeps z₀ s) :
    Keeps z₀ (State.ptTailWrite s b ch v) := by
  unfold State.ptTailWrite
  repeat' (first
    | with_reducible assumption
    | with_reducible apply State.raise_keeps
    | with_reducible apply State.wb_keeps
    | with_reducible apply State.wf_keeps
    | with_reducible apply State.applyRing_keeps
    | split
    | intro _ _ _
    | intro _ _
    | intro _
    | with_reducible refine Keeps.of2 (by with_reducible assumption) ?_
    | with_reducible refine Keeps.of1 (by with_reducible assumption) ?_
    | with_reducible refine Keeps.of3 (by with_reducible assumption) ?_
    | with_reducible refine Keeps.of4 (by with_reducible assumption) ?_
    | with_reducible apply Keeps.upto
    | with_reducible apply Keeps.foldl
    | with_reducible apply Keeps.foldl_snd_snd
    | with_reducible apply Keeps.foldl_snd
    | with_reducible apply Keeps.foldl_trd
    | with_reducible apply Keeps.foldl_fst_fst
    | with_reducible apply Keeps.foldl_fst
    | with_reducible apply Keeps.foldl_mid
    | dsimp only
    | (with_reducible apply Keeps.mk_other
       first
       | with_reducible assumption
       | with_reducible apply State.raise_keeps
       | with_reducible apply State.wb_keeps
       | with_reducible apply State.wf_keeps
       | with_reducible apply State.applyRing_keeps
       | split
       | intro _ _ _
       | intro _ _
       | intro _
       | with_reducible refine Keeps.of2 (by with_reducible assumption) ?_
       | with_reducible refine Keeps.of1 (by with_reducible assumption) ?_
       | with_reducible refine Keeps.of3 (by with_reducible assumption) ?_
       | with_reducible refine Keeps.of4 (by with_reducible assumption) ?_
       | with_reducible apply Keeps.upto
       | with_reducible apply Keeps.foldl
       | with_reducible apply Keeps.foldl_snd_snd
       | with_reducible apply Keeps.foldl_snd
       | with_reducible apply Keeps.foldl_trd
       | with_reducible apply Keeps.foldl_fst_fst
       | with_reducible apply Keeps.foldl_fst
       | with_reducible apply Keeps.foldl_mid
       | dsimp only)
    | (refine Keeps.mk_tables ?_ (by simp +contextual [State.tablesWf, swf_sput, swf_drop, swf])
       first
       | with_reducible assumption
       | with_reducible apply State.raise_keeps
       | with_reducible apply State.wb_keeps
       | with_reducible apply State.wf_keeps
       | with_reducible apply State.applyRing_keeps
       | split
       | intro _ _ _
       | intro _ _
       | intro _
       | with_reducible refine Keeps.of2 (by with_reducible assumption) ?_
       | with_reducible refine Keeps.of1 (by with_reducible assumption) ?_
       | with_reducible refine Keeps.of3 (by with_reducible assumption) ?_
       | with_reducible refine Keeps.of4 (by with_reducible assumption) ?_
       | with_reducible apply Keeps.upto
       | with_reducible apply Keeps.foldl
       | with_reducible apply Keeps.foldl_snd_snd
       | with_reducible apply Keeps.foldl_snd
       | with_reducible apply Keeps.foldl_trd
       | with_reducible apply Keeps.foldl_fst_fst
       | with_reducible apply Keeps.foldl_fst
       | with_reducible apply Keeps.foldl_mid
       | dsimp only))

theorem State.advanceHead_keeps {z₀ s : State} (b : ℕ) (ch : ℕ) (hz : Keeps z₀ s) :
    Keeps z₀ (State.advanceHead s b ch) := by
  unfold State.advanceHead
  repeat' (first
    | with_reducible assumption
    | with_reducible apply State.setPtCur_keeps
    | with_reducible apply State.wb_keeps
    | with_reducible apply State.wf_keeps
    | with_reducible apply State.applyRing_keeps
    | with_reducible apply State.applyHeld_keeps
    | split
    | intro _ _ _
    | intro _ _
    | intro _
    | with_reducible refine Keeps.of2 (by with_reducible assumption) ?_
    | with_reducible refine Keeps.of1 (by with_reducible assumption) ?_
    | with_reducible refine Keeps.of3 (by with_reducible assumption) ?_
    | with_reducible refine Keeps.of4 (by with_reducible assumption) ?_
    | with_reducible apply Keeps.upto
    | with_reducible apply Keeps.foldl
    | with_reducible apply Keeps.foldl_snd_snd
    | with_reducible apply Keeps.foldl_snd
    | with_reducible apply Keeps.foldl_trd
    | with_reducible apply Keeps.foldl_fst_fst
    | with_reducible apply Keeps.foldl_fst
    | with_reducible apply Keeps.foldl_mid
    | dsimp only)

theorem State.ptCtlWrite_keeps {z₀ s : State} (b : ℕ) (ch : ℕ) (v : ℕ) (hz : Keeps z₀ s) :
    Keeps z₀ (State.ptCtlWrite s b ch v) := by
  unfold State.ptCtlWrite
  repeat' (first
    | with_reducible assumption
    | with_reducible apply State.wf_keeps
    | with_reducible apply State.wb_keeps
    | with_reducible apply State.raiseA2_keeps
    | with_reducible apply State.setPchan_keeps
    | with_reducible apply State.advanceHead_keeps
    | split
    | intro _ _ _
    | intro _ _
    | intro _
    | with_reducible refine Keeps.of2 (by with_reducible assumption) ?_
    | with_reducible refine Keeps.of1 (by with_reducible assumption) ?_
    | with_reducible refine Keeps.of3 (by with_reducible assumption) ?_
    | with_reducible refine Keeps.of4 (by with_reducible assumption) ?_
    | with_reducible apply Keeps.upto
    | with_reducible apply Keeps.foldl
    | with_reducible apply Keeps.foldl_snd_snd
    | with_reducible apply Keeps.foldl_snd
    | with_reducible apply Keeps.foldl_trd
    | with_reducible apply Keeps.foldl_fst_fst
    | with_reducible apply Keeps.foldl_fst
    | with_reducible apply Keeps.foldl_mid
    | dsimp only
    | (with_reducible apply Keeps.mk_other
       first
       | with_reducible assumption
       | with_reducible apply State.wf_keeps
       | with_reducible apply State.wb_keeps
       | with_reducible apply State.raiseA2_keeps
       | with_reducible apply State.setPchan_keeps
       | with_reducible apply State.advanceHead_keeps
       | split
       | intro _ _ _
       | intro _ _
       | intro _
       | with_reducible refine Keeps.of2 (by with_reducible assumption) ?_
       | with_reducible refine Keeps.of1 (by with_reducible assumption) ?_
       | with_reducible refine Keeps.of3 (by with_reducible assumption) ?_
       | with_reducible refine Keeps.of4 (by with_reducible assumption) ?_
       | with_reducible apply Keeps.upto
       | with_reducible apply Keeps.foldl
       | with_reducible apply Keeps.foldl_snd_snd
       | with_reducible apply Keeps.foldl_snd
       | with_reducible apply Keeps.foldl_trd
       | with_reducible apply Keeps.foldl_fst_fst
       | with_reducible apply Keeps.foldl_fst
       | with_reducible apply Keeps.foldl_mid
       | dsimp only)
    | (refine Keeps.mk_tables ?_ (by simp +contextual [State.tablesWf, swf_sput, swf_drop, swf])
       first
       | with_reducible assumption
       | with_reducible apply State.wf_keeps
       | with_reducible apply State.wb_keeps
       | with_reducible apply State.raiseA2_keeps
       | with_reducible apply State.setPchan_keeps
       | with_reducible apply State.advanceHead_keeps
       | split
       | intro _ _ _
       | intro _ _
       | intro _
       | with_reducible refine Keeps.of2 (by with_reducible assumption) ?_
       | with_reducible refine Keeps.of1 (by with_reducible assumption) ?_
       | with_reducible refine Keeps.of3 (by with_reducible assumption) ?_
       | with_reducible refine Keeps.of4 (by with_reducible assumption) ?_
       | with_reducible apply Keeps.upto
       | with_reducible apply Keeps.foldl
       | with_reducible apply Keeps.foldl_snd_snd
       | with_reducible apply Keeps.foldl_snd
       | with_reducible apply Keeps.foldl_trd
       | with_reducible apply Keeps.foldl_fst_fst
       | with_reducible apply Keeps.foldl_fst
       | with_reducible apply Keeps.foldl_mid
       | dsimp only))

theorem State.ptError_keeps {z₀ s : State} (b : ℕ) (ch : ℕ) (daddr : ℕ) (st : ℕ) (fail : ℕ) (hz : Keeps z₀ s) :
    Keeps z₀ (State.ptError s b ch daddr st fail) := by
  unfold State.ptError
  repeat' (first
    | with_reducible assumption
    | with_reducible apply State.raise_keeps
    | with_reducible apply State.wb_keeps
    | with_reducible apply State.wf_keeps
    | split
    | intro _ _ _
    | intro _ _
    | intro _
    | with_reducible refine Keeps.of2 (by with_reducible assumption) ?_
    | with_reducible refine Keeps.of1 (by with_reducible assumption) ?_
    | with_reducible refine Keeps.of3 (by with_reducible assumption) ?_
    | with_reducible refine Keeps.of4 (by with_reducible assumption) ?_
    | with_reducible apply Keeps.upto
    | with_reducible apply Keeps.foldl
    | with_reducible apply Keeps.foldl_snd_snd
    | with_reducible apply Keeps.foldl_snd
    | with_reducible apply Keeps.foldl_trd
    | with_reducible apply Keeps.foldl_fst_fst
    | with_reducible apply Keeps.foldl_fst
    | with_reducible apply Keeps.foldl_mid
    | dsimp only)

theorem State.setRun_keeps {z₀ s : State} (b : ℕ) (ch : ℕ) (on : Bool) (hz : Keeps z₀ s) :
    Keeps z₀ (State.setRun s b ch on) := by
  unfold State.setRun
  repeat' (first
    | with_reducible assumption
    | with_reducible apply State.wf_keeps
    | with_reducible apply State.wb_keeps)

theorem State.release_keeps {z₀ s : State} (b : ℕ) (ch : ℕ) (hz : Keeps z₀ s) :
    Keeps z₀ (State.release s b ch) := by
  unfold State.release
  repeat' (first
    | with_reducible assumption
    | with_reducible apply State.wf_keeps
    | with_reducible apply State.draw_keeps
    | with_reducible apply State.raise_keeps
    | with_reducible apply State.incSat_keeps
    | split
    | intro _ _ _
    | intro _ _
    | intro _
    | with_reducible refine Keeps.of2 (by with_reducible assumption) ?_
    | with_reducible refine Keeps.of1 (by with_reducible assumption) ?_
    | with_reducible refine Keeps.of3 (by with_reducible assumption) ?_
    | with_reducible refine Keeps.of4 (by with_reducible assumption) ?_
    | with_reducible apply Keeps.upto
    | with_reducible apply Keeps.foldl
    | with_reducible apply Keeps.foldl_snd_snd
    | with_reducible apply Keeps.foldl_snd
    | with_reducible apply Keeps.foldl_trd
    | with_reducible apply Keeps.foldl_fst_fst
    | with_reducible apply Keeps.foldl_fst
    | with_reducible apply Keeps.foldl_mid
    | dsimp only)

end Sys2Proof.Machine
end

