-- ==== Sys2Proof/Laws/KeepCarBase.lean ====
section
/-! SUPPORT. The functions of Machine/CarBase.lean keep the queue, what has been sent, and the invariant. -/

namespace Sys2Proof.Machine

theorem State.cpBad_keeps {z₀ s : State} (p : ℕ) (o : ℕ) (hz : Keeps z₀ s) :
    Keeps z₀ (State.cpBad s p o) := by
  unfold State.cpBad
  repeat' (first
    | with_reducible assumption
    | with_reducible apply State.raise_keeps)

theorem State.cpSync_keeps {z₀ s : State} (p : ℕ) (hz : Keeps z₀ s) :
    Keeps z₀ (State.cpSync s p) := by
  unfold State.cpSync
  repeat' (first
    | with_reducible assumption
    | with_reducible apply State.wf_keeps)

theorem State.setCp_keeps {z₀ s : State} (p : ℕ) (c : CpPort) (hz : Keeps z₀ s) :
    Keeps z₀ (State.setCp s p c) := by
  unfold State.setCp
  repeat' (first
    | with_reducible assumption
    | split
    | intro _ _ _
    | intro _ _
    | intro _
    | with_reducible refine Keeps.of2 (by with_reducible assumption) ?_
    | with_reducible refine Keeps.of1 (by with_reducible assumption) ?_
    | with_reducible refine Keeps.of3 (by with_reducible assumption) ?_
    | with_reducible refine Keeps.of4 (by with_reducible assumption) ?_
    | with_reducible apply Keeps.upto
    | with_reducible apply Keeps.foldl
    | with_reducible apply Keeps.foldl_snd_snd
    | with_reducible apply Keeps.foldl_snd
    | with_reducible apply Keeps.foldl_trd
    | with_reducible apply Keeps.foldl_fst_fst
    | with_reducible apply Keeps.foldl_fst
    | with_reducible apply Keeps.foldl_mid
    | dsimp only
    | (with_reducible apply Keeps.mk_other; with_reducible assumption)
    | (refine Keeps.mk_tables ?_ (by simp +contextual [State.tablesWf, swf_sput, swf_drop]); with_reducible assumption))

theorem State.ulArm_keeps {z₀ s : State} (p : ℕ) (v : ℕ) (hz : Keeps z₀ s) :
    Keeps z₀ (State.ulArm s p v) := by
  unfold State.ulArm
  repeat' (first
    | with_reducible assumption
    | with_reducible apply State.cpBad_keeps
    | with_reducible apply State.raise_keeps
    | with_reducible apply State.cpSync_keeps
    | with_reducible apply State.setCp_keeps
    | split
    | intro _ _ _
    | intro _ _
    | intro _
    | with_reducible refine Keeps.of2 (by with_reducible assumption) ?_
    | with_reducible refine Keeps.of1 (by with_reducible assumption) ?_
    | with_reducible refine Keeps.of3 (by with_reducible assumption) ?_
    | with_reducible refine Keeps.of4 (by with_reducible assumption) ?_
    | with_reducible apply Keeps.upto
    | with_reducible apply Keeps.foldl
    | with_reducible apply Keeps.foldl_snd_snd
    | with_reducible apply Keeps.foldl_snd
    | with_reducible apply Keeps.foldl_trd
    | with_reducible apply Keeps.foldl_fst_fst
    | with_reducible apply Keeps.foldl_fst
    | with_reducible apply Keeps.foldl_mid
    | dsimp only)

theorem State.swqWrite_keeps {z₀ s : State} (p : ℕ) (v : ℕ) (hz : Keeps z₀ s) :
    Keeps z₀ (State.swqWrite s p v) := by
  unfold State.swqWrite
  repeat' (first
    | with_reducible assumption
    | with_reducible apply State.cpBad_keeps
    | with_reducible apply State.cpSync_keeps
    | with_reducible apply State.setCp_keeps
    | split
    | intro _ _ _
    | intro _ _
    | intro _
    | with_reducible refine Keeps.of2 (by with_reducible assumption) ?_
    | with_reducible refine Keeps.of1 (by with_reducible assumption) ?_
    | with_reducible refine Keeps.of3 (by with_reducible assumption) ?_
    | with_reducible refine Keeps.of4 (by with_reducible assumption) ?_
    | with_reducible apply Keeps.upto
    | with_reducible apply Keeps.foldl
    | with_reducible apply Keeps.foldl_snd_snd
    | with_reducible apply Keeps.foldl_snd
    | with_reducible apply Keeps.foldl_trd
    | with_reducible apply Keeps.foldl_fst_fst
    | with_reducible apply Keeps.foldl_fst
    | with_reducible apply Keeps.foldl_mid
    | dsimp only)

theorem State.cpSlotFree_keeps {z₀ s : State} (p : ℕ) (k : ℕ) (hz : Keeps z₀ s) :
    Keeps z₀ (State.cpSlotFree s p k) := by
  unfold State.cpSlotFree
  repeat' (first
    | with_reducible assumption
    | with_reducible apply State.setCp_keeps)

theorem State.cpCount_keeps {z₀ s : State} (p : ℕ) (i : ℕ) (n : ℕ) (hz : Keeps z₀ s) :
    Keeps z₀ (State.cpCount s p i n) := by
  unfold State.cpCount
  repeat' (first
    | with_reducible assumption
    | with_reducible apply State.incSat_keeps)

theorem State.mtxEntry_keeps {z₀ s : State} (p : ℕ) (e : List Byte) (hz : Keeps z₀ s) :
    Keeps z₀ (State.mtxEntry s p e) := by
  unfold State.mtxEntry
  repeat' (first
    | with_reducible assumption
    | with_reducible apply State.cpBad_keeps
    | with_reducible apply State.cpSlotFree_keeps
    | with_reducible apply State.cpCount_keeps
    | with_reducible apply State.cpSync_keeps
    | with_reducible apply State.setCp_keeps
    | split
    | intro _ _ _
    | intro _ _
    | intro _
    | with_reducible refine Keeps.of2 (by with_reducible assumption) ?_
    | with_reducible refine Keeps.of1 (by with_reducible assumption) ?_
    | with_reducible refine Keeps.of3 (by with_reducible assumption) ?_
    | with_reducible refine Keeps.of4 (by with_reducible assumption) ?_
    | with_reducible apply Keeps.upto
    | with_reducible apply Keeps.foldl
    | with_reducible apply Keeps.foldl_snd_snd
    | with_reducible apply Keeps.foldl_snd
    | with_reducible apply Keeps.foldl_trd
    | with_reducible apply Keeps.foldl_fst_fst
    | with_reducible apply Keeps.foldl_fst
    | with_reducible apply Keeps.foldl_mid
    | dsimp only)

theorem State.mrxConsume_keeps {z₀ s : State} (p : ℕ) (hz : Keeps z₀ s) :
    Keeps z₀ (State.mrxConsume s p) := by
  unfold State.mrxConsume
  repeat' (first
    | with_reducible assumption
    | with_reducible apply State.setCp_keeps)

theorem State.sampleWrite_keeps {z₀ s : State} (p : ℕ) (ant : ℕ) (pos : ℕ) (items : List (ℕ × Byte)) (hz : Keeps z₀ s) :
    Keeps z₀ (State.sampleWrite s p ant pos items) := by
  unfold State.sampleWrite
  repeat' (first
    | with_reducible assumption
    | with_reducible apply State.setCp_keeps
    | with_reducible apply State.cpCount_keeps
    | with_reducible apply State.raise_keeps
    | split
    | intro _ _ _
    | intro _ _
    | intro _
    | with_reducible refine Keeps.of2 (by with_reducible assumption) ?_
    | with_reducible refine Keeps.of1 (by with_reducible assumption) ?_
    | with_reducible refine Keeps.of3 (by with_reducible assumption) ?_
    | with_reducible refine Keeps.of4 (by with_reducible assumption) ?_
    | with_reducible apply Keeps.upto
    | with_reducible apply Keeps.foldl
    | with_reducible apply Keeps.foldl_snd_snd
    | with_reducible apply Keeps.foldl_snd
    | with_reducible apply Keeps.foldl_trd
    | with_reducible apply Keeps.foldl_fst_fst
    | with_reducible apply Keeps.foldl_fst
    | with_reducible apply Keeps.foldl_mid
    | dsimp only
    | (with_reducible apply Keeps.mk_other
       first
       | with_reducible assumption
       | with_reducible apply State.setCp_keeps
       | with_reducible apply State.cpCount_keeps
       | with_reducible apply State.raise_keeps
       | split
       | intro _ _ _
       | intro _ _
       | intro _
       | with_reducible refine Keeps.of2 (by with_reducible assumption) ?_
       | with_reducible refine Keeps.of1 (by with_reducible assumption) ?_
       | with_reducible refine Keeps.of3 (by with_reducible assumption) ?_
       | with_reducible refine Keeps.of4 (by with_reducible assumption) ?_
       | with_reducible apply Keeps.upto
       | with_reducible apply Keeps.foldl
       | with_reducible apply Keeps.foldl_snd_snd
       | with_reducible apply Keeps.foldl_snd
       | with_reducible apply Keeps.foldl_trd
       | with_reducible apply Keeps.foldl_fst_fst
       | with_reducible apply Keeps.foldl_fst
       | with_reducible apply Keeps.foldl_mid
       | dsimp only)
    | (refine Keeps.mk_tables ?_ (by simp +contextual [State.tablesWf, swf_sput, swf_drop, swf])
       first
       | with_reducible assumption
       | with_reducible apply State.setCp_keeps
       | with_reducible apply State.cpCount_keeps
       | with_reducible apply State.raise_keeps
       | split
       | intro _ _ _
       | intro _ _
       | intro _
       | with_reducible refine Keeps.of2 (by with_reducible assumption) ?_
       | with_reducible refine Keeps.of1 (by with_reducible assumption) ?_
       | with_reducible refine Keeps.of3 (by with_reducible assumption) ?_
       | with_reducible refine Keeps.of4 (by with_reducible assumption) ?_
       | with_reducible apply Keeps.upto
       | with_reducible apply Keeps.foldl
       | with_reducible apply Keeps.foldl_snd_snd
       | with_reducible apply Keeps.foldl_snd
       | with_reducible apply Keeps.foldl_trd
       | with_reducible apply Keeps.foldl_fst_fst
       | with_reducible apply Keeps.foldl_fst
       | with_reducible apply Keeps.foldl_mid
       | dsimp only))

theorem State.dropProposals_keeps {z₀ s : State} (p : ℕ) (hz : Keeps z₀ s) :
    Keeps z₀ (State.dropProposals s p) := by
  unfold State.dropProposals
  repeat' (first
    | with_reducible assumption
    | with_reducible apply State.wb_keeps
    | with_reducible apply State.setCp_keeps)

theorem State.setCpState_keeps {z₀ s : State} (p : ℕ) (st : ℕ) (hz : Keeps z₀ s) :
    Keeps z₀ (State.setCpState s p st) := by
  unfold State.setCpState
  repeat' (first
    | with_reducible assumption
    | with_reducible apply State.setCp_keeps
    | with_reducible apply State.raise_keeps
    | with_reducible apply State.wf_keeps
    | split
    | intro _ _ _
    | intro _ _
    | intro _
    | with_reducible refine Keeps.of2 (by with_reducible assumption) ?_
    | with_reducible refine Keeps.of1 (by with_reducible assumption) ?_
    | with_reducible refine Keeps.of3 (by with_reducible assumption) ?_
    | with_reducible refine Keeps.of4 (by with_reducible assumption) ?_
    | with_reducible apply Keeps.upto
    | with_reducible apply Keeps.foldl
    | with_reducible apply Keeps.foldl_snd_snd
    | with_reducible apply Keeps.foldl_snd
    | with_reducible apply Keeps.foldl_trd
    | with_reducible apply Keeps.foldl_fst_fst
    | with_reducible apply Keeps.foldl_fst
    | with_reducible apply Keeps.foldl_mid
    | dsimp only
    | (with_reducible apply Keeps.mk_other
       first
       | with_reducible assumption
       | with_reducible apply State.setCp_keeps
       | with_reducible apply State.raise_keeps
       | with_reducible apply State.wf_keeps
       | split
       | intro _ _ _
       | intro _ _
       | intro _
       | with_reducible refine Keeps.of2 (by with_reducible assumption) ?_
       | with_reducible refine Keeps.of1 (by with_reducible assumption) ?_
       | with_reducible refine Keeps.of3 (by with_reducible assumption) ?_
       | with_reducible refine Keeps.of4 (by with_reducible assumption) ?_
       | with_reducible apply Keeps.upto
       | with_reducible apply Keeps.foldl
       | with_reducible apply Keeps.foldl_snd_snd
       | with_reducible apply Keeps.foldl_snd
       | with_reducible apply Keeps.foldl_trd
       | with_reducible apply Keeps.foldl_fst_fst
       | with_reducible apply Keeps.foldl_fst
       | with_reducible apply Keeps.foldl_mid
       | dsimp only)
    | (refine Keeps.mk_tables ?_ (by simp +contextual [State.tablesWf, swf_sput, swf_drop, swf])
       first
       | with_reducible assumption
       | with_reducible apply State.setCp_keeps
       | with_reducible apply State.raise_keeps
       | with_reducible apply State.wf_keeps
       | split
       | intro _ _ _
       | intro _ _
       | intro _
       | with_reducible refine Keeps.of2 (by with_reducible assumption) ?_
       | with_reducible refine Keeps.of1 (by with_reducible assumption) ?_
       | with_reducible refine Keeps.of3 (by with_reducible assumption) ?_
       | with_reducible refine Keeps.of4 (by with_reducible assumption) ?_
       | with_reducible apply Keeps.upto
       | with_reducible apply Keeps.foldl
       | with_reducible apply Keeps.foldl_snd_snd
       | with_reducible apply Keeps.foldl_snd
       | with_reducible apply Keeps.foldl_trd
       | with_reducible apply Keeps.foldl_fst_fst
       | with_reducible apply Keeps.foldl_fst
       | with_reducible apply Keeps.foldl_mid
       | dsimp only))

theorem State.cpReqEnd_keeps {z₀ s : State} (p : ℕ) (status : ℕ) (hz : Keeps z₀ s) :
    Keeps z₀ (State.cpReqEnd s p status) := by
  unfold State.cpReqEnd
  repeat' (first
    | with_reducible assumption
    | with_reducible apply State.finish_keeps
    | with_reducible apply State.setCp_keeps
    | split)

theorem State.cpDown_keeps {z₀ s : State} (p : ℕ) (hz : Keeps z₀ s) :
    Keeps z₀ (State.cpDown s p) := by
  unfold State.cpDown
  repeat' (first
    | with_reducible assumption
    | with_reducible apply State.dropProposals_keeps
    | with_reducible apply State.wb_keeps
    | with_reducible apply State.setCpState_keeps
    | with_reducible apply State.setCp_keeps
    | with_reducible apply State.cpReqEnd_keeps
    | split
    | intro _ _ _
    | intro _ _
    | intro _
    | with_reducible refine Keeps.of2 (by with_reducible assumption) ?_
    | with_reducible refine Keeps.of1 (by with_reducible assumption) ?_
    | with_reducible refine Keeps.of3 (by with_reducible assumption) ?_
    | with_reducible refine Keeps.of4 (by with_reducible assumption) ?_
    | with_reducible apply Keeps.upto
    | with_reducible apply Keeps.foldl
    | with_reducible apply Keeps.foldl_snd_snd
    | with_reducible apply Keeps.foldl_snd
    | with_reducible apply Keeps.foldl_trd
    | with_reducible apply Keeps.foldl_fst_fst
    | with_reducible apply Keeps.foldl_fst
    | with_reducible apply Keeps.foldl_mid
    | dsimp only)

theorem State.cpAlign_keeps {z₀ s : State} (p : ℕ) (start : ℕ) (hz : Keeps z₀ s) :
    Keeps z₀ (State.cpAlign s p start) := by
  unfold State.cpAlign
  repeat' (first
    | with_reducible assumption
    | with_reducible apply State.setCp_keeps
    | split
    | intro _ _ _
    | intro _ _
    | intro _
    | with_reducible refine Keeps.of2 (by with_reducible assumption) ?_
    | with_reducible refine Keeps.of1 (by with_reducible assumption) ?_
    | with_reducible refine Keeps.of3 (by with_reducible assumption) ?_
    | with_reducible refine Keeps.of4 (by with_reducible assumption) ?_
    | with_reducible apply Keeps.upto
    | with_reducible apply Keeps.foldl
    | with_reducible apply Keeps.foldl_snd_snd
    | with_reducible apply Keeps.foldl_snd
    | with_reducible apply Keeps.foldl_trd
    | with_reducible apply Keeps.foldl_fst_fst
    | with_reducible apply Keeps.foldl_fst
    | with_reducible apply Keeps.foldl_mid
    | dsimp only
    | (with_reducible apply Keeps.mk_other
       first
       | with_reducible assumption
       | with_reducible apply State.setCp_keeps
       | split
       | intro _ _ _
       | intro _ _
       | intro _
       | with_reducible refine Keeps.of2 (by with_reducible assumption) ?_
       | with_reducible refine Keeps.of1 (by with_reducible assumption) ?_
       | with_reducible refine Keeps.of3 (by with_reducible assumption) ?_
       | with_reducible refine Keeps.of4 (by with_reducible assumption) ?_
       | with_reducible apply Keeps.upto
       | with_reducible apply Keeps.foldl
       | with_reducible apply Keeps.foldl_snd_snd
       | with_reducible apply Keeps.foldl_snd
       | with_reducible apply Keeps.foldl_trd
       | with_reducible apply Keeps.foldl_fst_fst
       | with_reducible apply Keeps.foldl_fst
       | with_reducible apply Keeps.foldl_mid
       | dsimp only)
    | (refine Keeps.mk_tables ?_ (by simp +contextual [State.tablesWf, swf_sput, swf_drop, swf])
       first
       | with_reducible assumption
       | with_reducible apply State.setCp_keeps
       | split
       | intro _ _ _
       | intro _ _
       | intro _
       | with_reducible refine Keeps.of2 (by with_reducible assumption) ?_
       | with_reducible refine Keeps.of1 (by with_reducible assumption) ?_
       | with_reducible refine Keeps.of3 (by with_reducible assumption) ?_
       | with_reducible refine Keeps.of4 (by with_reducible assumption) ?_
       | with_reducible apply Keeps.upto
       | with_reducible apply Keeps.foldl
       | with_reducible apply Keeps.foldl_snd_snd
       | with_reducible apply Keeps.foldl_snd
       | with_reducible apply Keeps.foldl_trd
       | with_reducible apply Keeps.foldl_fst_fst
       | with_reducible apply Keeps.foldl_fst
       | with_reducible apply Keeps.foldl_mid
       | dsimp only))

theorem State.cpRetrain_keeps {z₀ s : State} (p : ℕ) (hz : Keeps z₀ s) :
    Keeps z₀ (State.cpRetrain s p) := by
  unfold State.cpRetrain
  repeat' (first
    | with_reducible assumption
    | with_reducible apply State.dropProposals_keeps
    | with_reducible apply State.cpCount_keeps
    | with_reducible apply State.setCpState_keeps
    | with_reducible apply State.setCp_keeps)

theorem State.cpLoadBits_keeps {z₀ s : State} (p : ℕ) (hz : Keeps z₀ s) :
    Keeps z₀ (State.cpLoadBits s p) := by
  unfold State.cpLoadBits
  repeat' (first
    | with_reducible assumption
    | with_reducible apply State.wf_keeps
    | split
    | intro _ _ _
    | intro _ _
    | intro _
    | with_reducible refine Keeps.of2 (by with_reducible assumption) ?_
    | with_reducible refine Keeps.of1 (by with_reducible assumption) ?_
    | with_reducible refine Keeps.of3 (by with_reducible assumption) ?_
    | with_reducible refine Keeps.of4 (by with_reducible assumption) ?_
    | with_reducible apply Keeps.upto)

theorem State.cpMeasured_keeps {z₀ s : State} (p : ℕ) (ms : List (ℕ × ℕ × ℕ)) (hz : Keeps z₀ s) :
    Keeps z₀ (State.cpMeasured s p ms) := by
  unfold State.cpMeasured
  repeat' (first
    | with_reducible assumption
    | with_reducible apply State.wf_keeps
    | with_reducible apply State.setCp_keeps
    | split
    | intro _ _ _
    | intro _ _
    | intro _
    | with_reducible refine Keeps.of2 (by with_reducible assumption) ?_
    | with_reducible refine Keeps.of1 (by with_reducible assumption) ?_
    | with_reducible refine Keeps.of3 (by with_reducible assumption) ?_
    | with_reducible refine Keeps.of4 (by with_reducible assumption) ?_
    | with_reducible apply Keeps.upto)

theorem State.cpRun_keeps {z₀ s : State} (p : ℕ) (hz : Keeps z₀ s) :
    Keeps z₀ (State.cpRun s p) := by
  unfold State.cpRun
  repeat' (first
    | with_reducible assumption
    | with_reducible apply State.wf_keeps
    | with_reducible apply State.wb_keeps
    | with_reducible apply State.setCpState_keeps
    | with_reducible apply State.setCp_keeps
    | with_reducible apply State.cpReqEnd_keeps
    | split
    | intro _ _ _
    | intro _ _
    | intro _
    | with_reducible refine Keeps.of2 (by with_reducible assumption) ?_
    | with_reducible refine Keeps.of1 (by with_reducible assumption) ?_
    | with_reducible refine Keeps.of3 (by with_reducible assumption) ?_
    | with_reducible refine Keeps.of4 (by with_reducible assumption) ?_
    | with_reducible apply Keeps.upto
    | with_reducible apply Keeps.foldl
    | with_reducible apply Keeps.foldl_snd_snd
    | with_reducible apply Keeps.foldl_snd
    | with_reducible apply Keeps.foldl_trd
    | with_reducible apply Keeps.foldl_fst_fst
    | with_reducible apply Keeps.foldl_fst
    | with_reducible apply Keeps.foldl_mid
    | dsimp only)

theorem State.trainFail_keeps {z₀ s : State} (p : ℕ) (hz : Keeps z₀ s) :
    Keeps z₀ (State.trainFail s p) := by
  unfold State.trainFail
  repeat' (first
    | with_reducible assumption
    | with_reducible apply State.wf_keeps
    | with_reducible apply State.cpDown_keeps
    | with_reducible apply State.setCp_keeps
    | split
    | intro _ _ _
    | intro _ _
    | intro _
    | with_reducible refine Keeps.of2 (by with_reducible assumption) ?_
    | with_reducible refine Keeps.of1 (by with_reducible assumption) ?_
    | with_reducible refine Keeps.of3 (by with_reducible assumption) ?_
    | with_reducible refine Keeps.of4 (by with_reducible assumption) ?_
    | with_reducible apply Keeps.upto
    | with_reducible apply Keeps.foldl
    | with_reducible apply Keeps.foldl_snd_snd
    | with_reducible apply Keeps.foldl_snd
    | with_reducible apply Keeps.foldl_trd
    | with_reducible apply Keeps.foldl_fst_fst
    | with_reducible apply Keeps.foldl_fst
    | with_reducible apply Keeps.foldl_mid
    | dsimp only)

theorem State.cpLoss_keeps {z₀ s : State} (p : ℕ) (hz : Keeps z₀ s) :
    Keeps z₀ (State.cpLoss s p) := by
  unfold State.cpLoss
  repeat' (first
    | with_reducible assumption
    | with_reducible apply State.cpRetrain_keeps
    | with_reducible apply State.cpDown_keeps
    | split)

end Sys2Proof.Machine
end

