-- ==== Sys2Proof/Laws/KeepEccBase.lean ====
section
/-! SUPPORT. The functions of Machine/EccBase.lean keep the queue, what has been sent, and the invariant. -/

namespace Sys2Proof.Machine

theorem State.eccClear_keeps {z₀ s : State} (u : ℕ) (hz : Keeps z₀ s) :
    Keeps z₀ (State.eccClear s u) := by
  unfold State.eccClear
  repeat' (first
    | with_reducible assumption
    | with_reducible apply Keeps.setReg
    | split
    | intro _ _ _
    | intro _ _
    | intro _
    | with_reducible refine Keeps.of2 (by with_reducible assumption) ?_
    | with_reducible refine Keeps.of1 (by with_reducible assumption) ?_
    | with_reducible refine Keeps.of3 (by with_reducible assumption) ?_
    | with_reducible refine Keeps.of4 (by with_reducible assumption) ?_
    | with_reducible apply Keeps.upto
    | with_reducible apply Keeps.foldl
    | with_reducible apply Keeps.foldl_snd_snd
    | with_reducible apply Keeps.foldl_snd
    | with_reducible apply Keeps.foldl_trd
    | with_reducible apply Keeps.foldl_fst_fst
    | with_reducible apply Keeps.foldl_fst
    | with_reducible apply Keeps.foldl_mid
    | dsimp only
    | (with_reducible apply Keeps.mk_other; first | with_reducible assumption | with_reducible apply Keeps.setReg))

theorem State.eccTable_keeps {z₀ s : State} (r : EccReport) (hz : Keeps z₀ s) :
    Keeps z₀ (State.eccTable s r) := by
  unfold State.eccTable
  repeat' (first
    | with_reducible assumption
    | with_reducible apply State.incSat_keeps
    | with_reducible apply Keeps.setReg
    | with_reducible apply State.raiseA_keeps
    | with_reducible apply State.wb_keeps
    | with_reducible apply State.wf_keeps
    | with_reducible apply State.raise_keeps
    | split
    | intro _ _ _
    | intro _ _
    | intro _
    | with_reducible refine Keeps.of2 (by with_reducible assumption) ?_
    | with_reducible refine Keeps.of1 (by with_reducible assumption) ?_
    | with_reducible refine Keeps.of3 (by with_reducible assumption) ?_
    | with_reducible refine Keeps.of4 (by with_reducible assumption) ?_
    | with_reducible apply Keeps.upto
    | with_reducible apply Keeps.foldl
    | with_reducible apply Keeps.foldl_snd_snd
    | with_reducible apply Keeps.foldl_snd
    | with_reducible apply Keeps.foldl_trd
    | with_reducible apply Keeps.foldl_fst_fst
    | with_reducible apply Keeps.foldl_fst
    | with_reducible apply Keeps.foldl_mid
    | dsimp only
    | (with_reducible apply Keeps.mk_other; first | with_reducible assumption | with_reducible apply State.incSat_keeps | with_reducible apply Keeps.setReg | with_reducible apply State.raiseA_keeps | with_reducible apply State.wb_keeps | with_reducible apply State.wf_keeps | with_reducible apply State.raise_keeps))

theorem State.eccArrive_keeps {z₀ s : State} (r : EccReport) (hz : Keeps z₀ s) :
    Keeps z₀ (State.eccArrive s r) := by
  unfold State.eccArrive
  repeat' (first
    | with_reducible assumption
    | with_reducible apply State.incSat_keeps
    | with_reducible apply Keeps.setReg
    | with_reducible apply State.raiseA_keeps
    | with_reducible apply State.eccTable_keeps
    | split)

end Sys2Proof.Machine
end

