-- ==== Sys2Proof/Laws/KeepGuestBase.lean ====
section
/-! SUPPORT. The functions of Machine/GuestBase.lean keep the queue, what has been sent, and the invariant. -/

namespace Sys2Proof.Machine

theorem State.gbTrigger_keeps {z₀ s : State} (forced : Bool) (hz : Keeps z₀ s) :
    Keeps z₀ (State.gbTrigger s forced) := by
  unfold State.gbTrigger
  repeat' (first
    | with_reducible assumption
    | with_reducible apply State.wb_keeps
    | split
    | intro _ _ _
    | intro _ _
    | intro _
    | with_reducible refine Keeps.of2 (by with_reducible assumption) ?_
    | with_reducible refine Keeps.of1 (by with_reducible assumption) ?_
    | with_reducible refine Keeps.of3 (by with_reducible assumption) ?_
    | with_reducible refine Keeps.of4 (by with_reducible assumption) ?_
    | with_reducible apply Keeps.upto
    | with_reducible apply Keeps.foldl
    | with_reducible apply Keeps.foldl_snd_snd
    | with_reducible apply Keeps.foldl_snd
    | with_reducible apply Keeps.foldl_trd
    | with_reducible apply Keeps.foldl_fst_fst
    | with_reducible apply Keeps.foldl_fst
    | with_reducible apply Keeps.foldl_mid
    | dsimp only
    | (with_reducible apply Keeps.mk_other; first | with_reducible assumption | with_reducible apply State.wb_keeps))

theorem State.gbSync_keeps {z₀ s : State} (hz : Keeps z₀ s) :
    Keeps z₀ (State.gbSync s) := by
  unfold State.gbSync
  repeat' (first
    | with_reducible assumption
    | with_reducible apply State.wf_keeps)

theorem State.gbRecord_keeps {z₀ s : State} (e : Event) (hz : Keeps z₀ s) :
    Keeps z₀ (State.gbRecord s e) := by
  unfold State.gbRecord
  repeat' (first
    | with_reducible assumption
    | with_reducible apply State.incWrap_keeps
    | with_reducible apply State.incSat_keeps
    | with_reducible apply State.gbSync_keeps
    | with_reducible apply State.wf_keeps
    | with_reducible apply State.gbTrigger_keeps
    | split
    | intro _ _ _
    | intro _ _
    | intro _
    | with_reducible refine Keeps.of2 (by with_reducible assumption) ?_
    | with_reducible refine Keeps.of1 (by with_reducible assumption) ?_
    | with_reducible refine Keeps.of3 (by with_reducible assumption) ?_
    | with_reducible refine Keeps.of4 (by with_reducible assumption) ?_
    | with_reducible apply Keeps.upto
    | with_reducible apply Keeps.foldl
    | with_reducible apply Keeps.foldl_snd_snd
    | with_reducible apply Keeps.foldl_snd
    | with_reducible apply Keeps.foldl_trd
    | with_reducible apply Keeps.foldl_fst_fst
    | with_reducible apply Keeps.foldl_fst
    | with_reducible apply Keeps.foldl_mid
    | with_reducible apply Keeps.putGbuf
    | dsimp only
    | (with_reducible apply Keeps.mk_other; first | with_reducible assumption | with_reducible apply State.incWrap_keeps))

theorem State.gbWriteLog_keeps {z₀ s : State} (hz : Keeps z₀ s) :
    Keeps z₀ (State.gbWriteLog s) := by
  unfold State.gbWriteLog
  repeat' (first
    | with_reducible assumption
    | with_reducible apply State.nvWrite_keeps
    | with_reducible apply State.gbSync_keeps
    | with_reducible apply State.wf_keeps
    | split
    | intro _ _ _
    | intro _ _
    | intro _
    | with_reducible refine Keeps.of2 (by with_reducible assumption) ?_
    | with_reducible refine Keeps.of1 (by with_reducible assumption) ?_
    | with_reducible refine Keeps.of3 (by with_reducible assumption) ?_
    | with_reducible refine Keeps.of4 (by with_reducible assumption) ?_
    | with_reducible apply Keeps.upto
    | with_reducible apply Keeps.foldl
    | with_reducible apply Keeps.foldl_snd_snd
    | with_reducible apply Keeps.foldl_snd
    | with_reducible apply Keeps.foldl_trd
    | with_reducible apply Keeps.foldl_fst_fst
    | with_reducible apply Keeps.foldl_fst
    | with_reducible apply Keeps.foldl_mid
    | dsimp only
    | (with_reducible apply Keeps.mk_other; first | with_reducible assumption | with_reducible apply State.nvWrite_keeps | with_reducible apply State.gbSync_keeps))

theorem State.gbReportLoss_keeps {z₀ s : State} (hz : Keeps z₀ s) :
    Keeps z₀ (State.gbReportLoss s) := by
  unfold State.gbReportLoss
  repeat' (first
    | with_reducible assumption
    | with_reducible apply State.gbRecord_keeps
    | split
    | intro _ _ _
    | intro _ _
    | intro _
    | with_reducible refine Keeps.of2 (by with_reducible assumption) ?_
    | with_reducible refine Keeps.of1 (by with_reducible assumption) ?_
    | with_reducible refine Keeps.of3 (by with_reducible assumption) ?_
    | with_reducible refine Keeps.of4 (by with_reducible assumption) ?_
    | with_reducible apply Keeps.upto
    | with_reducible apply Keeps.foldl
    | with_reducible apply Keeps.foldl_snd_snd
    | with_reducible apply Keeps.foldl_snd
    | with_reducible apply Keeps.foldl_trd
    | with_reducible apply Keeps.foldl_fst_fst
    | with_reducible apply Keeps.foldl_fst
    | with_reducible apply Keeps.foldl_mid
    | dsimp only
    | (with_reducible apply Keeps.mk_other; with_reducible assumption))

theorem State.gbFinish_keeps {z₀ s : State} (hz : Keeps z₀ s) :
    Keeps z₀ (State.gbFinish s) := by
  unfold State.gbFinish
  repeat' (first
    | with_reducible assumption
    | with_reducible apply State.finish_keeps
    | split
    | intro _ _ _
    | intro _ _
    | intro _
    | with_reducible refine Keeps.of2 (by with_reducible assumption) ?_
    | with_reducible refine Keeps.of1 (by with_reducible assumption) ?_
    | with_reducible refine Keeps.of3 (by with_reducible assumption) ?_
    | with_reducible refine Keeps.of4 (by with_reducible assumption) ?_
    | with_reducible apply Keeps.upto
    | with_reducible apply Keeps.foldl
    | with_reducible apply Keeps.foldl_snd_snd
    | with_reducible apply Keeps.foldl_snd
    | with_reducible apply Keeps.foldl_trd
    | with_reducible apply Keeps.foldl_fst_fst
    | with_reducible apply Keeps.foldl_fst
    | with_reducible apply Keeps.foldl_mid
    | dsimp only
    | (with_reducible apply Keeps.mk_other; with_reducible assumption))

theorem State.gbFlushStart_keeps {z₀ s : State} (hz : Keeps z₀ s) :
    Keeps z₀ (State.gbFlushStart s) := by
  unfold State.gbFlushStart
  repeat' (first
    | with_reducible assumption
    | with_reducible apply State.wb_keeps
    | with_reducible apply State.gbWriteLog_keeps
    | with_reducible apply State.gbReportLoss_keeps
    | split
    | intro _ _ _
    | intro _ _
    | intro _
    | with_reducible refine Keeps.of2 (by with_reducible assumption) ?_
    | with_reducible refine Keeps.of1 (by with_reducible assumption) ?_
    | with_reducible refine Keeps.of3 (by with_reducible assumption) ?_
    | with_reducible refine Keeps.of4 (by with_reducible assumption) ?_
    | with_reducible apply Keeps.upto
    | with_reducible apply Keeps.foldl
    | with_reducible apply Keeps.foldl_snd_snd
    | with_reducible apply Keeps.foldl_snd
    | with_reducible apply Keeps.foldl_trd
    | with_reducible apply Keeps.foldl_fst_fst
    | with_reducible apply Keeps.foldl_fst
    | with_reducible apply Keeps.foldl_mid
    | dsimp only
    | (with_reducible apply Keeps.mk_other; first | with_reducible assumption | with_reducible apply State.wb_keeps))

theorem State.gbFlushEnd_keeps {z₀ s : State} (hz : Keeps z₀ s) :
    Keeps z₀ (State.gbFlushEnd s) := by
  unfold State.gbFlushEnd
  repeat' (first
    | with_reducible assumption
    | with_reducible apply State.gbFinish_keeps
    | with_reducible apply State.wb_keeps
    | with_reducible apply State.gbWriteLog_keeps
    | split)

theorem State.gbFlushNow_keeps {z₀ s : State} (hz : Keeps z₀ s) :
    Keeps z₀ (State.gbFlushNow s) := by
  unfold State.gbFlushNow
  repeat' (first
    | with_reducible assumption
    | with_reducible apply State.gbFinish_keeps
    | with_reducible apply State.wb_keeps
    | with_reducible apply State.gbWriteLog_keeps
    | with_reducible apply State.gbReportLoss_keeps
    | split
    | intro _ _ _
    | intro _ _
    | intro _
    | with_reducible refine Keeps.of2 (by with_reducible assumption) ?_
    | with_reducible refine Keeps.of1 (by with_reducible assumption) ?_
    | with_reducible refine Keeps.of3 (by with_reducible assumption) ?_
    | with_reducible refine Keeps.of4 (by with_reducible assumption) ?_
    | with_reducible apply Keeps.upto
    | with_reducible apply Keeps.foldl
    | with_reducible apply Keeps.foldl_snd_snd
    | with_reducible apply Keeps.foldl_snd
    | with_reducible apply Keeps.foldl_trd
    | with_reducible apply Keeps.foldl_fst_fst
    | with_reducible apply Keeps.foldl_fst
    | with_reducible apply Keeps.foldl_mid
    | dsimp only
    | (with_reducible apply Keeps.mk_other; with_reducible assumption))

theorem State.gbScan_keeps {z₀ s : State} (hz : Keeps z₀ s) :
    Keeps z₀ (State.gbScan s) := by
  unfold State.gbScan
  repeat' (first
    | with_reducible assumption
    | with_reducible apply State.gbSync_keeps
    | with_reducible apply Keeps.setReg)

end Sys2Proof.Machine
end

