-- ==== Sys2Proof/Laws/KeepTimeBase.lean ====
section
/-! SUPPORT. The functions of Machine/TimeBase.lean keep the queue, what has been sent, and the invariant. -/

namespace Sys2Proof.Machine

theorem State.captureStrobe_keeps {z₀ s : State} (src : ℕ) (hz : Keeps z₀ s) :
    Keeps z₀ (State.captureStrobe s src) := by
  unfold State.captureStrobe
  repeat' (first
    | with_reducible assumption
    | with_reducible apply State.raise_keeps
    | with_reducible apply State.incSat_keeps
    | split
    | intro _ _ _
    | intro _ _
    | intro _
    | with_reducible refine Keeps.of2 (by with_reducible assumption) ?_
    | with_reducible refine Keeps.of1 (by with_reducible assumption) ?_
    | with_reducible refine Keeps.of3 (by with_reducible assumption) ?_
    | with_reducible refine Keeps.of4 (by with_reducible assumption) ?_
    | with_reducible apply Keeps.upto
    | with_reducible apply Keeps.foldl
    | with_reducible apply Keeps.foldl_snd_snd
    | with_reducible apply Keeps.foldl_snd
    | with_reducible apply Keeps.foldl_trd
    | with_reducible apply Keeps.foldl_fst_fst
    | with_reducible apply Keeps.foldl_fst
    | with_reducible apply Keeps.foldl_mid
    | dsimp only
    | (with_reducible apply Keeps.mk_other; with_reducible assumption)
    | (refine Keeps.mk_tables ?_ (by simp +contextual [State.tablesWf, swf_sput, swf_drop]); with_reducible assumption))

theorem State.takeCapture_keeps {z₀ s : State} (src : ℕ) (seq : ℕ) (hz : Keeps z₀ s) :
    Keeps z₀ (State.takeCapture s src seq).2 := by
  unfold State.takeCapture
  repeat' (first
    | with_reducible assumption
    | split
    | intro _ _ _
    | intro _ _
    | intro _
    | with_reducible refine Keeps.of2 (by with_reducible assumption) ?_
    | with_reducible refine Keeps.of1 (by with_reducible assumption) ?_
    | with_reducible refine Keeps.of3 (by with_reducible assumption) ?_
    | with_reducible refine Keeps.of4 (by with_reducible assumption) ?_
    | with_reducible apply Keeps.upto
    | with_reducible apply Keeps.foldl
    | with_reducible apply Keeps.foldl_snd_snd
    | with_reducible apply Keeps.foldl_snd
    | with_reducible apply Keeps.foldl_trd
    | with_reducible apply Keeps.foldl_fst_fst
    | with_reducible apply Keeps.foldl_fst
    | with_reducible apply Keeps.foldl_mid
    | dsimp only
    | (with_reducible apply Keeps.mk_other; with_reducible assumption))

theorem State.anchorWrite_keeps {z₀ s : State} (hz : Keeps z₀ s) :
    Keeps z₀ (State.anchorWrite s) := by
  unfold State.anchorWrite
  repeat' (first
    | with_reducible assumption
    | with_reducible apply State.incWrap_keeps
    | with_reducible apply State.wf_keeps)

theorem State.setExtSet_keeps {z₀ s : State} (hz : Keeps z₀ s) :
    Keeps z₀ (State.setExtSet s) := by
  unfold State.setExtSet
  repeat' (first
    | with_reducible assumption
    | with_reducible apply State.wb_keeps)

theorem State.setPtp_keeps {z₀ s : State} (p : ℕ) (v : Ptp) (hz : Keeps z₀ s) :
    Keeps z₀ (State.setPtp s p v) := by
  unfold State.setPtp
  repeat' (first
    | with_reducible assumption
    | split
    | intro _ _ _
    | intro _ _
    | intro _
    | with_reducible refine Keeps.of2 (by with_reducible assumption) ?_
    | with_reducible refine Keeps.of1 (by with_reducible assumption) ?_
    | with_reducible refine Keeps.of3 (by with_reducible assumption) ?_
    | with_reducible refine Keeps.of4 (by with_reducible assumption) ?_
    | with_reducible apply Keeps.upto
    | with_reducible apply Keeps.foldl
    | with_reducible apply Keeps.foldl_snd_snd
    | with_reducible apply Keeps.foldl_snd
    | with_reducible apply Keeps.foldl_trd
    | with_reducible apply Keeps.foldl_fst_fst
    | with_reducible apply Keeps.foldl_fst
    | with_reducible apply Keeps.foldl_mid
    | dsimp only
    | (with_reducible apply Keeps.mk_other; with_reducible assumption)
    | (refine Keeps.mk_tables ?_ (by simp +contextual [State.tablesWf, swf_sput, swf_drop]); with_reducible assumption))

theorem State.tuneMoves_keeps {z₀ s : State} (hz : Keeps z₀ s) :
    Keeps z₀ (State.tuneMoves s) := by
  unfold State.tuneMoves
  repeat' (first
    | with_reducible assumption
    | with_reducible apply State.tuneMove_keeps)

theorem State.holdTune_keeps {z₀ s : State} (hz : Keeps z₀ s) :
    Keeps z₀ (State.holdTune s) := by
  unfold State.holdTune
  repeat' (first
    | with_reducible assumption
    | with_reducible apply State.tuneMoves_keeps
    | with_reducible apply State.wf_keeps
    | with_reducible apply Keeps.setReg)

theorem State.setTimeState_keeps {z₀ s : State} (st : ℕ) (hz : Keeps z₀ s) :
    Keeps z₀ (State.setTimeState s st) := by
  unfold State.setTimeState
  repeat' (first
    | with_reducible assumption
    | with_reducible apply State.wf_keeps
    | with_reducible apply State.holdTune_keeps
    | with_reducible apply State.airSync_keeps
    | with_reducible apply State.raise_keeps
    | split
    | intro _ _ _
    | intro _ _
    | intro _
    | with_reducible refine Keeps.of2 (by with_reducible assumption) ?_
    | with_reducible refine Keeps.of1 (by with_reducible assumption) ?_
    | with_reducible refine Keeps.of3 (by with_reducible assumption) ?_
    | with_reducible refine Keeps.of4 (by with_reducible assumption) ?_
    | with_reducible apply Keeps.upto
    | with_reducible apply Keeps.foldl
    | with_reducible apply Keeps.foldl_snd_snd
    | with_reducible apply Keeps.foldl_snd
    | with_reducible apply Keeps.foldl_trd
    | with_reducible apply Keeps.foldl_fst_fst
    | with_reducible apply Keeps.foldl_fst
    | with_reducible apply Keeps.foldl_mid
    | dsimp only
    | (with_reducible apply Keeps.mk_other; first | with_reducible assumption | with_reducible apply State.wf_keeps | with_reducible apply State.holdTune_keeps))

theorem State.setSource_keeps {z₀ s : State} (src : ℕ) (port : ℕ) (hz : Keeps z₀ s) :
    Keeps z₀ (State.setSource s src port) := by
  unfold State.setSource
  repeat' (first
    | with_reducible assumption
    | with_reducible apply State.setTimeState_keeps
    | with_reducible apply State.wf_keeps
    | split)

theorem State.evin_keeps {z₀ s : State} (i : ℕ) (n : ℕ) (hz : Keeps z₀ s) :
    Keeps z₀ (State.evin s i n) := by
  unfold State.evin
  repeat' (first
    | with_reducible assumption
    | with_reducible apply State.wf_keeps
    | with_reducible apply State.incWrap_keeps)

theorem State.timeLock_keeps {z₀ s : State} (hz : Keeps z₀ s) :
    Keeps z₀ (State.timeLock s) := by
  unfold State.timeLock
  repeat' (first
    | with_reducible assumption
    | with_reducible apply State.setTimeState_keeps
    | split
    | intro _ _ _
    | intro _ _
    | intro _
    | with_reducible refine Keeps.of2 (by with_reducible assumption) ?_
    | with_reducible refine Keeps.of1 (by with_reducible assumption) ?_
    | with_reducible refine Keeps.of3 (by with_reducible assumption) ?_
    | with_reducible refine Keeps.of4 (by with_reducible assumption) ?_
    | with_reducible apply Keeps.upto
    | with_reducible apply Keeps.foldl
    | with_reducible apply Keeps.foldl_snd_snd
    | with_reducible apply Keeps.foldl_snd
    | with_reducible apply Keeps.foldl_trd
    | with_reducible apply Keeps.foldl_fst_fst
    | with_reducible apply Keeps.foldl_fst
    | with_reducible apply Keeps.foldl_mid
    | dsimp only)

theorem State.lockLoss_keeps {z₀ s : State} (hz : Keeps z₀ s) :
    Keeps z₀ (State.lockLoss s) := by
  unfold State.lockLoss
  repeat' (first
    | with_reducible assumption
    | with_reducible apply State.setTimeState_keeps
    | split
    | intro _ _ _
    | intro _ _
    | intro _
    | with_reducible refine Keeps.of2 (by with_reducible assumption) ?_
    | with_reducible refine Keeps.of1 (by with_reducible assumption) ?_
    | with_reducible refine Keeps.of3 (by with_reducible assumption) ?_
    | with_reducible refine Keeps.of4 (by with_reducible assumption) ?_
    | with_reducible apply Keeps.upto
    | with_reducible apply Keeps.foldl
    | with_reducible apply Keeps.foldl_snd_snd
    | with_reducible apply Keeps.foldl_snd
    | with_reducible apply Keeps.foldl_trd
    | with_reducible apply Keeps.foldl_fst_fst
    | with_reducible apply Keeps.foldl_fst
    | with_reducible apply Keeps.foldl_mid
    | dsimp only)

theorem State.sourceLost_keeps {z₀ s : State} (hz : Keeps z₀ s) :
    Keeps z₀ (State.sourceLost s) := by
  unfold State.sourceLost
  repeat' (first
    | with_reducible assumption
    | with_reducible apply State.setTimeState_keeps
    | split)

theorem State.sourceValid_keeps {z₀ s : State} (hz : Keeps z₀ s) :
    Keeps z₀ (State.sourceValid s) := by
  unfold State.sourceValid
  repeat' (first
    | with_reducible assumption
    | with_reducible apply State.setTimeState_keeps
    | split)

theorem State.holdExpire_keeps {z₀ s : State} (hz : Keeps z₀ s) :
    Keeps z₀ (State.holdExpire s) := by
  unfold State.holdExpire
  repeat' (first
    | with_reducible assumption
    | with_reducible apply State.setTimeState_keeps
    | split)

theorem State.setOffset_keeps {z₀ s : State} (o : ℤ) (sec : ℕ) (hz : Keeps z₀ s) :
    Keeps z₀ (State.setOffset s o sec) := by
  unfold State.setOffset
  repeat' (first
    | with_reducible assumption
    | with_reducible apply Keeps.setReg
    | with_reducible apply State.raise_keeps
    | split)

theorem State.loopUpdate_keeps {z₀ s : State} (freq : Option ℤ) (hz : Keeps z₀ s) :
    Keeps z₀ (State.loopUpdate s freq) := by
  unfold State.loopUpdate
  repeat' (first
    | with_reducible assumption
    | with_reducible apply Keeps.setReg
    | with_reducible apply State.draw_keeps
    | with_reducible apply State.wf_keeps
    | with_reducible apply State.aoDirect_keeps
    | split
    | intro _ _ _
    | intro _ _
    | intro _
    | with_reducible refine Keeps.of2 (by with_reducible assumption) ?_
    | with_reducible refine Keeps.of1 (by with_reducible assumption) ?_
    | with_reducible refine Keeps.of3 (by with_reducible assumption) ?_
    | with_reducible refine Keeps.of4 (by with_reducible assumption) ?_
    | with_reducible apply Keeps.upto
    | with_reducible apply Keeps.foldl
    | with_reducible apply Keeps.foldl_snd_snd
    | with_reducible apply Keeps.foldl_snd
    | with_reducible apply Keeps.foldl_trd
    | with_reducible apply Keeps.foldl_fst_fst
    | with_reducible apply Keeps.foldl_fst
    | with_reducible apply Keeps.foldl_mid
    | dsimp only
    | (with_reducible apply Keeps.mk_other; first | with_reducible assumption | with_reducible apply Keeps.setReg))

theorem State.tuneSave_keeps {z₀ s : State} (w : ℕ) (hz : Keeps z₀ s) :
    Keeps z₀ (State.tuneSave s w) := by
  unfold State.tuneSave
  repeat' (first
    | with_reducible assumption
    | with_reducible apply State.nvWrite_keeps
    | split
    | intro _ _ _
    | intro _ _
    | intro _
    | with_reducible refine Keeps.of2 (by with_reducible assumption) ?_
    | with_reducible refine Keeps.of1 (by with_reducible assumption) ?_
    | with_reducible refine Keeps.of3 (by with_reducible assumption) ?_
    | with_reducible refine Keeps.of4 (by with_reducible assumption) ?_
    | with_reducible apply Keeps.upto
    | with_reducible apply Keeps.foldl
    | with_reducible apply Keeps.foldl_snd_snd
    | with_reducible apply Keeps.foldl_snd
    | with_reducible apply Keeps.foldl_trd
    | with_reducible apply Keeps.foldl_fst_fst
    | with_reducible apply Keeps.foldl_fst
    | with_reducible apply Keeps.foldl_mid
    | dsimp only
    | (with_reducible apply Keeps.mk_other; first | with_reducible assumption | with_reducible apply State.nvWrite_keeps))

theorem State.captureHandler_keeps {z₀ s : State} (hz : Keeps z₀ s) :
    Keeps z₀ (State.captureHandler s) := by
  unfold State.captureHandler
  repeat' (first
    | with_reducible assumption
    | with_reducible apply State.raise_keeps
    | with_reducible apply State.incSat_keeps
    | with_reducible apply State.wf_keeps
    | with_reducible apply State.setOffset_keeps
    | split
    | intro _ _ _
    | intro _ _
    | intro _
    | with_reducible refine Keeps.of2 (by with_reducible assumption) ?_
    | with_reducible refine Keeps.of1 (by with_reducible assumption) ?_
    | with_reducible refine Keeps.of3 (by with_reducible assumption) ?_
    | with_reducible refine Keeps.of4 (by with_reducible assumption) ?_
    | with_reducible apply Keeps.upto
    | with_reducible apply Keeps.foldl
    | with_reducible apply Keeps.foldl_snd_snd
    | with_reducible apply Keeps.foldl_snd
    | with_reducible apply Keeps.foldl_trd
    | with_reducible apply Keeps.foldl_fst_fst
    | with_reducible apply Keeps.foldl_fst
    | with_reducible apply Keeps.foldl_mid
    | dsimp only
    | (with_reducible apply Keeps.mk_other; with_reducible assumption))

theorem State.ppsRise_keeps {z₀ s : State} (hz : Keeps z₀ s) :
    Keeps z₀ (State.ppsRise s) := by
  unfold State.ppsRise
  repeat' (first
    | with_reducible assumption
    | with_reducible apply Keeps.emit
    | split
    | intro _ _ _
    | intro _ _
    | intro _
    | with_reducible refine Keeps.of2 (by with_reducible assumption) ?_
    | with_reducible refine Keeps.of1 (by with_reducible assumption) ?_
    | with_reducible refine Keeps.of3 (by with_reducible assumption) ?_
    | with_reducible refine Keeps.of4 (by with_reducible assumption) ?_
    | with_reducible apply Keeps.upto
    | with_reducible apply Keeps.foldl
    | with_reducible apply Keeps.foldl_snd_snd
    | with_reducible apply Keeps.foldl_snd
    | with_reducible apply Keeps.foldl_trd
    | with_reducible apply Keeps.foldl_fst_fst
    | with_reducible apply Keeps.foldl_fst
    | with_reducible apply Keeps.foldl_mid
    | dsimp only
    | (with_reducible apply Keeps.mk_other; first | with_reducible assumption | with_reducible apply Keeps.emit))

theorem State.ppsFall_keeps {z₀ s : State} (hz : Keeps z₀ s) :
    Keeps z₀ (State.ppsFall s) := by
  unfold State.ppsFall
  repeat' (first
    | with_reducible assumption
    | with_reducible apply Keeps.emit
    | split
    | intro _ _ _
    | intro _ _
    | intro _
    | with_reducible refine Keeps.of2 (by with_reducible assumption) ?_
    | with_reducible refine Keeps.of1 (by with_reducible assumption) ?_
    | with_reducible refine Keeps.of3 (by with_reducible assumption) ?_
    | with_reducible refine Keeps.of4 (by with_reducible assumption) ?_
    | with_reducible apply Keeps.upto
    | with_reducible apply Keeps.foldl
    | with_reducible apply Keeps.foldl_snd_snd
    | with_reducible apply Keeps.foldl_snd
    | with_reducible apply Keeps.foldl_trd
    | with_reducible apply Keeps.foldl_fst_fst
    | with_reducible apply Keeps.foldl_fst
    | with_reducible apply Keeps.foldl_mid
    | dsimp only
    | (with_reducible apply Keeps.mk_other; first | with_reducible assumption | with_reducible apply Keeps.emit))

theorem State.announce_keeps {z₀ s : State} (p : ℕ) (domain : ℕ) (gm : ℕ) (cls : ℕ) (removed : ℕ) (hz : Keeps z₀ s) :
    Keeps z₀ (State.announce s p domain gm cls removed) := by
  unfold State.announce
  repeat' (first
    | with_reducible assumption
    | with_reducible apply State.setPtp_keeps
    | with_reducible apply State.raise_keeps
    | split
    | intro _ _ _
    | intro _ _
    | intro _
    | with_reducible refine Keeps.of2 (by with_reducible assumption) ?_
    | with_reducible refine Keeps.of1 (by with_reducible assumption) ?_
    | with_reducible refine Keeps.of3 (by with_reducible assumption) ?_
    | with_reducible refine Keeps.of4 (by with_reducible assumption) ?_
    | with_reducible apply Keeps.upto
    | with_reducible apply Keeps.foldl
    | with_reducible apply Keeps.foldl_snd_snd
    | with_reducible apply Keeps.foldl_snd
    | with_reducible apply Keeps.foldl_trd
    | with_reducible apply Keeps.foldl_fst_fst
    | with_reducible apply Keeps.foldl_fst
    | with_reducible apply Keeps.foldl_mid
    | dsimp only)

theorem State.syncReceive_keeps {z₀ s : State} (p : ℕ) (domain : ℕ) (seq : ℕ) (t1 : Option ℤ) (corr : ℤ) (hz : Keeps z₀ s) :
    Keeps z₀ (State.syncReceive s p domain seq t1 corr) := by
  unfold State.syncReceive
  repeat' (first
    | with_reducible assumption
    | with_reducible apply State.takeCapture_keeps
    | with_reducible apply State.setPtp_keeps
    | split)

theorem State.followUp_keeps {z₀ s : State} (p : ℕ) (domain : ℕ) (t1 : ℤ) (corr : ℤ) (hz : Keeps z₀ s) :
    Keeps z₀ (State.followUp s p domain t1 corr) := by
  unfold State.followUp
  repeat' (first
    | with_reducible assumption
    | with_reducible apply State.setPtp_keeps
    | split
    | intro _ _ _
    | intro _ _
    | intro _
    | with_reducible refine Keeps.of2 (by with_reducible assumption) ?_
    | with_reducible refine Keeps.of1 (by with_reducible assumption) ?_
    | with_reducible refine Keeps.of3 (by with_reducible assumption) ?_
    | with_reducible refine Keeps.of4 (by with_reducible assumption) ?_
    | with_reducible apply Keeps.upto
    | with_reducible apply Keeps.foldl
    | with_reducible apply Keeps.foldl_snd_snd
    | with_reducible apply Keeps.foldl_snd
    | with_reducible apply Keeps.foldl_trd
    | with_reducible apply Keeps.foldl_fst_fst
    | with_reducible apply Keeps.foldl_fst
    | with_reducible apply Keeps.foldl_mid
    | dsimp only)

theorem State.delayResp_keeps {z₀ s : State} (p : ℕ) (domain : ℕ) (t4 : ℤ) (corr : ℤ) (hz : Keeps z₀ s) :
    Keeps z₀ (State.delayResp s p domain t4 corr) := by
  unfold State.delayResp
  repeat' (first
    | with_reducible assumption
    | with_reducible apply State.draw_keeps
    | with_reducible apply State.setPtp_keeps
    | with_reducible apply State.setOffset_keeps
    | split
    | intro _ _ _
    | intro _ _
    | intro _
    | with_reducible refine Keeps.of2 (by with_reducible assumption) ?_
    | with_reducible refine Keeps.of1 (by with_reducible assumption) ?_
    | with_reducible refine Keeps.of3 (by with_reducible assumption) ?_
    | with_reducible refine Keeps.of4 (by with_reducible assumption) ?_
    | with_reducible apply Keeps.upto
    | with_reducible apply Keeps.foldl
    | with_reducible apply Keeps.foldl_snd_snd
    | with_reducible apply Keeps.foldl_snd
    | with_reducible apply Keeps.foldl_trd
    | with_reducible apply Keeps.foldl_fst_fst
    | with_reducible apply Keeps.foldl_fst
    | with_reducible apply Keeps.foldl_mid
    | dsimp only)

theorem State.announceSend_keeps {z₀ s : State} (p : ℕ) (hz : Keeps z₀ s) :
    Keeps z₀ (State.announceSend s p) := by
  unfold State.announceSend
  repeat' (first
    | with_reducible assumption
    | with_reducible apply Keeps.emit
    | split)

theorem State.syncSend_keeps {z₀ s : State} (p : ℕ) (hz : Keeps z₀ s) :
    Keeps z₀ (State.syncSend s p) := by
  unfold State.syncSend
  repeat' (first
    | with_reducible assumption
    | with_reducible apply Keeps.emit
    | split
    | intro _ _ _
    | intro _ _
    | intro _
    | with_reducible refine Keeps.of2 (by with_reducible assumption) ?_
    | with_reducible refine Keeps.of1 (by with_reducible assumption) ?_
    | with_reducible refine Keeps.of3 (by with_reducible assumption) ?_
    | with_reducible refine Keeps.of4 (by with_reducible assumption) ?_
    | with_reducible apply Keeps.upto
    | with_reducible apply Keeps.foldl
    | with_reducible apply Keeps.foldl_snd_snd
    | with_reducible apply Keeps.foldl_snd
    | with_reducible apply Keeps.foldl_trd
    | with_reducible apply Keeps.foldl_fst_fst
    | with_reducible apply Keeps.foldl_fst
    | with_reducible apply Keeps.foldl_mid
    | dsimp only)

theorem State.delayReqSend_keeps {z₀ s : State} (p : ℕ) (hz : Keeps z₀ s) :
    Keeps z₀ (State.delayReqSend s p) := by
  unfold State.delayReqSend
  repeat' (first
    | with_reducible assumption
    | with_reducible apply State.setPtp_keeps
    | with_reducible apply Keeps.emit
    | split)

theorem State.delayReq_keeps {z₀ s : State} (p : ℕ) (domain : ℕ) (seq : ℕ) (requester : ℕ) (hz : Keeps z₀ s) :
    Keeps z₀ (State.delayReq s p domain seq requester) := by
  unfold State.delayReq
  repeat' (first
    | with_reducible assumption
    | with_reducible apply State.takeCapture_keeps
    | with_reducible apply Keeps.emit
    | split
    | intro _ _ _
    | intro _ _
    | intro _
    | with_reducible refine Keeps.of2 (by with_reducible assumption) ?_)

end Sys2Proof.Machine
end

