-- ==== Sys2Proof/Laws/KeepBus.lean ====
section
/-! SUPPORT. The functions of Machine/Bus.lean keep the queue, what has been sent, and the invariant. -/

namespace Sys2Proof.Machine

theorem State.unitRefuses_keeps {z₀ s t : State} {src tag a st i : ℕ} (e : s.unitRefuses src tag a = some (st, i, t))
    (hz : Keeps z₀ s) : Keeps z₀ t := by
  unfold State.unitRefuses at e
  dsimp only at e
  split at e
  · injection e with e; injection e with _ e; injection e with _ e
    exact e ▸ State.asleepAnswer_keeps _ _ _ _ _ hz
  · split at e
    · injection e with e; injection e with _ e; injection e with _ e
      exact e ▸ State.errCapture_keeps _ _ _ _ _ hz
    · exact nomatch e

theorem State.hostBytes_keeps {z₀ s : State} (n : ℕ) (hz : Keeps z₀ s) :
    Keeps z₀ (State.hostBytes s n).2 := by
  unfold State.hostBytes
  repeat' (first
    | with_reducible assumption
    | with_reducible apply State.drawBytes_keeps
    | split
    | intro _ _ _
    | intro _ _
    | intro _
    | with_reducible refine Keeps.of2 (by with_reducible assumption) ?_
    | with_reducible refine Keeps.of1 (by with_reducible assumption) ?_
    | with_reducible refine Keeps.of3 (by with_reducible assumption) ?_
    | with_reducible refine Keeps.of4 (by with_reducible assumption) ?_
    | with_reducible apply Keeps.upto
    | with_reducible apply Keeps.foldl
    | with_reducible apply Keeps.foldl_snd_snd
    | with_reducible apply Keeps.foldl_snd
    | with_reducible apply Keeps.foldl_trd
    | with_reducible apply Keeps.foldl_fst_fst
    | with_reducible apply Keeps.foldl_fst
    | with_reducible apply Keeps.foldl_mid
    | dsimp only
    | (with_reducible apply Keeps.mk_other; first | with_reducible assumption | with_reducible apply State.drawBytes_keeps))

theorem State.targetRead_keeps {z₀ s : State} (a : ℕ) (n : ℕ) (hz : Keeps z₀ s) :
    Keeps z₀ (State.targetRead s a n).2.2 := by
  unfold State.targetRead
  repeat' (first
    | with_reducible assumption
    | with_reducible apply State.hostLinkEvent_keeps
    | with_reducible apply Keeps.emit
    | with_reducible apply State.hostBytes_keeps
    | with_reducible apply State.memLoad_keeps
    | with_reducible apply State.drawBytes_keeps
    | with_reducible apply State.viewLine_keeps
    | with_reducible apply State.crDecode_keeps
    | with_reducible apply State.hazard_keeps
    | split
    | intro _ _ _
    | intro _ _
    | intro _
    | with_reducible refine Keeps.of2 (by with_reducible assumption) ?_
    | with_reducible refine Keeps.of1 (by with_reducible assumption) ?_
    | with_reducible refine Keeps.of3 (by with_reducible assumption) ?_
    | with_reducible refine Keeps.of4 (by with_reducible assumption) ?_
    | with_reducible apply Keeps.upto
    | with_reducible apply Keeps.foldl
    | with_reducible apply Keeps.foldl_snd_snd
    | with_reducible apply Keeps.foldl_snd
    | with_reducible apply Keeps.foldl_trd
    | with_reducible apply Keeps.foldl_fst_fst
    | with_reducible apply Keeps.foldl_fst
    | with_reducible apply Keeps.foldl_mid
    | dsimp only
    | (with_reducible apply Keeps.mk_other
       first
       | with_reducible assumption
       | with_reducible apply State.hostLinkEvent_keeps
       | with_reducible apply Keeps.emit
       | with_reducible apply State.hostBytes_keeps
       | with_reducible apply State.memLoad_keeps
       | with_reducible apply State.drawBytes_keeps
       | with_reducible apply State.viewLine_keeps
       | with_reducible apply State.crDecode_keeps
       | with_reducible apply State.hazard_keeps
       | split
       | intro _ _ _
       | intro _ _
       | intro _
       | with_reducible refine Keeps.of2 (by with_reducible assumption) ?_
       | with_reducible refine Keeps.of1 (by with_reducible assumption) ?_
       | with_reducible refine Keeps.of3 (by with_reducible assumption) ?_
       | with_reducible refine Keeps.of4 (by with_reducible assumption) ?_
       | with_reducible apply Keeps.upto
       | with_reducible apply Keeps.foldl
       | with_reducible apply Keeps.foldl_snd_snd
       | with_reducible apply Keeps.foldl_snd
       | with_reducible apply Keeps.foldl_trd
       | with_reducible apply Keeps.foldl_fst_fst
       | with_reducible apply Keeps.foldl_fst
       | with_reducible apply Keeps.foldl_mid
       | dsimp only)
    | (refine Keeps.mk_tables ?_ (by simp +contextual [State.tablesWf, swf_sput, swf_drop, swf])
       first
       | with_reducible assumption
       | with_reducible apply State.hostLinkEvent_keeps
       | with_reducible apply Keeps.emit
       | with_reducible apply State.hostBytes_keeps
       | with_reducible apply State.memLoad_keeps
       | with_reducible apply State.drawBytes_keeps
       | with_reducible apply State.viewLine_keeps
       | with_reducible apply State.crDecode_keeps
       | with_reducible apply State.hazard_keeps
       | split
       | intro _ _ _
       | intro _ _
       | intro _
       | with_reducible refine Keeps.of2 (by with_reducible assumption) ?_
       | with_reducible refine Keeps.of1 (by with_reducible assumption) ?_
       | with_reducible refine Keeps.of3 (by with_reducible assumption) ?_
       | with_reducible refine Keeps.of4 (by with_reducible assumption) ?_
       | with_reducible apply Keeps.upto
       | with_reducible apply Keeps.foldl
       | with_reducible apply Keeps.foldl_snd_snd
       | with_reducible apply Keeps.foldl_snd
       | with_reducible apply Keeps.foldl_trd
       | with_reducible apply Keeps.foldl_fst_fst
       | with_reducible apply Keeps.foldl_fst
       | with_reducible apply Keeps.foldl_mid
       | dsimp only))

theorem State.lineRead_keeps {z₀ s : State} (src : ℕ) (tag : ℕ) (a : ℕ) (n : ℕ) (hz : Keeps z₀ s) :
    Keeps z₀ (State.lineRead s src tag a n).2.2.2 := by
  unfold State.lineRead
  repeat' (first
    | with_reducible assumption
    | with_reducible apply State.gate_keeps
    | with_reducible refine State.unitRefuses_keeps (by with_reducible assumption) ?_
    | with_reducible apply State.targetRead_keeps
    | split
    | intro _ _ _
    | intro _ _
    | intro _
    | with_reducible refine Keeps.of2 (by with_reducible assumption) ?_
    | with_reducible refine Keeps.of1 (by with_reducible assumption) ?_
    | with_reducible refine Keeps.of3 (by with_reducible assumption) ?_)

theorem State.busRead_keeps {z₀ s : State} (src : ℕ) (a : ℕ) (n : ℕ) (hz : Keeps z₀ s) :
    Keeps z₀ (State.busRead s src a n).2.2 := by
  unfold State.busRead
  repeat' (first
    | with_reducible assumption
    | with_reducible apply State.draw_keeps
    | with_reducible apply State.lineRead_keeps
    | split
    | intro _ _ _
    | intro _ _
    | intro _
    | with_reducible refine Keeps.of2 (by with_reducible assumption) ?_
    | with_reducible refine Keeps.of1 (by with_reducible assumption) ?_
    | with_reducible refine Keeps.of3 (by with_reducible assumption) ?_
    | with_reducible refine Keeps.of4 (by with_reducible assumption) ?_
    | with_reducible apply Keeps.upto
    | with_reducible apply Keeps.foldl
    | with_reducible apply Keeps.foldl_snd_snd)

theorem State.sendNotice_keeps {z₀ s : State} (k : ℕ) (u : ℕ) (n : ℕ) (d : ℕ) (tag : ℕ) (detail : ℕ) (addr : ℕ) (stale : Bool) (hz : Keeps z₀ s) :
    Keeps z₀ (State.sendNotice s k u n d tag detail addr stale) := by
  unfold State.sendNotice
  repeat' (first
    | with_reducible assumption
    | with_reducible apply State.draw_keeps
    | with_reducible apply State.gate_keeps
    | with_reducible apply State.intakeNotice_keeps
    | split
    | intro _ _ _
    | intro _ _
    | intro _
    | with_reducible refine Keeps.of2 (by with_reducible assumption) ?_
    | with_reducible refine Keeps.of1 (by with_reducible assumption) ?_
    | with_reducible refine Keeps.of3 (by with_reducible assumption) ?_
    | with_reducible refine Keeps.of4 (by with_reducible assumption) ?_
    | with_reducible apply Keeps.upto
    | with_reducible apply Keeps.foldl
    | with_reducible apply Keeps.foldl_snd_snd
    | with_reducible apply Keeps.foldl_snd
    | with_reducible apply Keeps.foldl_trd
    | with_reducible apply Keeps.foldl_fst_fst
    | with_reducible apply Keeps.foldl_fst
    | with_reducible apply Keeps.foldl_mid
    | dsimp only
    | (with_reducible apply Keeps.mk_other
       first
       | with_reducible assumption
       | with_reducible apply State.draw_keeps
       | with_reducible apply State.gate_keeps
       | with_reducible apply State.intakeNotice_keeps
       | split
       | intro _ _ _
       | intro _ _
       | intro _
       | with_reducible refine Keeps.of2 (by with_reducible assumption) ?_
       | with_reducible refine Keeps.of1 (by with_reducible assumption) ?_
       | with_reducible refine Keeps.of3 (by with_reducible assumption) ?_
       | with_reducible refine Keeps.of4 (by with_reducible assumption) ?_
       | with_reducible apply Keeps.upto
       | with_reducible apply Keeps.foldl
       | with_reducible apply Keeps.foldl_snd_snd
       | with_reducible apply Keeps.foldl_snd
       | with_reducible apply Keeps.foldl_trd
       | with_reducible apply Keeps.foldl_fst_fst
       | with_reducible apply Keeps.foldl_fst
       | with_reducible apply Keeps.foldl_mid
       | dsimp only)
    | (refine Keeps.mk_tables ?_ (by simp +contextual [State.tablesWf, swf_sput, swf_drop, swf])
       first
       | with_reducible assumption
       | with_reducible apply State.draw_keeps
       | with_reducible apply State.gate_keeps
       | with_reducible apply State.intakeNotice_keeps
       | split
       | intro _ _ _
       | intro _ _
       | intro _
       | with_reducible refine Keeps.of2 (by with_reducible assumption) ?_
       | with_reducible refine Keeps.of1 (by with_reducible assumption) ?_
       | with_reducible refine Keeps.of3 (by with_reducible assumption) ?_
       | with_reducible refine Keeps.of4 (by with_reducible assumption) ?_
       | with_reducible apply Keeps.upto
       | with_reducible apply Keeps.foldl
       | with_reducible apply Keeps.foldl_snd_snd
       | with_reducible apply Keeps.foldl_snd
       | with_reducible apply Keeps.foldl_trd
       | with_reducible apply Keeps.foldl_fst_fst
       | with_reducible apply Keeps.foldl_fst
       | with_reducible apply Keeps.foldl_mid
       | dsimp only))

theorem State.portCommand_keeps {z₀ s : State} (k : ℕ) (u : ℕ) (src : ℕ) (data : ℕ) (hz : Keeps z₀ s) :
    Keeps z₀ (State.portCommand s k u src data) := by
  unfold State.portCommand
  repeat' (first
    | with_reducible assumption
    | with_reducible apply State.intakeCommand_keeps
    | with_reducible apply State.sendNotice_keeps
    | split
    | intro _ _ _
    | intro _ _
    | intro _
    | with_reducible refine Keeps.of2 (by with_reducible assumption) ?_
    | with_reducible refine Keeps.of1 (by with_reducible assumption) ?_
    | with_reducible refine Keeps.of3 (by with_reducible assumption) ?_
    | with_reducible refine Keeps.of4 (by with_reducible assumption) ?_
    | with_reducible apply Keeps.upto
    | with_reducible apply Keeps.foldl
    | with_reducible apply Keeps.foldl_snd_snd
    | with_reducible apply Keeps.foldl_snd
    | with_reducible apply Keeps.foldl_trd
    | with_reducible apply Keeps.foldl_fst_fst
    | with_reducible apply Keeps.foldl_fst
    | with_reducible apply Keeps.foldl_mid
    | dsimp only
    | (with_reducible apply Keeps.mk_other
       first
       | with_reducible assumption
       | with_reducible apply State.intakeCommand_keeps
       | with_reducible apply State.sendNotice_keeps
       | split
       | intro _ _ _
       | intro _ _
       | intro _
       | with_reducible refine Keeps.of2 (by with_reducible assumption) ?_
       | with_reducible refine Keeps.of1 (by with_reducible assumption) ?_
       | with_reducible refine Keeps.of3 (by with_reducible assumption) ?_
       | with_reducible refine Keeps.of4 (by with_reducible assumption) ?_
       | with_reducible apply Keeps.upto
       | with_reducible apply Keeps.foldl
       | with_reducible apply Keeps.foldl_snd_snd
       | with_reducible apply Keeps.foldl_snd
       | with_reducible apply Keeps.foldl_trd
       | with_reducible apply Keeps.foldl_fst_fst
       | with_reducible apply Keeps.foldl_fst
       | with_reducible apply Keeps.foldl_mid
       | dsimp only)
    | (refine Keeps.mk_tables ?_ (by simp +contextual [State.tablesWf, swf_sput, swf_drop, swf])
       first
       | with_reducible assumption
       | with_reducible apply State.intakeCommand_keeps
       | with_reducible apply State.sendNotice_keeps
       | split
       | intro _ _ _
       | intro _ _
       | intro _
       | with_reducible refine Keeps.of2 (by with_reducible assumption) ?_
       | with_reducible refine Keeps.of1 (by with_reducible assumption) ?_
       | with_reducible refine Keeps.of3 (by with_reducible assumption) ?_
       | with_reducible refine Keeps.of4 (by with_reducible assumption) ?_
       | with_reducible apply Keeps.upto
       | with_reducible apply Keeps.foldl
       | with_reducible apply Keeps.foldl_snd_snd
       | with_reducible apply Keeps.foldl_snd
       | with_reducible apply Keeps.foldl_trd
       | with_reducible apply Keeps.foldl_fst_fst
       | with_reducible apply Keeps.foldl_fst
       | with_reducible apply Keeps.foldl_mid
       | dsimp only))

theorem State.portNotice_keeps {z₀ s : State} (k : ℕ) (src : ℕ) (data : ℕ) (hz : Keeps z₀ s) :
    Keeps z₀ (State.portNotice s k src data) := by
  unfold State.portNotice
  repeat' (first
    | with_reducible assumption
    | with_reducible apply State.intakeNotice_keeps)

theorem State.cxLine_keeps {z₀ s : State} (k : ℕ) (src : ℕ) (o : ℕ) (en : ℕ) (data : ℕ) (hz : Keeps z₀ s) :
    Keeps z₀ (State.cxLine s k src o en data) := by
  unfold State.cxLine
  repeat' (first
    | with_reducible assumption
    | with_reducible apply State.portCommand_keeps
    | with_reducible apply State.raise_keeps
    | with_reducible apply State.portNotice_keeps
    | with_reducible apply State.hazard_keeps
    | with_reducible apply State.crMerge_keeps
    | split)

theorem State.setRegWide_keeps {z₀ s : State} (a : ℕ) (w : ℕ) (v : ℕ) (hz : Keeps z₀ s) :
    Keeps z₀ (State.setRegWide s a w v) := by
  unfold State.setRegWide
  repeat' (first
    | with_reducible assumption
    | with_reducible apply Keeps.setReg
    | split)

theorem State.plainWrite_keeps {z₀ s : State} (src : ℕ) (a : ℕ) (r : RegRow) (v : ℕ) (en : ℕ) (hz : Keeps z₀ s) :
    Keeps z₀ (State.plainWrite s src a r v en) := by
  unfold State.plainWrite
  repeat' (first
    | with_reducible assumption
    | with_reducible apply State.setRegWide_keeps
    | with_reducible apply State.raise_keeps
    | split
    | intro _ _ _
    | intro _ _
    | intro _
    | with_reducible refine Keeps.of2 (by with_reducible assumption) ?_
    | with_reducible refine Keeps.of1 (by with_reducible assumption) ?_
    | with_reducible refine Keeps.of3 (by with_reducible assumption) ?_
    | with_reducible refine Keeps.of4 (by with_reducible assumption) ?_
    | with_reducible apply Keeps.upto
    | with_reducible apply Keeps.foldl
    | with_reducible apply Keeps.foldl_snd_snd
    | with_reducible apply Keeps.foldl_snd
    | with_reducible apply Keeps.foldl_trd
    | with_reducible apply Keeps.foldl_fst_fst
    | with_reducible apply Keeps.foldl_fst
    | with_reducible apply Keeps.foldl_mid
    | dsimp only)

theorem State.regWrite_keeps {z₀ s : State} (src : ℕ) (r : RegRow) (ix : List ℕ) (v : ℕ) (en : ℕ) (hz : Keeps z₀ s) :
    Keeps z₀ (State.regWrite s src r ix v en) := by
  unfold State.regWrite
  repeat' (first
    | with_reducible assumption
    | with_reducible apply State.ptBaseWrite_keeps
    | with_reducible apply State.ptLenWrite_keeps
    | with_reducible apply State.ptTailWrite_keeps
    | with_reducible apply State.ptCtlWrite_keeps
    | with_reducible apply State.rxGrpWrite_keeps
    | with_reducible apply State.portCfgSync_keeps
    | with_reducible apply State.plainWrite_keeps
    | with_reducible apply State.laneCfgSync_keeps
    | with_reducible apply State.draw_keeps
    | with_reducible apply State.aoFaultClear_keeps
    | with_reducible apply State.aonSend_keeps
    | with_reducible apply Keeps.setReg
    | with_reducible apply State.eccClear_keeps
    | with_reducible apply State.ringError_keeps
    | with_reducible apply State.ringCtlWrite_keeps
    | with_reducible apply State.bindWrite_keeps
    | with_reducible apply State.flowWrite_keeps
    | with_reducible apply State.unitRecovered_keeps
    | with_reducible apply State.wf_keeps
    | split
    | intro _ _ _
    | intro _ _
    | intro _
    | with_reducible refine Keeps.of2 (by with_reducible assumption) ?_
    | with_reducible refine Keeps.of1 (by with_reducible assumption) ?_
    | with_reducible refine Keeps.of3 (by with_reducible assumption) ?_
    | with_reducible refine Keeps.of4 (by with_reducible assumption) ?_
    | with_reducible apply Keeps.upto
    | with_reducible apply Keeps.foldl
    | with_reducible apply Keeps.foldl_snd_snd
    | with_reducible apply Keeps.foldl_snd
    | with_reducible apply Keeps.foldl_trd
    | with_reducible apply Keeps.foldl_fst_fst
    | with_reducible apply Keeps.foldl_fst
    | with_reducible apply Keeps.foldl_mid
    | dsimp only
    | (with_reducible apply Keeps.mk_other
       first
       | with_reducible assumption
       | with_reducible apply State.ptBaseWrite_keeps
       | with_reducible apply State.ptLenWrite_keeps
       | with_reducible apply State.ptTailWrite_keeps
       | with_reducible apply State.ptCtlWrite_keeps
       | with_reducible apply State.rxGrpWrite_keeps
       | with_reducible apply State.portCfgSync_keeps
       | with_reducible apply State.plainWrite_keeps
       | with_reducible apply State.laneCfgSync_keeps
       | with_reducible apply State.draw_keeps
       | with_reducible apply State.aoFaultClear_keeps
       | with_reducible apply State.aonSend_keeps
       | with_reducible apply Keeps.setReg
       | with_reducible apply State.eccClear_keeps
       | with_reducible apply State.ringError_keeps
       | with_reducible apply State.ringCtlWrite_keeps
       | with_reducible apply State.bindWrite_keeps
       | with_reducible apply State.flowWrite_keeps
       | with_reducible apply State.unitRecovered_keeps
       | with_reducible apply State.wf_keeps
       | split
       | intro _ _ _
       | intro _ _
       | intro _
       | with_reducible refine Keeps.of2 (by with_reducible assumption) ?_
       | with_reducible refine Keeps.of1 (by with_reducible assumption) ?_
       | with_reducible refine Keeps.of3 (by with_reducible assumption) ?_
       | with_reducible refine Keeps.of4 (by with_reducible assumption) ?_
       | with_reducible apply Keeps.upto
       | with_reducible apply Keeps.foldl
       | with_reducible apply Keeps.foldl_snd_snd
       | with_reducible apply Keeps.foldl_snd
       | with_reducible apply Keeps.foldl_trd
       | with_reducible apply Keeps.foldl_fst_fst
       | with_reducible apply Keeps.foldl_fst
       | with_reducible apply Keeps.foldl_mid
       | dsimp only)
    | (refine Keeps.mk_tables ?_ (by simp +contextual [State.tablesWf, swf_sput, swf_drop, swf])
       first
       | with_reducible assumption
       | with_reducible apply State.ptBaseWrite_keeps
       | with_reducible apply State.ptLenWrite_keeps
       | with_reducible apply State.ptTailWrite_keeps
       | with_reducible apply State.ptCtlWrite_keeps
       | with_reducible apply State.rxGrpWrite_keeps
       | with_reducible apply State.portCfgSync_keeps
       | with_reducible apply State.plainWrite_keeps
       | with_reducible apply State.laneCfgSync_keeps
       | with_reducible apply State.draw_keeps
       | with_reducible apply State.aoFaultClear_keeps
       | with_reducible apply State.aonSend_keeps
       | with_reducible apply Keeps.setReg
       | with_reducible apply State.eccClear_keeps
       | with_reducible apply State.ringError_keeps
       | with_reducible apply State.ringCtlWrite_keeps
       | with_reducible apply State.bindWrite_keeps
       | with_reducible apply State.flowWrite_keeps
       | with_reducible apply State.unitRecovered_keeps
       | with_reducible apply State.wf_keeps
       | split
       | intro _ _ _
       | intro _ _
       | intro _
       | with_reducible refine Keeps.of2 (by with_reducible assumption) ?_
       | with_reducible refine Keeps.of1 (by with_reducible assumption) ?_
       | with_reducible refine Keeps.of3 (by with_reducible assumption) ?_
       | with_reducible refine Keeps.of4 (by with_reducible assumption) ?_
       | with_reducible apply Keeps.upto
       | with_reducible apply Keeps.foldl
       | with_reducible apply Keeps.foldl_snd_snd
       | with_reducible apply Keeps.foldl_snd
       | with_reducible apply Keeps.foldl_trd
       | with_reducible apply Keeps.foldl_fst_fst
       | with_reducible apply Keeps.foldl_fst
       | with_reducible apply Keeps.foldl_mid
       | dsimp only))

theorem State.regsPass_keeps {z₀ s : State} (p : RegRow → Bool) (src : ℕ) (line : ℕ) (en : ℕ) (data : ℕ) (hz : Keeps z₀ s) :
    Keeps z₀ (State.regsPass s p src line en data) := by
  unfold State.regsPass
  repeat' (first
    | with_reducible assumption
    | with_reducible apply State.regWrite_keeps
    | split
    | intro _ _ _
    | intro _ _
    | intro _
    | with_reducible refine Keeps.of2 (by with_reducible assumption) ?_
    | with_reducible refine Keeps.of1 (by with_reducible assumption) ?_
    | with_reducible refine Keeps.of3 (by with_reducible assumption) ?_
    | with_reducible refine Keeps.of4 (by with_reducible assumption) ?_
    | with_reducible apply Keeps.upto
    | with_reducible apply Keeps.foldl
    | with_reducible apply Keeps.foldl_snd_snd
    | with_reducible apply Keeps.foldl_snd
    | with_reducible apply Keeps.foldl_trd
    | with_reducible apply Keeps.foldl_fst_fst
    | with_reducible apply Keeps.foldl_fst
    | with_reducible apply Keeps.foldl_mid
    | dsimp only
    | (with_reducible apply Keeps.mk_other
       first
       | with_reducible assumption
       | with_reducible apply State.regWrite_keeps
       | split
       | intro _ _ _
       | intro _ _
       | intro _
       | with_reducible refine Keeps.of2 (by with_reducible assumption) ?_
       | with_reducible refine Keeps.of1 (by with_reducible assumption) ?_
       | with_reducible refine Keeps.of3 (by with_reducible assumption) ?_
       | with_reducible refine Keeps.of4 (by with_reducible assumption) ?_
       | with_reducible apply Keeps.upto
       | with_reducible apply Keeps.foldl
       | with_reducible apply Keeps.foldl_snd_snd
       | with_reducible apply Keeps.foldl_snd
       | with_reducible apply Keeps.foldl_trd
       | with_reducible apply Keeps.foldl_fst_fst
       | with_reducible apply Keeps.foldl_fst
       | with_reducible apply Keeps.foldl_mid
       | dsimp only)
    | (refine Keeps.mk_tables ?_ (by simp +contextual [State.tablesWf, swf_sput, swf_drop, swf])
       first
       | with_reducible assumption
       | with_reducible apply State.regWrite_keeps
       | split
       | intro _ _ _
       | intro _ _
       | intro _
       | with_reducible refine Keeps.of2 (by with_reducible assumption) ?_
       | with_reducible refine Keeps.of1 (by with_reducible assumption) ?_
       | with_reducible refine Keeps.of3 (by with_reducible assumption) ?_
       | with_reducible refine Keeps.of4 (by with_reducible assumption) ?_
       | with_reducible apply Keeps.upto
       | with_reducible apply Keeps.foldl
       | with_reducible apply Keeps.foldl_snd_snd
       | with_reducible apply Keeps.foldl_snd
       | with_reducible apply Keeps.foldl_trd
       | with_reducible apply Keeps.foldl_fst_fst
       | with_reducible apply Keeps.foldl_fst
       | with_reducible apply Keeps.foldl_mid
       | dsimp only))

theorem State.regsLine_keeps {z₀ s : State} (src : ℕ) (line : ℕ) (en : ℕ) (data : ℕ) (hz : Keeps z₀ s) :
    Keeps z₀ (State.regsLine s src line en data) := by
  unfold State.regsLine
  repeat' (first
    | with_reducible assumption
    | with_reducible apply State.regsPass_keeps
    | split
    | intro _ _ _
    | intro _ _
    | intro _
    | with_reducible refine Keeps.of2 (by with_reducible assumption) ?_
    | with_reducible refine Keeps.of1 (by with_reducible assumption) ?_
    | with_reducible refine Keeps.of3 (by with_reducible assumption) ?_
    | with_reducible refine Keeps.of4 (by with_reducible assumption) ?_
    | with_reducible apply Keeps.upto
    | with_reducible apply Keeps.foldl
    | with_reducible apply Keeps.foldl_snd_snd
    | with_reducible apply Keeps.foldl_snd
    | with_reducible apply Keeps.foldl_trd
    | with_reducible apply Keeps.foldl_fst_fst
    | with_reducible apply Keeps.foldl_fst
    | with_reducible apply Keeps.foldl_mid
    | dsimp only
    | (with_reducible apply Keeps.mk_other
       first
       | with_reducible assumption
       | with_reducible apply State.regsPass_keeps
       | split
       | intro _ _ _
       | intro _ _
       | intro _
       | with_reducible refine Keeps.of2 (by with_reducible assumption) ?_
       | with_reducible refine Keeps.of1 (by with_reducible assumption) ?_
       | with_reducible refine Keeps.of3 (by with_reducible assumption) ?_
       | with_reducible refine Keeps.of4 (by with_reducible assumption) ?_
       | with_reducible apply Keeps.upto
       | with_reducible apply Keeps.foldl
       | with_reducible apply Keeps.foldl_snd_snd
       | with_reducible apply Keeps.foldl_snd
       | with_reducible apply Keeps.foldl_trd
       | with_reducible apply Keeps.foldl_fst_fst
       | with_reducible apply Keeps.foldl_fst
       | with_reducible apply Keeps.foldl_mid
       | dsimp only)
    | (refine Keeps.mk_tables ?_ (by simp +contextual [State.tablesWf, swf_sput, swf_drop, swf])
       first
       | with_reducible assumption
       | with_reducible apply State.regsPass_keeps
       | split
       | intro _ _ _
       | intro _ _
       | intro _
       | with_reducible refine Keeps.of2 (by with_reducible assumption) ?_
       | with_reducible refine Keeps.of1 (by with_reducible assumption) ?_
       | with_reducible refine Keeps.of3 (by with_reducible assumption) ?_
       | with_reducible refine Keeps.of4 (by with_reducible assumption) ?_
       | with_reducible apply Keeps.upto
       | with_reducible apply Keeps.foldl
       | with_reducible apply Keeps.foldl_snd_snd
       | with_reducible apply Keeps.foldl_snd
       | with_reducible apply Keeps.foldl_trd
       | with_reducible apply Keeps.foldl_fst_fst
       | with_reducible apply Keeps.foldl_fst
       | with_reducible apply Keeps.foldl_mid
       | dsimp only))

theorem State.raIntakeLine_keeps {z₀ s : State} (r : ℕ) (src : ℕ) (line : ℕ) (en : ℕ) (data : ℕ) (hz : Keeps z₀ s) :
    Keeps z₀ (State.raIntakeLine s r src line en data) := by
  unfold State.raIntakeLine
  repeat' (first
    | with_reducible assumption
    | with_reducible apply State.intakeJob_keeps
    | with_reducible apply State.raise_keeps
    | split
    | intro _ _ _
    | intro _ _
    | intro _
    | with_reducible refine Keeps.of2 (by with_reducible assumption) ?_
    | with_reducible refine Keeps.of1 (by with_reducible assumption) ?_
    | with_reducible refine Keeps.of3 (by with_reducible assumption) ?_
    | with_reducible refine Keeps.of4 (by with_reducible assumption) ?_
    | with_reducible apply Keeps.upto
    | with_reducible apply Keeps.foldl
    | with_reducible apply Keeps.foldl_snd_snd
    | with_reducible apply Keeps.foldl_snd
    | with_reducible apply Keeps.foldl_trd
    | with_reducible apply Keeps.foldl_fst_fst
    | with_reducible apply Keeps.foldl_fst
    | with_reducible apply Keeps.foldl_mid
    | dsimp only)

theorem State.egressPort_keeps {z₀ s : State} (src : ℕ) (k : WrKind) (en : ℕ) (data : ℕ) (hz : Keeps z₀ s) :
    Keeps z₀ (State.egressPort s src k en data) := by
  unfold State.egressPort
  repeat' (first
    | with_reducible assumption
    | with_reducible apply State.raise_keeps
    | split
    | intro _ _ _
    | intro _ _
    | intro _
    | with_reducible refine Keeps.of2 (by with_reducible assumption) ?_
    | with_reducible refine Keeps.of1 (by with_reducible assumption) ?_
    | with_reducible refine Keeps.of3 (by with_reducible assumption) ?_
    | with_reducible refine Keeps.of4 (by with_reducible assumption) ?_
    | with_reducible apply Keeps.upto
    | with_reducible apply Keeps.foldl
    | with_reducible apply Keeps.foldl_snd_snd
    | with_reducible apply Keeps.foldl_snd
    | with_reducible apply Keeps.foldl_trd
    | with_reducible apply Keeps.foldl_fst_fst
    | with_reducible apply Keeps.foldl_fst
    | with_reducible apply Keeps.foldl_mid
    | dsimp only
    | (with_reducible apply Keeps.mk_other; with_reducible assumption))

theorem State.ethLine_keeps {z₀ s : State} (src : ℕ) (p : ℕ) (o : ℕ) (line : ℕ) (en : ℕ) (data : ℕ) (hz : Keeps z₀ s) :
    Keeps z₀ (State.ethLine s src p o line en data) := by
  unfold State.ethLine
  repeat' (first
    | with_reducible assumption
    | with_reducible apply State.txEntry_keeps
    | with_reducible apply State.txEntryEvent_keeps
    | with_reducible apply State.rxArm_keeps
    | with_reducible apply State.rxConsume_keeps
    | with_reducible apply State.regsLine_keeps
    | split
    | intro _ _ _
    | intro _ _
    | intro _
    | with_reducible refine Keeps.of2 (by with_reducible assumption) ?_
    | with_reducible refine Keeps.of1 (by with_reducible assumption) ?_
    | with_reducible refine Keeps.of3 (by with_reducible assumption) ?_
    | with_reducible refine Keeps.of4 (by with_reducible assumption) ?_
    | with_reducible apply Keeps.upto
    | with_reducible apply Keeps.foldl
    | with_reducible apply Keeps.foldl_snd_snd
    | with_reducible apply Keeps.foldl_snd
    | with_reducible apply Keeps.foldl_trd
    | with_reducible apply Keeps.foldl_fst_fst
    | with_reducible apply Keeps.foldl_fst
    | with_reducible apply Keeps.foldl_mid
    | dsimp only)

theorem State.cpLine_keeps {z₀ s : State} (src : ℕ) (p : ℕ) (o : ℕ) (line : ℕ) (en : ℕ) (data : ℕ) (hz : Keeps z₀ s) :
    Keeps z₀ (State.cpLine s src p o line en data) := by
  unfold State.cpLine
  repeat' (first
    | with_reducible assumption
    | with_reducible apply State.cpBad_keeps
    | with_reducible apply State.ulArm_keeps
    | with_reducible apply State.swqWrite_keeps
    | with_reducible apply State.mtxEntry_keeps
    | with_reducible apply State.mrxConsume_keeps
    | with_reducible apply State.regsLine_keeps
    | with_reducible apply State.setCp_keeps
    | with_reducible apply State.sampleWrite_keeps
    | split
    | intro _ _ _
    | intro _ _
    | intro _
    | with_reducible refine Keeps.of2 (by with_reducible assumption) ?_
    | with_reducible refine Keeps.of1 (by with_reducible assumption) ?_
    | with_reducible refine Keeps.of3 (by with_reducible assumption) ?_
    | with_reducible refine Keeps.of4 (by with_reducible assumption) ?_
    | with_reducible apply Keeps.upto
    | with_reducible apply Keeps.foldl
    | with_reducible apply Keeps.foldl_snd_snd
    | with_reducible apply Keeps.foldl_snd
    | with_reducible apply Keeps.foldl_trd
    | with_reducible apply Keeps.foldl_fst_fst
    | with_reducible apply Keeps.foldl_fst
    | with_reducible apply Keeps.foldl_mid
    | dsimp only)

theorem State.devLine_keeps {z₀ s : State} (src : ℕ) (line : ℕ) (k : WrKind) (en : ℕ) (data : ℕ) (hz : Keeps z₀ s) :
    Keeps z₀ (State.devLine s src line k en data) := by
  unfold State.devLine
  repeat' (first
    | with_reducible assumption
    | with_reducible apply State.cxLine_keeps
    | with_reducible apply State.regsLine_keeps
    | with_reducible apply State.submit_keeps
    | with_reducible apply State.decrWord_keeps
    | with_reducible apply State.decrBad_keeps
    | with_reducible apply State.raIntakeLine_keeps
    | with_reducible apply State.sqDoorbell_keeps
    | with_reducible apply State.cqDoorbell_keeps
    | with_reducible apply State.egressPort_keeps
    | with_reducible apply State.aoStepWrite_keeps
    | with_reducible apply State.ethLine_keeps
    | with_reducible apply State.slotByte_keeps
    | with_reducible apply State.cpLine_keeps
    | split
    | intro _ _ _
    | intro _ _
    | intro _
    | with_reducible refine Keeps.of2 (by with_reducible assumption) ?_
    | with_reducible refine Keeps.of1 (by with_reducible assumption) ?_
    | with_reducible refine Keeps.of3 (by with_reducible assumption) ?_
    | with_reducible refine Keeps.of4 (by with_reducible assumption) ?_
    | with_reducible apply Keeps.upto
    | with_reducible apply Keeps.foldl
    | with_reducible apply Keeps.foldl_snd_snd
    | with_reducible apply Keeps.foldl_snd
    | with_reducible apply Keeps.foldl_trd
    | with_reducible apply Keeps.foldl_fst_fst
    | with_reducible apply Keeps.foldl_fst
    | with_reducible apply Keeps.foldl_mid
    | dsimp only)

theorem State.takeWrite_keeps {z₀ s1 : State} (src : ℕ) (tag : ℕ) (t : ℕ) (line : ℕ) (k : WrKind) (en : ℕ) (data : ℕ) (hz : Keeps z₀ s1) :
    Keeps z₀ (State.takeWrite s1 src tag t line k en data).2.2 := by
  unfold State.takeWrite
  repeat' (first
    | with_reducible assumption
    | with_reducible refine State.unitRefuses_keeps (by with_reducible assumption) ?_
    | with_reducible apply State.hostLinkEvent_keeps
    | with_reducible apply Keeps.emit
    | with_reducible apply State.nvCount_keeps
    | with_reducible apply State.memStore_keeps
    | with_reducible apply State.raise_keeps
    | with_reducible apply State.setInk_keeps
    | with_reducible apply State.devLine_keeps
    | split
    | intro _ _ _
    | intro _ _
    | intro _
    | with_reducible refine Keeps.of2 (by with_reducible assumption) ?_
    | with_reducible refine Keeps.of1 (by with_reducible assumption) ?_
    | with_reducible refine Keeps.of3 (by with_reducible assumption) ?_
    | with_reducible refine Keeps.of4 (by with_reducible assumption) ?_
    | with_reducible apply Keeps.upto
    | with_reducible apply Keeps.foldl
    | with_reducible apply Keeps.foldl_snd_snd
    | with_reducible apply Keeps.foldl_snd
    | with_reducible apply Keeps.foldl_trd
    | with_reducible apply Keeps.foldl_fst_fst
    | with_reducible apply Keeps.foldl_fst
    | with_reducible apply Keeps.foldl_mid
    | dsimp only
    | (with_reducible apply Keeps.mk_other
       first
       | with_reducible assumption
       | with_reducible refine State.unitRefuses_keeps (by with_reducible assumption) ?_
       | with_reducible apply State.hostLinkEvent_keeps
       | with_reducible apply Keeps.emit
       | with_reducible apply State.nvCount_keeps
       | with_reducible apply State.memStore_keeps
       | with_reducible apply State.raise_keeps
       | with_reducible apply State.setInk_keeps
       | with_reducible apply State.devLine_keeps
       | split
       | intro _ _ _
       | intro _ _
       | intro _
       | with_reducible refine Keeps.of2 (by with_reducible assumption) ?_
       | with_reducible refine Keeps.of1 (by with_reducible assumption) ?_
       | with_reducible refine Keeps.of3 (by with_reducible assumption) ?_
       | with_reducible refine Keeps.of4 (by with_reducible assumption) ?_
       | with_reducible apply Keeps.upto
       | with_reducible apply Keeps.foldl
       | with_reducible apply Keeps.foldl_snd_snd
       | with_reducible apply Keeps.foldl_snd
       | with_reducible apply Keeps.foldl_trd
       | with_reducible apply Keeps.foldl_fst_fst
       | with_reducible apply Keeps.foldl_fst
       | with_reducible apply Keeps.foldl_mid
       | dsimp only)
    | (refine Keeps.mk_tables ?_ (by simp +contextual [State.tablesWf, swf_sput, swf_drop, swf])
       first
       | with_reducible assumption
       | with_reducible refine State.unitRefuses_keeps (by with_reducible assumption) ?_
       | with_reducible apply State.hostLinkEvent_keeps
       | with_reducible apply Keeps.emit
       | with_reducible apply State.nvCount_keeps
       | with_reducible apply State.memStore_keeps
       | with_reducible apply State.raise_keeps
       | with_reducible apply State.setInk_keeps
       | with_reducible apply State.devLine_keeps
       | split
       | intro _ _ _
       | intro _ _
       | intro _
       | with_reducible refine Keeps.of2 (by with_reducible assumption) ?_
       | with_reducible refine Keeps.of1 (by with_reducible assumption) ?_
       | with_reducible refine Keeps.of3 (by with_reducible assumption) ?_
       | with_reducible refine Keeps.of4 (by with_reducible assumption) ?_
       | with_reducible apply Keeps.upto
       | with_reducible apply Keeps.foldl
       | with_reducible apply Keeps.foldl_snd_snd
       | with_reducible apply Keeps.foldl_snd
       | with_reducible apply Keeps.foldl_trd
       | with_reducible apply Keeps.foldl_fst_fst
       | with_reducible apply Keeps.foldl_fst
       | with_reducible apply Keeps.foldl_mid
       | dsimp only))

theorem State.lineWrite_keeps {z₀ s : State} (src : ℕ) (tag : ℕ) (line : ℕ) (k : WrKind) (en : ℕ) (data : ℕ) (hz : Keeps z₀ s) :
    Keeps z₀ (State.lineWrite s src tag line k en data).2.2 := by
  unfold State.lineWrite
  repeat' (first
    | with_reducible assumption
    | with_reducible apply State.gate_keeps
    | with_reducible apply State.takeWrite_keeps
    | split
    | intro _ _ _
    | intro _ _
    | intro _
    | with_reducible refine Keeps.of2 (by with_reducible assumption) ?_
    | with_reducible refine Keeps.of1 (by with_reducible assumption) ?_
    | with_reducible refine Keeps.of3 (by with_reducible assumption) ?_
    | with_reducible refine Keeps.of4 (by with_reducible assumption) ?_
    | with_reducible apply Keeps.upto
    | with_reducible apply Keeps.foldl
    | with_reducible apply Keeps.foldl_snd_snd
    | with_reducible apply Keeps.foldl_snd
    | with_reducible apply Keeps.foldl_trd
    | with_reducible apply Keeps.foldl_fst_fst
    | with_reducible apply Keeps.foldl_fst
    | with_reducible apply Keeps.foldl_mid
    | dsimp only
    | (with_reducible apply Keeps.mk_other
       first
       | with_reducible assumption
       | with_reducible apply State.gate_keeps
       | with_reducible apply State.takeWrite_keeps
       | split
       | intro _ _ _
       | intro _ _
       | intro _
       | with_reducible refine Keeps.of2 (by with_reducible assumption) ?_
       | with_reducible refine Keeps.of1 (by with_reducible assumption) ?_
       | with_reducible refine Keeps.of3 (by with_reducible assumption) ?_
       | with_reducible refine Keeps.of4 (by with_reducible assumption) ?_
       | with_reducible apply Keeps.upto
       | with_reducible apply Keeps.foldl
       | with_reducible apply Keeps.foldl_snd_snd
       | with_reducible apply Keeps.foldl_snd
       | with_reducible apply Keeps.foldl_trd
       | with_reducible apply Keeps.foldl_fst_fst
       | with_reducible apply Keeps.foldl_fst
       | with_reducible apply Keeps.foldl_mid
       | dsimp only)
    | (refine Keeps.mk_tables ?_ (by simp +contextual [State.tablesWf, swf_sput, swf_drop, swf])
       first
       | with_reducible assumption
       | with_reducible apply State.gate_keeps
       | with_reducible apply State.takeWrite_keeps
       | split
       | intro _ _ _
       | intro _ _
       | intro _
       | with_reducible refine Keeps.of2 (by with_reducible assumption) ?_
       | with_reducible refine Keeps.of1 (by with_reducible assumption) ?_
       | with_reducible refine Keeps.of3 (by with_reducible assumption) ?_
       | with_reducible refine Keeps.of4 (by with_reducible assumption) ?_
       | with_reducible apply Keeps.upto
       | with_reducible apply Keeps.foldl
       | with_reducible apply Keeps.foldl_snd_snd
       | with_reducible apply Keeps.foldl_snd
       | with_reducible apply Keeps.foldl_trd
       | with_reducible apply Keeps.foldl_fst_fst
       | with_reducible apply Keeps.foldl_fst
       | with_reducible apply Keeps.foldl_mid
       | dsimp only))

theorem State.storeLine_keeps {z₀ s : State} (src line en data : ℕ) (hz : Keeps z₀ s) :
    Keeps z₀ (State.storeLine s src line en data).2 := by
  unfold State.storeLine
  extract_lets one
  have h : ∀ k en (r : List ℕ × State), Keeps z₀ r.2 → Keeps z₀ (one k en r).2 := fun k en r hr => by
    simp only [one]
    split
    · exact hr
    · exact State.lineWrite_keeps _ _ _ _ _ _ (State.draw_keeps _ hr)
  clear_value one
  split
  · exact h _ _ _ hz
  · exact h _ _ _ (h _ _ _ hz)

theorem State.busWrite_keeps {z₀ s : State} (src : ℕ) (a : ℕ) (bs : List Byte) (hz : Keeps z₀ s) :
    Keeps z₀ (State.busWrite s src a bs).2 := by
  unfold State.busWrite
  repeat' (first
    | with_reducible assumption
    | with_reducible apply State.storeLine_keeps
    | split
    | intro _ _ _
    | intro _ _
    | intro _
    | with_reducible refine Keeps.of2 (by with_reducible assumption) ?_
    | with_reducible refine Keeps.of1 (by with_reducible assumption) ?_
    | with_reducible refine Keeps.of3 (by with_reducible assumption) ?_
    | with_reducible refine Keeps.of4 (by with_reducible assumption) ?_
    | with_reducible apply Keeps.upto
    | with_reducible apply Keeps.foldl
    | with_reducible apply Keeps.foldl_snd_snd
    | with_reducible apply Keeps.foldl_snd)

theorem State.heldTake_keeps {z₀ s : State} (r : ℕ) (hz : Keeps z₀ s) :
    Keeps z₀ (State.heldTake s r) := by
  unfold State.heldTake
  repeat' (first
    | with_reducible assumption
    | with_reducible apply State.inkSync_keeps
    | with_reducible apply State.devLine_keeps
    | with_reducible apply State.setInk_keeps
    | with_reducible apply State.respond_keeps
    | split
    | intro _ _ _
    | intro _ _
    | intro _
    | with_reducible refine Keeps.of2 (by with_reducible assumption) ?_
    | with_reducible refine Keeps.of1 (by with_reducible assumption) ?_
    | with_reducible refine Keeps.of3 (by with_reducible assumption) ?_
    | with_reducible refine Keeps.of4 (by with_reducible assumption) ?_
    | with_reducible apply Keeps.upto
    | with_reducible apply Keeps.foldl
    | with_reducible apply Keeps.foldl_snd_snd
    | with_reducible apply Keeps.foldl_snd
    | with_reducible apply Keeps.foldl_trd
    | with_reducible apply Keeps.foldl_fst_fst
    | with_reducible apply Keeps.foldl_fst
    | with_reducible apply Keeps.foldl_mid
    | dsimp only
    | (with_reducible apply Keeps.mk_other
       first
       | with_reducible assumption
       | with_reducible apply State.inkSync_keeps
       | with_reducible apply State.devLine_keeps
       | with_reducible apply State.setInk_keeps
       | with_reducible apply State.respond_keeps
       | split
       | intro _ _ _
       | intro _ _
       | intro _
       | with_reducible refine Keeps.of2 (by with_reducible assumption) ?_
       | with_reducible refine Keeps.of1 (by with_reducible assumption) ?_
       | with_reducible refine Keeps.of3 (by with_reducible assumption) ?_
       | with_reducible refine Keeps.of4 (by with_reducible assumption) ?_
       | with_reducible apply Keeps.upto
       | with_reducible apply Keeps.foldl
       | with_reducible apply Keeps.foldl_snd_snd
       | with_reducible apply Keeps.foldl_snd
       | with_reducible apply Keeps.foldl_trd
       | with_reducible apply Keeps.foldl_fst_fst
       | with_reducible apply Keeps.foldl_fst
       | with_reducible apply Keeps.foldl_mid
       | dsimp only)
    | (refine Keeps.mk_tables ?_ (by simp +contextual [State.tablesWf, swf_sput, swf_drop, swf])
       first
       | with_reducible assumption
       | with_reducible apply State.inkSync_keeps
       | with_reducible apply State.devLine_keeps
       | with_reducible apply State.setInk_keeps
       | with_reducible apply State.respond_keeps
       | split
       | intro _ _ _
       | intro _ _
       | intro _
       | with_reducible refine Keeps.of2 (by with_reducible assumption) ?_
       | with_reducible refine Keeps.of1 (by with_reducible assumption) ?_
       | with_reducible refine Keeps.of3 (by with_reducible assumption) ?_
       | with_reducible refine Keeps.of4 (by with_reducible assumption) ?_
       | with_reducible apply Keeps.upto
       | with_reducible apply Keeps.foldl
       | with_reducible apply Keeps.foldl_snd_snd
       | with_reducible apply Keeps.foldl_snd
       | with_reducible apply Keeps.foldl_trd
       | with_reducible apply Keeps.foldl_fst_fst
       | with_reducible apply Keeps.foldl_fst
       | with_reducible apply Keeps.foldl_mid
       | dsimp only))

theorem State.withhold_keeps {z₀ s : State} (src : ℕ) (tag : ℕ) (a : ℕ) (i : ℕ) (hz : Keeps z₀ s) :
    Keeps z₀ (State.withhold s src tag a i) := by
  unfold State.withhold
  repeat' (first
    | with_reducible assumption
    | split
    | intro _ _ _
    | intro _ _
    | intro _
    | with_reducible refine Keeps.of2 (by with_reducible assumption) ?_
    | with_reducible refine Keeps.of1 (by with_reducible assumption) ?_
    | with_reducible refine Keeps.of3 (by with_reducible assumption) ?_
    | with_reducible refine Keeps.of4 (by with_reducible assumption) ?_
    | with_reducible apply Keeps.upto
    | with_reducible apply Keeps.foldl
    | with_reducible apply Keeps.foldl_snd_snd
    | with_reducible apply Keeps.foldl_snd
    | with_reducible apply Keeps.foldl_trd
    | with_reducible apply Keeps.foldl_fst_fst
    | with_reducible apply Keeps.foldl_fst
    | with_reducible apply Keeps.foldl_mid
    | dsimp only
    | (with_reducible apply Keeps.mk_other
       first
       | with_reducible assumption
       | split
       | intro _ _ _
       | intro _ _
       | intro _
       | with_reducible refine Keeps.of2 (by with_reducible assumption) ?_
       | with_reducible refine Keeps.of1 (by with_reducible assumption) ?_
       | with_reducible refine Keeps.of3 (by with_reducible assumption) ?_
       | with_reducible refine Keeps.of4 (by with_reducible assumption) ?_
       | with_reducible apply Keeps.upto
       | with_reducible apply Keeps.foldl
       | with_reducible apply Keeps.foldl_snd_snd
       | with_reducible apply Keeps.foldl_snd
       | with_reducible apply Keeps.foldl_trd
       | with_reducible apply Keeps.foldl_fst_fst
       | with_reducible apply Keeps.foldl_fst
       | with_reducible apply Keeps.foldl_mid
       | dsimp only)
    | (refine Keeps.mk_tables ?_ (by simp +contextual [State.tablesWf, swf_sput, swf_drop, swf])
       first
       | with_reducible assumption
       | split
       | intro _ _ _
       | intro _ _
       | intro _
       | with_reducible refine Keeps.of2 (by with_reducible assumption) ?_
       | with_reducible refine Keeps.of1 (by with_reducible assumption) ?_
       | with_reducible refine Keeps.of3 (by with_reducible assumption) ?_
       | with_reducible refine Keeps.of4 (by with_reducible assumption) ?_
       | with_reducible apply Keeps.upto
       | with_reducible apply Keeps.foldl
       | with_reducible apply Keeps.foldl_snd_snd
       | with_reducible apply Keeps.foldl_snd
       | with_reducible apply Keeps.foldl_trd
       | with_reducible apply Keeps.foldl_fst_fst
       | with_reducible apply Keeps.foldl_fst
       | with_reducible apply Keeps.foldl_mid
       | dsimp only))

theorem State.answerWrite_keeps {z₀ s : State} (s0 : State) (src : ℕ) (tag : ℕ) (a : ℕ) (st : ℕ) (i : ℕ) (hz : Keeps z₀ s) :
    Keeps z₀ (State.answerWrite s0 s src tag a st i) := by
  unfold State.answerWrite
  repeat' (first
    | with_reducible assumption
    | with_reducible apply State.withhold_keeps
    | with_reducible apply State.setInk_keeps
    | with_reducible apply State.respond_keeps
    | split
    | dsimp only
    | with_reducible apply Keeps.mk_other)

end Sys2Proof.Machine
end

