-- ==== Sys2Proof/Laws/KeepVdcCore.lean ====
section
/-! SUPPORT. The functions of Machine/VdcCore.lean keep the queue, what has been sent, and the invariant. -/

namespace Sys2Proof.Machine

theorem State.countMore_keeps {z₀ s : State} (n : ℕ) (hz : Keeps z₀ s) :
    Keeps z₀ (State.countMore s n) := by
  unfold State.countMore
  repeat' (first
    | with_reducible assumption
    | with_reducible apply State.setCore_keeps)

theorem State.squash_keeps {z₀ s : State} (n : ℕ) (b : Bundle) (hz : Keeps z₀ s) :
    Keeps z₀ (State.squash s n b) := by
  unfold State.squash
  repeat' (first
    | with_reducible assumption
    | with_reducible apply State.freeTag_keeps
    | with_reducible apply State.setCop_keeps
    | split
    | intro _ _ _
    | intro _ _
    | intro _
    | with_reducible refine Keeps.of2 (by with_reducible assumption) ?_
    | with_reducible refine Keeps.of1 (by with_reducible assumption) ?_
    | with_reducible refine Keeps.of3 (by with_reducible assumption) ?_
    | with_reducible refine Keeps.of4 (by with_reducible assumption) ?_
    | with_reducible apply Keeps.upto
    | with_reducible apply Keeps.foldl)

theorem State.flush_keeps {z₀ s : State} (n : ℕ) (hz : Keeps z₀ s) :
    Keeps z₀ (State.flush s n) := by
  unfold State.flush
  repeat' (first
    | with_reducible assumption
    | with_reducible apply State.squash_keeps
    | with_reducible apply State.setCore_keeps
    | split
    | intro _ _ _
    | intro _ _
    | intro _
    | with_reducible refine Keeps.of2 (by with_reducible assumption) ?_
    | with_reducible refine Keeps.of1 (by with_reducible assumption) ?_
    | with_reducible refine Keeps.of3 (by with_reducible assumption) ?_
    | with_reducible refine Keeps.of4 (by with_reducible assumption) ?_
    | with_reducible apply Keeps.upto
    | with_reducible apply Keeps.foldl)

theorem State.enterHandler_keeps {z₀ s : State} (n : ℕ) (e : Exc) (epc : ℕ) (it : Option (ℕ × ℕ)) (best : Sparse (ℤ × ℕ)) (hz : Keeps z₀ s) :
    Keeps z₀ (State.enterHandler s n e epc it best) := by
  unfold State.enterHandler
  repeat' (first
    | with_reducible assumption
    | with_reducible apply State.setCore_keeps)

theorem State.takeAtBoundary_keeps {z₀ s : State} (n : ℕ) (e : Exc) (hz : Keeps z₀ s) :
    Keeps z₀ (State.takeAtBoundary s n e) := by
  unfold State.takeAtBoundary
  repeat' (first
    | with_reducible assumption
    | with_reducible apply State.countMore_keeps
    | with_reducible apply State.flush_keeps
    | with_reducible apply State.enterHandler_keeps
    | split)

theorem State.setArch_keeps {z₀ s : State} (n : ℕ) (r : Arch) (hz : Keeps z₀ s) :
    Keeps z₀ (State.setArch s n r) := by
  unfold State.setArch
  repeat' (first
    | with_reducible assumption
    | with_reducible apply State.setCore_keeps)

theorem State.setYoungest_keeps {z₀ s : State} (n : ℕ) (b : Bundle) (hz : Keeps z₀ s) :
    Keeps z₀ (State.setYoungest s n b) := by
  unfold State.setYoungest
  repeat' (first
    | with_reducible assumption
    | with_reducible apply State.setCore_keeps)

theorem State.fault_keeps {z₀ s : State} (n : ℕ) (e : Exc) (hz : Keeps z₀ s) :
    Keeps z₀ (State.fault s n e) := by
  unfold State.fault
  repeat' (first
    | with_reducible assumption
    | with_reducible apply State.setArch_keeps
    | with_reducible apply State.setYoungest_keeps
    | split)

theorem State.runSlot_keeps {z₀ s : State} (n : ℕ) (op : SlotOp) (hz : Keeps z₀ s) :
    Keeps z₀ (State.runSlot s n op) := by
  unfold State.runSlot
  repeat' (first
    | with_reducible assumption
    | with_reducible apply State.fault_keeps
    | with_reducible apply State.setArch_keeps
    | with_reducible apply State.setYoungest_keeps
    | split)

theorem State.fetchBundle_keeps {z₀ s : State} (n : ℕ) (pc : ℕ) (hz : Keeps z₀ s) :
    Keeps z₀ (State.fetchBundle s n pc).2.2 := by
  unfold State.fetchBundle
  repeat' (first
    | with_reducible assumption
    | with_reducible apply State.memLoad_keeps)

theorem State.cyclesPass_keeps {z₀ s : State} (k : ℕ) (hz : Keeps z₀ s) :
    Keeps z₀ (State.cyclesPass s k) := by
  unfold State.cyclesPass
  repeat' (first
    | with_reducible assumption
    | with_reducible apply State.draw_keeps
    | split
    | intro _ _ _
    | intro _ _
    | intro _
    | with_reducible refine Keeps.of2 (by with_reducible assumption) ?_
    | with_reducible refine Keeps.of1 (by with_reducible assumption) ?_
    | with_reducible refine Keeps.of3 (by with_reducible assumption) ?_
    | with_reducible refine Keeps.of4 (by with_reducible assumption) ?_
    | with_reducible apply Keeps.upto
    | with_reducible apply Keeps.foldl
    | with_reducible apply Keeps.foldl_snd_snd
    | with_reducible apply Keeps.foldl_snd
    | with_reducible apply Keeps.foldl_trd
    | with_reducible apply Keeps.foldl_fst_fst
    | with_reducible apply Keeps.foldl_fst
    | with_reducible apply Keeps.foldl_mid
    | dsimp only
    | (with_reducible apply Keeps.mk_other; first | with_reducible assumption | with_reducible apply State.draw_keeps | split | intro _ _ _ | intro _ _ | intro _ | with_reducible refine Keeps.of2 (by with_reducible assumption) ?_)
    | (refine Keeps.mk_tables ?_ (by simp +contextual [State.tablesWf, swf_sput, swf_drop]); first | with_reducible assumption | with_reducible apply State.draw_keeps | split | intro _ _ _ | intro _ _ | intro _ | with_reducible refine Keeps.of2 (by with_reducible assumption) ?_))

theorem State.openBundle_keeps {z₀ s : State} (n : ℕ) (hz : Keeps z₀ s) :
    Keeps z₀ (State.openBundle s n) := by
  unfold State.openBundle
  repeat' (first
    | with_reducible assumption
    | with_reducible apply State.fetchBundle_keeps
    | with_reducible apply State.cyclesPass_keeps
    | with_reducible apply State.setCore_keeps
    | split
    | intro _ _ _
    | intro _ _
    | intro _
    | with_reducible refine Keeps.of2 (by with_reducible assumption) ?_
    | with_reducible refine Keeps.of1 (by with_reducible assumption) ?_
    | with_reducible refine Keeps.of3 (by with_reducible assumption) ?_
    | with_reducible refine Keeps.of4 (by with_reducible assumption) ?_
    | with_reducible apply Keeps.upto
    | with_reducible apply Keeps.foldl
    | with_reducible apply Keeps.foldl_snd_snd
    | with_reducible apply Keeps.foldl_snd
    | with_reducible apply Keeps.foldl_trd
    | with_reducible apply Keeps.foldl_fst_fst
    | with_reducible apply Keeps.foldl_fst
    | with_reducible apply Keeps.foldl_mid
    | dsimp only
    | (with_reducible apply Keeps.mk_other
       first
       | with_reducible assumption
       | with_reducible apply State.fetchBundle_keeps
       | with_reducible apply State.cyclesPass_keeps
       | with_reducible apply State.setCore_keeps
       | split
       | intro _ _ _
       | intro _ _
       | intro _
       | with_reducible refine Keeps.of2 (by with_reducible assumption) ?_
       | with_reducible refine Keeps.of1 (by with_reducible assumption) ?_
       | with_reducible refine Keeps.of3 (by with_reducible assumption) ?_
       | with_reducible refine Keeps.of4 (by with_reducible assumption) ?_
       | with_reducible apply Keeps.upto
       | with_reducible apply Keeps.foldl
       | with_reducible apply Keeps.foldl_snd_snd
       | with_reducible apply Keeps.foldl_snd
       | with_reducible apply Keeps.foldl_trd
       | with_reducible apply Keeps.foldl_fst_fst
       | with_reducible apply Keeps.foldl_fst
       | with_reducible apply Keeps.foldl_mid
       | dsimp only)
    | (refine Keeps.mk_tables ?_ (by simp +contextual [State.tablesWf, swf_sput, swf_drop, swf])
       first
       | with_reducible assumption
       | with_reducible apply State.fetchBundle_keeps
       | with_reducible apply State.cyclesPass_keeps
       | with_reducible apply State.setCore_keeps
       | split
       | intro _ _ _
       | intro _ _
       | intro _
       | with_reducible refine Keeps.of2 (by with_reducible assumption) ?_
       | with_reducible refine Keeps.of1 (by with_reducible assumption) ?_
       | with_reducible refine Keeps.of3 (by with_reducible assumption) ?_
       | with_reducible refine Keeps.of4 (by with_reducible assumption) ?_
       | with_reducible apply Keeps.upto
       | with_reducible apply Keeps.foldl
       | with_reducible apply Keeps.foldl_snd_snd
       | with_reducible apply Keeps.foldl_snd
       | with_reducible apply Keeps.foldl_trd
       | with_reducible apply Keeps.foldl_fst_fst
       | with_reducible apply Keeps.foldl_fst
       | with_reducible apply Keeps.foldl_mid
       | dsimp only))

theorem State.ready_keeps {z₀ s : State} (n : ℕ) (nb : Bool) (hz : Keeps z₀ s) :
    Keeps z₀ (State.ready s n nb) := by
  unfold State.ready
  repeat' (first
    | with_reducible assumption
    | with_reducible apply State.openBundle_keeps
    | split)

theorem State.issue_keeps {z₀ s : State} (n : ℕ) (nb : Bool) (op : SlotOp) (hz : Keeps z₀ s) :
    Keeps z₀ (State.issue s n nb op) := by
  unfold State.issue
  repeat' (first
    | with_reducible assumption
    | with_reducible apply State.runSlot_keeps
    | with_reducible apply State.ready_keeps
    | split)

theorem State.setLoad_keeps {z₀ s : State} (n : ℕ) (i : ℕ) (f : RLoad → RLoad) (hz : Keeps z₀ s) :
    Keeps z₀ (State.setLoad s n i f) := by
  unfold State.setLoad
  repeat' (first
    | with_reducible assumption
    | with_reducible apply State.setCore_keeps)

theorem State.answerLines_keeps {z₀ s : State} (n : ℕ) (i : ℕ) (p : ℕ → Bool) (hz : Keeps z₀ s) :
    Keeps z₀ (State.answerLines s n i p) := by
  unfold State.answerLines
  repeat' (first
    | with_reducible assumption
    | with_reducible apply State.busRead_keeps
    | with_reducible apply State.setLoad_keeps
    | split
    | intro _ _ _
    | intro _ _
    | intro _
    | with_reducible refine Keeps.of2 (by with_reducible assumption) ?_
    | with_reducible refine Keeps.of1 (by with_reducible assumption) ?_
    | with_reducible refine Keeps.of3 (by with_reducible assumption) ?_
    | with_reducible refine Keeps.of4 (by with_reducible assumption) ?_
    | with_reducible apply Keeps.upto
    | with_reducible apply Keeps.foldl)

theorem State.keepOlder_keeps {z₀ s : State} (n : ℕ) (b : Bundle) (hz : Keeps z₀ s) :
    Keeps z₀ (State.keepOlder s n b) := by
  unfold State.keepOlder
  repeat' (first
    | with_reducible assumption
    | with_reducible apply State.answerLines_keeps
    | split
    | intro _ _ _
    | intro _ _
    | intro _
    | with_reducible refine Keeps.of2 (by with_reducible assumption) ?_
    | with_reducible refine Keeps.of1 (by with_reducible assumption) ?_
    | with_reducible refine Keeps.of3 (by with_reducible assumption) ?_
    | with_reducible refine Keeps.of4 (by with_reducible assumption) ?_
    | with_reducible apply Keeps.upto)

theorem State.accessError_keeps {z₀ s : State} (n : ℕ) (st : ℕ) (a : ℕ) (hz : Keeps z₀ s) :
    Keeps z₀ (State.accessError s n st a) := by
  unfold State.accessError
  repeat' (first
    | with_reducible assumption
    | with_reducible apply State.setCore_keeps)

theorem State.stampTag_keeps {z₀ s : State} (n : ℕ) (u : ℕ) (d : ℕ) (tag : ℕ) (remote : Option ℕ) (hz : Keeps z₀ s) :
    Keeps z₀ (State.stampTag s n u d tag remote) := by
  unfold State.stampTag
  repeat' (first
    | with_reducible assumption
    | with_reducible apply State.setCore_keeps)

theorem State.coreWrite_keeps {z₀ s : State} (n : ℕ) (a : ℕ) (bs : List Byte) (hz : Keeps z₀ s) :
    Keeps z₀ (State.coreWrite s n a bs) := by
  unfold State.coreWrite
  repeat' (first
    | with_reducible assumption
    | with_reducible apply State.busWrite_keeps
    | with_reducible apply State.accessError_keeps
    | split
    | intro _ _ _
    | intro _ _
    | intro _
    | with_reducible refine Keeps.of2 (by with_reducible assumption) ?_)

theorem State.commitCop_keeps {z₀ s : State} (n : ℕ) (o : CopOp) (hz : Keeps z₀ s) :
    Keeps z₀ (State.commitCop s n o) := by
  unfold State.commitCop
  repeat' (first
    | with_reducible assumption
    | with_reducible apply State.stampTag_keeps
    | with_reducible apply State.setCop_keeps
    | with_reducible apply State.setCR_keeps
    | with_reducible apply State.coreWrite_keeps
    | with_reducible apply State.deferCop_keeps
    | split)

theorem State.commit_keeps {z₀ s : State} (n : ℕ) (hz : Keeps z₀ s) :
    Keeps z₀ (State.commit s n) := by
  unfold State.commit
  repeat' (first
    | with_reducible assumption
    | with_reducible apply State.keepOlder_keeps
    | with_reducible apply State.setCore_keeps
    | with_reducible apply State.memStore_keeps
    | with_reducible apply State.storeLine_keeps
    | with_reducible apply State.accessError_keeps
    | with_reducible apply State.commitCop_keeps
    | split
    | intro _ _ _
    | intro _ _
    | intro _
    | with_reducible refine Keeps.of2 (by with_reducible assumption) ?_
    | with_reducible refine Keeps.of1 (by with_reducible assumption) ?_
    | with_reducible refine Keeps.of3 (by with_reducible assumption) ?_
    | with_reducible refine Keeps.of4 (by with_reducible assumption) ?_
    | with_reducible apply Keeps.upto
    | with_reducible apply Keeps.foldl
    | with_reducible apply Keeps.foldl_snd_snd
    | with_reducible apply Keeps.foldl_snd
    | with_reducible apply Keeps.foldl_trd
    | with_reducible apply Keeps.foldl_fst_fst
    | with_reducible apply Keeps.foldl_fst
    | with_reducible apply Keeps.foldl_mid
    | dsimp only
    | (with_reducible apply Keeps.mk_other
       first
       | with_reducible assumption
       | with_reducible apply State.keepOlder_keeps
       | with_reducible apply State.setCore_keeps
       | with_reducible apply State.memStore_keeps
       | with_reducible apply State.storeLine_keeps
       | with_reducible apply State.accessError_keeps
       | with_reducible apply State.commitCop_keeps
       | split
       | intro _ _ _
       | intro _ _
       | intro _
       | with_reducible refine Keeps.of2 (by with_reducible assumption) ?_
       | with_reducible refine Keeps.of1 (by with_reducible assumption) ?_
       | with_reducible refine Keeps.of3 (by with_reducible assumption) ?_
       | with_reducible refine Keeps.of4 (by with_reducible assumption) ?_
       | with_reducible apply Keeps.upto
       | with_reducible apply Keeps.foldl
       | with_reducible apply Keeps.foldl_snd_snd
       | with_reducible apply Keeps.foldl_snd
       | with_reducible apply Keeps.foldl_trd
       | with_reducible apply Keeps.foldl_fst_fst
       | with_reducible apply Keeps.foldl_fst
       | with_reducible apply Keeps.foldl_mid
       | dsimp only)
    | (refine Keeps.mk_tables ?_ (by simp +contextual [State.tablesWf, swf_sput, swf_drop, swf])
       first
       | with_reducible assumption
       | with_reducible apply State.keepOlder_keeps
       | with_reducible apply State.setCore_keeps
       | with_reducible apply State.memStore_keeps
       | with_reducible apply State.storeLine_keeps
       | with_reducible apply State.accessError_keeps
       | with_reducible apply State.commitCop_keeps
       | split
       | intro _ _ _
       | intro _ _
       | intro _
       | with_reducible refine Keeps.of2 (by with_reducible assumption) ?_
       | with_reducible refine Keeps.of1 (by with_reducible assumption) ?_
       | with_reducible refine Keeps.of3 (by with_reducible assumption) ?_
       | with_reducible refine Keeps.of4 (by with_reducible assumption) ?_
       | with_reducible apply Keeps.upto
       | with_reducible apply Keeps.foldl
       | with_reducible apply Keeps.foldl_snd_snd
       | with_reducible apply Keeps.foldl_snd
       | with_reducible apply Keeps.foldl_trd
       | with_reducible apply Keeps.foldl_fst_fst
       | with_reducible apply Keeps.foldl_fst
       | with_reducible apply Keeps.foldl_mid
       | dsimp only))

theorem State.ownLoad_keeps {z₀ s : State} (n : ℕ) (addrs : List ℕ) (hz : Keeps z₀ s) :
    Keeps z₀ (State.ownLoad s n addrs).2.2 := by
  unfold State.ownLoad
  repeat' (first
    | with_reducible assumption
    | with_reducible apply State.memLoad_keeps
    | split
    | intro _ _ _
    | intro _ _
    | intro _
    | with_reducible refine Keeps.of2 (by with_reducible assumption) ?_
    | with_reducible refine Keeps.of1 (by with_reducible assumption) ?_
    | with_reducible refine Keeps.of3 (by with_reducible assumption) ?_
    | with_reducible refine Keeps.of4 (by with_reducible assumption) ?_
    | with_reducible apply Keeps.upto
    | with_reducible apply Keeps.foldl
    | with_reducible apply Keeps.foldl_snd_snd
    | with_reducible apply Keeps.foldl_snd)

theorem State.access_keeps {z₀ s : State} (n : ℕ) (mop : ℕ) (mr : ℕ) (ma : ℕ) (mo : ℕ) (pm : Bool) (hz : Keeps z₀ s) :
    Keeps z₀ (State.access s n mop mr ma mo pm) := by
  unfold State.access
  repeat' (first
    | with_reducible assumption
    | with_reducible apply State.setArch_keeps
    | with_reducible apply State.fault_keeps
    | with_reducible apply State.setYoungest_keeps
    | with_reducible apply State.ownLoad_keeps
    | with_reducible apply State.setCore_keeps
    | split
    | intro _ _ _
    | intro _ _
    | intro _
    | with_reducible refine Keeps.of2 (by with_reducible assumption) ?_
    | with_reducible refine Keeps.of1 (by with_reducible assumption) ?_
    | with_reducible refine Keeps.of3 (by with_reducible assumption) ?_
    | with_reducible refine Keeps.of4 (by with_reducible assumption) ?_
    | with_reducible apply Keeps.upto
    | with_reducible apply Keeps.foldl
    | with_reducible apply Keeps.foldl_snd_snd
    | with_reducible apply Keeps.foldl_snd
    | with_reducible apply Keeps.foldl_trd
    | with_reducible apply Keeps.foldl_fst_fst
    | with_reducible apply Keeps.foldl_fst
    | with_reducible apply Keeps.foldl_mid
    | dsimp only)

theorem State.runMem_keeps {z₀ s : State} (n : ℕ) (mop : ℕ) (mr : ℕ) (ma : ℕ) (mo : ℕ) (pm : Bool) (low : ℕ) (hz : Keeps z₀ s) :
    Keeps z₀ (State.runMem s n mop mr ma mo pm low) := by
  unfold State.runMem
  repeat' (first
    | with_reducible assumption
    | with_reducible apply State.fault_keeps
    | with_reducible apply State.access_keeps
    | split)

theorem State.issueMem_keeps {z₀ s : State} (n : ℕ) (nb : Bool) (mop : ℕ) (mr : ℕ) (ma : ℕ) (mo : ℕ) (pm : Bool) (low : ℕ) (hz : Keeps z₀ s) :
    Keeps z₀ (State.issueMem s n nb mop mr ma mo pm low) := by
  unfold State.issueMem
  repeat' (first
    | with_reducible assumption
    | with_reducible apply State.runMem_keeps
    | with_reducible apply State.ready_keeps
    | split
    | intro _ _ _
    | intro _ _
    | intro _
    | with_reducible refine Keeps.of2 (by with_reducible assumption) ?_
    | with_reducible refine Keeps.of1 (by with_reducible assumption) ?_
    | with_reducible refine Keeps.of3 (by with_reducible assumption) ?_
    | with_reducible refine Keeps.of4 (by with_reducible assumption) ?_
    | with_reducible apply Keeps.upto
    | with_reducible apply Keeps.foldl
    | with_reducible apply Keeps.foldl_snd_snd
    | with_reducible apply Keeps.foldl_snd
    | with_reducible apply Keeps.foldl_trd
    | with_reducible apply Keeps.foldl_fst_fst
    | with_reducible apply Keeps.foldl_fst
    | with_reducible apply Keeps.foldl_mid
    | dsimp only)

theorem State.issueFence_keeps {z₀ s : State} (n : ℕ) (nb : Bool) (mr : ℕ) (ma : ℕ) (mo : ℕ) (pm : Bool) (low : ℕ) (hz : Keeps z₀ s) :
    Keeps z₀ (State.issueFence s n nb mr ma mo pm low) := by
  unfold State.issueFence
  repeat' (first
    | with_reducible assumption
    | with_reducible apply State.runMem_keeps
    | with_reducible apply State.ready_keeps
    | split)

theorem State.addCop_keeps {z₀ s : State} (n : ℕ) (o : CopOp) (mv : Bool) (wr : List ℕ) (hz : Keeps z₀ s) :
    Keeps z₀ (State.addCop s n o mv wr) := by
  unfold State.addCop
  repeat' (first
    | with_reducible assumption
    | with_reducible apply State.setYoungest_keeps
    | split)

theorem State.cmovTo_keeps {z₀ s : State} (n : ℕ) (nb : Bool) (f : ℕ) (hz : Keeps z₀ s) :
    Keeps z₀ (State.cmovTo s n nb f) := by
  unfold State.cmovTo
  repeat' (first
    | with_reducible assumption
    | with_reducible apply State.fault_keeps
    | with_reducible apply State.ready_keeps
    | with_reducible apply State.addCop_keeps
    | split
    | intro _ _ _
    | intro _ _
    | intro _
    | with_reducible refine Keeps.of2 (by with_reducible assumption) ?_
    | with_reducible refine Keeps.of1 (by with_reducible assumption) ?_
    | with_reducible refine Keeps.of3 (by with_reducible assumption) ?_
    | with_reducible refine Keeps.of4 (by with_reducible assumption) ?_
    | with_reducible apply Keeps.upto
    | with_reducible apply Keeps.foldl
    | with_reducible apply Keeps.foldl_snd_snd
    | with_reducible apply Keeps.foldl_snd
    | with_reducible apply Keeps.foldl_trd
    | with_reducible apply Keeps.foldl_fst_fst
    | with_reducible apply Keeps.foldl_fst
    | with_reducible apply Keeps.foldl_mid
    | dsimp only)

theorem State.cmovFrom_keeps {z₀ s : State} (n : ℕ) (nb : Bool) (f : ℕ) (hz : Keeps z₀ s) :
    Keeps z₀ (State.cmovFrom s n nb f) := by
  unfold State.cmovFrom
  repeat' (first
    | with_reducible assumption
    | with_reducible apply State.setYoungest_keeps
    | with_reducible apply State.fault_keeps
    | with_reducible apply State.ready_keeps
    | with_reducible apply State.setCore_keeps
    | with_reducible apply State.setArch_keeps
    | with_reducible apply State.crDecode_keeps
    | split
    | intro _ _ _
    | intro _ _
    | intro _
    | with_reducible refine Keeps.of2 (by with_reducible assumption) ?_
    | with_reducible refine Keeps.of1 (by with_reducible assumption) ?_
    | with_reducible refine Keeps.of3 (by with_reducible assumption) ?_
    | with_reducible refine Keeps.of4 (by with_reducible assumption) ?_
    | with_reducible apply Keeps.upto
    | with_reducible apply Keeps.foldl
    | with_reducible apply Keeps.foldl_snd_snd
    | with_reducible apply Keeps.foldl_snd
    | with_reducible apply Keeps.foldl_trd
    | with_reducible apply Keeps.foldl_fst_fst
    | with_reducible apply Keeps.foldl_fst
    | with_reducible apply Keeps.foldl_mid
    | dsimp only)

theorem State.cissue_keeps {z₀ s : State} (n : ℕ) (nb : Bool) (f : ℕ) (hz : Keeps z₀ s) :
    Keeps z₀ (State.cissue s n nb f) := by
  unfold State.cissue
  repeat' (first
    | with_reducible assumption
    | with_reducible apply State.fault_keeps
    | with_reducible apply State.ready_keeps
    | with_reducible apply State.addCop_keeps
    | with_reducible apply State.setCore_keeps
    | with_reducible apply State.copEnter_keeps
    | split
    | intro _ _ _
    | intro _ _
    | intro _
    | with_reducible refine Keeps.of2 (by with_reducible assumption) ?_
    | with_reducible refine Keeps.of1 (by with_reducible assumption) ?_
    | with_reducible refine Keeps.of3 (by with_reducible assumption) ?_
    | with_reducible refine Keeps.of4 (by with_reducible assumption) ?_
    | with_reducible apply Keeps.upto
    | with_reducible apply Keeps.foldl
    | with_reducible apply Keeps.foldl_snd_snd
    | with_reducible apply Keeps.foldl_snd
    | with_reducible apply Keeps.foldl_trd
    | with_reducible apply Keeps.foldl_fst_fst
    | with_reducible apply Keeps.foldl_fst
    | with_reducible apply Keeps.foldl_mid
    | dsimp only)

theorem State.cwait_keeps {z₀ s : State} (n : ℕ) (nb : Bool) (f : ℕ) (hz : Keeps z₀ s) :
    Keeps z₀ (State.cwait s n nb f) := by
  unfold State.cwait
  repeat' (first
    | with_reducible assumption
    | with_reducible apply State.fault_keeps
    | with_reducible apply State.ready_keeps
    | split
    | intro _ _ _
    | intro _ _
    | intro _
    | with_reducible refine Keeps.of2 (by with_reducible assumption) ?_
    | with_reducible refine Keeps.of1 (by with_reducible assumption) ?_
    | with_reducible refine Keeps.of3 (by with_reducible assumption) ?_
    | with_reducible refine Keeps.of4 (by with_reducible assumption) ?_
    | with_reducible apply Keeps.upto
    | with_reducible apply Keeps.foldl
    | with_reducible apply Keeps.foldl_snd_snd
    | with_reducible apply Keeps.foldl_snd
    | with_reducible apply Keeps.foldl_trd
    | with_reducible apply Keeps.foldl_fst_fst
    | with_reducible apply Keeps.foldl_fst
    | with_reducible apply Keeps.foldl_mid
    | dsimp only)

theorem State.startRep_keeps {z₀ s : State} (n : ℕ) (count : ℕ) (legal : Bool) (hz : Keeps z₀ s) :
    Keeps z₀ (State.startRep s n count legal) := by
  unfold State.startRep
  repeat' (first
    | with_reducible assumption
    | with_reducible apply State.openBundle_keeps
    | with_reducible apply State.fetchBundle_keeps
    | with_reducible apply State.fault_keeps
    | with_reducible apply State.setArch_keeps
    | split
    | intro _ _ _
    | intro _ _
    | intro _
    | with_reducible refine Keeps.of2 (by with_reducible assumption) ?_
    | with_reducible refine Keeps.of1 (by with_reducible assumption) ?_
    | with_reducible refine Keeps.of3 (by with_reducible assumption) ?_
    | with_reducible refine Keeps.of4 (by with_reducible assumption) ?_
    | with_reducible apply Keeps.upto
    | with_reducible apply Keeps.foldl
    | with_reducible apply Keeps.foldl_snd_snd
    | with_reducible apply Keeps.foldl_snd
    | with_reducible apply Keeps.foldl_trd
    | with_reducible apply Keeps.foldl_fst_fst
    | with_reducible apply Keeps.foldl_fst
    | with_reducible apply Keeps.foldl_mid
    | dsimp only)

theorem State.runBody_keeps {z₀ s : State} (n : ℕ) (w : ℕ) (hz : Keeps z₀ s) :
    Keeps z₀ (State.runBody s n w) := by
  unfold State.runBody
  repeat' (first
    | with_reducible assumption
    | with_reducible apply State.runSlot_keeps
    | with_reducible apply State.runMem_keeps
    | split)

theorem State.bodyWord_keeps {z₀ s : State} (n : ℕ) (p : Machine.Rep) (hz : Keeps z₀ s) :
    Keeps z₀ (State.bodyWord s n p).2.2 := by
  unfold State.bodyWord
  repeat' (first
    | with_reducible assumption
    | with_reducible apply State.fetchBundle_keeps
    | split)

theorem State.iterate_keeps {z₀ s : State} (n : ℕ) (hz : Keeps z₀ s) :
    Keeps z₀ (State.iterate s n) := by
  unfold State.iterate
  repeat' (first
    | with_reducible assumption
    | with_reducible apply State.bodyWord_keeps
    | with_reducible apply State.cyclesPass_keeps
    | with_reducible apply State.runBody_keeps
    | with_reducible apply State.setCore_keeps
    | with_reducible apply State.setArch_keeps
    | split
    | intro _ _ _
    | intro _ _
    | intro _
    | with_reducible refine Keeps.of2 (by with_reducible assumption) ?_
    | with_reducible refine Keeps.of1 (by with_reducible assumption) ?_
    | with_reducible refine Keeps.of3 (by with_reducible assumption) ?_
    | with_reducible refine Keeps.of4 (by with_reducible assumption) ?_
    | with_reducible apply Keeps.upto
    | with_reducible apply Keeps.foldl
    | with_reducible apply Keeps.foldl_snd_snd
    | with_reducible apply Keeps.foldl_snd
    | with_reducible apply Keeps.foldl_trd
    | with_reducible apply Keeps.foldl_fst_fst
    | with_reducible apply Keeps.foldl_fst
    | with_reducible apply Keeps.foldl_mid
    | dsimp only
    | (with_reducible apply Keeps.mk_other
       first
       | with_reducible assumption
       | with_reducible apply State.bodyWord_keeps
       | with_reducible apply State.cyclesPass_keeps
       | with_reducible apply State.runBody_keeps
       | with_reducible apply State.setCore_keeps
       | with_reducible apply State.setArch_keeps
       | split
       | intro _ _ _
       | intro _ _
       | intro _
       | with_reducible refine Keeps.of2 (by with_reducible assumption) ?_
       | with_reducible refine Keeps.of1 (by with_reducible assumption) ?_
       | with_reducible refine Keeps.of3 (by with_reducible assumption) ?_
       | with_reducible refine Keeps.of4 (by with_reducible assumption) ?_
       | with_reducible apply Keeps.upto
       | with_reducible apply Keeps.foldl
       | with_reducible apply Keeps.foldl_snd_snd
       | with_reducible apply Keeps.foldl_snd
       | with_reducible apply Keeps.foldl_trd
       | with_reducible apply Keeps.foldl_fst_fst
       | with_reducible apply Keeps.foldl_fst
       | with_reducible apply Keeps.foldl_mid
       | dsimp only)
    | (refine Keeps.mk_tables ?_ (by simp +contextual [State.tablesWf, swf_sput, swf_drop, swf])
       first
       | with_reducible assumption
       | with_reducible apply State.bodyWord_keeps
       | with_reducible apply State.cyclesPass_keeps
       | with_reducible apply State.runBody_keeps
       | with_reducible apply State.setCore_keeps
       | with_reducible apply State.setArch_keeps
       | split
       | intro _ _ _
       | intro _ _
       | intro _
       | with_reducible refine Keeps.of2 (by with_reducible assumption) ?_
       | with_reducible refine Keeps.of1 (by with_reducible assumption) ?_
       | with_reducible refine Keeps.of3 (by with_reducible assumption) ?_
       | with_reducible refine Keeps.of4 (by with_reducible assumption) ?_
       | with_reducible apply Keeps.upto
       | with_reducible apply Keeps.foldl
       | with_reducible apply Keeps.foldl_snd_snd
       | with_reducible apply Keeps.foldl_snd
       | with_reducible apply Keeps.foldl_trd
       | with_reducible apply Keeps.foldl_fst_fst
       | with_reducible apply Keeps.foldl_fst
       | with_reducible apply Keeps.foldl_mid
       | dsimp only))

theorem State.loadError_keeps {z₀ s : State} (n : ℕ) (serial : ℕ) (st : ℕ) (a : ℕ) (hz : Keeps z₀ s) :
    Keeps z₀ (State.loadError s n serial st a) := by
  unfold State.loadError
  repeat' (first
    | with_reducible assumption
    | with_reducible apply State.setCore_keeps
    | with_reducible apply State.accessError_keeps
    | split
    | intro _ _ _
    | intro _ _
    | intro _
    | with_reducible refine Keeps.of2 (by with_reducible assumption) ?_
    | with_reducible refine Keeps.of1 (by with_reducible assumption) ?_
    | with_reducible refine Keeps.of3 (by with_reducible assumption) ?_
    | with_reducible refine Keeps.of4 (by with_reducible assumption) ?_
    | with_reducible apply Keeps.upto
    | with_reducible apply Keeps.foldl
    | with_reducible apply Keeps.foldl_snd_snd
    | with_reducible apply Keeps.foldl_snd
    | with_reducible apply Keeps.foldl_trd
    | with_reducible apply Keeps.foldl_fst_fst
    | with_reducible apply Keeps.foldl_fst
    | with_reducible apply Keeps.foldl_mid
    | dsimp only
    | (with_reducible apply Keeps.mk_other
       first
       | with_reducible assumption
       | with_reducible apply State.setCore_keeps
       | with_reducible apply State.accessError_keeps
       | split
       | intro _ _ _
       | intro _ _
       | intro _
       | with_reducible refine Keeps.of2 (by with_reducible assumption) ?_
       | with_reducible refine Keeps.of1 (by with_reducible assumption) ?_
       | with_reducible refine Keeps.of3 (by with_reducible assumption) ?_
       | with_reducible refine Keeps.of4 (by with_reducible assumption) ?_
       | with_reducible apply Keeps.upto
       | with_reducible apply Keeps.foldl
       | with_reducible apply Keeps.foldl_snd_snd
       | with_reducible apply Keeps.foldl_snd
       | with_reducible apply Keeps.foldl_trd
       | with_reducible apply Keeps.foldl_fst_fst
       | with_reducible apply Keeps.foldl_fst
       | with_reducible apply Keeps.foldl_mid
       | dsimp only)
    | (refine Keeps.mk_tables ?_ (by simp +contextual [State.tablesWf, swf_sput, swf_drop, swf])
       first
       | with_reducible assumption
       | with_reducible apply State.setCore_keeps
       | with_reducible apply State.accessError_keeps
       | split
       | intro _ _ _
       | intro _ _
       | intro _
       | with_reducible refine Keeps.of2 (by with_reducible assumption) ?_
       | with_reducible refine Keeps.of1 (by with_reducible assumption) ?_
       | with_reducible refine Keeps.of3 (by with_reducible assumption) ?_
       | with_reducible refine Keeps.of4 (by with_reducible assumption) ?_
       | with_reducible apply Keeps.upto
       | with_reducible apply Keeps.foldl
       | with_reducible apply Keeps.foldl_snd_snd
       | with_reducible apply Keeps.foldl_snd
       | with_reducible apply Keeps.foldl_trd
       | with_reducible apply Keeps.foldl_fst_fst
       | with_reducible apply Keeps.foldl_fst
       | with_reducible apply Keeps.foldl_mid
       | dsimp only))

theorem State.loadArrives_keeps {z₀ s : State} (n : ℕ) (i : ℕ) (hz : Keeps z₀ s) :
    Keeps z₀ (State.loadArrives s n i) := by
  unfold State.loadArrives
  repeat' (first
    | with_reducible assumption
    | with_reducible apply State.setCore_keeps
    | with_reducible apply State.deferCop_keeps
    | with_reducible apply State.busRead_keeps
    | with_reducible apply State.accessError_keeps
    | with_reducible apply State.answerLines_keeps
    | with_reducible apply State.loadError_keeps
    | split
    | intro _ _ _
    | intro _ _
    | intro _
    | with_reducible refine Keeps.of2 (by with_reducible assumption) ?_
    | with_reducible refine Keeps.of1 (by with_reducible assumption) ?_
    | with_reducible refine Keeps.of3 (by with_reducible assumption) ?_
    | with_reducible refine Keeps.of4 (by with_reducible assumption) ?_
    | with_reducible apply Keeps.upto
    | with_reducible apply Keeps.foldl
    | with_reducible apply Keeps.foldl_snd_snd
    | with_reducible apply Keeps.foldl_snd
    | with_reducible apply Keeps.foldl_trd
    | with_reducible apply Keeps.foldl_fst_fst
    | with_reducible apply Keeps.foldl_fst
    | with_reducible apply Keeps.foldl_mid
    | dsimp only
    | (with_reducible apply Keeps.mk_other
       first
       | with_reducible assumption
       | with_reducible apply State.setCore_keeps
       | with_reducible apply State.deferCop_keeps
       | with_reducible apply State.busRead_keeps
       | with_reducible apply State.accessError_keeps
       | with_reducible apply State.answerLines_keeps
       | with_reducible apply State.loadError_keeps
       | split
       | intro _ _ _
       | intro _ _
       | intro _
       | with_reducible refine Keeps.of2 (by with_reducible assumption) ?_
       | with_reducible refine Keeps.of1 (by with_reducible assumption) ?_
       | with_reducible refine Keeps.of3 (by with_reducible assumption) ?_
       | with_reducible refine Keeps.of4 (by with_reducible assumption) ?_
       | with_reducible apply Keeps.upto
       | with_reducible apply Keeps.foldl
       | with_reducible apply Keeps.foldl_snd_snd
       | with_reducible apply Keeps.foldl_snd
       | with_reducible apply Keeps.foldl_trd
       | with_reducible apply Keeps.foldl_fst_fst
       | with_reducible apply Keeps.foldl_fst
       | with_reducible apply Keeps.foldl_mid
       | dsimp only)
    | (refine Keeps.mk_tables ?_ (by simp +contextual [State.tablesWf, swf_sput, swf_drop, swf])
       first
       | with_reducible assumption
       | with_reducible apply State.setCore_keeps
       | with_reducible apply State.deferCop_keeps
       | with_reducible apply State.busRead_keeps
       | with_reducible apply State.accessError_keeps
       | with_reducible apply State.answerLines_keeps
       | with_reducible apply State.loadError_keeps
       | split
       | intro _ _ _
       | intro _ _
       | intro _
       | with_reducible refine Keeps.of2 (by with_reducible assumption) ?_
       | with_reducible refine Keeps.of1 (by with_reducible assumption) ?_
       | with_reducible refine Keeps.of3 (by with_reducible assumption) ?_
       | with_reducible refine Keeps.of4 (by with_reducible assumption) ?_
       | with_reducible apply Keeps.upto
       | with_reducible apply Keeps.foldl
       | with_reducible apply Keeps.foldl_snd_snd
       | with_reducible apply Keeps.foldl_snd
       | with_reducible apply Keeps.foldl_trd
       | with_reducible apply Keeps.foldl_fst_fst
       | with_reducible apply Keeps.foldl_fst
       | with_reducible apply Keeps.foldl_mid
       | dsimp only))

theorem State.stopCore_keeps {z₀ s : State} (n : ℕ) (first : ℕ) (second : ℕ) (hz : Keeps z₀ s) :
    Keeps z₀ (State.stopCore s n first second) := by
  unfold State.stopCore
  repeat' (first
    | with_reducible assumption
    | with_reducible apply State.raise_keeps
    | with_reducible apply State.setCore_keeps
    | with_reducible apply State.airSync_keeps
    | with_reducible apply State.abortUnit_keeps
    | with_reducible apply State.setUnavail_keeps)

theorem State.takeException_keeps {z₀ s : State} (n : ℕ) (hz : Keeps z₀ s) :
    Keeps z₀ (State.takeException s n) := by
  unfold State.takeException
  repeat' (first
    | with_reducible assumption
    | with_reducible apply State.flush_keeps
    | with_reducible apply State.stopCore_keeps
    | with_reducible apply State.enterHandler_keeps
    | split
    | intro _ _ _
    | intro _ _
    | intro _
    | with_reducible refine Keeps.of2 (by with_reducible assumption) ?_
    | with_reducible refine Keeps.of1 (by with_reducible assumption) ?_
    | with_reducible refine Keeps.of3 (by with_reducible assumption) ?_
    | with_reducible refine Keeps.of4 (by with_reducible assumption) ?_
    | with_reducible apply Keeps.upto
    | with_reducible apply Keeps.foldl
    | with_reducible apply Keeps.foldl_snd_snd
    | with_reducible apply Keeps.foldl_snd
    | with_reducible apply Keeps.foldl_trd
    | with_reducible apply Keeps.foldl_fst_fst
    | with_reducible apply Keeps.foldl_fst
    | with_reducible apply Keeps.foldl_mid
    | dsimp only)

end Sys2Proof.Machine
end

