-- ==== Sys2Proof/Laws/KeepCopRun.lean ====
section
/-! SUPPORT. The functions of Machine/CopRun.lean keep the queue, what has been sent, and the invariant. -/

namespace Sys2Proof.Machine

theorem State.readRegs_keeps {z₀ s : State} (k : ℕ) (u : ℕ) (x : CopCmd) (hz : Keeps z₀ s) :
    Keeps z₀ (State.readRegs s k u x).2.2 := by
  unfold State.readRegs
  repeat' (first
    | with_reducible assumption
    | with_reducible apply State.crDecode_keeps
    | split
    | intro _ _ _
    | intro _ _
    | intro _
    | with_reducible refine Keeps.of2 (by with_reducible assumption) ?_
    | with_reducible refine Keeps.of1 (by with_reducible assumption) ?_
    | with_reducible refine Keeps.of3 (by with_reducible assumption) ?_
    | with_reducible refine Keeps.of4 (by with_reducible assumption) ?_
    | with_reducible apply Keeps.upto
    | with_reducible apply Keeps.foldl
    | with_reducible apply Keeps.foldl_snd_snd
    | with_reducible apply Keeps.foldl_snd)

theorem State.copStart_keeps {z₀ s : State} (k : ℕ) (u : ℕ) (hz : Keeps z₀ s) :
    Keeps z₀ (State.copStart s k u) := by
  unfold State.copStart
  repeat' (first
    | with_reducible assumption
    | with_reducible apply State.busRead_keeps
    | with_reducible apply State.setCmd_keeps
    | with_reducible apply State.readRegs_keeps
    | split
    | intro _ _ _
    | intro _ _
    | intro _
    | with_reducible refine Keeps.of2 (by with_reducible assumption) ?_
    | with_reducible refine Keeps.of1 (by with_reducible assumption) ?_
    | with_reducible refine Keeps.of3 (by with_reducible assumption) ?_
    | with_reducible refine Keeps.of4 (by with_reducible assumption) ?_
    | with_reducible apply Keeps.upto
    | with_reducible apply Keeps.foldl
    | with_reducible apply Keeps.foldl_snd_snd
    | with_reducible apply Keeps.foldl_snd
    | with_reducible apply Keeps.foldl_trd
    | with_reducible apply Keeps.foldl_fst_fst
    | with_reducible apply Keeps.foldl_fst
    | with_reducible apply Keeps.foldl_mid
    | dsimp only)

theorem State.copCompute_keeps {z₀ s : State} (k : ℕ) (u : ℕ) (opc : ℕ) (hz : Keeps z₀ s) :
    Keeps z₀ (State.copCompute s k u opc) := by
  unfold State.copCompute
  repeat' (first
    | with_reducible assumption
    | with_reducible apply State.setCmd_keeps
    | split
    | intro _ _ _
    | intro _ _
    | intro _
    | with_reducible refine Keeps.of2 (by with_reducible assumption) ?_
    | with_reducible refine Keeps.of1 (by with_reducible assumption) ?_
    | with_reducible refine Keeps.of3 (by with_reducible assumption) ?_
    | with_reducible refine Keeps.of4 (by with_reducible assumption) ?_
    | with_reducible apply Keeps.upto
    | with_reducible apply Keeps.foldl
    | with_reducible apply Keeps.foldl_snd_snd
    | with_reducible apply Keeps.foldl_snd
    | with_reducible apply Keeps.foldl_trd
    | with_reducible apply Keeps.foldl_fst_fst
    | with_reducible apply Keeps.foldl_fst
    | with_reducible apply Keeps.foldl_mid
    | dsimp only
    | (with_reducible apply Keeps.mk_other; first | with_reducible assumption | with_reducible apply State.setCmd_keeps))

theorem State.tagDone_keeps {z₀ s : State} (k : ℕ) (u : ℕ) (x : CopCmd) (detail : ℕ) (addr : ℕ) (hz : Keeps z₀ s) :
    Keeps z₀ (State.tagDone s k u x detail addr) := by
  unfold State.tagDone
  repeat' (first
    | with_reducible assumption
    | with_reducible apply State.freeTag_keeps
    | with_reducible apply State.deferCop_keeps
    | with_reducible apply State.sendNotice_keeps
    | split
    | intro _ _ _
    | intro _ _
    | intro _
    | with_reducible refine Keeps.of2 (by with_reducible assumption) ?_
    | with_reducible refine Keeps.of1 (by with_reducible assumption) ?_
    | with_reducible refine Keeps.of3 (by with_reducible assumption) ?_
    | with_reducible refine Keeps.of4 (by with_reducible assumption) ?_
    | with_reducible apply Keeps.upto
    | with_reducible apply Keeps.foldl
    | with_reducible apply Keeps.foldl_snd_snd
    | with_reducible apply Keeps.foldl_snd
    | with_reducible apply Keeps.foldl_trd
    | with_reducible apply Keeps.foldl_fst_fst
    | with_reducible apply Keeps.foldl_fst
    | with_reducible apply Keeps.foldl_mid
    | dsimp only
    | (with_reducible apply Keeps.mk_other
       first
       | with_reducible assumption
       | with_reducible apply State.freeTag_keeps
       | with_reducible apply State.deferCop_keeps
       | with_reducible apply State.sendNotice_keeps
       | split
       | intro _ _ _
       | intro _ _
       | intro _
       | with_reducible refine Keeps.of2 (by with_reducible assumption) ?_
       | with_reducible refine Keeps.of1 (by with_reducible assumption) ?_
       | with_reducible refine Keeps.of3 (by with_reducible assumption) ?_
       | with_reducible refine Keeps.of4 (by with_reducible assumption) ?_
       | with_reducible apply Keeps.upto
       | with_reducible apply Keeps.foldl
       | with_reducible apply Keeps.foldl_snd_snd
       | with_reducible apply Keeps.foldl_snd
       | with_reducible apply Keeps.foldl_trd
       | with_reducible apply Keeps.foldl_fst_fst
       | with_reducible apply Keeps.foldl_fst
       | with_reducible apply Keeps.foldl_mid
       | dsimp only)
    | (refine Keeps.mk_tables ?_ (by simp +contextual [State.tablesWf, swf_sput, swf_drop, swf])
       first
       | with_reducible assumption
       | with_reducible apply State.freeTag_keeps
       | with_reducible apply State.deferCop_keeps
       | with_reducible apply State.sendNotice_keeps
       | split
       | intro _ _ _
       | intro _ _
       | intro _
       | with_reducible refine Keeps.of2 (by with_reducible assumption) ?_
       | with_reducible refine Keeps.of1 (by with_reducible assumption) ?_
       | with_reducible refine Keeps.of3 (by with_reducible assumption) ?_
       | with_reducible refine Keeps.of4 (by with_reducible assumption) ?_
       | with_reducible apply Keeps.upto
       | with_reducible apply Keeps.foldl
       | with_reducible apply Keeps.foldl_snd_snd
       | with_reducible apply Keeps.foldl_snd
       | with_reducible apply Keeps.foldl_trd
       | with_reducible apply Keeps.foldl_fst_fst
       | with_reducible apply Keeps.foldl_fst
       | with_reducible apply Keeps.foldl_mid
       | dsimp only))

theorem State.writeResult_keeps {z₀ s : State} (k : ℕ) (u : ℕ) (x : CopCmd) (r : CopResult) (hz : Keeps z₀ s) :
    Keeps z₀ (State.writeResult s k u x r).2 := by
  unfold State.writeResult
  repeat' (first
    | with_reducible assumption
    | with_reducible apply State.busWrite_keeps
    | with_reducible apply State.setCR_keeps
    | split
    | intro _ _ _
    | intro _ _
    | intro _
    | with_reducible refine Keeps.of2 (by with_reducible assumption) ?_
    | with_reducible refine Keeps.of1 (by with_reducible assumption) ?_
    | with_reducible refine Keeps.of3 (by with_reducible assumption) ?_
    | with_reducible refine Keeps.of4 (by with_reducible assumption) ?_
    | with_reducible apply Keeps.upto
    | with_reducible apply Keeps.foldl)

theorem State.copComplete_keeps {z₀ s : State} (k : ℕ) (u : ℕ) (hz : Keeps z₀ s) :
    Keeps z₀ (State.copComplete s k u) := by
  unfold State.copComplete
  repeat' (first
    | with_reducible assumption
    | with_reducible apply State.setCop_keeps
    | with_reducible apply State.writeResult_keeps
    | with_reducible apply State.raise_keeps
    | with_reducible apply State.wf_keeps
    | with_reducible apply State.tagDone_keeps
    | with_reducible apply State.ctxErr_keeps
    | with_reducible apply State.pulse_keeps
    | split
    | intro _ _ _
    | intro _ _
    | intro _
    | with_reducible refine Keeps.of2 (by with_reducible assumption) ?_
    | with_reducible refine Keeps.of1 (by with_reducible assumption) ?_
    | with_reducible refine Keeps.of3 (by with_reducible assumption) ?_
    | with_reducible refine Keeps.of4 (by with_reducible assumption) ?_
    | with_reducible apply Keeps.upto
    | with_reducible apply Keeps.foldl
    | with_reducible apply Keeps.foldl_snd_snd
    | with_reducible apply Keeps.foldl_snd
    | with_reducible apply Keeps.foldl_trd
    | with_reducible apply Keeps.foldl_fst_fst
    | with_reducible apply Keeps.foldl_fst
    | with_reducible apply Keeps.foldl_mid
    | dsimp only)

theorem State.ntfTaken_keeps {z₀ s : State} (k : ℕ) (u : ℕ) (hz : Keeps z₀ s) :
    Keeps z₀ (State.ntfTaken s k u) := by
  unfold State.ntfTaken
  repeat' (first
    | with_reducible assumption
    | with_reducible apply State.tagDone_keeps
    | with_reducible apply State.setCop_keeps
    | split)

theorem State.copDeferred_keeps {z₀ s : State} (n : ℕ) (hz : Keeps z₀ s) :
    Keeps z₀ (State.copDeferred s n) := by
  unfold State.copDeferred
  repeat' (first
    | with_reducible assumption
    | with_reducible apply State.setCore_keeps
    | with_reducible apply State.ctxErr_keeps
    | with_reducible apply State.countMore_keeps
    | with_reducible apply State.takeAtBoundary_keeps
    | split
    | intro _ _ _
    | intro _ _
    | intro _
    | with_reducible refine Keeps.of2 (by with_reducible assumption) ?_
    | with_reducible refine Keeps.of1 (by with_reducible assumption) ?_
    | with_reducible refine Keeps.of3 (by with_reducible assumption) ?_
    | with_reducible refine Keeps.of4 (by with_reducible assumption) ?_
    | with_reducible apply Keeps.upto
    | with_reducible apply Keeps.foldl
    | with_reducible apply Keeps.foldl_snd_snd
    | with_reducible apply Keeps.foldl_snd
    | with_reducible apply Keeps.foldl_trd
    | with_reducible apply Keeps.foldl_fst_fst
    | with_reducible apply Keeps.foldl_fst
    | with_reducible apply Keeps.foldl_mid
    | dsimp only)

end Sys2Proof.Machine
end

