-- ==== Sys2Proof/Laws/KeepCellBase.lean ====
section
/-! SUPPORT. The functions of Machine/CellBase.lean keep the queue, what has been sent, and the invariant. -/

namespace Sys2Proof.Machine

theorem State.setCarrier_keeps {z₀ s : State} (n : ℕ) (c : Option Carrier) (hz : Keeps z₀ s) :
    Keeps z₀ (State.setCarrier s n c) := by
  unfold State.setCarrier
  repeat' (first
    | with_reducible assumption
    | split
    | intro _ _ _
    | intro _ _
    | intro _
    | with_reducible refine Keeps.of2 (by with_reducible assumption) ?_
    | with_reducible refine Keeps.of1 (by with_reducible assumption) ?_
    | with_reducible refine Keeps.of3 (by with_reducible assumption) ?_
    | with_reducible refine Keeps.of4 (by with_reducible assumption) ?_
    | with_reducible apply Keeps.upto
    | with_reducible apply Keeps.foldl
    | with_reducible apply Keeps.foldl_snd_snd
    | with_reducible apply Keeps.foldl_snd
    | with_reducible apply Keeps.foldl_trd
    | with_reducible apply Keeps.foldl_fst_fst
    | with_reducible apply Keeps.foldl_fst
    | with_reducible apply Keeps.foldl_mid
    | dsimp only
    | (with_reducible apply Keeps.mk_other; with_reducible assumption)
    | (refine Keeps.mk_tables ?_ (by simp +contextual [State.tablesWf, swf_sput, swf_drop]); with_reducible assumption))

theorem State.setTmpl_keeps {z₀ s : State} (p : ℕ) (k : ℕ) (t : Option Tmpl) (hz : Keeps z₀ s) :
    Keeps z₀ (State.setTmpl s p k t) := by
  unfold State.setTmpl
  repeat' (first
    | with_reducible assumption
    | with_reducible apply State.setEth_keeps)

theorem State.dropCarrier_keeps {z₀ s : State} (n : ℕ) (status : ℕ) (hz : Keeps z₀ s) :
    Keeps z₀ (State.dropCarrier s n status) := by
  unfold State.dropCarrier
  repeat' (first
    | with_reducible assumption
    | with_reducible apply State.setTmpl_keeps
    | with_reducible apply State.setCarrier_keeps
    | with_reducible apply State.wb_keeps
    | with_reducible apply State.finish_keeps
    | with_reducible apply State.setDelRun_keeps
    | split
    | intro _ _ _
    | intro _ _
    | intro _
    | with_reducible refine Keeps.of2 (by with_reducible assumption) ?_
    | with_reducible refine Keeps.of1 (by with_reducible assumption) ?_
    | with_reducible refine Keeps.of3 (by with_reducible assumption) ?_
    | with_reducible refine Keeps.of4 (by with_reducible assumption) ?_
    | with_reducible apply Keeps.upto
    | with_reducible apply Keeps.foldl
    | with_reducible apply Keeps.foldl_snd_snd
    | with_reducible apply Keeps.foldl_snd
    | with_reducible apply Keeps.foldl_trd
    | with_reducible apply Keeps.foldl_fst_fst
    | with_reducible apply Keeps.foldl_fst
    | with_reducible apply Keeps.foldl_mid
    | dsimp only
    | (with_reducible apply Keeps.mk_other; with_reducible assumption))

theorem State.dropRegion_keeps {z₀ s : State} (r : ℕ) (hz : Keeps z₀ s) :
    Keeps z₀ (State.dropRegion s r) := by
  unfold State.dropRegion
  repeat' (first
    | with_reducible assumption
    | with_reducible apply State.dropCarrier_keeps
    | split
    | intro _ _ _
    | intro _ _
    | intro _
    | with_reducible refine Keeps.of2 (by with_reducible assumption) ?_
    | with_reducible refine Keeps.of1 (by with_reducible assumption) ?_
    | with_reducible refine Keeps.of3 (by with_reducible assumption) ?_
    | with_reducible refine Keeps.of4 (by with_reducible assumption) ?_
    | with_reducible apply Keeps.upto
    | with_reducible apply Keeps.foldl)

end Sys2Proof.Machine
end

