-- ==== Sys2Proof/Laws/KeepResetBase.lean ====
section
/-! SUPPORT. The functions of Machine/ResetBase.lean keep the queue, what has been sent, and the invariant. -/

namespace Sys2Proof.Machine

theorem State.leaveTest_keeps {z₀ s : State} (hz : Keeps z₀ s) :
    Keeps z₀ (State.leaveTest s) := by
  unfold State.leaveTest
  repeat' (first
    | with_reducible assumption
    | with_reducible apply State.wf_keeps
    | with_reducible apply State.setEth_keeps
    | with_reducible apply State.drawWords_keeps
    | with_reducible apply State.draw_keeps
    | with_reducible apply State.finish_keeps
    | split
    | intro _ _ _
    | intro _ _
    | intro _
    | with_reducible refine Keeps.of2 (by with_reducible assumption) ?_
    | with_reducible refine Keeps.of1 (by with_reducible assumption) ?_
    | with_reducible refine Keeps.of3 (by with_reducible assumption) ?_
    | with_reducible refine Keeps.of4 (by with_reducible assumption) ?_
    | with_reducible apply Keeps.upto
    | with_reducible apply Keeps.foldl
    | with_reducible apply Keeps.foldl_snd_snd
    | with_reducible apply Keeps.foldl_snd
    | with_reducible apply Keeps.foldl_trd
    | with_reducible apply Keeps.foldl_fst_fst
    | with_reducible apply Keeps.foldl_fst
    | with_reducible apply Keeps.foldl_mid
    | dsimp only
    | (with_reducible apply Keeps.mk_other
       first
       | with_reducible assumption
       | with_reducible apply State.wf_keeps
       | with_reducible apply State.setEth_keeps
       | with_reducible apply State.drawWords_keeps
       | with_reducible apply State.draw_keeps
       | with_reducible apply State.finish_keeps
       | split
       | intro _ _ _
       | intro _ _
       | intro _
       | with_reducible refine Keeps.of2 (by with_reducible assumption) ?_
       | with_reducible refine Keeps.of1 (by with_reducible assumption) ?_
       | with_reducible refine Keeps.of3 (by with_reducible assumption) ?_
       | with_reducible refine Keeps.of4 (by with_reducible assumption) ?_
       | with_reducible apply Keeps.upto
       | with_reducible apply Keeps.foldl
       | with_reducible apply Keeps.foldl_snd_snd
       | with_reducible apply Keeps.foldl_snd
       | with_reducible apply Keeps.foldl_trd
       | with_reducible apply Keeps.foldl_fst_fst
       | with_reducible apply Keeps.foldl_fst
       | with_reducible apply Keeps.foldl_mid
       | dsimp only)
    | (refine Keeps.mk_tables ?_ (by simp +contextual [State.tablesWf, swf_sput, swf_drop, swf])
       first
       | with_reducible assumption
       | with_reducible apply State.wf_keeps
       | with_reducible apply State.setEth_keeps
       | with_reducible apply State.drawWords_keeps
       | with_reducible apply State.draw_keeps
       | with_reducible apply State.finish_keeps
       | split
       | intro _ _ _
       | intro _ _
       | intro _
       | with_reducible refine Keeps.of2 (by with_reducible assumption) ?_
       | with_reducible refine Keeps.of1 (by with_reducible assumption) ?_
       | with_reducible refine Keeps.of3 (by with_reducible assumption) ?_
       | with_reducible refine Keeps.of4 (by with_reducible assumption) ?_
       | with_reducible apply Keeps.upto
       | with_reducible apply Keeps.foldl
       | with_reducible apply Keeps.foldl_snd_snd
       | with_reducible apply Keeps.foldl_snd
       | with_reducible apply Keeps.foldl_trd
       | with_reducible apply Keeps.foldl_fst_fst
       | with_reducible apply Keeps.foldl_fst
       | with_reducible apply Keeps.foldl_mid
       | dsimp only))

theorem State.dropTimedSteps_keeps {z₀ s : State} (hz : Keeps z₀ s) :
    Keeps z₀ (State.dropTimedSteps s) := by
  unfold State.dropTimedSteps
  repeat' (first
    | with_reducible assumption
    | with_reducible apply State.aoSync_keeps
    | with_reducible apply State.setChan_keeps
    | split
    | intro _ _ _
    | intro _ _
    | intro _
    | with_reducible refine Keeps.of2 (by with_reducible assumption) ?_
    | with_reducible refine Keeps.of1 (by with_reducible assumption) ?_
    | with_reducible refine Keeps.of3 (by with_reducible assumption) ?_
    | with_reducible refine Keeps.of4 (by with_reducible assumption) ?_
    | with_reducible apply Keeps.upto)

theorem State.dropTimedTx_keeps {z₀ s : State} (hz : Keeps z₀ s) :
    Keeps z₀ (State.dropTimedTx s) := by
  unfold State.dropTimedTx
  repeat' (first
    | with_reducible assumption
    | with_reducible apply State.setTxq_keeps
    | split
    | intro _ _ _
    | intro _ _
    | intro _
    | with_reducible refine Keeps.of2 (by with_reducible assumption) ?_
    | with_reducible refine Keeps.of1 (by with_reducible assumption) ?_
    | with_reducible refine Keeps.of3 (by with_reducible assumption) ?_
    | with_reducible refine Keeps.of4 (by with_reducible assumption) ?_
    | with_reducible apply Keeps.upto)

theorem State.sleepEnd_keeps {z₀ s : State} (status : ℕ) (ws : List Word) (hz : Keeps z₀ s) :
    Keeps z₀ (State.sleepEnd s status ws) := by
  unfold State.sleepEnd
  repeat' (first
    | with_reducible assumption
    | with_reducible apply State.finish_keeps
    | with_reducible apply State.wb_keeps
    | with_reducible apply State.txEntry_keeps
    | with_reducible apply State.respond_keeps
    | split
    | intro _ _ _
    | intro _ _
    | intro _
    | with_reducible refine Keeps.of2 (by with_reducible assumption) ?_
    | with_reducible refine Keeps.of1 (by with_reducible assumption) ?_
    | with_reducible refine Keeps.of3 (by with_reducible assumption) ?_
    | with_reducible refine Keeps.of4 (by with_reducible assumption) ?_
    | with_reducible apply Keeps.upto
    | with_reducible apply Keeps.foldl
    | with_reducible apply Keeps.foldl_snd_snd
    | with_reducible apply Keeps.foldl_snd
    | with_reducible apply Keeps.foldl_trd
    | with_reducible apply Keeps.foldl_fst_fst
    | with_reducible apply Keeps.foldl_fst
    | with_reducible apply Keeps.foldl_mid
    | dsimp only
    | (with_reducible apply Keeps.mk_other
       first
       | with_reducible assumption
       | with_reducible apply State.finish_keeps
       | with_reducible apply State.wb_keeps
       | with_reducible apply State.txEntry_keeps
       | with_reducible apply State.respond_keeps
       | split
       | intro _ _ _
       | intro _ _
       | intro _
       | with_reducible refine Keeps.of2 (by with_reducible assumption) ?_
       | with_reducible refine Keeps.of1 (by with_reducible assumption) ?_
       | with_reducible refine Keeps.of3 (by with_reducible assumption) ?_
       | with_reducible refine Keeps.of4 (by with_reducible assumption) ?_
       | with_reducible apply Keeps.upto
       | with_reducible apply Keeps.foldl
       | with_reducible apply Keeps.foldl_snd_snd
       | with_reducible apply Keeps.foldl_snd
       | with_reducible apply Keeps.foldl_trd
       | with_reducible apply Keeps.foldl_fst_fst
       | with_reducible apply Keeps.foldl_fst
       | with_reducible apply Keeps.foldl_mid
       | dsimp only)
    | (refine Keeps.mk_tables ?_ (by simp +contextual [State.tablesWf, swf_sput, swf_drop, swf])
       first
       | with_reducible assumption
       | with_reducible apply State.finish_keeps
       | with_reducible apply State.wb_keeps
       | with_reducible apply State.txEntry_keeps
       | with_reducible apply State.respond_keeps
       | split
       | intro _ _ _
       | intro _ _
       | intro _
       | with_reducible refine Keeps.of2 (by with_reducible assumption) ?_
       | with_reducible refine Keeps.of1 (by with_reducible assumption) ?_
       | with_reducible refine Keeps.of3 (by with_reducible assumption) ?_
       | with_reducible refine Keeps.of4 (by with_reducible assumption) ?_
       | with_reducible apply Keeps.upto
       | with_reducible apply Keeps.foldl
       | with_reducible apply Keeps.foldl_snd_snd
       | with_reducible apply Keeps.foldl_snd
       | with_reducible apply Keeps.foldl_trd
       | with_reducible apply Keeps.foldl_fst_fst
       | with_reducible apply Keeps.foldl_fst
       | with_reducible apply Keeps.foldl_mid
       | dsimp only))

theorem State.domQuiesce_keeps {z₀ s : State} (d : ℕ) (hz : Keeps z₀ s) :
    Keeps z₀ (State.domQuiesce s d) := by
  unfold State.domQuiesce
  repeat' (first
    | with_reducible assumption
    | with_reducible apply State.setUnavail_keeps
    | with_reducible apply State.cpDown_keeps
    | split
    | intro _ _ _
    | intro _ _
    | intro _
    | with_reducible refine Keeps.of2 (by with_reducible assumption) ?_
    | with_reducible refine Keeps.of1 (by with_reducible assumption) ?_
    | with_reducible refine Keeps.of3 (by with_reducible assumption) ?_
    | with_reducible refine Keeps.of4 (by with_reducible assumption) ?_
    | with_reducible apply Keeps.upto
    | with_reducible apply Keeps.foldl
    | with_reducible apply Keeps.foldl_snd_snd
    | with_reducible apply Keeps.foldl_snd
    | with_reducible apply Keeps.foldl_trd
    | with_reducible apply Keeps.foldl_fst_fst
    | with_reducible apply Keeps.foldl_fst
    | with_reducible apply Keeps.foldl_mid
    | dsimp only
    | (with_reducible apply Keeps.mk_other
       first
       | with_reducible assumption
       | with_reducible apply State.setUnavail_keeps
       | with_reducible apply State.cpDown_keeps
       | split
       | intro _ _ _
       | intro _ _
       | intro _
       | with_reducible refine Keeps.of2 (by with_reducible assumption) ?_
       | with_reducible refine Keeps.of1 (by with_reducible assumption) ?_
       | with_reducible refine Keeps.of3 (by with_reducible assumption) ?_
       | with_reducible refine Keeps.of4 (by with_reducible assumption) ?_
       | with_reducible apply Keeps.upto
       | with_reducible apply Keeps.foldl
       | with_reducible apply Keeps.foldl_snd_snd
       | with_reducible apply Keeps.foldl_snd
       | with_reducible apply Keeps.foldl_trd
       | with_reducible apply Keeps.foldl_fst_fst
       | with_reducible apply Keeps.foldl_fst
       | with_reducible apply Keeps.foldl_mid
       | dsimp only)
    | (refine Keeps.mk_tables ?_ (by simp +contextual [State.tablesWf, swf_sput, swf_drop, swf])
       first
       | with_reducible assumption
       | with_reducible apply State.setUnavail_keeps
       | with_reducible apply State.cpDown_keeps
       | split
       | intro _ _ _
       | intro _ _
       | intro _
       | with_reducible refine Keeps.of2 (by with_reducible assumption) ?_
       | with_reducible refine Keeps.of1 (by with_reducible assumption) ?_
       | with_reducible refine Keeps.of3 (by with_reducible assumption) ?_
       | with_reducible refine Keeps.of4 (by with_reducible assumption) ?_
       | with_reducible apply Keeps.upto
       | with_reducible apply Keeps.foldl
       | with_reducible apply Keeps.foldl_snd_snd
       | with_reducible apply Keeps.foldl_snd
       | with_reducible apply Keeps.foldl_trd
       | with_reducible apply Keeps.foldl_fst_fst
       | with_reducible apply Keeps.foldl_fst
       | with_reducible apply Keeps.foldl_mid
       | dsimp only))

theorem State.haltDrain_keeps {z₀ s : State} (hz : Keeps z₀ s) :
    Keeps z₀ (State.haltDrain s) := by
  unfold State.haltDrain
  repeat' (first
    | with_reducible assumption
    | with_reducible apply State.finish_keeps
    | with_reducible apply State.domQuiesce_keeps
    | split
    | intro _ _ _
    | intro _ _
    | intro _
    | with_reducible refine Keeps.of2 (by with_reducible assumption) ?_
    | with_reducible refine Keeps.of1 (by with_reducible assumption) ?_
    | with_reducible refine Keeps.of3 (by with_reducible assumption) ?_
    | with_reducible refine Keeps.of4 (by with_reducible assumption) ?_
    | with_reducible apply Keeps.upto
    | with_reducible apply Keeps.foldl
    | with_reducible apply Keeps.foldl_snd_snd
    | with_reducible apply Keeps.foldl_snd
    | with_reducible apply Keeps.foldl_trd
    | with_reducible apply Keeps.foldl_fst_fst
    | with_reducible apply Keeps.foldl_fst
    | with_reducible apply Keeps.foldl_mid
    | dsimp only
    | (with_reducible apply Keeps.mk_other
       first
       | with_reducible assumption
       | with_reducible apply State.finish_keeps
       | with_reducible apply State.domQuiesce_keeps
       | split
       | intro _ _ _
       | intro _ _
       | intro _
       | with_reducible refine Keeps.of2 (by with_reducible assumption) ?_
       | with_reducible refine Keeps.of1 (by with_reducible assumption) ?_
       | with_reducible refine Keeps.of3 (by with_reducible assumption) ?_
       | with_reducible refine Keeps.of4 (by with_reducible assumption) ?_
       | with_reducible apply Keeps.upto
       | with_reducible apply Keeps.foldl
       | with_reducible apply Keeps.foldl_snd_snd
       | with_reducible apply Keeps.foldl_snd
       | with_reducible apply Keeps.foldl_trd
       | with_reducible apply Keeps.foldl_fst_fst
       | with_reducible apply Keeps.foldl_fst
       | with_reducible apply Keeps.foldl_mid
       | dsimp only)
    | (refine Keeps.mk_tables ?_ (by simp +contextual [State.tablesWf, swf_sput, swf_drop, swf])
       first
       | with_reducible assumption
       | with_reducible apply State.finish_keeps
       | with_reducible apply State.domQuiesce_keeps
       | split
       | intro _ _ _
       | intro _ _
       | intro _
       | with_reducible refine Keeps.of2 (by with_reducible assumption) ?_
       | with_reducible refine Keeps.of1 (by with_reducible assumption) ?_
       | with_reducible refine Keeps.of3 (by with_reducible assumption) ?_
       | with_reducible refine Keeps.of4 (by with_reducible assumption) ?_
       | with_reducible apply Keeps.upto
       | with_reducible apply Keeps.foldl
       | with_reducible apply Keeps.foldl_snd_snd
       | with_reducible apply Keeps.foldl_snd
       | with_reducible apply Keeps.foldl_trd
       | with_reducible apply Keeps.foldl_fst_fst
       | with_reducible apply Keeps.foldl_fst
       | with_reducible apply Keeps.foldl_mid
       | dsimp only))

theorem swf_noSlots {m : Sparse (Option Carrier)} (h : swf (fun _ => (none : Option Carrier)) m = true) :
    swf (fun _ => (none : Option Carrier)) (m.map State.noSlots) = true ∧ ∀ j : Nat, (∀ e ∈ m.head?, j < e.1) → ∀ e ∈ (m.map State.noSlots).head?, j < e.1 := by
  induction m with
  | nil => exact ⟨rfl, fun j hj => hj⟩
  | cons e m ih =>
    obtain ⟨k, v⟩ := e
    have h' := swf_cons.mp h
    have ih' := ih h'.2.2
    obtain ⟨c, rfl⟩ : ∃ c, v = some c := Option.ne_none_iff_exists'.mp h'.1
    exact ⟨swf_cons.mpr ⟨by simp, ih'.2 k h'.2.1, ih'.1⟩, fun j hj e he => by
      simp [State.noSlots] at he; subst he; exact hj (k, some c) (by simp)⟩

theorem Keeps.endSlots {a s : State} (h : Keeps a s) : Keeps a { s with carriers := s.carriers.map State.noSlots } :=
  h.mk_tables (by simp +contextual [State.tablesWf, swf_noSlots])

theorem State.haltEnter_keeps {z₀ s : State} (cause : ℕ) (param : ℕ) (hz : Keeps z₀ s) :
    Keeps z₀ (State.haltEnter s cause param) := by
  unfold State.haltEnter
  repeat' (first
    | with_reducible assumption
    | with_reducible apply State.leaveTest_keeps
    | with_reducible apply State.wf_keeps
    | with_reducible apply State.dropTimedSteps_keeps
    | with_reducible apply State.dropTimedTx_keeps
    | with_reducible apply State.sleepEnd_keeps
    | with_reducible apply State.enterMode_keeps
    | with_reducible apply Keeps.emit
    | with_reducible apply State.safeMoveAll_keeps
    | with_reducible apply State.gbTrigger_keeps
    | with_reducible apply State.haltDrain_keeps
    | split
    | intro _ _ _
    | intro _ _
    | intro _
    | with_reducible refine Keeps.of2 (by with_reducible assumption) ?_
    | with_reducible refine Keeps.of1 (by with_reducible assumption) ?_
    | with_reducible refine Keeps.of3 (by with_reducible assumption) ?_
    | with_reducible refine Keeps.of4 (by with_reducible assumption) ?_
    | with_reducible apply Keeps.upto
    | with_reducible apply Keeps.foldl
    | with_reducible apply Keeps.foldl_snd_snd
    | with_reducible apply Keeps.foldl_snd
    | with_reducible apply Keeps.foldl_trd
    | with_reducible apply Keeps.foldl_fst_fst
    | with_reducible apply Keeps.foldl_fst
    | with_reducible apply Keeps.foldl_mid
    | with_reducible apply Keeps.endSlots
    | dsimp only
    | (with_reducible apply Keeps.mk_other
       first
       | with_reducible assumption
       | with_reducible apply State.leaveTest_keeps
       | with_reducible apply State.wf_keeps
       | with_reducible apply State.dropTimedSteps_keeps
       | with_reducible apply State.dropTimedTx_keeps
       | with_reducible apply State.sleepEnd_keeps
       | with_reducible apply State.enterMode_keeps
       | with_reducible apply Keeps.emit
       | with_reducible apply State.safeMoveAll_keeps
       | with_reducible apply State.gbTrigger_keeps
       | with_reducible apply State.haltDrain_keeps
       | split
       | intro _ _ _
       | intro _ _
       | intro _
       | with_reducible refine Keeps.of2 (by with_reducible assumption) ?_
       | with_reducible refine Keeps.of1 (by with_reducible assumption) ?_
       | with_reducible refine Keeps.of3 (by with_reducible assumption) ?_
       | with_reducible refine Keeps.of4 (by with_reducible assumption) ?_
       | with_reducible apply Keeps.upto
       | with_reducible apply Keeps.foldl
       | with_reducible apply Keeps.foldl_snd_snd
       | with_reducible apply Keeps.foldl_snd
       | with_reducible apply Keeps.foldl_trd
       | with_reducible apply Keeps.foldl_fst_fst
       | with_reducible apply Keeps.foldl_fst
       | with_reducible apply Keeps.foldl_mid
       | dsimp only)
    | (refine Keeps.mk_tables ?_ (by simp +contextual [State.tablesWf, swf_sput, swf_drop, swf])
       first
       | with_reducible assumption
       | with_reducible apply State.leaveTest_keeps
       | with_reducible apply State.wf_keeps
       | with_reducible apply State.dropTimedSteps_keeps
       | with_reducible apply State.dropTimedTx_keeps
       | with_reducible apply State.sleepEnd_keeps
       | with_reducible apply State.enterMode_keeps
       | with_reducible apply Keeps.emit
       | with_reducible apply State.safeMoveAll_keeps
       | with_reducible apply State.gbTrigger_keeps
       | with_reducible apply State.haltDrain_keeps
       | split
       | intro _ _ _
       | intro _ _
       | intro _
       | with_reducible refine Keeps.of2 (by with_reducible assumption) ?_
       | with_reducible refine Keeps.of1 (by with_reducible assumption) ?_
       | with_reducible refine Keeps.of3 (by with_reducible assumption) ?_
       | with_reducible refine Keeps.of4 (by with_reducible assumption) ?_
       | with_reducible apply Keeps.upto
       | with_reducible apply Keeps.foldl
       | with_reducible apply Keeps.foldl_snd_snd
       | with_reducible apply Keeps.foldl_snd
       | with_reducible apply Keeps.foldl_trd
       | with_reducible apply Keeps.foldl_fst_fst
       | with_reducible apply Keeps.foldl_fst
       | with_reducible apply Keeps.foldl_mid
       | dsimp only))

theorem State.setDom_keeps {z₀ s : State} (d : ℕ) (b : Bool) (hz : Keeps z₀ s) :
    Keeps z₀ (State.setDom s d b) := by
  unfold State.setDom
  repeat' (first
    | with_reducible assumption
    | with_reducible apply State.raise_keeps
    | with_reducible apply State.wf_keeps
    | split)

theorem State.dropEvents_keeps {z₀ s : State} (i : ℕ) (hz : Keeps z₀ s) :
    Keeps z₀ (State.dropEvents s i) := by
  unfold State.dropEvents
  repeat' (first
    | with_reducible assumption
    | with_reducible apply State.incSat_keeps
    | with_reducible apply State.setEvq_keeps)

theorem State.staleCmds_keeps {z₀ s : State} (i : ℕ) (hz : Keeps z₀ s) :
    Keeps z₀ (State.staleCmds s i) := by
  unfold State.staleCmds
  repeat' (first
    | with_reducible assumption
    | split
    | intro _ _ _
    | intro _ _
    | intro _
    | with_reducible refine Keeps.of2 (by with_reducible assumption) ?_
    | with_reducible refine Keeps.of1 (by with_reducible assumption) ?_
    | with_reducible refine Keeps.of3 (by with_reducible assumption) ?_
    | with_reducible refine Keeps.of4 (by with_reducible assumption) ?_
    | with_reducible apply Keeps.upto
    | with_reducible apply Keeps.foldl
    | with_reducible apply Keeps.foldl_snd_snd
    | with_reducible apply Keeps.foldl_snd
    | with_reducible apply Keeps.foldl_trd
    | with_reducible apply Keeps.foldl_fst_fst
    | with_reducible apply Keeps.foldl_fst
    | with_reducible apply Keeps.foldl_mid
    | dsimp only
    | (with_reducible apply Keeps.mk_other
       first
       | with_reducible assumption
       | split
       | intro _ _ _
       | intro _ _
       | intro _
       | with_reducible refine Keeps.of2 (by with_reducible assumption) ?_
       | with_reducible refine Keeps.of1 (by with_reducible assumption) ?_
       | with_reducible refine Keeps.of3 (by with_reducible assumption) ?_
       | with_reducible refine Keeps.of4 (by with_reducible assumption) ?_
       | with_reducible apply Keeps.upto
       | with_reducible apply Keeps.foldl
       | with_reducible apply Keeps.foldl_snd_snd
       | with_reducible apply Keeps.foldl_snd
       | with_reducible apply Keeps.foldl_trd
       | with_reducible apply Keeps.foldl_fst_fst
       | with_reducible apply Keeps.foldl_fst
       | with_reducible apply Keeps.foldl_mid
       | dsimp only)
    | (refine Keeps.mk_tables ?_ (by simp +contextual [State.tablesWf, swf_sput, swf_drop, swf])
       first
       | with_reducible assumption
       | split
       | intro _ _ _
       | intro _ _
       | intro _
       | with_reducible refine Keeps.of2 (by with_reducible assumption) ?_
       | with_reducible refine Keeps.of1 (by with_reducible assumption) ?_
       | with_reducible refine Keeps.of3 (by with_reducible assumption) ?_
       | with_reducible refine Keeps.of4 (by with_reducible assumption) ?_
       | with_reducible apply Keeps.upto
       | with_reducible apply Keeps.foldl
       | with_reducible apply Keeps.foldl_snd_snd
       | with_reducible apply Keeps.foldl_snd
       | with_reducible apply Keeps.foldl_trd
       | with_reducible apply Keeps.foldl_fst_fst
       | with_reducible apply Keeps.foldl_fst
       | with_reducible apply Keeps.foldl_mid
       | dsimp only))

theorem State.resetCores_keeps {z₀ s : State} (p : ℕ → Bool) (kind : ℕ) (hz : Keeps z₀ s) :
    Keeps z₀ (State.resetCores s p kind) := by
  unfold State.resetCores
  repeat' (first
    | with_reducible assumption
    | with_reducible apply State.setCore_keeps
    | split
    | intro _ _ _
    | intro _ _
    | intro _
    | with_reducible refine Keeps.of2 (by with_reducible assumption) ?_
    | with_reducible refine Keeps.of1 (by with_reducible assumption) ?_
    | with_reducible refine Keeps.of3 (by with_reducible assumption) ?_
    | with_reducible refine Keeps.of4 (by with_reducible assumption) ?_
    | with_reducible apply Keeps.upto
    | with_reducible apply Keeps.foldl
    | with_reducible apply Keeps.foldl_snd_snd
    | with_reducible apply Keeps.foldl_snd
    | with_reducible apply Keeps.foldl_trd
    | with_reducible apply Keeps.foldl_fst_fst
    | with_reducible apply Keeps.foldl_fst
    | with_reducible apply Keeps.foldl_mid
    | dsimp only
    | (refine Keeps.mk_tables ?_ (by simp +contextual [State.tablesWf, swf_sput, swf_drop, swf]); with_reducible assumption))

theorem Keeps.dropCluster {a s : State} (h : Keeps a s) (p q r : Nat → Bool) :
    Keeps a { s with cops := sdrop p s.cops, pchans := sdrop q s.pchans, clk := sdrop r s.clk } :=
  h.mk_tables (by simp +contextual [State.tablesWf, swf_drop])

theorem State.resetUnits_keeps {z₀ s : State} (i : ℕ) (kind : ℕ) (hz : Keeps z₀ s) :
    Keeps z₀ (State.resetUnits s i kind) := by
  unfold State.resetUnits
  extract_lets t
  have h : Keeps z₀ t := State.staleCmds_keeps _ (State.resetCores_keeps _ kind hz)
  clear_value t
  repeat' split
  · exact h.dropCluster _ _ _
  · exact hz.mk_tables (by simp +contextual [State.tablesWf, swf_drop])
  · exact hz.mk_tables (by simp +contextual [State.tablesWf, swf_drop])
  · exact hz.mk_tables (by simp +contextual [State.tablesWf, swf_drop])
  · exact hz.mk_tables (by simp +contextual [State.tablesWf, swf_drop])
  · exact hz

theorem State.keepStopped_keeps {z₀ s : State} (was : State) (i : ℕ) (kind : ℕ) (hz : Keeps z₀ s) :
    Keeps z₀ (State.keepStopped s was i kind) := by
  unfold State.keepStopped
  repeat' (first
    | with_reducible assumption
    | with_reducible apply State.wb_keeps
    | split
    | intro _ _ _
    | intro _ _
    | intro _
    | with_reducible refine Keeps.of2 (by with_reducible assumption) ?_
    | with_reducible refine Keeps.of1 (by with_reducible assumption) ?_
    | with_reducible refine Keeps.of3 (by with_reducible assumption) ?_
    | with_reducible refine Keeps.of4 (by with_reducible assumption) ?_
    | with_reducible apply Keeps.upto
    | with_reducible apply Keeps.foldl
    | with_reducible apply Keeps.foldl_snd_snd
    | with_reducible apply Keeps.foldl_snd
    | with_reducible apply Keeps.foldl_trd
    | with_reducible apply Keeps.foldl_fst_fst
    | with_reducible apply Keeps.foldl_fst
    | with_reducible apply Keeps.foldl_mid
    | dsimp only
    | (with_reducible apply Keeps.mk_other
       first
       | with_reducible assumption
       | with_reducible apply State.wb_keeps
       | split
       | intro _ _ _
       | intro _ _
       | intro _
       | with_reducible refine Keeps.of2 (by with_reducible assumption) ?_
       | with_reducible refine Keeps.of1 (by with_reducible assumption) ?_
       | with_reducible refine Keeps.of3 (by with_reducible assumption) ?_
       | with_reducible refine Keeps.of4 (by with_reducible assumption) ?_
       | with_reducible apply Keeps.upto
       | with_reducible apply Keeps.foldl
       | with_reducible apply Keeps.foldl_snd_snd
       | with_reducible apply Keeps.foldl_snd
       | with_reducible apply Keeps.foldl_trd
       | with_reducible apply Keeps.foldl_fst_fst
       | with_reducible apply Keeps.foldl_fst
       | with_reducible apply Keeps.foldl_mid
       | dsimp only)
    | (refine Keeps.mk_tables ?_ (by simp +contextual [State.tablesWf, swf_sput, swf_drop, swf])
       first
       | with_reducible assumption
       | with_reducible apply State.wb_keeps
       | split
       | intro _ _ _
       | intro _ _
       | intro _
       | with_reducible refine Keeps.of2 (by with_reducible assumption) ?_
       | with_reducible refine Keeps.of1 (by with_reducible assumption) ?_
       | with_reducible refine Keeps.of3 (by with_reducible assumption) ?_
       | with_reducible refine Keeps.of4 (by with_reducible assumption) ?_
       | with_reducible apply Keeps.upto
       | with_reducible apply Keeps.foldl
       | with_reducible apply Keeps.foldl_snd_snd
       | with_reducible apply Keeps.foldl_snd
       | with_reducible apply Keeps.foldl_trd
       | with_reducible apply Keeps.foldl_fst_fst
       | with_reducible apply Keeps.foldl_fst
       | with_reducible apply Keeps.foldl_mid
       | dsimp only))

theorem State.resetRegs_keeps {z₀ s : State} (p : ℕ → Bool) (kind : ℕ) (hz : Keeps z₀ s) :
    Keeps z₀ (State.resetRegs s p kind) := by
  unfold State.resetRegs
  repeat' (first
    | with_reducible assumption
    | with_reducible apply Keeps.setReg
    | split
    | intro _ _ _
    | intro _ _
    | intro _
    | with_reducible refine Keeps.of2 (by with_reducible assumption) ?_
    | with_reducible refine Keeps.of1 (by with_reducible assumption) ?_
    | with_reducible refine Keeps.of3 (by with_reducible assumption) ?_
    | with_reducible refine Keeps.of4 (by with_reducible assumption) ?_
    | with_reducible apply Keeps.upto
    | with_reducible apply Keeps.foldl)

theorem State.resetIsland_keeps {z₀ s : State} (i : ℕ) (kind : ℕ) (hz : Keeps z₀ s) :
    Keeps z₀ (State.resetIsland s i kind) := by
  unfold State.resetIsland
  repeat' (first
    | with_reducible assumption
    | with_reducible apply State.setEccq_keeps
    | with_reducible apply State.dropEvents_keeps
    | with_reducible apply State.setXing_keeps
    | with_reducible apply State.dropBursts_keeps
    | with_reducible apply State.resetUnits_keeps
    | with_reducible apply State.keepStopped_keeps
    | with_reducible apply State.resetRegs_keeps
    | split
    | intro _ _ _
    | intro _ _
    | intro _
    | with_reducible refine Keeps.of2 (by with_reducible assumption) ?_
    | with_reducible refine Keeps.of1 (by with_reducible assumption) ?_
    | with_reducible refine Keeps.of3 (by with_reducible assumption) ?_
    | with_reducible refine Keeps.of4 (by with_reducible assumption) ?_
    | with_reducible apply Keeps.upto
    | with_reducible apply Keeps.foldl
    | with_reducible apply Keeps.foldl_snd_snd
    | with_reducible apply Keeps.foldl_snd
    | with_reducible apply Keeps.foldl_trd
    | with_reducible apply Keeps.foldl_fst_fst
    | with_reducible apply Keeps.foldl_fst
    | with_reducible apply Keeps.foldl_mid
    | dsimp only
    | (with_reducible apply Keeps.mk_other
       first
       | with_reducible assumption
       | with_reducible apply State.setEccq_keeps
       | with_reducible apply State.dropEvents_keeps
       | with_reducible apply State.setXing_keeps
       | with_reducible apply State.dropBursts_keeps
       | with_reducible apply State.resetUnits_keeps
       | with_reducible apply State.keepStopped_keeps
       | with_reducible apply State.resetRegs_keeps
       | split
       | intro _ _ _
       | intro _ _
       | intro _
       | with_reducible refine Keeps.of2 (by with_reducible assumption) ?_
       | with_reducible refine Keeps.of1 (by with_reducible assumption) ?_
       | with_reducible refine Keeps.of3 (by with_reducible assumption) ?_
       | with_reducible refine Keeps.of4 (by with_reducible assumption) ?_
       | with_reducible apply Keeps.upto
       | with_reducible apply Keeps.foldl
       | with_reducible apply Keeps.foldl_snd_snd
       | with_reducible apply Keeps.foldl_snd
       | with_reducible apply Keeps.foldl_trd
       | with_reducible apply Keeps.foldl_fst_fst
       | with_reducible apply Keeps.foldl_fst
       | with_reducible apply Keeps.foldl_mid
       | dsimp only)
    | (refine Keeps.mk_tables ?_ (by simp +contextual [State.tablesWf, swf_sput, swf_drop, swf])
       first
       | with_reducible assumption
       | with_reducible apply State.setEccq_keeps
       | with_reducible apply State.dropEvents_keeps
       | with_reducible apply State.setXing_keeps
       | with_reducible apply State.dropBursts_keeps
       | with_reducible apply State.resetUnits_keeps
       | with_reducible apply State.keepStopped_keeps
       | with_reducible apply State.resetRegs_keeps
       | split
       | intro _ _ _
       | intro _ _
       | intro _
       | with_reducible refine Keeps.of2 (by with_reducible assumption) ?_
       | with_reducible refine Keeps.of1 (by with_reducible assumption) ?_
       | with_reducible refine Keeps.of3 (by with_reducible assumption) ?_
       | with_reducible refine Keeps.of4 (by with_reducible assumption) ?_
       | with_reducible apply Keeps.upto
       | with_reducible apply Keeps.foldl
       | with_reducible apply Keeps.foldl_snd_snd
       | with_reducible apply Keeps.foldl_snd
       | with_reducible apply Keeps.foldl_trd
       | with_reducible apply Keeps.foldl_fst_fst
       | with_reducible apply Keeps.foldl_fst
       | with_reducible apply Keeps.foldl_mid
       | dsimp only))

theorem State.clearDom_keeps {z₀ s : State} (d : ℕ) (hz : Keeps z₀ s) :
    Keeps z₀ (State.clearDom s d) := by
  unfold State.clearDom
  repeat' (first
    | with_reducible assumption
    | with_reducible apply State.resetIsland_keeps
    | with_reducible apply State.resetCores_keeps
    | with_reducible apply State.setCop_keeps
    | split
    | intro _ _ _
    | intro _ _
    | intro _
    | with_reducible refine Keeps.of2 (by with_reducible assumption) ?_
    | with_reducible refine Keeps.of1 (by with_reducible assumption) ?_
    | with_reducible refine Keeps.of3 (by with_reducible assumption) ?_
    | with_reducible refine Keeps.of4 (by with_reducible assumption) ?_
    | with_reducible apply Keeps.upto
    | with_reducible apply Keeps.foldl
    | with_reducible apply Keeps.foldl_snd_snd
    | with_reducible apply Keeps.foldl_snd
    | with_reducible apply Keeps.foldl_trd
    | with_reducible apply Keeps.foldl_fst_fst
    | with_reducible apply Keeps.foldl_fst
    | with_reducible apply Keeps.foldl_mid
    | dsimp only
    | (refine Keeps.mk_tables ?_ (by simp +contextual [State.tablesWf, swf_sput, swf_drop, swf]); with_reducible assumption))

theorem State.resetDone_keeps {z₀ s : State} (i : ℕ) (kind : ℕ) (p3 : ℕ) (hz : Keeps z₀ s) :
    Keeps z₀ (State.resetDone s i kind p3) := by
  unfold State.resetDone
  repeat' (first
    | with_reducible assumption
    | with_reducible apply State.raise_keeps)

theorem State.domUp_keeps {z₀ s : State} (d : ℕ) (hz : Keeps z₀ s) :
    Keeps z₀ (State.domUp s d) := by
  unfold State.domUp
  repeat' (first
    | with_reducible assumption
    | with_reducible apply State.setDom_keeps
    | with_reducible apply Keeps.zeroMem
    | with_reducible apply State.clearDom_keeps
    | with_reducible apply State.setIsl_keeps
    | with_reducible apply State.resetDone_keeps
    | with_reducible apply State.setUnavail_keeps
    | split)

theorem State.dropFrom_keeps {z₀ s : State} (i : ℕ) (hz : Keeps z₀ s) :
    Keeps z₀ (State.dropFrom s i) := by
  unfold State.dropFrom
  repeat' (first
    | with_reducible assumption
    | split
    | intro _ _ _
    | intro _ _
    | intro _
    | with_reducible refine Keeps.of2 (by with_reducible assumption) ?_
    | with_reducible refine Keeps.of1 (by with_reducible assumption) ?_
    | with_reducible refine Keeps.of3 (by with_reducible assumption) ?_
    | with_reducible refine Keeps.of4 (by with_reducible assumption) ?_
    | with_reducible apply Keeps.upto
    | with_reducible apply Keeps.foldl
    | with_reducible apply Keeps.foldl_snd_snd
    | with_reducible apply Keeps.foldl_snd
    | with_reducible apply Keeps.foldl_trd
    | with_reducible apply Keeps.foldl_fst_fst
    | with_reducible apply Keeps.foldl_fst
    | with_reducible apply Keeps.foldl_mid
    | dsimp only
    | (with_reducible apply Keeps.mk_other; with_reducible assumption))

theorem State.scrubAbort_keeps {z₀ s : State} (i : ℕ) (status : ℕ) (hz : Keeps z₀ s) :
    Keeps z₀ (State.scrubAbort s i status) := by
  unfold State.scrubAbort
  repeat' (first
    | with_reducible assumption
    | with_reducible apply State.raise_keeps
    | with_reducible apply State.finish_keeps
    | split
    | intro _ _ _
    | intro _ _
    | intro _
    | with_reducible refine Keeps.of2 (by with_reducible assumption) ?_
    | with_reducible refine Keeps.of1 (by with_reducible assumption) ?_
    | with_reducible refine Keeps.of3 (by with_reducible assumption) ?_
    | with_reducible refine Keeps.of4 (by with_reducible assumption) ?_
    | with_reducible apply Keeps.upto
    | with_reducible apply Keeps.foldl
    | with_reducible apply Keeps.foldl_snd_snd
    | with_reducible apply Keeps.foldl_snd
    | with_reducible apply Keeps.foldl_trd
    | with_reducible apply Keeps.foldl_fst_fst
    | with_reducible apply Keeps.foldl_fst
    | with_reducible apply Keeps.foldl_mid
    | dsimp only
    | (with_reducible apply Keeps.mk_other; with_reducible assumption))

theorem State.maybeWritten_keeps {z₀ s : State} (r : Req) (hz : Keeps z₀ s) :
    Keeps z₀ (State.maybeWritten s r) := by
  unfold State.maybeWritten
  repeat' (first
    | with_reducible assumption
    | with_reducible apply State.draw_keeps
    | with_reducible apply State.memStore_keeps
    | split
    | intro _ _ _
    | intro _ _
    | intro _
    | with_reducible refine Keeps.of2 (by with_reducible assumption) ?_
    | with_reducible refine Keeps.of1 (by with_reducible assumption) ?_
    | with_reducible refine Keeps.of3 (by with_reducible assumption) ?_
    | with_reducible refine Keeps.of4 (by with_reducible assumption) ?_
    | with_reducible apply Keeps.upto
    | with_reducible apply Keeps.foldl
    | with_reducible apply Keeps.foldl_snd_snd
    | with_reducible apply Keeps.foldl_snd
    | with_reducible apply Keeps.foldl_trd
    | with_reducible apply Keeps.foldl_fst_fst
    | with_reducible apply Keeps.foldl_fst
    | with_reducible apply Keeps.foldl_mid
    | dsimp only
    | (with_reducible apply Keeps.mk_other
       first
       | with_reducible assumption
       | with_reducible apply State.draw_keeps
       | with_reducible apply State.memStore_keeps
       | split
       | intro _ _ _
       | intro _ _
       | intro _
       | with_reducible refine Keeps.of2 (by with_reducible assumption) ?_
       | with_reducible refine Keeps.of1 (by with_reducible assumption) ?_
       | with_reducible refine Keeps.of3 (by with_reducible assumption) ?_
       | with_reducible refine Keeps.of4 (by with_reducible assumption) ?_
       | with_reducible apply Keeps.upto
       | with_reducible apply Keeps.foldl
       | with_reducible apply Keeps.foldl_snd_snd
       | with_reducible apply Keeps.foldl_snd
       | with_reducible apply Keeps.foldl_trd
       | with_reducible apply Keeps.foldl_fst_fst
       | with_reducible apply Keeps.foldl_fst
       | with_reducible apply Keeps.foldl_mid
       | dsimp only)
    | (refine Keeps.mk_tables ?_ (by simp +contextual [State.tablesWf, swf_sput, swf_drop, swf])
       first
       | with_reducible assumption
       | with_reducible apply State.draw_keeps
       | with_reducible apply State.memStore_keeps
       | split
       | intro _ _ _
       | intro _ _
       | intro _
       | with_reducible refine Keeps.of2 (by with_reducible assumption) ?_
       | with_reducible refine Keeps.of1 (by with_reducible assumption) ?_
       | with_reducible refine Keeps.of3 (by with_reducible assumption) ?_
       | with_reducible refine Keeps.of4 (by with_reducible assumption) ?_
       | with_reducible apply Keeps.upto
       | with_reducible apply Keeps.foldl
       | with_reducible apply Keeps.foldl_snd_snd
       | with_reducible apply Keeps.foldl_snd
       | with_reducible apply Keeps.foldl_trd
       | with_reducible apply Keeps.foldl_fst_fst
       | with_reducible apply Keeps.foldl_fst
       | with_reducible apply Keeps.foldl_mid
       | dsimp only))

theorem State.answerHeld_keeps {z₀ s : State} (i : ℕ) (status : ℕ) (hz : Keeps z₀ s) :
    Keeps z₀ (State.answerHeld s i status).2 := by
  unfold State.answerHeld
  repeat' (first
    | with_reducible assumption
    | with_reducible apply State.dropRouted_keeps
    | with_reducible apply State.errCapture_keeps
    | with_reducible apply State.maybeWritten_keeps
    | with_reducible apply Keeps.emit
    | with_reducible apply State.raiseIn_keeps
    | split
    | intro _ _ _
    | intro _ _
    | intro _
    | with_reducible refine Keeps.of2 (by with_reducible assumption) ?_
    | with_reducible refine Keeps.of1 (by with_reducible assumption) ?_
    | with_reducible refine Keeps.of3 (by with_reducible assumption) ?_
    | with_reducible refine Keeps.of4 (by with_reducible assumption) ?_
    | with_reducible apply Keeps.upto
    | with_reducible apply Keeps.foldl
    | with_reducible apply Keeps.foldl_snd_snd
    | with_reducible apply Keeps.foldl_snd
    | with_reducible apply Keeps.foldl_trd
    | with_reducible apply Keeps.foldl_fst_fst
    | with_reducible apply Keeps.foldl_fst
    | with_reducible apply Keeps.foldl_mid
    | dsimp only
    | (with_reducible apply Keeps.mk_other
       first
       | with_reducible assumption
       | with_reducible apply State.dropRouted_keeps
       | with_reducible apply State.errCapture_keeps
       | with_reducible apply State.maybeWritten_keeps
       | with_reducible apply Keeps.emit
       | with_reducible apply State.raiseIn_keeps
       | split
       | intro _ _ _
       | intro _ _
       | intro _
       | with_reducible refine Keeps.of2 (by with_reducible assumption) ?_
       | with_reducible refine Keeps.of1 (by with_reducible assumption) ?_
       | with_reducible refine Keeps.of3 (by with_reducible assumption) ?_
       | with_reducible refine Keeps.of4 (by with_reducible assumption) ?_
       | with_reducible apply Keeps.upto
       | with_reducible apply Keeps.foldl
       | with_reducible apply Keeps.foldl_snd_snd
       | with_reducible apply Keeps.foldl_snd
       | with_reducible apply Keeps.foldl_trd
       | with_reducible apply Keeps.foldl_fst_fst
       | with_reducible apply Keeps.foldl_fst
       | with_reducible apply Keeps.foldl_mid
       | dsimp only)
    | (refine Keeps.mk_tables ?_ (by simp +contextual [State.tablesWf, swf_sput, swf_drop, swf])
       first
       | with_reducible assumption
       | with_reducible apply State.dropRouted_keeps
       | with_reducible apply State.errCapture_keeps
       | with_reducible apply State.maybeWritten_keeps
       | with_reducible apply Keeps.emit
       | with_reducible apply State.raiseIn_keeps
       | split
       | intro _ _ _
       | intro _ _
       | intro _
       | with_reducible refine Keeps.of2 (by with_reducible assumption) ?_
       | with_reducible refine Keeps.of1 (by with_reducible assumption) ?_
       | with_reducible refine Keeps.of3 (by with_reducible assumption) ?_
       | with_reducible refine Keeps.of4 (by with_reducible assumption) ?_
       | with_reducible apply Keeps.upto
       | with_reducible apply Keeps.foldl
       | with_reducible apply Keeps.foldl_snd_snd
       | with_reducible apply Keeps.foldl_snd
       | with_reducible apply Keeps.foldl_trd
       | with_reducible apply Keeps.foldl_fst_fst
       | with_reducible apply Keeps.foldl_fst
       | with_reducible apply Keeps.foldl_mid
       | dsimp only))

theorem State.domOff_keeps {z₀ s : State} (d : ℕ) (hz : Keeps z₀ s) :
    Keeps z₀ (State.domOff s d) := by
  unfold State.domOff
  repeat' (first
    | with_reducible assumption
    | with_reducible apply State.abortUnit_keeps
    | with_reducible apply State.dropFrom_keeps
    | with_reducible apply State.flushIsland_keeps
    | with_reducible apply State.scrubAbort_keeps
    | with_reducible apply State.answerHeld_keeps
    | with_reducible apply State.setIsl_keeps
    | with_reducible apply State.synceSync_keeps
    | with_reducible apply State.setDom_keeps
    | with_reducible apply Keeps.zeroMem
    | with_reducible apply State.clearDom_keeps
    | split)

theorem State.drainStart_keeps {z₀ s : State} (i : ℕ) (kind : ℕ) (hz : Keeps z₀ s) :
    Keeps z₀ (State.drainStart s i kind) := by
  unfold State.drainStart
  repeat' (first
    | with_reducible assumption
    | with_reducible apply State.scrubAbort_keeps
    | with_reducible apply State.setIsl_keeps)

theorem wiped_tables {s : State} (h : s.tablesWf = true) (p q m r) (f : Nat → Bool) :
    ({ State.reset with
        pending := p, free := q, out := s.out, regs := s.regs, mem := m, marks := r, evq := sdrop f s.evq, nvWr := s.nvWr,
        bootRecs := s.bootRecs, keyRecs := s.keyRecs, wearSaved := s.wearSaved, tune := s.tune,
        rst := none } : State).tablesWf = true := by
  simp [State.tablesWf, State.reset, swf] at h ⊢
  simp [h, swf_drop]

theorem wiped_mons {s t : State} (h : t.tablesWf = true) (g : s.tablesWf = true) (a b c d) :
    ({ t with mons := s.mons, vddq := a, aonSec := b, aonAlarm := c, wakeDrv := d } : State).tablesWf = true := by
  simp [State.tablesWf] at h g ⊢
  simp [h, g]

theorem State.wiped_keeps {z₀ s : State} (kind : ℕ) (hz : Keeps z₀ s) :
    Keeps z₀ (State.wiped s kind) := by
  have h := State.flushIsland_keeps 34 hz
  have h2 : ∀ p f : Nat → Bool, Keeps z₀ { State.reset with
      pending := (s.flushIsland 34).pending, free := (s.flushIsland 34).free, out := (s.flushIsland 34).out,
      regs := (s.flushIsland 34).regs, mem := sdrop p (s.flushIsland 34).mem, marks := sdrop p (s.flushIsland 34).marks,
      evq := sdrop f (s.flushIsland 34).evq,
      nvWr := (s.flushIsland 34).nvWr, bootRecs := (s.flushIsland 34).bootRecs, keyRecs := (s.flushIsland 34).keyRecs,
      wearSaved := (s.flushIsland 34).wearSaved, tune := (s.flushIsland 34).tune, rst := none } := fun p f =>
    ⟨h.queue, h.sent, fun i => ⟨(swf_sdrop p (h.inv i).mem).1, (h.inv i).regs, (swf_sdrop p (h.inv i).marks).1,
      wiped_tables (h.inv i).tables _ _ _ _ _, by show 0 < 2 ^ 32; decide, by show 0 < 16; decide⟩⟩
  unfold State.wiped
  dsimp only
  have h3 := State.resetRegs_keeps (fun a => decide (a ≠ NV_FUSE.adr)) kind
    (h2 (fun a => !(decide (nvBase ≤ a) && decide (a < nvBase + 0x2000000))) fun i => decide (i ≠ 61) || decide (kind = kPor))
  split
  · exact h3
  · split
    · apply Keeps.upto
      · intro t i ht
        split
        · exact State.setChan_keeps _ _ (State.wf_keeps _ _ _ ht)
        · exact State.setChan_keeps _ _ (State.wf_keeps _ _ _ ht)
      · exact h3.mk_other
    · apply Keeps.foldl
      · intro t e ht
        exact State.setChan_keeps _ _ ht
      · exact ⟨h3.queue, h3.sent, fun i => ⟨(h3.inv i).mem, (h3.inv i).regs, (h3.inv i).marks,
          wiped_mons (h3.inv i).tables (h.inv i).tables _ _ _ _, (h3.inv i).tkns, (h3.inv i).modid⟩⟩

theorem State.wipe_keeps {z₀ s : State} (kind : ℕ) (hz : Keeps z₀ s) :
    Keeps z₀ (State.wipe s kind) := by
  unfold State.wipe
  repeat' (first
    | with_reducible assumption
    | with_reducible apply State.evqLaunch_keeps
    | with_reducible apply State.wiped_keeps)

theorem State.pinsReset_keeps {z₀ s : State} (hz : Keeps z₀ s) :
    Keeps z₀ (State.pinsReset s) := by
  unfold State.pinsReset
  repeat' (first
    | with_reducible assumption
    | with_reducible apply Keeps.emit
    | split
    | intro _ _ _
    | intro _ _
    | intro _
    | with_reducible refine Keeps.of2 (by with_reducible assumption) ?_
    | with_reducible refine Keeps.of1 (by with_reducible assumption) ?_
    | with_reducible refine Keeps.of3 (by with_reducible assumption) ?_
    | with_reducible refine Keeps.of4 (by with_reducible assumption) ?_
    | with_reducible apply Keeps.upto
    | with_reducible apply Keeps.foldl
    | with_reducible apply Keeps.foldl_snd_snd
    | with_reducible apply Keeps.foldl_snd
    | with_reducible apply Keeps.foldl_trd
    | with_reducible apply Keeps.foldl_fst_fst
    | with_reducible apply Keeps.foldl_fst
    | with_reducible apply Keeps.foldl_mid
    | dsimp only)

theorem State.moduleReset_keeps {z₀ s : State} (kind : ℕ) (record : ℕ) (hz : Keeps z₀ s) :
    Keeps z₀ (State.moduleReset s kind record) := by
  unfold State.moduleReset
  repeat' (first
    | with_reducible assumption
    | with_reducible apply State.wipe_keeps
    | with_reducible apply State.pinsReset_keeps
    | with_reducible apply State.incSat_keeps
    | with_reducible apply State.aonPresent_keeps
    | with_reducible apply State.wf_keeps
    | split
    | intro _ _ _
    | intro _ _
    | intro _
    | with_reducible refine Keeps.of2 (by with_reducible assumption) ?_
    | with_reducible refine Keeps.of1 (by with_reducible assumption) ?_
    | with_reducible refine Keeps.of3 (by with_reducible assumption) ?_
    | with_reducible refine Keeps.of4 (by with_reducible assumption) ?_
    | with_reducible apply Keeps.upto
    | with_reducible apply Keeps.foldl
    | with_reducible apply Keeps.foldl_snd_snd
    | with_reducible apply Keeps.foldl_snd
    | with_reducible apply Keeps.foldl_trd
    | with_reducible apply Keeps.foldl_fst_fst
    | with_reducible apply Keeps.foldl_fst
    | with_reducible apply Keeps.foldl_mid
    | dsimp only
    | (with_reducible apply Keeps.mk_other; first | with_reducible assumption | with_reducible apply State.wipe_keeps | with_reducible apply State.pinsReset_keeps | with_reducible apply State.incSat_keeps | with_reducible apply State.aonPresent_keeps))

theorem State.setDead_keeps {z₀ s : State} (i : ℕ) (b : Bool) (hz : Keeps z₀ s) :
    Keeps z₀ (State.setDead s i b) := by
  unfold State.setDead
  repeat' (first
    | with_reducible assumption
    | with_reducible apply State.wf_keeps
    | split)

theorem State.reviveOff_keeps {z₀ s : State} (i : ℕ) (hz : Keeps z₀ s) :
    Keeps z₀ (State.reviveOff s i) := by
  unfold State.reviveOff
  repeat' (first
    | with_reducible assumption
    | with_reducible apply State.wf_keeps
    | with_reducible apply State.setDead_keeps
    | with_reducible apply State.wb_keeps
    | split
    | intro _ _ _
    | intro _ _
    | intro _
    | with_reducible refine Keeps.of2 (by with_reducible assumption) ?_
    | with_reducible refine Keeps.of1 (by with_reducible assumption) ?_
    | with_reducible refine Keeps.of3 (by with_reducible assumption) ?_
    | with_reducible refine Keeps.of4 (by with_reducible assumption) ?_
    | with_reducible apply Keeps.upto
    | with_reducible apply Keeps.foldl
    | with_reducible apply Keeps.foldl_snd_snd
    | with_reducible apply Keeps.foldl_snd
    | with_reducible apply Keeps.foldl_trd
    | with_reducible apply Keeps.foldl_fst_fst
    | with_reducible apply Keeps.foldl_fst
    | with_reducible apply Keeps.foldl_mid
    | dsimp only
    | (with_reducible apply Keeps.mk_other
       first
       | with_reducible assumption
       | with_reducible apply State.wf_keeps
       | with_reducible apply State.setDead_keeps
       | with_reducible apply State.wb_keeps
       | split
       | intro _ _ _
       | intro _ _
       | intro _
       | with_reducible refine Keeps.of2 (by with_reducible assumption) ?_
       | with_reducible refine Keeps.of1 (by with_reducible assumption) ?_
       | with_reducible refine Keeps.of3 (by with_reducible assumption) ?_
       | with_reducible refine Keeps.of4 (by with_reducible assumption) ?_
       | with_reducible apply Keeps.upto
       | with_reducible apply Keeps.foldl
       | with_reducible apply Keeps.foldl_snd_snd
       | with_reducible apply Keeps.foldl_snd
       | with_reducible apply Keeps.foldl_trd
       | with_reducible apply Keeps.foldl_fst_fst
       | with_reducible apply Keeps.foldl_fst
       | with_reducible apply Keeps.foldl_mid
       | dsimp only)
    | (refine Keeps.mk_tables ?_ (by simp +contextual [State.tablesWf, swf_sput, swf_drop, swf])
       first
       | with_reducible assumption
       | with_reducible apply State.wf_keeps
       | with_reducible apply State.setDead_keeps
       | with_reducible apply State.wb_keeps
       | split
       | intro _ _ _
       | intro _ _
       | intro _
       | with_reducible refine Keeps.of2 (by with_reducible assumption) ?_
       | with_reducible refine Keeps.of1 (by with_reducible assumption) ?_
       | with_reducible refine Keeps.of3 (by with_reducible assumption) ?_
       | with_reducible refine Keeps.of4 (by with_reducible assumption) ?_
       | with_reducible apply Keeps.upto
       | with_reducible apply Keeps.foldl
       | with_reducible apply Keeps.foldl_snd_snd
       | with_reducible apply Keeps.foldl_snd
       | with_reducible apply Keeps.foldl_trd
       | with_reducible apply Keeps.foldl_fst_fst
       | with_reducible apply Keeps.foldl_fst
       | with_reducible apply Keeps.foldl_mid
       | dsimp only))

theorem State.localReset_keeps {z₀ s : State} (kind : ℕ) (n : ℕ) (t : Option Ticket) (hz : Keeps z₀ s) :
    Keeps z₀ (State.localReset s kind n t) := by
  unfold State.localReset
  repeat' (first
    | with_reducible assumption
    | with_reducible apply State.resetDone_keeps
    | with_reducible apply State.reviveOff_keeps
    | with_reducible apply State.dropRamps_keeps
    | with_reducible apply State.drainStart_keeps
    | with_reducible apply State.finish_keeps
    | split
    | intro _ _ _
    | intro _ _
    | intro _
    | with_reducible refine Keeps.of2 (by with_reducible assumption) ?_
    | with_reducible refine Keeps.of1 (by with_reducible assumption) ?_
    | with_reducible refine Keeps.of3 (by with_reducible assumption) ?_
    | with_reducible refine Keeps.of4 (by with_reducible assumption) ?_
    | with_reducible apply Keeps.upto
    | with_reducible apply Keeps.foldl
    | with_reducible apply Keeps.foldl_snd_snd
    | with_reducible apply Keeps.foldl_snd
    | with_reducible apply Keeps.foldl_trd
    | with_reducible apply Keeps.foldl_fst_fst
    | with_reducible apply Keeps.foldl_fst
    | with_reducible apply Keeps.foldl_mid
    | dsimp only
    | (with_reducible apply Keeps.mk_other
       first
       | with_reducible assumption
       | with_reducible apply State.resetDone_keeps
       | with_reducible apply State.reviveOff_keeps
       | with_reducible apply State.dropRamps_keeps
       | with_reducible apply State.drainStart_keeps
       | with_reducible apply State.finish_keeps
       | split
       | intro _ _ _
       | intro _ _
       | intro _
       | with_reducible refine Keeps.of2 (by with_reducible assumption) ?_
       | with_reducible refine Keeps.of1 (by with_reducible assumption) ?_
       | with_reducible refine Keeps.of3 (by with_reducible assumption) ?_
       | with_reducible refine Keeps.of4 (by with_reducible assumption) ?_
       | with_reducible apply Keeps.upto
       | with_reducible apply Keeps.foldl
       | with_reducible apply Keeps.foldl_snd_snd
       | with_reducible apply Keeps.foldl_snd
       | with_reducible apply Keeps.foldl_trd
       | with_reducible apply Keeps.foldl_fst_fst
       | with_reducible apply Keeps.foldl_fst
       | with_reducible apply Keeps.foldl_mid
       | dsimp only)
    | (refine Keeps.mk_tables ?_ (by simp +contextual [State.tablesWf, swf_sput, swf_drop, swf])
       first
       | with_reducible assumption
       | with_reducible apply State.resetDone_keeps
       | with_reducible apply State.reviveOff_keeps
       | with_reducible apply State.dropRamps_keeps
       | with_reducible apply State.drainStart_keeps
       | with_reducible apply State.finish_keeps
       | split
       | intro _ _ _
       | intro _ _
       | intro _
       | with_reducible refine Keeps.of2 (by with_reducible assumption) ?_
       | with_reducible refine Keeps.of1 (by with_reducible assumption) ?_
       | with_reducible refine Keeps.of3 (by with_reducible assumption) ?_
       | with_reducible refine Keeps.of4 (by with_reducible assumption) ?_
       | with_reducible apply Keeps.upto
       | with_reducible apply Keeps.foldl
       | with_reducible apply Keeps.foldl_snd_snd
       | with_reducible apply Keeps.foldl_snd
       | with_reducible apply Keeps.foldl_trd
       | with_reducible apply Keeps.foldl_fst_fst
       | with_reducible apply Keeps.foldl_fst
       | with_reducible apply Keeps.foldl_mid
       | dsimp only))

theorem State.losePulses_keeps {z₀ s : State} (i : ℕ) (p : Xid → Bool) (hz : Keeps z₀ s) :
    Keeps z₀ (State.losePulses s i p) := by
  unfold State.losePulses
  repeat' (first
    | with_reducible assumption
    | with_reducible apply State.pulsesLost_keeps
    | with_reducible apply State.setXing_keeps
    | split
    | intro _ _ _
    | intro _ _
    | intro _
    | with_reducible refine Keeps.of2 (by with_reducible assumption) ?_
    | with_reducible refine Keeps.of1 (by with_reducible assumption) ?_
    | with_reducible refine Keeps.of3 (by with_reducible assumption) ?_
    | with_reducible refine Keeps.of4 (by with_reducible assumption) ?_
    | with_reducible apply Keeps.upto
    | with_reducible apply Keeps.foldl
    | with_reducible apply Keeps.foldl_snd_snd
    | with_reducible apply Keeps.foldl_snd
    | with_reducible apply Keeps.foldl_trd
    | with_reducible apply Keeps.foldl_fst_fst
    | with_reducible apply Keeps.foldl_fst
    | with_reducible apply Keeps.foldl_mid
    | dsimp only
    | (with_reducible apply Keeps.mk_other
       first
       | with_reducible assumption
       | with_reducible apply State.pulsesLost_keeps
       | with_reducible apply State.setXing_keeps
       | split
       | intro _ _ _
       | intro _ _
       | intro _
       | with_reducible refine Keeps.of2 (by with_reducible assumption) ?_
       | with_reducible refine Keeps.of1 (by with_reducible assumption) ?_
       | with_reducible refine Keeps.of3 (by with_reducible assumption) ?_
       | with_reducible refine Keeps.of4 (by with_reducible assumption) ?_
       | with_reducible apply Keeps.upto
       | with_reducible apply Keeps.foldl
       | with_reducible apply Keeps.foldl_snd_snd
       | with_reducible apply Keeps.foldl_snd
       | with_reducible apply Keeps.foldl_trd
       | with_reducible apply Keeps.foldl_fst_fst
       | with_reducible apply Keeps.foldl_fst
       | with_reducible apply Keeps.foldl_mid
       | dsimp only)
    | (refine Keeps.mk_tables ?_ (by simp +contextual [State.tablesWf, swf_sput, swf_drop, swf])
       first
       | with_reducible assumption
       | with_reducible apply State.pulsesLost_keeps
       | with_reducible apply State.setXing_keeps
       | split
       | intro _ _ _
       | intro _ _
       | intro _
       | with_reducible refine Keeps.of2 (by with_reducible assumption) ?_
       | with_reducible refine Keeps.of1 (by with_reducible assumption) ?_
       | with_reducible refine Keeps.of3 (by with_reducible assumption) ?_
       | with_reducible refine Keeps.of4 (by with_reducible assumption) ?_
       | with_reducible apply Keeps.upto
       | with_reducible apply Keeps.foldl
       | with_reducible apply Keeps.foldl_snd_snd
       | with_reducible apply Keeps.foldl_snd
       | with_reducible apply Keeps.foldl_trd
       | with_reducible apply Keeps.foldl_fst_fst
       | with_reducible apply Keeps.foldl_fst
       | with_reducible apply Keeps.foldl_mid
       | dsimp only))

theorem State.deadDeclare_keeps {z₀ s : State} (i : ℕ) (said : Bool) (hz : Keeps z₀ s) :
    Keeps z₀ (State.deadDeclare s i said) := by
  unfold State.deadDeclare
  repeat' (first
    | with_reducible assumption
    | with_reducible apply State.raise_keeps
    | with_reducible apply State.xflag_keeps
    | with_reducible apply State.answerHeld_keeps
    | with_reducible apply State.losePulses_keeps
    | with_reducible apply State.scrubAbort_keeps
    | with_reducible apply State.setDead_keeps
    | with_reducible apply State.haltEnter_keeps
    | with_reducible apply State.airSync_keeps
    | split
    | intro _ _ _
    | intro _ _
    | intro _
    | with_reducible refine Keeps.of2 (by with_reducible assumption) ?_
    | with_reducible refine Keeps.of1 (by with_reducible assumption) ?_
    | with_reducible refine Keeps.of3 (by with_reducible assumption) ?_
    | with_reducible refine Keeps.of4 (by with_reducible assumption) ?_
    | with_reducible apply Keeps.upto
    | with_reducible apply Keeps.foldl
    | with_reducible apply Keeps.foldl_snd_snd
    | with_reducible apply Keeps.foldl_snd
    | with_reducible apply Keeps.foldl_trd
    | with_reducible apply Keeps.foldl_fst_fst
    | with_reducible apply Keeps.foldl_fst
    | with_reducible apply Keeps.foldl_mid
    | dsimp only
    | (with_reducible apply Keeps.mk_other
       first
       | with_reducible assumption
       | with_reducible apply State.raise_keeps
       | with_reducible apply State.xflag_keeps
       | with_reducible apply State.answerHeld_keeps
       | with_reducible apply State.losePulses_keeps
       | with_reducible apply State.scrubAbort_keeps
       | with_reducible apply State.setDead_keeps
       | with_reducible apply State.haltEnter_keeps
       | with_reducible apply State.airSync_keeps
       | split
       | intro _ _ _
       | intro _ _
       | intro _
       | with_reducible refine Keeps.of2 (by with_reducible assumption) ?_
       | with_reducible refine Keeps.of1 (by with_reducible assumption) ?_
       | with_reducible refine Keeps.of3 (by with_reducible assumption) ?_
       | with_reducible refine Keeps.of4 (by with_reducible assumption) ?_
       | with_reducible apply Keeps.upto
       | with_reducible apply Keeps.foldl
       | with_reducible apply Keeps.foldl_snd_snd
       | with_reducible apply Keeps.foldl_snd
       | with_reducible apply Keeps.foldl_trd
       | with_reducible apply Keeps.foldl_fst_fst
       | with_reducible apply Keeps.foldl_fst
       | with_reducible apply Keeps.foldl_mid
       | dsimp only)
    | (refine Keeps.mk_tables ?_ (by simp +contextual [State.tablesWf, swf_sput, swf_drop, swf])
       first
       | with_reducible assumption
       | with_reducible apply State.raise_keeps
       | with_reducible apply State.xflag_keeps
       | with_reducible apply State.answerHeld_keeps
       | with_reducible apply State.losePulses_keeps
       | with_reducible apply State.scrubAbort_keeps
       | with_reducible apply State.setDead_keeps
       | with_reducible apply State.haltEnter_keeps
       | with_reducible apply State.airSync_keeps
       | split
       | intro _ _ _
       | intro _ _
       | intro _
       | with_reducible refine Keeps.of2 (by with_reducible assumption) ?_
       | with_reducible refine Keeps.of1 (by with_reducible assumption) ?_
       | with_reducible refine Keeps.of3 (by with_reducible assumption) ?_
       | with_reducible refine Keeps.of4 (by with_reducible assumption) ?_
       | with_reducible apply Keeps.upto
       | with_reducible apply Keeps.foldl
       | with_reducible apply Keeps.foldl_snd_snd
       | with_reducible apply Keeps.foldl_snd
       | with_reducible apply Keeps.foldl_trd
       | with_reducible apply Keeps.foldl_fst_fst
       | with_reducible apply Keeps.foldl_fst
       | with_reducible apply Keeps.foldl_mid
       | dsimp only))

theorem State.unitsSync_keeps {z₀ s : State} (r : ℕ) (p : ℕ → Bool) (hz : Keeps z₀ s) :
    Keeps z₀ (State.unitsSync s r p) := by
  unfold State.unitsSync
  repeat' (first
    | with_reducible assumption
    | with_reducible apply State.setUnavail_keeps
    | split
    | intro _ _ _
    | intro _ _
    | intro _
    | with_reducible refine Keeps.of2 (by with_reducible assumption) ?_
    | with_reducible refine Keeps.of1 (by with_reducible assumption) ?_
    | with_reducible refine Keeps.of3 (by with_reducible assumption) ?_
    | with_reducible refine Keeps.of4 (by with_reducible assumption) ?_
    | with_reducible apply Keeps.upto)

theorem State.drainComplete_keeps {z₀ s : State} (i : ℕ) (hz : Keeps z₀ s) :
    Keeps z₀ (State.drainComplete s i) := by
  unfold State.drainComplete
  repeat' (first
    | with_reducible assumption
    | with_reducible apply State.flushIsland_keeps
    | with_reducible apply State.dropFrom_keeps
    | with_reducible apply State.answerHeld_keeps
    | with_reducible apply State.abortUnit_keeps
    | with_reducible apply State.dropRegion_keeps
    | with_reducible apply State.setIsl_keeps
    | with_reducible apply State.resetIsland_keeps
    | split
    | intro _ _ _
    | intro _ _
    | intro _
    | with_reducible refine Keeps.of2 (by with_reducible assumption) ?_
    | with_reducible refine Keeps.of1 (by with_reducible assumption) ?_
    | with_reducible refine Keeps.of3 (by with_reducible assumption) ?_
    | with_reducible refine Keeps.of4 (by with_reducible assumption) ?_
    | with_reducible apply Keeps.upto
    | with_reducible apply Keeps.foldl
    | with_reducible apply Keeps.foldl_snd_snd
    | with_reducible apply Keeps.foldl_snd
    | with_reducible apply Keeps.foldl_trd
    | with_reducible apply Keeps.foldl_fst_fst
    | with_reducible apply Keeps.foldl_fst
    | with_reducible apply Keeps.foldl_mid
    | dsimp only)

theorem State.resetRelease_keeps {z₀ s : State} (i : ℕ) (hz : Keeps z₀ s) :
    Keeps z₀ (State.resetRelease s i) := by
  unfold State.resetRelease
  repeat' (first
    | with_reducible assumption
    | with_reducible apply State.setXing_keeps
    | with_reducible apply State.xflag_keeps
    | with_reducible apply State.setIsl_keeps
    | split
    | intro _ _ _
    | intro _ _
    | intro _
    | with_reducible refine Keeps.of2 (by with_reducible assumption) ?_
    | with_reducible refine Keeps.of1 (by with_reducible assumption) ?_
    | with_reducible refine Keeps.of3 (by with_reducible assumption) ?_
    | with_reducible refine Keeps.of4 (by with_reducible assumption) ?_
    | with_reducible apply Keeps.upto
    | with_reducible apply Keeps.foldl
    | with_reducible apply Keeps.foldl_snd_snd
    | with_reducible apply Keeps.foldl_snd
    | with_reducible apply Keeps.foldl_trd
    | with_reducible apply Keeps.foldl_fst_fst
    | with_reducible apply Keeps.foldl_fst
    | with_reducible apply Keeps.foldl_mid
    | dsimp only)

theorem State.jobsReady_keeps {z₀ s : State} (i : ℕ) (hz : Keeps z₀ s) :
    Keeps z₀ (State.jobsReady s i) := by
  unfold State.jobsReady
  repeat' (first
    | with_reducible assumption
    | with_reducible apply State.finish_keeps
    | split
    | intro _ _ _
    | intro _ _
    | intro _
    | with_reducible refine Keeps.of2 (by with_reducible assumption) ?_
    | with_reducible refine Keeps.of1 (by with_reducible assumption) ?_
    | with_reducible refine Keeps.of3 (by with_reducible assumption) ?_
    | with_reducible refine Keeps.of4 (by with_reducible assumption) ?_
    | with_reducible apply Keeps.upto
    | with_reducible apply Keeps.foldl
    | with_reducible apply Keeps.foldl_snd_snd
    | with_reducible apply Keeps.foldl_snd
    | with_reducible apply Keeps.foldl_trd
    | with_reducible apply Keeps.foldl_fst_fst
    | with_reducible apply Keeps.foldl_fst
    | with_reducible apply Keeps.foldl_mid
    | dsimp only
    | (with_reducible apply Keeps.mk_other; with_reducible assumption))

theorem State.domJobReady_keeps {z₀ s : State} (i : ℕ) (hz : Keeps z₀ s) :
    Keeps z₀ (State.domJobReady s i) := by
  unfold State.domJobReady
  repeat' (first
    | with_reducible assumption
    | with_reducible apply State.finish_keeps
    | split
    | intro _ _ _
    | intro _ _
    | intro _
    | with_reducible refine Keeps.of2 (by with_reducible assumption) ?_
    | with_reducible refine Keeps.of1 (by with_reducible assumption) ?_
    | with_reducible refine Keeps.of3 (by with_reducible assumption) ?_
    | with_reducible refine Keeps.of4 (by with_reducible assumption) ?_
    | with_reducible apply Keeps.upto
    | with_reducible apply Keeps.foldl
    | with_reducible apply Keeps.foldl_snd_snd
    | with_reducible apply Keeps.foldl_snd
    | with_reducible apply Keeps.foldl_trd
    | with_reducible apply Keeps.foldl_fst_fst
    | with_reducible apply Keeps.foldl_fst
    | with_reducible apply Keeps.foldl_mid
    | dsimp only
    | (with_reducible apply Keeps.mk_other
       first
       | with_reducible assumption
       | with_reducible apply State.finish_keeps
       | split
       | intro _ _ _
       | intro _ _
       | intro _
       | with_reducible refine Keeps.of2 (by with_reducible assumption) ?_
       | with_reducible refine Keeps.of1 (by with_reducible assumption) ?_
       | with_reducible refine Keeps.of3 (by with_reducible assumption) ?_
       | with_reducible refine Keeps.of4 (by with_reducible assumption) ?_
       | with_reducible apply Keeps.upto
       | with_reducible apply Keeps.foldl
       | with_reducible apply Keeps.foldl_snd_snd
       | with_reducible apply Keeps.foldl_snd
       | with_reducible apply Keeps.foldl_trd
       | with_reducible apply Keeps.foldl_fst_fst
       | with_reducible apply Keeps.foldl_fst
       | with_reducible apply Keeps.foldl_mid
       | dsimp only)
    | (refine Keeps.mk_tables ?_ (by simp +contextual [State.tablesWf, swf_sput, swf_drop, swf])
       first
       | with_reducible assumption
       | with_reducible apply State.finish_keeps
       | split
       | intro _ _ _
       | intro _ _
       | intro _
       | with_reducible refine Keeps.of2 (by with_reducible assumption) ?_
       | with_reducible refine Keeps.of1 (by with_reducible assumption) ?_
       | with_reducible refine Keeps.of3 (by with_reducible assumption) ?_
       | with_reducible refine Keeps.of4 (by with_reducible assumption) ?_
       | with_reducible apply Keeps.upto
       | with_reducible apply Keeps.foldl
       | with_reducible apply Keeps.foldl_snd_snd
       | with_reducible apply Keeps.foldl_snd
       | with_reducible apply Keeps.foldl_trd
       | with_reducible apply Keeps.foldl_fst_fst
       | with_reducible apply Keeps.foldl_fst
       | with_reducible apply Keeps.foldl_mid
       | dsimp only))

theorem State.islandReady_keeps {z₀ s : State} (i : ℕ) (hz : Keeps z₀ s) :
    Keeps z₀ (State.islandReady s i) := by
  unfold State.islandReady
  repeat' (first
    | with_reducible assumption
    | with_reducible apply State.setIsl_keeps
    | with_reducible apply State.wf_keeps
    | with_reducible apply State.setDead_keeps
    | with_reducible apply State.resetDone_keeps
    | with_reducible apply State.domJobReady_keeps
    | with_reducible apply State.jobsReady_keeps
    | with_reducible apply State.unitsSync_keeps
    | with_reducible apply State.airSync_keeps
    | split
    | intro _ _ _
    | intro _ _
    | intro _
    | with_reducible refine Keeps.of2 (by with_reducible assumption) ?_
    | with_reducible refine Keeps.of1 (by with_reducible assumption) ?_
    | with_reducible refine Keeps.of3 (by with_reducible assumption) ?_
    | with_reducible refine Keeps.of4 (by with_reducible assumption) ?_
    | with_reducible apply Keeps.upto
    | with_reducible apply Keeps.foldl
    | with_reducible apply Keeps.foldl_snd_snd
    | with_reducible apply Keeps.foldl_snd
    | with_reducible apply Keeps.foldl_trd
    | with_reducible apply Keeps.foldl_fst_fst
    | with_reducible apply Keeps.foldl_fst
    | with_reducible apply Keeps.foldl_mid
    | dsimp only
    | (with_reducible apply Keeps.mk_other
       first
       | with_reducible assumption
       | with_reducible apply State.setIsl_keeps
       | with_reducible apply State.wf_keeps
       | with_reducible apply State.setDead_keeps
       | with_reducible apply State.resetDone_keeps
       | with_reducible apply State.domJobReady_keeps
       | with_reducible apply State.jobsReady_keeps
       | with_reducible apply State.unitsSync_keeps
       | with_reducible apply State.airSync_keeps
       | split
       | intro _ _ _
       | intro _ _
       | intro _
       | with_reducible refine Keeps.of2 (by with_reducible assumption) ?_
       | with_reducible refine Keeps.of1 (by with_reducible assumption) ?_
       | with_reducible refine Keeps.of3 (by with_reducible assumption) ?_
       | with_reducible refine Keeps.of4 (by with_reducible assumption) ?_
       | with_reducible apply Keeps.upto
       | with_reducible apply Keeps.foldl
       | with_reducible apply Keeps.foldl_snd_snd
       | with_reducible apply Keeps.foldl_snd
       | with_reducible apply Keeps.foldl_trd
       | with_reducible apply Keeps.foldl_fst_fst
       | with_reducible apply Keeps.foldl_fst
       | with_reducible apply Keeps.foldl_mid
       | dsimp only)
    | (refine Keeps.mk_tables ?_ (by simp +contextual [State.tablesWf, swf_sput, swf_drop, swf])
       first
       | with_reducible assumption
       | with_reducible apply State.setIsl_keeps
       | with_reducible apply State.wf_keeps
       | with_reducible apply State.setDead_keeps
       | with_reducible apply State.resetDone_keeps
       | with_reducible apply State.domJobReady_keeps
       | with_reducible apply State.jobsReady_keeps
       | with_reducible apply State.unitsSync_keeps
       | with_reducible apply State.airSync_keeps
       | split
       | intro _ _ _
       | intro _ _
       | intro _
       | with_reducible refine Keeps.of2 (by with_reducible assumption) ?_
       | with_reducible refine Keeps.of1 (by with_reducible assumption) ?_
       | with_reducible refine Keeps.of3 (by with_reducible assumption) ?_
       | with_reducible refine Keeps.of4 (by with_reducible assumption) ?_
       | with_reducible apply Keeps.upto
       | with_reducible apply Keeps.foldl
       | with_reducible apply Keeps.foldl_snd_snd
       | with_reducible apply Keeps.foldl_snd
       | with_reducible apply Keeps.foldl_trd
       | with_reducible apply Keeps.foldl_fst_fst
       | with_reducible apply Keeps.foldl_fst
       | with_reducible apply Keeps.foldl_mid
       | dsimp only))

end Sys2Proof.Machine
end

