-- ==== Sys2Proof/Laws/KeepAnalog.lean ====
section
/-! SUPPORT. The functions of Machine/Analog.lean keep the queue, what has been sent, and the invariant. -/

namespace Sys2Proof.Machine

theorem State.onLine_keeps {z₀ s : State} (f : State → State) (hz : Keeps z₀ s) (h_f : ∀ y0, Keeps z₀ y0 → Keeps z₀ (f y0)) :
    Keeps z₀ (State.onLine s f) := by
  unfold State.onLine
  repeat' (first
    | with_reducible assumption
    | with_reducible apply h_f
    | split)

theorem State.monHalt_keeps {z₀ s : State} (m : ℕ) (hz : Keeps z₀ s) :
    Keeps z₀ (State.monHalt s m) := by
  unfold State.monHalt
  repeat' (first
    | with_reducible assumption
    | with_reducible apply State.haltEnter_keeps
    | split
    | intro _ _ _
    | intro _ _
    | intro _
    | with_reducible refine Keeps.of2 (by with_reducible assumption) ?_
    | with_reducible refine Keeps.of1 (by with_reducible assumption) ?_
    | with_reducible refine Keeps.of3 (by with_reducible assumption) ?_
    | with_reducible refine Keeps.of4 (by with_reducible assumption) ?_
    | with_reducible apply Keeps.upto
    | with_reducible apply Keeps.foldl
    | with_reducible apply Keeps.foldl_snd_snd
    | with_reducible apply Keeps.foldl_snd
    | with_reducible apply Keeps.foldl_trd
    | with_reducible apply Keeps.foldl_fst_fst
    | with_reducible apply Keeps.foldl_fst
    | with_reducible apply Keeps.foldl_mid
    | dsimp only
    | (with_reducible apply Keeps.mk_other; with_reducible assumption))

theorem State.monAction_keeps {z₀ s : State} (m : ℕ) (i : ℕ) (hz : Keeps z₀ s) :
    Keeps z₀ (State.monAction s m i) := by
  unfold State.monAction
  repeat' (first
    | with_reducible assumption
    | with_reducible apply State.aoFaulted_keeps
    | with_reducible apply State.monHalt_keeps
    | split)

theorem State.monitorSample_keeps {z₀ s : State} (m : ℕ) (v : ℤ) (hz : Keeps z₀ s) :
    Keeps z₀ (State.monitorSample s m v) := by
  unfold State.monitorSample
  repeat' (first
    | with_reducible assumption
    | with_reducible apply State.monSample_keeps
    | with_reducible apply State.monAction_keeps
    | split
    | intro _ _ _
    | intro _ _
    | intro _
    | with_reducible refine Keeps.of2 (by with_reducible assumption) ?_
    | with_reducible refine Keeps.of1 (by with_reducible assumption) ?_
    | with_reducible refine Keeps.of3 (by with_reducible assumption) ?_
    | with_reducible refine Keeps.of4 (by with_reducible assumption) ?_
    | with_reducible apply Keeps.upto
    | with_reducible apply Keeps.foldl)

theorem State.vinHighTimer_keeps {z₀ s : State} (hz : Keeps z₀ s) :
    Keeps z₀ (State.vinHighTimer s) := by
  unfold State.vinHighTimer
  repeat' (first
    | with_reducible assumption
    | with_reducible apply State.monHalt_keeps
    | split)

theorem State.powerFail_keeps {z₀ s : State} (mv : ℕ) (hz : Keeps z₀ s) :
    Keeps z₀ (State.powerFail s mv) := by
  unfold State.powerFail
  repeat' (first
    | with_reducible assumption
    | with_reducible apply State.gbTrigger_keeps
    | with_reducible apply State.raise_keeps
    | with_reducible apply State.wb_keeps
    | split)

theorem State.pfwClear_keeps {z₀ s : State} (hz : Keeps z₀ s) :
    Keeps z₀ (State.pfwClear s) := by
  unfold State.pfwClear
  repeat' (first
    | with_reducible assumption
    | with_reducible apply State.wb_keeps)

end Sys2Proof.Machine
end

