-- ==== Sys2Proof/Laws/KeepReset.lean ====
section
/-! SUPPORT. The functions of Machine/Reset.lean keep the queue, what has been sent, and the invariant. -/

namespace Sys2Proof.Machine

theorem State.flushReset_keeps {z₀ s : State} (kind : ℕ) (hz : Keeps z₀ s) :
    Keeps z₀ (State.flushReset s kind) := by
  unfold State.flushReset
  repeat' (first
    | with_reducible assumption
    | with_reducible apply State.moduleReset_keeps
    | with_reducible apply State.gbFlushNow_keeps
    | with_reducible apply State.safeMoveAll_keeps)

theorem State.drainDone_keeps {z₀ s : State} (hz : Keeps z₀ s) :
    Keeps z₀ (State.drainDone s) := by
  unfold State.drainDone
  repeat' (first
    | with_reducible assumption
    | with_reducible apply State.enterMode_keeps
    | with_reducible apply State.setCarrier_keeps
    | split
    | intro _ _ _
    | intro _ _
    | intro _
    | with_reducible refine Keeps.of2 (by with_reducible assumption) ?_
    | with_reducible refine Keeps.of1 (by with_reducible assumption) ?_
    | with_reducible refine Keeps.of3 (by with_reducible assumption) ?_
    | with_reducible refine Keeps.of4 (by with_reducible assumption) ?_
    | with_reducible apply Keeps.upto
    | with_reducible apply Keeps.foldl)

theorem State.wdtKick_keeps {z₀ s : State} (hz : Keeps z₀ s) :
    Keeps z₀ (State.wdtKick s) := by
  unfold State.wdtKick
  repeat' (first
    | with_reducible assumption
    | split
    | intro _ _ _
    | intro _ _
    | intro _
    | with_reducible refine Keeps.of2 (by with_reducible assumption) ?_
    | with_reducible refine Keeps.of1 (by with_reducible assumption) ?_
    | with_reducible refine Keeps.of3 (by with_reducible assumption) ?_
    | with_reducible refine Keeps.of4 (by with_reducible assumption) ?_
    | with_reducible apply Keeps.upto
    | with_reducible apply Keeps.foldl
    | with_reducible apply Keeps.foldl_snd_snd
    | with_reducible apply Keeps.foldl_snd
    | with_reducible apply Keeps.foldl_trd
    | with_reducible apply Keeps.foldl_fst_fst
    | with_reducible apply Keeps.foldl_fst
    | with_reducible apply Keeps.foldl_mid
    | dsimp only
    | (with_reducible apply Keeps.mk_other; with_reducible assumption))

theorem State.withRst_keeps {z₀ s : State} (k : ℕ) (hz : Keeps z₀ s) :
    Keeps z₀ (State.withRst s k) := by
  unfold State.withRst
  repeat' (first
    | with_reducible assumption
    | split
    | intro _ _ _
    | intro _ _
    | intro _
    | with_reducible refine Keeps.of2 (by with_reducible assumption) ?_
    | with_reducible refine Keeps.of1 (by with_reducible assumption) ?_
    | with_reducible refine Keeps.of3 (by with_reducible assumption) ?_
    | with_reducible refine Keeps.of4 (by with_reducible assumption) ?_
    | with_reducible apply Keeps.upto
    | with_reducible apply Keeps.foldl
    | with_reducible apply Keeps.foldl_snd_snd
    | with_reducible apply Keeps.foldl_snd
    | with_reducible apply Keeps.foldl_trd
    | with_reducible apply Keeps.foldl_fst_fst
    | with_reducible apply Keeps.foldl_fst
    | with_reducible apply Keeps.foldl_mid
    | dsimp only
    | (with_reducible apply Keeps.mk_other; with_reducible assumption))

theorem State.wdtExpire_keeps {z₀ s : State} (hz : Keeps z₀ s) :
    Keeps z₀ (State.wdtExpire s) := by
  unfold State.wdtExpire
  repeat' (first
    | with_reducible assumption
    | with_reducible apply State.withRst_keeps
    | with_reducible apply State.wf_keeps
    | with_reducible apply State.flushReset_keeps
    | split)

theorem State.sleepAbort_keeps {z₀ s : State} (d : ℕ) (silent : Bool) (hz : Keeps z₀ s) :
    Keeps z₀ (State.sleepAbort s d silent) := by
  unfold State.sleepAbort
  repeat' (first
    | with_reducible assumption
    | with_reducible apply State.wf_keeps
    | with_reducible apply State.wb_keeps
    | with_reducible apply State.tuneMoves_keeps
    | with_reducible apply State.sleepEnd_keeps
    | with_reducible apply State.raise_keeps
    | split)

theorem State.sleepCommit_keeps {z₀ s : State} (sl : Sleep) (hz : Keeps z₀ s) :
    Keeps z₀ (State.sleepCommit s sl) := by
  unfold State.sleepCommit
  repeat' (first
    | with_reducible assumption
    | with_reducible apply State.finish_keeps
    | with_reducible apply State.gbFlushNow_keeps
    | with_reducible apply Keeps.setReg
    | with_reducible apply State.wipe_keeps
    | with_reducible apply State.pinsReset_keeps
    | with_reducible apply State.wb_keeps
    | with_reducible apply State.setIsl_keeps
    | with_reducible apply Keeps.emit
    | with_reducible apply State.wf_keeps
    | split
    | intro _ _ _
    | intro _ _
    | intro _
    | with_reducible refine Keeps.of2 (by with_reducible assumption) ?_
    | with_reducible refine Keeps.of1 (by with_reducible assumption) ?_
    | with_reducible refine Keeps.of3 (by with_reducible assumption) ?_
    | with_reducible refine Keeps.of4 (by with_reducible assumption) ?_
    | with_reducible apply Keeps.upto
    | with_reducible apply Keeps.foldl
    | with_reducible apply Keeps.foldl_snd_snd
    | with_reducible apply Keeps.foldl_snd
    | with_reducible apply Keeps.foldl_trd
    | with_reducible apply Keeps.foldl_fst_fst
    | with_reducible apply Keeps.foldl_fst
    | with_reducible apply Keeps.foldl_mid
    | dsimp only
    | (with_reducible apply Keeps.mk_other; first | with_reducible assumption | with_reducible apply State.finish_keeps | with_reducible apply State.gbFlushNow_keeps | with_reducible apply Keeps.setReg | with_reducible apply State.wipe_keeps | with_reducible apply State.pinsReset_keeps | with_reducible apply State.wb_keeps | with_reducible apply State.setIsl_keeps | with_reducible apply Keeps.emit))

theorem State.hubVote_keeps {z₀ s : State} (hz : Keeps z₀ s) :
    Keeps z₀ (State.hubVote s) := by
  unfold State.hubVote
  repeat' (first
    | with_reducible assumption
    | with_reducible apply State.sleepAbort_keeps
    | with_reducible apply State.sleepCommit_keeps
    | with_reducible apply State.wf_keeps
    | split)

theorem State.voterVote_keeps {z₀ s : State} (d : ℕ) (yes : Bool) (hz : Keeps z₀ s) :
    Keeps z₀ (State.voterVote s d yes) := by
  unfold State.voterVote
  repeat' (first
    | with_reducible assumption
    | with_reducible apply State.sleepAbort_keeps
    | with_reducible apply State.hubVote_keeps
    | with_reducible apply State.wf_keeps
    | split
    | intro _ _ _
    | intro _ _
    | intro _
    | with_reducible refine Keeps.of2 (by with_reducible assumption) ?_
    | with_reducible refine Keeps.of1 (by with_reducible assumption) ?_
    | with_reducible refine Keeps.of3 (by with_reducible assumption) ?_
    | with_reducible refine Keeps.of4 (by with_reducible assumption) ?_
    | with_reducible apply Keeps.upto
    | with_reducible apply Keeps.foldl
    | with_reducible apply Keeps.foldl_snd_snd
    | with_reducible apply Keeps.foldl_snd
    | with_reducible apply Keeps.foldl_trd
    | with_reducible apply Keeps.foldl_fst_fst
    | with_reducible apply Keeps.foldl_fst
    | with_reducible apply Keeps.foldl_mid
    | dsimp only
    | (with_reducible apply Keeps.mk_other; with_reducible assumption))

theorem State.voteTimeout_keeps {z₀ s : State} (hz : Keeps z₀ s) :
    Keeps z₀ (State.voteTimeout s) := by
  unfold State.voteTimeout
  repeat' (first
    | with_reducible assumption
    | with_reducible apply State.hubVote_keeps
    | with_reducible apply State.sleepAbort_keeps
    | split
    | intro _ _ _
    | intro _ _
    | intro _
    | with_reducible refine Keeps.of2 (by with_reducible assumption) ?_
    | with_reducible refine Keeps.of1 (by with_reducible assumption) ?_
    | with_reducible refine Keeps.of3 (by with_reducible assumption) ?_
    | with_reducible refine Keeps.of4 (by with_reducible assumption) ?_
    | with_reducible apply Keeps.upto
    | with_reducible apply Keeps.foldl
    | with_reducible apply Keeps.foldl_snd_snd
    | with_reducible apply Keeps.foldl_snd
    | with_reducible apply Keeps.foldl_trd
    | with_reducible apply Keeps.foldl_fst_fst
    | with_reducible apply Keeps.foldl_fst
    | with_reducible apply Keeps.foldl_mid
    | dsimp only)

theorem State.powerDown_keeps {z₀ s : State} (hz : Keeps z₀ s) :
    Keeps z₀ (State.powerDown s) := by
  unfold State.powerDown
  repeat' (first
    | with_reducible assumption
    | split
    | intro _ _ _
    | intro _ _
    | intro _
    | with_reducible refine Keeps.of2 (by with_reducible assumption) ?_
    | with_reducible refine Keeps.of1 (by with_reducible assumption) ?_
    | with_reducible refine Keeps.of3 (by with_reducible assumption) ?_
    | with_reducible refine Keeps.of4 (by with_reducible assumption) ?_
    | with_reducible apply Keeps.upto
    | with_reducible apply Keeps.foldl
    | with_reducible apply Keeps.foldl_snd_snd
    | with_reducible apply Keeps.foldl_snd
    | with_reducible apply Keeps.foldl_trd
    | with_reducible apply Keeps.foldl_fst_fst
    | with_reducible apply Keeps.foldl_fst
    | with_reducible apply Keeps.foldl_mid
    | dsimp only
    | (with_reducible apply Keeps.mk_other; with_reducible assumption))

theorem State.wakeEvent_keeps {z₀ s : State} (n : ℕ) (sec : ℕ) (hz : Keeps z₀ s) :
    Keeps z₀ (State.wakeEvent s n sec) := by
  unfold State.wakeEvent
  repeat' (first
    | with_reducible assumption
    | split
    | intro _ _ _
    | intro _ _
    | intro _
    | with_reducible refine Keeps.of2 (by with_reducible assumption) ?_
    | with_reducible refine Keeps.of1 (by with_reducible assumption) ?_
    | with_reducible refine Keeps.of3 (by with_reducible assumption) ?_
    | with_reducible refine Keeps.of4 (by with_reducible assumption) ?_
    | with_reducible apply Keeps.upto
    | with_reducible apply Keeps.foldl
    | with_reducible apply Keeps.foldl_snd_snd
    | with_reducible apply Keeps.foldl_snd
    | with_reducible apply Keeps.foldl_trd
    | with_reducible apply Keeps.foldl_fst_fst
    | with_reducible apply Keeps.foldl_fst
    | with_reducible apply Keeps.foldl_mid
    | dsimp only
    | (with_reducible apply Keeps.mk_other; with_reducible assumption))

theorem State.wake_keeps {z₀ s : State} (hz : Keeps z₀ s) :
    Keeps z₀ (State.wake s) := by
  unfold State.wake
  repeat' (first
    | with_reducible assumption
    | with_reducible apply State.wf_keeps
    | with_reducible apply State.wb_keeps
    | with_reducible apply Keeps.setReg
    | with_reducible apply Keeps.emit
    | with_reducible apply State.moduleReset_keeps
    | split
    | intro _ _ _
    | intro _ _
    | intro _
    | with_reducible refine Keeps.of2 (by with_reducible assumption) ?_
    | with_reducible refine Keeps.of1 (by with_reducible assumption) ?_
    | with_reducible refine Keeps.of3 (by with_reducible assumption) ?_
    | with_reducible refine Keeps.of4 (by with_reducible assumption) ?_
    | with_reducible apply Keeps.upto
    | with_reducible apply Keeps.foldl
    | with_reducible apply Keeps.foldl_snd_snd
    | with_reducible apply Keeps.foldl_snd
    | with_reducible apply Keeps.foldl_trd
    | with_reducible apply Keeps.foldl_fst_fst
    | with_reducible apply Keeps.foldl_fst
    | with_reducible apply Keeps.foldl_mid
    | dsimp only
    | (with_reducible apply Keeps.mk_other; first | with_reducible assumption | with_reducible apply State.wf_keeps | with_reducible apply State.wb_keeps | with_reducible apply Keeps.setReg | with_reducible apply Keeps.emit))

theorem State.powerOnReset_keeps {z₀ s : State} (brownout : Bool) (hz : Keeps z₀ s) :
    Keeps z₀ (State.powerOnReset s brownout) := by
  unfold State.powerOnReset
  repeat' (first
    | with_reducible assumption
    | with_reducible apply State.moduleReset_keeps
    | with_reducible apply Keeps.emit
    | split
    | intro _ _ _
    | intro _ _
    | intro _
    | with_reducible refine Keeps.of2 (by with_reducible assumption) ?_
    | with_reducible refine Keeps.of1 (by with_reducible assumption) ?_
    | with_reducible refine Keeps.of3 (by with_reducible assumption) ?_
    | with_reducible refine Keeps.of4 (by with_reducible assumption) ?_
    | with_reducible apply Keeps.upto
    | with_reducible apply Keeps.foldl
    | with_reducible apply Keeps.foldl_snd_snd
    | with_reducible apply Keeps.foldl_snd
    | with_reducible apply Keeps.foldl_trd
    | with_reducible apply Keeps.foldl_fst_fst
    | with_reducible apply Keeps.foldl_fst
    | with_reducible apply Keeps.foldl_mid
    | dsimp only
    | (with_reducible apply Keeps.mk_other; first | with_reducible assumption | with_reducible apply State.moduleReset_keeps | with_reducible apply Keeps.emit))

theorem State.vddqRise_keeps {z₀ s : State} (hz : Keeps z₀ s) :
    Keeps z₀ (State.vddqRise s) := by
  unfold State.vddqRise
  repeat' (first
    | with_reducible assumption
    | with_reducible apply Keeps.emit
    | split
    | intro _ _ _
    | intro _ _
    | intro _
    | with_reducible refine Keeps.of2 (by with_reducible assumption) ?_
    | with_reducible refine Keeps.of1 (by with_reducible assumption) ?_
    | with_reducible refine Keeps.of3 (by with_reducible assumption) ?_
    | with_reducible refine Keeps.of4 (by with_reducible assumption) ?_
    | with_reducible apply Keeps.upto
    | with_reducible apply Keeps.foldl
    | with_reducible apply Keeps.foldl_snd_snd
    | with_reducible apply Keeps.foldl_snd
    | with_reducible apply Keeps.foldl_trd
    | with_reducible apply Keeps.foldl_fst_fst
    | with_reducible apply Keeps.foldl_fst
    | with_reducible apply Keeps.foldl_mid
    | dsimp only
    | (with_reducible apply Keeps.mk_other; first | with_reducible assumption | with_reducible apply Keeps.emit))

theorem State.pinReset_keeps {z₀ s : State} (record : ℕ) (hz : Keeps z₀ s) :
    Keeps z₀ (State.pinReset s record) := by
  unfold State.pinReset
  repeat' (first
    | with_reducible assumption
    | with_reducible apply Keeps.emit
    | with_reducible apply State.moduleReset_keeps
    | with_reducible apply State.safeMoveAll_keeps
    | split
    | intro _ _ _
    | intro _ _
    | intro _
    | with_reducible refine Keeps.of2 (by with_reducible assumption) ?_
    | with_reducible refine Keeps.of1 (by with_reducible assumption) ?_
    | with_reducible refine Keeps.of3 (by with_reducible assumption) ?_
    | with_reducible refine Keeps.of4 (by with_reducible assumption) ?_
    | with_reducible apply Keeps.upto
    | with_reducible apply Keeps.foldl
    | with_reducible apply Keeps.foldl_snd_snd
    | with_reducible apply Keeps.foldl_snd
    | with_reducible apply Keeps.foldl_trd
    | with_reducible apply Keeps.foldl_fst_fst
    | with_reducible apply Keeps.foldl_fst
    | with_reducible apply Keeps.foldl_mid
    | dsimp only
    | (with_reducible apply Keeps.mk_other; first | with_reducible assumption | with_reducible apply Keeps.emit))

theorem State.debugReset_keeps {z₀ s : State} (kind : ℕ) (unit : ℕ) (hz : Keeps z₀ s) :
    Keeps z₀ (State.debugReset s kind unit) := by
  unfold State.debugReset
  repeat' (first
    | with_reducible assumption
    | with_reducible apply State.pinReset_keeps
    | with_reducible apply State.localReset_keeps
    | split)

theorem State.bootEnd_keeps {z₀ s : State} (recovery : Bool) (hz : Keeps z₀ s) :
    Keeps z₀ (State.bootEnd s recovery) := by
  unfold State.bootEnd
  repeat' (first
    | with_reducible assumption
    | with_reducible apply State.haltEnter_keeps
    | with_reducible apply State.enterMode_keeps
    | with_reducible apply State.promote_keeps
    | split
    | intro _ _ _
    | intro _ _
    | intro _
    | with_reducible refine Keeps.of2 (by with_reducible assumption) ?_
    | with_reducible refine Keeps.of1 (by with_reducible assumption) ?_
    | with_reducible refine Keeps.of3 (by with_reducible assumption) ?_
    | with_reducible refine Keeps.of4 (by with_reducible assumption) ?_
    | with_reducible apply Keeps.upto
    | with_reducible apply Keeps.foldl
    | with_reducible apply Keeps.foldl_snd_snd
    | with_reducible apply Keeps.foldl_snd
    | with_reducible apply Keeps.foldl_trd
    | with_reducible apply Keeps.foldl_fst_fst
    | with_reducible apply Keeps.foldl_fst
    | with_reducible apply Keeps.foldl_mid
    | dsimp only
    | (with_reducible apply Keeps.mk_other; with_reducible assumption))

theorem State.bootLoad_keeps {z₀ s : State} (hz : Keeps z₀ s) :
    Keeps z₀ (State.bootLoad s) := by
  unfold State.bootLoad
  repeat' (first
    | with_reducible assumption
    | with_reducible apply State.wf_keeps
    | with_reducible apply Keeps.setReg
    | with_reducible apply State.monLoad_keeps
    | with_reducible apply State.synceSync_keeps
    | with_reducible apply State.gbScan_keeps
    | with_reducible apply State.wearLoad_keeps
    | with_reducible apply State.ownSync_keeps
    | with_reducible apply State.gbRecord_keeps
    | with_reducible apply State.unitsSync_keeps
    | split
    | intro _ _ _
    | intro _ _
    | intro _
    | with_reducible refine Keeps.of2 (by with_reducible assumption) ?_
    | with_reducible refine Keeps.of1 (by with_reducible assumption) ?_
    | with_reducible refine Keeps.of3 (by with_reducible assumption) ?_
    | with_reducible refine Keeps.of4 (by with_reducible assumption) ?_
    | with_reducible apply Keeps.upto
    | with_reducible apply Keeps.foldl
    | with_reducible apply Keeps.foldl_snd_snd
    | with_reducible apply Keeps.foldl_snd
    | with_reducible apply Keeps.foldl_trd
    | with_reducible apply Keeps.foldl_fst_fst
    | with_reducible apply Keeps.foldl_fst
    | with_reducible apply Keeps.foldl_mid
    | dsimp only)

theorem State.holdEnd_keeps {z₀ s : State} {modid : ℕ} (testEn : Bool) (hm : modid < 16) (hz : Keeps z₀ s) :
    Keeps z₀ (State.holdEnd s modid testEn) := by
  have h2 : Keeps z₀ { s with rst := none, modid := modid, testEn := testEn } :=
    ⟨hz.queue, hz.sent, fun i => ⟨(hz.inv i).mem, (hz.inv i).regs, (hz.inv i).marks, (hz.inv i).tables, (hz.inv i).tkns, hm⟩⟩
  unfold State.holdEnd
  repeat' (first
    | with_reducible assumption
    | with_reducible apply State.bootImages_keeps
    | with_reducible apply State.bootLoad_keeps
    | with_reducible apply State.bootEnd_keeps
    | with_reducible apply State.wb_keeps
    | with_reducible apply State.setIsl_keeps
    | with_reducible apply Keeps.upto
    | intro _ _ _
    | split
    | dsimp only)

theorem State.ddrTrain_keeps {z₀ s : State} (fail : Option ℕ) (hz : Keeps z₀ s) :
    Keeps z₀ (State.ddrTrain s fail) := by
  unfold State.ddrTrain
  repeat' (first
    | with_reducible assumption
    | with_reducible apply State.wf_keeps
    | with_reducible apply State.bootEnd_keeps
    | with_reducible apply State.wb_keeps
    | with_reducible apply State.setIsl_keeps
    | with_reducible apply State.raise_keeps
    | split
    | intro _ _ _
    | intro _ _
    | intro _
    | with_reducible refine Keeps.of2 (by with_reducible assumption) ?_
    | with_reducible refine Keeps.of1 (by with_reducible assumption) ?_
    | with_reducible refine Keeps.of3 (by with_reducible assumption) ?_
    | with_reducible refine Keeps.of4 (by with_reducible assumption) ?_
    | with_reducible apply Keeps.upto
    | with_reducible apply Keeps.foldl
    | with_reducible apply Keeps.foldl_snd_snd
    | with_reducible apply Keeps.foldl_snd
    | with_reducible apply Keeps.foldl_trd
    | with_reducible apply Keeps.foldl_fst_fst
    | with_reducible apply Keeps.foldl_fst
    | with_reducible apply Keeps.foldl_mid
    | dsimp only
    | (with_reducible apply Keeps.mk_other; first | with_reducible assumption | with_reducible apply State.wf_keeps | with_reducible apply State.bootEnd_keeps | with_reducible apply State.wb_keeps | with_reducible apply State.setIsl_keeps | with_reducible apply State.raise_keeps | split | intro _ _ _ | intro _ _ | intro _ | with_reducible refine Keeps.of2 (by with_reducible assumption) ?_ | with_reducible refine Keeps.of1 (by with_reducible assumption) ?_ | with_reducible refine Keeps.of3 (by with_reducible assumption) ?_ | with_reducible refine Keeps.of4 (by with_reducible assumption) ?_ | with_reducible apply Keeps.upto))

theorem State.hubFault_keeps {z₀ s : State} (hz : Keeps z₀ s) :
    Keeps z₀ (State.hubFault s) := by
  unfold State.hubFault
  repeat' (first
    | with_reducible assumption
    | with_reducible apply State.haltEnter_keeps
    | split)

end Sys2Proof.Machine
end

