-- ==== Sys2Proof/Laws/KeepHubCmd.lean ====
section
/-! SUPPORT. The functions of Machine/HubCmd.lean keep the queue, what has been sent, and the invariant. -/

namespace Sys2Proof.Machine

theorem State.chk_keeps {z₀ s : State} (t : Ticket) (ok : Bool) (st : ℕ) (f : State → State) (hz : Keeps z₀ s) (h_f : ∀ y0, Keeps z₀ y0 → Keeps z₀ (f y0)) :
    Keeps z₀ (State.chk s t ok st f) := by
  unfold State.chk
  repeat' (first
    | with_reducible assumption
    | with_reducible apply State.answer_keeps
    | with_reducible apply h_f
    | split)

theorem State.hold_keeps {z₀ s : State} (t : Ticket) (hz : Keeps z₀ s) :
    Keeps z₀ (State.hold s t) := by
  unfold State.hold
  repeat' (first
    | with_reducible assumption
    | with_reducible apply State.setRing_keeps
    | split
    | intro _ _ _
    | intro _ _
    | intro _
    | with_reducible refine Keeps.of2 (by with_reducible assumption) ?_
    | with_reducible refine Keeps.of1 (by with_reducible assumption) ?_
    | with_reducible refine Keeps.of3 (by with_reducible assumption) ?_
    | with_reducible refine Keeps.of4 (by with_reducible assumption) ?_
    | with_reducible apply Keeps.upto
    | with_reducible apply Keeps.foldl
    | with_reducible apply Keeps.foldl_snd_snd
    | with_reducible apply Keeps.foldl_snd
    | with_reducible apply Keeps.foldl_trd
    | with_reducible apply Keeps.foldl_fst_fst
    | with_reducible apply Keeps.foldl_fst
    | with_reducible apply Keeps.foldl_mid
    | dsimp only
    | (with_reducible apply Keeps.mk_other; with_reducible assumption))

theorem State.hDevInfo_keeps {z₀ s : State} (t : Ticket) (hz : Keeps z₀ s) :
    Keeps z₀ (State.hDevInfo s t) := by
  unfold State.hDevInfo
  repeat' (first
    | with_reducible assumption
    | with_reducible apply State.drawWords_keeps
    | with_reducible apply State.answer_keeps
    | split
    | intro _ _ _
    | intro _ _
    | intro _
    | with_reducible refine Keeps.of2 (by with_reducible assumption) ?_
    | with_reducible refine Keeps.of1 (by with_reducible assumption) ?_
    | with_reducible refine Keeps.of3 (by with_reducible assumption) ?_
    | with_reducible refine Keeps.of4 (by with_reducible assumption) ?_
    | with_reducible apply Keeps.upto
    | with_reducible apply Keeps.foldl
    | with_reducible apply Keeps.foldl_snd_snd
    | with_reducible apply Keeps.foldl_snd
    | with_reducible apply Keeps.foldl_trd
    | with_reducible apply Keeps.foldl_fst_fst
    | with_reducible apply Keeps.foldl_fst
    | with_reducible apply Keeps.foldl_mid
    | dsimp only
    | (with_reducible apply Keeps.mk_other
       first
       | with_reducible assumption
       | with_reducible apply State.drawWords_keeps
       | with_reducible apply State.answer_keeps
       | split
       | intro _ _ _
       | intro _ _
       | intro _
       | with_reducible refine Keeps.of2 (by with_reducible assumption) ?_
       | with_reducible refine Keeps.of1 (by with_reducible assumption) ?_
       | with_reducible refine Keeps.of3 (by with_reducible assumption) ?_
       | with_reducible refine Keeps.of4 (by with_reducible assumption) ?_
       | with_reducible apply Keeps.upto
       | with_reducible apply Keeps.foldl
       | with_reducible apply Keeps.foldl_snd_snd
       | with_reducible apply Keeps.foldl_snd
       | with_reducible apply Keeps.foldl_trd
       | with_reducible apply Keeps.foldl_fst_fst
       | with_reducible apply Keeps.foldl_fst
       | with_reducible apply Keeps.foldl_mid
       | dsimp only)
    | (refine Keeps.mk_tables ?_ (by simp +contextual [State.tablesWf, swf_sput, swf_drop, swf])
       first
       | with_reducible assumption
       | with_reducible apply State.drawWords_keeps
       | with_reducible apply State.answer_keeps
       | split
       | intro _ _ _
       | intro _ _
       | intro _
       | with_reducible refine Keeps.of2 (by with_reducible assumption) ?_
       | with_reducible refine Keeps.of1 (by with_reducible assumption) ?_
       | with_reducible refine Keeps.of3 (by with_reducible assumption) ?_
       | with_reducible refine Keeps.of4 (by with_reducible assumption) ?_
       | with_reducible apply Keeps.upto
       | with_reducible apply Keeps.foldl
       | with_reducible apply Keeps.foldl_snd_snd
       | with_reducible apply Keeps.foldl_snd
       | with_reducible apply Keeps.foldl_trd
       | with_reducible apply Keeps.foldl_fst_fst
       | with_reducible apply Keeps.foldl_fst
       | with_reducible apply Keeps.foldl_mid
       | dsimp only))

theorem State.hStatus_keeps {z₀ s : State} (t : Ticket) (hz : Keeps z₀ s) :
    Keeps z₀ (State.hStatus s t) := by
  unfold State.hStatus
  repeat' (first
    | with_reducible assumption
    | with_reducible apply State.drawWords_keeps
    | with_reducible apply State.answer_keeps
    | split
    | intro _ _ _
    | intro _ _
    | intro _
    | with_reducible refine Keeps.of2 (by with_reducible assumption) ?_
    | with_reducible refine Keeps.of1 (by with_reducible assumption) ?_
    | with_reducible refine Keeps.of3 (by with_reducible assumption) ?_
    | with_reducible refine Keeps.of4 (by with_reducible assumption) ?_
    | with_reducible apply Keeps.upto
    | with_reducible apply Keeps.foldl
    | with_reducible apply Keeps.foldl_snd_snd
    | with_reducible apply Keeps.foldl_snd
    | with_reducible apply Keeps.foldl_trd
    | with_reducible apply Keeps.foldl_fst_fst
    | with_reducible apply Keeps.foldl_fst
    | with_reducible apply Keeps.foldl_mid
    | dsimp only
    | (with_reducible apply Keeps.mk_other
       first
       | with_reducible assumption
       | with_reducible apply State.drawWords_keeps
       | with_reducible apply State.answer_keeps
       | split
       | intro _ _ _
       | intro _ _
       | intro _
       | with_reducible refine Keeps.of2 (by with_reducible assumption) ?_
       | with_reducible refine Keeps.of1 (by with_reducible assumption) ?_
       | with_reducible refine Keeps.of3 (by with_reducible assumption) ?_
       | with_reducible refine Keeps.of4 (by with_reducible assumption) ?_
       | with_reducible apply Keeps.upto
       | with_reducible apply Keeps.foldl
       | with_reducible apply Keeps.foldl_snd_snd
       | with_reducible apply Keeps.foldl_snd
       | with_reducible apply Keeps.foldl_trd
       | with_reducible apply Keeps.foldl_fst_fst
       | with_reducible apply Keeps.foldl_fst
       | with_reducible apply Keeps.foldl_mid
       | dsimp only)
    | (refine Keeps.mk_tables ?_ (by simp +contextual [State.tablesWf, swf_sput, swf_drop, swf])
       first
       | with_reducible assumption
       | with_reducible apply State.drawWords_keeps
       | with_reducible apply State.answer_keeps
       | split
       | intro _ _ _
       | intro _ _
       | intro _
       | with_reducible refine Keeps.of2 (by with_reducible assumption) ?_
       | with_reducible refine Keeps.of1 (by with_reducible assumption) ?_
       | with_reducible refine Keeps.of3 (by with_reducible assumption) ?_
       | with_reducible refine Keeps.of4 (by with_reducible assumption) ?_
       | with_reducible apply Keeps.upto
       | with_reducible apply Keeps.foldl
       | with_reducible apply Keeps.foldl_snd_snd
       | with_reducible apply Keeps.foldl_snd
       | with_reducible apply Keeps.foldl_trd
       | with_reducible apply Keeps.foldl_fst_fst
       | with_reducible apply Keeps.foldl_fst
       | with_reducible apply Keeps.foldl_mid
       | dsimp only))

theorem State.hModeSet_keeps {z₀ s : State} (c : Cmd) (hz : Keeps z₀ s) :
    Keeps z₀ (State.hModeSet s c) := by
  unfold State.hModeSet
  repeat' (first
    | with_reducible assumption
    | with_reducible apply State.chk_keeps
    | with_reducible apply State.answer_keeps
    | with_reducible apply State.enterMode_keeps
    | with_reducible apply State.wf_keeps
    | with_reducible apply State.leaveTest_keeps
    | split
    | intro _ _ _
    | intro _ _
    | intro _
    | with_reducible refine Keeps.of2 (by with_reducible assumption) ?_
    | with_reducible refine Keeps.of1 (by with_reducible assumption) ?_
    | with_reducible refine Keeps.of3 (by with_reducible assumption) ?_
    | with_reducible refine Keeps.of4 (by with_reducible assumption) ?_
    | with_reducible apply Keeps.upto
    | with_reducible apply Keeps.foldl
    | with_reducible apply Keeps.foldl_snd_snd
    | with_reducible apply Keeps.foldl_snd
    | with_reducible apply Keeps.foldl_trd
    | with_reducible apply Keeps.foldl_fst_fst
    | with_reducible apply Keeps.foldl_fst
    | with_reducible apply Keeps.foldl_mid
    | dsimp only)

theorem State.hReset_keeps {z₀ s : State} (c : Cmd) (hz : Keeps z₀ s) :
    Keeps z₀ (State.hReset s c) := by
  unfold State.hReset
  repeat' (first
    | with_reducible assumption
    | with_reducible apply State.chk_keeps
    | with_reducible apply State.flushReset_keeps
    | with_reducible apply State.answer_keeps
    | with_reducible apply State.localReset_keeps
    | with_reducible apply State.accept_keeps
    | split
    | intro _ _ _
    | intro _ _)

theorem State.hSettingGet_keeps {z₀ s : State} (c : Cmd) (hz : Keeps z₀ s) :
    Keeps z₀ (State.hSettingGet s c) := by
  unfold State.hSettingGet
  repeat' (first
    | with_reducible assumption
    | with_reducible apply State.chk_keeps
    | with_reducible apply State.answer_keeps
    | split
    | intro _ _ _
    | intro _ _)

theorem State.applySetting_keeps {z₀ s : State} (id : ℕ) (hz : Keeps z₀ s) :
    Keeps z₀ (State.applySetting s id) := by
  unfold State.applySetting
  repeat' (first
    | with_reducible assumption
    | with_reducible apply State.ownSync_keeps
    | with_reducible apply State.synceSync_keeps
    | with_reducible apply State.aoLoad_keeps
    | with_reducible apply State.monLoad_keeps
    | split)

theorem State.hSettingSet_keeps {z₀ s : State} (c : Cmd) (hz : Keeps z₀ s) :
    Keeps z₀ (State.hSettingSet s c) := by
  unfold State.hSettingSet
  repeat' (first
    | with_reducible assumption
    | with_reducible apply State.chk_keeps
    | with_reducible apply State.answer_keeps
    | with_reducible apply State.applySetting_keeps
    | with_reducible apply State.putSetting_keeps
    | split
    | intro _ _ _
    | intro _ _)

theorem State.hSettingList_keeps {z₀ s : State} (c : Cmd) (hz : Keeps z₀ s) :
    Keeps z₀ (State.hSettingList s c) := by
  unfold State.hSettingList
  repeat' (first
    | with_reducible assumption
    | with_reducible apply State.chk_keeps
    | with_reducible apply State.answer_keeps
    | split
    | intro _ _ _
    | intro _ _)

theorem State.hPortCfg_keeps {z₀ s : State} (c : Cmd) (hz : Keeps z₀ s) :
    Keeps z₀ (State.hPortCfg s c) := by
  unfold State.hPortCfg
  repeat' (first
    | with_reducible assumption
    | with_reducible apply State.chk_keeps
    | with_reducible apply State.setEth_keeps
    | with_reducible apply State.answer_keeps
    | with_reducible apply State.busWrite_keeps
    | split
    | intro _ _ _
    | intro _ _)

theorem State.hCpLink_keeps {z₀ s : State} (c : Cmd) (hz : Keeps z₀ s) :
    Keeps z₀ (State.hCpLink s c) := by
  unfold State.hCpLink
  repeat' (first
    | with_reducible assumption
    | with_reducible apply State.chk_keeps
    | with_reducible apply State.accept_keeps
    | with_reducible apply State.setCp_keeps
    | with_reducible apply State.finish_keeps
    | with_reducible apply State.cpDown_keeps
    | with_reducible apply State.cpReqEnd_keeps
    | with_reducible apply State.cpRetrain_keeps
    | with_reducible apply State.setCpState_keeps
    | split
    | intro _ _ _
    | intro _ _
    | intro _
    | with_reducible refine Keeps.of2 (by with_reducible assumption) ?_
    | with_reducible refine Keeps.of1 (by with_reducible assumption) ?_
    | with_reducible refine Keeps.of3 (by with_reducible assumption) ?_
    | with_reducible refine Keeps.of4 (by with_reducible assumption) ?_
    | with_reducible apply Keeps.upto
    | with_reducible apply Keeps.foldl
    | with_reducible apply Keeps.foldl_snd_snd
    | with_reducible apply Keeps.foldl_snd
    | with_reducible apply Keeps.foldl_trd
    | with_reducible apply Keeps.foldl_fst_fst
    | with_reducible apply Keeps.foldl_fst
    | with_reducible apply Keeps.foldl_mid
    | dsimp only)

theorem State.hCpStatus_keeps {z₀ s : State} (c : Cmd) (hz : Keeps z₀ s) :
    Keeps z₀ (State.hCpStatus s c) := by
  unfold State.hCpStatus
  repeat' (first
    | with_reducible assumption
    | with_reducible apply State.answer_keeps)

theorem State.hAoSet_keeps {z₀ s : State} (c : Cmd) (hz : Keeps z₀ s) :
    Keeps z₀ (State.hAoSet s c) := by
  unfold State.hAoSet
  repeat' (first
    | with_reducible assumption
    | with_reducible apply State.chk_keeps
    | with_reducible apply State.answer_keeps
    | with_reducible apply State.aoSlew_keeps
    | with_reducible apply State.aoDirect_keeps
    | split
    | intro _ _ _
    | intro _ _)

theorem State.hAoStep_keeps {z₀ s : State} (c : Cmd) (hz : Keeps z₀ s) :
    Keeps z₀ (State.hAoStep s c) := by
  unfold State.hAoStep
  repeat' (first
    | with_reducible assumption
    | with_reducible apply State.chk_keeps
    | with_reducible apply State.answer_keeps
    | with_reducible apply State.aoStepWrite_keeps
    | split
    | intro _ _ _
    | intro _ _)

theorem State.hTimeGet_keeps {z₀ s : State} (t : Ticket) (hz : Keeps z₀ s) :
    Keeps z₀ (State.hTimeGet s t) := by
  unfold State.hTimeGet
  repeat' (first
    | with_reducible assumption
    | with_reducible apply State.answer_keeps
    | split
    | intro _ _ _
    | intro _ _
    | intro _
    | with_reducible refine Keeps.of2 (by with_reducible assumption) ?_
    | with_reducible refine Keeps.of1 (by with_reducible assumption) ?_
    | with_reducible refine Keeps.of3 (by with_reducible assumption) ?_
    | with_reducible refine Keeps.of4 (by with_reducible assumption) ?_
    | with_reducible apply Keeps.upto
    | with_reducible apply Keeps.foldl
    | with_reducible apply Keeps.foldl_snd_snd
    | with_reducible apply Keeps.foldl_snd
    | with_reducible apply Keeps.foldl_trd
    | with_reducible apply Keeps.foldl_fst_fst
    | with_reducible apply Keeps.foldl_fst
    | with_reducible apply Keeps.foldl_mid
    | dsimp only
    | (with_reducible apply Keeps.mk_other
       first
       | with_reducible assumption
       | with_reducible apply State.answer_keeps
       | split
       | intro _ _ _
       | intro _ _
       | intro _
       | with_reducible refine Keeps.of2 (by with_reducible assumption) ?_
       | with_reducible refine Keeps.of1 (by with_reducible assumption) ?_
       | with_reducible refine Keeps.of3 (by with_reducible assumption) ?_
       | with_reducible refine Keeps.of4 (by with_reducible assumption) ?_
       | with_reducible apply Keeps.upto
       | with_reducible apply Keeps.foldl
       | with_reducible apply Keeps.foldl_snd_snd
       | with_reducible apply Keeps.foldl_snd
       | with_reducible apply Keeps.foldl_trd
       | with_reducible apply Keeps.foldl_fst_fst
       | with_reducible apply Keeps.foldl_fst
       | with_reducible apply Keeps.foldl_mid
       | dsimp only)
    | (refine Keeps.mk_tables ?_ (by simp +contextual [State.tablesWf, swf_sput, swf_drop, swf])
       first
       | with_reducible assumption
       | with_reducible apply State.answer_keeps
       | split
       | intro _ _ _
       | intro _ _
       | intro _
       | with_reducible refine Keeps.of2 (by with_reducible assumption) ?_
       | with_reducible refine Keeps.of1 (by with_reducible assumption) ?_
       | with_reducible refine Keeps.of3 (by with_reducible assumption) ?_
       | with_reducible refine Keeps.of4 (by with_reducible assumption) ?_
       | with_reducible apply Keeps.upto
       | with_reducible apply Keeps.foldl
       | with_reducible apply Keeps.foldl_snd_snd
       | with_reducible apply Keeps.foldl_snd
       | with_reducible apply Keeps.foldl_trd
       | with_reducible apply Keeps.foldl_fst_fst
       | with_reducible apply Keeps.foldl_fst
       | with_reducible apply Keeps.foldl_mid
       | dsimp only))

theorem State.stepDropTx_keeps {z₀ s : State} (hz : Keeps z₀ s) :
    Keeps z₀ (State.stepDropTx s) := by
  unfold State.stepDropTx
  repeat' (first
    | with_reducible assumption
    | with_reducible apply State.draw_keeps
    | with_reducible apply State.raise_keeps
    | with_reducible apply State.incSat_keeps
    | with_reducible apply State.setTxq_keeps
    | split
    | intro _ _ _
    | intro _ _
    | intro _
    | with_reducible refine Keeps.of2 (by with_reducible assumption) ?_
    | with_reducible refine Keeps.of1 (by with_reducible assumption) ?_
    | with_reducible refine Keeps.of3 (by with_reducible assumption) ?_
    | with_reducible refine Keeps.of4 (by with_reducible assumption) ?_
    | with_reducible apply Keeps.upto
    | with_reducible apply Keeps.foldl
    | with_reducible apply Keeps.foldl_snd_snd
    | with_reducible apply Keeps.foldl_snd
    | with_reducible apply Keeps.foldl_trd
    | with_reducible apply Keeps.foldl_fst_fst
    | with_reducible apply Keeps.foldl_fst
    | with_reducible apply Keeps.foldl_mid
    | dsimp only)

theorem State.timeStep_keeps {z₀ s : State} (d : ℤ) (tk : Bool) (hz : Keeps z₀ s) :
    Keeps z₀ (State.timeStep s d tk) := by
  have h := State.holdReplicas_keeps hz
  have h2 : Keeps z₀ { s.holdReplicas with
      ext := (((s.ext : Int) + d) % (2 ^ 48 * 10 ^ 9)).toNat,
      tkns := if tk then wrapTo 32 ((s.tkns : Int) + d) else s.tkns } :=
    ⟨h.queue, h.sent, fun i => ⟨(h.inv i).mem, (h.inv i).regs, (h.inv i).marks, (h.inv i).tables, by
      dsimp only
      split
      · simp only [wrapTo]; omega
      · exact (hz.inv i).tkns, (h.inv i).modid⟩⟩
  unfold State.timeStep
  dsimp only
  apply State.raise_keeps
  apply Keeps.upto
  · intro t i ht
    exact State.dropSteps_keeps _ ht
  · exact State.stepDropTx_keeps (State.anchorWrite_keeps h2)

theorem State.hTimeStep_keeps {z₀ s : State} (c : Cmd) (hz : Keeps z₀ s) :
    Keeps z₀ (State.hTimeStep s c) := by
  unfold State.hTimeStep
  repeat' (first
    | with_reducible assumption
    | with_reducible apply State.chk_keeps
    | with_reducible apply State.answer_keeps
    | with_reducible apply State.timeStep_keeps
    | with_reducible apply State.setExtSet_keeps
    | split
    | intro _ _ _
    | intro _ _
    | intro _
    | with_reducible refine Keeps.of2 (by with_reducible assumption) ?_
    | with_reducible refine Keeps.of1 (by with_reducible assumption) ?_
    | with_reducible refine Keeps.of3 (by with_reducible assumption) ?_
    | with_reducible refine Keeps.of4 (by with_reducible assumption) ?_
    | with_reducible apply Keeps.upto
    | with_reducible apply Keeps.foldl
    | with_reducible apply Keeps.foldl_snd_snd
    | with_reducible apply Keeps.foldl_snd
    | with_reducible apply Keeps.foldl_trd
    | with_reducible apply Keeps.foldl_fst_fst
    | with_reducible apply Keeps.foldl_fst
    | with_reducible apply Keeps.foldl_mid
    | dsimp only)

theorem State.hUtc_keeps {z₀ s : State} (c : Cmd) (hz : Keeps z₀ s) :
    Keeps z₀ (State.hUtc s c) := by
  unfold State.hUtc
  repeat' (first
    | with_reducible assumption
    | with_reducible apply State.answer_keeps
    | with_reducible apply State.wf_keeps
    | split
    | intro _ _ _
    | intro _ _
    | intro _
    | with_reducible refine Keeps.of2 (by with_reducible assumption) ?_
    | with_reducible refine Keeps.of1 (by with_reducible assumption) ?_
    | with_reducible refine Keeps.of3 (by with_reducible assumption) ?_
    | with_reducible refine Keeps.of4 (by with_reducible assumption) ?_
    | with_reducible apply Keeps.upto
    | with_reducible apply Keeps.foldl
    | with_reducible apply Keeps.foldl_snd_snd
    | with_reducible apply Keeps.foldl_snd
    | with_reducible apply Keeps.foldl_trd
    | with_reducible apply Keeps.foldl_fst_fst
    | with_reducible apply Keeps.foldl_fst
    | with_reducible apply Keeps.foldl_mid
    | dsimp only
    | (with_reducible apply Keeps.mk_other; with_reducible assumption))

theorem State.hPtpCfg_keeps {z₀ s : State} (c : Cmd) (hz : Keeps z₀ s) :
    Keeps z₀ (State.hPtpCfg s c) := by
  unfold State.hPtpCfg
  repeat' (first
    | with_reducible assumption
    | with_reducible apply State.chk_keeps
    | with_reducible apply State.answer_keeps
    | with_reducible apply State.setPtp_keeps
    | split
    | intro _ _ _
    | intro _ _)

theorem State.hSyncSrc_keeps {z₀ s : State} (c : Cmd) (hz : Keeps z₀ s) :
    Keeps z₀ (State.hSyncSrc s c) := by
  unfold State.hSyncSrc
  repeat' (first
    | with_reducible assumption
    | with_reducible apply State.chk_keeps
    | with_reducible apply State.answer_keeps
    | with_reducible apply State.setSource_keeps
    | split
    | intro _ _ _
    | intro _ _)

theorem State.hScrub_keeps {z₀ s : State} (c : Cmd) (hz : Keeps z₀ s) :
    Keeps z₀ (State.hScrub s c) := by
  unfold State.hScrub
  repeat' (first
    | with_reducible assumption
    | with_reducible apply State.chk_keeps
    | with_reducible apply State.acceptFinish_keeps
    | with_reducible apply State.scrubStart_keeps
    | with_reducible apply State.accept_keeps
    | split
    | intro _ _ _
    | intro _ _
    | intro _
    | with_reducible refine Keeps.of2 (by with_reducible assumption) ?_
    | with_reducible refine Keeps.of1 (by with_reducible assumption) ?_
    | with_reducible refine Keeps.of3 (by with_reducible assumption) ?_
    | with_reducible refine Keeps.of4 (by with_reducible assumption) ?_
    | with_reducible apply Keeps.upto
    | with_reducible apply Keeps.foldl
    | with_reducible apply Keeps.foldl_snd_snd
    | with_reducible apply Keeps.foldl_snd
    | with_reducible apply Keeps.foldl_trd
    | with_reducible apply Keeps.foldl_fst_fst
    | with_reducible apply Keeps.foldl_fst
    | with_reducible apply Keeps.foldl_mid
    | dsimp only
    | (with_reducible apply Keeps.mk_other
       first
       | with_reducible assumption
       | with_reducible apply State.chk_keeps
       | with_reducible apply State.acceptFinish_keeps
       | with_reducible apply State.scrubStart_keeps
       | with_reducible apply State.accept_keeps
       | split
       | intro _ _ _
       | intro _ _
       | intro _
       | with_reducible refine Keeps.of2 (by with_reducible assumption) ?_
       | with_reducible refine Keeps.of1 (by with_reducible assumption) ?_
       | with_reducible refine Keeps.of3 (by with_reducible assumption) ?_
       | with_reducible refine Keeps.of4 (by with_reducible assumption) ?_
       | with_reducible apply Keeps.upto
       | with_reducible apply Keeps.foldl
       | with_reducible apply Keeps.foldl_snd_snd
       | with_reducible apply Keeps.foldl_snd
       | with_reducible apply Keeps.foldl_trd
       | with_reducible apply Keeps.foldl_fst_fst
       | with_reducible apply Keeps.foldl_fst
       | with_reducible apply Keeps.foldl_mid
       | dsimp only)
    | (refine Keeps.mk_tables ?_ (by simp +contextual [State.tablesWf, swf_sput, swf_drop, swf])
       first
       | with_reducible assumption
       | with_reducible apply State.chk_keeps
       | with_reducible apply State.acceptFinish_keeps
       | with_reducible apply State.scrubStart_keeps
       | with_reducible apply State.accept_keeps
       | split
       | intro _ _ _
       | intro _ _
       | intro _
       | with_reducible refine Keeps.of2 (by with_reducible assumption) ?_
       | with_reducible refine Keeps.of1 (by with_reducible assumption) ?_
       | with_reducible refine Keeps.of3 (by with_reducible assumption) ?_
       | with_reducible refine Keeps.of4 (by with_reducible assumption) ?_
       | with_reducible apply Keeps.upto
       | with_reducible apply Keeps.foldl
       | with_reducible apply Keeps.foldl_snd_snd
       | with_reducible apply Keeps.foldl_snd
       | with_reducible apply Keeps.foldl_trd
       | with_reducible apply Keeps.foldl_fst_fst
       | with_reducible apply Keeps.foldl_fst
       | with_reducible apply Keeps.foldl_mid
       | dsimp only))

theorem State.hEccGet_keeps {z₀ s : State} (c : Cmd) (hz : Keeps z₀ s) :
    Keeps z₀ (State.hEccGet s c) := by
  unfold State.hEccGet
  repeat' (first
    | with_reducible assumption
    | with_reducible apply State.chk_keeps
    | with_reducible apply State.answer_keeps
    | split
    | intro _ _ _
    | intro _ _)

theorem State.hEccClear_keeps {z₀ s : State} (c : Cmd) (hz : Keeps z₀ s) :
    Keeps z₀ (State.hEccClear s c) := by
  unfold State.hEccClear
  repeat' (first
    | with_reducible assumption
    | with_reducible apply State.chk_keeps
    | with_reducible apply State.answer_keeps
    | with_reducible apply State.eccClear_keeps
    | split
    | intro _ _ _
    | intro _ _)

theorem State.hRetire_keeps {z₀ s : State} (t : Ticket) (hz : Keeps z₀ s) :
    Keeps z₀ (State.hRetire s t) := by
  unfold State.hRetire
  repeat' (first
    | with_reducible assumption
    | with_reducible apply State.answer_keeps)

theorem State.hMemRead_keeps {z₀ s : State} (c : Cmd) (hz : Keeps z₀ s) :
    Keeps z₀ (State.hMemRead s c) := by
  unfold State.hMemRead
  repeat' (first
    | with_reducible assumption
    | with_reducible apply State.chk_keeps
    | with_reducible apply State.busRead_keeps
    | with_reducible apply State.answer_keeps
    | split
    | intro _ _ _
    | intro _ _)

theorem State.memLine_keeps {z₀ s : State} (a : ℕ) (bs : List Byte) (hz : Keeps z₀ s) :
    Keeps z₀ (State.memLine s a bs).2 := by
  unfold State.memLine
  repeat' (first
    | with_reducible assumption
    | with_reducible apply State.raise_keeps
    | with_reducible apply State.busWrite_keeps
    | split
    | intro _ _ _
    | intro _ _
    | intro _
    | with_reducible refine Keeps.of2 (by with_reducible assumption) ?_
    | with_reducible refine Keeps.of1 (by with_reducible assumption) ?_
    | with_reducible refine Keeps.of3 (by with_reducible assumption) ?_
    | with_reducible refine Keeps.of4 (by with_reducible assumption) ?_
    | with_reducible apply Keeps.upto
    | with_reducible apply Keeps.foldl
    | with_reducible apply Keeps.foldl_snd_snd
    | with_reducible apply Keeps.foldl_snd
    | with_reducible apply Keeps.foldl_trd
    | with_reducible apply Keeps.foldl_fst_fst
    | with_reducible apply Keeps.foldl_fst
    | with_reducible apply Keeps.foldl_mid
    | dsimp only
    | (with_reducible apply Keeps.mk_other
       first
       | with_reducible assumption
       | with_reducible apply State.raise_keeps
       | with_reducible apply State.busWrite_keeps
       | split
       | intro _ _ _
       | intro _ _
       | intro _
       | with_reducible refine Keeps.of2 (by with_reducible assumption) ?_
       | with_reducible refine Keeps.of1 (by with_reducible assumption) ?_
       | with_reducible refine Keeps.of3 (by with_reducible assumption) ?_
       | with_reducible refine Keeps.of4 (by with_reducible assumption) ?_
       | with_reducible apply Keeps.upto
       | with_reducible apply Keeps.foldl
       | with_reducible apply Keeps.foldl_snd_snd
       | with_reducible apply Keeps.foldl_snd
       | with_reducible apply Keeps.foldl_trd
       | with_reducible apply Keeps.foldl_fst_fst
       | with_reducible apply Keeps.foldl_fst
       | with_reducible apply Keeps.foldl_mid
       | dsimp only)
    | (refine Keeps.mk_tables ?_ (by simp +contextual [State.tablesWf, swf_sput, swf_drop, swf])
       first
       | with_reducible assumption
       | with_reducible apply State.raise_keeps
       | with_reducible apply State.busWrite_keeps
       | split
       | intro _ _ _
       | intro _ _
       | intro _
       | with_reducible refine Keeps.of2 (by with_reducible assumption) ?_
       | with_reducible refine Keeps.of1 (by with_reducible assumption) ?_
       | with_reducible refine Keeps.of3 (by with_reducible assumption) ?_
       | with_reducible refine Keeps.of4 (by with_reducible assumption) ?_
       | with_reducible apply Keeps.upto
       | with_reducible apply Keeps.foldl
       | with_reducible apply Keeps.foldl_snd_snd
       | with_reducible apply Keeps.foldl_snd
       | with_reducible apply Keeps.foldl_trd
       | with_reducible apply Keeps.foldl_fst_fst
       | with_reducible apply Keeps.foldl_fst
       | with_reducible apply Keeps.foldl_mid
       | dsimp only))

theorem State.memWrite_keeps {z₀ s : State} (a : ℕ) (bs : List Byte) (hz : Keeps z₀ s) :
    Keeps z₀ (State.memWrite s a bs).2 := by
  unfold State.memWrite
  repeat' (first
    | with_reducible assumption
    | with_reducible apply State.memLine_keeps
    | split
    | intro _ _ _
    | intro _ _
    | intro _
    | with_reducible refine Keeps.of2 (by with_reducible assumption) ?_
    | with_reducible refine Keeps.of1 (by with_reducible assumption) ?_
    | with_reducible refine Keeps.of3 (by with_reducible assumption) ?_
    | with_reducible refine Keeps.of4 (by with_reducible assumption) ?_
    | with_reducible apply Keeps.upto
    | with_reducible apply Keeps.foldl
    | with_reducible apply Keeps.foldl_snd_snd
    | with_reducible apply Keeps.foldl_snd
    | with_reducible apply Keeps.foldl_trd
    | with_reducible apply Keeps.foldl_fst_fst
    | with_reducible apply Keeps.foldl_fst
    | with_reducible apply Keeps.foldl_mid
    | dsimp only
    | (with_reducible apply Keeps.mk_other
       first
       | with_reducible assumption
       | with_reducible apply State.memLine_keeps
       | split
       | intro _ _ _
       | intro _ _
       | intro _
       | with_reducible refine Keeps.of2 (by with_reducible assumption) ?_
       | with_reducible refine Keeps.of1 (by with_reducible assumption) ?_
       | with_reducible refine Keeps.of3 (by with_reducible assumption) ?_
       | with_reducible refine Keeps.of4 (by with_reducible assumption) ?_
       | with_reducible apply Keeps.upto
       | with_reducible apply Keeps.foldl
       | with_reducible apply Keeps.foldl_snd_snd
       | with_reducible apply Keeps.foldl_snd
       | with_reducible apply Keeps.foldl_trd
       | with_reducible apply Keeps.foldl_fst_fst
       | with_reducible apply Keeps.foldl_fst
       | with_reducible apply Keeps.foldl_mid
       | dsimp only)
    | (refine Keeps.mk_tables ?_ (by simp +contextual [State.tablesWf, swf_sput, swf_drop, swf])
       first
       | with_reducible assumption
       | with_reducible apply State.memLine_keeps
       | split
       | intro _ _ _
       | intro _ _
       | intro _
       | with_reducible refine Keeps.of2 (by with_reducible assumption) ?_
       | with_reducible refine Keeps.of1 (by with_reducible assumption) ?_
       | with_reducible refine Keeps.of3 (by with_reducible assumption) ?_
       | with_reducible refine Keeps.of4 (by with_reducible assumption) ?_
       | with_reducible apply Keeps.upto
       | with_reducible apply Keeps.foldl
       | with_reducible apply Keeps.foldl_snd_snd
       | with_reducible apply Keeps.foldl_snd
       | with_reducible apply Keeps.foldl_trd
       | with_reducible apply Keeps.foldl_fst_fst
       | with_reducible apply Keeps.foldl_fst
       | with_reducible apply Keeps.foldl_mid
       | dsimp only))

theorem State.hMemWrite_keeps {z₀ s : State} (c : Cmd) (hz : Keeps z₀ s) :
    Keeps z₀ (State.hMemWrite s c) := by
  unfold State.hMemWrite
  repeat' (first
    | with_reducible assumption
    | with_reducible apply State.chk_keeps
    | with_reducible apply State.memWrite_keeps
    | with_reducible apply State.answer_keeps
    | split
    | intro _ _ _
    | intro _ _)

theorem State.hGbFlush_keeps {z₀ s : State} (t : Ticket) (hz : Keeps z₀ s) :
    Keeps z₀ (State.hGbFlush s t) := by
  unfold State.hGbFlush
  repeat' (first
    | with_reducible assumption
    | with_reducible apply State.accept_keeps
    | with_reducible apply State.gbTrigger_keeps
    | split
    | intro _ _ _
    | intro _ _
    | intro _
    | with_reducible refine Keeps.of2 (by with_reducible assumption) ?_
    | with_reducible refine Keeps.of1 (by with_reducible assumption) ?_
    | with_reducible refine Keeps.of3 (by with_reducible assumption) ?_
    | with_reducible refine Keeps.of4 (by with_reducible assumption) ?_
    | with_reducible apply Keeps.upto
    | with_reducible apply Keeps.foldl
    | with_reducible apply Keeps.foldl_snd_snd
    | with_reducible apply Keeps.foldl_snd
    | with_reducible apply Keeps.foldl_trd
    | with_reducible apply Keeps.foldl_fst_fst
    | with_reducible apply Keeps.foldl_fst
    | with_reducible apply Keeps.foldl_mid
    | dsimp only
    | (with_reducible apply Keeps.mk_other; first | with_reducible assumption | with_reducible apply State.accept_keeps))

theorem State.hGbRead_keeps {z₀ s : State} (c : Cmd) (hz : Keeps z₀ s) :
    Keeps z₀ (State.hGbRead s c) := by
  unfold State.hGbRead
  repeat' (first
    | with_reducible assumption
    | with_reducible apply State.chk_keeps
    | with_reducible apply State.answer_keeps
    | with_reducible apply State.nvScan_keeps
    | split
    | intro _ _ _
    | intro _ _
    | intro _
    | with_reducible refine Keeps.of2 (by with_reducible assumption) ?_
    | with_reducible refine Keeps.of1 (by with_reducible assumption) ?_
    | with_reducible refine Keeps.of3 (by with_reducible assumption) ?_
    | with_reducible refine Keeps.of4 (by with_reducible assumption) ?_
    | with_reducible apply Keeps.upto
    | with_reducible apply Keeps.foldl
    | with_reducible apply Keeps.foldl_snd_snd
    | with_reducible apply Keeps.foldl_snd
    | with_reducible apply Keeps.foldl_trd
    | with_reducible apply Keeps.foldl_fst_fst
    | with_reducible apply Keeps.foldl_fst
    | with_reducible apply Keeps.foldl_mid
    | dsimp only
    | (with_reducible apply Keeps.mk_other
       first
       | with_reducible assumption
       | with_reducible apply State.chk_keeps
       | with_reducible apply State.answer_keeps
       | with_reducible apply State.nvScan_keeps
       | split
       | intro _ _ _
       | intro _ _
       | intro _
       | with_reducible refine Keeps.of2 (by with_reducible assumption) ?_
       | with_reducible refine Keeps.of1 (by with_reducible assumption) ?_
       | with_reducible refine Keeps.of3 (by with_reducible assumption) ?_
       | with_reducible refine Keeps.of4 (by with_reducible assumption) ?_
       | with_reducible apply Keeps.upto
       | with_reducible apply Keeps.foldl
       | with_reducible apply Keeps.foldl_snd_snd
       | with_reducible apply Keeps.foldl_snd
       | with_reducible apply Keeps.foldl_trd
       | with_reducible apply Keeps.foldl_fst_fst
       | with_reducible apply Keeps.foldl_fst
       | with_reducible apply Keeps.foldl_mid
       | dsimp only)
    | (refine Keeps.mk_tables ?_ (by simp +contextual [State.tablesWf, swf_sput, swf_drop, swf])
       first
       | with_reducible assumption
       | with_reducible apply State.chk_keeps
       | with_reducible apply State.answer_keeps
       | with_reducible apply State.nvScan_keeps
       | split
       | intro _ _ _
       | intro _ _
       | intro _
       | with_reducible refine Keeps.of2 (by with_reducible assumption) ?_
       | with_reducible refine Keeps.of1 (by with_reducible assumption) ?_
       | with_reducible refine Keeps.of3 (by with_reducible assumption) ?_
       | with_reducible refine Keeps.of4 (by with_reducible assumption) ?_
       | with_reducible apply Keeps.upto
       | with_reducible apply Keeps.foldl
       | with_reducible apply Keeps.foldl_snd_snd
       | with_reducible apply Keeps.foldl_snd
       | with_reducible apply Keeps.foldl_trd
       | with_reducible apply Keeps.foldl_fst_fst
       | with_reducible apply Keeps.foldl_fst
       | with_reducible apply Keeps.foldl_mid
       | dsimp only))

theorem State.hEvtRoute_keeps {z₀ s : State} (c : Cmd) (hz : Keeps z₀ s) :
    Keeps z₀ (State.hEvtRoute s c) := by
  unfold State.hEvtRoute
  repeat' (first
    | with_reducible assumption
    | with_reducible apply State.chk_keeps
    | with_reducible apply State.answer_keeps
    | with_reducible apply Keeps.setReg
    | split
    | intro _ _ _
    | intro _ _)

theorem State.hAlarm_keeps {z₀ s : State} (c : Cmd) (hz : Keeps z₀ s) :
    Keeps z₀ (State.hAlarm s c) := by
  unfold State.hAlarm
  repeat' (first
    | with_reducible assumption
    | with_reducible apply State.answer_keeps
    | with_reducible apply State.aonSend_keeps
    | with_reducible apply Keeps.setReg)

theorem State.hPower_keeps {z₀ s : State} (t : Ticket) (hz : Keeps z₀ s) :
    Keeps z₀ (State.hPower s t) := by
  unfold State.hPower
  repeat' (first
    | with_reducible assumption
    | with_reducible apply State.answer_keeps)

theorem State.hSleep_keeps {z₀ s : State} (t : Ticket) (hz : Keeps z₀ s) :
    Keeps z₀ (State.hSleep s t) := by
  unfold State.hSleep
  repeat' (first
    | with_reducible assumption
    | with_reducible apply State.accept_keeps
    | with_reducible apply State.gbTrigger_keeps
    | with_reducible apply State.safeMoveAll_keeps
    | with_reducible apply State.wb_keeps
    | with_reducible apply Keeps.setReg
    | split
    | intro _ _ _
    | intro _ _
    | intro _
    | with_reducible refine Keeps.of2 (by with_reducible assumption) ?_
    | with_reducible refine Keeps.of1 (by with_reducible assumption) ?_
    | with_reducible refine Keeps.of3 (by with_reducible assumption) ?_
    | with_reducible refine Keeps.of4 (by with_reducible assumption) ?_
    | with_reducible apply Keeps.upto
    | with_reducible apply Keeps.foldl
    | with_reducible apply Keeps.foldl_snd_snd
    | with_reducible apply Keeps.foldl_snd
    | with_reducible apply Keeps.foldl_trd
    | with_reducible apply Keeps.foldl_fst_fst
    | with_reducible apply Keeps.foldl_fst
    | with_reducible apply Keeps.foldl_mid
    | dsimp only
    | (with_reducible apply Keeps.mk_other; first | with_reducible assumption | with_reducible apply State.accept_keeps))

theorem State.hAttest_keeps {z₀ s : State} (c : Cmd) (hz : Keeps z₀ s) :
    Keeps z₀ (State.hAttest s c) := by
  unfold State.hAttest
  repeat' (first
    | with_reducible assumption
    | with_reducible apply State.answer_keeps)

theorem State.hIdGet_keeps {z₀ s : State} (t : Ticket) (hz : Keeps z₀ s) :
    Keeps z₀ (State.hIdGet s t) := by
  unfold State.hIdGet
  repeat' (first
    | with_reducible assumption
    | with_reducible apply State.answer_keeps)

theorem State.hChallenge_keeps {z₀ s : State} (t : Ticket) (hz : Keeps z₀ s) :
    Keeps z₀ (State.hChallenge s t) := by
  unfold State.hChallenge
  repeat' (first
    | with_reducible assumption
    | with_reducible apply State.chk_keeps
    | with_reducible apply State.draw_keeps
    | with_reducible apply State.answer_keeps
    | with_reducible apply State.wb_keeps
    | split
    | intro _ _ _
    | intro _ _
    | intro _
    | with_reducible refine Keeps.of2 (by with_reducible assumption) ?_
    | with_reducible refine Keeps.of1 (by with_reducible assumption) ?_
    | with_reducible refine Keeps.of3 (by with_reducible assumption) ?_
    | with_reducible refine Keeps.of4 (by with_reducible assumption) ?_
    | with_reducible apply Keeps.upto
    | with_reducible apply Keeps.foldl
    | with_reducible apply Keeps.foldl_snd_snd
    | with_reducible apply Keeps.foldl_snd
    | with_reducible apply Keeps.foldl_trd
    | with_reducible apply Keeps.foldl_fst_fst
    | with_reducible apply Keeps.foldl_fst
    | with_reducible apply Keeps.foldl_mid
    | dsimp only
    | (with_reducible apply Keeps.mk_other; first | with_reducible assumption | with_reducible apply State.chk_keeps | with_reducible apply State.draw_keeps))

theorem State.hUnlock_keeps {z₀ s : State} (c : Cmd) (hz : Keeps z₀ s) :
    Keeps z₀ (State.hUnlock s c) := by
  unfold State.hUnlock
  repeat' (first
    | with_reducible assumption
    | with_reducible apply State.wb_keeps
    | with_reducible apply State.answer_keeps
    | with_reducible apply State.wf_keeps
    | with_reducible apply State.raise_keeps
    | split
    | intro _ _ _
    | intro _ _
    | intro _
    | with_reducible refine Keeps.of2 (by with_reducible assumption) ?_
    | with_reducible refine Keeps.of1 (by with_reducible assumption) ?_
    | with_reducible refine Keeps.of3 (by with_reducible assumption) ?_
    | with_reducible refine Keeps.of4 (by with_reducible assumption) ?_
    | with_reducible apply Keeps.upto
    | with_reducible apply Keeps.foldl
    | with_reducible apply Keeps.foldl_snd_snd
    | with_reducible apply Keeps.foldl_snd
    | with_reducible apply Keeps.foldl_trd
    | with_reducible apply Keeps.foldl_fst_fst
    | with_reducible apply Keeps.foldl_fst
    | with_reducible apply Keeps.foldl_mid
    | dsimp only
    | (with_reducible apply Keeps.mk_other; with_reducible assumption))

theorem State.hExport_keeps {z₀ s : State} (c : Cmd) (hz : Keeps z₀ s) :
    Keeps z₀ (State.hExport s c) := by
  unfold State.hExport
  repeat' (first
    | with_reducible assumption
    | with_reducible apply State.chk_keeps
    | with_reducible apply State.answer_keeps
    | with_reducible apply State.nvScan_keeps
    | split
    | intro _ _ _
    | intro _ _
    | intro _
    | with_reducible refine Keeps.of2 (by with_reducible assumption) ?_
    | with_reducible refine Keeps.of1 (by with_reducible assumption) ?_
    | with_reducible refine Keeps.of3 (by with_reducible assumption) ?_
    | with_reducible refine Keeps.of4 (by with_reducible assumption) ?_
    | with_reducible apply Keeps.upto
    | with_reducible apply Keeps.foldl
    | with_reducible apply Keeps.foldl_snd_snd
    | with_reducible apply Keeps.foldl_snd
    | with_reducible apply Keeps.foldl_trd
    | with_reducible apply Keeps.foldl_fst_fst
    | with_reducible apply Keeps.foldl_fst
    | with_reducible apply Keeps.foldl_mid
    | dsimp only
    | (with_reducible apply Keeps.mk_other
       first
       | with_reducible assumption
       | with_reducible apply State.chk_keeps
       | with_reducible apply State.answer_keeps
       | with_reducible apply State.nvScan_keeps
       | split
       | intro _ _ _
       | intro _ _
       | intro _
       | with_reducible refine Keeps.of2 (by with_reducible assumption) ?_
       | with_reducible refine Keeps.of1 (by with_reducible assumption) ?_
       | with_reducible refine Keeps.of3 (by with_reducible assumption) ?_
       | with_reducible refine Keeps.of4 (by with_reducible assumption) ?_
       | with_reducible apply Keeps.upto
       | with_reducible apply Keeps.foldl
       | with_reducible apply Keeps.foldl_snd_snd
       | with_reducible apply Keeps.foldl_snd
       | with_reducible apply Keeps.foldl_trd
       | with_reducible apply Keeps.foldl_fst_fst
       | with_reducible apply Keeps.foldl_fst
       | with_reducible apply Keeps.foldl_mid
       | dsimp only)
    | (refine Keeps.mk_tables ?_ (by simp +contextual [State.tablesWf, swf_sput, swf_drop, swf])
       first
       | with_reducible assumption
       | with_reducible apply State.chk_keeps
       | with_reducible apply State.answer_keeps
       | with_reducible apply State.nvScan_keeps
       | split
       | intro _ _ _
       | intro _ _
       | intro _
       | with_reducible refine Keeps.of2 (by with_reducible assumption) ?_
       | with_reducible refine Keeps.of1 (by with_reducible assumption) ?_
       | with_reducible refine Keeps.of3 (by with_reducible assumption) ?_
       | with_reducible refine Keeps.of4 (by with_reducible assumption) ?_
       | with_reducible apply Keeps.upto
       | with_reducible apply Keeps.foldl
       | with_reducible apply Keeps.foldl_snd_snd
       | with_reducible apply Keeps.foldl_snd
       | with_reducible apply Keeps.foldl_trd
       | with_reducible apply Keeps.foldl_fst_fst
       | with_reducible apply Keeps.foldl_fst
       | with_reducible apply Keeps.foldl_mid
       | dsimp only))

theorem State.hRevoke_keeps {z₀ s : State} (c : Cmd) (hz : Keeps z₀ s) :
    Keeps z₀ (State.hRevoke s c) := by
  unfold State.hRevoke
  repeat' (first
    | with_reducible assumption
    | with_reducible apply State.chk_keeps
    | with_reducible apply State.answer_keeps
    | with_reducible apply State.raise_keeps
    | with_reducible apply State.wf_keeps
    | split
    | intro _ _ _
    | intro _ _)

theorem State.hLoop_keeps {z₀ s : State} (c : Cmd) (hz : Keeps z₀ s) :
    Keeps z₀ (State.hLoop s c) := by
  unfold State.hLoop
  repeat' (first
    | with_reducible assumption
    | with_reducible apply State.chk_keeps
    | with_reducible apply State.wf_keeps
    | with_reducible apply State.setEth_keeps
    | with_reducible apply State.answer_keeps
    | split
    | intro _ _ _
    | intro _ _
    | intro _
    | with_reducible refine Keeps.of2 (by with_reducible assumption) ?_
    | with_reducible refine Keeps.of1 (by with_reducible assumption) ?_
    | with_reducible refine Keeps.of3 (by with_reducible assumption) ?_
    | with_reducible refine Keeps.of4 (by with_reducible assumption) ?_
    | with_reducible apply Keeps.upto)

theorem State.hPrbs_keeps {z₀ s : State} (c : Cmd) (hz : Keeps z₀ s) :
    Keeps z₀ (State.hPrbs s c) := by
  unfold State.hPrbs
  repeat' (first
    | with_reducible assumption
    | with_reducible apply State.chk_keeps
    | with_reducible apply State.accept_keeps
    | split
    | intro _ _ _
    | intro _ _
    | intro _
    | with_reducible refine Keeps.of2 (by with_reducible assumption) ?_
    | with_reducible refine Keeps.of1 (by with_reducible assumption) ?_
    | with_reducible refine Keeps.of3 (by with_reducible assumption) ?_
    | with_reducible refine Keeps.of4 (by with_reducible assumption) ?_
    | with_reducible apply Keeps.upto
    | with_reducible apply Keeps.foldl
    | with_reducible apply Keeps.foldl_snd_snd
    | with_reducible apply Keeps.foldl_snd
    | with_reducible apply Keeps.foldl_trd
    | with_reducible apply Keeps.foldl_fst_fst
    | with_reducible apply Keeps.foldl_fst
    | with_reducible apply Keeps.foldl_mid
    | dsimp only
    | (with_reducible apply Keeps.mk_other; first | with_reducible assumption | with_reducible apply State.chk_keeps | with_reducible apply State.accept_keeps)
    | (refine Keeps.mk_tables ?_ (by simp +contextual [State.tablesWf, swf_sput, swf_drop]); first | with_reducible assumption | with_reducible apply State.chk_keeps | with_reducible apply State.accept_keeps))

theorem State.prbsEnd_keeps {z₀ s : State} (l : ℕ) (cmp : ℕ) (errs : ℕ) (lost : Bool) (hz : Keeps z₀ s) :
    Keeps z₀ (State.prbsEnd s l cmp errs lost) := by
  unfold State.prbsEnd
  repeat' (first
    | with_reducible assumption
    | with_reducible apply State.finish_keeps
    | split
    | intro _ _ _
    | intro _ _
    | intro _
    | with_reducible refine Keeps.of2 (by with_reducible assumption) ?_
    | with_reducible refine Keeps.of1 (by with_reducible assumption) ?_
    | with_reducible refine Keeps.of3 (by with_reducible assumption) ?_
    | with_reducible refine Keeps.of4 (by with_reducible assumption) ?_
    | with_reducible apply Keeps.upto
    | with_reducible apply Keeps.foldl
    | with_reducible apply Keeps.foldl_snd_snd
    | with_reducible apply Keeps.foldl_snd
    | with_reducible apply Keeps.foldl_trd
    | with_reducible apply Keeps.foldl_fst_fst
    | with_reducible apply Keeps.foldl_fst
    | with_reducible apply Keeps.foldl_mid
    | dsimp only
    | (with_reducible apply Keeps.mk_other; with_reducible assumption)
    | (refine Keeps.mk_tables ?_ (by simp +contextual [State.tablesWf, swf_sput, swf_drop]); with_reducible assumption))

theorem State.hSelfTest_keeps {z₀ s : State} (c : Cmd) (hz : Keeps z₀ s) :
    Keeps z₀ (State.hSelfTest s c) := by
  unfold State.hSelfTest
  repeat' (first
    | with_reducible assumption
    | with_reducible apply State.chk_keeps
    | with_reducible apply State.accept_keeps
    | split
    | intro _ _ _
    | intro _ _
    | intro _
    | with_reducible refine Keeps.of2 (by with_reducible assumption) ?_
    | with_reducible refine Keeps.of1 (by with_reducible assumption) ?_
    | with_reducible refine Keeps.of3 (by with_reducible assumption) ?_
    | with_reducible refine Keeps.of4 (by with_reducible assumption) ?_
    | with_reducible apply Keeps.upto
    | with_reducible apply Keeps.foldl
    | with_reducible apply Keeps.foldl_snd_snd
    | with_reducible apply Keeps.foldl_snd
    | with_reducible apply Keeps.foldl_trd
    | with_reducible apply Keeps.foldl_fst_fst
    | with_reducible apply Keeps.foldl_fst
    | with_reducible apply Keeps.foldl_mid
    | dsimp only
    | (with_reducible apply Keeps.mk_other; first | with_reducible assumption | with_reducible apply State.chk_keeps | with_reducible apply State.accept_keeps))

theorem State.selfTestEnd_keeps {z₀ s : State} (ws : List Word) (hz : Keeps z₀ s) :
    Keeps z₀ (State.selfTestEnd s ws) := by
  unfold State.selfTestEnd
  repeat' (first
    | with_reducible assumption
    | with_reducible apply State.finish_keeps
    | split
    | intro _ _ _
    | intro _ _
    | intro _
    | with_reducible refine Keeps.of2 (by with_reducible assumption) ?_
    | with_reducible refine Keeps.of1 (by with_reducible assumption) ?_
    | with_reducible refine Keeps.of3 (by with_reducible assumption) ?_
    | with_reducible refine Keeps.of4 (by with_reducible assumption) ?_
    | with_reducible apply Keeps.upto
    | with_reducible apply Keeps.foldl
    | with_reducible apply Keeps.foldl_snd_snd
    | with_reducible apply Keeps.foldl_snd
    | with_reducible apply Keeps.foldl_trd
    | with_reducible apply Keeps.foldl_fst_fst
    | with_reducible apply Keeps.foldl_fst
    | with_reducible apply Keeps.foldl_mid
    | dsimp only
    | (with_reducible apply Keeps.mk_other; with_reducible assumption))

theorem State.hUpdBegin_keeps {z₀ s : State} (c : Cmd) (hz : Keeps z₀ s) :
    Keeps z₀ (State.hUpdBegin s c) := by
  unfold State.hUpdBegin
  repeat' (first
    | with_reducible assumption
    | with_reducible apply State.chk_keeps
    | with_reducible apply State.writeBoot_keeps
    | with_reducible apply State.answer_keeps
    | with_reducible apply State.wf_keeps
    | with_reducible apply State.enterMode_keeps
    | split
    | intro _ _ _
    | intro _ _
    | intro _
    | with_reducible refine Keeps.of2 (by with_reducible assumption) ?_
    | with_reducible refine Keeps.of1 (by with_reducible assumption) ?_
    | with_reducible refine Keeps.of3 (by with_reducible assumption) ?_
    | with_reducible refine Keeps.of4 (by with_reducible assumption) ?_
    | with_reducible apply Keeps.upto
    | with_reducible apply Keeps.foldl
    | with_reducible apply Keeps.foldl_snd_snd
    | with_reducible apply Keeps.foldl_snd
    | with_reducible apply Keeps.foldl_trd
    | with_reducible apply Keeps.foldl_fst_fst
    | with_reducible apply Keeps.foldl_fst
    | with_reducible apply Keeps.foldl_mid
    | dsimp only
    | (with_reducible apply Keeps.mk_other; first | with_reducible assumption | with_reducible apply State.chk_keeps | with_reducible apply State.writeBoot_keeps))

theorem State.hUpdChunk_keeps {z₀ s : State} (c : Cmd) (hz : Keeps z₀ s) :
    Keeps z₀ (State.hUpdChunk s c) := by
  unfold State.hUpdChunk
  repeat' (first
    | with_reducible assumption
    | with_reducible apply State.answer_keeps
    | with_reducible apply State.chk_keeps
    | with_reducible apply State.nvWrite_keeps
    | split
    | intro _ _ _
    | intro _ _)

theorem State.updClose_keeps {z₀ s : State} (u : Update) (hz : Keeps z₀ s) :
    Keeps z₀ (State.updClose s u) := by
  unfold State.updClose
  repeat' (first
    | with_reducible assumption
    | with_reducible apply State.enterMode_keeps
    | split
    | intro _ _ _
    | intro _ _
    | intro _
    | with_reducible refine Keeps.of2 (by with_reducible assumption) ?_
    | with_reducible refine Keeps.of1 (by with_reducible assumption) ?_
    | with_reducible refine Keeps.of3 (by with_reducible assumption) ?_
    | with_reducible refine Keeps.of4 (by with_reducible assumption) ?_
    | with_reducible apply Keeps.upto
    | with_reducible apply Keeps.foldl
    | with_reducible apply Keeps.foldl_snd_snd
    | with_reducible apply Keeps.foldl_snd
    | with_reducible apply Keeps.foldl_trd
    | with_reducible apply Keeps.foldl_fst_fst
    | with_reducible apply Keeps.foldl_fst
    | with_reducible apply Keeps.foldl_mid
    | dsimp only
    | (with_reducible apply Keeps.mk_other; with_reducible assumption))

theorem State.hUpdCommit_keeps {z₀ s : State} (t : Ticket) (hz : Keeps z₀ s) :
    Keeps z₀ (State.hUpdCommit s t) := by
  unfold State.hUpdCommit
  repeat' (first
    | with_reducible assumption
    | with_reducible apply State.answer_keeps
    | with_reducible apply State.chk_keeps
    | with_reducible apply State.updClose_keeps
    | with_reducible apply State.accept_keeps
    | split
    | intro _ _ _
    | intro _ _
    | intro _
    | with_reducible refine Keeps.of2 (by with_reducible assumption) ?_
    | with_reducible refine Keeps.of1 (by with_reducible assumption) ?_
    | with_reducible refine Keeps.of3 (by with_reducible assumption) ?_
    | with_reducible refine Keeps.of4 (by with_reducible assumption) ?_
    | with_reducible apply Keeps.upto
    | with_reducible apply Keeps.foldl
    | with_reducible apply Keeps.foldl_snd_snd
    | with_reducible apply Keeps.foldl_snd
    | with_reducible apply Keeps.foldl_trd
    | with_reducible apply Keeps.foldl_fst_fst
    | with_reducible apply Keeps.foldl_fst
    | with_reducible apply Keeps.foldl_mid
    | dsimp only
    | (with_reducible apply Keeps.mk_other; first | with_reducible assumption | with_reducible apply State.answer_keeps | with_reducible apply State.chk_keeps | with_reducible apply State.updClose_keeps | with_reducible apply State.accept_keeps))

theorem State.updVerify_keeps {z₀ s0 : State} (hz : Keeps z₀ s0) :
    Keeps z₀ (State.updVerify s0) := by
  unfold State.updVerify
  repeat' (first
    | with_reducible assumption
    | with_reducible apply State.slotRead_keeps
    | with_reducible apply State.updClose_keeps
    | with_reducible apply State.finish_keeps
    | with_reducible apply State.commitDone_keeps
    | split
    | intro _ _ _
    | intro _ _
    | intro _
    | with_reducible refine Keeps.of2 (by with_reducible assumption) ?_
    | with_reducible refine Keeps.of1 (by with_reducible assumption) ?_
    | with_reducible refine Keeps.of3 (by with_reducible assumption) ?_
    | with_reducible refine Keeps.of4 (by with_reducible assumption) ?_
    | with_reducible apply Keeps.upto
    | with_reducible apply Keeps.foldl
    | with_reducible apply Keeps.foldl_snd_snd
    | with_reducible apply Keeps.foldl_snd
    | with_reducible apply Keeps.foldl_trd
    | with_reducible apply Keeps.foldl_fst_fst
    | with_reducible apply Keeps.foldl_fst
    | with_reducible apply Keeps.foldl_mid
    | dsimp only
    | (with_reducible apply Keeps.mk_other
       first
       | with_reducible assumption
       | with_reducible apply State.slotRead_keeps
       | with_reducible apply State.updClose_keeps
       | with_reducible apply State.finish_keeps
       | with_reducible apply State.commitDone_keeps
       | split
       | intro _ _ _
       | intro _ _
       | intro _
       | with_reducible refine Keeps.of2 (by with_reducible assumption) ?_
       | with_reducible refine Keeps.of1 (by with_reducible assumption) ?_
       | with_reducible refine Keeps.of3 (by with_reducible assumption) ?_
       | with_reducible refine Keeps.of4 (by with_reducible assumption) ?_
       | with_reducible apply Keeps.upto
       | with_reducible apply Keeps.foldl
       | with_reducible apply Keeps.foldl_snd_snd
       | with_reducible apply Keeps.foldl_snd
       | with_reducible apply Keeps.foldl_trd
       | with_reducible apply Keeps.foldl_fst_fst
       | with_reducible apply Keeps.foldl_fst
       | with_reducible apply Keeps.foldl_mid
       | dsimp only)
    | (refine Keeps.mk_tables ?_ (by simp +contextual [State.tablesWf, swf_sput, swf_drop, swf])
       first
       | with_reducible assumption
       | with_reducible apply State.slotRead_keeps
       | with_reducible apply State.updClose_keeps
       | with_reducible apply State.finish_keeps
       | with_reducible apply State.commitDone_keeps
       | split
       | intro _ _ _
       | intro _ _
       | intro _
       | with_reducible refine Keeps.of2 (by with_reducible assumption) ?_
       | with_reducible refine Keeps.of1 (by with_reducible assumption) ?_
       | with_reducible refine Keeps.of3 (by with_reducible assumption) ?_
       | with_reducible refine Keeps.of4 (by with_reducible assumption) ?_
       | with_reducible apply Keeps.upto
       | with_reducible apply Keeps.foldl
       | with_reducible apply Keeps.foldl_snd_snd
       | with_reducible apply Keeps.foldl_snd
       | with_reducible apply Keeps.foldl_trd
       | with_reducible apply Keeps.foldl_fst_fst
       | with_reducible apply Keeps.foldl_fst
       | with_reducible apply Keeps.foldl_mid
       | dsimp only))

theorem State.hUpdAbort_keeps {z₀ s : State} (t : Ticket) (hz : Keeps z₀ s) :
    Keeps z₀ (State.hUpdAbort s t) := by
  unfold State.hUpdAbort
  repeat' (first
    | with_reducible assumption
    | with_reducible apply State.answer_keeps
    | with_reducible apply State.chk_keeps
    | with_reducible apply State.updClose_keeps
    | split
    | intro _ _ _
    | intro _ _)

end Sys2Proof.Machine
end

