-- ==== Sys2Proof/Laws/KeepCellFit.lean ====
section
/-! SUPPORT. The functions of Machine/CellFit.lean keep the queue, what has been sent, and the invariant. -/

namespace Sys2Proof.Machine

theorem State.regionOk_keeps {z₀ s : State} (r : ℕ) (cs : List Carrier) (ov : Option (ℕ × ℕ)) (units : Option (ℕ × ℕ × ℕ)) (hz : Keeps z₀ s) :
    Keeps z₀ (State.regionOk s r cs ov units).2 := by
  unfold State.regionOk
  repeat' (first
    | with_reducible assumption
    | with_reducible apply State.draw_keeps
    | split
    | intro _ _ _
    | intro _ _
    | intro _
    | with_reducible refine Keeps.of2 (by with_reducible assumption) ?_
    | with_reducible refine Keeps.of1 (by with_reducible assumption) ?_
    | with_reducible refine Keeps.of3 (by with_reducible assumption) ?_
    | with_reducible refine Keeps.of4 (by with_reducible assumption) ?_
    | with_reducible apply Keeps.upto
    | with_reducible apply Keeps.foldl
    | with_reducible apply Keeps.foldl_snd_snd
    | with_reducible apply Keeps.foldl_snd
    | with_reducible apply Keeps.foldl_trd
    | with_reducible apply Keeps.foldl_fst_fst
    | with_reducible apply Keeps.foldl_fst
    | with_reducible apply Keeps.foldl_mid
    | dsimp only)

theorem State.worksheet_keeps {z₀ s : State} (c : Carrier) (hz : Keeps z₀ s) :
    Keeps z₀ (State.worksheet s c).2 := by
  unfold State.worksheet
  repeat' (first
    | with_reducible assumption
    | with_reducible apply State.regionOk_keeps
    | split
    | intro _ _ _
    | intro _ _
    | intro _
    | with_reducible refine Keeps.of2 (by with_reducible assumption) ?_
    | with_reducible refine Keeps.of1 (by with_reducible assumption) ?_
    | with_reducible refine Keeps.of3 (by with_reducible assumption) ?_
    | with_reducible refine Keeps.of4 (by with_reducible assumption) ?_
    | with_reducible apply Keeps.upto
    | with_reducible apply Keeps.foldl
    | with_reducible apply Keeps.foldl_snd_snd
    | with_reducible apply Keeps.foldl_snd
    | with_reducible apply Keeps.foldl_trd
    | with_reducible apply Keeps.foldl_fst_fst
    | with_reducible apply Keeps.foldl_fst
    | with_reducible apply Keeps.foldl_mid
    | dsimp only)

end Sys2Proof.Machine
end

