-- ==== Sys2Proof/Laws/KeepGuestbook.lean ====
section
/-! SUPPORT. The functions of Machine/Guestbook.lean keep the queue, what has been sent, and the invariant. -/

namespace Sys2Proof.Machine

theorem State.evPop_keeps {z₀ s : State} (i : ℕ) (hz : Keeps z₀ s) :
    Keeps z₀ (State.evPop s i).2 := by
  unfold State.evPop
  repeat' (first
    | with_reducible assumption
    | with_reducible apply State.setXing_keeps
    | split
    | intro _ _ _
    | intro _ _
    | intro _
    | with_reducible refine Keeps.of2 (by with_reducible assumption) ?_
    | with_reducible refine Keeps.of1 (by with_reducible assumption) ?_
    | with_reducible refine Keeps.of3 (by with_reducible assumption) ?_
    | with_reducible refine Keeps.of4 (by with_reducible assumption) ?_
    | with_reducible apply Keeps.upto
    | with_reducible apply Keeps.foldl
    | with_reducible apply Keeps.foldl_snd_snd
    | with_reducible apply Keeps.foldl_snd
    | with_reducible apply Keeps.foldl_trd
    | with_reducible apply Keeps.foldl_fst_fst
    | with_reducible apply Keeps.foldl_fst
    | with_reducible apply Keeps.foldl_mid
    | dsimp only
    | (with_reducible apply Keeps.mk_other; with_reducible assumption))

theorem State.evRoute_keeps {z₀ s : State} (e : Event) (hz : Keeps z₀ s) :
    Keeps z₀ (State.evRoute s e) := by
  unfold State.evRoute
  repeat' (first
    | with_reducible assumption
    | with_reducible apply State.gbRecord_keeps
    | with_reducible apply State.msiRaise_keeps
    | with_reducible apply State.wf_keeps
    | with_reducible apply State.incWrap_keeps
    | with_reducible apply State.busWrite_keeps
    | with_reducible apply State.incSat_keeps
    | split
    | intro _ _ _
    | intro _ _
    | intro _
    | with_reducible refine Keeps.of2 (by with_reducible assumption) ?_
    | with_reducible refine Keeps.of1 (by with_reducible assumption) ?_
    | with_reducible refine Keeps.of3 (by with_reducible assumption) ?_
    | with_reducible refine Keeps.of4 (by with_reducible assumption) ?_
    | with_reducible apply Keeps.upto
    | with_reducible apply Keeps.foldl
    | with_reducible apply Keeps.foldl_snd_snd
    | with_reducible apply Keeps.foldl_snd
    | with_reducible apply Keeps.foldl_trd
    | with_reducible apply Keeps.foldl_fst_fst
    | with_reducible apply Keeps.foldl_fst
    | with_reducible apply Keeps.foldl_mid
    | dsimp only)

theorem State.eventTake_keeps {z₀ s : State} (hz : Keeps z₀ s) :
    Keeps z₀ (State.eventTake s) := by
  unfold State.eventTake
  repeat' (first
    | with_reducible assumption
    | with_reducible apply State.evPop_keeps
    | with_reducible apply State.evRoute_keeps
    | split
    | intro _ _ _
    | intro _ _
    | intro _
    | with_reducible refine Keeps.of2 (by with_reducible assumption) ?_
    | with_reducible refine Keeps.of1 (by with_reducible assumption) ?_
    | with_reducible refine Keeps.of3 (by with_reducible assumption) ?_
    | with_reducible refine Keeps.of4 (by with_reducible assumption) ?_
    | with_reducible apply Keeps.upto
    | with_reducible apply Keeps.foldl
    | with_reducible apply Keeps.foldl_snd_snd
    | with_reducible apply Keeps.foldl_snd
    | with_reducible apply Keeps.foldl_trd
    | with_reducible apply Keeps.foldl_fst_fst
    | with_reducible apply Keeps.foldl_fst
    | with_reducible apply Keeps.foldl_mid
    | dsimp only
    | (with_reducible apply Keeps.mk_other; first | with_reducible assumption | with_reducible apply State.evPop_keeps))

end Sys2Proof.Machine
end

