-- ==== Sys2Proof/Laws/KeepPackets.lean ====
section
/-! SUPPORT. The functions of Machine/Packets.lean keep the queue, what has been sent, and the invariant. -/

namespace Sys2Proof.Machine

theorem State.dispatch_keeps {z₀ s : State} (c : Cmd) (hz : Keeps z₀ s) :
    Keeps z₀ (State.dispatch s c) := by
  unfold State.dispatch
  repeat' (first
    | with_reducible assumption
    | with_reducible apply State.hDevInfo_keeps
    | with_reducible apply State.hModeSet_keeps
    | with_reducible apply State.hReset_keeps
    | with_reducible apply State.hStatus_keeps
    | with_reducible apply State.answer_keeps
    | with_reducible apply State.hSettingGet_keeps
    | with_reducible apply State.hSettingSet_keeps
    | with_reducible apply State.hSettingList_keeps
    | with_reducible apply State.hCellSetup_keeps
    | with_reducible apply State.hCellStart_keeps
    | with_reducible apply State.hCellStop_keeps
    | with_reducible apply State.hCellQuery_keeps
    | with_reducible apply State.hPortCfg_keeps
    | with_reducible apply State.hDelayMeas_keeps
    | with_reducible apply State.hCpLink_keeps
    | with_reducible apply State.hCpStatus_keeps
    | with_reducible apply State.hAoSet_keeps
    | with_reducible apply State.hAoStep_keeps
    | with_reducible apply State.hTimeGet_keeps
    | with_reducible apply State.hTimeStep_keeps
    | with_reducible apply State.hUtc_keeps
    | with_reducible apply State.hPtpCfg_keeps
    | with_reducible apply State.hSyncSrc_keeps
    | with_reducible apply State.hScrub_keeps
    | with_reducible apply State.hEccGet_keeps
    | with_reducible apply State.hEccClear_keeps
    | with_reducible apply State.hRetire_keeps
    | with_reducible apply State.hMemRead_keeps
    | with_reducible apply State.hMemWrite_keeps
    | with_reducible apply State.hGbFlush_keeps
    | with_reducible apply State.hGbRead_keeps
    | with_reducible apply State.hEvtRoute_keeps
    | with_reducible apply State.hPlSet_keeps
    | with_reducible apply State.hDomain_keeps
    | with_reducible apply State.hSleep_keeps
    | with_reducible apply State.hAlarm_keeps
    | with_reducible apply State.hPower_keeps
    | with_reducible apply State.hAttest_keeps
    | with_reducible apply State.hIdGet_keeps
    | with_reducible apply State.hChallenge_keeps
    | with_reducible apply State.hUnlock_keeps
    | with_reducible apply State.hExport_keeps
    | with_reducible apply State.hRevoke_keeps
    | with_reducible apply State.hLoop_keeps
    | with_reducible apply State.hPrbs_keeps
    | with_reducible apply State.hSelfTest_keeps
    | with_reducible apply State.hUpdBegin_keeps
    | with_reducible apply State.hUpdChunk_keeps
    | with_reducible apply State.hUpdCommit_keeps
    | with_reducible apply State.hUpdAbort_keeps
    | split)

theorem State.serve_keeps {z₀ s : State} (c : Cmd) (hz : Keeps z₀ s) :
    Keeps z₀ (State.serve s c) := by
  unfold State.serve
  repeat' (first
    | with_reducible assumption
    | with_reducible apply State.answer_keeps
    | with_reducible apply State.chk_keeps
    | with_reducible apply State.hSlot_keeps
    | with_reducible apply State.dispatch_keeps
    | split
    | intro _ _ _
    | intro _ _)

theorem State.turnNext_keeps {z₀ s : State} (n : ℕ) (hz : Keeps z₀ s) :
    Keeps z₀ (State.turnNext s n) := by
  unfold State.turnNext
  repeat' (first
    | with_reducible assumption
    | split
    | intro _ _ _
    | intro _ _
    | intro _
    | with_reducible refine Keeps.of2 (by with_reducible assumption) ?_
    | with_reducible refine Keeps.of1 (by with_reducible assumption) ?_
    | with_reducible refine Keeps.of3 (by with_reducible assumption) ?_
    | with_reducible refine Keeps.of4 (by with_reducible assumption) ?_
    | with_reducible apply Keeps.upto
    | with_reducible apply Keeps.foldl
    | with_reducible apply Keeps.foldl_snd_snd
    | with_reducible apply Keeps.foldl_snd
    | with_reducible apply Keeps.foldl_trd
    | with_reducible apply Keeps.foldl_fst_fst
    | with_reducible apply Keeps.foldl_fst
    | with_reducible apply Keeps.foldl_mid
    | dsimp only
    | (with_reducible apply Keeps.mk_other
       first
       | with_reducible assumption
       | split
       | intro _ _ _
       | intro _ _
       | intro _
       | with_reducible refine Keeps.of2 (by with_reducible assumption) ?_
       | with_reducible refine Keeps.of1 (by with_reducible assumption) ?_
       | with_reducible refine Keeps.of3 (by with_reducible assumption) ?_
       | with_reducible refine Keeps.of4 (by with_reducible assumption) ?_
       | with_reducible apply Keeps.upto
       | with_reducible apply Keeps.foldl
       | with_reducible apply Keeps.foldl_snd_snd
       | with_reducible apply Keeps.foldl_snd
       | with_reducible apply Keeps.foldl_trd
       | with_reducible apply Keeps.foldl_fst_fst
       | with_reducible apply Keeps.foldl_fst
       | with_reducible apply Keeps.foldl_mid
       | dsimp only)
    | (refine Keeps.mk_tables ?_ (by simp +contextual [State.tablesWf, swf_sput, swf_drop, swf])
       first
       | with_reducible assumption
       | split
       | intro _ _ _
       | intro _ _
       | intro _
       | with_reducible refine Keeps.of2 (by with_reducible assumption) ?_
       | with_reducible refine Keeps.of1 (by with_reducible assumption) ?_
       | with_reducible refine Keeps.of3 (by with_reducible assumption) ?_
       | with_reducible refine Keeps.of4 (by with_reducible assumption) ?_
       | with_reducible apply Keeps.upto
       | with_reducible apply Keeps.foldl
       | with_reducible apply Keeps.foldl_snd_snd
       | with_reducible apply Keeps.foldl_snd
       | with_reducible apply Keeps.foldl_trd
       | with_reducible apply Keeps.foldl_fst_fst
       | with_reducible apply Keeps.foldl_fst
       | with_reducible apply Keeps.foldl_mid
       | dsimp only))

theorem State.seqCheck_keeps {z₀ s : State} (n : ℕ) (seq : ℕ) (hz : Keeps z₀ s) :
    Keeps z₀ (State.seqCheck s n seq) := by
  unfold State.seqCheck
  repeat' (first
    | with_reducible assumption
    | with_reducible apply State.setRing_keeps
    | with_reducible apply State.raise_keeps
    | split
    | intro _ _ _
    | intro _ _
    | intro _
    | with_reducible refine Keeps.of2 (by with_reducible assumption) ?_
    | with_reducible refine Keeps.of1 (by with_reducible assumption) ?_
    | with_reducible refine Keeps.of3 (by with_reducible assumption) ?_
    | with_reducible refine Keeps.of4 (by with_reducible assumption) ?_
    | with_reducible apply Keeps.upto
    | with_reducible apply Keeps.foldl
    | with_reducible apply Keeps.foldl_snd_snd
    | with_reducible apply Keeps.foldl_snd
    | with_reducible apply Keeps.foldl_trd
    | with_reducible apply Keeps.foldl_fst_fst
    | with_reducible apply Keeps.foldl_fst
    | with_reducible apply Keeps.foldl_mid
    | dsimp only)

theorem State.setSqHead_keeps {z₀ s : State} (n : ℕ) (v : ℕ) (hz : Keeps z₀ s) :
    Keeps z₀ (State.setSqHead s n v) := by
  unfold State.setSqHead
  repeat' (first
    | with_reducible assumption
    | with_reducible apply State.wf_keeps)

theorem State.headWaits_keeps {z₀ s : State} (n : ℕ) (h : Option (ℕ × PktHdr)) (hz : Keeps z₀ s) :
    Keeps z₀ (State.headWaits s n h) := by
  unfold State.headWaits
  repeat' (first
    | with_reducible assumption
    | with_reducible apply State.waitSync_keeps
    | with_reducible apply State.setRing_keeps
    | split
    | intro _ _ _
    | intro _ _
    | intro _
    | with_reducible refine Keeps.of2 (by with_reducible assumption) ?_
    | with_reducible refine Keeps.of1 (by with_reducible assumption) ?_
    | with_reducible refine Keeps.of3 (by with_reducible assumption) ?_
    | with_reducible refine Keeps.of4 (by with_reducible assumption) ?_
    | with_reducible apply Keeps.upto
    | with_reducible apply Keeps.foldl
    | with_reducible apply Keeps.foldl_snd_snd
    | with_reducible apply Keeps.foldl_snd
    | with_reducible apply Keeps.foldl_trd
    | with_reducible apply Keeps.foldl_fst_fst
    | with_reducible apply Keeps.foldl_fst
    | with_reducible apply Keeps.foldl_mid
    | dsimp only
    | (with_reducible apply Keeps.mk_other
       first
       | with_reducible assumption
       | with_reducible apply State.waitSync_keeps
       | with_reducible apply State.setRing_keeps
       | split
       | intro _ _ _
       | intro _ _
       | intro _
       | with_reducible refine Keeps.of2 (by with_reducible assumption) ?_
       | with_reducible refine Keeps.of1 (by with_reducible assumption) ?_
       | with_reducible refine Keeps.of3 (by with_reducible assumption) ?_
       | with_reducible refine Keeps.of4 (by with_reducible assumption) ?_
       | with_reducible apply Keeps.upto
       | with_reducible apply Keeps.foldl
       | with_reducible apply Keeps.foldl_snd_snd
       | with_reducible apply Keeps.foldl_snd
       | with_reducible apply Keeps.foldl_trd
       | with_reducible apply Keeps.foldl_fst_fst
       | with_reducible apply Keeps.foldl_fst
       | with_reducible apply Keeps.foldl_mid
       | dsimp only)
    | (refine Keeps.mk_tables ?_ (by simp +contextual [State.tablesWf, swf_sput, swf_drop, swf])
       first
       | with_reducible assumption
       | with_reducible apply State.waitSync_keeps
       | with_reducible apply State.setRing_keeps
       | split
       | intro _ _ _
       | intro _ _
       | intro _
       | with_reducible refine Keeps.of2 (by with_reducible assumption) ?_
       | with_reducible refine Keeps.of1 (by with_reducible assumption) ?_
       | with_reducible refine Keeps.of3 (by with_reducible assumption) ?_
       | with_reducible refine Keeps.of4 (by with_reducible assumption) ?_
       | with_reducible apply Keeps.upto
       | with_reducible apply Keeps.foldl
       | with_reducible apply Keeps.foldl_snd_snd
       | with_reducible apply Keeps.foldl_snd
       | with_reducible apply Keeps.foldl_trd
       | with_reducible apply Keeps.foldl_fst_fst
       | with_reducible apply Keeps.foldl_fst
       | with_reducible apply Keeps.foldl_mid
       | dsimp only))

theorem State.takeRing_keeps {z₀ s : State} (n : ℕ) (op : ℕ) (h : PktHdr) (ws : List Word) (hz : Keeps z₀ s) :
    Keeps z₀ (State.takeRing s n op h ws) := by
  unfold State.takeRing
  repeat' (first
    | with_reducible assumption
    | with_reducible apply State.headWaits_keeps
    | with_reducible apply State.seqCheck_keeps
    | with_reducible apply State.turnNext_keeps
    | with_reducible apply State.answer_keeps
    | with_reducible apply State.setSqHead_keeps
    | with_reducible apply State.serve_keeps
    | split
    | intro _ _ _
    | intro _ _
    | intro _
    | with_reducible refine Keeps.of2 (by with_reducible assumption) ?_
    | with_reducible refine Keeps.of1 (by with_reducible assumption) ?_
    | with_reducible refine Keeps.of3 (by with_reducible assumption) ?_
    | with_reducible refine Keeps.of4 (by with_reducible assumption) ?_
    | with_reducible apply Keeps.upto
    | with_reducible apply Keeps.foldl
    | with_reducible apply Keeps.foldl_snd_snd
    | with_reducible apply Keeps.foldl_snd
    | with_reducible apply Keeps.foldl_trd
    | with_reducible apply Keeps.foldl_fst_fst
    | with_reducible apply Keeps.foldl_fst
    | with_reducible apply Keeps.foldl_mid
    | dsimp only
    | (with_reducible apply Keeps.mk_other
       first
       | with_reducible assumption
       | with_reducible apply State.headWaits_keeps
       | with_reducible apply State.seqCheck_keeps
       | with_reducible apply State.turnNext_keeps
       | with_reducible apply State.answer_keeps
       | with_reducible apply State.setSqHead_keeps
       | with_reducible apply State.serve_keeps
       | split
       | intro _ _ _
       | intro _ _
       | intro _
       | with_reducible refine Keeps.of2 (by with_reducible assumption) ?_
       | with_reducible refine Keeps.of1 (by with_reducible assumption) ?_
       | with_reducible refine Keeps.of3 (by with_reducible assumption) ?_
       | with_reducible refine Keeps.of4 (by with_reducible assumption) ?_
       | with_reducible apply Keeps.upto
       | with_reducible apply Keeps.foldl
       | with_reducible apply Keeps.foldl_snd_snd
       | with_reducible apply Keeps.foldl_snd
       | with_reducible apply Keeps.foldl_trd
       | with_reducible apply Keeps.foldl_fst_fst
       | with_reducible apply Keeps.foldl_fst
       | with_reducible apply Keeps.foldl_mid
       | dsimp only)
    | (refine Keeps.mk_tables ?_ (by simp +contextual [State.tablesWf, swf_sput, swf_drop, swf])
       first
       | with_reducible assumption
       | with_reducible apply State.headWaits_keeps
       | with_reducible apply State.seqCheck_keeps
       | with_reducible apply State.turnNext_keeps
       | with_reducible apply State.answer_keeps
       | with_reducible apply State.setSqHead_keeps
       | with_reducible apply State.serve_keeps
       | split
       | intro _ _ _
       | intro _ _
       | intro _
       | with_reducible refine Keeps.of2 (by with_reducible assumption) ?_
       | with_reducible refine Keeps.of1 (by with_reducible assumption) ?_
       | with_reducible refine Keeps.of3 (by with_reducible assumption) ?_
       | with_reducible refine Keeps.of4 (by with_reducible assumption) ?_
       | with_reducible apply Keeps.upto
       | with_reducible apply Keeps.foldl
       | with_reducible apply Keeps.foldl_snd_snd
       | with_reducible apply Keeps.foldl_snd
       | with_reducible apply Keeps.foldl_trd
       | with_reducible apply Keeps.foldl_fst_fst
       | with_reducible apply Keeps.foldl_fst
       | with_reducible apply Keeps.foldl_mid
       | dsimp only))

theorem State.tailTimeout_keeps {z₀ s : State} (n : ℕ) (hz : Keeps z₀ s) :
    Keeps z₀ (State.tailTimeout s n) := by
  unfold State.tailTimeout
  repeat' (first
    | with_reducible assumption
    | with_reducible apply State.answer_keeps
    | with_reducible apply State.setSqHead_keeps
    | with_reducible apply State.seqCheck_keeps
    | with_reducible apply State.headWaits_keeps
    | split
    | intro _ _ _
    | intro _ _
    | intro _
    | with_reducible refine Keeps.of2 (by with_reducible assumption) ?_
    | with_reducible refine Keeps.of1 (by with_reducible assumption) ?_
    | with_reducible refine Keeps.of3 (by with_reducible assumption) ?_
    | with_reducible refine Keeps.of4 (by with_reducible assumption) ?_
    | with_reducible apply Keeps.upto
    | with_reducible apply Keeps.foldl
    | with_reducible apply Keeps.foldl_snd_snd
    | with_reducible apply Keeps.foldl_snd
    | with_reducible apply Keeps.foldl_trd
    | with_reducible apply Keeps.foldl_fst_fst
    | with_reducible apply Keeps.foldl_fst
    | with_reducible apply Keeps.foldl_mid
    | dsimp only
    | (with_reducible apply Keeps.mk_other
       first
       | with_reducible assumption
       | with_reducible apply State.answer_keeps
       | with_reducible apply State.setSqHead_keeps
       | with_reducible apply State.seqCheck_keeps
       | with_reducible apply State.headWaits_keeps
       | split
       | intro _ _ _
       | intro _ _
       | intro _
       | with_reducible refine Keeps.of2 (by with_reducible assumption) ?_
       | with_reducible refine Keeps.of1 (by with_reducible assumption) ?_
       | with_reducible refine Keeps.of3 (by with_reducible assumption) ?_
       | with_reducible refine Keeps.of4 (by with_reducible assumption) ?_
       | with_reducible apply Keeps.upto
       | with_reducible apply Keeps.foldl
       | with_reducible apply Keeps.foldl_snd_snd
       | with_reducible apply Keeps.foldl_snd
       | with_reducible apply Keeps.foldl_trd
       | with_reducible apply Keeps.foldl_fst_fst
       | with_reducible apply Keeps.foldl_fst
       | with_reducible apply Keeps.foldl_mid
       | dsimp only)
    | (refine Keeps.mk_tables ?_ (by simp +contextual [State.tablesWf, swf_sput, swf_drop, swf])
       first
       | with_reducible assumption
       | with_reducible apply State.answer_keeps
       | with_reducible apply State.setSqHead_keeps
       | with_reducible apply State.seqCheck_keeps
       | with_reducible apply State.headWaits_keeps
       | split
       | intro _ _ _
       | intro _ _
       | intro _
       | with_reducible refine Keeps.of2 (by with_reducible assumption) ?_
       | with_reducible refine Keeps.of1 (by with_reducible assumption) ?_
       | with_reducible refine Keeps.of3 (by with_reducible assumption) ?_
       | with_reducible refine Keeps.of4 (by with_reducible assumption) ?_
       | with_reducible apply Keeps.upto
       | with_reducible apply Keeps.foldl
       | with_reducible apply Keeps.foldl_snd_snd
       | with_reducible apply Keeps.foldl_snd
       | with_reducible apply Keeps.foldl_trd
       | with_reducible apply Keeps.foldl_fst_fst
       | with_reducible apply Keeps.foldl_fst
       | with_reducible apply Keeps.foldl_mid
       | dsimp only))

theorem State.takeUart_keeps {z₀ s : State} (op : ℕ) (h : PktHdr) (ws : List Word) (hz : Keeps z₀ s) :
    Keeps z₀ (State.takeUart s op h ws) := by
  unfold State.takeUart
  repeat' (first
    | with_reducible assumption
    | with_reducible apply State.answer_keeps
    | with_reducible apply State.serve_keeps
    | split)

theorem State.uartReceive_keeps {z₀ s : State} (bs : List Byte) (hz : Keeps z₀ s) :
    Keeps z₀ (State.uartReceive s bs) := by
  unfold State.uartReceive
  repeat' (first
    | with_reducible assumption
    | with_reducible apply State.raise_keeps
    | with_reducible apply State.takeUart_keeps
    | with_reducible apply State.answer_keeps
    | split
    | intro _ _ _
    | intro _ _
    | intro _
    | with_reducible refine Keeps.of2 (by with_reducible assumption) ?_
    | with_reducible refine Keeps.of1 (by with_reducible assumption) ?_
    | with_reducible refine Keeps.of3 (by with_reducible assumption) ?_
    | with_reducible refine Keeps.of4 (by with_reducible assumption) ?_
    | with_reducible apply Keeps.upto
    | with_reducible apply Keeps.foldl
    | with_reducible apply Keeps.foldl_snd_snd
    | with_reducible apply Keeps.foldl_snd
    | with_reducible apply Keeps.foldl_trd
    | with_reducible apply Keeps.foldl_fst_fst
    | with_reducible apply Keeps.foldl_fst
    | with_reducible apply Keeps.foldl_mid
    | dsimp only)

theorem State.takePacket_keeps {z₀ s : State} (op : ℕ) (p : Packet) (host : HostData) (hz : Keeps z₀ s) :
    Keeps z₀ (State.takePacket s op p host) := by
  unfold State.takePacket
  repeat' (first
    | with_reducible assumption
    | with_reducible apply State.withHost_keeps
    | with_reducible apply State.takeRing_keeps
    | with_reducible apply State.takeUart_keeps
    | split
    | intro _ _ _
    | intro _ _)

theorem State.egressDrop_keeps {z₀ s : State} (post : List Byte) (hz : Keeps z₀ s) :
    Keeps z₀ (State.egressDrop s post) := by
  unfold State.egressDrop
  repeat' (first
    | with_reducible assumption
    | with_reducible apply State.raise_keeps)

theorem State.egressPost_keeps {z₀ s : State} (hz : Keeps z₀ s) :
    Keeps z₀ (State.egressPost s) := by
  unfold State.egressPost
  repeat' (first
    | with_reducible assumption
    | with_reducible apply State.busRead_keeps
    | with_reducible apply State.egressDrop_keeps
    | with_reducible apply State.postReply_keeps
    | with_reducible apply State.setEth_keeps
    | with_reducible apply State.busWrite_keeps
    | split
    | intro _ _ _
    | intro _ _
    | intro _
    | with_reducible refine Keeps.of2 (by with_reducible assumption) ?_
    | with_reducible refine Keeps.of1 (by with_reducible assumption) ?_
    | with_reducible refine Keeps.of3 (by with_reducible assumption) ?_
    | with_reducible refine Keeps.of4 (by with_reducible assumption) ?_
    | with_reducible apply Keeps.upto
    | with_reducible apply Keeps.foldl
    | with_reducible apply Keeps.foldl_snd_snd
    | with_reducible apply Keeps.foldl_snd
    | with_reducible apply Keeps.foldl_trd
    | with_reducible apply Keeps.foldl_fst_fst
    | with_reducible apply Keeps.foldl_fst
    | with_reducible apply Keeps.foldl_mid
    | dsimp only
    | (with_reducible apply Keeps.mk_other
       first
       | with_reducible assumption
       | with_reducible apply State.busRead_keeps
       | with_reducible apply State.egressDrop_keeps
       | with_reducible apply State.postReply_keeps
       | with_reducible apply State.setEth_keeps
       | with_reducible apply State.busWrite_keeps
       | split
       | intro _ _ _
       | intro _ _
       | intro _
       | with_reducible refine Keeps.of2 (by with_reducible assumption) ?_
       | with_reducible refine Keeps.of1 (by with_reducible assumption) ?_
       | with_reducible refine Keeps.of3 (by with_reducible assumption) ?_
       | with_reducible refine Keeps.of4 (by with_reducible assumption) ?_
       | with_reducible apply Keeps.upto
       | with_reducible apply Keeps.foldl
       | with_reducible apply Keeps.foldl_snd_snd
       | with_reducible apply Keeps.foldl_snd
       | with_reducible apply Keeps.foldl_trd
       | with_reducible apply Keeps.foldl_fst_fst
       | with_reducible apply Keeps.foldl_fst
       | with_reducible apply Keeps.foldl_mid
       | dsimp only)
    | (refine Keeps.mk_tables ?_ (by simp +contextual [State.tablesWf, swf_sput, swf_drop, swf])
       first
       | with_reducible assumption
       | with_reducible apply State.busRead_keeps
       | with_reducible apply State.egressDrop_keeps
       | with_reducible apply State.postReply_keeps
       | with_reducible apply State.setEth_keeps
       | with_reducible apply State.busWrite_keeps
       | split
       | intro _ _ _
       | intro _ _
       | intro _
       | with_reducible refine Keeps.of2 (by with_reducible assumption) ?_
       | with_reducible refine Keeps.of1 (by with_reducible assumption) ?_
       | with_reducible refine Keeps.of3 (by with_reducible assumption) ?_
       | with_reducible refine Keeps.of4 (by with_reducible assumption) ?_
       | with_reducible apply Keeps.upto
       | with_reducible apply Keeps.foldl
       | with_reducible apply Keeps.foldl_snd_snd
       | with_reducible apply Keeps.foldl_snd
       | with_reducible apply Keeps.foldl_trd
       | with_reducible apply Keeps.foldl_fst_fst
       | with_reducible apply Keeps.foldl_fst
       | with_reducible apply Keeps.foldl_mid
       | dsimp only))

end Sys2Proof.Machine
end

