-- ==== Sys2Proof/Laws/KeepPorter.lean ====
section
/-! SUPPORT. The functions of Machine/Porter.lean keep the queue, what has been sent, and the invariant. -/

namespace Sys2Proof.Machine

theorem State.mvRead_keeps {z₀ : State} {m : State.Moved} (src : ℕ) (a : ℕ) (n : ℕ) (hz : Keeps z₀ m.1) :
    Keeps z₀ (State.mvRead m src a n).2.1 := by
  unfold State.mvRead
  repeat' (first
    | with_reducible assumption
    | with_reducible apply State.busRead_keeps
    | split)

theorem State.mvWrite_keeps {z₀ : State} {m : State.Moved} (src : ℕ) (a : ℕ) (bs : List Byte) (hz : Keeps z₀ m.1) :
    Keeps z₀ (State.mvWrite m src a bs).1 := by
  unfold State.mvWrite
  repeat' (first
    | with_reducible assumption
    | with_reducible apply State.busWrite_keeps
    | split
    | intro _ _ _
    | intro _ _
    | intro _
    | with_reducible refine Keeps.of2 (by with_reducible assumption) ?_
    | with_reducible refine Keeps.of1 (by with_reducible assumption) ?_
    | with_reducible refine Keeps.of3 (by with_reducible assumption) ?_
    | with_reducible refine Keeps.of4 (by with_reducible assumption) ?_
    | with_reducible apply Keeps.upto
    | with_reducible apply Keeps.foldl
    | with_reducible apply Keeps.foldl_snd_snd
    | with_reducible apply Keeps.foldl_snd
    | with_reducible apply Keeps.foldl_trd
    | with_reducible apply Keeps.foldl_fst_fst
    | with_reducible apply Keeps.foldl_fst
    | with_reducible apply Keeps.foldl_mid
    | dsimp only
    | (with_reducible apply Keeps.mk_other
       first
       | with_reducible assumption
       | with_reducible apply State.busWrite_keeps
       | split
       | intro _ _ _
       | intro _ _
       | intro _
       | with_reducible refine Keeps.of2 (by with_reducible assumption) ?_
       | with_reducible refine Keeps.of1 (by with_reducible assumption) ?_
       | with_reducible refine Keeps.of3 (by with_reducible assumption) ?_
       | with_reducible refine Keeps.of4 (by with_reducible assumption) ?_
       | with_reducible apply Keeps.upto
       | with_reducible apply Keeps.foldl
       | with_reducible apply Keeps.foldl_snd_snd
       | with_reducible apply Keeps.foldl_snd
       | with_reducible apply Keeps.foldl_trd
       | with_reducible apply Keeps.foldl_fst_fst
       | with_reducible apply Keeps.foldl_fst
       | with_reducible apply Keeps.foldl_mid
       | dsimp only)
    | (refine Keeps.mk_tables ?_ (by simp +contextual [State.tablesWf, swf_sput, swf_drop, swf])
       first
       | with_reducible assumption
       | with_reducible apply State.busWrite_keeps
       | split
       | intro _ _ _
       | intro _ _
       | intro _
       | with_reducible refine Keeps.of2 (by with_reducible assumption) ?_
       | with_reducible refine Keeps.of1 (by with_reducible assumption) ?_
       | with_reducible refine Keeps.of3 (by with_reducible assumption) ?_
       | with_reducible refine Keeps.of4 (by with_reducible assumption) ?_
       | with_reducible apply Keeps.upto
       | with_reducible apply Keeps.foldl
       | with_reducible apply Keeps.foldl_snd_snd
       | with_reducible apply Keeps.foldl_snd
       | with_reducible apply Keeps.foldl_trd
       | with_reducible apply Keeps.foldl_fst_fst
       | with_reducible apply Keeps.foldl_fst
       | with_reducible apply Keeps.foldl_mid
       | dsimp only))

theorem State.moveCopy_keeps {z₀ s : State} (src : ℕ) (d : List Byte) (hz : Keeps z₀ s) :
    Keeps z₀ (State.moveCopy s src d).1 := by
  unfold State.moveCopy
  repeat' (first
    | with_reducible assumption
    | with_reducible apply State.mvRead_keeps
    | with_reducible apply State.mvWrite_keeps
    | split
    | intro _ _ _
    | intro _ _
    | intro _
    | with_reducible refine Keeps.of2 (by with_reducible assumption) ?_
    | with_reducible refine Keeps.of1 (by with_reducible assumption) ?_
    | with_reducible refine Keeps.of3 (by with_reducible assumption) ?_
    | with_reducible refine Keeps.of4 (by with_reducible assumption) ?_
    | with_reducible apply Keeps.upto
    | with_reducible apply Keeps.foldl
    | with_reducible apply Keeps.foldl_snd_snd
    | with_reducible apply Keeps.foldl_snd
    | with_reducible apply Keeps.foldl_trd
    | with_reducible apply Keeps.foldl_fst_fst
    | with_reducible apply Keeps.foldl_fst
    | with_reducible apply Keeps.foldl_mid
    | dsimp only)

theorem Keeps.fold {α β : Type} {a : State} (p : β → State) {f : β → α → β} {l : List α} {b : β}
    (hf : ∀ t x, Keeps a (p t) → Keeps a (p (f t x))) (h : Keeps a (p b)) : Keeps a (p (l.foldl f b)) := by
  induction l generalizing b with
  | nil => exact h
  | cons x l ih => exact ih (hf b x h)

theorem State.stRead_keeps {z₀ : State} {g : State.Staging} (src i hi a n : ℕ) (hz : Keeps z₀ g.moved.1) :
    Keeps z₀ (State.stRead g src i hi a n).2.moved.1 := by
  unfold State.stRead
  refine Keeps.fold (fun r : List Byte × State.Staging => r.2.moved.1) (fun r p h => ?_) hz
  dsimp only at h ⊢
  split
  · exact h
  · exact State.mvRead_keeps _ _ _ h

theorem State.stWrite_keeps {z₀ : State} {g : State.Staging} (src i a : ℕ) (bs : List Byte) (hz : Keeps z₀ g.moved.1) :
    Keeps z₀ (State.stWrite g src i a bs).moved.1 := by
  unfold State.stWrite
  refine Keeps.fold (fun g : State.Staging => g.moved.1) (fun g p h => ?_) hz
  dsimp only at h ⊢
  split
  · exact State.mvWrite_keeps _ _ _ h
  · exact h

theorem State.stEnd_keeps {z₀ : State} {g : State.Staging} (src : ℕ) (hz : Keeps z₀ g.moved.1) :
    Keeps z₀ (State.stEnd g src).1 := by
  unfold State.stEnd
  exact Keeps.fold (fun m : State.Moved => m.1) (fun m e h => State.mvWrite_keeps _ _ _ h) hz

/-- A reshuffling keeps what each of its rows keeps. -/
theorem State.stRows_keeps {z₀ s : State} (src n : ℕ) {f : ℕ → State.Staging → State.Staging}
    (hf : ∀ j g, Keeps z₀ g.moved.1 → Keeps z₀ (f j g).moved.1) (hz : Keeps z₀ s) : Keeps z₀ (State.stRows s src n f).1 := by
  unfold State.stRows
  refine State.stEnd_keeps _ (Keeps.fold (fun g : State.Staging => g.moved.1) (fun g j h => ?_) hz)
  split
  · exact h
  · exact hf _ _ h

theorem State.moveInterleave_keeps {z₀ s : State} (src : ℕ) (d : List Byte) (hz : Keeps z₀ s) :
    Keeps z₀ (State.moveInterleave s src d).1 := by
  unfold State.moveInterleave
  refine State.stRows_keeps _ _ (fun j g h => ?_) hz
  have k : Keeps z₀ ((List.range (dK d)).foldl (fun (r : List (List Byte) × State.Staging) i =>
      let a := dSrc d + i * dStep d
      let (bs, g) := State.stRead r.2 src i (a + dPart d) (a + j * dElem d) (dElem d)
      (r.1 ++ [bs], g)) ([], g)).2.moved.1 :=
    Keeps.fold (fun r : List (List Byte) × State.Staging => r.2.moved.1)
      (fun r i h => State.stRead_keeps _ _ _ _ _ h) h
  dsimp only at k ⊢
  split
  · exact k
  · exact State.stWrite_keeps _ _ _ _ k

theorem State.moveDeinterleave_keeps {z₀ s : State} (src : ℕ) (d : List Byte) (hz : Keeps z₀ s) :
    Keeps z₀ (State.moveDeinterleave s src d).1 := by
  unfold State.moveDeinterleave
  refine State.stRows_keeps _ _ (fun j g h => ?_) hz
  have k := State.stRead_keeps src 0 (dSrc d + dLen d) (dSrc d + j * dK d * dElem d) (dK d * dElem d) h
  dsimp only at k ⊢
  split
  · exact k
  · exact Keeps.fold (fun g : State.Staging => g.moved.1) (fun g i h => State.stWrite_keeps _ _ _ _ h) k

theorem State.movePlanes_keeps {z₀ s : State} (src : ℕ) (d : List Byte) (hz : Keeps z₀ s) :
    Keeps z₀ (State.movePlanes s src d).1 := by
  unfold State.movePlanes
  refine State.stRows_keeps _ _ (fun j g h => ?_) hz
  have k := State.stRead_keeps src 0 (dSrc d + dLen d) (dSrc d + j * dK d) (dK d) h
  dsimp only at k ⊢
  split
  · exact k
  · exact Keeps.fold (fun g : State.Staging => g.moved.1) (fun g i h => State.stWrite_keeps _ _ _ _ h) k

theorem State.moveWords_keeps {z₀ s : State} (src : ℕ) (d : List Byte) (hz : Keeps z₀ s) :
    Keeps z₀ (State.moveWords s src d).1 := by
  unfold State.moveWords
  refine State.stRows_keeps _ _ (fun j g h => ?_) hz
  have k : Keeps z₀ ((List.range (dK d)).foldl (fun (r : List (List Byte) × State.Staging) i =>
      let a := dSrc d + i * dStep d
      let (bs, g) := State.stRead r.2 src i (a + dPart d) (a + j) 1
      (r.1 ++ [bs], g)) ([], g)).2.moved.1 :=
    Keeps.fold (fun r : List (List Byte) × State.Staging => r.2.moved.1)
      (fun r i h => State.stRead_keeps _ _ _ _ _ h) h
  dsimp only at k ⊢
  split
  · exact k
  · exact State.stWrite_keeps _ _ _ _ k

theorem State.descMove_keeps {z₀ s : State} (b : ℕ) (ch : ℕ) (mode : ℕ) (f : State → ℕ → List Byte → State.Moved) (hz : Keeps z₀ s) (h_f : ∀ y0 y1 y2, Keeps z₀ y0 → Keeps z₀ (f y0 y1 y2).1) :
    Keeps z₀ (State.descMove s b ch mode f) := by
  unfold State.descMove
  repeat' (first
    | with_reducible assumption
    | with_reducible apply State.setPchan_keeps
    | with_reducible apply h_f
    | split)

theorem State.descBad_keeps {z₀ s : State} (b : ℕ) (ch : ℕ) (daddr : ℕ) (st : ℕ) (fail : ℕ) (hz : Keeps z₀ s) :
    Keeps z₀ (State.descBad s b ch daddr st fail) := by
  unfold State.descBad
  repeat' (first
    | with_reducible assumption
    | with_reducible apply State.ptError_keeps
    | with_reducible apply State.busWrite_keeps
    | split
    | intro _ _ _
    | intro _ _
    | intro _
    | with_reducible refine Keeps.of2 (by with_reducible assumption) ?_
    | with_reducible refine Keeps.of1 (by with_reducible assumption) ?_
    | with_reducible refine Keeps.of3 (by with_reducible assumption) ?_
    | with_reducible refine Keeps.of4 (by with_reducible assumption) ?_
    | with_reducible apply Keeps.upto
    | with_reducible apply Keeps.foldl
    | with_reducible apply Keeps.foldl_snd_snd
    | with_reducible apply Keeps.foldl_snd
    | with_reducible apply Keeps.foldl_trd
    | with_reducible apply Keeps.foldl_fst_fst
    | with_reducible apply Keeps.foldl_fst
    | with_reducible apply Keeps.foldl_mid
    | dsimp only
    | (with_reducible apply Keeps.mk_other
       first
       | with_reducible assumption
       | with_reducible apply State.ptError_keeps
       | with_reducible apply State.busWrite_keeps
       | split
       | intro _ _ _
       | intro _ _
       | intro _
       | with_reducible refine Keeps.of2 (by with_reducible assumption) ?_
       | with_reducible refine Keeps.of1 (by with_reducible assumption) ?_
       | with_reducible refine Keeps.of3 (by with_reducible assumption) ?_
       | with_reducible refine Keeps.of4 (by with_reducible assumption) ?_
       | with_reducible apply Keeps.upto
       | with_reducible apply Keeps.foldl
       | with_reducible apply Keeps.foldl_snd_snd
       | with_reducible apply Keeps.foldl_snd
       | with_reducible apply Keeps.foldl_trd
       | with_reducible apply Keeps.foldl_fst_fst
       | with_reducible apply Keeps.foldl_fst
       | with_reducible apply Keeps.foldl_mid
       | dsimp only)
    | (refine Keeps.mk_tables ?_ (by simp +contextual [State.tablesWf, swf_sput, swf_drop, swf])
       first
       | with_reducible assumption
       | with_reducible apply State.ptError_keeps
       | with_reducible apply State.busWrite_keeps
       | split
       | intro _ _ _
       | intro _ _
       | intro _
       | with_reducible refine Keeps.of2 (by with_reducible assumption) ?_
       | with_reducible refine Keeps.of1 (by with_reducible assumption) ?_
       | with_reducible refine Keeps.of3 (by with_reducible assumption) ?_
       | with_reducible refine Keeps.of4 (by with_reducible assumption) ?_
       | with_reducible apply Keeps.upto
       | with_reducible apply Keeps.foldl
       | with_reducible apply Keeps.foldl_snd_snd
       | with_reducible apply Keeps.foldl_snd
       | with_reducible apply Keeps.foldl_trd
       | with_reducible apply Keeps.foldl_fst_fst
       | with_reducible apply Keeps.foldl_fst
       | with_reducible apply Keeps.foldl_mid
       | dsimp only))

theorem State.descStart_keeps {z₀ s : State} (b : ℕ) (ch : ℕ) (hz : Keeps z₀ s) :
    Keeps z₀ (State.descStart s b ch) := by
  unfold State.descStart
  repeat' (first
    | with_reducible assumption
    | with_reducible apply State.busRead_keeps
    | with_reducible apply State.advanceHead_keeps
    | with_reducible apply State.ptError_keeps
    | with_reducible apply State.wb_keeps
    | with_reducible apply State.setRun_keeps
    | with_reducible apply State.setPchan_keeps
    | with_reducible apply State.descBad_keeps
    | split
    | intro _ _ _
    | intro _ _
    | intro _
    | with_reducible refine Keeps.of2 (by with_reducible assumption) ?_
    | with_reducible refine Keeps.of1 (by with_reducible assumption) ?_
    | with_reducible refine Keeps.of3 (by with_reducible assumption) ?_
    | with_reducible refine Keeps.of4 (by with_reducible assumption) ?_
    | with_reducible apply Keeps.upto
    | with_reducible apply Keeps.foldl
    | with_reducible apply Keeps.foldl_snd_snd
    | with_reducible apply Keeps.foldl_snd
    | with_reducible apply Keeps.foldl_trd
    | with_reducible apply Keeps.foldl_fst_fst
    | with_reducible apply Keeps.foldl_fst
    | with_reducible apply Keeps.foldl_mid
    | dsimp only
    | (with_reducible apply Keeps.mk_other
       first
       | with_reducible assumption
       | with_reducible apply State.busRead_keeps
       | with_reducible apply State.advanceHead_keeps
       | with_reducible apply State.ptError_keeps
       | with_reducible apply State.wb_keeps
       | with_reducible apply State.setRun_keeps
       | with_reducible apply State.setPchan_keeps
       | with_reducible apply State.descBad_keeps
       | split
       | intro _ _ _
       | intro _ _
       | intro _
       | with_reducible refine Keeps.of2 (by with_reducible assumption) ?_
       | with_reducible refine Keeps.of1 (by with_reducible assumption) ?_
       | with_reducible refine Keeps.of3 (by with_reducible assumption) ?_
       | with_reducible refine Keeps.of4 (by with_reducible assumption) ?_
       | with_reducible apply Keeps.upto
       | with_reducible apply Keeps.foldl
       | with_reducible apply Keeps.foldl_snd_snd
       | with_reducible apply Keeps.foldl_snd
       | with_reducible apply Keeps.foldl_trd
       | with_reducible apply Keeps.foldl_fst_fst
       | with_reducible apply Keeps.foldl_fst
       | with_reducible apply Keeps.foldl_mid
       | dsimp only)
    | (refine Keeps.mk_tables ?_ (by simp +contextual [State.tablesWf, swf_sput, swf_drop, swf])
       first
       | with_reducible assumption
       | with_reducible apply State.busRead_keeps
       | with_reducible apply State.advanceHead_keeps
       | with_reducible apply State.ptError_keeps
       | with_reducible apply State.wb_keeps
       | with_reducible apply State.setRun_keeps
       | with_reducible apply State.setPchan_keeps
       | with_reducible apply State.descBad_keeps
       | split
       | intro _ _ _
       | intro _ _
       | intro _
       | with_reducible refine Keeps.of2 (by with_reducible assumption) ?_
       | with_reducible refine Keeps.of1 (by with_reducible assumption) ?_
       | with_reducible refine Keeps.of3 (by with_reducible assumption) ?_
       | with_reducible refine Keeps.of4 (by with_reducible assumption) ?_
       | with_reducible apply Keeps.upto
       | with_reducible apply Keeps.foldl
       | with_reducible apply Keeps.foldl_snd_snd
       | with_reducible apply Keeps.foldl_snd
       | with_reducible apply Keeps.foldl_trd
       | with_reducible apply Keeps.foldl_fst_fst
       | with_reducible apply Keeps.foldl_fst
       | with_reducible apply Keeps.foldl_mid
       | dsimp only))

theorem State.descPulse_keeps {z₀ s : State} (b : ℕ) (ch : ℕ) (d : List Byte) (hz : Keeps z₀ s) :
    Keeps z₀ (State.descPulse s b ch d).2 := by
  unfold State.descPulse
  repeat' (first
    | with_reducible assumption
    | with_reducible apply State.pulse_keeps
    | with_reducible apply State.busWrite_keeps
    | with_reducible apply State.triggerPulse_keeps
    | split)

theorem State.descFinish_keeps {z₀ s : State} (b : ℕ) (ch : ℕ) (hz : Keeps z₀ s) :
    Keeps z₀ (State.descFinish s b ch) := by
  unfold State.descFinish
  repeat' (first
    | with_reducible assumption
    | with_reducible apply State.descBad_keeps
    | with_reducible apply State.descPulse_keeps
    | with_reducible apply State.incWrap_keeps
    | with_reducible apply State.setRun_keeps
    | with_reducible apply State.setPchan_keeps
    | with_reducible apply State.advanceHead_keeps
    | with_reducible apply State.wb_keeps
    | with_reducible apply State.setPtCur_keeps
    | split
    | intro _ _ _
    | intro _ _
    | intro _
    | with_reducible refine Keeps.of2 (by with_reducible assumption) ?_
    | with_reducible refine Keeps.of1 (by with_reducible assumption) ?_
    | with_reducible refine Keeps.of3 (by with_reducible assumption) ?_
    | with_reducible refine Keeps.of4 (by with_reducible assumption) ?_
    | with_reducible apply Keeps.upto
    | with_reducible apply Keeps.foldl
    | with_reducible apply Keeps.foldl_snd_snd
    | with_reducible apply Keeps.foldl_snd
    | with_reducible apply Keeps.foldl_trd
    | with_reducible apply Keeps.foldl_fst_fst
    | with_reducible apply Keeps.foldl_fst
    | with_reducible apply Keeps.foldl_mid
    | dsimp only
    | (with_reducible apply Keeps.mk_other
       first
       | with_reducible assumption
       | with_reducible apply State.descBad_keeps
       | with_reducible apply State.descPulse_keeps
       | with_reducible apply State.incWrap_keeps
       | with_reducible apply State.setRun_keeps
       | with_reducible apply State.setPchan_keeps
       | with_reducible apply State.advanceHead_keeps
       | with_reducible apply State.wb_keeps
       | with_reducible apply State.setPtCur_keeps
       | split
       | intro _ _ _
       | intro _ _
       | intro _
       | with_reducible refine Keeps.of2 (by with_reducible assumption) ?_
       | with_reducible refine Keeps.of1 (by with_reducible assumption) ?_
       | with_reducible refine Keeps.of3 (by with_reducible assumption) ?_
       | with_reducible refine Keeps.of4 (by with_reducible assumption) ?_
       | with_reducible apply Keeps.upto
       | with_reducible apply Keeps.foldl
       | with_reducible apply Keeps.foldl_snd_snd
       | with_reducible apply Keeps.foldl_snd
       | with_reducible apply Keeps.foldl_trd
       | with_reducible apply Keeps.foldl_fst_fst
       | with_reducible apply Keeps.foldl_fst
       | with_reducible apply Keeps.foldl_mid
       | dsimp only)
    | (refine Keeps.mk_tables ?_ (by simp +contextual [State.tablesWf, swf_sput, swf_drop, swf])
       first
       | with_reducible assumption
       | with_reducible apply State.descBad_keeps
       | with_reducible apply State.descPulse_keeps
       | with_reducible apply State.incWrap_keeps
       | with_reducible apply State.setRun_keeps
       | with_reducible apply State.setPchan_keeps
       | with_reducible apply State.advanceHead_keeps
       | with_reducible apply State.wb_keeps
       | with_reducible apply State.setPtCur_keeps
       | split
       | intro _ _ _
       | intro _ _
       | intro _
       | with_reducible refine Keeps.of2 (by with_reducible assumption) ?_
       | with_reducible refine Keeps.of1 (by with_reducible assumption) ?_
       | with_reducible refine Keeps.of3 (by with_reducible assumption) ?_
       | with_reducible refine Keeps.of4 (by with_reducible assumption) ?_
       | with_reducible apply Keeps.upto
       | with_reducible apply Keeps.foldl
       | with_reducible apply Keeps.foldl_snd_snd
       | with_reducible apply Keeps.foldl_snd
       | with_reducible apply Keeps.foldl_trd
       | with_reducible apply Keeps.foldl_fst_fst
       | with_reducible apply Keeps.foldl_fst
       | with_reducible apply Keeps.foldl_mid
       | dsimp only))

theorem State.porterRelease_keeps {z₀ s : State} (ch : ℕ) (hz : Keeps z₀ s) :
    Keeps z₀ (State.porterRelease s ch) := by
  unfold State.porterRelease
  repeat' (first
    | with_reducible assumption
    | with_reducible apply State.release_keeps
    | split
    | intro _ _ _
    | intro _ _
    | intro _
    | with_reducible refine Keeps.of2 (by with_reducible assumption) ?_
    | with_reducible refine Keeps.of1 (by with_reducible assumption) ?_
    | with_reducible refine Keeps.of3 (by with_reducible assumption) ?_
    | with_reducible refine Keeps.of4 (by with_reducible assumption) ?_
    | with_reducible apply Keeps.upto
    | with_reducible apply Keeps.foldl
    | with_reducible apply Keeps.foldl_snd_snd
    | with_reducible apply Keeps.foldl_snd
    | with_reducible apply Keeps.foldl_trd
    | with_reducible apply Keeps.foldl_fst_fst
    | with_reducible apply Keeps.foldl_fst
    | with_reducible apply Keeps.foldl_mid
    | dsimp only
    | (with_reducible apply Keeps.mk_other; with_reducible assumption)
    | (refine Keeps.mk_tables ?_ (by simp +contextual [State.tablesWf, swf_sput, swf_drop]); with_reducible assumption))

theorem State.ptWrite_keeps {z₀ s : State} (src : ℕ) (a : ℕ) (bs : List Byte) (hz : Keeps z₀ s) :
    Keeps z₀ (State.ptWrite s src a bs) := by
  unfold State.ptWrite
  repeat' (first
    | with_reducible assumption
    | with_reducible apply State.busWrite_keeps)

end Sys2Proof.Machine
end

