-- ==== Sys2Proof/Laws/KeepTimekeeper.lean ====
section
/-! SUPPORT. The functions of Machine/Timekeeper.lean keep the queue, what has been sent, and the invariant. -/

namespace Sys2Proof.Machine

theorem State.onTk_keeps {z₀ s : State} (f : State → State) (hz : Keeps z₀ s) (h_f : ∀ y0, Keeps z₀ y0 → Keeps z₀ (f y0)) :
    Keeps z₀ (State.onTk s f) := by
  unfold State.onTk
  repeat' (first
    | with_reducible assumption
    | with_reducible apply h_f
    | split)

end Sys2Proof.Machine
end

