-- ==== Sys2Proof/Laws/KeepVdc.lean ====
section
/-! SUPPORT. The functions of Machine/Vdc.lean keep the queue, what has been sent, and the invariant. -/

namespace Sys2Proof.Machine

theorem State.issueV_keeps {z₀ s : State} (n : ℕ) (nb : Bool) (vop : ℕ) (vd : BitVec 4) (va : BitVec 4) (vb : BitVec 4) (md : BitVec 6) (hz : Keeps z₀ s) :
    Keeps z₀ (State.issueV s n nb vop vd va vb md) := by
  unfold State.issueV
  repeat' (first
    | with_reducible assumption
    | with_reducible apply State.issue_keeps
    | split)

theorem State.issueS_keeps {z₀ s : State} (n : ℕ) (nb : Bool) (sop : ℕ) (sd : BitVec 4) (sa : BitVec 4) (sb : BitVec 5) (hz : Keeps z₀ s) :
    Keeps z₀ (State.issueS s n nb sop sd sa sb) := by
  unfold State.issueS
  repeat' (first
    | with_reducible assumption
    | with_reducible apply State.issue_keeps
    | split)

theorem State.issueB_keeps {z₀ s : State} (n : ℕ) (nb : Bool) (sop : ℕ) (sd : BitVec 4) (disp : BitVec 9) (hz : Keeps z₀ s) :
    Keeps z₀ (State.issueB s n nb sop sd disp) := by
  unfold State.issueB
  repeat' (first
    | with_reducible assumption
    | with_reducible apply State.issue_keeps
    | split)

theorem State.issueC_keeps {z₀ s : State} (n : ℕ) (cop : ℕ) (opnds : BitVec 56) (hz : Keeps z₀ s) :
    Keeps z₀ (State.issueC s n cop opnds) := by
  unfold State.issueC
  repeat' (first
    | with_reducible assumption
    | with_reducible apply State.issue_keeps
    | split)

theorem State.endTask_keeps {z₀ s : State} (n : ℕ) (hz : Keeps z₀ s) :
    Keeps z₀ (State.endTask s n) := by
  unfold State.endTask
  repeat' (first
    | with_reducible assumption
    | with_reducible apply State.setCore_keeps
    | with_reducible apply State.pulse_keeps)

theorem State.issueDone_keeps {z₀ s : State} (n : ℕ) (nb : Bool) (legal : Bool) (hz : Keeps z₀ s) :
    Keeps z₀ (State.issueDone s n nb legal) := by
  unfold State.issueDone
  repeat' (first
    | with_reducible assumption
    | with_reducible apply State.fault_keeps
    | with_reducible apply State.ready_keeps
    | with_reducible apply State.openBundle_keeps
    | with_reducible apply State.endTask_keeps
    | with_reducible apply State.commit_keeps
    | split
    | intro _ _ _
    | intro _ _
    | intro _
    | with_reducible refine Keeps.of2 (by with_reducible assumption) ?_
    | with_reducible refine Keeps.of1 (by with_reducible assumption) ?_
    | with_reducible refine Keeps.of3 (by with_reducible assumption) ?_
    | with_reducible refine Keeps.of4 (by with_reducible assumption) ?_
    | with_reducible apply Keeps.upto
    | with_reducible apply Keeps.foldl
    | with_reducible apply Keeps.foldl_snd_snd
    | with_reducible apply Keeps.foldl_snd
    | with_reducible apply Keeps.foldl_trd
    | with_reducible apply Keeps.foldl_fst_fst
    | with_reducible apply Keeps.foldl_fst
    | with_reducible apply Keeps.foldl_mid
    | dsimp only)

end Sys2Proof.Machine
end

