-- ==== Sys2Proof/Laws/Packets.lean ====
section
/-! SUPPORT. What a packet does that is taken and passes its checks: the one lemma that the rows of packets cite. -/

namespace Sys2Proof.Machine

namespace State

@[simp] theorem calm_calm (s : State) : s.calm.calm = s.calm := rfl

/-- What runs with no data of the host starts and ends calm. -/
theorem withHost_noHost (s : State) (f : State → State) : s.withHost noHost f = (f s.calm).calm := rfl

/-- `chk` whose condition holds goes on. -/
@[simp] theorem chk_true (s : State) (t : Ticket) (st : Nat) (f : State → State) : s.chk t true st f = f s := by unfold chk; exact if_pos rfl

/-- `chk` whose condition fails answers. -/
@[simp] theorem chk_false (s : State) (t : Ticket) (st : Nat) (f : State → State) : s.chk t false st f = s.answer t st [] := by unfold chk; exact if_neg Bool.false_ne_true

/-- Taking a packet, the host's data apart. -/
theorem takePacket_eq (s : State) (op : Nat) (p : Packet) (host : HostData) : s.takePacket op p host =
    (match p.ring with
      | some n => (s.hosting host).takeRing n op p.hdr p.words
      | none => (s.hosting host).takeUart op p.hdr (packetWords p.hdr.plen.toNat p.words)).calm := rfl

theorem calm_eq_hosting (s : State) : s.calm = s.hosting noHost := rfl

/-- A taken packet is served. -/
theorem takePacket_of_takes {s u : State} {op : Nat} {p : Packet} {c : Cmd} {host : HostData}
    (h : (s.hosting host).Takes op p u c) : s.takePacket op p host = (u.serve c).calm := by
  rw [takePacket_eq]
  generalize s.hosting host = v at h ⊢
  obtain ⟨hc, h⟩ := h
  rcases p with ⟨_ | n, hdr, ws⟩
  · obtain ⟨h1, h2, h3⟩ := h
    subst hc h3
    simp only [takeUart, h1, h2, Bool.not_true, Bool.false_eq_true, if_false, Option.map_none]
  · obtain ⟨h1, h2, h3, h4, h5, h6, h7⟩ := h
    subst hc h7
    simp only [takeRing, h1, h2, h3, h4, h5, Bool.not_true, Bool.or_self, Bool.false_eq_true, or_self, if_false, Nat.not_lt.mpr h6,
      Option.map_some]

/-- A served packet that is no slot message reaches the handler of its opcode. -/
theorem serve_of_serves {s u : State} {op : Nat} {p : Packet} {c : Cmd} (h : s.Serves op p u c) (hm : isSlotMsg op = false) :
    u.serve c = u.dispatch c := by
  obtain ⟨⟨hc, -⟩, hg, hh⟩ := h
  have ho : c.op = op := by rw [hc]
  rw [← ho] at hm hh
  simp only [hm, Bool.false_eq_true, false_or] at hh
  unfold gates at hg
  unfold serve
  generalize opRow c.op = o at hg ⊢
  cases o with
  | none => simp at hg
  | some r =>
    simp only [List.all_cons, List.all_nil, Bool.and_true, Bool.and_eq_true] at hg
    obtain ⟨g1, g2, g3, g4, g5, g6⟩ := hg
    simp only [g1, g2, g3, g4, g5, g6, hh, hm, chk_true, Bool.false_eq_true, if_false]

/-- A row that is a packet of opcode `op`: when it is served, its handler runs. -/
theorem serving_next {s u : State} {op : Nat} {p : Packet} {c : Cmd} (h : s.calm.Serves op p u c)
    (hm : isSlotMsg op = false) : s.takePacket op p noHost = (u.dispatch c).calm := by
  rw [← serve_of_serves h hm]
  exact takePacket_of_takes (calm_eq_hosting s ▸ h.takes)

/-- The opcode of a served command. -/
theorem Serves.op_eq {s u : State} {op : Nat} {p : Packet} {c : Cmd} (h : s.Serves op p u c) : c.op = op := by
  obtain ⟨⟨hc, -⟩, -, -⟩ := h
  rw [hc]

/-- A row that is a packet of opcode `op`: what its handler leaves, it leaves. -/
theorem serving_of {s : State} {i : Instr} {op : Nat} {p : Packet} {ok : State → Cmd → Prop} {f : State → Cmd → State}
    (hi : exec i s = .next (s.takePacket op p noHost)) (hm : isSlotMsg op = false)
    (h : ∀ u c, s.calm.Serves op p u c → c.op = op → ok u c → u.dispatch c = f u c) : s.Serving i op p ok f := by
  intro u c hs ho
  rw [hi, serving_next hs hm, h u c hs hs.op_eq ho]

/-- The first check that fails answers the command (R317). -/
theorem serve_fail {u : State} {c : Cmd} {g : Bool × Nat} (h : (u.gates c).find? (fun g => !g.1) = some g) :
    u.serve c = u.answer c.ticket g.2 [] := by
  unfold gates at h
  unfold serve
  generalize opRow c.op = o at h ⊢
  cases o with
  | none => simp at h; subst h; rfl
  | some r =>
    simp only [List.find?_cons, List.find?_nil] at h
    cases h1 : decide (c.hdr.version = 1) <;> simp only [h1, Bool.not_true, Bool.not_false, chk_true, chk_false] at h ⊢
    · cases h; rfl
    cases h2 : c.lenOk r <;> simp only [h2, Bool.not_true, Bool.not_false, chk_true, chk_false] at h ⊢
    · cases h; rfl
    cases h3 : u.modeOk c r <;> simp only [h3, Bool.not_true, Bool.not_false, chk_true, chk_false] at h ⊢
    · cases h; rfl
    cases h4 : (!r.t || u.extSet) <;> simp only [h4, Bool.not_true, Bool.not_false, chk_true, chk_false] at h ⊢
    · cases h; rfl
    cases h5 : (u.tgtOff c) <;> simp only [h5, Bool.not_true, Bool.not_false, chk_true, chk_false] at h ⊢
    swap
    · cases h; rfl
    cases h6 : (u.tgtDead c) <;> simp only [h6, Bool.not_true, Bool.not_false, chk_true, chk_false] at h ⊢
    · cases h
    · cases h; rfl

/-- A command that passes the checks 1 to 6, and is no slot message, is answered by its header or dispatched. -/
theorem serve_hdr {u : State} {c : Cmd} (h : (u.gates c).all (fun g => g.1) = true) (hm : isSlotMsg c.op = false) :
    u.serve c = u.chk c.ticket c.hdrOk sBadParam fun s => s.dispatch c := by
  unfold gates at h
  unfold serve
  generalize opRow c.op = o at h ⊢
  cases o with
  | none => simp at h
  | some r =>
    simp only [List.all_cons, List.all_nil, Bool.and_true, Bool.and_eq_true] at h
    obtain ⟨g1, g2, g3, g4, g5, g6⟩ := h
    simp only [g1, g2, g3, g4, g5, g6, hm, chk_true, Bool.false_eq_true, if_false]

/-- A slot message that is served leaves what its own function leaves. -/
theorem serving_of_slot {s : State} {i : Instr} {op : Nat} {p : Packet} {ok : State → Cmd → Prop} {f : State → Cmd → State}
   (hi : exec i s = .next (s.takePacket op p noHost)) (hm : isSlotMsg op = true)
   (h : ∀ u c, c.op = op → ok u c → u.hSlot c = f u c) : s.Serving i op p ok f := by
  intro u c hs ho
  rw [hi, State.takePacket_of_takes (State.calm_eq_hosting s ▸ hs.takes), ← h u c hs.op_eq ho]
  have hg := hs.gates
  have hop := hs.op_eq
  unfold State.gates at hg
  unfold State.serve
  generalize opRow c.op = o at hg ⊢
  cases o with
  | none => simp at hg
  | some r =>
    simp only [List.all_cons, List.all_nil, Bool.and_true, Bool.and_eq_true] at hg
    obtain ⟨g1, g2, g3, g4, g5, g6⟩ := hg
    rw [← hop] at hm
    simp only [g1, g2, g3, g4, g5, g6, hm, State.chk_true, if_true]

end State

end Sys2Proof.Machine
end

