-- ==== Sys2Proof/Laws/PerInstr.lean ====
section
/-! SUPPORT. The well-formedness of each command, one lemma for each constructor. -/

/-- A command names a crossing or a Porter channel, never both, and one that names neither is well-formed. -/
def Sys2Proof.Laws.Operands.Statement (c : Sys2Proof.Instr) : Prop :=
  (Sys2Proof.crossingOf c = none ∨ Sys2Proof.channelOf c = none) ∧
  (Sys2Proof.crossingOf c = none → Sys2Proof.channelOf c = none → Sys2Proof.WellFormed c = true)

namespace Sys2Proof.Laws.Operands

theorem pulseDeliver (i x) : Statement (.pulseDeliver i x) := ⟨.inr rfl, fun h _ => nomatch h⟩
theorem pulseAck (i x) : Statement (.pulseAck i x) := ⟨.inr rfl, fun h _ => nomatch h⟩
theorem valueDeliver (i x) : Statement (.valueDeliver i x) := ⟨.inr rfl, fun h _ => nomatch h⟩
theorem valueAck (i x) : Statement (.valueAck i x) := ⟨.inr rfl, fun h _ => nomatch h⟩
theorem grayCounterUpdate (i x) : Statement (.grayCounterUpdate i x) := ⟨.inr rfl, fun h _ => nomatch h⟩
theorem heartbeatToggle (i x) : Statement (.heartbeatToggle i x) := ⟨.inr rfl, fun h _ => nomatch h⟩
theorem snapshotResult (i x) : Statement (.snapshotResult i x) := ⟨.inr rfl, fun h _ => nomatch h⟩
theorem crossingTimeout (i x) : Statement (.crossingTimeout i x) := ⟨.inr rfl, fun h _ => nomatch h⟩
theorem replicaReload (r) : Statement (.replicaReload r) := ⟨.inl rfl, fun _ _ => rfl⟩
theorem bridgeDrainComplete (i) : Statement (.bridgeDrainComplete i) := ⟨.inl rfl, fun _ _ => rfl⟩
theorem bridgeResetRelease (i) : Statement (.bridgeResetRelease i) := ⟨.inl rfl, fun _ _ => rfl⟩
theorem islandReady (i) : Statement (.islandReady i) := ⟨.inl rfl, fun _ _ => rfl⟩
theorem tpRouteFlit (q a o) : Statement (.tpRouteFlit q a o) := ⟨.inl rfl, fun _ _ => rfl⟩
theorem tpAgePromote (q p lvl) : Statement (.tpAgePromote q p lvl) := ⟨.inl rfl, fun _ _ => rfl⟩
theorem tpRead (src tag line ups) : Statement (.tpRead src tag line ups) := ⟨.inl rfl, fun _ _ => rfl⟩
theorem tpWrite (src tag line data) : Statement (.tpWrite src tag line data) := ⟨.inl rfl, fun _ _ => rfl⟩
theorem tpWritePart (src tag line half data) : Statement (.tpWritePart src tag line half data) := ⟨.inl rfl, fun _ _ => rfl⟩
theorem tpBurst (src tag line flits) : Statement (.tpBurst src tag line flits) := ⟨.inl rfl, fun _ _ => rfl⟩
theorem registerWrite (src tag line en data) : Statement (.registerWrite src tag line en data) := ⟨.inl rfl, fun _ _ => rfl⟩
theorem isolatedRequest (src tag line write) : Statement (.isolatedRequest src tag line write) := ⟨.inl rfl, fun _ _ => rfl⟩
theorem deadTimerExpire (i) : Statement (.deadTimerExpire i) := ⟨.inl rfl, fun _ _ => rfl⟩
theorem deadTargetAbsorb (src tag line write) : Statement (.deadTargetAbsorb src tag line write) := ⟨.inl rfl, fun _ _ => rfl⟩
theorem vnop (n nb vd va vb md) : Statement (.vnop n nb vd va vb md) := ⟨.inl rfl, fun _ _ => rfl⟩
theorem vadd (n nb vd va vb md) : Statement (.vadd n nb vd va vb md) := ⟨.inl rfl, fun _ _ => rfl⟩
theorem vsub (n nb vd va vb md) : Statement (.vsub n nb vd va vb md) := ⟨.inl rfl, fun _ _ => rfl⟩
theorem vadds (n nb vd va vb md) : Statement (.vadds n nb vd va vb md) := ⟨.inl rfl, fun _ _ => rfl⟩
theorem vsubs (n nb vd va vb md) : Statement (.vsubs n nb vd va vb md) := ⟨.inl rfl, fun _ _ => rfl⟩
theorem vand (n nb vd va vb md) : Statement (.vand n nb vd va vb md) := ⟨.inl rfl, fun _ _ => rfl⟩
theorem vor (n nb vd va vb md) : Statement (.vor n nb vd va vb md) := ⟨.inl rfl, fun _ _ => rfl⟩
theorem vxor (n nb vd va vb md) : Statement (.vxor n nb vd va vb md) := ⟨.inl rfl, fun _ _ => rfl⟩
theorem vshl (n nb vd va vb md) : Statement (.vshl n nb vd va vb md) := ⟨.inl rfl, fun _ _ => rfl⟩
theorem vshra (n nb vd va vb md) : Statement (.vshra n nb vd va vb md) := ⟨.inl rfl, fun _ _ => rfl⟩
theorem vmov (n nb vd va vb md) : Statement (.vmov n nb vd va vb md) := ⟨.inl rfl, fun _ _ => rfl⟩
theorem vmul (n nb vd va vb md) : Statement (.vmul n nb vd va vb md) := ⟨.inl rfl, fun _ _ => rfl⟩
theorem vmac (n nb vd va vb md) : Statement (.vmac n nb vd va vb md) := ⟨.inl rfl, fun _ _ => rfl⟩
theorem vmsu (n nb vd va vb md) : Statement (.vmsu n nb vd va vb md) := ⟨.inl rfl, fun _ _ => rfl⟩
theorem vmacb (n nb vd va vb md) : Statement (.vmacb n nb vd va vb md) := ⟨.inl rfl, fun _ _ => rfl⟩
theorem vcmul (n nb vd va vb md) : Statement (.vcmul n nb vd va vb md) := ⟨.inl rfl, fun _ _ => rfl⟩
theorem vcmac (n nb vd va vb md) : Statement (.vcmac n nb vd va vb md) := ⟨.inl rfl, fun _ _ => rfl⟩
theorem vclra (n nb vd va vb md) : Statement (.vclra n nb vd va vb md) := ⟨.inl rfl, fun _ _ => rfl⟩
theorem vext (n nb vd va vb md) : Statement (.vext n nb vd va vb md) := ⟨.inl rfl, fun _ _ => rfl⟩
theorem vexts (n nb vd va vb md) : Statement (.vexts n nb vd va vb md) := ⟨.inl rfl, fun _ _ => rfl⟩
theorem vmaxi (n nb vd va vb md) : Statement (.vmaxi n nb vd va vb md) := ⟨.inl rfl, fun _ _ => rfl⟩
theorem vmini (n nb vd va vb md) : Statement (.vmini n nb vd va vb md) := ⟨.inl rfl, fun _ _ => rfl⟩
theorem mnop (n nb mr ma mo pm low) : Statement (.mnop n nb mr ma mo pm low) := ⟨.inl rfl, fun _ _ => rfl⟩
theorem vld (n nb mr ma mo pm low) : Statement (.vld n nb mr ma mo pm low) := ⟨.inl rfl, fun _ _ => rfl⟩
theorem vst (n nb mr ma mo pm low) : Statement (.vst n nb mr ma mo pm low) := ⟨.inl rfl, fun _ _ => rfl⟩
theorem vldb (n nb mr ma mo pm low) : Statement (.vldb n nb mr ma mo pm low) := ⟨.inl rfl, fun _ _ => rfl⟩
theorem ldh (n nb mr ma mo pm low) : Statement (.ldh n nb mr ma mo pm low) := ⟨.inl rfl, fun _ _ => rfl⟩
theorem ldw (n nb mr ma mo pm low) : Statement (.ldw n nb mr ma mo pm low) := ⟨.inl rfl, fun _ _ => rfl⟩
theorem sth (n nb mr ma mo pm low) : Statement (.sth n nb mr ma mo pm low) := ⟨.inl rfl, fun _ _ => rfl⟩
theorem stw (n nb mr ma mo pm low) : Statement (.stw n nb mr ma mo pm low) := ⟨.inl rfl, fun _ _ => rfl⟩
theorem stb (n nb mr ma mo pm low) : Statement (.stb n nb mr ma mo pm low) := ⟨.inl rfl, fun _ _ => rfl⟩
theorem fence (n nb mr ma mo pm low) : Statement (.fence n nb mr ma mo pm low) := ⟨.inl rfl, fun _ _ => rfl⟩
theorem cmovTo (n nb f) : Statement (.cmovTo n nb f) := ⟨.inl rfl, fun _ _ => rfl⟩
theorem cmovFrom (n nb f) : Statement (.cmovFrom n nb f) := ⟨.inl rfl, fun _ _ => rfl⟩
theorem cissue (n nb f) : Statement (.cissue n nb f) := ⟨.inl rfl, fun _ _ => rfl⟩
theorem cwait (n nb f) : Statement (.cwait n nb f) := ⟨.inl rfl, fun _ _ => rfl⟩
theorem snop (n nb sd sa sb) : Statement (.snop n nb sd sa sb) := ⟨.inl rfl, fun _ _ => rfl⟩
theorem add (n nb sd sa sb) : Statement (.add n nb sd sa sb) := ⟨.inl rfl, fun _ _ => rfl⟩
theorem sub (n nb sd sa sb) : Statement (.sub n nb sd sa sb) := ⟨.inl rfl, fun _ _ => rfl⟩
theorem and (n nb sd sa sb) : Statement (.and n nb sd sa sb) := ⟨.inl rfl, fun _ _ => rfl⟩
theorem or (n nb sd sa sb) : Statement (.or n nb sd sa sb) := ⟨.inl rfl, fun _ _ => rfl⟩
theorem xor (n nb sd sa sb) : Statement (.xor n nb sd sa sb) := ⟨.inl rfl, fun _ _ => rfl⟩
theorem shl (n nb sd sa sb) : Statement (.shl n nb sd sa sb) := ⟨.inl rfl, fun _ _ => rfl⟩
theorem shra (n nb sd sa sb) : Statement (.shra n nb sd sa sb) := ⟨.inl rfl, fun _ _ => rfl⟩
theorem addi (n nb sd sa sb) : Statement (.addi n nb sd sa sb) := ⟨.inl rfl, fun _ _ => rfl⟩
theorem mova (n nb sd sa sb) : Statement (.mova n nb sd sa sb) := ⟨.inl rfl, fun _ _ => rfl⟩
theorem movo (n nb sd sa sb) : Statement (.movo n nb sd sa sb) := ⟨.inl rfl, fun _ _ => rfl⟩
theorem movl (n nb sd sa sb) : Statement (.movl n nb sd sa sb) := ⟨.inl rfl, fun _ _ => rfl⟩
theorem movb (n nb sd sa sb) : Statement (.movb n nb sd sa sb) := ⟨.inl rfl, fun _ _ => rfl⟩
theorem mfa (n nb sd sa sb) : Statement (.mfa n nb sd sa sb) := ⟨.inl rfl, fun _ _ => rfl⟩
theorem mfc (n nb sd sa sb) : Statement (.mfc n nb sd sa sb) := ⟨.inl rfl, fun _ _ => rfl⟩
theorem mtc (n nb sd sa sb) : Statement (.mtc n nb sd sa sb) := ⟨.inl rfl, fun _ _ => rfl⟩
theorem beqz (n nb sd disp) : Statement (.beqz n nb sd disp) := ⟨.inl rfl, fun _ _ => rfl⟩
theorem bnez (n nb sd disp) : Statement (.bnez n nb sd disp) := ⟨.inl rfl, fun _ _ => rfl⟩
theorem bltz (n nb sd disp) : Statement (.bltz n nb sd disp) := ⟨.inl rfl, fun _ _ => rfl⟩
theorem bgez (n nb sd disp) : Statement (.bgez n nb sd disp) := ⟨.inl rfl, fun _ _ => rfl⟩
theorem done (n nb sd sa sb) : Statement (.done n nb sd sa sb) := ⟨.inl rfl, fun _ _ => rfl⟩
theorem rete (n nb sd sa sb) : Statement (.rete n nb sd sa sb) := ⟨.inl rfl, fun _ _ => rfl⟩
theorem trap (n nb sd sa sb) : Statement (.trap n nb sd sa sb) := ⟨.inl rfl, fun _ _ => rfl⟩
theorem movi (n nb d imm) : Statement (.movi n nb d imm) := ⟨.inl rfl, fun _ _ => rfl⟩
theorem moviO (n nb d imm) : Statement (.moviO n nb d imm) := ⟨.inl rfl, fun _ _ => rfl⟩
theorem moviAl (n nb d imm) : Statement (.moviAl n nb d imm) := ⟨.inl rfl, fun _ _ => rfl⟩
theorem moviAh (n nb d imm) : Statement (.moviAh n nb d imm) := ⟨.inl rfl, fun _ _ => rfl⟩
theorem rep (n opnds) : Statement (.rep n opnds) := ⟨.inl rfl, fun _ _ => rfl⟩
theorem reps (n opnds) : Statement (.reps n opnds) := ⟨.inl rfl, fun _ _ => rfl⟩
theorem jmp (n opnds) : Statement (.jmp n opnds) := ⟨.inl rfl, fun _ _ => rfl⟩
theorem call (n opnds) : Statement (.call n opnds) := ⟨.inl rfl, fun _ _ => rfl⟩
theorem ret (n opnds) : Statement (.ret n opnds) := ⟨.inl rfl, fun _ _ => rfl⟩
theorem repIteration (n) : Statement (.repIteration n) := ⟨.inl rfl, fun _ _ => rfl⟩
theorem bundleCommit (n) : Statement (.bundleCommit n) := ⟨.inl rfl, fun _ _ => rfl⟩
theorem remoteLoadResponse (n i) : Statement (.remoteLoadResponse n i) := ⟨.inl rfl, fun _ _ => rfl⟩
theorem exceptionTaken (n) : Statement (.exceptionTaken n) := ⟨.inl rfl, fun _ _ => rfl⟩
theorem accessErrorException (n) : Statement (.accessErrorException n) := ⟨.inl rfl, fun _ _ => rfl⟩
theorem coprocCommandStart (k u) : Statement (.coprocCommandStart k u) := ⟨.inl rfl, fun _ _ => rfl⟩
theorem fft (k) : Statement (.fft k) := ⟨.inl rfl, fun _ _ => rfl⟩
theorem ifft (k) : Statement (.ifft k) := ⟨.inl rfl, fun _ _ => rfl⟩
theorem dft (k) : Statement (.dft k) := ⟨.inl rfl, fun _ _ => rfl⟩
theorem idft (k) : Statement (.idft k) := ⟨.inl rfl, fun _ _ => rfl⟩
theorem cmul (k) : Statement (.cmul k) := ⟨.inl rfl, fun _ _ => rfl⟩
theorem chol (k) : Statement (.chol k) := ⟨.inl rfl, fun _ _ => rfl⟩
theorem cinv (k) : Statement (.cinv k) := ⟨.inl rfl, fun _ _ => rfl⟩
theorem coprocCommandComplete (k u) : Statement (.coprocCommandComplete k u) := ⟨.inl rfl, fun _ _ => rfl⟩
theorem commandIntakeWrite (k u src core depth w0 w1 w2 w3) : Statement (.commandIntakeWrite k u src core depth w0 w1 w2 w3) := ⟨.inl rfl, fun _ _ => rfl⟩
theorem completionIntakeWrite (k src u core depth tag target detail addr) : Statement (.completionIntakeWrite k src u core depth tag target detail addr) := ⟨.inl rfl, fun _ _ => rfl⟩
theorem remoteTagTimeout (n u depth tag) : Statement (.remoteTagTimeout n u depth tag) := ⟨.inl rfl, fun _ _ => rfl⟩
theorem contextWindowAccess (src tag k u i r write) : Statement (.contextWindowAccess src tag k u i r write) := ⟨.inl rfl, fun _ _ => rfl⟩
theorem coprocDeferredException (n) : Statement (.coprocDeferredException n) := ⟨.inl rfl, fun _ _ => rfl⟩
theorem triggerPulse (k u slot count) : Statement (.triggerPulse k u slot count) := ⟨.inl rfl, fun _ _ => rfl⟩
theorem triggerPendEnter (k u slot) : Statement (.triggerPendEnter k u slot) := ⟨.inl rfl, fun _ _ => rfl⟩
theorem cxBindApply (k u i) : Statement (.cxBindApply k u i) := ⟨.inl rfl, fun _ _ => rfl⟩
theorem inkSubmit (r src whole data) : Statement (.inkSubmit r src whole data) := ⟨.inl rfl, fun _ _ => rfl⟩
theorem creditGrant (r) : Statement (.creditGrant r) := ⟨.inl rfl, fun _ _ => rfl⟩
theorem inkDecrDecrement (r src c a) : Statement (.inkDecrDecrement r src c a) := ⟨.inl rfl, fun _ _ => rfl⟩
theorem inkDecrClearEarly (r src c) : Statement (.inkDecrClearEarly r src c) := ⟨.inl rfl, fun _ _ => rfl⟩
theorem inkDecrAbandon (r src c) : Statement (.inkDecrAbandon r src c) := ⟨.inl rfl, fun _ _ => rfl⟩
theorem inkDecrReservedOp (r src w) : Statement (.inkDecrReservedOp r src w) := ⟨.inl rfl, fun _ _ => rfl⟩
theorem inkDecrHeld (r) : Statement (.inkDecrHeld r) := ⟨.inl rfl, fun _ _ => rfl⟩
theorem decrementApply (r) : Statement (.decrementApply r) := ⟨.inl rfl, fun _ _ => rfl⟩
theorem joinTakeReservoir (r) : Statement (.joinTakeReservoir r) := ⟨.inl rfl, fun _ _ => rfl⟩
theorem taskDispatch (r c) : Statement (.taskDispatch r c) := ⟨.inl rfl, fun _ _ => rfl⟩
theorem dispatchTake (n) : Statement (.dispatchTake n) := ⟨.inl rfl, fun _ _ => rfl⟩
theorem preemption (r) : Statement (.preemption r) := ⟨.inl rfl, fun _ _ => rfl⟩
theorem preemptSaveDone (n) : Statement (.preemptSaveDone n) := ⟨.inl rfl, fun _ _ => rfl⟩
theorem taskRestore (n) : Statement (.taskRestore n) := ⟨.inl rfl, fun _ _ => rfl⟩
theorem taskComplete (r u svc) : Statement (.taskComplete r u svc) := ⟨.inl rfl, fun _ _ => rfl⟩
theorem completionSlotTake (r) : Statement (.completionSlotTake r) := ⟨.inl rfl, fun _ _ => rfl⟩
theorem completionSlotDrain (r) : Statement (.completionSlotDrain r) := ⟨.inl rfl, fun _ _ => rfl⟩
theorem deadlineScan (r) : Statement (.deadlineScan r) := ⟨.inl rfl, fun _ _ => rfl⟩
theorem laggardThreshold (r u svc) : Statement (.laggardThreshold r u svc) := ⟨.inl rfl, fun _ _ => rfl⟩
theorem laggardIdleReturn (r u) : Statement (.laggardIdleReturn r u) := ⟨.inl rfl, fun _ _ => rfl⟩
theorem inkUnitLagClear (r u src) : Statement (.inkUnitLagClear r u src) := ⟨.inl rfl, fun _ _ => rfl⟩
theorem inkFlowWrite (r f src en w) : Statement (.inkFlowWrite r f src en w) := ⟨.inl rfl, fun _ _ => rfl⟩
theorem raIntakeWrite (r e src entry) : Statement (.raIntakeWrite r e src entry) := ⟨.inl rfl, fun _ _ => rfl⟩
theorem jobStart (r e) : Statement (.jobStart r e) := ⟨.inl rfl, fun _ _ => rfl⟩
theorem ldpcDecode (r e ecc dur) : Statement (.ldpcDecode r e ecc dur) := ⟨.inl rfl, fun _ _ => rfl⟩
theorem tbCrcCombine (r e ecc dur) : Statement (.tbCrcCombine r e ecc dur) := ⟨.inl rfl, fun _ _ => rfl⟩
theorem ldpcEncode (r e ecc dur) : Statement (.ldpcEncode r e ecc dur) := ⟨.inl rfl, fun _ _ => rfl⟩
theorem polarDecode (r e ecc dur) : Statement (.polarDecode r e ecc dur) := ⟨.inl rfl, fun _ _ => rfl⟩
theorem polarEncode (r e ecc dur) : Statement (.polarEncode r e ecc dur) := ⟨.inl rfl, fun _ _ => rfl⟩
theorem shortBlockDecode (r e ecc dur) : Statement (.shortBlockDecode r e ecc dur) := ⟨.inl rfl, fun _ _ => rfl⟩
theorem turboDecode (r e ecc dur) : Statement (.turboDecode r e ecc dur) := ⟨.inl rfl, fun _ _ => rfl⟩
theorem turboEncode (r e ecc dur) : Statement (.turboEncode r e ecc dur) := ⟨.inl rfl, fun _ _ => rfl⟩
theorem convDecode (r e ecc dur) : Statement (.convDecode r e ecc dur) := ⟨.inl rfl, fun _ _ => rfl⟩
theorem convEncode (r e ecc dur) : Statement (.convEncode r e ecc dur) := ⟨.inl rfl, fun _ _ => rfl⟩
theorem softDemap (r e ecc dur) : Statement (.softDemap r e ecc dur) := ⟨.inl rfl, fun _ _ => rfl⟩
theorem mimoDetect (r e ecc dur) : Statement (.mimoDetect r e ecc dur) := ⟨.inl rfl, fun _ _ => rfl⟩
theorem mimoFactor (r e ecc dur) : Statement (.mimoFactor r e ecc dur) := ⟨.inl rfl, fun _ _ => rfl⟩
theorem harqGuardAcquire (r e) : Statement (.harqGuardAcquire r e) := ⟨.inl rfl, fun _ _ => rfl⟩
theorem jobComplete (r e) : Statement (.jobComplete r e) := ⟨.inl rfl, fun _ _ => rfl⟩
theorem jobTimeout (r e overdue) : Statement (.jobTimeout r e overdue) := ⟨.inl rfl, fun _ _ => rfl⟩
theorem engineStop (r e) : Statement (.engineStop r e) := ⟨.inl rfl, fun _ _ => rfl⟩
theorem controlStoreError (r e) : Statement (.controlStoreError r e) := ⟨.inl rfl, fun _ _ => rfl⟩
theorem packetTake (op p host) : Statement (.packetTake op p host) := ⟨.inl rfl, fun _ _ => rfl⟩
theorem tailWaitTimeout (n) : Statement (.tailWaitTimeout n) := ⟨.inl rfl, fun _ _ => rfl⟩
theorem sqDoorbell (n v) : Statement (.sqDoorbell n v) := ⟨.inl rfl, fun _ _ => rfl⟩
theorem cqDoorbell (n v) : Statement (.cqDoorbell n v) := ⟨.inl rfl, fun _ _ => rfl⟩
theorem ringEnable (n v) : Statement (.ringEnable n v) := ⟨.inl rfl, fun _ _ => rfl⟩
theorem ringDisable (n v) : Statement (.ringDisable n v) := ⟨.inl rfl, fun _ _ => rfl⟩
theorem replyWrite (n) : Statement (.replyWrite n) := ⟨.inl rfl, fun _ _ => rfl⟩
theorem imodIntervalEnd (n) : Statement (.imodIntervalEnd n) := ⟨.inl rfl, fun _ _ => rfl⟩
theorem uartFrame (bytes host) : Statement (.uartFrame bytes host) := ⟨.inl rfl, fun _ _ => rfl⟩
theorem uartBreak : Statement (.uartBreak) := ⟨.inl rfl, fun _ _ => rfl⟩
theorem devInfo (p) : Statement (.devInfo p) := ⟨.inl rfl, fun _ _ => rfl⟩
theorem modeSet (p) : Statement (.modeSet p) := ⟨.inl rfl, fun _ _ => rfl⟩
theorem devResetCmd (p) : Statement (.devResetCmd p) := ⟨.inl rfl, fun _ _ => rfl⟩
theorem devResetReg (p) : Statement (.devResetReg p) := ⟨.inl rfl, fun _ _ => rfl⟩
theorem devResetClu (p) : Statement (.devResetClu p) := ⟨.inl rfl, fun _ _ => rfl⟩
theorem statusGet (p) : Statement (.statusGet p) := ⟨.inl rfl, fun _ _ => rfl⟩
theorem echo (p) : Statement (.echo p) := ⟨.inl rfl, fun _ _ => rfl⟩
theorem settingGet (p) : Statement (.settingGet p) := ⟨.inl rfl, fun _ _ => rfl⟩
theorem settingSet (p) : Statement (.settingSet p) := ⟨.inl rfl, fun _ _ => rfl⟩
theorem settingList (p) : Statement (.settingList p) := ⟨.inl rfl, fun _ _ => rfl⟩
theorem cellSetup (p) : Statement (.cellSetup p) := ⟨.inl rfl, fun _ _ => rfl⟩
theorem cellStart (p) : Statement (.cellStart p) := ⟨.inl rfl, fun _ _ => rfl⟩
theorem cellStop (p) : Statement (.cellStop p) := ⟨.inl rfl, fun _ _ => rfl⟩
theorem cellStopEffect (c) : Statement (.cellStopEffect c) := ⟨.inl rfl, fun _ _ => rfl⟩
theorem cellQuery (p) : Statement (.cellQuery p) := ⟨.inl rfl, fun _ _ => rfl⟩
theorem dlConfig (p) : Statement (.dlConfig p) := ⟨.inl rfl, fun _ _ => rfl⟩
theorem dlData (p) : Statement (.dlData p) := ⟨.inl rfl, fun _ _ => rfl⟩
theorem dlDataFetchDone (c sfn slot fetched) : Statement (.dlDataFetchDone c sfn slot fetched) := ⟨.inl rfl, fun _ _ => rfl⟩
theorem ulConfig (p) : Statement (.ulConfig p) := ⟨.inl rfl, fun _ _ => rfl⟩
theorem fhPortCfg (p) : Statement (.fhPortCfg p) := ⟨.inl rfl, fun _ _ => rfl⟩
theorem delayMeas (p) : Statement (.delayMeas p) := ⟨.inl rfl, fun _ _ => rfl⟩
theorem delayMeasSend (c) : Statement (.delayMeasSend c) := ⟨.inl rfl, fun _ _ => rfl⟩
theorem delayResponseTimeout (c id) : Statement (.delayResponseTimeout c id) := ⟨.inl rfl, fun _ _ => rfl⟩
theorem cpLinkDown (p) : Statement (.cpLinkDown p) := ⟨.inl rfl, fun _ _ => rfl⟩
theorem cpLinkTrain (p) : Statement (.cpLinkTrain p) := ⟨.inl rfl, fun _ _ => rfl⟩
theorem cpLinkPowerSave (p) : Statement (.cpLinkPowerSave p) := ⟨.inl rfl, fun _ _ => rfl⟩
theorem cpLinkStatus (p) : Statement (.cpLinkStatus p) := ⟨.inl rfl, fun _ _ => rfl⟩
theorem aoSetDirect (p) : Statement (.aoSetDirect p) := ⟨.inl rfl, fun _ _ => rfl⟩
theorem aoSetSlewed (p) : Statement (.aoSetSlewed p) := ⟨.inl rfl, fun _ _ => rfl⟩
theorem aoStep (p) : Statement (.aoStep p) := ⟨.inl rfl, fun _ _ => rfl⟩
theorem timeGet (p) : Statement (.timeGet p) := ⟨.inl rfl, fun _ _ => rfl⟩
theorem timeStepRelative (p) : Statement (.timeStepRelative p) := ⟨.inl rfl, fun _ _ => rfl⟩
theorem timeStepAbsolute (p) : Statement (.timeStepAbsolute p) := ⟨.inl rfl, fun _ _ => rfl⟩
theorem utcOffset (p) : Statement (.utcOffset p) := ⟨.inl rfl, fun _ _ => rfl⟩
theorem ptpCfg (p) : Statement (.ptpCfg p) := ⟨.inl rfl, fun _ _ => rfl⟩
theorem syncSrc (p) : Statement (.syncSrc p) := ⟨.inl rfl, fun _ _ => rfl⟩
theorem scrub (p) : Statement (.scrub p) := ⟨.inl rfl, fun _ _ => rfl⟩
theorem eccGet (p) : Statement (.eccGet p) := ⟨.inl rfl, fun _ _ => rfl⟩
theorem eccClear (p) : Statement (.eccClear p) := ⟨.inl rfl, fun _ _ => rfl⟩
theorem retireGet (p) : Statement (.retireGet p) := ⟨.inl rfl, fun _ _ => rfl⟩
theorem memRead (p host) : Statement (.memRead p host) := ⟨.inl rfl, fun _ _ => rfl⟩
theorem memWrite (p) : Statement (.memWrite p) := ⟨.inl rfl, fun _ _ => rfl⟩
theorem gbFlush (p) : Statement (.gbFlush p) := ⟨.inl rfl, fun _ _ => rfl⟩
theorem gbRead (p) : Statement (.gbRead p) := ⟨.inl rfl, fun _ _ => rfl⟩
theorem evtRoute (p) : Statement (.evtRoute p) := ⟨.inl rfl, fun _ _ => rfl⟩
theorem plSet (p) : Statement (.plSet p) := ⟨.inl rfl, fun _ _ => rfl⟩
theorem plChangeComplete (i) : Statement (.plChangeComplete i) := ⟨.inl rfl, fun _ _ => rfl⟩
theorem domainPowerOn (p) : Statement (.domainPowerOn p) := ⟨.inl rfl, fun _ _ => rfl⟩
theorem domainPowerOff (p) : Statement (.domainPowerOff p) := ⟨.inl rfl, fun _ _ => rfl⟩
theorem domainDrainEnd : Statement (.domainDrainEnd) := ⟨.inl rfl, fun _ _ => rfl⟩
theorem sleepEnter (p) : Statement (.sleepEnter p) := ⟨.inl rfl, fun _ _ => rfl⟩
theorem alarmSet (p) : Statement (.alarmSet p) := ⟨.inl rfl, fun _ _ => rfl⟩
theorem powerGet (p) : Statement (.powerGet p) := ⟨.inl rfl, fun _ _ => rfl⟩
theorem attest (p) : Statement (.attest p) := ⟨.inl rfl, fun _ _ => rfl⟩
theorem idGet (p) : Statement (.idGet p) := ⟨.inl rfl, fun _ _ => rfl⟩
theorem dbgChallenge (p) : Statement (.dbgChallenge p) := ⟨.inl rfl, fun _ _ => rfl⟩
theorem dbgUnlock (p) : Statement (.dbgUnlock p) := ⟨.inl rfl, fun _ _ => rfl⟩
theorem challengeExpire : Statement (.challengeExpire) := ⟨.inl rfl, fun _ _ => rfl⟩
theorem imageExport (p) : Statement (.imageExport p) := ⟨.inl rfl, fun _ _ => rfl⟩
theorem keyRevoke (p) : Statement (.keyRevoke p) := ⟨.inl rfl, fun _ _ => rfl⟩
theorem loopSet (p) : Statement (.loopSet p) := ⟨.inl rfl, fun _ _ => rfl⟩
theorem prbsRun (p) : Statement (.prbsRun p) := ⟨.inl rfl, fun _ _ => rfl⟩
theorem prbsRunEnd (l compared errors lost) : Statement (.prbsRunEnd l compared errors lost) := ⟨.inl rfl, fun _ _ => rfl⟩
theorem selftest (p) : Statement (.selftest p) := ⟨.inl rfl, fun _ _ => rfl⟩
theorem updBegin (p) : Statement (.updBegin p) := ⟨.inl rfl, fun _ _ => rfl⟩
theorem updChunk (p) : Statement (.updChunk p) := ⟨.inl rfl, fun _ _ => rfl⟩
theorem updCommit (p) : Statement (.updCommit p) := ⟨.inl rfl, fun _ _ => rfl⟩
theorem updAbort (p) : Statement (.updAbort p) := ⟨.inl rfl, fun _ _ => rfl⟩
theorem egressPost (host) : Statement (.egressPost host) := ⟨.inl rfl, fun _ _ => rfl⟩
theorem indicationSend (c op sfn slot late aborted entries) : Statement (.indicationSend c op sfn slot late aborted entries) := ⟨.inl rfl, fun _ _ => rfl⟩
theorem controlMessageLaunch (c sfn slot stale) : Statement (.controlMessageLaunch c sfn slot stale) := ⟨.inl rfl, fun _ _ => rfl⟩
theorem rampQueue (c up t) : Statement (.rampQueue c up t) := ⟨.inl rfl, fun _ _ => rfl⟩
theorem ulGainWindow (c ant win power) : Statement (.ulGainWindow c ant win power) := ⟨.inl rfl, fun _ _ => rfl⟩
theorem ulPortionEnd (c ant sfn slot samples) : Statement (.ulPortionEnd c ant sfn slot samples) := ⟨.inl rfl, fun _ _ => rfl⟩
theorem ddrTrainComplete (fail) : Statement (.ddrTrainComplete fail) := ⟨.inl rfl, fun _ _ => rfl⟩
theorem ddrInitComplete (ch) : Statement (.ddrInitComplete ch) := ⟨.inl rfl, fun _ _ => rfl⟩
theorem ddrAlert (src tag line attempts) : Statement (.ddrAlert src tag line attempts) := ⟨.inl rfl, fun _ _ => rfl⟩
theorem ddrRefresh (ch) : Statement (.ddrRefresh ch) := ⟨.inl rfl, fun _ _ => rfl⟩
theorem mergeBufferFlush (i bank) : Statement (.mergeBufferFlush i bank) := ⟨.inl rfl, fun _ _ => rfl⟩
theorem eccReport (i concierge) : Statement (.eccReport i concierge) := ⟨.inl rfl, fun _ _ => rfl⟩
theorem eccctlClear (u src) : Statement (.eccctlClear u src) := ⟨.inl rfl, fun _ _ => rfl⟩
theorem scrubLine (i ups) : Statement (.scrubLine i ups) := ⟨.inl rfl, fun _ _ => rfl⟩
theorem ptTailWrite (b ch src v) : Statement (.ptTailWrite b ch src v) := ⟨.inl rfl, fun _ h => nomatch h⟩
theorem ptRingbaseWrite (b ch src v) : Statement (.ptRingbaseWrite b ch src v) := ⟨.inl rfl, fun _ h => nomatch h⟩
theorem ptRinglenWrite (b ch src v) : Statement (.ptRinglenWrite b ch src v) := ⟨.inl rfl, fun _ h => nomatch h⟩
theorem ptChannelEnable (b ch src) : Statement (.ptChannelEnable b ch src) := ⟨.inl rfl, fun _ h => nomatch h⟩
theorem ptChannelDisable (b ch src) : Statement (.ptChannelDisable b ch src) := ⟨.inl rfl, fun _ h => nomatch h⟩
theorem ptChainCut (b ch src) : Statement (.ptChainCut b ch src) := ⟨.inl rfl, fun _ h => nomatch h⟩
theorem descriptorStart (b ch host) : Statement (.descriptorStart b ch host) := ⟨.inl rfl, fun _ h => nomatch h⟩
theorem descCopy (b ch host) : Statement (.descCopy b ch host) := ⟨.inl rfl, fun _ h => nomatch h⟩
theorem descInterleave (b ch host) : Statement (.descInterleave b ch host) := ⟨.inl rfl, fun _ h => nomatch h⟩
theorem descDeinterleave (b ch host) : Statement (.descDeinterleave b ch host) := ⟨.inl rfl, fun _ h => nomatch h⟩
theorem descWordsToPlanes (b ch host) : Statement (.descWordsToPlanes b ch host) := ⟨.inl rfl, fun _ h => nomatch h⟩
theorem descPlanesToWords (b ch host) : Statement (.descPlanesToWords b ch host) := ⟨.inl rfl, fun _ h => nomatch h⟩
theorem descriptorFinish (b ch) : Statement (.descriptorFinish b ch) := ⟨.inl rfl, fun _ h => nomatch h⟩
theorem porterRelease (ch) : Statement (.porterRelease ch) := ⟨.inl rfl, fun _ _ => rfl⟩
theorem hostAccess (t) : Statement (.hostAccess t) := ⟨.inl rfl, fun _ _ => rfl⟩
theorem hostCompletionTimeout (addr) : Statement (.hostCompletionTimeout addr) := ⟨.inl rfl, fun _ _ => rfl⟩
theorem pcieLinkDown (link) : Statement (.pcieLinkDown link) := ⟨.inl rfl, fun _ _ => rfl⟩
theorem pcieTrainStart : Statement (.pcieTrainStart) := ⟨.inl rfl, fun _ _ => rfl⟩
theorem functionLevelReset : Statement (.functionLevelReset) := ⟨.inl rfl, fun _ _ => rfl⟩
theorem fundamentalReset : Statement (.fundamentalReset) := ⟨.inl rfl, fun _ _ => rfl⟩
theorem ethLinkUp (p c0 c1 peer pport) : Statement (.ethLinkUp p c0 c1 peer pport) := ⟨.inl rfl, fun _ _ => rfl⟩
theorem ethLinkDown (p) : Statement (.ethLinkDown p) := ⟨.inl rfl, fun _ _ => rfl⟩
theorem frameReceive (p frame fcsOk corrected uncorrectable) : Statement (.frameReceive p frame fcsOk corrected uncorrectable) := ⟨.inl rfl, fun _ _ => rfl⟩
theorem ecpriIqReceive (p m) : Statement (.ecpriIqReceive p m) := ⟨.inl rfl, fun _ _ => rfl⟩
theorem delayRequestReceive (p seq smac m) : Statement (.delayRequestReceive p seq smac m) := ⟨.inl rfl, fun _ _ => rfl⟩
theorem delayResponseReceive (c m) : Statement (.delayResponseReceive c m) := ⟨.inl rfl, fun _ _ => rfl⟩
theorem pushSlotWrite (src p k off data) : Statement (.pushSlotWrite src p k off data) := ⟨.inl rfl, fun _ _ => rfl⟩
theorem txEntryWrite (src p q entry) : Statement (.txEntryWrite src p q entry) := ⟨.inl rfl, fun _ _ => rfl⟩
theorem frameStart (p crcBad) : Statement (.frameStart p crcBad) := ⟨.inl rfl, fun _ _ => rfl⟩
theorem rxGroupWrite (src p g v) : Statement (.rxGroupWrite src p g v) := ⟨.inl rfl, fun _ _ => rfl⟩
theorem rxArm (src p g rt app) : Statement (.rxArm src p g rt app) := ⟨.inl rfl, fun _ _ => rfl⟩
theorem rxBlockRelease (p g) : Statement (.rxBlockRelease p g) := ⟨.inl rfl, fun _ _ => rfl⟩
theorem rxConsume (src p g) : Statement (.rxConsume src p g) := ⟨.inl rfl, fun _ _ => rfl⟩
theorem carriageDetect (p answer) : Statement (.carriageDetect p answer) := ⟨.inl rfl, fun _ _ => rfl⟩
theorem trainStep (p r) : Statement (.trainStep p r) := ⟨.inl rfl, fun _ _ => rfl⟩
theorem trainTimeout (p) : Statement (.trainTimeout p) := ⟨.inl rfl, fun _ _ => rfl⟩
theorem carriageFrameSend (p) : Statement (.carriageFrameSend p) := ⟨.inl rfl, fun _ _ => rfl⟩
theorem carriageFrameReceive (p r) : Statement (.carriageFrameReceive p r) := ⟨.inl rfl, fun _ _ => rfl⟩
theorem linkMessageReceive (p m) : Statement (.linkMessageReceive p m) := ⟨.inl rfl, fun _ _ => rfl⟩
theorem retrainTrigger (p lost lock) : Statement (.retrainTrigger p lost lock) := ⟨.inl rfl, fun _ _ => rfl⟩
theorem snrMeasure (p ratios) : Statement (.snrMeasure p ratios) := ⟨.inl rfl, fun _ _ => rfl⟩
theorem tableAdopt (p) : Statement (.tableAdopt p) := ⟨.inl rfl, fun _ _ => rfl⟩
theorem proposalLapse (p ours) : Statement (.proposalLapse p ours) := ⟨.inl rfl, fun _ _ => rfl⟩
theorem powerSaveResume (p lost) : Statement (.powerSaveResume p lost) := ⟨.inl rfl, fun _ _ => rfl⟩
theorem sampleWrite (src p ant pos v) : Statement (.sampleWrite src p ant pos v) := ⟨.inl rfl, fun _ _ => rfl⟩
theorem ulArm (src p v) : Statement (.ulArm src p v) := ⟨.inl rfl, fun _ _ => rfl⟩
theorem ulSymbolRelease (p) : Statement (.ulSymbolRelease p) := ⟨.inl rfl, fun _ _ => rfl⟩
theorem switchQueueWrite (src p v) : Statement (.switchQueueWrite src p v) := ⟨.inl rfl, fun _ _ => rfl⟩
theorem mgmtTxEntry (src p entry) : Statement (.mgmtTxEntry src p entry) := ⟨.inl rfl, fun _ _ => rfl⟩
theorem mgmtRxConsume (src p v) : Statement (.mgmtRxConsume src p v) := ⟨.inl rfl, fun _ _ => rfl⟩
theorem captureStrobe (src) : Statement (.captureStrobe src) := ⟨.inl rfl, fun _ _ => rfl⟩
theorem captureHandler : Statement (.captureHandler) := ⟨.inl rfl, fun _ _ => rfl⟩
theorem anchorRewrite : Statement (.anchorRewrite) := ⟨.inl rfl, fun _ _ => rfl⟩
theorem syncReceive (p domain seq t1 corr) : Statement (.syncReceive p domain seq t1 corr) := ⟨.inl rfl, fun _ _ => rfl⟩
theorem followUpReceive (p domain t1 corr) : Statement (.followUpReceive p domain t1 corr) := ⟨.inl rfl, fun _ _ => rfl⟩
theorem delayReqReceive (p domain seq requester) : Statement (.delayReqReceive p domain seq requester) := ⟨.inl rfl, fun _ _ => rfl⟩
theorem delayRespReceive (p domain t4 corr) : Statement (.delayRespReceive p domain t4 corr) := ⟨.inl rfl, fun _ _ => rfl⟩
theorem announceReceive (p domain gm cls removed) : Statement (.announceReceive p domain gm cls removed) := ⟨.inl rfl, fun _ _ => rfl⟩
theorem ptpSyncSend (p) : Statement (.ptpSyncSend p) := ⟨.inl rfl, fun _ _ => rfl⟩
theorem ptpAnnounceSend (p) : Statement (.ptpAnnounceSend p) := ⟨.inl rfl, fun _ _ => rfl⟩
theorem ptpDelayReqSend (p) : Statement (.ptpDelayReqSend p) := ⟨.inl rfl, fun _ _ => rfl⟩
theorem timeLoopUpdate (freq) : Statement (.timeLoopUpdate freq) := ⟨.inl rfl, fun _ _ => rfl⟩
theorem timeLock : Statement (.timeLock) := ⟨.inl rfl, fun _ _ => rfl⟩
theorem lockLoss : Statement (.lockLoss) := ⟨.inl rfl, fun _ _ => rfl⟩
theorem sourceLost : Statement (.sourceLost) := ⟨.inl rfl, fun _ _ => rfl⟩
theorem sourceValid : Statement (.sourceValid) := ⟨.inl rfl, fun _ _ => rfl⟩
theorem holdoverExpire : Statement (.holdoverExpire) := ⟨.inl rfl, fun _ _ => rfl⟩
theorem tuningWordSave (w) : Statement (.tuningWordSave w) := ⟨.inl rfl, fun _ _ => rfl⟩
theorem scheduledFrameLaunch (p q crcBad) : Statement (.scheduledFrameLaunch p q crcBad) := ⟨.inl rfl, fun _ _ => rfl⟩
theorem analogStepDue (c) : Statement (.analogStepDue c) := ⟨.inl rfl, fun _ _ => rfl⟩
theorem ppsOutRise : Statement (.ppsOutRise) := ⟨.inl rfl, fun _ _ => rfl⟩
theorem ppsOutFall : Statement (.ppsOutFall) := ⟨.inl rfl, fun _ _ => rfl⟩
theorem aostepWrite (src whole v) : Statement (.aostepWrite src whole v) := ⟨.inl rfl, fun _ _ => rfl⟩
theorem tkEventInput (i n) : Statement (.tkEventInput i n) := ⟨.inl rfl, fun _ _ => rfl⟩
theorem deglitchRelease (c) : Statement (.deglitchRelease c) := ⟨.inl rfl, fun _ _ => rfl⟩
theorem deferredLatch (c) : Statement (.deferredLatch c) := ⟨.inl rfl, fun _ _ => rfl⟩
theorem slewLatch (c) : Statement (.slewLatch c) := ⟨.inl rfl, fun _ _ => rfl⟩
theorem channelFault (c cause) : Statement (.channelFault c cause) := ⟨.inl rfl, fun _ _ => rfl⟩
theorem aoFaultClear (c src holds) : Statement (.aoFaultClear c src holds) := ⟨.inl rfl, fun _ _ => rfl⟩
theorem safeCodeLoad : Statement (.safeCodeLoad) := ⟨.inl rfl, fun _ _ => rfl⟩
theorem monitorSample (m v) : Statement (.monitorSample m v) := ⟨.inl rfl, fun _ _ => rfl⟩
theorem vinHighHaltTimer : Statement (.vinHighHaltTimer) := ⟨.inl rfl, fun _ _ => rfl⟩
theorem powerFailWarning (mv) : Statement (.powerFailWarning mv) := ⟨.inl rfl, fun _ _ => rfl⟩
theorem pfwClear : Statement (.pfwClear) := ⟨.inl rfl, fun _ _ => rfl⟩
theorem drainComplete : Statement (.drainComplete) := ⟨.inl rfl, fun _ _ => rfl⟩
theorem watchdogKick : Statement (.watchdogKick) := ⟨.inl rfl, fun _ _ => rfl⟩
theorem watchdogExpire : Statement (.watchdogExpire) := ⟨.inl rfl, fun _ _ => rfl⟩
theorem voterVote (d yes) : Statement (.voterVote d yes) := ⟨.inl rfl, fun _ _ => rfl⟩
theorem voteTimeout : Statement (.voteTimeout) := ⟨.inl rfl, fun _ _ => rfl⟩
theorem powerDownComplete : Statement (.powerDownComplete) := ⟨.inl rfl, fun _ _ => rfl⟩
theorem wakeNAssert (sec) : Statement (.wakeNAssert sec) := ⟨.inl rfl, fun _ _ => rfl⟩
theorem alarmExpire : Statement (.alarmExpire) := ⟨.inl rfl, fun _ _ => rfl⟩
theorem uartBreakWake (sec) : Statement (.uartBreakWake sec) := ⟨.inl rfl, fun _ _ => rfl⟩
theorem carriageEnergyDetect (p sec) : Statement (.carriageEnergyDetect p sec) := ⟨.inl rfl, fun _ _ => rfl⟩
theorem wake : Statement (.wake) := ⟨.inl rfl, fun _ _ => rfl⟩
theorem powerOnReset (brownout) : Statement (.powerOnReset brownout) := ⟨.inl rfl, fun _ _ => rfl⟩
theorem vddqEnRise : Statement (.vddqEnRise) := ⟨.inl rfl, fun _ _ => rfl⟩
theorem pinReset : Statement (.pinReset) := ⟨.inl rfl, fun _ _ => rfl⟩
theorem debugReset (kind unit) : Statement (.debugReset kind unit) := ⟨.inl rfl, fun _ _ => rfl⟩
theorem resetHoldEnd (modid testEn) : Statement (.resetHoldEnd modid testEn) := ⟨.inl rfl, fun _ _ => rfl⟩
theorem wearAccountSave (powerFail) : Statement (.wearAccountSave powerFail) := ⟨.inl rfl, fun _ _ => rfl⟩
theorem eventTake : Statement (.eventTake) := ⟨.inl rfl, fun _ _ => rfl⟩
theorem msiIntervalEnd (v) : Statement (.msiIntervalEnd v) := ⟨.inl rfl, fun _ _ => rfl⟩
theorem flushStart : Statement (.flushStart) := ⟨.inl rfl, fun _ _ => rfl⟩
theorem flushComplete : Statement (.flushComplete) := ⟨.inl rfl, fun _ _ => rfl⟩
theorem pcieLinkUp (width speed) : Statement (.pcieLinkUp width speed) := ⟨.inl rfl, fun _ _ => rfl⟩
theorem pcieCompletionReceive (addr fail data) : Statement (.pcieCompletionReceive addr fail data) := ⟨.inl rfl, fun _ _ => rfl⟩
theorem hubCoreFault : Statement (.hubCoreFault) := ⟨.inl rfl, fun _ _ => rfl⟩
theorem updVerifyComplete : Statement (.updVerifyComplete) := ⟨.inl rfl, fun _ _ => rfl⟩
theorem selftestComplete (words) : Statement (.selftestComplete words) := ⟨.inl rfl, fun _ _ => rfl⟩

end Sys2Proof.Laws.Operands
end

