-- ==== Sys2Proof/Laws/State.lean ====
section
/-! SUPPORT. What one update of the state leaves: for each update and each field that it does not write, the field is as
before. No later proof unfolds an update. -/

namespace Sys2Proof.Machine.State

@[simp] theorem setReg_pending (s a v) : (setReg s a v).pending = s.pending := rfl
@[simp] theorem setReg_cyc (s a v) : (setReg s a v).cyc = s.cyc := rfl
@[simp] theorem setReg_tkns (s a v) : (setReg s a v).tkns = s.tkns := rfl
@[simp] theorem setReg_ext (s a v) : (setReg s a v).ext = s.ext := rfl
@[simp] theorem setReg_free (s a v) : (setReg s a v).free = s.free := rfl
@[simp] theorem setReg_mem (s a v) : (setReg s a v).mem = s.mem := rfl
@[simp] theorem setReg_marks (s a v) : (setReg s a v).marks = s.marks := rfl
@[simp] theorem setReg_mbuf (s a v) : (setReg s a v).mbuf = s.mbuf := rfl
@[simp] theorem setReg_hostIn (s a v) : (setReg s a v).hostIn = s.hostIn := rfl
@[simp] theorem setReg_out (s a v) : (setReg s a v).out = s.out := rfl
@[simp] theorem setReg_xings (s a v) : (setReg s a v).xings = s.xings := rfl
@[simp] theorem setReg_islands (s a v) : (setReg s a v).islands = s.islands := rfl
@[simp] theorem setReg_outst (s a v) : (setReg s a v).outst = s.outst := rfl
@[simp] theorem setReg_hostReads (s a v) : (setReg s a v).hostReads = s.hostReads := rfl
@[simp] theorem setReg_routers (s a v) : (setReg s a v).routers = s.routers := rfl
@[simp] theorem setReg_evq (s a v) : (setReg s a v).evq = s.evq := rfl
@[simp] theorem setReg_intake (s a v) : (setReg s a v).intake = s.intake := rfl
@[simp] theorem setReg_eccq (s a v) : (setReg s a v).eccq = s.eccq := rfl
@[simp] theorem setReg_tableFull (s a v) : (setReg s a v).tableFull = s.tableFull := rfl
@[simp] theorem setReg_scrub (s a v) : (setReg s a v).scrub = s.scrub := rfl
@[simp] theorem setReg_ddrGiB (s a v) : (setReg s a v).ddrGiB = s.ddrGiB := rfl
@[simp] theorem setReg_ddrDev (s a v) : (setReg s a v).ddrDev = s.ddrDev := rfl
@[simp] theorem setReg_cores (s a v) : (setReg s a v).cores = s.cores := rfl
@[simp] theorem setReg_cops (s a v) : (setReg s a v).cops = s.cops := rfl
@[simp] theorem setReg_clk (s a v) : (setReg s a v).clk = s.clk := rfl
@[simp] theorem setReg_inks (s a v) : (setReg s a v).inks = s.inks := rfl
@[simp] theorem setReg_heldOver (s a v) : (setReg s a v).heldOver = s.heldOver := rfl
@[simp] theorem setReg_engines (s a v) : (setReg s a v).engines = s.engines := rfl
@[simp] theorem setReg_jobRecs (s a v) : (setReg s a v).jobRecs = s.jobRecs := rfl
@[simp] theorem setReg_egress (s a v) : (setReg s a v).egress = s.egress := rfl
@[simp] theorem setReg_rings (s a v) : (setReg s a v).rings = s.rings := rfl
@[simp] theorem setReg_rrSlot (s a v) : (setReg s a v).rrSlot = s.rrSlot := rfl
@[simp] theorem setReg_pcieUp (s a v) : (setReg s a v).pcieUp = s.pcieUp := rfl
@[simp] theorem setReg_bme (s a v) : (setReg s a v).bme = s.bme := rfl
@[simp] theorem setReg_memEn (s a v) : (setReg s a v).memEn = s.memEn := rfl
@[simp] theorem setReg_pcieCtl (s a v) : (setReg s a v).pcieCtl = s.pcieCtl := rfl
@[simp] theorem setReg_msixEn (s a v) : (setReg s a v).msixEn = s.msixEn := rfl
@[simp] theorem setReg_msixMask (s a v) : (setReg s a v).msixMask = s.msixMask := rfl
@[simp] theorem setReg_msixTab (s a v) : (setReg s a v).msixTab = s.msixTab := rfl
@[simp] theorem setReg_msixPba (s a v) : (setReg s a v).msixPba = s.msixPba := rfl
@[simp] theorem setReg_msiOpen (s a v) : (setReg s a v).msiOpen = s.msiOpen := rfl
@[simp] theorem setReg_hostFail (s a v) : (setReg s a v).hostFail = s.hostFail := rfl
@[simp] theorem setReg_uartBusy (s a v) : (setReg s a v).uartBusy = s.uartBusy := rfl
@[simp] theorem setReg_settings (s a v) : (setReg s a v).settings = s.settings := rfl
@[simp] theorem setReg_gbuf (s a v) : (setReg s a v).gbuf = s.gbuf := rfl
@[simp] theorem setReg_gbNext (s a v) : (setReg s a v).gbNext = s.gbNext := rfl
@[simp] theorem setReg_gbLost (s a v) : (setReg s a v).gbLost = s.gbLost := rfl
@[simp] theorem setReg_gbLostFirst (s a v) : (setReg s a v).gbLostFirst = s.gbLostFirst := rfl
@[simp] theorem setReg_gbForced (s a v) : (setReg s a v).gbForced = s.gbForced := rfl
@[simp] theorem setReg_gbWanted (s a v) : (setReg s a v).gbWanted = s.gbWanted := rfl
@[simp] theorem setReg_gbWait (s a v) : (setReg s a v).gbWait = s.gbWait := rfl
@[simp] theorem setReg_gbRate (s a v) : (setReg s a v).gbRate = s.gbRate := rfl
@[simp] theorem setReg_nvWr (s a v) : (setReg s a v).nvWr = s.nvWr := rfl
@[simp] theorem setReg_utcSet (s a v) : (setReg s a v).utcSet = s.utcSet := rfl
@[simp] theorem setReg_chans (s a v) : (setReg s a v).chans = s.chans := rfl
@[simp] theorem setReg_mons (s a v) : (setReg s a v).mons = s.mons := rfl
@[simp] theorem setReg_strobes (s a v) : (setReg s a v).strobes = s.strobes := rfl
@[simp] theorem setReg_capEnd (s a v) : (setReg s a v).capEnd = s.capEnd := rfl
@[simp] theorem setReg_capLog (s a v) : (setReg s a v).capLog = s.capLog := rfl
@[simp] theorem setReg_capSeq (s a v) : (setReg s a v).capSeq = s.capSeq := rfl
@[simp] theorem setReg_ptp (s a v) : (setReg s a v).ptp = s.ptp := rfl
@[simp] theorem setReg_tune (s a v) : (setReg s a v).tune = s.tune := rfl
@[simp] theorem setReg_loopAt (s a v) : (setReg s a v).loopAt = s.loopAt := rfl
@[simp] theorem setReg_ppsHigh (s a v) : (setReg s a v).ppsHigh = s.ppsHigh := rfl
@[simp] theorem setReg_synce (s a v) : (setReg s a v).synce = s.synce := rfl
@[simp] theorem setReg_haltPend (s a v) : (setReg s a v).haltPend = s.haltPend := rfl
@[simp] theorem setReg_bootRecs (s a v) : (setReg s a v).bootRecs = s.bootRecs := rfl
@[simp] theorem setReg_keyRecs (s a v) : (setReg s a v).keyRecs = s.keyRecs := rfl
@[simp] theorem setReg_wearSaved (s a v) : (setReg s a v).wearSaved = s.wearSaved := rfl
@[simp] theorem setReg_wearAt (s a v) : (setReg s a v).wearAt = s.wearAt := rfl
@[simp] theorem setReg_retired (s a v) : (setReg s a v).retired = s.retired := rfl
@[simp] theorem setReg_update (s a v) : (setReg s a v).update = s.update := rfl
@[simp] theorem setReg_challenge (s a v) : (setReg s a v).challenge = s.challenge := rfl
@[simp] theorem setReg_measure (s a v) : (setReg s a v).measure = s.measure := rfl
@[simp] theorem setReg_levelMap (s a v) : (setReg s a v).levelMap = s.levelMap := rfl
@[simp] theorem setReg_rst (s a v) : (setReg s a v).rst = s.rst := rfl
@[simp] theorem setReg_domJob (s a v) : (setReg s a v).domJob = s.domJob := rfl
@[simp] theorem setReg_rstJobs (s a v) : (setReg s a v).rstJobs = s.rstJobs := rfl
@[simp] theorem setReg_sleep (s a v) : (setReg s a v).sleep = s.sleep := rfl
@[simp] theorem setReg_plJobs (s a v) : (setReg s a v).plJobs = s.plJobs := rfl
@[simp] theorem setReg_selfTest (s a v) : (setReg s a v).selfTest = s.selfTest := rfl
@[simp] theorem setReg_pchans (s a v) : (setReg s a v).pchans = s.pchans := rfl
@[simp] theorem setReg_relIn (s a v) : (setReg s a v).relIn = s.relIn := rfl
@[simp] theorem setReg_eth (s a v) : (setReg s a v).eth = s.eth := rfl
@[simp] theorem setReg_cps (s a v) : (setReg s a v).cps = s.cps := rfl
@[simp] theorem setReg_carriers (s a v) : (setReg s a v).carriers = s.carriers := rfl
@[simp] theorem setReg_uplane (s a v) : (setReg s a v).uplane = s.uplane := rfl
@[simp] theorem setReg_dels (s a v) : (setReg s a v).dels = s.dels := rfl
@[simp] theorem setReg_prbs (s a v) : (setReg s a v).prbs = s.prbs := rfl
@[simp] theorem setReg_modid (s a v) : (setReg s a v).modid = s.modid := rfl
@[simp] theorem setReg_testEn (s a v) : (setReg s a v).testEn = s.testEn := rfl
@[simp] theorem setReg_vddq (s a v) : (setReg s a v).vddq = s.vddq := rfl
@[simp] theorem setReg_wdtAt (s a v) : (setReg s a v).wdtAt = s.wdtAt := rfl
@[simp] theorem setReg_aonSec (s a v) : (setReg s a v).aonSec = s.aonSec := rfl
@[simp] theorem setReg_aonAlarm (s a v) : (setReg s a v).aonAlarm = s.aonAlarm := rfl
@[simp] theorem setReg_wakeDrv (s a v) : (setReg s a v).wakeDrv = s.wakeDrv := rfl

@[simp] theorem setByte_pending (s a b) : (setByte s a b).pending = s.pending := rfl
@[simp] theorem setByte_cyc (s a b) : (setByte s a b).cyc = s.cyc := rfl
@[simp] theorem setByte_tkns (s a b) : (setByte s a b).tkns = s.tkns := rfl
@[simp] theorem setByte_ext (s a b) : (setByte s a b).ext = s.ext := rfl
@[simp] theorem setByte_free (s a b) : (setByte s a b).free = s.free := rfl
@[simp] theorem setByte_regs (s a b) : (setByte s a b).regs = s.regs := rfl
@[simp] theorem setByte_marks (s a b) : (setByte s a b).marks = s.marks := rfl
@[simp] theorem setByte_mbuf (s a b) : (setByte s a b).mbuf = s.mbuf := rfl
@[simp] theorem setByte_hostIn (s a b) : (setByte s a b).hostIn = s.hostIn := rfl
@[simp] theorem setByte_out (s a b) : (setByte s a b).out = s.out := rfl
@[simp] theorem setByte_xings (s a b) : (setByte s a b).xings = s.xings := rfl
@[simp] theorem setByte_islands (s a b) : (setByte s a b).islands = s.islands := rfl
@[simp] theorem setByte_outst (s a b) : (setByte s a b).outst = s.outst := rfl
@[simp] theorem setByte_hostReads (s a b) : (setByte s a b).hostReads = s.hostReads := rfl
@[simp] theorem setByte_routers (s a b) : (setByte s a b).routers = s.routers := rfl
@[simp] theorem setByte_evq (s a b) : (setByte s a b).evq = s.evq := rfl
@[simp] theorem setByte_intake (s a b) : (setByte s a b).intake = s.intake := rfl
@[simp] theorem setByte_eccq (s a b) : (setByte s a b).eccq = s.eccq := rfl
@[simp] theorem setByte_tableFull (s a b) : (setByte s a b).tableFull = s.tableFull := rfl
@[simp] theorem setByte_scrub (s a b) : (setByte s a b).scrub = s.scrub := rfl
@[simp] theorem setByte_ddrGiB (s a b) : (setByte s a b).ddrGiB = s.ddrGiB := rfl
@[simp] theorem setByte_ddrDev (s a b) : (setByte s a b).ddrDev = s.ddrDev := rfl
@[simp] theorem setByte_cores (s a b) : (setByte s a b).cores = s.cores := rfl
@[simp] theorem setByte_cops (s a b) : (setByte s a b).cops = s.cops := rfl
@[simp] theorem setByte_clk (s a b) : (setByte s a b).clk = s.clk := rfl
@[simp] theorem setByte_inks (s a b) : (setByte s a b).inks = s.inks := rfl
@[simp] theorem setByte_heldOver (s a b) : (setByte s a b).heldOver = s.heldOver := rfl
@[simp] theorem setByte_engines (s a b) : (setByte s a b).engines = s.engines := rfl
@[simp] theorem setByte_jobRecs (s a b) : (setByte s a b).jobRecs = s.jobRecs := rfl
@[simp] theorem setByte_egress (s a b) : (setByte s a b).egress = s.egress := rfl
@[simp] theorem setByte_rings (s a b) : (setByte s a b).rings = s.rings := rfl
@[simp] theorem setByte_rrSlot (s a b) : (setByte s a b).rrSlot = s.rrSlot := rfl
@[simp] theorem setByte_pcieUp (s a b) : (setByte s a b).pcieUp = s.pcieUp := rfl
@[simp] theorem setByte_bme (s a b) : (setByte s a b).bme = s.bme := rfl
@[simp] theorem setByte_memEn (s a b) : (setByte s a b).memEn = s.memEn := rfl
@[simp] theorem setByte_pcieCtl (s a b) : (setByte s a b).pcieCtl = s.pcieCtl := rfl
@[simp] theorem setByte_msixEn (s a b) : (setByte s a b).msixEn = s.msixEn := rfl
@[simp] theorem setByte_msixMask (s a b) : (setByte s a b).msixMask = s.msixMask := rfl
@[simp] theorem setByte_msixTab (s a b) : (setByte s a b).msixTab = s.msixTab := rfl
@[simp] theorem setByte_msixPba (s a b) : (setByte s a b).msixPba = s.msixPba := rfl
@[simp] theorem setByte_msiOpen (s a b) : (setByte s a b).msiOpen = s.msiOpen := rfl
@[simp] theorem setByte_hostFail (s a b) : (setByte s a b).hostFail = s.hostFail := rfl
@[simp] theorem setByte_uartBusy (s a b) : (setByte s a b).uartBusy = s.uartBusy := rfl
@[simp] theorem setByte_settings (s a b) : (setByte s a b).settings = s.settings := rfl
@[simp] theorem setByte_gbuf (s a b) : (setByte s a b).gbuf = s.gbuf := rfl
@[simp] theorem setByte_gbNext (s a b) : (setByte s a b).gbNext = s.gbNext := rfl
@[simp] theorem setByte_gbLost (s a b) : (setByte s a b).gbLost = s.gbLost := rfl
@[simp] theorem setByte_gbLostFirst (s a b) : (setByte s a b).gbLostFirst = s.gbLostFirst := rfl
@[simp] theorem setByte_gbForced (s a b) : (setByte s a b).gbForced = s.gbForced := rfl
@[simp] theorem setByte_gbWanted (s a b) : (setByte s a b).gbWanted = s.gbWanted := rfl
@[simp] theorem setByte_gbWait (s a b) : (setByte s a b).gbWait = s.gbWait := rfl
@[simp] theorem setByte_gbRate (s a b) : (setByte s a b).gbRate = s.gbRate := rfl
@[simp] theorem setByte_nvWr (s a b) : (setByte s a b).nvWr = s.nvWr := rfl
@[simp] theorem setByte_utcSet (s a b) : (setByte s a b).utcSet = s.utcSet := rfl
@[simp] theorem setByte_chans (s a b) : (setByte s a b).chans = s.chans := rfl
@[simp] theorem setByte_mons (s a b) : (setByte s a b).mons = s.mons := rfl
@[simp] theorem setByte_strobes (s a b) : (setByte s a b).strobes = s.strobes := rfl
@[simp] theorem setByte_capEnd (s a b) : (setByte s a b).capEnd = s.capEnd := rfl
@[simp] theorem setByte_capLog (s a b) : (setByte s a b).capLog = s.capLog := rfl
@[simp] theorem setByte_capSeq (s a b) : (setByte s a b).capSeq = s.capSeq := rfl
@[simp] theorem setByte_ptp (s a b) : (setByte s a b).ptp = s.ptp := rfl
@[simp] theorem setByte_tune (s a b) : (setByte s a b).tune = s.tune := rfl
@[simp] theorem setByte_loopAt (s a b) : (setByte s a b).loopAt = s.loopAt := rfl
@[simp] theorem setByte_ppsHigh (s a b) : (setByte s a b).ppsHigh = s.ppsHigh := rfl
@[simp] theorem setByte_synce (s a b) : (setByte s a b).synce = s.synce := rfl
@[simp] theorem setByte_haltPend (s a b) : (setByte s a b).haltPend = s.haltPend := rfl
@[simp] theorem setByte_bootRecs (s a b) : (setByte s a b).bootRecs = s.bootRecs := rfl
@[simp] theorem setByte_keyRecs (s a b) : (setByte s a b).keyRecs = s.keyRecs := rfl
@[simp] theorem setByte_wearSaved (s a b) : (setByte s a b).wearSaved = s.wearSaved := rfl
@[simp] theorem setByte_wearAt (s a b) : (setByte s a b).wearAt = s.wearAt := rfl
@[simp] theorem setByte_retired (s a b) : (setByte s a b).retired = s.retired := rfl
@[simp] theorem setByte_update (s a b) : (setByte s a b).update = s.update := rfl
@[simp] theorem setByte_challenge (s a b) : (setByte s a b).challenge = s.challenge := rfl
@[simp] theorem setByte_measure (s a b) : (setByte s a b).measure = s.measure := rfl
@[simp] theorem setByte_levelMap (s a b) : (setByte s a b).levelMap = s.levelMap := rfl
@[simp] theorem setByte_rst (s a b) : (setByte s a b).rst = s.rst := rfl
@[simp] theorem setByte_domJob (s a b) : (setByte s a b).domJob = s.domJob := rfl
@[simp] theorem setByte_rstJobs (s a b) : (setByte s a b).rstJobs = s.rstJobs := rfl
@[simp] theorem setByte_sleep (s a b) : (setByte s a b).sleep = s.sleep := rfl
@[simp] theorem setByte_plJobs (s a b) : (setByte s a b).plJobs = s.plJobs := rfl
@[simp] theorem setByte_selfTest (s a b) : (setByte s a b).selfTest = s.selfTest := rfl
@[simp] theorem setByte_pchans (s a b) : (setByte s a b).pchans = s.pchans := rfl
@[simp] theorem setByte_relIn (s a b) : (setByte s a b).relIn = s.relIn := rfl
@[simp] theorem setByte_eth (s a b) : (setByte s a b).eth = s.eth := rfl
@[simp] theorem setByte_cps (s a b) : (setByte s a b).cps = s.cps := rfl
@[simp] theorem setByte_carriers (s a b) : (setByte s a b).carriers = s.carriers := rfl
@[simp] theorem setByte_uplane (s a b) : (setByte s a b).uplane = s.uplane := rfl
@[simp] theorem setByte_dels (s a b) : (setByte s a b).dels = s.dels := rfl
@[simp] theorem setByte_prbs (s a b) : (setByte s a b).prbs = s.prbs := rfl
@[simp] theorem setByte_modid (s a b) : (setByte s a b).modid = s.modid := rfl
@[simp] theorem setByte_testEn (s a b) : (setByte s a b).testEn = s.testEn := rfl
@[simp] theorem setByte_vddq (s a b) : (setByte s a b).vddq = s.vddq := rfl
@[simp] theorem setByte_wdtAt (s a b) : (setByte s a b).wdtAt = s.wdtAt := rfl
@[simp] theorem setByte_aonSec (s a b) : (setByte s a b).aonSec = s.aonSec := rfl
@[simp] theorem setByte_aonAlarm (s a b) : (setByte s a b).aonAlarm = s.aonAlarm := rfl
@[simp] theorem setByte_wakeDrv (s a b) : (setByte s a b).wakeDrv = s.wakeDrv := rfl

@[simp] theorem setMark_pending (s w m) : (setMark s w m).pending = s.pending := rfl
@[simp] theorem setMark_cyc (s w m) : (setMark s w m).cyc = s.cyc := rfl
@[simp] theorem setMark_tkns (s w m) : (setMark s w m).tkns = s.tkns := rfl
@[simp] theorem setMark_ext (s w m) : (setMark s w m).ext = s.ext := rfl
@[simp] theorem setMark_free (s w m) : (setMark s w m).free = s.free := rfl
@[simp] theorem setMark_regs (s w m) : (setMark s w m).regs = s.regs := rfl
@[simp] theorem setMark_mem (s w m) : (setMark s w m).mem = s.mem := rfl
@[simp] theorem setMark_mbuf (s w m) : (setMark s w m).mbuf = s.mbuf := rfl
@[simp] theorem setMark_hostIn (s w m) : (setMark s w m).hostIn = s.hostIn := rfl
@[simp] theorem setMark_out (s w m) : (setMark s w m).out = s.out := rfl
@[simp] theorem setMark_xings (s w m) : (setMark s w m).xings = s.xings := rfl
@[simp] theorem setMark_islands (s w m) : (setMark s w m).islands = s.islands := rfl
@[simp] theorem setMark_outst (s w m) : (setMark s w m).outst = s.outst := rfl
@[simp] theorem setMark_hostReads (s w m) : (setMark s w m).hostReads = s.hostReads := rfl
@[simp] theorem setMark_routers (s w m) : (setMark s w m).routers = s.routers := rfl
@[simp] theorem setMark_evq (s w m) : (setMark s w m).evq = s.evq := rfl
@[simp] theorem setMark_intake (s w m) : (setMark s w m).intake = s.intake := rfl
@[simp] theorem setMark_eccq (s w m) : (setMark s w m).eccq = s.eccq := rfl
@[simp] theorem setMark_tableFull (s w m) : (setMark s w m).tableFull = s.tableFull := rfl
@[simp] theorem setMark_scrub (s w m) : (setMark s w m).scrub = s.scrub := rfl
@[simp] theorem setMark_ddrGiB (s w m) : (setMark s w m).ddrGiB = s.ddrGiB := rfl
@[simp] theorem setMark_ddrDev (s w m) : (setMark s w m).ddrDev = s.ddrDev := rfl
@[simp] theorem setMark_cores (s w m) : (setMark s w m).cores = s.cores := rfl
@[simp] theorem setMark_cops (s w m) : (setMark s w m).cops = s.cops := rfl
@[simp] theorem setMark_clk (s w m) : (setMark s w m).clk = s.clk := rfl
@[simp] theorem setMark_inks (s w m) : (setMark s w m).inks = s.inks := rfl
@[simp] theorem setMark_heldOver (s w m) : (setMark s w m).heldOver = s.heldOver := rfl
@[simp] theorem setMark_engines (s w m) : (setMark s w m).engines = s.engines := rfl
@[simp] theorem setMark_jobRecs (s w m) : (setMark s w m).jobRecs = s.jobRecs := rfl
@[simp] theorem setMark_egress (s w m) : (setMark s w m).egress = s.egress := rfl
@[simp] theorem setMark_rings (s w m) : (setMark s w m).rings = s.rings := rfl
@[simp] theorem setMark_rrSlot (s w m) : (setMark s w m).rrSlot = s.rrSlot := rfl
@[simp] theorem setMark_pcieUp (s w m) : (setMark s w m).pcieUp = s.pcieUp := rfl
@[simp] theorem setMark_bme (s w m) : (setMark s w m).bme = s.bme := rfl
@[simp] theorem setMark_memEn (s w m) : (setMark s w m).memEn = s.memEn := rfl
@[simp] theorem setMark_pcieCtl (s w m) : (setMark s w m).pcieCtl = s.pcieCtl := rfl
@[simp] theorem setMark_msixEn (s w m) : (setMark s w m).msixEn = s.msixEn := rfl
@[simp] theorem setMark_msixMask (s w m) : (setMark s w m).msixMask = s.msixMask := rfl
@[simp] theorem setMark_msixTab (s w m) : (setMark s w m).msixTab = s.msixTab := rfl
@[simp] theorem setMark_msixPba (s w m) : (setMark s w m).msixPba = s.msixPba := rfl
@[simp] theorem setMark_msiOpen (s w m) : (setMark s w m).msiOpen = s.msiOpen := rfl
@[simp] theorem setMark_hostFail (s w m) : (setMark s w m).hostFail = s.hostFail := rfl
@[simp] theorem setMark_uartBusy (s w m) : (setMark s w m).uartBusy = s.uartBusy := rfl
@[simp] theorem setMark_settings (s w m) : (setMark s w m).settings = s.settings := rfl
@[simp] theorem setMark_gbuf (s w m) : (setMark s w m).gbuf = s.gbuf := rfl
@[simp] theorem setMark_gbNext (s w m) : (setMark s w m).gbNext = s.gbNext := rfl
@[simp] theorem setMark_gbLost (s w m) : (setMark s w m).gbLost = s.gbLost := rfl
@[simp] theorem setMark_gbLostFirst (s w m) : (setMark s w m).gbLostFirst = s.gbLostFirst := rfl
@[simp] theorem setMark_gbForced (s w m) : (setMark s w m).gbForced = s.gbForced := rfl
@[simp] theorem setMark_gbWanted (s w m) : (setMark s w m).gbWanted = s.gbWanted := rfl
@[simp] theorem setMark_gbWait (s w m) : (setMark s w m).gbWait = s.gbWait := rfl
@[simp] theorem setMark_gbRate (s w m) : (setMark s w m).gbRate = s.gbRate := rfl
@[simp] theorem setMark_nvWr (s w m) : (setMark s w m).nvWr = s.nvWr := rfl
@[simp] theorem setMark_utcSet (s w m) : (setMark s w m).utcSet = s.utcSet := rfl
@[simp] theorem setMark_chans (s w m) : (setMark s w m).chans = s.chans := rfl
@[simp] theorem setMark_mons (s w m) : (setMark s w m).mons = s.mons := rfl
@[simp] theorem setMark_strobes (s w m) : (setMark s w m).strobes = s.strobes := rfl
@[simp] theorem setMark_capEnd (s w m) : (setMark s w m).capEnd = s.capEnd := rfl
@[simp] theorem setMark_capLog (s w m) : (setMark s w m).capLog = s.capLog := rfl
@[simp] theorem setMark_capSeq (s w m) : (setMark s w m).capSeq = s.capSeq := rfl
@[simp] theorem setMark_ptp (s w m) : (setMark s w m).ptp = s.ptp := rfl
@[simp] theorem setMark_tune (s w m) : (setMark s w m).tune = s.tune := rfl
@[simp] theorem setMark_loopAt (s w m) : (setMark s w m).loopAt = s.loopAt := rfl
@[simp] theorem setMark_ppsHigh (s w m) : (setMark s w m).ppsHigh = s.ppsHigh := rfl
@[simp] theorem setMark_synce (s w m) : (setMark s w m).synce = s.synce := rfl
@[simp] theorem setMark_haltPend (s w m) : (setMark s w m).haltPend = s.haltPend := rfl
@[simp] theorem setMark_bootRecs (s w m) : (setMark s w m).bootRecs = s.bootRecs := rfl
@[simp] theorem setMark_keyRecs (s w m) : (setMark s w m).keyRecs = s.keyRecs := rfl
@[simp] theorem setMark_wearSaved (s w m) : (setMark s w m).wearSaved = s.wearSaved := rfl
@[simp] theorem setMark_wearAt (s w m) : (setMark s w m).wearAt = s.wearAt := rfl
@[simp] theorem setMark_retired (s w m) : (setMark s w m).retired = s.retired := rfl
@[simp] theorem setMark_update (s w m) : (setMark s w m).update = s.update := rfl
@[simp] theorem setMark_challenge (s w m) : (setMark s w m).challenge = s.challenge := rfl
@[simp] theorem setMark_measure (s w m) : (setMark s w m).measure = s.measure := rfl
@[simp] theorem setMark_levelMap (s w m) : (setMark s w m).levelMap = s.levelMap := rfl
@[simp] theorem setMark_rst (s w m) : (setMark s w m).rst = s.rst := rfl
@[simp] theorem setMark_domJob (s w m) : (setMark s w m).domJob = s.domJob := rfl
@[simp] theorem setMark_rstJobs (s w m) : (setMark s w m).rstJobs = s.rstJobs := rfl
@[simp] theorem setMark_sleep (s w m) : (setMark s w m).sleep = s.sleep := rfl
@[simp] theorem setMark_plJobs (s w m) : (setMark s w m).plJobs = s.plJobs := rfl
@[simp] theorem setMark_selfTest (s w m) : (setMark s w m).selfTest = s.selfTest := rfl
@[simp] theorem setMark_pchans (s w m) : (setMark s w m).pchans = s.pchans := rfl
@[simp] theorem setMark_relIn (s w m) : (setMark s w m).relIn = s.relIn := rfl
@[simp] theorem setMark_eth (s w m) : (setMark s w m).eth = s.eth := rfl
@[simp] theorem setMark_cps (s w m) : (setMark s w m).cps = s.cps := rfl
@[simp] theorem setMark_carriers (s w m) : (setMark s w m).carriers = s.carriers := rfl
@[simp] theorem setMark_uplane (s w m) : (setMark s w m).uplane = s.uplane := rfl
@[simp] theorem setMark_dels (s w m) : (setMark s w m).dels = s.dels := rfl
@[simp] theorem setMark_prbs (s w m) : (setMark s w m).prbs = s.prbs := rfl
@[simp] theorem setMark_modid (s w m) : (setMark s w m).modid = s.modid := rfl
@[simp] theorem setMark_testEn (s w m) : (setMark s w m).testEn = s.testEn := rfl
@[simp] theorem setMark_vddq (s w m) : (setMark s w m).vddq = s.vddq := rfl
@[simp] theorem setMark_wdtAt (s w m) : (setMark s w m).wdtAt = s.wdtAt := rfl
@[simp] theorem setMark_aonSec (s w m) : (setMark s w m).aonSec = s.aonSec := rfl
@[simp] theorem setMark_aonAlarm (s w m) : (setMark s w m).aonAlarm = s.aonAlarm := rfl
@[simp] theorem setMark_wakeDrv (s w m) : (setMark s w m).wakeDrv = s.wakeDrv := rfl

@[simp] theorem emit_pending (s o) : (emit s o).pending = s.pending := rfl
@[simp] theorem emit_cyc (s o) : (emit s o).cyc = s.cyc := rfl
@[simp] theorem emit_tkns (s o) : (emit s o).tkns = s.tkns := rfl
@[simp] theorem emit_ext (s o) : (emit s o).ext = s.ext := rfl
@[simp] theorem emit_free (s o) : (emit s o).free = s.free := rfl
@[simp] theorem emit_regs (s o) : (emit s o).regs = s.regs := rfl
@[simp] theorem emit_mem (s o) : (emit s o).mem = s.mem := rfl
@[simp] theorem emit_marks (s o) : (emit s o).marks = s.marks := rfl
@[simp] theorem emit_mbuf (s o) : (emit s o).mbuf = s.mbuf := rfl
@[simp] theorem emit_hostIn (s o) : (emit s o).hostIn = s.hostIn := rfl
@[simp] theorem emit_xings (s o) : (emit s o).xings = s.xings := rfl
@[simp] theorem emit_islands (s o) : (emit s o).islands = s.islands := rfl
@[simp] theorem emit_outst (s o) : (emit s o).outst = s.outst := rfl
@[simp] theorem emit_hostReads (s o) : (emit s o).hostReads = s.hostReads := rfl
@[simp] theorem emit_routers (s o) : (emit s o).routers = s.routers := rfl
@[simp] theorem emit_evq (s o) : (emit s o).evq = s.evq := rfl
@[simp] theorem emit_intake (s o) : (emit s o).intake = s.intake := rfl
@[simp] theorem emit_eccq (s o) : (emit s o).eccq = s.eccq := rfl
@[simp] theorem emit_tableFull (s o) : (emit s o).tableFull = s.tableFull := rfl
@[simp] theorem emit_scrub (s o) : (emit s o).scrub = s.scrub := rfl
@[simp] theorem emit_ddrGiB (s o) : (emit s o).ddrGiB = s.ddrGiB := rfl
@[simp] theorem emit_ddrDev (s o) : (emit s o).ddrDev = s.ddrDev := rfl
@[simp] theorem emit_cores (s o) : (emit s o).cores = s.cores := rfl
@[simp] theorem emit_cops (s o) : (emit s o).cops = s.cops := rfl
@[simp] theorem emit_clk (s o) : (emit s o).clk = s.clk := rfl
@[simp] theorem emit_inks (s o) : (emit s o).inks = s.inks := rfl
@[simp] theorem emit_heldOver (s o) : (emit s o).heldOver = s.heldOver := rfl
@[simp] theorem emit_engines (s o) : (emit s o).engines = s.engines := rfl
@[simp] theorem emit_jobRecs (s o) : (emit s o).jobRecs = s.jobRecs := rfl
@[simp] theorem emit_egress (s o) : (emit s o).egress = s.egress := rfl
@[simp] theorem emit_rings (s o) : (emit s o).rings = s.rings := rfl
@[simp] theorem emit_rrSlot (s o) : (emit s o).rrSlot = s.rrSlot := rfl
@[simp] theorem emit_pcieUp (s o) : (emit s o).pcieUp = s.pcieUp := rfl
@[simp] theorem emit_bme (s o) : (emit s o).bme = s.bme := rfl
@[simp] theorem emit_memEn (s o) : (emit s o).memEn = s.memEn := rfl
@[simp] theorem emit_pcieCtl (s o) : (emit s o).pcieCtl = s.pcieCtl := rfl
@[simp] theorem emit_msixEn (s o) : (emit s o).msixEn = s.msixEn := rfl
@[simp] theorem emit_msixMask (s o) : (emit s o).msixMask = s.msixMask := rfl
@[simp] theorem emit_msixTab (s o) : (emit s o).msixTab = s.msixTab := rfl
@[simp] theorem emit_msixPba (s o) : (emit s o).msixPba = s.msixPba := rfl
@[simp] theorem emit_msiOpen (s o) : (emit s o).msiOpen = s.msiOpen := rfl
@[simp] theorem emit_hostFail (s o) : (emit s o).hostFail = s.hostFail := rfl
@[simp] theorem emit_uartBusy (s o) : (emit s o).uartBusy = s.uartBusy := rfl
@[simp] theorem emit_settings (s o) : (emit s o).settings = s.settings := rfl
@[simp] theorem emit_gbuf (s o) : (emit s o).gbuf = s.gbuf := rfl
@[simp] theorem emit_gbNext (s o) : (emit s o).gbNext = s.gbNext := rfl
@[simp] theorem emit_gbLost (s o) : (emit s o).gbLost = s.gbLost := rfl
@[simp] theorem emit_gbLostFirst (s o) : (emit s o).gbLostFirst = s.gbLostFirst := rfl
@[simp] theorem emit_gbForced (s o) : (emit s o).gbForced = s.gbForced := rfl
@[simp] theorem emit_gbWanted (s o) : (emit s o).gbWanted = s.gbWanted := rfl
@[simp] theorem emit_gbWait (s o) : (emit s o).gbWait = s.gbWait := rfl
@[simp] theorem emit_gbRate (s o) : (emit s o).gbRate = s.gbRate := rfl
@[simp] theorem emit_nvWr (s o) : (emit s o).nvWr = s.nvWr := rfl
@[simp] theorem emit_utcSet (s o) : (emit s o).utcSet = s.utcSet := rfl
@[simp] theorem emit_chans (s o) : (emit s o).chans = s.chans := rfl
@[simp] theorem emit_mons (s o) : (emit s o).mons = s.mons := rfl
@[simp] theorem emit_strobes (s o) : (emit s o).strobes = s.strobes := rfl
@[simp] theorem emit_capEnd (s o) : (emit s o).capEnd = s.capEnd := rfl
@[simp] theorem emit_capLog (s o) : (emit s o).capLog = s.capLog := rfl
@[simp] theorem emit_capSeq (s o) : (emit s o).capSeq = s.capSeq := rfl
@[simp] theorem emit_ptp (s o) : (emit s o).ptp = s.ptp := rfl
@[simp] theorem emit_tune (s o) : (emit s o).tune = s.tune := rfl
@[simp] theorem emit_loopAt (s o) : (emit s o).loopAt = s.loopAt := rfl
@[simp] theorem emit_ppsHigh (s o) : (emit s o).ppsHigh = s.ppsHigh := rfl
@[simp] theorem emit_synce (s o) : (emit s o).synce = s.synce := rfl
@[simp] theorem emit_haltPend (s o) : (emit s o).haltPend = s.haltPend := rfl
@[simp] theorem emit_bootRecs (s o) : (emit s o).bootRecs = s.bootRecs := rfl
@[simp] theorem emit_keyRecs (s o) : (emit s o).keyRecs = s.keyRecs := rfl
@[simp] theorem emit_wearSaved (s o) : (emit s o).wearSaved = s.wearSaved := rfl
@[simp] theorem emit_wearAt (s o) : (emit s o).wearAt = s.wearAt := rfl
@[simp] theorem emit_retired (s o) : (emit s o).retired = s.retired := rfl
@[simp] theorem emit_update (s o) : (emit s o).update = s.update := rfl
@[simp] theorem emit_challenge (s o) : (emit s o).challenge = s.challenge := rfl
@[simp] theorem emit_measure (s o) : (emit s o).measure = s.measure := rfl
@[simp] theorem emit_levelMap (s o) : (emit s o).levelMap = s.levelMap := rfl
@[simp] theorem emit_rst (s o) : (emit s o).rst = s.rst := rfl
@[simp] theorem emit_domJob (s o) : (emit s o).domJob = s.domJob := rfl
@[simp] theorem emit_rstJobs (s o) : (emit s o).rstJobs = s.rstJobs := rfl
@[simp] theorem emit_sleep (s o) : (emit s o).sleep = s.sleep := rfl
@[simp] theorem emit_plJobs (s o) : (emit s o).plJobs = s.plJobs := rfl
@[simp] theorem emit_selfTest (s o) : (emit s o).selfTest = s.selfTest := rfl
@[simp] theorem emit_pchans (s o) : (emit s o).pchans = s.pchans := rfl
@[simp] theorem emit_relIn (s o) : (emit s o).relIn = s.relIn := rfl
@[simp] theorem emit_eth (s o) : (emit s o).eth = s.eth := rfl
@[simp] theorem emit_cps (s o) : (emit s o).cps = s.cps := rfl
@[simp] theorem emit_carriers (s o) : (emit s o).carriers = s.carriers := rfl
@[simp] theorem emit_uplane (s o) : (emit s o).uplane = s.uplane := rfl
@[simp] theorem emit_dels (s o) : (emit s o).dels = s.dels := rfl
@[simp] theorem emit_prbs (s o) : (emit s o).prbs = s.prbs := rfl
@[simp] theorem emit_modid (s o) : (emit s o).modid = s.modid := rfl
@[simp] theorem emit_testEn (s o) : (emit s o).testEn = s.testEn := rfl
@[simp] theorem emit_vddq (s o) : (emit s o).vddq = s.vddq := rfl
@[simp] theorem emit_wdtAt (s o) : (emit s o).wdtAt = s.wdtAt := rfl
@[simp] theorem emit_aonSec (s o) : (emit s o).aonSec = s.aonSec := rfl
@[simp] theorem emit_aonAlarm (s o) : (emit s o).aonAlarm = s.aonAlarm := rfl
@[simp] theorem emit_wakeDrv (s o) : (emit s o).wakeDrv = s.wakeDrv := rfl

@[simp] theorem setXing_pending (s k x) : (setXing s k x).pending = s.pending := rfl
@[simp] theorem setXing_cyc (s k x) : (setXing s k x).cyc = s.cyc := rfl
@[simp] theorem setXing_tkns (s k x) : (setXing s k x).tkns = s.tkns := rfl
@[simp] theorem setXing_ext (s k x) : (setXing s k x).ext = s.ext := rfl
@[simp] theorem setXing_free (s k x) : (setXing s k x).free = s.free := rfl
@[simp] theorem setXing_regs (s k x) : (setXing s k x).regs = s.regs := rfl
@[simp] theorem setXing_mem (s k x) : (setXing s k x).mem = s.mem := rfl
@[simp] theorem setXing_marks (s k x) : (setXing s k x).marks = s.marks := rfl
@[simp] theorem setXing_mbuf (s k x) : (setXing s k x).mbuf = s.mbuf := rfl
@[simp] theorem setXing_hostIn (s k x) : (setXing s k x).hostIn = s.hostIn := rfl
@[simp] theorem setXing_out (s k x) : (setXing s k x).out = s.out := rfl
@[simp] theorem setXing_islands (s k x) : (setXing s k x).islands = s.islands := rfl
@[simp] theorem setXing_outst (s k x) : (setXing s k x).outst = s.outst := rfl
@[simp] theorem setXing_hostReads (s k x) : (setXing s k x).hostReads = s.hostReads := rfl
@[simp] theorem setXing_routers (s k x) : (setXing s k x).routers = s.routers := rfl
@[simp] theorem setXing_evq (s k x) : (setXing s k x).evq = s.evq := rfl
@[simp] theorem setXing_intake (s k x) : (setXing s k x).intake = s.intake := rfl
@[simp] theorem setXing_eccq (s k x) : (setXing s k x).eccq = s.eccq := rfl
@[simp] theorem setXing_tableFull (s k x) : (setXing s k x).tableFull = s.tableFull := rfl
@[simp] theorem setXing_scrub (s k x) : (setXing s k x).scrub = s.scrub := rfl
@[simp] theorem setXing_ddrGiB (s k x) : (setXing s k x).ddrGiB = s.ddrGiB := rfl
@[simp] theorem setXing_ddrDev (s k x) : (setXing s k x).ddrDev = s.ddrDev := rfl
@[simp] theorem setXing_cores (s k x) : (setXing s k x).cores = s.cores := rfl
@[simp] theorem setXing_cops (s k x) : (setXing s k x).cops = s.cops := rfl
@[simp] theorem setXing_clk (s k x) : (setXing s k x).clk = s.clk := rfl
@[simp] theorem setXing_inks (s k x) : (setXing s k x).inks = s.inks := rfl
@[simp] theorem setXing_heldOver (s k x) : (setXing s k x).heldOver = s.heldOver := rfl
@[simp] theorem setXing_engines (s k x) : (setXing s k x).engines = s.engines := rfl
@[simp] theorem setXing_jobRecs (s k x) : (setXing s k x).jobRecs = s.jobRecs := rfl
@[simp] theorem setXing_egress (s k x) : (setXing s k x).egress = s.egress := rfl
@[simp] theorem setXing_rings (s k x) : (setXing s k x).rings = s.rings := rfl
@[simp] theorem setXing_rrSlot (s k x) : (setXing s k x).rrSlot = s.rrSlot := rfl
@[simp] theorem setXing_pcieUp (s k x) : (setXing s k x).pcieUp = s.pcieUp := rfl
@[simp] theorem setXing_bme (s k x) : (setXing s k x).bme = s.bme := rfl
@[simp] theorem setXing_memEn (s k x) : (setXing s k x).memEn = s.memEn := rfl
@[simp] theorem setXing_pcieCtl (s k x) : (setXing s k x).pcieCtl = s.pcieCtl := rfl
@[simp] theorem setXing_msixEn (s k x) : (setXing s k x).msixEn = s.msixEn := rfl
@[simp] theorem setXing_msixMask (s k x) : (setXing s k x).msixMask = s.msixMask := rfl
@[simp] theorem setXing_msixTab (s k x) : (setXing s k x).msixTab = s.msixTab := rfl
@[simp] theorem setXing_msixPba (s k x) : (setXing s k x).msixPba = s.msixPba := rfl
@[simp] theorem setXing_msiOpen (s k x) : (setXing s k x).msiOpen = s.msiOpen := rfl
@[simp] theorem setXing_hostFail (s k x) : (setXing s k x).hostFail = s.hostFail := rfl
@[simp] theorem setXing_uartBusy (s k x) : (setXing s k x).uartBusy = s.uartBusy := rfl
@[simp] theorem setXing_settings (s k x) : (setXing s k x).settings = s.settings := rfl
@[simp] theorem setXing_gbuf (s k x) : (setXing s k x).gbuf = s.gbuf := rfl
@[simp] theorem setXing_gbNext (s k x) : (setXing s k x).gbNext = s.gbNext := rfl
@[simp] theorem setXing_gbLost (s k x) : (setXing s k x).gbLost = s.gbLost := rfl
@[simp] theorem setXing_gbLostFirst (s k x) : (setXing s k x).gbLostFirst = s.gbLostFirst := rfl
@[simp] theorem setXing_gbForced (s k x) : (setXing s k x).gbForced = s.gbForced := rfl
@[simp] theorem setXing_gbWanted (s k x) : (setXing s k x).gbWanted = s.gbWanted := rfl
@[simp] theorem setXing_gbWait (s k x) : (setXing s k x).gbWait = s.gbWait := rfl
@[simp] theorem setXing_gbRate (s k x) : (setXing s k x).gbRate = s.gbRate := rfl
@[simp] theorem setXing_nvWr (s k x) : (setXing s k x).nvWr = s.nvWr := rfl
@[simp] theorem setXing_utcSet (s k x) : (setXing s k x).utcSet = s.utcSet := rfl
@[simp] theorem setXing_chans (s k x) : (setXing s k x).chans = s.chans := rfl
@[simp] theorem setXing_mons (s k x) : (setXing s k x).mons = s.mons := rfl
@[simp] theorem setXing_strobes (s k x) : (setXing s k x).strobes = s.strobes := rfl
@[simp] theorem setXing_capEnd (s k x) : (setXing s k x).capEnd = s.capEnd := rfl
@[simp] theorem setXing_capLog (s k x) : (setXing s k x).capLog = s.capLog := rfl
@[simp] theorem setXing_capSeq (s k x) : (setXing s k x).capSeq = s.capSeq := rfl
@[simp] theorem setXing_ptp (s k x) : (setXing s k x).ptp = s.ptp := rfl
@[simp] theorem setXing_tune (s k x) : (setXing s k x).tune = s.tune := rfl
@[simp] theorem setXing_loopAt (s k x) : (setXing s k x).loopAt = s.loopAt := rfl
@[simp] theorem setXing_ppsHigh (s k x) : (setXing s k x).ppsHigh = s.ppsHigh := rfl
@[simp] theorem setXing_synce (s k x) : (setXing s k x).synce = s.synce := rfl
@[simp] theorem setXing_haltPend (s k x) : (setXing s k x).haltPend = s.haltPend := rfl
@[simp] theorem setXing_bootRecs (s k x) : (setXing s k x).bootRecs = s.bootRecs := rfl
@[simp] theorem setXing_keyRecs (s k x) : (setXing s k x).keyRecs = s.keyRecs := rfl
@[simp] theorem setXing_wearSaved (s k x) : (setXing s k x).wearSaved = s.wearSaved := rfl
@[simp] theorem setXing_wearAt (s k x) : (setXing s k x).wearAt = s.wearAt := rfl
@[simp] theorem setXing_retired (s k x) : (setXing s k x).retired = s.retired := rfl
@[simp] theorem setXing_update (s k x) : (setXing s k x).update = s.update := rfl
@[simp] theorem setXing_challenge (s k x) : (setXing s k x).challenge = s.challenge := rfl
@[simp] theorem setXing_measure (s k x) : (setXing s k x).measure = s.measure := rfl
@[simp] theorem setXing_levelMap (s k x) : (setXing s k x).levelMap = s.levelMap := rfl
@[simp] theorem setXing_rst (s k x) : (setXing s k x).rst = s.rst := rfl
@[simp] theorem setXing_domJob (s k x) : (setXing s k x).domJob = s.domJob := rfl
@[simp] theorem setXing_rstJobs (s k x) : (setXing s k x).rstJobs = s.rstJobs := rfl
@[simp] theorem setXing_sleep (s k x) : (setXing s k x).sleep = s.sleep := rfl
@[simp] theorem setXing_plJobs (s k x) : (setXing s k x).plJobs = s.plJobs := rfl
@[simp] theorem setXing_selfTest (s k x) : (setXing s k x).selfTest = s.selfTest := rfl
@[simp] theorem setXing_pchans (s k x) : (setXing s k x).pchans = s.pchans := rfl
@[simp] theorem setXing_relIn (s k x) : (setXing s k x).relIn = s.relIn := rfl
@[simp] theorem setXing_eth (s k x) : (setXing s k x).eth = s.eth := rfl
@[simp] theorem setXing_cps (s k x) : (setXing s k x).cps = s.cps := rfl
@[simp] theorem setXing_carriers (s k x) : (setXing s k x).carriers = s.carriers := rfl
@[simp] theorem setXing_uplane (s k x) : (setXing s k x).uplane = s.uplane := rfl
@[simp] theorem setXing_dels (s k x) : (setXing s k x).dels = s.dels := rfl
@[simp] theorem setXing_prbs (s k x) : (setXing s k x).prbs = s.prbs := rfl
@[simp] theorem setXing_modid (s k x) : (setXing s k x).modid = s.modid := rfl
@[simp] theorem setXing_testEn (s k x) : (setXing s k x).testEn = s.testEn := rfl
@[simp] theorem setXing_vddq (s k x) : (setXing s k x).vddq = s.vddq := rfl
@[simp] theorem setXing_wdtAt (s k x) : (setXing s k x).wdtAt = s.wdtAt := rfl
@[simp] theorem setXing_aonSec (s k x) : (setXing s k x).aonSec = s.aonSec := rfl
@[simp] theorem setXing_aonAlarm (s k x) : (setXing s k x).aonAlarm = s.aonAlarm := rfl
@[simp] theorem setXing_wakeDrv (s k x) : (setXing s k x).wakeDrv = s.wakeDrv := rfl

@[simp] theorem setEvq_pending (s i q) : (setEvq s i q).pending = s.pending := rfl
@[simp] theorem setEvq_cyc (s i q) : (setEvq s i q).cyc = s.cyc := rfl
@[simp] theorem setEvq_tkns (s i q) : (setEvq s i q).tkns = s.tkns := rfl
@[simp] theorem setEvq_ext (s i q) : (setEvq s i q).ext = s.ext := rfl
@[simp] theorem setEvq_free (s i q) : (setEvq s i q).free = s.free := rfl
@[simp] theorem setEvq_regs (s i q) : (setEvq s i q).regs = s.regs := rfl
@[simp] theorem setEvq_mem (s i q) : (setEvq s i q).mem = s.mem := rfl
@[simp] theorem setEvq_marks (s i q) : (setEvq s i q).marks = s.marks := rfl
@[simp] theorem setEvq_mbuf (s i q) : (setEvq s i q).mbuf = s.mbuf := rfl
@[simp] theorem setEvq_hostIn (s i q) : (setEvq s i q).hostIn = s.hostIn := rfl
@[simp] theorem setEvq_out (s i q) : (setEvq s i q).out = s.out := rfl
@[simp] theorem setEvq_xings (s i q) : (setEvq s i q).xings = s.xings := rfl
@[simp] theorem setEvq_islands (s i q) : (setEvq s i q).islands = s.islands := rfl
@[simp] theorem setEvq_outst (s i q) : (setEvq s i q).outst = s.outst := rfl
@[simp] theorem setEvq_hostReads (s i q) : (setEvq s i q).hostReads = s.hostReads := rfl
@[simp] theorem setEvq_routers (s i q) : (setEvq s i q).routers = s.routers := rfl
@[simp] theorem setEvq_intake (s i q) : (setEvq s i q).intake = s.intake := rfl
@[simp] theorem setEvq_eccq (s i q) : (setEvq s i q).eccq = s.eccq := rfl
@[simp] theorem setEvq_tableFull (s i q) : (setEvq s i q).tableFull = s.tableFull := rfl
@[simp] theorem setEvq_scrub (s i q) : (setEvq s i q).scrub = s.scrub := rfl
@[simp] theorem setEvq_ddrGiB (s i q) : (setEvq s i q).ddrGiB = s.ddrGiB := rfl
@[simp] theorem setEvq_ddrDev (s i q) : (setEvq s i q).ddrDev = s.ddrDev := rfl
@[simp] theorem setEvq_cores (s i q) : (setEvq s i q).cores = s.cores := rfl
@[simp] theorem setEvq_cops (s i q) : (setEvq s i q).cops = s.cops := rfl
@[simp] theorem setEvq_clk (s i q) : (setEvq s i q).clk = s.clk := rfl
@[simp] theorem setEvq_inks (s i q) : (setEvq s i q).inks = s.inks := rfl
@[simp] theorem setEvq_heldOver (s i q) : (setEvq s i q).heldOver = s.heldOver := rfl
@[simp] theorem setEvq_engines (s i q) : (setEvq s i q).engines = s.engines := rfl
@[simp] theorem setEvq_jobRecs (s i q) : (setEvq s i q).jobRecs = s.jobRecs := rfl
@[simp] theorem setEvq_egress (s i q) : (setEvq s i q).egress = s.egress := rfl
@[simp] theorem setEvq_rings (s i q) : (setEvq s i q).rings = s.rings := rfl
@[simp] theorem setEvq_rrSlot (s i q) : (setEvq s i q).rrSlot = s.rrSlot := rfl
@[simp] theorem setEvq_pcieUp (s i q) : (setEvq s i q).pcieUp = s.pcieUp := rfl
@[simp] theorem setEvq_bme (s i q) : (setEvq s i q).bme = s.bme := rfl
@[simp] theorem setEvq_memEn (s i q) : (setEvq s i q).memEn = s.memEn := rfl
@[simp] theorem setEvq_pcieCtl (s i q) : (setEvq s i q).pcieCtl = s.pcieCtl := rfl
@[simp] theorem setEvq_msixEn (s i q) : (setEvq s i q).msixEn = s.msixEn := rfl
@[simp] theorem setEvq_msixMask (s i q) : (setEvq s i q).msixMask = s.msixMask := rfl
@[simp] theorem setEvq_msixTab (s i q) : (setEvq s i q).msixTab = s.msixTab := rfl
@[simp] theorem setEvq_msixPba (s i q) : (setEvq s i q).msixPba = s.msixPba := rfl
@[simp] theorem setEvq_msiOpen (s i q) : (setEvq s i q).msiOpen = s.msiOpen := rfl
@[simp] theorem setEvq_hostFail (s i q) : (setEvq s i q).hostFail = s.hostFail := rfl
@[simp] theorem setEvq_uartBusy (s i q) : (setEvq s i q).uartBusy = s.uartBusy := rfl
@[simp] theorem setEvq_settings (s i q) : (setEvq s i q).settings = s.settings := rfl
@[simp] theorem setEvq_gbuf (s i q) : (setEvq s i q).gbuf = s.gbuf := rfl
@[simp] theorem setEvq_gbNext (s i q) : (setEvq s i q).gbNext = s.gbNext := rfl
@[simp] theorem setEvq_gbLost (s i q) : (setEvq s i q).gbLost = s.gbLost := rfl
@[simp] theorem setEvq_gbLostFirst (s i q) : (setEvq s i q).gbLostFirst = s.gbLostFirst := rfl
@[simp] theorem setEvq_gbForced (s i q) : (setEvq s i q).gbForced = s.gbForced := rfl
@[simp] theorem setEvq_gbWanted (s i q) : (setEvq s i q).gbWanted = s.gbWanted := rfl
@[simp] theorem setEvq_gbWait (s i q) : (setEvq s i q).gbWait = s.gbWait := rfl
@[simp] theorem setEvq_gbRate (s i q) : (setEvq s i q).gbRate = s.gbRate := rfl
@[simp] theorem setEvq_nvWr (s i q) : (setEvq s i q).nvWr = s.nvWr := rfl
@[simp] theorem setEvq_utcSet (s i q) : (setEvq s i q).utcSet = s.utcSet := rfl
@[simp] theorem setEvq_chans (s i q) : (setEvq s i q).chans = s.chans := rfl
@[simp] theorem setEvq_mons (s i q) : (setEvq s i q).mons = s.mons := rfl
@[simp] theorem setEvq_strobes (s i q) : (setEvq s i q).strobes = s.strobes := rfl
@[simp] theorem setEvq_capEnd (s i q) : (setEvq s i q).capEnd = s.capEnd := rfl
@[simp] theorem setEvq_capLog (s i q) : (setEvq s i q).capLog = s.capLog := rfl
@[simp] theorem setEvq_capSeq (s i q) : (setEvq s i q).capSeq = s.capSeq := rfl
@[simp] theorem setEvq_ptp (s i q) : (setEvq s i q).ptp = s.ptp := rfl
@[simp] theorem setEvq_tune (s i q) : (setEvq s i q).tune = s.tune := rfl
@[simp] theorem setEvq_loopAt (s i q) : (setEvq s i q).loopAt = s.loopAt := rfl
@[simp] theorem setEvq_ppsHigh (s i q) : (setEvq s i q).ppsHigh = s.ppsHigh := rfl
@[simp] theorem setEvq_synce (s i q) : (setEvq s i q).synce = s.synce := rfl
@[simp] theorem setEvq_haltPend (s i q) : (setEvq s i q).haltPend = s.haltPend := rfl
@[simp] theorem setEvq_bootRecs (s i q) : (setEvq s i q).bootRecs = s.bootRecs := rfl
@[simp] theorem setEvq_keyRecs (s i q) : (setEvq s i q).keyRecs = s.keyRecs := rfl
@[simp] theorem setEvq_wearSaved (s i q) : (setEvq s i q).wearSaved = s.wearSaved := rfl
@[simp] theorem setEvq_wearAt (s i q) : (setEvq s i q).wearAt = s.wearAt := rfl
@[simp] theorem setEvq_retired (s i q) : (setEvq s i q).retired = s.retired := rfl
@[simp] theorem setEvq_update (s i q) : (setEvq s i q).update = s.update := rfl
@[simp] theorem setEvq_challenge (s i q) : (setEvq s i q).challenge = s.challenge := rfl
@[simp] theorem setEvq_measure (s i q) : (setEvq s i q).measure = s.measure := rfl
@[simp] theorem setEvq_levelMap (s i q) : (setEvq s i q).levelMap = s.levelMap := rfl
@[simp] theorem setEvq_rst (s i q) : (setEvq s i q).rst = s.rst := rfl
@[simp] theorem setEvq_domJob (s i q) : (setEvq s i q).domJob = s.domJob := rfl
@[simp] theorem setEvq_rstJobs (s i q) : (setEvq s i q).rstJobs = s.rstJobs := rfl
@[simp] theorem setEvq_sleep (s i q) : (setEvq s i q).sleep = s.sleep := rfl
@[simp] theorem setEvq_plJobs (s i q) : (setEvq s i q).plJobs = s.plJobs := rfl
@[simp] theorem setEvq_selfTest (s i q) : (setEvq s i q).selfTest = s.selfTest := rfl
@[simp] theorem setEvq_pchans (s i q) : (setEvq s i q).pchans = s.pchans := rfl
@[simp] theorem setEvq_relIn (s i q) : (setEvq s i q).relIn = s.relIn := rfl
@[simp] theorem setEvq_eth (s i q) : (setEvq s i q).eth = s.eth := rfl
@[simp] theorem setEvq_cps (s i q) : (setEvq s i q).cps = s.cps := rfl
@[simp] theorem setEvq_carriers (s i q) : (setEvq s i q).carriers = s.carriers := rfl
@[simp] theorem setEvq_uplane (s i q) : (setEvq s i q).uplane = s.uplane := rfl
@[simp] theorem setEvq_dels (s i q) : (setEvq s i q).dels = s.dels := rfl
@[simp] theorem setEvq_prbs (s i q) : (setEvq s i q).prbs = s.prbs := rfl
@[simp] theorem setEvq_modid (s i q) : (setEvq s i q).modid = s.modid := rfl
@[simp] theorem setEvq_testEn (s i q) : (setEvq s i q).testEn = s.testEn := rfl
@[simp] theorem setEvq_vddq (s i q) : (setEvq s i q).vddq = s.vddq := rfl
@[simp] theorem setEvq_wdtAt (s i q) : (setEvq s i q).wdtAt = s.wdtAt := rfl
@[simp] theorem setEvq_aonSec (s i q) : (setEvq s i q).aonSec = s.aonSec := rfl
@[simp] theorem setEvq_aonAlarm (s i q) : (setEvq s i q).aonAlarm = s.aonAlarm := rfl
@[simp] theorem setEvq_wakeDrv (s i q) : (setEvq s i q).wakeDrv = s.wakeDrv := rfl

@[simp] theorem setEccq_pending (s i q) : (setEccq s i q).pending = s.pending := rfl
@[simp] theorem setEccq_cyc (s i q) : (setEccq s i q).cyc = s.cyc := rfl
@[simp] theorem setEccq_tkns (s i q) : (setEccq s i q).tkns = s.tkns := rfl
@[simp] theorem setEccq_ext (s i q) : (setEccq s i q).ext = s.ext := rfl
@[simp] theorem setEccq_free (s i q) : (setEccq s i q).free = s.free := rfl
@[simp] theorem setEccq_regs (s i q) : (setEccq s i q).regs = s.regs := rfl
@[simp] theorem setEccq_mem (s i q) : (setEccq s i q).mem = s.mem := rfl
@[simp] theorem setEccq_marks (s i q) : (setEccq s i q).marks = s.marks := rfl
@[simp] theorem setEccq_mbuf (s i q) : (setEccq s i q).mbuf = s.mbuf := rfl
@[simp] theorem setEccq_hostIn (s i q) : (setEccq s i q).hostIn = s.hostIn := rfl
@[simp] theorem setEccq_out (s i q) : (setEccq s i q).out = s.out := rfl
@[simp] theorem setEccq_xings (s i q) : (setEccq s i q).xings = s.xings := rfl
@[simp] theorem setEccq_islands (s i q) : (setEccq s i q).islands = s.islands := rfl
@[simp] theorem setEccq_outst (s i q) : (setEccq s i q).outst = s.outst := rfl
@[simp] theorem setEccq_hostReads (s i q) : (setEccq s i q).hostReads = s.hostReads := rfl
@[simp] theorem setEccq_routers (s i q) : (setEccq s i q).routers = s.routers := rfl
@[simp] theorem setEccq_evq (s i q) : (setEccq s i q).evq = s.evq := rfl
@[simp] theorem setEccq_intake (s i q) : (setEccq s i q).intake = s.intake := rfl
@[simp] theorem setEccq_tableFull (s i q) : (setEccq s i q).tableFull = s.tableFull := rfl
@[simp] theorem setEccq_scrub (s i q) : (setEccq s i q).scrub = s.scrub := rfl
@[simp] theorem setEccq_ddrGiB (s i q) : (setEccq s i q).ddrGiB = s.ddrGiB := rfl
@[simp] theorem setEccq_ddrDev (s i q) : (setEccq s i q).ddrDev = s.ddrDev := rfl
@[simp] theorem setEccq_cores (s i q) : (setEccq s i q).cores = s.cores := rfl
@[simp] theorem setEccq_cops (s i q) : (setEccq s i q).cops = s.cops := rfl
@[simp] theorem setEccq_clk (s i q) : (setEccq s i q).clk = s.clk := rfl
@[simp] theorem setEccq_inks (s i q) : (setEccq s i q).inks = s.inks := rfl
@[simp] theorem setEccq_heldOver (s i q) : (setEccq s i q).heldOver = s.heldOver := rfl
@[simp] theorem setEccq_engines (s i q) : (setEccq s i q).engines = s.engines := rfl
@[simp] theorem setEccq_jobRecs (s i q) : (setEccq s i q).jobRecs = s.jobRecs := rfl
@[simp] theorem setEccq_egress (s i q) : (setEccq s i q).egress = s.egress := rfl
@[simp] theorem setEccq_rings (s i q) : (setEccq s i q).rings = s.rings := rfl
@[simp] theorem setEccq_rrSlot (s i q) : (setEccq s i q).rrSlot = s.rrSlot := rfl
@[simp] theorem setEccq_pcieUp (s i q) : (setEccq s i q).pcieUp = s.pcieUp := rfl
@[simp] theorem setEccq_bme (s i q) : (setEccq s i q).bme = s.bme := rfl
@[simp] theorem setEccq_memEn (s i q) : (setEccq s i q).memEn = s.memEn := rfl
@[simp] theorem setEccq_pcieCtl (s i q) : (setEccq s i q).pcieCtl = s.pcieCtl := rfl
@[simp] theorem setEccq_msixEn (s i q) : (setEccq s i q).msixEn = s.msixEn := rfl
@[simp] theorem setEccq_msixMask (s i q) : (setEccq s i q).msixMask = s.msixMask := rfl
@[simp] theorem setEccq_msixTab (s i q) : (setEccq s i q).msixTab = s.msixTab := rfl
@[simp] theorem setEccq_msixPba (s i q) : (setEccq s i q).msixPba = s.msixPba := rfl
@[simp] theorem setEccq_msiOpen (s i q) : (setEccq s i q).msiOpen = s.msiOpen := rfl
@[simp] theorem setEccq_hostFail (s i q) : (setEccq s i q).hostFail = s.hostFail := rfl
@[simp] theorem setEccq_uartBusy (s i q) : (setEccq s i q).uartBusy = s.uartBusy := rfl
@[simp] theorem setEccq_settings (s i q) : (setEccq s i q).settings = s.settings := rfl
@[simp] theorem setEccq_gbuf (s i q) : (setEccq s i q).gbuf = s.gbuf := rfl
@[simp] theorem setEccq_gbNext (s i q) : (setEccq s i q).gbNext = s.gbNext := rfl
@[simp] theorem setEccq_gbLost (s i q) : (setEccq s i q).gbLost = s.gbLost := rfl
@[simp] theorem setEccq_gbLostFirst (s i q) : (setEccq s i q).gbLostFirst = s.gbLostFirst := rfl
@[simp] theorem setEccq_gbForced (s i q) : (setEccq s i q).gbForced = s.gbForced := rfl
@[simp] theorem setEccq_gbWanted (s i q) : (setEccq s i q).gbWanted = s.gbWanted := rfl
@[simp] theorem setEccq_gbWait (s i q) : (setEccq s i q).gbWait = s.gbWait := rfl
@[simp] theorem setEccq_gbRate (s i q) : (setEccq s i q).gbRate = s.gbRate := rfl
@[simp] theorem setEccq_nvWr (s i q) : (setEccq s i q).nvWr = s.nvWr := rfl
@[simp] theorem setEccq_utcSet (s i q) : (setEccq s i q).utcSet = s.utcSet := rfl
@[simp] theorem setEccq_chans (s i q) : (setEccq s i q).chans = s.chans := rfl
@[simp] theorem setEccq_mons (s i q) : (setEccq s i q).mons = s.mons := rfl
@[simp] theorem setEccq_strobes (s i q) : (setEccq s i q).strobes = s.strobes := rfl
@[simp] theorem setEccq_capEnd (s i q) : (setEccq s i q).capEnd = s.capEnd := rfl
@[simp] theorem setEccq_capLog (s i q) : (setEccq s i q).capLog = s.capLog := rfl
@[simp] theorem setEccq_capSeq (s i q) : (setEccq s i q).capSeq = s.capSeq := rfl
@[simp] theorem setEccq_ptp (s i q) : (setEccq s i q).ptp = s.ptp := rfl
@[simp] theorem setEccq_tune (s i q) : (setEccq s i q).tune = s.tune := rfl
@[simp] theorem setEccq_loopAt (s i q) : (setEccq s i q).loopAt = s.loopAt := rfl
@[simp] theorem setEccq_ppsHigh (s i q) : (setEccq s i q).ppsHigh = s.ppsHigh := rfl
@[simp] theorem setEccq_synce (s i q) : (setEccq s i q).synce = s.synce := rfl
@[simp] theorem setEccq_haltPend (s i q) : (setEccq s i q).haltPend = s.haltPend := rfl
@[simp] theorem setEccq_bootRecs (s i q) : (setEccq s i q).bootRecs = s.bootRecs := rfl
@[simp] theorem setEccq_keyRecs (s i q) : (setEccq s i q).keyRecs = s.keyRecs := rfl
@[simp] theorem setEccq_wearSaved (s i q) : (setEccq s i q).wearSaved = s.wearSaved := rfl
@[simp] theorem setEccq_wearAt (s i q) : (setEccq s i q).wearAt = s.wearAt := rfl
@[simp] theorem setEccq_retired (s i q) : (setEccq s i q).retired = s.retired := rfl
@[simp] theorem setEccq_update (s i q) : (setEccq s i q).update = s.update := rfl
@[simp] theorem setEccq_challenge (s i q) : (setEccq s i q).challenge = s.challenge := rfl
@[simp] theorem setEccq_measure (s i q) : (setEccq s i q).measure = s.measure := rfl
@[simp] theorem setEccq_levelMap (s i q) : (setEccq s i q).levelMap = s.levelMap := rfl
@[simp] theorem setEccq_rst (s i q) : (setEccq s i q).rst = s.rst := rfl
@[simp] theorem setEccq_domJob (s i q) : (setEccq s i q).domJob = s.domJob := rfl
@[simp] theorem setEccq_rstJobs (s i q) : (setEccq s i q).rstJobs = s.rstJobs := rfl
@[simp] theorem setEccq_sleep (s i q) : (setEccq s i q).sleep = s.sleep := rfl
@[simp] theorem setEccq_plJobs (s i q) : (setEccq s i q).plJobs = s.plJobs := rfl
@[simp] theorem setEccq_selfTest (s i q) : (setEccq s i q).selfTest = s.selfTest := rfl
@[simp] theorem setEccq_pchans (s i q) : (setEccq s i q).pchans = s.pchans := rfl
@[simp] theorem setEccq_relIn (s i q) : (setEccq s i q).relIn = s.relIn := rfl
@[simp] theorem setEccq_eth (s i q) : (setEccq s i q).eth = s.eth := rfl
@[simp] theorem setEccq_cps (s i q) : (setEccq s i q).cps = s.cps := rfl
@[simp] theorem setEccq_carriers (s i q) : (setEccq s i q).carriers = s.carriers := rfl
@[simp] theorem setEccq_uplane (s i q) : (setEccq s i q).uplane = s.uplane := rfl
@[simp] theorem setEccq_dels (s i q) : (setEccq s i q).dels = s.dels := rfl
@[simp] theorem setEccq_prbs (s i q) : (setEccq s i q).prbs = s.prbs := rfl
@[simp] theorem setEccq_modid (s i q) : (setEccq s i q).modid = s.modid := rfl
@[simp] theorem setEccq_testEn (s i q) : (setEccq s i q).testEn = s.testEn := rfl
@[simp] theorem setEccq_vddq (s i q) : (setEccq s i q).vddq = s.vddq := rfl
@[simp] theorem setEccq_wdtAt (s i q) : (setEccq s i q).wdtAt = s.wdtAt := rfl
@[simp] theorem setEccq_aonSec (s i q) : (setEccq s i q).aonSec = s.aonSec := rfl
@[simp] theorem setEccq_aonAlarm (s i q) : (setEccq s i q).aonAlarm = s.aonAlarm := rfl
@[simp] theorem setEccq_wakeDrv (s i q) : (setEccq s i q).wakeDrv = s.wakeDrv := rfl

@[simp] theorem setMbuf_pending (s k e) : (setMbuf s k e).pending = s.pending := rfl
@[simp] theorem setMbuf_cyc (s k e) : (setMbuf s k e).cyc = s.cyc := rfl
@[simp] theorem setMbuf_tkns (s k e) : (setMbuf s k e).tkns = s.tkns := rfl
@[simp] theorem setMbuf_ext (s k e) : (setMbuf s k e).ext = s.ext := rfl
@[simp] theorem setMbuf_free (s k e) : (setMbuf s k e).free = s.free := rfl
@[simp] theorem setMbuf_regs (s k e) : (setMbuf s k e).regs = s.regs := rfl
@[simp] theorem setMbuf_mem (s k e) : (setMbuf s k e).mem = s.mem := rfl
@[simp] theorem setMbuf_marks (s k e) : (setMbuf s k e).marks = s.marks := rfl
@[simp] theorem setMbuf_hostIn (s k e) : (setMbuf s k e).hostIn = s.hostIn := rfl
@[simp] theorem setMbuf_out (s k e) : (setMbuf s k e).out = s.out := rfl
@[simp] theorem setMbuf_xings (s k e) : (setMbuf s k e).xings = s.xings := rfl
@[simp] theorem setMbuf_islands (s k e) : (setMbuf s k e).islands = s.islands := rfl
@[simp] theorem setMbuf_outst (s k e) : (setMbuf s k e).outst = s.outst := rfl
@[simp] theorem setMbuf_hostReads (s k e) : (setMbuf s k e).hostReads = s.hostReads := rfl
@[simp] theorem setMbuf_routers (s k e) : (setMbuf s k e).routers = s.routers := rfl
@[simp] theorem setMbuf_evq (s k e) : (setMbuf s k e).evq = s.evq := rfl
@[simp] theorem setMbuf_intake (s k e) : (setMbuf s k e).intake = s.intake := rfl
@[simp] theorem setMbuf_eccq (s k e) : (setMbuf s k e).eccq = s.eccq := rfl
@[simp] theorem setMbuf_tableFull (s k e) : (setMbuf s k e).tableFull = s.tableFull := rfl
@[simp] theorem setMbuf_scrub (s k e) : (setMbuf s k e).scrub = s.scrub := rfl
@[simp] theorem setMbuf_ddrGiB (s k e) : (setMbuf s k e).ddrGiB = s.ddrGiB := rfl
@[simp] theorem setMbuf_ddrDev (s k e) : (setMbuf s k e).ddrDev = s.ddrDev := rfl
@[simp] theorem setMbuf_cores (s k e) : (setMbuf s k e).cores = s.cores := rfl
@[simp] theorem setMbuf_cops (s k e) : (setMbuf s k e).cops = s.cops := rfl
@[simp] theorem setMbuf_clk (s k e) : (setMbuf s k e).clk = s.clk := rfl
@[simp] theorem setMbuf_inks (s k e) : (setMbuf s k e).inks = s.inks := rfl
@[simp] theorem setMbuf_heldOver (s k e) : (setMbuf s k e).heldOver = s.heldOver := rfl
@[simp] theorem setMbuf_engines (s k e) : (setMbuf s k e).engines = s.engines := rfl
@[simp] theorem setMbuf_jobRecs (s k e) : (setMbuf s k e).jobRecs = s.jobRecs := rfl
@[simp] theorem setMbuf_egress (s k e) : (setMbuf s k e).egress = s.egress := rfl
@[simp] theorem setMbuf_rings (s k e) : (setMbuf s k e).rings = s.rings := rfl
@[simp] theorem setMbuf_rrSlot (s k e) : (setMbuf s k e).rrSlot = s.rrSlot := rfl
@[simp] theorem setMbuf_pcieUp (s k e) : (setMbuf s k e).pcieUp = s.pcieUp := rfl
@[simp] theorem setMbuf_bme (s k e) : (setMbuf s k e).bme = s.bme := rfl
@[simp] theorem setMbuf_memEn (s k e) : (setMbuf s k e).memEn = s.memEn := rfl
@[simp] theorem setMbuf_pcieCtl (s k e) : (setMbuf s k e).pcieCtl = s.pcieCtl := rfl
@[simp] theorem setMbuf_msixEn (s k e) : (setMbuf s k e).msixEn = s.msixEn := rfl
@[simp] theorem setMbuf_msixMask (s k e) : (setMbuf s k e).msixMask = s.msixMask := rfl
@[simp] theorem setMbuf_msixTab (s k e) : (setMbuf s k e).msixTab = s.msixTab := rfl
@[simp] theorem setMbuf_msixPba (s k e) : (setMbuf s k e).msixPba = s.msixPba := rfl
@[simp] theorem setMbuf_msiOpen (s k e) : (setMbuf s k e).msiOpen = s.msiOpen := rfl
@[simp] theorem setMbuf_hostFail (s k e) : (setMbuf s k e).hostFail = s.hostFail := rfl
@[simp] theorem setMbuf_uartBusy (s k e) : (setMbuf s k e).uartBusy = s.uartBusy := rfl
@[simp] theorem setMbuf_settings (s k e) : (setMbuf s k e).settings = s.settings := rfl
@[simp] theorem setMbuf_gbuf (s k e) : (setMbuf s k e).gbuf = s.gbuf := rfl
@[simp] theorem setMbuf_gbNext (s k e) : (setMbuf s k e).gbNext = s.gbNext := rfl
@[simp] theorem setMbuf_gbLost (s k e) : (setMbuf s k e).gbLost = s.gbLost := rfl
@[simp] theorem setMbuf_gbLostFirst (s k e) : (setMbuf s k e).gbLostFirst = s.gbLostFirst := rfl
@[simp] theorem setMbuf_gbForced (s k e) : (setMbuf s k e).gbForced = s.gbForced := rfl
@[simp] theorem setMbuf_gbWanted (s k e) : (setMbuf s k e).gbWanted = s.gbWanted := rfl
@[simp] theorem setMbuf_gbWait (s k e) : (setMbuf s k e).gbWait = s.gbWait := rfl
@[simp] theorem setMbuf_gbRate (s k e) : (setMbuf s k e).gbRate = s.gbRate := rfl
@[simp] theorem setMbuf_nvWr (s k e) : (setMbuf s k e).nvWr = s.nvWr := rfl
@[simp] theorem setMbuf_utcSet (s k e) : (setMbuf s k e).utcSet = s.utcSet := rfl
@[simp] theorem setMbuf_chans (s k e) : (setMbuf s k e).chans = s.chans := rfl
@[simp] theorem setMbuf_mons (s k e) : (setMbuf s k e).mons = s.mons := rfl
@[simp] theorem setMbuf_strobes (s k e) : (setMbuf s k e).strobes = s.strobes := rfl
@[simp] theorem setMbuf_capEnd (s k e) : (setMbuf s k e).capEnd = s.capEnd := rfl
@[simp] theorem setMbuf_capLog (s k e) : (setMbuf s k e).capLog = s.capLog := rfl
@[simp] theorem setMbuf_capSeq (s k e) : (setMbuf s k e).capSeq = s.capSeq := rfl
@[simp] theorem setMbuf_ptp (s k e) : (setMbuf s k e).ptp = s.ptp := rfl
@[simp] theorem setMbuf_tune (s k e) : (setMbuf s k e).tune = s.tune := rfl
@[simp] theorem setMbuf_loopAt (s k e) : (setMbuf s k e).loopAt = s.loopAt := rfl
@[simp] theorem setMbuf_ppsHigh (s k e) : (setMbuf s k e).ppsHigh = s.ppsHigh := rfl
@[simp] theorem setMbuf_synce (s k e) : (setMbuf s k e).synce = s.synce := rfl
@[simp] theorem setMbuf_haltPend (s k e) : (setMbuf s k e).haltPend = s.haltPend := rfl
@[simp] theorem setMbuf_bootRecs (s k e) : (setMbuf s k e).bootRecs = s.bootRecs := rfl
@[simp] theorem setMbuf_keyRecs (s k e) : (setMbuf s k e).keyRecs = s.keyRecs := rfl
@[simp] theorem setMbuf_wearSaved (s k e) : (setMbuf s k e).wearSaved = s.wearSaved := rfl
@[simp] theorem setMbuf_wearAt (s k e) : (setMbuf s k e).wearAt = s.wearAt := rfl
@[simp] theorem setMbuf_retired (s k e) : (setMbuf s k e).retired = s.retired := rfl
@[simp] theorem setMbuf_update (s k e) : (setMbuf s k e).update = s.update := rfl
@[simp] theorem setMbuf_challenge (s k e) : (setMbuf s k e).challenge = s.challenge := rfl
@[simp] theorem setMbuf_measure (s k e) : (setMbuf s k e).measure = s.measure := rfl
@[simp] theorem setMbuf_levelMap (s k e) : (setMbuf s k e).levelMap = s.levelMap := rfl
@[simp] theorem setMbuf_rst (s k e) : (setMbuf s k e).rst = s.rst := rfl
@[simp] theorem setMbuf_domJob (s k e) : (setMbuf s k e).domJob = s.domJob := rfl
@[simp] theorem setMbuf_rstJobs (s k e) : (setMbuf s k e).rstJobs = s.rstJobs := rfl
@[simp] theorem setMbuf_sleep (s k e) : (setMbuf s k e).sleep = s.sleep := rfl
@[simp] theorem setMbuf_plJobs (s k e) : (setMbuf s k e).plJobs = s.plJobs := rfl
@[simp] theorem setMbuf_selfTest (s k e) : (setMbuf s k e).selfTest = s.selfTest := rfl
@[simp] theorem setMbuf_pchans (s k e) : (setMbuf s k e).pchans = s.pchans := rfl
@[simp] theorem setMbuf_relIn (s k e) : (setMbuf s k e).relIn = s.relIn := rfl
@[simp] theorem setMbuf_eth (s k e) : (setMbuf s k e).eth = s.eth := rfl
@[simp] theorem setMbuf_cps (s k e) : (setMbuf s k e).cps = s.cps := rfl
@[simp] theorem setMbuf_carriers (s k e) : (setMbuf s k e).carriers = s.carriers := rfl
@[simp] theorem setMbuf_uplane (s k e) : (setMbuf s k e).uplane = s.uplane := rfl
@[simp] theorem setMbuf_dels (s k e) : (setMbuf s k e).dels = s.dels := rfl
@[simp] theorem setMbuf_prbs (s k e) : (setMbuf s k e).prbs = s.prbs := rfl
@[simp] theorem setMbuf_modid (s k e) : (setMbuf s k e).modid = s.modid := rfl
@[simp] theorem setMbuf_testEn (s k e) : (setMbuf s k e).testEn = s.testEn := rfl
@[simp] theorem setMbuf_vddq (s k e) : (setMbuf s k e).vddq = s.vddq := rfl
@[simp] theorem setMbuf_wdtAt (s k e) : (setMbuf s k e).wdtAt = s.wdtAt := rfl
@[simp] theorem setMbuf_aonSec (s k e) : (setMbuf s k e).aonSec = s.aonSec := rfl
@[simp] theorem setMbuf_aonAlarm (s k e) : (setMbuf s k e).aonAlarm = s.aonAlarm := rfl
@[simp] theorem setMbuf_wakeDrv (s k e) : (setMbuf s k e).wakeDrv = s.wakeDrv := rfl

@[simp] theorem setCore_pending (s n c) : (setCore s n c).pending = s.pending := rfl
@[simp] theorem setCore_cyc (s n c) : (setCore s n c).cyc = s.cyc := rfl
@[simp] theorem setCore_tkns (s n c) : (setCore s n c).tkns = s.tkns := rfl
@[simp] theorem setCore_ext (s n c) : (setCore s n c).ext = s.ext := rfl
@[simp] theorem setCore_free (s n c) : (setCore s n c).free = s.free := rfl
@[simp] theorem setCore_regs (s n c) : (setCore s n c).regs = s.regs := rfl
@[simp] theorem setCore_mem (s n c) : (setCore s n c).mem = s.mem := rfl
@[simp] theorem setCore_marks (s n c) : (setCore s n c).marks = s.marks := rfl
@[simp] theorem setCore_mbuf (s n c) : (setCore s n c).mbuf = s.mbuf := rfl
@[simp] theorem setCore_hostIn (s n c) : (setCore s n c).hostIn = s.hostIn := rfl
@[simp] theorem setCore_out (s n c) : (setCore s n c).out = s.out := rfl
@[simp] theorem setCore_xings (s n c) : (setCore s n c).xings = s.xings := rfl
@[simp] theorem setCore_islands (s n c) : (setCore s n c).islands = s.islands := rfl
@[simp] theorem setCore_outst (s n c) : (setCore s n c).outst = s.outst := rfl
@[simp] theorem setCore_hostReads (s n c) : (setCore s n c).hostReads = s.hostReads := rfl
@[simp] theorem setCore_routers (s n c) : (setCore s n c).routers = s.routers := rfl
@[simp] theorem setCore_evq (s n c) : (setCore s n c).evq = s.evq := rfl
@[simp] theorem setCore_intake (s n c) : (setCore s n c).intake = s.intake := rfl
@[simp] theorem setCore_eccq (s n c) : (setCore s n c).eccq = s.eccq := rfl
@[simp] theorem setCore_tableFull (s n c) : (setCore s n c).tableFull = s.tableFull := rfl
@[simp] theorem setCore_scrub (s n c) : (setCore s n c).scrub = s.scrub := rfl
@[simp] theorem setCore_ddrGiB (s n c) : (setCore s n c).ddrGiB = s.ddrGiB := rfl
@[simp] theorem setCore_ddrDev (s n c) : (setCore s n c).ddrDev = s.ddrDev := rfl
@[simp] theorem setCore_cops (s n c) : (setCore s n c).cops = s.cops := rfl
@[simp] theorem setCore_clk (s n c) : (setCore s n c).clk = s.clk := rfl
@[simp] theorem setCore_inks (s n c) : (setCore s n c).inks = s.inks := rfl
@[simp] theorem setCore_heldOver (s n c) : (setCore s n c).heldOver = s.heldOver := rfl
@[simp] theorem setCore_engines (s n c) : (setCore s n c).engines = s.engines := rfl
@[simp] theorem setCore_jobRecs (s n c) : (setCore s n c).jobRecs = s.jobRecs := rfl
@[simp] theorem setCore_egress (s n c) : (setCore s n c).egress = s.egress := rfl
@[simp] theorem setCore_rings (s n c) : (setCore s n c).rings = s.rings := rfl
@[simp] theorem setCore_rrSlot (s n c) : (setCore s n c).rrSlot = s.rrSlot := rfl
@[simp] theorem setCore_pcieUp (s n c) : (setCore s n c).pcieUp = s.pcieUp := rfl
@[simp] theorem setCore_bme (s n c) : (setCore s n c).bme = s.bme := rfl
@[simp] theorem setCore_memEn (s n c) : (setCore s n c).memEn = s.memEn := rfl
@[simp] theorem setCore_pcieCtl (s n c) : (setCore s n c).pcieCtl = s.pcieCtl := rfl
@[simp] theorem setCore_msixEn (s n c) : (setCore s n c).msixEn = s.msixEn := rfl
@[simp] theorem setCore_msixMask (s n c) : (setCore s n c).msixMask = s.msixMask := rfl
@[simp] theorem setCore_msixTab (s n c) : (setCore s n c).msixTab = s.msixTab := rfl
@[simp] theorem setCore_msixPba (s n c) : (setCore s n c).msixPba = s.msixPba := rfl
@[simp] theorem setCore_msiOpen (s n c) : (setCore s n c).msiOpen = s.msiOpen := rfl
@[simp] theorem setCore_hostFail (s n c) : (setCore s n c).hostFail = s.hostFail := rfl
@[simp] theorem setCore_uartBusy (s n c) : (setCore s n c).uartBusy = s.uartBusy := rfl
@[simp] theorem setCore_settings (s n c) : (setCore s n c).settings = s.settings := rfl
@[simp] theorem setCore_gbuf (s n c) : (setCore s n c).gbuf = s.gbuf := rfl
@[simp] theorem setCore_gbNext (s n c) : (setCore s n c).gbNext = s.gbNext := rfl
@[simp] theorem setCore_gbLost (s n c) : (setCore s n c).gbLost = s.gbLost := rfl
@[simp] theorem setCore_gbLostFirst (s n c) : (setCore s n c).gbLostFirst = s.gbLostFirst := rfl
@[simp] theorem setCore_gbForced (s n c) : (setCore s n c).gbForced = s.gbForced := rfl
@[simp] theorem setCore_gbWanted (s n c) : (setCore s n c).gbWanted = s.gbWanted := rfl
@[simp] theorem setCore_gbWait (s n c) : (setCore s n c).gbWait = s.gbWait := rfl
@[simp] theorem setCore_gbRate (s n c) : (setCore s n c).gbRate = s.gbRate := rfl
@[simp] theorem setCore_nvWr (s n c) : (setCore s n c).nvWr = s.nvWr := rfl
@[simp] theorem setCore_utcSet (s n c) : (setCore s n c).utcSet = s.utcSet := rfl
@[simp] theorem setCore_chans (s n c) : (setCore s n c).chans = s.chans := rfl
@[simp] theorem setCore_mons (s n c) : (setCore s n c).mons = s.mons := rfl
@[simp] theorem setCore_strobes (s n c) : (setCore s n c).strobes = s.strobes := rfl
@[simp] theorem setCore_capEnd (s n c) : (setCore s n c).capEnd = s.capEnd := rfl
@[simp] theorem setCore_capLog (s n c) : (setCore s n c).capLog = s.capLog := rfl
@[simp] theorem setCore_capSeq (s n c) : (setCore s n c).capSeq = s.capSeq := rfl
@[simp] theorem setCore_ptp (s n c) : (setCore s n c).ptp = s.ptp := rfl
@[simp] theorem setCore_tune (s n c) : (setCore s n c).tune = s.tune := rfl
@[simp] theorem setCore_loopAt (s n c) : (setCore s n c).loopAt = s.loopAt := rfl
@[simp] theorem setCore_ppsHigh (s n c) : (setCore s n c).ppsHigh = s.ppsHigh := rfl
@[simp] theorem setCore_synce (s n c) : (setCore s n c).synce = s.synce := rfl
@[simp] theorem setCore_haltPend (s n c) : (setCore s n c).haltPend = s.haltPend := rfl
@[simp] theorem setCore_bootRecs (s n c) : (setCore s n c).bootRecs = s.bootRecs := rfl
@[simp] theorem setCore_keyRecs (s n c) : (setCore s n c).keyRecs = s.keyRecs := rfl
@[simp] theorem setCore_wearSaved (s n c) : (setCore s n c).wearSaved = s.wearSaved := rfl
@[simp] theorem setCore_wearAt (s n c) : (setCore s n c).wearAt = s.wearAt := rfl
@[simp] theorem setCore_retired (s n c) : (setCore s n c).retired = s.retired := rfl
@[simp] theorem setCore_update (s n c) : (setCore s n c).update = s.update := rfl
@[simp] theorem setCore_challenge (s n c) : (setCore s n c).challenge = s.challenge := rfl
@[simp] theorem setCore_measure (s n c) : (setCore s n c).measure = s.measure := rfl
@[simp] theorem setCore_levelMap (s n c) : (setCore s n c).levelMap = s.levelMap := rfl
@[simp] theorem setCore_rst (s n c) : (setCore s n c).rst = s.rst := rfl
@[simp] theorem setCore_domJob (s n c) : (setCore s n c).domJob = s.domJob := rfl
@[simp] theorem setCore_rstJobs (s n c) : (setCore s n c).rstJobs = s.rstJobs := rfl
@[simp] theorem setCore_sleep (s n c) : (setCore s n c).sleep = s.sleep := rfl
@[simp] theorem setCore_plJobs (s n c) : (setCore s n c).plJobs = s.plJobs := rfl
@[simp] theorem setCore_selfTest (s n c) : (setCore s n c).selfTest = s.selfTest := rfl
@[simp] theorem setCore_pchans (s n c) : (setCore s n c).pchans = s.pchans := rfl
@[simp] theorem setCore_relIn (s n c) : (setCore s n c).relIn = s.relIn := rfl
@[simp] theorem setCore_eth (s n c) : (setCore s n c).eth = s.eth := rfl
@[simp] theorem setCore_cps (s n c) : (setCore s n c).cps = s.cps := rfl
@[simp] theorem setCore_carriers (s n c) : (setCore s n c).carriers = s.carriers := rfl
@[simp] theorem setCore_uplane (s n c) : (setCore s n c).uplane = s.uplane := rfl
@[simp] theorem setCore_dels (s n c) : (setCore s n c).dels = s.dels := rfl
@[simp] theorem setCore_prbs (s n c) : (setCore s n c).prbs = s.prbs := rfl
@[simp] theorem setCore_modid (s n c) : (setCore s n c).modid = s.modid := rfl
@[simp] theorem setCore_testEn (s n c) : (setCore s n c).testEn = s.testEn := rfl
@[simp] theorem setCore_vddq (s n c) : (setCore s n c).vddq = s.vddq := rfl
@[simp] theorem setCore_wdtAt (s n c) : (setCore s n c).wdtAt = s.wdtAt := rfl
@[simp] theorem setCore_aonSec (s n c) : (setCore s n c).aonSec = s.aonSec := rfl
@[simp] theorem setCore_aonAlarm (s n c) : (setCore s n c).aonAlarm = s.aonAlarm := rfl
@[simp] theorem setCore_wakeDrv (s n c) : (setCore s n c).wakeDrv = s.wakeDrv := rfl

@[simp] theorem setInk_pending (s r k) : (setInk s r k).pending = s.pending := rfl
@[simp] theorem setInk_cyc (s r k) : (setInk s r k).cyc = s.cyc := rfl
@[simp] theorem setInk_tkns (s r k) : (setInk s r k).tkns = s.tkns := rfl
@[simp] theorem setInk_ext (s r k) : (setInk s r k).ext = s.ext := rfl
@[simp] theorem setInk_free (s r k) : (setInk s r k).free = s.free := rfl
@[simp] theorem setInk_regs (s r k) : (setInk s r k).regs = s.regs := rfl
@[simp] theorem setInk_mem (s r k) : (setInk s r k).mem = s.mem := rfl
@[simp] theorem setInk_marks (s r k) : (setInk s r k).marks = s.marks := rfl
@[simp] theorem setInk_mbuf (s r k) : (setInk s r k).mbuf = s.mbuf := rfl
@[simp] theorem setInk_hostIn (s r k) : (setInk s r k).hostIn = s.hostIn := rfl
@[simp] theorem setInk_out (s r k) : (setInk s r k).out = s.out := rfl
@[simp] theorem setInk_xings (s r k) : (setInk s r k).xings = s.xings := rfl
@[simp] theorem setInk_islands (s r k) : (setInk s r k).islands = s.islands := rfl
@[simp] theorem setInk_outst (s r k) : (setInk s r k).outst = s.outst := rfl
@[simp] theorem setInk_hostReads (s r k) : (setInk s r k).hostReads = s.hostReads := rfl
@[simp] theorem setInk_routers (s r k) : (setInk s r k).routers = s.routers := rfl
@[simp] theorem setInk_evq (s r k) : (setInk s r k).evq = s.evq := rfl
@[simp] theorem setInk_intake (s r k) : (setInk s r k).intake = s.intake := rfl
@[simp] theorem setInk_eccq (s r k) : (setInk s r k).eccq = s.eccq := rfl
@[simp] theorem setInk_tableFull (s r k) : (setInk s r k).tableFull = s.tableFull := rfl
@[simp] theorem setInk_scrub (s r k) : (setInk s r k).scrub = s.scrub := rfl
@[simp] theorem setInk_ddrGiB (s r k) : (setInk s r k).ddrGiB = s.ddrGiB := rfl
@[simp] theorem setInk_ddrDev (s r k) : (setInk s r k).ddrDev = s.ddrDev := rfl
@[simp] theorem setInk_cores (s r k) : (setInk s r k).cores = s.cores := rfl
@[simp] theorem setInk_cops (s r k) : (setInk s r k).cops = s.cops := rfl
@[simp] theorem setInk_clk (s r k) : (setInk s r k).clk = s.clk := rfl
@[simp] theorem setInk_heldOver (s r k) : (setInk s r k).heldOver = s.heldOver := rfl
@[simp] theorem setInk_engines (s r k) : (setInk s r k).engines = s.engines := rfl
@[simp] theorem setInk_jobRecs (s r k) : (setInk s r k).jobRecs = s.jobRecs := rfl
@[simp] theorem setInk_egress (s r k) : (setInk s r k).egress = s.egress := rfl
@[simp] theorem setInk_rings (s r k) : (setInk s r k).rings = s.rings := rfl
@[simp] theorem setInk_rrSlot (s r k) : (setInk s r k).rrSlot = s.rrSlot := rfl
@[simp] theorem setInk_pcieUp (s r k) : (setInk s r k).pcieUp = s.pcieUp := rfl
@[simp] theorem setInk_bme (s r k) : (setInk s r k).bme = s.bme := rfl
@[simp] theorem setInk_memEn (s r k) : (setInk s r k).memEn = s.memEn := rfl
@[simp] theorem setInk_pcieCtl (s r k) : (setInk s r k).pcieCtl = s.pcieCtl := rfl
@[simp] theorem setInk_msixEn (s r k) : (setInk s r k).msixEn = s.msixEn := rfl
@[simp] theorem setInk_msixMask (s r k) : (setInk s r k).msixMask = s.msixMask := rfl
@[simp] theorem setInk_msixTab (s r k) : (setInk s r k).msixTab = s.msixTab := rfl
@[simp] theorem setInk_msixPba (s r k) : (setInk s r k).msixPba = s.msixPba := rfl
@[simp] theorem setInk_msiOpen (s r k) : (setInk s r k).msiOpen = s.msiOpen := rfl
@[simp] theorem setInk_hostFail (s r k) : (setInk s r k).hostFail = s.hostFail := rfl
@[simp] theorem setInk_uartBusy (s r k) : (setInk s r k).uartBusy = s.uartBusy := rfl
@[simp] theorem setInk_settings (s r k) : (setInk s r k).settings = s.settings := rfl
@[simp] theorem setInk_gbuf (s r k) : (setInk s r k).gbuf = s.gbuf := rfl
@[simp] theorem setInk_gbNext (s r k) : (setInk s r k).gbNext = s.gbNext := rfl
@[simp] theorem setInk_gbLost (s r k) : (setInk s r k).gbLost = s.gbLost := rfl
@[simp] theorem setInk_gbLostFirst (s r k) : (setInk s r k).gbLostFirst = s.gbLostFirst := rfl
@[simp] theorem setInk_gbForced (s r k) : (setInk s r k).gbForced = s.gbForced := rfl
@[simp] theorem setInk_gbWanted (s r k) : (setInk s r k).gbWanted = s.gbWanted := rfl
@[simp] theorem setInk_gbWait (s r k) : (setInk s r k).gbWait = s.gbWait := rfl
@[simp] theorem setInk_gbRate (s r k) : (setInk s r k).gbRate = s.gbRate := rfl
@[simp] theorem setInk_nvWr (s r k) : (setInk s r k).nvWr = s.nvWr := rfl
@[simp] theorem setInk_utcSet (s r k) : (setInk s r k).utcSet = s.utcSet := rfl
@[simp] theorem setInk_chans (s r k) : (setInk s r k).chans = s.chans := rfl
@[simp] theorem setInk_mons (s r k) : (setInk s r k).mons = s.mons := rfl
@[simp] theorem setInk_strobes (s r k) : (setInk s r k).strobes = s.strobes := rfl
@[simp] theorem setInk_capEnd (s r k) : (setInk s r k).capEnd = s.capEnd := rfl
@[simp] theorem setInk_capLog (s r k) : (setInk s r k).capLog = s.capLog := rfl
@[simp] theorem setInk_capSeq (s r k) : (setInk s r k).capSeq = s.capSeq := rfl
@[simp] theorem setInk_ptp (s r k) : (setInk s r k).ptp = s.ptp := rfl
@[simp] theorem setInk_tune (s r k) : (setInk s r k).tune = s.tune := rfl
@[simp] theorem setInk_loopAt (s r k) : (setInk s r k).loopAt = s.loopAt := rfl
@[simp] theorem setInk_ppsHigh (s r k) : (setInk s r k).ppsHigh = s.ppsHigh := rfl
@[simp] theorem setInk_synce (s r k) : (setInk s r k).synce = s.synce := rfl
@[simp] theorem setInk_haltPend (s r k) : (setInk s r k).haltPend = s.haltPend := rfl
@[simp] theorem setInk_bootRecs (s r k) : (setInk s r k).bootRecs = s.bootRecs := rfl
@[simp] theorem setInk_keyRecs (s r k) : (setInk s r k).keyRecs = s.keyRecs := rfl
@[simp] theorem setInk_wearSaved (s r k) : (setInk s r k).wearSaved = s.wearSaved := rfl
@[simp] theorem setInk_wearAt (s r k) : (setInk s r k).wearAt = s.wearAt := rfl
@[simp] theorem setInk_retired (s r k) : (setInk s r k).retired = s.retired := rfl
@[simp] theorem setInk_update (s r k) : (setInk s r k).update = s.update := rfl
@[simp] theorem setInk_challenge (s r k) : (setInk s r k).challenge = s.challenge := rfl
@[simp] theorem setInk_measure (s r k) : (setInk s r k).measure = s.measure := rfl
@[simp] theorem setInk_levelMap (s r k) : (setInk s r k).levelMap = s.levelMap := rfl
@[simp] theorem setInk_rst (s r k) : (setInk s r k).rst = s.rst := rfl
@[simp] theorem setInk_domJob (s r k) : (setInk s r k).domJob = s.domJob := rfl
@[simp] theorem setInk_rstJobs (s r k) : (setInk s r k).rstJobs = s.rstJobs := rfl
@[simp] theorem setInk_sleep (s r k) : (setInk s r k).sleep = s.sleep := rfl
@[simp] theorem setInk_plJobs (s r k) : (setInk s r k).plJobs = s.plJobs := rfl
@[simp] theorem setInk_selfTest (s r k) : (setInk s r k).selfTest = s.selfTest := rfl
@[simp] theorem setInk_pchans (s r k) : (setInk s r k).pchans = s.pchans := rfl
@[simp] theorem setInk_relIn (s r k) : (setInk s r k).relIn = s.relIn := rfl
@[simp] theorem setInk_eth (s r k) : (setInk s r k).eth = s.eth := rfl
@[simp] theorem setInk_cps (s r k) : (setInk s r k).cps = s.cps := rfl
@[simp] theorem setInk_carriers (s r k) : (setInk s r k).carriers = s.carriers := rfl
@[simp] theorem setInk_uplane (s r k) : (setInk s r k).uplane = s.uplane := rfl
@[simp] theorem setInk_dels (s r k) : (setInk s r k).dels = s.dels := rfl
@[simp] theorem setInk_prbs (s r k) : (setInk s r k).prbs = s.prbs := rfl
@[simp] theorem setInk_modid (s r k) : (setInk s r k).modid = s.modid := rfl
@[simp] theorem setInk_testEn (s r k) : (setInk s r k).testEn = s.testEn := rfl
@[simp] theorem setInk_vddq (s r k) : (setInk s r k).vddq = s.vddq := rfl
@[simp] theorem setInk_wdtAt (s r k) : (setInk s r k).wdtAt = s.wdtAt := rfl
@[simp] theorem setInk_aonSec (s r k) : (setInk s r k).aonSec = s.aonSec := rfl
@[simp] theorem setInk_aonAlarm (s r k) : (setInk s r k).aonAlarm = s.aonAlarm := rfl
@[simp] theorem setInk_wakeDrv (s r k) : (setInk s r k).wakeDrv = s.wakeDrv := rfl

@[simp] theorem setEngine_pending (s r e g) : (setEngine s r e g).pending = s.pending := rfl
@[simp] theorem setEngine_cyc (s r e g) : (setEngine s r e g).cyc = s.cyc := rfl
@[simp] theorem setEngine_tkns (s r e g) : (setEngine s r e g).tkns = s.tkns := rfl
@[simp] theorem setEngine_ext (s r e g) : (setEngine s r e g).ext = s.ext := rfl
@[simp] theorem setEngine_free (s r e g) : (setEngine s r e g).free = s.free := rfl
@[simp] theorem setEngine_regs (s r e g) : (setEngine s r e g).regs = s.regs := rfl
@[simp] theorem setEngine_mem (s r e g) : (setEngine s r e g).mem = s.mem := rfl
@[simp] theorem setEngine_marks (s r e g) : (setEngine s r e g).marks = s.marks := rfl
@[simp] theorem setEngine_mbuf (s r e g) : (setEngine s r e g).mbuf = s.mbuf := rfl
@[simp] theorem setEngine_hostIn (s r e g) : (setEngine s r e g).hostIn = s.hostIn := rfl
@[simp] theorem setEngine_out (s r e g) : (setEngine s r e g).out = s.out := rfl
@[simp] theorem setEngine_xings (s r e g) : (setEngine s r e g).xings = s.xings := rfl
@[simp] theorem setEngine_islands (s r e g) : (setEngine s r e g).islands = s.islands := rfl
@[simp] theorem setEngine_outst (s r e g) : (setEngine s r e g).outst = s.outst := rfl
@[simp] theorem setEngine_hostReads (s r e g) : (setEngine s r e g).hostReads = s.hostReads := rfl
@[simp] theorem setEngine_routers (s r e g) : (setEngine s r e g).routers = s.routers := rfl
@[simp] theorem setEngine_evq (s r e g) : (setEngine s r e g).evq = s.evq := rfl
@[simp] theorem setEngine_intake (s r e g) : (setEngine s r e g).intake = s.intake := rfl
@[simp] theorem setEngine_eccq (s r e g) : (setEngine s r e g).eccq = s.eccq := rfl
@[simp] theorem setEngine_tableFull (s r e g) : (setEngine s r e g).tableFull = s.tableFull := rfl
@[simp] theorem setEngine_scrub (s r e g) : (setEngine s r e g).scrub = s.scrub := rfl
@[simp] theorem setEngine_ddrGiB (s r e g) : (setEngine s r e g).ddrGiB = s.ddrGiB := rfl
@[simp] theorem setEngine_ddrDev (s r e g) : (setEngine s r e g).ddrDev = s.ddrDev := rfl
@[simp] theorem setEngine_cores (s r e g) : (setEngine s r e g).cores = s.cores := rfl
@[simp] theorem setEngine_cops (s r e g) : (setEngine s r e g).cops = s.cops := rfl
@[simp] theorem setEngine_clk (s r e g) : (setEngine s r e g).clk = s.clk := rfl
@[simp] theorem setEngine_inks (s r e g) : (setEngine s r e g).inks = s.inks := rfl
@[simp] theorem setEngine_heldOver (s r e g) : (setEngine s r e g).heldOver = s.heldOver := rfl
@[simp] theorem setEngine_jobRecs (s r e g) : (setEngine s r e g).jobRecs = s.jobRecs := rfl
@[simp] theorem setEngine_egress (s r e g) : (setEngine s r e g).egress = s.egress := rfl
@[simp] theorem setEngine_rings (s r e g) : (setEngine s r e g).rings = s.rings := rfl
@[simp] theorem setEngine_rrSlot (s r e g) : (setEngine s r e g).rrSlot = s.rrSlot := rfl
@[simp] theorem setEngine_pcieUp (s r e g) : (setEngine s r e g).pcieUp = s.pcieUp := rfl
@[simp] theorem setEngine_bme (s r e g) : (setEngine s r e g).bme = s.bme := rfl
@[simp] theorem setEngine_memEn (s r e g) : (setEngine s r e g).memEn = s.memEn := rfl
@[simp] theorem setEngine_pcieCtl (s r e g) : (setEngine s r e g).pcieCtl = s.pcieCtl := rfl
@[simp] theorem setEngine_msixEn (s r e g) : (setEngine s r e g).msixEn = s.msixEn := rfl
@[simp] theorem setEngine_msixMask (s r e g) : (setEngine s r e g).msixMask = s.msixMask := rfl
@[simp] theorem setEngine_msixTab (s r e g) : (setEngine s r e g).msixTab = s.msixTab := rfl
@[simp] theorem setEngine_msixPba (s r e g) : (setEngine s r e g).msixPba = s.msixPba := rfl
@[simp] theorem setEngine_msiOpen (s r e g) : (setEngine s r e g).msiOpen = s.msiOpen := rfl
@[simp] theorem setEngine_hostFail (s r e g) : (setEngine s r e g).hostFail = s.hostFail := rfl
@[simp] theorem setEngine_uartBusy (s r e g) : (setEngine s r e g).uartBusy = s.uartBusy := rfl
@[simp] theorem setEngine_settings (s r e g) : (setEngine s r e g).settings = s.settings := rfl
@[simp] theorem setEngine_gbuf (s r e g) : (setEngine s r e g).gbuf = s.gbuf := rfl
@[simp] theorem setEngine_gbNext (s r e g) : (setEngine s r e g).gbNext = s.gbNext := rfl
@[simp] theorem setEngine_gbLost (s r e g) : (setEngine s r e g).gbLost = s.gbLost := rfl
@[simp] theorem setEngine_gbLostFirst (s r e g) : (setEngine s r e g).gbLostFirst = s.gbLostFirst := rfl
@[simp] theorem setEngine_gbForced (s r e g) : (setEngine s r e g).gbForced = s.gbForced := rfl
@[simp] theorem setEngine_gbWanted (s r e g) : (setEngine s r e g).gbWanted = s.gbWanted := rfl
@[simp] theorem setEngine_gbWait (s r e g) : (setEngine s r e g).gbWait = s.gbWait := rfl
@[simp] theorem setEngine_gbRate (s r e g) : (setEngine s r e g).gbRate = s.gbRate := rfl
@[simp] theorem setEngine_nvWr (s r e g) : (setEngine s r e g).nvWr = s.nvWr := rfl
@[simp] theorem setEngine_utcSet (s r e g) : (setEngine s r e g).utcSet = s.utcSet := rfl
@[simp] theorem setEngine_chans (s r e g) : (setEngine s r e g).chans = s.chans := rfl
@[simp] theorem setEngine_mons (s r e g) : (setEngine s r e g).mons = s.mons := rfl
@[simp] theorem setEngine_strobes (s r e g) : (setEngine s r e g).strobes = s.strobes := rfl
@[simp] theorem setEngine_capEnd (s r e g) : (setEngine s r e g).capEnd = s.capEnd := rfl
@[simp] theorem setEngine_capLog (s r e g) : (setEngine s r e g).capLog = s.capLog := rfl
@[simp] theorem setEngine_capSeq (s r e g) : (setEngine s r e g).capSeq = s.capSeq := rfl
@[simp] theorem setEngine_ptp (s r e g) : (setEngine s r e g).ptp = s.ptp := rfl
@[simp] theorem setEngine_tune (s r e g) : (setEngine s r e g).tune = s.tune := rfl
@[simp] theorem setEngine_loopAt (s r e g) : (setEngine s r e g).loopAt = s.loopAt := rfl
@[simp] theorem setEngine_ppsHigh (s r e g) : (setEngine s r e g).ppsHigh = s.ppsHigh := rfl
@[simp] theorem setEngine_synce (s r e g) : (setEngine s r e g).synce = s.synce := rfl
@[simp] theorem setEngine_haltPend (s r e g) : (setEngine s r e g).haltPend = s.haltPend := rfl
@[simp] theorem setEngine_bootRecs (s r e g) : (setEngine s r e g).bootRecs = s.bootRecs := rfl
@[simp] theorem setEngine_keyRecs (s r e g) : (setEngine s r e g).keyRecs = s.keyRecs := rfl
@[simp] theorem setEngine_wearSaved (s r e g) : (setEngine s r e g).wearSaved = s.wearSaved := rfl
@[simp] theorem setEngine_wearAt (s r e g) : (setEngine s r e g).wearAt = s.wearAt := rfl
@[simp] theorem setEngine_retired (s r e g) : (setEngine s r e g).retired = s.retired := rfl
@[simp] theorem setEngine_update (s r e g) : (setEngine s r e g).update = s.update := rfl
@[simp] theorem setEngine_challenge (s r e g) : (setEngine s r e g).challenge = s.challenge := rfl
@[simp] theorem setEngine_measure (s r e g) : (setEngine s r e g).measure = s.measure := rfl
@[simp] theorem setEngine_levelMap (s r e g) : (setEngine s r e g).levelMap = s.levelMap := rfl
@[simp] theorem setEngine_rst (s r e g) : (setEngine s r e g).rst = s.rst := rfl
@[simp] theorem setEngine_domJob (s r e g) : (setEngine s r e g).domJob = s.domJob := rfl
@[simp] theorem setEngine_rstJobs (s r e g) : (setEngine s r e g).rstJobs = s.rstJobs := rfl
@[simp] theorem setEngine_sleep (s r e g) : (setEngine s r e g).sleep = s.sleep := rfl
@[simp] theorem setEngine_plJobs (s r e g) : (setEngine s r e g).plJobs = s.plJobs := rfl
@[simp] theorem setEngine_selfTest (s r e g) : (setEngine s r e g).selfTest = s.selfTest := rfl
@[simp] theorem setEngine_pchans (s r e g) : (setEngine s r e g).pchans = s.pchans := rfl
@[simp] theorem setEngine_relIn (s r e g) : (setEngine s r e g).relIn = s.relIn := rfl
@[simp] theorem setEngine_eth (s r e g) : (setEngine s r e g).eth = s.eth := rfl
@[simp] theorem setEngine_cps (s r e g) : (setEngine s r e g).cps = s.cps := rfl
@[simp] theorem setEngine_carriers (s r e g) : (setEngine s r e g).carriers = s.carriers := rfl
@[simp] theorem setEngine_uplane (s r e g) : (setEngine s r e g).uplane = s.uplane := rfl
@[simp] theorem setEngine_dels (s r e g) : (setEngine s r e g).dels = s.dels := rfl
@[simp] theorem setEngine_prbs (s r e g) : (setEngine s r e g).prbs = s.prbs := rfl
@[simp] theorem setEngine_modid (s r e g) : (setEngine s r e g).modid = s.modid := rfl
@[simp] theorem setEngine_testEn (s r e g) : (setEngine s r e g).testEn = s.testEn := rfl
@[simp] theorem setEngine_vddq (s r e g) : (setEngine s r e g).vddq = s.vddq := rfl
@[simp] theorem setEngine_wdtAt (s r e g) : (setEngine s r e g).wdtAt = s.wdtAt := rfl
@[simp] theorem setEngine_aonSec (s r e g) : (setEngine s r e g).aonSec = s.aonSec := rfl
@[simp] theorem setEngine_aonAlarm (s r e g) : (setEngine s r e g).aonAlarm = s.aonAlarm := rfl
@[simp] theorem setEngine_wakeDrv (s r e g) : (setEngine s r e g).wakeDrv = s.wakeDrv := rfl

@[simp] theorem setRing_pending (s n r) : (setRing s n r).pending = s.pending := rfl
@[simp] theorem setRing_cyc (s n r) : (setRing s n r).cyc = s.cyc := rfl
@[simp] theorem setRing_tkns (s n r) : (setRing s n r).tkns = s.tkns := rfl
@[simp] theorem setRing_ext (s n r) : (setRing s n r).ext = s.ext := rfl
@[simp] theorem setRing_free (s n r) : (setRing s n r).free = s.free := rfl
@[simp] theorem setRing_regs (s n r) : (setRing s n r).regs = s.regs := rfl
@[simp] theorem setRing_mem (s n r) : (setRing s n r).mem = s.mem := rfl
@[simp] theorem setRing_marks (s n r) : (setRing s n r).marks = s.marks := rfl
@[simp] theorem setRing_mbuf (s n r) : (setRing s n r).mbuf = s.mbuf := rfl
@[simp] theorem setRing_hostIn (s n r) : (setRing s n r).hostIn = s.hostIn := rfl
@[simp] theorem setRing_out (s n r) : (setRing s n r).out = s.out := rfl
@[simp] theorem setRing_xings (s n r) : (setRing s n r).xings = s.xings := rfl
@[simp] theorem setRing_islands (s n r) : (setRing s n r).islands = s.islands := rfl
@[simp] theorem setRing_outst (s n r) : (setRing s n r).outst = s.outst := rfl
@[simp] theorem setRing_hostReads (s n r) : (setRing s n r).hostReads = s.hostReads := rfl
@[simp] theorem setRing_routers (s n r) : (setRing s n r).routers = s.routers := rfl
@[simp] theorem setRing_evq (s n r) : (setRing s n r).evq = s.evq := rfl
@[simp] theorem setRing_intake (s n r) : (setRing s n r).intake = s.intake := rfl
@[simp] theorem setRing_eccq (s n r) : (setRing s n r).eccq = s.eccq := rfl
@[simp] theorem setRing_tableFull (s n r) : (setRing s n r).tableFull = s.tableFull := rfl
@[simp] theorem setRing_scrub (s n r) : (setRing s n r).scrub = s.scrub := rfl
@[simp] theorem setRing_ddrGiB (s n r) : (setRing s n r).ddrGiB = s.ddrGiB := rfl
@[simp] theorem setRing_ddrDev (s n r) : (setRing s n r).ddrDev = s.ddrDev := rfl
@[simp] theorem setRing_cores (s n r) : (setRing s n r).cores = s.cores := rfl
@[simp] theorem setRing_cops (s n r) : (setRing s n r).cops = s.cops := rfl
@[simp] theorem setRing_clk (s n r) : (setRing s n r).clk = s.clk := rfl
@[simp] theorem setRing_inks (s n r) : (setRing s n r).inks = s.inks := rfl
@[simp] theorem setRing_heldOver (s n r) : (setRing s n r).heldOver = s.heldOver := rfl
@[simp] theorem setRing_engines (s n r) : (setRing s n r).engines = s.engines := rfl
@[simp] theorem setRing_jobRecs (s n r) : (setRing s n r).jobRecs = s.jobRecs := rfl
@[simp] theorem setRing_egress (s n r) : (setRing s n r).egress = s.egress := rfl
@[simp] theorem setRing_rrSlot (s n r) : (setRing s n r).rrSlot = s.rrSlot := rfl
@[simp] theorem setRing_pcieUp (s n r) : (setRing s n r).pcieUp = s.pcieUp := rfl
@[simp] theorem setRing_bme (s n r) : (setRing s n r).bme = s.bme := rfl
@[simp] theorem setRing_memEn (s n r) : (setRing s n r).memEn = s.memEn := rfl
@[simp] theorem setRing_pcieCtl (s n r) : (setRing s n r).pcieCtl = s.pcieCtl := rfl
@[simp] theorem setRing_msixEn (s n r) : (setRing s n r).msixEn = s.msixEn := rfl
@[simp] theorem setRing_msixMask (s n r) : (setRing s n r).msixMask = s.msixMask := rfl
@[simp] theorem setRing_msixTab (s n r) : (setRing s n r).msixTab = s.msixTab := rfl
@[simp] theorem setRing_msixPba (s n r) : (setRing s n r).msixPba = s.msixPba := rfl
@[simp] theorem setRing_msiOpen (s n r) : (setRing s n r).msiOpen = s.msiOpen := rfl
@[simp] theorem setRing_hostFail (s n r) : (setRing s n r).hostFail = s.hostFail := rfl
@[simp] theorem setRing_uartBusy (s n r) : (setRing s n r).uartBusy = s.uartBusy := rfl
@[simp] theorem setRing_settings (s n r) : (setRing s n r).settings = s.settings := rfl
@[simp] theorem setRing_gbuf (s n r) : (setRing s n r).gbuf = s.gbuf := rfl
@[simp] theorem setRing_gbNext (s n r) : (setRing s n r).gbNext = s.gbNext := rfl
@[simp] theorem setRing_gbLost (s n r) : (setRing s n r).gbLost = s.gbLost := rfl
@[simp] theorem setRing_gbLostFirst (s n r) : (setRing s n r).gbLostFirst = s.gbLostFirst := rfl
@[simp] theorem setRing_gbForced (s n r) : (setRing s n r).gbForced = s.gbForced := rfl
@[simp] theorem setRing_gbWanted (s n r) : (setRing s n r).gbWanted = s.gbWanted := rfl
@[simp] theorem setRing_gbWait (s n r) : (setRing s n r).gbWait = s.gbWait := rfl
@[simp] theorem setRing_gbRate (s n r) : (setRing s n r).gbRate = s.gbRate := rfl
@[simp] theorem setRing_nvWr (s n r) : (setRing s n r).nvWr = s.nvWr := rfl
@[simp] theorem setRing_utcSet (s n r) : (setRing s n r).utcSet = s.utcSet := rfl
@[simp] theorem setRing_chans (s n r) : (setRing s n r).chans = s.chans := rfl
@[simp] theorem setRing_mons (s n r) : (setRing s n r).mons = s.mons := rfl
@[simp] theorem setRing_strobes (s n r) : (setRing s n r).strobes = s.strobes := rfl
@[simp] theorem setRing_capEnd (s n r) : (setRing s n r).capEnd = s.capEnd := rfl
@[simp] theorem setRing_capLog (s n r) : (setRing s n r).capLog = s.capLog := rfl
@[simp] theorem setRing_capSeq (s n r) : (setRing s n r).capSeq = s.capSeq := rfl
@[simp] theorem setRing_ptp (s n r) : (setRing s n r).ptp = s.ptp := rfl
@[simp] theorem setRing_tune (s n r) : (setRing s n r).tune = s.tune := rfl
@[simp] theorem setRing_loopAt (s n r) : (setRing s n r).loopAt = s.loopAt := rfl
@[simp] theorem setRing_ppsHigh (s n r) : (setRing s n r).ppsHigh = s.ppsHigh := rfl
@[simp] theorem setRing_synce (s n r) : (setRing s n r).synce = s.synce := rfl
@[simp] theorem setRing_haltPend (s n r) : (setRing s n r).haltPend = s.haltPend := rfl
@[simp] theorem setRing_bootRecs (s n r) : (setRing s n r).bootRecs = s.bootRecs := rfl
@[simp] theorem setRing_keyRecs (s n r) : (setRing s n r).keyRecs = s.keyRecs := rfl
@[simp] theorem setRing_wearSaved (s n r) : (setRing s n r).wearSaved = s.wearSaved := rfl
@[simp] theorem setRing_wearAt (s n r) : (setRing s n r).wearAt = s.wearAt := rfl
@[simp] theorem setRing_retired (s n r) : (setRing s n r).retired = s.retired := rfl
@[simp] theorem setRing_update (s n r) : (setRing s n r).update = s.update := rfl
@[simp] theorem setRing_challenge (s n r) : (setRing s n r).challenge = s.challenge := rfl
@[simp] theorem setRing_measure (s n r) : (setRing s n r).measure = s.measure := rfl
@[simp] theorem setRing_levelMap (s n r) : (setRing s n r).levelMap = s.levelMap := rfl
@[simp] theorem setRing_rst (s n r) : (setRing s n r).rst = s.rst := rfl
@[simp] theorem setRing_domJob (s n r) : (setRing s n r).domJob = s.domJob := rfl
@[simp] theorem setRing_rstJobs (s n r) : (setRing s n r).rstJobs = s.rstJobs := rfl
@[simp] theorem setRing_sleep (s n r) : (setRing s n r).sleep = s.sleep := rfl
@[simp] theorem setRing_plJobs (s n r) : (setRing s n r).plJobs = s.plJobs := rfl
@[simp] theorem setRing_selfTest (s n r) : (setRing s n r).selfTest = s.selfTest := rfl
@[simp] theorem setRing_pchans (s n r) : (setRing s n r).pchans = s.pchans := rfl
@[simp] theorem setRing_relIn (s n r) : (setRing s n r).relIn = s.relIn := rfl
@[simp] theorem setRing_eth (s n r) : (setRing s n r).eth = s.eth := rfl
@[simp] theorem setRing_cps (s n r) : (setRing s n r).cps = s.cps := rfl
@[simp] theorem setRing_carriers (s n r) : (setRing s n r).carriers = s.carriers := rfl
@[simp] theorem setRing_uplane (s n r) : (setRing s n r).uplane = s.uplane := rfl
@[simp] theorem setRing_dels (s n r) : (setRing s n r).dels = s.dels := rfl
@[simp] theorem setRing_prbs (s n r) : (setRing s n r).prbs = s.prbs := rfl
@[simp] theorem setRing_modid (s n r) : (setRing s n r).modid = s.modid := rfl
@[simp] theorem setRing_testEn (s n r) : (setRing s n r).testEn = s.testEn := rfl
@[simp] theorem setRing_vddq (s n r) : (setRing s n r).vddq = s.vddq := rfl
@[simp] theorem setRing_wdtAt (s n r) : (setRing s n r).wdtAt = s.wdtAt := rfl
@[simp] theorem setRing_aonSec (s n r) : (setRing s n r).aonSec = s.aonSec := rfl
@[simp] theorem setRing_aonAlarm (s n r) : (setRing s n r).aonAlarm = s.aonAlarm := rfl
@[simp] theorem setRing_wakeDrv (s n r) : (setRing s n r).wakeDrv = s.wakeDrv := rfl

@[simp] theorem setEth_pending (s p e) : (setEth s p e).pending = s.pending := rfl
@[simp] theorem setEth_cyc (s p e) : (setEth s p e).cyc = s.cyc := rfl
@[simp] theorem setEth_tkns (s p e) : (setEth s p e).tkns = s.tkns := rfl
@[simp] theorem setEth_ext (s p e) : (setEth s p e).ext = s.ext := rfl
@[simp] theorem setEth_free (s p e) : (setEth s p e).free = s.free := rfl
@[simp] theorem setEth_regs (s p e) : (setEth s p e).regs = s.regs := rfl
@[simp] theorem setEth_mem (s p e) : (setEth s p e).mem = s.mem := rfl
@[simp] theorem setEth_marks (s p e) : (setEth s p e).marks = s.marks := rfl
@[simp] theorem setEth_mbuf (s p e) : (setEth s p e).mbuf = s.mbuf := rfl
@[simp] theorem setEth_hostIn (s p e) : (setEth s p e).hostIn = s.hostIn := rfl
@[simp] theorem setEth_out (s p e) : (setEth s p e).out = s.out := rfl
@[simp] theorem setEth_xings (s p e) : (setEth s p e).xings = s.xings := rfl
@[simp] theorem setEth_islands (s p e) : (setEth s p e).islands = s.islands := rfl
@[simp] theorem setEth_outst (s p e) : (setEth s p e).outst = s.outst := rfl
@[simp] theorem setEth_hostReads (s p e) : (setEth s p e).hostReads = s.hostReads := rfl
@[simp] theorem setEth_routers (s p e) : (setEth s p e).routers = s.routers := rfl
@[simp] theorem setEth_evq (s p e) : (setEth s p e).evq = s.evq := rfl
@[simp] theorem setEth_intake (s p e) : (setEth s p e).intake = s.intake := rfl
@[simp] theorem setEth_eccq (s p e) : (setEth s p e).eccq = s.eccq := rfl
@[simp] theorem setEth_tableFull (s p e) : (setEth s p e).tableFull = s.tableFull := rfl
@[simp] theorem setEth_scrub (s p e) : (setEth s p e).scrub = s.scrub := rfl
@[simp] theorem setEth_ddrGiB (s p e) : (setEth s p e).ddrGiB = s.ddrGiB := rfl
@[simp] theorem setEth_ddrDev (s p e) : (setEth s p e).ddrDev = s.ddrDev := rfl
@[simp] theorem setEth_cores (s p e) : (setEth s p e).cores = s.cores := rfl
@[simp] theorem setEth_cops (s p e) : (setEth s p e).cops = s.cops := rfl
@[simp] theorem setEth_clk (s p e) : (setEth s p e).clk = s.clk := rfl
@[simp] theorem setEth_inks (s p e) : (setEth s p e).inks = s.inks := rfl
@[simp] theorem setEth_heldOver (s p e) : (setEth s p e).heldOver = s.heldOver := rfl
@[simp] theorem setEth_engines (s p e) : (setEth s p e).engines = s.engines := rfl
@[simp] theorem setEth_jobRecs (s p e) : (setEth s p e).jobRecs = s.jobRecs := rfl
@[simp] theorem setEth_egress (s p e) : (setEth s p e).egress = s.egress := rfl
@[simp] theorem setEth_rings (s p e) : (setEth s p e).rings = s.rings := rfl
@[simp] theorem setEth_rrSlot (s p e) : (setEth s p e).rrSlot = s.rrSlot := rfl
@[simp] theorem setEth_pcieUp (s p e) : (setEth s p e).pcieUp = s.pcieUp := rfl
@[simp] theorem setEth_bme (s p e) : (setEth s p e).bme = s.bme := rfl
@[simp] theorem setEth_memEn (s p e) : (setEth s p e).memEn = s.memEn := rfl
@[simp] theorem setEth_pcieCtl (s p e) : (setEth s p e).pcieCtl = s.pcieCtl := rfl
@[simp] theorem setEth_msixEn (s p e) : (setEth s p e).msixEn = s.msixEn := rfl
@[simp] theorem setEth_msixMask (s p e) : (setEth s p e).msixMask = s.msixMask := rfl
@[simp] theorem setEth_msixTab (s p e) : (setEth s p e).msixTab = s.msixTab := rfl
@[simp] theorem setEth_msixPba (s p e) : (setEth s p e).msixPba = s.msixPba := rfl
@[simp] theorem setEth_msiOpen (s p e) : (setEth s p e).msiOpen = s.msiOpen := rfl
@[simp] theorem setEth_hostFail (s p e) : (setEth s p e).hostFail = s.hostFail := rfl
@[simp] theorem setEth_uartBusy (s p e) : (setEth s p e).uartBusy = s.uartBusy := rfl
@[simp] theorem setEth_settings (s p e) : (setEth s p e).settings = s.settings := rfl
@[simp] theorem setEth_gbuf (s p e) : (setEth s p e).gbuf = s.gbuf := rfl
@[simp] theorem setEth_gbNext (s p e) : (setEth s p e).gbNext = s.gbNext := rfl
@[simp] theorem setEth_gbLost (s p e) : (setEth s p e).gbLost = s.gbLost := rfl
@[simp] theorem setEth_gbLostFirst (s p e) : (setEth s p e).gbLostFirst = s.gbLostFirst := rfl
@[simp] theorem setEth_gbForced (s p e) : (setEth s p e).gbForced = s.gbForced := rfl
@[simp] theorem setEth_gbWanted (s p e) : (setEth s p e).gbWanted = s.gbWanted := rfl
@[simp] theorem setEth_gbWait (s p e) : (setEth s p e).gbWait = s.gbWait := rfl
@[simp] theorem setEth_gbRate (s p e) : (setEth s p e).gbRate = s.gbRate := rfl
@[simp] theorem setEth_nvWr (s p e) : (setEth s p e).nvWr = s.nvWr := rfl
@[simp] theorem setEth_utcSet (s p e) : (setEth s p e).utcSet = s.utcSet := rfl
@[simp] theorem setEth_chans (s p e) : (setEth s p e).chans = s.chans := rfl
@[simp] theorem setEth_mons (s p e) : (setEth s p e).mons = s.mons := rfl
@[simp] theorem setEth_strobes (s p e) : (setEth s p e).strobes = s.strobes := rfl
@[simp] theorem setEth_capEnd (s p e) : (setEth s p e).capEnd = s.capEnd := rfl
@[simp] theorem setEth_capLog (s p e) : (setEth s p e).capLog = s.capLog := rfl
@[simp] theorem setEth_capSeq (s p e) : (setEth s p e).capSeq = s.capSeq := rfl
@[simp] theorem setEth_ptp (s p e) : (setEth s p e).ptp = s.ptp := rfl
@[simp] theorem setEth_tune (s p e) : (setEth s p e).tune = s.tune := rfl
@[simp] theorem setEth_loopAt (s p e) : (setEth s p e).loopAt = s.loopAt := rfl
@[simp] theorem setEth_ppsHigh (s p e) : (setEth s p e).ppsHigh = s.ppsHigh := rfl
@[simp] theorem setEth_synce (s p e) : (setEth s p e).synce = s.synce := rfl
@[simp] theorem setEth_haltPend (s p e) : (setEth s p e).haltPend = s.haltPend := rfl
@[simp] theorem setEth_bootRecs (s p e) : (setEth s p e).bootRecs = s.bootRecs := rfl
@[simp] theorem setEth_keyRecs (s p e) : (setEth s p e).keyRecs = s.keyRecs := rfl
@[simp] theorem setEth_wearSaved (s p e) : (setEth s p e).wearSaved = s.wearSaved := rfl
@[simp] theorem setEth_wearAt (s p e) : (setEth s p e).wearAt = s.wearAt := rfl
@[simp] theorem setEth_retired (s p e) : (setEth s p e).retired = s.retired := rfl
@[simp] theorem setEth_update (s p e) : (setEth s p e).update = s.update := rfl
@[simp] theorem setEth_challenge (s p e) : (setEth s p e).challenge = s.challenge := rfl
@[simp] theorem setEth_measure (s p e) : (setEth s p e).measure = s.measure := rfl
@[simp] theorem setEth_levelMap (s p e) : (setEth s p e).levelMap = s.levelMap := rfl
@[simp] theorem setEth_rst (s p e) : (setEth s p e).rst = s.rst := rfl
@[simp] theorem setEth_domJob (s p e) : (setEth s p e).domJob = s.domJob := rfl
@[simp] theorem setEth_rstJobs (s p e) : (setEth s p e).rstJobs = s.rstJobs := rfl
@[simp] theorem setEth_sleep (s p e) : (setEth s p e).sleep = s.sleep := rfl
@[simp] theorem setEth_plJobs (s p e) : (setEth s p e).plJobs = s.plJobs := rfl
@[simp] theorem setEth_selfTest (s p e) : (setEth s p e).selfTest = s.selfTest := rfl
@[simp] theorem setEth_pchans (s p e) : (setEth s p e).pchans = s.pchans := rfl
@[simp] theorem setEth_relIn (s p e) : (setEth s p e).relIn = s.relIn := rfl
@[simp] theorem setEth_cps (s p e) : (setEth s p e).cps = s.cps := rfl
@[simp] theorem setEth_carriers (s p e) : (setEth s p e).carriers = s.carriers := rfl
@[simp] theorem setEth_uplane (s p e) : (setEth s p e).uplane = s.uplane := rfl
@[simp] theorem setEth_dels (s p e) : (setEth s p e).dels = s.dels := rfl
@[simp] theorem setEth_prbs (s p e) : (setEth s p e).prbs = s.prbs := rfl
@[simp] theorem setEth_modid (s p e) : (setEth s p e).modid = s.modid := rfl
@[simp] theorem setEth_testEn (s p e) : (setEth s p e).testEn = s.testEn := rfl
@[simp] theorem setEth_vddq (s p e) : (setEth s p e).vddq = s.vddq := rfl
@[simp] theorem setEth_wdtAt (s p e) : (setEth s p e).wdtAt = s.wdtAt := rfl
@[simp] theorem setEth_aonSec (s p e) : (setEth s p e).aonSec = s.aonSec := rfl
@[simp] theorem setEth_aonAlarm (s p e) : (setEth s p e).aonAlarm = s.aonAlarm := rfl
@[simp] theorem setEth_wakeDrv (s p e) : (setEth s p e).wakeDrv = s.wakeDrv := rfl

@[simp] theorem setCp_pending (s p c) : (setCp s p c).pending = s.pending := rfl
@[simp] theorem setCp_cyc (s p c) : (setCp s p c).cyc = s.cyc := rfl
@[simp] theorem setCp_tkns (s p c) : (setCp s p c).tkns = s.tkns := rfl
@[simp] theorem setCp_ext (s p c) : (setCp s p c).ext = s.ext := rfl
@[simp] theorem setCp_free (s p c) : (setCp s p c).free = s.free := rfl
@[simp] theorem setCp_regs (s p c) : (setCp s p c).regs = s.regs := rfl
@[simp] theorem setCp_mem (s p c) : (setCp s p c).mem = s.mem := rfl
@[simp] theorem setCp_marks (s p c) : (setCp s p c).marks = s.marks := rfl
@[simp] theorem setCp_mbuf (s p c) : (setCp s p c).mbuf = s.mbuf := rfl
@[simp] theorem setCp_hostIn (s p c) : (setCp s p c).hostIn = s.hostIn := rfl
@[simp] theorem setCp_out (s p c) : (setCp s p c).out = s.out := rfl
@[simp] theorem setCp_xings (s p c) : (setCp s p c).xings = s.xings := rfl
@[simp] theorem setCp_islands (s p c) : (setCp s p c).islands = s.islands := rfl
@[simp] theorem setCp_outst (s p c) : (setCp s p c).outst = s.outst := rfl
@[simp] theorem setCp_hostReads (s p c) : (setCp s p c).hostReads = s.hostReads := rfl
@[simp] theorem setCp_routers (s p c) : (setCp s p c).routers = s.routers := rfl
@[simp] theorem setCp_evq (s p c) : (setCp s p c).evq = s.evq := rfl
@[simp] theorem setCp_intake (s p c) : (setCp s p c).intake = s.intake := rfl
@[simp] theorem setCp_eccq (s p c) : (setCp s p c).eccq = s.eccq := rfl
@[simp] theorem setCp_tableFull (s p c) : (setCp s p c).tableFull = s.tableFull := rfl
@[simp] theorem setCp_scrub (s p c) : (setCp s p c).scrub = s.scrub := rfl
@[simp] theorem setCp_ddrGiB (s p c) : (setCp s p c).ddrGiB = s.ddrGiB := rfl
@[simp] theorem setCp_ddrDev (s p c) : (setCp s p c).ddrDev = s.ddrDev := rfl
@[simp] theorem setCp_cores (s p c) : (setCp s p c).cores = s.cores := rfl
@[simp] theorem setCp_cops (s p c) : (setCp s p c).cops = s.cops := rfl
@[simp] theorem setCp_clk (s p c) : (setCp s p c).clk = s.clk := rfl
@[simp] theorem setCp_inks (s p c) : (setCp s p c).inks = s.inks := rfl
@[simp] theorem setCp_heldOver (s p c) : (setCp s p c).heldOver = s.heldOver := rfl
@[simp] theorem setCp_engines (s p c) : (setCp s p c).engines = s.engines := rfl
@[simp] theorem setCp_jobRecs (s p c) : (setCp s p c).jobRecs = s.jobRecs := rfl
@[simp] theorem setCp_egress (s p c) : (setCp s p c).egress = s.egress := rfl
@[simp] theorem setCp_rings (s p c) : (setCp s p c).rings = s.rings := rfl
@[simp] theorem setCp_rrSlot (s p c) : (setCp s p c).rrSlot = s.rrSlot := rfl
@[simp] theorem setCp_pcieUp (s p c) : (setCp s p c).pcieUp = s.pcieUp := rfl
@[simp] theorem setCp_bme (s p c) : (setCp s p c).bme = s.bme := rfl
@[simp] theorem setCp_memEn (s p c) : (setCp s p c).memEn = s.memEn := rfl
@[simp] theorem setCp_pcieCtl (s p c) : (setCp s p c).pcieCtl = s.pcieCtl := rfl
@[simp] theorem setCp_msixEn (s p c) : (setCp s p c).msixEn = s.msixEn := rfl
@[simp] theorem setCp_msixMask (s p c) : (setCp s p c).msixMask = s.msixMask := rfl
@[simp] theorem setCp_msixTab (s p c) : (setCp s p c).msixTab = s.msixTab := rfl
@[simp] theorem setCp_msixPba (s p c) : (setCp s p c).msixPba = s.msixPba := rfl
@[simp] theorem setCp_msiOpen (s p c) : (setCp s p c).msiOpen = s.msiOpen := rfl
@[simp] theorem setCp_hostFail (s p c) : (setCp s p c).hostFail = s.hostFail := rfl
@[simp] theorem setCp_uartBusy (s p c) : (setCp s p c).uartBusy = s.uartBusy := rfl
@[simp] theorem setCp_settings (s p c) : (setCp s p c).settings = s.settings := rfl
@[simp] theorem setCp_gbuf (s p c) : (setCp s p c).gbuf = s.gbuf := rfl
@[simp] theorem setCp_gbNext (s p c) : (setCp s p c).gbNext = s.gbNext := rfl
@[simp] theorem setCp_gbLost (s p c) : (setCp s p c).gbLost = s.gbLost := rfl
@[simp] theorem setCp_gbLostFirst (s p c) : (setCp s p c).gbLostFirst = s.gbLostFirst := rfl
@[simp] theorem setCp_gbForced (s p c) : (setCp s p c).gbForced = s.gbForced := rfl
@[simp] theorem setCp_gbWanted (s p c) : (setCp s p c).gbWanted = s.gbWanted := rfl
@[simp] theorem setCp_gbWait (s p c) : (setCp s p c).gbWait = s.gbWait := rfl
@[simp] theorem setCp_gbRate (s p c) : (setCp s p c).gbRate = s.gbRate := rfl
@[simp] theorem setCp_nvWr (s p c) : (setCp s p c).nvWr = s.nvWr := rfl
@[simp] theorem setCp_utcSet (s p c) : (setCp s p c).utcSet = s.utcSet := rfl
@[simp] theorem setCp_chans (s p c) : (setCp s p c).chans = s.chans := rfl
@[simp] theorem setCp_mons (s p c) : (setCp s p c).mons = s.mons := rfl
@[simp] theorem setCp_strobes (s p c) : (setCp s p c).strobes = s.strobes := rfl
@[simp] theorem setCp_capEnd (s p c) : (setCp s p c).capEnd = s.capEnd := rfl
@[simp] theorem setCp_capLog (s p c) : (setCp s p c).capLog = s.capLog := rfl
@[simp] theorem setCp_capSeq (s p c) : (setCp s p c).capSeq = s.capSeq := rfl
@[simp] theorem setCp_ptp (s p c) : (setCp s p c).ptp = s.ptp := rfl
@[simp] theorem setCp_tune (s p c) : (setCp s p c).tune = s.tune := rfl
@[simp] theorem setCp_loopAt (s p c) : (setCp s p c).loopAt = s.loopAt := rfl
@[simp] theorem setCp_ppsHigh (s p c) : (setCp s p c).ppsHigh = s.ppsHigh := rfl
@[simp] theorem setCp_synce (s p c) : (setCp s p c).synce = s.synce := rfl
@[simp] theorem setCp_haltPend (s p c) : (setCp s p c).haltPend = s.haltPend := rfl
@[simp] theorem setCp_bootRecs (s p c) : (setCp s p c).bootRecs = s.bootRecs := rfl
@[simp] theorem setCp_keyRecs (s p c) : (setCp s p c).keyRecs = s.keyRecs := rfl
@[simp] theorem setCp_wearSaved (s p c) : (setCp s p c).wearSaved = s.wearSaved := rfl
@[simp] theorem setCp_wearAt (s p c) : (setCp s p c).wearAt = s.wearAt := rfl
@[simp] theorem setCp_retired (s p c) : (setCp s p c).retired = s.retired := rfl
@[simp] theorem setCp_update (s p c) : (setCp s p c).update = s.update := rfl
@[simp] theorem setCp_challenge (s p c) : (setCp s p c).challenge = s.challenge := rfl
@[simp] theorem setCp_measure (s p c) : (setCp s p c).measure = s.measure := rfl
@[simp] theorem setCp_levelMap (s p c) : (setCp s p c).levelMap = s.levelMap := rfl
@[simp] theorem setCp_rst (s p c) : (setCp s p c).rst = s.rst := rfl
@[simp] theorem setCp_domJob (s p c) : (setCp s p c).domJob = s.domJob := rfl
@[simp] theorem setCp_rstJobs (s p c) : (setCp s p c).rstJobs = s.rstJobs := rfl
@[simp] theorem setCp_sleep (s p c) : (setCp s p c).sleep = s.sleep := rfl
@[simp] theorem setCp_plJobs (s p c) : (setCp s p c).plJobs = s.plJobs := rfl
@[simp] theorem setCp_selfTest (s p c) : (setCp s p c).selfTest = s.selfTest := rfl
@[simp] theorem setCp_pchans (s p c) : (setCp s p c).pchans = s.pchans := rfl
@[simp] theorem setCp_relIn (s p c) : (setCp s p c).relIn = s.relIn := rfl
@[simp] theorem setCp_eth (s p c) : (setCp s p c).eth = s.eth := rfl
@[simp] theorem setCp_carriers (s p c) : (setCp s p c).carriers = s.carriers := rfl
@[simp] theorem setCp_uplane (s p c) : (setCp s p c).uplane = s.uplane := rfl
@[simp] theorem setCp_dels (s p c) : (setCp s p c).dels = s.dels := rfl
@[simp] theorem setCp_prbs (s p c) : (setCp s p c).prbs = s.prbs := rfl
@[simp] theorem setCp_modid (s p c) : (setCp s p c).modid = s.modid := rfl
@[simp] theorem setCp_testEn (s p c) : (setCp s p c).testEn = s.testEn := rfl
@[simp] theorem setCp_vddq (s p c) : (setCp s p c).vddq = s.vddq := rfl
@[simp] theorem setCp_wdtAt (s p c) : (setCp s p c).wdtAt = s.wdtAt := rfl
@[simp] theorem setCp_aonSec (s p c) : (setCp s p c).aonSec = s.aonSec := rfl
@[simp] theorem setCp_aonAlarm (s p c) : (setCp s p c).aonAlarm = s.aonAlarm := rfl
@[simp] theorem setCp_wakeDrv (s p c) : (setCp s p c).wakeDrv = s.wakeDrv := rfl

@[simp] theorem setChan_pending (s c v) : (setChan s c v).pending = s.pending := rfl
@[simp] theorem setChan_cyc (s c v) : (setChan s c v).cyc = s.cyc := rfl
@[simp] theorem setChan_tkns (s c v) : (setChan s c v).tkns = s.tkns := rfl
@[simp] theorem setChan_ext (s c v) : (setChan s c v).ext = s.ext := rfl
@[simp] theorem setChan_free (s c v) : (setChan s c v).free = s.free := rfl
@[simp] theorem setChan_regs (s c v) : (setChan s c v).regs = s.regs := rfl
@[simp] theorem setChan_mem (s c v) : (setChan s c v).mem = s.mem := rfl
@[simp] theorem setChan_marks (s c v) : (setChan s c v).marks = s.marks := rfl
@[simp] theorem setChan_mbuf (s c v) : (setChan s c v).mbuf = s.mbuf := rfl
@[simp] theorem setChan_hostIn (s c v) : (setChan s c v).hostIn = s.hostIn := rfl
@[simp] theorem setChan_out (s c v) : (setChan s c v).out = s.out := rfl
@[simp] theorem setChan_xings (s c v) : (setChan s c v).xings = s.xings := rfl
@[simp] theorem setChan_islands (s c v) : (setChan s c v).islands = s.islands := rfl
@[simp] theorem setChan_outst (s c v) : (setChan s c v).outst = s.outst := rfl
@[simp] theorem setChan_hostReads (s c v) : (setChan s c v).hostReads = s.hostReads := rfl
@[simp] theorem setChan_routers (s c v) : (setChan s c v).routers = s.routers := rfl
@[simp] theorem setChan_evq (s c v) : (setChan s c v).evq = s.evq := rfl
@[simp] theorem setChan_intake (s c v) : (setChan s c v).intake = s.intake := rfl
@[simp] theorem setChan_eccq (s c v) : (setChan s c v).eccq = s.eccq := rfl
@[simp] theorem setChan_tableFull (s c v) : (setChan s c v).tableFull = s.tableFull := rfl
@[simp] theorem setChan_scrub (s c v) : (setChan s c v).scrub = s.scrub := rfl
@[simp] theorem setChan_ddrGiB (s c v) : (setChan s c v).ddrGiB = s.ddrGiB := rfl
@[simp] theorem setChan_ddrDev (s c v) : (setChan s c v).ddrDev = s.ddrDev := rfl
@[simp] theorem setChan_cores (s c v) : (setChan s c v).cores = s.cores := rfl
@[simp] theorem setChan_cops (s c v) : (setChan s c v).cops = s.cops := rfl
@[simp] theorem setChan_clk (s c v) : (setChan s c v).clk = s.clk := rfl
@[simp] theorem setChan_inks (s c v) : (setChan s c v).inks = s.inks := rfl
@[simp] theorem setChan_heldOver (s c v) : (setChan s c v).heldOver = s.heldOver := rfl
@[simp] theorem setChan_engines (s c v) : (setChan s c v).engines = s.engines := rfl
@[simp] theorem setChan_jobRecs (s c v) : (setChan s c v).jobRecs = s.jobRecs := rfl
@[simp] theorem setChan_egress (s c v) : (setChan s c v).egress = s.egress := rfl
@[simp] theorem setChan_rings (s c v) : (setChan s c v).rings = s.rings := rfl
@[simp] theorem setChan_rrSlot (s c v) : (setChan s c v).rrSlot = s.rrSlot := rfl
@[simp] theorem setChan_pcieUp (s c v) : (setChan s c v).pcieUp = s.pcieUp := rfl
@[simp] theorem setChan_bme (s c v) : (setChan s c v).bme = s.bme := rfl
@[simp] theorem setChan_memEn (s c v) : (setChan s c v).memEn = s.memEn := rfl
@[simp] theorem setChan_pcieCtl (s c v) : (setChan s c v).pcieCtl = s.pcieCtl := rfl
@[simp] theorem setChan_msixEn (s c v) : (setChan s c v).msixEn = s.msixEn := rfl
@[simp] theorem setChan_msixMask (s c v) : (setChan s c v).msixMask = s.msixMask := rfl
@[simp] theorem setChan_msixTab (s c v) : (setChan s c v).msixTab = s.msixTab := rfl
@[simp] theorem setChan_msixPba (s c v) : (setChan s c v).msixPba = s.msixPba := rfl
@[simp] theorem setChan_msiOpen (s c v) : (setChan s c v).msiOpen = s.msiOpen := rfl
@[simp] theorem setChan_hostFail (s c v) : (setChan s c v).hostFail = s.hostFail := rfl
@[simp] theorem setChan_uartBusy (s c v) : (setChan s c v).uartBusy = s.uartBusy := rfl
@[simp] theorem setChan_settings (s c v) : (setChan s c v).settings = s.settings := rfl
@[simp] theorem setChan_gbuf (s c v) : (setChan s c v).gbuf = s.gbuf := rfl
@[simp] theorem setChan_gbNext (s c v) : (setChan s c v).gbNext = s.gbNext := rfl
@[simp] theorem setChan_gbLost (s c v) : (setChan s c v).gbLost = s.gbLost := rfl
@[simp] theorem setChan_gbLostFirst (s c v) : (setChan s c v).gbLostFirst = s.gbLostFirst := rfl
@[simp] theorem setChan_gbForced (s c v) : (setChan s c v).gbForced = s.gbForced := rfl
@[simp] theorem setChan_gbWanted (s c v) : (setChan s c v).gbWanted = s.gbWanted := rfl
@[simp] theorem setChan_gbWait (s c v) : (setChan s c v).gbWait = s.gbWait := rfl
@[simp] theorem setChan_gbRate (s c v) : (setChan s c v).gbRate = s.gbRate := rfl
@[simp] theorem setChan_nvWr (s c v) : (setChan s c v).nvWr = s.nvWr := rfl
@[simp] theorem setChan_utcSet (s c v) : (setChan s c v).utcSet = s.utcSet := rfl
@[simp] theorem setChan_mons (s c v) : (setChan s c v).mons = s.mons := rfl
@[simp] theorem setChan_strobes (s c v) : (setChan s c v).strobes = s.strobes := rfl
@[simp] theorem setChan_capEnd (s c v) : (setChan s c v).capEnd = s.capEnd := rfl
@[simp] theorem setChan_capLog (s c v) : (setChan s c v).capLog = s.capLog := rfl
@[simp] theorem setChan_capSeq (s c v) : (setChan s c v).capSeq = s.capSeq := rfl
@[simp] theorem setChan_ptp (s c v) : (setChan s c v).ptp = s.ptp := rfl
@[simp] theorem setChan_tune (s c v) : (setChan s c v).tune = s.tune := rfl
@[simp] theorem setChan_loopAt (s c v) : (setChan s c v).loopAt = s.loopAt := rfl
@[simp] theorem setChan_ppsHigh (s c v) : (setChan s c v).ppsHigh = s.ppsHigh := rfl
@[simp] theorem setChan_synce (s c v) : (setChan s c v).synce = s.synce := rfl
@[simp] theorem setChan_haltPend (s c v) : (setChan s c v).haltPend = s.haltPend := rfl
@[simp] theorem setChan_bootRecs (s c v) : (setChan s c v).bootRecs = s.bootRecs := rfl
@[simp] theorem setChan_keyRecs (s c v) : (setChan s c v).keyRecs = s.keyRecs := rfl
@[simp] theorem setChan_wearSaved (s c v) : (setChan s c v).wearSaved = s.wearSaved := rfl
@[simp] theorem setChan_wearAt (s c v) : (setChan s c v).wearAt = s.wearAt := rfl
@[simp] theorem setChan_retired (s c v) : (setChan s c v).retired = s.retired := rfl
@[simp] theorem setChan_update (s c v) : (setChan s c v).update = s.update := rfl
@[simp] theorem setChan_challenge (s c v) : (setChan s c v).challenge = s.challenge := rfl
@[simp] theorem setChan_measure (s c v) : (setChan s c v).measure = s.measure := rfl
@[simp] theorem setChan_levelMap (s c v) : (setChan s c v).levelMap = s.levelMap := rfl
@[simp] theorem setChan_rst (s c v) : (setChan s c v).rst = s.rst := rfl
@[simp] theorem setChan_domJob (s c v) : (setChan s c v).domJob = s.domJob := rfl
@[simp] theorem setChan_rstJobs (s c v) : (setChan s c v).rstJobs = s.rstJobs := rfl
@[simp] theorem setChan_sleep (s c v) : (setChan s c v).sleep = s.sleep := rfl
@[simp] theorem setChan_plJobs (s c v) : (setChan s c v).plJobs = s.plJobs := rfl
@[simp] theorem setChan_selfTest (s c v) : (setChan s c v).selfTest = s.selfTest := rfl
@[simp] theorem setChan_pchans (s c v) : (setChan s c v).pchans = s.pchans := rfl
@[simp] theorem setChan_relIn (s c v) : (setChan s c v).relIn = s.relIn := rfl
@[simp] theorem setChan_eth (s c v) : (setChan s c v).eth = s.eth := rfl
@[simp] theorem setChan_cps (s c v) : (setChan s c v).cps = s.cps := rfl
@[simp] theorem setChan_carriers (s c v) : (setChan s c v).carriers = s.carriers := rfl
@[simp] theorem setChan_uplane (s c v) : (setChan s c v).uplane = s.uplane := rfl
@[simp] theorem setChan_dels (s c v) : (setChan s c v).dels = s.dels := rfl
@[simp] theorem setChan_prbs (s c v) : (setChan s c v).prbs = s.prbs := rfl
@[simp] theorem setChan_modid (s c v) : (setChan s c v).modid = s.modid := rfl
@[simp] theorem setChan_testEn (s c v) : (setChan s c v).testEn = s.testEn := rfl
@[simp] theorem setChan_vddq (s c v) : (setChan s c v).vddq = s.vddq := rfl
@[simp] theorem setChan_wdtAt (s c v) : (setChan s c v).wdtAt = s.wdtAt := rfl
@[simp] theorem setChan_aonSec (s c v) : (setChan s c v).aonSec = s.aonSec := rfl
@[simp] theorem setChan_aonAlarm (s c v) : (setChan s c v).aonAlarm = s.aonAlarm := rfl
@[simp] theorem setChan_wakeDrv (s c v) : (setChan s c v).wakeDrv = s.wakeDrv := rfl

@[simp] theorem setMon_pending (s m v) : (setMon s m v).pending = s.pending := rfl
@[simp] theorem setMon_cyc (s m v) : (setMon s m v).cyc = s.cyc := rfl
@[simp] theorem setMon_tkns (s m v) : (setMon s m v).tkns = s.tkns := rfl
@[simp] theorem setMon_ext (s m v) : (setMon s m v).ext = s.ext := rfl
@[simp] theorem setMon_free (s m v) : (setMon s m v).free = s.free := rfl
@[simp] theorem setMon_regs (s m v) : (setMon s m v).regs = s.regs := rfl
@[simp] theorem setMon_mem (s m v) : (setMon s m v).mem = s.mem := rfl
@[simp] theorem setMon_marks (s m v) : (setMon s m v).marks = s.marks := rfl
@[simp] theorem setMon_mbuf (s m v) : (setMon s m v).mbuf = s.mbuf := rfl
@[simp] theorem setMon_hostIn (s m v) : (setMon s m v).hostIn = s.hostIn := rfl
@[simp] theorem setMon_out (s m v) : (setMon s m v).out = s.out := rfl
@[simp] theorem setMon_xings (s m v) : (setMon s m v).xings = s.xings := rfl
@[simp] theorem setMon_islands (s m v) : (setMon s m v).islands = s.islands := rfl
@[simp] theorem setMon_outst (s m v) : (setMon s m v).outst = s.outst := rfl
@[simp] theorem setMon_hostReads (s m v) : (setMon s m v).hostReads = s.hostReads := rfl
@[simp] theorem setMon_routers (s m v) : (setMon s m v).routers = s.routers := rfl
@[simp] theorem setMon_evq (s m v) : (setMon s m v).evq = s.evq := rfl
@[simp] theorem setMon_intake (s m v) : (setMon s m v).intake = s.intake := rfl
@[simp] theorem setMon_eccq (s m v) : (setMon s m v).eccq = s.eccq := rfl
@[simp] theorem setMon_tableFull (s m v) : (setMon s m v).tableFull = s.tableFull := rfl
@[simp] theorem setMon_scrub (s m v) : (setMon s m v).scrub = s.scrub := rfl
@[simp] theorem setMon_ddrGiB (s m v) : (setMon s m v).ddrGiB = s.ddrGiB := rfl
@[simp] theorem setMon_ddrDev (s m v) : (setMon s m v).ddrDev = s.ddrDev := rfl
@[simp] theorem setMon_cores (s m v) : (setMon s m v).cores = s.cores := rfl
@[simp] theorem setMon_cops (s m v) : (setMon s m v).cops = s.cops := rfl
@[simp] theorem setMon_clk (s m v) : (setMon s m v).clk = s.clk := rfl
@[simp] theorem setMon_inks (s m v) : (setMon s m v).inks = s.inks := rfl
@[simp] theorem setMon_heldOver (s m v) : (setMon s m v).heldOver = s.heldOver := rfl
@[simp] theorem setMon_engines (s m v) : (setMon s m v).engines = s.engines := rfl
@[simp] theorem setMon_jobRecs (s m v) : (setMon s m v).jobRecs = s.jobRecs := rfl
@[simp] theorem setMon_egress (s m v) : (setMon s m v).egress = s.egress := rfl
@[simp] theorem setMon_rings (s m v) : (setMon s m v).rings = s.rings := rfl
@[simp] theorem setMon_rrSlot (s m v) : (setMon s m v).rrSlot = s.rrSlot := rfl
@[simp] theorem setMon_pcieUp (s m v) : (setMon s m v).pcieUp = s.pcieUp := rfl
@[simp] theorem setMon_bme (s m v) : (setMon s m v).bme = s.bme := rfl
@[simp] theorem setMon_memEn (s m v) : (setMon s m v).memEn = s.memEn := rfl
@[simp] theorem setMon_pcieCtl (s m v) : (setMon s m v).pcieCtl = s.pcieCtl := rfl
@[simp] theorem setMon_msixEn (s m v) : (setMon s m v).msixEn = s.msixEn := rfl
@[simp] theorem setMon_msixMask (s m v) : (setMon s m v).msixMask = s.msixMask := rfl
@[simp] theorem setMon_msixTab (s m v) : (setMon s m v).msixTab = s.msixTab := rfl
@[simp] theorem setMon_msixPba (s m v) : (setMon s m v).msixPba = s.msixPba := rfl
@[simp] theorem setMon_msiOpen (s m v) : (setMon s m v).msiOpen = s.msiOpen := rfl
@[simp] theorem setMon_hostFail (s m v) : (setMon s m v).hostFail = s.hostFail := rfl
@[simp] theorem setMon_uartBusy (s m v) : (setMon s m v).uartBusy = s.uartBusy := rfl
@[simp] theorem setMon_settings (s m v) : (setMon s m v).settings = s.settings := rfl
@[simp] theorem setMon_gbuf (s m v) : (setMon s m v).gbuf = s.gbuf := rfl
@[simp] theorem setMon_gbNext (s m v) : (setMon s m v).gbNext = s.gbNext := rfl
@[simp] theorem setMon_gbLost (s m v) : (setMon s m v).gbLost = s.gbLost := rfl
@[simp] theorem setMon_gbLostFirst (s m v) : (setMon s m v).gbLostFirst = s.gbLostFirst := rfl
@[simp] theorem setMon_gbForced (s m v) : (setMon s m v).gbForced = s.gbForced := rfl
@[simp] theorem setMon_gbWanted (s m v) : (setMon s m v).gbWanted = s.gbWanted := rfl
@[simp] theorem setMon_gbWait (s m v) : (setMon s m v).gbWait = s.gbWait := rfl
@[simp] theorem setMon_gbRate (s m v) : (setMon s m v).gbRate = s.gbRate := rfl
@[simp] theorem setMon_nvWr (s m v) : (setMon s m v).nvWr = s.nvWr := rfl
@[simp] theorem setMon_utcSet (s m v) : (setMon s m v).utcSet = s.utcSet := rfl
@[simp] theorem setMon_chans (s m v) : (setMon s m v).chans = s.chans := rfl
@[simp] theorem setMon_strobes (s m v) : (setMon s m v).strobes = s.strobes := rfl
@[simp] theorem setMon_capEnd (s m v) : (setMon s m v).capEnd = s.capEnd := rfl
@[simp] theorem setMon_capLog (s m v) : (setMon s m v).capLog = s.capLog := rfl
@[simp] theorem setMon_capSeq (s m v) : (setMon s m v).capSeq = s.capSeq := rfl
@[simp] theorem setMon_ptp (s m v) : (setMon s m v).ptp = s.ptp := rfl
@[simp] theorem setMon_tune (s m v) : (setMon s m v).tune = s.tune := rfl
@[simp] theorem setMon_loopAt (s m v) : (setMon s m v).loopAt = s.loopAt := rfl
@[simp] theorem setMon_ppsHigh (s m v) : (setMon s m v).ppsHigh = s.ppsHigh := rfl
@[simp] theorem setMon_synce (s m v) : (setMon s m v).synce = s.synce := rfl
@[simp] theorem setMon_haltPend (s m v) : (setMon s m v).haltPend = s.haltPend := rfl
@[simp] theorem setMon_bootRecs (s m v) : (setMon s m v).bootRecs = s.bootRecs := rfl
@[simp] theorem setMon_keyRecs (s m v) : (setMon s m v).keyRecs = s.keyRecs := rfl
@[simp] theorem setMon_wearSaved (s m v) : (setMon s m v).wearSaved = s.wearSaved := rfl
@[simp] theorem setMon_wearAt (s m v) : (setMon s m v).wearAt = s.wearAt := rfl
@[simp] theorem setMon_retired (s m v) : (setMon s m v).retired = s.retired := rfl
@[simp] theorem setMon_update (s m v) : (setMon s m v).update = s.update := rfl
@[simp] theorem setMon_challenge (s m v) : (setMon s m v).challenge = s.challenge := rfl
@[simp] theorem setMon_measure (s m v) : (setMon s m v).measure = s.measure := rfl
@[simp] theorem setMon_levelMap (s m v) : (setMon s m v).levelMap = s.levelMap := rfl
@[simp] theorem setMon_rst (s m v) : (setMon s m v).rst = s.rst := rfl
@[simp] theorem setMon_domJob (s m v) : (setMon s m v).domJob = s.domJob := rfl
@[simp] theorem setMon_rstJobs (s m v) : (setMon s m v).rstJobs = s.rstJobs := rfl
@[simp] theorem setMon_sleep (s m v) : (setMon s m v).sleep = s.sleep := rfl
@[simp] theorem setMon_plJobs (s m v) : (setMon s m v).plJobs = s.plJobs := rfl
@[simp] theorem setMon_selfTest (s m v) : (setMon s m v).selfTest = s.selfTest := rfl
@[simp] theorem setMon_pchans (s m v) : (setMon s m v).pchans = s.pchans := rfl
@[simp] theorem setMon_relIn (s m v) : (setMon s m v).relIn = s.relIn := rfl
@[simp] theorem setMon_eth (s m v) : (setMon s m v).eth = s.eth := rfl
@[simp] theorem setMon_cps (s m v) : (setMon s m v).cps = s.cps := rfl
@[simp] theorem setMon_carriers (s m v) : (setMon s m v).carriers = s.carriers := rfl
@[simp] theorem setMon_uplane (s m v) : (setMon s m v).uplane = s.uplane := rfl
@[simp] theorem setMon_dels (s m v) : (setMon s m v).dels = s.dels := rfl
@[simp] theorem setMon_prbs (s m v) : (setMon s m v).prbs = s.prbs := rfl
@[simp] theorem setMon_modid (s m v) : (setMon s m v).modid = s.modid := rfl
@[simp] theorem setMon_testEn (s m v) : (setMon s m v).testEn = s.testEn := rfl
@[simp] theorem setMon_vddq (s m v) : (setMon s m v).vddq = s.vddq := rfl
@[simp] theorem setMon_wdtAt (s m v) : (setMon s m v).wdtAt = s.wdtAt := rfl
@[simp] theorem setMon_aonSec (s m v) : (setMon s m v).aonSec = s.aonSec := rfl
@[simp] theorem setMon_aonAlarm (s m v) : (setMon s m v).aonAlarm = s.aonAlarm := rfl
@[simp] theorem setMon_wakeDrv (s m v) : (setMon s m v).wakeDrv = s.wakeDrv := rfl

@[simp] theorem setIsl_pending (s i v) : (setIsl s i v).pending = s.pending := rfl
@[simp] theorem setIsl_cyc (s i v) : (setIsl s i v).cyc = s.cyc := rfl
@[simp] theorem setIsl_tkns (s i v) : (setIsl s i v).tkns = s.tkns := rfl
@[simp] theorem setIsl_ext (s i v) : (setIsl s i v).ext = s.ext := rfl
@[simp] theorem setIsl_free (s i v) : (setIsl s i v).free = s.free := rfl
@[simp] theorem setIsl_regs (s i v) : (setIsl s i v).regs = s.regs := rfl
@[simp] theorem setIsl_mem (s i v) : (setIsl s i v).mem = s.mem := rfl
@[simp] theorem setIsl_marks (s i v) : (setIsl s i v).marks = s.marks := rfl
@[simp] theorem setIsl_mbuf (s i v) : (setIsl s i v).mbuf = s.mbuf := rfl
@[simp] theorem setIsl_hostIn (s i v) : (setIsl s i v).hostIn = s.hostIn := rfl
@[simp] theorem setIsl_out (s i v) : (setIsl s i v).out = s.out := rfl
@[simp] theorem setIsl_xings (s i v) : (setIsl s i v).xings = s.xings := rfl
@[simp] theorem setIsl_outst (s i v) : (setIsl s i v).outst = s.outst := rfl
@[simp] theorem setIsl_hostReads (s i v) : (setIsl s i v).hostReads = s.hostReads := rfl
@[simp] theorem setIsl_routers (s i v) : (setIsl s i v).routers = s.routers := rfl
@[simp] theorem setIsl_evq (s i v) : (setIsl s i v).evq = s.evq := rfl
@[simp] theorem setIsl_intake (s i v) : (setIsl s i v).intake = s.intake := rfl
@[simp] theorem setIsl_eccq (s i v) : (setIsl s i v).eccq = s.eccq := rfl
@[simp] theorem setIsl_tableFull (s i v) : (setIsl s i v).tableFull = s.tableFull := rfl
@[simp] theorem setIsl_scrub (s i v) : (setIsl s i v).scrub = s.scrub := rfl
@[simp] theorem setIsl_ddrGiB (s i v) : (setIsl s i v).ddrGiB = s.ddrGiB := rfl
@[simp] theorem setIsl_ddrDev (s i v) : (setIsl s i v).ddrDev = s.ddrDev := rfl
@[simp] theorem setIsl_cores (s i v) : (setIsl s i v).cores = s.cores := rfl
@[simp] theorem setIsl_cops (s i v) : (setIsl s i v).cops = s.cops := rfl
@[simp] theorem setIsl_clk (s i v) : (setIsl s i v).clk = s.clk := rfl
@[simp] theorem setIsl_inks (s i v) : (setIsl s i v).inks = s.inks := rfl
@[simp] theorem setIsl_heldOver (s i v) : (setIsl s i v).heldOver = s.heldOver := rfl
@[simp] theorem setIsl_engines (s i v) : (setIsl s i v).engines = s.engines := rfl
@[simp] theorem setIsl_jobRecs (s i v) : (setIsl s i v).jobRecs = s.jobRecs := rfl
@[simp] theorem setIsl_egress (s i v) : (setIsl s i v).egress = s.egress := rfl
@[simp] theorem setIsl_rings (s i v) : (setIsl s i v).rings = s.rings := rfl
@[simp] theorem setIsl_rrSlot (s i v) : (setIsl s i v).rrSlot = s.rrSlot := rfl
@[simp] theorem setIsl_pcieUp (s i v) : (setIsl s i v).pcieUp = s.pcieUp := rfl
@[simp] theorem setIsl_bme (s i v) : (setIsl s i v).bme = s.bme := rfl
@[simp] theorem setIsl_memEn (s i v) : (setIsl s i v).memEn = s.memEn := rfl
@[simp] theorem setIsl_pcieCtl (s i v) : (setIsl s i v).pcieCtl = s.pcieCtl := rfl
@[simp] theorem setIsl_msixEn (s i v) : (setIsl s i v).msixEn = s.msixEn := rfl
@[simp] theorem setIsl_msixMask (s i v) : (setIsl s i v).msixMask = s.msixMask := rfl
@[simp] theorem setIsl_msixTab (s i v) : (setIsl s i v).msixTab = s.msixTab := rfl
@[simp] theorem setIsl_msixPba (s i v) : (setIsl s i v).msixPba = s.msixPba := rfl
@[simp] theorem setIsl_msiOpen (s i v) : (setIsl s i v).msiOpen = s.msiOpen := rfl
@[simp] theorem setIsl_hostFail (s i v) : (setIsl s i v).hostFail = s.hostFail := rfl
@[simp] theorem setIsl_uartBusy (s i v) : (setIsl s i v).uartBusy = s.uartBusy := rfl
@[simp] theorem setIsl_settings (s i v) : (setIsl s i v).settings = s.settings := rfl
@[simp] theorem setIsl_gbuf (s i v) : (setIsl s i v).gbuf = s.gbuf := rfl
@[simp] theorem setIsl_gbNext (s i v) : (setIsl s i v).gbNext = s.gbNext := rfl
@[simp] theorem setIsl_gbLost (s i v) : (setIsl s i v).gbLost = s.gbLost := rfl
@[simp] theorem setIsl_gbLostFirst (s i v) : (setIsl s i v).gbLostFirst = s.gbLostFirst := rfl
@[simp] theorem setIsl_gbForced (s i v) : (setIsl s i v).gbForced = s.gbForced := rfl
@[simp] theorem setIsl_gbWanted (s i v) : (setIsl s i v).gbWanted = s.gbWanted := rfl
@[simp] theorem setIsl_gbWait (s i v) : (setIsl s i v).gbWait = s.gbWait := rfl
@[simp] theorem setIsl_gbRate (s i v) : (setIsl s i v).gbRate = s.gbRate := rfl
@[simp] theorem setIsl_nvWr (s i v) : (setIsl s i v).nvWr = s.nvWr := rfl
@[simp] theorem setIsl_utcSet (s i v) : (setIsl s i v).utcSet = s.utcSet := rfl
@[simp] theorem setIsl_chans (s i v) : (setIsl s i v).chans = s.chans := rfl
@[simp] theorem setIsl_mons (s i v) : (setIsl s i v).mons = s.mons := rfl
@[simp] theorem setIsl_strobes (s i v) : (setIsl s i v).strobes = s.strobes := rfl
@[simp] theorem setIsl_capEnd (s i v) : (setIsl s i v).capEnd = s.capEnd := rfl
@[simp] theorem setIsl_capLog (s i v) : (setIsl s i v).capLog = s.capLog := rfl
@[simp] theorem setIsl_capSeq (s i v) : (setIsl s i v).capSeq = s.capSeq := rfl
@[simp] theorem setIsl_ptp (s i v) : (setIsl s i v).ptp = s.ptp := rfl
@[simp] theorem setIsl_tune (s i v) : (setIsl s i v).tune = s.tune := rfl
@[simp] theorem setIsl_loopAt (s i v) : (setIsl s i v).loopAt = s.loopAt := rfl
@[simp] theorem setIsl_ppsHigh (s i v) : (setIsl s i v).ppsHigh = s.ppsHigh := rfl
@[simp] theorem setIsl_synce (s i v) : (setIsl s i v).synce = s.synce := rfl
@[simp] theorem setIsl_haltPend (s i v) : (setIsl s i v).haltPend = s.haltPend := rfl
@[simp] theorem setIsl_bootRecs (s i v) : (setIsl s i v).bootRecs = s.bootRecs := rfl
@[simp] theorem setIsl_keyRecs (s i v) : (setIsl s i v).keyRecs = s.keyRecs := rfl
@[simp] theorem setIsl_wearSaved (s i v) : (setIsl s i v).wearSaved = s.wearSaved := rfl
@[simp] theorem setIsl_wearAt (s i v) : (setIsl s i v).wearAt = s.wearAt := rfl
@[simp] theorem setIsl_retired (s i v) : (setIsl s i v).retired = s.retired := rfl
@[simp] theorem setIsl_update (s i v) : (setIsl s i v).update = s.update := rfl
@[simp] theorem setIsl_challenge (s i v) : (setIsl s i v).challenge = s.challenge := rfl
@[simp] theorem setIsl_measure (s i v) : (setIsl s i v).measure = s.measure := rfl
@[simp] theorem setIsl_levelMap (s i v) : (setIsl s i v).levelMap = s.levelMap := rfl
@[simp] theorem setIsl_rst (s i v) : (setIsl s i v).rst = s.rst := rfl
@[simp] theorem setIsl_domJob (s i v) : (setIsl s i v).domJob = s.domJob := rfl
@[simp] theorem setIsl_rstJobs (s i v) : (setIsl s i v).rstJobs = s.rstJobs := rfl
@[simp] theorem setIsl_sleep (s i v) : (setIsl s i v).sleep = s.sleep := rfl
@[simp] theorem setIsl_plJobs (s i v) : (setIsl s i v).plJobs = s.plJobs := rfl
@[simp] theorem setIsl_selfTest (s i v) : (setIsl s i v).selfTest = s.selfTest := rfl
@[simp] theorem setIsl_pchans (s i v) : (setIsl s i v).pchans = s.pchans := rfl
@[simp] theorem setIsl_relIn (s i v) : (setIsl s i v).relIn = s.relIn := rfl
@[simp] theorem setIsl_eth (s i v) : (setIsl s i v).eth = s.eth := rfl
@[simp] theorem setIsl_cps (s i v) : (setIsl s i v).cps = s.cps := rfl
@[simp] theorem setIsl_carriers (s i v) : (setIsl s i v).carriers = s.carriers := rfl
@[simp] theorem setIsl_uplane (s i v) : (setIsl s i v).uplane = s.uplane := rfl
@[simp] theorem setIsl_dels (s i v) : (setIsl s i v).dels = s.dels := rfl
@[simp] theorem setIsl_prbs (s i v) : (setIsl s i v).prbs = s.prbs := rfl
@[simp] theorem setIsl_modid (s i v) : (setIsl s i v).modid = s.modid := rfl
@[simp] theorem setIsl_testEn (s i v) : (setIsl s i v).testEn = s.testEn := rfl
@[simp] theorem setIsl_vddq (s i v) : (setIsl s i v).vddq = s.vddq := rfl
@[simp] theorem setIsl_wdtAt (s i v) : (setIsl s i v).wdtAt = s.wdtAt := rfl
@[simp] theorem setIsl_aonSec (s i v) : (setIsl s i v).aonSec = s.aonSec := rfl
@[simp] theorem setIsl_aonAlarm (s i v) : (setIsl s i v).aonAlarm = s.aonAlarm := rfl
@[simp] theorem setIsl_wakeDrv (s i v) : (setIsl s i v).wakeDrv = s.wakeDrv := rfl

@[simp] theorem setCarrier_pending (s n c) : (setCarrier s n c).pending = s.pending := rfl
@[simp] theorem setCarrier_cyc (s n c) : (setCarrier s n c).cyc = s.cyc := rfl
@[simp] theorem setCarrier_tkns (s n c) : (setCarrier s n c).tkns = s.tkns := rfl
@[simp] theorem setCarrier_ext (s n c) : (setCarrier s n c).ext = s.ext := rfl
@[simp] theorem setCarrier_free (s n c) : (setCarrier s n c).free = s.free := rfl
@[simp] theorem setCarrier_regs (s n c) : (setCarrier s n c).regs = s.regs := rfl
@[simp] theorem setCarrier_mem (s n c) : (setCarrier s n c).mem = s.mem := rfl
@[simp] theorem setCarrier_marks (s n c) : (setCarrier s n c).marks = s.marks := rfl
@[simp] theorem setCarrier_mbuf (s n c) : (setCarrier s n c).mbuf = s.mbuf := rfl
@[simp] theorem setCarrier_hostIn (s n c) : (setCarrier s n c).hostIn = s.hostIn := rfl
@[simp] theorem setCarrier_out (s n c) : (setCarrier s n c).out = s.out := rfl
@[simp] theorem setCarrier_xings (s n c) : (setCarrier s n c).xings = s.xings := rfl
@[simp] theorem setCarrier_islands (s n c) : (setCarrier s n c).islands = s.islands := rfl
@[simp] theorem setCarrier_outst (s n c) : (setCarrier s n c).outst = s.outst := rfl
@[simp] theorem setCarrier_hostReads (s n c) : (setCarrier s n c).hostReads = s.hostReads := rfl
@[simp] theorem setCarrier_routers (s n c) : (setCarrier s n c).routers = s.routers := rfl
@[simp] theorem setCarrier_evq (s n c) : (setCarrier s n c).evq = s.evq := rfl
@[simp] theorem setCarrier_intake (s n c) : (setCarrier s n c).intake = s.intake := rfl
@[simp] theorem setCarrier_eccq (s n c) : (setCarrier s n c).eccq = s.eccq := rfl
@[simp] theorem setCarrier_tableFull (s n c) : (setCarrier s n c).tableFull = s.tableFull := rfl
@[simp] theorem setCarrier_scrub (s n c) : (setCarrier s n c).scrub = s.scrub := rfl
@[simp] theorem setCarrier_ddrGiB (s n c) : (setCarrier s n c).ddrGiB = s.ddrGiB := rfl
@[simp] theorem setCarrier_ddrDev (s n c) : (setCarrier s n c).ddrDev = s.ddrDev := rfl
@[simp] theorem setCarrier_cores (s n c) : (setCarrier s n c).cores = s.cores := rfl
@[simp] theorem setCarrier_cops (s n c) : (setCarrier s n c).cops = s.cops := rfl
@[simp] theorem setCarrier_clk (s n c) : (setCarrier s n c).clk = s.clk := rfl
@[simp] theorem setCarrier_inks (s n c) : (setCarrier s n c).inks = s.inks := rfl
@[simp] theorem setCarrier_heldOver (s n c) : (setCarrier s n c).heldOver = s.heldOver := rfl
@[simp] theorem setCarrier_engines (s n c) : (setCarrier s n c).engines = s.engines := rfl
@[simp] theorem setCarrier_jobRecs (s n c) : (setCarrier s n c).jobRecs = s.jobRecs := rfl
@[simp] theorem setCarrier_egress (s n c) : (setCarrier s n c).egress = s.egress := rfl
@[simp] theorem setCarrier_rings (s n c) : (setCarrier s n c).rings = s.rings := rfl
@[simp] theorem setCarrier_rrSlot (s n c) : (setCarrier s n c).rrSlot = s.rrSlot := rfl
@[simp] theorem setCarrier_pcieUp (s n c) : (setCarrier s n c).pcieUp = s.pcieUp := rfl
@[simp] theorem setCarrier_bme (s n c) : (setCarrier s n c).bme = s.bme := rfl
@[simp] theorem setCarrier_memEn (s n c) : (setCarrier s n c).memEn = s.memEn := rfl
@[simp] theorem setCarrier_pcieCtl (s n c) : (setCarrier s n c).pcieCtl = s.pcieCtl := rfl
@[simp] theorem setCarrier_msixEn (s n c) : (setCarrier s n c).msixEn = s.msixEn := rfl
@[simp] theorem setCarrier_msixMask (s n c) : (setCarrier s n c).msixMask = s.msixMask := rfl
@[simp] theorem setCarrier_msixTab (s n c) : (setCarrier s n c).msixTab = s.msixTab := rfl
@[simp] theorem setCarrier_msixPba (s n c) : (setCarrier s n c).msixPba = s.msixPba := rfl
@[simp] theorem setCarrier_msiOpen (s n c) : (setCarrier s n c).msiOpen = s.msiOpen := rfl
@[simp] theorem setCarrier_hostFail (s n c) : (setCarrier s n c).hostFail = s.hostFail := rfl
@[simp] theorem setCarrier_uartBusy (s n c) : (setCarrier s n c).uartBusy = s.uartBusy := rfl
@[simp] theorem setCarrier_settings (s n c) : (setCarrier s n c).settings = s.settings := rfl
@[simp] theorem setCarrier_gbuf (s n c) : (setCarrier s n c).gbuf = s.gbuf := rfl
@[simp] theorem setCarrier_gbNext (s n c) : (setCarrier s n c).gbNext = s.gbNext := rfl
@[simp] theorem setCarrier_gbLost (s n c) : (setCarrier s n c).gbLost = s.gbLost := rfl
@[simp] theorem setCarrier_gbLostFirst (s n c) : (setCarrier s n c).gbLostFirst = s.gbLostFirst := rfl
@[simp] theorem setCarrier_gbForced (s n c) : (setCarrier s n c).gbForced = s.gbForced := rfl
@[simp] theorem setCarrier_gbWanted (s n c) : (setCarrier s n c).gbWanted = s.gbWanted := rfl
@[simp] theorem setCarrier_gbWait (s n c) : (setCarrier s n c).gbWait = s.gbWait := rfl
@[simp] theorem setCarrier_gbRate (s n c) : (setCarrier s n c).gbRate = s.gbRate := rfl
@[simp] theorem setCarrier_nvWr (s n c) : (setCarrier s n c).nvWr = s.nvWr := rfl
@[simp] theorem setCarrier_utcSet (s n c) : (setCarrier s n c).utcSet = s.utcSet := rfl
@[simp] theorem setCarrier_chans (s n c) : (setCarrier s n c).chans = s.chans := rfl
@[simp] theorem setCarrier_mons (s n c) : (setCarrier s n c).mons = s.mons := rfl
@[simp] theorem setCarrier_strobes (s n c) : (setCarrier s n c).strobes = s.strobes := rfl
@[simp] theorem setCarrier_capEnd (s n c) : (setCarrier s n c).capEnd = s.capEnd := rfl
@[simp] theorem setCarrier_capLog (s n c) : (setCarrier s n c).capLog = s.capLog := rfl
@[simp] theorem setCarrier_capSeq (s n c) : (setCarrier s n c).capSeq = s.capSeq := rfl
@[simp] theorem setCarrier_ptp (s n c) : (setCarrier s n c).ptp = s.ptp := rfl
@[simp] theorem setCarrier_tune (s n c) : (setCarrier s n c).tune = s.tune := rfl
@[simp] theorem setCarrier_loopAt (s n c) : (setCarrier s n c).loopAt = s.loopAt := rfl
@[simp] theorem setCarrier_ppsHigh (s n c) : (setCarrier s n c).ppsHigh = s.ppsHigh := rfl
@[simp] theorem setCarrier_synce (s n c) : (setCarrier s n c).synce = s.synce := rfl
@[simp] theorem setCarrier_haltPend (s n c) : (setCarrier s n c).haltPend = s.haltPend := rfl
@[simp] theorem setCarrier_bootRecs (s n c) : (setCarrier s n c).bootRecs = s.bootRecs := rfl
@[simp] theorem setCarrier_keyRecs (s n c) : (setCarrier s n c).keyRecs = s.keyRecs := rfl
@[simp] theorem setCarrier_wearSaved (s n c) : (setCarrier s n c).wearSaved = s.wearSaved := rfl
@[simp] theorem setCarrier_wearAt (s n c) : (setCarrier s n c).wearAt = s.wearAt := rfl
@[simp] theorem setCarrier_retired (s n c) : (setCarrier s n c).retired = s.retired := rfl
@[simp] theorem setCarrier_update (s n c) : (setCarrier s n c).update = s.update := rfl
@[simp] theorem setCarrier_challenge (s n c) : (setCarrier s n c).challenge = s.challenge := rfl
@[simp] theorem setCarrier_measure (s n c) : (setCarrier s n c).measure = s.measure := rfl
@[simp] theorem setCarrier_levelMap (s n c) : (setCarrier s n c).levelMap = s.levelMap := rfl
@[simp] theorem setCarrier_rst (s n c) : (setCarrier s n c).rst = s.rst := rfl
@[simp] theorem setCarrier_domJob (s n c) : (setCarrier s n c).domJob = s.domJob := rfl
@[simp] theorem setCarrier_rstJobs (s n c) : (setCarrier s n c).rstJobs = s.rstJobs := rfl
@[simp] theorem setCarrier_sleep (s n c) : (setCarrier s n c).sleep = s.sleep := rfl
@[simp] theorem setCarrier_plJobs (s n c) : (setCarrier s n c).plJobs = s.plJobs := rfl
@[simp] theorem setCarrier_selfTest (s n c) : (setCarrier s n c).selfTest = s.selfTest := rfl
@[simp] theorem setCarrier_pchans (s n c) : (setCarrier s n c).pchans = s.pchans := rfl
@[simp] theorem setCarrier_relIn (s n c) : (setCarrier s n c).relIn = s.relIn := rfl
@[simp] theorem setCarrier_eth (s n c) : (setCarrier s n c).eth = s.eth := rfl
@[simp] theorem setCarrier_cps (s n c) : (setCarrier s n c).cps = s.cps := rfl
@[simp] theorem setCarrier_uplane (s n c) : (setCarrier s n c).uplane = s.uplane := rfl
@[simp] theorem setCarrier_dels (s n c) : (setCarrier s n c).dels = s.dels := rfl
@[simp] theorem setCarrier_prbs (s n c) : (setCarrier s n c).prbs = s.prbs := rfl
@[simp] theorem setCarrier_modid (s n c) : (setCarrier s n c).modid = s.modid := rfl
@[simp] theorem setCarrier_testEn (s n c) : (setCarrier s n c).testEn = s.testEn := rfl
@[simp] theorem setCarrier_vddq (s n c) : (setCarrier s n c).vddq = s.vddq := rfl
@[simp] theorem setCarrier_wdtAt (s n c) : (setCarrier s n c).wdtAt = s.wdtAt := rfl
@[simp] theorem setCarrier_aonSec (s n c) : (setCarrier s n c).aonSec = s.aonSec := rfl
@[simp] theorem setCarrier_aonAlarm (s n c) : (setCarrier s n c).aonAlarm = s.aonAlarm := rfl
@[simp] theorem setCarrier_wakeDrv (s n c) : (setCarrier s n c).wakeDrv = s.wakeDrv := rfl

@[simp] theorem draw_pending (s w) : (draw s w).2.pending = s.pending := rfl
@[simp] theorem draw_cyc (s w) : (draw s w).2.cyc = s.cyc := rfl
@[simp] theorem draw_tkns (s w) : (draw s w).2.tkns = s.tkns := rfl
@[simp] theorem draw_ext (s w) : (draw s w).2.ext = s.ext := rfl
@[simp] theorem draw_regs (s w) : (draw s w).2.regs = s.regs := rfl
@[simp] theorem draw_mem (s w) : (draw s w).2.mem = s.mem := rfl
@[simp] theorem draw_marks (s w) : (draw s w).2.marks = s.marks := rfl
@[simp] theorem draw_mbuf (s w) : (draw s w).2.mbuf = s.mbuf := rfl
@[simp] theorem draw_hostIn (s w) : (draw s w).2.hostIn = s.hostIn := rfl
@[simp] theorem draw_out (s w) : (draw s w).2.out = s.out := rfl
@[simp] theorem draw_xings (s w) : (draw s w).2.xings = s.xings := rfl
@[simp] theorem draw_islands (s w) : (draw s w).2.islands = s.islands := rfl
@[simp] theorem draw_outst (s w) : (draw s w).2.outst = s.outst := rfl
@[simp] theorem draw_hostReads (s w) : (draw s w).2.hostReads = s.hostReads := rfl
@[simp] theorem draw_routers (s w) : (draw s w).2.routers = s.routers := rfl
@[simp] theorem draw_evq (s w) : (draw s w).2.evq = s.evq := rfl
@[simp] theorem draw_intake (s w) : (draw s w).2.intake = s.intake := rfl
@[simp] theorem draw_eccq (s w) : (draw s w).2.eccq = s.eccq := rfl
@[simp] theorem draw_tableFull (s w) : (draw s w).2.tableFull = s.tableFull := rfl
@[simp] theorem draw_scrub (s w) : (draw s w).2.scrub = s.scrub := rfl
@[simp] theorem draw_ddrGiB (s w) : (draw s w).2.ddrGiB = s.ddrGiB := rfl
@[simp] theorem draw_ddrDev (s w) : (draw s w).2.ddrDev = s.ddrDev := rfl
@[simp] theorem draw_cores (s w) : (draw s w).2.cores = s.cores := rfl
@[simp] theorem draw_cops (s w) : (draw s w).2.cops = s.cops := rfl
@[simp] theorem draw_clk (s w) : (draw s w).2.clk = s.clk := rfl
@[simp] theorem draw_inks (s w) : (draw s w).2.inks = s.inks := rfl
@[simp] theorem draw_heldOver (s w) : (draw s w).2.heldOver = s.heldOver := rfl
@[simp] theorem draw_engines (s w) : (draw s w).2.engines = s.engines := rfl
@[simp] theorem draw_jobRecs (s w) : (draw s w).2.jobRecs = s.jobRecs := rfl
@[simp] theorem draw_egress (s w) : (draw s w).2.egress = s.egress := rfl
@[simp] theorem draw_rings (s w) : (draw s w).2.rings = s.rings := rfl
@[simp] theorem draw_rrSlot (s w) : (draw s w).2.rrSlot = s.rrSlot := rfl
@[simp] theorem draw_pcieUp (s w) : (draw s w).2.pcieUp = s.pcieUp := rfl
@[simp] theorem draw_bme (s w) : (draw s w).2.bme = s.bme := rfl
@[simp] theorem draw_memEn (s w) : (draw s w).2.memEn = s.memEn := rfl
@[simp] theorem draw_pcieCtl (s w) : (draw s w).2.pcieCtl = s.pcieCtl := rfl
@[simp] theorem draw_msixEn (s w) : (draw s w).2.msixEn = s.msixEn := rfl
@[simp] theorem draw_msixMask (s w) : (draw s w).2.msixMask = s.msixMask := rfl
@[simp] theorem draw_msixTab (s w) : (draw s w).2.msixTab = s.msixTab := rfl
@[simp] theorem draw_msixPba (s w) : (draw s w).2.msixPba = s.msixPba := rfl
@[simp] theorem draw_msiOpen (s w) : (draw s w).2.msiOpen = s.msiOpen := rfl
@[simp] theorem draw_hostFail (s w) : (draw s w).2.hostFail = s.hostFail := rfl
@[simp] theorem draw_uartBusy (s w) : (draw s w).2.uartBusy = s.uartBusy := rfl
@[simp] theorem draw_settings (s w) : (draw s w).2.settings = s.settings := rfl
@[simp] theorem draw_gbuf (s w) : (draw s w).2.gbuf = s.gbuf := rfl
@[simp] theorem draw_gbNext (s w) : (draw s w).2.gbNext = s.gbNext := rfl
@[simp] theorem draw_gbLost (s w) : (draw s w).2.gbLost = s.gbLost := rfl
@[simp] theorem draw_gbLostFirst (s w) : (draw s w).2.gbLostFirst = s.gbLostFirst := rfl
@[simp] theorem draw_gbForced (s w) : (draw s w).2.gbForced = s.gbForced := rfl
@[simp] theorem draw_gbWanted (s w) : (draw s w).2.gbWanted = s.gbWanted := rfl
@[simp] theorem draw_gbWait (s w) : (draw s w).2.gbWait = s.gbWait := rfl
@[simp] theorem draw_gbRate (s w) : (draw s w).2.gbRate = s.gbRate := rfl
@[simp] theorem draw_nvWr (s w) : (draw s w).2.nvWr = s.nvWr := rfl
@[simp] theorem draw_utcSet (s w) : (draw s w).2.utcSet = s.utcSet := rfl
@[simp] theorem draw_chans (s w) : (draw s w).2.chans = s.chans := rfl
@[simp] theorem draw_mons (s w) : (draw s w).2.mons = s.mons := rfl
@[simp] theorem draw_strobes (s w) : (draw s w).2.strobes = s.strobes := rfl
@[simp] theorem draw_capEnd (s w) : (draw s w).2.capEnd = s.capEnd := rfl
@[simp] theorem draw_capLog (s w) : (draw s w).2.capLog = s.capLog := rfl
@[simp] theorem draw_capSeq (s w) : (draw s w).2.capSeq = s.capSeq := rfl
@[simp] theorem draw_ptp (s w) : (draw s w).2.ptp = s.ptp := rfl
@[simp] theorem draw_tune (s w) : (draw s w).2.tune = s.tune := rfl
@[simp] theorem draw_loopAt (s w) : (draw s w).2.loopAt = s.loopAt := rfl
@[simp] theorem draw_ppsHigh (s w) : (draw s w).2.ppsHigh = s.ppsHigh := rfl
@[simp] theorem draw_synce (s w) : (draw s w).2.synce = s.synce := rfl
@[simp] theorem draw_haltPend (s w) : (draw s w).2.haltPend = s.haltPend := rfl
@[simp] theorem draw_bootRecs (s w) : (draw s w).2.bootRecs = s.bootRecs := rfl
@[simp] theorem draw_keyRecs (s w) : (draw s w).2.keyRecs = s.keyRecs := rfl
@[simp] theorem draw_wearSaved (s w) : (draw s w).2.wearSaved = s.wearSaved := rfl
@[simp] theorem draw_wearAt (s w) : (draw s w).2.wearAt = s.wearAt := rfl
@[simp] theorem draw_retired (s w) : (draw s w).2.retired = s.retired := rfl
@[simp] theorem draw_update (s w) : (draw s w).2.update = s.update := rfl
@[simp] theorem draw_challenge (s w) : (draw s w).2.challenge = s.challenge := rfl
@[simp] theorem draw_measure (s w) : (draw s w).2.measure = s.measure := rfl
@[simp] theorem draw_levelMap (s w) : (draw s w).2.levelMap = s.levelMap := rfl
@[simp] theorem draw_rst (s w) : (draw s w).2.rst = s.rst := rfl
@[simp] theorem draw_domJob (s w) : (draw s w).2.domJob = s.domJob := rfl
@[simp] theorem draw_rstJobs (s w) : (draw s w).2.rstJobs = s.rstJobs := rfl
@[simp] theorem draw_sleep (s w) : (draw s w).2.sleep = s.sleep := rfl
@[simp] theorem draw_plJobs (s w) : (draw s w).2.plJobs = s.plJobs := rfl
@[simp] theorem draw_selfTest (s w) : (draw s w).2.selfTest = s.selfTest := rfl
@[simp] theorem draw_pchans (s w) : (draw s w).2.pchans = s.pchans := rfl
@[simp] theorem draw_relIn (s w) : (draw s w).2.relIn = s.relIn := rfl
@[simp] theorem draw_eth (s w) : (draw s w).2.eth = s.eth := rfl
@[simp] theorem draw_cps (s w) : (draw s w).2.cps = s.cps := rfl
@[simp] theorem draw_carriers (s w) : (draw s w).2.carriers = s.carriers := rfl
@[simp] theorem draw_uplane (s w) : (draw s w).2.uplane = s.uplane := rfl
@[simp] theorem draw_dels (s w) : (draw s w).2.dels = s.dels := rfl
@[simp] theorem draw_prbs (s w) : (draw s w).2.prbs = s.prbs := rfl
@[simp] theorem draw_modid (s w) : (draw s w).2.modid = s.modid := rfl
@[simp] theorem draw_testEn (s w) : (draw s w).2.testEn = s.testEn := rfl
@[simp] theorem draw_vddq (s w) : (draw s w).2.vddq = s.vddq := rfl
@[simp] theorem draw_wdtAt (s w) : (draw s w).2.wdtAt = s.wdtAt := rfl
@[simp] theorem draw_aonSec (s w) : (draw s w).2.aonSec = s.aonSec := rfl
@[simp] theorem draw_aonAlarm (s w) : (draw s w).2.aonAlarm = s.aonAlarm := rfl
@[simp] theorem draw_wakeDrv (s w) : (draw s w).2.wakeDrv = s.wakeDrv := rfl

@[simp] theorem wf_pending (s a f v) : (wf s a f v).pending = s.pending := by unfold wf; dsimp only; split <;> rfl
@[simp] theorem wf_cyc (s a f v) : (wf s a f v).cyc = s.cyc := by unfold wf; dsimp only; split <;> rfl
@[simp] theorem wf_tkns (s a f v) : (wf s a f v).tkns = s.tkns := by unfold wf; dsimp only; split <;> rfl
@[simp] theorem wf_ext (s a f v) : (wf s a f v).ext = s.ext := by unfold wf; dsimp only; split <;> rfl
@[simp] theorem wf_free (s a f v) : (wf s a f v).free = s.free := by unfold wf; dsimp only; split <;> rfl
@[simp] theorem wf_mem (s a f v) : (wf s a f v).mem = s.mem := by unfold wf; dsimp only; split <;> rfl
@[simp] theorem wf_marks (s a f v) : (wf s a f v).marks = s.marks := by unfold wf; dsimp only; split <;> rfl
@[simp] theorem wf_mbuf (s a f v) : (wf s a f v).mbuf = s.mbuf := by unfold wf; dsimp only; split <;> rfl
@[simp] theorem wf_hostIn (s a f v) : (wf s a f v).hostIn = s.hostIn := by unfold wf; dsimp only; split <;> rfl
@[simp] theorem wf_out (s a f v) : (wf s a f v).out = s.out := by unfold wf; dsimp only; split <;> rfl
@[simp] theorem wf_xings (s a f v) : (wf s a f v).xings = s.xings := by unfold wf; dsimp only; split <;> rfl
@[simp] theorem wf_islands (s a f v) : (wf s a f v).islands = s.islands := by unfold wf; dsimp only; split <;> rfl
@[simp] theorem wf_outst (s a f v) : (wf s a f v).outst = s.outst := by unfold wf; dsimp only; split <;> rfl
@[simp] theorem wf_hostReads (s a f v) : (wf s a f v).hostReads = s.hostReads := by unfold wf; dsimp only; split <;> rfl
@[simp] theorem wf_routers (s a f v) : (wf s a f v).routers = s.routers := by unfold wf; dsimp only; split <;> rfl
@[simp] theorem wf_evq (s a f v) : (wf s a f v).evq = s.evq := by unfold wf; dsimp only; split <;> rfl
@[simp] theorem wf_intake (s a f v) : (wf s a f v).intake = s.intake := by unfold wf; dsimp only; split <;> rfl
@[simp] theorem wf_eccq (s a f v) : (wf s a f v).eccq = s.eccq := by unfold wf; dsimp only; split <;> rfl
@[simp] theorem wf_tableFull (s a f v) : (wf s a f v).tableFull = s.tableFull := by unfold wf; dsimp only; split <;> rfl
@[simp] theorem wf_scrub (s a f v) : (wf s a f v).scrub = s.scrub := by unfold wf; dsimp only; split <;> rfl
@[simp] theorem wf_ddrGiB (s a f v) : (wf s a f v).ddrGiB = s.ddrGiB := by unfold wf; dsimp only; split <;> rfl
@[simp] theorem wf_ddrDev (s a f v) : (wf s a f v).ddrDev = s.ddrDev := by unfold wf; dsimp only; split <;> rfl
@[simp] theorem wf_cores (s a f v) : (wf s a f v).cores = s.cores := by unfold wf; dsimp only; split <;> rfl
@[simp] theorem wf_cops (s a f v) : (wf s a f v).cops = s.cops := by unfold wf; dsimp only; split <;> rfl
@[simp] theorem wf_clk (s a f v) : (wf s a f v).clk = s.clk := by unfold wf; dsimp only; split <;> rfl
@[simp] theorem wf_inks (s a f v) : (wf s a f v).inks = s.inks := by unfold wf; dsimp only; split <;> rfl
@[simp] theorem wf_heldOver (s a f v) : (wf s a f v).heldOver = s.heldOver := by unfold wf; dsimp only; split <;> rfl
@[simp] theorem wf_engines (s a f v) : (wf s a f v).engines = s.engines := by unfold wf; dsimp only; split <;> rfl
@[simp] theorem wf_jobRecs (s a f v) : (wf s a f v).jobRecs = s.jobRecs := by unfold wf; dsimp only; split <;> rfl
@[simp] theorem wf_egress (s a f v) : (wf s a f v).egress = s.egress := by unfold wf; dsimp only; split <;> rfl
@[simp] theorem wf_rings (s a f v) : (wf s a f v).rings = s.rings := by unfold wf; dsimp only; split <;> rfl
@[simp] theorem wf_rrSlot (s a f v) : (wf s a f v).rrSlot = s.rrSlot := by unfold wf; dsimp only; split <;> rfl
@[simp] theorem wf_pcieUp (s a f v) : (wf s a f v).pcieUp = s.pcieUp := by unfold wf; dsimp only; split <;> rfl
@[simp] theorem wf_bme (s a f v) : (wf s a f v).bme = s.bme := by unfold wf; dsimp only; split <;> rfl
@[simp] theorem wf_memEn (s a f v) : (wf s a f v).memEn = s.memEn := by unfold wf; dsimp only; split <;> rfl
@[simp] theorem wf_pcieCtl (s a f v) : (wf s a f v).pcieCtl = s.pcieCtl := by unfold wf; dsimp only; split <;> rfl
@[simp] theorem wf_msixEn (s a f v) : (wf s a f v).msixEn = s.msixEn := by unfold wf; dsimp only; split <;> rfl
@[simp] theorem wf_msixMask (s a f v) : (wf s a f v).msixMask = s.msixMask := by unfold wf; dsimp only; split <;> rfl
@[simp] theorem wf_msixTab (s a f v) : (wf s a f v).msixTab = s.msixTab := by unfold wf; dsimp only; split <;> rfl
@[simp] theorem wf_msixPba (s a f v) : (wf s a f v).msixPba = s.msixPba := by unfold wf; dsimp only; split <;> rfl
@[simp] theorem wf_msiOpen (s a f v) : (wf s a f v).msiOpen = s.msiOpen := by unfold wf; dsimp only; split <;> rfl
@[simp] theorem wf_hostFail (s a f v) : (wf s a f v).hostFail = s.hostFail := by unfold wf; dsimp only; split <;> rfl
@[simp] theorem wf_uartBusy (s a f v) : (wf s a f v).uartBusy = s.uartBusy := by unfold wf; dsimp only; split <;> rfl
@[simp] theorem wf_settings (s a f v) : (wf s a f v).settings = s.settings := by unfold wf; dsimp only; split <;> rfl
@[simp] theorem wf_gbuf (s a f v) : (wf s a f v).gbuf = s.gbuf := by unfold wf; dsimp only; split <;> rfl
@[simp] theorem wf_gbNext (s a f v) : (wf s a f v).gbNext = s.gbNext := by unfold wf; dsimp only; split <;> rfl
@[simp] theorem wf_gbLost (s a f v) : (wf s a f v).gbLost = s.gbLost := by unfold wf; dsimp only; split <;> rfl
@[simp] theorem wf_gbLostFirst (s a f v) : (wf s a f v).gbLostFirst = s.gbLostFirst := by unfold wf; dsimp only; split <;> rfl
@[simp] theorem wf_gbForced (s a f v) : (wf s a f v).gbForced = s.gbForced := by unfold wf; dsimp only; split <;> rfl
@[simp] theorem wf_gbWanted (s a f v) : (wf s a f v).gbWanted = s.gbWanted := by unfold wf; dsimp only; split <;> rfl
@[simp] theorem wf_gbWait (s a f v) : (wf s a f v).gbWait = s.gbWait := by unfold wf; dsimp only; split <;> rfl
@[simp] theorem wf_gbRate (s a f v) : (wf s a f v).gbRate = s.gbRate := by unfold wf; dsimp only; split <;> rfl
@[simp] theorem wf_nvWr (s a f v) : (wf s a f v).nvWr = s.nvWr := by unfold wf; dsimp only; split <;> rfl
@[simp] theorem wf_utcSet (s a f v) : (wf s a f v).utcSet = s.utcSet := by unfold wf; dsimp only; split <;> rfl
@[simp] theorem wf_chans (s a f v) : (wf s a f v).chans = s.chans := by unfold wf; dsimp only; split <;> rfl
@[simp] theorem wf_mons (s a f v) : (wf s a f v).mons = s.mons := by unfold wf; dsimp only; split <;> rfl
@[simp] theorem wf_strobes (s a f v) : (wf s a f v).strobes = s.strobes := by unfold wf; dsimp only; split <;> rfl
@[simp] theorem wf_capEnd (s a f v) : (wf s a f v).capEnd = s.capEnd := by unfold wf; dsimp only; split <;> rfl
@[simp] theorem wf_capLog (s a f v) : (wf s a f v).capLog = s.capLog := by unfold wf; dsimp only; split <;> rfl
@[simp] theorem wf_capSeq (s a f v) : (wf s a f v).capSeq = s.capSeq := by unfold wf; dsimp only; split <;> rfl
@[simp] theorem wf_ptp (s a f v) : (wf s a f v).ptp = s.ptp := by unfold wf; dsimp only; split <;> rfl
@[simp] theorem wf_tune (s a f v) : (wf s a f v).tune = s.tune := by unfold wf; dsimp only; split <;> rfl
@[simp] theorem wf_loopAt (s a f v) : (wf s a f v).loopAt = s.loopAt := by unfold wf; dsimp only; split <;> rfl
@[simp] theorem wf_ppsHigh (s a f v) : (wf s a f v).ppsHigh = s.ppsHigh := by unfold wf; dsimp only; split <;> rfl
@[simp] theorem wf_synce (s a f v) : (wf s a f v).synce = s.synce := by unfold wf; dsimp only; split <;> rfl
@[simp] theorem wf_haltPend (s a f v) : (wf s a f v).haltPend = s.haltPend := by unfold wf; dsimp only; split <;> rfl
@[simp] theorem wf_bootRecs (s a f v) : (wf s a f v).bootRecs = s.bootRecs := by unfold wf; dsimp only; split <;> rfl
@[simp] theorem wf_keyRecs (s a f v) : (wf s a f v).keyRecs = s.keyRecs := by unfold wf; dsimp only; split <;> rfl
@[simp] theorem wf_wearSaved (s a f v) : (wf s a f v).wearSaved = s.wearSaved := by unfold wf; dsimp only; split <;> rfl
@[simp] theorem wf_wearAt (s a f v) : (wf s a f v).wearAt = s.wearAt := by unfold wf; dsimp only; split <;> rfl
@[simp] theorem wf_retired (s a f v) : (wf s a f v).retired = s.retired := by unfold wf; dsimp only; split <;> rfl
@[simp] theorem wf_update (s a f v) : (wf s a f v).update = s.update := by unfold wf; dsimp only; split <;> rfl
@[simp] theorem wf_challenge (s a f v) : (wf s a f v).challenge = s.challenge := by unfold wf; dsimp only; split <;> rfl
@[simp] theorem wf_measure (s a f v) : (wf s a f v).measure = s.measure := by unfold wf; dsimp only; split <;> rfl
@[simp] theorem wf_levelMap (s a f v) : (wf s a f v).levelMap = s.levelMap := by unfold wf; dsimp only; split <;> rfl
@[simp] theorem wf_rst (s a f v) : (wf s a f v).rst = s.rst := by unfold wf; dsimp only; split <;> rfl
@[simp] theorem wf_domJob (s a f v) : (wf s a f v).domJob = s.domJob := by unfold wf; dsimp only; split <;> rfl
@[simp] theorem wf_rstJobs (s a f v) : (wf s a f v).rstJobs = s.rstJobs := by unfold wf; dsimp only; split <;> rfl
@[simp] theorem wf_sleep (s a f v) : (wf s a f v).sleep = s.sleep := by unfold wf; dsimp only; split <;> rfl
@[simp] theorem wf_plJobs (s a f v) : (wf s a f v).plJobs = s.plJobs := by unfold wf; dsimp only; split <;> rfl
@[simp] theorem wf_selfTest (s a f v) : (wf s a f v).selfTest = s.selfTest := by unfold wf; dsimp only; split <;> rfl
@[simp] theorem wf_pchans (s a f v) : (wf s a f v).pchans = s.pchans := by unfold wf; dsimp only; split <;> rfl
@[simp] theorem wf_relIn (s a f v) : (wf s a f v).relIn = s.relIn := by unfold wf; dsimp only; split <;> rfl
@[simp] theorem wf_eth (s a f v) : (wf s a f v).eth = s.eth := by unfold wf; dsimp only; split <;> rfl
@[simp] theorem wf_cps (s a f v) : (wf s a f v).cps = s.cps := by unfold wf; dsimp only; split <;> rfl
@[simp] theorem wf_carriers (s a f v) : (wf s a f v).carriers = s.carriers := by unfold wf; dsimp only; split <;> rfl
@[simp] theorem wf_uplane (s a f v) : (wf s a f v).uplane = s.uplane := by unfold wf; dsimp only; split <;> rfl
@[simp] theorem wf_dels (s a f v) : (wf s a f v).dels = s.dels := by unfold wf; dsimp only; split <;> rfl
@[simp] theorem wf_prbs (s a f v) : (wf s a f v).prbs = s.prbs := by unfold wf; dsimp only; split <;> rfl
@[simp] theorem wf_modid (s a f v) : (wf s a f v).modid = s.modid := by unfold wf; dsimp only; split <;> rfl
@[simp] theorem wf_testEn (s a f v) : (wf s a f v).testEn = s.testEn := by unfold wf; dsimp only; split <;> rfl
@[simp] theorem wf_vddq (s a f v) : (wf s a f v).vddq = s.vddq := by unfold wf; dsimp only; split <;> rfl
@[simp] theorem wf_wdtAt (s a f v) : (wf s a f v).wdtAt = s.wdtAt := by unfold wf; dsimp only; split <;> rfl
@[simp] theorem wf_aonSec (s a f v) : (wf s a f v).aonSec = s.aonSec := by unfold wf; dsimp only; split <;> rfl
@[simp] theorem wf_aonAlarm (s a f v) : (wf s a f v).aonAlarm = s.aonAlarm := by unfold wf; dsimp only; split <;> rfl
@[simp] theorem wf_wakeDrv (s a f v) : (wf s a f v).wakeDrv = s.wakeDrv := by unfold wf; dsimp only; split <;> rfl

/-! ### The other ways to write a register field are `wf` -/

@[simp] theorem wb_eq_wf (s a f b) : wb s a f b = wf s a f (b2n b) := rfl
@[simp] theorem incSat_eq_wf (s a f n) : incSat s a f n = wf s a f (satAt f.len (s.rf a f + n)) := rfl
@[simp] theorem incWrap_eq_wf (s a f n) : incWrap s a f n = wf s a f (s.rf a f + n) := rfl

end Sys2Proof.Machine.State
end

