-- ==== Sys2Proof/Laws/Vdc.lean ====
section
/-! SUPPORT. Vectors and accumulators lane by lane, and what an operation of a slot that issues leaves. -/

namespace Sys2Proof.Machine

/-- A digit of a number that is built digit by digit, for lanes of 16 bits. -/
theorem mkLanes_aux (f : Nat → Nat) (n k i : Nat) (hi : i < n) :
    ((List.range' k n).foldr (fun i acc => f i % 2 ^ 16 + 2 ^ 16 * acc) 0) / 2 ^ (16 * i) % 2 ^ 16 = f (k + i) % 2 ^ 16 := by
  induction n generalizing k i with
  | zero => omega
  | succ n ih =>
    simp only [List.range'_succ, List.foldr_cons]
    cases i with
    | zero => simp
    | succ i =>
      have := ih (k + 1) i (by omega)
      rw [show 16 * (i + 1) = 16 + 16 * i by ring, Nat.pow_add, ← Nat.div_div_eq_div_mul]
      rw [show (f k % 2 ^ 16 + 2 ^ 16 * List.foldr (fun i acc => f i % 2 ^ 16 + 2 ^ 16 * acc) 0 (List.range' (k + 1) n)) / 2 ^ 16
        = List.foldr (fun i acc => f i % 2 ^ 16 + 2 ^ 16 * acc) 0 (List.range' (k + 1) n) by omega]
      rw [this]; congr 2; ring

/-- A lane of a vector that is built lane by lane. -/
theorem lane_mkLanes (f : Nat → Nat) (i : Nat) (hi : i < 32) : lane (mkLanes f) i = BitVec.ofNat 16 (f i) := by
  apply BitVec.eq_of_toNat_eq
  simp only [lane, mkLanes, BitVec.extractLsb'_toNat, BitVec.toNat_ofNat, Nat.shiftRight_eq_div_pow, List.range_eq_range']
  have := mkLanes_aux f 32 0 i hi
  rw [Nat.zero_add] at this
  rw [← this]
  rw [show (2:Nat)^512 = 2 ^ (16 * i) * 2 ^ (512 - 16 * i) by rw [← Nat.pow_add]; congr 1; omega]
  rw [Nat.mod_mul_right_div_self]
  rw [Nat.mod_mod_of_dvd]
  exact Nat.pow_dvd_pow 2 (by omega)

/-- An operation that issues, is legal and clashes with no other slot leaves what its run leaves, on the registers before its bundle. -/
theorem issue_eq {s u : State} {n : Nat} {nb : Bool} {b : Bundle} {op : SlotOp} (h : s.Issues n nb (op.reads ++ op.writes) u b)
    (hl : op.legal = true) (hc : State.clash b op.writes = false) :
    ∃ c : SlotCtx, c.core = n ∧ c.before = b.before ∧ c.pc = b.pc ∧ c.k = (b.iter.map Prod.fst).getD 0 ∧ c.inRep = b.iter.isSome ∧
      c.last = (match b.iter with | some (_, r) => decide (r = 1) | none => true) ∧ c.cycle = u.clusterCycle (n / 8) ∧
      c.raised = b.raised ∧
    s.issue n nb op = u.slotDone n b op.writes (op.run c (u.core n).arch)
      (if op.writes.contains (rC 0) then 0#32 else (op.run c ((u.core n).arch.setC 0 0)).getC 0) := by
  have hx := h.can; have hw := h.free
  unfold State.issue
  rw [hx, hw]
  simp only [Bool.not_true, Bool.or_self, Bool.false_eq_true, if_false, h.opened]
  unfold State.runSlot
  rw [h.bundle]
  simp only [h.fine, Option.isSome_none, Bool.false_eq_true, if_false, hl, hc, Bool.not_true, Bool.or_self]
  refine ⟨⟨n, b.before, b.pc, (b.iter.map Prod.fst).getD 0, b.iter.isSome,
    (match b.iter with | some (_, r) => decide (r = 1) | none => true), u.clusterCycle (n / 8), b.raised⟩, rfl, rfl, rfl, rfl, rfl, rfl, rfl, rfl, ?_⟩
  cases hb : b.iter with
  | none => simp [State.slotDone, hb, h.fine]
  | some p => simp [State.slotDone, hb, h.fine]

/-- A digit of a number that is built digit by digit, for lanes of 40 bits. -/
theorem mkAcc_aux (f : Nat → Int) (n k i : Nat) (hi : i < n) :
    ((List.range' k n).foldr (fun i acc => wrapTo 40 (f i) + 2 ^ 40 * acc) 0) / 2 ^ (40 * i) % 2 ^ 40 = wrapTo 40 (f (k + i)) := by
  have hw : ∀ x, wrapTo 40 x < 2 ^ 40 := fun x => by unfold wrapTo; omega
  induction n generalizing k i with
  | zero => omega
  | succ n ih =>
    simp only [List.range'_succ, List.foldr_cons]
    cases i with
    | zero => have := hw (f k); simp; omega
    | succ i =>
      have := ih (k + 1) i (by omega)
      rw [show 40 * (i + 1) = 40 + 40 * i by ring, Nat.pow_add, ← Nat.div_div_eq_div_mul]
      have h0 := hw (f k)
      rw [show (wrapTo 40 (f k) + 2 ^ 40 * List.foldr (fun i acc => wrapTo 40 (f i) + 2 ^ 40 * acc) 0 (List.range' (k + 1) n)) / 2 ^ 40
        = List.foldr (fun i acc => wrapTo 40 (f i) + 2 ^ 40 * acc) 0 (List.range' (k + 1) n) by omega]
      rw [this]; congr 2; ring

/-- Wrapping and then taking bits is taking bits. -/
theorem ofInt_wrapTo (w : Nat) (x : Int) : BitVec.ofNat w (wrapTo w x) = BitVec.ofInt w x := by
  apply BitVec.eq_of_toNat_eq
  have h1 : 0 ≤ x % ((2 ^ w : Nat) : Int) := Int.emod_nonneg _ (by positivity)
  have h2 : x % ((2 ^ w : Nat) : Int) < ((2 ^ w : Nat) : Int) := Int.emod_lt_of_pos _ (by positivity)
  rw [BitVec.toNat_ofNat, BitVec.toNat_ofInt]
  unfold wrapTo
  exact Nat.mod_eq_of_lt (by omega)

/-- A lane of an accumulator that is built lane by lane. -/
theorem lane_mkAcc (f : Nat → Int) (i : Nat) (hi : i < 32) : (mkAcc f).extractLsb' (40 * i) 40 = BitVec.ofInt 40 (f i) := by
  rw [← ofInt_wrapTo]
  apply BitVec.eq_of_toNat_eq
  simp only [mkAcc, BitVec.extractLsb'_toNat, BitVec.toNat_ofNat, Nat.shiftRight_eq_div_pow, List.range_eq_range']
  have := mkAcc_aux f 32 0 i hi
  rw [Nat.zero_add] at this
  rw [← this, Nat.mod_mod]
  rw [show (2:Nat)^1280 = 2 ^ (40 * i) * 2 ^ (1280 - 40 * i) by rw [← Nat.pow_add]; congr 1; omega]
  rw [Nat.mod_mul_right_div_self]
  rw [Nat.mod_mod_of_dvd]
  exact Nat.pow_dvd_pow 2 (by omega)

end Sys2Proof.Machine
end

