-- ==== Sys2Proof/Tests/Slice0.lean ====
section
/-! SUPPORT. Tests of the model: ill-formed commands that the check refuses, words of the spec, small steps with expected results
from the spec, and for every statement with hypotheses a state and operands that meet them (`test_w_…`). -/

set_option Elab.async false

namespace Sys2Proof.Tests

open Sys2Proof.Machine

/-- The state after reset. -/
def z : State := State.reset

/-- What the invariant asks for, as a test. -/
def okay (s : State) : Bool :=
  Memory.wf s.mem && Registers.wf s.regs && Marks.wf s.marks && s.tablesWf && decide (s.tkns < 2 ^ 32) && decide (s.modid < 16)

theorem okay_inv {s : State} (h : okay s = true) : s.Inv := by
  simp only [okay, Bool.and_eq_true, decide_eq_true_eq] at h
  exact ⟨h.1.1.1.1.1, h.1.1.1.1.2, h.1.1.1.2, h.1.1.2, h.1.2, h.2⟩

/-- The next state of a command, or the state that it was given. -/
def after (c : Instr) (s : State) : State := match exec c s with
  | .next t => t
  | _ => s

/-- A command answers a next state. -/
def goes (c : Instr) (s : State) : Bool := match exec c s with
  | .next _ => true
  | _ => false

/-- The module runs in mode `m`, out of reset. -/
def run (m : Nat) : State := ({ z with rst := none } : State).setMode m


/-! ### Crossings, dead islands, routers, registers -/

/-- A crossing in flight. -/
def fly (c : Xid) (x : Xing) : State := z.setXing c.key { x with busy := true }

theorem test_w_CrossingsDeliver :
    let c : Xid := ⟨28, 0, 3, 0⟩
    let s := fly c { Xing.idle with count := 15 }
    xidAt 0 10 = some c ∧ s.xIso c = false ∧ (s.xing c.key).busy = true ∧ c.dst = 0 ∧ c.kind = 0 ∧ (s.xing c.key).taken = false := by
  decide +kernel

theorem test_w_CrossingsAcknowledge :
    let c : Xid := ⟨0, 28, 4, 0⟩
    let s := fly c { Xing.idle with count := 15, taken := true }
    let t := fly c { Xing.idle with count := 15, taken := true, pend := [⟨0, 1, 15⟩] }
    xidAt 0 18 = some c ∧ s.xIso c = false ∧ t.xIso c = false ∧ c.src = 0 ∧ c.kind = 0 ∧ c.role ≠ 6 ∧ (s.xing c.key).taken = true ∧
      (s.xing c.key).pend = [] ∧ (t.xing c.key).taken = true ∧ (t.xing c.key).pend = [⟨0, 1, 15⟩] := by
  decide +kernel

theorem test_w_CrossingsDeliverValues :
    let c : Xid := ⟨28, 0, 2, 0⟩
    let p : Xid := ⟨31, 27, 8, 0⟩
    let a : Xid := ⟨61, 62, 15, 1⟩
    let s := fly c Xing.idle
    let t := fly p { Xing.idle with value := 1 }
    let u := fly a { Xing.idle with value := 2 ^ 32 - 1 }
    (xidAt 0 2 = some c ∧ s.xIso c = false ∧ c.dst = 0 ∧ c.kind = 1 ∧ (s.xing c.key).taken = false ∧ c.role ≠ 8 ∧ c.role ≠ 15) ∧
    (xidAt 27 4 = some p ∧ t.xIso p = false ∧ p.dst = 27 ∧ p.kind = 1 ∧ (t.xing p.key).taken = false ∧ p.role = 8 ∧ okay t = true) ∧
    (let h : Xid := ⟨61, 52, 14, 0⟩
     let w := fly h { Xing.idle with value := 2 ^ 255 }
     xidAt 52 (xidIndex 52 h) = some h ∧ w.xIso h = false ∧ h.dst = 52 ∧ h.kind = 1 ∧ (w.xing h.key).taken = false ∧ h.role = 14) ∧
    (xidAt 62 1 = some a ∧ u.xIso a = false ∧ a.dst = 62 ∧ a.kind = 1 ∧ (u.xing a.key).taken = false ∧ a.role = 15 ∧ a.unit = 1 ∧
      okay u = true) := by
  decide +kernel

theorem test_w_CrossingsAcknowledgeValues :
    let c : Xid := ⟨28, 0, 2, 0⟩
    let s := fly c { Xing.idle with taken := true }
    let t := fly c { Xing.idle with taken := true, vpend := some 7 }
    xidAt 28 2 = some c ∧ s.xIso c = false ∧ t.xIso c = false ∧ c.src = 28 ∧ c.kind = 1 ∧ c.role ≠ 11 ∧ c.role ≠ 12 ∧
      (s.xing c.key).taken = true ∧ (t.xing c.key).taken = true := by
  decide +kernel

theorem test_w_CountersHeartbeatsAndSnapshotsCross :
    let g : Xid := ⟨0, 28, 0, 0⟩
    let r : Xid := ⟨52, 31, 9, 0⟩
    let n : Xid := ⟨52, 0, 10, 0⟩
    (xidAt 28 1 = some g ∧ g.dst = 28 ∧ g.kind = 2 ∧ z.xIso g = false ∧ g.role ≠ 9 ∧ xidAt 0 0 = some g ∧ g.src = 0) ∧
    (xidAt 31 (xidIndex 31 r) = some r ∧ r.dst = 31 ∧ r.role = 9 ∧ z.xIso r = false ∧ (z.xing r.key).fresh = false) ∧
    (xidAt 0 24 = some n ∧ n.dst = 0 ∧ n.kind = 3) ∧
    (z.xIso ⟨52, 31, 9, 0⟩ = false ∧ z.xIso ⟨52, 31, 10, 0⟩ = false ∧ okay z = true) := by
  decide +kernel

theorem test_w_TimeoutsIsolateCrossings :
    let g : Xid := ⟨0, 28, 0, 0⟩
    let p : Xid := ⟨0, 28, 4, 0⟩
    let v : Xid := ⟨0, 34, 11, 0⟩
    let n : Xid := ⟨52, 0, 10, 0⟩
    let s := fly p { Xing.idle with count := 15, pend := [⟨0, 1, 15⟩] }
    let t := fly v Xing.idle
    (xidAt 28 1 = some g ∧ z.waitsAt 28 g = true ∧ z.xIso g = false ∧ okay z = true ∧ tpLink g.src g.dst = true ∧ g.kind = 2) ∧
    (xidAt 0 18 = some p ∧ s.waitsAt 0 p = true ∧ s.xIso p = false ∧ okay s = true ∧ p.kind = 0) ∧
    (xidAt 0 22 = some v ∧ t.waitsAt 0 v = true ∧ t.xIso v = false ∧ okay t = true ∧ v.kind = 1 ∧ tpLink v.src v.dst = false) ∧
    (xidAt 0 24 = some n ∧ z.waitsAt 0 n = true ∧ z.xIso n = false ∧ n.kind = 3) ∧
    (let a : Xid := ⟨61, 62, 15, 1⟩
     let w := fly a Xing.idle
     xidAt 61 (xidIndex 61 a) = some a ∧ w.waitsAt 61 a = true ∧ w.xIso a = false) := by
  decide +kernel

/-- Island `i` with the phase of a reset `kind`, isolated or not. -/
def phased (i : Nat) (p : SeqPhase) (kind : Nat) (iso : Bool) : State := z.setIsl i { IslandSt.idle with phase := p, kind := kind, iso := iso }

/-- A state in which source 40's request to island `i` at address `a` is unanswered. -/
def asked (i a : Nat) : State := { z with outst := [⟨i, 40, 255, a, false, none, []⟩] }

theorem test_w_DeadTimersDeclareIslandsDead :
    (let s := asked 0 0x200800000
     okay s = true ∧ s.outst.any (fun r => r.crosses 0) = true ∧ s.outst.any (fun r => r.crosses 28) = true ∧ s.deadIsl 0 = false ∧
       s.deadIsl 28 = false ∧ (s.isl 0).iso = false ∧ (s.isl 28).iso = false ∧ s.scrub = none) ∧
    (let s := asked 61 0x2000000
     okay s = true ∧ s.outst.any (fun r => r.crosses 61) = true ∧ s.deadIsl 61 = false ∧ (s.isl 61).iso = false) := by
  decide +kernel

theorem test_w_IsolatedTargetsAnswer :
    let s := phased 23 .none 0 true
    okay s = true ∧ (s.gate 40 255 0x217800000).1 = some (stAsleep, 23) ∧ s.rb TP_ERRINFO.adr TP_ERRINFO.VALID = false := by
  decide +kernel

theorem test_w_DeadTargetsAnswer :
    let s := (phased 23 .none 0 true).setDead 23 true
    okay s = true ∧ s.gate 40 255 0x217800000 = (some (stDead, 23), 23, s.deadAnswer 23 23 40 255 0x217800000) :=
  ⟨by decide +kernel, rfl⟩

theorem test_w_UnitsAnswer :
    (let s := z.setDom 1 false
     okay s = true ∧ (s.gate 40 255 0x100000000).1 = none ∧ s.unitAsleep 0x100000000 = some 0 ∧ s.sourceDead 40 0 = false) ∧
    (let s := z.setCore 191 { Core.reset with run := .stopped }
     okay s = true ∧ (s.gate 40 255 0x10BF00000).1 = none ∧ s.unitAsleep 0x10BF00000 = none ∧ 0x10BF00000 / 0x100000 = 0x1000 + 191 ∧
       (s.core 191).run = .stopped) ∧
    ((z.gate 40 255 0x10BF00000).1 = none ∧ (z.unitRefuses 40 255 0x10BF00000).isNone = true) := by
  decide +kernel

theorem test_w_BridgesDrainResetAndReopen :
    (let s := phased 0 .draining 6 false; okay s = true ∧ (s.isl 0).phase = .draining ∧ (s.isl 0).kind ≠ kOn) ∧
    (let s := phased 31 .held 8 true; okay s = true ∧ (s.isl 31).phase = .held) ∧
    (let s := phased 24 .released 5 true; okay s = true ∧ (s.isl 24).phase = .released ∧ (s.isl 24).kind ≠ kOn ∧ s.rstJobs = []) := by
  decide +kernel

/-- A flit of type `ty` from source 40 to address `a`. -/
def flit (ty a : Nat) (last : Bool) : Flit := ⟨BitVec.ofNat 64 (ty * 2 ^ 59 + 40 * 2 ^ 53 + a / 64 * 8 + b2n last * 2), 0⟩

theorem test_w_RoutersForwardNothing : (z.takeOwn 31).choose 31 24 = none := by decide +kernel

theorem test_w_RoutersForwardToIslands :
    let s := z.pushBuf 0 1 3 ⟨flit 0 0x200800000 false, false⟩
    ((s.takeOwn 0).choose 0 0).any (fun r => r.1 = 1 && r.2.1 = 3 && ((r.2.2.2.popHead 0 1 3 0 r.2.2.1.flit).linkStops 28 0
      r.2.2.1.flit).isNone) = true ∧ routerIsland 0 = 28 ∧ State.hopIsland 0 0 = some 0 ∧ hopOf 0 0 = .island 0 := by
  decide +kernel

theorem test_w_RoutersForwardToRouters :
    let s := z.pushBuf 31 2 0 ⟨flit 0 0x200800000 false, false⟩
    ((s.takeOwn 31).choose 31 0).any (fun r => r.1 = 2 && r.2.1 = 0 && ((r.2.2.2.popHead 31 2 0 0 r.2.2.1.flit).linkStops 34
      ((State.hopIsland 31 0).getD 34) r.2.2.1.flit).isNone) = true ∧ routerIsland 31 = (State.hopIsland 31 0).getD 34 ∧
      hopOf 31 0 = .router 30 2 := by
  decide +kernel

theorem test_w_RoutersStopAtIsolatedBridges :
    let s := (phased 0 .none 0 true).pushBuf 0 1 0 ⟨flit 3 0x200800000 true, false⟩
    ((s.takeOwn 0).choose 0 0).any (fun r => r.2.2.1.flit.type = 3 && r.2.2.1.flit.last &&
      ((r.2.2.2.popHead 0 1 0 0 r.2.2.1.flit).linkStops 28 0 r.2.2.1.flit).isSome) = true ∧ routerIsland 0 ≠ 0 := by
  decide +kernel

theorem test_w_RoutersAcceptFlits :
    let f := flit 0 0x200800000 false
    let g := flit 6 0 true
    (islandAt z.ddrGiB f.addr).isSome = true ∧ f.type ≠ 6 ∧ (hopOf 31 2 = .island 34 ∧ 34 = routerIsland 31) ∧ g.type = 6 ∧
      sget (z.router 31).absorb (4 * 2 + z.entryLevel g false) false = false ∧ hopOf 0 0 = .island 0 ∧
      (z.bridgeStops 0 false f).isNone = true := by
  decide +kernel

theorem test_w_RoutersPromote :
    let h : HeldFlit := ⟨flit 0 0x200800000 false, false⟩
    sget ((z.pushBuf 31 24 1 h).router 31).bufs (4 * 24 + 1) [] = h :: [] := by
  decide +kernel

/-- The module with 1 GiB of DDR. -/
def ddrOne : State := { z with ddrGiB := 1 }

theorem test_w_MemoryRequestsReadAndWriteLines :
    (okay ddrOne = true ∧ ddrOne.gate 40 255 0x1003FFFFFC0 = (none, 38, ddrOne) ∧ ddrOne.sourceDead 40 38 = false) ∧
    (∃ l, memLoc ddrOne.ddrGiB 0x1003FFFFFC0 = some l ∧ l.kind = 8) ∧ (∀ j < 16, ddrOne.markAt (0x1003FFFFFC0 + 4 * j) = none) :=
  ⟨⟨by decide +kernel, rfl, by decide +kernel⟩, ⟨_, rfl, by decide +kernel⟩, by decide +kernel⟩

theorem test_w_RegisterWritesFollowFieldTypes :
    okay z = true ∧
    (∃ t, z.gate 40 255 (TP_SRCCFG.adr 43 / 64 * 64) = (none, t, z) ∧ z.sourceDead 40 t = false ∧ bit (z.reg (TP_SRCCFG.adr 43)) 31 = false) ∧
    (let s := z.setReg (TP_SRCCFG.adr 0) (2 ^ 31)
     ∃ t, s.gate 40 255 (TP_SRCCFG.adr 0 / 64 * 64) = (none, t, s) ∧ s.sourceDead 40 t = false ∧ bit (s.reg (TP_SRCCFG.adr 0)) 31 = true) ∧
    (∃ t, z.gate 40 255 (TP_XSTAT.adr 62 / 64 * 64) = (none, t, z) ∧ z.sourceDead 40 t = false) ∧
    (∃ t, z.gate 40 255 (TP_ABSORB.adr 62 / 64 * 64) = (none, t, z) ∧ z.sourceDead 40 t = false) :=
  ⟨by decide +kernel, ⟨_, rfl, by decide +kernel, by decide +kernel⟩, ⟨_, rfl, by decide +kernel, by decide +kernel⟩, ⟨_, rfl, by decide +kernel⟩, ⟨_, rfl, by decide +kernel⟩⟩

/-! ### Vector DSP cores -/

/-- A bundle that nothing has filled. -/
def noBundle : Bundle := ⟨0, Arch.reset, [], [], [], [], none, false, none, 0, 0, []⟩

/-- Core 191, the last, running with the registers `r`. -/
def core (r : Arch) : State := z.setCore 191 { Core.reset with run := .running, arch := r }

/-- That core with a bundle open, and the bundle. -/
def opened (r : Arch) : State := (core r).openBundle 191
def bundle (r : Arch) : Bundle := ((opened r).youngest 191).getD noBundle

/-- A core whose Ax all address the last 64 bytes of its data memory. -/
def atEnd : Arch := (List.range 8).foldl (fun r x => r.setA 191 x (BitVec.ofNat 48 (dmemBase 191 + 0x3FFC0))) Arch.reset

/-- Operations of every slot issue in a new bundle of a running core, and in one that is open, whatever registers they use. -/
theorem test_w_core_issues (regs : List Nat) :
    (core Arch.reset).Issues 191 true regs (opened Arch.reset) (bundle Arch.reset) ∧
      (opened Arch.reset).Issues 191 false regs (opened Arch.reset) (bundle Arch.reset) ∧ State.clash (bundle Arch.reset) regs = false := by
  refine ⟨⟨by decide +kernel, rfl, rfl, by decide +kernel, by decide +kernel⟩, ⟨by decide +kernel, rfl, rfl, by decide +kernel,
    by decide +kernel⟩, ?_⟩
  have h : (bundle Arch.reset).wrote = [] := by decide +kernel
  simp [State.clash, h]

theorem test_w_VectorLanesComputeAndSaturate :
    (core Arch.reset).Issues 191 true [rV 15, rV 0, rV 15] (opened Arch.reset) (bundle Arch.reset) ∧
      (core Arch.reset).Issues 191 true [rAcc 3, rV 15] (opened Arch.reset) (bundle Arch.reset) ∧
      State.clash (bundle Arch.reset) [rV 15] = false ∧ (15#6).toNat < 16 ∧ (24#6).toNat ≤ 24 ∧ (3#4).toNat < 4 :=
  ⟨(test_w_core_issues _).1, (test_w_core_issues _).1, (test_w_core_issues _).2.2, by decide⟩

theorem test_w_AccumulatorsAndSearchesCompute :
    (core Arch.reset).Issues 191 true [rV 15, rV 15, rAcc 3, rAcc 3] (opened Arch.reset) (bundle Arch.reset) ∧
      (core Arch.reset).Issues 191 true [rV 0, rS 14, rS 15] (opened Arch.reset) (bundle Arch.reset) ∧
      State.clash (bundle Arch.reset) [rAcc 3] = false ∧ State.clash (bundle Arch.reset) [rS 14, rS 15] = false ∧
      (bundle Arch.reset).iter = none ∧ ((opened Arch.reset).core 191).arch.rep = none ∧
      (bits (24#6).toNat 0 3 = 0 ∧ bits (24#6).toNat 5 1 = 0 ∧ (14#4).toNat % 2 = 0) :=
  ⟨(test_w_core_issues _).1, (test_w_core_issues _).1, (test_w_core_issues _).2.2, (test_w_core_issues _).2.2, by decide +kernel⟩

theorem test_w_ScalarAndImmediateOperationsCompute :
    (core Arch.reset).Issues 191 true [rS 15, rS 15, rS 15] (opened Arch.reset) (bundle Arch.reset) ∧
      (opened Arch.reset).Issues 191 false [rA 7, rA 7] (opened Arch.reset) (bundle Arch.reset) ∧
      State.clash (bundle Arch.reset) [rA 7] = false ∧ ((15#5).toNat < 16 ∧ (7#4).toNat < 8 ∧ (0xFFFF#32).toNat < 2 ^ 16) :=
  ⟨(test_w_core_issues _).1, (test_w_core_issues _).2.1, (test_w_core_issues _).2.2, by decide⟩

/-- Core 191 within a repeat of bundle 1 with `rem` iterations to go. -/
def repeating (rem : Nat) : State := core { Arch.reset with rep := some ⟨1, 0, rem, [], some 0⟩ }

theorem test_w_BranchesAndRepeatsSteerPC :
    (core Arch.reset).Issues 191 true [rS 15] (opened Arch.reset) (bundle Arch.reset) ∧
      (let u := opened Arch.reset
       let f := u.fetchBundle 191 (((bundle Arch.reset).pc + 1) % 2 ^ 13)
       (core Arch.reset).canIssue 191 = true ∧ u.youngest 191 = some (bundle Arch.reset) ∧ (bundle Arch.reset).exc = none ∧ f.1 = true ∧
         State.bodyLegal f.2.1 = true ∧ (core Arch.reset).waits 191 true [rS (bits 0xF000 12 4)] = false ∧ bits 0xF000 0 12 = 0) ∧
      (∀ rem < 3, 0 < rem → let s := repeating rem
       (s.core 191).run = .running ∧ okay s = true ∧ (s.core 191).arch.rep = some ⟨1, 0, rem, [], some 0⟩ ∧
         ((s.cyclesPass 23).bodyWord 191 ⟨1, 0, rem, [], some 0⟩).2.1 = 0 ∧ s.waits 191 true (State.bodyRegs 0) = false ∧
         s.allAnswered 191 = true) :=
  ⟨(test_w_core_issues _).1, by decide +kernel, by decide +kernel⟩

theorem test_w_LoadsAndStoresAccessOwnMemory :
    (∀ regs, (core atEnd).Issues 191 true regs (opened atEnd) (bundle atEnd)) ∧
      (let l := accessBytes (bundle atEnd).before 191 7 64
       (∀ a ∈ l, inOwnDmem 191 a = true) ∧ l.headD 0 % 2 = 0 ∧ (opened atEnd).mbuf = [] ∧ (bundle atEnd).wrote = [] ∧
         (∀ a ∈ l, (opened atEnd).markAt (a / 2 * 2) = none)) :=
  ⟨fun _ => ⟨by decide +kernel, rfl, rfl, by decide +kernel, by decide +kernel⟩, by decide +kernel⟩

/-- A core whose A0 addresses the data memory of core 0. -/
def elsewhere : Arch := Arch.reset.setA 191 0 (BitVec.ofNat 48 (dmemBase 0))

theorem test_w_LoadsAndStoresReachElsewhere :
    (∀ regs, (core elsewhere).Issues 191 true regs (opened elsewhere) (bundle elsewhere)) ∧
      (let l := accessBytes (bundle elsewhere).before 191 0 64
       ¬ (∀ a ∈ l, inOwnDmem 191 a = true) ∧ l.headD 0 % 2 = 0 ∧ (bundle elsewhere).wrote = [] ∧ (bundle elsewhere).iter = none ∧
         ((core elsewhere).core 191).rloads.length < 8 ∧ (core elsewhere).storesOut 191 < 8 ∧ (core elsewhere).allAnswered 191 = true) :=
  ⟨fun _ => ⟨by decide +kernel, rfl, rfl, by decide +kernel, by decide +kernel⟩, by decide +kernel⟩

/-- Core 191 with the words of a Cholesky factor by registers in S12 to S15. -/
def commanding : Arch := Arch.reset.setS 12 0x11000000

theorem test_w_CoprocessorOperationsIssue :
    (core commanding).Issues 191 true ((List.range 4).map fun i => rS (12 + i)) (opened commanding) (bundle commanding) ∧
      (let s := core commanding
       let words := (List.range 4).map fun i => (s.srcArch 191 true).getS (12 + i)
       s.copUnavail 23 1 = false ∧ cmdLegal 1 words = true ∧ (s.core 191).tags = [] ∧ s.sharedFill 23 1 < 32 ∧
         s.crW 23 1 0 31 = false ∧ s.crR 23 1 0 31 = false ∧ (opened commanding).pendingCR 191 1 (State.ownCtx 191 0) 31 = none ∧
         (opened commanding).cop 23 1 = Coproc.reset ∧ bits (0x7FE0#15).toNat 0 5 = 0 ∧ bits (0x6400#15).toNat 0 10 = 0) :=
  ⟨⟨by decide +kernel, rfl, rfl, by decide +kernel, by decide +kernel⟩, by decide +kernel⟩


theorem test_w_TrapsReturnsAndTaskEnds :
    (core Arch.reset).Issues 191 true [rC 1] (opened Arch.reset) (bundle Arch.reset) ∧ State.clash (bundle Arch.reset) [rC 1] = false ∧
      (let s := core Arch.reset
       (s.core 191).flight = [] ∧ s.allAnswered 191 = true ∧ (s.core 191).defer.any (fun d => d.exc.code = 7) = false) :=
  ⟨(test_w_core_issues _).1, (test_w_core_issues _).2.2, by decide +kernel⟩

/-- Core 191 with one bundle in flight, which has found exception `e` or none. -/
def flying (e : Option Exc) (r : Arch) (st : List (Nat × Byte)) : State :=
  z.setCore 191 { Core.reset with run := .running, arch := r, flight := [{ noBundle with exc := e, before := r, stores := st }] }

theorem test_w_ExceptionsEnterTheHandler :
    ∀ w ∈ [0, 0x80000001], let s := flying (some ⟨6, 31, 0⟩) (Arch.reset.setC 1 (BitVec.ofNat 32 w)) []
      okay s = true ∧ (s.core 191).flight.head?.any (fun b => b.exc = some ⟨6, 31, 0⟩ && (b.before.getC 1).msb = bit w 31) = true := by
  decide +kernel

/-- Core 191 with a deferred error of code `c`, its C1 being `w`. -/
def deferred (c : Nat) (w : Word) : State :=
  z.setCore 191 { Core.reset with run := .running, arch := Arch.reset.setC 1 w, tasks := [(0, 1)], defer := [⟨⟨c, 4, 0⟩, 0, 1, 0, 0⟩] }

theorem test_w_AccessErrorsAreTaken :
    ∀ w ∈ [0, 0x80FF0001], let s := deferred 7 (BitVec.ofNat 32 w)
      okay s = true ∧ (s.core 191).defer.find? (fun x => x.exc.code = 7) = some ⟨⟨7, 4, 0⟩, 0, 1, 0, 0⟩ ∧ sget (s.core 191).tasks 0 0 = 1 ∧
        (s.core 191).run = .running ∧ (s.core 191).depth = 0 ∧ s.handling 191 = bit w 31 ∧ (s.core 191).flight = [] ∧
        (s.core 191).arch.rep = none ∧ s.atBoundary 191 = true := by
  decide +kernel

theorem test_w_BundlesCommit :
    let s := flying none Arch.reset [(dmemBase 191 + 0x3FFFF, 7)]
    okay s = true ∧ (s.core 191).rloads = [] ∧ (s.core 191).flight.head?.any (fun b => b.exc = none && b.cops = [] && b.rstores = [] &&
      b.stores.all fun e => inOwnDmem 191 e.1 && s.markAt (e.1 / 2 * 2) = none) = true := by
  decide +kernel

/-- A bundle whose remote load has met an error commits with it. -/
theorem test_commit_with_error : let s := z.setCore 191 { Core.reset with run := .running, flight := [{ noBundle with errs := [(4, 64)] }] }
    ((after (.bundleCommit 191) s).core 191).defer.map DefExc.exc = [⟨7, 4, 64⟩] := by
  decide +kernel

/-- Core 191 with a remote LDW of core 0's first data memory word outstanding. -/
def loading (dead : Bool) : State :=
  z.setCore 191 { Core.reset with run := .running, rloads :=
    [⟨3, rS 15, (List.range 4).map (dmemBase 0 + ·), [], 0, dead, [], []⟩] }

theorem test_w_LoadsReturn :
    ((loading true).core 191).rloads[0]?.any (fun l => l.dead) = true ∧
      ((loading false).core 191).rloads[0]?.any (fun l => !l.dead && l.form ≠ 4 && l.read = [] && l.errs = [] && l.bytes ≠ [] &&
        l.bytes.all fun a => a / 64 = dmemBase 0 / 64) = true ∧
      ((loading false).busRead 23 (dmemBase 0) 64).1 = none ∧ okay (loading false) = true := by
  decide +kernel

theorem test_w_SlotOperationsChangeOnlyTheirCore :
    Instr.slotCore (.snop 191 true 0 0 0) = some 191 ∧ ((core Arch.reset).core 191).arch.pc < 2 ^ 13 ∧
      goes (.snop 191 true 0 0 0) (core Arch.reset) = true := by
  decide +kernel


/-! ### Coprocessors -/

/-- A command of words `w` in context 39, from core 191. -/
def cmd (w : List Word) : CopCmd := ⟨w, 39, 15, .core 191 0 1, true, false, [], none, none, false⟩

/-- Unit `u` of cluster 23 with a queue of one command. -/
def queued (u : Nat) (x : CopCmd) : State := z.setCop 23 u { Coproc.reset with queue := [x] }

theorem test_w_CoprocessorCommandsStart :
    let x := cmd [0x11000000, 0, 0, 0]
    let s := queued 1 x
    (s.cop 23 1).queue = [x] ∧ x.started = false ∧ x.err = none ∧ cmdMem x.words = false ∧ s.moveBefore 1 x = false ∧
      s.copUnavail 23 1 = false ∧ (∀ r ∈ cmdReads 1 x.words, ∀ w < 8, sget (s.cop 23 1).bad (8 * (x.ctx * 32 + r) + w) none = none) := by
  decide +kernel

theorem test_w_CoprocessorCommandsComplete :
    let r : CopResult := ⟨List.replicate 64 0, false, false⟩
    let x : CopCmd := { cmd [0x11000000, 0, 0, 0] with started := true, result := some r }
    let y : CopCmd := { cmd [0x11000000, 0, 0, 0] with err := some (5, 0) }
    (((queued 1 x).cop 23 1).queue = [x] ∧ x.committed = true ∧ ((queued 1 x).cop 23 1).held = none ∧ x.origin = .core 191 0 1 ∧
      x.err = none ∧ x.result = some r ∧ cmdMem x.words = false ∧ cmdNtf x.words = false ∧ r.sat = false ∧ r.notpd = false) ∧
    (((queued 1 y).cop 23 1).queue = [y] ∧ y.committed = true ∧ ((queued 1 y).cop 23 1).held = none ∧ y.err = some (5, 0)) := by
  decide +kernel

theorem test_w_CoprocessorsComputeTransformsAndMatrices :
    (∀ o ∈ [1, 2, 3, 4], let x : CopCmd := { cmd [BitVec.ofNat 32 (o * 2 ^ 24 + 11), 0, 0, 0] with started := true }
      ((queued 0 x).cop 23 0).queue = [x] ∧ x.started = true ∧ x.err = none ∧ x.result = none ∧ cmdOpc x.words = o) ∧
    (∀ o ∈ [0x10, 0x11, 0x12], let x : CopCmd := { cmd [BitVec.ofNat 32 (o * 2 ^ 24), 0, 0, 0] with started := true }
      ((queued 1 x).cop 23 1).queue = [x] ∧ x.started = true ∧ cmdOpc x.words = o ∧
        pivotFails (hermOf x.inBytes 1) 1 (ldl (hermOf x.inBytes 1) 1).2 = true) ∧
    (let b := leBytes 64 0x4000
     pivotFails (hermOf b 1) 1 (ldl (hermOf b 1) 1).2 = false) := by
  decide +kernel

/-- Context 39 of unit 1 of cluster 23 bound to depth 3 of core 0. -/
def bound : State := z.setReg (CX_BIND.adr 23 1 7) (2 ^ 31 + 3 * 2 ^ 8)

/-- Core 191 with an outstanding tag on unit 1 of cluster 22. -/
def tagged : State :=
  z.setCore 191 { Core.reset with run := .running, tags := [⟨1, 0, 15, some 22, some 0, 1⟩] }

theorem test_w_RemoteCommandsAndDeferredErrors :
    (bound.boundCtx 23 1 0 3 = some 39 ∧ ((bound.cop 23 1).queue.filter fun x => x.ctx = 39 && State.isRemote x).length < 2) ∧
    (191 / 8 = 23 ∧ (tagged.core 191).tags.find? (fun t => t.u = 1 && t.depth = 0 && t.tag = 15 && t.remote = some 22) =
      some ⟨1, 0, 15, some 22, some 0, 1⟩ ∧
      (tagged.core 191).tags.find? (fun t => t.u = 1 && t.depth = 0 && t.tag = 15 && t.remote.isSome && t.since.isSome) =
      some ⟨1, 0, 15, some 22, some 0, 1⟩) ∧
    (let a := cxBase 23 + 0x8000 + 0x4000 * 1 + 0x800 * 7 + 0x40 * 31
     z.gate 40 255 a = (none, 23, z) ∧ z.sourceDead 40 23 = false ∧ z.domOn (State.copDom 23 1) = true ∧
       (∀ w < 8, sget (z.cop 23 1).bad (8 * ((32 + 7) * 32 + 31) + w) none = none) ∧ z.crW 23 1 39 31 = false ∧ z.crR 23 1 39 31 = false) ∧
    (let s := deferred 8 0
     (s.core 191).defer = [⟨⟨8, 4, 0⟩, 0, 1, 0, 0⟩] ∧ sget (s.core 191).tasks 0 0 = 1 ∧ (s.core 191).run = .running ∧
       (s.core 191).depth = 0 ∧ okay s = true ∧ s.handling 191 = false ∧ s.atBoundary 191 = true) :=
  ⟨by decide +kernel, by decide +kernel, ⟨rfl, by decide +kernel⟩, by decide +kernel⟩

/-- Trigger slot 15 of unit 1 of cluster 23, enabled for context 39, with `p` pulses waiting. -/
def slot (p : Nat) : State :=
  let a := CX_TRIGCTL.adr 23 1 15
  ((z.wb a CX_TRIGCTL.EN true).wf a CX_TRIGCTL.CTX 39).wf a CX_TRIGCTL.PEND p

theorem test_w_TriggerSlotsIssueAndBindingsApply :
    (∀ p ∈ [0, 1, 0xFFF0, 0xFFFF], let s := slot p; let a := CX_TRIGCTL.adr 23 1 15
      s.rb a CX_TRIGCTL.EN = true ∧ s.rf a CX_TRIGCTL.CTX = 39 ∧ s.rb (CX_BIND.adr 23 1 7) CX_BIND.VALID = false ∧
        s.rf a CX_TRIGCTL.PEND = p ∧ s.sharedFill 23 1 = 0) ∧
    z.rb (CX_TRIGCTL.adr 23 1 15) CX_TRIGCTL.EN = false ∧
    (let s := z.setCop 23 1 { Coproc.reset with bind := [(7, some 5)] }
     sget (s.cop 23 1).bind 7 none = some 5 ∧ s.ctxBusy 23 1 39 = false) := by
  decide +kernel


/-! ### Innkeeper -/

/-- The descriptor of task `id` with counter `c`, INIT `n` and priority `p`, for a core, its words from 2 on being `rest`. -/
def desc (id c n p : Nat) (rest : List Word) : List Word :=
  BitVec.ofNat 32 (id + c * 2 ^ 16) :: BitVec.ofNat 32 (n + p * 2 ^ 16 + 2 ^ 20) :: rest

/-- Slice 3 with the state `k`. -/
def slice (k : Ink) : State := z.setInk 3 k

theorem test_w_SubmissionsSpendCreditsAndArmCounters :
    (z.preparing = false ∧ creditWindow 41 = 0 ∧ creditWindow 40 ≠ 0) ∧
    (let s := z.setReg (INK_ACCEPT.adr 3 40) (z.reg (INK_CREDIT.adr 3 40))
     s.credit 3 40 = 0) ∧
    (let s := z.setReg (INK_CREDIT.adr 3 40) (z.reg (INK_ACCEPT.adr 3 40) + 1)
     ((s.ink 3).held.any fun h => h.src = 40) = false ∧ s.credit 3 40 ≠ 0 ∧ s.submitReason 3 (desc 1 16383 4095 7 []) = none ∧ s.submitReason 3 [0, 0xFFF00000#32] = some 1 ∧
       s.rf (INK_CTR.adr 3 16383) INK_CTR.COUNT < taskInit (desc 1 16383 4095 7 []) ∧
       s.rf (INK_CTR.adr 3 16383) INK_CTR.COUNT = taskInit (desc 1 16383 0 7 []) ∧ s.submitReason 3 (desc 1 16383 0 7 []) = none ∧
       taskInit (desc 1 16383 4094 7 []) < (s.wf (INK_CTR.adr 3 16383) INK_CTR.COUNT 4095).rf (INK_CTR.adr 3 16383) INK_CTR.COUNT) ∧
    (let s := (upto 41 (fun i s => s.setReg (INK_CREDIT.adr 3 i) 0) z).setReg (INK_CREDIT.adr 3 0) 15
     s.credHold 3 = false ∧ s.poolFree 3 ≠ 0 ∧ ((List.range 41).map fun i => ((s.ink 3).nextSrc + i) % 41).find?
       (fun x => decide (s.credit 3 x < creditWindow x)) = some 0) := by
  decide +kernel

theorem test_w_inkPortsAreOpen : z.wayOpen 40 (inkBase 3 + 0x1000) ∧ z.wayOpen 40 (inkDecrAddr 3) ∧
    z.wayOpen 40 (INK_UNIT.adr 3 59 / 64 * 64) ∧ z.wayOpen 40 (INK_FLOW.adr 3 255 / 64 * 64) :=
  ⟨fun _ => rfl, fun _ => rfl, fun _ => rfl, fun _ => rfl⟩

/-- Slice 3 with the entry `op` for counter 16,383 at the head of its queue; the counter in state `st` with COUNT `n`. -/
def decrementing (st n : Nat) (op : DecrOp) : State :=
  (slice { Ink.reset with decq := [(16383, op)] }).setCtr 3 16383 st 7 2047 n

/-- Slice 3 with a write of `w` to its INK_DECR held in its bridge for source 40, which `answer` awaits, behind `n` queue entries. -/
def holding (w n : Nat) (answer : Option Nat) : State :=
  slice { Ink.reset with decq := List.replicate n (1, .amount 1), held := [⟨40, 0, inkDecrAddr 3, .part, 15, w, answer⟩] }

theorem test_w_DecrementsQueueAndReachTheirCounters :
    ((z.ink 3).decq = [] ∧ (z.ink 3).held = [] ∧ z.ctrState 3 16383 = 0 ∧ (z.setCtr 3 16383 2 7 2047 1).ctrState 3 16383 = 2) ∧
    (let s := slice { Ink.reset with decq := List.replicate 128 (1, .amount 1) }
     128 ≤ (s.ink 3).decq.length ∧ (s.ink 3).held = []) ∧
    (let s := holding 1 1 none
     (s.ink 3).decq ≠ [] ∧ (s.ink 3).held ≠ [] ∧ ((s.ink 3).held.any fun h => h.src = 2) = false) ∧
    (∀ n ∈ [127, 128], let s := holding (2 ^ 14 * 16383 + 4095) n none
      s.decrNeeds 3 (2 ^ 14 * 16383 + 4095) = true ∧ ((s.ink 3).decq.length < 128 ↔ n = 127)) ∧
    (holding 0 128 (some (inkDecrAddr 3))).decrNeeds 3 0 = false ∧
    (∀ x ∈ [(0, 4094, 1), (0, 4095, 1), (1, 2, 1), (1, 1, 1), (1, 1, 2), (2, 0, 1), (3, 0, 4095)],
      let s := decrementing x.1 x.2.1 (.amount x.2.2)
      (s.ink 3).decq = [(16383, .amount x.2.2)] ∧ x.2.2 ≠ 0 ∧ s.ctrState 3 16383 = x.1 ∧ s.rf (INK_CTR.adr 3 16383) INK_CTR.COUNT = x.2.1) ∧
    (∀ x ∈ [DecrOp.clear, DecrOp.abandon], ((decrementing 1 1 x).ink 3).decq = [(16383, x)]) ∧
    (let e : PoolEnt := ⟨desc 1 1 1 1 [0x00020100, 0], false, 0, false, 0⟩
     let s := slice { Ink.reset with joinWait := [5], pool := [(5, some e)] }
     (s.ink 3).joinWait = [5] ∧ s.poolEnt 3 5 = some e ∧ (s.ink 3).res.length < 256) := by
  decide +kernel

/-- Of two entries applied in one cycle the second takes no order of its own, and a clear acts behind the decrement before it:
what came early is counted and then forgotten. -/
theorem test_decr_order :
    (let s := slice { Ink.reset with decq := [(5, .amount 3), (5, .clear)] }
     let u := after (.decrementApply ⟨3, false⟩) s
     let v := after (.decrementApply ⟨3, true⟩) u
     (u.rf (INK_CTR.adr 3 5) INK_CTR.COUNT, v.rf (INK_CTR.adr 3 5) INK_CTR.COUNT, decide ((v.ink 3).orders = (u.ink 3).orders))) =
      (3, 0, true) := by
  decide +kernel

/-- A ready task of priority 7 for a core. -/
def ready7 : PoolEnt := ⟨desc 9 16383 1 7 [], true, 0, false, 0⟩

/-- Slice 3 with that task and every core running the task of pool entry 1, of priority 5. -/
def full : State :=
  upto 48 (fun u s => (s.setInkUnit 3 u ⟨[⟨1, false⟩], 0, []⟩).setCore (144 + u) { Core.reset with run := .running })
    (slice { Ink.reset with pool := [(1, some ⟨desc 8 1 1 5 [], false, 0, false, 0⟩), (2, some ready7)] })

theorem test_w_TasksDispatchAndPreempt :
    (let s := slice { Ink.reset with pool := [(2, some ready7)] }
     s.preparing = false ∧ ((s.idleUnits 3 0).filter fun u => s.dispatchable 3 u).findSome?
       (fun u => (s.taskFor 3 u 0).map fun e => (u, e)) = some (0, 2, ready7)) ∧
    (full.preparing = false ∧ full.readyList 3 7 0 = [(2, ready7)] ∧ (full.idleUnits 3 0).all (fun x => !full.dispatchable 3 x) = true ∧
      (full.preemptTarget 3 (taskPri ready7.desc) ready7.desc).isSome = true) := by
  decide +kernel

/-- Core 191 with a dispatch at its crossing, in `run`, at `depth`. -/
def dispatched (run : CoreRun) (depth : Nat) : State :=
  (z.setXing (dispatchXing 191).key { Xing.idle with fresh := true, dst := 2 ^ 236 }).setCore 191
    { Core.reset with run := run, irq := true, depth := depth }

theorem test_w_TasksAreTakenSavedAndRestored :
    (∀ b ∈ [true, false], let s := dispatched (if b then .idle else .running) 0
      (s.xing (dispatchXing 191).key).fresh = true ∧ (s.core 191).irq = true ∧ (s.core 191).run = (if b then .idle else .running) ∧
        s.inRepeat 191 = false ∧ s.handling 191 = false ∧ s.atBoundary 191 = true) ∧
    (let s := dispatched .restoring 1
     (s.xing (dispatchXing 191).key).fresh = true ∧ (s.core 191).irq = true ∧ (s.core 191).run = .restoring) ∧
    (let s := dispatched .saving 2
     (s.core 191).run = .saving ∧ (s.core 191).rloads.all (fun l => l.dead) = true ∧ (s.xing (dispatchXing 191).key).fresh = true) ∧
    (let s := (z.setCore 191 { Core.reset with run := .restoring, depth := 3 }).setInkUnit 3 47 ⟨List.replicate 3 ⟨1, false⟩, 0, []⟩
     (s.core 191).run = .restoring ∧ (s.core 191).depth ≠ 0 ∧ (s.inkUnit (191 / 48) (191 % 48)).tasks.length = (s.core 191).depth ∧
       s.dispatchPending 191 = false ∧ s.taskFor 3 47 2 = none) := by
  decide +kernel

theorem test_w_CompletionsTakeSlotsAndIssueOutputs :
    (∀ u ∈ [0, 59], let s := (slice Ink.reset).setInkUnit 3 u ⟨[⟨1, false⟩], 0, [(0, 255)]⟩
      s.slotsUsed 3 < 32 ∧ (s.inkUnit 3 u).tasks = [⟨1, false⟩] ∧ (s.inkUnit 3 u).done = [(0, 255)] ∧ (s.ink 3).compWait = [] ∧
        (s.ink 3).compWait.contains (.unit u) = false ∧ s.lagThreshold 3 u = 0 ∧ (s.wf (INK_UNIT.adr 3 u) INK_UNIT.LASTSVC (2 ^ 24 - 1)).rb (INK_UNIT.adr 3 u) INK_UNIT.LAG = false) ∧
    (let s := slice { Ink.reset with compWait := [.join 5, .unit 59], slots := List.replicate 31 ⟨[], 0, none, true⟩ }
     s.slotsUsed 3 < 32 ∧ (s.ink 3).compWait = [.join 5, .unit 59]) ∧
    (∀ x ∈ [[], [some (3 * 2 ^ 30 + 16383 * 2 ^ 14 + 4095)]],
      let s := slice { Ink.reset with slots := [⟨[], 0, some x, true⟩] }
      s.slotsUsed 3 < 32 ∧ taskNsucc [] = 0 ∧ (s.ink 3).released = [] ∧ (s.ink 3).slots = [⟨[], 0, some x, true⟩] ∧ taskEgv [] = false ∧
        (s.ink 3).decq.length < 128) ∧
    (let o : OutRec := ⟨List.replicate 9 0 ++ [0x01000000], 0, some [], false⟩
     let s := slice { Ink.reset with released := [o] }
     s.slotsUsed 3 < 32 ∧ (s.ink 3).released = [o] ∧ o.rest = some [] ∧ taskEgv o.desc = true) ∧
    (let e := 3 * 2 ^ 30 + 16383 * 2 ^ 14 + 4095
     bits e 28 2 = 0 ∧ bits e 12 2 = 0 ∧ bits e 0 12 ≠ 0 ∧ bits e 30 2 = 3) := by
  decide +kernel

theorem test_w_DeadlinesLaggardsAndFlows :
    (let x : PoolEnt := ⟨desc 1 1 1 1 [0, 0xFFFFFFFF, 0, 0x01000000], false, 0, false, 0⟩
     let s := slice { Ink.reset with pool := [(2047, some x)] }
     (s.xing (xkey 52 31 9 0)).fresh = false ∧ (s.ink 3).pool = [(2047, some x)] ∧ taskDlen x.desc = true ∧ x.late = false ∧
       s.deadlineAhead 3 x.desc < 0 ∧ s.ctrState 3 (taskCtr x.desc) ≠ 3) ∧
    (let s := ((slice Ink.reset).setInkUnit 3 59 ⟨[⟨1, false⟩], 0, []⟩).setReg (INK_LAGTHR.adr 3 6) 1
     let v := (s.wb (INK_UNIT.adr 3 59) INK_UNIT.LAG true).raise 0x0308 707 59 2 0
     s.lagThreshold 3 59 ≠ 0 ∧ s.lagThreshold 3 59 < 2 ∧ (s.inkUnit 3 59).tasks ≠ [] ∧ s.rb (INK_UNIT.adr 3 59) INK_UNIT.LAG = false ∧
       (v.inkUnit 3 59).tasks.all (fun t => !t.staged) = true) ∧
    (let s := (z.wb (INK_UNIT.adr 3 59) INK_UNIT.LAG true).wf (INK_LAGHOLD.adr 3) INK_LAGHOLD.HOLD 1
     s.rb (INK_UNIT.adr 3 59) INK_UNIT.LAG = true ∧ (s.inkUnit 3 59).tasks = [] ∧ s.rf (INK_LAGHOLD.adr 3) INK_LAGHOLD.HOLD ≠ 0) ∧
    (z.rf (INK_FLOW.adr 3 255) INK_FLOW.HELD = 0 ∧
      (z.wf (INK_FLOW.adr 3 255) INK_FLOW.HELD 1).rf (INK_FLOW.adr 3 255) INK_FLOW.HELD ≠ 0) := by
  decide +kernel


/-! ### Accelerator engines -/

/-- A descriptor of type `t` with the body words `b0`, `b1`, `b2`. -/
def jdesc (t b0 b1 b2 : Nat) : List Byte :=
  leBytes 8 (t + 0x100 + 0xFFFFFFFF * 2 ^ 32) ++ leBytes 8 0x40 ++ leBytes 8 0x80 ++ leBytes 8 0x1000 ++ leBytes 8 0x2000 ++
    leBytes 8 0 ++ leBytes 8 0 ++ leBytes 8 0 ++ leBytes 8 b0 ++ leBytes 8 b1 ++ leBytes 8 b2 ++ leBytes 104 0

/-- A job of that descriptor. -/
def job (d : List Byte) : Job := ⟨0x1000, some d, none, none⟩

/-- Engine `e` of group 3 with a running job of descriptor `d`. -/
def working (e : Nat) (d : List Byte) : State := z.setEngine 3 e { Engine.reset with running := some (job d) }

/-- Engine `e` of group 3 with a staged job of descriptor `d`. -/
def stagedJob (e : Nat) (d : List Byte) : State := z.setEngine 3 e { Engine.reset with staged := some (job d) }

/-- A decode of TBS 24, base graph 2, Qm 2, one block, E 48; with HARQ when `h`. -/
def dec (h : Bool) : List Byte := jdesc 1 (24 + 2 ^ 24 + 2 ^ 40 + 2 ^ 49) (b2n h * 2 ^ 16 + 25 * 2 ^ 21) 48

theorem test_w_JobsStageStartAndClaimBuffers :
    (z.wayOpen 31 (0x300801000 + 0x1000000 * 3 + 8 * 11 / 64 * 64) ∧ z.wayOpen 40 (0x300801000 + 0x1000000 * 3 + 8 * 11 / 64 * 64)) ∧
    ((z.engine 3 11).staged = none ∧ z.rb (RA_ENGSTAT.adr 3 11) RA_ENGSTAT.UNAVAIL = false) ∧
    (∀ x ∈ [(0, dec true), (11, dec true)], let s := stagedJob x.1 x.2
      (s.engine 3 x.1).running = none ∧ (s.engine 3 x.1).staged = some (job x.2) ∧ (job x.2).desc = some x.2 ∧
        s.rb (RA_ENGSTAT.adr 3 x.1) RA_ENGSTAT.UNAVAIL = false ∧ (s.ink 3).compWait.contains (.unit (48 + x.1)) = false) ∧
    badWord 11 (dec true) = some 0 ∧ badWord 0 (dec true) = none ∧ (isDecode (jType (dec true)) && jHarq (dec true)) = true ∧
    (isDecode (jType (dec false)) && jHarq (dec false)) = false ∧ badWord 0 (dec false) = none ∧
    (stagedJob 0 (dec true)).guardFree 3 0 (jAux (dec true)) = true ∧
    ((stagedJob 0 (dec true)).setEngine 3 7 { Engine.reset with guard := some (jAux (dec true)) }).guardFree 3 0
      (jAux (dec true)) = false ∧
    (let s := (working 0 (dec true)).wb (RA_ENGSTAT.adr 3 0) RA_ENGSTAT.HWAIT true
     (s.engine 3 0).running = some (job (dec true)) ∧ s.rb (RA_ENGSTAT.adr 3 0) RA_ENGSTAT.HWAIT = true ∧
       s.guardFree 3 0 (jAux (dec true)) = true) :=
  ⟨⟨fun _ => rfl, fun _ => rfl⟩, by decide +kernel⟩

/-- Of each job type an engine that takes it and a body in range. -/
def types : List (Nat × Nat × Nat × Nat × Nat) := [
  (0, 0x01, 24 + 2 ^ 24 + 2 ^ 40 + 2 ^ 49, 25 * 2 ^ 21, 48), (3, 0x02, 8, 0, 0), (4, 0x10, 24 + 2 ^ 24 + 2 ^ 40 + 2 ^ 49, 0, 48),
  (6, 0x20, 5 + 12 * 2 ^ 4 + 32 * 2 ^ 14, 0, 0), (6, 0x21, 5 + 12 * 2 ^ 4 + 32 * 2 ^ 14, 0, 0), (6, 0x22, 11 + 8192 * 2 ^ 14, 0, 0),
  (7, 0x30, 16 + 2 ^ 40 + 2 ^ 49, 8 * 2 ^ 21, 48), (7, 0x31, 16 + 2 ^ 40 + 2 ^ 49, 0, 48), (7, 0x32, 8, 0, 0), (7, 0x33, 1024, 0, 0),
  (9, 0x40, 10 * 2 ^ 20, 0, 1), (11, 0x50, 64 + 8 * 2 ^ 8 + 2 ^ 52, 0, 0), (10, 0x51, 1, 0, 0)]

theorem test_w_EnginesRunJobsOfTheirTypes :
    (∀ x ∈ types, let d := jdesc x.2.1 x.2.2.1 x.2.2.2.1 x.2.2.2.2; let s := working x.1 d
      (s.engine 3 x.1).running = some (job d) ∧ (job d).status = none ∧ (s.engine 3 x.1).late = none ∧
        s.rb (RA_ENGSTAT.adr 3 x.1) RA_ENGSTAT.HWAIT = false ∧ okay s = true ∧ jType d = x.2.1 ∧ badWord x.1 d = none ∧
        paramFails d = none) ∧
    (∀ x ∈ types, x.2.1 ≠ 2 → let d := jdesc x.2.1 0 0 0
      jType d = x.2.1 ∧ (paramFails d).isSome = true) ∧
    paramFails (jdesc 2 9 0 0) = some 8 := by
  decide +kernel

theorem test_w_JobsCompleteTimeOutAndEnginesStop :
    (let d := dec true
     let s := (working 0 d).setEngine 3 0 { Engine.reset with running := some { job d with status := some 0x1108 } }
     (s.engine 3 0).running = some { job d with status := some 0x1108 } ∧ (s.engine 3 0).late = none ∧
       s.rb (RA_GSTAT.adr 3) RA_GSTAT.PAUSED = false ∧ jEvEn d = false ∧ s.pulseHeld (State.jobEvXing 3) 0 = false ∧
       s.rb (RA_ENGSTAT.adr 3 0) RA_ENGSTAT.UNAVAIL = false) ∧
    (∀ x ∈ [(dec true, true, none), (jdesc 1 0 0 0, false, some 8), (dec true, false, none)],
      let s := ((working 0 x.1).wf (RA_JOBLIM.adr 3 0) RA_JOBLIM.LIMIT 1).wb (RA_ENGSTAT.adr 3 0) RA_ENGSTAT.HWAIT x.2.1
      (s.engine 3 0).running = some (job x.1) ∧ (job x.1).status = none ∧ (s.engine 3 0).late = none ∧
        s.rf (RA_JOBLIM.adr 3 0) RA_JOBLIM.LIMIT ≠ 0 ∧ s.rb (RA_ENGSTAT.adr 3 0) RA_ENGSTAT.HWAIT = x.2.1 ∧ paramFails x.1 = x.2.2) ∧
    (JobRes.begin (some (0, 0x30))).stopped = false ∧ (JobRes.begin (some (1, 0x30))).stopped = false ∧
    (JobRes.err 0x20 1).stopped = true ∧
    (let s := (working 0 (dec true)).setEngine 3 0 { Engine.reset with running := some (job (dec true)), late := some (JobRes.err 0x30 0) }
     (s.engine 3 0).late.isSome = true ∧ s.rb (RA_ENGSTAT.adr 3 0) RA_ENGSTAT.UNAVAIL = false) := by
  decide +kernel


/-! ### Command packets -/

/-- Ring pair 15 of `s` enabled, with 256 slots of submissions. -/
def ringed (s : State) : State :=
  ((((s.wb HUB_RINGGLB.adr HUB_RINGGLB.READY true).wb (HUB_RINGCTL.adr 15) HUB_RINGCTL.EN true).wf (HUB_SQBASE.adr 15)
    HUB_SQBASE.LOG2SIZE 12).wf (HUB_CQBASE.adr 15) HUB_CQBASE.LOG2SIZE 12).setRing 15 { Ring.reset with tail := 256 }

/-- A packet on ring 15. -/
def packet (tgt : Nat) (ws : List Word) : Packet := ⟨some 15, ⟨0, 1, 7, BitVec.ofNat 16 tgt, BitVec.ofNat 16 ws.length, 0, 0⟩, ws⟩

/-- The command of a packet with opcode `op`, and the state in which it is checked. -/
def cmdOf (op : Nat) (p : Packet) : Cmd := ⟨op, p.hdr, packetWords p.hdr.plen.toNat p.words, p.ring.map fun n => n.val⟩
def takenBy (s : State) (p : Packet) : State := match p.ring with
  | some n => (((s.headWaits n none).turnNext n).seqCheck n p.hdr.seq.toNat).setSqHead n (s.sqHead n + slotsOf p.hdr.plen.toNat)
  | none => s

/-- A packet is served, and `ok` holds of its command: as a test. -/
def served (s : State) (op : Nat) (p : Packet) (ok : State → Cmd → Bool) : Bool :=
  let v := s.calm
  let u := takenBy v p
  let c := cmdOf op p
  (match p.ring with
    | some n => v.serving && v.ringHas n && v.ringTurn n && !(v.headWaits n (some (op, p.hdr))).ringShort n &&
        v.ringTakes n op p.hdr && decide (p.hdr.plen.toNat ≤ 4092)
    | none => v.uartOpen && !v.uartBusy) && (u.gates c).all (fun g => g.1) && (isSlotMsg op || c.hdrOk) && ok u c

theorem served_serves {s : State} {op : Nat} {p : Packet} {ok : State → Cmd → Bool} (h : served s op p ok = true) :
    ∃ u c, s.calm.Serves op p u c ∧ ok u c = true := by
  refine ⟨takenBy s.calm p, cmdOf op p, ⟨⟨rfl, ?_⟩, ?_, ?_⟩, ?_⟩ <;> simp only [served, Bool.and_eq_true, Bool.or_eq_true] at h
  · cases hr : p.ring <;> simp [hr] at h <;> simp [hr, takenBy] <;> grind
  · exact h.1.1.2
  · exact h.1.2
  · exact h.2

/-- Ring 15 of a running module with `n` slots before TAIL, whose packet has PLEN `l` and whose final replies wait. -/
def short (n l : Nat) : State × PktHdr :=
  ((ringed (run mService)).setRing 15 { Ring.reset with tail := n }, ⟨0, 1, 7, 0xFFFF, BitVec.ofNat 16 l, 0, 0⟩)

theorem test_w_PacketsPassTheirChecksInOrder :
    (∀ op ∈ [0x0105, 0x0108], let s := ringed (run mService); let p := packet 0xFFFF [1]
      (s.serving && s.ringHas 15 && s.ringTurn 15 && !(s.headWaits 15 (some (op, p.hdr))).ringShort 15 && s.ringTakes 15 op p.hdr) =
        true ∧ ((takenBy s p).gates (cmdOf op p)).find? (fun g => !g.1) = (if op = 0x0105 then none else some (false, sBadOpcode))) ∧
    served (ringed (run mService)) 0x0105 (packet 0xFFFF [1]) (fun _ _ => true) = true ∧
    served (run mService) 0x0105 { packet 0xFFFF [1] with ring := none } (fun _ _ => true) = true ∧
    (let s := ringed (run mService); let p := packet 3 [1]
     ((takenBy s p).gates (cmdOf 0x0105 p)).all (fun g => g.1) = true ∧ (cmdOf 0x0105 p).hdrOk = false ∧ isSlotMsg 0x0105 = false) ∧
    (z.serving && z.ringHas 15 && z.ringTurn 15) = false ∧
    (∀ x ∈ [(256, 4092, false, true), (256, 4093, false, true), (1, 13, true, true), (2, 13, false, true)],
      let (s, h) := short x.1 x.2.1
      (s.serving, s.ringHas 15, s.ringTurn 15, (s.headWaits 15 (some (0x0105, h))).ringShort 15, s.ringTakes 15 0x0105 h) =
        (true, true, true, x.2.2)) ∧
    -- a FENCE behind a command that has no final reply yet
    (let (s, h) := short 256 1
     let s := s.setRing 15 { s.ring 15 with opened := 1 }
     (s.headWaits 15 (some (0x0105, h))).ringShort 15 = false ∧ s.ringTakes 15 0x0105 { h with flags := 2 } = false) ∧
    (∀ n ∈ [1, 2], let (s, h) := short n 13
      let s := s.headWaits 15 (some (0x0105, h))
      (s.ring 15).waitHdr = some (0x0105, h) ∧ s.serving = true ∧ (s.ringShort 15 = true ↔ n = 1)) ∧
    (let s := ((ringed (run mService)).wb (HUB_RINGCTL.adr 0) HUB_RINGCTL.EN true).wb (HUB_RINGCTL.adr 0) HUB_RINGCTL.SLOT true
     s.ringTurn 15 = true ∧ s.rb (HUB_RINGCTL.adr 15) HUB_RINGCTL.SLOT = false ∧ s.rb (HUB_RINGCTL.adr 0) HUB_RINGCTL.SLOT = true ∧
       (s.setRing 0 { Ring.reset with tail := 16 }).ringTurn 15 = false) := by
  decide +kernel

/-- A reply of one slot. -/
def reply1 : List Byte := replyBytes 0x0105 0 7 0xFFFF sOk 0 [1]

theorem test_w_RingsAndRepliesMove :
    (let s := ringed (run mService)
     s.running = true ∧ s.ringEn 15 = true ∧ s.ringErr 15 = false ∧ okay s = true ∧
       (∀ v ∈ [256, 4096], (s.ring 15).tail ≤ v ∧ v ≤ s.sqSize 15) ∧ s.sqSize 15 < 4097) ∧
    (let s := (((run mService).wf (HUB_SQBASE.adr 15) HUB_SQBASE.LOG2SIZE 4).wf (HUB_CQBASE.adr 15) HUB_CQBASE.LOG2SIZE 12)
     s.running = true ∧ okay s = true ∧ s.ringEn 15 = false ∧ s.rf (HUB_SQBASE.adr 15) HUB_SQBASE.LOG2SIZE = 4 ∧
       s.rf (HUB_CQBASE.adr 15) HUB_CQBASE.LOG2SIZE = 12) ∧
    (let s := ((ringed (run mService)).wf (HUB_RINGCTL.adr 15) HUB_RINGCTL.IMOD 1).setRing 15 { Ring.reset with waiting := [⟨some 15, reply1⟩] }
     let t := { s with pcieUp := true, bme := true }
     (t.ring 15).waiting = [⟨some 15, reply1⟩] ∧ (reply1.length + 63) / 64 ≤ t.cqRoom 15 ∧ t.hostUp = true ∧ okay t = true ∧
       t.rf (HUB_RINGCTL.adr 15) HUB_RINGCTL.IMOD ≠ 0 ∧ (t.ring 15).imodOpen = false) ∧
    ((z.setRing 15 { Ring.reset with imodOpen := true }).ring 15).imodOpen = true := by
  decide +kernel

/-- The bytes of an ECHO frame with parameter word `w`, without flags. -/
def echoFrame (w : Word) : List Byte :=
  let b := leBytes 2 0x0105 ++ leBytes 1 0 ++ leBytes 1 1 ++ leBytes 2 7 ++ leBytes 2 0xFFFF ++ leBytes 2 1 ++ leBytes 2 0 ++ leBytes 4 0 ++
    wordBytes [w]
  uartEscape (b ++ leBytes 4 (crc32 b))

theorem test_w_UartFramesCarryPackets :
    (run mService).uartOpen = true ∧ (run mService).uartBusy = false ∧ (({ run mService with uartBusy := true } : State).uartOpen && ({ run mService with uartBusy := true } : State).uartBusy) = true ∧
    (let b := uartUnescape (echoFrame 0x7E7D)
     let body := b.take (b.length - 4)
     let h := State.hdrOf body
     let c : Cmd := ⟨fieldAt body 0 2, h, bytesWords (body.drop 16), none⟩
     b.length = 24 ∧ crc32 body = leVal (b.drop 20) ∧ b.length - 20 = 4 * h.plen.toNat ∧ c.op = 0x0105 ∧ c.hdrOk = true ∧
       ((run mService).gates c).all (fun g => g.1) = true ∧ crc32 (0 :: body.drop 1) ≠ leVal (b.drop 20)) ∧
    (uartUnescape (List.replicate 19 0)).length < 20 ∧ 16388 < (uartUnescape (List.replicate 16389 0)).length := by
  decide +kernel

/-- The module in mode `m` with its rings open and the extended time set. -/
def on (m : Nat) : State := (ringed (run m)).setExtSet

/-- A packet on ring 15 with the words `ws`, given as numbers. -/
def pk (tgt : Nat) (ws : List Nat) : Packet := packet tgt (ws.map (BitVec.ofNat 32))

theorem test_w_DeviceCommandsAnswer : [
    served (on mConfigure) 0x0101 (pk 0xFFFF []) fun _ _ => true, served (on mHalt) 0x0104 (pk 0xFFFF []) fun _ _ => true,
    served (on mUpdate) 0x0105 (pk 0xFFFF [5]) fun _ _ => true,
    served (on mConfigure) 0x0102 (pk 0xFFFF [9]) fun _ c => !State.modeNames.contains (c.w 0),
    served (ringed (run mConfigure)) 0x0102 (pk 0xFFFF [mService]) fun u c => c.w 0 = mService && !u.extSet,
    served (on mService) 0x0102 (pk 0xFFFF [mService]) fun u c => c.w 0 = u.mode && u.extSet,
    served (on mStandby) 0x0102 (pk 0xFFFF [mService]) fun u c => c.w 0 = mService && u.extSet && u.mode ≠ mService,
    served (on mConfigure) 0x0102 (pk 0xFFFF [mTest]) fun u c => c.w 0 = mTest && u.mode ≠ mTest,
    served (on mConfigure) 0x0102 (pk 0xFFFF [mStandby]) fun u c => c.w 0 = mStandby && u.mode ≠ mTest,
    served (on mDegraded) 0x0102 (pk 0xFFFF [mDrain]) fun u c => c.w 0 = mDrain && u.mode ≠ mTest,
    served ((on mTest).wf PW_MODE.adr PW_MODE.FROM mStandby) 0x0102 (pk 0xFFFF [mStandby]) fun u c => c.w 0 = mStandby && u.mode = mTest,
    (List.range 3).all fun k => [0, 3, 4, 23, 24, 32].all fun i =>
      served (on mService) 0x0103 (selWord (pk 0xFFFF [256 * i]) 0 2 k) fun _ _ => true].all id = true := by
  decide +kernel

theorem test_w_SettingsAreReadSetAndListed : [
    served (on mService) 0x0201 (pk 0xFFFF [0xA01]) fun _ c => settingIds.contains (c.w 0),
    served (on mService) 0x0201 (pk 0xFFFF [0]) fun _ c => !settingIds.contains (c.w 0),
    served (on mStandby) 0x0202 (pk 0xFFFF [0x10900, 6]) fun _ c => bootOnly (bits (c.w 0) 0 16) || !settingOk 0x900 (c.w 1),
    [0x602, 0x608, 0x800, 0x810, 0x82B, 0x603].all fun i => served (on mStandby) 0x0202 (pk 0xFFFF [i]) fun u c =>
      settingIds.contains (bits (c.w 0) 0 16) && bits (c.w 0) 16 16 = 0 && !bootOnly i && settingOk i (factory i) &&
        bit (factory i) 16 = bit (u.setting i) 16,
    served (on mStandby) 0x0202 (pk 0xFFFF [0x10602, 2]) fun _ c => bits (c.w 0) 16 16 = 1 && settingOk 0x602 (c.w 1),
    served (on mService) 0x0203 (pk 0xFFFF [0x10A01]) fun _ _ => true].all id = true := by
  decide +kernel

/-- A level change of port 7 that waits. -/
def asked7 : CpPort := { CpPort.reset with req := some ⟨1, 1, ⟨some 0, 0x0503, 1, 7, 1, false⟩⟩ }

/-- The module in mode `m` with channel 7 released. -/
def free7 (m : Nat) : State := (on m).setChan 7 { (on m).chan 7 with clamped := false }

theorem test_w_LinksAndAnalogChannelsAreCommanded : [
    served (on mStandby) 0x0503 (selWord (pk 7 [0]) 0 2 0) fun _ c => c.w 0 < 8,
    [0, 1, 3, 5].all fun st => served ((on mStandby).setCpState 7 st) 0x0503 (selWord (pk 7 [4]) 0 2 1) fun u c =>
      c.w 0 < 8 && (u.cp 7).req = none && u.cpState 7 = st,
    [3, 5, 0].all fun st => served ((on mStandby).setCpState 7 st) 0x0503 (selWord (pk 7 [4]) 0 2 2) fun u c =>
      c.w 0 < 8 && (u.cp 7).req = none && u.cpState 7 = st,
    served ((on mStandby).setCp 7 asked7) 0x0503 (selWord (pk 7 [4]) 0 2 1) fun u c => c.w 0 < 8 && (u.cp 7).req ≠ none,
    served (on mService) 0x0504 (pk 7 []) fun _ _ => true,
    [mTest, mStandby].all fun m => served (free7 m) 0x0505 (selWord (pk 7 [0xFFFF, 0]) 16 1 0) fun u c =>
      c.w 0 < 2 ^ 17 && c.w 1 < 2 ^ 28 && !u.chanNamed 7 && !u.tkOwns 7 && (u.chan 7).steps = [] && !u.aoFault 7 && !u.safeMoving 7 &&
        !(u.chan 7).clamped,
    served (free7 mStandby) 0x0505 (selWord (pk 7 [0xFFFF, 2 ^ 28 - 1]) 16 1 1) fun u c =>
      c.w 0 < 2 ^ 17 && c.w 1 < 2 ^ 28 && !u.chanNamed 7 && !u.tkOwns 7 && (u.chan 7).steps = [] && !u.aoFault 7 && !u.safeMoving 7 &&
        !(u.chan 7).clamped,
    served ((on mStandby).wb (AO_CHSTAT.adr 7) AO_CHSTAT.FAULT true) 0x0505 (selWord (pk 7 [1, 1]) 16 1 1) fun u c =>
      c.w 0 < 2 ^ 17 && c.w 1 < 2 ^ 28 && u.aoFault 7,
    served ((on mStandby).setChan 7 { (on mStandby).chan 7 with steps := List.replicate 31 ⟨1, 1, false, none⟩ }) 0x0506 (pk 7 [0xFFFF, 1])
      fun u c => c.w 0 < 2 ^ 16 && (u.chan 7).steps.length < 32 && !u.aoFault 7 && !u.safeMoving 7 && !u.tkOwns 7].all id = true := by
  decide +kernel

theorem test_w_TimeAndPortCommandsSetState : [
    served (on mHalt) 0x0601 (pk 0xFFFF []) fun _ _ => true,
    [0, 1].all fun d => served (on mStandby) 0x0602 (selWord (pk 0xFFFF [0, 0, d, 0]) 0 1 0) fun _ c =>
      c.w 0 < 2 && c.w 2 < 2 ^ 16 && c.w 3 < 10 ^ 9,
    served (on mStandby) 0x0602 (selWord (pk 0xFFFF [0, 0, 0, 10 ^ 9]) 0 1 0) fun _ c => !(c.w 3 < 10 ^ 9),
    [on mStandby, ringed (run mStandby)].all fun s => served s 0x0602 (selWord (pk 0xFFFF [0, 5, 0, 10 ^ 9 - 1]) 0 1 1) fun _ c =>
      c.w 0 < 2 && c.w 2 < 2 ^ 16 && c.w 3 < 10 ^ 9,
    served (on mStandby) 0x0602 (selWord (pk 0xFFFF [4, 5, 0, 0]) 0 1 1) fun _ c => !(c.w 0 < 2),
    served (on mStandby) 0x0603 (pk 0xFFFF [37]) fun _ _ => true, served (on mStandby) 0x0604 (pk 11 [43 + 2 ^ 8]) fun _ _ => true,
    served (on mService) 0x0605 (pk 0xFFFF [0]) fun _ _ => true,
    served (on mStandby) 0x0501 (pk 11 [1, 0, 0, 1]) fun _ _ => true].all id = true := by
  decide +kernel

/-- The words of SCRUB, MEM_READ and MEM_WRITE: an address and a count. -/
def at48 (a n : Nat) : List Nat := [a % 2 ^ 32, a / 2 ^ 32, n]

/-- What SCRUB needs: the range of `c` lies in one memory. -/
def whole (u : State) (c : Cmd) : Bool :=
  c.w 1 < 2 ^ 16 && c.w48 0 % 64 = 0 && c.w 2 ≠ 0 && State.scrubSame u.ddrGiB (c.w48 0) (c.w48 0 + 64 * c.w 2 - 1)

/-- The first check that a packet with opcode `op` fails at `s`. -/
def gateAt (s : State) (op : Nat) (p : Packet) : Option (Bool × Nat) := ((takenBy s p).gates (cmdOf op p)).find? fun g => !g.1

/-- A ticket of ring 0. -/
def tick : Ticket := ⟨some 0, 0x0701, 1, 0xFFFF, 1, false⟩

/-- Cluster 23 without power. -/
def cluOff (s : State) : State := s.setReg (PW_DOMSTAT.adr (253 / 32)) (s.reg (PW_DOMSTAT.adr (253 / 32)) - 2 ^ (253 % 32))

/-- Region 0's island is dead. -/
def deadRegion0 (s : State) : State := s.setDead 28 true

/-- 8 GiB of DDR, whose channels are ready or not. -/
def ddr (ok : Bool) (s : State) : State := upto 4 (fun c s => s.wb (HUB_DDRSTAT.adr c) HUB_DDRSTAT.READY ok) { s with ddrGiB := 8 }

/-- The last 64 KiB but one of core memory 191, in cluster 23. -/
def last191 (n : Nat) : Packet := pk 0xFFFF (at48 (0x100000000 + 191 * 0x100000) n)

theorem test_w_MemoryCommandsReachMemories : [
    served (ddr true (on mStandby)) 0x0701 (pk 0xFFFF (at48 0x10000000000 1)) fun u c => whole u c && u.scrub.isNone && !u.ddrBusy,
    served (on mStandby) 0x0701 (last191 1024) fun u c => whole u c && u.scrub.isNone &&
      ((memLoc u.ddrGiB (c.w48 0)).getD ⟨0, 0, 0, 8⟩).kind ≠ 8,
    served ((on mStandby).scrubStart 0x100000000 1 ⟨0, 0, 0, 0⟩ tick) 0x0701 (pk 0xFFFF (at48 0x100000000 1)) fun u c =>
      whole u c && u.scrub.isSome,
    gateAt (cluOff (on mStandby)) 0x0701 (last191 1) = some (false, sAsleep),
    gateAt (deadRegion0 (on mStandby)) 0x0701 (pk 0xFFFF (at48 0x300000000 1)) = some (false, sDead),
    [on mStandby, cluOff (on mStandby)].all fun u => whole u (cmdOf 0x0701 (last191 1)),
    served (on mStandby) 0x0701 (pk 0xFFFF (at48 64 0)) fun u c => c.w 2 = 0 && c.w48 0 % 64 = 0 && u.scrub.isNone,
    [8, 9].all fun i => served (on mService) 0x0702 (pk 0xFFFF [i]) fun _ _ => true,
    [8, 9].all fun i => served (on mService) 0x0703 (pk 0xFFFF [i]) fun _ _ => true,
    served (on mService) 0x0704 (pk 0xFFFF []) fun _ _ => true,
    served (ddr false (on mTest)) 0x0705 (pk 0xFFFF (at48 0x10000000000 1)) fun u c => u.memBusy (c.w48 0) 4,
    [1, 1023].all fun n => served (on mTest) 0x0705 (pk 0xFFFF (at48 0x100000000 n)) fun u c =>
      c.w48 0 % 4 = 0 && !u.memBusy (c.w48 0) (4 * n) && (u.busRead 40 (c.w48 0) (4 * n)).1.isNone,
    [0, 1024].all fun n => served (on mTest) 0x0705 (pk 0xFFFF (at48 0x100000000 n)) fun _ _ => true,
    served (on mTest) 0x0706 (pk 0xFFFF (at48 0x100000000 7)) fun u c => c.w48 0 % 4 = 0 && !u.memBusy (c.w48 0) 4 &&
      (u.memWrite (c.w48 0) (wordBytes (c.ws.drop 2))).1.isNone].all id = true := by
  decide +kernel

/-- The second line of a MEM_WRITE lies beyond program memory: it is the first line that fails, and the first line is not written. -/
theorem test_w_memWriteStops :
    let b := 0x100010000 - 64
    let bs := List.replicate 128 (1 : Byte)
    ((((State.pieces (bs.length / 64 + 2) b bs.length).map fun x => (x.1, (bs.drop (x.1 - b)).take x.2)).find? fun x =>
      ((on mTest).memLine x.1 x.2).1.isSome).map fun q => q.1) = some (b + 64) ∧
    ((on mTest).memWrite b bs).2.mem = (on mTest).mem := by
  decide +kernel

/-- A carrier of category 2 in region 0 that costs `k` of each kind. -/
def car0 (k : Nat) : Carrier := ⟨[2#32], 1, 0, [], none, List.replicate 8 k ++ [0, 0], [], [], []⟩

/-- A power-off of cluster 23 (domain 253) that waits for its drain. -/
def offing : State := { z with domJob := some ⟨some tick, false, [253], []⟩ }

theorem test_w_GuestbookAndPowerCommandsAct : [
    served (on mHalt) 0x0801 (pk 0xFFFF []) fun _ _ => true, served (on mHalt) 0x0802 (pk 0xFFFF [0, 127]) fun _ _ => true,
    served (on mTest) 0x0803 (pk 0xFFFF [1535, 2 ^ 27 - 1]) fun _ _ => true, served (on mDrain) 0x0904 (pk 0xFFFF [9]) fun _ _ => true,
    served (on mService) 0x0905 (pk 0xFFFF []) fun _ _ => true,
    served (on mService) 0x0901 (pk 27 [6]) fun _ c => 6 ≤ c.w 0,
    served { on mService with plJobs := [(27, tick)] } 0x0901 (pk 27 [5]) fun u c => c.w 0 < 6 && u.plJobs.any fun j => j.1 = c.tgt,
    (List.range 6).any fun l => served (on mService) 0x0901 (pk 27 [l]) fun u c =>
      u.plJobs.isEmpty && u.rf (PW_ISLAND.adr c.tgt) PW_ISLAND.ACTIVE = l,
    served ((on mService).wf (PW_ISLAND.adr 27) PW_ISLAND.ACTIVE 3) 0x0901 (pk 27 [5]) fun u c =>
      u.plJobs.isEmpty && u.rf (PW_ISLAND.adr c.tgt) PW_ISLAND.ACTIVE ≠ 5 && (u.regionCarriers (islandRegion c.tgt)).isEmpty,
    [0, 10 ^ 12].all fun k => served (((on mService).wf (PW_ISLAND.adr 0) PW_ISLAND.ACTIVE 3).setCarrier 511 (some (car0 k))) 0x0901
      (pk 0 [5]) fun u c => u.plJobs.isEmpty && u.rf (PW_ISLAND.adr c.tgt) PW_ISLAND.ACTIVE ≠ 5 &&
        !(u.regionCarriers (islandRegion c.tgt)).isEmpty &&
        (u.regionOk (islandRegion c.tgt) (u.regionCarriers (islandRegion c.tgt)) (some (c.tgt, 5)) none).1 = (k = 0),
    ({ z with plJobs := [(27, tick)] } : State).plJobs.find? (fun j => j.1 = 27) = some (27, tick),
    [321, 329, 340, 342, 349, 0].all fun d => served (on mService) 0x0902 (selWord (pk d [0]) 0 1 1) fun u c =>
      c.w 0 < 2 && u.domJob.isNone && !u.domUsed c.tgt,
    served { on mService with domJob := some ⟨some tick, true, [], []⟩ } 0x0902 (selWord (pk 0 [0]) 0 1 1) fun u _ => u.domJob.isSome,
    served ((on mService).setCarrier 511 (some (car0 (10 ^ 12)))) 0x0902 (selWord (pk 266 [0]) 0 1 0) fun u c =>
      c.w 0 < 2 && u.domJob.isNone && !u.domUsed c.tgt && !(u.domFits c.tgt).1,
    [253, 254].all fun d => served (on mService) 0x0902 (selWord (pk d [0]) 0 1 0) fun u c =>
      c.w 0 < 2 && u.domJob.isNone && !u.domUsed c.tgt && (u.domFits c.tgt).1,
    offing.domUndrained [253] = [],
    (match ({ z with domJob := some ⟨none, false, [253], []⟩ } : State).domJob with
      | some j => !j.on && j.ticket.isNone && z.domUndrained j.doms = []
      | none => false),
    ({ offing with outst := [⟨23, 40, 0, 0x100000000 + 184 * 0x100000, false, none, []⟩] } : State).domUndrained [253] ≠ [],
    served (on mStandby) 0x0903 (pk 0xFFFF []) fun _ _ => true].all id = true := by
  decide +kernel

theorem test_w_SecurityAndUpdateCommandsAct : [
    served (on mService) 0x0A01 (pk 0xFFFF (List.replicate 12 7)) fun _ _ => true, served (on mService) 0x0A02 (pk 0xFFFF []) fun _ _ => true,
    [7, 8].all fun n => served ((on mService).wf SEC_STAT.adr SEC_STAT.FAILS n) 0x0A03 (pk 0xFFFF []) fun _ _ => true,
    ({ z with challenge := some 5 } : State).challenge = some 5,
    served (on mTest) 0x0A04 (pk 0xFFFF (List.replicate 24 0)) fun u _ => u.challenge.isNone,
    served { on mTest with challenge := some 5 } 0x0A04 (pk 0xFFFF (List.replicate 24 0)) fun u _ =>
      u.challenge = some 5 && (List.range 4).all fun k => (sget u.keyRecs k none).isNone,
    served (on mStandby) 0x0A05 (pk 0xFFFF [0, 4092]) fun _ _ => true,
    served (on mStandby) 0x0A06 (pk 0xFFFF (3 :: List.replicate 24 0)) fun u c =>
      c.w 0 < 4 && !u.revoked (c.w 0) && !u.revoked (c.w 0 ^^^ 1) && !u.keyUsed (c.w 0),
    served (on mStandby) 0x0C01 (pk 0xFFFF [2, (nvSlot 2 0).2]) fun u c => c.w 0 < 3 && c.w 1 % 4 = 0 && 256 ≤ c.w 1 &&
      u.update.isNone && u.bootRec.cand.getD (c.w 0) none ≠ some (1 - u.bootRec.active.getD (c.w 0) 0),
    served { on mUpdate with update := some ⟨2, 1, 256, 3, none⟩ } 0x0C02 (pk 0xFFFF [252, 1]) fun u c =>
      u.update = some ⟨2, 1, 256, 3, none⟩ && c.w 0 % 4 = 0 && c.w 0 + 4 * (c.plen - 1) ≤ 256,
    served { on mUpdate with update := some ⟨2, 1, 256, 3, none⟩ } 0x0C03 (pk 0xFFFF []) fun u _ => u.update = some ⟨2, 1, 256, 3, none⟩,
    served { on mUpdate with update := some ⟨2, 1, 256, 3, none⟩ } 0x0C04 (pk 0xFFFF []) fun u _ => u.update = some ⟨2, 1, 256, 3, none⟩
    ].all id = true := by
  decide +kernel

/-- Mode TEST with a challenge and the key `key` in slot 0. -/
def unlocking (key : BitVec 768) : State := { on mTest with challenge := some 5, keyRecs := [(0, some key)] }

/-- Slot 0 is not revoked there: where the verifier, a constant with no body, accepts a signature under `key`, DBG_UNLOCK meets a
slot that verifies. -/
theorem test_w_unlockVerifies (key : BitVec 768) :
    (unlocking key).challenge = some 5 ∧ sget (unlocking key).keyRecs 0 none = some key ∧ (unlocking key).revoked 0 = false := by
  have h : (unlocking key).revoked 0 = (on mTest).revoked 0 := by
    generalize e : on mTest = s
    simp only [unlocking, e]
    rfl
  refine ⟨by simp [unlocking], by simp [unlocking, sget], h.trans ?_⟩
  decide +kernel

theorem test_w_TestCommandsAct : [
    served (on mTest) 0x0B01 (pk 11 [7]) fun u c => c.w 0 < 8 && bit (c.w 0) 2 &&
      (List.range 2).all fun i => u.rf (LN_LANESTAT.adr (portLane c.tgt + i)) LN_LANESTAT.LOOP = 0,
    served (on mTest) 0x0B01 (pk 39 [3]) fun u c => c.w 0 < 8 && !bit (c.w 0) 2 && 16 ≤ c.tgt && (u.ethOf ((c.tgt - 16) / 2)).loop = 0,
    served ((on mTest).setEth 11 { (on mTest).ethOf 11 with loop := 1 }) 0x0B01 (pk 39 [3]) fun u c =>
      !bit (c.w 0) 2 && 16 ≤ c.tgt && (u.ethOf ((c.tgt - 16) / 2)).loop ≠ 0,
    [1, 65535].all fun d => served (on mTest) 0x0B02 (pk 16 [2, d]) fun u c => (sget u.prbs c.tgt none).isNone,
    served { on mTest with prbs := [(39, some tick)] } 0x0B02 (pk 39 [1, 1]) fun u c => (sget u.prbs c.tgt none).isSome,
    [0, 65536].all fun d => served (on mTest) 0x0B02 (pk 16 [2, d]) fun _ _ => true,
    (sget ({ z with prbs := [(39, some tick)] } : State).prbs 39 none).isSome,
    [0, 1].all fun w => served (on mTest) 0x0B03 (pk 0xFFFF [w]) fun u _ => u.selfTest.isNone,
    served { on mTest with selfTest := some tick } 0x0B03 (pk 0xFFFF [1]) fun u _ => u.selfTest.isSome].all id = true := by
  decide +kernel

/-! ### Carriers -/

/-- CELL_SETUP parameters from (packet offset, bytes, value), with `pat` TDD pattern words. -/
def cell (fs : List (Nat × Nat × Nat)) (pat : List Word) : List Word :=
  bytesWords (fs.foldl (fun b f => patch b (f.1 - 0x10) (leBytes f.2.1 f.2.2)) (List.replicate 208 0)) ++ pat

/-- An FDD NR carrier of category 1 at 15 kHz with one antenna; its rings are 15, and it names a ramp channel. -/
def nrFields : List (Nat × Nat × Nat) := [(0x10, 1, 1), (0x14, 2, 270), (0x16, 1, 1), (0x17, 1, 9), (0x1C, 4, 2000000), (0x20, 4, 1900000),
  (0x28, 4, 1000), (0x34, 1, 1), (0x37, 1, 0xFF), (0x39, 1, 0xFF), (0x3B, 1, 0xFF), (0x40, 6, 1), (0x52, 2, 1007)]
def nr : List Word := cell nrFields []

/-- An LTE carrier of row C of R297. -/
def lte : List Word := cell (nrFields ++ [(0x10, 1, 2), (0x14, 2, 100), (0x34, 1, 4), (0x52, 2, 503)]) []

/-- A TDD carrier of category 3 at 30 kHz with four antennas on port 7 and a ramp on channel 5: nine downlink symbols, two guard
symbols and three uplink symbols every 0.5 ms. -/
def nr3 : List Word := cell (nrFields ++ [(0x11, 1, 1), (0x12, 1, 1), (0x13, 1, 3), (0x14, 2, 273), (0x16, 1, 3), (0x20, 4, 0), (0x24, 4, 25600),
  (0x28, 4, 13000), (0x30, 4, 13000), (0x34, 1, 4), (0x48, 1, 7), (0x49, 1, 23), (0x4A, 1, 0xE2), (0x4B, 1, 20), (0x4C, 1, 4), (0x4D, 1, 2),
  (0x4E, 1, 1), (0x54, 2, 500), (0x58, 2, 14), (0x60, 2, 5), (0x64, 4, 2 ^ 32 - 13020), (0x68, 2, 9), (0xA2, 1, 1)])
  [0x05680000]

/-- An FDD carrier of category 3. -/
def lte3 : List Word := cell (nrFields ++ [(0x10, 1, 2), (0x13, 1, 3), (0x14, 2, 100), (0x16, 1, 3), (0x28, 4, 13000), (0x30, 4, 13000),
  (0x34, 1, 4), (0x48, 1, 7), (0x49, 1, 23), (0x4A, 1, 0xE2), (0x4B, 1, 20), (0x52, 2, 503)]) []

/-- Carrier `ws` in state `st` with the slots `xs`; its first frame is frame 0. -/
def carr (ws : List Word) (st : Nat) (xs : List SlotRec) : Carrier := ⟨ws, st, gpsEpoch, xs, none, List.replicate 12 0, [], [], []⟩

/-- The module in mode `m` at the start of frame 0, `t` ns on, with carrier 511 as `k`. -/
def air (m t : Nat) (k : Carrier) : State := ({ on m with ext := gpsEpoch + t }).setCarrier 511 (some k)

theorem test_w_CarriersAreSetUpStartedAndStopped : [
    served (on mStandby) 0x0301 (pk 511 (List.replicate 52 0)) fun u c => !u.setupOk c.ws,
    served (air mStandby 0 (carr nr 1 [])) 0x0301 (packet 511 nr) fun u c => u.setupOk c.ws && (u.carrier c.tgt).isSome,
    served (ddr false (on mStandby)) 0x0301 (packet 511 nr) fun u c => u.setupOk c.ws && u.ddrBusy,
    [nr, lte, nr3, lte3].all fun ws => served (on mStandby) 0x0301 (packet 511 ws) fun u c =>
      u.setupOk c.ws && (u.carrier c.tgt).isNone && !u.ddrBusy,
    [lte, nr3].all fun ws => (z.costOf ws).2.worksheet ⟨ws, 1, 0, [], none, (z.costOf ws).1, [], [], []⟩ = (true, z),
    served (air mService 5 (carr nr 1 [])) 0x0302 (pk 511 [1023]) fun u c =>
      u.carrier c.tgt = some (carr nr 1 []) && bits (c.w 0) 10 21 = 0 && !bit (c.w 0) 31,
    served (air mService 5 (carr nr 1 [])) 0x0302 (pk 511 [2 ^ 31]) fun u c =>
      u.carrier c.tgt = some (carr nr 1 []) && bits (c.w 0) 0 31 = 0 && bit (c.w 0) 31,
    served (air mService 5 (carr nr 2 [])) 0x0302 (pk 511 [1]) fun u c => u.carrier c.tgt = some (carr nr 2 []),
    [1, 2, 3].all fun st => served (air mService 5 (carr nr st [])) 0x0303 (pk 511 []) fun u c => u.carrier c.tgt = some (carr nr st []),
    served (air mService 5 (carr nr 2 [])) 0x0304 (pk 511 []) fun u c => u.carrier c.tgt = some (carr nr 2 []) && u.extSet,
    (let k : Carrier := { carr nr3 3 [] with stop := some (tick, gpsEpoch) }
     let s := air mService 0 k
     s.carrier 511 = some k && (gpsEpoch : Int) ≤ s.ext && State.rampChan nr3 = some 5 && (s.chan 5).steps = []),
    served (on mService) 0x0302 (pk 511 [1]) fun u c => (u.carrier c.tgt).isNone,
    served (on mService) 0x0304 (pk 511 []) fun u c => (u.carrier c.tgt).isNone].all id = true := by
  decide +kernel

theorem test_w_DelayMeasurementsRun :
    let k := carr nr 2 []
    let run (n : Nat) (w : List (Nat × Int)) : DelayRun := ⟨tick, 0, n, w, [], 255⟩
    let s (r : DelayRun) : State := (air mService 0 k).setDelRun 511 (some r)
    [[1, 64].all fun n => served (air mService 0 k) 0x0502 (pk 511 [n]) fun u c =>
      u.carrier c.tgt = some k && 1 ≤ c.w 0 && c.w 0 ≤ 64 && cCat nr ≠ 3 && (u.delRun c.tgt).isNone,
    served (s (run 1 [])) 0x0502 (pk 511 [64]) fun u c => u.carrier c.tgt = some k && (u.delRun c.tgt).isSome,
    (s (run 1 [])).delRun 511 = some (run 1 []) && (s (run 1 [])).carrier 511 = some k,
    served (on mService) 0x0502 (pk 511 [1]) fun u c => (u.carrier c.tgt).isNone,
    [0, 65].all fun n => served (air mService 0 k) 0x0502 (pk 511 [n]) fun u c => c.w 0 = n && u.carrier c.tgt = some k,
    okay (s (run 0 [(7, 5)])) && (s (run 0 [(7, 5)])).delRun 511 = some (run 0 [(7, 5)])].all id = true := by
  decide +kernel

/-- A PDSCH PDU for one layer of 16 resource blocks with a block of 24 bits, and a PUSCH PDU. -/
def pdsch : List Word := [0x00090003, 7, 0x00210001, 16 * 2 ^ 9 + 14 * 2 ^ 22, 24, 1 + 2 ^ 16, 0, 0, 0]
def pusch : List Word := [0x000D0101, 7, 0x00210001, 16 * 2 ^ 9 + 14 * 2 ^ 22, 24, 1 + 2 ^ 16, 0, 0, 0, 0, 0, 0, 0]

/-- What remembers slot 19 of frame 1 (29 ms), 5 ms ahead of 24 ms. -/
def slot19 : SlotRec := State.newSlot (gpsEpoch + 19000000) 1 9

/-- A slot message for it. -/
def slotMsg (npdu : Nat) (ws : List Word) : Packet := packet 511 (BitVec.ofNat 32 (1 + 9 * 2 ^ 16 + npdu * 2 ^ 24) :: 0 :: ws)

theorem test_w_SlotMessagesAreTakenInTime :
    let k (xs : List SlotRec) := carr nr 2 xs
    let good (k : Carrier) (lead : Nat) (u : State) (c : Cmd) : Bool := u.carrier c.tgt = some k &&
      airOf nr 1 9 u.ext = gpsEpoch + 19000000 && (u.ext : Int) ≤ airOf nr 1 9 u.ext - lead && airOf nr 1 9 u.ext ≤ u.ext + 20000000 && c.hdrOk &&
      bits (c.w 0) 0 16 = 1 && bits (c.w 0) 16 8 = 9 && c.w 1 = 0 && c.ring = some (cSlotRing nr)
    let early := 18500000
    let entry : List Word := [7, 3, 64, 0]
    [[(0, []), (1, pdsch)].all fun x => served (air mService early (k [])) 0x0401 (slotMsg x.1 x.2) fun u c => good (k []) 500000 u c &&
      ((pdusOf x.1 x.2).getD [] = if x.1 = 0 then [] else [x.2]) && (x.1 = 0 || pduOk nr x.2 true) && distinctIds [x.2] && layersOk nr [x.2] 16,
    served (air mService early (k [{ slot19 with dlSeen := true }])) 0x0401 (slotMsg 0 []) fun u c =>
      good (k [{ slot19 with dlSeen := true }]) 500000 u c,
    served (air mService (early + 1) (k [])) 0x0401 (slotMsg 0 []) fun u c =>
      u.carrier c.tgt = some (k []) && airOf nr 1 9 u.ext - 500000 < u.ext && c.hdrOk,
    [(0, []), (1, entry)].all fun x => let kd := k [{ slot19 with dlSeen := true, dl := some [pdsch] }]
      served (air mService (early + 100000) kd) 0x0402 (slotMsg x.1 x.2) fun u c => good kd 400000 u c && (x.1 = 0 || dataOk [pdsch] x.2),
    [(0, []), (1, pusch)].all fun x => served (air mService early (k [])) 0x0403 (slotMsg x.1 x.2) fun u c => good (k []) 500000 u c &&
      (x.1 = 0 || (pduOk nr x.2 false && u.harqOk nr x.2)) && distinctIds [x.2] && layersOk nr [x.2] 8,
    served (on mService) 0x0403 (slotMsg 0 []) fun u c => (u.carrier c.tgt).isNone,
    (let x := { slot19 with data := some [(7, 3, 64)], fetch := some tick }
     let s := air mService early (k [x])
     s.carrier 511 = some (k [x]) && State.slotRec (k [x]) (airOf nr 1 9 s.ext) = some x),
    ((({ on mService with pcieUp := true, bme := true } : State).hosting ⟨List.replicate 64 5, false⟩).busRead 40 0x800000000040 64).1.isNone
    ].all id = true := by
  decide +kernel

/-- Carrier 511 without streams of its own, and that of carrier 509, whose streams it uses. -/
def shared : Carrier := carr (cell (nrFields ++ [(0x50, 2, 510)]) []) 2 []

theorem test_w_SlotsSendIndicationsAndSteerTheRadio :
    let x := { slot19 with ulTicket := some tick, ul := some [pusch] }
    [(let s := air mService 19000000 (carr nr 2 [x])
      s.carrier 511 = some (carr nr 2 [x]) && State.slotRec (carr nr 2 [x]) (airOf nr 1 9 s.ext) = some x),
     [carr nr 2 [], shared].all fun k =>
      let s := (air mService 18999000 k).setCarrier 509 (some (carr nr 2 []))
      let t := airOf nr 1 9 s.ext
      s.streamHost k = some (carr nr 2 []) && cCat nr ≠ 3 && State.runsAt k t && !(State.recOf k t 1 9).launched &&
        cPartner shared.words = 510 && t - cTadv nr - cTcp nr ≤ (s.ext : Int) && s.hasUl (carr nr 2 []) t 1 9,
     [mService, mHoldover, mDegraded, mDrain].all fun m => [0, 4800000].all fun t => [true, false].all fun up =>
      let k := carr nr3 2 []
      let s := air m t k
      let a := symAir nr3 (airOf nr3 0 10 s.ext) 10 (if up then 0 else 9)
      s.mode = m && State.rampChan nr3 = some 5 && State.rampEdge nr3 up 0 10 (if up then 0 else 8) && cDuplex nr3 = 1 &&
        (if t = 0 then 100000 ≤ a + (cRamp nr3 up 0).2.2 - s.ext else true),
     (let k := carr nr3 2 []
      let s := air mService 5000000 k
      symAir nr3 (airOf nr3 0 10 s.ext) 10 0 + (cRamp nr3 true 0).2.2 - s.ext < 100000),
     cCat nr3 = 3 && cNant nr3 = 4 && cDuplex nr3 = 1 && cCat lte3 = 3 && cDuplex lte3 = 0,
     -- windows of the portion at symbol 11 of slot 0, armed and arrived, of a radio point at FS of the carrier
     [(nr3, 11), (lte3, 0)].all fun x => (List.range 5).all fun win => [true, false].all fun b =>
      let k := carr x.1 2 []
      let s := (air mService 0 k).wf (CP_CAR.adr 7) CP_CAR.FSSEL (State.fsSel x.1)
      let w := State.gainW x.1 0 x.2
      let (a, m) := if win = 0 then State.guardSpan x.1 0 0 x.2 else ((State.rxStart x.1 0 x.2 + (win - 1) * w) % s.cpCyc 7, w)
      let c := { CpPort.reset with frozen := [b, b, b, b], windows := List.replicate 4 (some 1), rxNext := (a + m) % s.cpCyc 7,
                                   arms := [(State.rxStart x.1 0 x.2, 0, true)] }
      s.carrier 511 = some k && (decide (0 < m) || (x.1 = lte3 && win = 0)) && decide (2 * ((c.rxNext + s.cpCyc 7 - (a + m) % s.cpCyc 7) % s.cpCyc 7) < s.cpCyc 7) &&
        (c.arms.any fun y => y.1 = State.rxStart x.1 0 x.2 && y.2.2) && (s.setCp 7 c).cp 7 = c && c.frozen.getD 3 false = b].all id = true := by
  decide +kernel

/-- Uplink data has its place when its CRC passed, and none when it has been left out. -/
theorem test_w_uplinkData :
    let x := { slot19 with ul := some [pusch] }
    let e (h : Nat) : IndEntry := ⟨[BitVec.ofNat 32 h], 0, 0, 0, 64, [1]⟩
    (State.ulPdu x (e 0x10007) = some pusch ∧ bit (State.entryHead 0x10007 6) 16 = true ∧ bit (State.entryHead 0x30007 6) 16 = false) ∧
    ((z.dlSections nr 3 [(0, 273, some 5)]).1 = [State.ctrlSection nr 0 0 273 3 5 []]) := by
  decide +kernel

/-- A post of packet address `a` to queue `q`. -/
def posted (a q : Nat) (s : State) : State := { s with egress := [leBytes 6 a ++ leBytes 1 q ++ leBytes 9 0] }

theorem test_w_EgressPostsLeaveTheModule :
    let mem := 0x100040000
    let long := (on mService).memStore ((leBytes 2 4093).zipIdx.map fun b => (mem + 8 + b.2, b.1))
    let frame := (on mService).memStore ((leBytes 2 60).zipIdx.map fun b => (mem + 6 + b.2, b.1))
    [[(0, 112), (mem, 15), (1, 111), (mem, 16)].all fun x => (posted x.1 x.2 z).egress.length = 1 && (posted x.1 x.2 z).egress.all fun p => !z.egressWaits p,
     (let r := (on mService).busRead 40 mem 16
      r.1.isNone && fieldAt r.2.1 8 2 ≤ 4092 && (r.2.2.busRead 40 (mem + 16) 0).1.isNone),
     (let r := long.busRead 40 mem 16
      r.1.isNone && fieldAt r.2.1 8 2 = 4093),
     ((on mService).busRead 40 0x7F0000000 16).1.isSome,
     (let r := frame.busRead 40 mem 16
      r.1.isNone && State.egressLen r.2.1 && (r.2.2.busRead 40 (mem + 64) 60).1.isNone)].all id = true := by
  decide +kernel

/-! ### Memories -/

/-- BOOT with a READY Concierge and DDR settings. -/
def booting : State :=
  ({ z with rst := none, settings := [(0x702, 1)] }.wb HUB_RINGGLB.adr HUB_RINGGLB.READY true)

theorem test_w_DdrTrainsInitialisesAndFails :
    (booting.mode = mBoot ∧ booting.rst = none ∧ booting.rb HUB_RINGGLB.adr HUB_RINGGLB.READY = true ∧ booting.setting 0x702 ≠ 0 ∧
      booting.setting 0x703 < State.geometryGiB (booting.setting 0x702)) ∧
    (let s := ddr false z; s.ddrGiB ≠ 0 ∧ s.rb (HUB_DDRSTAT.adr 3) HUB_DDRSTAT.READY = false) ∧
    (let s := ddr true z; okay s = true ∧ s.sourceDead 41 (35 + ddrSub (0x10000000000 + 2 ^ 33 - 64) / 2) = false ∧
      0x10000000000 + 2 ^ 33 - 64 - 0x10000000000 < s.ddrGiB * 0x40000000) := by
  decide +kernel

/-- A full merge buffer entry of word 0x200000000 in cluster 0. -/
def merged : State := z.setMbuf 0 [⟨0x200000000, 0xFF, 0x0123456789ABCDEF⟩]

/-- An error report of cluster 23's memory. -/
def report (unc : Bool) (kind : Nat) : EccReport := ⟨7, kind, 0x217000000, 5, unc, false, 1, 2, 0⟩

/-- A scrub of cluster memory up to `hi` that has come to line 0x200000000. -/
def scrubbing (hi : Nat) : Scrub := ⟨0x200000000, hi, 2, 0, [(0, 0x200000000)], 0, 2 ^ 32 - 1, 2 ^ 32 - 1, 0, 0, 0, tick⟩

theorem test_w_EccBuffersReportsAndScrubs :
    (okay merged = true ∧ merged.mbufOf (64 * 0 + 0) = [⟨0x200000000, 0xFF, 0x0123456789ABCDEF⟩] ∧
      (memLoc merged.ddrGiB 0x200000000).isSome = true) ∧
    ((z.xing (xkey 0 34 12 0)).fresh = false) ∧
    (∀ u ∈ [true, false], ∀ i ∈ [23, 34], let r := report u 6
      let s := (z.setEccq i ⟨[r], 0, 0⟩).setXing (xkey 23 34 12 0) { Xing.idle with fresh := true }
      okay s = true ∧ (s.eccqOf i).q = [r] ∧ (i = 34 ∨ (s.xing (xkey i 34 12 0)).fresh = true) ∧ r.uncorr = u) ∧
    (∀ hi ∈ [0x200000040, 0x200000080], let s := { z with scrub := some (scrubbing hi) }
      okay s = true ∧ (memLoc s.ddrGiB 0x200000000).map (fun l => l.kind) = some 2 ∧ s.markAt 0x200000000 = none ∧ s.mbuf = []) ∧
    (let s := ({ z with scrub := some (scrubbing 0x200000080) } : State).setMark 0x200000000 (some (.corrected 5))
     okay s = true ∧ s.markAt 0x200000000 = some (.corrected 5) ∧ s.markAt 0x200000008 = none ∧ s.mbuf = []) := by
  decide +kernel

/-! ### Porter -/

/-- Channel `ch` of block `b` with a ring of `n` slots, HEAD `h` and TAIL `t`. -/
def chan (b ch n h t : Nat) : State :=
  ((z.wf (PT_CHSTAT.adr b ch) PT_CHSTAT.ALEN n).wf (PT_CHSTAT.adr b ch) PT_CHSTAT.HEAD h).wf (PT_TAIL.adr b ch) PT_TAIL.TAIL t

theorem test_w_porterWays : z.wayOpen 40 (PT_TAIL.adr 23 15 / 64 * 64) ∧ z.wayOpen 40 (PT_TAIL.adr 24 31 / 64 * 64) :=
  ⟨fun _ => rfl, fun _ => rfl⟩

theorem test_w_PorterChannelsTakeWritesAndReleases :
    (chanOk 23 15 = true ∧ chanOk 24 31 = true ∧ chanOk 23 16 = false) ∧
    (let s := chan 23 15 4096 5 5; okay s = true ∧ s.ptIdle 23 15 = true ∧ s.ptAlen 23 15 = 4096 ∧ s.ptHead 23 15 = 5 ∧
      s.rb (PT_CHSTAT.adr 23 15) PT_CHSTAT.PEND = false ∧ bit (s.reg (PT_CHCTL.adr 23 15)) 30 = false) ∧
    (let s := (chan 23 15 4096 5 6).setRun 23 15 true; okay s = true ∧ s.ptIdle 23 15 = false ∧ s.ptRuns 23 15 = true) ∧
    (let s := (chan 23 15 4096 4095 6).wb (PT_CHSTAT.adr 23 15) PT_CHSTAT.INCHAIN true
     okay s = true ∧ s.rb (PT_CHCTL.adr 23 15) PT_CHCTL.EN = false ∧ s.ptInChain 23 15 = true ∧ (s.pchan 23 15).desc = none ∧
       s.rb (PT_CHSTAT.adr 23 15) PT_CHSTAT.PEND = false) ∧
    (sget z.relIn 31 0 = 0) ∧
    (∀ n ∈ [0, 2], let s : State := { chan 24 31 n 0 1 with relIn := [(31, 15)] }
      sget s.relIn 31 0 ≠ 0 ∧ s.rf (PT_RELHELD.adr 24 31) PT_RELHELD.COUNT < 0xFFFF ∧ (n < 2 ∨ (s.ptTail 24 31 + 1) % n = s.ptHead 24 31)) ∧
    (let s : State := { chan 24 31 2 0 0 with relIn := [(31, 1)] }
     2 ≤ s.ptAlen 24 31 ∧ (s.ptTail 24 31 + 1) % s.ptAlen 24 31 ≠ s.ptHead 24 31) := by
  decide +kernel

/-- The bytes of a descriptor: source, flags, destination, length, event word, and the next of the chain. -/
def pdesc (src flags dst len ev next : Nat) : List Byte :=
  leBytes 6 src ++ leBytes 2 flags ++ leBytes 6 dst ++ leBytes 2 0 ++ leBytes 3 len ++ leBytes 5 ev ++ leBytes 6 next ++ leBytes 2 0

/-- Channel 15 of block 23 enabled, its current descriptor `d` at 0x200000000. -/
def describing (d : List Byte) : State :=
  ((((chan 23 15 4 0 1).wb (PT_CHCTL.adr 23 15) PT_CHCTL.EN true).setPtCur 23 15 0x200000000)).memStore (d.zipIdx.map fun b => (0x200000000 + b.2, b.1))

/-- A copy of 64 bytes within cluster 0, with event word `ev`. -/
def copy64 (ev : Nat) : List Byte := pdesc 0x200000040 0 0x200000080 64 ev 0

/-- Channel 15 of block 23 with a descriptor in progress. -/
def moving (d : List Byte) (moved : Bool) : State := z.setPchan 23 15 ⟨0, some ⟨0x200000000, d, moved, none, 0⟩⟩

theorem test_w_PorterDescriptorsRun :
    (∀ ev ∈ [0, 1 + 3 * 4], let s := describing (copy64 ev); let d := (s.busRead (ptSrc 23 15) (s.ptCur 23 15) 32).2.1
      (s.busRead (ptSrc 23 15) (s.ptCur 23 15) 32).1 = none ∧ d = copy64 ev ∧ s.rb (PT_CHCTL.adr 23 15) PT_CHCTL.EN = true ∧
        s.ptRuns 23 15 = false ∧ s.ptEmpty 23 15 = false ∧ s.pulseHeld (State.ptXing 23) 15 = false ∧ s.sleep = none ∧ descCheck 23 d = 0 ∧
        s.ptPaused 23 d = false ∧ dMode d = 0) ∧
    ((describing (copy64 (1 + 3 * 4))).setXing (Xid.key ⟨31, 23, 8, 0⟩) { Xing.idle with dst := 1 }).ptPaused 23 (copy64 (1 + 3 * 4)) = true ∧
    descCheck 23 (pdesc 0x200000041 0 0x200000080 64 0 0) = 1 ∧
    (∀ m < 5, let d := pdesc 0x200000040 (16 * m + (if m = 0 then 0 else if m < 3 then 2 else 8) * 256) 0x200000100 64 0 0
      ((moving d false).pchan 23 15).desc = some ⟨0x200000000, d, false, none, 0⟩ ∧ dLen d ≠ 0 ∧ dMode d = m ∧ descCheck 23 d = 0) ∧
    (let d := copy64 0
     dSfix d = false ∧ dDfix d = false ∧ dLen d ≠ 0 ∧ dSrc d % 64 + dLen d ≤ 64 ∧ dDst d % 64 + dLen d ≤ 64 ∧
       (z.busRead (ptSrc 23 15) (dSrc d) (dLen d)).1 = none ∧ (z.busRead (ptSrc 23 15) (dSrc d) (dLen d)).2.1.length = dLen d) ∧
    ((z.busRead (ptSrc 23 15) 0x7F0000000 64).1.isSome = true ∧ dSrc (pdesc 0x7F0000000 0 0x200000080 64 0 0) = 0x7F0000000) ∧
    -- no event, the counter of its own slice and of another, a trigger, one that cluster blocks do not have, and one a BAD holds back
    (∀ x ∈ [(0, 0, none), (1 + 3 * 4, 0, none), (1, 0x200000020, none), (2 + 31 * 16, 0, none), (3, 0, none), (1 + 2 ^ 18, 0, some 0x95),
        (0, 0, some 0x82)],
      let d := pdesc 0x200000040 0 0x200000080 64 x.1 x.2.1
      let s := z.setPchan 23 15 ⟨0, some ⟨0x200000000, d, true, x.2.2, 0⟩⟩
      (s.pchan 23 15).desc = some ⟨0x200000000, d, true, x.2.2, 0⟩ ∧ Sys2Proof.Machine.dNext d = x.2.1 ∧ dEvKind d = x.1 % 4 ∧
        evTargetOk 23 d = decide (x.1 ≠ 3) ∧ dHoldBad d = decide (x.1 = 1 + 2 ^ 18)) := by
  decide +kernel

/-- A descriptor in reach of no memory, on an enabled channel that the module's sleep does not hold. -/
theorem test_w_unreadDescriptor :
    let s := (describing (copy64 0)).setPtCur 23 15 0x7F0000000
    (s.busRead (ptSrc 23 15) (s.ptCur 23 15) 32).1.isSome = true ∧ s.rb (PT_CHCTL.adr 23 15) PT_CHCTL.EN = true ∧
      s.ptRuns 23 15 = false ∧ s.ptEmpty 23 15 = false ∧ s.pulseHeld (State.ptXing 23) 15 = false ∧ s.sleep = none := by
  decide +kernel

/-! ### PCIe -/

/-- The link up, memory accesses enabled. -/
def linked : State := { z with pcieUp := true, memEn := true, bme := true }

theorem test_w_barsPlace : linked.barPlace 0 0x3C 4 = .bus 0x3C ∧ linked.barPlace 2 0x8FFC 4 = .msix 0xFFC ∧
    linked.barPlace 2 0xA000 4 = .zero ∧ linked.barPlace 1 0 4 = .none ∧ linked.barPlace 2 0x901C 4 = .pba 0x1C ∧
    linked.barPlace 2 (HUB_RINGGLB.adr - 0x100000) 4 = .bus HUB_RINGGLB.adr ∧ linked.barPlace 0 0xFF00000 4 = .bus 0xFF00000 :=
  ⟨rfl, rfl, rfl, rfl, rfl, rfl, rfl⟩

theorem test_w_HostAccessesAndLinkChangesAct :
    (linked.pcieUp = true ∧ okay linked = true ∧ linked.tlpOk 0x3C 8 = false ∧ linked.tlpOk 0x3C 4 = true) ∧
    ((linked.drawn.lineRead 42 (linked.draw 8).1 HUB_RINGGLB.adr 4).1 = stOk ∧
      (linked.drawn.lineRead 42 (linked.draw 8).1 0xFF00000 4).1 ≠ stOk) ∧
    (linked.drawn.lineWrite 42 (linked.draw 8).1 (HUB_RINGGLB.adr / 64 * 64) .part 0 0).1 = stOk ∧
    (linked.drawn.lineWrite 42 (linked.draw 8).1 0xFF00000 .part 15 0).1 ≠ stOk ∧
    (let r : Req := ⟨39, 40, 7, 0x800000000040, false, none, []⟩
     let s := { linked with hostReads := [r] }
     s.hostReadAt 0x800000000040 = some r ∧ s.hostReadAt 0x800000000080 = none ∧ s.sourceDead r.src 39 = false ∧ okay s = true) ∧
    (okay { linked with wakeDrv := true } = true ∧ linked.wakeDrv = false) := by
  decide +kernel

/-! ### Ethernet -/

/-- Port `p` up. -/
def upPort (p : Nat) (s : State) : State := s.wb (LN_PORTSTAT.adr p) LN_PORTSTAT.UP true

/-- A broadcast frame of `n` bytes of a private EtherType. -/
def frame (n : Nat) : List Byte := List.replicate 12 0xFF ++ [0x88, 0xB5] ++ List.replicate (n - 14) 0

/-- A transmit entry: LT, slot, KIND, LEN, template. -/
def txEnt (lt slot kind len tmpl : Nat) : List Byte :=
  leBytes 4 lt ++ leBytes 1 slot ++ leBytes 1 kind ++ leBytes 2 len ++ leBytes 1 tmpl ++ leBytes 7 0

/-- Queue 7 of port 7 with one entry of a 60-byte frame, timed at cycle `due` or not. -/
def queuedFrame (due : Option Int) : State :=
  let e : TxEnt := ⟨due.map Int.toNat, due, 60, 60, [⟨frame 60, none⟩], false⟩
  let s := upPort 7 { z with cyc := 5000 }
  s.setEth 7 { s.ethOf 7 with txq := [(7, [e])] }

theorem test_w_ethWays : z.wayOpen 40 (ethWin 7 + (16384 * 15 + 0x3FC0) / 64 * 64) ∧
    z.wayOpen 40 ((0x6101000 + 0x10000 * 7 + 0x10 * 7) / 64 * 64) ∧ z.wayOpen 40 (LN_RXGRP.adr 7 31 / 64 * 64) ∧
    z.wayOpen 40 ((0x6103000 + 0x10000 * 7 + 8 * 30) / 64 * 64) ∧ z.wayOpen 40 ((0x6103400 + 0x10000 * 7) / 64 * 64) :=
  ⟨fun _ => rfl, fun _ => rfl, fun _ => rfl, fun _ => rfl, fun _ => rfl⟩

theorem test_w_EthernetLinksAndFramesMove0 :
    (∀ x ∈ [(7, 0), (8, 3), (8, 4)], let a := LN_PORTCFG.adr x.1
      let s := (((z.wb a LN_PORTCFG.EN true).wb a LN_PORTCFG.IML (x.1 = 8)).wb a LN_PORTCFG.PEERV (x.1 = 8)).wf a LN_PORTCFG.PEER 3
      okay s = true ∧ s.rb a LN_PORTCFG.EN = true ∧ s.ethUp x.1 = false ∧ (x.1 < 8 ∨ s.rb a LN_PORTCFG.IML = true ∧
        s.rb a LN_PORTCFG.PEERV = true ∧ s.rf a LN_PORTCFG.PEER = 3)) := by
  decide +kernel

theorem test_w_EthernetLinksAndFramesMove1 :
    (∀ en ∈ [true, false], let s := (upPort 7 z).wb (LN_RXGRP.adr 7 31) LN_RXGRP.EN en
      okay s = true ∧ s.ethUp 7 = true ∧ s.rxOff 7 = false ∧ s.rxEn 7 31 = en ∧ 60 ≤ s.generalRoom 7 ∧ (frame 60).length = 60 ∧
        beVal (((frame 60).drop 12).take 2) ∉ [0x8100, 0x8808, 0x88F7, 0xAEFE] ∧ beVal ((frame 60).take 6) = 0xFFFFFFFFFFFF) := by
  decide +kernel

theorem test_w_EthernetLinksAndFramesMove2 :
    z.preparing = false ∧ State.txEntryOk 7 (txEnt 0 15 8 60 0) = false := by
  decide +kernel

theorem test_w_EthernetLinksAndFramesMove3 :
    (∀ k ∈ [0, 4], State.txEntryOk 7 (txEnt 9 15 k 9212 0) = true ∧ (z.txqOf 7 7).length < 256 ∧ z.txUsed 7 + 9212 ≤ 786432) := by
  decide +kernel

theorem test_w_EthernetLinksAndFramesMove4 :
    (let e : TxEnt := ⟨none, none, 60, 786432, [⟨frame 60, none⟩], false⟩
     let s := z.setEth 7 { z.ethOf 7 with txq := [(7, [e])] }
     okay s = true ∧ 786432 < s.txUsed 7 + 60) := by
  decide +kernel

theorem test_w_EthernetLinksAndFramesMove5 :
    (State.txEntryOk 7 (txEnt 0 15 1 48 255) = true ∧ sget (z.ethOf 7).tmpl 255 none = none) := by
  decide +kernel

theorem test_w_EthernetLinksAndFramesMove6 :
    (let t : Tmpl := ⟨1, 2, none, 3, 9⟩
     let s := z.setEth 7 { z.ethOf 7 with tmpl := [(255, some t)] }
     okay s = true ∧ sget (s.ethOf 7).tmpl 255 none = some t ∧ s.txUsed 7 + 1 * prbSize 9 ≤ 786432) := by
  decide +kernel

theorem test_w_EthernetLinksAndFramesMove7 :
    (∀ x ∈ [(none, 0), (some (5000 : Int), 0), (some 3999, 1), (some 5001, 2)], let s := queuedFrame x.1
      okay s = true ∧ s.txOpen 7 = true ∧ (s.ethOf 7).cont = none ∧ (s.txqOf 7 7).map (fun e => e.due) = [x.1] ∧ oneStepAt (frame 60) = none ∧
        (x.1 = none → (List.range 8).reverse.find? (fun q => s.eligible 7 q) = some 7)) := by
  decide +kernel

/-- Both lanes of port 7 in loopback `k`. -/
def looped (k : Nat) (s : State) : State := upto 2 (fun i v => v.wf (LN_LANESTAT.adr (portLane 7 + i)) LN_LANESTAT.LOOP k) (upPort 7 s)

theorem test_w_EthernetLinksAndFramesMove8 :
    (∀ n ∈ [0, 1], let x : Plane := ⟨511, 7, 0, 0, 0, 7, 7, ⟨1, 2, none, 3, 9⟩, n, ⟨some 5, some 5, 60, 60, [⟨frame 60, none⟩], false⟩⟩
     let s := { z with uplane := [x], cyc := 5 }
     let r := ({ s with uplane := [] } : State).planeFill x
     okay s = true ∧ s.uplane = [x] ∧ (r.2.txqOf 7 7).length < 256 ∧ r.2.txUsed 7 + r.1.ent.size ≤ 786432) ∧
    (∀ k ∈ [1, 2, 3], (looped k z).rxOff 7 = decide (k < 3) ∧ (looped k z).laneLoop 7 0 = k ∧ (looped k z).laneLoop 7 1 = k ∧
      (looped k z).txLoops 7 = decide (k < 3) ∧ (looped k z).txOut 7 = decide (k < 2)) ∧
    (z.txLoops 7 = false ∧ z.txOut 7 = true) := by
  decide +kernel

/-- A timed head behind a frame that is still on the line, one behind a fuller queue, and one whose turn it is. -/
theorem test_w_EthernetLinksAndFramesMove9 :
    (let s := queuedFrame (some 5000)
     ((s.ethOf 7).lineEnd ≤ (s.cyc : Int) ∧ s.nextQueue 7 = some 7 ∧ s.uplane = []) ∧
     ((s.cyc : Int) < (s.setEth 7 { s.ethOf 7 with lineEnd := 5001 } |>.ethOf 7).lineEnd)) ∧
    (let e : TxEnt := ⟨some 4000, some 4000, 60, 60, [⟨frame 60, none⟩], false⟩
     let s := upPort 7 { z with cyc := 5000 }
     let u := s.setEth 7 { s.ethOf 7 with txq := [(6, [e]), (7, [e])] }
     u.nextQueue 7 = some 7 ∧ u.txqOf 7 6 = [e]) := by
  decide +kernel

/-- While CHRYSALIS is prepared an entry waits with its port, and its slot is its own. -/
theorem test_w_heldEntries :
    let sl : Sleep := ⟨tick, [], 0, false, [], 0, false, false, 0, [⟨7, 7, txEnt 9 15 0 60 0, none⟩]⟩
    let s : State := { z with sleep := some sl }
    okay s = true ∧ s.sleep = some sl ∧ sl.committed = false ∧ s.slotHeld 7 15 = true ∧ s.slotHeld 7 14 = false ∧ (16384 * 15 + 5) / 16384 = 15 := by
  decide +kernel

/-- Group 0 of port 7, enabled for PC_ID 9 at position 0, with one stream of 273 PRBs of width 9 in two blocks, the blocks `bs`. -/
def grouped (bs : Sparse (Option RxBlock)) : State :=
  let a := LN_RXGRP.adr 7 0
  let b := LN_RXPC.adr 7 5
  let s := upPort 7 z
  (((((((s.wb a LN_RXGRP.EN true).wf a LN_RXGRP.NPRB 273).wf a LN_RXGRP.COMPW 9).wf a LN_RXGRP.NBLKM1 1).wb b LN_RXPC.VALID true).wf b
    LN_RXPC.PCID 9).wf b LN_RXPC.GROUP 0).setRxgrp 7 0 ⟨bs, 0, 0⟩

/-- A type 0 message of PRB 272 for symbol `app` 7. -/
def iq : List Byte := [0x10, 0, 0, 0, 0, 9, 0, 0x80, 7, 0, 0, 0, 0, 0] ++ beBytes 2 (272 * 64) ++ beBytes 2 64 ++ [9, 0] ++ List.replicate 28 0

theorem test_w_ReceiveGroupsSortAndRelease :
    (let v := 2 ^ 63 + 2 ^ 14
     bit v 63 = true ∧ okay z = true ∧ z.rxTotal 7 30 = 0 ∧ z.rxEn 7 30 = false ∧
       (let a := LN_RXGRP.adr 7 30
        let w := v - v % 2 ^ 14
        let u := (z.drawn.setReg a (w % 2 ^ 32)).setReg (a + 4) ((w >>> 32) &&& 0x83FFFFFF)
        u.rxTotal 7 30 + u.rxBytes 7 30 ≤ 1048576)) ∧
    (let s := grouped [(0, some ⟨7, 0, [], 2, 0⟩)]
     okay s = true ∧ (s.rxgrp 7 0).next = 0 ∧ sget (s.rxgrp 7 0).blocks 0 none = some ⟨7, 0, [], 2, 0⟩) ∧
    (let s := grouped [(0, some ⟨7, 0, [], 0, 0⟩)]
     let w := fieldAt iq 18 1
     okay s = true ∧ s.ethUp 7 = true ∧ bit (fieldAt iq 7 1) 7 = true ∧ beVal ((iq.drop 4).take 2) = 9 ∧ beVal ((iq.drop 14).take 2) / 64 = 272 ∧
       beVal ((iq.drop 16).take 2) / 64 = 1 ∧ w = s.rxCompw 7 0 ∧ 272 + 1 ≤ s.rxNprb 7 0 ∧ s.rxEn 7 0 = true ∧ 0 < s.rxNs 7 0 ∧
       20 + prbSize w ≤ iq.length ∧
       (List.range 256).find? (fun i => s.rb (LN_RXPC.adr 7 i) LN_RXPC.VALID && s.rf (LN_RXPC.adr 7 i) LN_RXPC.PCID = 9) = some 5 ∧
       (s.rxgrp 7 0).blocks.find? (fun e => match e.2 with
         | some b => b.app = fieldAt iq 8 3 && decide (b.st = 0)
         | none => false) = some (0, some ⟨7, 0, [], 0, 0⟩) ∧
       s.rf (LN_RXPC.adr 7 5) LN_RXPC.POS = 0 ∧ s.rf (LN_RXPC.adr 7 5) LN_RXPC.GROUP = 0 ∧ fieldAt iq 8 3 = 7 ∧
       (s.rxgrp 7 0).blocks.find? (fun e => match e.2 with
         | some b => b.st = 0 && (b.prbs.length = 273 || decide (b.rt ≤ (s.cyc : Int)))
         | none => false) = some (0, some ⟨7, 0, [], 0, 0⟩) ∧ s.rxOldest 7 0 = none) ∧
    bit (fieldAt (lset iq 7 0) 7 1) 7 = false ∧ (grouped [(0, some ⟨7, 0, [], 1, 0⟩)]).rxOldest 7 0 = some (0, ⟨7, 0, [], 1, 0⟩) ∧
    (let s := upPort 7 { z with capLog := [⟨7, 255, 0, 5⟩] }
     okay s = true ∧ s.ethUp 7 = true ∧ (s.takeCapture 7 255).1 = some 5) ∧
    (let m : List Byte := [0x10, 5, 0, 0, 7, 2] ++ List.replicate 18 0
     let r : DelayRun := ⟨tick, 7, 1, [(7, 100)], [], 8⟩
     let s := z.setDelRun 511 (some r)
     okay s = true ∧ s.delRun 511 = some r ∧ fieldAt m 5 1 = 2 ∧ fieldAt m 4 1 = 7 ∧ r.wait.find? (fun w => w.1 = 7) = some (7, 100)) := by
  decide +kernel

/-! ### Carriage -/

/-- Port 7 in state `st` with `c`. -/
def cpIn (st : Nat) (c : CpPort) : State := (z.wf (CP_STAT.adr 7) CP_STAT.STATE st).setCp 7 c

/-- Ratios of 50 dB on both axes of 2,414 data sub-carriers of four pairs. -/
def loud : List (Nat × Nat × Nat) :=
  ((List.range 2600).map fun i => (0x800 * (i / 650) + 8 + i % 650, 1000, 1000)).filter fun x => isData (x.1 % 0x800)

/-- A request of RATE 0. -/
def req1 (k : Nat) : CpReq := ⟨k, 0, tick⟩

theorem test_w_tableCanBeBuilt : (buildTable ((List.range 4).map fun i => (0x800 * i + 8, 300, 300)) 0 8).isSome = true ∧
    buildTable [] 0 28960 = none ∧ 28960 ≤ axBits (loadAxes loud 0) := by
  decide +kernel

theorem test_w_CarriageLinksTrainSwapAndResume :
    (∀ st < 6, let s := cpIn st CpPort.reset; okay s = true ∧ s.cpState 7 = st ∧ (s.cp 7).req = none) ∧
    (∀ k < 2, (cpIn 2 { CpPort.reset with req := some (req1 k) }).cpState 7 = 2) ∧
    (∀ f ∈ [1, 2], ((cpIn 4 CpPort.reset).wf (CP_STAT.adr 7) CP_STAT.FAILS f).rf (CP_STAT.adr 7) CP_STAT.FAILS = f) ∧
    (∀ k < 9, ((cpIn 2 { CpPort.reset with step := k }).cp 7).step = k) ∧
    (∀ r ∈ [none, some (req1 1)], let s := cpIn 2 { CpPort.reset with step := 8, req := r }
      (s.cp 7).req = r ∧ ∀ q < 4, leastMargin (s.cp 7).rxTab (s.cp 7).ratios q = none) ∧
    (∀ n ∈ [0, 1], ∀ b ∈ [true, false], let s := ((cpIn 3 CpPort.reset).wf (CP_CFG.adr 7) CP_CFG.RTTHR n).wb (CP_CFG.adr 7) CP_CFG.AUTORT b
      okay s = true ∧ s.cpState 7 = 3 ∧ s.rf (CP_CFG.adr 7) CP_CFG.RTTHR = n ∧ s.rb (CP_CFG.adr 7) CP_CFG.AUTORT = b) ∧
    (let s := (cpIn 3 { CpPort.reset with rxTab := [(8, 9)] }).wf (CP_CFG.adr 7) CP_CFG.MINMARG 1
     okay s = true ∧ (s.cp 7).ours = none ∧ leastMargin (s.cp 7).rxTab [(8, 276, 276)] 0 = some 0 ∧
       (0 : Int) < 20 * s.rf (CP_CFG.adr 7) CP_CFG.MINMARG) ∧
    (∀ b ∈ [true, false], let pr : CpProp := ⟨[(8, 9)], b⟩; let s := cpIn 3 { CpPort.reset with theirs := some pr, ours := some pr }
      okay s = true ∧ (s.cp 7).theirs = some pr ∧ (s.cp 7).ours = some pr) ∧
    (let s := cpIn 5 { CpPort.reset with req := some (req1 1) }
     okay s = true ∧ s.cpState 7 = 5 ∧ (s.cp 7).req = some (req1 1) ∧ s.cpRate 7 = 0) := by
  decide +kernel

theorem test_w_CarriageLinksRetrain :
    (∀ k < 9, let s := cpIn 4 { CpPort.reset with step := k }; okay s = true ∧ s.cpState 7 = 4 ∧ (s.cp 7).step = k) ∧
    -- one sub-carrier carries no frame, whatever the margin
    (buildLower [(8, 276, 276)] (cpNb 0) 20 32 (20 * 8) = none ∧ cpNb 0 = 28960 ∧ cpNb 1 = 72400) ∧
    (let s := cpIn 5 { CpPort.reset with req := some ⟨1, 1, tick⟩ }
     okay s = true ∧ s.cpState 7 = 5 ∧ (s.cp 7).req = some ⟨1, 1, tick⟩ ∧ s.cpRate 7 = 0) := by
  decide +kernel

theorem test_w_cpWays : (∀ b, b = 0x7000000 + 0x200000 * 7 → z.wayOpen 40 ((b + 0x80000 + 0x20000 * 3 + 4 * 32767) / 64 * 64) ∧
    z.wayOpen 40 ((b + 0x200) / 64 * 64) ∧ z.wayOpen 40 ((b + 0x210) / 64 * 64) ∧ z.wayOpen 40 ((b + 0x220) / 64 * 64)) := by
  rintro b rfl
  exact ⟨fun _ => rfl, fun _ => rfl, fun _ => rfl, fun _ => rfl⟩

/-- A management transmit entry. -/
def mtxEnt (len : Nat) : List Byte := txEnt 0 3 0 len 0

theorem test_w_CarriageFramesAndQueuesMove0 :
    (∀ st ∈ [0, 3, 5], okay (cpIn st CpPort.reset) = true ∧ (cpIn st CpPort.reset).cpState 7 = st) := by
  decide +kernel

theorem test_w_CarriageFramesAndQueuesMove1 :
    -- a switch in the frame, late, and beyond it, alone and before one in the frame
    (∀ x ∈ [[(335, 0xA5)], [(1228799, 0xA5)], [(336, 0xA5)], [(336, 0xA5), (335, 0x5A)]], let s := cpIn 3 { CpPort.reset with swq := x }
     let away (e : Nat × Nat) := (e.1 + s.cpCyc 7 - (s.cp 7).next % s.cpCyc 7) % s.cpCyc 7
     (s.cp 7).swq = x ∧ s.cpCyc 7 = 1228800 ∧ s.cpSpf 7 = 336 ∧ x.map away = x.map fun e => e.1) ∧
    (∀ k ∈ [0, 1, 64], let s := cpIn 5 { CpPort.reset with syms := k }; okay s = true ∧ s.cpState 7 = 5 ∧ (s.cp 7).syms = k) ∧
    (∀ k ∈ [0, 1], let s : State := { cpIn 3 { CpPort.reset with fcntTx := k } with rst := none }
      okay s = true ∧ s.tkRuns = true ∧ (s.cp 7).fcntTx = k) ∧ ({ z with rst := some kPin } : State).tkRuns = false ∧
    (∀ n ∈ [20, 21], let r : CpRx := ⟨[Fin.ofNat 725 n, 0, 0, 0], none, []⟩
      r.indicator = none ∧ (r.errs.getD 0 0).val = n ∧ ∀ i ∈ [1, 2, 3], (r.errs.getD i 0).val ≤ 20) := by
  decide +kernel

theorem test_w_CarriageFramesAndQueuesMove2 :
    (∀ l ∈ [true, false], ∀ st ∈ [0, 3], let s := (cpIn st { CpPort.reset with lateSaid := l }).wf (CP_CAR.adr 7) CP_CAR.NANTM1 0
      s.cpAnts 7 = 1 ∧ okay s = true ∧ (30719 + 32768 - (s.cp 7).next % 32768) % 32768 < 30720 ∧
        s.cpState 7 = st ∧ 30720 ≤ (30720 + 32768 - (s.cp 7).next % 32768) % 32768 ∧ (s.cp 7).lateSaid = l) := by
  decide +kernel

theorem test_w_CarriageFramesAndQueuesMove3 :
    (∀ n ∈ [31, 32], ((cpIn 3 { CpPort.reset with arms := List.replicate n (0, 5, true) }).cp 7).arms.length = n) := by
  decide +kernel

theorem test_w_CarriageFramesAndQueuesMove4 :
    (∀ n ∈ [0, 63, 64], ((cpIn 3 { CpPort.reset with swq := List.replicate n (0, 5) }).cp 7).swq.length = n) := by
  decide +kernel

theorem test_w_CarriageFramesAndQueuesMove5 :
    (∀ x ∈ [(6, true), (6, false), (5, true)], 
      let s := (cpIn 3 { CpPort.reset with arms := [(0, 5, true)], rxNext := x.1 }).wb (CP_UCFG.adr 7) CP_UCFG.UEN x.2
      okay s = true ∧ (s.cp 7).arms = [(0, 5, true)] ∧ s.rb (CP_UCFG.adr 7) CP_UCFG.UEN = x.2 ∧
        (let d := ((s.cp 7).rxNext + 2 * s.cpCyc 7 - 1 - 5) % s.cpCyc 7
         if x.1 = 6 then 2 * d < s.cpCyc 7 else s.cpCyc 7 ≤ 2 * d)) := by
  decide +kernel

theorem test_w_CarriageFramesAndQueuesMove6 :
    (∀ n ∈ [15, 16], ((cpIn 3 { CpPort.reset with mtx := List.replicate n [] }).cp 7).mtx.length = n) := by
  decide +kernel

theorem test_w_CarriageFramesAndQueuesMove7 :
    (∀ n ∈ [59, 60, 9212], fieldAt (mtxEnt n) 4 1 = 3 ∧ fieldAt (mtxEnt n) 6 2 = n) := by
  decide +kernel

/-! ### Time -/

/-- The module out of reset in time state `st` with source `src`; EXTSET. -/
def timed (st src : Nat) : State :=
  ((on mStandby).wf TK_STAT.adr TK_STAT.STATE st).wf TK_STAT.adr TK_STAT.SRC src

/-- The same with TK_OFFSET at `o`. -/
def offBy (st src : Nat) (o : Int) : State := (timed st src).wf TK_OFFSET.adr TK_OFFSET.OFFSET (wrapTo 32 o)

theorem test_w_TimeStatesFollowTheSourceAndTheLoop0 : z.tkRuns = false ∧ okay z = true := by decide +kernel

theorem test_w_TimeStatesFollowTheSourceAndTheLoop1 :
    ∀ x ∈ [(1, 3, (999 : Int)), (1, 2, -49), (1, 2, 50), (2, 2, 201), (2, 3, -10001), (2, 2, 200), (0, 1, 0), (3, 1, 0), (4, 3, 0), (0, 0, 0)],
      let s := offBy x.1 x.2.1 x.2.2
      okay s = true ∧ s.tkRuns = true ∧ s.timeState = x.1 ∧ s.syncSrc = x.2.1 ∧ s.offset = x.2.2 := by
  decide +kernel

theorem test_w_TimeStatesFollowTheSourceAndTheLoop2 :
    (timed 2 1).setting 0x604 ≠ 0 ∧ ({ timed 2 1 with settings := [(0x604, 0)] } : State).setting 0x604 = 0 ∧ (timed 1 1).setting 0x602 = 0 ∧
      ({ timed 1 1 with settings := [(0x602, 2)] } : State).setting 0x602 ≠ 0 ∧ ({ timed 2 1 with tune := some (511, 5, 2 ^ 32 - 1) } : State).tune =
      some (511, 5, 2 ^ 32 - 1) := by
  decide +kernel

theorem test_w_CapturesTakePositions :
    okay (timed 2 2) = true ∧ (timed 2 2).tkRuns = true ∧ (∀ c ∈ [0, 11, 16, 27, 32, 40, 55], isCaptureSrc c = true) ∧
      (∀ n ∈ [24, 24 + 7 * 16, 24 + 8 * 16], let s := { timed 2 2 with capEnd := n }
        if n < 24 + 8 * 16 then (s.capEnd - (s.cyc + 24) + 15) / 16 < 8 else 8 ≤ (s.capEnd - (s.cyc + 24) + 15) / 16) ∧
      (timed 2 2).strobes = [] := by
  decide +kernel

theorem test_w_CapturesAreLogged :
    (∀ x ∈ [(11, 255), (32, 255), (11, 256)], let s := { timed 2 1 with strobes := [⟨x.1, 3, 7, 0⟩], capLog := List.replicate x.2 ⟨0, 0, 0, 0⟩ }
      okay s = true ∧ s.tkRuns = true ∧ s.strobes = [⟨x.1, 3, 7, 0⟩] ∧ s.capLog.length = x.2 ∧ s.syncSrc ≠ 2) := by
  decide +kernel

/-- Port 11 in PTP role `r`, with the times of an exchange. -/
def ptp (r : Nat) (heard two : Bool) : State :=
  let s := (timed 2 2).setPtp 11 { Ptp.reset with domain := 24, role := r, twoStep := two, heard := heard, gm := 5, cls := 6, t1 := some 100, t2 := some 110,
                                                  t3 := some 120 }
  { s with capLog := [⟨11, 9, 0, 200⟩] }

theorem test_w_PtpPortsListenAndSend :
    (∀ h ∈ [true, false], let s := ptp 1 h false
      okay s = true ∧ s.tkRuns = true ∧ s.ptpListens 11 = true ∧ (s.ptpOf 11).domain = 24 ∧ (s.ptpOf 11).heard = h ∧ (s.ptpOf 11).gm = 5 ∧
        (s.ptpOf 11).cls = 6 ∧ (s.ptpOf 11).t3 = some 120 ∧ s.ptpMaster 11 = false) ∧
    (let s := ((ptp 1 true false).wf TK_STAT.adr TK_STAT.SRC 1).wf TK_STAT.adr TK_STAT.SRCPORT 11
     let x : Int := 65536 * (110 - 100) - 0 - (65536 * (130 - 120) - 0) - 65536 * sgn 32 (s.setting (0x610 + 11))
     s.ptpNamed 11 = true ∧ s.ptpState 11 = 2 ∧ x % 131072 = 0 ∧ (x / 131072).natAbs ≤ 1000) ∧
    (∀ t ∈ [true, false], let s := ptp 2 false t
      s.ptpMaster 11 = true ∧ (s.ptpOf 11).twoStep = t ∧ s.timeState = 2 ∧ s.syncSrc = 2 ∧ (s.takeCapture 11 9).1 = some 200) ∧
    ((ptp 2 false true).wf TK_STAT.adr TK_STAT.STATE 3).timeState = 3 := by
  decide +kernel

theorem test_w_PulsesAndSteps :
    (let s := { timed 2 2 with ext := 10 ^ 9 + 1000 }
     s.ppsRuns = true ∧ ((s.ext : Int) - sgn 32 (s.setting 0x606)) % 1000000000 ≤ 1000 ∧ s.ppsHigh = false) ∧
    (timed 0 2).ppsRuns = false ∧
    (let v : Nat := 7 * 2 ^ 48 + 5 * 2 ^ 32 + 9
     bits v 52 12 = 0 ∧ bits v 48 3 = 7 ∧ (timed 2 2).tkOwns 7 = false) ∧
    ({ timed 2 2 with settings := [(0x602, 1)] } : State).tkOwns 0 = true ∧
    (∀ n ∈ [1, 31, 32], let s := (timed 2 2).setChan 7 { Chan.reset with steps := List.replicate n ⟨1, 1, false, some 5⟩ }
      okay s = true ∧ (s.chan 7).steps.length = n ∧ (s.chan 7).steps.head?.all (fun x => x.due.isSome) = true) := by
  decide +kernel

theorem test_w_stepsAreDue :
    (∀ x ∈ [(4, 0, false), (5, 0, false), (1005, 0, false), (1006, 0, false), (5, 1, false), (5, 2, false)],
      let s := (({ on mService with cyc := x.1 } : State).setChan 7 { Chan.reset with
        steps := [⟨1, 1, x.2.2, some 5⟩], slew := if x.2.1 = 1 then some ⟨0, 1, 1, true⟩ else none }).wb (AO_CHSTAT.adr 7) AO_CHSTAT.FAULT (x.2.1 = 2)
      s.tkRuns = true ∧ (s.chan 7).steps = [⟨1, 1, x.2.2, some 5⟩] ∧ s.safeMoving 7 = (x.2.1 = 1 : Bool) ∧ s.aoFault 7 = (x.2.1 = 2 : Bool) ∧
        s.mode = mService) := by
  decide +kernel

/-- No step, a step whose time has not been found, and a step in mode TEST. -/
theorem test_w_stepsWait :
    (z.chan 7).steps = [] ∧
    (∀ m ∈ [mTest, mRecovery], ∀ d ∈ [none, some (5 : Int)],
      let s := ({ on m with cyc := 6 } : State).setChan 7 { Chan.reset with steps := [⟨1, 1, false, d⟩] }
      okay s = true ∧ s.tkRuns = true ∧ (s.chan 7).steps = [⟨1, 1, false, d⟩] ∧ s.safeMoving 7 = false ∧ s.aoFault 7 = false ∧ s.mode = m) := by
  decide +kernel

/-! ### Analog -/

/-- Channel 7 as `c`, its code `k`, in mode SERVICE. -/
def aoIn (k : Nat) (c : Chan) : State := ((on mService).wf (AO_CHSTAT.adr 7) AO_CHSTAT.CODE k).setChan 7 c

/-- A channel that is not clamped. -/
def live : Chan := { Chan.reset with clamped := false }

theorem test_w_ChannelsLatchAndSlew :
    (let s := aoIn 5 { live with glitch := some 9 }
     okay s = true ∧ s.mode ≠ mChrysalis ∧ (s.chan 7).glitch = some 9 ∧ (s.chan 7).deferred = [] ∧ (s.chan 7).slew = none) ∧
    (∀ k ∈ [1023, 1024], let s := aoIn 1000 { live with deferred := [k] }
      (s.chan 7).deferred = [k] ∧ (s.aoCode 7 / 1024 = k / 1024 ↔ k = 1023)) ∧
    (let w : Slew := ⟨1000, 16, 2, false⟩
     let s := aoIn 500 { live with slew := some w }
     (s.chan 7).slew = some w ∧ (516 : Nat) = (if s.aoCode 7 < w.target then min w.target (s.aoCode 7 + w.step) else
       if w.target + w.step < s.aoCode 7 then s.aoCode 7 - w.step else w.target) ∧ (516 : Nat) ≠ w.target ∧ (s.chan 7).land ≠ 516) ∧
    (∀ k ∈ [984, 1000, 1016], let w : Slew := ⟨1000, 16, 2, false⟩
      let s := aoIn k { live with slew := some w }
      w.safe = false ∧ w.target ≤ s.aoCode 7 + w.step ∧ s.aoCode 7 ≤ w.target + w.step) := by
  decide +kernel

theorem test_w_ChannelsFaultAndMonitorsPass :
    (let s := aoIn 5 live; s.safeMoving 7 = false ∧ (s.chan 7).clamped = false ∧ s.aoCode 7 ≠ s.aoSafe 7 ∧ s.aoFault 7 = false) ∧
    (let s := (aoIn 5 live).wb (AO_CHSTAT.adr 7) AO_CHSTAT.FAULT true; s.aoFault 7 = true ∧ s.tkOwns 7 = false) ∧
    (let s := on mService
     s.rst = none ∧ (s.mon 1).run.length = 4 ∧ (s.mon 1).back.length = 4 ∧ (s.mon 1).passed.length = 4 ∧ s.mode ≠ mBoot ∧
       ∀ i < 4, (s.mon 1).passed.getD i false = false ∧ State.beyond i ((s.monLimits 1).getD i none) 400 = false) ∧
    z.rst = some kPor ∧
    (let s := { on mService with mons := [(1, { Mon.reset with run := [0, 0, 3, 3] })] }
     okay s = true ∧ (s.mon 1).run = [0, 0, 3, 3] ∧ (s.mon 1).back = [0, 0, 0, 0] ∧ (s.mon 1).passed = [false, false, false, false] ∧
       ((s.monLimits 1).getD 3 none).any (fun l => decide (l < 8388607)) = true) := by
  decide +kernel

/-! ### Resets and Chrysalis -/

/-- A carrier in DRAIN whose slot is in the air, or over. -/
def draining (ended : Bool) : State :=
  ({ on mDrain with ext := gpsEpoch + (if ended then 30000000 else 19000000) }).setCarrier 511 (some (carr nr 2 [slot19]))

theorem test_w_ResetsClearAndHoldsEnd0 :
    (let s := draining true; okay s = true ∧ s.mode = mDrain ∧ s.carriers = [(511, some (carr nr 2 [slot19]))] ∧
      slot19.isOpen (cSlotNs nr) s.ext = false) ∧
    (let s := draining false; s.carrier 511 = some (carr nr 2 [slot19]) ∧ slot19.isOpen (cSlotNs nr) s.ext = true) := by
  decide +kernel

theorem test_w_ResetsClearAndHoldsEnd1 :
    (let s := on mService; okay s = true ∧ s.rst = none ∧ s.mode ≠ mChrysalis ∧ s.mode ≠ mBoot ∧ s.mode ≠ mHalt ∧ s.mode ≠ mDrain) ∧
    (z.rst = some 0 ∧ z.vddq = false) ∧ ((on mBoot).rst = none ∧ (on mBoot).mode = mBoot) ∧
    (let s := (on mTest).wb SEC_STAT.adr SEC_STAT.DBGOPEN true
     okay s = true ∧ s.rb SEC_STAT.adr SEC_STAT.DBGOPEN = true ∧ s.rst = none ∧ s.mode ≠ mChrysalis ∧ s.scrub = none ∧ (s.isl 23).phase = .none ∧
       s.domOn (11 * 23) = true ∧ (∀ i ∈ regionIslands 3, (s.isl i).phase = .none ∧ (islandDom i).all (fun d => s.domOn d) = true)) ∧
    ((on mTest).rst = none ∧ (on mTest).mode = mTest ∧ (on mHalt).mode = mHalt ∧ z.domJob = none) ∧
    (z.wearAt = none ∧ ({ on mService with wearAt := some 0 } : State).cyc < 600000000000) := by
  decide +kernel

/-- The images of an empty NV store do not boot; what verifies one is a constant with no body. -/
theorem test_w_imagesFail : ({ z with rst := none, modid := 15, testEn := false } : State).bootImages.1 = false := by
  decide +kernel

/-- Chrysalis entry with the voters `ws`, committed or not, every source armed, `latched` latched. -/
def entering (ws : List Nat) (committed down : Bool) (latched : List Nat) : State :=
  { on mStandby with sleep := some ⟨tick, ws, 3, committed, latched, 0, false, down, 0xFF07, []⟩ }

theorem test_w_ChrysalisIsVotedAndLeft :
    (z.sleep = none ∧ okay z = true) ∧
    (let s := entering [0, 5] false false []
     okay s = true ∧ s.voterRefuses 5 = false ∧ s.sleep.any (fun l => l.waiting = [0, 5] && !l.committed) = true) ∧
    (let s := (entering [264, 5] false false []).setInk 0 { Ink.reset with pool := [(0, some ready7)] }
     okay s = true ∧ s.voterRefuses 264 = true) ∧
    (let s := entering [351] false false []
     s.hubRefuses tick = false) ∧
    (∀ l ∈ [[], [0], [15]], ∀ d ∈ [true, false], let s := entering [] true d l
      okay s = true ∧ s.sleep.any (fun x => x.committed && x.latched = l && x.down = d && bit x.armed 0 && bit x.armed 1 && bit x.armed 2 &&
        bit x.armed 15) = true) ∧
    z.aonAlarm = 0 ∧ ({ entering [] true true [] with aonAlarm := 2 ^ 32 - 1 } : State).aonAlarm ≠ 0 := by
  decide +kernel

/-! ### Guestbook -/

/-- An event of source 1,535. -/
def event : Event := ⟨0x0D02, 1535, 1, 2, 3⟩

/-- Event sinks of source 1,535: record, vector, counter. -/
def routed (gb msi ink : Bool) (s : State) : State :=
  ((s.wb (GB_ROUTE.adr 1535) GB_ROUTE.GBEN gb).wb (GB_ROUTE.adr 1535) GB_ROUTE.MSIEN msi).wb (GB_ROUTE.adr 1535) GB_ROUTE.INKEN ink

theorem test_w_EventsAreTakenRoutedAndFlushed0 : okay z = true ∧ (∀ i < 63, z.evWaiting i = false) ∧ z.gbForced = false ∧ z.gbWanted = false ∧
    z.gbFlushing = false ∧ (255 : Nat) ∉ z.msiOpen ∧ z.gbLost = 0 := by
  decide +kernel

theorem test_w_EventsAreTakenRoutedAndFlushed1 :
    ∀ x ∈ [(false, false, false), (true, false, false), (false, true, false), (false, false, true)],
      let s := routed x.1 x.2.1 x.2.2 { z with intake := [event], gbNext := 34 }
      okay s = true ∧ s.evWaiting 34 = true ∧ (34 : Nat) = (s.gbNext + 0) % 63 ∧ (s.evPop 34).1.src = 1535 ∧
        s.rb (GB_ROUTE.adr 1535) GB_ROUTE.GBEN = x.1 ∧ s.rb (GB_ROUTE.adr 1535) GB_ROUTE.MSIEN = x.2.1 ∧
        s.rb (GB_ROUTE.adr 1535) GB_ROUTE.INKEN = x.2.2 ∧ s.gbUnfl = 0 := by
  decide +kernel

theorem test_w_EventsAreTakenRoutedAndFlushed2 :
    (∀ b ∈ [true, false], let s := { z with msiOpen := [255], pcieUp := b, bme := b, msixEn := b, msixTab := [(1023, 0)] }
      okay s = true ∧ 255 ∈ s.msiOpen ∧ s.msiReady 255 = b) ∧
    (let s := { z with gbForced := true }; okay s = true ∧ s.gbForced = true ∧ s.gbLost = 0) ∧
    (let s := z.wb GB_STAT.adr GB_STAT.FLUSHING true; okay s = true ∧ s.gbFlushing = true ∧ s.gbWait = []) := by
  decide +kernel

/-! ### The block -/

theorem test_w_StepRunsTheFrontCommand : ({ z with pending := [.uartBreak] } : State).pending = [.uartBreak] ∧ z.pending = [] := by
  decide +kernel

/-- A command whose step from reset is a next state. -/
theorem test_w_EveryStepKeepsTheInvariant : okay z = true ∧ (match step { z with pending := [.watchdogKick] } with
    | .next t => okay t
    | _ => false) = true := by
  decide +kernel

theorem test_w_CommandsLeaveTheQueueAndWhatWasSent : goes .watchdogKick z = true := by
  decide +kernel

/-- The invariant holds wherever `okay` does: `okay` is what the witnesses of this file check of their states. -/
theorem test_okayIsInv : z.Inv := okay_inv (by decide +kernel)

/-! ### Ill-formed commands -/

/-- A crossing past those of its island is refused by the check and by the machine; its last one is not. -/
theorem test_illFormedCrossings :
    ([.pulseDeliver 0 25, .pulseAck 33 ⟨7, true⟩, .valueDeliver 34 180, .valueAck 39 3, .grayCounterUpdate 51 5, .heartbeatToggle 60 4,
      .snapshotResult 61 6, .crossingTimeout 62 2] : List Instr).all (fun c => !WellFormed c && !goes c z) = true ∧
    ([.pulseDeliver 0 24, .pulseAck 33 ⟨6, true⟩, .valueDeliver 34 179, .valueAck 39 2, .grayCounterUpdate 51 4, .heartbeatToggle 60 3,
      .snapshotResult 61 5, .crossingTimeout 62 1] : List Instr).all (fun c => WellFormed c && goes c z) = true := by
  decide +kernel

/-- A Porter channel past the sixteen of a cluster block is refused; the hub block has 32 (R369). -/
theorem test_illFormedChannels :
    ([.ptTailWrite 23 16 40 0, .ptRingbaseWrite 0 31 40 0, .ptRinglenWrite 0 16 40 0, .ptChannelEnable 23 16 40, .ptChannelDisable 23 16 40,
      .ptChainCut 23 16 40, .descriptorStart 23 16 ⟨[], false⟩, .descCopy 23 16 ⟨[], false⟩, .descInterleave 23 16 ⟨[], false⟩,
      .descDeinterleave 23 16 ⟨[], false⟩, .descWordsToPlanes 23 16 ⟨[], false⟩, .descPlanesToWords 23 16 ⟨[], false⟩,
      .descriptorFinish 23 16] : List Instr).all (fun c => !WellFormed c && !goes c z) = true ∧
    ([.ptTailWrite 23 15 40 0, .ptTailWrite 24 31 40 0, .descriptorFinish 24 31] : List Instr).all (fun c => WellFormed c && goes c z) =
      true := by
  decide +kernel

/-- XCOUNT is the length of each island's list of crossings (R8, R638). -/
theorem test_crossingCounts : ∀ i < 63, (islandXings i).length = xingCount i := by
  decide +kernel

/-- The table gives no row any bits: no word spells a command. -/
theorem test_noWordSpellsACommand : decodeTableWord 16 0 = none ∧ decodeTableWord 64 0xFFFF = none := ⟨rfl, rfl⟩

/-! ### Worked examples of the spec -/

/-- spec/03, the table under R112: x, SH, VEXTS, VEXT. -/
theorem test_extractTable : ([(-5, 1, -2, -2), (5, 1, 3, 3), (0x4000, 15, 1, 1), (-0x4000, 15, 0, 0), (-0xC000, 15, -1, -1), (0x0A000000, 15, 0x1400, 0x1400),
    (0x40000000, 15, 0x7FFF, 0x8000), (-0x40000000, 15, -0x8000, -0x8000)] : List (Int × Nat × Int × Int)).all
      (fun x => clampTo 16 (roundShift x.1 x.2.1) = x.2.2.1 && wrapTo 16 (roundShift x.1 x.2.1) = wrapTo 16 x.2.2.2) = true := by
  decide +kernel

/-- spec/03, the example under R103: A2 wraps within the buffer of 24 vectors. -/
theorem test_circularAddresses :
    let r (a : Addr) : Arch := (((Arch.reset.setA 137 2 a).setB 2 0x108941000).setL 2 0x600).setO 3 0x40
    postMod (r 0x108941580) 137 2 3 = 0x1089415C0 ∧ postMod (r 0x1089415C0) 137 2 3 = 0x108941000 ∧ postMod (r 0x108941000) 137 2 3 = 0x108941040 := by
  decide +kernel

/-- spec/06, the example under R245: base graph 1, A = 25,104. -/
theorem test_segmentation : (ldpcGeo 25104 0).c = 3 ∧ (ldpcGeo 25104 0).zc = 384 ∧ (ldpcGeo 25104 0).n = 25344 ∧
    (ldpcGeo 25104 0).kInfo = [8400, 8400, 8400] ∧ (ldpcGeo 25104 0).kLen = [8448, 8448, 8448] := by
  decide +kernel

/-- spec/17, the example under R587. -/
theorem test_recordTime : (({ on mService with ext := 1735000000251310658, utcSet := true } : State).wf TK_ANCHOR.adr TK_ANCHOR.TAIUTC 37).stamp 0 =
    (0x002EFCBC1B03D5AE, 0) := by
  decide +kernel

/-- spec/11, the example under R432: 273 PRBs of width 9 are one message of at most 327. -/
theorem test_streamSymbolsFit : splitPrbs 273 9 = [273] ∧ splitPrbs 327 9 = [327] ∧ splitPrbs 328 9 = [164, 164] := by
  decide +kernel

/-- R319: CRC-32 of Ethernet; its published check value for the digits 1 to 9. -/
theorem test_crc32 : crc32 [0x31, 0x32, 0x33, 0x34, 0x35, 0x36, 0x37, 0x38, 0x39] = 0xCBF43926 := by
  decide +kernel

/-- R319: 0x7E and 0x7D are escaped, and the escapes taken out again. -/
theorem test_uartEscapes : uartEscape [0x7E, 0x7D, 5] = [0x7D, 0x5E, 0x7D, 0x5D, 5] ∧ uartUnescape [0x7D, 0x5E, 0x7D, 0x5D, 5] = [0x7E, 0x7D, 5] := by
  decide +kernel

/-- R483: TK_NS 0xFFFF_F000 and LT 0x0000_1000 lie 8,192 ns apart. -/
theorem test_ltAhead : sgn 32 ((0x00001000 + 2 ^ 32 - 0xFFFFF000 : Nat) % 2 ^ 32) = 8192 := by
  decide +kernel

/-- R439: an axis carries 6 bits from its threshold of 45.2 dB on. -/
theorem test_axisThresholds : axMax 904 0 = 6 ∧ axMax 903 0 = 5 ∧ axMax 275 0 = 0 := by
  decide +kernel

end Sys2Proof.Tests
end

section
/-! What a command answers by the operands it names (R639, R369): a crossing of its island, a channel of its Porter block, or
neither. -/

namespace Sys2Proof.Machine

/-- Each island joins as many crossings as XCOUNT says (R55, R638). -/
theorem length_islandXings : ∀ i : IslandId, (islandXings i).length = xingCount i := by decide +kernel

theorem xidAt_eq_none_iff (i : IslandId) (x : Nat) : xidAt i x = none ↔ xingCount i ≤ x := by
  rw [xidAt, List.getElem?_eq_none_iff, length_islandXings]

theorem onXing_some {i : IslandId} {x : Nat} {c : Xid} (h : xidAt i x = some c) (f : Xid → State) : onXing i x f = .next (f c) := by
  simp only [onXing, h]

theorem onXing_none {i : IslandId} {x : Nat} (h : xidAt i x = none) (f : Xid → State) : onXing i x f = .fault .illFormed := by
  simp only [onXing, h]

theorem wellFormed_of_crossing {c : Instr} {i : IslandId} {x : Nat} (hx : crossingOf c = some (i, x)) (hc : channelOf c = none) :
    WellFormed c = decide (x < xingCount i) := by
  simp only [WellFormed, hx, hc, Bool.and_true]

theorem wellFormed_of_channel {c : Instr} {b : BlockId} {ch : Fin 32} (hx : crossingOf c = none) (hc : channelOf c = some (b, ch)) :
    WellFormed c = chanOk b ch := by
  simp only [WellFormed, hx, hc, Bool.true_and]

/-- The command `c` goes on from `s` when it is well-formed, and is refused as ill-formed when it is not. -/
def SettledByForm (c : Instr) (s : State) : Prop :=
  (WellFormed c = true → ∃ t, exec c s = .next t) ∧ (WellFormed c = false → exec c s = .fault .illFormed)

theorem settledByForm_of_crossing {c : Instr} {s : State} {i : IslandId} {x : Nat} {f : Xid → State}
    (hx : crossingOf c = some (i, x)) (hc : channelOf c = none) (he : exec c s = onXing i x f) : SettledByForm c s := by
  rw [SettledByForm, wellFormed_of_crossing hx hc, he, decide_eq_true_iff, decide_eq_false_iff_not, Nat.not_lt]
  refine ⟨fun h => ?_, fun h => onXing_none ((xidAt_eq_none_iff i x).mpr h) f⟩
  obtain ⟨c', hc'⟩ := Option.ne_none_iff_exists'.mp (mt (xidAt_eq_none_iff i x).mp (Nat.not_le.mpr h))
  exact ⟨f c', onXing_some hc' f⟩

theorem settledByForm_of_channel {c : Instr} {s t : State} {b : BlockId} {ch : Fin 32}
    (hx : crossingOf c = none) (hc : channelOf c = some (b, ch)) (he : exec c s = onChan b ch t) : SettledByForm c s := by
  rw [SettledByForm, wellFormed_of_channel hx hc, he]
  exact ⟨fun h => ⟨t, by rw [onChan, if_pos h]⟩, fun h => by rw [onChan, if_neg (by simp [h])]⟩

theorem settledByForm_of_next {c : Instr} {s t : State} (hw : WellFormed c = true) (he : exec c s = .next t) : SettledByForm c s :=
  ⟨fun _ => ⟨t, he⟩, fun h => by simp [hw] at h⟩

/-- Settles O60: a command that names a crossing or a Porter channel answers by whether that exists, and every other command goes
on. -/
theorem wellFormedCommandsRun : Obligations.WellFormedCommandsRun := by
  intro c s
  show SettledByForm c s
  cases c with
  | pulseDeliver | pulseAck | valueDeliver | valueAck | grayCounterUpdate | heartbeatToggle | snapshotResult | crossingTimeout =>
    exact settledByForm_of_crossing rfl rfl rfl
  | ptTailWrite | ptRingbaseWrite | ptRinglenWrite | ptChannelEnable | ptChannelDisable | ptChainCut | descriptorStart | descCopy
  | descInterleave | descDeinterleave | descWordsToPlanes | descPlanesToWords | descriptorFinish =>
    exact settledByForm_of_channel rfl rfl rfl
  | hostAccess t => cases t <;> exact settledByForm_of_next rfl rfl
  | _ => exact settledByForm_of_next rfl rfl

end Sys2Proof.Machine
end

section
/-! The two sides of a crossing (R30 to R49), one equation for each transfer that its state allows. -/

namespace Sys2Proof.Machine

namespace State

theorem pulseDeliver_eq {s : State} {c : Xid} (hk : c.kind = 0) (hb : (s.xing c.key).busy = true)
    (ht : (s.xing c.key).taken = false) (hi : s.xIso c = false) :
    s.pulseDeliver c = if s.queueFull c = true then s else
      (s.setXing c.key { s.xing c.key with taken := true, join := false }).pulseEffect c (s.xing c.key).target (s.xing c.key).count := by
  simp [pulseDeliver, hk, hb, ht, hi]

/-- On its acknowledge, a pulse crossing on which no count waits is idle (R32). -/
theorem pulseAck_idle {s : State} {c : Xid} (join : Bool) (hb : (s.xing c.key).busy = true) (ht : (s.xing c.key).taken = true)
    (hi : s.xIso c = false) (hp : (s.xing c.key).pend = []) :
    s.pulseAck c join = s.setXing c.key { s.xing c.key with busy := false, taken := false, count := 0, target := 0 } := by
  simp [pulseAck, hb, ht, hi, hp]

/-- On its acknowledge, a pulse crossing launches the count that has waited longest (R32), and a pulse that its unit held waits (R36). -/
theorem pulseAck_launch {s : State} {c : Xid} {p : PulseWait} {ps : List PulseWait} (join : Bool) (hb : (s.xing c.key).busy = true)
    (ht : (s.xing c.key).taken = true) (hi : s.xIso c = false) (hp : (s.xing c.key).pend = p :: ps) :
    s.pulseAck c join = s.setXing c.key { s.xing c.key with
      taken := false, count := p.count, target := p.target, join := join,
      pend := ps ++ ((s.xing c.key).held.find? fun h => h.unit = p.unit).toList,
      held := ldrop1 (fun h => h.unit = p.unit) (s.xing c.key).held } := by
  simp only [pulseAck, hb, ht, hi, hp]
  cases (s.xing c.key).held.find? fun h => h.unit = p.unit <;> simp

theorem pulseAcked_eq {s : State} {c : Xid} (join : Bool) (hk : c.kind = 0) (hr : c.role ≠ 6) :
    s.pulseAcked c join = s.pulseAck c join := by
  simp [pulseAcked, hk, hr]

theorem valueTake_eq {s : State} {c : Xid} (hb : (s.xing c.key).busy = true) (ht : (s.xing c.key).taken = false)
    (hi : s.xIso c = false) :
    s.valueTake c = s.setXing c.key { s.xing c.key with taken := true, dst := (s.xing c.key).value, fresh := true } := by
  simp [valueTake, hb, ht, hi]

section
variable {s : State} {c : Xid} (hk : c.kind = 1) (hb : (s.xing c.key).busy = true) (ht : (s.xing c.key).taken = false)
  (hi : s.xIso c = false)
include hk hb ht hi

/-- A value that nothing but the crossing shows. -/
theorem valueDeliver_plain (h8 : c.role ≠ 8 ∨ c.dst < 24 ∨ 28 ≤ c.dst) (h15 : c.role ≠ 15 ∨ c.unit ≠ 1) (h14 : c.role ≠ 14) :
    s.valueDeliver c = s.setXing c.key { s.xing c.key with taken := true, dst := (s.xing c.key).value, fresh := true } := by
  have n8 : ¬(c.role = 8 ∧ 24 ≤ c.dst ∧ c.dst < 28) := by omega
  have n15 : ¬(c.role = 15 ∧ c.unit = 1) := by omega
  simp [valueDeliver, valueTake_eq hb ht hi, hk, hb, ht, hi, n8, n15, h14]

/-- PAUSE of an accelerator group shows in its RA_GSTAT (R212). -/
theorem valueDeliver_pause (h8 : c.role = 8) (hl : 24 ≤ c.dst) (hh : c.dst < 28) (inv : s.Inv) :
    s.valueDeliver c = (s.setXing c.key { s.xing c.key with taken := true, dst := (s.xing c.key).value, fresh := true }).wb
      (RA_GSTAT.adr (c.dst - 24)) RA_GSTAT.PAUSED (bit (s.xing c.key).value 0) := by
  simp [valueDeliver, valueTake_eq hb ht hi, xing_setXing_same inv.tables, hk, hb, ht, hi, h8, hl, hh]

/-- The always-on island takes its alarm (R544). -/
theorem valueDeliver_alarm (h15 : c.role = 15) (hu : c.unit = 1) (inv : s.Inv) :
    s.valueDeliver c = { s.setXing c.key { s.xing c.key with taken := true, dst := (s.xing c.key).value, fresh := true } with
      aonAlarm := bits (s.xing c.key).value 0 32 } := by
  simp [valueDeliver, valueTake_eq hb ht hi, xing_setXing_same inv.tables, hk, hb, ht, hi, h15, hu]

/-- The comparator takes the times of queue heads (R483). -/
theorem valueDeliver_heads (h14 : c.role = 14) :
    s.valueDeliver c = upto 8 (fun k t =>
        if c.src = 61 then t.presentStep k (bits (s.xing c.key).value (32 * k) 32)
        else t.presentHead (c.src - 40) k (bits (s.xing c.key).value (32 * k) 32))
      (s.setXing c.key { s.xing c.key with taken := true, dst := (s.xing c.key).value, fresh := true }) := by
  simp [valueDeliver, valueTake_eq hb ht hi, hk, hb, ht, hi, h14]

end

theorem valueAck_eq {s : State} {c : Xid} (hb : (s.xing c.key).busy = true) (ht : (s.xing c.key).taken = true)
    (hi : s.xIso c = false) :
    s.valueAck c = s.setXing c.key (match (s.xing c.key).vpend with
      | none => { s.xing c.key with busy := false, taken := false }
      | some v => { s.xing c.key with taken := false, value := v, vpend := none }) := by
  simp only [valueAck, hb, ht, hi]
  cases (s.xing c.key).vpend <;> rfl

theorem valueAcked_eq {s : State} {c : Xid} (hk : c.kind = 1) (h11 : c.role ≠ 11) (h12 : c.role ≠ 12) :
    s.valueAcked c = s.valueAck c := by
  simp [valueAcked, hk, h11, h12]

theorem grayUpdate_counter {s : State} {c : Xid} (hi : s.xIso c = false) (h9 : c.role ≠ 9) :
    s.grayUpdate c = s.setXing c.key { s.xing c.key with dst := (s.xing c.key).value } := by
  simp [grayUpdate, graySource, hi, h9]

theorem grayUpdate_replica {s : State} {c : Xid} (hi : s.xIso c = false) (h9 : c.role = 9) (hf : (s.xing c.key).fresh = false) :
    s.grayUpdate c = s.setXing c.key { s.xing c.key with dst := s.tkns } := by
  simp [grayUpdate, graySource, hi, h9, hf]

theorem heartbeat_eq {s : State} {c : Xid} (hk : c.kind = 2) :
    s.heartbeat c = s.setXing c.key { s.xing c.key with beat := !(s.xing c.key).beat } := by
  simp [heartbeat, hk]

theorem snapshot_eq (s : State) (c : Xid) : s.snapshot c = s.setXing c.key (if s.xIso c = true
    then { s.xing c.key with dst := 2 ^ 64 - 1, fresh := false, busy := false }
    else { s.xing c.key with value := s.tkns, dst := s.tkns, fresh := true, busy := false }) := by
  unfold snapshot
  split <;> rfl

/-- Isolation of a crossing after an update of that crossing which keeps its ISO. -/
theorem xIso_setXing_same {s : State} (h : s.tablesWf = true) (c : Xid) (x : Xing) (hx : x.iso = (s.xing c.key).iso) :
    (s.setXing c.key x).xIso c = s.xIso c := by
  rw [xIso, xing_setXing_same h, hx]
  rfl

theorem replica_eq {s : State} {r : Nat} (hi : s.xIso ⟨52, 28 + r, 9, 0⟩ = false)
    (hf : (s.xing (xkey 52 (28 + r) 9 0)).fresh = false) : s.replica r = s.tkns := by
  simp only [replica, Xid.key, hi, hf, Bool.or_self, Bool.false_eq_true, if_false]

theorem replicaReload_eq {s : State} {r : Nat} (h9 : s.xIso ⟨52, 28 + r, 9, 0⟩ = false) (h10 : s.xIso ⟨52, 28 + r, 10, 0⟩ = false) :
    s.replicaReload r = s.setXing (xkey 52 (28 + r) 9 0) { s.xing (xkey 52 (28 + r) 9 0) with dst := s.tkns, fresh := false } := by
  simp [replicaReload, Xid.key, h9, h10]

/-- After its reload, a time replica follows TK_NS (R44). -/
theorem replica_replicaReload {s : State} {r : Nat} (inv : s.Inv) (h9 : s.xIso ⟨52, 28 + r, 9, 0⟩ = false)
    (h10 : s.xIso ⟨52, 28 + r, 10, 0⟩ = false) : (s.replicaReload r).replica r = s.tkns := by
  rw [replicaReload_eq h9 h10]
  refine replica_eq (.trans (xIso_setXing_same inv.tables ⟨52, 28 + r, 9, 0⟩ _ ?_) h9) (by rw [xing_setXing_same inv.tables])
  rfl

end State

theorem Xid.kind_of_role_nine {c : Xid} (h : c.role = 9) : c.kind = 2 := by
  simp [Xid.kind, h]

/-- Settles O1: the crossing that a command names answers by the equation of its transfer. -/
theorem crossingsDeliverAcknowledgeAndCount : Obligations.CrossingsDeliverAcknowledgeAndCount := by
  refine ⟨fun s i x c hx hi hb => ⟨?_, ?_, ?_, ?_⟩, fun s i x c hx => ⟨?_, ?_, ?_, ?_⟩, fun s r h9 h10 inv => ?_⟩
  · intro hd hk ht
    exact (onXing_some hx _).trans (by rw [if_pos hd, State.pulseDeliver_eq hk hb ht hi])
  · intro hd hk h6 ht join
    refine ⟨fun hp => ?_, fun p ps hp => ?_⟩
    · exact (onXing_some hx _).trans (by rw [if_pos hd, State.pulseAcked_eq join hk h6, State.pulseAck_idle join hb ht hi hp])
    · exact (onXing_some hx _).trans (by rw [if_pos hd, State.pulseAcked_eq join hk h6, State.pulseAck_launch join hb ht hi hp])
  · intro hd hk ht
    refine ⟨fun h8 h15 h14 => ?_, fun h8 hl hh inv => ?_, fun h15 hu inv => ?_, fun h14 => ?_⟩
    · exact (onXing_some hx _).trans (by rw [if_pos hd, State.valueDeliver_plain hk hb ht hi h8 h15 h14])
    · exact (onXing_some hx _).trans (by rw [if_pos hd, State.valueDeliver_pause hk hb ht hi h8 hl hh inv])
    · exact (onXing_some hx _).trans (by rw [if_pos hd, State.valueDeliver_alarm hk hb ht hi h15 hu inv])
    · exact (onXing_some hx _).trans (by rw [if_pos hd, State.valueDeliver_heads hk hb ht hi h14])
  · intro hd hk h11 h12 ht
    exact (onXing_some hx _).trans (by rw [if_pos hd, State.valueAcked_eq hk h11 h12]; exact congrArg _ (State.valueAck_eq hb ht hi))
  · intro hd hk hi h9
    exact (onXing_some hx _).trans (by rw [if_pos ⟨hk, hd⟩, State.grayUpdate_counter hi h9])
  · intro hd h9 hi hf
    exact (onXing_some hx _).trans (by rw [if_pos ⟨Xid.kind_of_role_nine h9, hd⟩, State.grayUpdate_replica hi h9 hf])
  · intro hd hk
    exact (onXing_some hx _).trans (by rw [if_pos hd, State.heartbeat_eq hk])
  · intro hd hk
    exact (onXing_some hx _).trans (by rw [if_pos ⟨hk, hd⟩, State.snapshot_eq])
  · exact ⟨_, rfl, State.replica_replicaReload inv h9 h10, State.replicaReload_eq h9 h10⟩

end Sys2Proof.Machine
end

section
/-! What error flags and events write (R55, R577): crossings, event queues, the intake of the Guestbook and registers, and which
registers not. -/

namespace Sys2Proof.Machine

namespace State

/-- A write of a field within one word leaves every other register word. -/
theorem reg_wf_ne (s : State) {a k : Nat} {f : Fld} (v : Nat) (hlo : f.lo < 32) (hf : f.lo + f.len ≤ 32) (h : k ≠ a) :
    (s.wf a f v).reg k = s.reg k := by
  have h0 : f.lo / 32 = 0 := by omega
  have h1 : f.lo % 32 = f.lo := by omega
  simp only [wf, h0, h1, if_pos hf, Nat.mul_zero, Nat.add_zero]
  exact reg_setReg_ne s _ h

end State

/-- From `a` to `b`, only what error flags and events write has changed, and no register that `keep` names. -/
structure Signals (keep : Nat → Prop) (a b : State) : Prop where
  frame : b = { a with xings := b.xings, regs := b.regs, evq := b.evq, intake := b.intake }
  kept : ∀ k, keep k → b.reg k = a.reg k

namespace Signals

variable {keep : Nat → Prop} {a b c s : State}

theorem refl (s : State) : Signals keep s s := ⟨rfl, fun _ _ => rfl⟩

theorem trans (h : Signals keep a b) (g : Signals keep b c) : Signals keep a c where
  frame := by rw [g.frame, h.frame]
  kept k hk := (g.kept k hk).trans (h.kept k hk)

theorem wf {r : Nat} {f : Fld} (v : Nat) (hlo : f.lo < 32) (hf : f.lo + f.len ≤ 32) (hr : ¬keep r) : Signals keep s (s.wf r f v) where
  frame := by
    unfold State.wf
    dsimp only
    split <;> rfl
  kept _ hk := State.reg_wf_ne s v hlo hf fun e => hr (e ▸ hk)

theorem setXing (s : State) (k : Nat) (x : Xing) : Signals keep s (s.setXing k x) := ⟨rfl, fun _ _ => rfl⟩

theorem setEvq (s : State) (i : Nat) (q : EvQueue) : Signals keep s (s.setEvq i q) := ⟨rfl, fun _ _ => rfl⟩

theorem evqLaunch (s : State) (i : Nat) : Signals keep s (s.evqLaunch i) := by
  unfold State.evqLaunch
  dsimp only
  split
  · exact .refl s
  · split
    · exact .refl s
    · exact .setXing s _ _

theorem raiseIn (i code src p1 p2 p3 : Nat) (h : ¬keep GB_EVLOST.adr) : Signals keep s (s.raiseIn i code src p1 p2 p3) := by
  unfold State.raiseIn
  dsimp only
  split
  case isTrue => exact .refl s
  case isFalse =>
    split
    case isTrue => exact ⟨rfl, fun _ _ => rfl⟩
    case isFalse =>
      split
      case isTrue => exact (setEvq s i _).trans (evqLaunch _ i)
      case isFalse => exact (setEvq s i _).trans (wf (f := GB_EVLOST.COUNT) _ (by decide) (by decide) h)

theorem raise (code src p1 p2 p3 : Nat) (h : ¬keep GB_EVLOST.adr) : Signals keep s (s.raise code src p1 p2 p3) := raiseIn _ _ _ _ _ _ h

theorem xflag {flag : Nat} (i cause kind idx : Nat) (hf : flag < 32) (h : ¬keep (TP_XSTAT.adr i)) :
    Signals keep s (s.xflag i flag cause kind idx) := by
  unfold State.xflag
  dsimp only
  split
  case isTrue =>
    exact (((wf (f := TP_XSTAT.FIRST_CAUSE) cause (by decide) (by decide) h).trans
      (wf (f := TP_XSTAT.FIRST_KIND) kind (by decide) (by decide) h)).trans
      (wf (f := TP_XSTAT.FIRST_IDX) idx (by decide) (by decide) h)).trans (wf 1 hf hf h)
  case isFalse => exact wf 1 hf hf h

theorem pulsesLost (x : Xid) (n : Nat) (hx : ¬keep (TP_XSTAT.adr x.src)) (he : ¬keep GB_EVLOST.adr) : Signals keep s (s.pulsesLost x n) :=
  (xflag x.src 1 0 _ (by decide) hx).trans (raise _ _ _ _ _ he)

theorem foldl {α : Type} {f : State → α → State} (hf : ∀ t x, Signals keep t (f t x)) (l : List α) (s : State) :
    Signals keep s (l.foldl f s) := by
  induction l generalizing s with
  | nil => exact .refl s
  | cons x l ih => exact (hf s x).trans (ih (f s x))

theorem losePulses (i : Nat) (p : Xid → Bool) (hx : ∀ j, ¬keep (TP_XSTAT.adr j)) (he : ¬keep GB_EVLOST.adr) :
    Signals keep s (s.losePulses i p) := by
  refine foldl (fun t x => ?_) _ s
  dsimp only
  split
  · exact (setXing t x.key _).trans (pulsesLost x _ (hx x.src) he)
  · exact .refl t

theorem errCapture (status src isl tag addr : Nat) (h0 : ¬keep TP_ERRINFO.adr) (hl : ¬keep TP_ERRADDR_LO.adr)
    (hh : ¬keep TP_ERRADDR_HI.adr) :
    Signals keep s (s.errCapture status src isl tag addr) := by
  unfold State.errCapture
  dsimp only
  split
  case isTrue => exact .refl s
  case isFalse =>
    exact (((((((wf (f := TP_ERRINFO.VALID) 1 (by decide) (by decide) h0).trans
      (wf (f := TP_ERRINFO.STATUS) status (by decide) (by decide) h0)).trans
      (wf (f := TP_ERRINFO.SRC) src (by decide) (by decide) h0)).trans
      (wf (f := TP_ERRINFO.ISLAND) isl (by decide) (by decide) h0)).trans
      (wf (f := TP_ERRINFO.TAG) tag (by decide) (by decide) h0)).trans
      (wf (f := TP_ERRADDR_LO.ADDR) _ (by decide) (by decide) hl)).trans
      (wf (f := TP_ERRADDR_HI.ADDR) _ (by decide) (by decide) hh))

end Signals

/-! ### Timeouts of a crossing -/

/-- What crossing `x` holds once a wait on it has timed out (R46, R48). -/
def State.timedOut (s : State) (x : Xid) : Xing :=
  let st := s.xing x.key
  match x.kind with
  | 0 => { st with iso := true, busy := false, taken := false, count := 0, pend := [], held := [], join := false }
  | 1 => { st with iso := true }
  | 2 => { st with iso := true, dst := if x.role = 9 && !st.fresh then s.tkns else st.dst }
  | _ => { st with iso := true, dst := 2 ^ 64 - 1, fresh := false, busy := false }

namespace State

theorem timedOut_iso (s : State) (x : Xid) : (s.timedOut x).iso = true := by
  unfold timedOut
  dsimp only
  split <;> rfl

theorem timedOut_pulse {s : State} {x : Xid} (h : x.kind = 0) :
    (s.timedOut x).busy = false ∧ (s.timedOut x).pend = [] ∧ (s.timedOut x).held = [] := by
  simp [timedOut, h]

theorem timedOut_value {s : State} {x : Xid} (h : x.kind = 1) : (s.timedOut x).value = (s.xing x.key).value := by
  simp [timedOut, h]

theorem timedOut_counter {s : State} {x : Xid} (h : x.kind = 2) :
    (s.timedOut x).dst = if x.role = 9 ∧ (s.xing x.key).fresh = false then s.tkns else (s.xing x.key).dst := by
  simp [timedOut, h]

theorem timedOut_snapshot {s : State} {x : Xid} (h : x.kind = 3) : (s.timedOut x).dst = 2 ^ 64 - 1 := by
  simp [timedOut, h]

/-- The pulses that a timeout of crossing `x` loses (R48). -/
def timeoutLost (s : State) (x : Xid) : State := if x.kind = 0 then s.pulsesLost x (s.xing x.key).waiting else s

/-- The error flags that a timeout sets in TP_XSTAT of island `i`, with their events (R46, R55). -/
def timeoutFlagged (s : State) (i : Nat) (x : Xid) : State :=
  ((s.timeoutLost x).xflag i 1 2 x.kind (xidIndex i x)).raise 0x0102 (708 + i) (xidIndex i x) x.kind 0

theorem xTimeout_eq {s : State} {i : Nat} {x : Xid} (hw : s.waitsAt i x = true) (hi : s.xIso x = false) :
    s.xTimeout i x = (s.timeoutFlagged i x).setXing x.key (s.timedOut x) := by
  simp only [xTimeout, hw, hi, timedOut, timeoutFlagged, timeoutLost, Bool.not_true, Bool.or_self, Bool.false_eq_true, if_false]
  generalize x.kind = k
  match k with
  | 0 | 1 | 2 | _ + 3 => rfl

theorem timeoutLost_keeps (s : State) (x : Xid) : Keeps s (s.timeoutLost x) := by
  unfold timeoutLost
  split
  · exact pulsesLost_keeps _ _ (.refl s)
  · exact .refl s

theorem timeoutFlagged_keeps (s : State) (i : Nat) (x : Xid) : Keeps s (s.timeoutFlagged i x) :=
  raise_keeps _ _ _ _ _ (xflag_keeps _ _ _ _ _ (timeoutLost_keeps s x))

theorem timeoutLost_signals (s : State) (x : Xid) : Signals (fun _ => False) s (s.timeoutLost x) := by
  unfold timeoutLost
  split
  · exact .pulsesLost _ _ id id
  · exact .refl s

theorem timeoutFlagged_signals (s : State) (i : Nat) (x : Xid) : Signals (fun _ => False) s (s.timeoutFlagged i x) :=
  ((timeoutLost_signals s x).trans (.xflag _ _ _ _ (by decide) id)).trans (.raise _ _ _ _ _ id)

theorem rb_eq_of_reg {a b : State} {r : Nat} {f : Fld} (hlo : f.lo < 32) (hf : f.lo + f.len ≤ 32) (h : b.reg r = a.reg r) :
    b.rb r f = a.rb r f := by
  have h0 : f.lo / 32 = 0 := by omega
  have h1 : f.lo % 32 = f.lo := by omega
  simp only [rb, rf, h0, h1, if_pos hf, Nat.mul_zero, Nat.add_zero, h]

/-- The flag of an error shows. -/
theorem rb_xflag {s : State} {flag : Nat} (h : s.Inv) (i cause kind idx : Nat) (hf : flag < 32) :
    (s.xflag i flag cause kind idx).rb (TP_XSTAT.adr i) ⟨flag, 1⟩ = true := by
  unfold xflag
  dsimp only
  rw [rb, rf_wf_same ?_ _ _ ⟨flag, 1⟩ hf Nat.one_pos]
  · rfl
  · split
    · exact ((wf_keeps _ _ _ (wf_keeps _ _ _ (wf_keeps _ _ _ (.refl s)))).inv h).regs
    · exact h.regs

theorem rb_raise (s : State) {r : Nat} {f : Fld} (code src p1 p2 p3 : Nat) (hlo : f.lo < 32) (hf : f.lo + f.len ≤ 32)
    (hr : r ≠ GB_EVLOST.adr) : (s.raise code src p1 p2 p3).rb r f = s.rb r f :=
  rb_eq_of_reg hlo hf ((Signals.raise (keep := (· = r)) _ _ _ _ _ hr.symm).kept r rfl)

theorem xstat_ne_evlost (i : Nat) : TP_XSTAT.adr i ≠ GB_EVLOST.adr := by
  simp only [TP_XSTAT.adr, GB_EVLOST.adr]
  omega

theorem tmo_timeoutFlagged {s : State} (h : s.Inv) (i : Nat) (x : Xid) :
    (s.timeoutFlagged i x).rb (TP_XSTAT.adr i) TP_XSTAT.TMO = true := by
  rw [timeoutFlagged, rb_raise _ _ _ _ _ _ (by decide) (by decide) (xstat_ne_evlost i)]
  exact rb_xflag ((timeoutLost_keeps s x).inv h) _ _ _ _ (by decide)

theorem xing_xTimeout {s : State} (h : s.Inv) {i : Nat} {x : Xid} (hw : s.waitsAt i x = true) (hi : s.xIso x = false) :
    (s.xTimeout i x).xing x.key = s.timedOut x := by
  rw [xTimeout_eq hw hi, xing_setXing_same ((timeoutFlagged_keeps s i x).inv h).tables]

theorem tmo_xTimeout {s : State} (h : s.Inv) {i : Nat} {x : Xid} (hw : s.waitsAt i x = true) (hi : s.xIso x = false) :
    (s.xTimeout i x).rb (TP_XSTAT.adr i) TP_XSTAT.TMO = true := by
  rw [xTimeout_eq hw hi]
  exact tmo_timeoutFlagged h i x

theorem xTimeout_signals {s : State} {i : Nat} {x : Xid} (hw : s.waitsAt i x = true) (hi : s.xIso x = false) :
    Signals (fun _ => False) s (s.xTimeout i x) := by
  rw [xTimeout_eq hw hi]
  exact (timeoutFlagged_signals s i x).trans (.setXing _ _ _)

end State

end Sys2Proof.Machine
end

section
/-! What stores to memory leave of a scrub in progress: all of it (R364). -/

namespace Sys2Proof.Machine.State

theorem foldl_scrub {α : Type} {f : State → α → State} (hf : ∀ t x, (f t x).scrub = t.scrub) (l : List α) (s : State) :
    (l.foldl f s).scrub = s.scrub := by
  induction l generalizing s with
  | nil => rfl
  | cons x l ih => exact (ih (f s x)).trans (hf s x)

theorem eccLaunch_scrub (s : State) (i : Nat) : (s.eccLaunch i).scrub = s.scrub := by
  unfold eccLaunch
  dsimp only
  split
  · rfl
  · split <;> rfl

theorem report_scrub (s : State) (i : Nat) (r : EccReport) : (s.report i r).scrub = s.scrub := by
  unfold report
  dsimp only
  split
  · exact eccLaunch_scrub _ i
  · split <;> rfl

theorem reportWord_scrub (s : State) (l : MemLoc) (w : Nat) (m : Mark) : (s.reportWord l w m).scrub = s.scrub := by
  cases m <;> exact report_scrub s _ _

theorem storeBytes_scrub (s : State) (items : List (Nat × Byte)) : (items.foldl (fun s e => s.setByte e.1 e.2) s).scrub = s.scrub :=
  foldl_scrub (fun t e => setByte_scrub t e.1 e.2) items s

theorem mergeWord_scrub (s : State) (l : MemLoc) (w : Nat) (items : List (Nat × Byte)) : (s.mergeWord l w items).scrub = s.scrub := by
  unfold mergeWord
  dsimp only
  split
  · exact storeBytes_scrub s items
  · exact (reportWord_scrub _ l w _).trans (storeBytes_scrub s items)
  · exact (reportWord_scrub _ l w _).trans (storeBytes_scrub s items)

theorem flushEnt_scrub (s : State) (l : MemLoc) (k : Nat) (e : MergeEnt) : (s.flushEnt l k e).scrub = s.scrub := by
  unfold flushEnt
  dsimp only
  split
  · exact storeBytes_scrub _ _
  · exact mergeWord_scrub _ _ _ _

theorem bufferWord_scrub (s : State) (l : MemLoc) (k w : Nat) (items : List (Nat × Byte)) :
    (s.bufferWord l k w items).scrub = s.scrub := by
  unfold bufferWord
  extract_lets s0 s1 upd s2
  have h0 : s0.scrub = s.scrub := by
    unfold s0
    split
    · rfl
    · split
      · exact flushEnt_scrub _ _ _ _
      · rfl
  have h1 : s2.scrub = s.scrub := by
    rw [setMbuf_scrub]
    unfold s1
    split
    · rfl
    · exact h0
  split
  · split
    · exact (flushEnt_scrub s2 _ _ _).trans h1
    · exact h1
  · exact h1

theorem storeWord_scrub (s : State) (l : MemLoc) (w : Nat) (items : List (Nat × Byte)) : (s.storeWord l w items).scrub = s.scrub := by
  unfold storeWord
  dsimp only
  split
  · refine (storeBytes_scrub _ items).trans ?_
    split <;> rfl
  · split
    · exact bufferWord_scrub _ _ _ _ _
    · exact mergeWord_scrub _ _ _ _

theorem ddrReport_scrub (s : State) (l : MemLoc) (line : Nat) : (s.ddrReport l line).scrub = s.scrub := by
  unfold ddrReport
  dsimp only
  split
  · exact report_scrub _ _ _
  · split
    · rfl
    · exact report_scrub _ _ _

theorem upto_scrub (n : Nat) {f : Nat → State → State} (hf : ∀ k t, (f k t).scrub = t.scrub) (s : State) : (upto n f s).scrub = s.scrub :=
  foldl_scrub (fun t k => hf k t) _ s

theorem storeDdr_scrub (s : State) (l : MemLoc) (line : Nat) (items : List (Nat × Byte)) : (s.storeDdr l line items).scrub = s.scrub := by
  have clean (t : State) : (upto 16 (fun j s => s.setMark (line + 4 * j) none) t).scrub = t.scrub :=
    upto_scrub 16 (fun j t => setMark_scrub t (line + 4 * j) none) t
  have merged := (ddrReport_scrub (items.foldl (fun s e => s.setByte e.1 e.2) s) l line).trans (storeBytes_scrub s items)
  unfold storeDdr
  dsimp only
  split
  · exact (clean _).trans (storeBytes_scrub s items)
  · split
    · refine (upto_scrub 16 (fun j t => ?_) _).trans ((clean _).trans merged)
      split <;> rfl
    · exact (clean _).trans merged

theorem memStore_scrub (s : State) (items : List (Nat × Byte)) : (s.memStore items).scrub = s.scrub := by
  unfold memStore
  split
  · rfl
  · split
    · rfl
    · split
      · exact storeDdr_scrub _ _ _ _
      · exact foldl_scrub (fun t w => storeWord_scrub t _ w _) _ s

theorem maybeWritten_scrub (s : State) (r : Req) : (s.maybeWritten r).scrub = s.scrub := by
  unfold maybeWritten
  split
  · rfl
  · dsimp only
    split
    · exact foldl_scrub (fun t w => memStore_scrub t _) _ _
    · rfl

end Sys2Proof.Machine.State
end

section
/-! The death of an island (R80 to R85): what answering its held requests leaves, and what the declaration leaves before the mode
follows it. -/

namespace Sys2Proof.Machine

/-- The registers that name the dead islands (R82). -/
abbrev IsDeadReg (k : Nat) : Prop := k = TP_DEAD0.adr ∨ k = TP_DEAD1.adr

theorem not_isDeadReg_xstat (i : Nat) : ¬IsDeadReg (TP_XSTAT.adr i) := by
  simp only [IsDeadReg, TP_XSTAT.adr, TP_DEAD0.adr, TP_DEAD1.adr]
  omega

theorem not_isDeadReg_evlost : ¬IsDeadReg GB_EVLOST.adr := by decide

namespace State

theorem deadIsl_of_signals {a b : State} (h : Signals IsDeadReg a b) (i : Nat) : b.deadIsl i = a.deadIsl i := by
  simp only [deadIsl, h.kept _ (.inl rfl), h.kept _ (.inr rfl)]

theorem sourceDead_of_signals {a b : State} (h : Signals IsDeadReg a b) (src i : Nat) : b.sourceDead src i = a.sourceDead src i := by
  simp only [sourceDead, deadIsl_of_signals h]

theorem bit_of_rf {s : State} {a i : Nat} (hi : i < 32) (h : s.rf a ⟨i, 1⟩ = 1) : bit (s.reg a) i = true := by
  have h0 : i / 32 = 0 := by omega
  have h1 : i % 32 = i := by omega
  have hl : i + 1 ≤ 32 := by omega
  simpa only [rf, h0, h1, if_pos hl, Nat.mul_zero, Nat.add_zero, bits, bit, decide_eq_true_eq, Nat.pow_one] using h

theorem deadIsl_setDead {s : State} (h : s.Inv) {i : Nat} (hi : i < 63) : (s.setDead i true).deadIsl i = true := by
  unfold deadIsl setDead
  split
  case isTrue hl => exact bit_of_rf hl (rf_wf_same h.regs _ _ ⟨i, 1⟩ (by simpa using hl) Nat.one_pos)
  case isFalse hl =>
    have hl' : i - 32 < 32 := by omega
    exact bit_of_rf hl' (rf_wf_same h.regs _ _ ⟨i - 32, 1⟩ (by simpa using hl') Nat.one_pos)

/-! ### The answers to held requests -/

/-- One of the requests held at island `i` is answered `status`. -/
def answerOne (i status : Nat) (s : State) (r : Req) : State :=
  let s0 := s.maybeWritten r
  let s' := if s0.sourceDead r.src i then s0
    else s0.emit (.response r.src r.tag status r.island (if r.write then [] else poisonLine))
  if status = stAsleep then
    s'.raiseIn (guardIsland i) 0x0104 (708 + r.island) r.src (r.addr % 2 ^ 32) (r.addr >>> 32)
  else s'

/-- The requests held at island `i` are outstanding no longer. -/
def heldDropped (s : State) (i : Nat) : State :=
  { s.dropRouted i with outst := s.outst.filter fun r => !r.crosses i, hostReads := if i = 39 then [] else s.hostReads }

/-- The answer to the request of the lowest source that island `i` holds is captured (R90). -/
def heldCaptured (s : State) (i status : Nat) : State :=
  match lowestReq (s.heldReqs i) with
  | some r => (s.heldDropped i).errCapture status r.src r.island r.tag r.addr
  | none => s.heldDropped i

theorem answerHeld_eq (s : State) (i status : Nat) :
    s.answerHeld i status = ((s.heldReqs i).length, (s.heldReqs i).foldl (answerOne i status) (s.heldCaptured i status)) := rfl

theorem heldCaptured_signals (s : State) (i status : Nat) : Signals IsDeadReg (s.heldDropped i) (s.heldCaptured i status) := by
  unfold heldCaptured
  split
  · exact .errCapture _ _ _ _ _ (by decide) (by decide) (by decide)
  · exact .refl _

theorem foldl_setRouter_frame {α : Type} {f : State → α → State} (hf : ∀ t x, ∃ r, f t x = { t with routers := r }) (l : List α)
    (s : State) : ∃ r, l.foldl f s = { s with routers := r } := by
  induction l generalizing s with
  | nil => exact ⟨s.routers, rfl⟩
  | cons x l ih =>
    obtain ⟨r, hr⟩ := hf s x
    obtain ⟨r', hr'⟩ := ih (f s x)
    exact ⟨r', by rw [List.foldl_cons, hr', hr]⟩

theorem dropRouted_frame (s : State) (i : Nat) : ∃ r, s.dropRouted i = { s with routers := r } := by
  refine foldl_setRouter_frame (fun t e => ?_) s.routers s
  dsimp only
  split
  · exact ⟨_, rfl⟩
  · exact ⟨t.routers, rfl⟩

theorem heldDropped_frame (s : State) (i : Nat) : ∃ rs hs, s.heldDropped i =
    { s with routers := rs, outst := s.outst.filter fun r => !r.crosses i, hostReads := hs } := by
  obtain ⟨rs, h⟩ := dropRouted_frame s i
  exact ⟨rs, _, by rw [heldDropped, h]⟩

theorem sourceDead_emit (s : State) (o : Out) (src i : Nat) : (s.emit o).sourceDead src i = s.sourceDead src i := rfl

theorem answerOne_dead (i : Nat) (s : State) (r : Req) : answerOne i stDead s r =
    if (s.maybeWritten r).sourceDead r.src i then s.maybeWritten r
    else (s.maybeWritten r).emit (.response r.src r.tag stDead r.island (if r.write then [] else poisonLine)) := rfl

theorem answerOne_dead_scrub (i : Nat) (s : State) (r : Req) : (answerOne i stDead s r).scrub = s.scrub := by
  rw [answerOne_dead]
  split <;> exact maybeWritten_scrub s r

/-- The answer TARGET_DEAD to a request (R83). -/
def deadResponse (r : Req) : Out := .response r.src r.tag stDead r.island (if r.write then [] else poisonLine)

/-- When no held request carries data of a write, answering them only sends the answers, but for those bound for a dead region (R85). -/
theorem foldl_answerOne_dead {i : Nat} {rs : List Req} (h : ∀ r ∈ rs, r.wr = []) (s : State) :
    rs.foldl (answerOne i stDead) s =
      { s with out := ((rs.filter fun r => !s.sourceDead r.src i).map deadResponse).reverse ++ s.out } := by
  induction rs generalizing s with
  | nil => rfl
  | cons r rs ih =>
    obtain ⟨hr, hrs⟩ := List.forall_mem_cons.mp h
    have hw : s.maybeWritten r = s := by simp [maybeWritten, hr]
    rw [List.foldl_cons, ih hrs, answerOne_dead, hw]
    cases hd : s.sourceDead r.src i
    · simp only [Bool.false_eq_true, if_false, sourceDead_emit, List.filter_cons, hd, Bool.not_false, if_true, List.map_cons,
        List.reverse_cons, List.append_assoc]
      rfl
    · simp [hd]

/-! ### The declaration -/

/-- Island `i` is about to be declared dead: TMO and its event are told, and its bridge's pulses are lost (R48, R82). -/
def deadTold (s : State) (i : Nat) : State :=
  let far := flagIsland i
  let x : Xid := if i = 62 then ⟨61, 62, 15, 1⟩ else ⟨far, i, 0, 0⟩
  let idx := xidIndex far x
  ((s.xflag far 1 2 x.kind idx).raise 0x0102 (708 + far) idx x.kind 0).losePulses i fun _ => true

/-- TP_DEAD names island `i` and its held requests are answered, after which the mode follows (R82, R528). -/
def deadNamed (s : State) (i : Nat) : State :=
  let r := (s.deadTold i).answerHeld i stDead
  (r.2.setDead i true).raise 0x0105 (771 + bridgeRouter i) i r.1 0

theorem deadTold_signals (s : State) (i : Nat) : Signals IsDeadReg s (s.deadTold i) :=
  ((Signals.xflag _ _ _ _ (by decide) (not_isDeadReg_xstat _)).trans (.raise _ _ _ _ _ not_isDeadReg_evlost)).trans
    (.losePulses _ _ not_isDeadReg_xstat not_isDeadReg_evlost)

theorem scrubAbort_of_none {s : State} (h : s.scrub = none) (i status : Nat) : s.scrubAbort i status = s := by
  simp only [scrubAbort, h]

theorem scrub_of_signals {keep : Nat → Prop} {a b : State} (h : Signals keep a b) : b.scrub = a.scrub := by
  rw [h.frame]

theorem deadAnswered_scrub (s : State) (i : Nat) : (s.answerHeld i stDead).2.scrub = s.scrub := by
  rw [answerHeld_eq]
  refine (foldl_scrub (answerOne_dead_scrub i) _ _).trans ((scrub_of_signals (heldCaptured_signals s i stDead)).trans ?_)
  obtain ⟨rs, hs, h⟩ := heldDropped_frame s i
  rw [h]

theorem setDead_signals (s : State) (i : Nat) (b : Bool) (hi : i < 63) : Signals (fun _ => False) s (s.setDead i b) := by
  unfold setDead
  split
  case isTrue hl => exact .wf _ (by simpa using hl) (by simpa using hl) id
  case isFalse hl =>
    have hl' : i - 32 < 32 := by omega
    exact .wf _ (by simpa using hl') (by simpa using hl') id

theorem deadNamed_scrub (s : State) {i : Nat} (hi : i < 63) : (s.deadNamed i).scrub = s.scrub :=
  (scrub_of_signals ((setDead_signals _ i true hi).trans (.raise _ _ _ _ _ id))).trans
    ((deadAnswered_scrub _ i).trans (scrub_of_signals (deadTold_signals s i)))

/-- The declaration of an island that is neither dead nor isolated, when no scrub runs. -/
theorem deadDeclare_eq {s : State} {i : Nat} (hi : i < 63) (hd : s.deadIsl i = false) (ho : (s.isl i).iso = false)
    (hs : s.scrub = none) :
    s.deadDeclare i false = if i = 61 then (s.deadNamed i).haltEnter 3 0 else (s.deadNamed i).airSync := by
  rw [← scrubAbort_of_none ((deadNamed_scrub s hi).trans hs) i sDead]
  simp only [deadDeclare, hd, ho, Bool.false_eq_true, or_self, if_false]
  rfl

theorem deadTold_keeps (s : State) (i : Nat) : Keeps s (s.deadTold i) :=
  losePulses_keeps _ _ (raise_keeps _ _ _ _ _ (xflag_keeps _ _ _ _ _ (.refl s)))

theorem deadAnswered_keeps (s : State) (i : Nat) : Keeps s ((s.deadTold i).answerHeld i stDead).2 :=
  answerHeld_keeps _ _ (deadTold_keeps s i)

theorem deadNamed_keeps (s : State) (i : Nat) : Keeps s (s.deadNamed i) :=
  raise_keeps _ _ _ _ _ (setDead_keeps _ _ (deadAnswered_keeps s i))

theorem deadIsl_deadNamed {s : State} (h : s.Inv) {i : Nat} (hi : i < 63) : (s.deadNamed i).deadIsl i = true :=
  (deadIsl_of_signals (.raise _ _ _ _ _ not_isDeadReg_evlost) i).trans (deadIsl_setDead ((deadAnswered_keeps s i).inv h) hi)

/-- The bridge of a dead island is isolated (R82). -/
theorem xIso_of_deadIsl {s : State} {c : Xid} (hl : tpLink c.src c.dst = true) (hd : s.deadIsl (bridgeOwner c.src c.dst) = true) :
    s.xIso c = true := by
  simp [xIso, deadLink, hl, hd]

theorem heldReqs_of_signals {keep : Nat → Prop} {a b : State} (h : Signals keep a b) (i : Nat) : b.heldReqs i = a.heldReqs i := by
  rw [h.frame]
  rfl

theorem heldDropped_sourceDead (s : State) (i src : Nat) : (s.heldDropped i).sourceDead src i = s.sourceDead src i := by
  obtain ⟨rs, hs, h⟩ := heldDropped_frame s i
  rw [h]
  rfl

theorem outst_of_signals {keep : Nat → Prop} {a b : State} (h : Signals keep a b) : b.outst = a.outst := by rw [h.frame]
theorem mem_of_signals {keep : Nat → Prop} {a b : State} (h : Signals keep a b) : b.mem = a.mem := by rw [h.frame]
theorem marks_of_signals {keep : Nat → Prop} {a b : State} (h : Signals keep a b) : b.marks = a.marks := by rw [h.frame]
theorem out_of_signals {keep : Nat → Prop} {a b : State} (h : Signals keep a b) : b.out = a.out := by rw [h.frame]

section
variable {s : State} {i : Nat} (h : ∀ r ∈ s.heldReqs i, r.wr = [])
include h

/-- The answers TARGET_DEAD to requests that carry no data of a write leave memory as it is, and only the requests held elsewhere
outstanding. -/
theorem deadAnswered_noData :
    (s.answerHeld i stDead).2.outst = s.outst.filter (fun r => !r.crosses i) ∧ (s.answerHeld i stDead).2.mem = s.mem ∧
      (s.answerHeld i stDead).2.marks = s.marks := by
  have sig := heldCaptured_signals s i stDead
  obtain ⟨rs, hs, hd⟩ := heldDropped_frame s i
  rw [answerHeld_eq, foldl_answerOne_dead h]
  exact ⟨(outst_of_signals sig).trans (by rw [hd]), (mem_of_signals sig).trans (by rw [hd]), (marks_of_signals sig).trans (by rw [hd])⟩

theorem deadResponse_mem {r : Req} (hr : r ∈ s.heldReqs i) (hd : s.sourceDead r.src i = false) :
    deadResponse r ∈ (s.answerHeld i stDead).2.out := by
  have hd' : (s.heldCaptured i stDead).sourceDead r.src i = false :=
    (sourceDead_of_signals (heldCaptured_signals s i stDead) _ _).trans ((heldDropped_sourceDead s i _).trans hd)
  rw [answerHeld_eq, foldl_answerOne_dead h]
  refine List.mem_append_left _ (List.mem_reverse.mpr (List.mem_map_of_mem (List.mem_filter.mpr ⟨hr, ?_⟩)))
  rw [hd']
  rfl

end

theorem deadNamed_signals (s : State) {i : Nat} (hi : i < 63) :
    Signals (fun _ => False) ((s.deadTold i).answerHeld i stDead).2 (s.deadNamed i) :=
  (setDead_signals _ i true hi).trans (.raise _ _ _ _ _ id)

section
variable {s : State} {i : Nat} (hi : i < 63) (h : ∀ r ∈ s.heldReqs i, r.wr = [])
include hi h

/-- A declaration that finds no data of a write held changes no memory, and leaves the requests held elsewhere. -/
theorem deadNamed_noData :
    (s.deadNamed i).outst = s.outst.filter (fun r => !r.crosses i) ∧ (s.deadNamed i).mem = s.mem ∧ (s.deadNamed i).marks = s.marks := by
  have told := deadTold_signals s i
  have named := deadNamed_signals s hi
  obtain ⟨ho, hm, hk⟩ := deadAnswered_noData (s := s.deadTold i) (i := i) (by rwa [heldReqs_of_signals told])
  exact ⟨(outst_of_signals named).trans (ho.trans (by rw [outst_of_signals told])),
    (mem_of_signals named).trans (hm.trans (mem_of_signals told)), (marks_of_signals named).trans (hk.trans (marks_of_signals told))⟩

theorem deadResponse_mem_deadNamed {r : Req} (hr : r ∈ s.outst) (hc : r.crosses i = true) (hd : s.sourceDead r.src i = false) :
    deadResponse r ∈ (s.deadNamed i).out := by
  have told := deadTold_signals s i
  have held : r ∈ s.heldReqs i := List.mem_append_left _ (List.mem_append_left _ (List.mem_filter.mpr ⟨hr, hc⟩))
  rw [out_of_signals (deadNamed_signals s hi)]
  exact deadResponse_mem (by rwa [heldReqs_of_signals told]) (by rwa [heldReqs_of_signals told])
    ((sourceDead_of_signals told _ _).trans hd)

end

/-- The dead timer of an island that holds requests ends: the island is declared dead (R80, R81). -/
theorem deadTimer_eq {s : State} {i : Nat} (hi : i < 63)
    (hw : (s.outst.any (fun r => r.crosses i) || !(s.routedReqs i).isEmpty) = true) (hd : s.deadIsl i = false)
    (ho : (s.isl i).iso = false) (hs : s.scrub = none) :
    s.deadTimer i = (if i = 61 then (s.deadNamed i).haltEnter 3 0 else (s.deadNamed i).airSync).ntfFree i := by
  rw [deadTimer, if_pos hw, deadDeclare_eq hi hd ho hs]

end State

open State in
/-- Settles O2: a timeout that declares no island dead sets its crossing and the error flags, and an island's declaration names it in
TP_DEAD once its held requests have been answered. -/
theorem timeoutsIsolateAndDeclareDead : Obligations.TimeoutsIsolateAndDeclareDead := by
  refine ⟨fun s i x c hx => ⟨?_, ?_, ?_⟩, fun s i => ⟨?_, ?_⟩⟩
  · intro h
    refine (onXing_some hx _).trans (congrArg _ ?_)
    rcases h with h | h <;> simp [crossingTimeout, h]
  · intro hw hi hl
    refine (onXing_some hx _).trans (congrArg _ ?_)
    simp only [crossingTimeout, hw, hi, hl, Bool.not_true, Bool.or_self, Bool.false_eq_true, if_false, if_true]
  · intro hw hi hl inv
    have he : s.crossingTimeout i c = s.xTimeout i c := by
      simp only [crossingTimeout, hw, hi, hl, Bool.not_true, Bool.or_self, Bool.false_eq_true, if_false]
    have ht := xing_xTimeout inv hw hi
    refine ⟨s.xTimeout i c, (onXing_some hx _).trans (congrArg _ he), ?_, tmo_xTimeout inv hw hi, ?_, ?_, ?_, ?_,
      (xTimeout_signals hw hi).frame⟩
    · rw [ht]; exact timedOut_iso s c
    · intro hk; rw [ht]; exact timedOut_pulse hk
    · intro hk; rw [ht]; exact timedOut_value hk
    · intro hk; rw [ht]; exact timedOut_counter hk
    · intro hk; rw [ht]; exact timedOut_snapshot hk
  · intro hw
    exact congrArg Host.Outcome.next (if_neg (by simp [hw]))
  · intro inv hw hd ho hs
    refine ⟨s.deadNamed i, congrArg _ (deadTimer_eq i.isLt hw hd ho hs), deadIsl_deadNamed inv i.isLt,
      (deadNamed_keeps s i).sent, ?_, ?_⟩
    · intro c hl hb
      exact xIso_of_deadIsl hl (by rw [hb]; exact deadIsl_deadNamed inv i.isLt)
    · intro h
      obtain ⟨hout, hmem, hmarks⟩ := deadNamed_noData i.isLt h
      exact ⟨hout, hmem, hmarks, fun r hr hc hd => deadResponse_mem_deadNamed i.isLt h hr hc hd⟩

end Sys2Proof.Machine
end

section
/-! The routers of the Turnpike (R57, R67 to R73): what a router does with the flit that arrives, with the one that its arbitration
chooses, and with one that has waited. -/

namespace Sys2Proof.Machine.State

/-! ### The chosen flit -/

theorem forwardFlit_none {s : State} {q o : Nat} (hc : s.choose q o = none) : s.forwardFlit q o = s := by
  simp only [forwardFlit, hc]

section
variable {s u : State} {q o p l : Nat} {h : HeldFlit} (hc : s.choose q o = some (p, l, h, u))
include hc

/-- A bridge or a dead island lets the chosen flit pass no more: what that leaves, and the end of its burst. -/
theorem forwardFlit_stopped {t : State} (hs : (u.popHead q p l o h.flit).linkStops (routerIsland q)
    ((hopIsland q o).getD (routerIsland q)) h.flit = some t) : s.forwardFlit q o = t.stopBurst q o l h.flit := by
  simp only [forwardFlit, hc, hs]

variable (hs : (u.popHead q p l o h.flit).linkStops (routerIsland q) ((hopIsland q o).getD (routerIsland q)) h.flit = none)
include hs

theorem forwardFlit_island {i : Nat} (ho : hopOf q o = .island i) :
    s.forwardFlit q o = ((u.popHead q p l o h.flit).linkCount (routerIsland q) i).arriveEndpoint i h.flit := by
  simp only [forwardFlit, hc, hs, ho]

theorem forwardFlit_router {q' p' : Nat} (ho : hopOf q o = .router q' p') :
    s.forwardFlit q o = ((u.popHead q p l o h.flit).linkCount (routerIsland q)
      ((hopIsland q o).getD (routerIsland q))).pushBuf q' p' l ⟨h.flit, false⟩ := by
  simp only [forwardFlit, hc, hs, ho]

end

/-! ### The arriving flit -/

/-- A flit comes in at input `p` of router `q`: from an island, over the link bridge, which counts it (R42, R67). -/
def crossedInto (s : State) (q p : Nat) : State :=
  match hopOf q p with
  | .island i => s.linkCount i (routerIsland q)
  | _ => s

section
variable {s : State} {q p : Nat} {f : Flit} {named : Bool}
  (ha : f.type = 6 → sget (s.router q).absorb (4 * p + s.entryLevel f named) false = false)
include ha

/-- No room at its level: the flit stays where it is. -/
theorem acceptFlit_noRoom (hr : s.bufRoom q p (s.entryLevel f named) = false) : s.acceptFlit q p f named = s := by
  have absorbed : ¬((decide (f.type = 6) && sget (s.router q).absorb (4 * p + s.entryLevel f named) false) = true) := by
    simpa using ha
  simp only [acceptFlit, if_neg absorbed, hr, Bool.not_false, if_true]

/-- A flit with room and a target, which no bridge that it has crossed stops, enters the buffer of its level, its PRI saying that
level. -/
theorem acceptFlit_room (hr : s.bufRoom q p (s.entryLevel f named) = true)
    (hd : f.isResponse = true ∨ f.type = 6 ∨ (islandAt s.ddrGiB f.addr).isSome = true)
    (hb : ∀ i, hopOf q p = .island i → i = routerIsland q ∨ f.type = 6 ∨ s.bridgeStops i false f = none) :
    s.acceptFlit q p f named = (s.crossedInto q p).pushBuf q p (s.entryLevel f named)
      ⟨f.withPri (s.entryLevel f named), false⟩ := by
  have absorbed : ¬((decide (f.type = 6) && sget (s.router q).absorb (4 * p + s.entryLevel f named) false) = true) := by
    simpa using ha
  have targeted : ¬((!f.isResponse && decide (f.type ≠ 6) && (islandAt s.ddrGiB f.addr).isNone) = true) := by
    rcases hd with hd | hd | hd
    · simp [hd]
    · simp [hd]
    · simp [Option.isNone_eq_false_iff.mpr hd]
  simp only [acceptFlit, if_neg absorbed, hr, Bool.not_true, Bool.false_eq_true, if_false, crossedInto]
  cases ho : hopOf q p with
  | nowhere => simp only [if_neg targeted]
  | router q' p' => simp only [if_neg targeted]
  | island i =>
    have passes : (if i = routerIsland q ∨ f.type = 6 then none else s.bridgeStops i false f) = none := by
      rcases hb i ho with h | h | h
      · exact if_pos (.inl h)
      · exact if_pos (.inr h)
      · rw [h, ite_self]
    simp only [passes, if_neg targeted]

end

/-! ### The flit that has waited -/

theorem agePromote_head {s : State} {q p l : Nat} {h : HeldFlit} {hs : List HeldFlit} (hl : l < 2)
    (hq : sget (s.router q).bufs (4 * p + l) [] = h :: hs) : s.agePromote q p l =
      s.setRouter q { s.router q with bufs := sput (s.router q).bufs (4 * p + l) ({ h with promoted := true } :: hs) [] } := by
  simp only [agePromote, if_neg (Nat.not_le.mpr hl), hq]

end Sys2Proof.Machine.State

namespace Sys2Proof.Machine

theorem exec_tpRouteFlit_next {s t : State} {q o : Fin 32} (h : (s.takeOwn q).forwardFlit q o = t) :
    exec (.tpRouteFlit q none o) s = .next t := by
  subst h; rfl

theorem exec_tpRouteFlit_arrive {s t : State} {q o p : Fin 32} {f : Flit} {named : Bool} (h : s.acceptFlit q p f named = t) :
    exec (.tpRouteFlit q (some (p, f, named)) o) s = .next ((t.takeOwn q).forwardFlit q o) := by
  subst h; rfl

theorem exec_tpAgePromote (s : State) (q p : Fin 32) (l : Fin 4) : exec (.tpAgePromote q p l) s = .next (s.agePromote q p l) := rfl

open State in
/-- Settles O4: each command is the equation of what it does with the arriving, the chosen or the waiting flit. -/
theorem routersBufferForwardAndPromote : Obligations.RoutersBufferForwardAndPromote := by
  refine fun s q o => ⟨fun hc => exec_tpRouteFlit_next (forwardFlit_none hc), fun p l h u hc => ⟨fun hs => ⟨?_, ?_⟩, ?_⟩, ?_, ?_⟩
  · exact fun i ho => exec_tpRouteFlit_next (forwardFlit_island hc hs ho)
  · exact fun q' p' ho => exec_tpRouteFlit_next (forwardFlit_router hc hs ho)
  · exact fun t hs => exec_tpRouteFlit_next (forwardFlit_stopped hc hs)
  · intro p f named hd l ha hb
    refine exec_tpRouteFlit_arrive ?_
    cases hr : s.bufRoom q p l
    · exact acceptFlit_noRoom ha hr
    · exact acceptFlit_room ha hr hd hb
  · intro p l h hs hl hq
    rw [exec_tpAgePromote, agePromote_head hl hq]

end Sys2Proof.Machine
end

section
/-! A line of DDR memory whose beats decode cleanly (R346, R347, R353): where it lies, and what a write of some of its bytes leaves. -/

namespace Sys2Proof.Machine

/-! ### Where a line of DDR lies -/

/-- Byte `a` lies in the installed DDR memory (R86, R343). -/
def DdrAddr (gib a : Nat) : Prop := 0x10000000000 ≤ a ∧ a < 0x10000000000 + 0x40000000 * gib

section
variable {gib a : Nat} (h : DdrAddr gib a)
include h

theorem DdrAddr.memLoc : memLoc gib a = some ⟨8, 35 + ddrSub a / 2, ddrSub a / 2, 4⟩ := by
  obtain ⟨hl, hh⟩ := h
  unfold Machine.memLoc
  rw [if_neg (by omega), if_neg (by omega), if_neg (by omega), if_neg (by omega), if_neg (by omega), if_pos ⟨hl, hh⟩]

theorem DdrAddr.islandAt : islandAt gib a = some (35 + ddrSub a / 2) := by
  obtain ⟨hl, hh⟩ := h
  unfold Machine.islandAt
  rw [if_neg (by omega), if_neg (by omega), if_neg (by omega), if_neg (by omega), if_neg (by omega), if_neg (by omega),
    if_pos ⟨hl, hh⟩]

/-- The bytes of a line lie in one subchannel. -/
theorem DdrAddr.add (ha : a % 64 = 0) {i : Nat} (hi : i < 64) : DdrAddr gib (a + i) ∧ ddrSub (a + i) = ddrSub a := by
  obtain ⟨hl, hh⟩ := h
  refine ⟨⟨by omega, by omega⟩, ?_⟩
  simp only [ddrSub, bits, Nat.shiftRight_eq_div_pow]
  omega

theorem DdrAddr.memLoc_add (ha : a % 64 = 0) {i : Nat} (hi : i < 64) : Machine.memLoc gib (a + i) = Machine.memLoc gib a := by
  obtain ⟨hd, hs⟩ := h.add ha hi
  rw [hd.memLoc, h.memLoc, hs]

end

/-- Every memory outside the DDR is of another kind (R355). -/
theorem ddrAddr_of_memLoc {gib a : Nat} {l : MemLoc} (h : memLoc gib a = some l) (hk : l.kind = 8) : DdrAddr gib a := by
  by_contra hd
  rw [DdrAddr] at hd
  simp only [memLoc, if_neg hd] at h
  split_ifs at h <;> cases h <;> cases hk

namespace State

/-- A request that nothing stops goes to the island of its address. -/
theorem islandAt_of_gate {s u : State} {src tag a t : Nat} (h : s.gate src tag a = (none, t, u)) : islandAt s.ddrGiB a = some t := by
  unfold gate at h
  dsimp only at h
  split at h
  · split at h <;> cases h
  · next t' ht =>
    rw [ht]
    split_ifs at h
    · cases h; rfl
    · split at h
      · cases h
      · split at h
        · cases h
        · split at h
          · split_ifs at h <;> cases h
          · cases h; rfl

section
variable {s : State} {a : Nat} (h : DdrAddr s.ddrGiB a)
include h

/-- No unit inside an island answers for DDR memory. -/
theorem unitRefuses_ddr (src tag : Nat) : s.unitRefuses src tag a = none := by
  obtain ⟨hl, -⟩ := h
  have awake : s.unitAsleep a = none := by
    unfold unitAsleep
    rw [if_neg (by omega), if_neg (by omega)]
  unfold unitRefuses
  rw [awake]
  exact if_neg (by omega)

/-- No write held in a slice's bridge is before a request to DDR memory. -/
theorem behindHeld_ddr (src : Nat) : s.behindHeld src a = false := by
  unfold behindHeld
  rw [h.islandAt]
  have beyond : ¬(35 + ddrSub a / 2 < 32) := by omega
  simp only [decide_eq_false beyond, Bool.and_false, Bool.false_and]

end

/-! ### Stores to a clean line -/

/-- The array with `items` stored. -/
def storeItems (s : State) (items : List (Nat × Byte)) : State := items.foldl (fun s e => s.setByte e.1 e.2) s

theorem storeItems_cons (s : State) (e : Nat × Byte) (items : List (Nat × Byte)) :
    s.storeItems (e :: items) = (s.setByte e.1 e.2).storeItems items := rfl

theorem storeItems_frame (s : State) (items : List (Nat × Byte)) : ∃ m, s.storeItems items = { s with mem := m } := by
  induction items generalizing s with
  | nil => exact ⟨s.mem, rfl⟩
  | cons e items ih =>
    obtain ⟨m, hm⟩ := ih (s.setByte e.1 e.2)
    exact ⟨m, hm⟩

@[simp] theorem storeItems_marks (s : State) (items : List (Nat × Byte)) : (s.storeItems items).marks = s.marks := by
  obtain ⟨m, hm⟩ := storeItems_frame s items
  rw [hm]

@[simp] theorem storeItems_sleep (s : State) (items : List (Nat × Byte)) : (s.storeItems items).sleep = s.sleep := by
  obtain ⟨m, hm⟩ := storeItems_frame s items
  rw [hm]

@[simp] theorem storeItems_sourceDead (s : State) (items : List (Nat × Byte)) (src t : Nat) :
    (s.storeItems items).sourceDead src t = s.sourceDead src t := by
  obtain ⟨m, hm⟩ := storeItems_frame s items
  rw [hm]
  rfl

/-- A byte reads `v` after a store in which every item at its address holds `v`, when there is one or it held `v` before. -/
theorem byteAt_storeItems {s : State} (hw : Memory.wf s.mem = true) {items : List (Nat × Byte)} {b : Nat} {v : Byte}
    (each : ∀ e ∈ items, e.1 = b → e.2 = v) (held : (∃ e ∈ items, e.1 = b) ∨ s.byteAt b = v) : (s.storeItems items).byteAt b = v := by
  induction items generalizing s with
  | nil => exact held.resolve_left (by simp)
  | cons e items ih =>
    obtain ⟨he, hi⟩ := List.forall_mem_cons.mp each
    refine ih (swf_sput (d := fun _ => (0 : Byte)) hw) hi ?_
    by_cases hb : e.1 = b
    · exact .inr (by rw [← hb, byteAt_setByte_same hw, he hb])
    · rw [byteAt_setByte_ne s e.2 (Ne.symm hb)]
      exact held.imp_left fun ⟨x, hx, hxb⟩ => ⟨x, (List.mem_cons.mp hx).resolve_left (fun h => hb (h ▸ hxb)), hxb⟩

end State

/-- What a write with byte enables `en` puts into byte `i` of its line. -/
def lineByte (en data i : Nat) : Option Byte := if bit en i then some (BitVec.ofNat 8 (data >>> (8 * i))) else none

theorem mem_lineItems {line en data : Nat} {e : Nat × Byte} :
    e ∈ lineItems line en data ↔ ∃ i < 64, lineByte en data i = some e.2 ∧ e.1 = line + i := by
  simp only [lineItems, lineByte, List.mem_filterMap, List.mem_range]
  refine exists_congr fun i => and_congr_right fun _ => ?_
  split <;> simp [Prod.ext_iff, eq_comm, and_comm]

namespace State

section
variable {s : State} (hw : Memory.wf s.mem = true) (a en data : Nat)
include hw

/-- A store of a line's enabled bytes, byte by byte. -/
theorem byteAt_storeLine {i : Nat} (hi : i < 64) :
    (s.storeItems (lineItems a en data)).byteAt (a + i) = (lineByte en data i).getD (s.byteAt (a + i)) := by
  refine byteAt_storeItems hw (fun e he hb => ?_) ?_
  · obtain ⟨j, -, hj, hj'⟩ := mem_lineItems.mp he
    rw [show i = j by omega, hj, Option.getD_some]
  · cases hv : lineByte en data i with
    | none => exact .inr rfl
    | some v => exact .inl ⟨(a + i, v), mem_lineItems.mpr ⟨i, hi, hv, rfl⟩, rfl⟩

theorem byteAt_storeLine_outside {b : Nat} (hb : b < a ∨ a + 64 ≤ b) :
    (s.storeItems (lineItems a en data)).byteAt b = s.byteAt b := by
  refine byteAt_storeItems hw (fun e he h => ?_) (.inr rfl)
  obtain ⟨j, hj, -, hj'⟩ := mem_lineItems.mp he
  omega

end

/-- The 16 beats of the DDR line at `line` decode cleanly. -/
def CleanLine (s : State) (line : Nat) : Prop := ∀ j < 16, s.markAt (line + 4 * j) = none

section
variable {s : State} {line : Nat} (hc : s.CleanLine line)
include hc

theorem ddrDecode_clean : s.ddrDecode line = (false, false, 0, 0) := by
  have none_marked : (List.range 16).filterMap (fun j => s.markAt (line + 4 * j)) = [] :=
    List.filterMap_eq_nil_iff.mpr fun j hj => hc j (List.mem_range.mp hj)
  simp [ddrDecode, none_marked]

theorem ddrReport_clean (l : MemLoc) : s.ddrReport l line = s := by
  simp [ddrReport, ddrDecode_clean hc]

end

end State

/-- Writing an unlisted key's default changes nothing. -/
theorem sput_default {α : Type} [DecidableEq α] {d : Nat → α} {m : Sparse α} {k : Nat} (h : swf d m = true)
    (hk : sget m k (d k) = d k) : sput m k (d k) (d k) = m := by
  induction m with
  | nil => simp [sput]
  | cons e m ih =>
    obtain ⟨k', v'⟩ := e
    obtain ⟨hv, -, hm⟩ := swf_cons.mp h
    by_cases hkk : k = k'
    · subst hkk
      exact absurd (by simpa [sget] using hk) hv
    · simp only [sget, if_neg hkk] at hk
      simp only [sput, if_true, if_neg hkk, ih hm hk, ite_self]

namespace State

theorem setMark_none_of_clean {s : State} (hw : Marks.wf s.marks = true) {w : Nat} (hm : s.markAt w = none) :
    s.setMark w none = s := by
  have same : sput s.marks w none none = s.marks := sput_default (d := fun _ => none) hw hm
  simp only [setMark, same]

theorem foldl_fixed_of_mem {α : Type} {f : State → α → State} {s : State} {l : List α} (h : ∀ x ∈ l, f s x = s) : l.foldl f s = s := by
  induction l with
  | nil => rfl
  | cons x l ih =>
    obtain ⟨hx, hl⟩ := List.forall_mem_cons.mp h
    rw [List.foldl_cons, hx, ih hl]

section
variable {s : State} (hw : Marks.wf s.marks = true) {line : Nat} (hc : s.CleanLine line)
include hw hc

/-- Clearing the marks of a clean line changes nothing. -/
theorem clearMarks_clean : upto 16 (fun j s => s.setMark (line + 4 * j) none) s = s :=
  foldl_fixed_of_mem fun j hj => setMark_none_of_clean hw (hc j (List.mem_range.mp hj))

/-- A write of a clean DDR line stores its bytes, whole or merged (R353). -/
theorem storeDdr_clean (l : MemLoc) (items : List (Nat × Byte)) : s.storeDdr l line items = s.storeItems items := by
  have hc' : (s.storeItems items).CleanLine line := fun j hj => by rw [markAt, storeItems_marks]; exact hc j hj
  have hw' : Marks.wf (s.storeItems items).marks = true := by rwa [storeItems_marks]
  have cleared := clearMarks_clean hw' hc'
  have reported := ddrReport_clean hc' l
  unfold storeItems at cleared reported ⊢
  simp only [storeDdr, ddrDecode_clean hc, reported, cleared, Bool.false_eq_true, if_false, ite_self]

theorem memStore_ddr (hd : DdrAddr s.ddrGiB line) (ha : line % 64 = 0) (en data : Nat) :
    s.memStore (lineItems line en data) = s.storeItems (lineItems line en data) := by
  have inLine : ∀ e ∈ lineItems line en data, ∃ i < 64, e.1 = line + i := fun e he => by
    obtain ⟨i, hi, -, hei⟩ := mem_lineItems.mp he
    exact ⟨i, hi, hei⟩
  cases hl : lineItems line en data with
  | nil => rfl
  | cons e items =>
    obtain ⟨i, hi, hei⟩ := inLine e (by rw [hl]; exact List.mem_cons_self)
    have start : e.1 / 64 * 64 = line := by omega
    simp only [memStore, hei ▸ hd.memLoc_add ha hi, hd.memLoc, if_true, start]
    exact storeDdr_clean hw hc _ _

end

/-! ### Requests to a clean line -/

theorem respond_ok {s : State} {src t : Nat} (h : s.sourceDead src t = false) (tag a : Nat) (d : List Byte) :
    s.respond src tag a stOk t d = (s.answered src tag a).emit (.response src tag stOk t d) := by
  unfold respond
  rw [if_neg (by simp [h])]

/-- A write of a target that is no slice, and that no transmit port holds, is answered. -/
theorem answerWrite_at_once {s0 s : State} (hs : s.sleep = s0.sleep) {t : Nat} (ht : 32 ≤ t) (src tag a : Nat) :
    answerWrite s0 s src tag a stOk t = s.respond src tag a stOk t [] := by
  have beyond : ¬(t < 32) := by omega
  simp only [answerWrite, heldTx, hs, beyond, false_and, and_false, if_false]
  cases s0.sleep with
  | none => rfl
  | some sl => simp only [Nat.lt_irrefl, and_false, if_false]

section
variable {s : State} {src tag a t : Nat} (hg : s.gate src tag a = (none, t, s)) (hd : DdrAddr s.ddrGiB a) (ha : a % 64 = 0)
  (hh : a < 0x800000000000) (hc : s.CleanLine a)
include hg hd ha hh hc

theorem lineRead_clean : s.lineRead src tag a 64 = (stOk, t, s.bytesAt a 64, s) := by
  obtain ⟨hl, -⟩ := id hd
  have below : ¬(0x800000000000 ≤ a) := by omega
  have start : a / 64 * 64 = a := by omega
  have notNv : ¬(nvBase ≤ a ∧ a < nvBase + 0x10000) := by unfold nvBase; omega
  have notGb : ¬(0x3100000 ≤ a ∧ a < 0x3140000) := by omega
  have loaded : s.memLoad a 64 = (true, s.bytesAt a 64, s) := by
    simp only [memLoad, hd.memLoc, if_true, start, ddrDecode_clean hc, ddrReport_clean hc, Bool.not_false]
  have read : s.targetRead a 64 = (stOk, s.bytesAt a 64, s) := by
    simp only [targetRead, if_neg below, if_neg notNv, if_neg notGb, hd.memLoc, loaded, if_true]
  have whole : (s.bytesAt a 64).take 64 = s.bytesAt a 64 := List.take_of_length_le (by simp [bytesAt])
  simp only [lineRead, hg, unitRefuses_ddr hd, if_neg below, start, read, ha, List.drop_zero, whole]

theorem tpRead_clean (hs : s.sourceDead src t = false) :
    s.tpRead src tag a = (s.answered src tag a).emit (.response src tag stOk t (s.bytesAt a 64)) := by
  have below : ¬(0x800000000000 ≤ a) := by omega
  simp only [tpRead, if_neg below, behindHeld_ddr hd, Bool.false_eq_true, if_false, lineRead_clean hg hd ha hh hc, respond_ok hs]

theorem lineWrite_clean (hw : Marks.wf s.marks = true) (k : WrKind) (en data : Nat) :
    s.lineWrite src tag a k en data = (stOk, t, s.storeItems (lineItems a en data)) := by
  have below : ¬(0x800000000000 ≤ a) := by omega
  simp only [lineWrite, hg, takeWrite, unitRefuses_ddr hd, if_neg below, hd.memLoc, memStore_ddr hw hc hd ha]
  rfl

theorem tpWrite_clean (hw : Marks.wf s.marks = true) (hs : s.sourceDead src t = false) (k : WrKind) (en data : Nat) :
    s.tpWrite src tag a k en data =
      ((s.storeItems (lineItems a en data)).answered src tag a).emit (.response src tag stOk t []) := by
  have target : 35 + ddrSub a / 2 = t := Option.some.inj (hd.islandAt.symm.trans (islandAt_of_gate hg))
  calc s.tpWrite src tag a k en data
      = answerWrite s (s.storeItems (lineItems a en data)) src tag a stOk t := by
        simp only [tpWrite, lineWrite_clean hg hd ha hh hc hw]
    _ = (s.storeItems (lineItems a en data)).respond src tag a stOk t [] :=
        answerWrite_at_once (storeItems_sleep s _) (by omega) src tag a
    _ = _ := respond_ok ((storeItems_sourceDead s _ src t).trans hs) tag a []

end

/-- From `s` to `u` a write of the line at `a` was served at island `t`: the bytes that `bytes` names are stored, OK is answered, and
nothing else changes but that the request is no longer outstanding. -/
def LineWritten (s : State) (src tag a t : Nat) (bytes : Nat → Option Byte) (u : State) : Prop :=
  u.out = .response src tag stOk t [] :: s.out ∧
    (∀ i < 64, u.byteAt (a + i) = (bytes i).getD (s.byteAt (a + i))) ∧
    (∀ b, b < a ∨ a + 64 ≤ b → u.byteAt b = s.byteAt b) ∧ (∀ w, u.markAt w = s.markAt w) ∧
    u = { s with out := u.out, mem := u.mem, marks := u.marks, outst := u.outst }

theorem lineWritten_of_store {s : State} (hw : Memory.wf s.mem = true) {a en data : Nat} {bytes : Nat → Option Byte}
    (hb : ∀ i < 64, lineByte en data i = bytes i) (src tag t : Nat) :
    LineWritten s src tag a t bytes
      (((s.storeItems (lineItems a en data)).answered src tag a).emit (.response src tag stOk t [])) := by
  obtain ⟨m, hm⟩ := storeItems_frame s (lineItems a en data)
  refine ⟨?_, fun i hi => ?_, fun b h => byteAt_storeLine_outside hw a en data h, ?_, ?_⟩
  · rw [hm]; rfl
  · rw [← hb i hi]; exact byteAt_storeLine hw a en data hi
  · rw [hm]; exact fun _ => rfl
  · rw [hm]; rfl

end State

/-! ### The bytes that a write's fields enable -/

theorem bit_eq_testBit (w i : Nat) : bit w i = w.testBit i := by
  simp [bit, Nat.testBit, Nat.one_and_eq_mod_two]

theorem lineByte_whole (data : Nat) {i : Nat} (hi : i < 64) :
    lineByte (2 ^ 64 - 1) data i = some (BitVec.ofNat 8 (data >>> (8 * i))) := by
  have enabled : bit (2 ^ 64 - 1) i = true := by rw [bit_eq_testBit, Nat.testBit_two_pow_sub_one, decide_eq_true hi]
  rw [lineByte, if_pos enabled]

theorem testBit_bits (w lo len i : Nat) : (bits w lo len).testBit i = (decide (i < len) && w.testBit (lo + i)) := by
  rw [bits, Nat.testBit_mod_two_pow, Nat.testBit_shiftRight]

/-- A field of `len` bits at place `h` of the like: its bits are those of that place. -/
theorem testBit_bits_mul (w lo h i : Nat) {len : Nat} (hl : 0 < len) :
    (bits w lo len * 2 ^ (len * h)).testBit i = (decide (i / len = h) && w.testBit (lo + i % len)) := by
  rw [Nat.testBit_mul_two_pow, testBit_bits]
  by_cases hh : i / len = h
  · have split := Nat.div_add_mod i len
    have low := Nat.mod_lt i hl
    rw [hh] at split
    have rest : i - len * h = i % len := by omega
    have from_ : i ≥ len * h := by omega
    rw [rest, decide_eq_true from_, decide_eq_true low, decide_eq_true hh, Bool.true_and]
  · have apart : ¬(i ≥ len * h ∧ i - len * h < len) := fun ⟨h1, h2⟩ =>
      hh (Nat.div_eq_of_lt_le (by rwa [Nat.mul_comm]) (by rw [Nat.mul_comm, Nat.mul_succ]; omega))
    rw [decide_eq_false hh, Bool.false_and, ← Bool.and_assoc, ← Bool.decide_and, decide_eq_false apart, Bool.false_and]

/-- The half line of a WRITE_PART, with its data in bits [255:0] and its enables in bits [287:256] (R63). -/
theorem lineByte_half (half : Bool) (data i : Nat) :
    lineByte (bits data 256 32 * 2 ^ (32 * b2n half)) (bits data 0 256 * 2 ^ (256 * b2n half)) i =
      if i / 32 = b2n half ∧ bit data (256 + i % 32) = true then some (BitVec.ofNat 8 (data >>> (8 * (i % 32)))) else none := by
  have enabled : bit (bits data 256 32 * 2 ^ (32 * b2n half)) i = true ↔ i / 32 = b2n half ∧ bit data (256 + i % 32) = true := by
    rw [bit_eq_testBit, testBit_bits_mul _ _ _ _ (by decide), Bool.and_eq_true, decide_eq_true_eq, bit_eq_testBit]
  rw [lineByte]
  by_cases he : i / 32 = b2n half ∧ bit data (256 + i % 32) = true
  · rw [if_pos (enabled.mpr he), if_pos he]
    refine congrArg some (BitVec.eq_of_getLsbD_eq fun k hk => ?_)
    have place : (8 * i + k) / 256 = b2n half := by omega
    have bitAt : 0 + (8 * i + k) % 256 = 8 * (i % 32) + k := by omega
    rw [BitVec.getLsbD_ofNat, BitVec.getLsbD_ofNat, Nat.testBit_shiftRight, Nat.testBit_shiftRight,
      testBit_bits_mul _ _ _ _ (by decide), decide_eq_true place, bitAt, Bool.true_and]
  · rw [if_neg (fun h => he (enabled.mp h)), if_neg he]

theorem exec_tpRead_clear (src : SrcId) (tag : BitVec 8) (line : BitVec 42) (s : State) :
    exec (.tpRead src tag line []) s = .next (s.tpRead src tag.toNat (line.toNat * 64)) := rfl

theorem exec_tpWrite (src : SrcId) (tag : BitVec 8) (line : BitVec 42) (data : Line) (s : State) :
    exec (.tpWrite src tag line data) s =
      .next (s.tpWrite src tag.toNat (line.toNat * 64) .whole (2 ^ 64 - 1) data.toNat) := rfl

theorem exec_tpWritePart (src : SrcId) (tag : BitVec 8) (line : BitVec 42) (half : Bool) (data : Line) (s : State) :
    exec (.tpWritePart src tag line half data) s =
      .next (s.tpWrite src tag.toNat (line.toNat * 64) .part (bits data.toNat 256 32 * 2 ^ (32 * b2n half))
        (bits data.toNat 0 256 * 2 ^ (256 * b2n half))) := rfl

/-- A burst of one flit is a WRITE (R64). -/
theorem exec_tpBurst_single (src : SrcId) (tag : BitVec 8) (line : BitVec 42) {f : BurstFlit} (s : State) (h0 : f.idx.val = 0)
    (hl : f.last = true) : exec (.tpBurst src tag line [f]) s = exec (.tpWrite src tag line f.data) s := by
  refine congrArg Host.Outcome.next (if_pos ?_)
  simp [h0, hl]

open State in
/-- Settles O5: a write of a clean line stores the bytes it enables, whole, by halves or as a burst of one, and a read returns the
line. -/
theorem memoryRequestsReadAndWriteLines : Obligations.MemoryRequestsReadAndWriteLines := by
  intro s src tag line data l t a inv hg hs hm hk hh hc done
  have hd := ddrAddr_of_memLoc hm hk
  have ha : a % 64 = 0 := Nat.mul_mod_left line.toNat 64
  have written (k : WrKind) (en d : Nat) {bytes : Nat → Option Byte} (hb : ∀ i < 64, lineByte en d i = bytes i) :
      LineWritten s src tag.toNat a t bytes (s.tpWrite src tag.toNat a k en d) := by
    rw [tpWrite_clean hg hd ha hh hc inv.marks hs]
    exact lineWritten_of_store inv.mem hb _ _ _
  have whole (d : Line) : done (.tpWrite src tag line d) fun i => some (BitVec.ofNat 8 (d.toNat >>> (8 * i))) :=
    ⟨_, exec_tpWrite src tag line d s, written _ _ _ fun i hi => lineByte_whole d.toNat hi⟩
  refine ⟨?_, whole data, fun half => ?_, fun f h0 hl => ?_⟩
  · rw [exec_tpRead_clear, tpRead_clean hg hd ha hh hc hs]
  · exact ⟨_, exec_tpWritePart src tag line half data s, written _ _ _ fun i _ => lineByte_half half data.toNat i⟩
  · obtain ⟨u, hu, hw⟩ := whole f.data
    exact ⟨u, (exec_tpBurst_single src tag line s h0 hl).trans hu, hw⟩

end Sys2Proof.Machine
end

section
/-! Reading a core after writing it, where a core with a bundle in flight is no core at reset. -/

namespace Sys2Proof.Machine

/-- A value that is no default reads back from any map, canonical or not. -/
theorem sget_sput_of_ne {α : Type} [DecidableEq α] {m : Sparse α} {k : Nat} {v d e : α} (h : v ≠ d) : sget (sput m k v d) k e = v := by
  induction m with
  | nil => simp [sput, h, sget]
  | cons a m ih =>
    obtain ⟨k', v'⟩ := a
    simp only [sput, if_neg h]
    split_ifs with hlt heq
    · simp [sget]
    · simp [sget]
    · simp [sget, heq, ih]

namespace State

theorem core_setCore_of_flight (s : State) (n : Nat) {c : Core} (h : c.flight ≠ []) : (s.setCore n c).core n = c :=
  sget_sput_of_ne fun hc => h (hc ▸ rfl)

theorem core_setYoungest (s : State) (n : Nat) (b : Bundle) :
    (s.setYoungest n b).core n = { s.core n with flight := (s.core n).flight.dropLast ++ [b] } :=
  core_setCore_of_flight s n (by simp)

theorem youngest_slotDone (u : State) (n : Nat) (b : Bundle) (regs : List Nat) (r : Arch) (sets : Word) :
    (u.slotDone n b regs r sets).youngest n = some { b with wrote := b.wrote ++ regs, raised := b.raised ||| sets } := by
  rw [slotDone, setArch, core_setYoungest, youngest, core_setCore_of_flight _ _ (by simp)]
  simp

end State

end Sys2Proof.Machine
end

section
/-! Core registers that no write leaves: an entry of C0 behind that of a later register. A write of 0 to C0 leaves it (`sput` finds
a key by the rising order of a canonical map), so that C0 does not read 0 where the flags of an operation are found
(`State.runSlot`). -/

namespace Sys2Proof.Machine

/-- The C registers are not in canonical form: C0 stands behind C1. -/
def strayArch : Arch := { Arch.reset with c := [(1, 0#32), (0, 4#32)] }

/-- A bundle open at PC 0, in which nothing has been done. -/
def strayBundle : Bundle := ⟨0, Arch.reset, [], [], [], [], none, false, none, 0, 0#32, []⟩

/-- Core 0 runs, with that bundle in flight and those registers. -/
def strayState : State :=
  { State.reset with cores := [(0, { Core.reset with run := .running, arch := strayArch, flight := [strayBundle] })] }

/-- The invariant does not exclude them: it speaks of no core's registers. -/
theorem strayState_inv : strayState.Inv := ⟨rfl, rfl, rfl, by decide, by decide, by decide⟩

theorem getC_setC_strayArch : (strayArch.setC 0 0).getC 0 = 4#32 := by decide

theorem strayState_issues (regs : List Nat) : strayState.Issues 0 false regs strayState strayBundle :=
  ⟨by decide, rfl, rfl, rfl, rfl⟩

/-- An operation that leaves C0 as it is finds the stray bits among the flags that it has set. -/
theorem issue_strayState_ne {op : SlotOp} (legal : op.legal = true) (other : op.writes.contains (rC 0) = false)
    (keeps : ∀ c r, (op.run c r).getC 0 = r.getC 0) (regs : List Nat) (r : Arch) :
    strayState.issue 0 false op ≠ strayState.slotDone 0 strayBundle regs r := by
  obtain ⟨c, -, -, -, -, -, -, -, -, left⟩ := issue_eq (strayState_issues _) legal (List.any_eq_false.mpr fun _ _ => by simp [strayBundle])
  intro h
  rw [left, other, if_neg Bool.false_ne_true, keeps, show (strayState.core 0).arch = strayArch from rfl, getC_setC_strayArch] at h
  have raised := congrArg (fun t => (t.youngest 0).map Bundle.raised) h
  simp only [State.youngest_slotDone, Option.map_some, Option.some.injEq] at raised
  exact absurd raised (by decide)

/-- Refutes O7: in `strayState`, VNOP leaves flags in its bundle. -/
theorem not_vectorLanesComputeAndSaturate : ¬ Obligations.VectorLanesComputeAndSaturate := by
  intro h
  obtain ⟨vnop, -⟩ := h strayState strayState 0 false 0 0 0 0 strayBundle rfl
  exact issue_strayState_ne (op := opNop _) rfl rfl (fun _ _ => rfl) _ _
    (Host.Outcome.next.inj (vnop (strayState_issues _) rfl rfl rfl rfl))

/-- Refutes O8: in `strayState`, VCLRA leaves flags in its bundle. -/
theorem not_accumulatorsAndSearchesCompute : ¬ Obligations.AccumulatorsAndSearchesCompute := by
  intro h
  obtain ⟨-, vclra, -⟩ := h strayState strayState 0 false 0 0 0 0 strayBundle
  exact issue_strayState_ne (op := vClra 0 0 0 0) rfl rfl (fun _ _ => rfl) _ _
    (Host.Outcome.next.inj (vclra (strayState_issues _) (by decide) rfl rfl rfl rfl))

/-- Refutes O9: in `strayState`, SNOP leaves flags in its bundle. -/
theorem not_scalarAndImmediateOperationsCompute : ¬ Obligations.ScalarAndImmediateOperationsCompute := by
  intro h
  obtain ⟨snop, -⟩ := h strayState strayState 0 false 0 0 0 0 strayBundle
  exact issue_strayState_ne (op := opNop _) rfl rfl (fun _ _ => rfl) _ _
    (Host.Outcome.next.inj (snop (strayState_issues _) rfl rfl rfl))

/-- Refutes O10: in `strayState`, BEQZ leaves flags in its bundle. -/
theorem not_branchesAndRepeatsSteerPC : ¬ Obligations.BranchesAndRepeatsSteerPC := by
  intro h
  obtain ⟨branches, -⟩ := h strayState strayState 0 false 0 0 0 strayBundle
  obtain ⟨beqz, -⟩ := branches (strayState_issues _)
  refine issue_strayState_ne (op := sBranch 0 0 fun x => x = 0) rfl rfl (fun c r => ?_) _ _ (Host.Outcome.next.inj beqz)
  dsimp only [sBranch]
  split <;> rfl

/-- Refutes O13: in `strayState`, RETE leaves flags in its bundle. -/
theorem not_trapsReturnsAndTaskEnds : ¬ Obligations.TrapsReturnsAndTaskEnds := by
  intro h
  obtain ⟨-, rete, -⟩ := h strayState strayState 0 false strayBundle
  exact issue_strayState_ne (op := State.reteOp true []) rfl rfl (fun _ _ => sget_sput_ne (by decide)) _ _
    (Host.Outcome.next.inj (rete (strayState_issues _) rfl))

end Sys2Proof.Machine
end

section
/-! What a read of a core's own memories changes (R121, R129, R354): error reports and the crossing that presents them. -/

namespace Sys2Proof.Machine

/-- From `a` to `b` nothing but error reports, the crossing that presents them to the hub and free values has changed. -/
def Reports (a b : State) : Prop := b = { a with eccq := b.eccq, xings := b.xings, free := b.free }

namespace Reports

variable {a b c s : State}

theorem refl (s : State) : Reports s s := rfl

theorem trans (h : Reports a b) (g : Reports b c) : Reports a c := by
  rw [Reports] at h g ⊢
  rw [g, h]

theorem cores (h : Reports a b) : b.cores = a.cores := by rw [h]

theorem core (h : Reports a b) (n : Nat) : b.core n = a.core n := by rw [State.core, h.cores, State.core]

theorem youngest (h : Reports a b) (n : Nat) : b.youngest n = a.youngest n := by rw [State.youngest, h.core, State.youngest]

theorem foldl {α : Type} {f : State → α → State} (hf : ∀ t x, Reports t (f t x)) (l : List α) (s : State) : Reports s (l.foldl f s) :=
  List.foldlRecOn (motive := Reports s) l f (refl s) fun t ht x _ => ht.trans (hf t x)

theorem foldl_snd {α β : Type} {f : β × State → α → β × State} {l : List α} (hf : ∀ t, ∀ x ∈ l, Reports t.2 (f t x).2)
    (r : β × State) : Reports r.2 (l.foldl f r).2 :=
  List.foldlRecOn (motive := fun t => Reports r.2 t.2) l f (refl r.2) fun t ht x hx => ht.trans (hf t x hx)

theorem draw (s : State) (w : Nat) : Reports s (s.draw w).2 := rfl

theorem eccLaunch (s : State) (i : Nat) : Reports s (s.eccLaunch i) := by
  unfold State.eccLaunch
  dsimp only
  split
  · exact refl s
  · split
    · exact refl s
    · rfl

theorem report (s : State) (i : Nat) (r : EccReport) : Reports s (s.report i r) := by
  unfold State.report
  dsimp only
  split
  · exact trans (b := s.setEccq i _) rfl (eccLaunch _ i)
  · split <;> rfl

theorem reportWord (s : State) (l : MemLoc) (w : Nat) (m : Mark) : Reports s (s.reportWord l w m) := by
  cases m <;> exact report s _ _

theorem crReport (s : State) (k u ctx n w : Nat) (m : Mark) : Reports s (s.crReport k u ctx n w m) :=
  (draw s 48).trans (reportWord _ _ _ m)

theorem crDecode (s : State) (k u ctx n : Nat) : Reports s (s.crDecode k u ctx n).2 := by
  refine foldl_snd (r := (true, s)) fun t w _ => ?_
  split
  · exact refl t.2
  · exact crReport t.2 _ _ _ _ _ _

end Reports

/-! ### The memories of a core -/

theorem memLoc_imem (gib : Nat) {n pc : Nat} (hn : n < 192) (hp : pc < 2 ^ 13) :
    memLoc gib (imemBase n + 8 * pc) = some ⟨0, n / 8, 4 + n / 48, 8⟩ := by
  unfold memLoc imemBase
  have core : (0x100000000 + 0x100000 * n + 8 * pc - 0x100000000) / 0x100000 = n := by omega
  rw [if_pos (by omega)]
  dsimp only
  rw [if_pos (by omega), core]

theorem inOwnDmem_iff {n a : Nat} : inOwnDmem n a = true ↔ 0x100040000 + 0x100000 * n ≤ a ∧ a < 0x100080000 + 0x100000 * n := by
  rw [inOwnDmem, Bool.and_eq_true, decide_eq_true_eq, decide_eq_true_eq, dmemBase]
  omega

theorem memLoc_dmem (gib : Nat) {n a : Nat} (hn : n < 192) (ha : inOwnDmem n a = true) :
    memLoc gib a = some ⟨1, n / 8, 4 + n / 48, 2⟩ := by
  have range := inOwnDmem_iff.mp ha
  have core : (a - 0x100000000) / 0x100000 = n := by omega
  unfold memLoc
  rw [if_pos (by omega)]
  dsimp only
  rw [if_neg (by omega), if_pos (by omega), core]

theorem inOwnDmem_even {n a : Nat} (ha : inOwnDmem n a = true) : inOwnDmem n (a / 2 * 2) = true := by
  rw [inOwnDmem_iff] at ha ⊢
  omega

namespace State

/-- A memory without merge buffers has nothing to write before a read (R352). -/
theorem flushWord_of_mergeKey {l : MemLoc} {w : Nat} (h : mergeKey l w = none) (s : State) : s.flushWord l w = s := by
  rw [flushWord, h]

theorem memLoad_reports {s : State} {a : Nat} {l : MemLoc} (h : memLoc s.ddrGiB a = some l) (hk : l.kind = 0 ∨ l.kind = 1) (k : Nat) :
    Reports s (s.memLoad a k).2.2 := by
  have unbuffered : ∀ w, mergeKey l w = none := fun w => by rcases hk with hk | hk <;> simp [mergeKey, hk]
  have ddr : l.kind ≠ 8 := by omega
  simp only [memLoad, h, if_neg ddr]
  refine Reports.trans (Reports.foldl (fun t w => ?_) _ s) (Reports.foldl (fun t w => ?_) _ _)
  · rw [flushWord_of_mergeKey (unbuffered w)]; exact .refl t
  · split
    · exact .reportWord t l w _
    · exact .refl t

theorem fetchBundle_reports (s : State) {n pc : Nat} (hn : n < 192) (hp : pc < 2 ^ 13) : Reports s (s.fetchBundle n pc).2.2 :=
  memLoad_reports (memLoc_imem _ hn hp) (.inl rfl) 8

/-- The words that a load of own data memory reads, stores that have not landed aside. -/
def loadWords (s : State) (n : Nat) (addrs : List Nat) : List Nat :=
  (addrs.map fun a => a / 2 * 2).eraseDups.filter fun w => !((s.pendingByte n w).isSome && (s.pendingByte n (w + 1)).isSome)

theorem mem_loadWords {s : State} {n w : Nat} {addrs : List Nat} (h : w ∈ s.loadWords n addrs) : ∃ a ∈ addrs, a / 2 * 2 = w :=
  List.mem_map.mp (List.mem_eraseDups.mp (List.mem_filter.mp h).1)

theorem ownLoad_reports (s : State) {n : Nat} {addrs : List Nat} (hn : n < 192) (own : ∀ a ∈ addrs, inOwnDmem n a = true) :
    Reports s (s.ownLoad n addrs).2.2 := by
  refine Reports.foldl_snd (r := (true, s)) fun t w hw => ?_
  obtain ⟨a, ha, rfl⟩ := mem_loadWords hw
  exact memLoad_reports (memLoc_dmem _ hn (inOwnDmem_even (own a ha))) (.inr rfl) 2

/-- A halfword of data memory without a mark decodes, and nothing is reported. -/
theorem memLoad_clean_dmem {s : State} {n a : Nat} (hn : n < 192) (ha : inOwnDmem n a = true) (hm : s.markAt (a / 2 * 2) = none) :
    s.memLoad (a / 2 * 2) 2 = (true, s.bytesAt (a / 2 * 2) 2, s) := by
  have one : (a / 2 * 2 + 2 - 1) / 2 - a / 2 * 2 / 2 + 1 = 1 := by omega
  simp only [memLoad, memLoc_dmem s.ddrGiB hn (inOwnDmem_even ha), one]
  simp [flushWord, mergeKey, hm]

theorem ownLoad_clean {s : State} {n : Nat} {addrs : List Nat} (hn : n < 192) (own : ∀ a ∈ addrs, inOwnDmem n a = true)
    (clean : ∀ a ∈ addrs, s.markAt (a / 2 * 2) = none) :
    s.ownLoad n addrs = (true, addrs.map fun a => (s.pendingByte n a).getD (s.byteAt a), s) := by
  have quiet : (s.loadWords n addrs).foldl (fun (r : Bool × State) w => (r.1 && (r.2.memLoad w 2).1, (r.2.memLoad w 2).2.2)) (true, s) =
      (true, s) :=
    List.foldlRecOn (motive := fun t => t = (true, s)) _ _ rfl fun t ht w hw => by
      obtain ⟨a, ha, rfl⟩ := mem_loadWords hw
      rw [ht, memLoad_clean_dmem hn (own a ha) (clean a ha), Bool.true_and]
  exact congrArg (fun t => (t.1, _, t.2)) quiet

end State

end Sys2Proof.Machine
end

section
/-! Reads of memory leave the cores as they are, and so the bundle that an operation opens or joins is known (R93). -/

namespace Sys2Proof.Machine.State

theorem foldl_cores {α : Type} {f : State → α → State} (hf : ∀ t x, (f t x).cores = t.cores) (l : List α) (s : State) :
    (l.foldl f s).cores = s.cores :=
  List.foldlRecOn (motive := fun t => t.cores = s.cores) l f rfl fun t ht x _ => (hf t x).trans ht

theorem reportWord_cores (s : State) (l : MemLoc) (w : Nat) (m : Mark) : (s.reportWord l w m).cores = s.cores :=
  (Reports.reportWord s l w m).cores

theorem mergeWord_cores (s : State) (l : MemLoc) (w : Nat) (items : List (Nat × Byte)) : (s.mergeWord l w items).cores = s.cores := by
  have stored : (items.foldl (fun s e => s.setByte e.1 e.2) s).cores = s.cores := foldl_cores (fun t e => setByte_cores t _ _) _ s
  unfold mergeWord
  split
  · exact stored
  · exact (reportWord_cores _ l w _).trans stored
  · exact (reportWord_cores _ l w _).trans stored

theorem flushEnt_cores (s : State) (l : MemLoc) (k : Nat) (e : MergeEnt) : (s.flushEnt l k e).cores = s.cores := by
  unfold flushEnt
  dsimp only
  split
  · exact foldl_cores (fun t e => setByte_cores t _ _) _ _
  · exact mergeWord_cores _ l _ _

theorem flushWord_cores (s : State) (l : MemLoc) (w : Nat) : (s.flushWord l w).cores = s.cores := by
  unfold flushWord
  split
  · rfl
  · split
    · rfl
    · exact flushEnt_cores s l _ _

theorem ddrReport_cores (s : State) (l : MemLoc) (line : Nat) : (s.ddrReport l line).cores = s.cores := by
  unfold ddrReport
  dsimp only
  split_ifs
  · exact (Reports.report s _ _).cores
  · rfl
  · exact (Reports.report s _ _).cores

theorem memLoad_cores (s : State) (a k : Nat) : (s.memLoad a k).2.2.cores = s.cores := by
  unfold memLoad
  split
  · rfl
  next l _ =>
    split
    · exact ddrReport_cores s l _
    · refine (foldl_cores (fun t w => ?_) _ _).trans (foldl_cores (fun t w => flushWord_cores t l w) _ s)
      split
      · exact reportWord_cores t l w _
      · rfl

/-- The bundle that core `n` opens at its PC, with the exception that its fetch found. -/
def opened (c : Core) (e : Option Exc) : Bundle := ⟨c.arch.pc, c.arch, [], [], [], [], none, false, e, c.serial, 0, []⟩

theorem fetchBundle_core (s : State) (n pc m : Nat) : (s.fetchBundle n pc).2.2.core m = s.core m :=
  congrArg (fun cs => sget cs m Core.reset) (memLoad_cores s _ 8)

/-- A core in which that bundle has been opened. -/
def opening (c : Core) (e : Option Exc) : Core :=
  { c with arch := { c.arch with pc := (c.arch.pc + 1) % 2 ^ 13 }, flight := c.flight ++ [opened c e], serial := c.serial + 1 }

theorem openBundle_eq (s : State) (n : Nat) :
    let f := (s.cyclesPass (n / 8)).fetchBundle n (s.core n).arch.pc
    s.openBundle n = f.2.2.setCore n (opening (s.core n) (fetchExc f.1 f.2.1)) := by
  have same : ((s.cyclesPass (n / 8)).fetchBundle n (s.core n).arch.pc).2.2.core n = s.core n := fetchBundle_core _ n _ n
  simp only [openBundle, same]
  rfl

theorem core_openBundle (s : State) (n : Nat) : ∃ e, (s.openBundle n).core n = opening (s.core n) e :=
  ⟨_, (congrArg (State.core · n) (openBundle_eq s n)).trans (core_setCore_of_flight _ _ (by simp [opening]))⟩

theorem youngest_openBundle (s : State) (n : Nat) : ∃ e, (s.openBundle n).youngest n = some (opened (s.core n) e) := by
  obtain ⟨e, he⟩ := core_openBundle s n
  exact ⟨e, by rw [youngest, he, opening, List.getLast?_concat]⟩

/-- An operation that issues reads the registers before its bundle, joined or opened. -/
theorem Issues.srcArch {s u : State} {n : Nat} {nb : Bool} {regs : List Nat} {b : Bundle} (h : s.Issues n nb regs u b) :
    s.srcArch n nb = b.before := by
  have joined := h.opened
  have bundle := h.bundle
  unfold ready at joined
  split_ifs at joined with opens
  · obtain ⟨e, he⟩ := youngest_openBundle s n
    rw [← joined, he] at bundle
    cases bundle
    cases nb
    · have empty : (s.core n).flight = [] := by simpa using opens
      simp [State.srcArch, youngest, empty, State.opened]
    · rfl
  · subst joined
    obtain ⟨old, -⟩ := Bool.or_eq_false_iff.mp (Bool.not_eq_true _ ▸ opens)
    rw [State.srcArch, old, bundle]
    rfl

theorem fault_eq {s : State} {n : Nat} {b : Bundle} (hb : s.youngest n = some b) (fine : b.exc = none) (e : Exc) :
    s.fault n e = s.bundleFaulted n b e := by
  simp only [fault, hb, fine, Option.isSome_none, Bool.false_eq_true, if_false]
  rfl

end Sys2Proof.Machine.State
end

section
/-! Loads and stores (R98, R102 to R107, R121, R123 to R126, R129): what each leaves, its operation issuing. -/

namespace Sys2Proof.Machine

/-- The loads: `mop` puts its bytes, in the form `form`, into register number `g`, which MR names (R98). -/
def IsLoad (mop mr form g : Nat) : Prop :=
  (mop = 1 ∧ form = 0 ∧ g = rV mr) ∨ (mop = 3 ∧ form = 1 ∧ g = rV mr) ∨ (mop = 4 ∧ form = 2 ∧ g = rS mr) ∨
    (mop = 5 ∧ form = 3 ∧ g = rS mr)

/-- The stores: `mop` stores the bytes `bs` of register number `g`, which MR names (R98). -/
def IsStore (r : Arch) (mop mr g : Nat) (bs : List Byte) : Prop :=
  (mop = 2 ∧ g = rV mr ∧ bs = leBytes 64 (r.getV mr).toNat) ∨ (mop = 6 ∧ g = rS mr ∧ bs = leBytes 2 (r.getS mr).toNat) ∨
    (mop = 7 ∧ g = rS mr ∧ bs = leBytes 4 (r.getS mr).toNat) ∨ (mop = 8 ∧ g = rS mr ∧ bs = leBytes 1 (r.getS mr).toNat)

theorem length_leBytes (n v : Nat) : (leBytes n v).length = n := by
  induction n generalizing v with
  | zero => rfl
  | succ n ih => rw [leBytes, List.length_cons, ih]

namespace State

/-- The registers that form the address of an access, and the one that its post-modification writes (R102, R103). -/
def addrUses (ma mo : Nat) (pm : Bool) : List Nat := [rA ma, rL ma, rB ma] ++ if pm then [rO mo] else []
def postUses (ma : Nat) (pm : Bool) : List Nat := if pm then [rA ma] else []

section
variable {s u : State} {n mop mr ma mo form g : Nat} {nb pm : Bool} {b : Bundle} {bs : List Byte}

theorem mUses_load (h : IsLoad mop mr form g) : mUses mop mr ma mo pm = (addrUses ma mo pm, g :: postUses ma pm) := by
  rcases h with ⟨rfl, -, hg⟩ | ⟨rfl, -, hg⟩ | ⟨rfl, -, hg⟩ | ⟨rfl, -, hg⟩ <;> rw [hg] <;> rfl

theorem mUses_store (h : IsStore b.before mop mr g bs) : mUses mop mr ma mo pm = (g :: addrUses ma mo pm, postUses ma pm) := by
  rcases h with ⟨rfl, hg, -⟩ | ⟨rfl, hg, -⟩ | ⟨rfl, hg, -⟩ | ⟨rfl, hg, -⟩ <;> rw [hg] <;> rfl

theorem length_of_isStore {r : Arch} (h : IsStore r mop mr g bs) : bs.length = mBytes mop := by
  rcases h with ⟨rfl, -, rfl⟩ | ⟨rfl, -, rfl⟩ | ⟨rfl, -, rfl⟩ | ⟨rfl, -, rfl⟩ <;> exact length_leBytes _ _

theorem isRemoteAccess_own {regs : List Nat} (h : s.Issues n nb regs u b)
    (own : ∀ a ∈ accessBytes b.before n ma (mBytes mop), inOwnDmem n a = true) : s.isRemoteAccess n nb mop ma = false := by
  rw [isRemoteAccess, h.srcArch, List.all_eq_true.mpr own, Bool.not_true]

/-- An operation of the M slot that issues and clashes with no other slot runs in its bundle; a remote access needs room (R125). -/
theorem issueMem_eq (h : s.Issues n nb ((mUses mop mr ma mo pm).1 ++ (mUses mop mr ma mo pm).2) u b)
    (room : (∀ a ∈ accessBytes b.before n ma (mBytes mop), inOwnDmem n a = true) ∨
      ¬((mop = 1 ∨ mop = 3 ∨ mop = 4 ∨ mop = 5) ∧ 8 ≤ (s.core n).rloads.length ∨
        (mop = 2 ∨ mop = 6 ∨ mop = 7 ∨ mop = 8) ∧ 8 ≤ s.storesOut n))
    (legal : memLegal mop mr ma mo pm 0 = true) (hc : clash b (mUses mop mr ma mo pm).2 = false) :
    s.issueMem n nb mop mr ma mo pm 0 = if mop = 0 ∨ mop = 9 then u else u.access n mop mr ma mo pm := by
  have goes : ¬(((mop = 1 ∨ mop = 3 ∨ mop = 4 ∨ mop = 5) ∧ 8 ≤ (s.core n).rloads.length ∨
      (mop = 2 ∨ mop = 6 ∨ mop = 7 ∨ mop = 8) ∧ 8 ≤ s.storesOut n) ∧ s.isRemoteAccess n nb mop ma = true) :=
    fun ⟨full, remote⟩ => room.elim (fun own => by simp [isRemoteAccess_own h own] at remote) (absurd full)
  simp only [issueMem, h.can, h.free, Bool.not_true, Bool.or_self, Bool.false_eq_true, if_false, goes, h.opened, runMem, h.bundle,
    h.fine, Option.isSome_none, legal, hc]

theorem issueMem_load (hl : IsLoad mop mr form g) (h : s.Issues n nb (addrUses ma mo pm ++ g :: postUses ma pm) u b)
    (room : (∀ a ∈ accessBytes b.before n ma (mBytes mop), inOwnDmem n a = true) ∨ (s.core n).rloads.length < 8)
    (hc : clash b (g :: postUses ma pm) = false) : s.issueMem n nb mop mr ma mo pm 0 = u.access n mop mr ma mo pm := by
  have uses := mUses_load (ma := ma) (mo := mo) (pm := pm) hl
  have op : mop = 1 ∨ mop = 3 ∨ mop = 4 ∨ mop = 5 := by
    rcases hl with ⟨h, -⟩ | ⟨h, -⟩ | ⟨h, -⟩ | ⟨h, -⟩ <;> omega
  have legal : memLegal mop mr ma mo pm 0 = true := by rcases op with rfl | rfl | rfl | rfl <;> rfl
  rw [issueMem_eq (by rw [uses]; exact h) (room.imp_right fun short => by omega) legal (by rw [uses]; exact hc), if_neg (by omega)]

theorem issueMem_store (hs : IsStore b.before mop mr g bs) (h : s.Issues n nb (g :: addrUses ma mo pm ++ postUses ma pm) u b)
    (room : (∀ a ∈ accessBytes b.before n ma bs.length, inOwnDmem n a = true) ∨ s.storesOut n < 8)
    (hc : clash b (postUses ma pm) = false) : s.issueMem n nb mop mr ma mo pm 0 = u.access n mop mr ma mo pm := by
  have uses := mUses_store (ma := ma) (mo := mo) (pm := pm) hs
  have op : mop = 2 ∨ mop = 6 ∨ mop = 7 ∨ mop = 8 := by
    rcases hs with ⟨h, -⟩ | ⟨h, -⟩ | ⟨h, -⟩ | ⟨h, -⟩ <;> omega
  have legal : memLegal mop mr ma mo pm 0 = true := by rcases op with rfl | rfl | rfl | rfl <;> rfl
  rw [length_of_isStore hs] at room
  rw [issueMem_eq (by rw [uses]; exact h) (room.imp_right fun short => by omega) legal (by rw [uses]; exact hc), if_neg (by omega)]

/-- FENCE that issues, every access answered, only opens its bundle (R98). -/
theorem issueFence_eq (h : s.Issues n nb [] u b) (answered : s.allAnswered n = true) : s.issueFence n nb 0 0 0 false 0 = u := by
  simp only [issueFence, h.can, answered, Bool.and_self, if_true, h.opened, runMem, h.bundle, h.fine, Option.isSome_none,
    Bool.false_eq_true, if_false]
  rfl

/-- A load of own data memory takes its bytes at once (R121). -/
theorem access_own_load (hl : IsLoad mop mr form g) (hb : u.youngest n = some b)
    (own : ∀ a ∈ accessBytes b.before n ma (mBytes mop), inOwnDmem n a = true)
    (aligned : (accessBytes b.before n ma (mBytes mop)).headD 0 % 2 = 0) :
    u.access n mop mr ma mo pm =
      let addrs := accessBytes b.before n ma (mBytes mop)
      let l := u.ownLoad n addrs
      if l.1 = true then
        ((l.2.2.setYoungest n { b with wrote := b.wrote ++ g :: postUses ma pm }).setArch n
          (landLoad (l.2.2.core n).arch form g l.2.1)).postMoved n ma mo pm b.before
      else l.2.2.fault n ⟨4, 0, addrs.headD 0⟩ := by
  simp only [access, hb, List.all_eq_true.mpr own, mUses_load hl]
  generalize accessBytes b.before n ma (mBytes mop) = addrs at aligned ⊢
  obtain ⟨ok, bytes, v⟩ := u.ownLoad n addrs
  rcases hl with ⟨rfl, rfl, hg⟩ | ⟨rfl, rfl, hg⟩ | ⟨rfl, rfl, hg⟩ | ⟨rfl, rfl, hg⟩ <;> cases ok <;>
    simp [aligned, hg, postMoved, -List.headD_eq_head?_getD]

/-- A load that is not of own data memory waits for its responses, with the bytes of own stores kept (R124, R126). -/
theorem access_remote_load (hl : IsLoad mop mr form g) (hb : u.youngest n = some b)
    (remote : ¬∀ a ∈ accessBytes b.before n ma (mBytes mop), inOwnDmem n a = true)
    (aligned : (accessBytes b.before n ma (mBytes mop)).headD 0 % 2 = 0) (once : b.iter = none) :
    u.access n mop mr ma mo pm =
      let addrs := accessBytes b.before n ma (mBytes mop)
      let v := u.setYoungest n { b with wrote := b.wrote ++ g :: postUses ma pm }
      (v.setCore n { v.core n with rloads := (v.core n).rloads ++ [⟨form, g, addrs,
        addrs.filterMap fun a => (u.pendingByte n a).map fun x => (a, x), b.serial, false, [], []⟩] }).postMoved n ma mo pm b.before := by
  simp only [access, hb, Bool.eq_false_iff.mpr (mt List.all_eq_true.mp remote), mUses_load hl]
  generalize accessBytes b.before n ma (mBytes mop) = addrs at aligned ⊢
  rcases hl with ⟨rfl, rfl, hg⟩ | ⟨rfl, rfl, hg⟩ | ⟨rfl, rfl, hg⟩ | ⟨rfl, rfl, hg⟩ <;>
    simp [aligned, hg, once, postMoved, -List.headD_eq_head?_getD]

/-- A store waits in its bundle, among those to own data memory or among the remote ones (R123, R124). -/
theorem access_store (hs : IsStore b.before mop mr g bs) (hb : u.youngest n = some b)
    (aligned : bs.length ≠ 1 → (accessBytes b.before n ma bs.length).headD 0 % 2 = 0)
    (once : (∀ a ∈ accessBytes b.before n ma bs.length, inOwnDmem n a = true) ∨ b.iter = none) :
    u.access n mop mr ma mo pm =
      let items := (accessBytes b.before n ma bs.length).zip bs
      let own := (accessBytes b.before n ma bs.length).all fun a => inOwnDmem n a
      (u.setYoungest n { b with wrote := b.wrote ++ postUses ma pm, stores := if own then items else [],
                                rstores := if own then [] else items }).postMoved n ma mo pm b.before := by
  rw [← List.all_eq_true] at once
  simp only [access, hb, mUses_store hs, ← length_of_isStore hs]
  generalize accessBytes b.before n ma bs.length = addrs at aligned once ⊢
  generalize (addrs.all fun a => inOwnDmem n a) = own at once ⊢
  rcases hs with ⟨rfl, hg, rfl⟩ | ⟨rfl, hg, rfl⟩ | ⟨rfl, hg, rfl⟩ | ⟨rfl, hg, rfl⟩ <;> rw [length_leBytes] at aligned <;>
    rcases once with rfl | out <;> simp_all [postMoved, length_leBytes, -List.headD_eq_head?_getD]

end

end State

theorem sgn_eq_toInt (w v : Nat) : sgn w v = (BitVec.ofNat w v).toInt := by
  rw [BitVec.toInt_eq_toNat_cond, BitVec.toNat_ofNat, sgn]

theorem landLoad_halfword (q : Arch) (m : Nat) (bs : List Byte) :
    State.landLoad q 2 (rS m) bs = q.setS m ((BitVec.ofNat 16 (leVal bs)).signExtend 32) := by
  rw [BitVec.signExtend, ← sgn_eq_toInt, State.landLoad, rS, Nat.add_sub_cancel_left]

theorem landLoad_word (q : Arch) (m : Nat) (bs : List Byte) :
    State.landLoad q 3 (rS m) bs = q.setS m (BitVec.ofNat 32 (leVal bs)) := by
  rw [State.landLoad, rS, Nat.add_sub_cancel_left]

open State in
/-- Settles O11: an operation of the M slot that issues makes its access, by the form of its operation and by where it lies. -/
theorem loadsAndStoresAccessMemory : Obligations.LoadsAndStoresAccessMemory := by
  intro s u n nb m x y pm b r post addr at_ own marked load store
  have loads {c : Instr} {mop form g k : Nat} {f : Arch → List Byte → Arch} (hl : IsLoad mop m.toNat form g) (hk : k = mBytes mop)
      (he : exec c s = .next (s.issueMem n nb mop m.toNat x.toNat y.toNat pm 0)) (hf : f = fun q bs => landLoad q form g bs) :
      load c k form g f := by
    subst hk hf
    rintro h aligned hc l
    refine ⟨fun near => ?_, fun far room once => ?_⟩
    · have keeps : l.2.2.youngest n = some b := ((ownLoad_reports u n.isLt near).youngest n).trans h.bundle
      rw [he, issueMem_load hl h (.inl near) hc, access_own_load hl h.bundle near aligned]
      exact congrArg (fun t => Host.Outcome.next (if l.1 = true then _ else t)) (fault_eq keeps h.fine _)
    · rw [he, issueMem_load hl h (.inr room) hc, access_remote_load hl h.bundle far aligned once]
      rfl
  have stores {c : Instr} {mop g : Nat} {bs : List Byte} (hs : IsStore r mop m.toNat g bs)
      (he : exec c s = .next (s.issueMem n nb mop m.toNat x.toNat y.toNat pm 0)) : store c g bs := by
    rintro h aligned hc
    refine ⟨fun near => ?_, fun far room once => ?_⟩
    · have inside : ((accessBytes b.before n x.toNat bs.length).all fun a => inOwnDmem n a) = true := List.all_eq_true.mpr near
      rw [he, issueMem_store hs h (.inl near) hc, access_store hs h.bundle aligned (.inl near)]
      simp only [inside, if_true]
      rfl
    · have outside : ((accessBytes b.before n x.toNat bs.length).all fun a => inOwnDmem n a) = false :=
        Bool.eq_false_iff.mpr (mt List.all_eq_true.mp far)
      rw [he, issueMem_store hs h (.inr room) hc, access_store hs h.bundle aligned (.inr once)]
      simp only [outside, Bool.false_eq_true, if_false]
      rfl
  clear_value load store
  refine ⟨loads (.inl ⟨rfl, rfl, rfl⟩) rfl rfl rfl, loads (.inr (.inl ⟨rfl, rfl, rfl⟩)) rfl rfl rfl,
    loads (.inr (.inr (.inl ⟨rfl, rfl, rfl⟩))) rfl rfl ?_, loads (.inr (.inr (.inr ⟨rfl, rfl, rfl⟩))) rfl rfl ?_,
    stores (.inl ⟨rfl, rfl, rfl⟩) rfl, stores (.inr (.inl ⟨rfl, rfl, rfl⟩)) rfl,
    stores (.inr (.inr (.inl ⟨rfl, rfl, rfl⟩))) rfl, stores (.inr (.inr (.inr ⟨rfl, rfl, rfl⟩))) rfl, fun h => ?_, fun h answered => ?_,
    fun k near _ clean => ownLoad_clean n.isLt near clean⟩
  · exact funext₂ fun q bs => (landLoad_halfword q m.toNat bs).symm
  · exact funext₂ fun q bs => (landLoad_word q m.toNat bs).symm
  · exact congrArg Host.Outcome.next ((issueMem_eq h (.inr (by simp)) rfl rfl).trans (if_pos (.inl rfl)))
  · exact congrArg Host.Outcome.next (issueFence_eq h answered)

end Sys2Proof.Machine
end

section
/-! What an operation of a slot changes (R92, R93, R101, R121): its own core, its cluster's cycle counter, and reports. -/

namespace Sys2Proof.Machine

/-- From `a` to `b`, only core `n`, the cycle counter of its cluster, and what a read of its memories reports have changed. -/
structure OwnCore (n : Nat) (a b : State) : Prop where
  frame : b = { a with cores := b.cores, clk := b.clk, eccq := b.eccq, xings := b.xings, free := b.free }
  others : ∀ m, m ≠ n → b.core m = a.core m
  clocks : ∀ k, k ≠ n / 8 → b.clusterCycle k = a.clusterCycle k

namespace OwnCore

variable {n : Nat} {a b c s : State}

theorem refl (s : State) : OwnCore n s s := ⟨rfl, fun _ _ => rfl, fun _ _ => rfl⟩

theorem trans (h : OwnCore n a b) (g : OwnCore n b c) : OwnCore n a c where
  frame := by
    have hf := h.frame
    have gf := g.frame
    rw [hf] at gf
    exact gf
  others m hm := (g.others m hm).trans (h.others m hm)
  clocks k hk := (g.clocks k hk).trans (h.clocks k hk)

theorem of_reports (h : Reports a b) : OwnCore n a b := by
  rw [Reports] at h
  rw [h]
  exact ⟨rfl, fun _ _ => rfl, fun _ _ => rfl⟩

theorem cyclesPass (s : State) : OwnCore n s (s.cyclesPass (n / 8)) := ⟨rfl, fun _ _ => rfl, fun _ hk => sget_sput_ne hk⟩

theorem fetchBundle (s : State) (hn : n < 192) {pc : Nat} (hp : pc < 2 ^ 13) : OwnCore n s (s.fetchBundle n pc).2.2 :=
  of_reports (State.fetchBundle_reports s hn hp)

section
variable {t : State} (h : OwnCore n s t)
include h

theorem setCore (c : Core) : OwnCore n s (t.setCore n c) :=
  h.trans ⟨rfl, fun _ hm => State.core_setCore_ne t c hm, fun _ _ => rfl⟩

theorem setYoungest (b : Bundle) : OwnCore n s (t.setYoungest n b) := h.setCore _

theorem setArch (r : Arch) : OwnCore n s (t.setArch n r) := h.setCore _

theorem openBundle (hn : n < 192) (hp : (t.core n).arch.pc < 2 ^ 13) : OwnCore n s (t.openBundle n) := by
  rw [State.openBundle_eq]
  exact ((h.trans (cyclesPass t)).trans (fetchBundle _ hn hp)).setCore _

theorem ready (hn : n < 192) (hp : (t.core n).arch.pc < 2 ^ 13) (nb : Bool) : OwnCore n s (t.ready n nb) := by
  unfold State.ready
  split
  · exact h.openBundle hn hp
  · exact h

theorem fault (e : Exc) : OwnCore n s (t.fault n e) := by
  unfold State.fault
  split
  · exact h
  · split
    · exact h
    · exact (h.setYoungest _).setArch _

theorem runSlot (op : SlotOp) : OwnCore n s (t.runSlot n op) := by
  unfold State.runSlot
  split
  · exact h
  · dsimp only
    split
    · exact h
    · split
      · exact h.fault _
      · exact (h.setYoungest _).setArch _

/-- A load or store changes its own core, whatever it finds. -/
theorem access (hn : n < 192) (mop mr ma mo : Nat) (pm : Bool) : OwnCore n s (t.access n mop mr ma mo pm) := by
  have move {v : State} (g : OwnCore n s v) (r : Arch) : OwnCore n s (if pm = true then v.setArch n r else v) := by
    split
    · exact g.setArch r
    · exact g
  unfold State.access
  split
  · exact h
  · dsimp only
    split
    · exact h.fault _
    split
    · exact h.fault _
    split
    · exact move (h.setYoungest _) _
    split
    · next own =>
      have loaded := h.trans (of_reports (State.ownLoad_reports t hn (List.all_eq_true.mp own)))
      split
      · exact loaded.fault _
      · exact move ((loaded.setYoungest _).setArch _) _
    · exact move ((h.setYoungest _).setCore _) _

theorem runMem (hn : n < 192) (mop mr ma mo : Nat) (pm : Bool) (low : Nat) : OwnCore n s (t.runMem n mop mr ma mo pm low) := by
  unfold State.runMem
  split
  · exact h
  · dsimp only
    split
    · exact h
    split
    · exact h.fault _
    split
    · exact h
    · exact h.access hn _ _ _ _ _

theorem addCop (o : CopOp) (mv : Bool) (wr : List Nat) : OwnCore n s (t.addCop n o mv wr) := by
  unfold State.addCop
  split
  · exact h
  · exact h.setYoungest _

end

end OwnCore

namespace State

section
variable {n : Nat} {s : State} (hn : n < 192) (hp : (s.core n).arch.pc < 2 ^ 13) (nb : Bool)
include hn hp

theorem ready_ownCore : OwnCore n s (s.ready n nb) := (OwnCore.refl s).ready hn hp nb

theorem issue_ownCore (op : SlotOp) : OwnCore n s (s.issue n nb op) := by
  unfold issue
  split
  · exact .refl s
  · exact (ready_ownCore hn hp nb).runSlot op

theorem issueMem_ownCore (mop mr ma mo : Nat) (pm : Bool) (low : Nat) : OwnCore n s (s.issueMem n nb mop mr ma mo pm low) := by
  unfold issueMem
  dsimp only
  split
  · exact .refl s
  split
  · exact .refl s
  · exact (ready_ownCore hn hp nb).runMem hn _ _ _ _ _ _

theorem issueFence_ownCore (mr ma mo : Nat) (pm : Bool) (low : Nat) : OwnCore n s (s.issueFence n nb mr ma mo pm low) := by
  unfold issueFence
  split
  · exact (ready_ownCore hn hp nb).runMem hn _ _ _ _ _ _
  · exact .refl s

theorem cwait_ownCore (f : Nat) : OwnCore n s (s.cwait n nb f) := by
  unfold cwait
  dsimp only
  split
  · exact .refl s
  split
  · exact (ready_ownCore hn hp nb).fault _
  split
  · exact .refl s
  · exact ready_ownCore hn hp nb

theorem cmovTo_ownCore (f : Nat) : OwnCore n s (s.cmovTo n nb f) := by
  have opens := ready_ownCore hn hp nb
  -- the operation joins its bundle unless an exception has been found there
  have joins (o : Bundle → CopOp) : OwnCore n s (match (s.ready n nb).youngest n with
      | none => s
      | some b => if b.exc.isSome then s.ready n nb else (s.ready n nb).addCop n (o b) true []) := by
    split
    · exact .refl s
    split
    · exact opens
    · exact opens.addCop _ _ _
  unfold cmovTo
  dsimp only
  split
  · exact .refl s
  split
  · exact opens.fault _
  split
  · split
    · exact opens.fault _
    split
    · exact .refl s
    · exact joins _
  split
  · exact opens.fault _
  split
  · exact .refl s
  · exact joins _

theorem cmovFrom_ownCore (f : Nat) : OwnCore n s (s.cmovFrom n nb f) := by
  have opens := ready_ownCore hn hp nb
  unfold cmovFrom
  dsimp only
  split
  · exact .refl s
  split
  · exact opens.fault _
  split
  · split
    · exact opens.fault _
    split
    · exact .refl s
    split
    · exact .refl s
    split
    · exact opens
    split
    · exact opens.fault _
    · exact (opens.setYoungest _).setCore _
  split
  · exact opens.fault _
  split
  · exact .refl s
  split
  · exact .refl s
  split
  · exact opens
  split
  · exact opens.fault _
  split
  · exact (opens.setYoungest _).setArch _
  · have decoded := opens.trans (.of_reports (Reports.crDecode (s.ready n nb) (n / 8) (bits f 10 1) (ownCtx n (s.core n).depth) (bits f 5 5)))
    split
    · exact decoded.fault _
    · exact (decoded.setYoungest _).setArch _

theorem startRep_ownCore (count : Nat) (legal : Bool) : OwnCore n s (s.startRep n count legal) := by
  have opens : OwnCore n s (s.openBundle n) := (OwnCore.refl s).openBundle hn hp
  unfold startRep
  dsimp only
  split
  · exact .refl s
  split
  · exact opens
  · next b _ _ =>
    have body := opens.trans (.fetchBundle _ hn (Nat.mod_lt (b.pc + 1) (by decide)))
    split
    · exact body.fault _
    split
    · exact body.setArch _
    · exact body.setArch _

end

/-- Every operation of a slot that `Instr.slotCore` names goes on, its own core changed. -/
theorem exec_ownCore {c : Instr} {n : Nat} {s : State} (h : c.slotCore = some n) (hp : (s.core n).arch.pc < 2 ^ 13) :
    ∃ t, exec c s = .next t ∧ OwnCore n s t := by
  cases c with
  | vnop n nb | vadd n nb | vsub n nb | vadds n nb | vsubs n nb | vand n nb | vor n nb | vxor n nb | vshl n nb | vshra n nb | vmov n nb
  | vmul n nb | vmac n nb | vmsu n nb | vmacb n nb | vcmul n nb | vcmac n nb | vclra n nb | vext n nb | vexts n nb | vmaxi n nb
  | vmini n nb | snop n nb | add n nb | sub n nb | and n nb | or n nb | xor n nb | shl n nb | shra n nb | addi n nb | mova n nb
  | movo n nb | movl n nb | movb n nb | mfa n nb | mfc n nb | mtc n nb | beqz n nb | bnez n nb | bltz n nb | bgez n nb | rete n nb
  | movi n nb | moviO n nb | moviAl n nb | moviAh n nb =>
    cases h
    exact ⟨_, rfl, issue_ownCore n.isLt hp nb _⟩
  | jmp n | call n | ret n =>
    cases h
    exact ⟨_, rfl, issue_ownCore n.isLt hp true _⟩
  | mnop n nb | vld n nb | vst n nb | vldb n nb | ldh n nb | ldw n nb | sth n nb | stw n nb | stb n nb =>
    cases h
    exact ⟨_, rfl, issueMem_ownCore n.isLt hp nb _ _ _ _ _ _⟩
  | fence n nb =>
    cases h
    exact ⟨_, rfl, issueFence_ownCore n.isLt hp nb _ _ _ _ _⟩
  | cmovTo n nb =>
    cases h
    exact ⟨_, rfl, cmovTo_ownCore n.isLt hp nb _⟩
  | cmovFrom n nb =>
    cases h
    exact ⟨_, rfl, cmovFrom_ownCore n.isLt hp nb _⟩
  | cwait n nb =>
    cases h
    exact ⟨_, rfl, cwait_ownCore n.isLt hp nb _⟩
  | trap n nb =>
    cases h
    refine ⟨_, rfl, ?_⟩
    split
    · exact .refl s
    · exact (ready_ownCore n.isLt hp nb).fault _
  | rep n | reps n =>
    cases h
    refine ⟨_, rfl, ?_⟩
    split
    · exact startRep_ownCore n.isLt hp _ _
    · exact .refl s
  | _ => cases h

end State

/-- Settles O16: an operation of a slot that goes on leaves what its own core's frame allows. -/
theorem slotOperationsChangeOnlyTheirCore : Obligations.SlotOperationsChangeOnlyTheirCore := by
  intro s t c n hc hp he
  obtain ⟨t', ht, own⟩ := State.exec_ownCore hc hp
  cases Host.Outcome.next.inj (ht.symm.trans he)
  exact ⟨own.frame, own.others, own.clocks⟩

end Sys2Proof.Machine
end

section
/-! Exceptions (R125, R129, R130, R132, R150): what a flush leaves, and what the entry of the handler writes. -/

namespace Sys2Proof.Machine

/-- From `a` to `b`, coprocessor operations of core `n` have been squashed: of the core, only its tags have changed. -/
structure Squashed (n : Nat) (a b : State) : Prop where
  frame : b = { a with cores := b.cores, cops := b.cops, regs := b.regs }
  core : b.core n = { a.core n with tags := (b.core n).tags }
  others : ∀ m, m ≠ n → b.core m = a.core m

namespace Squashed

variable {n : Nat} {a b c s : State}

theorem refl (s : State) : Squashed n s s := ⟨rfl, rfl, fun _ _ => rfl⟩

theorem trans (h : Squashed n a b) (g : Squashed n b c) : Squashed n a c where
  frame := by
    have gf := g.frame
    rw [h.frame] at gf
    exact gf
  core := by rw [g.core, h.core]
  others m hm := (g.others m hm).trans (h.others m hm)

theorem wf (s : State) (k : Nat) (f : Fld) (v : Nat) : Squashed n s (s.wf k f v) := by
  unfold State.wf
  dsimp only
  split <;> exact ⟨rfl, rfl, fun _ _ => rfl⟩

theorem setCop (s : State) (k u : Nat) (c : Coproc) : Squashed n s (s.setCop k u c) :=
  have stored : Squashed n s { s with cops := sput s.cops (2 * k + u) c Coproc.reset } := ⟨rfl, rfl, fun _ _ => rfl⟩
  (stored.trans (wf _ (CX_STAT.adr k u) CX_STAT.QFILL c.queue.length)).trans
    (wf _ (CX_STAT.adr k u) CX_STAT.BUSY (b2n (c.queue.any fun x => x.started)))

theorem freeTag (inv : s.Inv) (u d tag : Nat) (remote : Option Nat) : Squashed n s (s.freeTag n u d tag remote) := by
  refine ⟨rfl, ?_, fun m hm => State.core_setCore_ne s _ hm⟩
  unfold State.freeTag
  rw [State.core_setCore_same inv.tables]

theorem squash (inv : s.Inv) (b : Bundle) : Squashed n s (s.squash n b) := by
  refine (List.foldlRecOn (motive := fun t => Keeps s t ∧ Squashed n s t) b.cops _ ⟨.refl s, refl s⟩ fun t ⟨keeps, done⟩ o _ => ?_).2
  cases o with
  | commit u tag d =>
    exact ⟨State.freeTag_keeps _ _ _ _ _ (State.setCop_keeps _ _ _ keeps),
      (done.trans (setCop t _ _ _)).trans (freeTag ((State.setCop_keeps _ _ _ keeps).inv inv) _ _ _ _)⟩
  | issue t' u tag d => exact ⟨State.freeTag_keeps _ _ _ _ _ keeps, done.trans (freeTag (keeps.inv inv) _ _ _ _)⟩
  | moveTo | remoteTo => exact ⟨keeps, done⟩

theorem squashAll (inv : s.Inv) (bs : List Bundle) : Squashed n s (bs.foldl (fun s b => s.squash n b) s) :=
  (List.foldlRecOn (motive := fun t => Keeps s t ∧ Squashed n s t) bs _ ⟨.refl s, refl s⟩ fun _ ⟨keeps, done⟩ b _ =>
    ⟨State.squash_keeps n b keeps, done.trans (squash (keeps.inv inv) b)⟩).2

end Squashed

namespace State

/-- The running bests of the repeat that the registers are in (R131). -/
def bests (r : Arch) : Sparse (Int × Nat) := match r.rep with
  | some p => p.best
  | none => []

/-- A core whose bundles from `b` on have been flushed, with the tags `tags` left (R125, R129, R150). -/
def flushed (c : Core) (b : Bundle) (tags : List CopTag) : Core :=
  { c with flight := [], arch := b.before, tags := tags
           rloads := c.rloads.map fun l => if b.serial ≤ l.serial then { l with dead := true } else l }

section
variable {s : State} (inv : s.Inv) {n : Nat} {b : Bundle} {rest : List Bundle} (h : (s.core n).flight = b :: rest)
include inv h

theorem flush_eq : ∃ (t : State) (tags : List CopTag), t.Inv ∧ Squashed n s t ∧
    s.flush n = t.setCore n (flushed (s.core n) b tags) := by
  have squashed := Squashed.squashAll (n := n) inv (b :: rest)
  have keeps : Keeps s ((b :: rest).foldl (fun s b => s.squash n b) s) :=
    .foldl (fun t x ht => squash_keeps n x ht) (.refl s)
  generalize ht : (b :: rest).foldl (fun s b => s.squash n b) s = t at squashed keeps
  refine ⟨t, (t.core n).tags, keeps.inv inv, squashed, ?_⟩
  simp only [flush, h, ht]
  rw [squashed.core]
  rfl

theorem core_flush : ∃ tags, (s.flush n).core n = flushed (s.core n) b tags := by
  obtain ⟨t, tags, tinv, -, ht⟩ := flush_eq inv h
  exact ⟨tags, by rw [ht, core_setCore_same tinv.tables]⟩

theorem flush_squashed : (∀ m, m ≠ n → (s.flush n).core m = s.core m) ∧
    s.flush n = { s with cores := (s.flush n).cores, cops := (s.flush n).cops, regs := (s.flush n).regs } := by
  obtain ⟨t, tags, -, squashed, ht⟩ := flush_eq inv h
  rw [ht]
  refine ⟨fun m hm => (core_setCore_ne t _ hm).trans (squashed.others m hm), ?_⟩
  rw [squashed.frame]
  rfl

/-- After a flush, C1.VALID is what the oldest bundle found. -/
theorem handling_flush : (s.flush n).handling n = (b.before.getC 1).msb := by
  obtain ⟨tags, hc⟩ := core_flush inv h
  rw [handling, committedArch, hc]
  rfl

theorem takeException_eq {e : Exc} (he : b.exc = some e) : s.takeException n =
    if (b.before.getC 1).msb then (s.flush n).stopCore n (bits (b.before.getC 1).toNat 0 8) e.code
    else (s.flush n).enterHandler n e b.pc b.iter (bests b.before) := by
  obtain ⟨tags, hc⟩ := core_flush inv h
  simp only [takeException, h, he, handling_flush inv h, hc]
  rfl

end

/-- The registers as the handler finds them (R130). -/
def entered (r : Arch) (e : Exc) (epc : Nat) (it : Option (Nat × Nat)) : Arch :=
  { ((((r.setC 1 (BitVec.ofNat 32 (2 ^ 31 + e.detail * 256 + e.code))).setC 2 (BitVec.ofNat 32 epc)).setC 3
      (BitVec.ofNat 32 e.addr)).setC 4 (BitVec.ofNat 32 ((e.addr >>> 32) % 2 ^ 16))).setC 5
      (BitVec.ofNat 32 ((it.getD (0, 0)).1 * 2 ^ 16 + (it.getD (0, 0)).2)) with
    pc := (r.getC 6).toNat % 2 ^ 13, rep := none }

theorem enterHandler_eq (s : State) (n : Nat) (e : Exc) (epc : Nat) (it : Option (Nat × Nat)) (best : Sparse (Int × Nat)) :
    s.enterHandler n e epc it best = s.setCore n { s.core n with arch := entered (s.core n).arch e epc it, best := best } := rfl

theorem core_enterHandler {s : State} (inv : s.Inv) (n : Nat) (e : Exc) (epc : Nat) (it : Option (Nat × Nat))
    (best : Sparse (Int × Nat)) : (s.enterHandler n e epc it best).core n =
      { s.core n with arch := entered (s.core n).arch e epc it, best := best } := by
  rw [enterHandler_eq, core_setCore_same inv.tables]

/-- A core written again. -/
theorem setCore_setCore {s : State} (inv : s.Inv) (n : Nat) (c c' : Core) : (s.setCore n c).setCore n c' = s.setCore n c' :=
  congrArg (fun cs => { s with cores := cs }) (sput_sput_same (d := fun _ => Core.reset) (cores_wf inv.tables))

/-- The registers after a further access error, MORE counted up to 255 (R130). -/
def counted (r : Arch) : Arch :=
  r.setC 1 (BitVec.ofNat 32 (Machine.setBits (r.getC 1).toNat 16 8 (min (bits (r.getC 1).toNat 16 8 + 1) 255)))

theorem countMore_setCore {s : State} (inv : s.Inv) (n : Nat) (c : Core) : (s.setCore n c).countMore n =
    s.setCore n { c with arch := counted c.arch, flight := c.flight.map fun b => { b with before := counted b.before } } := by
  unfold countMore
  rw [core_setCore_same inv.tables, setCore_setCore inv]
  rfl

/-- An exception at a boundary where nothing is in flight and no repeat runs enters the handler (R130, R152). -/
theorem takeAtBoundary_setCore {s : State} (inv : s.Inv) {n : Nat} {c : Core} (e : Exc) (valid : (c.arch.getC 1).msb = false)
    (empty : c.flight = []) (out : c.arch.rep = none) : (s.setCore n c).takeAtBoundary n e =
      s.setCore n { c with best := [], arch := entered c.arch e c.arch.pc none } := by
  have read := core_setCore_same inv.tables n c
  have free : (s.setCore n c).handling n = false := by rw [handling, committedArch, read, empty]; exact valid
  have still : (s.setCore n c).flush n = s.setCore n c := by rw [flush, read, empty]
  simp only [takeAtBoundary, free, still, read, empty, out, Bool.false_eq_true, if_false, Option.map_none, enterHandler_eq,
    setCore_setCore inv]

theorem execAccessErrorException_eq {s : State} {n : CoreId} {d : DefExc} (find : (s.core n).defer.find? (fun x => x.exc.code = 7) = some d)
    (task : sget (s.core n).tasks d.depth 0 = d.task) (running : (s.core n).run = .running) (depth : (s.core n).depth = d.depth) :
    exec (.accessErrorException n) s = .next (
      let s1 := s.setCore n { s.core n with defer := ldrop1 (fun x => x = d) (s.core n).defer }
      if s.handling n then s1.countMore n else if s.atBoundary n then s1.takeAtBoundary n d.exc else s) := by
  refine congrArg Host.Outcome.next ?_
  simp only [find, task, running, depth, ne_eq, not_true_eq_false, or_self, if_false]

end State

open State in
/-- Settles O14: an exception found in the oldest bundle enters the handler or stops the core, and so does an access error at a
boundary. -/
theorem exceptionsEnterTheHandler : Obligations.ExceptionsEnterTheHandler := by
  intro s n inv saved
  refine ⟨fun b rest e hf he => ?_, fun d find task running depth => ⟨fun valid => ?_, fun valid empty out boundary => ?_⟩⟩
  · have taken := takeException_eq inv hf he
    refine ⟨fun valid => ?_, fun valid => congrArg Host.Outcome.next (taken.trans (if_pos valid))⟩
    obtain ⟨tags, hc⟩ := core_flush inv hf
    obtain ⟨others, frame⟩ := flush_squashed inv hf
    rw [valid, if_neg Bool.false_ne_true] at taken
    have entry := core_enterHandler ((flush_keeps n.val (.refl s)).inv inv) n e b.pc b.iter (bests b.before)
    rw [hc] at entry
    refine ⟨_, congrArg Host.Outcome.next taken, (congrArg Core.flight entry :), (congrArg Core.run entry :), (congrArg Core.best entry :),
      (congrArg Core.arch entry :), ?_, fun m hm => (core_setCore_ne _ _ hm).trans (others m hm), ?_⟩
    · intro l hl late
      rw [entry] at hl
      obtain ⟨l', -, rfl⟩ := List.mem_map.mp hl
      by_cases flushed : b.serial ≤ l'.serial
      · simp only [flushed, if_true]
      · simp [flushed] at late
    · rw [enterHandler_eq, frame]; rfl
  · rw [execAccessErrorException_eq find task running depth, valid]
    exact congrArg Host.Outcome.next (countMore_setCore inv n _)
  · have clear : ((s.core n).arch.getC 1).msb = false := by rw [← valid, handling, committedArch, empty]
    rw [execAccessErrorException_eq find task running depth, valid, boundary]
    exact congrArg Host.Outcome.next (takeAtBoundary_setCore inv _ clear empty out)

end Sys2Proof.Machine
end

section
/-! The commit of a bundle (R94, R123): its stores become the bytes of its core's data memory. -/

namespace Sys2Proof.Machine

/-! ### The last write of each byte -/

/-- The map that `lastBytes` builds. -/
def lastMap (items : List (Nat × Byte)) : Sparse (Option Byte) := items.foldl (fun m e => sput m e.1 (some e.2) none) []

theorem lastMap_wf (items : List (Nat × Byte)) : swf (fun _ => none) (lastMap items) = true :=
  List.foldlRecOn (motive := fun m => swf (fun _ => none) m = true) items _ rfl fun _ hm _ _ => swf_sput hm

theorem sget_lastMap (items : List (Nat × Byte)) (a : Nat) :
    sget (lastMap items) a none = (items.reverse.find? fun e => e.1 = a).map Prod.snd := by
  induction items using List.reverseRecOn with
  | nil => rfl
  | append_singleton items e ih =>
    rw [lastMap, List.foldl_concat, ← lastMap, List.reverse_concat, List.find?_cons]
    by_cases h : e.1 = a
    · subst h
      simp [sget_sput_same (d := fun _ => none) (lastMap_wf items)]
    · simp [sget_sput_ne (Ne.symm h), ih, h]

/-- An entry of a canonical map is what its key reads as. -/
theorem mem_iff_sget {α : Type} [DecidableEq α] {d : Nat → α} {m : Sparse α} (h : swf d m = true) {k : Nat} {v : α} (hv : v ≠ d k) :
    (k, v) ∈ m ↔ sget m k (d k) = v := by
  induction m with
  | nil => simp [sget, hv.symm]
  | cons e m ih =>
    obtain ⟨k', v'⟩ := e
    obtain ⟨-, above, hm⟩ := swf_cons.mp h
    by_cases hk : k = k'
    · subst hk
      have below : (k, v) ∉ m := fun hmem => hv ((ih hm).mp hmem ▸ sget_below hm above _)
      simp [sget, below, eq_comm]
    · simp [sget, hk, ih hm]

/-- Writing what a key reads as changes nothing. -/
theorem sput_sget {α : Type} [DecidableEq α] {d : Nat → α} {m : Sparse α} {k : Nat} (h : swf d m = true) :
    sput m k (sget m k (d k)) (d k) = m := by
  induction m with
  | nil => simp [sget, sput]
  | cons e m ih =>
    obtain ⟨k', v'⟩ := e
    obtain ⟨hv, above, hm⟩ := swf_cons.mp h
    by_cases hk : k = k'
    · subst hk
      simp [sget, sput, hv]
    · by_cases hlt : k < k'
      · rw [sget_below h (by simpa using hlt)]
        simp [sput, hlt]
      · simp [sget, sput, hk, hlt, ih hm]

theorem mem_lastBytes {items : List (Nat × Byte)} {e : Nat × Byte} :
    e ∈ State.lastBytes items ↔ (items.reverse.find? fun x => x.1 = e.1).map Prod.snd = some e.2 := by
  rw [← sget_lastMap, ← mem_iff_sget (d := fun _ => none) (lastMap_wf items) (by simp), State.lastBytes, ← lastMap, List.mem_filterMap]
  constructor
  · rintro ⟨⟨k, v⟩, hx, he⟩
    obtain ⟨w, rfl, rfl⟩ := Option.map_eq_some_iff.mp he
    exact hx
  · exact fun h => ⟨_, h, rfl⟩

/-! ### Stores to own data memory -/

/-- Items grouped by a key are the items. -/
theorem mem_groups {k : Nat × Byte → Nat} {items : List (Nat × Byte)} {e : Nat × Byte} :
    e ∈ ((items.map k).eraseDups).flatMap (fun w => items.filter fun x => k x = w) ↔ e ∈ items := by
  simp only [List.mem_flatMap, List.mem_eraseDups, List.mem_map, List.mem_filter, decide_eq_true_eq]
  exact ⟨fun ⟨_, _, he, _⟩ => he, fun he => ⟨k e, ⟨e, he, rfl⟩, he, rfl⟩⟩

/-- The items of a store to data memory, halfword by halfword. -/
def byHalf (items : List (Nat × Byte)) : List (Nat × Byte) :=
  ((items.map fun e => e.1 / 2 * 2).eraseDups).flatMap fun w => items.filter fun e => e.1 / 2 * 2 = w

theorem mem_byHalf {items : List (Nat × Byte)} {e : Nat × Byte} : e ∈ byHalf items ↔ e ∈ items := mem_groups

namespace State

theorem mem_byLine {items : List (Nat × Byte)} {e : Nat × Byte} : (∃ l ∈ byLine items, e ∈ l) ↔ e ∈ items := by
  rw [← mem_groups (k := fun e => e.1 / 64), List.flatMap_def, List.mem_flatten]
  rfl

theorem storeItems_append (s : State) (xs ys : List (Nat × Byte)) : (s.storeItems xs).storeItems ys = s.storeItems (xs ++ ys) :=
  List.foldl_append.symm

theorem markAt_storeItems (s : State) (items : List (Nat × Byte)) (w : Nat) : (s.storeItems items).markAt w = s.markAt w := by
  rw [markAt, storeItems_marks, markAt]

/-- A fold whose steps store items, whatever has been stored, stores them all. -/
theorem foldl_storeItems {α : Type} {f : State → α → State} {g : α → List (Nat × Byte)} {xs : List α} {s : State}
    (hf : ∀ x ∈ xs, ∀ done, f (s.storeItems done) x = (s.storeItems done).storeItems (g x)) :
    xs.foldl f s = s.storeItems (xs.flatMap g) := by
  suffices every : ∀ done, xs.foldl f (s.storeItems done) = s.storeItems (done ++ xs.flatMap g) from every []
  induction xs with
  | nil => intro done; rw [List.flatMap_nil, List.append_nil, List.foldl_nil]
  | cons x xs ih =>
    obtain ⟨hx, hxs⟩ := List.forall_mem_cons.mp hf
    intro done
    rw [List.foldl_cons, hx, storeItems_append, ih hxs, List.flatMap_cons, List.append_assoc]

/-- A store to a code word that has no merge buffer and no mark stores its bytes. -/
theorem storeWord_clean {s : State} (hw : Marks.wf s.marks = true) {l : MemLoc} {w : Nat} (hk : mergeKey l w = none)
    (hm : s.markAt w = none) (items : List (Nat × Byte)) : s.storeWord l w items = s.storeItems items := by
  have kept : (s.storeItems items).setMark w none = s.storeItems items :=
    setMark_none_of_clean (by rwa [storeItems_marks]) (by rwa [markAt_storeItems])
  unfold storeItems at kept ⊢
  simp only [storeWord, hk, mergeWord, hm, kept, ite_self]

theorem memStore_own {s : State} (hw : Marks.wf s.marks = true) {n : Nat} (hn : n < 192) {items : List (Nat × Byte)}
    (own : ∀ e ∈ items, inOwnDmem n e.1 = true ∧ s.markAt (e.1 / 2 * 2) = none) : s.memStore items = s.storeItems (byHalf items) := by
  cases items with
  | nil => rfl
  | cons e items =>
    obtain ⟨here, -⟩ := own e List.mem_cons_self
    simp only [memStore, memLoc_dmem s.ddrGiB hn here]
    refine foldl_storeItems fun w hw' done => ?_
    obtain ⟨x, hx, rfl⟩ := List.mem_map.mp (List.mem_eraseDups.mp hw')
    obtain ⟨-, clean⟩ := own x hx
    exact storeWord_clean (by rwa [storeItems_marks]) rfl (by rwa [markAt_storeItems]) _

/-- The stores of a bundle to own data memory, in the order in which they are made. -/
def committed (b : Bundle) : List (Nat × Byte) := (byLine (lastBytes b.stores)).flatMap byHalf

theorem mem_committed {b : Bundle} {e : Nat × Byte} :
    e ∈ committed b ↔ (b.stores.reverse.find? fun x => x.1 = e.1).map Prod.snd = some e.2 := by
  rw [committed, List.mem_flatMap, ← mem_lastBytes]
  exact (exists_congr fun _ => and_congr_right fun _ => mem_byHalf).trans mem_byLine

theorem mem_stores_of_committed {b : Bundle} {e : Nat × Byte} (h : e ∈ committed b) : e ∈ b.stores := by
  obtain ⟨x, hx, hv⟩ := Option.map_eq_some_iff.mp (mem_committed.mp h)
  have key : x.1 = e.1 := by simpa using List.find?_some hx
  have same : x = e := Prod.ext key hv
  exact same ▸ List.mem_reverse.mp (List.mem_of_find?_eq_some hx)

theorem byteAt_committed {s : State} (hw : Memory.wf s.mem = true) (b : Bundle) (a : Nat) :
    (s.storeItems (committed b)).byteAt a = ((b.stores.reverse.find? fun e => e.1 = a).map Prod.snd).getD (s.byteAt a) := by
  refine byteAt_storeItems hw (fun e he hea => ?_) ?_
  · rw [← hea, mem_committed.mp he, Option.getD_some]
  · cases hf : (b.stores.reverse.find? fun e => e.1 = a).map Prod.snd with
    | none => exact .inr rfl
    | some v => exact .inl ⟨(a, v), mem_committed.mpr hf, rfl⟩

/-! ### Write-back -/

/-- The access errors of the current task of core `c`, from the STATUS and address of each (R129, R130). -/
def lateErrors (c : Core) (es : List (Nat × Nat)) : List DefExc :=
  es.map fun e => ⟨⟨7, e.1, e.2⟩, c.depth, sget c.tasks c.depth 0, 0, 0⟩

theorem setCore_core {s : State} (inv : s.Inv) (n : Nat) : s.setCore n (s.core n) = s :=
  congrArg (fun cs => { s with cores := cs }) (sput_sget (d := fun _ => Core.reset) (cores_wf inv.tables))

theorem accessErrors_eq {s : State} (inv : s.Inv) (n : Nat) (es : List (Nat × Nat)) :
    es.foldl (fun s e => s.accessError n e.1 e.2) s =
      s.setCore n { s.core n with defer := (s.core n).defer ++ lateErrors (s.core n) es } := by
  induction es generalizing s with
  | nil =>
    rw [lateErrors, List.map_nil, List.append_nil]
    exact (setCore_core inv n).symm
  | cons e es ih =>
    rw [List.foldl_cons, ih ((accessError_keeps n e.1 e.2 (.refl s)).inv inv), accessError, core_setCore_same inv.tables,
      setCore_setCore inv]
    simp [lateErrors]

/-- The state with the bundles `rest` of core `n` in flight. -/
def inFlight (s : State) (n : Nat) (rest : List Bundle) : State := s.setCore n { s.core n with flight := rest }

section
variable {s : State} (inv : s.Inv) {n : Nat} (hn : n < 192) {b : Bundle} {rest : List Bundle}
  (own : ∀ e ∈ b.stores, inOwnDmem n e.1 = true ∧ s.markAt (e.1 / 2 * 2) = none)
include inv hn own

theorem stores_eq : (byLine (lastBytes b.stores)).foldl (fun s l => s.memStore l) (s.inFlight n rest) =
    (s.inFlight n rest).storeItems (committed b) := by
  refine foldl_storeItems fun l hl done => memStore_own (by rw [storeItems_marks]; exact inv.marks) hn fun e he => ?_
  obtain ⟨near, clean⟩ := own e (mem_stores_of_committed (List.mem_flatMap.mpr ⟨l, hl, mem_byHalf.mpr he⟩))
  exact ⟨near, by rw [markAt_storeItems]; exact clean⟩

theorem stores_inv : ((s.inFlight n rest).storeItems (committed b)).Inv := by
  rw [← stores_eq inv hn own]
  exact (Keeps.foldl (fun _ l ht => memStore_keeps l ht) (setCore_keeps n _ (.refl s))).inv inv

/-- A bundle of stores to clean words of own data memory reaches write-back. -/
theorem commit_eq (hf : (s.core n).flight = b :: rest) (fine : b.exc = none) (cops : b.cops = []) (noRemote : b.rstores = [])
    (loads : (s.core n).rloads = []) :
    s.commit n = ((s.inFlight n rest).storeItems (committed b)).setCore n { s.core n with
      flight := rest, defer := (s.core n).defer ++ lateErrors (s.core n) b.errs } := by
  have alone : s.keepOlder n b = s := by rw [keepOlder, loads]; rfl
  have stored : (byLine (lastBytes b.stores)).foldl (fun s l => s.memStore l) (s.setCore n { s.core n with flight := rest }) =
      (s.inFlight n rest).storeItems (committed b) := stores_eq inv hn own
  have read : ((s.inFlight n rest).storeItems (committed b)).core n = { s.core n with flight := rest } := by
    obtain ⟨m, hm⟩ := storeItems_frame (s.inFlight n rest) (committed b)
    rw [hm]
    exact core_setCore_same inv.tables n _
  simp only [commit, hf, fine, alone, stored, noRemote, cops, Option.isSome_none, Bool.false_eq_true, if_false, List.foldl_nil]
  exact (accessErrors_eq (stores_inv inv hn own) n b.errs).trans (by rw [read]; rfl)

end

end State

end Sys2Proof.Machine
end

section
/-! The response of a remote load (R94, R124 to R126): a read that is answered OK leaves the cores as they are, and its bytes go
into the register. -/

namespace Sys2Proof.Machine

namespace State

/-! ### Reads that are answered OK -/

theorem raise_cores (s : State) (code src p1 p2 p3 : Nat) : (s.raise code src p1 p2 p3).cores = s.cores := by
  obtain ⟨_, _, _, _, h⟩ := raise_frame s code src p1 p2 p3
  rw [h]

theorem hazard_cores (s : State) (k u ctx n : Nat) : (s.hazard k u ctx n).cores = s.cores := by
  unfold hazard
  split
  · exact (raise_cores _ _ _ _ _ _).trans (wf_cores _ _ _ _)
  · rfl

theorem viewLine_cores (s : State) (p o : Nat) : (s.viewLine p o).2.2.cores = s.cores := by
  unfold viewLine
  split
  · rfl
  · dsimp only
    split
    · split <;> rfl
    · split
      · rfl
      · exact wf_cores _ _ _ _

/-- No read changes a core. -/
theorem targetRead_cores (s : State) (a n : Nat) : (s.targetRead a n).2.2.cores = s.cores := by
  have loaded : (s.memLoad a n).2.2.cores = s.cores := memLoad_cores s a n
  unfold targetRead
  split
  · split
    · exact raise_cores _ _ _ _ _ _
    · split
      · exact raise_cores _ _ _ _ _ _
      · rfl
  split
  · dsimp only
    split <;> exact loaded
  split
  · rfl
  split
  · dsimp only
    split <;> exact loaded
  split
  · split
    · rfl
    · exact viewLine_cores s _ _
  split
  · split <;> rfl
  dsimp only
  split
  · split <;> exact (Reports.crDecode _ _ _ _ _).cores.trans (hazard_cores s _ _ _ _)
  · rfl

/-- What stops a request on its way is not answered OK (R77, R83, R86). -/
theorem gate_status {s : State} {src tag a st i : Nat} (h : (s.gate src tag a).1 = some (st, i)) : st ≠ stOk := by
  revert h
  unfold gate
  dsimp only
  split
  · split <;> rintro ⟨⟩ <;> decide
  · split
    · rintro ⟨⟩
    split
    · rintro ⟨⟩; decide
    split
    · rintro ⟨⟩; decide
    split
    · split <;> rintro ⟨⟩ <;> decide
    · rintro ⟨⟩

theorem unitRefuses_status {s : State} {src tag a st i : Nat} {u : State} (h : s.unitRefuses src tag a = some (st, i, u)) : st ≠ stOk := by
  unfold unitRefuses at h
  split at h
  · cases h; decide
  · dsimp only at h
    split at h
    · cases h; decide
    · cases h

theorem lineRead_cores {s : State} {src tag a n : Nat} (ok : (s.lineRead src tag a n).1 = stOk) :
    (s.lineRead src tag a n).2.2.2.cores = s.cores := by
  cases hg : (s.gate src tag a).1 with
  | some r =>
    obtain ⟨st, i⟩ := r
    obtain ⟨t, u, ht⟩ : ∃ t u, s.gate src tag a = (some (st, i), t, u) := ⟨_, _, Prod.ext hg rfl⟩
    rw [lineRead, ht] at ok
    exact absurd ok (gate_status hg)
  | none =>
    obtain ⟨t, ht⟩ := gate_none hg
    revert ok
    simp only [lineRead, ht]
    split
    · next h => exact fun ok => absurd ok (unitRefuses_status h)
    · intro _
      split <;> exact targetRead_cores s _ _

/-- A read of one line is one request. -/
theorem busRead_line (s : State) (src ln : Nat) : s.busRead src (64 * ln) 64 =
    let r := s.drawn.lineRead src (s.draw 8).1 (64 * ln) 64
    (if r.1 ≠ stOk then some (r.1, 64 * ln) else none, r.2.2.1, r.2.2.2) := by
  have one : pieces (64 / 64 + 2) (64 * ln) 64 = [(64 * ln, 64)] := by simp [pieces]
  rw [busRead, one]
  simp only [List.foldl_cons, List.foldl_nil, Option.isNone_none, Bool.true_and, decide_eq_true_eq, List.nil_append]
  rfl

theorem busRead_cores {s v : State} {src ln : Nat} {d : List Byte} (h : s.busRead src (64 * ln) 64 = (none, d, v)) :
    v.cores = s.cores := by
  rw [busRead_line] at h
  obtain ⟨status, answer⟩ := Prod.mk.inj h
  obtain ⟨-, rfl⟩ := Prod.mk.inj answer
  have ok : (s.drawn.lineRead src (s.draw 8).1 (64 * ln) 64).1 = stOk := by
    by_contra failed
    rw [if_pos failed] at status
    cases status
  exact lineRead_cores ok

/-! ### The last response -/

/-- The bytes of a load whose line is answered with `d`: those of the core's own earlier stores first (R126). -/
def gathered (l : RLoad) (d : List Byte) : List Byte :=
  l.bytes.map fun a => match l.fwd.find? (fun e => e.1 = a) with
    | some e => e.2
    | none => d.getD (a % 64) 0xFF

/-- A load whose bytes lie in one line, once that line has been read. -/
def readLine (l : RLoad) (ln : Nat) (d : List Byte) : RLoad :=
  { l with read := l.read ++ [ln]
           fwd := l.fwd ++ (l.bytes.filter fun a => a / 64 = ln && !l.fwd.any fun x => x.1 = a).map fun a => (a, d.getD (a % 64) 0xFF) }

theorem find?_readLine {l : RLoad} {ln : Nat} (one : ∀ a ∈ l.bytes, a / 64 = ln) (d : List Byte) :
    l.bytes.map (fun a => (((readLine l ln d).fwd.find? fun e => e.1 = a).map Prod.snd).getD 0xFF) = gathered l d := by
  refine List.map_congr_left fun a ha => ?_
  rw [readLine, List.find?_append]
  cases hf : l.fwd.find? (fun e => e.1 = a) with
  | some e => rfl
  | none =>
    have unstored : (l.fwd.any fun x => x.1 = a) = false := List.any_eq_false.mpr (List.find?_eq_none.mp hf)
    have among : a ∈ l.bytes.filter fun a => a / 64 = ln && !l.fwd.any fun x => x.1 = a := by
      simp only [List.mem_filter, one a ha, unstored, decide_true, Bool.not_false, Bool.and_self, and_self, ha]
    have found : (l.bytes.filter fun a => a / 64 = ln && !l.fwd.any fun x => x.1 = a).find? (fun x => x = a) = some a := by
      obtain ⟨x, hx⟩ := Option.isSome_iff_exists.mp (List.find?_isSome (p := (· = a)).mpr ⟨a, among, decide_eq_true rfl⟩)
      have self : x = a := by simpa using List.find?_some hx
      exact self ▸ hx
    simp only [List.find?_map, Function.comp_def, found]
    rfl

theorem eraseDups_lines {l : RLoad} {ln : Nat} (nonempty : l.bytes ≠ []) (one : ∀ a ∈ l.bytes, a / 64 = ln) :
    (l.bytes.map fun a => a / 64).eraseDups = [ln] := by
  cases hb : l.bytes with
  | nil => exact absurd hb nonempty
  | cons a as =>
    rw [hb] at one
    obtain ⟨ha, has⟩ := List.forall_mem_cons.mp one
    have same : (as.map fun a => a / 64).filter (fun x => !x == ln) = [] := by
      simpa [List.filter_eq_nil_iff] using has
    rw [List.map_cons, ha, List.eraseDups_cons, same, List.eraseDups_nil]

theorem answerLines_line {s v : State} {n i ln : Nat} {l : RLoad} {d : List Byte} (hl : (s.core n).rloads[i]? = some l)
    (nonempty : l.bytes ≠ []) (one : ∀ a ∈ l.bytes, a / 64 = ln) (unread : l.read = [])
    (hb : s.busRead (n / 8) (64 * ln) 64 = (none, d, v)) :
    s.answerLines n i (fun _ => true) = v.setLoad n i fun l => readLine l ln d := by
  simp [answerLines, hl, eraseDups_lines nonempty one, unread, hb, readLine]

theorem loadArrives_dead {s : State} {n i : Nat} {l : RLoad} (hl : (s.core n).rloads[i]? = some l) (dead : l.dead = true) :
    s.loadArrives n i = s.setCore n { s.core n with rloads := (s.core n).rloads.eraseIdx i } := by
  simp only [loadArrives, hl, dead, if_true]

/-- A core in which load `i`, of bundle `serial`, has put its bytes into its register by `put`: also in what a younger bundle would
restore (R94). -/
def landed (c : Core) (i serial : Nat) (put : Arch → Arch) : Core :=
  { c with arch := put c.arch, rloads := c.rloads.eraseIdx i
           flight := c.flight.map fun b => if serial < b.serial then { b with before := put b.before } else b }

theorem eraseIdx_map_zipIdx {α : Type} (xs : List α) (i : Nat) (f : α → α) :
    (xs.zipIdx.map fun x => if x.2 = i then f x.1 else x.1).eraseIdx i = xs.eraseIdx i := by
  refine List.ext_getElem? fun j => ?_
  simp only [List.getElem?_eraseIdx, List.getElem?_map, List.getElem?_zipIdx, Option.map_map]
  split
  · have other : j ≠ i := by omega
    simp [Function.comp_def, other]
  · have other : j + 1 ≠ i := by omega
    simp [Function.comp_def, other]

theorem getElem?_map_zipIdx {α : Type} {xs : List α} {i : Nat} {x : α} (h : xs[i]? = some x) (f : α → α) :
    (xs.zipIdx.map fun x => if x.2 = i then f x.1 else x.1)[i]? = some (f x) := by
  simp [h]

theorem loadArrives_line {s v : State} {n i ln : Nat} {l : RLoad} {d : List Byte} (inv : v.Inv) (hl : (s.core n).rloads[i]? = some l)
    (alive : l.dead = false) (form : l.form ≠ 4) (unread : l.read = []) (fine : l.errs = []) (nonempty : l.bytes ≠ [])
    (one : ∀ a ∈ l.bytes, a / 64 = ln) (hb : s.busRead (n / 8) (64 * ln) 64 = (none, d, v)) :
    s.loadArrives n i = v.setCore n (landed (v.core n) i l.serial fun r => landLoad r l.form l.reg (gathered l d)) := by
  have cores : v.core n = s.core n := by rw [State.core, busRead_cores hb, State.core]
  have read : (v.setLoad n i fun l => readLine l ln d).core n = { v.core n with
      rloads := (v.core n).rloads.zipIdx.map fun x => if x.2 = i then readLine x.1 ln d else x.1 } := core_setCore_same inv.tables n _
  have entry : ((v.setLoad n i fun l => readLine l ln d).core n).rloads[i]? = some (readLine l ln d) := by
    rw [read]; exact getElem?_map_zipIdx (by rw [cores]; exact hl) fun l => readLine l ln d
  simp only [loadArrives, hl, alive, form, Bool.false_eq_true, if_false, answerLines_line hl nonempty one unread hb, entry, Option.getD_some,
    find?_readLine one d]
  rw [show (readLine l ln d).errs = [] from fine, List.foldl_nil]
  simp only [read, eraseIdx_map_zipIdx (v.core n).rloads i fun l => readLine l ln d]
  exact setCore_setCore inv n _ _

end State

open State in
/-- Settles O15: a bundle's stores become the bytes of its core's data memory, and the last response of a load lands in its register. -/
theorem bundlesCommitAndLoadsReturn : Obligations.BundlesCommitAndLoadsReturn := by
  intro s n inv
  refine ⟨fun b rest hf fine cops noRemote loads own => ?_, fun i l hl => ⟨fun dead => ?_, ?_⟩⟩
  · have done := commit_eq inv n.isLt own hf fine cops noRemote loads
    obtain ⟨m, hm⟩ := storeItems_frame (s.inFlight n rest) (committed b)
    refine ⟨_, congrArg Host.Outcome.next done, core_setCore_same (stores_inv inv n.isLt own).tables n _, fun k hk => ?_,
      byteAt_committed (s := s.inFlight n rest) inv.mem b, markAt_storeItems (s.inFlight n rest) (committed b), ?_⟩
    · rw [core_setCore_ne _ _ hk, hm]
      exact core_setCore_ne s _ hk
    · rw [hm]; rfl
  · exact congrArg Host.Outcome.next (loadArrives_dead hl dead)
  · intro ln d v alive form unread fine nonempty one hb
    have keeps : Keeps s v := .of3 hb (busRead_keeps _ _ _ (.refl s))
    exact congrArg Host.Outcome.next (loadArrives_line (keeps.inv inv) hl alive form unread fine nonempty one hb)

end Sys2Proof.Machine
end

section
/-! The coprocessor operations of a core on its own cluster (R136 to R147): what each leaves, the operation issuing. -/

namespace Sys2Proof.Machine

/-- A field that lies within bits that are 0 is 0. -/
theorem bits_eq_zero_within {w lo len : Nat} (h : bits w lo len = 0) {lo' len' : Nat} (hl : lo ≤ lo') (hh : lo' + len' ≤ lo + len) :
    bits w lo' len' = 0 := by
  refine Nat.eq_of_testBit_eq fun i => ?_
  rw [testBit_bits, Nat.zero_testBit]
  by_cases hi : i < len'
  · have clear := testBit_bits w lo len (lo' - lo + i)
    have place : lo + (lo' - lo + i) = lo' + i := by omega
    have inside : lo' - lo + i < len := by omega
    rw [h, Nat.zero_testBit, place, decide_eq_true inside, Bool.true_and] at clear
    rw [← clear, Bool.and_false]
  · rw [decide_eq_false hi, Bool.false_and]

theorem bit_eq_false_within {w lo len i : Nat} (h : bits w lo len = 0) (hl : lo ≤ i) (hh : i < lo + len) : bit w i = false := by
  have field := testBit_bits w i 1 0
  rw [bits_eq_zero_within h hl hh, Nat.zero_testBit] at field
  simpa [bit_eq_testBit] using field.symm

/-- A CMOV whose fields RM, A and [0] are 0 is legal (R136). -/
theorem cmovLegal_of_zero {f : Nat} (h : bits f 0 5 = 0) : cmovLegal f = true := by
  rw [cmovLegal, bit_eq_false_within h (by decide) (by decide), bits_eq_zero_within h (by decide) (by decide)]
  simp

/-- A CISSUE whose fields but M and X are 0, and whose M is a multiple of 4, is legal (R136, R137). -/
theorem cissueLegal_of_zero {f : Nat} (h : bits f 0 10 = 0) (hm : bits f 11 4 % 4 = 0) : cissueLegal f = true := by
  rw [cissueLegal, cmovLegal_of_zero (bits_eq_zero_within h (by decide) (by decide)), bits_eq_zero_within h (by decide) (by decide), hm]
  rfl

namespace State

theorem addCop_eq {u : State} {n : Nat} {b : Bundle} (hb : u.youngest n = some b) (o : CopOp) (mv : Bool) (wr : List Nat) :
    u.addCop n o mv wr = u.setYoungest n { b with cops := b.cops ++ [o], cmov := b.cmov || mv, wrote := b.wrote ++ wr } := by
  simp only [addCop, hb]

/-- A context register whose words all decode clean is read without a report. -/
theorem crDecode_clean {s : State} {k u ctx n : Nat} (h : ∀ w < 8, sget (s.cop k u).bad (8 * (ctx * 32 + n) + w) none = none) :
    s.crDecode k u ctx n = (true, s) := by
  refine List.foldlRecOn (motive := fun r => r = (true, s)) (List.range 8) _ rfl fun r hr w hw => ?_
  subst hr
  simp only [h w (List.mem_range.mp hw)]

section
variable {s u : State} {n f : Nat} {nb : Bool} {b : Bundle}

theorem cmovTo_eq (h : s.Issues n nb [rV (bits f 11 4)] u b) (near : bits f 0 5 = 0)
    (on : s.copUnavail (n / 8) (bits f 10 1) = false)
    (hw : s.crW (n / 8) (bits f 10 1) (ownCtx n (s.core n).depth) (bits f 5 5) = false)
    (hr : s.crR (n / 8) (bits f 10 1) (ownCtx n (s.core n).depth) (bits f 5 5) = false) :
    s.cmovTo n nb f = u.addCop n
      (.moveTo (bits f 10 1) (ownCtx n (s.core n).depth) (bits f 5 5) (b.before.getV (bits f 11 4))) true [] := by
  simp [cmovTo, h.can, h.free, cmovLegal_of_zero near, bit_eq_false_within near (i := 4), on, hw, hr, h.opened, h.bundle, h.fine]

/-- What CMOV.FROM reads: the youngest CMOV.TO to the register that has not committed, else the register, clean (R147). -/
def CmovReads (u : State) (n x ctx cr : Nat) (v : Line) : Prop :=
  u.pendingCR n x ctx cr = some v ∨ (u.pendingCR n x ctx cr = none ∧ v = u.getCR (n / 8) x ctx cr ∧
    ∀ w < 8, sget (u.cop (n / 8) x).bad (8 * (ctx * 32 + cr) + w) none = none)

theorem cmovFrom_eq (h : s.Issues n nb [rV (bits f 11 4)] u b) (near : bits f 0 5 = 0)
    (on : s.copUnavail (n / 8) (bits f 10 1) = false)
    (hw : s.crW (n / 8) (bits f 10 1) (ownCtx n (s.core n).depth) (bits f 5 5) = false) (hc : clash b [rV (bits f 11 4)] = false)
    {v : Line} (hv : u.CmovReads n (bits f 10 1) (ownCtx n (s.core n).depth) (bits f 5 5) v) :
    s.cmovFrom n nb f = (u.setYoungest n { b with wrote := b.wrote ++ [rV (bits f 11 4)], cmov := true }).setArch n
      ((u.core n).arch.setV (bits f 11 4) v) := by
  rcases hv with hp | ⟨hp, rfl, clean⟩
  · simp [cmovFrom, h.can, h.free, cmovLegal_of_zero near, bit_eq_false_within near (i := 4), on, hw, h.opened, h.bundle, h.fine, hc, hp]
  · simp [cmovFrom, h.can, h.free, cmovLegal_of_zero near, bit_eq_false_within near (i := 4), on, hw, h.opened, h.bundle, h.fine, hc, hp,
      crDecode_clean clean]

/-- The words of a CISSUE: the scalar registers from M on, as they stood before its bundle (R136). -/
def issueWords (s : State) (n : Nat) (nb : Bool) (m : Nat) : List Word := (List.range 4).map fun i => (s.srcArch n nb).getS (m + i)

theorem cissue_eq (h : s.Issues n nb ((List.range 4).map fun i => rS (bits f 11 4 + i)) u b) (near : bits f 0 10 = 0)
    (hm : bits f 11 4 % 4 = 0) (legal : cmdLegal (bits f 10 1) (s.issueWords n nb (bits f 11 4)) = true)
    (untagged : ((s.core n).tags.any fun t => t.depth = (s.core n).depth && t.tag = cmdTag (s.issueWords n nb (bits f 11 4))) = false)
    (room : s.sharedFill (n / 8) (bits f 10 1) < 32) :
    s.cissue n nb f =
      let k := n / 8
      let x := bits f 10 1
      let d := (s.core n).depth
      let words := s.issueWords n nb (bits f 11 4)
      let task := sget (s.core n).tasks d 0
      let v := u.addCop n (.commit x (cmdTag words) d) false []
      (v.setCore n { v.core n with tags := (v.core n).tags ++ [⟨x, d, cmdTag words, none, none, task⟩] }).copEnter k x
        (newCmd words (ownCtx n d) (.core n d task) false) := by
  unfold issueWords at legal untagged ⊢
  simp only [cissue, h.can, h.free, cissueLegal_of_zero near hm, bit_eq_false_within near (i := 4) (by decide) (by decide), legal, untagged,
    Nat.not_le.mpr room, h.opened, h.bundle, h.fine, Bool.not_true, Bool.or_self, Bool.false_eq_true, if_false, false_and,
    Option.isSome_none]

theorem cwait_eq (h : s.Issues n nb [] u b) (near : bits f 0 10 = 0)
    (free : ((s.core n).tags.any fun t => t.depth = (s.core n).depth && (bit f 10 || t.tag = bits f 11 4)) = false) :
    s.cwait n nb f = u := by
  simp only [cwait, h.can, cwaitLegal, near, free, h.opened, Bool.not_true, Bool.false_eq_true, if_false, decide_true]

end

end State

open State in
/-- Settles O12: each operation that issues leaves what its equation says. -/
theorem coprocessorOperationsIssue : Obligations.CoprocessorOperationsIssue := by
  intro s u n nb f b k x m cr d ctx R
  refine ⟨fun near on => ⟨fun h hw hr => ?_, fun h hw hc v hv => ?_⟩, ?_, fun near h free => ?_⟩
  · exact congrArg Host.Outcome.next ((cmovTo_eq h near on hw hr).trans ((addCop_eq h.bundle _ true []).trans (by rw [Bool.or_true])))
  · exact congrArg Host.Outcome.next (cmovFrom_eq h near on hw hc hv)
  · rintro near hm h words rfl legal untagged room v task
    exact congrArg Host.Outcome.next (cissue_eq h near hm legal untagged room)
  · exact congrArg Host.Outcome.next (cwait_eq h near free)

end Sys2Proof.Machine
end

section
/-! Bytes of results: a number written as bytes is read back, and a field of equally long blocks lies in one of them. -/

namespace Sys2Proof.Machine

theorem leVal_leBytes (n v : Nat) : leVal (leBytes n v) = v % 256 ^ n := by
  induction n generalizing v with
  | zero => exact (Nat.mod_one v).symm
  | succ n ih =>
    rw [leBytes, leVal, ih, BitVec.toNat_ofNat, pow_succ' 256 n, Nat.mod_mul (a := 256)]

theorem fieldAt_leBytes (n v : Nat) : fieldAt (leBytes n v) 0 n = v % 256 ^ n := by
  rw [fieldAt, List.drop_zero, List.take_of_length_le (length_leBytes n v).le, leVal_leBytes]

/-- Blocks of `w` bytes from block `i` on. -/
theorem drop_flatMap {α : Type} {g : α → List Byte} {w : Nat} {l : List α} (hw : ∀ x ∈ l, (g x).length = w) (i : Nat) :
    (l.flatMap g).drop (w * i) = (l.drop i).flatMap g := by
  induction l generalizing i with
  | nil => simp
  | cons x l ih =>
    obtain ⟨hx, hl⟩ := List.forall_mem_cons.mp hw
    cases i with
    | zero => rfl
    | succ i =>
      rw [List.flatMap_cons, Nat.mul_succ, Nat.add_comm, ← List.drop_drop, ← hx, List.drop_left, hx, ih hl, List.drop_succ_cons]

theorem length_flatMap_blocks {α : Type} {g : α → List Byte} {w : Nat} {l : List α} (hw : ∀ x ∈ l, (g x).length = w) :
    (l.flatMap g).length = w * l.length := by
  rw [List.length_flatMap, List.map_congr_left hw, List.map_const', List.sum_replicate, smul_eq_mul, Nat.mul_comm]

theorem fieldAt_append {bs cs : List Byte} {o n : Nat} (h : o + n ≤ bs.length) : fieldAt (bs ++ cs) o n = fieldAt bs o n := by
  rw [fieldAt, List.drop_append_of_le_length (by omega), List.take_append_of_le_length (by rw [List.length_drop]; omega), fieldAt]

theorem fieldAt_append_right {bs cs : List Byte} {w : Nat} (h : bs.length = w) (o n : Nat) :
    fieldAt (bs ++ cs) (w + o) n = fieldAt cs o n := by
  rw [fieldAt, ← List.drop_drop, ← h, List.drop_left, fieldAt]

/-- A field within block `i` of blocks of `w` bytes. -/
theorem fieldAt_flatMap {α : Type} {g : α → List Byte} {w : Nat} {l : List α} (hw : ∀ x ∈ l, (g x).length = w) {i o n : Nat}
    (hi : i < l.length) (ho : o + n ≤ w) : fieldAt (l.flatMap g) (w * i + o) n = fieldAt (g l[i]) o n := by
  rw [fieldAt, ← List.drop_drop, drop_flatMap hw, List.drop_eq_getElem_cons hi, List.flatMap_cons]
  exact fieldAt_append (by rw [hw _ (List.getElem_mem hi)]; exact ho)

end Sys2Proof.Machine
end

section
/-! The results of coprocessor commands (R163 to R168): the parts of a transform, and the lanes of a matrix, by row and column. -/

namespace Sys2Proof.Machine

/-- A complex output: its real and its imaginary part, and whether each saturates. -/
abbrev Lane := (Nat × Bool) × (Nat × Bool)

def laneBytes (p : Lane) : List Byte := leBytes 2 p.1.1 ++ leBytes 2 p.2.1

theorem partBytes_eq (ps : List Lane) : partBytes ps = ps.flatMap laneBytes := rfl

theorem length_laneBytes (p : Lane) : (laneBytes p).length = 4 := by
  rw [laneBytes, List.length_append, length_leBytes, length_leBytes]

theorem length_partBytes (ps : List Lane) : (partBytes ps).length = 4 * ps.length := by
  rw [partBytes_eq, length_flatMap_blocks fun p _ => length_laneBytes p]

theorem fieldAt_laneBytes_re (p : Lane) : fieldAt (laneBytes p) 0 2 = p.1.1 % 2 ^ 16 := by
  rw [laneBytes, fieldAt_append (by rw [length_leBytes])]
  exact fieldAt_leBytes 2 _

theorem fieldAt_laneBytes_im (p : Lane) : fieldAt (laneBytes p) 2 2 = p.2.1 % 2 ^ 16 :=
  (fieldAt_append_right (length_leBytes 2 _) 0 2).trans (fieldAt_leBytes 2 _)

theorem fieldAt_partBytes {ps : List Lane} {j o n : Nat} (hj : j < ps.length) (ho : o + n ≤ 4) :
    fieldAt (partBytes ps) (4 * j + o) n = fieldAt (laneBytes ps[j]) o n := by
  rw [partBytes_eq, fieldAt_flatMap (fun p _ => length_laneBytes p) hj ho]

theorem wrapTo_mod (w : Nat) (v : Int) : wrapTo w v % 2 ^ w = wrapTo w v := by
  have positive : (0 : Int) < (2 ^ w : Nat) := by exact_mod_cast Nat.two_pow_pos w
  exact Nat.mod_eq_of_lt ((Int.toNat_lt (Int.emod_nonneg _ positive.ne')).mpr (Int.emod_lt_of_pos _ positive))

/-! ### Matrices: rows of 16 lanes -/

/-- A matrix of `m` rows with the lanes `lane i j`. -/
def laneRows (m : Nat) (lane : Nat → Nat → Lane) : List (List Lane) :=
  (List.range m).map fun i => (List.range 16).map (lane i)

section
variable {m : Nat} {lane : Nat → Nat → Lane}

theorem length_row : ∀ row ∈ laneRows m lane, (partBytes row).length = 64 := by
  intro row hr
  obtain ⟨i, -, rfl⟩ := List.mem_map.mp hr
  rw [length_partBytes, List.length_map, List.length_range]

theorem length_laneRows : ((laneRows m lane).flatMap partBytes).length = 64 * m := by
  rw [length_flatMap_blocks length_row, laneRows, List.length_map, List.length_range]

theorem fieldAt_laneRows {i j o n : Nat} (hi : i < m) (hj : j < 16) (ho : o + n ≤ 4) :
    fieldAt ((laneRows m lane).flatMap partBytes) (64 * i + 4 * j + o) n = fieldAt (laneBytes (lane i j)) o n := by
  have row : i < (laneRows m lane).length := by simpa [laneRows] using hi
  have column : j < ((List.range 16).map (lane i)).length := by simpa using hj
  rw [Nat.add_assoc, fieldAt_flatMap length_row row (by omega)]
  simp only [laneRows, List.getElem_map, List.getElem_range]
  rw [fieldAt_partBytes column ho, List.getElem_map, List.getElem_range]

end

/-! ### What a command computes -/

/-- A part with a free error is within `bound` of its value, saturated (R164). -/
theorem outPart_within (v : Int) (bound free : Nat) :
    ∃ e : Int, -(bound : Int) ≤ e ∧ e ≤ bound ∧ (outPart v bound free).1 = wrapTo 16 (clampTo 16 (v + e)) := by
  have small : Config.freeValue free % (2 * bound + 1) < 2 * bound + 1 := Nat.mod_lt _ (by omega)
  exact ⟨(Config.freeValue free % (2 * bound + 1) : Nat) - (bound : Int), by omega, by omega, rfl⟩

/-- The sum of R164 over `n` inputs: each times a point of the unit circle, of which `turn` says how far round it lies. -/
def fourierSum (xs : List CInt) (n : Nat) (turn : Nat → Nat) : CInt :=
  (List.range n).foldl (fun (a : CInt) i => a.add ((xs.getD i ⟨0, 0⟩).mul (cis (turn i) (2 * n)))) ⟨0, 0⟩

/-- How far round the point of input `i` lies for output `j` of a transform of `n` inputs, in steps of half a turn by `n` (R164). -/
def transformTurn (n : Nat) (inverse half : Bool) (j i : Nat) : Nat :=
  (if inverse then 2 * j * i else 2 * n * i - 2 * j * i) + b2n half * i

def transformLane (xs : List CInt) (n : Nat) (inverse half : Bool) (scale : Int) (free j : Nat) : Lane :=
  let sum := fourierSum xs n (transformTurn n inverse half j)
  let part (v : Int) : Int := roundScale (v + 2 ^ 24) (60 + scale)
  (outPart (part sum.re) 2 (free + 2 * j), outPart (part sum.im) 2 (free + 2 * j + 1))

theorem transform_eq {xs : List CInt} {n : Nat} (hn : xs.length = n) (inverse half : Bool) (scale : Int) (free : Nat) :
    transform xs inverse half scale free = (List.range n).map (transformLane xs n inverse half scale free) := by
  subst hn
  have offset (i : Nat) : (if half = true then i else 0) = b2n half * i := by cases half <;> simp [b2n]
  simp only [transform, offset]
  rfl

/-- Output `j` of a transform lies within 2 of its formula in both parts (R164), whatever follows the outputs. -/
theorem fieldAt_transform {xs : List CInt} {n j : Nat} (hn : xs.length = n) (hj : j < n) (inverse half : Bool) (scale : Int)
    (free : Nat) (pad : List Byte) :
    let bs := partBytes (transform xs inverse half scale free) ++ pad
    let sum := fourierSum xs n (transformTurn n inverse half j)
    ∃ e f : Int, -2 ≤ e ∧ e ≤ 2 ∧ -2 ≤ f ∧ f ≤ 2 ∧
      fieldAt bs (4 * j) 2 = wrapTo 16 (clampTo 16 (roundScale (sum.re + 2 ^ 24) (60 + scale) + e)) ∧
      fieldAt bs (4 * j + 2) 2 = wrapTo 16 (clampTo 16 (roundScale (sum.im + 2 ^ 24) (60 + scale) + f)) := by
  intro bs sum
  have count : j < ((List.range n).map (transformLane xs n inverse half scale free)).length := by simpa using hj
  have lane {o w : Nat} (ho : o + w ≤ 4) :
      fieldAt bs (4 * j + o) w = fieldAt (laneBytes (transformLane xs n inverse half scale free j)) o w := by
    simp only [bs, transform_eq hn]
    rw [fieldAt_append (by rw [length_partBytes]; omega), fieldAt_partBytes count ho, List.getElem_map, List.getElem_range]
  obtain ⟨e, he, he', re⟩ := outPart_within (roundScale (sum.re + 2 ^ 24) (60 + scale)) 2 (free + 2 * j)
  obtain ⟨f, hf, hf', im⟩ := outPart_within (roundScale (sum.im + 2 ^ 24) (60 + scale)) 2 (free + 2 * j + 1)
  refine ⟨e, f, he, he', hf, hf', ?_, ?_⟩
  · rw [← Nat.add_zero (4 * j), lane (by decide), fieldAt_laneBytes_re]
    exact (congrArg (· % 2 ^ 16) re).trans (wrapTo_mod 16 _)
  · rw [lane (by decide), fieldAt_laneBytes_im]
    exact (congrArg (· % 2 ^ 16) im).trans (wrapTo_mod 16 _)

theorem length_cElems (bs : List Byte) (n : Nat) : (cElems bs n).length = n := by
  rw [cElems, List.length_map, List.length_range]

/-- The sum of R167 for element (`i`, `j`) of a product, `herm` using the first matrix as its conjugate transpose. -/
def productSum (a b : List Byte) (n : Nat) (herm : Bool) (i j : Nat) : CInt :=
  (List.range n).foldl (fun (t : CInt) l =>
    t.add ((if herm then (elemAt a l i).conj else elemAt a i l).mul (elemAt b l j))) ⟨0, 0⟩

/-- A lane of a product: exact up to the last column, free beyond it. -/
def productLane (a b : List Byte) (n p : Nat) (herm : Bool) (scale : Int) (free i j : Nat) : Lane :=
  if j < p then
    (exactPart (roundScale (productSum a b n herm i j).re (15 + scale)), exactPart (roundScale (productSum a b n herm i j).im (15 + scale)))
  else ((Config.freeValue (free + 32 * i + 2 * j) % 2 ^ 16, false), (Config.freeValue (free + 32 * i + 2 * j + 1) % 2 ^ 16, false))

theorem matMul_fst (a b : List Byte) (m n p : Nat) (herm : Bool) (scale : Int) (free : Nat) :
    (matMul a b m n p herm scale free).1 = (laneRows m (productLane a b n p herm scale free)).flatMap partBytes := rfl

section
variable {a b : List Byte} {m n p i j : Nat} {herm : Bool} {scale : Int} {free : Nat} (hi : i < m) (hj : j < p) (hp : p ≤ 16)
include hi hj hp

theorem fieldAt_matMul_re : fieldAt (matMul a b m n p herm scale free).1 (64 * i + 4 * j) 2 =
    wrapTo 16 (clampTo 16 (roundScale (productSum a b n herm i j).re (15 + scale))) := by
  rw [matMul_fst, ← Nat.add_zero (64 * i + 4 * j), fieldAt_laneRows hi (by omega) (by decide), fieldAt_laneBytes_re, productLane,
    if_pos hj, exactPart, wrapTo_mod]

theorem fieldAt_matMul_im : fieldAt (matMul a b m n p herm scale free).1 (64 * i + 4 * j + 2) 2 =
    wrapTo 16 (clampTo 16 (roundScale (productSum a b n herm i j).im (15 + scale))) := by
  rw [matMul_fst, fieldAt_laneRows hi (by omega) (by decide), fieldAt_laneBytes_im, productLane, if_pos hj, exactPart, exactPart,
    wrapTo_mod]

end

def zeroLane : Lane := ((0, false), (0, false))

/-- A lane beyond the last column: free, its values numbered from `free`. -/
def freeLane (free : Nat) : Lane := ((Config.freeValue free % 2 ^ 16, false), (Config.freeValue (free + 1) % 2 ^ 16, false))

/-- A lane of a factorisation whose pivot fails (R168). -/
def failedLane (n free i j : Nat) : Lane := if n ≤ j then freeLane (free + 32 * i + 2 * j) else zeroLane

/-- A lane of a Cholesky factor, or of the inverse, of the matrix `a` (R167). -/
def factorLane (a : CMatQ) (n : Nat) (inverse : Bool) (scale : Int) (free i j : Nat) : Lane :=
  let f := free + 32 * i + 2 * j
  let inv := hermInv (ldl a n).1 (ldl a n).2 n
  if n ≤ j then freeLane f
  else if !inverse && i < j then zeroLane
  else
    let y := if inverse then mAt inv i j
      else CRat.scale (sqrtQ ((ldl a n).2.getD j 0)) (((ldl a n).1.getD j []).getD i CRat.zero)
    (outPart (fracPart y.re scale) (errBound a inv) f, outPart (fracPart y.im scale) (errBound a inv) (f + 1))

/-- Above the diagonal, a Cholesky factor is 0. -/
theorem factorLane_upper {a : CMatQ} {n i j : Nat} {scale : Int} {free : Nat} (hj : j < n) (hij : i < j) :
    factorLane a n false scale free i j = zeroLane := by
  simp only [factorLane, Nat.not_le.mpr hj, hij, if_false, Bool.not_false, decide_true, Bool.and_self, if_true]

section
variable {bs : List Byte} {n : Nat} {inverse : Bool} {scale : Int} {free : Nat}

theorem factor_of_fails (h : pivotFails (hermOf bs n) n (ldl (hermOf bs n) n).2 = true) :
    factor bs n inverse scale free = ((laneRows n (failedLane n free)).flatMap partBytes, false, true) := by
  simp only [factor, h, if_true]
  rfl

theorem factor_of_holds (h : pivotFails (hermOf bs n) n (ldl (hermOf bs n) n).2 = false) :
    factor bs n inverse scale free = ((laneRows n (factorLane (hermOf bs n) n inverse scale free)).flatMap partBytes,
      (laneRows n (factorLane (hermOf bs n) n inverse scale free)).any anySat, false) := by
  simp only [factor, h, Bool.false_eq_true, if_false]
  rfl

end

/-- A lane that is 0 holds zeros in its row. -/
theorem fieldAt_laneRows_zero {m i j : Nat} {lane : Nat → Nat → Lane} (hi : i < m) (hj : j < 16) (h : lane i j = zeroLane) :
    fieldAt ((laneRows m lane).flatMap partBytes) (64 * i + 4 * j) 4 = 0 := by
  rw [← Nat.add_zero (64 * i + 4 * j), fieldAt_laneRows hi hj (by decide), h]
  decide

/-! ### The result of a command -/

namespace State

theorem copResult_transform (x : CopCmd) (free : Nat) : ∃ pad, (copResult 0 x free).bytes =
    partBytes (transform (cElems x.inBytes (cmdParam x.words + 1)) (cmdOpc x.words = 2 || cmdOpc x.words = 4)
      (bit (cmdOpt x.words) 0) (cmdScale x.words) free) ++ pad := by
  simp only [copResult, if_true]
  by_cases hm : cmdMem x.words = true
  · exact ⟨[], by rw [if_pos hm, List.append_nil]⟩
  · exact ⟨_, if_neg hm⟩

theorem copResult_product {x : CopCmd} (h : cmdOpc x.words = 0x10) (free : Nat) :
    let p := cmdParam x.words
    let herm := bit (cmdOpt x.words) 0
    (copResult 1 x free).bytes = (matMul x.inBytes
      (x.inBytes.drop (64 * if herm = true then bits p 4 4 + 1 else bits p 8 4 + 1)) (bits p 8 4 + 1) (bits p 4 4 + 1) (bits p 0 4 + 1)
      herm (cmdScale x.words) free).1 := by
  simp [copResult, matDims, cmdRegs, h]

theorem copResult_factor {x : CopCmd} (h : cmdOpc x.words ≠ 0x10) (free : Nat) :
    copResult 1 x free =
      let r := factor x.inBytes (bits (cmdParam x.words) 0 4 + 1) (cmdOpc x.words = 0x12) (cmdScale x.words) free
      ⟨r.1, r.2.1, r.2.2⟩ := by
  simp [copResult, matDims, h]

/-- The command at the head of a queue computes its result, started and without one (R164, R167). -/
theorem copCompute_head {s : State} {k u o : Nat} {x : CopCmd} {xs : List CopCmd} (hq : (s.cop k u).queue = x :: xs)
    (started : x.started = true) (fine : x.err = none) (due : x.result = none) (ho : cmdOpc x.words = o) :
    s.copCompute k u o = { s.setCop k u { s.cop k u with queue := { x with result := some (copResult u x s.free) } :: xs } with
      free := s.free + 16384 } := by
  simp [copCompute, hq, List.findIdx?_cons, started, fine, due, ho, setCmd, lset]

end State

open State in
/-- Settles O18: each command computes at the head of its queue, its result being that of its opcode. -/
theorem coprocessorsComputeTransformsAndMatrices : Obligations.CoprocessorsComputeTransformsAndMatrices := by
  intro s k u x xs hq started fine due w done part fourier
  have computes {c : Instr} {o : Nat} (he : exec c s = .next (s.copCompute k u o)) (ho : cmdOpc w = o) {p : CopResult → Prop}
      (hp : p (copResult u x s.free)) : done c p :=
    ⟨_, hp, he.trans (congrArg Host.Outcome.next (copCompute_head hq started fine due ho))⟩
  refine ⟨?_, ?_⟩
  · rintro rfl
    have transforms {c : Instr} {o : Nat} (he : exec c s = .next (s.copCompute k 0 o)) (ho : cmdOpc w = o) (inverse : Bool)
        (hi : (decide (o = 2) || decide (o = 4)) = inverse) {turn : Nat → Nat → Nat → Nat}
        (ht : turn = fun n j i => if inverse = true then 2 * j * i else 2 * n * i - 2 * j * i) : fourier c turn := by
      subst ht
      refine computes he ho fun j hj => ?_
      obtain ⟨pad, hb⟩ := copResult_transform x s.free
      rw [ho, hi] at hb
      have within := fieldAt_transform (length_cElems x.inBytes _) hj inverse (bit (cmdOpt w) 0) (cmdScale w) s.free pad
      rw [← hb] at within
      exact within
    clear_value fourier
    exact ⟨fun ho => transforms (c := .fft k) rfl ho false rfl rfl, fun ho => transforms (c := .ifft k) rfl ho true rfl rfl,
      fun ho => transforms (c := .dft k) rfl ho false rfl rfl, fun ho => transforms (c := .idft k) rfl ho true rfl rfl⟩
  · rintro rfl
    have columns : bits (cmdParam w) 0 4 + 1 ≤ 16 := bits_lt _ _ 4
    refine ⟨fun ho => computes rfl ho fun i hi j hj => ?_, fun c o hc ho => ?_⟩
    · have hb := copResult_product ho s.free
      exact ⟨(congrArg (fieldAt · _ 2) hb).trans (fieldAt_matMul_re hi hj columns),
        (congrArg (fieldAt · _ 2) hb).trans (fieldAt_matMul_im hi hj columns)⟩
    · have row : exec c s = .next (s.copCompute k 1 o) ∧ (o = 0x11 ∨ o = 0x12) := by
        rcases List.mem_cons.mp hc with h | h
        · cases h; exact ⟨rfl, .inl rfl⟩
        · cases List.mem_singleton.mp h; exact ⟨rfl, .inr rfl⟩
      obtain ⟨he, opcode⟩ := row
      refine computes he ho ?_
      have noProduct : cmdOpc w ≠ 0x10 := by omega
      rw [show copResult (1 : UnitId) x s.free = _ from copResult_factor noProduct s.free]
      refine ⟨fun fails => ?_, fun holds => ?_⟩
      · rw [factor_of_fails fails]
        exact ⟨rfl, rfl, length_laneRows, fun i hi j hj =>
          fieldAt_laneRows_zero hi (hj.trans_le columns) (if_neg (Nat.not_le.mpr hj))⟩
      · rw [factor_of_holds holds]
        refine ⟨rfl, length_laneRows, fun lower i hi j hj hij => ?_⟩
        have noInverse : cmdOpc w ≠ 0x12 := by omega
        rw [decide_eq_false noInverse]
        exact fieldAt_laneRows_zero hi (hj.trans_le columns) (factorLane_upper hj hij)

end Sys2Proof.Machine
end

section
/-! Remote commands, context windows, trigger slots and bindings (R153 to R162, R173). -/

namespace Sys2Proof.Machine

/-! ### The words of a command intake -/

theorem wordsVal_lt (ws : List Word) : wordsVal ws < 2 ^ (32 * ws.length) := by
  induction ws with
  | nil => exact Nat.one_pos
  | cons w ws ih =>
    have low := w.isLt
    rw [wordsVal, List.length_cons, Nat.mul_succ, Nat.add_comm (32 * _), Nat.pow_add]
    omega

theorem leWords_wordsVal (ws : List Word) (v : Nat) : leWords ws.length (wordsVal ws + 2 ^ (32 * ws.length) * v) = ws := by
  induction ws generalizing v with
  | nil => rfl
  | cons w ws ih =>
    have low := w.isLt
    have split : wordsVal (w :: ws) + 2 ^ (32 * (w :: ws).length) * v = w.toNat + 2 ^ 32 * (wordsVal ws + 2 ^ (32 * ws.length) * v) := by
      rw [wordsVal, List.length_cons, Nat.mul_succ, Nat.add_comm (32 * _), Nat.pow_add]
      ring
    rw [List.length_cons, leWords, ← List.length_cons (a := w), split, Nat.shiftRight_eq_div_pow,
      Nat.add_mul_div_left _ _ (by decide), Nat.div_eq_of_lt low, Nat.zero_add, ih]
    congr 1
    exact BitVec.eq_of_toNat_eq (by rw [BitVec.toNat_ofNat, Nat.add_mul_mod_self_left, Nat.mod_eq_of_lt low])

/-- The bits beyond the words. -/
theorem bits_wordsVal (ws : List Word) (v i len : Nat) :
    bits (wordsVal ws + 2 ^ (32 * ws.length) * v) (32 * ws.length + i) len = bits v i len := by
  rw [bits, Nat.shiftRight_add, Nat.shiftRight_eq_div_pow _ (32 * ws.length), Nat.add_mul_div_left _ _ (Nat.two_pow_pos _),
    Nat.div_eq_of_lt (wordsVal_lt ws), Nat.zero_add, bits]

/-! ### A register in a context window -/

/-- Where context register `r` of context 32 + `i` of unit `u` of cluster `k` shows (R159). -/
def windowAddr (k u i r : Nat) : Nat := cxBase k + 0x8000 + 0x4000 * u + 0x800 * i + 0x40 * r

namespace State

theorem window_fields {u i r : Nat} (hu : u < 2) (hi : i < 8) (hr : r < 32) :
    let o := 0x8000 + 0x4000 * u + 0x800 * i + 0x40 * r
    bits o 14 1 = u ∧ bits o 11 3 = i ∧ bits o 6 5 = r := by
  simp only [bits, Nat.shiftRight_eq_div_pow]
  omega

section
variable {k u i r : Nat} (hk : k < 24) (hu : u < 2) (hi : i < 8) (hr : r < 32)
include hk hu hi hr

theorem windowAddr_parts : 0x200000000 ≤ windowAddr k u i r ∧ windowAddr k u i r < 0x200000000 + 24 * 0x1000000 ∧
    (windowAddr k u i r - 0x200000000) / 0x1000000 = k ∧
    windowAddr k u i r % 0x1000000 = 0x800000 + (0x8000 + 0x4000 * u + 0x800 * i + 0x40 * r) ∧ windowAddr k u i r % 64 = 0 := by
  unfold windowAddr cxBase
  omega

/-- No unit refuses an access to a window of a coprocessor whose domain is on (R523). -/
theorem unitRefuses_window {s : State} (on : s.domOn (copDom k u) = true) (src tag : Nat) :
    s.unitRefuses src tag (windowAddr k u i r) = none := by
  obtain ⟨above, below, cluster, offset, -⟩ := windowAddr_parts hk hu hi hr
  have awake : s.unitAsleep (windowAddr k u i r) = none := by
    have unit : (0x8000 + 0x4000 * u + 0x800 * i + 0x40 * r) / 0x4000 % 2 = u := by omega
    unfold unitAsleep
    simp only [offset, cluster, Nat.add_sub_cancel_left, unit]
    rw [if_neg (by omega), if_pos (by omega), if_neg (by omega), if_neg (by omega), if_pos (by omega)]
    simp only [on, if_true]
  unfold unitRefuses
  rw [awake]
  exact if_neg (by omega)

/-- A read of a register that no queued command will write or read, and whose words are clean, returns it (R159). -/
theorem targetRead_window {s : State}
    (clean : ∀ w < 8, sget (s.cop k u).bad (8 * ((32 + i) * 32 + r) + w) none = none)
    (unwritten : s.crW k u (32 + i) r = false) (unread : s.crR k u (32 + i) r = false) :
    s.targetRead (windowAddr k u i r) 64 = (stOk, leBytes 64 (s.getCR k u (32 + i) r).toNat, s) := by
  obtain ⟨above, below, cluster, offset, aligned⟩ := windowAddr_parts hk hu hi hr
  obtain ⟨unit, context, register⟩ := window_fields hu hi hr
  have line : windowAddr k u i r / 64 * 64 = windowAddr k u i r := by omega
  have noMemory : memLoc s.ddrGiB (windowAddr k u i r) = none := by
    unfold memLoc
    rw [if_neg (by omega), if_pos (by omega)]
    exact if_neg (by omega)
  have noEthernet : ethWinOf (windowAddr k u i r) = none := by
    unfold ethWinOf
    rw [if_neg (by omega), if_neg (by omega)]
  have noCarriage : cpOf (windowAddr k u i r) = none := if_neg (by omega)
  have noHazard : s.hazard k u (32 + i) r = s := by simp [hazard, unwritten, unread]
  unfold targetRead
  rw [if_neg (by omega), if_neg (by unfold nvBase; omega), if_neg (by omega)]
  simp only [noMemory, noEthernet, noCarriage, Option.filter_none]
  rw [if_pos (by omega)]
  simp only [line, cluster, offset, Nat.add_sub_cancel_left, unit, context, register, noHazard, crDecode_clean clean, if_true, Nat.sub_self,
    List.drop_zero, List.take_of_length_le (length_leBytes 64 _).le]

theorem lineRead_window {s : State} {src tag : Nat} (passes : s.gate src tag (windowAddr k u i r) = (none, k, s))
    (on : s.domOn (copDom k u) = true)
    (clean : ∀ w < 8, sget (s.cop k u).bad (8 * ((32 + i) * 32 + r) + w) none = none)
    (unwritten : s.crW k u (32 + i) r = false) (unread : s.crR k u (32 + i) r = false) :
    s.lineRead src tag (windowAddr k u i r) 64 = (stOk, k, leBytes 64 (s.getCR k u (32 + i) r).toNat, s) := by
  obtain ⟨-, below, -, -, aligned⟩ := windowAddr_parts hk hu hi hr
  have line : windowAddr k u i r / 64 * 64 = windowAddr k u i r := by omega
  simp only [lineRead, passes, unitRefuses_window hk hu hi hr on]
  rw [if_neg (by omega), line, targetRead_window hk hu hi hr clean unwritten unread, aligned, List.drop_zero,
    List.take_of_length_le (length_leBytes 64 _).le]

end

section
variable {s : State}

/-- A command that a core's own binding admits enters the queue of the bound context (R154). -/
theorem intakeCommand_bound {k u src n d ctx : Nat} {words : List Word} (hs : src < 24) (hb : s.boundCtx k u n d = some ctx)
    (room : ((s.cop k u).queue.filter fun x => x.ctx = ctx && isRemote x).length < 2) :
    s.intakeCommand k u src n d words = (false, s.copEnter k u (newCmd words ctx (.remote n d) true)) := by
  simp only [intakeCommand, Nat.not_le.mpr hs, if_false, hb, Nat.not_le.mpr room]

theorem intakeNotice_known {k src u n d tag target detail addr : Nat} {t : CopTag} (hs : src < 24) (hn : n / 8 = k)
    (ht : (s.core n).tags.find? (fun t => t.u = u && t.depth = d && t.tag = tag && t.remote = some target) = some t) :
    s.intakeNotice k src u n d tag target detail addr = if detail = 0 then s.freeTag n u d tag (some target)
      else (s.freeTag n u d tag (some target)).deferCop n u d t.task tag detail addr := by
  simp only [intakeNotice, Nat.not_le.mpr hs, if_false, notice, hn, ne_eq, not_true_eq_false, ht]

theorem tagTimeout_remote {n u d tag far : Nat} {t : CopTag}
    (ht : (s.core n).tags.find? (fun t => t.u = u && t.depth = d && t.tag = tag && t.remote.isSome && t.since.isSome) = some t)
    (hr : t.remote = some far) :
    s.tagTimeout n u d tag = (s.freeTag n u d tag (some far)).deferCop n u d t.task tag 7 (cxBase far) := by
  simp only [tagTimeout, ht, hr, Option.getD_some]

/-- The one deferred coprocessor error of the running task is taken at a bundle boundary (R172). -/
theorem copDeferred_taken {n : Nat} {d : DefExc} (hd : (s.core n).defer = [d]) (code : d.exc.code = 8)
    (task : sget (s.core n).tasks d.depth 0 = d.task) (running : (s.core n).run = .running) (depth : (s.core n).depth = d.depth)
    (free : s.handling n = false) (boundary : s.atBoundary n = true) :
    s.copDeferred n = (s.setCore n { s.core n with defer := [] }).takeAtBoundary n d.exc := by
  simp [copDeferred, hd, code, task, running, depth, free, boundary, ldrop1]

/-- Whether trigger slot `t` takes pulses: enabled, for a context that its unit offers and no core is bound to (R160). -/
def slotReady (s : State) (k u t : Nat) : Prop :=
  s.rb (CX_TRIGCTL.adr k u t) CX_TRIGCTL.EN = true ∧ 32 ≤ s.rf (CX_TRIGCTL.adr k u t) CX_TRIGCTL.CTX ∧
    s.rf (CX_TRIGCTL.adr k u t) CX_TRIGCTL.CTX < 40 ∧
    s.rb (CX_BIND.adr k u (s.rf (CX_TRIGCTL.adr k u t) CX_TRIGCTL.CTX - 32)) CX_BIND.VALID = false

theorem triggerPulse_notReady {k u t c : Nat} (h : ¬s.slotReady k u t) :
    s.triggerPulse k u t c = s.raise 0x0205 (192 + 2 * k + u) t c 0 := by
  refine if_pos ?_
  simp only [Bool.not_eq_true', Bool.and_eq_false_imp, Bool.and_eq_true, decide_eq_true_eq, Bool.not_eq_false']
  simp only [slotReady, not_and, Bool.not_eq_false] at h
  exact fun ⟨⟨en, lo⟩, hi⟩ => h en lo hi

theorem triggerPulse_ready {k u t c : Nat} (h : s.slotReady k u t) :
    s.triggerPulse k u t c =
      let a := CX_TRIGCTL.adr k u t
      let now := if s.rf a CX_TRIGCTL.PEND = 0 then min c (32 - s.sharedFill k u) else 0
      let rest := s.rf a CX_TRIGCTL.PEND + (c - now)
      if rest ≤ 0xFFFF then (upto now (fun _ v => v.slotIssue k u t) s).wf a CX_TRIGCTL.PEND rest
      else (s.wf a CX_TRIGCTL.LOST 1).raise 0x0204 (192 + 2 * k + u) t c 0 := by
  obtain ⟨en, lo, hi, unbound⟩ := h
  refine if_neg ?_
  simp [en, lo, hi, unbound]

theorem triggerEnter_waiting {k u t : Nat} (waiting : 0 < s.rf (CX_TRIGCTL.adr k u t) CX_TRIGCTL.PEND) (room : s.sharedFill k u < 32) :
    s.triggerEnter k u t =
      (s.wf (CX_TRIGCTL.adr k u t) CX_TRIGCTL.PEND (s.rf (CX_TRIGCTL.adr k u t) CX_TRIGCTL.PEND - 1)).slotIssue k u t :=
  if_neg (by omega)

theorem bindApply_idle {k u i w : Nat} (hb : sget (s.cop k u).bind i none = some w) (idle : s.ctxBusy k u (32 + i) = false) :
    s.bindApply k u i = (s.setCop k u { s.cop k u with bind := sput (s.cop k u).bind i none none }).setReg (CX_BIND.adr k u i) w := by
  simp only [bindApply, hb, idle, Bool.false_eq_true, if_false]

/-- The command of an intake write, as its line carries it: words, core and depth (R154). -/
theorem portCommand_bound {k u src : Nat} {core : BitVec 8} {depth : BitVec 2} {w0 w1 w2 w3 : Word} {ctx : Nat} (hs : src < 24)
    (hb : s.boundCtx k u core.toNat depth.toNat = some ctx)
    (room : ((s.cop k u).queue.filter fun x => x.ctx = ctx && isRemote x).length < 2) :
    s.portCommand k u src (wordsVal [w0, w1, w2, w3] + 2 ^ 128 * (core.toNat + 256 * depth.toNat)) =
      s.copEnter k u (newCmd [w0, w1, w2, w3] ctx (.remote core.toNat depth.toNat) true) := by
  have hc := core.isLt
  have hd := depth.isLt
  have words := leWords_wordsVal [w0, w1, w2, w3] (core.toNat + 256 * depth.toNat)
  have issuer := bits_wordsVal [w0, w1, w2, w3] (core.toNat + 256 * depth.toNat) 0 8
  have level := bits_wordsVal [w0, w1, w2, w3] (core.toNat + 256 * depth.toNat) 8 2
  have low : bits (core.toNat + 256 * depth.toNat) 0 8 = core.toNat := by simp only [bits, Nat.shiftRight_eq_div_pow]; omega
  have high : bits (core.toNat + 256 * depth.toNat) 8 2 = depth.toNat := by simp only [bits, Nat.shiftRight_eq_div_pow]; omega
  simp only [List.length_cons, List.length_nil, Nat.zero_add, Nat.reduceAdd, Nat.reduceMul, Nat.add_zero] at words issuer level
  simp only [portCommand, words, issuer, level, low, high, intakeCommand_bound hs hb room, Bool.false_eq_true, false_and, if_false]

end

end State

theorem exec_contextWindowAccess_read {s t : State} {src : SrcId} {tag : BitVec 8} {k : ClusterId} {u : UnitId} {i : Fin 8} {r : Fin 32}
    {st isl : Nat} {d : List Byte} (h : s.lineRead src tag.toNat (windowAddr k u i r) 64 = (st, isl, d, t)) :
    exec (.contextWindowAccess src tag k u i r none) s = .next (t.respond src tag.toNat (windowAddr k u i r) st isl d) := by
  have read : exec (.contextWindowAccess src tag k u i r none) s = execContextWindowAccess src tag k u i r none s := rfl
  unfold windowAddr at h ⊢
  rw [read]
  simp only [execContextWindowAccess, h]

open State in
/-- Settles O19: each command is the equation of what it does with an intake, a tag, a window, a deferred error, a trigger slot or a
binding. -/
theorem remoteCommandsTriggersAndBindingsAct : Obligations.RemoteCommandsTriggersAndBindingsAct := by
  refine ⟨fun s k n u depth => ⟨?_, ?_, ?_, ?_, ?_⟩, fun s k u slot => ⟨fun count => ⟨?_, ?_⟩, ?_, ?_⟩⟩
  · intro src core w0 w1 w2 w3 ctx hs hb room
    exact congrArg Host.Outcome.next (portCommand_bound hs hb room)
  · intro src core tag target why a t hs hn ht v
    have none_ : why.toNat = 0 ↔ why = 0 := (BitVec.toNat_eq (x := why) (y := 0)).symm
    refine congrArg Host.Outcome.next ((intakeNotice_known hs hn ht).trans ?_)
    simp only [none_]
    rfl
  · intro tag t far ht hr v
    exact congrArg Host.Outcome.next (tagTimeout_remote ht hr)
  · intro src tag ix r a passes _ on clean unwritten unread
    exact exec_contextWindowAccess_read (lineRead_window k.isLt u.isLt ix.isLt r.isLt passes on clean unwritten unread)
  · intro d hd code task running depth _ free boundary
    exact congrArg Host.Outcome.next (copDeferred_taken hd code task running depth free boundary)
  · exact fun h => congrArg Host.Outcome.next (triggerPulse_notReady h)
  · exact fun h => congrArg Host.Outcome.next (triggerPulse_ready h)
  · exact fun waiting room => congrArg Host.Outcome.next (triggerEnter_waiting waiting room)
  · exact fun ix w hb idle => congrArg Host.Outcome.next (bindApply_idle hb idle)

end Sys2Proof.Machine
end


section
/-! Writes to the ports and registers of a region (R86, R175, R266): they reach the target island, and their one enabled field of bytes
acts there. -/

namespace Sys2Proof.Machine

/-! ### One field of a line -/

/-- The enables of the `n` bytes from byte `n * j`. -/
theorem bit_ones_mul {n : Nat} (hn : 0 < n) (j i : Nat) : bit ((2 ^ n - 1) * 2 ^ (n * j)) i = decide (i / n = j) := by
  have field := testBit_bits_mul (2 ^ n - 1) 0 j i hn
  have whole : bits (2 ^ n - 1) 0 n = 2 ^ n - 1 := Nat.mod_eq_of_lt (Nat.sub_lt (Nat.two_pow_pos n) Nat.one_pos)
  rw [whole, Nat.zero_add, Nat.testBit_two_pow_sub_one, decide_eq_true (Nat.mod_lt i hn), Bool.and_true] at field
  rw [bit_eq_testBit, field]

section
variable {n : Nat} (hn : 0 < n) (j : Nat)
include hn

theorem allEn_same : State.allEn ((2 ^ n - 1) * 2 ^ (n * j)) (n * j) n = true := by
  refine List.all_eq_true.mpr fun i hi => ?_
  rw [bit_ones_mul hn, Nat.mul_add_div hn, Nat.div_eq_of_lt (List.mem_range.mp hi), Nat.add_zero, decide_eq_true rfl]

theorem anyEn_other {i : Nat} (h : i ≠ j) : State.anyEn ((2 ^ n - 1) * 2 ^ (n * j)) (n * i) n = false := by
  refine List.any_eq_false.mpr fun b hb => ?_
  rw [bit_ones_mul hn, Nat.mul_add_div hn, Nat.div_eq_of_lt (List.mem_range.mp hb), Nat.add_zero, decide_eq_false h]
  exact Bool.false_ne_true

end

theorem anyEn_of_allEn {en lo n : Nat} (hn : 0 < n) (h : State.allEn en lo n = true) : State.anyEn en lo n = true :=
  List.any_eq_true.mpr ⟨0, List.mem_range.mpr hn, List.all_eq_true.mp h 0 (List.mem_range.mpr hn)⟩

theorem allEn_false_of_anyEn {en lo n : Nat} (hn : 0 < n) (h : State.anyEn en lo n = false) : State.allEn en lo n = false :=
  Bool.eq_false_iff.mpr fun all => by rw [anyEn_of_allEn hn all] at h; exact Bool.noConfusion h

theorem bits_mul_two_pow (v k len : Nat) : bits (v * 2 ^ k) k len = v % 2 ^ len := by
  rw [bits, Nat.shiftRight_eq_div_pow, Nat.mul_div_cancel _ (Nat.two_pow_pos k)]

section
variable {σ : Type} {n : Nat} {f : Nat → σ → σ}

theorem upto_succ (n : Nat) (f : Nat → σ → σ) (s : σ) : upto (n + 1) f s = f n (upto n f s) := by
  simp only [upto, List.range_succ, List.foldl_append, List.foldl_cons, List.foldl_nil]

theorem upto_fixed (h : ∀ i < n, ∀ s, f i s = s) (s : σ) : upto n f s = s := by
  induction n with
  | zero => rfl
  | succ n ih => rw [upto_succ, h n (Nat.lt_succ_self n), ih fun i hi => h i (Nat.lt_succ_of_lt hi)]

/-- Of the numbers below `n`, only `k` does anything. -/
theorem upto_only {k : Nat} (hk : k < n) (h : ∀ i < n, i ≠ k → ∀ s, f i s = s) (s : σ) : upto n f s = f k s := by
  induction n with
  | zero => exact absurd hk (Nat.not_lt_zero k)
  | succ n ih =>
    rw [upto_succ]
    by_cases hkn : k = n
    · rw [hkn, upto_fixed fun i hi => h i (Nat.lt_succ_of_lt hi) (by omega)]
    · rw [h n (Nat.lt_succ_self n) (Ne.symm hkn), ih (by omega) fun i hi => h i (Nat.lt_succ_of_lt hi)]

end

/-! ### The ports and registers of a region -/

/-- Byte `a` lies in a region's block, beyond its pool memory (R86). -/
def RegionPort (a : Nat) : Prop := 0x300000000 ≤ a ∧ a < 0x304000000 ∧ 0x800000 ≤ a % 0x1000000

section
variable {a : Nat} (ha : RegionPort a)
include ha

theorem RegionPort.memLoc (gib : Nat) : memLoc gib a = none := by
  obtain ⟨low, high, port⟩ := ha
  unfold Machine.memLoc
  rw [if_neg (by omega), if_neg (by omega), if_pos (by omega)]
  exact if_neg (by omega)

theorem RegionPort.islandAt_slice (gib : Nat) {r : Nat} (hl : 0x300C00000 + 0x1000000 * r ≤ a) (hh : a < 0x300D00000 + 0x1000000 * r) :
    islandAt gib a = some (28 + r) := by
  obtain ⟨low, high, port⟩ := ha
  have region : (a - 0x300000000) / 0x1000000 = r := by omega
  unfold islandAt
  rw [if_neg (by omega), if_neg (by omega), if_neg (by omega), if_pos (by omega)]
  simp only [region]
  rw [if_neg (by omega), if_neg (by omega), if_pos (by omega)]

theorem RegionPort.islandAt_group (gib : Nat) {r : Nat} (hl : 0x300800000 + 0x1000000 * r ≤ a) (hh : a < 0x300900000 + 0x1000000 * r) :
    islandAt gib a = some (24 + r) := by
  obtain ⟨low, high, port⟩ := ha
  have region : (a - 0x300000000) / 0x1000000 = r := by omega
  unfold islandAt
  rw [if_neg (by omega), if_neg (by omega), if_neg (by omega), if_pos (by omega)]
  simp only [region]
  rw [if_neg (by omega), if_pos (by omega)]

/-- No unit inside an island answers there. -/
theorem RegionPort.unitRefuses (s : State) (src tag : Nat) : s.unitRefuses src tag a = none := by
  obtain ⟨low, high, port⟩ := ha
  have awake : s.unitAsleep a = none := by
    unfold State.unitAsleep
    rw [if_neg (by omega), if_neg (by omega)]
  unfold State.unitRefuses
  rw [awake]
  exact if_neg (by omega)

end

namespace State

/-- The network takes no notice of free values. -/
theorem gate_drawn (s : State) (src tag a : Nat) : (s.drawn.gate src tag a).1 = (s.gate src tag a).1 := by
  have accepted_ (t : Nat) : s.drawn.accepted t src tag a = s.accepted t src tag a := rfl
  have islands_ : s.drawn.isl = s.isl := rfl
  have dead : s.drawn.deadIsl = s.deadIsl := rfl
  have memory : s.drawn.ddrGiB = s.ddrGiB := rfl
  unfold gate
  simp only [accepted_, islands_, dead, memory]
  split
  · split <;> rfl
  · split
    · rfl
    · split
      · rfl
      · split
        · rfl
        · split
          · split <;> rfl
          · rfl

theorem gate_of_wayOpen {s : State} {src a t : Nat} (h : s.wayOpen src a) (ht : islandAt s.ddrGiB a = some t) (tag : Nat) :
    s.drawn.gate src tag a = (none, t, s.drawn) := by
  obtain ⟨t', hg⟩ := gate_none ((gate_drawn s src tag a).trans (h tag))
  have target : islandAt s.ddrGiB a = some t' := islandAt_of_gate (s := s.drawn) hg
  rw [hg, Option.some.inj (ht.symm.trans target)]

section
variable {s : State} {src a : Nat} (ha : RegionPort a) (open_ : s.wayOpen src a)
include ha open_

/-- A write to a slice that its bridge does not hold has its effect (R69). -/
theorem lineWrite_slice {r : Nat} (hl : 0x300C00000 + 0x1000000 * r ≤ a) (hh : a < 0x300D00000 + 0x1000000 * r) {k : WrKind}
    {en data : Nat} (free : s.mustHold r src a en data = false) (tag : Nat) :
    s.drawn.lineWrite src tag a k en data = (stOk, 28 + r, s.drawn.devLine src a k en data) := by
  have passes := gate_of_wayOpen open_ (ha.islandAt_slice s.ddrGiB hl hh) tag
  have free' : s.drawn.mustHold r src a en data = false := free
  obtain ⟨-, high, -⟩ := id ha
  unfold lineWrite
  rw [passes]
  simp only [takeWrite, ha.unitRefuses, ha.memLoc, Nat.add_sub_cancel_left, free']
  rw [if_neg (by omega), if_neg (by simp)]

theorem lineWrite_group {r : Nat} (hr : r < 4) (hl : 0x300800000 + 0x1000000 * r ≤ a) (hh : a < 0x300900000 + 0x1000000 * r) (k : WrKind)
    (en data tag : Nat) : s.drawn.lineWrite src tag a k en data = (stOk, 24 + r, s.drawn.devLine src a k en data) := by
  have passes := gate_of_wayOpen open_ (ha.islandAt_group s.ddrGiB hl hh) tag
  obtain ⟨-, high, -⟩ := id ha
  unfold lineWrite
  rw [passes]
  simp only [takeWrite, ha.unitRefuses, ha.memLoc]
  rw [if_neg (by omega), if_neg (by omega)]

end

/-- The bridge of a slice holds a write that finds none of its source held there, unless it is one of INK_DECR (R69, R212). -/
theorem mustHold_other {s : State} {r src line : Nat} (alone : ((s.ink r).held.any fun h => h.src = src) = false)
    (other : line ≠ inkDecrLine r) (en data : Nat) : s.mustHold r src line en data = false := by
  simp only [mustHold, alone, decide_eq_false other, Bool.false_and, Bool.or_false]

/-- A write of `n` bytes that lie in one half line is one request (R124). -/
theorem busWrite_field (s : State) (src : Nat) {a n v : Nat} (hn : 0 < n) (hn' : n < 64) (half : a % 32 + n ≤ 32)
    (hv : v < 256 ^ n) : (s.busWrite src a (leBytes n v)).2 =
      (s.drawn.lineWrite src (s.draw 8).1 (a - a % 64) .part ((2 ^ n - 1) * 2 ^ (a % 64)) (v * 2 ^ (8 * (a % 64)))).2.2 := by
  have long : (leBytes n v).length = n := length_leBytes n v
  have some_ : leBytes n v ≠ [] := fun h => by rw [h] at long; exact absurd long (Nat.ne_of_lt hn)
  have few : ¬n = 64 := by omega
  rw [busWrite_line s src a (leBytes n v) some_ (.inr (by rw [long]; exact half)), long, if_neg few, leVal_leBytes, Nat.mod_eq_of_lt hv]

/-! ### What a write does there -/

section
variable (s : State) {r : Nat} (hr : r < 4) (src : Nat) (k : WrKind) (en data : Nat)
include hr

theorem devLine_submit (he : en ≠ 0) :
    s.devLine src (inkBase r + 0x1000) k en data = s.submit r src (k = .whole) (leWords 16 data) := by
  have region : (inkBase r + 0x1000 - 0x300000000) / 0x1000000 = r := by unfold inkBase; omega
  have offset : (inkBase r + 0x1000) % 0x1000000 = 0xC01000 := by unfold inkBase; omega
  have block : 0x300000000 ≤ inkBase r + 0x1000 ∧ inkBase r + 0x1000 < 0x300000000 + 4 * 0x1000000 := by unfold inkBase; omega
  unfold devLine
  rw [if_neg (by omega), if_pos block]
  simp only [region, offset, if_true, if_neg he]

theorem devLine_intake {line : Nat} (hl : line = 0x300801000 + 0x1000000 * r ∨ line = 0x300801040 + 0x1000000 * r) :
    s.devLine src line k en data = s.raIntakeLine r src line en data := by
  have region : (line - 0x300000000) / 0x1000000 = r := by omega
  have block : 0x300000000 ≤ line ∧ line < 0x300000000 + 4 * 0x1000000 := by omega
  unfold devLine
  rw [if_neg (by omega), if_pos block]
  simp only [region]
  rw [if_neg (by omega), if_neg (by omega), if_pos (by omega)]

/-- The lines of a slice's flows, limits and units are lines of registers. -/
theorem devLine_slice {line : Nat} (hl : 0x300C02000 + 0x1000000 * r ≤ line) (hh : line < 0x300D00000 + 0x1000000 * r) :
    s.devLine src line k en data = s.regsLine src line en data := by
  have block : 0x300000000 ≤ line ∧ line < 0x300000000 + 4 * 0x1000000 := by omega
  unfold devLine
  rw [if_neg (by omega), if_pos block]
  dsimp only
  rw [if_neg (by omega), if_neg (by omega), if_neg (by omega)]

end

/-- A write of one word of a line of one-word registers is a write of the register there (R641). -/
theorem regsLine_word (s : State) (src : Nat) {line j v : Nat} {row : RegRow} {ix : List Nat} (hj : j < 16) (hv : v < 2 ^ 32)
    (words : ∀ i < 16, ∀ x ∈ regFind (line + 4 * i), x.1.words = 1) (found : regFind (line + 4 * j) = some (row, ix, 0)) :
    s.regsLine src line (15 * 2 ^ (4 * j)) (v * 2 ^ (32 * j)) = s.regWrite src row ix v 15 := by
  have one : row.words = 1 := words j hj _ found
  have enabled : anyEn (15 * 2 ^ (4 * j)) (4 * j) 4 = true := anyEn_of_allEn (by decide) (allEn_same (n := 4) (by decide) j)
  have pass (p : RegRow → Bool) (s : State) : s.regsPass p src line (15 * 2 ^ (4 * j)) (v * 2 ^ (32 * j)) =
      if p row = true then s.regWrite src row ix v 15 else s := by
    unfold regsPass
    rw [upto_only hj fun i hi hij t => ?_]
    · simp only [found, one, Nat.mul_one, enabled, bits_mul_two_pow, Nat.mod_eq_of_lt hv, Bool.and_true, Nat.reducePow, Nat.reduceMod]
    · have idle : anyEn (15 * 2 ^ (4 * j)) (4 * i) 4 = false := anyEn_other (n := 4) (by decide) j hij
      split
      · next row' ix' h =>
        have one' : row'.words = 1 := words i hi _ h
        simp only [one', Nat.mul_one, idle, Bool.and_false, Bool.false_eq_true, if_false]
      · rfl
  simp only [regsLine, pass]
  cases flagsOnly row <;> rfl

/-- A write of the 8 bytes of engine `e` in RA_INTAKE is an intake of that engine and no other (R266). -/
theorem raIntakeLine_engine (s : State) {r e : Nat} (he : e < 12) (src : Nat) {entry : Nat} (hn : entry < 2 ^ 48) :
    s.raIntakeLine r src (0x300801000 + 0x1000000 * r + 8 * e / 64 * 64) (255 * 2 ^ (8 * (e % 8))) (entry * 2 ^ (64 * (e % 8))) =
      s.intakeJob r e src entry := by
  have first : ((0x300801000 + 0x1000000 * r + 8 * e / 64 * 64) % 0x1000000 - 0x801000) / 8 = e / 8 * 8 := by omega
  have engine_ : e / 8 * 8 + e % 8 = e := Nat.div_add_mod' e 8
  have beyond : ¬12 ≤ e := by omega
  have all : allEn (255 * 2 ^ (8 * (e % 8))) (8 * (e % 8)) 8 = true := allEn_same (n := 8) (by decide) (e % 8)
  unfold raIntakeLine
  rw [upto_only (Nat.mod_lt e (by decide)) fun i hi hij t => ?_]
  · simp only [first, engine_, if_neg beyond, all, if_true, bits_mul_two_pow, Nat.mod_eq_of_lt hn]
  · have none_ : anyEn (255 * 2 ^ (8 * (e % 8))) (8 * i) 8 = false := anyEn_other (n := 8) (by decide) (e % 8) hij
    simp only [none_, allEn_false_of_anyEn (by decide) none_, Bool.false_eq_true, if_false, and_false, ite_self]

end State

end Sys2Proof.Machine
end

section
/-! Submissions and credits (R179 to R185). -/

namespace Sys2Proof.Machine

namespace State

/-- A write of INK_SUBMIT that nothing stops or holds. -/
theorem execInkSubmit_eq {s : State} {r : RegionId} {src : SrcId} (open_ : s.wayOpen src (inkBase r + 0x1000))
    (alone : ((s.ink r).held.any fun h => h.src = src) = false) (whole : Bool) (data : Line) :
    exec (.inkSubmit r src whole data) s = .next (s.drawn.submit r src whole (leWords 16 data.toNat)) := by
  have hr := r.isLt
  have port : RegionPort (inkBase r + 0x1000) := by unfold RegionPort inkBase; omega
  have free := mustHold_other alone (line := inkBase r + 0x1000) (by unfold inkBase inkDecrLine; omega) (2 ^ 64 - 1) data.toNat
  have taken := lineWrite_slice port open_ (by unfold inkBase; omega) (by unfold inkBase; omega) (k := if whole then .whole else .burst)
    free (s.draw 8).1
  have kind : decide ((if whole = true then WrKind.whole else .burst) = .whole) = whole := by cases whole <;> rfl
  have arm : exec (.inkSubmit r src whole data) s = execInkSubmit r src whole data s := rfl
  have tagged : s.draw 8 = ((s.draw 8).1, s.drawn) := rfl
  rw [arm, execInkSubmit, tagged]
  simp only [taken]
  rw [devLine_submit _ hr _ _ _ _ (by decide), kind]

/-! ### A submission, by what it meets -/

section
variable {s : State} {r src : Nat} {d : List Word}

theorem submit_stranger {whole : Bool} (h : creditWindow src = 0 ∨ whole = false) :
    s.submit r src whole d = s.raise 0x0301 (704 + r) (taskId d) src 8 :=
  if_pos (by simpa using h)

variable (hw : creditWindow src ≠ 0)
include hw

theorem submit_unpaid (hc : s.credit r src = 0) : s.submit r src true d = s.raise 0x0301 (704 + r) (taskId d) src 9 := by
  simp only [submit, hw, hc, decide_false, Bool.not_true, Bool.or_self, Bool.false_eq_true, if_false, if_true]

variable (hc : s.credit r src ≠ 0)
include hc

theorem submit_broken {why : Nat} (hn : s.submitReason r d = some why) :
    s.submit r src true d =
      ((s.incWrap (INK_ACCEPT.adr r src) INK_ACCEPT.COUNT 1).raise 0x0301 (704 + r) (taskId d) src why).inkSync r := by
  simp only [submit, hw, hc, hn, decide_false, Bool.not_true, Bool.or_self, Bool.false_eq_true, if_false]

/-- A descriptor that breaks no condition is pooled, and its counter armed, or its task ready at once (R185). -/
theorem submit_pooled (hn : s.submitReason r d = none) :
    let paid := s.incWrap (INK_ACCEPT.adr r src) INK_ACCEPT.COUNT 1
    let c := taskCtr d
    let early := paid.rf (INK_CTR.adr r c) INK_CTR.COUNT
    let p := paid.freePool r
    let kept := paid.setPool r p (some ⟨d, false, 0, false, 0⟩)
    let counted := if taskInit d < early then kept.raise 0x0302 (704 + r) c (early - taskInit d) 0 else kept
    s.submit r src true d = (if early < taskInit d then kept.setCtr r c 1 (taskPri d) p (taskInit d - early)
      else (counted.newOrder r).becomeReady r p).inkSync r := by
  simp only [submit, hw, hc, hn, decide_false, Bool.not_true, Bool.or_self, Bool.false_eq_true, if_false]

end

theorem grant_next {s : State} {r src : Nat} (low : s.credHold r = false) (room : s.poolFree r ≠ 0)
    (next : ((List.range 41).map fun i => ((s.ink r).nextSrc + i) % 41).find? (fun x => decide (s.credit r x < creditWindow x)) =
      some src) :
    s.grant r = ((s.incWrap (INK_CREDIT.adr r src) INK_CREDIT.GRANT 1).setInk r
      { s.ink r with nextSrc := (src + 1) % 41 }).inkSync r := by
  simp only [grant, low, room, next, decide_false, Bool.or_self, Bool.false_eq_true, if_false]

end State

open State in
/-- Settles O20: a submission is what its port makes of it, case by case, and a grant what `grant` makes of the first source with
room. -/
theorem submissionsSpendCreditsAndArmCounters : Obligations.SubmissionsSpendCreditsAndArmCounters := by
  refine fun s r awake => ⟨fun src whole data open_ alone => ?_, fun src low room next => ?_⟩
  · intro d no paid c early p
    simp only [execInkSubmit_eq open_ alone]
    refine ⟨fun h => ?_, fun hw hc => ?_, fun why hw hc hn => ?_, fun hw hc hn => ?_⟩
    · exact congrArg _ (submit_stranger h)
    · exact congrArg _ (submit_unpaid hw hc)
    · exact congrArg _ (submit_broken (s := s.drawn) hw hc hn)
    · rw [submit_pooled (s := s.drawn) hw hc hn]
      refine ⟨fun he => ?_, fun he => ?_, fun he => ?_⟩
      · rw [if_pos he]
      · rw [if_neg (Nat.not_lt.mpr (Nat.le_of_eq he.symm)), if_neg (Nat.not_lt.mpr (Nat.le_of_eq he))]
      · rw [if_neg (Nat.not_lt.mpr (Nat.le_of_lt he)), if_pos he]
  · have run : exec (.creditGrant r) s = .next (if s.preparing then s else s.grant r) := rfl
    rw [run, awake, if_neg Bool.false_ne_true, grant_next low room next]

end Sys2Proof.Machine
end


section
/-! A table of slices in no canonical form: two entries of slice 0. A write that leaves the first entry as at reset takes it from the table
(`sput`), so that the slice then reads as the second. The invariant excludes such a table; the statement does not ask for the
invariant. -/

namespace Sys2Proof.Machine

/-- A decrement of counter 0 by 1, held in the bridge of slice 0 (R69). -/
def strayHeld : HeldWr := ⟨40, 0, inkDecrAddr 0, .part, 15, 1, none⟩

/-- Slice 0 holds that write and nothing else, but the table has another entry for it, with another source next for a credit. -/
def strayInks : State :=
  { State.reset with inks := [(0, { Ink.reset with held := [strayHeld] }), (0, { Ink.reset with nextSrc := 1 })] }

/-- The source that slice 0 considers first for a credit, in the state that a command leaves. -/
def nextSrcAfter : Result → Option Nat
  | .next t => some (t.ink 0).nextSrc
  | _ => none

/-- The write held longest joins the queue of the entry behind. -/
theorem nextSrcAfter_strayInks : nextSrcAfter (exec (.inkDecrHeld 0) strayInks) = some 1 := by decide +kernel

/-- Refutes O21: in `strayInks`, the held decrement does not join the queue of the slice as it was, but for the write that has left its
bridge. -/
theorem not_decrementsQueueAndReachTheirCounters : ¬ Obligations.DecrementsQueueAndReachTheirCounters := by
  intro h
  obtain ⟨-, held, -⟩ := h strayInks 0
  obtain ⟨-, joins, -⟩ := held strayHeld [] rfl
  have claim := joins ⟨rfl, by decide, by decide⟩ (by decide) (by decide) rfl
  have credit := congrArg nextSrcAfter claim
  rw [nextSrcAfter_strayInks] at credit
  exact absurd credit (by decide +kernel)

end Sys2Proof.Machine
end


section
/-! Tasks that are dispatched, that pre-empt, and that are restored (R192 to R202). -/

namespace Sys2Proof.Machine

namespace State

/-- A task given to a core goes by its dispatch crossing and an interrupt (R195). -/
theorem dispatchTo_core (s : State) {r u : Nat} (hu : u < 48) (p : Nat) (e : PoolEnt) :
    s.dispatchTo r u p e = ((s.takeTask r u p e false).valueSend (dispatchXing (48 * r + u)) (dispatchValue e.desc)).pulse
      (interruptXing (48 * r + u)) 0 0 := by
  have core : decide (48 ≤ u) = false := decide_eq_false (Nat.not_le.mpr hu)
  simp only [dispatchTo, sendDispatch, core, if_pos hu]

theorem taskDispatch_some {s : State} {r c u p : Nat} {e : PoolEnt}
    (h : ((s.idleUnits r c).filter fun u => s.dispatchable r u).findSome? (fun u => (s.taskFor r u 0).map fun e => (u, e)) =
      some (u, p, e)) :
    s.taskDispatch r c = s.dispatchTo r u p e := by
  simp only [taskDispatch, h]

/-! ### Pre-emption -/

/-- A fold that at each item keeps what it holds or takes the item ends with an item. -/
theorem mem_of_foldl_eq_some {α : Type} {f : Option α → α → Option α} (hf : ∀ b u, f b u = b ∨ f b u = some u)
    (l : List α) {b : Option α} {x : α} (h : l.foldl f b = some x) : b = some x ∨ x ∈ l := by
  induction l generalizing b with
  | nil => exact .inl h
  | cons y l ih =>
    rcases ih h with taken | later
    · rcases hf b y with kept | new
      · exact .inl (kept ▸ taken)
      · exact .inr (List.mem_cons.mpr (.inl (Option.some.inj (taken.symm.trans new))))
    · exact .inr (List.mem_cons_of_mem y later)

theorem preemptTarget_priority {s : State} {r p u : Nat} {d : List Word} (h : s.preemptTarget r p d = some u) :
    s.runningPri r u + 2 ≤ p := by
  unfold preemptTarget at h
  have candidate := (mem_of_foldl_eq_some (fun b u => ?_) _ h).resolve_left (by simp)
  · have admitted := (List.mem_filter.mp candidate).2
    simp only [Bool.and_eq_true, decide_eq_true_eq] at admitted
    obtain ⟨⟨-, outranked⟩, -⟩ := admitted
    exact outranked
  · cases b with
    | none => exact .inr rfl
    | some v =>
      dsimp only
      split
      · exact .inr rfl
      · exact .inl rfl

/-- From `n` down: above `p` nothing is found, and at `p` something is. -/
theorem findSome?_range_reverse {α : Type} {f : Nat → Option α} {n p : Nat} {x : α} (hp : p < n)
    (above : ∀ m, p < m → m < n → f m = none) (here : f p = some x) : (List.range n).reverse.findSome? f = some x := by
  induction n with
  | zero => exact absurd hp (Nat.not_lt_zero p)
  | succ n ih =>
    rw [List.range_succ, List.reverse_concat, List.findSome?_cons]
    by_cases hn : p = n
    · rw [← hn, here]
    · rw [above n (by omega) (Nat.lt_succ_self n)]
      exact ih (by omega) fun m hl hh => above m hl (Nat.lt_succ_of_lt hh)

theorem preempt_first {s : State} {r p q u : Nat} {e : PoolEnt} {rest : List (Nat × PoolEnt)} (hp : p < 8)
    (above : ∀ m, p < m → m < 8 → s.readyList r m 0 = []) (first : s.readyList r p 0 = (q, e) :: rest)
    (busy : (s.idleUnits r 0).all (fun x => !s.dispatchable r x) = true) (target : s.preemptTarget r (taskPri e.desc) e.desc = some u) :
    s.preempt r = s.dispatchTo r u q e := by
  have none_ : ((s.idleUnits r 0).filter fun u => s.dispatchable r u) = [] :=
    List.filter_eq_nil_iff.mpr fun x hx => by simpa using List.all_eq_true.mp busy x hx
  unfold preempt
  simp only [none_, List.any_nil, Bool.false_eq_true, if_false]
  rw [findSome?_range_reverse (x := (u, q, e)) hp]
  · exact fun m hl hh => by rw [above m hl hh]; rfl
  · rw [first]; simp [target]

/-! ### The core's side -/

section
variable {s : State} {n : Nat} (fresh : (s.xing (dispatchXing n).key).fresh = true)
include fresh

theorem dispatchTake_load (irq : (s.core n).irq = true) (run : (s.core n).run = .idle ∨ (s.core n).run = .restoring) :
    s.dispatchTake n = (s.setXing (dispatchXing n).key { s.xing (dispatchXing n).key with fresh := false }).setCore n
      { s.core n with
        arch := loadDispatch (s.core n).arch n (s.xing (dispatchXing n).key).dst, run := .running, irq := false,
        tasks := sput (s.core n).tasks (s.core n).depth ((s.core n).serial + 1) 0, serial := (s.core n).serial + 1 } := by
  rcases run with run | run <;> simp [dispatchTake, fresh, irq, run]

theorem dispatchTake_save (irq : (s.core n).irq = true) (run : (s.core n).run = .running) (rep : s.inRepeat n = false)
    (free : s.handling n = false) (boundary : s.atBoundary n = true) :
    s.dispatchTake n = (s.flush n).setCore n { (s.flush n).core n with run := .saving, irq := false } := by
  simp [dispatchTake, fresh, irq, run, rep, free, boundary]

theorem saveDone_eq (run : (s.core n).run = .saving) (loads : (s.core n).rloads.all (fun l => l.dead) = true) :
    let v := s.ownWrite (saveArea n (s.core n).depth) (saveBytes (s.core n).arch n (s.clusterCycle (n / 8)))
    s.saveDone n = (v.setXing (dispatchXing n).key { s.xing (dispatchXing n).key with fresh := false }).setCore n { v.core n with
      arch := loadDispatch (v.core n).arch n (s.xing (dispatchXing n).key).dst, run := .running, depth := (v.core n).depth + 1,
      tasks := sput (v.core n).tasks ((v.core n).depth + 1) ((v.core n).serial + 1) 0, serial := (v.core n).serial + 1 } := by
  have dead : (s.core n).rloads.any (fun l => !l.dead) = false := by
    rw [← Bool.not_eq_true', ← List.not_all_eq_any_not, loads]; rfl
  simp [saveDone, run, dead, fresh]

end

/-- A saved task that no ready one outranks is restored (R202). -/
theorem taskRestore_eq {s : State} {n : Nat} (run : (s.core n).run = .restoring) (deep : (s.core n).depth ≠ 0)
    (level : (s.inkUnit (n / 48) (n % 48)).tasks.length = (s.core n).depth) (quiet : s.dispatchPending n = false)
    (outranked : s.dispatchable (n / 48) (n % 48) = true → s.rb (INK_UNIT.adr (n / 48) (n % 48)) INK_UNIT.UNAVAIL = false →
      s.taskFor (n / 48) (n % 48) (s.runningPri (n / 48) (n % 48) + 2) = none) :
    let saved := s.ownRead (saveArea n ((s.core n).depth - 1)) 32
    let v := saved.2
    s.taskRestore n = v.setCore n { v.core n with
      arch := loadSaved (v.core n).arch n saved.1, run := .running, depth := (v.core n).depth - 1 } := by
  have stays : (if s.dispatchable (n / 48) (n % 48) && !s.rb (INK_UNIT.adr (n / 48) (n % 48)) INK_UNIT.UNAVAIL
      then s.taskFor (n / 48) (n % 48) (s.runningPri (n / 48) (n % 48) + 2) else none) = none := by
    split
    · next h =>
      simp only [Bool.and_eq_true, Bool.not_eq_true'] at h
      obtain ⟨on, available⟩ := h
      exact outranked on available
    · rfl
  have due : ((s.core n).run ≠ .restoring || (s.inkUnit (n / 48) (n % 48)).tasks.length ≠ (s.core n).depth || s.dispatchPending n ||
      (s.core n).depth = 0) = false := by simp [run, level, quiet, deep]
  unfold taskRestore
  simp only [due, Bool.false_eq_true, if_false, stays]

end State

open State in
/-- Settles O22: each command is the equation of what it does with the unit it names. -/
theorem tasksDispatchPreemptAndRestore : Obligations.TasksDispatchPreemptAndRestore := by
  intro s r n st c
  refine ⟨fun awake => ⟨fun u p e hu chosen => ?_,
      fun p q u e rest hp hu above first busy target => ⟨preemptTarget_priority target, ?_⟩⟩,
    fun fresh irq run => ?_, fun fresh irq run rep free boundary => ?_, fun run loads fresh => ?_,
    fun run deep level quiet outranked => ?_⟩
  · have arm : exec (.taskDispatch r 0) s = .next (if s.preparing then s else s.taskDispatch r 0) := rfl
    rw [arm, awake, if_neg Bool.false_ne_true, taskDispatch_some chosen, dispatchTo_core s hu]
  · have arm : exec (.preemption r) s = .next (if s.preparing then s else s.preempt r) := rfl
    rw [arm, awake, if_neg Bool.false_ne_true, preempt_first hp above first busy target, dispatchTo_core s hu]
  · exact congrArg Host.Outcome.next (dispatchTake_load fresh irq run)
  · exact congrArg Host.Outcome.next (dispatchTake_save fresh irq run rep free boundary)
  · exact congrArg Host.Outcome.next (saveDone_eq fresh run loads)
  · exact congrArg Host.Outcome.next (taskRestore_eq run deep level quiet outranked)

end Sys2Proof.Machine
end


section
/-! Completions, and the outputs of completed tasks (R188, R201, R210, R211). -/

namespace Sys2Proof.Machine

namespace State

/-! ### Completions -/

@[simp] theorem inkUnit_wf (s : State) (a : Nat) (f : Fld) (v r u : Nat) : (s.wf a f v).inkUnit r u = s.inkUnit r u := by
  simp only [inkUnit, ink, wf_inks]

@[simp] theorem ink_wf (s : State) (a : Nat) (f : Fld) (v r : Nat) : (s.wf a f v).ink r = s.ink r := by simp only [ink, wf_inks]

section
variable {s : State} {r u svc : Nat}

/-- A completion that has reached the slice (R201, R213, R214): it takes a slot, or waits for one (R210). -/
theorem taskComplete_eq (ended : (s.inkUnit r u).done ≠ []) (tasks : (s.inkUnit r u).tasks ≠ [])
    (first : (s.ink r).compWait.contains (.unit u) = false) :
    let v := s.wf (INK_UNIT.adr r u) INK_UNIT.LASTSVC (satAt 24 svc)
    let w := if s.lagThreshold r u ≠ 0 ∧ s.lagThreshold r u < svc then v.becomeLaggard r u svc else v.unitRecovered r u 1
    s.taskComplete r u svc = if (w.slotsUsed r < 32 && (w.ink r).compWait.isEmpty) = true then w.unitComplete r u
      else w.setInk r { w.ink r with compWait := (w.ink r).compWait ++ [.unit u] } := by
  simp only [taskComplete, List.isEmpty_eq_false_iff.mpr ended, List.isEmpty_eq_false_iff.mpr tasks, first, Bool.or_self,
    Bool.false_eq_true, if_false]

/-- The outermost task of a unit completes. -/
theorem unitComplete_first {t : UnitTask} {ts : List UnitTask} {st : Nat} {rest : List (Nat × Nat)}
    (tasks : (s.inkUnit r u).tasks = t :: ts) (done : (s.inkUnit r u).done = (0, st) :: rest) :
    let w := s.setInkUnit r u { s.inkUnit r u with tasks := ts, done := rest }
    s.unitComplete r u =
      ((if u < 48 && (w.inkUnit r u).tasks.isEmpty then w.stampIdle r u else w).completeTask r t.pool st).inkSync r := by
  simp [unitComplete, completing, tasks, done]

theorem unitRecovered_of_served {why : Nat} (served : s.rb (INK_UNIT.adr r u) INK_UNIT.LAG = false) : s.unitRecovered r u why = s := by
  simp only [unitRecovered, served, Bool.false_eq_true, if_false]

/-- Without a threshold, a completion of a unit in service takes a slot that is free and for which none waits. -/
theorem taskComplete_at_once (ended : (s.inkUnit r u).done ≠ []) (tasks : (s.inkUnit r u).tasks ≠ []) (none_ : (s.ink r).compWait = [])
    (off : s.lagThreshold r u = 0) (room : s.slotsUsed r < 32) :
    let v := s.wf (INK_UNIT.adr r u) INK_UNIT.LASTSVC (satAt 24 svc)
    v.rb (INK_UNIT.adr r u) INK_UNIT.LAG = false → s.taskComplete r u svc = v.unitComplete r u := by
  intro v served
  have stays : (if s.lagThreshold r u ≠ 0 ∧ s.lagThreshold r u < svc then v.becomeLaggard r u svc else v.unitRecovered r u 1) = v := by
    rw [if_neg fun ⟨on, _⟩ => on off, unitRecovered_of_served served]
  have free : (v.slotsUsed r < 32 && (v.ink r).compWait.isEmpty) = true := by
    simpa [v, slotsUsed, none_] using room
  have case_ := taskComplete_eq (svc := svc) ended tasks (by rw [none_]; rfl)
  dsimp only at case_
  rw [case_, stays, if_pos free]

end

section
variable {s : State} {r : Nat} (room : s.slotsUsed r < 32)
include room

theorem slotTake_unit {u : Nat} {ws : List CompWait} (waits : (s.ink r).compWait = .unit u :: ws) :
    s.slotTake r = (s.setInk r { s.ink r with compWait := ws }).unitComplete r u := by
  unfold slotTake
  rw [if_neg (Nat.not_le.mpr room), waits]

theorem slotTake_join {p : Nat} {ws : List CompWait} (waits : (s.ink r).compWait = .join p :: ws) :
    s.slotTake r = ((s.setInk r { s.ink r with compWait := ws }).completeTask r p 0).inkSync r := by
  unfold slotTake
  rw [if_neg (Nat.not_le.mpr room), waits]

end

/-! ### Outputs -/

section
variable {s : State} {r : Nat} {o : OutRec}

/-- The state once the egress post of `o`, if it has one, is written (R189). -/
def posted (s : State) (r : Nat) (o : OutRec) : State :=
  if taskEgv o.desc = true then (s.busWrite (28 + r) 0x120000 (postBytes o)).2 else s

/-- A record whose successors have been issued, or that has none, leaves its egress post. -/
theorem issueOut_without_successors (h : o.rest = some [] ∨ o.rest = none ∧ taskNsucc o.desc = 0) :
    s.issueOut r o = (none, s.posted r o) := by
  rcases h with rest | ⟨rest, none_⟩
  · simp [issueOut, rest, issueSucc, posted]
  · simp [issueOut, rest, readSucc, none_, succLines, issueSucc, posted]

/-- The last successor of a record, a well-formed one of its own slice, enters the decrement queue (R187, R188). -/
theorem issueOut_local_successor {e : Nat} (last : o.rest = some [some e]) (formed : bits e 28 2 = 0 ∧ bits e 12 2 = 0)
    (some_ : bits e 0 12 ≠ 0) (own : bits e 30 2 = r) (room : (s.ink r).decq.length < 128) :
    s.issueOut r o = (none, (s.enqueueDecr r (bits e 14 14) (bits e 0 12)).posted r o) := by
  simp [issueOut, last, issueSucc, posted, formed, some_, own, Nat.not_le.mpr room]

variable {os : List OutRec}

theorem slotDrain_released {v : State} (first : (s.ink r).released = o :: os) (all : s.issueOut r o = (none, v)) :
    s.slotDrain r = (v.setInk r { v.ink r with released := (v.ink r).released.eraseIdx 0 }).inkSync r := by
  simp only [slotDrain, first, drainReleased, all, putOut]

theorem slotDrain_slot {v : State} (none_ : (s.ink r).released = []) (first : (s.ink r).slots = o :: os)
    (all : s.issueOut r o = (none, v)) :
    s.slotDrain r = (v.setInk r { v.ink r with slots := (v.ink r).slots.eraseIdx 0 }).inkSync r := by
  simp only [slotDrain, none_, first, drainSlot, all, putOut]

end

end State

open State in
/-- Settles O23: each command is the equation of what it does with a unit's first completion, a waiting one, or a record of outputs. -/
theorem completionsTakeSlotsAndIssueOutputs : Obligations.CompletionsTakeSlotsAndIssueOutputs := by
  intro s r room
  refine ⟨?_, ?_, ?_, ?_, ?_⟩
  · intro u svc t st rest tasks done none_ off v served w
    refine congrArg Host.Outcome.next ?_
    have tasks' : (v.inkUnit r u).tasks = [t] := (congrArg InkUnit.tasks (inkUnit_wf ..)).trans tasks
    have done' : (v.inkUnit r u).done = (0, st) :: rest := (congrArg InkUnit.done (inkUnit_wf ..)).trans done
    rw [← unitComplete_first tasks' done']
    exact taskComplete_at_once (by simp [done]) (by simp [tasks]) none_ off room served
  · rintro w ws waits v
    exact ⟨fun p join => congrArg Host.Outcome.next (slotTake_join room (join ▸ waits)),
      fun u unit => congrArg Host.Outcome.next (slotTake_unit room (unit ▸ waits))⟩
  · intro u svc ended tasks first v w
    exact congrArg Host.Outcome.next (taskComplete_eq ended tasks first)
  · intro o os bare v
    exact ⟨fun first => congrArg Host.Outcome.next (slotDrain_released first (issueOut_without_successors bare)),
      fun none_ first => congrArg Host.Outcome.next (slotDrain_slot none_ first (issueOut_without_successors bare))⟩
  · intro o os e none_ first quiet last top mid some_ own free v
    have issued := issueOut_local_successor last ⟨top, mid⟩ some_ own free
    rw [posted, quiet, if_neg Bool.false_ne_true] at issued
    exact congrArg Host.Outcome.next (slotDrain_slot none_ first issued)

end Sys2Proof.Machine
end


section
/-! The registers of flows and units (R207, R214): the words of their lines, and what a write of one does. -/

namespace Sys2Proof.Machine

/-! ### The words of their lines -/

/-- What `regFind` finds at an address, but for the fields: the register, its width, its indices and the word. -/
def regPlace (a : Nat) : Option (RegName × Nat × List Nat × Nat) := (regFind a).map fun x => (x.1.name, x.1.words, x.2)

theorem regPlace_flow : ∀ (r : RegionId) (f : Fin 256), regPlace (INK_FLOW.adr r f) = some (.INK_FLOW, 1, [r.val, f.val], 0) := by
  decide +kernel

/-- The last line of units has four words without a register. -/
theorem regPlace_unit : ∀ (r : RegionId) (u : Fin 64), regPlace (INK_UNIT.adr r u) =
    if u < 60 then some (.INK_UNIT, 1, [r.val, u.val], 0) else none := by
  decide +kernel

theorem regFind_of_regPlace {a w k : Nat} {n : RegName} {ix : List Nat} (h : regPlace a = some (n, w, ix, k)) :
    ∃ row : RegRow, regFind a = some (row, ix, k) ∧ row.name = n ∧ row.words = w := by
  obtain ⟨⟨row, ix', k'⟩, found, same⟩ := Option.map_eq_some_iff.mp h
  cases same
  exact ⟨row, found, rfl, rfl⟩

theorem words_of_regPlace {a w : Nat} (h : ∀ y ∈ regPlace a, y.2.1 = w) : ∀ x ∈ regFind a, x.1.words = w := fun x hx =>
  h (x.1.name, x.1.words, x.2) (Option.map_eq_some_iff.mpr ⟨x, hx, rfl⟩)

theorem words_flow_line (r : RegionId) (f : Fin 256) {i : Nat} (hi : i < 16) :
    ∀ x ∈ regFind (INK_FLOW.adr r f / 64 * 64 + 4 * i), x.1.words = 1 := by
  have place : INK_FLOW.adr r f / 64 * 64 + 4 * i = INK_FLOW.adr r (⟨f / 16 * 16 + i, by omega⟩ : Fin 256) := by
    dsimp only [INK_FLOW.adr]; omega
  refine words_of_regPlace fun y hy => ?_
  rw [place, regPlace_flow] at hy
  cases hy; rfl

theorem words_unit_line (r : RegionId) (u : Fin 60) {i : Nat} (hi : i < 16) :
    ∀ x ∈ regFind (INK_UNIT.adr r u / 64 * 64 + 4 * i), x.1.words = 1 := by
  have place : INK_UNIT.adr r u / 64 * 64 + 4 * i = INK_UNIT.adr r (⟨u / 16 * 16 + i, by omega⟩ : Fin 64) := by
    dsimp only [INK_UNIT.adr]; omega
  refine words_of_regPlace fun y hy => ?_
  rw [place, regPlace_unit] at hy
  split at hy <;> cases hy
  rfl

namespace State

/-! ### Writes of one word -/

/-- A write of a whole one-word register of a slice, behind which no other word of the line is written (R641). -/
theorem lineWrite_slice_word {s : State} {src r a v : Nat} {row : RegRow} {ix : List Nat} (hr : r < 4) (aligned : a % 4 = 0)
    (hl : 0x300C02000 + 0x1000000 * r ≤ a) (hh : a < 0x300C04000 + 0x1000000 * r) (open_ : s.wayOpen src (a / 64 * 64))
    (alone : ((s.ink r).held.any fun h => h.src = src) = false) (hv : v < 2 ^ 32)
    (words : ∀ i < 16, ∀ x ∈ regFind (a / 64 * 64 + 4 * i), x.1.words = 1) (found : regFind a = some (row, ix, 0)) (tag : Nat) :
    s.drawn.lineWrite src tag (a / 64 * 64) .part (15 * 2 ^ (a % 64)) (v * 2 ^ (8 * (a % 64))) =
      (stOk, 28 + r, s.drawn.regWrite src row ix v 15) := by
  have port : RegionPort (a / 64 * 64) := by unfold RegionPort; omega
  have free := mustHold_other alone (line := a / 64 * 64) (by unfold inkDecrLine; omega) (15 * 2 ^ (a % 64)) (v * 2 ^ (8 * (a % 64)))
  have place : a / 64 * 64 + 4 * (a % 64 / 4) = a := by omega
  have enables : a % 64 = 4 * (a % 64 / 4) := by omega
  have data : 8 * (a % 64) = 32 * (a % 64 / 4) := by omega
  rw [lineWrite_slice port open_ (by omega) (by omega) free tag, devLine_slice _ hr _ _ _ _ (by omega) (by omega), data, enables,
    Nat.mul_div_cancel_left _ (by decide), regsLine_word _ _ (by omega) hv words (place.symm ▸ found)]

theorem regWrite_flow (s : State) (src r f v : Nat) {row : RegRow} (hn : row.name = .INK_FLOW) :
    s.regWrite src row [r, f] v 15 = s.flowWrite r f v true true true := by
  simp only [regWrite, hn]
  rfl

theorem regWrite_unit (s : State) (src r u v : Nat) {row : RegRow} (hn : row.name = .INK_UNIT) (hv : bit v 31 = true) :
    s.regWrite src row [r, u] v 15 = s.unitRecovered r u 3 := by
  simp only [regWrite, hn, hv]
  rfl

end State

end Sys2Proof.Machine
end


section
/-! Deadlines, laggards and flows (R207, R209, R213, R214). -/

namespace Sys2Proof.Machine

namespace State

/-- The only task of a pool whose deadline has passed, and that no unit runs, is reported (R209). -/
theorem deadlineScan_late {s : State} {r p : Nat} {x : PoolEnt} (moving : (s.xing (xkey 52 (28 + r) 9 0)).fresh = false)
    (pool : (s.ink r).pool = [(p, some x)]) (timed : taskDlen x.desc = true) (first : x.late = false)
    (passed : s.deadlineAhead r x.desc < 0) (waiting : s.ctrState r (taskCtr x.desc) ≠ 3) :
    s.deadlineScan r = (s.setPool r p (some { x with late := true })).raise 0x0306 (704 + r) (taskId x.desc) (taskCtr x.desc)
      (s.ctrState r (taskCtr x.desc)) := by
  have due : (taskDlen x.desc && !x.late && decide (s.deadlineAhead r x.desc < 0)) = true := by simp [timed, first, passed]
  simp only [deadlineScan, moving, Bool.false_eq_true, if_false, pool, List.foldl_cons, List.foldl_nil, due, if_true, if_neg waiting,
    Nat.add_zero]

section
variable {s : State} {r u : Nat}

/-- A unit beyond its threshold, none of whose tasks is staged, becomes a laggard with its event (R213). -/
theorem lagCheck_beyond {svc : Nat} (on : s.lagThreshold r u ≠ 0) (beyond : s.lagThreshold r u < svc)
    (busy : (s.inkUnit r u).tasks ≠ []) (served : s.rb (INK_UNIT.adr r u) INK_UNIT.LAG = false) :
    let v := (s.wb (INK_UNIT.adr r u) INK_UNIT.LAG true).raise 0x0308 (704 + r) u svc 0
    (v.inkUnit r u).tasks.all (fun t => !t.staged) = true → s.lagCheck r u svc = v := by
  intro v unstaged
  have none_ : (v.inkUnit r u).tasks.find? (fun t => t.staged) = none :=
    List.find?_eq_none.mpr fun t ht => by simpa using List.all_eq_true.mp unstaged t ht
  have due : s.lagThreshold r u ≠ 0 ∧ s.lagThreshold r u < svc ∧ (!(s.inkUnit r u).tasks.isEmpty) = true :=
    ⟨on, beyond, by simpa using busy⟩
  unfold lagCheck becomeLaggard
  rw [if_pos due, if_neg (by simp [served])]
  simp only [v] at none_
  simp only [none_, v]

variable (lag : s.rb (INK_UNIT.adr r u) INK_UNIT.LAG = true)
include lag

theorem unitRecovered_of_laggard (why : Nat) :
    s.unitRecovered r u why = (s.wb (INK_UNIT.adr r u) INK_UNIT.LAG false).raise 0x0309 (704 + r) u why 0 := if_pos lag

theorem lagIdle_held (idle : (s.inkUnit r u).tasks = []) (hold : s.rf (INK_LAGHOLD.adr r) INK_LAGHOLD.HOLD ≠ 0) :
    s.lagIdle r u = (s.wb (INK_UNIT.adr r u) INK_UNIT.LAG false).raise 0x0309 (704 + r) u 2 0 :=
  (if_pos ⟨by rw [idle]; rfl, hold⟩).trans (unitRecovered_of_laggard lag 2)

end

/-- A write of LAG as 1 (R214). -/
theorem execInkUnitLagClear_eq {s : State} {r : RegionId} {u : Fin 60} {src : SrcId} (open_ : s.wayOpen src (INK_UNIT.adr r u / 64 * 64))
    (alone : ((s.ink r).held.any fun h => h.src = src) = false) :
    exec (.inkUnitLagClear r u src) s = .next (s.drawn.unitRecovered r u 3) := by
  have hr := r.isLt
  have hu := u.isLt
  have place : INK_UNIT.adr r u = 0x300C03100 + 0x1000000 * r + 0x4 * u := rfl
  have line : INK_UNIT.adr r u - INK_UNIT.adr r u % 64 = INK_UNIT.adr r u / 64 * 64 := by omega
  obtain ⟨row, found, name, -⟩ := regFind_of_regPlace ((regPlace_unit r (u.castLE (by decide))).trans (if_pos hu))
  have written := lineWrite_slice_word (a := INK_UNIT.adr r u) (v := 2 ^ 31) hr (by omega) (by omega) (by omega) open_ alone (by decide)
    (fun i hi => words_unit_line r u hi) found (s.draw 8).1
  have arm : exec (.inkUnitLagClear r u src) s = .next (s.busWrite src (INK_UNIT.adr r u) (leBytes 4 (2 ^ 31))).2 := rfl
  rw [arm, busWrite_field s src (by decide) (by decide) (by omega) (by decide), line]
  exact (congrArg (fun x : Nat × Nat × State => (Host.Outcome.next x.2.2 : Result)) written).trans
    (congrArg _ (regWrite_unit _ _ _ _ _ name (by decide)))

/-! ### Flows -/

theorem execInkFlowWrite_eq {s : State} {r : RegionId} {f : Fin 256} {src : SrcId} (open_ : s.wayOpen src (INK_FLOW.adr r f / 64 * 64))
    (alone : ((s.ink r).held.any fun h => h.src = src) = false) (w : Word) :
    exec (.inkFlowWrite r f src 15 w) s = .next (s.drawn.flowWrite r f w.toNat true true true) := by
  have hr := r.isLt
  have hf := f.isLt
  have place : INK_FLOW.adr r f = 0x300C02000 + 0x1000000 * r + 0x4 * f := rfl
  obtain ⟨row, found, name, -⟩ := regFind_of_regPlace (regPlace_flow r f)
  have written := lineWrite_slice_word (a := INK_FLOW.adr r f) hr (by omega) (by omega) (by omega) open_ alone w.isLt
    (fun i hi => words_flow_line r f hi) found (s.draw 8).1
  have arm : exec (.inkFlowWrite r f src 15 w) s = execInkFlowWrite r f src 15 w s := rfl
  have tagged : s.draw 8 = ((s.draw 8).1, s.drawn) := rfl
  have enables : (15 : BitVec 4).toNat = 15 := rfl
  rw [arm, execInkFlowWrite, tagged]
  simp only [enables, written, regWrite_flow _ _ _ _ _ name]

section
variable {s : State} {r f w : Nat} (flow : f ≠ 0)
include flow

theorem flowWrite_next (idle : s.rf (INK_FLOW.adr r f) INK_FLOW.HELD = 0) :
    s.flowWrite r f w true true true =
      (s.wb (INK_FLOW.adr r f) INK_FLOW.OPEN (bit w 31)).wf (INK_FLOW.adr r f) INK_FLOW.NEXT (bits w 0 16) := by
  have halves : bits w 0 8 + 256 * bits w 8 8 = bits w 0 16 := by simp only [bits, Nat.shiftRight_eq_div_pow]; omega
  simp [flowWrite, flow, idle, halves]

/-- NEXT does not take a write while something is held (R207). -/
theorem flowWrite_holding (holds : s.rf (INK_FLOW.adr r f) INK_FLOW.HELD ≠ 0) :
    s.flowWrite r f w true true true = (s.wb (INK_FLOW.adr r f) INK_FLOW.OPEN (bit w 31)).raise 0x0307 (704 + r) f (bits w 0 16)
      (s.rf (INK_FLOW.adr r f) INK_FLOW.NEXT) := by
  simp [flowWrite, flow, holds]

end

end State

open State in
/-- Settles O24: each command is the equation of what it does with the task, the unit or the flow it names. -/
theorem deadlinesLaggardsAndFlows : Obligations.DeadlinesLaggardsAndFlows := by
  refine fun s r => ⟨?_, ?_, fun u lag => ⟨?_, ?_⟩, ?_⟩
  · exact fun p x moving pool timed first passed waiting =>
      congrArg Host.Outcome.next (deadlineScan_late moving pool timed first passed waiting)
  · exact fun u svc on beyond busy served unstaged => congrArg Host.Outcome.next (lagCheck_beyond on beyond busy served unstaged)
  · exact fun idle hold => congrArg Host.Outcome.next (lagIdle_held lag idle hold)
  · exact fun src open_ alone => (execInkUnitLagClear_eq open_ alone).trans (congrArg _ (unitRecovered_of_laggard (s := s.drawn) lag 3))
  · intro f src w some_ open_ alone a v
    have flow : f.val ≠ 0 := fun h => some_ (Fin.ext h)
    rw [execInkFlowWrite_eq open_ alone]
    exact ⟨fun idle => congrArg _ (flowWrite_next (s := s.drawn) flow idle),
      fun holds => congrArg _ (flowWrite_holding (s := s.drawn) flow holds)⟩

end Sys2Proof.Machine
end


section
/-! Jobs on their way to an engine (R197, R224, R229, R245, R266). -/

namespace Sys2Proof.Machine

namespace State

/-! ### Intake -/

theorem execRaIntakeWrite_eq {s : State} {r : RegionId} {e : EngineId} {src : SrcId}
    (open_ : s.wayOpen src (0x300801000 + 0x1000000 * r.val + 8 * e.val / 64 * 64)) (entry : Addr) :
    exec (.raIntakeWrite r e src entry) s = .next ((s.drawn.intakeJob r e src entry.toNat).fetchDesc r e) := by
  have hr := r.isLt
  have he := e.isLt
  have hn : entry.toNat < 2 ^ 48 := entry.isLt
  have line : 0x300801000 + 0x1000000 * r.val + 8 * e.val - (0x300801000 + 0x1000000 * r.val + 8 * e.val) % 64 =
      0x300801000 + 0x1000000 * r.val + 8 * e.val / 64 * 64 := by omega
  have offset : (0x300801000 + 0x1000000 * r.val + 8 * e.val) % 64 = 8 * (e.val % 8) := by omega
  have port : RegionPort (0x300801000 + 0x1000000 * r.val + 8 * e.val / 64 * 64) := by unfold RegionPort; omega
  have taken := lineWrite_group port open_ hr (by omega) (by omega) .part (255 * 2 ^ (8 * (e.val % 8)))
    (entry.toNat * 2 ^ (64 * (e.val % 8))) (s.draw 8).1
  rw [devLine_intake _ hr _ _ _ _ (by omega), raIntakeLine_engine _ he _ hn] at taken
  have wide : 8 * (8 * (e.val % 8)) = 64 * (e.val % 8) := by omega
  have arm : exec (.raIntakeWrite r e src entry) s =
    .next (((s.busWrite src (0x300801000 + 0x1000000 * r.val + 8 * e.val) (leBytes 8 entry.toNat)).2).fetchDesc r e) := rfl
  rw [arm, busWrite_field s src (by decide) (by decide) (by omega) (by omega), line, offset, wide]
  exact congrArg (fun x : Nat × Nat × State => (Host.Outcome.next (x.2.2.fetchDesc r e) : Result)) taken

section
variable {s : State} {r e src entry : Nat}

theorem intakeJob_stranger (h : src ≠ 28 + r) : s.intakeJob r e src entry = s.raise 0x0404 (engSrc r e) src 0 0 := if_pos h

theorem intakeJob_staged (h : src = 28 + r) (free : (s.engine r e).staged = none)
    (on : s.rb (RA_ENGSTAT.adr r e) RA_ENGSTAT.UNAVAIL = false) (hn : entry < 2 ^ 48) :
    s.intakeJob r e src entry = (s.setEngine r e { s.engine r e with staged := some ⟨entry, none, none, none⟩ }).wb
      (RA_ENGSTAT.adr r e) RA_ENGSTAT.STAGED true := by
  unfold intakeJob
  rw [if_neg (not_not.mpr h), if_neg (by simp [free, on]), Nat.mod_eq_of_lt hn]

theorem fetchDesc_of_none (h : (s.engine r e).staged = none) : s.fetchDesc r e = s := by simp only [fetchDesc, h]

theorem fetchDesc_of_read {j : Job} (h : (s.engine r e).staged = some j) (read : j.desc.isSome = true) : s.fetchDesc r e = s := by
  simp only [fetchDesc, h, read, Bool.true_or, if_true]

@[simp] theorem engine_raise (s : State) (code n p1 p2 p3 r e : Nat) : (s.raise code n p1 p2 p3).engine r e = s.engine r e := by
  obtain ⟨_, _, _, _, h⟩ := raise_frame s code n p1 p2 p3
  rw [h]; rfl

end

/-! ### Start -/

/-- Engine `e` runs its staged job `j` (R224). -/
def started (s : State) (r e : Nat) (j : Job) : State :=
  let un := s.inkUnit r (48 + e)
  ((((s.setInkUnit r (48 + e) { un with tasks := un.tasks.map fun t => { t with staged := false } }).stampIdle r (48 + e)).setEngine r e
    { s.engine r e with running := some j, staged := none, pulsed := false, late := none }).wb (RA_ENGSTAT.adr r e) RA_ENGSTAT.STAGED
    false).wb (RA_ENGSTAT.adr r e) RA_ENGSTAT.BUSY true

theorem setInkUnit_free (s : State) (r u : Nat) (v : InkUnit) : (s.setInkUnit r u v).free = s.free := by
  unfold setInkUnit
  dsimp only
  split <;> simp only [wf_free, setInk]

theorem started_free (s : State) (r e : Nat) (j : Job) : (s.started r e j).free = s.free := by
  simp only [started, stampIdle, newOrder, setInk, setEngine, wb_eq_wf, wf_free, setInkUnit_free]

section
variable {s : State} {r e : Nat} {j : Job} {d : List Byte} (idle : (s.engine r e).running = none) (staged : (s.engine r e).staged = some j)
  (read : j.desc = some d) (on : s.rb (RA_ENGSTAT.adr r e) RA_ENGSTAT.UNAVAIL = false)
  (slot : (s.ink r).compWait.contains (.unit (48 + e)) = false)
include idle staged read on slot

/-- A staged job with a bad descriptor word ends as it starts (R229). -/
theorem jobStart_bad {w : Nat} (bad : badWord e d = some w) :
    s.jobStart r e = (s.started r e j).drawn.endJob r e j (.err 0x10 w) (Config.freeValue s.free % 2 ^ 32) := by
  have same : s.fetchDesc r e = s := fetchDesc_of_read staged (by rw [read]; rfl)
  rw [← started_free s r e j]
  simp only [jobStart, same, idle, staged, on, slot, read, bad, Bool.or_self, Bool.false_eq_true, if_false]
  rfl

/-- A staged job with a good descriptor runs; one that keeps a HARQ buffer claims its guard or waits for it (R245). -/
theorem jobStart_good (good : badWord e d = none) : s.jobStart r e = if (isDecode (jType d) && jHarq d) = true then
    if (s.started r e j).guardFree r e (jAux d) = true then
      ((s.started r e j).setEngine r e { (s.started r e j).engine r e with guard := some (jAux d) }).guardSync r
    else (s.started r e j).wb (RA_ENGSTAT.adr r e) RA_ENGSTAT.HWAIT true
    else s.started r e j := by
  have same : s.fetchDesc r e = s := fetchDesc_of_read staged (by rw [read]; rfl)
  simp only [jobStart, same, idle, staged, on, slot, read, good, Bool.or_self, Bool.false_eq_true, if_false]
  rfl

end

/-- A job that waits claims its buffer once that is free (R245). -/
theorem guardAcquire_free {s : State} {r e : Nat} {j : Job} {d : List Byte} (running : (s.engine r e).running = some j)
    (read : j.desc = some d) (waits : s.rb (RA_ENGSTAT.adr r e) RA_ENGSTAT.HWAIT = true) (free : s.guardFree r e (jAux d) = true) :
    s.guardAcquire r e = ((s.setEngine r e { s.engine r e with guard := some (jAux d) }).guardSync r).wb (RA_ENGSTAT.adr r e)
      RA_ENGSTAT.HWAIT false := by
  simp only [guardAcquire, running, read, waits, free, Bool.and_self, if_true]

end State

open State in
/-- Settles O25: each command is the equation of what it does with the engine it names. -/
theorem jobsStageStartAndClaimBuffers : Obligations.JobsStageStartAndClaimBuffers := by
  intro s r e st
  refine ⟨fun src entry open_ => ⟨fun stranger free => ?_, fun own free on => ?_⟩, ?_, ?_⟩
  · have kept : ((s.drawn.raise 0x0404 (engSrc r e) src 0 0).engine r e).staged = none := by rw [engine_raise]; exact free
    rw [execRaIntakeWrite_eq open_, intakeJob_stranger stranger, fetchDesc_of_none kept]
  · exact ⟨_, rfl, by rw [execRaIntakeWrite_eq open_, intakeJob_staged (s := s.drawn) own free on entry.isLt]; rfl⟩
  · intro j d idle staged read on slot un run
    have ran : run = s.started r e j := rfl
    refine ⟨fun w bad => ?_, fun good plain => ?_, fun good decode => ⟨fun free => ?_, fun busy => ?_⟩⟩
    · exact congrArg _ (jobStart_bad idle staged read on slot bad)
    · refine congrArg _ ((jobStart_good idle staged read on slot good).trans ?_)
      rw [plain, if_neg Bool.false_ne_true, ran]
    · refine congrArg _ ((jobStart_good idle staged read on slot good).trans ?_)
      rw [if_pos decode, ← ran, if_pos free]
    · refine congrArg _ ((jobStart_good idle staged read on slot good).trans ?_)
      rw [if_pos decode, ← ran, busy, if_neg Bool.false_ne_true]
  · exact fun j d running read waits free => congrArg _ (guardAcquire_free running read waits free)

end Sys2Proof.Machine
end

section
/-! The end of a job (R226, R228 to R230, R245), and the commands that run its computation (R231 to R261). -/

namespace Sys2Proof.Machine

theorem Keeps.ite {a b c : State} {p : Prop} [Decidable p] (hb : Keeps a b) (hc : Keeps a c) : Keeps a (if p then b else c) := by
  split
  · exact hb
  · exact hc

namespace State

/-! ### The engine of a job that has ended -/

theorem engine_guardSync (s : State) (r q e : Nat) : (s.guardSync r).engine q e = s.engine q e := by
  simp only [engine, guardSync, wf_engines]

theorem engine_guardRelease {s : State} (ok : s.Inv) (r e : Nat) :
    (s.guardRelease r e).engine r e = { s.engine r e with guard := none } := by
  rw [guardRelease, engine_guardSync, engine_setEngine_same ok.tables]

theorem noteRecord_keeps {z s : State} (h : Keeps z s) (p : Prop) [Decidable p] (a : Nat) (n : RecNote) :
    Keeps z (if p then { s with jobRecs := sput s.jobRecs a (some n) none } else s) :=
  .ite (h.mk_tables (by simp +contextual [tablesWf, swf_sput])) h

/-- The count, the event and the capture of a job that ends in error (R230, R267). -/
theorem noteError_keeps {z s : State} (h : Keeps z s) (r e st type tag addr : Nat) :
    Keeps z (if 0x1000 ≤ st then
      ((((s.wb (RA_ENGSTAT.adr r e) RA_ENGSTAT.ERR true).incSat (RA_FAILCNT.adr r e) RA_FAILCNT.ERRJOBS 1).raise 0x0401
        (engSrc r e) tag st 0).jobCapture r e st type tag addr)
      else s) :=
  .ite (jobCapture_keeps _ _ _ _ _ _ (raise_keeps _ _ _ _ _ (incSat_keeps _ _ _ (wb_keeps _ _ _ h)))) h

section
variable (s : State) (r e : Nat) {j : Job} {d : List Byte} (read : j.desc = some d) (x : JobRes) (dur : Nat)
include read

/-- A job ends with a status word, which is its result's own when an error has ended it (R228, R230); what goes before keeps the
invariant. -/
theorem endJob_eq : ∃ (v : State) (word : Nat), Keeps s v ∧ (x.stopped = true → word = x.status) ∧
    s.endJob r e j x dur =
      (v.setEngine r e { v.engine r e with running := some { j with status := some word }, late := none }).guardRelease r e := by
  have written := busWrite_keeps (24 + r) (jRes d) (recordBytes x (jTag d) dur) (Keeps.refl s)
  unfold endJob
  simp only [read]
  generalize s.busWrite (24 + r) (jRes d) (recordBytes x (jTag d) dur) = w at written ⊢
  obtain ⟨err, s1⟩ := w
  cases err with
  | none => exact ⟨_, _, noteError_keeps (incSat_keeps _ _ _ (noteRecord_keeps written ..)) .., fun _ => rfl, rfl⟩
  | some _ => exact ⟨_, _, noteError_keeps (incSat_keeps _ _ _ (noteRecord_keeps written ..)) .., fun stopped => if_pos stopped, rfl⟩

variable {s}

/-- Its engine holds the job with its status word, and guards no buffer (R226, R245). -/
theorem endJob_engine (ok : s.Inv) : ∃ word, ((s.endJob r e j x dur).engine r e).running = some { j with status := some word } ∧
    (x.stopped = true → word = x.status) ∧ ((s.endJob r e j x dur).engine r e).guard = none := by
  obtain ⟨v, word, kept, own, ended⟩ := endJob_eq s r e read x dur
  have okv : v.Inv := kept.inv ok
  have okw := (setEngine_keeps r e { v.engine r e with running := some { j with status := some word }, late := none }
    (Keeps.refl v)).inv okv
  rw [ended, engine_guardRelease okw, engine_setEngine_same okv.tables]
  exact ⟨word, rfl, own, rfl⟩

end

/-! ### The computation of the running job -/

section
variable {s : State} {r e : Nat} {j : Job} {d : List Byte} (running : (s.engine r e).running = some j) (read : j.desc = some d)
  (going : j.status = none) (timely : (s.engine r e).late = none) (claimed : s.rb (RA_ENGSTAT.adr r e) RA_ENGSTAT.HWAIT = false)
  (ecc : BufErrs) (dur : Nat) (f : Option (Nat × Nat) → List Byte → State → JobRes × State)
include running read going timely claimed

/-- A job that is due and has a parameter out of range ends with BAD_PARAM (R229). -/
theorem withJob_bad {w : Nat} (fails : paramFails d = some w) :
    s.withJob r e [jType d] ecc dur f = s.endJob r e j (.err 0x11 w) dur := by
  simp only [withJob, running, read, going, timely, claimed, fails, Option.isSome_none, Bool.or_self, List.contains_cons,
    beq_self_eq_true, Bool.true_or, Bool.not_true, Bool.false_eq_true, if_false]

/-- A job that is due and has its parameters in range runs its computation (R231 to R261, R346). -/
theorem withJob_good (fits : paramFails d = none) :
    let y := f (ecc.bad.map fun n => (n, 0x21)) d s
    s.withJob r e [jType d] ecc dur f =
      (y.2.bufReports r ecc (y.1.finish.code = 0x21)).endJob r e j y.1.finish dur := by
  simp only [withJob, running, read, going, timely, claimed, fits, Option.isSome_none, Bool.or_self, List.contains_cons,
    beq_self_eq_true, Bool.true_or, Bool.not_true, Bool.false_eq_true, if_false]

theorem withJob_ends (ok : s.Inv) (kept : Keeps s (f (ecc.bad.map fun n => (n, 0x21)) d s).2) :
    let t := s.withJob r e [jType d] ecc dur f
    (∃ word, (t.engine r e).running = some { j with status := some word } ∧ (∀ w, paramFails d = some w → word = 0x1100 + w)) ∧
      (t.engine r e).guard = none := by
  intro t
  cases fails : paramFails d with
  | some w =>
    have ends : t = s.endJob r e j (.err 0x11 w) dur := withJob_bad running read going timely claimed ecc dur f fails
    obtain ⟨word, ended, own, free⟩ := endJob_engine r e read (.err 0x11 w) dur ok
    rw [ends]
    exact ⟨⟨word, ended, fun w' same => Option.some.inj same ▸ own rfl⟩, free⟩
  | none =>
    have ends := withJob_good running read going timely claimed ecc dur f fails
    have reported := (bufReports_keeps r ecc ((f (ecc.bad.map fun n => (n, 0x21)) d s).1.finish.code = 0x21) kept).inv ok
    obtain ⟨word, ended, -, free⟩ := endJob_engine r e read (f (ecc.bad.map fun n => (n, 0x21)) d s).1.finish dur reported
    rw [show t = _ from ends]
    exact ⟨⟨word, ended, nofun⟩, free⟩

end

end State

/-- The command `m.1` runs, for jobs of type `m.2.1`, the computation `m.2.2`, which keeps what `Keeps` speaks of. -/
def Computes (s : State) (r : RegionId) (e : EngineId) (ecc : BufErrs) (dur : Nat) (d : List Byte)
    (m : Instr × Nat × (Option (Nat × Nat) → List Byte → State → JobRes × State)) : Prop :=
  exec m.1 s = .next (s.withJob r e [m.2.1] ecc dur m.2.2) ∧ Keeps s (m.2.2 (ecc.bad.map fun n => (n, 0x21)) d s).2

open State in
/-- Settles O26: a command of a job type runs the computation of that type on the running job (R231 to R261), and what ends the job
leaves the engine with its status word and no guard. -/
theorem enginesRunJobsOfTheirTypes : Obligations.EnginesRunJobsOfTheirTypes := by
  intro s r e ecc dur j d running read going timely claimed ok c type f member typed
  have start := Keeps.refl s
  have computes : Computes s r e ecc dur.toNat d (c, type, f) := by
    refine List.forall_iff_forall_mem.mp ?_ _ member
    exact ⟨⟨rfl, decodeJob_keeps _ _ _ start⟩, ⟨rfl, combineJob_keeps _ _ _ start⟩, ⟨rfl, encodeJob_keeps _ _ _ start⟩,
      ⟨rfl, polarDecJob_keeps _ _ _ start⟩, ⟨rfl, polarEncJob_keeps _ _ _ start⟩, ⟨rfl, shortJob_keeps _ _ _ start⟩,
      ⟨rfl, decodeJob_keeps _ _ _ start⟩, ⟨rfl, encodeJob_keeps _ _ _ start⟩, ⟨rfl, convDecJob_keeps _ _ _ start⟩,
      ⟨rfl, convEncJob_keeps _ _ _ start⟩, ⟨rfl, demapJob_keeps _ _ _ start⟩, ⟨rfl, detectJob_keeps _ _ _ start⟩,
      ⟨rfl, factorJob_keeps _ _ _ start⟩⟩
  obtain ⟨runs, kept⟩ := computes
  subst typed
  refine ⟨fun w fails => ?_, fun fits => ?_, fun t next => ?_⟩
  · rw [runs, withJob_bad running read going timely claimed ecc dur.toNat f fails]
  · exact runs.trans (congrArg _ (withJob_good running read going timely claimed ecc dur.toNat f fits))
  · cases runs.symm.trans next
    exact withJob_ends running read going timely claimed ecc dur.toNat f ok kept

end Sys2Proof.Machine
end

section
/-! Jobs that complete, that reach their limit, and engines that stop (R226, R227, R230, R263, R264). -/

namespace Sys2Proof.Machine

/-! ### What ends a job after some requests -/

namespace JobRes

variable {x : JobRes}

theorem spend_zero {c : Nat} (due : x.left = some (0, c)) (going : x.stopped = false) :
    x.spend = { x with code := c, detail := 0, left := none } := by
  simp only [spend, due, going, Bool.false_eq_true, if_false]

theorem spend_succ {k c : Nat} (due : x.left = some (k + 1, c)) : x.spend = { x with left := some (k, c) } := by
  simp only [spend, due]

theorem finish_due {n c : Nat} (due : x.left = some (n, c)) (going : x.stopped = false) :
    x.finish = { x with code := c, detail := 0, left := none } := by
  simp only [finish, due, going, Bool.false_eq_true, if_false]

/-- A job that an error has ended is not ended again (R230). -/
theorem finish_stopped (stopped : x.stopped = true) : x.finish = { x with left := none } ∨ x.left = none ∧ x.finish = x := by
  cases due : x.left with
  | none => exact .inr ⟨rfl, by simp only [finish, due]⟩
  | some p => exact .inl (by simp only [finish, due, stopped, if_true])

end JobRes

namespace State

section
variable {s : State} {r e : Nat} {j : Job} {d : List Byte} (running : (s.engine r e).running = some j) (read : j.desc = some d)
include running read

/-- A job whose record is written, and that has no job-event pulse to send, completes (R226, R227). -/
theorem jobComplete_written {word : Nat} (written : j.status = some word) (timely : (s.engine r e).late = none)
    (going : s.rb (RA_GSTAT.adr r) RA_GSTAT.PAUSED = false) (silent : jEvEn d = false)
    (clear : s.pulseHeld (jobEvXing r) e = false) :
    let v := s.pulse (engDoneXing r) e (48 + e)
    s.jobComplete r e = ((((v.setEngine r e { v.engine r e with
      running := none, pulsed := false, late := none, statuses := (v.engine r e).statuses ++ [word] }).wb (RA_ENGSTAT.adr r e)
      RA_ENGSTAT.BUSY false).incWrap (RA_JOBCNT.adr r e) RA_JOBCNT.COUNT 1).wf (RA_ENGSTAT.adr r e) RA_ENGSTAT.LASTCODE
      (word / 256)).wf (RA_ENGSTAT.adr r e) RA_ENGSTAT.LASTTAG (jTag d) := by
  simp only [jobComplete, running, read, written, timely, going, silent, clear, Option.getD_some, Bool.false_and, Bool.false_eq_true,
    if_false]

/-- An engine that is available stops as a faulting unit (R264). -/
theorem stopEngine_available (on : s.rb (RA_ENGSTAT.adr r e) RA_ENGSTAT.UNAVAIL = false) (why : Nat) :
    let st := RA_ENGSTAT.adr r e
    let idle := (s.setEngine r e { Engine.reset with statuses := (s.engine r e).statuses }).guardSync r
    let off := ((((idle.wb st RA_ENGSTAT.BUSY false).wb st RA_ENGSTAT.STAGED false).wb st RA_ENGSTAT.HWAIT false).wb st
      RA_ENGSTAT.UNAVAIL true).wf (RA_GSTAT.adr r) ⟨e, 1⟩ 1
    s.stopEngine r e why =
      (((off.setUnavail r (48 + e) true).abortUnit r (48 + e) 1).raise 0x0403 (engSrc r e) (jTag d) why 0).airSync := by
  simp only [stopEngine, on, running, read, Option.map_some, Option.getD_some, Bool.false_eq_true, if_false]

end

/-! ### The limit of a job -/

/-- What a job of engine `e` that reaches its limit after `done` requests reports, and what it leaves (R230, R263): one that waits for
its buffer has made none, and one whose parameters are out of range makes none. -/
def cutShort (s : State) (r e done : Nat) (d : List Byte) : JobRes × State :=
  if s.rb (RA_ENGSTAT.adr r e) RA_ENGSTAT.HWAIT then (.err 0x30 0, s)
  else match paramFails d with
    | some w => (.err 0x11 w, s)
    | none => ((jobWork r (some (done, 0x30)) d s).1.finish, (jobWork r (some (done, 0x30)) d s).2)

/-- The timeout event of a job that no error ended before, and the end of its wait for a buffer (R263). -/
def limitReached (r e tag lim : Nat) (part : JobRes × State) : State :=
  (if part.1.code = 0x30 then part.2.raise 0x0402 (engSrc r e) tag lim 0 else part.2).wb (RA_ENGSTAT.adr r e) RA_ENGSTAT.HWAIT false

/-- A job with report `x` keeps it for a record that is overdue, and else ends with it (R263). -/
def lateOrEnded (v : State) (r e : Nat) (j : Job) (overdue : Bool) (x : JobRes) : State :=
  if overdue then v.setEngine r e { v.engine r e with late := some x } else v.drawn.endJob r e j x (Config.freeValue v.free % 2 ^ 32)

theorem lateOrEnded_late (v : State) (r e : Nat) (j : Job) (x : JobRes) :
    v.lateOrEnded r e j true x = v.setEngine r e { v.engine r e with late := some x } := if_pos rfl

theorem lateOrEnded_ended (v : State) (r e : Nat) (j : Job) (x : JobRes) :
    v.lateOrEnded r e j false x = v.drawn.endJob r e j x (Config.freeValue v.free % 2 ^ 32) := if_neg Bool.false_ne_true

/-- The running job reaches its limit with what it reports by then (R263). -/
theorem jobTimeout_due {s : State} {r e : Nat} {j : Job} {d : List Byte} (running : (s.engine r e).running = some j)
    (read : j.desc = some d) (going : j.status = none) (timely : (s.engine r e).late = none)
    (limited : s.rf (RA_JOBLIM.adr r e) RA_JOBLIM.LIMIT ≠ 0) (overdue : Bool) (done : Nat) :
    s.jobTimeout r e overdue done =
      (limitReached r e (jTag d) (s.rf (RA_JOBLIM.adr r e) RA_JOBLIM.LIMIT) (s.cutShort r e done d)).lateOrEnded r e j overdue
        (s.cutShort r e done d).1 := by
  unfold jobTimeout
  simp only [running, read]
  rw [if_neg (by simp [going, timely, limited]), cutShort]
  split
  · rfl
  · cases paramFails d with
    | some _ => rfl
    | none => rfl

end State

open State in
/-- Settles O27: each command is the equation of what it does with the running job of its engine. -/
theorem jobsCompleteTimeOutAndEnginesStop : Obligations.JobsCompleteTimeOutAndEnginesStop := by
  intro s r e j d running read st g
  refine ⟨fun word written timely going silent clear => ?_, fun done going timely limited => ?_,
    fun x n c due going => ⟨fun none_ => ?_, fun k more => ?_, ?_⟩, fun x stopped => ?_, fun on => ⟨fun late => ?_, ?_⟩⟩
  · exact congrArg _ (jobComplete_written running read written timely going silent clear)
  · intro part u v
    have timedOut := jobTimeout_due running read going timely limited (done := done)
    have cut : s.cutShort r e done d = part := rfl
    have left : limitReached r e (jTag d) (s.rf (RA_JOBLIM.adr r e) RA_JOBLIM.LIMIT) part = v := rfl
    rw [cut, left] at timedOut
    exact ⟨congrArg _ ((timedOut true).trans (lateOrEnded_late ..)), congrArg _ ((timedOut false).trans (lateOrEnded_ended ..))⟩
  · exact JobRes.spend_zero (none_ ▸ due) going
  · exact JobRes.spend_succ (more ▸ due)
  · exact JobRes.finish_due due going
  · exact JobRes.finish_stopped stopped
  · exact congrArg _ ((if_pos late).trans (stopEngine_available running read on 1))
  · exact congrArg _ (stopEngine_available running read on 2)

end Sys2Proof.Machine
end

section
/-! Carriers (R268, R279, R293, R321, R322, R329): CELL_SETUP, CELL_START, CELL_STOP and CELL_QUERY. -/

namespace Sys2Proof.Machine

namespace State

/-! ### Packets of carriers -/

/-- A check whose condition stands for `p` goes on under `p`. -/
theorem chk_eq_ite {b : Bool} {p : Prop} [Decidable p] (h : b = true ↔ p) (s : State) (t : Ticket) (st : Nat) (f : State → State) :
    s.chk t b st f = if p then f s else s.answer t st [] := by
  by_cases hp : p
  · rw [h.mpr hp, chk_true, if_pos hp]
  · rw [Bool.eq_false_iff.mpr (mt h.mp hp), chk_false, if_neg hp]

section
variable {s : State} {p : Packet} {ok : State → Cmd → Prop} {f : State → Cmd → State}

/-- A packet whose opcode has handler `g` leaves what `g` leaves. -/
theorem serving_of_handler {i : Instr} {op : Nat} {g : State → Cmd → State} (hi : exec i s = .next (s.takePacket op p noHost))
    (hm : isSlotMsg op = false) (hg : ∀ u c, c.op = op → u.dispatch c = g u c) (h : ∀ u c, ok u c → g u c = f u c) :
    s.Serving i op p ok f :=
  serving_of hi hm fun u c _ ho fine => (hg u c ho).trans (h u c fine)

theorem serving_cellSetup (h : ∀ u c, ok u c → u.hCellSetup c = f u c) : s.Serving (.cellSetup p) 0x0301 p ok f :=
  serving_of_handler rfl rfl (fun u c ho => by rw [dispatch, ho]; rfl) h

theorem serving_cellStart (h : ∀ u c, ok u c → u.hCellStart c = f u c) : s.Serving (.cellStart p) 0x0302 p ok f :=
  serving_of_handler rfl rfl (fun u c ho => by rw [dispatch, ho]; rfl) h

theorem serving_cellStop (h : ∀ u c, ok u c → u.hCellStop c = f u c) : s.Serving (.cellStop p) 0x0303 p ok f :=
  serving_of_handler rfl rfl (fun u c ho => by rw [dispatch, ho]; rfl) h

theorem serving_cellQuery (h : ∀ u c, ok u c → u.hCellQuery c = f u c) : s.Serving (.cellQuery p) 0x0304 p ok f :=
  serving_of_handler rfl rfl (fun u c ho => by rw [dispatch, ho]; rfl) h

end

variable {u : State} {c : Cmd}

/-! ### CELL_SETUP -/

theorem hCellSetup_refused (bad : u.setupOk c.ws = false) : u.hCellSetup c = u.answer c.ticket sBadParam [] := by
  rw [hCellSetup, bad, chk_false]

theorem hCellSetup_busy (good : u.setupOk c.ws = true) (busy : u.carrier c.tgt ≠ none ∨ u.ddrBusy = true) :
    u.hCellSetup c = u.answer c.ticket sBusy [] := by
  have taken : ((u.carrier c.tgt).isNone && !u.ddrBusy) = false := by
    rcases busy with h | h <;> simp [h]
  rw [hCellSetup, good, chk_true, taken, chk_false]

/-- Parameters that keep every rule, for a carrier that is absent, become a carrier when the worksheet and the pages left allow it. -/
theorem hCellSetup_checked (good : u.setupOk c.ws = true) (absent : u.carrier c.tgt = none) (ready : u.ddrBusy = false) :
    let car : Carrier := ⟨c.ws, 1, 0, [], none, (u.costOf c.ws).1, [], [], []⟩
    let fit := (u.costOf c.ws).2.worksheet car
    let pages := if fit.2.retiredOwn = true then fit.2.draw 1 else (0, fit.2)
    let v := (pages.2.setCarrier c.tgt (some car)).setTmpls c.tgt c.ws
    let a := CP_CAR.adr (cCport c.ws)
    u.hCellSetup c = if fit.1 = true ∧ pages.1 = 0 then
        (if cCat c.ws = 3 then (((v.wf a CP_CAR.FSSEL (fsSel c.ws)).wf a CP_CAR.NANTM1 (cNant c.ws - 1)).wb a CP_CAR.VALID
            true).cpAlign (cCport c.ws) (gpsEpoch + cFoffset c.ws)
          else v).answer c.ticket sOk []
      else pages.2.answer c.ticket sNoResource [] := by
  have free : ((u.carrier c.tgt).isNone && !u.ddrBusy) = true := by rw [absent, ready]; rfl
  rw [hCellSetup, good, chk_true, free, chk_true]
  generalize u.costOf c.ws = costs
  obtain ⟨cost, u₁⟩ := costs
  dsimp only
  generalize u₁.worksheet _ = fit
  obtain ⟨fits, u₂⟩ := fit
  dsimp only
  generalize (if u₂.retiredOwn = true then u₂.draw 1 else (0, u₂)) = pages
  exact chk_eq_ite (by rw [Bool.and_eq_true, decide_eq_true_iff]) pages.2 c.ticket sNoResource _

/-! ### CELL_START -/

section
variable {k : Carrier} (named : u.carrier c.tgt = some k)
include named

/-- A carrier that is set up starts at the frame `f`: the next of the SFN, or with NEXT the first boundary at least 2 ms ahead. -/
theorem hCellStart_setUp {f : Int} (idle : k.st = 1) (reserved : bits (c.w 0) 10 21 = 0)
    (sfn : bit (c.w 0) 31 = true → bits (c.w 0) 0 10 = 0)
    (frame : (if bit (c.w 0) 31 then frameAt k.words ((u.ext : Int) + 2000000 - 1) + 1
      else frameAt k.words u.ext + 1 + ((bits (c.w 0) 0 10 : Int) - (frameAt k.words u.ext + 1)) % 1024) = f) :
    let x := frameStartAt k.words f
    u.hCellStart c = ((u.setCarrier c.tgt (some { k with st := 2, start := x })).fddStep k.words true 0 x).answer c.ticket sOk [] := by
  have good : (decide (k.st = 1) && decide (bits (c.w 0) 10 21 = 0) && (!bit (c.w 0) 31 || decide (bits (c.w 0) 0 10 = 0))) = true := by
    cases next : bit (c.w 0) 31
    · simp [idle, reserved]
    · simp [idle, reserved, sfn next]
  simp only [hCellStart, named, good, chk_true, frame]

theorem hCellStart_refused (started : k.st ≠ 1) : u.hCellStart c = u.answer c.ticket sBadParam [] := by
  simp only [hCellStart, named, started, decide_false, Bool.false_and, chk_false]

/-! ### CELL_STOP -/

theorem hCellStop_setUp (idle : k.st = 1) : u.hCellStop c = ((u.accept c.ticket).dropCarrier c.tgt sOk).finish c.ticket sOk [] := by
  have other : k.st ≠ 3 := by omega
  simp only [hCellStop, named, decide_eq_true other, chk_true, if_pos idle]

theorem hCellStop_started (started : k.st = 2) :
    let e := k.slots.foldl (fun (m : Int) x => max m (x.tair + cSlotNs k.words)) (u.ext : Int)
    u.hCellStop c = ((u.accept c.ticket).setCarrier c.tgt (some { k with st := 3, stop := some (c.ticket, e) })).fddStep k.words false
      (cNdn k.words - 1) e := by
  have other : k.st ≠ 3 := by omega
  have notIdle : k.st ≠ 1 := by omega
  simp only [hCellStop, named, decide_eq_true other, chk_true, if_neg notIdle]

theorem hCellStop_stopping (stopping : k.st = 3) : u.hCellStop c = u.answer c.ticket sBusy [] := by
  have same : decide (k.st ≠ 3) = false := decide_eq_false (not_not.mpr stopping)
  simp only [hCellStop, named, same, chk_false]

/-! ### CELL_QUERY -/

theorem hCellQuery_known (timed : u.extSet = true) : u.hCellQuery c = u.answer c.ticket sOk [word k.st, word (cRegion k.words),
    word (u.nextSlot k.words).1, word (u.nextSlot k.words).2] := by
  simp only [hCellQuery, named, timed, if_true]

end

theorem hCellStart_absent (absent : u.carrier c.tgt = none) : u.hCellStart c = u.answer c.ticket sBadParam [] := by
  simp only [hCellStart, absent]

theorem hCellQuery_absent (absent : u.carrier c.tgt = none) :
    u.hCellQuery c = u.drawn.answer c.ticket sOk (0 :: (u.drawWords 3).1) := by
  simp only [hCellQuery, absent]
  rfl

/-- The carrier leaves when its last slot has ended, no slot of it is open and its amplifier rests (R293, R329). -/
theorem cellStopEffect_ended {s : State} {n : Nat} {k : Carrier} {t : Ticket} {e : Int} (named : s.carrier n = some k)
    (stopping : k.stop = some (t, e)) (ended : e ≤ s.ext) (closed : ∀ x ∈ k.slots, x.isOpen (cSlotNs k.words) s.ext = false)
    (rests : ∀ ch, rampChan k.words = some ch → (s.chan ch).steps = []) : s.cellStopEffect n = s.dropCarrier n sOk := by
  have none_ : (k.slots.any fun x => x.isOpen (cSlotNs k.words) s.ext) = false :=
    List.any_eq_false.mpr fun x hx => Bool.eq_false_iff.mp (closed x hx)
  simp only [cellStopEffect, named, stopping, none_]
  refine if_neg ?_
  cases channel : rampChan k.words with
  | none => simp [ended]
  | some ch => simp [ended, rests ch channel]

end State

open State in
/-- Settles O38: each packet is the equation of what its handler does with the carrier that it names. -/
theorem carriersAreSetUpStartedAndStopped : Obligations.CarriersAreSetUpStartedAndStopped := by
  intro s p
  refine ⟨serving_cellSetup fun _ _ => hCellSetup_refused, serving_cellSetup fun _ _ ⟨good, busy⟩ => hCellSetup_busy good busy,
    serving_cellSetup fun _ _ ⟨good, absent, ready⟩ => hCellSetup_checked good absent ready, fun k => ?_,
    serving_cellStart fun _ _ => hCellStart_absent, serving_cellQuery fun _ _ => hCellQuery_absent⟩
  refine ⟨serving_cellStart fun u c ⟨⟨named, idle, reserved⟩, noNext⟩ => ?_,
    serving_cellStart fun u c ⟨⟨named, idle, reserved⟩, next, noSfn⟩ => ?_,
    serving_cellStart fun _ _ ⟨named, started⟩ => hCellStart_refused named started,
    serving_cellStop fun _ _ ⟨named, idle⟩ => hCellStop_setUp named idle,
    serving_cellStop fun _ _ ⟨named, started⟩ => hCellStop_started named started,
    serving_cellStop fun _ _ ⟨named, stopping⟩ => hCellStop_stopping named stopping,
    serving_cellQuery fun _ _ ⟨named, timed⟩ => hCellQuery_known named timed,
    fun n t e named stopping ended closed rests => congrArg _ (cellStopEffect_ended named stopping ended closed rests)⟩
  · exact hCellStart_setUp named idle reserved (by simp [noNext]) (by simp [noNext])
  · exact hCellStart_setUp named idle reserved (fun _ => noSfn) (if_pos next)

end Sys2Proof.Machine
end

section
/-! Slot messages (R281 to R284, R315, R325 to R329): taken in time or answered LATE, and the payloads that a fetch brings. -/

namespace Sys2Proof.Machine

namespace State

/-! ### The slot that a message names -/

/-- T_air of the slot that a message names, and the record of that slot. -/
def msgAir (k : Carrier) (u : State) (c : Cmd) : Int := airOf k.words (bits (c.w 0) 0 16) (bits (c.w 0) 16 8) u.ext
def msgSlot (k : Carrier) (u : State) (c : Cmd) : SlotRec := recOf k (msgAir k u c) (bits (c.w 0) 0 16) (bits (c.w 0) 16 8)

/-- The PDUs and the payload entries of a message. -/
def msgPdus (c : Cmd) : List (List Word) := (pdusOf (bits (c.w 0) 24 8) (c.ws.drop 2)).getD []
def msgEntries (c : Cmd) : List (List Word) := splitEvery 4 (bits (c.w 0) 24 8) (c.ws.drop 2)

/-- A message to the started carrier `k`, on its ring, that is well-formed and comes `lead` ns ahead of its slot or earlier, and at most
20 ms ahead of it (R281, R283, R315). -/
structure InTime (k : Carrier) (lead : Nat) (u : State) (c : Cmd) : Prop where
  named : u.carrier c.tgt = some k
  slot : bits (c.w 0) 0 16 < 1024 ∧ bits (c.w 0) 16 8 < 10 * 2 ^ cMu k.words
  ahead : (u.ext : Int) ≤ msgAir k u c - lead
  near : msgAir k u c ≤ (u.ext : Int) + 20000000
  header : c.hdrOk = true
  reserved : c.w 1 = 0
  started : k.st = 2
  ring : c.ring = some (cSlotRing k.words)

section
variable {u : State} {c : Cmd} {k : Carrier}

section
variable (good : InTime k (cfgLead (cMu k.words)) u c)
include good

/-- A DL_CONFIG in time, of a slot that has none, with PDUs that keep every rule. -/
theorem hSlot_dlConfig_taken (op : c.op = 0x0401) (first : (msgSlot k u c).dlSeen = false)
    (fit : ∀ q ∈ msgPdus c, pduOk k.words q true = true) (ids : distinctIds (msgPdus c) = true)
    (layers : layersOk k.words (msgPdus c) 16 = true) :
    u.hSlot c = (u.putSlot c.tgt { msgSlot k u c with dl := some (msgPdus c), dlSeen := true }).answer c.ticket sOk [] := by
  obtain ⟨named, ⟨sfn, slot⟩, ahead, near, header, reserved, started, ring⟩ := good
  have fits := List.all_eq_true.mpr fit
  simp only [msgSlot, msgAir, msgPdus] at ahead near first fits ids layers
  simp [hSlot, op, named, sfn, slot, not_lt.mpr ahead, near, header, reserved, started, ring, msgSlot, msgAir, msgPdus, first, fits, ids,
    layers]

/-- A DL_CONFIG in time, of a slot that has had one. -/
theorem hSlot_dlConfig_again (op : c.op = 0x0401) (seen : (msgSlot k u c).dlSeen = true) :
    u.hSlot c = u.answer c.ticket sBadParam [] := by
  obtain ⟨named, ⟨sfn, slot⟩, ahead, near, header, reserved, started, ring⟩ := good
  simp only [msgSlot, msgAir] at ahead seen
  simp [hSlot, op, named, sfn, slot, not_lt.mpr ahead, seen]

/-- A UL_CONFIG in time, of a slot that has none, with PDUs that keep every rule. -/
theorem hSlot_ulConfig_taken (op : c.op = 0x0403) (first : (msgSlot k u c).ulSeen = false)
    (fit : ∀ q ∈ msgPdus c, pduOk k.words q false = true ∧ u.harqOk k.words q = true) (ids : distinctIds (msgPdus c) = true)
    (layers : layersOk k.words (msgPdus c) 8 = true) :
    let v := u.putSlot c.tgt { msgSlot k u c with
      ul := some (msgPdus c), ulSeen := true, ulTicket := if bits (c.w 0) 24 8 = 0 then none else some c.ticket }
    u.hSlot c = (if bits (c.w 0) 24 8 = 0 then v
      else v.armSlot k.words (msgAir k u c) (bits (c.w 0) 0 16) (bits (c.w 0) 16 8)).answer c.ticket sOk [] := by
  obtain ⟨named, ⟨sfn, slot⟩, ahead, near, header, reserved, started, ring⟩ := good
  have fits : ((msgPdus c).all fun q => pduOk k.words q false && u.harqOk k.words q) = true :=
    List.all_eq_true.mpr fun q hq => Bool.and_eq_true_iff.mpr (fit q hq)
  simp only [msgSlot, msgAir, msgPdus] at ahead near first fits ids layers
  simp [hSlot, op, named, sfn, slot, not_lt.mpr ahead, near, header, reserved, started, ring, msgSlot, msgAir, msgPdus, first, fits, ids,
    layers]

end

/-- A DL_DATA in time, of a slot that has none, with entries that the PDUs of its DL_CONFIG allow. -/
theorem hSlot_dlData_taken {q : List (List Word)} (good : InTime k (dataLead (cMu k.words)) u c) (op : c.op = 0x0402)
    (known : (msgSlot k u c).dl = some q) (first : (msgSlot k u c).dataSeen = false) (fit : ∀ e ∈ msgEntries c, dataOk q e = true) :
    u.hSlot c = if bits (c.w 0) 24 8 = 0
      then (u.putSlot c.tgt { msgSlot k u c with data := some [], dataSeen := true }).acceptFinish c.ticket sOk [0]
      else (u.putSlot c.tgt { msgSlot k u c with
        data := some ((msgEntries c).map fun e => (pf e 0 0 16, pf e 1 0 24, pf e 2 0 32 + 2 ^ 32 * pf e 3 0 32)),
        dataSeen := true, fetch := some c.ticket }).accept c.ticket := by
  obtain ⟨named, ⟨sfn, slot⟩, ahead, near, header, reserved, started, ring⟩ := good
  have fits := List.all_eq_true.mpr fit
  simp only [msgSlot, msgAir, msgEntries] at ahead near known first fits
  simp [hSlot, op, named, sfn, slot, not_lt.mpr ahead, near, header, reserved, started, ring, known, msgSlot, msgAir, msgEntries, first,
    fits]

/-- The first DL_CONFIG of a slot, with a good header, that comes late. -/
theorem hSlot_dlConfig_late (op : c.op = 0x0401) (named : u.carrier c.tgt = some k)
    (slot : bits (c.w 0) 0 16 < 1024 ∧ bits (c.w 0) 16 8 < 10 * 2 ^ cMu k.words)
    (late : msgAir k u c - cfgLead (cMu k.words) < (u.ext : Int)) (first : (msgSlot k u c).dlSeen = false) (started : k.st = 2)
    (header : c.hdrOk = true) :
    u.hSlot c = (u.putSlot c.tgt { msgSlot k u c with dlSeen := true }).answer c.ticket sLate [] := by
  simp only [msgSlot, msgAir] at late first
  simp [hSlot, op, named, slot, late, first, started, header, msgSlot, msgAir]

theorem hSlot_absent (absent : u.carrier c.tgt = none) : u.hSlot c = u.answer c.ticket sBadParam [] := by
  simp only [hSlot, absent]

end

/-! ### The fetch of payloads -/

/-- A fetch that ends (R329). -/
theorem fetchDone_ends {s : State} {n sfn slot : Nat} {k : Carrier} {x : SlotRec} {t : Ticket} (named : s.carrier n = some k)
    (taken : slotRec k (airOf k.words sfn slot s.ext) = some x) (fetching : x.fetch = some t) (failed : List (Nat × Nat)) :
    let got := (x.data.getD []).foldl (fetchOne failed) ([], [], s)
    s.fetchDone n sfn slot failed =
      (got.2.1.foldl (fun s g => s.raise 0x0504 (1024 + n) (sfn * 2 ^ 16 + slot) g.1 g.2)
        (got.2.2.putSlot n { x with fetch := none, payload := got.1, missing := got.2.1.map Prod.fst })).finish t sOk
          (word got.2.1.length :: got.2.1.map fun g => word g.1) := by
  simp only [fetchDone, named, taken, fetching]

theorem fetchOne_served {failed : List (Nat × Nat)} {e : Nat × Nat × Nat} {u v : State} {bs : List Byte}
    (served : ∀ g ∈ failed, g.1 ≠ e.1) (read : u.busRead 40 (0x800000000000 + e.2.2) e.2.1 = (none, bs, v))
    (got : List (Nat × List Byte)) (bad : List (Nat × Nat)) : fetchOne failed (got, bad, u) e = (got ++ [(e.1, bs)], bad, v) := by
  have none_ : (failed.find? fun g => g.1 = e.1) = none := List.find?_eq_none.mpr fun g hg => by simpa using served g hg
  simp only [fetchOne, read, none_, Option.map_none, Option.orElse_none]

end State

open State in
/-- Settles O40: each slot message, in time or late, is the equation of what its handler does with its slot, and the fetch is the fold of
its entries. -/
theorem slotMessagesAreTakenInTime : Obligations.SlotMessagesAreTakenInTime := by
  intro s p k sfn slot npdu air rec' pdus entries named good config data
  have inTime {lead : Nat} {u : State} {c : Cmd} (h : good lead u c) : InTime k lead u c := by
    obtain ⟨known, slot, ahead, near, header, reserved, started, ring⟩ := h
    exact ⟨known, slot, ahead, near, header, reserved, started, ring⟩
  refine ⟨serving_of_slot rfl rfl fun u c op ⟨timely, first, fit, ids, layers⟩ =>
      hSlot_dlConfig_taken (inTime timely) op first fit ids layers,
    serving_of_slot rfl rfl fun u c op ⟨timely, seen⟩ => hSlot_dlConfig_again (inTime timely) op seen,
    serving_of_slot rfl rfl fun u c op ⟨known, slot, late, first, started, header⟩ =>
      hSlot_dlConfig_late op known slot late first started header,
    fun q => serving_of_slot rfl rfl fun u c op ⟨timely, known, first, fit⟩ => hSlot_dlData_taken (inTime timely) op known first fit,
    serving_of_slot rfl rfl fun u c op ⟨timely, first, fit, ids, layers⟩ =>
      hSlot_ulConfig_taken (inTime timely) op first fit ids layers,
    serving_of_slot rfl rfl fun u c _ => hSlot_absent,
    fun n f b failed host x t known taken fetching => congrArg Host.Outcome.next (congrArg calm
      (fetchDone_ends (s := s.hosting host) known taken fetching _)),
    fun failed e got bad u v bs served read => fetchOne_served served read got bad⟩

end Sys2Proof.Machine
end

section
/-! Indications and control messages (R276, R281, R282, R284 to R287, R330 to R332, R419). -/

namespace Sys2Proof.Machine

namespace State

/-! ### Indications -/

theorem indDone_iff (ps : List (List Word)) (sent : List Nat) :
    indDone ps sent = true ↔ 5 ∈ sent ∧ (4 ∈ sent ∨ ∀ q ∈ ps, pduType q &&& 0xFF0F ≠ 0x0103) := by
  simp [indDone]

/-- Uplink data that is present and passes goes to its place in host memory, and other data nowhere (R332). -/
theorem entryWrite_uplink {x : SlotRec} {e : IndEntry} {q : List Word} (named : ulPdu x e = some q) (data : e.data ≠ []) (v : State) :
    v.entryWrite x 1 e = if bit (entryHead ((e.words.getD 0 0).toNat) 6) 16 = true
      then v.hostPost (pf q 11 0 32 + 2 ^ 32 * pf q 12 0 32 + e.place) e.data else v := by
  cases passed : bit (entryHead ((e.words.getD 0 0).toNat) 6) 16
  · simp only [entryWrite, named, entryBytes, passed, Bool.false_eq_true, and_false, if_false, List.isEmpty_nil, if_true]
  · simp only [entryWrite, named, entryBytes, passed, and_self, if_true, List.isEmpty_iff, data, if_false]

/-! ### Control messages -/

theorem beamCuts_const {m : Nat} (some_ : 1 ≤ m) (b : Option Nat) : beamCuts m (fun _ => b) = [(0, m, b)] := by
  induction m, some_ using Nat.le_induction with
  | base => rfl
  | succ m _ ih =>
    rw [beamCuts] at ih ⊢
    rw [List.range_succ, List.foldl_append, ih]
    simp

theorem foldl_eq_foldl_zipIdx {α σ : Type} (f : σ → α → σ) (l : List α) (v : σ) :
    l.foldl f v = l.zipIdx.foldl (fun v r => f v r.1) v := by
  conv_lhs => rw [← List.zipIdx_map_fst 0 l, List.foldl_map]

/-- The runs of a message to a radio that is not of category B carry no beam and no weights (R276). -/
theorem ulControl_plain {v : State} {h : List Word} {x : SlotRec} {k : Carrier} (plain : cCat h ≠ 2)
    (uplink : v.hasUl k x.tair x.sfn x.slot = true) (n q : Nat) (lt : Int) (stale : Bool) :
    v.ulControl n k h x q lt stale =
      (symRuns (cSyms k.words) (fun y => v.sendsSym k x.tair x.sfn x.slot y false) fun _ => ()).foldl (fun v r =>
        upto (cUlStreams h) (fun i v => v.ctrlMessage h k.words false x.sfn x.slot i q lt r.1
          [ctrlSection h 0 0 (cNprb h) r.2.1 0 []]) v) v := by
  simp only [ulControl, uplink, plain, Bool.not_true, Bool.false_eq_true, if_false, List.range_zero, List.foldl_nil, sget, ite_self]
  symm
  exact foldl_eq_foldl_zipIdx _ _ v

/-- Sections that fit one message go in one (R419). -/
theorem packSections_fit {room : Nat} {secs : List (List Byte)} (some_ : secs ≠ []) (few : secs.length ≤ 255)
    (fit : (secs.map List.length).sum ≤ room) : packSections room secs = [secs] := by
  induction secs using List.reverseRecOn with
  | nil => exact absurd rfl some_
  | append_singleton secs x ih =>
    rw [List.map_append, List.sum_append] at fit
    rw [List.length_append] at few
    simp only [List.map_cons, List.map_nil, List.sum_cons, List.sum_nil, List.length_cons, List.length_nil] at fit few
    rw [packSections, List.foldl_append]
    by_cases first : secs = []
    · subst first; rfl
    · have before := ih first (by omega) (by omega)
      rw [packSections] at before
      rw [before]
      have room' : (secs.map List.length).sum + x.length ≤ room ∧ secs.length < 255 := by omega
      simp [room']

/-- The message of sections that fit one frame is one entry of its queue (R419). -/
theorem ctrlMessage_whole {v : State} {ws ts : List Word} {dl : Bool} {sfn slot i q : Nat} {lt : Int} {sym : Nat} {secs : List (List Byte)}
    (some_ : secs ≠ []) (few : secs.length ≤ 255) :
    let port := streamPort ws dl i
    let id := (cEaxc ws + i) % 65536
    let hdr := ethHeader (cRmac ws) (v.ethOf port).mac (v.portTag port) 0xAEFE
    (secs.map List.length).sum ≤ 9216 - hdr.length - 20 →
    let bs := ethPad (hdr ++ ecpri 2 (beBytes 2 id ++ [0, 0x80] ++ appHeader ts dl sfn slot sym ++ [0] ++
      beBytes 1 secs.length ++ [0, 0, 0] ++ secs.flatten))
    v.ctrlMessage ws ts dl sfn slot i q lt sym secs = v.joinQueue port q ⟨some (wrapTo 32 ((v.tkns : Int) + (lt - v.ext))),
      some ((v.cyc : Int) + (lt - v.ext)), bs.length, bs.length, [⟨bs, some (hdr.length + 6, if dl then id else 65536 + id)⟩],
      false⟩ := by
  intro port id hdr fit bs
  rw [ctrlMessage, packSections_fit some_ few fit]
  rfl

/-- The control messages of a slot of a carrier in the air go once, from their launch instant (R276, R282). -/
theorem ctrlLaunch_launches {s : State} {n sfn slot : Nat} {k h : Carrier} (named : s.carrier n = some k)
    (host : s.streamHost k = some h) (radio : cCat h.words ≠ 3) :
    let tair := airOf k.words sfn slot s.ext
    let x := recOf k tair sfn slot
    let lt := tair - cTadv k.words - cTcp k.words
    runsAt k tair = true → x.launched = false → slot < 10 * 2 ^ cMu k.words → lt ≤ (s.ext : Int) → ∀ stale : Bool,
    let q := s.draw 3
    let v := (((q.2.dlControl k h.words x q.1 lt).ulControl n k h.words x q.1 lt stale).slotPlane n k h x).putSlot n
      { x with launched := true }
    s.ctrlLaunch n sfn slot stale = if stale = true ∧ cCat h.words = 2 ∧ s.hasUl k tair sfn slot = true
      then v.raise 0x0501 (1024 + n) (sfn * 2 ^ 16 + slot) 0 0 else v := by
  intro tair x lt runs first inside due stale q v
  have goes : ¬ (cCat h.words = 3 ∨ runsAt k tair = false ∨ x.launched = true ∨ 10 * 2 ^ cMu k.words ≤ slot ∨
      (s.ext : Int) < lt) := by
    simp [radio, runs, first, inside, due]
  simp only [ctrlLaunch, named, host]
  rw [if_neg goes]
  simp only [Bool.and_eq_true, decide_eq_true_eq, and_assoc]
  rfl

end State

end Sys2Proof.Machine
end

section
/-! Ramps and gain (R288 to R293). -/

namespace Sys2Proof.Machine

/-! ### The move of GAIN to its target -/

theorem ratPow_eq_zpow (r : Rat) (k : Int) : ratPow r k = r ^ k := by
  rw [ratPow]
  split
  next nonneg => rw [← zpow_natCast, Int.toNat_of_nonneg nonneg]
  next neg => rw [← zpow_natCast, Int.toNat_of_nonneg (by omega), zpow_neg, one_div, inv_inv]

theorem one_lt_gainStep1_sq : 1 < gainStep1 * gainStep1 := by
  norm_num [gainStep1]

theorem find_range_le : ∀ e : Fin 17, (List.range 17).reverse.find? (fun i => decide (i ≤ e.val)) = some e.val := by
  decide

/-- A window whose power lies a whole number of codes below the target moves GAIN by that number (R288). -/
theorem gainMove_exact {p t : Rat} {d : Int} (signal : 0 < p) (lo : -8 ≤ d) (hi : d ≤ 8)
    (target : p * ratPow (gainStep1 * gainStep1) d = t) (up : Bool) : gainMove p t up = d := by
  have atMost (k : Int) : p * ratPow (gainStep1 * gainStep1) k ≤ t ↔ k ≤ d := by
    rw [← target, ratPow_eq_zpow, ratPow_eq_zpow, mul_le_mul_iff_right₀ signal, zpow_le_zpow_iff_right₀ one_lt_gainStep1_sq]
  have below (k : Int) : p * ratPow (gainStep1 * gainStep1) k < t ↔ k < d := by
    rw [← target, ratPow_eq_zpow, ratPow_eq_zpow, mul_lt_mul_iff_right₀ signal, zpow_lt_zpow_iff_right₀ one_lt_gainStep1_sq]
  have last : (List.range 17).reverse.find? (fun i : Nat => decide ((i : Int) - 8 ≤ d)) = some (d + 8).toNat := by
    have shift (i : Nat) : (i : Int) - 8 ≤ d ↔ i ≤ (d + 8).toNat := by omega
    simp only [shift]
    exact find_range_le ⟨(d + 8).toNat, by omega⟩
  have back : (((d + 8).toNat : Nat) : Int) - 8 = d := by omega
  simp only [gainMove, atMost, below, last, Option.getD_some, back, lt_irrefl, decide_false, Bool.and_false, Bool.false_eq_true, if_false]

theorem gainNext_le (old : Nat) (p t : Rat) (up : Bool) : gainNext old p t up ≤ 36 := by
  rw [gainNext]
  omega

theorem gainNext_exact {p t : Rat} {d : Int} (signal : 0 < p) (lo : -8 ≤ d) (hi : d ≤ 8)
    (target : p * ratPow (gainStep1 * gainStep1) d = t) (old : Nat) (up : Bool) :
    (gainNext old p t up : Int) = max 0 (min 36 ((old : Int) + d)) := by
  rw [gainNext, gainMove_exact signal lo hi target]
  omega

/-! ### Windows of a portion -/

/-- The lowest window power of a portion after a window `win` of power `power`, `last` being the one before. -/
def lowPower (last : Option Rat) (win : Nat) (power : Rat) : Rat :=
  match last with
  | some w => if win = 1 then power else min w power
  | none => power

theorem lowPower_cases (last : Option Rat) (win : Nat) (power : Rat) :
    lowPower last win power = power ∨ ∃ w, last = some w ∧ lowPower last win power = min w power := by
  cases last with
  | none => exact .inl rfl
  | some w =>
    by_cases first : win = 1
    · exact .inl (if_pos first)
    · exact .inr ⟨w, rfl, if_neg first⟩

/-- What window `win` finds of a port: an FDD portion begins with its first, its floor being the lowest window of the one before. -/
def WindowFinds (c : CpPort) (ant win : Nat) (tdd : Bool) (g : CpPort) : Prop :=
  (tdd = true ∨ win ≠ 1) ∧ g = c ∨ tdd = false ∧ win = 1 ∧ ∃ w, c.windows.getD ant none = some w ∧ g = c.portion ant w

namespace State

section
variable {s : State} {p ant win a m : Nat} {tgt bthr : Int}

theorem gainWindow_fdd_guard : s.gainWindow p ant 0 a m tgt bthr false = s := by
  simp only [gainWindow, if_true, Bool.false_eq_true, if_false]

theorem gainWindow_tdd_guard (samples : 0 < m) :
    s.gainWindow p ant 0 a m tgt bthr true = s.setCp p ((s.cp p).portion ant (s.rxPower p ant a m)) := by
  simp only [gainWindow, samples.ne', if_true, if_false]

/-- The windows after the noise floor set GAIN until the portion is frozen (R288, R289). -/
theorem gainWindow_portion {tdd : Bool} {g : CpPort} (finds : WindowFinds (s.cp p) ant win tdd g) (later : win ≠ 0) (samples : 0 < m) :
    let power := s.rxPower p ant a m
    let hit := decide (g.noise.getD ant 0 * dbRatio bthr < power)
    s.gainWindow p ant win a m tgt bthr tdd = if g.frozen.getD ant false = true then s.setCp p g
      else (s.drawn.setCp p { g with
        gain := lset g.gain ant (gainNext (g.gain.getD ant 0) power (Config.fullScale * dbRatio tgt) (Config.freeValue s.free % 2 = 1)),
        burst := lset g.burst ant hit, frozen := lset g.frozen ant (hit || win = 4),
        windows := lset g.windows ant (some (lowPower (g.windows.getD ant none) win power)) }).regain p ant (a + m) := by
  rcases finds with ⟨going, rfl⟩ | ⟨rfl, rfl, w, last, rfl⟩
  · have same : ¬ (win = 1 ∧ (!tdd) = true) := by
      rcases going with rfl | other
      · simp
      · exact fun h => other h.1
    simp only [gainWindow, samples.ne', later, same, if_false]
    rfl
  · have kept : ((s.cp p).portion ant w).windows.getD ant none = some w := last
    simp only [gainWindow, samples.ne', last, kept, lowPower, Bool.not_false, and_self, if_true, if_false, Option.isSome_some,
      Option.getD_some, one_ne_zero]
    rfl

end

/-- A window of an armed portion, its samples arrived, is one of the carrier's port (R288, R451). -/
theorem cellGain_arrived {s : State} {n ant win sfn slot sym a m : Nat} {k : Carrier} (named : s.carrier n = some k)
    (radio : cCat k.words = 3) (antenna : ant < cNant k.words) (started : 2 ≤ k.st) :
    let p := cCport k.words
    let c := s.cp p
    (a, m) = (if win = 0 then guardSpan k.words sfn slot sym
      else ((rxStart k.words slot sym + (win - 1) * gainW k.words slot sym) % s.cpCyc p, gainW k.words slot sym)) →
    (c.arms.any fun x => x.1 = rxStart k.words slot sym && x.2.2) = true →
    2 * ((c.rxNext + s.cpCyc p - (a + m) % s.cpCyc p) % s.cpCyc p) < s.cpCyc p →
    s.cellGain n ant win sfn slot sym = s.gainWindow p ant win a m (cTgt k.words) (cBthr k.words) (cDuplex k.words = 1) := by
  dsimp only
  intro span armed arrived
  simp only [cellGain, named, ← span]
  exact if_pos ⟨radio, antenna, started, armed, arrived⟩

/-- An antenna's portion ends with its gain held for the open slots, and with an event when too many samples saturate (R289). -/
theorem portionEnd_ends {s : State} {n ant : Nat} {k : Carrier} (named : s.carrier n = some k) (radio : cCat k.words = 3)
    (antenna : ant < cNant k.words) (sfn slot samples : Nat) :
    let c := s.cp (cCport k.words)
    let hit := decide (samples < 1024 * c.clip.getD ant 0)
    let held := c.gain.getD ant 0 + 64 * b2n (c.burst.getD ant false) + 128 * b2n hit
    let v := (s.setCp (cCport k.words) { c with clipped := lset c.clipped ant hit, clip := lset c.clip ant 0 }).setCarrier n
      (some (holdGains k (airOf k.words sfn slot s.ext) ant held))
    s.portionEnd n ant sfn slot samples = if hit then v.raise 0x0502 (1024 + n) (sfn * 2 ^ 16 + slot) ant 0 else v := by
  simp only [portionEnd, named, radio, antenna, and_self, if_true]

/-! ### Ramps -/

theorem rampMode_iff (s : State) : s.rampMode = true ↔ s.mode ∈ [mService, mHoldover, mDegraded, mDrain] := by
  simp [rampMode, setAir, mService, mHoldover, mDegraded, or_assoc]

/-- The steps of a ramp at an edge of the downlink, queued when the first is 100 µs ahead (R290, R291). -/
theorem rampQueue_edge {s : State} {n sfn slot sym ch : Nat} {up : Bool} {k : Carrier} (named : s.carrier n = some k)
    (channel : rampChan k.words = some ch) (mode : s.mode ∈ [mService, mHoldover, mDegraded, mDrain]) (started : 2 ≤ k.st)
    (begins : up = true → k.st ≠ 3) (tdd : cDuplex k.words = 1) (edge : rampEdge k.words up sfn slot sym = true) :
    let t := symAir k.words (airOf k.words sfn slot s.ext) slot (if up then sym else sym + 1)
    let ahead (i : Nat) : Int := t + (cRamp k.words up i).2.2 - s.ext
    s.rampQueue n up sfn slot sym = if ahead 0 < 100000 then s
      else (List.range (if up then cNup k.words else cNdn k.words)).foldl
        (fun v i => v.queueStep ch (cRamp k.words up i).1 (wrapTo 32 ((v.tkns : Int) + ahead i)) ((cRamp k.words up i).2.1 && !up)) s := by
  have ramps := (rampMode_iff s).mpr mode
  have goes : ¬ (up = true ∧ k.st = 3) := fun h => begins h.1 h.2
  simp only [rampQueue, named, channel, ramps, edge, tdd, not_lt.mpr started, goes, Bool.not_true, Bool.false_eq_true, ne_eq,
    not_true_eq_false, false_or]

end State

open State in
/-- Settles O41: each command is the equation of what it does with the slot, the carrier or the antenna that it names. -/
theorem slotsSendIndicationsAndSteerTheRadio : Obligations.SlotsSendIndicationsAndSteerTheRadio := by
  intro s n k f b named tair
  refine ⟨fun op late aborted es x t taken ticket => ?_,
    fun v x e q known data => ⟨fun passed => (entryWrite_uplink known data v).trans (if_pos passed),
      fun failed => (entryWrite_uplink known data v).trans (if_neg (Bool.eq_false_iff.mp failed))⟩,
    fun stale h host radio runs first slot due =>
      congrArg Host.Outcome.next (ctrlLaunch_launches named host radio runs first slot due stale),
    fun v h x q nsym beam lt stale => ⟨fun m some_ => ⟨beamCuts_const some_ _, rfl⟩, fun plain uplink =>
      ulControl_plain plain uplink n q lt stale⟩,
    fun v ws ts dl slot i q lt sym secs => ?_,
    fun up sym ch channel mode started begins tdd edge => ?_, fun radio ant antenna => ⟨fun win y a m started span armed arrived => ?_,
      fun samples => congrArg Host.Outcome.next (portionEnd_ends named radio antenna f.toNat b.toNat samples.toNat)⟩⟩
  · have air : tair = airOf k.words f.toNat b.toNat s.ext := rfl
    have zero : (op = 0) = (op.val = 0) := propext Fin.ext_iff
    have four : (op = 4) = (op.val = 4) := propext Fin.ext_iff
    have five : (op = 5) = (op.val = 5) := propext Fin.ext_iff
    rw [air] at taken
    refine congrArg Host.Outcome.next ?_
    simp only [zero, four, five, indSend, named, taken, ticket, List.isEmpty_iff, indDone_iff]
  · intro port id hdr some_ few fit
    exact ctrlMessage_whole some_ few fit
  · have ramp := rampQueue_edge named channel mode started begins tdd edge
    exact ⟨fun ahead => congrArg Host.Outcome.next (ramp.trans (if_neg (not_lt.mpr ahead))),
      fun late => congrArg Host.Outcome.next (ramp.trans (if_pos late))⟩
  · have zero : (win = 0) = (win.val = 0) := propext Fin.ext_iff
    have four : (win = 4) = (win.val = 4) := propext Fin.ext_iff
    simp only [zero] at span
    have window : exec (.ulGainWindow n ant win y) s = _ :=
      congrArg Host.Outcome.next (cellGain_arrived named radio antenna started span armed arrived)
    intro power target begun
    simp only [window, zero, four]
    refine ⟨fun fdd guard => ?_, fun tdd guard samples => ?_, fun g finds later samples => ?_⟩
    · rw [guard, decide_eq_false fdd, gainWindow_fdd_guard]
    · rw [guard, decide_eq_true tdd, gainWindow_tdd_guard samples]
      rfl
    · have found : WindowFinds (s.cp (cCport k.words)) ant win.val (cDuplex k.words = 1) g := by
        rcases finds with ⟨going, same⟩ | ⟨fdd, first, w, last, same⟩
        · exact .inl ⟨going.imp decide_eq_true fun other h => other (Fin.ext h), same⟩
        · exact .inr ⟨decide_eq_false fdd, congrArg Fin.val first, w, last, same⟩
      have moves := gainWindow_portion (a := a) (tgt := cTgt k.words) (bthr := cBthr k.words) found (Fin.val_ne_iff.mpr later) samples
      exact ⟨fun frozen => congrArg _ (moves.trans (if_pos frozen)), fun free => ⟨_, _, gainNext_le .., fun d lo hi signal exact_ =>
        gainNext_exact signal lo hi exact_ .., lowPower_cases _ win.val power,
        congrArg _ (moves.trans (if_neg (Bool.eq_false_iff.mp free)))⟩⟩

end Sys2Proof.Machine
end

section
/-! A register store in no canonical form: two entries for HUB_RINGSTAT of ring 0. Clearing WAITTAIL leaves the first entry as at reset and
takes it from the store (`sput`), so that SQHEAD then reads as in the second. The invariant excludes such a store; the statement does not
ask for the invariant. -/

namespace Sys2Proof.Machine

/-- Ring 0 holds one slot from SQHEAD 0 on, with WAITTAIL set; behind that entry stands another, with SQHEAD 1. -/
def strayRegs : State :=
  { State.reset with
    regs := [(HUB_RINGSTAT.adr 0, 2 ^ 30), (HUB_RINGSTAT.adr 0, 1)]
    rings := [(0, { Ring.reset with tail := 1 })] }

/-- A packet of one slot on ring 0. -/
def strayPacket : Packet := ⟨some 0, ⟨0, 1, 0, 0xFFFF, 0, 0, 0⟩, []⟩

/-- The slot of the packet counts as beyond TAIL once its header has been read: SQHEAD reads 1. -/
theorem ringShort_strayRegs :
    (((strayRegs.hosting noHost).headWaits 0 (some (0x0101, strayPacket.hdr))).ringShort 0) = true := by decide +kernel

/-- Refutes O28: in `strayRegs` the packet at the head of ring 0 claims one slot and TAIL covers it, but it is taken to extend beyond
TAIL. -/
theorem not_packetsAndFramesPassTheirChecks : ¬ Obligations.PacketsAndFramesPassTheirChecks := by
  intro h
  obtain ⟨packets, -⟩ := h
  obtain ⟨-, rings, -⟩ := packets strayRegs 0x0101 strayPacket noHost
  obtain ⟨-, -, short⟩ := rings 0 rfl
  obtain ⟨-, beyond⟩ := short.mp ringShort_strayRegs
  exact absurd beyond (by decide +kernel)

end Sys2Proof.Machine
end

section
/-! Packets by the handler of their opcode (R317, R321), and the bits by which rows that share an opcode differ. -/

namespace Sys2Proof.Machine

/-- A field of the low `n` bits of a number is a field of the number. -/
theorem bits_mod_two_pow {w lo len n : Nat} (h : lo + len ≤ n) : bits (w % 2 ^ n) lo len = bits w lo len := by
  have split : 2 ^ n = 2 ^ lo * 2 ^ (n - lo) := by rw [← Nat.pow_add]; congr 1; omega
  unfold bits
  rw [Nat.shiftRight_eq_div_pow, Nat.shiftRight_eq_div_pow, split, Nat.mod_mul_right_div_self,
    Nat.mod_mod_of_dvd _ (Nat.pow_dvd_pow 2 (by omega))]

namespace State

variable {s u : State} {p : Packet} {c : Cmd}

/-- A packet of opcode `op` leaves what the handler `g` of that opcode leaves. -/
theorem serving_handler {i : Instr} {op : Nat} {ok : State → Cmd → Prop} {f : State → Cmd → State} (g : State → Cmd → State)
    (h : ∀ u c, s.calm.Serves op p u c → ok u c → g u c = f u c) (hi : exec i s = .next (s.takePacket op p noHost) := by rfl)
    (hm : isSlotMsg op = false := by rfl)
    (hg : ∀ u hdr ws ring, dispatch u ⟨op, hdr, ws, ring⟩ = g u ⟨op, hdr, ws, ring⟩ := by intros; rfl) : s.Serving i op p ok f := by
  refine serving_of hi hm fun u c served same fine => (?_ : u.dispatch c = g u c).trans (h u c served fine)
  obtain ⟨op', hdr, ws, ring⟩ := c
  subst same
  exact hg u hdr ws ring

/-- The row of the opcode of a served command, its PLEN within the row's. -/
theorem Serves.row {op : Nat} (h : s.Serves op p u c) : ∃ r, opRow op = some r ∧ r.lo ≤ c.plen := by
  have gates := h.gates
  have same := h.op_eq
  unfold State.gates at gates
  rw [same] at gates
  cases row : opRow op with
  | none => simp [row] at gates
  | some r =>
    simp only [row, List.all_cons, Bool.and_eq_true] at gates
    obtain ⟨-, len, -⟩ := gates
    simp only [Cmd.lenOk, Bool.and_eq_true, decide_eq_true_iff] at len
    exact ⟨r, rfl, len.1.1⟩

/-- The field of word 0 that tells a row from the others of its opcode. -/
theorem Serves.selected {op lo n v : Nat} (h : s.Serves op (selWord p lo n v) u c) (long : (opRow op).all fun r => 0 < r.lo)
    (inside : lo + n ≤ 32) (fits : v < 2 ^ n) : bits (c.w 0) lo n = v := by
  obtain ⟨r, row, least⟩ := h.row
  rw [row, Option.all_some, decide_eq_true_iff] at long
  obtain ⟨m, len⟩ : ∃ m, p.hdr.plen.toNat = m + 1 := by
    have : c.plen = p.hdr.plen.toNat := by rw [h.takes.1]; rfl
    exact ⟨p.hdr.plen.toNat - 1, by omega⟩
  have word0 : c.w 0 = setBits (p.words.getD 0 0).toNat lo n v % 2 ^ 32 := by
    rw [h.takes.1]
    simp [Cmd.w, packetWords, selWord, len]
  rw [word0, bits_mod_two_pow inside, bits_setBits_same, Nat.mod_eq_of_lt fits]

end State

end Sys2Proof.Machine
end

section
/-! Rings (R305 to R310, R336): doorbells, EN, replies and the moderation of their interrupts. -/

namespace Sys2Proof.Machine

theorem bits_setBits_below {w lo n v a len : Nat} (h : a + len ≤ lo) : bits (setBits w lo n v) a len = bits w a len := by
  have split : setBits w lo n v % 2 ^ lo = w % 2 ^ lo := by
    rw [setBits, Nat.pow_add, ← Nat.mul_assoc, Nat.mul_right_comm, Nat.add_mul_mod_self_right, Nat.add_mul_mod_self_right, Nat.mod_mod]
  rw [← bits_mod_two_pow h, split, bits_mod_two_pow h]

namespace State

variable {s : State} {n : Nat}

/-! ### Fields of one word -/

theorem wf_word {f : Fld} (hlo : f.lo < 32) (hf : f.lo + f.len ≤ 32) (s : State) (a v : Nat) :
    s.wf a f v = s.setReg a (setBits (s.reg a) f.lo f.len v) := by
  simp only [wf, Nat.div_eq_of_lt hlo, Nat.mod_eq_of_lt hlo, Nat.mul_zero, Nat.add_zero, if_pos hf]

/-- A write of one word leaves a field of other words. -/
theorem rf_setReg_ne {a b : Nat} {f : Fld} (low : a + 4 * (f.lo / 32) ≠ b) (high : a + 4 * (f.lo / 32) + 4 ≠ b) (s : State) (v : Nat) :
    (s.setReg b v).rf a f = s.rf a f := by
  simp only [rf, reg_setReg_ne _ _ low, reg_setReg_ne _ _ high]

theorem rf_of_regs {t : State} {a : Nat} {f : Fld} (same : t.regs = s.regs) : t.rf a f = s.rf a f := by
  simp only [rf, reg, same]

theorem rf_word {f : Fld} (hlo : f.lo < 32) (hf : f.lo + f.len ≤ 32) (s : State) (a : Nat) :
    s.rf a f = bits (s.reg a) f.lo f.len := by
  simp only [rf, Nat.div_eq_of_lt hlo, Nat.mod_eq_of_lt hlo, Nat.mul_zero, Nat.add_zero, if_pos hf]

theorem Inv.setReg (inv : s.Inv) (a v : Nat) : (s.setReg a v).Inv := ((Keeps.refl s).setReg a v).inv inv

theorem Inv.setRing (inv : s.Inv) (n : Nat) (r : Ring) : (s.setRing n r).Inv := (setRing_keeps n r (Keeps.refl s)).inv inv

theorem Inv.wf (inv : s.Inv) (a : Nat) (f : Fld) (v : Nat) : (s.wf a f v).Inv := (wf_keeps a f v (Keeps.refl s)).inv inv

/-- From `s` to `t`, no more than registers and rings have changed. -/
def RingsMove (s t : State) : Prop := ∃ regs rings, t = { s with regs := regs, rings := rings }

theorem RingsMove.refl (s : State) : RingsMove s s := ⟨s.regs, s.rings, rfl⟩

theorem RingsMove.setReg {t : State} (h : RingsMove s t) (a v : Nat) : RingsMove s (t.setReg a v) := by
  obtain ⟨regs, rings, rfl⟩ := h
  exact ⟨_, rings, rfl⟩

theorem RingsMove.setRing {t : State} (h : RingsMove s t) (n : Nat) (r : Ring) : RingsMove s (t.setRing n r) := by
  obtain ⟨regs, rings, rfl⟩ := h
  exact ⟨regs, _, rfl⟩

theorem RingsMove.trans {t u : State} (h : RingsMove s t) (g : RingsMove t u) : RingsMove s u := by
  obtain ⟨regs, rings, rfl⟩ := h
  obtain ⟨regs', rings', rfl⟩ := g
  exact ⟨regs', rings', rfl⟩

theorem RingsMove.hostUp {t : State} (h : RingsMove s t) : t.hostUp = s.hostUp := by
  obtain ⟨regs, rings, rfl⟩ := h
  rfl

theorem RingsMove.out {t : State} (h : RingsMove s t) : t.out = s.out := by
  obtain ⟨regs, rings, rfl⟩ := h
  rfl

theorem RingsMove.eq {t : State} (h : RingsMove s t) : t = { s with regs := t.regs, rings := t.rings } := by
  obtain ⟨regs, rings, rfl⟩ := h
  rfl

theorem reg_setRing (s : State) (n a : Nat) (r : Ring) : (s.setRing n r).reg a = s.reg a := rfl

theorem ring_setReg (s : State) (n a v : Nat) : (s.setReg a v).ring n = s.ring n := rfl

/-! ### EN -/

/-- Ring pair `n` once EN has been written 1, HUB_RINGCTL then holding `w` (R336). -/
def ringOpened (s : State) (n w : Nat) : State :=
  ((((s.setReg (HUB_RINGCTL.adr n) w).setReg (HUB_RINGSTAT.adr n) 0).setReg (HUB_CQSTAT.adr n) 0).setReg (HUB_CQLOST.adr n) 0).setRing n
    { Ring.reset with opened := (s.ring n).opened }

/-- The registers of ring pair `n` lie apart. -/
theorem ringAdr_ne (n : Nat) : HUB_RINGSTAT.adr n ≠ HUB_RINGCTL.adr n ∧ HUB_CQSTAT.adr n ≠ HUB_RINGCTL.adr n ∧
    HUB_CQLOST.adr n ≠ HUB_RINGCTL.adr n ∧ HUB_CQSTAT.adr n ≠ HUB_RINGSTAT.adr n ∧ HUB_CQLOST.adr n ≠ HUB_RINGSTAT.adr n ∧
    HUB_CQLOST.adr n ≠ HUB_CQSTAT.adr n ∧ HUB_SQBASE.adr n ≠ HUB_RINGCTL.adr n ∧ HUB_CQBASE.adr n ≠ HUB_RINGCTL.adr n := by
  simp only [HUB_RINGSTAT.adr, HUB_RINGCTL.adr, HUB_CQSTAT.adr, HUB_CQLOST.adr, HUB_SQBASE.adr, HUB_CQBASE.adr]
  omega

/-- The registers of an opened ring pair. -/
theorem ringOpened_regs (inv : s.Inv) (n w : Nat) : (s.ringOpened n w).reg (HUB_RINGCTL.adr n) = w % 2 ^ 32 ∧
    (s.ringOpened n w).reg (HUB_RINGSTAT.adr n) = 0 ∧ (s.ringOpened n w).reg (HUB_CQSTAT.adr n) = 0 ∧
    (s.ringOpened n w).reg (HUB_CQLOST.adr n) = 0 := by
  obtain ⟨statCtl, cqCtl, lostCtl, cqStat, lostStat, lostCq, -, -⟩ := ringAdr_ne n
  have inv1 := inv.setReg (HUB_RINGCTL.adr n) w
  have inv2 := inv1.setReg (HUB_RINGSTAT.adr n) 0
  have inv3 := inv2.setReg (HUB_CQSTAT.adr n) 0
  simp only [ringOpened, reg_setRing]
  refine ⟨?_, ?_, ?_, ?_⟩
  · rw [reg_setReg_ne _ _ lostCtl.symm, reg_setReg_ne _ _ cqCtl.symm, reg_setReg_ne _ _ statCtl.symm, reg_setReg_same inv.regs]
  · rw [reg_setReg_ne _ _ lostStat.symm, reg_setReg_ne _ _ cqStat.symm, reg_setReg_same inv1.regs, Nat.zero_mod]
  · rw [reg_setReg_ne _ _ lostCq.symm, reg_setReg_same inv2.regs, Nat.zero_mod]
  · rw [reg_setReg_same inv3.regs, Nat.zero_mod]

theorem ringEnable_sized {v : Nat}
    (sq : 4 ≤ s.rf (HUB_SQBASE.adr n) HUB_SQBASE.LOG2SIZE ∧ s.rf (HUB_SQBASE.adr n) HUB_SQBASE.LOG2SIZE ≤ 12)
    (cq : 4 ≤ s.rf (HUB_CQBASE.adr n) HUB_SQBASE.LOG2SIZE ∧ s.rf (HUB_CQBASE.adr n) HUB_SQBASE.LOG2SIZE ≤ 12) :
    s.ringEnable n v = s.ringOpened n (setBits (s.reg (HUB_RINGCTL.adr n)) 31 1 1) := by
  have sized : ¬ ((!(decide (4 ≤ s.rf (HUB_SQBASE.adr n) HUB_SQBASE.LOG2SIZE) && decide (s.rf (HUB_SQBASE.adr n) HUB_SQBASE.LOG2SIZE ≤ 12)) ||
      !(decide (4 ≤ s.rf (HUB_CQBASE.adr n) HUB_SQBASE.LOG2SIZE) && decide (s.rf (HUB_CQBASE.adr n) HUB_SQBASE.LOG2SIZE ≤ 12))) = true) := by
    simp [sq, cq]
  unfold ringEnable
  dsimp only
  rw [if_neg sized, wb, wf_word (by decide) (by decide)]
  rfl

/-- Writing EN = 1 opens a ring pair that is closed and has sizes in range. -/
theorem ringCtlWrite_opens {v : Nat} (off : s.ringEn n = false)
    (sq : 4 ≤ s.rf (HUB_SQBASE.adr n) HUB_SQBASE.LOG2SIZE ∧ s.rf (HUB_SQBASE.adr n) HUB_SQBASE.LOG2SIZE ≤ 12)
    (cq : 4 ≤ s.rf (HUB_CQBASE.adr n) HUB_CQBASE.LOG2SIZE ∧ s.rf (HUB_CQBASE.adr n) HUB_CQBASE.LOG2SIZE ≤ 12) :
    ∃ x, let u := s.setReg (HUB_RINGCTL.adr n) x
      s.ringCtlWrite n (setBits v 31 1 1) = u.ringOpened n (setBits (u.reg (HUB_RINGCTL.adr n)) 31 1 1) := by
  obtain ⟨-, -, -, -, -, -, sqCtl, cqCtl⟩ := ringAdr_ne n
  have on : bit (setBits v 31 1 1) 31 = true := decide_eq_true (bits_setBits_same v 31 1 1)
  refine ⟨(setBits v 31 1 1 &&& 0x4FFFFFFF) + 0, ?_⟩
  unfold ringCtlWrite
  simp only [off, on, Bool.false_and, Bool.not_false, Bool.and_true, Bool.false_eq_true, if_false, if_true]
  have size (a : Nat) (apart : a ≠ HUB_RINGCTL.adr n) (x : Nat) :
      (s.setReg (HUB_RINGCTL.adr n) x).rf a HUB_SQBASE.LOG2SIZE = s.rf a HUB_SQBASE.LOG2SIZE := by
    rw [rf_word (by decide) (by decide), rf_word (by decide) (by decide), reg_setReg_ne _ _ apart]
  refine ringEnable_sized ?_ ?_
  · rwa [size _ sqCtl]
  · rwa [size _ cqCtl]

theorem ringOpened_opens (inv : s.Inv) (n w : Nat) : let t := s.ringOpened n (setBits w 31 1 1)
    t.ringEn n = true ∧ t.sqHead n = 0 ∧ t.cqTail n = 0 ∧ t.ringErr n = false ∧ t.ring n = { Ring.reset with opened := (s.ring n).opened } ∧
      t.reg (HUB_CQLOST.adr n) = 0 ∧ (∀ m, m ≠ n → t.ring m = s.ring m) ∧ t = { s with regs := t.regs, rings := t.rings } := by
  obtain ⟨ctl, stat, cq, lost⟩ := ringOpened_regs inv n (setBits w 31 1 1)
  have zero (lo len : Nat) : bits 0 lo len = 0 := by simp [bits]
  refine ⟨?_, ?_, ?_, ?_, ?_, lost, fun m other => ?_, (((((RingsMove.refl s).setReg _ _).setReg _ _).setReg _ _).setReg _ _).setRing _ _ |>.eq⟩
  · rw [ringEn, rb, rf_word (by decide) (by decide), ctl, bits_mod_two_pow (by decide)]
    exact decide_eq_true (bits_setBits_same w 31 1 1)
  · rw [sqHead, rf_word (by decide) (by decide), stat, zero]
  · rw [cqTail, rf_word (by decide) (by decide), cq, zero]
  · rw [ringErr, rb, rf_word (by decide) (by decide), stat, zero]
    rfl
  · rw [ringOpened, ring_setRing_same ((((inv.setReg _ _).setReg _ _).setReg _ _).setReg _ _).tables]
  · simp only [ringOpened, ring_setRing_ne _ _ other, ring_setReg]

theorem ringDisable_open (on : s.ringEn n = true) : ∃ b d, s.ringDisable n =
    (((s.setReg (HUB_RINGCTL.adr n) (setBits (s.reg (HUB_RINGCTL.adr n)) 31 1 0)).setReg (HUB_RINGSTAT.adr n) b).setRing n
      { s.ring n with waiting := [], waitHdr := none }).setReg (HUB_CQSTAT.adr n) d := by
  simp only [ringDisable, on, Bool.not_true, Bool.false_eq_true, if_false, heldSync, wb, wf_word (f := HUB_RINGCTL.EN) (by decide) (by decide),
    wf_word (f := HUB_RINGSTAT.WAITTAIL) (by decide) (by decide), wf_word (f := HUB_CQSTAT.HELD) (by decide) (by decide)]
  exact ⟨_, _, rfl⟩

theorem ringDisable_closes (inv : s.Inv) (on : s.ringEn n = true) : (s.ringDisable n).ringEn n = false ∧
    (s.ringDisable n).ring n = { s.ring n with waiting := [], waitHdr := none } ∧ RingsMove s (s.ringDisable n) := by
  obtain ⟨statCtl, cqCtl, -, -, -, -, -, -⟩ := ringAdr_ne n
  obtain ⟨b, d, closed⟩ := ringDisable_open on
  rw [closed]
  refine ⟨?_, ?_, ((((RingsMove.refl s).setReg _ _).setReg _ _).setRing _ _).setReg _ _⟩
  · rw [ringEn, rb, rf_word (by decide) (by decide), reg_setReg_ne _ _ cqCtl.symm, reg_setRing, reg_setReg_ne _ _ statCtl.symm,
      reg_setReg_same inv.regs, bits_mod_two_pow (by decide)]
    exact decide_eq_false (ne_of_eq_of_ne (bits_setBits_same _ 31 1 0) zero_ne_one)
  · rw [ring_setReg, ring_setRing_same ((inv.setReg _ _).setReg _ _).tables]

/-- Writing EN = 0 closes a ring pair that is open: what waits there is gone. -/
theorem ringCtlWrite_closes (inv : s.Inv) {v : Nat} (on : s.ringEn n = true) : ∃ t : State,
    s.ringCtlWrite n (setBits v 31 1 0) = t ∧ t.ringEn n = false ∧ t.ring n = { s.ring n with waiting := [], waitHdr := none } ∧
      t = { s with regs := t.regs, rings := t.rings } := by
  have off : bit (setBits v 31 1 0) 31 = false := decide_eq_false fun h => zero_ne_one ((bits_setBits_same v 31 1 0).symm.trans h)
  have still : (s.setReg (HUB_RINGCTL.adr n) ((setBits v 31 1 0 &&& 0x4FFFFFFF) + 2 ^ 31)).ringEn n = true := by
    have low : setBits v 31 1 0 &&& 0x4FFFFFFF ≤ 0x4FFFFFFF := Nat.and_le_right
    rw [ringEn, rb, rf_word (by decide) (by decide), reg_setReg_same inv.regs, bits_mod_two_pow (by decide)]
    simp only [HUB_RINGCTL.EN, bits, Nat.shiftRight_eq_div_pow, decide_eq_true_iff]
    omega
  have written : s.ringCtlWrite n (setBits v 31 1 0) =
      (s.setReg (HUB_RINGCTL.adr n) ((setBits v 31 1 0 &&& 0x4FFFFFFF) + 2 ^ 31)).ringDisable n := by
    simp only [ringCtlWrite, on, off, Bool.not_false, Bool.and_true, if_true]
  obtain ⟨closed, ring, moves⟩ := ringDisable_closes (inv.setReg _ _) still
  exact ⟨_, written, closed, ring, (((RingsMove.refl s).setReg _ _).trans moves).eq⟩

/-! ### Replies -/

/-- What the device sends, newest first, with `os` before it. -/
def sending (s : State) (os : List Out) : State := { s with out := os ++ s.out }

/-- A slot of a reply is one posted write (R404). -/
theorem hostPost_slot (up : s.hostUp = true) (a : Nat) {bs : List Byte} (some_ : 0 < bs.length) (few : bs.length ≤ 64) :
    s.hostPost a bs = s.sending [.hostWrite a bs] := by
  have room : 128 ≤ 128 * 2 ^ s.pcieCtl.mps.val := Nat.le_mul_of_pos_right _ (Nat.two_pow_pos _)
  have one : (bs.length + 128 * 2 ^ s.pcieCtl.mps.val - 1) / (128 * 2 ^ s.pcieCtl.mps.val) = 1 := by
    generalize 128 * 2 ^ s.pcieCtl.mps.val = m at room ⊢
    exact Nat.div_eq_of_lt_le (by omega) (by omega)
  rw [hostPost, if_pos up]
  simp only [one, List.range_one, List.foldl_cons, List.foldl_nil, Nat.mul_zero, Nat.add_zero, List.drop_zero,
    List.take_of_length_le (show bs.length ≤ 128 * 2 ^ s.pcieCtl.mps.val by omega)]
  rfl

/-- The slots of a reply, written last to first (R307). -/
theorem hostPost_slots (up : s.hostUp = true) (at_ : Nat → Nat) (slot : Nat → List Byte) (l : List Nat)
    (sized : ∀ i ∈ l, 0 < (slot i).length ∧ (slot i).length ≤ 64) :
    l.reverse.foldl (fun s i => s.hostPost (at_ i) (slot i)) s = s.sending (l.map fun i => .hostWrite (at_ i) (slot i)) := by
  rw [List.foldl_reverse]
  induction l with
  | nil => rfl
  | cons i l ih =>
    obtain ⟨some_, few⟩ := sized i List.mem_cons_self
    rw [List.foldr_cons, ih fun j hj => sized j (List.mem_cons_of_mem i hj), hostPost_slot (s := s.sending _) up (at_ i) some_ few]
    rfl

theorem reg_sending (s : State) (os : List Out) (a : Nat) : (s.sending os).reg a = s.reg a := rfl

theorem ring_sending (s : State) (os : List Out) (n : Nat) : (s.sending os).ring n = s.ring n := rfl

theorem Inv.sending (inv : s.Inv) (os : List Out) : (s.sending os).Inv :=
  ⟨inv.mem, inv.regs, inv.marks, inv.tables, inv.tkns, inv.modid⟩

/-- The flags of a reply's header (R305, R310). -/
def replyFlags (s : State) (n : Nat) (bs : List Byte) : Nat :=
  setBits (fieldAt bs 2 1 % 128) 2 1 0 ||| (if (s.ring n).ovfl then 4 else 0) ||| (if s.cqTail n / s.cqSize n % 2 = 0 then 128 else 0)

/-- The slots of a reply, as they are written to completion ring `n`. -/
def replySlots (s : State) (n : Nat) (bs : List Byte) : List Out :=
  (List.range ((bs.length + 63) / 64)).map fun i => .hostWrite
    (s.rf (HUB_CQBASE.adr n) HUB_CQBASE.BASE * 4096 + 64 * ((s.cqTail n + i) % s.cqSize n))
    (((patch bs 2 (leBytes 1 (s.replyFlags n bs))).drop (64 * i)).take 64)

theorem length_patch_byte (bs : List Byte) (lo v : Nat) : bs.length ≤ (patch bs lo (leBytes 1 v)).length := by
  simp only [patch, leBytes, List.length_append, List.length_take, List.length_drop, List.length_cons, List.length_nil]
  omega

/-- Completion ring `n` once a reply has been sent: the tail has moved over its slots, and OVFL has been told (R305, R307, R310). -/
def replySent (s : State) (n : Nat) (bs : List Byte) : State :=
  ((s.sending (s.replySlots n bs)).setRing n { s.ring n with ovfl := false }).wf (HUB_CQSTAT.adr n) HUB_CQSTAT.CQTAIL
    (s.cqTail n + (bs.length + 63) / 64)

theorem writeReply_up (up : s.hostUp = true) (n : Nat) (bs : List Byte) : s.writeReply n bs = (s.replySent n bs).ringInterrupt n := by
  have whole := length_patch_byte bs 2 (s.replyFlags n bs)
  have slots := hostPost_slots up (fun i => s.rf (HUB_CQBASE.adr n) HUB_CQBASE.BASE * 4096 + 64 * ((s.cqTail n + i) % s.cqSize n))
    (fun i => ((patch bs 2 (leBytes 1 (s.replyFlags n bs))).drop (64 * i)).take 64) (List.range ((bs.length + 63) / 64))
    (fun i hi => by
      rw [List.mem_range] at hi
      rw [List.length_take, List.length_drop]
      omega)
  exact congrArg (fun v => ((setRing v n { s.ring n with ovfl := false }).wf (HUB_CQSTAT.adr n) HUB_CQSTAT.CQTAIL
      (s.cqTail n + (bs.length + 63) / 64)).ringInterrupt n) slots

/-- An interrupt under moderation opens its interval when none is open (R308). -/
theorem ringInterrupt_opens (moderated : s.rf (HUB_RINGCTL.adr n) HUB_RINGCTL.IMOD ≠ 0) (closed : (s.ring n).imodOpen = false) :
    s.ringInterrupt n = (s.setRing n { s.ring n with imodOpen := true, imodPend := false }).msiRaise
      (s.rf (HUB_RINGCTL.adr n) HUB_RINGCTL.VEC) := by
  simp only [ringInterrupt, if_neg moderated, closed, Bool.false_eq_true, if_false]

/-- A vector that is raised is open until its interval ends (R581). -/
theorem msiRaise_opens (s : State) (v : Nat) : ∃ open_, v ∈ open_ ∧ s.msiRaise v = { s with msiOpen := open_ } := by
  unfold msiRaise
  split
  next raised => exact ⟨s.msiOpen, List.contains_iff_mem.mp raised, rfl⟩
  next => exact ⟨_, List.mem_append_right _ List.mem_cons_self, rfl⟩

/-- Ring `n` once the reply that has waited longest leaves its queue, HELD brought up to date (R310). -/
def replyLeaves (s : State) (n : Nat) (rest : List HeldReply) : State := (s.setRing n { s.ring n with waiting := rest }).heldSync n

theorem replyLeaves_eq (s : State) (n : Nat) (rest : List HeldReply) : ∃ h, s.replyLeaves n rest =
    (s.setRing n { s.ring n with waiting := rest }).setReg (HUB_CQSTAT.adr n) (setBits (s.reg (HUB_CQSTAT.adr n)) 16 13 h) := by
  simp only [replyLeaves, heldSync, wf_word (f := HUB_CQSTAT.HELD) (by decide) (by decide)]
  exact ⟨_, rfl⟩

/-- Word 0 of a register of ring pair `n` before CQSTAT is not CQSTAT, nor is the word behind it. -/
theorem ringAdr_low {a : Nat} {f : Fld} (hlo : f.lo < 32) (ha : a = HUB_RINGCTL.adr n ∨ a = HUB_CQBASE.adr n) :
    a + 4 * (f.lo / 32) ≠ HUB_CQSTAT.adr n ∧ a + 4 * (f.lo / 32) + 4 ≠ HUB_CQSTAT.adr n := by
  rw [Nat.div_eq_of_lt hlo]
  simp only [HUB_RINGCTL.adr, HUB_CQBASE.adr, HUB_CQSTAT.adr] at ha ⊢
  omega

theorem replyLeaves_cqTail (inv : s.Inv) (n : Nat) (rest : List HeldReply) : (s.replyLeaves n rest).cqTail n = s.cqTail n := by
  obtain ⟨h, same⟩ := replyLeaves_eq s n rest
  rw [same, cqTail, cqTail, rf_word (by decide) (by decide), rf_word (by decide) (by decide), reg_setReg_same (inv.setRing _ _).regs,
    bits_mod_two_pow (by decide), bits_setBits_below (by decide)]

theorem replyLeaves_ring (inv : s.Inv) (n : Nat) (rest : List HeldReply) :
    (s.replyLeaves n rest).ring n = { s.ring n with waiting := rest } := by
  obtain ⟨h, same⟩ := replyLeaves_eq s n rest
  rw [same, ring_setReg, ring_setRing_same inv.tables]

theorem replyLeaves_inv (inv : s.Inv) (n : Nat) (rest : List HeldReply) : (s.replyLeaves n rest).Inv := by
  obtain ⟨h, same⟩ := replyLeaves_eq s n rest
  rw [same]
  exact (inv.setRing _ _).setReg _ _

theorem replyLeaves_rf (s : State) (n : Nat) (rest : List HeldReply) {a : Nat} {f : Fld} (hlo : f.lo < 32)
    (ha : a = HUB_RINGCTL.adr n ∨ a = HUB_CQBASE.adr n) : (s.replyLeaves n rest).rf a f = s.rf a f := by
  obtain ⟨h, same⟩ := replyLeaves_eq s n rest
  obtain ⟨low, high⟩ := ringAdr_low hlo ha
  rw [same, rf_setReg_ne low high]
  rfl

theorem replyLeaves_moves (s : State) (n : Nat) (rest : List HeldReply) : RingsMove s (s.replyLeaves n rest) := by
  obtain ⟨h, same⟩ := replyLeaves_eq s n rest
  rw [same]
  exact ((RingsMove.refl s).setRing _ _).setReg _ _

theorem replyLeaves_slots (inv : s.Inv) (n : Nat) (rest : List HeldReply) (bs : List Byte) :
    (s.replyLeaves n rest).replySlots n bs = s.replySlots n bs := by
  simp only [replySlots, replyFlags, cqSize, replyLeaves_cqTail inv, replyLeaves_ring inv,
    replyLeaves_rf s n rest (f := HUB_CQBASE.BASE) (by decide) (.inr rfl),
    replyLeaves_rf s n rest (f := HUB_CQBASE.LOG2SIZE) (by decide) (.inr rfl)]
  rfl

theorem replySent_inv (inv : s.Inv) (n : Nat) (bs : List Byte) : (s.replySent n bs).Inv := ((inv.sending _).setRing _ _).wf ..

theorem replySent_ring (inv : s.Inv) (n : Nat) (bs : List Byte) : (s.replySent n bs).ring n = { s.ring n with ovfl := false } := by
  rw [replySent, wf_word (by decide) (by decide), ring_setReg, ring_setRing_same (inv.sending _).tables]

theorem replySent_rf (s : State) (n : Nat) (bs : List Byte) {f : Fld} (hlo : f.lo < 32) :
    (s.replySent n bs).rf (HUB_RINGCTL.adr n) f = s.rf (HUB_RINGCTL.adr n) f := by
  obtain ⟨low, high⟩ := ringAdr_low hlo (.inl (rfl : HUB_RINGCTL.adr n = _))
  rw [replySent, wf_word (by decide) (by decide), rf_setReg_ne low high]
  exact rf_of_regs rfl

theorem replySent_cqTail (inv : s.Inv) (n : Nat) (bs : List Byte) :
    (s.replySent n bs).cqTail n = (s.cqTail n + (bs.length + 63) / 64) % 2 ^ 16 :=
  rf_wf_same ((inv.sending _).setRing _ _).regs _ _ _ (by decide) (by decide)

theorem replySent_out (s : State) (n : Nat) (bs : List Byte) : (s.replySent n bs).out = s.replySlots n bs ++ s.out := wf_out ..

/-- What is left of ring `n` once a reply has been written: the tail has moved over its slots, OVFL has been told, and the interval of
its interrupt is open (R306 to R308, R310). -/
theorem writeReply_leaves (inv : s.Inv) (up : s.hostUp = true) (n : Nat) (bs : List Byte)
    (moderated : s.rf (HUB_RINGCTL.adr n) HUB_RINGCTL.IMOD ≠ 0) (closed : (s.ring n).imodOpen = false) : let t := s.writeReply n bs
    t.cqTail n = (s.cqTail n + (bs.length + 63) / 64) % 2 ^ 16 ∧ t.out = s.replySlots n bs ++ s.out ∧
      t.ring n = { s.ring n with ovfl := false, imodOpen := true, imodPend := false } ∧
      s.rf (HUB_RINGCTL.adr n) HUB_RINGCTL.VEC ∈ t.msiOpen := by
  have ring := replySent_ring inv n bs
  have control {f : Fld} (hlo : f.lo < 32) := replySent_rf s n bs hlo
  obtain ⟨open_, raised, same⟩ := msiRaise_opens
    ((s.replySent n bs).setRing n { s.ring n with ovfl := false, imodOpen := true, imodPend := false })
    (s.rf (HUB_RINGCTL.adr n) HUB_RINGCTL.VEC)
  rw [writeReply_up up, ringInterrupt_opens (by rwa [control (by decide)]) (by rwa [ring]), control (by decide), ring, same]
  exact ⟨(rf_of_regs rfl).trans (replySent_cqTail inv n bs), replySent_out s n bs, ring_setRing_same (replySent_inv inv n bs).tables ..,
    raised⟩

theorem replyWrite_room {w : HeldReply} {rest : List HeldReply} (waits : (s.ring n).waiting = w :: rest)
    (room : (w.bytes.length + 63) / 64 ≤ s.cqRoom n) : s.replyWrite n = (s.replyLeaves n rest).writeReply n w.bytes := by
  simp only [replyWrite, waits, if_pos room]
  rfl

/-- The reply that has waited longest is written (R307, R310). -/
theorem replyWrite_leaves (inv : s.Inv) (up : s.hostUp = true) {w : HeldReply} {rest : List HeldReply}
    (waits : (s.ring n).waiting = w :: rest) (room : (w.bytes.length + 63) / 64 ≤ s.cqRoom n)
    (moderated : s.rf (HUB_RINGCTL.adr n) HUB_RINGCTL.IMOD ≠ 0) (closed : (s.ring n).imodOpen = false) : let t := s.replyWrite n
    t.cqTail n = (s.cqTail n + (w.bytes.length + 63) / 64) % 2 ^ 16 ∧ t.out = s.replySlots n w.bytes ++ s.out ∧
      t.ring n = { s.ring n with waiting := rest, ovfl := false, imodOpen := true, imodPend := false } ∧
      s.rf (HUB_RINGCTL.adr n) HUB_RINGCTL.VEC ∈ t.msiOpen := by
  have ring := replyLeaves_ring inv n rest
  have control {f : Fld} (hlo : f.lo < 32) := replyLeaves_rf s n rest hlo (.inl rfl)
  have moves := replyLeaves_moves s n rest
  have left := writeReply_leaves (replyLeaves_inv inv n rest) (moves.hostUp.trans up) n w.bytes
    (by rwa [control (by decide)]) (by rwa [ring])
  rw [replyLeaves_cqTail inv, replyLeaves_slots inv, ring, control (by decide), moves.out] at left
  rw [replyWrite_room waits room]
  exact left

/-! ### Doorbells and the end of an interval -/

theorem sqDoorbell_open {v : Nat} (on : s.ringEn n = true) (fine : s.ringErr n = false) :
    let ahead (x y : Nat) : Nat := (x + 2 ^ 16 - y) % 2 ^ 16
    s.sqDoorbell n v = if ahead (s.ring n).tail (s.sqHead n) ≤ ahead v (s.sqHead n) ∧ ahead v (s.sqHead n) ≤ s.sqSize n
      then (s.setRing n { s.ring n with tail := v }).waitSync n
      else (s.wb (HUB_RINGSTAT.adr n) HUB_RINGSTAT.ERR true).ringError n 1 v := by
  simp only [sqDoorbell, on, fine, Bool.not_true, Bool.or_self, Bool.false_eq_true, if_false, ← Nat.not_lt, ← not_or, ite_not]

theorem cqDoorbell_open {v : Nat} (on : s.ringEn n = true) (fine : s.ringErr n = false) :
    let ahead (x y : Nat) : Nat := (x + 2 ^ 16 - y) % 2 ^ 16
    s.cqDoorbell n v = if ahead v (s.ring n).cqHead ≤ ahead (s.cqTail n) (s.ring n).cqHead then s.setRing n { s.ring n with cqHead := v }
      else (s.wb (HUB_RINGSTAT.adr n) HUB_RINGSTAT.ERR true).ringError n 2 v := by
  simp only [cqDoorbell, on, fine, Bool.not_true, Bool.or_self, Bool.false_eq_true, if_false, ← Nat.not_lt, ite_not]

theorem imodEnd_open (open_ : (s.ring n).imodOpen = true) : s.imodEnd n =
    if (s.ring n).imodPend = true then (s.setRing n { s.ring n with imodPend := false }).msiRaise (s.rf (HUB_RINGCTL.adr n) HUB_RINGCTL.VEC)
    else s.setRing n { s.ring n with imodOpen := false } := by
  simp only [imodEnd, open_, Bool.not_true, Bool.false_eq_true, if_false]

end State

open State in
/-- Settles O29: a doorbell and the end of an interval are equations; EN and a reply are told by what they leave of the ring pair and its
registers. -/
theorem ringsAndRepliesMove : Obligations.RingsAndRepliesMove := by
  intro s n runs
  have running {f : State} : Host.Outcome.next (if s.running = true then f else s) = (.next f : Result) := by rw [if_pos runs]
  refine ⟨fun v on fine => ⟨?_, ?_⟩, fun v inv => ⟨fun off sqLow sqHigh cqLow cqHigh => ?_, fun on => ?_⟩,
    fun w rest waits room up inv moderated closed => ?_, fun open_ => congrArg Host.Outcome.next (imodEnd_open open_)⟩
  · exact running.trans (congrArg Host.Outcome.next (sqDoorbell_open on fine))
  · exact running.trans (congrArg Host.Outcome.next (cqDoorbell_open on fine))
  · obtain ⟨x, opens⟩ := ringCtlWrite_opens (v := v.toNat) off ⟨sqLow, sqHigh⟩ ⟨cqLow, cqHigh⟩
    obtain ⟨en, head, tail, err, ring, lost, others, frame⟩ := ringOpened_opens (inv.setReg (HUB_RINGCTL.adr n) x) n
      ((s.setReg (HUB_RINGCTL.adr n) x).reg (HUB_RINGCTL.adr n))
    exact ⟨_, running.trans (congrArg Host.Outcome.next opens), en, head, tail, err, ring, lost, others, frame⟩
  · obtain ⟨t, written, en, ring, frame⟩ := ringCtlWrite_closes inv (v := v.toNat) on
    exact ⟨t, running.trans (congrArg Host.Outcome.next written), en, ring, frame⟩
  · exact ⟨_, rfl, replyWrite_leaves inv up waits room moderated closed⟩

end Sys2Proof.Machine
end

section
/-! Commands of the device (R321, R527, R540): modes and resets. -/

namespace Sys2Proof.Machine

namespace State

variable {s u : State} {p : Packet} {c : Cmd}

theorem serving_modeSet {ok : State → Cmd → Prop} {f : State → Cmd → State} (h : ∀ u c, ok u c → u.hModeSet c = f u c) :
    s.Serving (.modeSet p) 0x0102 p ok f :=
  serving_handler hModeSet fun u c _ => h u c

/-- A mode that may be named: nothing changes when it is in force, SERVICE is the air mode that the conditions decide, TEST keeps the
mode it was entered from, and leaving TEST ends its tests. -/
theorem hModeSet_eq (u : State) (c : Cmd) :
    let s1 := u.answer c.ticket sOk []
    u.hModeSet c = if c.w 0 ∈ modeNames ∧ (c.w 0 = mService → u.extSet = true)
      then if u.mode = c.w 0 then s1 else if c.w 0 = mService then s1.enterMode s1.airMode
        else if c.w 0 = mTest then (s1.enterMode mTest).wf PW_MODE.adr PW_MODE.FROM u.mode
        else (if u.mode = mTest then s1.leaveTest else s1).enterMode (c.w 0)
      else u.answer c.ticket sBadParam [] := by
  have small : c.w 0 ∈ modeNames → c.w 0 < 16 := (by decide : ∀ m ∈ modeNames, m < 16) _
  unfold hModeSet
  refine chk_eq_ite ?_ ..
  simp only [Bool.and_eq_true, Bool.or_eq_true, decide_eq_true_iff, List.contains_iff_mem, ← imp_iff_not_or]
  exact ⟨fun ⟨⟨_, named⟩, timed⟩ => ⟨named, timed⟩, fun ⟨named, timed⟩ => ⟨⟨small named, named⟩, timed⟩⟩

theorem hModeSet_refused (bad : c.w 0 ∉ modeNames ∨ c.w 0 = mService ∧ u.extSet = false) :
    u.hModeSet c = u.answer c.ticket sBadParam [] := by
  refine (hModeSet_eq u c).trans (if_neg ?_)
  rintro ⟨named, timed⟩
  rcases bad with unnamed | ⟨service, untimed⟩
  · exact unnamed named
  · exact Bool.false_ne_true (untimed.symm.trans (timed service))

theorem hModeSet_named (named : c.w 0 ∈ modeNames) (timed : c.w 0 = mService → u.extSet = true) :
    let s1 := u.answer c.ticket sOk []
    u.hModeSet c = if u.mode = c.w 0 then s1 else if c.w 0 = mService then s1.enterMode s1.airMode
      else if c.w 0 = mTest then (s1.enterMode mTest).wf PW_MODE.adr PW_MODE.FROM u.mode
      else (if u.mode = mTest then s1.leaveTest else s1).enterMode (c.w 0) :=
  (hModeSet_eq u c).trans (if_pos ⟨named, timed⟩)

theorem hModeSet_inForce (named : c.w 0 ∈ modeNames) (same : c.w 0 = u.mode) (timed : c.w 0 = mService → u.extSet = true) :
    u.hModeSet c = u.answer c.ticket sOk [] :=
  (hModeSet_named named timed).trans (if_pos same.symm)

theorem hModeSet_service (named : c.w 0 = mService) (timed : u.extSet = true) (other : u.mode ≠ mService) :
    u.hModeSet c = (u.answer c.ticket sOk []).enterMode (u.answer c.ticket sOk []).airMode := by
  rw [hModeSet_named (by rw [named]; decide) fun _ => timed, if_neg (named ▸ other), if_pos named]

theorem hModeSet_test (named : c.w 0 = mTest) (other : u.mode ≠ mTest) :
    u.hModeSet c = ((u.answer c.ticket sOk []).enterMode mTest).wf PW_MODE.adr PW_MODE.FROM u.mode := by
  have notService : c.w 0 ≠ mService := by rw [named]; decide
  rw [hModeSet_named (by rw [named]; decide) (absurd · notService), if_neg (named ▸ other), if_neg notService, if_pos named]

theorem hModeSet_other (named : c.w 0 ∈ [mConfigure, mStandby, mDrain]) (other : u.mode ≠ c.w 0) :
    u.hModeSet c = (if u.mode = mTest then (u.answer c.ticket sOk []).leaveTest else u.answer c.ticket sOk []).enterMode (c.w 0) := by
  obtain ⟨listed, notService, notTest⟩ : c.w 0 ∈ modeNames ∧ c.w 0 ≠ mService ∧ c.w 0 ≠ mTest :=
    (by decide : ∀ m ∈ [mConfigure, mStandby, mDrain], m ∈ modeNames ∧ m ≠ mService ∧ m ≠ mTest) _ named
  rw [hModeSet_named listed (absurd · notService), if_neg other, if_neg notService, if_neg notTest]

/-- DEV_RESET of the module. -/
theorem hReset_module (kind : bits (c.w 0) 0 2 = 0) : u.hReset c =
    if c.w 0 &&& 0x1F03 = c.w 0 then (u.answer c.ticket sOk []).flushReset kCmd else u.answer c.ticket sBadParam [] := by
  simp only [hReset, kind]
  exact chk_eq_ite (by simp) ..

/-- DEV_RESET of one of the `n` units of kind `k`. -/
theorem hReset_unit {k n : Nat} (kind : bits (c.w 0) 0 2 = k) (unit : k = 1 ∧ n = 4 ∨ k = 2 ∧ n = 24) : u.hReset c =
    if c.w 0 &&& 0x1F03 = c.w 0 ∧ bits (c.w 0) 8 5 < n
      then (u.accept c.ticket).localReset (if k = 1 then kReg else kClu) (bits (c.w 0) 8 5) (some c.ticket)
      else u.answer c.ticket sBadParam [] := by
  simp only [hReset, kind]
  rcases unit with ⟨rfl, rfl⟩ | ⟨rfl, rfl⟩ <;> exact chk_eq_ite (by simp) ..

end State

open State in
/-- Settles O30: each packet is the equation of what its handler does, by the mode or the kind of reset that it names. -/
theorem deviceCommandsAnswer : Obligations.DeviceCommandsAnswer := by
  intro s p
  refine ⟨serving_handler (fun u c => u.hDevInfo c.ticket) fun _ _ _ _ => rfl,
    serving_handler (fun u c => u.hStatus c.ticket) fun _ _ _ _ => rfl,
    serving_handler (fun u c => u.answer c.ticket sOk c.ws) fun _ _ _ _ => rfl,
    serving_modeSet fun _ _ unnamed => hModeSet_refused (.inl unnamed),
    serving_modeSet fun _ _ untimed => hModeSet_refused (.inr untimed),
    serving_modeSet fun _ _ ⟨named, same, timed⟩ => hModeSet_inForce named same timed,
    serving_modeSet fun _ _ ⟨named, timed, other⟩ => hModeSet_service named timed other,
    serving_modeSet fun _ _ ⟨named, other⟩ => hModeSet_test named other,
    serving_modeSet fun u c ⟨named, notTest, other⟩ => ?_, serving_modeSet fun u c ⟨named, test⟩ => ?_,
    serving_handler hReset fun u c served _ => ?_,
    serving_handler hReset fun u c served _ => ?_,
    serving_handler hReset fun u c served _ => ?_⟩
  · rw [hModeSet_other named other, if_neg notTest]
  · obtain ⟨listed, notTest⟩ : c.w 0 ∈ [mConfigure, mStandby, mDrain] ∧ mTest ≠ c.w 0 :=
      (by decide : ∀ m ∈ [mConfigure, mStandby], m ∈ [mConfigure, mStandby, mDrain] ∧ mTest ≠ m) _ named
    rw [hModeSet_other listed (test.symm ▸ notTest), if_pos test]
  · exact hReset_module (served.selected rfl (by decide) (by decide))
  · exact hReset_unit (served.selected rfl (by decide) (by decide)) (.inl ⟨rfl, rfl⟩)
  · exact hReset_unit (served.selected rfl (by decide) (by decide)) (.inr ⟨rfl, rfl⟩)

end Sys2Proof.Machine
end

section
/-! Settings (R321, R545, R555). -/

namespace Sys2Proof.Machine

namespace State

/-- Whether SETTING_SET may put the value in force (R321, R340, R497, R513). -/
theorem hSettingSet_eq (u : State) (c : Cmd) :
    let id := bits (c.w 0) 0 16
    let n := bits (c.w 0) 16 16
    let v := if n = 0 then factory id else c.w 1
    u.hSettingSet c = if id ∈ settingIds ∧ n < 2 ∧ bootOnly id = false ∧ settingOk id v = true ∧
        ¬ (0x800 ≤ id ∧ id < 0x808 ∧ bit v 16 ≠ bit (u.setting id) 16)
      then ((u.putSetting id v).applySetting id).answer c.ticket sOk [] else u.answer c.ticket sBadParam [] := by
  unfold hSettingSet
  exact chk_eq_ite (by simp [and_assoc, or_assoc, imp_iff_not_or]) ..

theorem hSettingList_eq (u : State) (c : Cmd) :
    let first := bits (c.w 0) 0 16
    let n := bits (c.w 0) 16 16
    u.hSettingList c = if first ≠ 0
      then u.answer c.ticket sOk (((settingIds.filter fun i => first ≤ i).take (if n = 0 then 2046 else min n 2046)).flatMap
        fun i => [word (i + 0x10000), word (u.setting i)])
      else u.answer c.ticket sBadParam [] := by
  unfold hSettingList
  exact chk_eq_ite decide_eq_true_iff ..

end State

open State in
/-- Settles O31: each packet is the equation of what its handler does. -/
theorem settingsAreReadSetAndListed : Obligations.SettingsAreReadSetAndListed := by
  intro s p
  refine ⟨serving_handler hSettingGet fun u c _ _ => chk_eq_ite List.contains_iff_mem ..,
    serving_handler hSettingSet fun u c _ unfit => (hSettingSet_eq u c).trans (if_neg unfit),
    serving_handler hSettingSet fun u c _ fit => (hSettingSet_eq u c).trans (if_pos fit),
    serving_handler hSettingList fun u c _ _ => hSettingList_eq u c⟩

end Sys2Proof.Machine
end

section
/-! Links and analog channels (R321, R455, R464, R487, R503 to R505). -/

namespace Sys2Proof.Machine

theorem Cmd.w_lt (c : Cmd) (i : Nat) : c.w i < 2 ^ 32 := (c.ws.getD i 0).isLt

namespace State

variable {s u : State} {p : Packet} {c : Cmd}

/-! ### CP_LINK_SET -/

/-- The port of a command is asked for state change `k` at the rate that the command names (R455). -/
def cpAsked (u : State) (c : Cmd) (k : Nat) : State :=
  u.setCp c.tgt { u.cp c.tgt with req := some ⟨k, bits (c.w 0) 2 1, c.ticket⟩ }

/-- The same, and the port's rate is that rate from now on. -/
def cpTimed (u : State) (c : Cmd) (k : Nat) : State :=
  (u.cpAsked c k).setCp c.tgt { (u.cpAsked c k).cp c.tgt with rate := bits (c.w 0) 2 1 }

theorem hCpLink_down (kind : bits (c.w 0) 0 2 = 0) : u.hCpLink c = if c.w 0 < 8
    then (((u.accept c.ticket).cpReqEnd c.tgt sBusy).cpDown c.tgt).finish c.ticket sOk [] else u.answer c.ticket sBadParam [] := by
  simp only [hCpLink, kind]
  refine (chk_eq_ite (p := c.w 0 < 8) (by simp) ..).trans ?_
  simp

/-- A port that waits for an earlier request takes no other. -/
theorem hCpLink_pending (kind : bits (c.w 0) 0 2 = 1) (small : c.w 0 < 8) (waits : (u.cp c.tgt).req ≠ none) :
    u.hCpLink c = u.answer c.ticket sBusy [] := by
  have asked : (u.cp c.tgt).req.isNone = false := Bool.eq_false_iff.mpr (mt Option.isNone_iff_eq_none.mp waits)
  have params : (decide (c.w 0 < 8) && decide (1 < 3)) = true := by simp [small]
  simp only [hCpLink, kind, params, chk_true, asked]
  exact chk_false ..

theorem hCpLink_train (kind : bits (c.w 0) 0 2 = 1) (small : c.w 0 < 8) (free : (u.cp c.tgt).req = none) :
    let v := u.accept c.ticket
    let st := v.cpState c.tgt
    u.hCpLink c = if st = 3 ∧ v.cpRate c.tgt = bits (c.w 0) 2 1 then v.finish c.ticket sOk []
      else if st = 3 then (v.cpTimed c 1).cpRetrain c.tgt
      else if st = 0 then (v.cpTimed c 1).setCpState c.tgt 1 else if st = 5 then v.cpAsked c 1 else v.cpTimed c 1 := by
  have params : (decide (c.w 0 < 8) && decide (1 < 3)) = true := by simp [small]
  simp only [hCpLink, kind, params, chk_true, free]
  exact chk_true ..

theorem hCpLink_powerSave (kind : bits (c.w 0) 0 2 = 2) (small : c.w 0 < 8) (free : (u.cp c.tgt).req = none) :
    let v := u.accept c.ticket
    u.hCpLink c =
      if (u.mapped.any fun e => cCat e.2.words = 3 && cCport e.2.words = c.tgt && decide (e.2.st ≠ 1)) = true
      then u.answer c.ticket sBusy []
      else if v.cpState c.tgt = 3 then (v.setCpState c.tgt 5).finish c.ticket sOk []
      else if v.cpState c.tgt = 5 then v.finish c.ticket sOk [] else v.cpAsked c 2 := by
  have params : (decide (c.w 0 < 8) && decide (2 < 3)) = true := by simp [small]
  simp only [hCpLink, kind, params, chk_true, free]
  cases started : u.mapped.any fun e => cCat e.2.words = 3 && cCport e.2.words = c.tgt && decide (e.2.st ≠ 1)
  · exact chk_true ..
  · exact chk_false ..

/-! ### AO_SET and AO_STEP -/

/-- Another use holds channel `ch` (R504, R505, R508, R511). -/
def AoHeld (u : State) (ch : Nat) : Prop :=
  u.chanNamed ch = true ∨ u.tkOwns ch = true ∨ (u.chan ch).steps ≠ [] ∨ u.aoFault ch = true ∨ u.safeMoving ch = true ∨
    (u.chan ch).clamped = true

theorem aoFree_iff (u : State) (ch : Nat) : (!u.chanNamed ch && !u.tkOwns ch && (u.chan ch).steps.isEmpty && !u.aoFault ch &&
    !u.safeMoving ch && !(u.chan ch).clamped) = true ↔ ¬ u.AoHeld ch := by
  simp [AoHeld, and_assoc]

theorem hAoSet_held (word0 : c.w 0 < 2 ^ 17) (word1 : c.w 1 < 2 ^ 28) (held : u.AoHeld c.tgt) :
    u.hAoSet c = u.answer c.ticket sBusy [] := by
  unfold hAoSet
  have taken := Bool.eq_false_iff.mpr (mt (aoFree_iff u c.tgt).mp (not_not.mpr held))
  simp only [word0, word1, decide_true, Bool.and_true, chk_true, taken]
  exact chk_false ..

theorem hAoSet_free (word0 : c.w 0 < 2 ^ 17) (word1 : c.w 1 < 2 ^ 28) (free : ¬ u.AoHeld c.tgt) :
    let code := bits (c.w 0) 0 16
    let v := u.answer c.ticket sOk []
    u.hAoSet c = if bit (c.w 0) 16 then v.aoSlew c.tgt code (bits (c.w 1) 0 12 + 1) (bits (c.w 1) 12 16 + 1) false
      else if u.mode = mTest ∨ u.mode = mRecovery then v.aoSlew c.tgt code (u.aoProfile c.tgt).1 (u.aoProfile c.tgt).2 false
      else v.aoDirect c.tgt code := by
  unfold hAoSet
  simp only [word0, word1, decide_true, Bool.and_true, chk_true, (aoFree_iff u c.tgt).mpr free]

/-- The fields of the word that Concierge writes to TK_AOSTEP (R487). -/
theorem aoStep_fields {lt code ch : Nat} (hl : lt < 2 ^ 32) (hc : code < 2 ^ 16) (hh : ch < 8) :
    let v := lt + 2 ^ 32 * code + 2 ^ 48 * ch
    bits v 0 32 = lt ∧ bits v 32 16 = code ∧ bits v 48 3 = ch ∧ bit v 51 = false ∧ bits v 52 12 = 0 := by
  simp only [bits, bit, Nat.shiftRight_eq_div_pow, decide_eq_false_iff_not]
  omega

/-- Concierge's write of TK_AOSTEP queues the step that its fields name (R487). -/
theorem aoStepWrite_fields (s : State) {lt code ch : Nat} (hl : lt < 2 ^ 32) (hc : code < 2 ^ 16) (hh : ch < 8) :
    s.aoStepWrite 40 true (lt + 2 ^ 32 * code + 2 ^ 48 * ch) = s.queueStep ch code lt false := by
  obtain ⟨time, step, channel, final, zero⟩ := aoStep_fields hl hc hh
  simp only [aoStepWrite, time, step, channel, final, zero, true_or, and_self, if_true]

theorem queueEntry_room {ch : Nat} (st : AStep) (own : s.tkOwns ch = false) (room : (s.chan ch).steps.length < 32) :
    s.queueEntry ch st = (s.setChan ch { s.chan ch with steps := (s.chan ch).steps ++ [st] }).aoSync ch := by
  simp only [queueEntry, own, Bool.false_eq_true, if_false, if_neg (Nat.not_le.mpr room)]

theorem Serves.aoStep_channel (served : s.Serves 0x0506 p u c) : c.tgt < 8 := by
  have header := served.header.resolve_left (by decide)
  have targets : c.targets = some 8 := by rw [Cmd.targets, served.op_eq]; rfl
  simp only [Cmd.hdrOk, Cmd.tgtOk, targets, Bool.and_eq_true, decide_eq_true_iff] at header
  exact header.2.1

theorem hAoStep_queues (channel : c.tgt < 8) (word0 : c.w 0 < 2 ^ 16) (room : (u.chan c.tgt).steps.length < 32)
    (fine : u.aoFault c.tgt = false) (rests : u.safeMoving c.tgt = false) (own : u.tkOwns c.tgt = false) :
    u.hAoStep c = ((u.setChan c.tgt { u.chan c.tgt with steps := (u.chan c.tgt).steps ++ [⟨c.w 0, c.w 1, false, none⟩] }).aoSync
      c.tgt).answer c.ticket sOk [] := by
  have free : (decide ((u.chan c.tgt).steps.length < 32) && !u.aoFault c.tgt && !u.safeMoving c.tgt) = true := by
    simp [room, fine, rests]
  rw [← queueEntry_room _ own room]
  simp only [hAoStep, word0, decide_true, free, chk_true, aoStepWrite_fields u (c.w_lt 1) word0 channel, queueStep]

end State

open State in
/-- Settles O32: each packet is the equation of what its handler does with the port or the channel that it names. -/
theorem linksAndAnalogChannelsAreCommanded : Obligations.LinksAndAnalogChannelsAreCommanded := by
  intro s p
  refine ⟨serving_handler hCpLink fun u c served _ =>
      hCpLink_down (served.selected rfl (by decide) (by decide)),
    serving_handler hCpLink fun u c served ⟨small, free⟩ =>
      hCpLink_train (served.selected rfl (by decide) (by decide)) small free,
    serving_handler hCpLink fun u c served ⟨small, free⟩ =>
      hCpLink_powerSave (served.selected rfl (by decide) (by decide)) small free,
    serving_handler hCpLink fun u c served ⟨small, waits⟩ =>
      hCpLink_pending (served.selected rfl (by decide) (by decide)) small waits,
    serving_handler hCpStatus fun _ _ _ _ => rfl,
    serving_handler hAoSet fun u c served ⟨⟨word0, word1⟩, free⟩ => ?_,
    serving_handler hAoSet fun u c served ⟨⟨word0, word1⟩, free⟩ => ?_,
    serving_handler hAoSet fun u c served ⟨⟨word0, word1⟩, held⟩ => hAoSet_held word0 word1 held,
    serving_handler hAoStep fun u c served ⟨word0, room, fine, rests, own⟩ =>
      hAoStep_queues served.aoStep_channel word0 room fine rests own⟩
  · have direct : bit (c.w 0) 16 = false := decide_eq_false (ne_of_eq_of_ne (served.selected rfl (by decide) (by decide)) zero_ne_one)
    rw [hAoSet_free word0 word1 free, direct, if_neg Bool.false_ne_true]
  · have slewed : bit (c.w 0) 16 = true := decide_eq_true (served.selected rfl (by decide) (by decide))
    exact (hAoSet_free word0 word1 free).trans (if_pos slewed)

end Sys2Proof.Machine
end

section
/-! Time, PTP, sources and the ports of the fronthaul (R321, R432, R482, R491, R492). -/

namespace Sys2Proof.Machine

namespace State

variable {s u : State} {p : Packet} {c : Cmd}

/-- The parameters of TIME_STEP keep their ranges (R321). -/
def TimeStepFits (c : Cmd) : Prop := c.w 0 < 2 ∧ c.w 2 < 2 ^ 16 ∧ c.w 3 < 10 ^ 9

theorem hTimeStep_refused (bad : ¬ TimeStepFits c) : u.hTimeStep c = u.answer c.ticket sBadParam [] := by
  have params : (decide (c.w 0 < 2) && decide (c.w 2 < 2 ^ 16) && decide (c.w 3 < 10 ^ 9)) = false :=
    Bool.eq_false_iff.mpr fun h => bad (by simpa [TimeStepFits, and_assoc] using h)
  simp only [hTimeStep, params, chk_false]

theorem hTimeStep_relative (good : TimeStepFits c) (kind : bits (c.w 0) 0 1 = 0) :
    let d : Int := sgn 48 (c.w48 1) * 10 ^ 9 + c.w 3
    u.hTimeStep c = if d = 0 then u.answer c.ticket sOk [] else (u.timeStep d true).answer c.ticket sOk [] := by
  obtain ⟨word0, word2, word3⟩ := good
  have relative : c.w 0 ≠ 1 := fun h => by simp [h, bits] at kind
  simp only [hTimeStep, word0, word2, word3, decide_true, Bool.and_true, chk_true, if_neg relative]

theorem hTimeStep_absolute (good : TimeStepFits c) (kind : bits (c.w 0) 0 1 = 1) :
    let d : Int := ((c.w48 1 * 10 ^ 9 + c.w 3 : Nat) : Int) - u.ext
    u.hTimeStep c = if u.extSet = true then (u.timeStep d true).answer c.ticket sOk []
      else (u.setExtSet.timeStep d false).answer c.ticket sOk [] := by
  obtain ⟨word0, word2, word3⟩ := good
  have absolute : c.w 0 = 1 := by
    simp only [bits, Nat.shiftRight_zero] at kind
    omega
  simp only [hTimeStep, word0, word2, word3, decide_true, Bool.and_true, chk_true, if_pos absolute]
  exact apply_ite (fun v => answer v c.ticket sOk []) ..

theorem hPtpCfg_eq (u : State) (c : Cmd) :
    let d := bits (c.w 0) 0 8
    let o := u.ptpOf c.tgt
    u.hPtpCfg c = if c.w 0 < 2 ^ 11 ∧ 24 ≤ d ∧ d ≤ 43
      then (u.setPtp c.tgt { (if o.domain = d then o else { Ptp.reset with domain := d }) with
        role := bits (c.w 0) 8 2, twoStep := bit (c.w 0) 10 }).answer c.ticket sOk []
      else u.answer c.ticket sBadParam [] := by
  unfold hPtpCfg
  exact chk_eq_ite (by simp [and_assoc]) ..

theorem hSyncSrc_eq (u : State) (c : Cmd) :
    let src := bits (c.w 0) 0 3
    let port := bits (c.w 0) 4 4
    u.hSyncSrc c = if c.w 0 &&& 0xF7 = c.w 0 ∧ src < 4 ∧ (src = 1 ∨ src = 3 → port < 12) ∧
        (src = 1 → (u.ptpOf port).role = 1 ∨ (u.ptpOf port).role = 3)
      then (u.setSource src (if src = 1 ∨ src = 3 then port else 0)).answer c.ticket sOk []
      else u.answer c.ticket sBadParam [] := by
  unfold hSyncSrc
  refine (chk_eq_ite (p := c.w 0 &&& 0xF7 = c.w 0 ∧ bits (c.w 0) 0 3 < 4 ∧
    (bits (c.w 0) 0 3 = 1 ∨ bits (c.w 0) 0 3 = 3 → bits (c.w 0) 4 4 < 12) ∧
    (bits (c.w 0) 0 3 = 1 → (u.ptpOf (bits (c.w 0) 4 4)).role = 1 ∨ (u.ptpOf (bits (c.w 0) 4 4)).role = 3)) ?_ ..).trans ?_
  · simp [and_assoc, or_assoc, imp_iff_not_or]
  · simp

theorem hPortCfg_eq (u : State) (c : Cmd) :
    let v := setBits (setBits (setBits (u.reg (LN_PORTCFG.adr c.tgt)) 0 12 (bits (c.w 2) 0 12)) 12 3 (bits (c.w 2) 12 3)) 31 1 (c.w 3)
    u.hPortCfg c = if c.w 1 < 2 ^ 16 ∧ c.w48 0 ≠ 0 ∧ c.w 2 < 2 ^ 15 ∧ c.w 3 < 2
      then ((u.setEth c.tgt { u.ethOf c.tgt with mac := c.w48 0 }).busWrite 40 (LN_PORTCFG.adr c.tgt) (leBytes 4 v)).2.answer c.ticket
        sOk []
      else u.answer c.ticket sBadParam [] := by
  unfold hPortCfg
  exact chk_eq_ite (by simp [and_assoc]) ..

end State

open State in
/-- Settles O33: each packet is the equation of what its handler does. -/
theorem timeAndPortCommandsSetState : Obligations.TimeAndPortCommandsSetState := by
  intro s p
  refine ⟨serving_handler (fun u c => u.hTimeGet c.ticket) fun _ _ _ _ => rfl,
    serving_handler hTimeStep fun u c served good =>
      hTimeStep_relative good (served.selected rfl (by decide) (by decide)),
    serving_handler hTimeStep fun u c served bad => hTimeStep_refused bad,
    serving_handler hTimeStep fun u c served good =>
      hTimeStep_absolute good (served.selected rfl (by decide) (by decide)),
    serving_handler hTimeStep fun u c served bad => hTimeStep_refused bad,
    serving_handler hUtc fun _ _ _ _ => rfl,
    serving_handler hPtpCfg fun u c _ _ => hPtpCfg_eq u c,
    serving_handler hSyncSrc fun u c _ _ => hSyncSrc_eq u c,
    serving_handler hPortCfg fun u c _ _ => hPortCfg_eq u c⟩

end Sys2Proof.Machine
end

section
/-! Memory commands (R321, R342, R358 to R362, R368). -/

namespace Sys2Proof.Machine

namespace State

variable {s u : State} {p : Packet} {c : Cmd}

/-! ### SCRUB -/

/-- The memory of the first line that a SCRUB names. -/
def scrubLoc (u : State) (c : Cmd) : MemLoc := (memLoc u.ddrGiB (c.w48 0)).getD ⟨0, 0, 0, 8⟩

/-- The lines that a SCRUB names lie in one memory (R360). -/
def ScrubWhole (u : State) (c : Cmd) : Prop :=
  c.w 1 < 2 ^ 16 ∧ c.w48 0 % 64 = 0 ∧ c.w 2 ≠ 0 ∧ scrubSame u.ddrGiB (c.w48 0) (c.w48 0 + 64 * c.w 2 - 1) = true

theorem scrubOk_of_whole (whole : u.ScrubWhole c) : u.scrubOk c = true := by
  obtain ⟨-, -, -, same⟩ := whole
  rw [scrubOk, same, Bool.or_true]

theorem hScrub_checked (word1 : c.w 1 < 2 ^ 16) (aligned : c.w48 0 % 64 = 0) (range : u.scrubOk c = true) : u.hScrub c =
    if u.scrub = none ∧ ¬ (c.w 2 ≠ 0 ∧ (u.scrubLoc c).kind = 8 ∧ u.ddrBusy = true)
      then if c.w 2 = 0 then u.acceptFinish c.ticket sOk (List.replicate 7 0)
        else (u.accept c.ticket).scrubStart (c.w48 0) (c.w 2) (u.scrubLoc c) c.ticket
      else u.answer c.ticket sBusy [] := by
  simp only [hScrub, word1, aligned, range, decide_true, Bool.and_true, chk_true]
  exact chk_eq_ite (by simp [scrubLoc, or_assoc, imp_iff_not_or]) ..

theorem hScrub_starts (whole : u.ScrubWhole c) (idle : u.scrub = none) (ready : (u.scrubLoc c).kind = 8 → u.ddrBusy = false) :
    u.hScrub c = (u.accept c.ticket).scrubStart (c.w48 0) (c.w 2) (u.scrubLoc c) c.ticket := by
  obtain ⟨word1, aligned, some_, -⟩ := id whole
  rw [hScrub_checked word1 aligned (scrubOk_of_whole whole),
    if_pos ⟨idle, fun ⟨_, ddr, busy⟩ => Bool.false_ne_true ((ready ddr).symm.trans busy)⟩, if_neg some_]

theorem hScrub_busy (whole : u.ScrubWhole c) (running : u.scrub ≠ none) : u.hScrub c = u.answer c.ticket sBusy [] := by
  obtain ⟨word1, aligned, -, -⟩ := id whole
  rw [hScrub_checked word1 aligned (scrubOk_of_whole whole), if_neg fun h => running h.1]

theorem hScrub_nothing (none_ : c.w 2 = 0) (word1 : c.w 1 < 2 ^ 16) (aligned : c.w48 0 % 64 = 0) (idle : u.scrub = none) :
    u.hScrub c = u.acceptFinish c.ticket sOk (List.replicate 7 0) := by
  rw [hScrub_checked word1 aligned (by simp [scrubOk, none_]), if_pos ⟨idle, fun h => h.1 none_⟩, if_pos none_]

/-- The lines of a SCRUB lie in the memory of a core. -/
def ScrubCore (c : Cmd) : Prop := 0x100000000 ≤ c.w48 0 ∧ c.w48 0 < 0x100000000 + 192 * 0x100000

/-- The domain of that core. -/
def scrubDom (c : Cmd) : Nat := (c.w48 0 - 0x100000000) / 0x100000 / 8 * 11 + 1 + (c.w48 0 - 0x100000000) / 0x100000 % 8

/-- The domain and the island of the lines of a SCRUB, and for a core memory the domain of its core (R360). -/
theorem tgtHomes_scrub (op : c.op = 0x0701) (whole : u.ScrubWhole c) : ∃ core : List (Option Nat × Nat),
    u.tgtHomes c = (islandDom (u.scrubLoc c).island, (u.scrubLoc c).island) :: core ∧
      (ScrubCore c ∧ core = [(some (scrubDom c), (u.scrubLoc c).island)] ∨ ¬ ScrubCore c ∧ core = []) := by
  have named : ¬ (c.w 2 = 0 ∨ (!u.scrubOk c) = true) := by
    simp [scrubOk_of_whole whole, whole.2.2.1]
  refine ⟨_, by rw [tgtHomes, if_pos op, scrubHomes, if_neg named]; rfl, ?_⟩
  split
  next core => exact .inl ⟨core, rfl⟩
  next noCore => exact .inr ⟨noCore, rfl⟩

theorem any_off_one (u : State) (d i : Nat) :
    ([(some d, i)].any fun h : Option Nat × Nat => h.1.any fun d => !u.domOn d) = true ↔ u.domOn d = false := by simp

theorem tgtOff_scrub (op : c.op = 0x0701) (whole : u.ScrubWhole c) : u.tgtOff c = true ↔
    (∃ d, islandDom (u.scrubLoc c).island = some d ∧ u.domOn d = false) ∨ (ScrubCore c ∧ u.domOn (scrubDom c) = false) := by
  have other : c.op ≠ 0x0902 := by rw [op]; decide
  obtain ⟨core, homes, lies⟩ := tgtHomes_scrub op whole
  rw [tgtOff, homes, decide_eq_true other, Bool.true_and, List.any_cons, Bool.or_eq_true]
  refine or_congr (by simp [Option.any_eq_true]) ?_
  rcases lies with ⟨inside, rfl⟩ | ⟨outside, rfl⟩
  · exact (any_off_one u _ _).trans (and_iff_right inside).symm
  · exact iff_of_false (by simp) fun h => outside h.1

theorem tgtDead_scrub (op : c.op = 0x0701) (whole : u.ScrubWhole c) : u.tgtDead c = u.deadIsl (u.scrubLoc c).island := by
  obtain ⟨core, homes, lies⟩ := tgtHomes_scrub op whole
  rw [tgtDead, homes]
  rcases lies with ⟨-, rfl⟩ | ⟨-, rfl⟩
  · simp
  · simp

/-! ### The tables of the hub -/

theorem hEccGet_eq (u : State) (c : Cmd) : u.hEccGet c = if c.w 0 < 9
    then u.answer c.ticket sOk ([word (u.reg (HUB_CECNT.adr (c.w 0))), word (u.reg (HUB_UECNT.adr (c.w 0))),
      word (u.reg (HUB_ECCDROP.adr (c.w 0)))] ++ ((List.range 32).filter fun i => u.eccTaken (c.w 0) i).flatMap fun i =>
        [word (u.reg (eccEnt (c.w 0) i 0)), word (u.reg (eccEnt (c.w 0) i 1))])
    else u.answer c.ticket sBadParam [] := by
  unfold hEccGet
  exact chk_eq_ite decide_eq_true_iff ..

theorem hEccClear_eq (u : State) (c : Cmd) : u.hEccClear c =
    if c.w 0 < 9 then (u.eccClear (c.w 0)).answer c.ticket sOk [] else u.answer c.ticket sBadParam [] := by
  unfold hEccClear
  exact chk_eq_ite decide_eq_true_iff ..

/-! ### MEM_READ and MEM_WRITE -/

theorem exec_memRead {host : HostData} (served : (s.hosting host).Serves 0x0705 p u c) :
    exec (.memRead p host) s = .next (u.hMemRead c).calm := by
  have taken : exec (.memRead p host) s = .next (u.serve c).calm := congrArg _ (takePacket_of_takes served.takes)
  rw [taken, serve_of_serves served rfl, dispatch, served.op_eq]
  rfl

theorem hMemRead_eq (u : State) (c : Cmd) :
    let n := c.w 2
    u.hMemRead c = if c.w 1 < 2 ^ 16 ∧ c.w48 0 % 4 = 0 ∧ 1 ≤ n ∧ n ≤ 1023
      then u.chk c.ticket (!u.memBusy (c.w48 0) (4 * n)) sBusy fun s =>
        (s.busRead 40 (c.w48 0) (4 * n)).2.2.answer c.ticket (memStatus (s.busRead 40 (c.w48 0) (4 * n)).1)
          (bytesWords (s.busRead 40 (c.w48 0) (4 * n)).2.1)
      else u.answer c.ticket sBadParam [] := by
  unfold hMemRead
  exact chk_eq_ite (by simp [and_assoc]) ..

theorem hMemWrite_written (word1 : c.w 1 < 2 ^ 16) (aligned : c.w48 0 % 4 = 0) (ready : u.memBusy (c.w48 0) (4 * (c.plen - 2)) = false)
    (taken : (u.memWrite (c.w48 0) (wordBytes (c.ws.drop 2))).1 = none) :
    u.hMemWrite c = (u.memWrite (c.w48 0) (wordBytes (c.ws.drop 2))).2.answer c.ticket sOk [] := by
  simp only [hMemWrite, word1, aligned, decide_true, Bool.and_true, chk_true, ready, Bool.not_false, taken]
  rfl

/-- A line that its target does not take is the only one that is asked for. -/
theorem memWrite_stops {b : Nat} {bs : List Byte} {q : Nat × List Byte}
    (fails : (((pieces (bs.length / 64 + 2) b bs.length).map fun x => (x.1, (bs.drop (x.1 - b)).take x.2)).find? fun x =>
      (u.memLine x.1 x.2).1.isSome) = some q) : u.memWrite b bs = u.memLine q.1 q.2 := by
  simp only [memWrite, fails]

end State

open State in
/-- Settles O34: each packet is the equation of what its handler does, and the gates of SCRUB are those of the lines that it names. -/
theorem memoryCommandsReachMemories : Obligations.MemoryCommandsReachMemories := by
  intro s p host
  refine ⟨serving_handler hScrub fun u c _ ⟨whole, idle, ready⟩ => hScrub_starts whole idle ready,
    serving_handler hScrub fun u c _ ⟨whole, running⟩ => hScrub_busy whole running,
    fun u c taken st fails => ?_, fun u c op whole => ⟨(tgtOff_scrub op whole).trans (or_congr_right and_assoc), tgtDead_scrub op whole⟩,
    serving_handler hScrub fun u c _ ⟨none_, word1, aligned, idle⟩ =>
      hScrub_nothing none_ word1 aligned idle,
    serving_handler hEccGet fun u c _ _ => hEccGet_eq u c,
    serving_handler hEccClear fun u c _ _ => hEccClear_eq u c,
    serving_handler (fun u c => u.hRetire c.ticket) fun _ _ _ _ => rfl,
    fun u c served => ⟨fun word1 aligned some_ few => ⟨fun busy => ?_, fun ready bs v read => ?_⟩, fun bad => ?_⟩,
    serving_handler hMemWrite fun u c _ ⟨word1, aligned, ready, taken⟩ =>
      hMemWrite_written word1 aligned ready taken,
    fun u b bs q fails => memWrite_stops fails⟩
  · have answered : exec (.scrub p) s = .next (u.serve c).calm := congrArg _ (takePacket_of_takes (calm_eq_hosting s ▸ taken))
    rw [answered, serve_fail fails]
  · rw [exec_memRead served, hMemRead_eq, if_pos ⟨word1, aligned, some_, few⟩, busy, Bool.not_true, chk_false]
  · rw [exec_memRead served, hMemRead_eq, if_pos ⟨word1, aligned, some_, few⟩, ready, Bool.not_false, chk_true, read]
    rfl
  · have refused : ¬ (c.w 1 < 2 ^ 16 ∧ c.w48 0 % 4 = 0 ∧ 1 ≤ c.w 2 ∧ c.w 2 ≤ 1023) := fun ⟨_, aligned, some_, few⟩ =>
      bad.elim (· aligned) (·.elim (Nat.one_le_iff_ne_zero.mp some_) (Nat.not_lt.mpr few))
    rw [exec_memRead served, hMemRead_eq, if_neg refused]

end Sys2Proof.Machine
end

section
/-! Commands of the Guestbook and of power (R321, R519 to R525, R532, R537, R580, R590, R595). -/

namespace Sys2Proof.Machine

namespace State

variable {s u : State} {p : Packet} {c : Cmd}

/-! ### Parameters with one range -/

theorem hGbRead_eq (u : State) (c : Cmd) : u.hGbRead c = if c.w 1 < 128
    then (u.nvScan (nvBase + 0x1000000) 0x400000).answer c.ticket sOk (u.gbRead (c.w 0) (c.w 1))
    else u.answer c.ticket sBadParam [] := by
  unfold hGbRead
  exact chk_eq_ite decide_eq_true_iff ..

theorem hEvtRoute_eq (u : State) (c : Cmd) : u.hEvtRoute c = if c.w 0 < 1536 ∧ c.w 1 < 2 ^ 27
    then (u.setReg (GB_ROUTE.adr (c.w 0)) (c.w 1)).answer c.ticket sOk [] else u.answer c.ticket sBadParam [] := by
  unfold hEvtRoute
  exact chk_eq_ite (by simp) ..

/-! ### PL_SET -/

/-- The change of level that a command asks for starts, and its one reply waits for the end (R525). -/
def plStart (u : State) (c : Cmd) : State :=
  let v := ((u.wf (PW_ISLAND.adr c.tgt) PW_ISLAND.TARGET (c.w 0)).wb (PW_ISLAND.adr c.tgt) PW_ISLAND.CHANGING true).hold c.ticket
  { v with plJobs := v.plJobs ++ [(c.tgt, c.ticket)] }

theorem hPlSet_refused (bad : 6 ≤ c.w 0) : u.hPlSet c = u.answer c.ticket sBadParam [] := by
  simp only [hPlSet, decide_eq_false (Nat.not_lt.mpr bad), chk_false]

theorem hPlSet_busy (level : c.w 0 < 6) (changes : ∃ j ∈ u.plJobs, j.1 = c.tgt) : u.hPlSet c = u.answer c.ticket sBusy [] := by
  have open_ : (!u.plJobs.any fun j => decide (j.1 = c.tgt)) = false := by simpa using changes
  simp only [hPlSet, decide_eq_true level, chk_true, open_, chk_false]

section
variable (level : c.w 0 < 6) (rests : ∀ j ∈ u.plJobs, j.1 ≠ c.tgt)
include level rests

theorem hPlSet_inForce (same : u.rf (PW_ISLAND.adr c.tgt) PW_ISLAND.ACTIVE = c.w 0) : u.hPlSet c = u.answer c.ticket sOk [] := by
  have free : (!u.plJobs.any fun j => decide (j.1 = c.tgt)) = true := by simpa using rests
  simp only [hPlSet, decide_eq_true level, chk_true, free, if_pos same]

theorem hPlSet_alone (other : u.rf (PW_ISLAND.adr c.tgt) PW_ISLAND.ACTIVE ≠ c.w 0)
    (alone : u.regionCarriers (islandRegion c.tgt) = []) : u.hPlSet c = u.plStart c := by
  have free : (!u.plJobs.any fun j => decide (j.1 = c.tgt)) = true := by simpa using rests
  simp only [hPlSet, decide_eq_true level, chk_true, free, if_neg other, alone, List.isEmpty_nil, if_true]
  rfl

/-- Another level is checked against the carriers of its region (R299). -/
theorem hPlSet_hosting (other : u.rf (PW_ISLAND.adr c.tgt) PW_ISLAND.ACTIVE ≠ c.w 0)
    (hosts : u.regionCarriers (islandRegion c.tgt) ≠ []) :
    let fit := u.regionOk (islandRegion c.tgt) (u.regionCarriers (islandRegion c.tgt)) (some (c.tgt, c.w 0)) none
    u.hPlSet c = if fit.1 = true then fit.2.plStart c else fit.2.answer c.ticket sNoResource [] := by
  have free : (!u.plJobs.any fun j => decide (j.1 = c.tgt)) = true := by simpa using rests
  simp only [hPlSet, decide_eq_true level, chk_true, free, if_neg other, if_neg (mt List.isEmpty_iff.mp hosts)]
  exact chk_eq_ite Iff.rfl ..

end

theorem plDone_changing {i : Nat} {t : Ticket} (changes : s.plJobs.find? (fun j => j.1 = i) = some (i, t)) :
    s.plDone i = (({ s with plJobs := s.plJobs.filter fun j => j.1 ≠ i }.wf (PW_ISLAND.adr i) PW_ISLAND.ACTIVE
      (s.rf (PW_ISLAND.adr i) PW_ISLAND.TARGET)).wb (PW_ISLAND.adr i) PW_ISLAND.CHANGING false).finish t sOk [] := by
  simp only [plDone, changes]

/-! ### DOMAIN_SET -/

/-- The parameters of DOMAIN_SET: ON, and a domain that may be switched (R519). -/
def DomainNamed (c : Cmd) : Prop :=
  c.w 0 < 2 ∧ (c.tgt < 322 ∨ (329 ≤ c.tgt ∧ c.tgt < 341) ∨ (342 ≤ c.tgt ∧ c.tgt < 350))

/-- No change of domains is open, and no carrier uses the domain of the command (R520). -/
def DomainFree (u : State) (c : Cmd) : Prop := u.domJob = none ∧ u.domUsed c.tgt = false

theorem domainFree_iff (u : State) (c : Cmd) : (u.domJob.isNone && !u.domUsed c.tgt) = true ↔ u.DomainFree c := by
  simp [DomainFree]

theorem domainNamed_iff (c : Cmd) : (decide (c.w 0 < 2) && (decide (c.tgt < 322) || decide (329 ≤ c.tgt) && decide (c.tgt < 341) ||
    decide (342 ≤ c.tgt) && decide (c.tgt < 350))) = true ↔ DomainNamed c := by
  simp [DomainNamed, or_assoc]

theorem hDomain_busy (named : DomainNamed c) (busy : ¬ u.DomainFree c) : u.hDomain c = u.answer c.ticket sBusy [] := by
  have taken := Bool.eq_false_iff.mpr (mt (domainFree_iff u c).mp busy)
  simp only [hDomain, (domainNamed_iff c).mpr named, chk_true, taken, chk_false]

/-- DOMAIN_SET that may go on: the domains above that are off come up with one that is switched on, and those below go with one that is
switched off, when the columns of its region allow it. -/
theorem hDomain_free (named : DomainNamed c) (free : u.DomainFree c) :
    let on := (domsAbove c.tgt).filter fun x => !u.domOn x
    let up := on.foldl (fun s x => s.domUp x) (u.accept c.ticket)
    let v := (u.domFits c.tgt).2
    let off := (domsBelow c.tgt).filter fun x => v.domOn x
    u.hDomain c = if bit (c.w 0) 0 then
        if on.filterMap domIsland = [] then up.finish c.ticket sOk []
        else { up with domJob := some ⟨c.ticket, true, on, on.filterMap domIsland⟩ }
      else if (u.domFits c.tgt).1 = true then
        if off = [] then v.acceptFinish c.ticket sOk []
        else off.foldl (fun s x => s.domQuiesce x) { v.accept c.ticket with domJob := some ⟨c.ticket, false, off, []⟩ }
      else v.answer c.ticket sNoResource [] := by
  simp only [hDomain, (domainNamed_iff c).mpr named, chk_true, (domainFree_iff u c).mpr free, List.isEmpty_iff]
  rfl

/-- A power-off whose bridges have drained takes the power; else they drain, with the held tasks aborted (R76, R521). -/
theorem domDrainEnd_off {j : DomJob} (named : s.domJob = some j) (off : j.on = false) :
    let gone : State := { j.doms.foldl (fun (v : State) d => v.domOff d) s with domJob := none }
    s.domDrainEnd = if s.domUndrained j.doms = [] then
        match j.ticket with
        | some t => gone.finish t sOk []
        | none => gone
      else (s.domUndrained j.doms).foldl (fun v i => v.drainStart i kOn)
        (j.doms.foldl (fun (v : State) d => match domUnit d with
          | some (r, k) => v.abortUnit r k 1
          | none => v) s) := by
  simp only [domDrainEnd, named, off, Bool.false_eq_true, if_false, List.isEmpty_iff] <;> rfl

end State

open State in
/-- Settles O35: each packet is the equation of what its handler does. -/
theorem guestbookAndPowerCommandsAct : Obligations.GuestbookAndPowerCommandsAct := by
  intro s p
  refine ⟨serving_handler (fun u c => u.hGbFlush c.ticket) fun _ _ _ _ => rfl,
    serving_handler hGbRead fun u c _ _ => hGbRead_eq u c,
    serving_handler hEvtRoute fun u c _ _ => hEvtRoute_eq u c,
    serving_handler hAlarm fun _ _ _ _ => rfl,
    serving_handler (fun u c => u.hPower c.ticket) fun _ _ _ _ => rfl,
    serving_handler hPlSet fun u c _ bad => hPlSet_refused bad,
    serving_handler hPlSet fun u c _ ⟨level, changes⟩ => hPlSet_busy level changes,
    serving_handler hPlSet fun u c _ ⟨level, rests, same⟩ => hPlSet_inForce level rests same,
    serving_handler hPlSet fun u c _ ⟨level, rests, other, alone⟩ =>
      hPlSet_alone level rests other alone,
    serving_handler hPlSet fun u c _ ⟨level, rests, other, hosts⟩ =>
      hPlSet_hosting level rests other hosts,
    fun i t changes => congrArg Host.Outcome.next (plDone_changing changes),
    serving_handler hDomain fun u c served ⟨named, free⟩ => ?_,
    serving_handler hDomain fun u c _ ⟨named, busy⟩ => hDomain_busy named busy,
    serving_handler hDomain fun u c served ⟨named, free, unfit⟩ => ?_,
    serving_handler hDomain fun u c served ⟨named, free, fit⟩ => ?_,
    fun j named off => ⟨fun drained => ?_, fun undrained => ?_⟩,
    serving_handler (fun u c => u.hSleep c.ticket) fun _ _ _ _ => rfl⟩
  · have on : bit (c.w 0) 0 = true := decide_eq_true (served.selected rfl (by decide) (by decide))
    exact (hDomain_free named free).trans (if_pos on)
  · have off : bit (c.w 0) 0 = false := decide_eq_false (ne_of_eq_of_ne (served.selected rfl (by decide) (by decide)) zero_ne_one)
    rw [hDomain_free named free, off, if_neg Bool.false_ne_true, unfit, if_neg Bool.false_ne_true]
  · have off : bit (c.w 0) 0 = false := decide_eq_false (ne_of_eq_of_ne (served.selected rfl (by decide) (by decide)) zero_ne_one)
    rw [hDomain_free named free, off, if_neg Bool.false_ne_true, if_pos fit]
  · exact congrArg Host.Outcome.next ((domDrainEnd_off named off).trans (if_pos drained))
  · exact congrArg Host.Outcome.next ((domDrainEnd_off named off).trans (if_neg undrained))

end Sys2Proof.Machine
end

section
/-! Tests of lanes and of the module (R321, R401 to R403). -/

namespace Sys2Proof.Machine

namespace State

variable {s u : State} {p : Packet} {c : Cmd}

/-- A port whose lanes carry no loopback of their own is looped on both lanes. -/
theorem hLoop_port (small : c.w 0 < 8) (port : bit (c.w 0) 2 = true)
    (free : ∀ i < 2, u.rf (LN_LANESTAT.adr (portLane c.tgt + i)) LN_LANESTAT.LOOP = 0 ∨ (u.ethOf c.tgt).loop ≠ 0) :
    let kind := bits (c.w 0) 0 2
    u.hLoop c = (((u.setEth c.tgt { u.ethOf c.tgt with loop := kind }).wf (LN_LANESTAT.adr (portLane c.tgt + 0)) LN_LANESTAT.LOOP
      kind).wf (LN_LANESTAT.adr (portLane c.tgt + 1)) LN_LANESTAT.LOOP kind).answer c.ticket sOk [] := by
  have none_ : ((List.range 2).any fun i =>
      decide (u.rf (LN_LANESTAT.adr (portLane c.tgt + i)) LN_LANESTAT.LOOP ≠ 0) && decide ((u.ethOf c.tgt).loop = 0)) = false := by
    simpa [← or_iff_not_imp_left] using free
  simp only [hLoop, small, port, decide_true, Bool.true_or, Bool.and_true, chk_true, if_true, none_, Bool.not_false]
  rfl

section
variable (small : c.w 0 < 8) (lane : bit (c.w 0) 2 = false) (high : 16 ≤ c.tgt)
include small lane high

theorem hLoop_lane (free : (u.ethOf ((c.tgt - 16) / 2)).loop = 0) :
    u.hLoop c = (u.wf (LN_LANESTAT.adr c.tgt) LN_LANESTAT.LOOP (bits (c.w 0) 0 2)).answer c.ticket sOk [] := by
  simp only [hLoop, small, lane, high, decide_true, Bool.false_or, Bool.and_true, chk_true, Bool.false_eq_true, if_false, free]

theorem hLoop_laneBusy (looped : (u.ethOf ((c.tgt - 16) / 2)).loop ≠ 0) : u.hLoop c = u.answer c.ticket sBusy [] := by
  simp only [hLoop, small, lane, high, decide_true, Bool.false_or, Bool.and_true, chk_true, Bool.false_eq_true, if_false, looped,
    decide_false, chk_false]

end

/-- The parameters of PRBS_RUN: a lane of Ethernet, its pattern and its duration (R321). -/
def PrbsFits (c : Cmd) : Prop := 16 ≤ c.tgt ∧ (c.w 0 = 1 ∨ c.w 0 = 2) ∧ 1 ≤ c.w 1 ∧ c.w 1 < 2 ^ 16

theorem prbsFits_iff (c : Cmd) : (decide (16 ≤ c.tgt) && (decide (c.w 0 = 1) || decide (c.w 0 = 2)) && decide (1 ≤ c.w 1) &&
    decide (c.w 1 < 2 ^ 16)) = true ↔ PrbsFits c := by
  simp [PrbsFits, and_assoc]

theorem hPrbs_refused (bad : ¬ PrbsFits c) : u.hPrbs c = u.answer c.ticket sBadParam [] := by
  simp only [hPrbs, Bool.eq_false_iff.mpr (mt (prbsFits_iff c).mp bad), chk_false]

theorem hPrbs_starts (good : PrbsFits c) (idle : sget u.prbs c.tgt none = none) :
    u.hPrbs c = { u.accept c.ticket with prbs := sput (u.accept c.ticket).prbs c.tgt (some c.ticket) none } := by
  simp only [hPrbs, (prbsFits_iff c).mpr good, chk_true, idle, Option.isNone_none]

theorem hPrbs_busy (good : PrbsFits c) (running : sget u.prbs c.tgt none ≠ none) : u.hPrbs c = u.answer c.ticket sBusy [] := by
  simp only [hPrbs, (prbsFits_iff c).mpr good, chk_true, Bool.eq_false_iff.mpr (mt Option.isNone_iff_eq_none.mp running), chk_false]

theorem prbsEnd_running {l : Nat} {t : Ticket} (running : sget s.prbs l none = some t) (compared errors : Nat) (lost : Bool) :
    s.prbsEnd l compared errors lost = State.finish { s with prbs := sput s.prbs l none none } t sOk
      (leWords 2 compared ++ leWords 2 errors ++ [word (b2n lost)]) := by
  simp only [prbsEnd, running]

theorem hSelfTest_eq (u : State) (c : Cmd) : u.hSelfTest c = if c.w 0 = 0 then u.answer c.ticket sBadParam []
    else if u.selfTest = none then { u.accept c.ticket with selfTest := some c.ticket } else u.answer c.ticket sBusy [] := by
  rw [← ite_not]
  unfold hSelfTest
  refine (chk_eq_ite decide_eq_true_iff ..).trans ?_
  rw [chk_eq_ite Option.isNone_iff_eq_none]

theorem selfTestEnd_running {t : Ticket} (running : s.selfTest = some t) (words : List Word) :
    s.selfTestEnd words = State.finish { s with selfTest := none } t sOk (words.take 4092) := by
  simp only [selfTestEnd, running]

end State

open State in
/-- Settles O37: each packet is the equation of what its handler does, and the end of a run that of its final reply. -/
theorem testCommandsAct : Obligations.TestCommandsAct := by
  intro s p
  exact ⟨serving_handler hLoop fun u c _ ⟨small, port, free⟩ => hLoop_port small port free,
    serving_handler hLoop fun u c _ ⟨small, lane, high, free⟩ => hLoop_lane small lane high free,
    serving_handler hLoop fun u c _ ⟨small, lane, high, looped⟩ => hLoop_laneBusy small lane high looped,
    serving_handler hPrbs fun u c _ ⟨good, idle⟩ => hPrbs_starts good idle,
    serving_handler hPrbs fun u c _ ⟨good, running⟩ => hPrbs_busy good running,
    serving_handler hPrbs fun u c _ bad => hPrbs_refused bad,
    fun l compared errors lost t running => congrArg Host.Outcome.next (prbsEnd_running running ..),
    serving_handler hSelfTest fun u c _ _ => hSelfTest_eq u c,
    fun words t running => congrArg Host.Outcome.next (selfTestEnd_running running words)⟩

end Sys2Proof.Machine
end

section
/-! A scrub whose count of corrected words lies beyond its 32 bits. Every word that a scrub reads leaves each count saturated
(`State.scrubCount`, R363), so that a line without an error takes this one back to 2^32 - 1. No run comes to such a count, but the invariant
does not speak of it. -/

namespace Sys2Proof.Machine

/-- A scrub of cluster 0's memory, two lines from its end, with 2^32 corrected words. -/
def overfullScrub : Scrub := ⟨0x200000000, 0x200000080, 2, 0, [(0, 0x200000000)], 0, 0, 2 ^ 32, 0, 0, 0, ⟨none, 0, 0, 0, 0, false⟩⟩

/-- That scrub in progress, over memory without an error. -/
def overfullState : State := { State.reset with scrub := some overfullScrub }

theorem overfullState_inv : overfullState.Inv := ⟨rfl, rfl, rfl, by decide, by decide, by decide⟩

/-- The corrected words that the scrub counts in the state that a command leaves. -/
def correctedAfter : Result → Option Nat
  | .next t => t.scrub.map Scrub.corrected
  | _ => none

/-- The clean line leaves the count saturated. -/
theorem correctedAfter_overfullState : correctedAfter (exec (.scrubLine 0 []) overfullState) = some (2 ^ 32 - 1) := by decide +kernel

/-- Refutes O42: in `overfullState`, a scrubbed line without an error does not leave the count of corrected words as it was. -/
theorem not_ddrAndEccAct : ¬ Obligations.DdrAndEccAct := by
  rintro ⟨-, ecc⟩
  obtain ⟨-, -, -, -, clean, -⟩ := ecc overfullState overfullState_inv
  obtain ⟨goesOn, -⟩ := clean 0 overfullScrub 0x200000000 ⟨2, 0, 4, 8⟩ rfl rfl (by decide) rfl rfl (by decide) (fun _ _ => rfl) fun _ => rfl
  have counted := congrArg correctedAfter (goesOn (by decide))
  rw [correctedAfter_overfullState] at counted
  exact absurd counted (by decide)

end Sys2Proof.Machine
end

section
/-! Where the registers of a Porter channel lie (R369): each cluster's registers lie in its block as those of cluster 0 do in theirs. -/

namespace Sys2Proof.Machine

/-! ### The blocks of the clusters -/

/-- How far the last of a row's registers lies behind the first. -/
def spanOf (dims : List (Nat × Nat)) : Nat := (dims.map fun d => d.1 * (d.2 - 1)).sum

theorem idxAux_acc (ds : List (Nat × Nat)) (rem : Nat) (acc : List Nat) :
    idxAux ds rem acc = (acc.reverse ++ (idxAux ds rem []).1, (idxAux ds rem []).2) := by
  induction ds generalizing rem acc with
  | nil => simp [idxAux]
  | cons d ds ih =>
    simp only [idxAux]
    rw [ih, ih _ [min (rem / d.1) (d.2 - 1)]]
    simp

theorem length_idxAux (ds : List (Nat × Nat)) (rem : Nat) : (idxAux ds rem []).1.length = ds.length := by
  induction ds generalizing rem with
  | nil => rfl
  | cons d ds ih =>
    simp only [idxAux]
    rw [idxAux_acc, List.length_append, ih, List.length_cons]
    exact Nat.add_comm _ _

/-- An address beyond the last register of a row leaves a remainder. -/
theorem le_idxAux (ds : List (Nat × Nat)) (rem : Nat) : rem ≤ (idxAux ds rem []).2 + spanOf ds := by
  induction ds generalizing rem with
  | nil => simp [idxAux]
  | cons d ds ih =>
    simp only [idxAux]
    rw [idxAux_acc]
    have rest := ih (rem - min (rem / d.1) (d.2 - 1) * d.1)
    have step : min (rem / d.1) (d.2 - 1) * d.1 ≤ d.1 * (d.2 - 1) := by
      rw [Nat.mul_comm d.1]
      exact Nat.mul_le_mul_right _ (Nat.min_le_right _ _)
    simp only [spanOf, List.map_cons, List.sum_cons] at rest ⊢
    omega

/-- What lies `rem` bytes into the registers of a row: the indices, behind `acc`, and the word. -/
def placeIn (ds : List (Nat × Nat)) (words rem : Nat) (acc : List Nat) : Option (List Nat × Nat) :=
  if (idxAux ds rem []).2 % 4 = 0 ∧ (idxAux ds rem []).2 / 4 < words then
    some (acc ++ (idxAux ds rem []).1, (idxAux ds rem []).2 / 4) else none

theorem placeIn_far {ds : List (Nat × Nat)} {words rem : Nat} (h : spanOf ds + 4 * words ≤ rem) (acc : List Nat) :
    placeIn ds words rem acc = none := by
  have far := le_idxAux ds rem
  exact if_neg (by omega)

theorem at?_eq_placeIn {r : RegRow} {a : Nat} (h : r.base ≤ a) : r.at? a = placeIn r.dims r.words (a - r.base) [] := by
  rw [RegRow.at?, if_neg (Nat.not_lt.mpr h)]
  rfl

theorem placeIn_first {s n c o : Nat} (hc : c ≤ n - 1) (ho : o < s) (ds : List (Nat × Nat)) (words : Nat) :
    placeIn ((s, n) :: ds) words (s * c + o) [] = placeIn ds words o [c] := by
  have first : min ((s * c + o) / s) (n - 1) = c := by
    rw [Nat.mul_add_div (by omega), Nat.div_eq_of_lt ho, Nat.add_zero, Nat.min_eq_left hc]
  have rest : s * c + o - c * s = o := by rw [Nat.mul_comm c, Nat.add_sub_cancel_left]
  simp only [placeIn, idxAux, first, rest]
  rw [idxAux_acc ds o [c]]
  rfl

/-- A row of registers that each cluster has in its own block, or one outside those blocks (R86). -/
def clusterRow (r : RegRow) : Bool :=
  decide (r.dims = (0x1000000, 24) :: r.dims.tail ∧ 0x200000000 ≤ r.base ∧ r.base + spanOf r.dims.tail + 4 * r.words ≤ 0x201000000) ||
    decide (r.base + spanOf r.dims + 4 * r.words ≤ 0x200000000) || decide (0x218000000 ≤ r.base)

theorem clusterRow_regTable : regTable.all clusterRow = true := by decide +kernel

/-- Cluster `b` has the registers of cluster 0. -/
theorem at?_cluster {r : RegRow} (hr : clusterRow r = true) {a b : Nat} (hl : 0x200000000 ≤ a) (hh : a < 0x201000000) (hb : b < 24) :
    r.at? (a + 0x1000000 * b) = (r.at? a).map fun x => (b :: x.1.tail, x.2) := by
  simp only [clusterRow, Bool.or_eq_true, decide_eq_true_iff] at hr
  rcases hr with (⟨dims, from_, to_⟩ | below) | above
  · by_cases before : a < r.base
    · have none_ : r.at? a = none := if_pos before
      rw [none_, Option.map_none]
      cases b with
      | zero => exact if_pos before
      | succ c =>
        have place : a + 0x1000000 * (c + 1) - r.base = 0x1000000 * c + (a + 0x1000000 - r.base) := by omega
        rw [at?_eq_placeIn (by omega), place, dims, placeIn_first (by omega) (by omega), placeIn_far (by omega)]
    · have place : a + 0x1000000 * b - r.base = 0x1000000 * b + (a - r.base) := by omega
      have inside {c : Nat} (hc : c ≤ 23) : placeIn r.dims r.words (0x1000000 * c + (a - r.base)) [] =
          placeIn r.dims.tail r.words (a - r.base) [c] := by
        rw [dims]
        exact placeIn_first hc (by omega) _ _
      have first := inside (Nat.zero_le 23)
      rw [Nat.mul_zero, Nat.zero_add] at first
      rw [at?_eq_placeIn (by omega), at?_eq_placeIn (by omega), place, inside (by omega), first, placeIn, placeIn]
      split <;> simp
  · rw [at?_eq_placeIn (by omega), at?_eq_placeIn (by omega), placeIn_far (by omega), placeIn_far (by omega), Option.map_none]
  · have none_ {x : Nat} (hx : x < 0x218000000) : r.at? x = none := if_pos (by omega)
    rw [none_ (by omega), none_ (by omega), Option.map_none]

theorem regPlace_cluster {a b : Nat} (hl : 0x200000000 ≤ a) (hh : a < 0x201000000) (hb : b < 24) :
    regPlace (a + 0x1000000 * b) = (regPlace a).map fun x => (x.1, x.2.1, b :: x.2.2.1.tail, x.2.2.2) := by
  have find {rows : List RegRow} (good : rows.all clusterRow = true) :
      (rows.findSome? fun r => (r.at? (a + 0x1000000 * b)).map fun x => (r, x.1, x.2)) =
        (rows.findSome? fun r => (r.at? a).map fun x => (r, x.1, x.2)).map fun y => (y.1, b :: y.2.1.tail, y.2.2) := by
    induction rows with
    | nil => rfl
    | cons r rows ih =>
      rw [List.all_cons, Bool.and_eq_true] at good
      rw [List.findSome?_cons, List.findSome?_cons, at?_cluster good.1 hl hh hb, ih good.2]
      cases r.at? a <;> rfl
  have found : regFind (a + 0x1000000 * b) = (regFind a).map fun y => (y.1, b :: y.2.1.tail, y.2.2) := find clusterRow_regTable
  rw [regPlace, found, regPlace]
  cases regFind a <;> rfl

/-- A register has as many indices as its row. -/
theorem length_of_regFind {a w : Nat} {r : RegRow} {ix : List Nat} (h : regFind a = some (r, ix, w)) : ix.length = r.dims.length := by
  obtain ⟨row, -, found⟩ := List.exists_of_findSome?_eq_some h
  obtain ⟨x, there, same⟩ := Option.map_eq_some_iff.mp found
  cases same
  have from_ : r.base ≤ a := by
    by_contra below
    simp [RegRow.at?, Nat.lt_of_not_le below] at there
  rw [at?_eq_placeIn from_, placeIn] at there
  split at there
  · cases there
    exact length_idxAux _ _
  · cases there

/-! ### The line of a channel -/

/-- The registers that are written in the line of a channel, by word: name, words, and the word within the register. -/
def ptWord (i : Nat) : RegName × Nat × Nat := match i with
  | 0 => (.PT_RINGBASE, 2, 0)
  | 1 => (.PT_RINGBASE, 2, 1)
  | 2 => (.PT_RINGLEN, 1, 0)
  | 3 => (.PT_TAIL, 1, 0)
  | _ => (.PT_CHCTL, 1, 0)

/-- The line of a channel's registers. -/
def ptLine (b ch : Nat) : Nat := ptBase b + 0x40 * ch

/-- The indices of a channel's registers: a cluster's block and the channel, or the channel of the hub's. -/
def ptIx (b ch : Nat) : List Nat := if b < 24 then [b, ch] else [ch]

theorem regPlace_ptLine_zero : ∀ (ch : Fin 16) (i : Fin 5),
    regPlace (ptLine 0 ch + 4 * i) = some ((ptWord i).1, (ptWord i).2.1, [0, ch.val], (ptWord i).2.2) := by decide +kernel

theorem regPlace_ptLine_hub : ∀ (ch : Fin 32) (i : Fin 5),
    regPlace (ptLine 24 ch + 4 * i) = some ((ptWord i).1, (ptWord i).2.1, [ch.val], (ptWord i).2.2) := by decide +kernel

theorem chanOk_iff {b : BlockId} {ch : Fin 32} : chanOk b ch = true ↔ b.val = 24 ∨ b.val < 24 ∧ ch.val < 16 := by
  have hb := b.isLt
  simp only [chanOk, Bool.or_eq_true, decide_eq_true_iff, Fin.ext_iff]
  show b.val = 24 ∨ ch.val < 16 ↔ _
  omega

theorem regPlace_ptLine {b : BlockId} {ch : Fin 32} (ok : chanOk b ch = true) {i : Nat} (hi : i < 5) :
    regPlace (ptLine b ch + 4 * i) = some ((ptWord i).1, (ptWord i).2.1, ptIx b ch, (ptWord i).2.2) := by
  rcases chanOk_iff.mp ok with hub | ⟨hb, hc⟩
  · rw [hub]
    exact regPlace_ptLine_hub ch ⟨i, hi⟩
  · have place : ptLine b ch + 4 * i = ptLine 0 ch + 4 * i + 0x1000000 * b.val := by
      simp only [ptLine, ptBase, if_pos hb, if_pos (show 0 < 24 by decide)]
      omega
    have first : ptLine 0 ch + 4 * i = 0x200C00000 + 0x40 * ch.val + 4 * i := rfl
    rw [place, regPlace_cluster (by omega) (by omega) hb,
      regPlace_ptLine_zero ⟨ch, hc⟩ ⟨i, hi⟩, ptIx, if_pos hb]
    rfl

end Sys2Proof.Machine
end

section
/-! A write of one register of a Porter channel (R370, R372, R375, R641): it reaches the channel's block, and acts there alone. -/

namespace Sys2Proof.Machine

/-! ### One register of a line -/

/-- The enables of the `n` bytes from byte `k`. -/
theorem bit_ones_shift (n k i : Nat) : bit ((2 ^ n - 1) * 2 ^ k) i = (decide (k ≤ i) && decide (i < k + n)) := by
  rw [bit_eq_testBit, Nat.testBit_mul_two_pow, Nat.testBit_two_pow_sub_one]
  by_cases h : k ≤ i
  · have reach : (i - k < n) = (i < k + n) := propext (Nat.sub_lt_iff_lt_add' h)
    simp only [reach]
  · simp only [decide_eq_false h, Bool.false_and]

theorem anyEn_ones {n k lo m : Nat} (hn : 0 < n) (hl : lo ≤ k) (hh : k < lo + m) : State.anyEn ((2 ^ n - 1) * 2 ^ k) lo m = true := by
  refine List.any_eq_true.mpr ⟨k - lo, List.mem_range.mpr (by omega), ?_⟩
  rw [bit_ones_shift, Nat.add_sub_cancel' hl, decide_eq_true (Nat.le_refl k), decide_eq_true (Nat.lt_add_of_pos_right hn)]
  rfl

theorem anyEn_ones_apart {n k lo m : Nat} (h : lo + m ≤ k ∨ k + n ≤ lo) : State.anyEn ((2 ^ n - 1) * 2 ^ k) lo m = false := by
  refine List.any_eq_false.mpr fun i hi => ?_
  rw [List.mem_range] at hi
  rw [bit_ones_shift]
  simp only [Bool.and_eq_true, decide_eq_true_iff]
  omega

/-- The bytes of a value replace those of the register that they all are. -/
theorem mergeMask_ones {n old v : Nat} (ho : old < 2 ^ n) (hv : v < 2 ^ n) : mergeMask old v (2 ^ n - 1) = v := by
  have all : old ||| (2 ^ n - 1) = 2 ^ n - 1 := by
    refine Nat.eq_of_testBit_eq fun i => ?_
    rw [Nat.testBit_or, Nat.testBit_two_pow_sub_one]
    by_cases hi : i < n
    · rw [decide_eq_true hi, Bool.or_true]
    · rw [Nat.testBit_lt_two_pow (ho.trans_le (Nat.pow_le_pow_right Nat.two_pos (Nat.le_of_not_lt hi))), Bool.false_or]
  rw [mergeMask, all, Nat.sub_self, Nat.zero_add, Nat.and_two_pow_sub_one_eq_mod, Nat.mod_eq_of_lt hv]

namespace State

/-- A write of a whole register of a line is a write of that register alone (R641). -/
theorem regsLine_register (s : State) (src : Nat) {line j w v : Nat} {row : RegRow} {ix : List Nat} (hj : j < 16) (hw : 0 < w)
    (words : row.words = w) (hv : v < 2 ^ (32 * w)) (found : regFind (line + 4 * j) = some (row, ix, 0))
    (apart : ∀ i < j + w, i ≠ j → ∀ x ∈ regFind (line + 4 * i), x.2.2 = 0 → i + x.1.words ≤ j) :
    s.regsLine src line ((2 ^ (4 * w) - 1) * 2 ^ (4 * j)) (v * 2 ^ (32 * j)) = s.regWrite src row ix v (2 ^ (4 * w) - 1) := by
  have enabled : anyEn ((2 ^ (4 * w) - 1) * 2 ^ (4 * j)) (4 * j) (4 * w) = true := anyEn_ones (by omega) (by omega) (by omega)
  have value : bits (v * 2 ^ (32 * j)) (32 * j) (8 * (4 * w)) = v := by
    rw [bits_mul_two_pow, ← Nat.mul_assoc, Nat.mod_eq_of_lt hv]
  have bytes : bits ((2 ^ (4 * w) - 1) * 2 ^ (4 * j)) (4 * j) (4 * w) = 2 ^ (4 * w) - 1 := by
    rw [bits_mul_two_pow, Nat.mod_eq_of_lt (Nat.sub_lt (Nat.two_pow_pos _) Nat.one_pos)]
  have pass (p : RegRow → Bool) (s : State) : s.regsPass p src line ((2 ^ (4 * w) - 1) * 2 ^ (4 * j)) (v * 2 ^ (32 * j)) =
      if p row = true then s.regWrite src row ix v (2 ^ (4 * w) - 1) else s := by
    unfold regsPass
    rw [upto_only hj fun i hi hij t => ?_]
    · simp only [found, words, enabled, value, bytes, Bool.and_true]
    · split
      · next row' ix' h =>
        have clear : anyEn ((2 ^ (4 * w) - 1) * 2 ^ (4 * j)) (4 * i) (4 * row'.words) = false := by
          refine anyEn_ones_apart ?_
          by_cases behind : j + w ≤ i
          · exact .inr (by omega)
          · have before : i + row'.words ≤ j := apart i (by omega) hij _ h rfl
            exact .inl (by omega)
        simp only [clear, Bool.and_false, Bool.false_eq_true, if_false]
      · rfl
  simp only [regsLine, pass]
  cases flagsOnly row <;> rfl

end State

/-! ### The block of a channel -/

theorem ptLine_aligned (b ch : Nat) : ptLine b ch % 64 = 0 := by
  unfold ptLine ptBase
  split <;> omega

theorem ptLine_mem {b : BlockId} {ch : Fin 32} (ok : chanOk b ch = true) :
    (0x200C00000 + 0x1000000 * b.val ≤ ptLine b ch ∧ ptLine b ch < 0x200C00400 + 0x1000000 * b.val ∧ b.val < 24) ∨
      (0xA000000 ≤ ptLine b ch ∧ ptLine b ch < 0xA000800 ∧ b.val = 24) := by
  have hc := ch.isLt
  rcases chanOk_iff.mp ok with hub | ⟨hb, small⟩
  · have line : ptLine b ch = 0xA000000 + 0x40 * ch.val := by rw [ptLine, hub]; rfl
    omega
  · have line : ptLine b ch = 0x200C00000 + 0x1000000 * b.val + 0x40 * ch.val := by rw [ptLine, ptBase, if_pos hb]
    omega

section
variable {b : BlockId} {ch : Fin 32} (ok : chanOk b ch = true)
include ok

theorem memLoc_ptLine (gib : Nat) : memLoc gib (ptLine b ch) = none := by
  have place := ptLine_mem ok
  unfold memLoc
  rw [if_neg (by omega)]
  split
  · exact if_neg (by omega)
  · rw [if_neg (by omega), if_neg (by omega), if_neg (by omega), if_neg (by omega)]

theorem islandAt_ptLine (gib : Nat) : islandAt gib (ptLine b ch) = some (ptIsland b) := by
  unfold islandAt
  rcases ptLine_mem ok with ⟨low, high, cluster⟩ | ⟨low, high, hub⟩
  · have block : (ptLine b ch - 0x200000000) / 0x1000000 = b.val := by omega
    rw [if_neg (by omega), if_neg (by omega), if_pos (by omega)]
    simp only [block]
    rw [if_pos (by omega), ptIsland, if_neg (by omega)]
  · have slice_ : ptLine b ch / 0x1000000 = 10 := by omega
    rw [if_pos (by omega), hubWinIsland, ptIsland, if_pos hub]
    simp only [slice_]

theorem unitRefuses_ptLine (s : State) (src tag : Nat) : s.unitRefuses src tag (ptLine b ch) = none := by
  have place := ptLine_mem ok
  have awake : s.unitAsleep (ptLine b ch) = none := by
    unfold State.unitAsleep
    rw [if_neg (by omega), if_neg (by omega)]
  unfold State.unitRefuses
  rw [awake]
  exact if_neg (by omega)

theorem devLine_ptLine (s : State) (src : Nat) (k : WrKind) (en data : Nat) :
    s.devLine src (ptLine b ch) k en data = s.regsLine src (ptLine b ch) en data := by
  have place := ptLine_mem ok
  have ethernet : ethWinOf (ptLine b ch) = none := by
    unfold ethWinOf
    rw [if_neg (by omega), if_neg (by omega)]
  have carriage : cpOf (ptLine b ch) = none := if_neg (by omega)
  unfold State.devLine
  dsimp only
  rw [if_neg (by omega), if_neg (by omega), if_neg (by omega), if_neg (by omega), if_neg (by omega), if_neg (by omega), ethernet,
    carriage]

end

namespace State

/-- The block of a channel, from the indices of its registers. -/
theorem ptIx_block (b : BlockId) (ch : Nat) : (if (ptIx b ch).length = 2 then (ptIx b ch).getD 0 0 else 24) = b.val := by
  have hb := b.isLt
  unfold ptIx
  split
  · rfl
  · exact (show b.val = 24 by omega).symm

theorem ptIx_channel (b ch : Nat) : (if (ptIx b ch).length = 2 then (ptIx b ch).getD 1 0 else (ptIx b ch).getD 0 0) = ch := by
  unfold ptIx
  split <;> rfl

theorem regWide_one (s : State) (a : Nat) : s.regWide a 1 = s.reg a := rfl

theorem reg_lt (s : State) (a : Nat) : s.reg a < 2 ^ 32 := (sget s.regs a (regDefault a)).isLt

theorem mergeMask_word {s : State} {a v : Nat} (hv : v < 2 ^ 32) : mergeMask (s.reg a) v (byteMask 4 (2 ^ (4 * 1) - 1)) = v :=
  mergeMask_ones (n := 32) (s.reg_lt a) hv

theorem mergeMask_pair {s : State} {a v : Nat} (hv : v < 2 ^ 64) :
    mergeMask (s.regWide a 2) v (byteMask (4 * 2) (2 ^ (4 * 2) - 1)) = v := by
  have low := s.reg_lt a
  have high := s.reg_lt (a + 4)
  have both : s.regWide a 2 < 2 ^ 64 := by
    show s.reg a + 2 ^ 32 * s.reg (a + 4) < 2 ^ 64
    omega
  exact mergeMask_ones (n := 64) both hv

section
variable {s : State} {b : BlockId} {ch : Fin 32} {src : Nat} (ok : chanOk b ch = true) (open_ : s.wayOpen src (ptLine b ch))
include ok open_

theorem lineWrite_ptLine (k : WrKind) (en data tag : Nat) : s.drawn.lineWrite src tag (ptLine b ch) k en data =
    (stOk, ptIsland b, s.drawn.regsLine src (ptLine b ch) en data) := by
  have passes := gate_of_wayOpen open_ (islandAt_ptLine ok s.ddrGiB) tag
  have place := ptLine_mem ok
  have noSlice : ¬(28 ≤ ptIsland b ∧ ptIsland b < 32) := by
    unfold ptIsland
    split <;> omega
  unfold lineWrite
  rw [passes]
  simp only [takeWrite, unitRefuses_ptLine ok, memLoc_ptLine ok]
  rw [if_neg (by omega), if_neg (by tauto), devLine_ptLine ok]

/-- A write of one of a channel's registers, in word `j` of its line and `w` words wide (R373). -/
theorem ptWrite_register {j w v : Nat} {name : RegName} (place : ptWord j = (name, w, 0)) (pos : 0 < w) (top : j + w ≤ 5)
    (half : 4 * j % 32 + 4 * w ≤ 32) (apart : ∀ i < j + w, i ≠ j → (ptWord i).2.2 = 0 → i + (ptWord i).2.1 ≤ j) (hv : v < 2 ^ (32 * w)) :
    ∃ row : RegRow, row.name = name ∧ row.words = w ∧ row.dims.length = (ptIx b ch).length ∧
      s.ptWrite src (ptLine b ch + 4 * j) (leBytes (4 * w) v) = s.drawn.regWrite src row (ptIx b ch) v (2 ^ (4 * w) - 1) := by
  have here := regPlace_ptLine ok (i := j) (by omega)
  rw [place] at here
  obtain ⟨row, found, named, words⟩ := regFind_of_regPlace here
  have aligned := ptLine_aligned b ch
  have line : ptLine b ch + 4 * j - (ptLine b ch + 4 * j) % 64 = ptLine b ch := by omega
  have offset : (ptLine b ch + 4 * j) % 64 = 4 * j := by omega
  have inHalf : (ptLine b ch + 4 * j) % 32 + 4 * w ≤ 32 := by
    rwa [show (ptLine b ch + 4 * j) % 32 = 4 * j % 32 by omega]
  have scale : 8 * (4 * j) = 32 * j := by omega
  have small : v < 256 ^ (4 * w) := by
    rwa [show (256 : Nat) = 2 ^ 8 from rfl, ← pow_mul, ← Nat.mul_assoc]
  have others : ∀ i < j + w, i ≠ j → ∀ x ∈ regFind (ptLine b ch + 4 * i), x.2.2 = 0 → i + x.1.words ≤ j := by
    intro i hi hij x hx first
    have there := regPlace_ptLine ok (i := i) (by omega)
    rw [regPlace, Option.mem_def.mp hx, Option.map_some, Option.some.injEq] at there
    have words' : x.1.words = (ptWord i).2.1 := congrArg (fun y => y.2.1) there
    have first' : x.2.2 = (ptWord i).2.2 := congrArg (fun y => y.2.2.2) there
    rw [words']
    exact apart i hi hij (first' ▸ first)
  refine ⟨row, named, words, (length_of_regFind found).symm, ?_⟩
  rw [ptWrite, busWrite_field s src (by omega) (by omega) inHalf small, line, offset, scale, lineWrite_ptLine ok open_,
    regsLine_register s.drawn src (by omega) pos words hv found others]

/-- A write of PT_TAIL (R370). -/
theorem ptWrite_tail {v : Nat} (hv : v < 2 ^ 32) : s.ptWrite src (PT_TAIL.adr b ch) (leBytes 4 v) = s.drawn.ptTailWrite b ch v := by
  obtain ⟨row, named, words, dims, written⟩ :=
    ptWrite_register ok open_ (j := 3) (w := 1) rfl (by decide) (by decide) (by decide) (by decide) hv
  refine written.trans ?_
  simp only [regWrite, named, words, dims, ptIx_block, ptIx_channel, regWide_one, mergeMask_word hv]

/-- A write of PT_RINGLEN (R372). -/
theorem ptWrite_ringlen {v : Nat} (hv : v < 2 ^ 32) : s.ptWrite src (PT_RINGLEN.adr b ch) (leBytes 4 v) = s.drawn.ptLenWrite b ch v := by
  obtain ⟨row, named, words, dims, written⟩ :=
    ptWrite_register ok open_ (j := 2) (w := 1) rfl (by decide) (by decide) (by decide) (by decide) hv
  refine written.trans ?_
  simp only [regWrite, named, words, dims, ptIx_block, ptIx_channel, regWide_one, mergeMask_word hv]

/-- A write of PT_CHCTL (R375). -/
theorem ptWrite_chctl {v : Nat} (hv : v < 2 ^ 32) : s.ptWrite src (PT_CHCTL.adr b ch) (leBytes 4 v) = s.drawn.ptCtlWrite b ch v := by
  obtain ⟨row, named, words, dims, written⟩ :=
    ptWrite_register ok open_ (j := 4) (w := 1) rfl (by decide) (by decide) (by decide) (by decide) hv
  refine written.trans ?_
  simp only [regWrite, named, dims, ptIx_block, ptIx_channel, mergeMask_word hv]

/-- A write of PT_RINGBASE (R372). -/
theorem ptWrite_ringbase {v : Nat} (hv : v < 2 ^ 64) : s.ptWrite src (PT_RINGBASE.adr b ch) (leBytes 8 v) = s.drawn.ptBaseWrite b ch v := by
  obtain ⟨row, named, words, dims, written⟩ :=
    ptWrite_register ok open_ (j := 0) (w := 2) rfl (by decide) (by decide) (by decide) (by decide) hv
  refine written.trans ?_
  simp only [regWrite, named, words, dims, ptIx_block, ptIx_channel, mergeMask_pair hv]

end

end State
end Sys2Proof.Machine
end

section
/-! Rings and chains of a channel (R370, R372, R374, R375, R388, R389): the fields of its registers, and what a write and a release
leave of them. -/

namespace Sys2Proof.Machine

/-! ### Fields of a number -/

theorem setBits_low_lt (w lo n v : Nat) : w % 2 ^ lo + v % 2 ^ n * 2 ^ lo < 2 ^ (lo + n) := by
  have field : (v % 2 ^ n + 1) * 2 ^ lo ≤ 2 ^ n * 2 ^ lo := Nat.mul_le_mul_right _ (Nat.mod_lt _ (Nat.two_pow_pos n))
  have rest : w % 2 ^ lo < 2 ^ lo := Nat.mod_lt _ (Nat.two_pow_pos lo)
  rw [Nat.add_mul, Nat.one_mul] at field
  rw [Nat.pow_add, Nat.mul_comm (2 ^ lo)]
  omega

theorem bits_setBits_above {w lo n v a len : Nat} (h : lo + n ≤ a) : bits (setBits w lo n v) a len = bits w a len := by
  have high : setBits w lo n v / 2 ^ (lo + n) = w / 2 ^ (lo + n) := by
    rw [setBits, Nat.shiftRight_eq_div_pow, Nat.add_mul_div_right _ _ (Nat.two_pow_pos _), Nat.div_eq_of_lt (setBits_low_lt w lo n v),
      Nat.zero_add]
  have split : 2 ^ a = 2 ^ (lo + n) * 2 ^ (a - (lo + n)) := by rw [← Nat.pow_add, Nat.add_sub_cancel' h]
  rw [bits, bits, Nat.shiftRight_eq_div_pow, Nat.shiftRight_eq_div_pow, split, ← Nat.div_div_eq_div_mul, ← Nat.div_div_eq_div_mul, high]

theorem setBits_lt {w lo n v k : Nat} (hw : w < 2 ^ k) (h : lo + n ≤ k) : setBits w lo n v < 2 ^ k := by
  have low := setBits_low_lt w lo n v
  have whole : 2 ^ k = 2 ^ (k - (lo + n)) * 2 ^ (lo + n) := by rw [← Nat.pow_add, Nat.sub_add_cancel h]
  have high : w / 2 ^ (lo + n) < 2 ^ (k - (lo + n)) := by
    rw [Nat.div_lt_iff_lt_mul (Nat.two_pow_pos _), ← whole]
    exact hw
  have fits : (w / 2 ^ (lo + n) + 1) * 2 ^ (lo + n) ≤ 2 ^ k := by
    rw [whole]
    exact Nat.mul_le_mul_right _ high
  rw [Nat.add_mul, Nat.one_mul] at fits
  rw [setBits, Nat.shiftRight_eq_div_pow]
  omega

namespace State

variable {s u : State} {b ch : Nat}

/-! ### Registers after a write of a field -/

theorem reg_wf_same (regs : Registers.wf s.regs = true) {f : Fld} (hlo : f.lo < 32) (hf : f.lo + f.len ≤ 32) (a v : Nat) :
    (s.wf a f v).reg a = setBits (s.reg a) f.lo f.len v := by
  rw [wf_word hlo hf, reg_setReg_same regs, Nat.mod_eq_of_lt (setBits_lt (s.reg_lt a) hf)]

/-- A field of two words, written word by word. -/
theorem wf_pair {f : Fld} (hlo : f.lo < 32) (hf : 32 < f.lo + f.len) (s : State) (a v : Nat) :
    let n := setBits (s.reg a + 2 ^ 32 * s.reg (a + 4)) f.lo f.len v
    s.wf a f v = (s.setReg a (n % 2 ^ 32)).setReg (a + 4) (n >>> 32) := by
  simp only [wf, Nat.div_eq_of_lt hlo, Nat.mod_eq_of_lt hlo, Nat.mul_zero, Nat.add_zero, if_neg (Nat.not_le.mpr hf)]

theorem reg_wf_pair_ne {f : Fld} (hlo : f.lo < 32) (hf : 32 < f.lo + f.len) (s : State) {a k : Nat} (v : Nat) (low : k ≠ a)
    (high : k ≠ a + 4) : (s.wf a f v).reg k = s.reg k := by
  rw [wf_pair hlo hf, reg_setReg_ne _ _ high, reg_setReg_ne _ _ low]

theorem rf_wf_pair_same (inv : s.Inv) {f : Fld} (hlo : f.lo < 32) (hf : 32 < f.lo + f.len) (hf' : f.lo + f.len ≤ 64) (a v : Nat) :
    (s.wf a f v).rf a f = v % 2 ^ f.len := by
  have low := s.reg_lt a
  have high := s.reg_lt (a + 4)
  have both : s.reg a + 2 ^ 32 * s.reg (a + 4) < 2 ^ 64 := by omega
  have fits := setBits_lt (v := v) both hf'
  have top : setBits (s.reg a + 2 ^ 32 * s.reg (a + 4)) f.lo f.len v >>> 32 < 2 ^ 32 := by
    rw [Nat.shiftRight_eq_div_pow]
    omega
  rw [wf_pair hlo hf]
  simp only [rf, Nat.div_eq_of_lt hlo, Nat.mod_eq_of_lt hlo, Nat.mul_zero, Nat.add_zero, if_neg (Nat.not_le.mpr hf)]
  rw [reg_setReg_same (inv.setReg _ _).regs, reg_setReg_ne _ _ (by omega), reg_setReg_same inv.regs, Nat.mod_mod, Nat.mod_eq_of_lt top,
    Nat.shiftRight_eq_div_pow, Nat.mod_add_div, bits_setBits_same]

theorem rf_eq_of_reg {a : Nat} {f : Fld} (hlo : f.lo < 32) (hf : f.lo + f.len ≤ 32) (h : u.reg a = s.reg a) : u.rf a f = s.rf a f := by
  rw [rf_word hlo hf, rf_word hlo hf, h]

theorem rf_eq_of_regs {a : Nat} {f : Fld} (hlo : f.lo < 32) (h : u.reg a = s.reg a) (h' : u.reg (a + 4) = s.reg (a + 4)) :
    u.rf a f = s.rf a f := by
  simp only [rf, Nat.div_eq_of_lt hlo, Nat.mul_zero, Nat.add_zero, h, h']

/-- From `s` to `t`, no more than registers and channels have changed. -/
def ChannelsMove (s t : State) : Prop := ∃ regs pchans, t = { s with regs := regs, pchans := pchans }

theorem wf_frame (s : State) (a : Nat) (f : Fld) (v : Nat) : ∃ regs, s.wf a f v = { s with regs := regs } := by
  unfold wf
  dsimp only
  split <;> exact ⟨_, rfl⟩

theorem ChannelsMove.refl (s : State) : ChannelsMove s s := ⟨s.regs, s.pchans, rfl⟩

theorem ChannelsMove.wf (h : ChannelsMove s u) (a : Nat) (f : Fld) (v : Nat) : ChannelsMove s (u.wf a f v) := by
  obtain ⟨regs, pchans, rfl⟩ := h
  obtain ⟨regs', written⟩ := wf_frame { s with regs := regs, pchans := pchans } a f v
  exact ⟨regs', pchans, written⟩

theorem ChannelsMove.setPchan (h : ChannelsMove s u) (b ch : Nat) (c : PChan) : ChannelsMove s (u.setPchan b ch c) := by
  obtain ⟨regs, pchans, rfl⟩ := h
  exact ⟨regs, _, rfl⟩

theorem ChannelsMove.eq (h : ChannelsMove s u) : u = { s with regs := u.regs, pchans := u.pchans } := by
  obtain ⟨regs, pchans, rfl⟩ := h
  rfl

theorem ChannelsMove.mem (h : ChannelsMove s u) : u.mem = s.mem := by
  obtain ⟨regs, pchans, rfl⟩ := h
  rfl

theorem ChannelsMove.out (h : ChannelsMove s u) : u.out = s.out := by
  obtain ⟨regs, pchans, rfl⟩ := h
  rfl

theorem ChannelsMove.trans {t : State} (h : ChannelsMove s t) (g : ChannelsMove t u) : ChannelsMove s u := by
  obtain ⟨regs, pchans, rfl⟩ := h
  obtain ⟨regs', pchans', rfl⟩ := g
  exact ⟨regs', pchans', rfl⟩

/-! ### The registers of a channel -/

/-- The status of a channel, of which HEAD, ALEN, INCHAIN, PAUSED, PEND and RUN are fields. -/
def ptStat (s : State) (b ch : Nat) : Nat := s.reg (PT_CHSTAT.adr b ch)

theorem ptHead_eq (s : State) (b ch : Nat) : s.ptHead b ch = bits (s.ptStat b ch) 0 12 := rf_word (by decide) (by decide) s _
theorem ptAlen_eq (s : State) (b ch : Nat) : s.ptAlen b ch = bits (s.ptStat b ch) 13 13 := rf_word (by decide) (by decide) s _
theorem ptInChain_eq (s : State) (b ch : Nat) : s.ptInChain b ch = decide (bits (s.ptStat b ch) 26 1 = 1) :=
  congrArg (fun x => decide (x = 1)) (rf_word (f := PT_CHSTAT.INCHAIN) (by decide) (by decide) s _)
theorem ptPend_eq (s : State) (b ch : Nat) : s.rb (PT_CHSTAT.adr b ch) PT_CHSTAT.PEND = decide (bits (s.ptStat b ch) 30 1 = 1) :=
  congrArg (fun x => decide (x = 1)) (rf_word (f := PT_CHSTAT.PEND) (by decide) (by decide) s _)

/-- Whether a channel is idle shows in its status and its TAIL. -/
theorem ptIdle_congr (stat : u.ptStat b ch = s.ptStat b ch) (tail : u.ptTail b ch = s.ptTail b ch) : u.ptIdle b ch = s.ptIdle b ch := by
  have runs : u.ptRuns b ch = s.ptRuns b ch := rb_eq_of_reg (by decide) (by decide) stat
  rw [ptIdle, ptIdle, ptEmpty, ptEmpty, ptHead_eq, ptHead_eq, ptInChain_eq, ptInChain_eq, runs, stat, tail]

/-! ### Rings -/

theorem applyHeld_frame (s : State) (b ch : Nat) : ChannelsMove s (s.applyHeld b ch) := by
  unfold applyHeld
  dsimp only
  split
  · exact .refl s
  · exact ((ChannelsMove.refl s).wf _ _ _).wf _ _ _

theorem applyHeld_pchans (s : State) (b ch : Nat) : (s.applyHeld b ch).pchans = s.pchans := by
  unfold applyHeld
  dsimp only
  split
  · rfl
  · rw [wf_pchans, wf_pchans]

/-- Held releases change TAIL and the count of those held alone (R389). -/
theorem reg_applyHeld (s : State) {b ch k : Nat} (tail : k ≠ PT_TAIL.adr b ch) (held : k ≠ PT_RELHELD.adr b ch) :
    (s.applyHeld b ch).reg k = s.reg k := by
  unfold applyHeld
  dsimp only
  split
  · rfl
  · rw [reg_wf_ne _ _ (by decide) (by decide) held, reg_wf_ne _ _ (by decide) (by decide) tail]

/-- The status of a channel lies apart from its other registers. -/
theorem ptAdr_ne (b ch : Nat) : PT_CHSTAT.adr b ch ≠ PT_TAIL.adr b ch ∧ PT_CHSTAT.adr b ch ≠ PT_RELHELD.adr b ch ∧
    PT_CHSTAT.adr b ch ≠ PT_CUR.adr b ch ∧ PT_CHSTAT.adr b ch ≠ PT_CUR.adr b ch + 4 ∧ PT_CHSTAT.adr b ch ≠ PT_CHCTL.adr b ch := by
  simp only [PT_CHSTAT.adr, PT_TAIL.adr, PT_RELHELD.adr, PT_CUR.adr, PT_CHCTL.adr]
  omega

theorem Inv.setPchan (inv : s.Inv) (b ch : Nat) (c : PChan) : (s.setPchan b ch c).Inv := (setPchan_keeps b ch c (Keeps.refl s)).inv inv

/-- The requested ring in force (R372), no held release being applied yet. -/
def ringApplied (s : State) (b ch : Nat) : State :=
  let base := 32 * s.rf (PT_RINGBASE.adr b ch) PT_RINGBASE.BASE
  (((((s.setPchan b ch { s.pchan b ch with base := base }).wf (PT_CHSTAT.adr b ch) PT_CHSTAT.ALEN
    (s.rf (PT_RINGLEN.adr b ch) PT_RINGLEN.RLEN)).wf (PT_CHSTAT.adr b ch) PT_CHSTAT.HEAD 0).wf (PT_TAIL.adr b ch) PT_TAIL.TAIL 0).wb
    (PT_CHSTAT.adr b ch) PT_CHSTAT.PEND false).setPtCur b ch base

theorem applyRing_eq (s : State) (b ch : Nat) : s.applyRing b ch = (s.ringApplied b ch).applyHeld b ch := rfl

theorem ptStat_ringApplied (inv : s.Inv) : (s.ringApplied b ch).ptStat b ch =
    setBits (setBits (setBits (s.ptStat b ch) 13 13 (s.rf (PT_RINGLEN.adr b ch) PT_RINGLEN.RLEN)) 0 12 0) 30 1 0 := by
  obtain ⟨tail, -, cur, cur', -⟩ := ptAdr_ne b ch
  have inv1 := inv.setPchan b ch { s.pchan b ch with base := 32 * s.rf (PT_RINGBASE.adr b ch) PT_RINGBASE.BASE }
  have inv2 := inv1.wf (PT_CHSTAT.adr b ch) PT_CHSTAT.ALEN (s.rf (PT_RINGLEN.adr b ch) PT_RINGLEN.RLEN)
  have inv3 := inv2.wf (PT_CHSTAT.adr b ch) PT_CHSTAT.HEAD 0
  have inv4 := inv3.wf (PT_TAIL.adr b ch) PT_TAIL.TAIL 0
  rw [ringApplied, ptStat, setPtCur, reg_wf_pair_ne (by decide) (by decide) _ _ cur cur', wb, reg_wf_same inv4.regs (by decide) (by decide),
    reg_wf_ne _ _ (by decide) (by decide) tail, reg_wf_same inv2.regs (by decide) (by decide),
    reg_wf_same inv1.regs (by decide) (by decide)]
  rfl

/-- A ring that takes effect: RLEN and BASE are in force, HEAD is slot 0, and PT_CUR is that slot's address (R372, R374). -/
theorem applyRing_takesEffect (inv : s.Inv) (b ch : Nat) : let t := s.applyRing b ch
    let base := 32 * s.rf (PT_RINGBASE.adr b ch) PT_RINGBASE.BASE
    t.ptAlen b ch = s.rf (PT_RINGLEN.adr b ch) PT_RINGLEN.RLEN ∧ t.ptHead b ch = 0 ∧ (t.pchan b ch).base = base ∧
      t.ptCur b ch = base ∧ ChannelsMove s t := by
  obtain ⟨tail, held, cur, cur', -⟩ := ptAdr_ne b ch
  have stat : (s.applyRing b ch).ptStat b ch = (s.ringApplied b ch).ptStat b ch := by
    rw [applyRing_eq]
    exact reg_applyHeld _ tail held
  rw [ptStat_ringApplied inv] at stat
  have width : s.rf (PT_RINGLEN.adr b ch) PT_RINGLEN.RLEN < 2 ^ 13 := by
    rw [rf_word (by decide) (by decide)]
    exact bits_lt _ _ 13
  have width' : s.rf (PT_RINGBASE.adr b ch) PT_RINGBASE.BASE < 2 ^ 43 := bits_lt _ _ 43
  refine ⟨?_, ?_, ?_, ?_, ?_⟩
  · rw [ptAlen_eq, stat, bits_setBits_below (by decide), bits_setBits_above (by decide), bits_setBits_same, Nat.mod_eq_of_lt width]
  · rw [ptHead_eq, stat, bits_setBits_below (by decide), bits_setBits_same, Nat.zero_mod]
  · have same : (s.applyRing b ch).pchans = _ := applyHeld_pchans (s.ringApplied b ch) b ch
    rw [ringApplied, setPtCur, wb, wf_pchans, wf_pchans, wf_pchans, wf_pchans, wf_pchans] at same
    rw [pchan, same]
    exact congrArg PChan.base (pchan_setPchan_same inv.tables b ch _)
  · have curs : (s.applyRing b ch).ptCur b ch = (s.ringApplied b ch).ptCur b ch := by
      have apart : PT_CUR.adr b ch ≠ PT_TAIL.adr b ch ∧ PT_CUR.adr b ch ≠ PT_RELHELD.adr b ch ∧ PT_CUR.adr b ch + 4 ≠ PT_TAIL.adr b ch ∧
          PT_CUR.adr b ch + 4 ≠ PT_RELHELD.adr b ch := by
        simp only [PT_CUR.adr, PT_TAIL.adr, PT_RELHELD.adr]
        omega
      obtain ⟨lowTail, lowHeld, highTail, highHeld⟩ := apart
      exact congrArg (32 * ·) (rf_eq_of_regs (by decide) (reg_applyHeld _ lowTail lowHeld) (reg_applyHeld _ highTail highHeld))
    have inv' := ((((inv.setPchan b ch { s.pchan b ch with base := 32 * s.rf (PT_RINGBASE.adr b ch) PT_RINGBASE.BASE }).wf
      (PT_CHSTAT.adr b ch) PT_CHSTAT.ALEN (s.rf (PT_RINGLEN.adr b ch) PT_RINGLEN.RLEN)).wf (PT_CHSTAT.adr b ch) PT_CHSTAT.HEAD 0).wf
      (PT_TAIL.adr b ch) PT_TAIL.TAIL 0).wf (PT_CHSTAT.adr b ch) PT_CHSTAT.PEND (b2n false)
    rw [curs, ringApplied, setPtCur, ptCur, wb, rf_wf_pair_same inv' (by decide) (by decide) (by decide),
      Nat.mul_div_cancel_left _ (by decide)]
    exact congrArg (32 * ·) (Nat.mod_eq_of_lt width')
  · exact ((((((((ChannelsMove.refl s).setPchan _ _ _).wf _ _ _).wf _ _ _).wf _ _ _).wf _ _ _).wf _ _ _).trans
      (applyHeld_frame (s.ringApplied b ch) b ch))

/-! ### Writes of the ring -/

theorem ptStat_unpaused (inv : s.Inv) :
    (s.wb (PT_CHSTAT.adr b ch) PT_CHSTAT.PAUSED false).ptStat b ch = setBits (s.ptStat b ch) 29 1 0 :=
  reg_wf_same inv.regs (f := PT_CHSTAT.PAUSED) (by decide) (by decide) _ _

/-- A write of PT_TAIL that is taken, no ring waiting to take effect (R370, R388). -/
theorem ptTailWrite_taken (inv : s.Inv) {v : Nat} (ring : 2 ≤ s.ptAlen b ch) (inside : bits v 0 12 < s.ptAlen b ch)
    (free : bits v 0 12 ≠ s.ptHead b ch ∨ (s.ptRuns b ch = false ∧ s.ptInChain b ch = false))
    (settled : s.rb (PT_CHSTAT.adr b ch) PT_CHSTAT.PEND = false) :
    let u := s.wf (PT_TAIL.adr b ch) PT_TAIL.TAIL (bits v 0 12)
    s.ptTailWrite b ch v = if u.ptIdle b ch = true then u.wb (PT_CHSTAT.adr b ch) PT_CHSTAT.PAUSED false else u := by
  intro u
  obtain ⟨tail, -, -, -, -⟩ := ptAdr_ne b ch
  have stat : u.ptStat b ch = s.ptStat b ch := reg_wf_ne s _ (by decide) (by decide) tail
  have pend : u.rb (PT_CHSTAT.adr b ch) PT_CHSTAT.PEND = false := by rw [ptPend_eq, stat, ← ptPend_eq, settled]
  have pend' : (u.wb (PT_CHSTAT.adr b ch) PT_CHSTAT.PAUSED false).rb (PT_CHSTAT.adr b ch) PT_CHSTAT.PEND = false := by
    rw [ptPend_eq, ptStat_unpaused (inv.wf _ _ _), bits_setBits_above (by decide), ← ptPend_eq, pend]
  have taken : ¬(s.ptAlen b ch < 2 ∨ s.ptAlen b ch ≤ bits v 0 12 ∨
      (bits v 0 12 = s.ptHead b ch ∧ ((s.ptRuns b ch : Prop) ∨ (s.ptInChain b ch : Prop)))) := by
    rintro (small | outside | ⟨here, busy⟩)
    · omega
    · omega
    · rcases free with other | ⟨stopped, whole⟩
      · exact other here
      · simp [stopped, whole] at busy
  have written : s.ptTailWrite b ch v =
      let w := if u.ptIdle b ch = true then u.wb (PT_CHSTAT.adr b ch) PT_CHSTAT.PAUSED false else u
      if (w.ptIdle b ch && w.rb (PT_CHSTAT.adr b ch) PT_CHSTAT.PEND) = true then w.applyRing b ch else w := if_neg taken
  rw [written]
  by_cases idle : u.ptIdle b ch = true
  · simp only [if_pos idle, pend', Bool.and_false, Bool.false_eq_true, if_false]
  · simp only [if_neg idle, pend, Bool.and_false, Bool.false_eq_true, if_false]

/-- A write of PT_TAIL that is refused: outside the ring, or on a slot in progress (R370). -/
theorem ptTailWrite_refused {v : Nat} (bad : s.ptAlen b ch < 2 ∨ s.ptAlen b ch ≤ bits v 0 12 ∨
    (bits v 0 12 = s.ptHead b ch ∧ (s.ptRuns b ch = true ∨ s.ptInChain b ch = true))) : s.ptTailWrite b ch v =
    (s.wb (PT_CHSTAT.adr b ch) PT_CHSTAT.TAILERR true).raise 0x0801 (ptEvSrc b ch) v (s.ptHead b ch) (s.ptAlen b ch) := if_pos bad

/-- A write of RLEN leaves whether the channel is idle. -/
theorem ptIdle_ringlen (s : State) (b ch v : Nat) : (s.wf (PT_RINGLEN.adr b ch) PT_RINGLEN.RLEN v).ptIdle b ch = s.ptIdle b ch := by
  have apart : PT_CHSTAT.adr b ch ≠ PT_RINGLEN.adr b ch ∧ PT_TAIL.adr b ch ≠ PT_RINGLEN.adr b ch := by
    simp only [PT_CHSTAT.adr, PT_TAIL.adr, PT_RINGLEN.adr]
    omega
  exact ptIdle_congr (reg_wf_ne s _ (by decide) (by decide) apart.1)
    (rf_eq_of_reg (by decide) (by decide) (reg_wf_ne s _ (by decide) (by decide) apart.2))

/-- A write of BASE leaves whether the channel is idle. -/
theorem ptIdle_ringbase (s : State) (b ch v : Nat) : (s.wf (PT_RINGBASE.adr b ch) PT_RINGBASE.BASE v).ptIdle b ch = s.ptIdle b ch := by
  have apart : PT_CHSTAT.adr b ch ≠ PT_RINGBASE.adr b ch ∧ PT_CHSTAT.adr b ch ≠ PT_RINGBASE.adr b ch + 4 ∧
      PT_TAIL.adr b ch ≠ PT_RINGBASE.adr b ch ∧ PT_TAIL.adr b ch ≠ PT_RINGBASE.adr b ch + 4 := by
    simp only [PT_CHSTAT.adr, PT_TAIL.adr, PT_RINGBASE.adr]
    omega
  obtain ⟨stat, stat', tail, tail'⟩ := apart
  exact ptIdle_congr (reg_wf_pair_ne (by decide) (by decide) s _ stat stat')
    (rf_eq_of_reg (by decide) (by decide) (reg_wf_pair_ne (by decide) (by decide) s _ tail tail'))

theorem ringRequest_idle (idle : s.ptIdle b ch = true) : s.ringRequest b ch = s.applyRing b ch := if_pos idle

theorem ringRequest_busy (busy : s.ptIdle b ch = false) : s.ringRequest b ch = s.wb (PT_CHSTAT.adr b ch) PT_CHSTAT.PEND true :=
  if_neg (by rw [busy]; exact Bool.false_ne_true)

theorem ptLenWrite_refused {v : Nat} (long : 4096 < bits v 0 13) : s.ptLenWrite b ch v = s.raise 0x0804 (ptEvSrc b ch) v 0 0 := if_pos long

theorem ptLenWrite_requested {v : Nat} (fits : bits v 0 13 ≤ 4096) :
    s.ptLenWrite b ch v = (s.wf (PT_RINGLEN.adr b ch) PT_RINGLEN.RLEN (bits v 0 13)).ringRequest b ch := if_neg (Nat.not_lt.mpr fits)

/-- A new length of the ring of an idle channel is in force (R372). -/
theorem ptLenWrite_idle (inv : s.Inv) (idle : s.ptIdle b ch = true) {v : Nat} (fits : bits v 0 13 ≤ 4096) : let t := s.ptLenWrite b ch v
    t.ptAlen b ch = bits v 0 13 ∧ t.ptHead b ch = 0 ∧ (t.pchan b ch).base = 32 * s.rf (PT_RINGBASE.adr b ch) PT_RINGBASE.BASE ∧
      ChannelsMove s t := by
  intro t
  have applied : t = (s.wf (PT_RINGLEN.adr b ch) PT_RINGLEN.RLEN (bits v 0 13)).applyRing b ch :=
    (ptLenWrite_requested fits).trans (ringRequest_idle ((ptIdle_ringlen s b ch _).trans idle))
  obtain ⟨alen, head, base, -, moves⟩ := applyRing_takesEffect (inv.wf (PT_RINGLEN.adr b ch) PT_RINGLEN.RLEN (bits v 0 13)) b ch
  have apart : PT_RINGBASE.adr b ch ≠ PT_RINGLEN.adr b ch ∧ PT_RINGBASE.adr b ch + 4 ≠ PT_RINGLEN.adr b ch := by
    simp only [PT_RINGBASE.adr, PT_RINGLEN.adr]
    omega
  rw [applied]
  refine ⟨alen.trans ?_, head, base.trans (congrArg (32 * ·) ?_), ((ChannelsMove.refl s).wf _ _ _).trans moves⟩
  · rw [rf_wf_same inv.regs _ _ _ (by decide) (by decide)]
    exact Nat.mod_eq_of_lt (bits_lt v 0 13)
  · exact rf_eq_of_regs (by decide) (reg_wf_ne s _ (by decide) (by decide) apart.1) (reg_wf_ne s _ (by decide) (by decide) apart.2)

/-- A new base of the ring of an idle channel is in force (R372, R374). -/
theorem ptBaseWrite_idle (inv : s.Inv) (idle : s.ptIdle b ch = true) (v : Nat) : let t := s.ptBaseWrite b ch v
    (t.pchan b ch).base = 32 * bits v 5 43 ∧ t.ptHead b ch = 0 ∧ t.ptCur b ch = 32 * bits v 5 43 ∧ ChannelsMove s t := by
  intro t
  have applied : t = (s.wf (PT_RINGBASE.adr b ch) PT_RINGBASE.BASE (bits v 5 43)).applyRing b ch :=
    ringRequest_idle ((ptIdle_ringbase s b ch _).trans idle)
  obtain ⟨-, head, base, cur, moves⟩ := applyRing_takesEffect (inv.wf (PT_RINGBASE.adr b ch) PT_RINGBASE.BASE (bits v 5 43)) b ch
  have read : (s.wf (PT_RINGBASE.adr b ch) PT_RINGBASE.BASE (bits v 5 43)).rf (PT_RINGBASE.adr b ch) PT_RINGBASE.BASE = bits v 5 43 :=
    (rf_wf_pair_same inv (by decide) (by decide) (by decide) _ _).trans (Nat.mod_eq_of_lt (bits_lt v 5 43))
  rw [read] at base cur
  rw [applied]
  exact ⟨base, head, cur, ((ChannelsMove.refl s).wf _ _ _).trans moves⟩

/-! ### Writes of the control register -/

/-- A write of PT_CHCTL that cuts no chain (R375, R388). -/
theorem ptCtlWrite_noCut {v : Nat} (cut : bit v 30 = false) : s.ptCtlWrite b ch v =
    let u := (s.wf (PT_CHCTL.adr b ch) PT_CHCTL.PRI (bits v 28 2)).wf (PT_CHCTL.adr b ch) PT_CHCTL.EN (bits v 31 1)
    if bit v 31 = true then u else u.wb (PT_CHSTAT.adr b ch) PT_CHSTAT.PAUSED false := by
  simp only [ptCtlWrite, cut, Bool.false_and, Bool.false_eq_true, if_false]

theorem ChannelsMove.regs (h : ChannelsMove s u) (same : u.pchans = s.pchans) : u = { s with regs := u.regs } := by
  obtain ⟨regs, pchans, rfl⟩ := h
  cases same
  rfl

/-- EN once it has been written from bit 31 of a word. -/
theorem rb_en_wf (inv : s.Inv) (a v : Nat) : (s.wf a PT_CHCTL.EN (bits v 31 1)).rb a PT_CHCTL.EN = bit v 31 := by
  rw [rb, rf_wf_same inv.regs _ _ PT_CHCTL.EN (by decide) (by decide)]
  exact congrArg (fun x => decide (x = 1)) (Nat.mod_mod (v >>> 31) 2)

/-- Writing EN = 1 changes PT_CHCTL alone (R375). -/
theorem ptCtlWrite_enables (inv : s.Inv) {v : Nat} (on : bit v 31 = true) (cut : bit v 30 = false) : let t := s.ptCtlWrite b ch v
    t.rb (PT_CHCTL.adr b ch) PT_CHCTL.EN = true ∧ (∀ x, x ≠ PT_CHCTL.adr b ch → t.reg x = s.reg x) ∧ t = { s with regs := t.regs } := by
  intro t
  have written : t = (s.wf (PT_CHCTL.adr b ch) PT_CHCTL.PRI (bits v 28 2)).wf (PT_CHCTL.adr b ch) PT_CHCTL.EN (bits v 31 1) :=
    (ptCtlWrite_noCut cut).trans (if_pos on)
  rw [written]
  refine ⟨(rb_en_wf (inv.wf _ _ _) _ v).trans on, fun x other => ?_, (((ChannelsMove.refl s).wf _ _ _).wf _ _ _).regs ?_⟩
  · rw [reg_wf_ne _ _ (by decide) (by decide) other, reg_wf_ne _ _ (by decide) (by decide) other]
  · rw [wf_pchans, wf_pchans]

/-- PT_CHCTL written with EN = 0: the channel waits for nothing (R388). -/
def ctlStopped (s : State) (b ch v : Nat) : State :=
  ((s.wf (PT_CHCTL.adr b ch) PT_CHCTL.PRI (bits v 28 2)).wf (PT_CHCTL.adr b ch) PT_CHCTL.EN (bits v 31 1)).wb (PT_CHSTAT.adr b ch)
    PT_CHSTAT.PAUSED false

theorem Inv.ctlStopped (inv : s.Inv) (b ch v : Nat) : (s.ctlStopped b ch v).Inv := by
  unfold State.ctlStopped
  exact ((inv.wf _ _ _).wf _ _ _).wf _ _ _

theorem ctlStopped_frame (s : State) (b ch v : Nat) : ChannelsMove s (s.ctlStopped b ch v) := by
  unfold ctlStopped
  exact (((ChannelsMove.refl s).wf _ _ _).wf _ _ _).wf _ _ _

theorem ctlStopped_pchans (s : State) (b ch v : Nat) : (s.ctlStopped b ch v).pchans = s.pchans := by
  rw [ctlStopped, wb, wf_pchans, wf_pchans, wf_pchans]

theorem ptStat_ctlStopped (inv : s.Inv) (v : Nat) : (s.ctlStopped b ch v).ptStat b ch = setBits (s.ptStat b ch) 29 1 0 := by
  obtain ⟨-, -, -, -, ctl⟩ := ptAdr_ne b ch
  rw [ptStat, ctlStopped, wb, reg_wf_same ((inv.wf _ _ _).wf _ _ _).regs (by decide) (by decide),
    reg_wf_ne _ _ (by decide) (by decide) ctl, reg_wf_ne _ _ (by decide) (by decide) ctl]
  rfl

/-- Writing EN = 0 changes PT_CHCTL, and PAUSED of the channel's status (R375, R388). -/
theorem ptCtlWrite_disables (inv : s.Inv) {v : Nat} (off : bit v 31 = false) (cut : bit v 30 = false) : let t := s.ptCtlWrite b ch v
    t.rb (PT_CHCTL.adr b ch) PT_CHCTL.EN = false ∧
      t.ptStat b ch = (s.wb (PT_CHSTAT.adr b ch) PT_CHSTAT.PAUSED false).ptStat b ch ∧
      (∀ x, x ≠ PT_CHCTL.adr b ch → x ≠ PT_CHSTAT.adr b ch → t.reg x = s.reg x) ∧ t = { s with regs := t.regs } := by
  intro t
  obtain ⟨-, -, -, -, ctl⟩ := ptAdr_ne b ch
  have written : t = s.ctlStopped b ch v := (ptCtlWrite_noCut cut).trans (if_neg (by rw [off]; exact Bool.false_ne_true))
  rw [written]
  refine ⟨?_, ?_, fun x other other' => ?_, (ctlStopped_frame s b ch v).regs (ctlStopped_pchans s b ch v)⟩
  · have kept : (s.ctlStopped b ch v).reg (PT_CHCTL.adr b ch) = ((s.wf (PT_CHCTL.adr b ch) PT_CHCTL.PRI (bits v 28 2)).wf
        (PT_CHCTL.adr b ch) PT_CHCTL.EN (bits v 31 1)).reg (PT_CHCTL.adr b ch) := by
      rw [ctlStopped, wb, reg_wf_ne _ _ (by decide) (by decide) ctl.symm]
    exact (rb_eq_of_reg (f := PT_CHCTL.EN) (by decide) (by decide) kept).trans ((rb_en_wf (inv.wf _ _ _) _ v).trans off)
  · rw [ptStat_ctlStopped inv, ptStat_unpaused inv]
  · rw [ctlStopped, wb, reg_wf_ne _ _ (by decide) (by decide) other', reg_wf_ne _ _ (by decide) (by decide) other,
      reg_wf_ne _ _ (by decide) (by decide) other]

/-! ### HEAD -/

/-- The next slot at HEAD, its predecessor's chain ended (R374), before a ring or held releases are applied. -/
def headMoved (s : State) (b ch : Nat) : State :=
  let head := (s.ptHead b ch + 1) % max 1 (s.ptAlen b ch)
  ((s.wf (PT_CHSTAT.adr b ch) PT_CHSTAT.HEAD head).wb (PT_CHSTAT.adr b ch) PT_CHSTAT.INCHAIN false).setPtCur b ch
    ((s.pchan b ch).base + 32 * head)

theorem ptStat_headMoved (inv : s.Inv) : (s.headMoved b ch).ptStat b ch =
    setBits (setBits (s.ptStat b ch) 0 12 ((s.ptHead b ch + 1) % max 1 (s.ptAlen b ch))) 26 1 0 := by
  obtain ⟨-, -, cur, cur', -⟩ := ptAdr_ne b ch
  rw [ptStat, headMoved, setPtCur, reg_wf_pair_ne (by decide) (by decide) _ _ cur cur', wb,
    reg_wf_same (inv.wf _ _ _).regs (by decide) (by decide), reg_wf_same inv.regs (by decide) (by decide)]
  rfl

/-- HEAD advances while no ring waits to take effect (R374). -/
theorem advanceHead_settled (inv : s.Inv) (settled : s.rb (PT_CHSTAT.adr b ch) PT_CHSTAT.PEND = false) : let t := s.advanceHead b ch
    t.ptHead b ch = (s.ptHead b ch + 1) % max 1 (s.ptAlen b ch) % 2 ^ 12 ∧ t.ptInChain b ch = false ∧ ChannelsMove s t := by
  intro t
  obtain ⟨tail, held, -, -, -⟩ := ptAdr_ne b ch
  have pend : ((s.headMoved b ch).ptEmpty b ch && (s.headMoved b ch).rb (PT_CHSTAT.adr b ch) PT_CHSTAT.PEND) = false := by
    rw [ptPend_eq, ptStat_headMoved inv, bits_setBits_above (by decide), bits_setBits_above (by decide), ← ptPend_eq, settled,
      Bool.and_false]
  have advanced : t = (s.headMoved b ch).applyHeld b ch := if_neg (by rw [← headMoved, pend]; exact Bool.false_ne_true)
  have stat : t.ptStat b ch = (s.headMoved b ch).ptStat b ch := by rw [advanced]; exact reg_applyHeld _ tail held
  rw [ptStat_headMoved inv] at stat
  refine ⟨?_, ?_, ?_⟩
  · rw [ptHead_eq, stat, bits_setBits_below (by decide), bits_setBits_same]
  · rw [ptInChain_eq, stat, bits_setBits_same]
    rfl
  · rw [advanced]
    exact ((((ChannelsMove.refl s).wf _ _ _).wf _ _ _).wf _ _ _).trans (applyHeld_frame (s.headMoved b ch) b ch)

theorem ptStat_ne_evlost (b ch : Nat) : PT_CHSTAT.adr b ch ≠ GB_EVLOST.adr := by
  unfold PT_CHSTAT.adr ptBase GB_EVLOST.adr
  split <;> omega

/-- Cutting a chain that no descriptor of it runs in, on a stopped channel, ends it (R375). -/
theorem ptCtlWrite_cuts (inv : s.Inv) {v : Nat} (off : bit v 31 = false) (cut : bit v 30 = true)
    (stopped : s.rb (PT_CHCTL.adr b ch) PT_CHCTL.EN = false) (chain : s.ptInChain b ch = true)
    (settled : s.rb (PT_CHSTAT.adr b ch) PT_CHSTAT.PEND = false) (none_ : (s.pchan b ch).desc = none) : let t := s.ptCtlWrite b ch v
    t.ptHead b ch = (s.ptHead b ch + 1) % max 1 (s.ptAlen b ch) % 2 ^ 12 ∧ t.ptInChain b ch = false ∧ t.mem = s.mem ∧ t.out = s.out := by
  intro t
  obtain ⟨told, raised⟩ : ∃ u, u = (s.ctlStopped b ch v).raiseA2 0x0802 (ptEvSrc b ch) (s.ptCur b ch) := ⟨_, rfl⟩
  have signals : Signals (· = PT_CHSTAT.adr b ch) (s.ctlStopped b ch v) told := by
    rw [raised]
    exact .raise _ _ _ _ _ (ptStat_ne_evlost b ch).symm
  have inv' : told.Inv := by
    rw [raised]
    exact (raiseA2_keeps _ _ _ (.refl _)).inv (inv.ctlStopped b ch v)
  have stat : told.ptStat b ch = setBits (s.ptStat b ch) 29 1 0 := (signals.kept _ rfl).trans (ptStat_ctlStopped inv v)
  have head : told.ptHead b ch = s.ptHead b ch := by rw [ptHead_eq, stat, bits_setBits_below (by decide), ← ptHead_eq]
  have alen : told.ptAlen b ch = s.ptAlen b ch := by rw [ptAlen_eq, stat, bits_setBits_below (by decide), ← ptAlen_eq]
  have pend : told.rb (PT_CHSTAT.adr b ch) PT_CHSTAT.PEND = false := by
    rw [ptPend_eq, stat, bits_setBits_above (by decide), ← ptPend_eq, settled]
  have idle : (told.pchan b ch).desc = none := by
    rw [pchan, signals.frame]
    show (sget (s.ctlStopped b ch v).pchans _ _).desc = none
    rw [ctlStopped_pchans]
    exact none_
  have ends : t = told.advanceHead b ch := by
    have written : t = match (told.pchan b ch).desc with
        | some d => told.setPchan b ch { told.pchan b ch with desc := some { d with bytes := patch d.bytes 0x18 (leBytes 6 0) } }
        | none => told.advanceHead b ch := by
      rw [raised]
      simp only [t, ptCtlWrite, cut, stopped, chain, off, Bool.not_false, Bool.and_self, if_true, Bool.false_eq_true, if_false]
      rfl
    rw [written, idle]
  obtain ⟨head', chain', moves⟩ := advanceHead_settled inv' pend
  rw [← ends] at head' chain' moves
  rw [head, alen] at head'
  have still := ctlStopped_frame s b ch v
  exact ⟨head', chain', moves.mem.trans ((mem_of_signals signals).trans still.mem),
    moves.out.trans ((out_of_signals signals).trans still.out)⟩

/-! ### Releases -/

theorem release_taken (ring : 2 ≤ s.ptAlen b ch) (room : (s.ptTail b ch + 1) % s.ptAlen b ch ≠ s.ptHead b ch) :
    s.release b ch = s.wf (PT_TAIL.adr b ch) PT_TAIL.TAIL ((s.ptTail b ch + 1) % s.ptAlen b ch) := if_pos ⟨ring, room⟩

theorem release_held (full : s.ptAlen b ch < 2 ∨ (s.ptTail b ch + 1) % s.ptAlen b ch = s.ptHead b ch)
    (few : s.rf (PT_RELHELD.adr b ch) PT_RELHELD.COUNT < 0xFFFF) :
    s.release b ch = s.incSat (PT_RELHELD.adr b ch) PT_RELHELD.COUNT 1 := by
  have noRoom : ¬(2 ≤ s.ptAlen b ch ∧ (s.ptTail b ch + 1) % s.ptAlen b ch ≠ s.ptHead b ch) := fun ⟨ring, room⟩ =>
    full.elim (Nat.not_lt.mpr ring) room
  exact (if_neg noRoom).trans (if_neg (Nat.ne_of_lt few))

theorem porterRelease_none (h : sget s.relIn ch 0 = 0) : s.porterRelease ch = s := if_pos h

theorem porterRelease_some (h : sget s.relIn ch 0 ≠ 0) :
    s.porterRelease ch = { s with relIn := sput s.relIn ch (sget s.relIn ch 0 - 1) 0 }.release 24 ch := if_neg h

/-! ### The words that write PT_CHCTL -/

theorem bit_or (v w i : Nat) : bit (v ||| w) i = (bit v i || bit w i) := by
  simp only [bit_eq_testBit, Nat.testBit_or]

theorem bit_mod_two_pow {v n i : Nat} (h : i < n) : bit (v % 2 ^ n) i = bit v i := by
  rw [bit_eq_testBit, bit_eq_testBit, Nat.testBit_mod_two_pow, decide_eq_true h, Bool.true_and]

theorem bit_mod_two_pow_self (v n : Nat) : bit (v % 2 ^ n) n = false := by
  rw [bit_eq_testBit, Nat.testBit_mod_two_pow, decide_eq_false (Nat.lt_irrefl n), Bool.false_and]

theorem rb_en_eq_bit (s : State) (a : Nat) : s.rb a PT_CHCTL.EN = bit (s.reg a) 31 := by
  rw [rb, rf_word (by decide) (by decide)]
  rfl

theorem Inv.drawn (inv : s.Inv) : s.drawn.Inv := ⟨inv.mem, inv.regs, inv.marks, inv.tables, inv.tkns, inv.modid⟩

end State

theorem onChan_ok {b : BlockId} {ch : Fin 32} (ok : chanOk b ch = true) (s : State) : onChan b ch s = .next s := if_pos ok

theorem onChan_bad {b : BlockId} {ch : Fin 32} (bad : chanOk b ch = false) (s : State) : onChan b ch s = .fault .illFormed :=
  if_neg (by rw [bad]; exact Bool.false_ne_true)

theorem ptTail_line (b ch : Nat) : PT_TAIL.adr b ch / 64 * 64 = ptLine b ch := by
  have aligned := ptLine_aligned b ch
  show (ptLine b ch + 0xC) / 64 * 64 = ptLine b ch
  omega

/-! ### The commands -/

section
open State
variable {s : State} {b : BlockId} {ch : Fin 32} {src : SrcId} (ok : chanOk b ch = true) (open_ : s.wayOpen src (ptLine b ch))
include ok open_

theorem exec_ptTailWrite (v : Word) : exec (.ptTailWrite b ch src v) s = .next (s.drawn.ptTailWrite b ch v.toNat) :=
  (onChan_ok ok _).trans (congrArg _ (ptWrite_tail ok open_ v.isLt))

theorem exec_ptRinglenWrite (v : Word) : exec (.ptRinglenWrite b ch src v) s = .next (s.drawn.ptLenWrite b ch v.toNat) :=
  (onChan_ok ok _).trans (congrArg _ (ptWrite_ringlen ok open_ v.isLt))

theorem exec_ptRingbaseWrite (v : BitVec 64) : exec (.ptRingbaseWrite b ch src v) s = .next (s.drawn.ptBaseWrite b ch v.toNat) :=
  (onChan_ok ok _).trans (congrArg _ (ptWrite_ringbase ok open_ v.isLt))

theorem exec_ptChannelEnable : exec (.ptChannelEnable b ch src) s =
    .next (s.drawn.ptCtlWrite b ch (s.reg (PT_CHCTL.adr b ch) ||| 0x80000000)) :=
  (onChan_ok ok _).trans (congrArg _ (ptWrite_chctl ok open_ (Nat.or_lt_two_pow (s.reg_lt _) (by decide))))

theorem exec_ptChannelDisable : exec (.ptChannelDisable b ch src) s =
    .next (s.drawn.ptCtlWrite b ch (s.reg (PT_CHCTL.adr b ch) % 0x80000000)) :=
  (onChan_ok ok _).trans (congrArg _ (ptWrite_chctl ok open_ (Nat.lt_of_le_of_lt (Nat.mod_le _ _) (s.reg_lt _))))

theorem exec_ptChainCut : exec (.ptChainCut b ch src) s =
    .next (s.drawn.ptCtlWrite b ch (s.reg (PT_CHCTL.adr b ch) ||| 0x40000000)) :=
  (onChan_ok ok _).trans (congrArg _ (ptWrite_chctl ok open_ (Nat.or_lt_two_pow (s.reg_lt _) (by decide))))

end

open State in
/-- Settles O43: each write is the equation of what it does with the registers of its channel, and a release that of TAIL or of what
is held. -/
theorem porterChannelsTakeWritesAndReleases : Obligations.PorterChannelsTakeWritesAndReleases := by
  intro s b ch src inv
  refine ⟨fun bad v w => ⟨onChan_bad bad _, onChan_bad bad _⟩, fun ok open_ => ?_, fun ch' => ?_⟩
  · rw [ptTail_line] at open_
    have inv' := inv.drawn
    intro st n h ctl
    refine ⟨fun v => ?_, fun v busy => ?_, fun v idle => ?_, fun noCut => ⟨?_, ?_⟩, fun stopped chain settled none_ => ?_⟩
    · intro t
      rw [exec_ptTailWrite ok open_, exec_ptRinglenWrite ok open_]
      refine ⟨fun bad => ?_, fun ring inside free settled => ?_, fun long => ?_, fun fits busy => ?_, fun fits idle => ?_⟩
      · exact congrArg _ (ptTailWrite_refused (s := s.drawn) bad)
      · exact congrArg _ (ptTailWrite_taken inv' ring inside free settled)
      · exact congrArg _ (ptLenWrite_refused long)
      · exact congrArg _ ((ptLenWrite_requested fits).trans (ringRequest_busy ((ptIdle_ringlen s.drawn b ch _).trans busy)))
      · obtain ⟨alen, head, base, moves⟩ := ptLenWrite_idle inv' (b := b) (ch := ch) idle fits
        exact ⟨_, rfl, alen, head, base, moves.eq⟩
    · rw [exec_ptRingbaseWrite ok open_]
      exact congrArg _ (ringRequest_busy ((ptIdle_ringbase s.drawn b ch _).trans busy))
    · obtain ⟨base, head, cur, moves⟩ := ptBaseWrite_idle inv' (b := b) (ch := ch) idle v.toNat
      exact ⟨_, exec_ptRingbaseWrite ok open_ v, base, head, cur, moves.eq⟩
    · have on : bit (ctl ||| 0x80000000) 31 = true := by rw [bit_or]; exact Bool.or_true _
      have cut : bit (ctl ||| 0x80000000) 30 = false := by rw [bit_or, noCut]; rfl
      exact ⟨_, exec_ptChannelEnable ok open_, ptCtlWrite_enables inv' on cut⟩
    · have off : bit (ctl % 2 ^ 31) 31 = false := bit_mod_two_pow_self ctl 31
      have cut : bit (ctl % 2 ^ 31) 30 = false := (bit_mod_two_pow (by decide)).trans noCut
      exact ⟨_, exec_ptChannelDisable ok open_, ptCtlWrite_disables inv' off cut⟩
    · have off : bit (ctl ||| 0x40000000) 31 = false := by rw [bit_or, ← rb_en_eq_bit, stopped]; rfl
      have cut : bit (ctl ||| 0x40000000) 30 = true := by rw [bit_or]; exact Bool.or_true _
      exact ⟨_, exec_ptChainCut ok open_, ptCtlWrite_cuts inv' off cut stopped chain settled none_⟩
  · intro k v n t
    refine ⟨fun none_ => congrArg _ (porterRelease_none none_), fun some_ ring room => ?_, fun some_ full few => ?_⟩
    · exact congrArg _ ((porterRelease_some some_).trans (release_taken (s := v) ring room))
    · exact congrArg _ ((porterRelease_some some_).trans (release_held (s := v) full few))

end Sys2Proof.Machine
end

section
/-! The bytes that a descriptor moves (R379, R381, R382): requests within one line, streams of elements, and bit planes. -/

namespace Sys2Proof.Machine

namespace State

/-! ### Requests within one line -/

theorem pieces_line {a n : Nat} (some_ : n ≠ 0) (inside : a % 64 + n ≤ 64) (k : Nat) : pieces (k + 2) a n = [(a, n)] := by
  have whole : min n (64 - a % 64) = n := by omega
  simp only [pieces, if_neg some_, whole, Nat.sub_self, if_true]

/-- Bytes within a half line, or a whole line, are written by one request (R63). -/
theorem reqPieces_one {a n : Nat} (some_ : n ≠ 0) (one : a % 64 + n ≤ 32 ∨ (32 ≤ a % 64 ∧ a % 64 + n ≤ 64) ∨ (a % 64 = 0 ∧ n = 64)) :
    reqPieces a n = [(a, n)] := by
  have request : n = 64 ∨ 32 ≤ a % 64 ∨ n ≤ 32 - a % 64 := by omega
  rw [reqPieces, pieces_line some_ (by omega)]
  exact congrArg (· ++ []) (if_pos request)

theorem mvRead_of_busRead {s v : State} {src a n : Nat} {e : Option (Nat × Nat)} {bs : List Byte} (read : s.busRead src a n = (e, bs, v)) :
    mvRead (s, none) src a n = (bs, v, e.map fun x => (2, x.1, x.2)) := by
  simp only [mvRead, Option.isSome_none, Bool.false_eq_true, if_false, read]

theorem mvWrite_one (v : State) (src : Nat) {a : Nat} {bs : List Byte} (some_ : bs ≠ [])
    (one : a % 64 + bs.length ≤ 32 ∨ (32 ≤ a % 64 ∧ a % 64 + bs.length ≤ 64) ∨ (a % 64 = 0 ∧ bs.length = 64)) :
    mvWrite (v, none) src a bs = ((v.busWrite src a bs).2, (v.busWrite src a bs).1.map fun x => (3, x.1, x.2)) := by
  rw [mvWrite, reqPieces_one (List.length_eq_zero_iff.not.mpr some_) one]
  simp only [List.foldl_cons, List.foldl_nil, Option.isSome_none, Bool.false_eq_true, if_false, Nat.sub_self, List.drop_zero, List.take_length]

section
variable {s v : State} {src : Nat} {d bs : List Byte} (free : dSfix d = false) (some_ : dLen d ≠ 0) (line : dSrc d % 64 + dLen d ≤ 64)
include free some_ line

/-- A source whose one line cannot be read ends the copy (R391). -/
theorem moveCopy_unread {e : Nat × Nat} (read : s.busRead src (dSrc d) (dLen d) = (some e, bs, v)) :
    s.moveCopy src d = (v, some (2, e.1, e.2)) := by
  simp only [moveCopy, free, Bool.false_eq_true, if_false, pieces_line some_ line, List.foldl_cons, List.foldl_nil, mvRead_of_busRead read,
    Option.map_some, Option.isSome_some, if_true, List.isEmpty_nil]

/-- What one line holds is copied into one line (R379). -/
theorem moveCopy_line (free' : dDfix d = false) (line' : dDst d % 64 + dLen d ≤ 64)
    (read : s.busRead src (dSrc d) (dLen d) = (none, bs, v)) (long : bs.length = dLen d) :
    s.moveCopy src d = mvWrite (v, none) src (dDst d) bs := by
  have bytes : bs ≠ [] := fun h => some_ (by rw [← long, h]; rfl)
  simp only [moveCopy, free, free', Bool.false_eq_true, if_false, pieces_line some_ line, List.foldl_cons, List.foldl_nil,
    mvRead_of_busRead read, Option.map_none, Option.isSome_none, List.nil_append]
  by_cases short : bs.length < 64 - dDst d % 64
  · simp only [if_pos short, List.isEmpty_eq_false_iff.mpr bytes, Bool.false_eq_true, if_false]
  · have all : bs.length ≤ 64 - dDst d % 64 := by omega
    have rest : ([] : List Byte).length < 64 := by decide
    simp only [if_neg short, List.take_of_length_le all, List.drop_eq_nil_of_le all, if_pos rest, List.isEmpty_nil, if_true]

end

end State

/-! ### Blocks of bytes -/

/-- Bytes within block `i` of blocks of `w` bytes. -/
theorem take_drop_flatMap {α : Type} {g : α → List Byte} {w : Nat} {l : List α} (hw : ∀ x ∈ l, (g x).length = w) {i o n : Nat}
    (hi : i < l.length) (ho : o + n ≤ w) : ((l.flatMap g).drop (w * i + o)).take n = ((g l[i]).drop o).take n := by
  have block : (g l[i]).length = w := hw _ (List.getElem_mem hi)
  rw [← List.drop_drop, drop_flatMap hw, List.drop_eq_getElem_cons hi, List.flatMap_cons, List.drop_append_of_le_length (by omega),
    List.take_append_of_le_length (by rw [List.length_drop]; omega)]

/-- The blocks of `e` bytes of a list, in order. -/
theorem flatMap_blocks (m e : Nat) (l : List Byte) : ((List.range m).flatMap fun j => (l.drop (j * e)).take e) = l.take (m * e) := by
  induction m with
  | zero => rw [Nat.zero_mul]; rfl
  | succ m ih => rw [List.range_succ, List.flatMap_append, ih, List.flatMap_singleton, Nat.succ_mul, List.take_add]

theorem length_block {l : List Byte} {m e j : Nat} (long : l.length = m * e) (hj : j < m) : ((l.drop (j * e)).take e).length = e := by
  have inside : (j + 1) * e ≤ m * e := Nat.mul_le_mul_right _ hj
  rw [Nat.add_mul, Nat.one_mul] at inside
  rw [List.length_take, List.length_drop, long]
  omega

/-! ### Streams of elements (R381) -/

section
variable {k m e : Nat} {streams : List (List Byte)} (count : streams.length = k) (sized : ∀ x ∈ streams, x.length = m * e)
include count sized

theorem length_stream {i : Nat} (hi : i < k) : (streams.getD i []).length = m * e := by
  rw [List.getD_eq_getElem _ _ (count ▸ hi)]
  exact sized _ (List.getElem_mem _)

theorem take_drop_interleave {i j : Nat} (hi : i < k) (hj : j < m) :
    ((interleave k m e streams).drop ((j * k + i) * e)).take e = ((streams.getD i []).drop (j * e)).take e := by
  have element {j : Nat} (hj : j < m) : ∀ i ∈ List.range k, (((streams.getD i []).drop (j * e)).take e).length = e := fun i hi =>
    length_block (length_stream count sized (List.mem_range.mp hi)) hj
  have row : ∀ j ∈ List.range m, ((List.range k).flatMap fun i => ((streams.getD i []).drop (j * e)).take e).length = e * k :=
    fun j hj => by rw [length_flatMap_blocks (element (List.mem_range.mp hj)), List.length_range]
  have place : (j * k + i) * e = e * k * j + (e * i + 0) := by ring
  have inside : e * (i + 1) ≤ e * k := Nat.mul_le_mul_left _ hi
  rw [Nat.mul_add, Nat.mul_one] at inside
  rw [interleave, place, take_drop_flatMap row (by rwa [List.length_range]) (by omega), List.getElem_range,
    take_drop_flatMap (element hj) (by rwa [List.length_range]) (by omega), List.getElem_range, List.drop_zero, List.take_take, Nat.min_self]

theorem deinterleave_interleave {i : Nat} (hi : i < k) : deinterleave k m e i (interleave k m e streams) = streams.getD i [] := by
  have elements : deinterleave k m e i (interleave k m e streams) =
      (List.range m).flatMap fun j => ((streams.getD i []).drop (j * e)).take e :=
    List.flatMap_congr fun j hj => take_drop_interleave count sized hi (List.mem_range.mp hj)
  rw [elements, flatMap_blocks, ← length_stream count sized hi, List.take_length]

end

/-! ### Bit planes (R382) -/

/-- Bits counted into a number, most significant first. -/
def msbFirst (n : Nat) (f : Nat → Bool) : Nat := (List.range n).foldl (fun a x => 2 * a + b2n (f x)) 0

theorem msbFirst_succ (n : Nat) (f : Nat → Bool) : msbFirst (n + 1) f = 2 * msbFirst n f + b2n (f n) := by
  simp only [msbFirst, List.range_succ, List.foldl_append, List.foldl_cons, List.foldl_nil]

theorem b2n_le (b : Bool) : b2n b ≤ 1 := by cases b <;> decide

theorem msbFirst_lt (n : Nat) (f : Nat → Bool) : msbFirst n f < 2 ^ n := by
  induction n with
  | zero => exact Nat.one_pos
  | succ n ih =>
    have low := b2n_le (f n)
    rw [msbFirst_succ, pow_succ]
    omega

theorem bit_msbFirst {n x : Nat} (f : Nat → Bool) (hx : x < n) : bit (msbFirst n f) (n - 1 - x) = f x := by
  induction n with
  | zero => exact absurd hx (Nat.not_lt_zero x)
  | succ n ih =>
    rw [msbFirst_succ, bit, Nat.shiftRight_eq_div_pow]
    by_cases last : x = n
    · rw [last, Nat.add_sub_cancel, Nat.sub_self, Nat.pow_zero, Nat.div_one, Nat.mul_add_mod]
      cases f n <;> rfl
    · have before : x < n := by omega
      have place : n + 1 - 1 - x = (n - 1 - x) + 1 := by omega
      have low := b2n_le (f n)
      have half : (2 * msbFirst n f + b2n (f n)) / 2 = msbFirst n f := by omega
      rw [place, pow_succ', ← Nat.div_div_eq_div_mul, half]
      rw [← Nat.shiftRight_eq_div_pow]
      exact ih before

/-- A number from its bits, least significant first. -/
theorem foldl_bits (v k : Nat) : (List.range k).foldl (fun a b => a + b2n (bit v b) * 2 ^ b) 0 = v % 2 ^ k := by
  induction k with
  | zero => rw [Nat.pow_zero, Nat.mod_one]; rfl
  | succ k ih =>
    have digit : b2n (bit v k) = v / 2 ^ k % 2 := by
      rw [bit, Nat.shiftRight_eq_div_pow]
      rcases Nat.mod_two_eq_zero_or_one (v / 2 ^ k) with h | h <;> rw [h] <;> rfl
    rw [List.range_succ, List.foldl_append, ih, List.foldl_cons, List.foldl_nil, digit, Nat.mod_pow_succ, Nat.mul_comm (2 ^ k)]

theorem leBytes_leVal (bs : List Byte) : leBytes bs.length (leVal bs) = bs := by
  induction bs with
  | nil => rfl
  | cons x bs ih =>
    have low := x.isLt
    have rest : (x.toNat + 256 * leVal bs) / 256 = leVal bs := by omega
    rw [leVal, List.length_cons, leBytes, rest, ih]
    congr 1
    refine BitVec.eq_of_toNat_eq ?_
    rw [BitVec.toNat_ofNat]
    omega

theorem leVal_lt (bs : List Byte) : leVal bs < 2 ^ (8 * bs.length) := by
  induction bs with
  | nil => exact Nat.one_pos
  | cons x bs ih =>
    have low := x.isLt
    rw [leVal, List.length_cons, Nat.mul_succ, Nat.pow_add]
    omega

/-- One byte of a list. -/
theorem fieldAt_byte {bs : List Byte} {i : Nat} (hi : i < bs.length) : fieldAt bs i 1 = (bs[i]).toNat := by
  rw [fieldAt, List.drop_eq_getElem_cons hi, List.take_succ_cons, List.take_zero]
  rfl

section
variable {k n : Nat} (hk : k = 8 ∨ k = 16) (hn : n % 8 = 0) (bs : List Byte)
include hk hn

/-- Bit `q` of word `x` is in plane `q`, most significant first within each byte. -/
theorem bit_planeOf {x : Nat} (hx : x < n) (q : Nat) :
    bit (fieldAt (planeOf k n q bs) (x / 8) 1) (7 - x % 8) = bit (fieldAt bs (x * (k / 8)) (k / 8)) q := by
  have inside : x / 8 < n / 8 := by omega
  have byte : fieldAt (planeOf k n q bs) (x / 8) 1 =
      msbFirst 8 fun y => bit (fieldAt bs ((8 * (x / 8) + y) * k / 8) (k / 8)) q := by
    rw [fieldAt_byte (by rwa [planeOf, List.length_map, List.length_range])]
    simp only [planeOf, List.getElem_map, List.getElem_range]
    rw [BitVec.toNat_ofNat]
    exact Nat.mod_eq_of_lt (msbFirst_lt 8 _)
  have word : (8 * (x / 8) + x % 8) * k / 8 = x * (k / 8) := by
    rw [Nat.div_add_mod]
    rcases hk with rfl | rfl <;> omega
  rw [byte, bit_msbFirst (n := 8) _ (Nat.mod_lt x (by decide)), word]

theorem wordsOf_planeOf (long : bs.length = n * (k / 8)) : wordsOf k n ((List.range k).map fun q => planeOf k n q bs) = bs := by
  have bytes : 8 * (k / 8) = k := by rcases hk with rfl | rfl <;> rfl
  have word : ∀ x ∈ List.range n, leBytes (k / 8) ((List.range k).foldl (fun a b =>
      a + b2n (bit (fieldAt (((List.range k).map fun q => planeOf k n q bs).getD b []) (x / 8) 1) (7 - x % 8)) * 2 ^ b) 0) =
      (bs.drop (x * (k / 8))).take (k / 8) := by
    intro x hx
    rw [List.mem_range] at hx
    have length := length_block long hx
    have value : (List.range k).foldl (fun a b =>
        a + b2n (bit (fieldAt (((List.range k).map fun q => planeOf k n q bs).getD b []) (x / 8) 1) (7 - x % 8)) * 2 ^ b) 0 =
        (List.range k).foldl (fun a b => a + b2n (bit (fieldAt bs (x * (k / 8)) (k / 8)) b) * 2 ^ b) 0 := by
      refine List.foldl_ext _ _ _ fun a b hb => ?_
      rw [List.mem_range] at hb
      rw [List.getD_eq_getElem _ _ (by rwa [List.length_map, List.length_range]), List.getElem_map, List.getElem_range,
        bit_planeOf hk hn bs hx]
    have small : fieldAt bs (x * (k / 8)) (k / 8) < 2 ^ k := by
      have := leVal_lt ((bs.drop (x * (k / 8))).take (k / 8))
      rwa [length, bytes] at this
    have chunk := leBytes_leVal ((bs.drop (x * (k / 8))).take (k / 8))
    rw [length] at chunk
    rw [value, foldl_bits, Nat.mod_eq_of_lt small, fieldAt, chunk]
  rw [wordsOf, List.flatMap_congr word, flatMap_blocks, ← long, List.take_length]

end

end Sys2Proof.Machine
end

section
/-! Descriptors (R371, R374, R376, R377, R384, R386 to R388, R390 to R393): the start, the movement and the end of each. -/

namespace Sys2Proof.Machine

namespace State

variable {s v : State} {b ch : Nat}

/-! ### Start -/

section
variable {e : Option (Nat × Nat)} {d : List Byte} (enabled : s.rb (PT_CHCTL.adr b ch) PT_CHCTL.EN = true) (idle : s.ptRuns b ch = false)
  (waits : s.ptInChain b ch = true ∨ s.ptEmpty b ch = false) (free : s.pulseHeld (ptXing b) ch = false) (awake : b = 24 ∨ s.sleep = none)
include enabled idle waits free awake

/-- A channel that is enabled and not held starts the descriptor it has come to (R371, R374). -/
theorem descStart_ready (read : s.busRead (ptSrc b ch) (s.ptCur b ch) 32 = (e, d, v)) : s.descStart b ch =
    if e.isSome = true then ((v.wb (PT_CHSTAT.adr b ch) PT_CHSTAT.PAUSED false).ptError b ch (s.ptCur b ch) 0 0).advanceHead b ch
    else if v.ptPaused b d = true then s.wb (PT_CHSTAT.adr b ch) PT_CHSTAT.PAUSED true
    else if descCheck b d = 0 ∧ dMode d ≠ 0 ∧ dLen d ≠ 0 ∧ 2 ≤ v.stagingUsed b then s
    else
      let w := (v.wb (PT_CHSTAT.adr b ch) PT_CHSTAT.PAUSED false).setRun b ch true
      let p : PDesc := ⟨s.ptCur b ch, d, false, if descCheck b d = 0 then none else some (0x90 + descCheck b d), 0⟩
      let t := w.setPchan b ch { w.pchan b ch with desc := some p }
      if descCheck b d = 0 then t else t.descBad b ch (s.ptCur b ch) (0x90 + descCheck b d) 0 := by
  have slot : (s.ptInChain b ch || !s.ptEmpty b ch) = true := by
    rcases waits with h | h <;> simp [h]
  have power : (decide (b < 24) && s.sleep.isSome) = false := by
    rcases awake with h | h <;> simp [h]
  have ready : (s.rb (PT_CHCTL.adr b ch) PT_CHCTL.EN && !s.ptRuns b ch && (s.ptInChain b ch || !s.ptEmpty b ch) &&
      !s.pulseHeld (ptXing b) ch && !(decide (b < 24) && s.sleep.isSome)) = true := by
    rw [enabled, idle, slot, free, power]
    rfl
  unfold descStart
  simp only [ready, read]
  rfl

end

/-! ### Movement -/

/-- A descriptor whose bytes have moved, or failed to: the phase, STATUS and address of the access (R391, R393). -/
def descMoved (p : PDesc) (fail : Option (Nat × Nat × Nat)) : PDesc := match fail with
  | none => { p with moved := true }
  | some e => { p with moved := true, bad := some (0x80 + 16 * e.1 + e.2.1), fail := e.2.2 }

/-- A descriptor that is to move bytes by the RMODE of the command moves them once (R384, R391). -/
theorem descMove_runs {p : PDesc} (desc : (s.pchan b ch).desc = some p) (unmoved : p.moved = false) (good : p.bad = none)
    (some_ : dLen p.bytes ≠ 0) {mode : Nat} (own : dMode p.bytes = mode) (f : State → Nat → List Byte → Moved) :
    s.descMove b ch mode f =
      let r := f s (ptSrc b ch) p.bytes
      r.1.setPchan b ch { r.1.pchan b ch with desc := some (descMoved p r.2) } := by
  have runs : ¬(p.moved = true ∨ p.bad.isSome = true ∨ dLen p.bytes = 0 ∨ dMode p.bytes ≠ mode) := by
    simp [unmoved, good, some_, own]
  simp only [descMove, desc, if_neg runs]
  cases (f s (ptSrc b ch) p.bytes).2 <;> rfl

/-! ### End -/

/-- A pulse goes to the slice of the channel's own region, or of another, to a trigger slot, or from the hub's block to the
Timekeeper (R386, R387). -/
theorem descPulse_eq (s : State) (b ch : Nat) (d : List Byte) : s.descPulse b ch d =
    if (dEvKind d = 1 ∧ b < 24 ∧ dEvReg d = b / 6) ∨ dEvKind d = 3 then (none, s.pulse (ptXing b) ch (dEvIdx d))
    else if dEvKind d = 1 then s.busWrite (ptSrc b ch) (inkDecrAddr (dEvReg d)) (leBytes 4 (dEvIdx d * 2 ^ 14 + 1))
    else if dEvKind d = 2 then (none, s.triggerPulse b (dEvIdx d / 16) (dEvIdx d % 16) 1)
    else (none, s) := by
  unfold descPulse
  split
  case h_1 kind => simp [kind]
  case h_2 kind => simp [kind]
  case h_3 kind => simp [kind]
  case h_4 one two three =>
    have none_ : ¬((dEvKind d = 1 ∧ b < 24 ∧ dEvReg d = b / 6) ∨ dEvKind d = 3) := fun h => h.elim (fun h => one h.1) three
    rw [if_neg none_, if_neg one, if_neg two]

/-- What a BAD that its bytes' movement has found leaves (R390, R391). -/
def descMarked (s : State) (b ch : Nat) (p : PDesc) : State := match p.bad with
  | some x => if p.moved = true then s.descBad b ch p.addr x p.fail else s
  | none => s

/-- A pulse whose write is refused makes the descriptor BAD (R386). -/
def descTold (sent : Option (Nat × Nat) × State) (b ch : Nat) (p : PDesc) : State := match sent.1 with
  | some e => sent.2.descBad b ch p.addr (0xC0 + e.1) e.2
  | none => sent.2

/-- A descriptor that has moved its bytes, or has none to move, sends its pulse, is counted, and gives way (R374, R386, R390). -/
theorem descFinish_eq {p : PDesc} (desc : (s.pchan b ch).desc = some p)
    (done : p.bad.isSome = true ∨ p.moved = true ∨ dLen p.bytes = 0) : s.descFinish b ch =
      let told := descTold (if evTargetOk b p.bytes = false ∨ (p.bad.isSome = true ∧ dHoldBad p.bytes = true)
        then (none, s.descMarked b ch p) else (s.descMarked b ch p).descPulse b ch p.bytes) b ch p
      let w := ((told.setPchan b ch { told.pchan b ch with desc := none }).setRun b ch false).incWrap (PT_DONE.adr b ch) PT_DONE.COUNT 1
      if Sys2Proof.Machine.dNext p.bytes = 0 then w.advanceHead b ch
      else (w.setPtCur b ch (Sys2Proof.Machine.dNext p.bytes)).wb (PT_CHSTAT.adr b ch) PT_CHSTAT.INCHAIN true := by
  have ended : ¬((!p.moved && p.bad.isNone && decide (dLen p.bytes ≠ 0)) = true) := by
    rcases done with h | h | h
    · rw [Option.isNone_eq_false_iff.mpr h, Bool.and_false, Bool.false_and]
      exact Bool.false_ne_true
    · rw [h]
      exact Bool.false_ne_true
    · simp [h]
  unfold descFinish
  rw [desc]
  dsimp only
  rw [if_neg ended]
  by_cases silent : evTargetOk b p.bytes = false ∨ (p.bad.isSome = true ∧ dHoldBad p.bytes = true)
  · simp only [if_pos silent]
    rfl
  · simp only [if_neg silent]
    obtain ⟨addr, bytes, moved, bad, fail⟩ := p
    cases bad <;>
    · dsimp only [descMarked]
      generalize descPulse _ b ch bytes = sent
      obtain ⟨_ | ⟨status, at_⟩, t⟩ := sent <;> rfl

end State

/-! ### The commands -/

section
open State
variable {s : State} {b : BlockId} {ch : Fin 32} (ok : chanOk b ch = true)
include ok

theorem exec_descriptorStart (host : HostData) (awake : b.val = 24 ∨ s.sleep = none) :
    exec (.descriptorStart b ch host) s = .next ((s.hosting host).descStart b ch).calm := by
  have settled : ¬((s.preparing && decide (b.val < 24)) = true) := by
    rcases awake with h | h <;> simp [preparing, h]
  exact (onChan_ok ok _).trans (congrArg _ (if_neg settled))

theorem exec_descMove {host : HostData} {i : Instr} {mode : Nat} {f : State → Nat → List Byte → State.Moved}
    (row : (i, mode, f) ∈ [(Instr.descCopy b ch host, 0, State.moveCopy), (Instr.descInterleave b ch host, 1, State.moveInterleave),
      (Instr.descDeinterleave b ch host, 2, State.moveDeinterleave), (Instr.descWordsToPlanes b ch host, 3, State.movePlanes),
      (Instr.descPlanesToWords b ch host, 4, State.moveWords)]) :
    exec i s = .next ((s.hosting host).descMove b ch mode f).calm := by
  have command : exec i s = onChan b ch ((s.hosting host).descMove b ch mode f).calm := by
    simp only [List.mem_cons, Prod.mk.injEq, List.not_mem_nil, or_false] at row
    rcases row with ⟨rfl, rfl, rfl⟩ | ⟨rfl, rfl, rfl⟩ | ⟨rfl, rfl, rfl⟩ | ⟨rfl, rfl, rfl⟩ | ⟨rfl, rfl, rfl⟩ <;> rfl
  exact command.trans (onChan_ok ok _)

end

open State in
/-- Settles O44: a descriptor's start, movement and end are each the equation of what its channel does; what moves within one line is
one read and one write, and reshuffling loses nothing. -/
theorem porterDescriptorsRun : Obligations.PorterDescriptorsRun := by
  intro s b ch host ok c st cur
  refine ⟨fun enabled idle waits free awake d v read => ?_, fun enabled idle waits free awake e d v read => ?_,
    fun p desc unmoved good some_ i mode f row own => ?_,
    fun d bs v free free' some_ line line' read long => moveCopy_line free some_ line free' line' read long,
    fun v a bs some_ one => mvWrite_one v _ some_ one,
    fun d bs v e free some_ line read => moveCopy_unread free some_ line read,
    fun k m e streams count sized => ⟨fun i hi => deinterleave_interleave count sized hi, fun i hi j hj =>
      take_drop_interleave count sized hi hj⟩,
    fun k n bs hk hn long => ⟨fun x hx q _ => bit_planeOf hk hn bs hx q, wordsOf_planeOf hk hn bs long⟩,
    fun p desc done => ?_⟩
  · have started := descStart_ready (s := s.hosting host) enabled idle waits free awake read
    simp only [Option.isSome_none, Bool.false_eq_true, if_false] at started
    intro w
    refine ⟨fun paused => ?_, fun good goes staged => ?_, fun bad goes => ?_⟩
    · rw [exec_descriptorStart ok host awake, started, if_pos paused]
    · have room : ¬(descCheck b d = 0 ∧ dMode d ≠ 0 ∧ dLen d ≠ 0 ∧ 2 ≤ v.stagingUsed b) := by omega
      rw [exec_descriptorStart ok host awake, started, goes, if_neg Bool.false_ne_true, if_neg room]
      simp only [good, if_true]
      rfl
    · have wrong : ¬(descCheck b d = 0 ∧ dMode d ≠ 0 ∧ dLen d ≠ 0 ∧ 2 ≤ v.stagingUsed b) := fun h => bad h.1
      rw [exec_descriptorStart ok host awake, started, goes, if_neg Bool.false_ne_true, if_neg wrong]
      simp only [if_neg bad]
      rfl
  · have started := descStart_ready (s := s.hosting host) enabled idle waits free awake read
    rw [exec_descriptorStart ok host awake, started, Option.isSome_some, if_pos rfl]
    rfl
  · intro r q
    rw [exec_descMove ok row, descMove_runs (s := s.hosting host) desc unmoved good some_ own]
    rfl
  · intro s1 silent own sent told w
    have pulse : (if evTargetOk b p.bytes = false ∨ (p.bad.isSome = true ∧ dHoldBad p.bytes = true) then (none, s.descMarked b ch p)
        else (s.descMarked b ch p).descPulse b ch p.bytes) = sent := by
      rw [descPulse_eq]
      rfl
    have finished := descFinish_eq desc done
    rw [pulse] at finished
    exact (onChan_ok ok _).trans (congrArg _ finished)

end Sys2Proof.Machine
end

section
/-! One-way delay measurement (R420) and egress posts (R333 to R335). -/

namespace Sys2Proof.Machine

namespace State

variable {s u v w : State} {c : Cmd} {n : Nat}

/-! ### DELAY_MEAS -/

section
variable {k : Carrier} (named : u.carrier c.tgt = some k) (some_ : 1 ≤ c.w 0) (few : c.w 0 ≤ 64) (ethernet : cCat k.words ≠ 3)
include named some_ few ethernet

theorem hDelayMeas_starts (idle : u.delRun c.tgt = none) :
    u.hDelayMeas c = (u.accept c.ticket).setDelRun c.tgt (some ⟨c.ticket, cFhdl0 k.words, c.w 0, [], [], 0⟩) := by
  simp only [hDelayMeas, named, some_, few, cEth, ethernet, ne_eq, not_false_eq_true, decide_true, Bool.and_true, chk_true, idle,
    Option.isNone_none]

theorem hDelayMeas_busy (running : u.delRun c.tgt ≠ none) : u.hDelayMeas c = u.answer c.ticket sBusy [] := by
  simp only [hDelayMeas, named, some_, few, cEth, ethernet, ne_eq, not_false_eq_true, decide_true, Bool.and_true, chk_true,
    Bool.eq_false_iff.mpr (mt Option.isNone_iff_eq_none.mp running), chk_false]

end

theorem hDelayMeas_refused (bad : u.carrier c.tgt = none ∨ c.w 0 = 0 ∨ 64 < c.w 0) : u.hDelayMeas c = u.answer c.ticket sBadParam [] := by
  cases named : u.carrier c.tgt with
  | none => simp only [hDelayMeas, named]
  | some k =>
    have range : (decide (1 ≤ c.w 0) && decide (c.w 0 ≤ 64)) = false := by
      rw [named] at bad
      simp only [reduceCtorEq, false_or] at bad
      simp only [Bool.and_eq_false_iff, decide_eq_false_iff_not]
      omega
    simp only [hDelayMeas, named, range, Bool.false_and, chk_false]

theorem delRun_setDelRun (s : State) (n : Nat) (r : DelayRun) : (s.setDelRun n (some r)).delRun n = some r :=
  sget_sput_of_ne (Option.some_ne_none r)

/-- A Request of the run, its t1 the instant of its launch at the module's lands (R420, R471, R484). -/
theorem delayMeasSend_sends {k : Carrier} {r : DelayRun} (named : s.carrier n = some k) (run : s.delRun n = some r) (left : r.left ≠ 0) :
    let lead := 20000 + (s.draw 12).1
    let q := (s.draw 12).2.draw 3
    let t1 : Int := (s.ext : Int) + lead + (s.capK (16 + r.port)).natAbs
    let y := (q.2.setDelRun n (some { r with left := r.left - 1, wait := r.wait ++ [(r.next, t1)], next := (r.next + 1) % 256 })).delayFrame
      r.port (cRmac k.words) r.next 0 t1
    s.delayMeasSend n = y.2.joinQueue r.port q.1
      ⟨some (wrapTo 32 ((s.tkns : Int) + lead)), none, y.1.length, y.1.length, [⟨y.1, none⟩], false⟩ := by
  simp only [delayMeasSend, named, delSend, run, if_neg left]

/-- A run with a Request to send or a Response to await goes on. -/
theorem delDone_open {r : DelayRun} (run : s.delRun n = some r) (more : r.left ≠ 0 ∨ r.wait ≠ []) : s.delDone n = s := by
  have open_ : r.left ≠ 0 ∨ (!r.wait.isEmpty) = true := more.imp_right fun h => by simpa using h
  simp only [delDone, run, if_pos open_]

/-- A run that no Response answered ends with all ones and a count of 0. -/
theorem delDone_unanswered {r : DelayRun} (run : s.delRun n = some r) (sent : r.left = 0) (none_ : r.wait = []) (lost : r.got = []) :
    s.delDone n = (s.drawn.setDelRun n none).finish r.ticket sOk [0xFFFFFFFF, 0xFFFFFFFF, 0xFFFFFFFF, 0] := by
  have finished : ¬(r.left ≠ 0 ∨ (!r.wait.isEmpty) = true) := by simp [sent, none_]
  simp only [delDone, run, if_neg finished, lost]
  rfl

theorem delayLost_eq {r : DelayRun} (run : s.delRun n = some r) (id : Nat) :
    s.delayLost n id = (s.setDelRun n (some { r with wait := r.wait.filter fun x => x.1 ≠ id })).delDone n := by
  simp only [delayLost, run]

/-! ### Egress posts -/

/-- The fields of a post: the address of its packet, and its queue (R333). -/
def postPkt (post : List Byte) : Nat := fieldAt post 0 6
def postQueue (post : List Byte) : Nat := fieldAt post 6 1

section
variable {post : List Byte} {rest : List (List Byte)} (first : s.egress = post :: rest) (goes : s.egressWaits post = false)
include first goes

/-- The oldest post does not wait, and is taken. -/
theorem egress_find : s.egress.find? (fun post => !s.egressWaits post) = some post ∧ s.egress.erase post = rest := by
  rw [first]
  exact ⟨List.find?_cons_of_pos (by rw [goes]; rfl), List.erase_cons_head post rest⟩

theorem egressPost_far (far : 112 ≤ postQueue post) : s.egressPost = ({ s with egress := rest }).egressDrop post := by
  obtain ⟨taken, left⟩ := egress_find first goes
  unfold postQueue at far
  simp only [egressPost, taken, left, if_neg (show ¬fieldAt post 6 1 < 16 by omega), if_neg (show ¬fieldAt post 6 1 < 112 by omega)]

section
variable {h : List Byte}

theorem egressPost_unread {e : Nat × Nat} (near : postQueue post < 112)
    (read : ({ s with egress := rest } : State).busRead 40 (postPkt post) 16 = (some e, h, v)) : s.egressPost = v.egressDrop post := by
  obtain ⟨taken, left⟩ := egress_find first goes
  unfold postQueue at near
  unfold postPkt at read
  simp only [egressPost, taken, left, read, Option.isSome_some, true_or, if_true, if_pos near, ite_self]

variable (read : ({ s with egress := rest } : State).busRead 40 (postPkt post) 16 = (none, h, v))
include read

theorem egressPost_long (ring : postQueue post < 16) (long : 4092 < fieldAt h 8 2) : s.egressPost = v.egressDrop post := by
  obtain ⟨taken, left⟩ := egress_find first goes
  unfold postQueue at ring
  unfold postPkt at read
  simp only [egressPost, taken, left, if_pos ring, read, long, or_true, if_true]

/-- A packet for a completion ring is its reply (R334). -/
theorem egressPost_reply {b : List Byte} (ring : postQueue post < 16) (fits : fieldAt h 8 2 ≤ 4092)
    (body : v.busRead 40 (postPkt post + 16) (4 * fieldAt h 8 2) = (none, b, w)) :
    s.egressPost = w.postReply (postQueue post) (h ++ b) none := by
  obtain ⟨taken, left⟩ := egress_find first goes
  unfold postQueue at ring ⊢
  unfold postPkt at read body
  simp only [egressPost, taken, left, if_pos ring, read, Nat.not_lt.mpr fits, body, Option.isSome_none, Bool.false_eq_true, or_self, if_false]

/-- A packet for an Ethernet queue is written to a push slot and its transmit entry (R335). -/
theorem egressPost_entry {d : List Byte} (low : 16 ≤ postQueue post) (high : postQueue post < 112) (len : egressLen h = true)
    (body : v.busRead 40 (postPkt post + 64) (fieldAt h 6 2) = (none, d, w)) :
    let p := (postQueue post - 16) / 8
    let k := if (w.ethOf p).egSlot = 14 then 15 else 14
    let x := ((w.setEth p { w.ethOf p with egSlot := k }).busWrite 40 (ethWin p + 16384 * k) d).2
    s.egressPost = (x.busWrite 40 (0x6101000 + 0x10000 * p + 0x10 * ((postQueue post - 16) % 8)) (patch h 4 (leBytes 1 k))).2 := by
  obtain ⟨taken, left⟩ := egress_find first goes
  unfold postQueue at low high ⊢
  unfold postPkt at read body
  simp only [egressPost, taken, left, if_neg (Nat.not_lt.mpr low), if_pos high, read, len, body, Option.isSome_none, Bool.not_true,
    Bool.false_eq_true, or_self, if_false]

end

end

end State

open State in
/-- Settles O39: each packet is the equation of what its handler does, and each other command that of what it does with the run or the
post that it takes. -/
theorem delayMeasurementsAndEgressPostsAct : Obligations.DelayMeasurementsAndEgressPostsAct := by
  refine ⟨fun s p => ⟨fun k => ⟨?_, ?_, fun n r named run left => ?_⟩, ?_, fun n id r inv run => ⟨fun more => ?_, fun sent none_ lost => ?_⟩⟩,
    fun s host post rest first goes => ⟨fun far => ?_, fun h v ring read => ⟨fun long => ?_, fun b w fits body => ?_⟩,
      fun h v e near read => ?_, fun h d v w low high read len body => ?_⟩⟩
  · exact serving_handler hDelayMeas fun u c _ ⟨⟨named, some_, few, ethernet⟩, idle⟩ => hDelayMeas_starts named some_ few ethernet idle
  · exact serving_handler hDelayMeas fun u c _ ⟨⟨named, some_, few, ethernet⟩, running⟩ =>
      hDelayMeas_busy named some_ few ethernet running
  · exact congrArg Host.Outcome.next (delayMeasSend_sends named run left)
  · exact serving_handler hDelayMeas fun u c _ bad => hDelayMeas_refused bad
  · exact congrArg Host.Outcome.next ((delayLost_eq run _).trans (delDone_open (delRun_setDelRun ..) more))
  · exact congrArg Host.Outcome.next ((delayLost_eq run _).trans
      (delDone_unanswered (r := { r with wait := r.wait.filter fun x => x.1 ≠ id.toNat }) (delRun_setDelRun ..) sent none_ lost))
  · exact congrArg (fun t => Host.Outcome.next (calm t)) (egressPost_far (s := s.hosting host) first goes far)
  · exact congrArg (fun t => Host.Outcome.next (calm t)) (egressPost_long (s := s.hosting host) first goes read ring long)
  · exact congrArg (fun t => Host.Outcome.next (calm t)) (egressPost_reply (s := s.hosting host) first goes read ring fits body)
  · exact congrArg (fun t => Host.Outcome.next (calm t)) (egressPost_unread (s := s.hosting host) first goes near read)
  · exact congrArg (fun t => Host.Outcome.next (calm t)) (egressPost_entry (s := s.hosting host) first goes read low high len body)

end Sys2Proof.Machine
end

section
/-! Host accesses and changes of the link (R407), in a state whose register store is not canonical. -/

namespace Sys2Proof.Machine

/-- The link up, and LN_PCIESTAT listed twice with BME set. -/
def strayLink : State :=
  { State.reset with pcieUp := true, regs := [(LN_PCIESTAT.adr, 2 ^ 30), (LN_PCIESTAT.adr, 2 ^ 30)] }

/-- BME as the host clears its controls in `strayLink`: the first entry leaves the store, and the other shows. -/
theorem rb_bme_strayLink : (strayLink.hostConfig false false false false).rb LN_PCIESTAT.adr LN_PCIESTAT.BME = true := by decide +kernel

/-- Refutes O45: in `strayLink`, a write of configuration space that clears Bus Master Enable leaves LN_PCIESTAT.BME set. -/
theorem not_hostAccessesAndLinkChangesAct : ¬ Obligations.HostAccessesAndLinkChangesAct := by
  intro h
  obtain ⟨-, -, config, -⟩ := h strayLink
  obtain ⟨u, next, -, -, -, -, -, clear, -⟩ := config false false false false rfl
  have same : strayLink.hostConfig false false false false = u := Host.Outcome.next.inj next
  rw [← same, rb_bme_strayLink] at clear
  exact Bool.noConfusion clear

end Sys2Proof.Machine
end

section
/-! Where the registers of an Ethernet port lie (R86): each port's registers lie in its block as those of port 0 do in theirs. -/

namespace Sys2Proof.Machine

/-- A row of registers that each of `n` blocks of `size` bytes from `lo` has in its place, or one outside those blocks. -/
def blockRow (lo size n : Nat) (r : RegRow) : Bool :=
  decide (r.dims = (size, n) :: r.dims.tail ∧ lo ≤ r.base ∧ r.base + spanOf r.dims.tail + 4 * r.words ≤ lo + size) ||
    decide (r.base + spanOf r.dims + 4 * r.words ≤ lo) || decide (lo + size * n ≤ r.base)

section
variable {lo size n a b : Nat} (hl : lo ≤ a) (hh : a < lo + size) (hb : b < n)
include hl hh hb

/-- Block `b` has the registers of block 0. -/
theorem at?_block {r : RegRow} (hr : blockRow lo size n r = true) :
    r.at? (a + size * b) = (r.at? a).map fun x => (b :: x.1.tail, x.2) := by
  simp only [blockRow, Bool.or_eq_true, decide_eq_true_iff] at hr
  have last : size * b + size ≤ size * n := Nat.mul_le_mul_left size hb
  rcases hr with (⟨dims, from_, to_⟩ | below) | above
  · have inside {c o : Nat} (hc : c < n) (ho : o < size) : placeIn r.dims r.words (size * c + o) [] = placeIn r.dims.tail r.words o [c] := by
      rw [dims]
      exact placeIn_first (Nat.le_sub_one_of_lt hc) ho _ _
    by_cases before : a < r.base
    · rw [show r.at? a = none from if_pos before, Option.map_none]
      cases b with
      | zero => exact if_pos before
      | succ c =>
        have place : a + size * (c + 1) - r.base = size * c + (a + size - r.base) := by rw [Nat.mul_succ]; omega
        rw [at?_eq_placeIn (by rw [Nat.mul_succ]; omega), place, inside (by omega) (by omega), placeIn_far (by omega)]
    · have place : a + size * b - r.base = size * b + (a - r.base) := by omega
      have first := inside (Nat.zero_lt_of_lt hb) (show a - r.base < size by omega)
      rw [Nat.mul_zero, Nat.zero_add] at first
      rw [at?_eq_placeIn (by omega), at?_eq_placeIn (by omega), place, inside hb (by omega), first, placeIn, placeIn]
      split <;> simp
  · rw [at?_eq_placeIn (by omega), at?_eq_placeIn (by omega), placeIn_far (by omega), placeIn_far (by omega), Option.map_none]
  · rw [show r.at? _ = none from if_pos (by omega), show r.at? a = none from if_pos (by omega), Option.map_none]

theorem regPlace_block (rows : regTable.all (blockRow lo size n) = true) :
    regPlace (a + size * b) = (regPlace a).map fun x => (x.1, x.2.1, b :: x.2.2.1.tail, x.2.2.2) := by
  have find {rows : List RegRow} (good : rows.all (blockRow lo size n) = true) :
      (rows.findSome? fun r => (r.at? (a + size * b)).map fun x => (r, x.1, x.2)) =
        (rows.findSome? fun r => (r.at? a).map fun x => (r, x.1, x.2)).map fun y => (y.1, b :: y.2.1.tail, y.2.2) := by
    induction rows with
    | nil => rfl
    | cons r rows ih =>
      rw [List.all_cons, Bool.and_eq_true] at good
      rw [List.findSome?_cons, List.findSome?_cons, at?_block hl hh hb good.1, ih good.2]
      cases r.at? a <;> rfl
  have found : regFind (a + size * b) = (regFind a).map fun y => (y.1, b :: y.2.1.tail, y.2.2) := find rows
  rw [regPlace, found, regPlace]
  cases regFind a <;> rfl

end

theorem portRow_regTable : regTable.all (blockRow 0x6100000 0x10000 12) = true := by decide +kernel

theorem regPlace_rxgrp_first : ∀ (g : Fin 32) (i : Fin 4), regPlace (LN_RXGRP.adr 0 g + 4 * i) =
    if i.val < 2 then some (.LN_RXGRP, 2, [0, g.val], i.val) else none := by
  decide +kernel

/-- Two words of LN_RXGRP stand every four (R429). -/
theorem regPlace_rxgrp (p : PortId) (g : Fin 32) (i : Fin 4) : regPlace (LN_RXGRP.adr p g + 4 * i) =
    if i.val < 2 then some (.LN_RXGRP, 2, [p.val, g.val], i.val) else none := by
  have place : LN_RXGRP.adr p g + 4 * i = LN_RXGRP.adr 0 g + 4 * i + 0x10000 * p := by unfold LN_RXGRP.adr; omega
  have hg := g.isLt
  have hi := i.isLt
  have low : 0x6100000 ≤ LN_RXGRP.adr 0 g + 4 * i := by unfold LN_RXGRP.adr; omega
  have high : LN_RXGRP.adr 0 g + 4 * i < 0x6100000 + 0x10000 := by unfold LN_RXGRP.adr; omega
  rw [place, regPlace_block low high p.isLt portRow_regTable, regPlace_rxgrp_first]
  split <;> rfl

end Sys2Proof.Machine
end

section
/-! Writes to the block and the data window of an Ethernet port (R86, R641): they reach the port, and act at the port or register that
they name. -/

namespace Sys2Proof.Machine

/-! ### Bytes and fields of a line -/

theorem leVal_append (bs cs : List Byte) : leVal (bs ++ cs) = leVal bs + 256 ^ bs.length * leVal cs := by
  induction bs with
  | nil => simp [leVal]
  | cons b bs ih => rw [List.cons_append, leVal, leVal, ih, List.length_cons, Nat.pow_succ]; ring

/-- A field of a value that stands `k` bits up in a line. -/
theorem bits_shifted (v k o len : Nat) : bits (v * 2 ^ k) (k + o) len = bits v o len := by
  rw [bits, bits, Nat.shiftRight_add, Nat.shiftRight_eq_div_pow (v * 2 ^ k), Nat.mul_div_cancel _ (Nat.two_pow_pos k)]

theorem shiftRight_shifted (v k : Nat) : (v * 2 ^ k) >>> k = v := by
  rw [Nat.shiftRight_eq_div_pow, Nat.mul_div_cancel _ (Nat.two_pow_pos k)]

/-! ### The hub's register window -/

section
variable {a : Nat} (ha : a < 0x10000000)
include ha

theorem memLoc_hubWindow (gib : Nat) : memLoc gib a = none := by
  unfold memLoc
  rw [if_neg (by omega), if_neg (by omega), if_neg (by omega), if_neg (by omega), if_neg (by omega), if_neg (by omega)]

/-- No unit inside an island answers there. -/
theorem unitRefuses_hubWindow (s : State) (src tag : Nat) : s.unitRefuses src tag a = none := by
  have awake : s.unitAsleep a = none := by
    unfold State.unitAsleep
    rw [if_neg (by omega), if_neg (by omega)]
  unfold State.unitRefuses
  rw [awake]
  exact if_neg (by omega)

namespace State

/-- A write to a register or write port of the hub's window has its effect. -/
theorem lineWrite_hubWindow {s : State} {src t : Nat} (target : islandAt s.ddrGiB a = some t) (noSlice : 32 ≤ t) (open_ : s.wayOpen src a)
    (k : WrKind) (en data tag : Nat) : s.drawn.lineWrite src tag a k en data = (stOk, t, s.drawn.devLine src a k en data) := by
  unfold lineWrite
  rw [gate_of_wayOpen open_ target]
  simp only [takeWrite, unitRefuses_hubWindow ha, memLoc_hubWindow ha]
  rw [if_neg (by omega), if_neg (by omega)]

end State

end

/-! ### The block of a port -/

/-- Address of offset `o` in the block of port `p` (spec/11, Registers). -/
def ethBlock (p o : Nat) : Nat := 0x6100000 + 0x10000 * p + o

section
variable {p o : Nat} (hp : p < 12) (ho : o < 0x10000)
include hp ho

theorem islandAt_ethBlock (gib : Nat) : islandAt gib (ethBlock p o / 64 * 64) = some (40 + p) := by
  have window : ethBlock p o / 64 * 64 / 0x1000000 = 6 := by unfold ethBlock; omega
  have block : (ethBlock p o / 64 * 64 % 0x1000000 - 0x100000) / 0x10000 = p := by unfold ethBlock; omega
  have low : ¬ethBlock p o / 64 * 64 % 0x1000000 < 0x2800 := by unfold ethBlock; omega
  have inside : 0x100000 ≤ ethBlock p o / 64 * 64 % 0x1000000 ∧ ethBlock p o / 64 * 64 % 0x1000000 < 0x1C0000 := by
    unfold ethBlock; omega
  unfold islandAt
  rw [if_pos (by unfold ethBlock; omega), hubWinIsland]
  simp only [window, lnIsland, if_neg low, if_pos inside, block]

theorem devLine_ethBlock (s : State) (src : Nat) (k : WrKind) (en data : Nat) :
    s.devLine src (ethBlock p o / 64 * 64) k en data = s.ethLine src p (o / 64 * 64) (ethBlock p o / 64 * 64) en data := by
  have port : (ethBlock p o / 64 * 64 - 0x6100000) / 0x10000 = p := by unfold ethBlock; omega
  have offset : ethBlock p o / 64 * 64 % 0x10000 = o / 64 * 64 := by unfold ethBlock; omega
  have place : 0x6100000 ≤ ethBlock p o / 64 * 64 ∧ ethBlock p o / 64 * 64 < 0x61C0000 := by unfold ethBlock; omega
  unfold State.devLine
  dsimp only
  rw [if_neg (by omega), if_neg (by omega), if_neg (by omega), if_neg (by omega), if_neg (by omega), if_pos place, port, offset]

namespace State

/-- Bytes within a half line of a port's block are one write there (R124). -/
theorem busWrite_ethBlock {s : State} {src : Nat} (open_ : s.wayOpen src (ethBlock p o / 64 * 64)) {bs : List Byte} (some_ : bs ≠ [])
    (half : o % 32 + bs.length ≤ 32) : (s.busWrite src (ethBlock p o) bs).2 = s.drawn.ethLine src p (o / 64 * 64)
      (ethBlock p o / 64 * 64) ((2 ^ bs.length - 1) * 2 ^ (o % 64)) (leVal bs * 2 ^ (8 * (o % 64))) := by
  have line : ethBlock p o - ethBlock p o % 64 = ethBlock p o / 64 * 64 := by omega
  have offset : ethBlock p o % 64 = o % 64 := by unfold ethBlock; omega
  have half' : ethBlock p o % 32 + bs.length ≤ 32 := by unfold ethBlock; omega
  rw [busWrite_line s src _ bs some_ (.inr half'), line, offset]
  simp only [lineWrite_hubWindow (show ethBlock p o / 64 * 64 < 0x10000000 by unfold ethBlock; omega) (islandAt_ethBlock hp ho _)
    (Nat.le_add_right_of_le (by decide)) open_, devLine_ethBlock hp ho]

end State

end

namespace State

variable {s : State} {src p : Nat}

/-! ### Write ports -/

/-- A transmit entry of 16 bytes reaches its queue (R421, R423). -/
theorem busWrite_txEntry (hp : p < 12) {q : Nat} (hq : q < 8) (open_ : s.wayOpen src ((0x6101000 + 0x10000 * p + 0x10 * q) / 64 * 64))
    (entry : BitVec 128) : (s.busWrite src (0x6101000 + 0x10000 * p + 0x10 * q) (leBytes 16 entry.toNat)).2 =
      s.drawn.txEntry p q (leBytes 16 entry.toNat) := by
  have place : 0x6101000 + 0x10000 * p + 0x10 * q = ethBlock p (0x1000 + 0x10 * q) := by unfold ethBlock; omega
  have long : (leBytes 16 entry.toNat).length = 16 := length_leBytes ..
  have value : leVal (leBytes 16 entry.toNat) = entry.toNat := by
    rw [leVal_leBytes]
    exact Nat.mod_eq_of_lt entry.isLt
  have lane : (0x1000 + 0x10 * q) % 64 = 16 * (q % 4) := by omega
  have ports : 0x1000 ≤ (0x1000 + 0x10 * q) / 64 * 64 ∧ (0x1000 + 0x10 * q) / 64 * 64 < 0x1080 := by omega
  have queue : ((0x1000 + 0x10 * q) / 64 * 64 - 0x1000) / 0x10 + q % 4 = q := by omega
  rw [place] at open_ ⊢
  rw [busWrite_ethBlock hp (by omega) open_ (List.ne_nil_of_length_eq_add_one long) (by omega), long, value, lane, ethLine, if_pos ports,
    upto_only (k := q % 4) (by omega) fun i _ hi t => ?_]
  · rw [if_pos (allEn_same (by decide) _), queue, show 8 * (16 * (q % 4)) = 128 * (q % 4) by omega, shiftRight_shifted]
  · have idle := anyEn_other (n := 16) (by decide) (q % 4) hi
    rw [idle, allEn_false_of_anyEn (by decide) idle]
    rfl

/-- An arm of a receive group reaches it (R428). -/
theorem busWrite_rxArm (hp : p < 12) {g : Nat} (hg : g < 31) (open_ : s.wayOpen src ((0x6103000 + 0x10000 * p + 8 * g) / 64 * 64))
    (rt : Word) (app : BitVec 24) : (s.busWrite src (0x6103000 + 0x10000 * p + 8 * g) (leBytes 4 rt.toNat ++ leBytes 4 app.toNat)).2 =
      s.drawn.rxArm p g rt.toNat app.toNat := by
  have place : 0x6103000 + 0x10000 * p + 8 * g = ethBlock p (0x3000 + 8 * g) := by unfold ethBlock; omega
  have long : (leBytes 4 rt.toNat ++ leBytes 4 app.toNat).length = 8 := by rw [List.length_append, length_leBytes, length_leBytes]
  have hrt := rt.isLt
  have happ := app.isLt
  have value : leVal (leBytes 4 rt.toNat ++ leBytes 4 app.toNat) = rt.toNat + 2 ^ 32 * app.toNat := by
    rw [leVal_append, length_leBytes, leVal_leBytes, leVal_leBytes, Nat.mod_eq_of_lt (by omega), Nat.mod_eq_of_lt (by omega)]
    rfl
  have lane : (0x3000 + 8 * g) % 64 = 8 * (g % 8) := by omega
  have ports : 0x3000 ≤ (0x3000 + 8 * g) / 64 * 64 ∧ (0x3000 + 8 * g) / 64 * 64 < 0x3100 := by omega
  have group : ((0x3000 + 8 * g) / 64 * 64 - 0x3000) / 8 + g % 8 = g := by omega
  have time : bits ((rt.toNat + 2 ^ 32 * app.toNat) * 2 ^ (64 * (g % 8))) (64 * (g % 8)) 32 = rt.toNat := by
    rw [bits_mul_two_pow]; omega
  have symbol : bits (rt.toNat + 2 ^ 32 * app.toNat) 32 24 = app.toNat := by
    rw [bits, Nat.shiftRight_eq_div_pow]; omega
  have top : bits (rt.toNat + 2 ^ 32 * app.toNat) 56 8 = 0 := by
    rw [bits, Nat.shiftRight_eq_div_pow]; omega
  rw [place] at open_ ⊢
  rw [busWrite_ethBlock hp (by omega) open_ (List.ne_nil_of_length_eq_add_one long) (by omega), long, value, lane, ethLine,
    if_neg (by omega), if_pos ports, upto_only (k := g % 8) (by omega) fun i _ hi t => ?_]
  · have scale : 8 * (8 * (g % 8)) = 64 * (g % 8) := by omega
    rw [scale]
    simp only [group, bits_shifted, top, symbol, time, allEn_same (n := 8) (by decide), hg, true_and, if_true]
  · have idle := allEn_false_of_anyEn (by decide) (anyEn_other (n := 8) (by decide) (g % 8) hi)
    rw [idle]
    exact if_neg fun h => Bool.noConfusion h.2.1

/-- A consume reaches its group (R431). -/
theorem busWrite_rxConsume (hp : p < 12) {g : Nat} (hg : g < 32) (open_ : s.wayOpen src ((0x6103400 + 0x10000 * p) / 64 * 64)) :
    (s.busWrite src (0x6103400 + 0x10000 * p) (leBytes 4 g)).2 = s.drawn.rxConsume p g := by
  have place : 0x6103400 + 0x10000 * p = ethBlock p 0x3400 := by unfold ethBlock; omega
  have value : leVal (leBytes 4 g) = g := by
    rw [leVal_leBytes]; omega
  have group : bits g 0 5 = g := by rw [bits, Nat.shiftRight_zero]; omega
  have top : bits g 5 27 = 0 := by rw [bits, Nat.shiftRight_eq_div_pow]; omega
  have whole : allEn ((2 ^ 4 - 1) * 2 ^ 0) 0 4 = true := by decide
  rw [place] at open_ ⊢
  rw [busWrite_ethBlock hp (by omega) open_ (List.ne_nil_of_length_eq_add_one (length_leBytes 4 g)) (by rw [length_leBytes]; decide),
    length_leBytes, value, ethLine, if_neg (by omega), if_neg (by omega), if_pos (by decide)]
  simp only [Nat.reduceMod, Nat.mul_zero, Nat.pow_zero, Nat.mul_one] at whole ⊢
  rw [if_pos ⟨whole, top⟩, group]

/-! ### LN_RXGRP -/

/-- A write of a receive group's register reaches it (R429). -/
theorem busWrite_rxGroup {p : PortId} {g : Fin 32} (open_ : s.wayOpen src (LN_RXGRP.adr p g / 64 * 64)) (v : BitVec 64) :
    (s.busWrite src (LN_RXGRP.adr p g) (leBytes 8 v.toNat)).2 = s.drawn.rxGrpWrite p g v.toNat := by
  have hp := p.isLt
  have hg := g.isLt
  have place : LN_RXGRP.adr p g = ethBlock p (0x2000 + 0x10 * g) := by unfold LN_RXGRP.adr ethBlock; omega
  have value : leVal (leBytes 8 v.toNat) = v.toNat := by
    rw [leVal_leBytes]
    exact Nat.mod_eq_of_lt v.isLt
  have here : regPlace (LN_RXGRP.adr p g) = some (.LN_RXGRP, 2, [p.val, g.val], 0) := regPlace_rxgrp p g 0
  obtain ⟨row, found, named, words⟩ := regFind_of_regPlace here
  have word : ethBlock p (0x2000 + 0x10 * g) / 64 * 64 + 4 * (4 * (g % 4)) = LN_RXGRP.adr p g := by
    unfold LN_RXGRP.adr ethBlock; omega
  have apart : ∀ i < 4 * (g.val % 4) + 2, i ≠ 4 * (g.val % 4) →
      ∀ x ∈ regFind (ethBlock p (0x2000 + 0x10 * g) / 64 * 64 + 4 * i), x.2.2 = 0 → i + x.1.words ≤ 4 * (g.val % 4) := by
    intro i hi hij x hx first
    have there := regPlace_rxgrp p ⟨g / 4 * 4 + i / 4, by omega⟩ ⟨i % 4, by omega⟩
    have place' : LN_RXGRP.adr p (⟨g / 4 * 4 + i / 4, by omega⟩ : Fin 32).val + 4 * (⟨i % 4, by omega⟩ : Fin 4).val =
        ethBlock p (0x2000 + 0x10 * g) / 64 * 64 + 4 * i := by
      show 0x6102000 + 0x10000 * p.val + 0x10 * (g.val / 4 * 4 + i / 4) + 4 * (i % 4) = _
      unfold ethBlock
      omega
    rw [place', regPlace, Option.mem_def.mp hx, Option.map_some] at there
    split at there
    · have words' := congrArg (fun y => y.2.1) (Option.some.inj there)
      have first' := congrArg (fun y => y.2.2.2) (Option.some.inj there)
      dsimp only at words' first'
      omega
    · cases there
  have fits : v.toNat < 2 ^ (32 * 2) := v.isLt
  have written := regsLine_register s.drawn src (line := ethBlock p (0x2000 + 0x10 * g) / 64 * 64) (j := 4 * (g.val % 4)) (by omega)
    (by decide) words fits (word.symm ▸ found) apart
  have lane : (0x2000 + 0x10 * g.val) % 64 = 4 * (4 * (g.val % 4)) := by omega
  rw [place] at open_ ⊢
  rw [busWrite_ethBlock hp (by omega) open_ (List.ne_nil_of_length_eq_add_one (length_leBytes 8 _)) (by rw [length_leBytes]; omega),
    length_leBytes, value, lane, ethLine, if_neg (by omega), if_neg (by omega), if_neg (by omega),
    show 8 * (4 * (4 * (g.val % 4))) = 32 * (4 * (g.val % 4)) by omega]
  refine written.trans ?_
  simp only [regWrite, named, words, List.getD_cons_zero, List.getD_cons_succ, mergeMask_pair v.isLt]

end State

end Sys2Proof.Machine
end

section
/-! Receive groups of an Ethernet port (R427 to R432), and the answers of delay measurement (R420). -/

namespace Sys2Proof.Machine

namespace State

variable {s : State} {p g v : Nat} {m : List Byte}

/-! ### LN_RXGRP -/

/-- The register of a group with the fields of `v` in it. -/
def grpStored (s : State) (p g v : Nat) : State :=
  (s.setReg (LN_RXGRP.adr p g) ((v - v % 2 ^ 14) % 2 ^ 32)).setReg (LN_RXGRP.adr p g + 4) (((v - v % 2 ^ 14) >>> 32) &&& 0x83FFFFFF)

theorem rxGrpWrite_eq (s : State) (p g v : Nat) : s.rxGrpWrite p g v =
    if bit v 63 = true ∧ g < 31 ∧ (8 ≤ p ∨ 1048576 < (s.grpStored p g v).rxTotal p g + (s.grpStored p g v).rxBytes p g)
      then s.raise 0x090B (ethSrc p) g 0 0
    else if g < 31 ∧ (!(bit (s.reg (LN_RXGRP.adr p g) + 2 ^ 32 * s.reg (LN_RXGRP.adr p g + 4)) 63 && bit v 63)) = true
      then (s.grpStored p g v).setRxgrp p g RxGrp.reset
    else s.grpStored p g v := rfl

theorem rxEn_eq_bit (s : State) (p g : Nat) :
    s.rxEn p g = bit (s.reg (LN_RXGRP.adr p g) + 2 ^ 32 * s.reg (LN_RXGRP.adr p g + 4)) 63 := by
  have low := s.reg_lt (LN_RXGRP.adr p g)
  have word : (s.reg (LN_RXGRP.adr p g) + 2 ^ 32 * s.reg (LN_RXGRP.adr p g + 4)) / 2 ^ 63 = s.reg (LN_RXGRP.adr p g + 4) / 2 ^ 31 := by
    omega
  rw [bit, Nat.shiftRight_eq_div_pow, word, ← Nat.shiftRight_eq_div_pow]
  rfl

theorem rxGrpWrite_refused (on : bit v 63 = true) (group : g < 31)
    (full : 8 ≤ p ∨ 1048576 < (s.grpStored p g v).rxTotal p g + (s.grpStored p g v).rxBytes p g) :
    s.rxGrpWrite p g v = s.raise 0x090B (ethSrc p) g 0 0 := if_pos ⟨on, group, full⟩

theorem rxGrpWrite_disables (off : bit v 63 = false) :
    s.rxGrpWrite p g v = if g < 31 then (s.grpStored p g v).setRxgrp p g RxGrp.reset else s.grpStored p g v := by
  simp only [rxGrpWrite_eq, off, Bool.false_eq_true, false_and, if_false, Bool.and_false, Bool.not_false, and_true]

theorem rxGrpWrite_general : s.rxGrpWrite p 31 v = s.grpStored p 31 v := by
  simp only [rxGrpWrite_eq, Nat.lt_irrefl, false_and, and_false, if_false]

theorem rxGrpWrite_enables (group : g < 31) (fronthaul : p < 8)
    (fits : (s.grpStored p g v).rxTotal p g + (s.grpStored p g v).rxBytes p g ≤ 1048576) (off : s.rxEn p g = false) :
    s.rxGrpWrite p g v = (s.grpStored p g v).setRxgrp p g RxGrp.reset := by
  rw [rxEn_eq_bit] at off
  rw [rxGrpWrite_eq, off, if_neg (by omega), if_pos ⟨group, rfl⟩]

/-! ### Arms and consumes -/

section
variable {rt app : Nat}

/-- The block that an arm makes of the next place of the ring (R428). -/
def armed (s : State) (rt app : Nat) : RxBlock := ⟨app, (s.cyc : Int) + sgn 32 (rt + 2 ^ 32 - s.tkns), [], 0, 0⟩

theorem rxArm_free (free : ∀ x, sget (s.rxgrp p g).blocks (s.rxgrp p g).next none = some x → x.st = 2) :
    s.rxArm p g rt app = s.setRxgrp p g { s.rxgrp p g with
      blocks := sput (s.rxgrp p g).blocks (s.rxgrp p g).next (some (s.armed rt app)) none,
      next := ((s.rxgrp p g).next + 1) % s.rxNblk p g } := by
  unfold rxArm
  dsimp only
  generalize sget (s.rxgrp p g).blocks (s.rxgrp p g).next none = block at free
  cases block with
  | none => rfl
  | some x =>
    simp only [free x rfl, decide_true, Bool.not_true, Bool.false_eq_true, if_false]
    rfl

theorem rxArm_taken {x : RxBlock} (block : sget (s.rxgrp p g).blocks (s.rxgrp p g).next none = some x) (kept : x.st ≠ 2) :
    s.rxArm p g rt app = s.raise 0x0909 (ethSrc p) g app 0 := by
  simp only [rxArm, block, kept, decide_false, Bool.not_false, if_true]

end

theorem rxConsume_general (s : State) (p : Nat) :
    s.rxConsume p 31 = s.setEth p { s.ethOf p with general := (s.ethOf p).general.drop 1 } := if_pos rfl

section
variable (group : g < 31)
include group

theorem rxConsume_none (none_ : s.rxOldest p g = none) : s.rxConsume p g = s := by
  simp only [rxConsume, if_neg (Nat.ne_of_lt group), none_]

theorem rxConsume_oldest {i : Nat} {b : RxBlock} (oldest : s.rxOldest p g = some (i, b)) : s.rxConsume p g = s.setRxgrp p g
    { s.rxgrp p g with blocks := sput (s.rxgrp p g).blocks i (some { b with st := 2, prbs := [] }) none } := by
  simp only [rxConsume, if_neg (Nat.ne_of_lt group), oldest]

end

/-! ### Type 0 messages -/

/-- The sequence of a message's PC_ID and direction moves on, and a gap in it is counted (R415). -/
def seqCounted (s : State) (p : Nat) (m : List Byte) : State :=
  let key := beVal ((m.drop 4).take 2) + 65536 * bits (fieldAt m 8 1) 7 1
  (s.setEth p { s.ethOf p with seqRx := sput (s.ethOf p).seqRx key (some ((fieldAt m 6 1 + 1) % 256)) none }).lnCount p 8
    (match sget (s.ethOf p).seqRx key none with
      | some e => b2n (decide (fieldAt m 6 1 ≠ e))
      | none => 0)

theorem seqCheckRx_marked (marked : bit (fieldAt m 7 1) 7 = true) : s.seqCheckRx p m = (true, s.seqCounted p m) := by
  unfold seqCheckRx seqCounted
  simp only [marked, Bool.not_true, Bool.false_eq_true, if_false]
  cases sget (s.ethOf p).seqRx (beVal ((m.drop 4).take 2) + 65536 * bits (fieldAt m 8 1) 7 1) none <;> rfl

theorem iqReceive_unmarked (unmarked : bit (fieldAt m 7 1) 7 = false) : s.iqReceive p m = s.lnCount p 8 1 := by
  simp only [iqReceive, seqCheckRx, unmarked, Bool.not_false, if_true]

/-- Whether entry `i` of a port's table is for PC_ID `id` (R427). -/
def pcEntry (s : State) (p id i : Nat) : Bool :=
  s.rb (LN_RXPC.adr p i) LN_RXPC.VALID && s.rf (LN_RXPC.adr p i) LN_RXPC.PCID = id

theorem iqReceive_unknown (marked : bit (fieldAt m 7 1) 7 = true)
    (unknown : (List.range 256).find? ((s.seqCounted p m).pcEntry p (beVal ((m.drop 4).take 2))) = none) :
    s.iqReceive p m = (s.seqCounted p m).lnCount p 9 1 := by
  unfold pcEntry at unknown
  simp only [iqReceive, seqCheckRx_marked marked, Bool.not_true, Bool.false_eq_true, if_false, unknown]

/-- PRB `x` of a stream stands at its place in the block: later copies stand (R429). -/
theorem placePrbs_prbs (b : RxBlock) (nprb stream : Nat) (ps : List (Nat × List Byte)) : (placePrbs b nprb stream ps).1.prbs =
    ps.foldl (fun x q => sput x (stream * nprb + q.1) q.2 []) b.prbs :=
  (List.foldl_hom (fun r : RxBlock × Nat => r.1.prbs) fun _ _ => rfl).symm

theorem placePrbs_frame (b : RxBlock) (nprb stream : Nat) (ps : List (Nat × List Byte)) :
    (placePrbs b nprb stream ps).1 = { b with prbs := (placePrbs b nprb stream ps).1.prbs } :=
  List.foldlRecOn (motive := fun r : RxBlock × Nat => r.1 = { b with prbs := r.1.prbs }) ps _ rfl fun r same x _ => by
    rw [same]

theorem foldl_msgPrbs (w start n nprb stream : Nat) (m : List Byte) (prbs : Sparse (List Byte)) :
    (msgPrbs w start n (m.drop 20)).foldl (fun x q => sput x (stream * nprb + q.1) q.2 []) prbs =
      (List.range n).foldl (fun x k => sput x (stream * nprb + (start + k)) ((m.drop (20 + k * prbSize w)).take (prbSize w)) []) prbs := by
  simp only [msgPrbs, List.foldl_map, List.drop_drop, Nat.mul_comm (prbSize w)]

/-- Whether a block is armed for the symbol `app`. -/
def armedFor (app : Nat) (e : Nat × Option RxBlock) : Bool := match e.2 with
  | some b => b.app = app && decide (b.st = 0)
  | none => false

/-- A message for an armed block puts its PRBs there, and counts those that were there before (R427, R429). -/
theorem iqReceive_placed (marked : bit (fieldAt m 7 1) 7 = true) {i j : Nat} {b : RxBlock}
    (known : (List.range 256).find? ((s.seqCounted p m).pcEntry p (beVal ((m.drop 4).take 2))) = some i) :
    let v := s.seqCounted p m
    let start := beVal ((m.drop 14).take 2) / 64
    let n := beVal ((m.drop 16).take 2) / 64
    let w := fieldAt m 18 1
    let g := v.rf (LN_RXPC.adr p i) LN_RXPC.GROUP
    let pos := v.rf (LN_RXPC.adr p i) LN_RXPC.POS
    v.rxEn p g = true → pos < v.rxNs p g → w = v.rxCompw p g → start + n ≤ v.rxNprb p g → n ≠ 0 → 20 + n * prbSize w ≤ m.length →
      (v.rxgrp p g).blocks.find? (armedFor (fieldAt m 8 3)) = some (j, some b) →
      let r := placePrbs b (v.rxNprb p g) pos (msgPrbs w start n (m.drop 20))
      s.iqReceive p m =
        (v.setRxgrp p g { v.rxgrp p g with blocks := sput (v.rxgrp p g).blocks j (some r.1) none }).lnCount p 10 r.2 := by
  intro v start n w g pos on inside width fits some_ long block r
  unfold pcEntry at known
  have good : ¬((!v.rxEn p g) = true ∨ v.rxNs p g ≤ pos ∨ w ≠ v.rxCompw p g ∨ v.rxNprb p g < start + n ∨ n = 0 ∨
      m.length < 20 + n * prbSize w) := by
    simp only [on, Bool.not_true, Bool.false_eq_true, false_or, ne_eq, eq_true width, not_true]
    omega
  unfold iqReceive
  simp only [seqCheckRx_marked marked, Bool.not_true, Bool.false_eq_true, if_false, known]
  refine (if_neg good).trans ?_
  generalize hx : List.find? _ _ = x
  obtain rfl : x = some (j, some b) := hx.symm.trans block
  rfl

/-! ### Release -/

/-- Whether a block is armed, and complete or due (R430). -/
def ripe (s : State) (p g : Nat) (e : Nat × Option RxBlock) : Bool := match e.2 with
  | some b => b.st = 0 && (b.prbs.length = s.rxNs p g * s.rxNprb p g || decide (b.rt ≤ (s.cyc : Int)))
  | none => false

/-- The first ripe block is released, with its status and, where PRBs are missing, its event (R430). -/
theorem rxRelease_ripe {i : Nat} {b : RxBlock} (first : (s.rxgrp p g).blocks.find? (s.ripe p g) = some (i, some b)) :
    let missing := s.rxNs p g * s.rxNprb p g - b.prbs.length
    let v := s.setRxgrp p g { s.rxgrp p g with
      blocks := sput (s.rxgrp p g).blocks i (some { b with st := 1, order := (s.rxgrp p g).orders }) none,
      orders := (s.rxgrp p g).orders + 1 }
    let st := LN_RXBST.adr p g
    let w := ((v.wb st LN_RXBST.TIMED (missing ≠ 0)).wf st LN_RXBST.MISSING missing).wf st LN_RXBST.SYMID (b.app / 256)
    let x := w.releasePulse (40 + p) (w.rf (LN_RXGRP.adr p g) LN_RXGRP.CHAN)
    s.rxRelease p g = if missing = 0 then x else x.raise 0x090A (ethSrc p) g (b.app / 256) missing := by
  unfold rxRelease
  dsimp only
  generalize hx : List.find? _ _ = x
  obtain rfl : x = some (i, some b) := hx.symm.trans first
  rfl

/-! ### Delay measurement -/

/-- A Request with the capture of its arrival is answered (R420). -/
theorem delayRequest_answered {seq smac : Nat} {t : Int} {v : State} (fronthaul : p < 8) (up : s.ethUp p = true)
    (request : fieldAt m 5 1 = 0) (capture : s.takeCapture p seq = (some t, v)) :
    let f := v.delayFrame p smac (fieldAt m 4 1) 2 t
    s.delayRequest p seq smac m = (f.2.lineSend p f.1 false).lnCount p 0 1 := by
  have good : ¬(8 ≤ p ∨ (!s.ethUp p) = true ∨ fieldAt m 5 1 ≠ 0) := by
    simp only [up, request, Bool.not_true, Bool.false_eq_true, ne_eq, not_true, or_false]
    omega
  simp only [delayRequest, if_neg good, capture]

/-- A Response to a Request of a run that has more to send is counted (R420). -/
theorem delayResponse_counted {n id : Nat} {r : DelayRun} {t1 : Int} (run : s.delRun n = some r) (response : fieldAt m 5 1 = 2)
    (same : id = fieldAt m 4 1) (awaited : r.wait.find? (fun w => w.1 = id) = some (id, t1)) (left : 0 < r.left) :
    s.delayResponse n m = s.setDelRun n (some { r with
      wait := r.wait.filter fun w => w.1 ≠ id,
      got := r.got ++ [stampVal ((m.drop 6).take 10) - t1 - sgn 64 (beVal ((m.drop 16).take 8)) / 65536] }) := by
  subst same
  simp only [delayResponse, run, response, ne_eq, not_true, if_false, awaited]
  exact delDone_open (delRun_setDelRun ..) (.inl (Nat.ne_of_gt left))

end State

open State in
/-- Settles O47: each write reaches its group, and each command is the equation of what it does with the group or the run. -/
theorem receiveGroupsSortAndRelease : Obligations.ReceiveGroupsSortAndRelease := by
  intro s p inv
  have hp := p.isLt
  refine ⟨fun src g v open_ => ?_, fun src g rt app open_ => ?_, fun m fronthaul up unmarked => ?_, fun m fronthaul up marked => ?_,
    fun g i b first => congrArg Host.Outcome.next (rxRelease_ripe first), fun src g open_ => ?_,
    fun seq smac m t v fronthaul up request capture => congrArg Host.Outcome.next (delayRequest_answered fronthaul up request capture),
    fun n m r id t1 run response same awaited left =>
      congrArg Host.Outcome.next (delayResponse_counted run response same awaited left)⟩
  · have written : exec (.rxGroupWrite src p g v) s = .next (s.drawn.rxGrpWrite p g v.toNat) :=
      congrArg Host.Outcome.next (busWrite_rxGroup open_ v)
    rw [written]
    exact ⟨fun on group full => congrArg _ (rxGrpWrite_refused on group full), fun off => congrArg _ (rxGrpWrite_disables off),
      fun general => congrArg _ (general.symm ▸ rxGrpWrite_general),
      fun _ group fronthaul fits off => congrArg _ (rxGrpWrite_enables group fronthaul fits off)⟩
  · have written : exec (.rxArm src p g rt app) s = .next (s.drawn.rxArm p g rt.toNat app.toNat) :=
      congrArg Host.Outcome.next (busWrite_rxArm hp g.isLt open_ rt app)
    rw [written]
    exact ⟨fun free => congrArg _ (rxArm_free (s := s.drawn) free), fun x block kept => congrArg _ (rxArm_taken (s := s.drawn) block kept)⟩
  · have takes : exec (.ecpriIqReceive p m) s = .next (s.iqReceive p m) :=
      congrArg Host.Outcome.next (if_pos (by simp [fronthaul, up]))
    exact takes.trans (congrArg _ (iqReceive_unmarked unmarked))
  · have takes : exec (.ecpriIqReceive p m) s = .next (s.iqReceive p m) :=
      congrArg Host.Outcome.next (if_pos (by simp [fronthaul, up]))
    refine ⟨fun i known j b on inside width fits some_ long block => ?_, fun unknown => ?_⟩
    · have placed := iqReceive_placed marked known on inside width fits some_ long block
      exact ⟨_, _, (placePrbs_prbs ..).trans (foldl_msgPrbs ..), placePrbs_frame .., takes.trans (congrArg _ placed)⟩
    · exact takes.trans (congrArg _ (iqReceive_unknown marked unknown))
  · have written : exec (.rxConsume src p g) s = .next (s.drawn.rxConsume p g) :=
      congrArg Host.Outcome.next (busWrite_rxConsume hp g.isLt open_)
    rw [written]
    exact ⟨fun general => congrArg _ (general.symm ▸ rxConsume_general s.drawn p),
      fun group none_ => congrArg _ (rxConsume_none (s := s.drawn) group none_),
      fun i b group oldest => congrArg _ (rxConsume_oldest (s := s.drawn) group oldest)⟩

end Sys2Proof.Machine
end

section
/-! Links of an Ethernet port (R398, R412, R413): the registers of its lanes and its own status as they lock, and as the link goes
down. -/

namespace Sys2Proof.Machine

namespace State

variable {s u v : State} {p l k : Nat}

/-! ### What the news of a link leaves -/

/-- From `s` to `u`, memory, the Ethernet ports and every register but GB_EVLOST are as before, and what was sent stays sent. -/
structure Announces (s u : State) : Prop where
  mem : u.mem = s.mem
  eth : u.eth = s.eth
  sent : ∀ o ∈ s.out, o ∈ u.out
  kept : ∀ k, k ≠ GB_EVLOST.adr → u.reg k = s.reg k

theorem Announces.refl (s : State) : Announces s s := ⟨rfl, rfl, fun _ h => h, fun _ _ => rfl⟩

theorem Announces.trans (h : Announces s u) (g : Announces u v) : Announces s v :=
  ⟨g.mem.trans h.mem, g.eth.trans h.eth, fun o ho => g.sent o (h.sent o ho), fun k hk => (g.kept k hk).trans (h.kept k hk)⟩

theorem Announces.raise (s : State) (code src p1 p2 p3 : Nat) : Announces s (s.raise code src p1 p2 p3) := by
  have told : Signals (· ≠ GB_EVLOST.adr) s (s.raise code src p1 p2 p3) := .raise _ _ _ _ _ fun h => h rfl
  exact ⟨mem_of_signals told, by rw [told.frame], fun o ho => by rwa [out_of_signals told], told.kept⟩

/-- SYNCE_OUT `o` follows `new`: its pin and its event (R494). -/
theorem Announces.synceOut (s : State) (o : Nat) (new : Option Nat) : Announces s (if new = s.synce.getD o none then s
    else (({ s with synce := lset s.synce o new } : State).emit (.pin (5 + o) new.isSome)).raise 0x0B05 902 o
      ((new.orElse fun _ => s.synce.getD o none).getD 0) (b2n new.isSome)) := by
  split
  · exact .refl s
  · refine Announces.trans (u := ({ s with synce := lset s.synce o new } : State).emit (.pin (5 + o) new.isSome)) ?_ (.raise ..)
    exact ⟨rfl, rfl, fun _ h => List.mem_cons_of_mem _ h, fun _ _ => rfl⟩

theorem Announces.synceSync (s : State) : Announces s s.synceSync := by
  unfold State.synceSync upto
  exact List.foldlRecOn (motive := Announces s) (List.range 2) _ (.refl s) fun u told o _ => told.trans (.synceOut u o _)

/-! ### A lane that locks -/

/-- The CTLE setting of a lane that has adapted to `c` (R398). -/
def laneCtle (s : State) (l c : Nat) : Nat :=
  if s.rb (LN_LANECFG.adr l) LN_LANECFG.AUTO then c else s.rf (LN_LANECFG.adr l) LN_LANECFG.CTLE

/-- Lane `l` has a signal, has locked and uses the CTLE setting `c`, or that of its register. -/
def laneLocked (s : State) (l c : Nat) : State :=
  ((s.wb (LN_LANESTAT.adr l) LN_LANESTAT.SIGDET true).wb (LN_LANESTAT.adr l) LN_LANESTAT.LOCK true).wf (LN_LANESTAT.adr l)
    LN_LANESTAT.CTLEACT (s.laneCtle l c)

theorem laneCtle_lt (s : State) (l : Nat) {c : Nat} (hc : c < 16) : s.laneCtle l c < 16 := by
  unfold laneCtle
  split
  · exact hc
  · rw [rf_word (by decide) (by decide)]
    exact bits_lt _ _ 4

theorem laneCtle_congr (cfg : u.reg (LN_LANECFG.adr l) = s.reg (LN_LANECFG.adr l)) (c : Nat) : u.laneCtle l c = s.laneCtle l c := by
  rw [laneCtle, laneCtle, rb_eq_of_reg (by decide) (by decide) cfg, rf_eq_of_reg (by decide) (by decide) cfg]

theorem Inv.laneLocked (inv : s.Inv) (l c : Nat) : (s.laneLocked l c).Inv := ((inv.wf _ _ _).wf _ _ _).wf _ _ _

theorem laneLocked_frame (s : State) (l c : Nat) : ∃ regs, s.laneLocked l c = { s with regs := regs } := by
  obtain ⟨r1, h1⟩ := wf_frame s (LN_LANESTAT.adr l) LN_LANESTAT.SIGDET (b2n true)
  obtain ⟨r2, h2⟩ := wf_frame { s with regs := r1 } (LN_LANESTAT.adr l) LN_LANESTAT.LOCK (b2n true)
  obtain ⟨r3, h3⟩ := wf_frame { s with regs := r2 } (LN_LANESTAT.adr l) LN_LANESTAT.CTLEACT (s.laneCtle l c)
  exact ⟨r3, by rw [laneLocked, wb, wb, h1, h2]; exact h3⟩

theorem reg_laneLocked_ne (s : State) (c : Nat) (other : k ≠ LN_LANESTAT.adr l) : (s.laneLocked l c).reg k = s.reg k := by
  rw [laneLocked, reg_wf_ne _ _ (by decide) (by decide) other, wb, reg_wf_ne _ _ (by decide) (by decide) other, wb,
    reg_wf_ne _ _ (by decide) (by decide) other]

/-- LN_LANESTAT of a lane shows its lock, and the CTLE setting in use. -/
def ShowsLock (s : State) (l c : Nat) : Prop :=
  s.rb (LN_LANESTAT.adr l) LN_LANESTAT.LOCK = true ∧ s.rf (LN_LANESTAT.adr l) LN_LANESTAT.CTLEACT = c

theorem ShowsLock.congr {c : Nat} (h : s.ShowsLock l c) (same : u.reg (LN_LANESTAT.adr l) = s.reg (LN_LANESTAT.adr l)) : u.ShowsLock l c :=
  ⟨(rb_eq_of_reg (by decide) (by decide) same).trans h.1, (rf_eq_of_reg (by decide) (by decide) same).trans h.2⟩

theorem laneLocked_shows (inv : s.Inv) (l : Nat) {c : Nat} (hc : c < 16) : (s.laneLocked l c).ShowsLock l (s.laneCtle l c) := by
  have inv1 := inv.wf (LN_LANESTAT.adr l) LN_LANESTAT.SIGDET (b2n true)
  have inv2 := inv1.wf (LN_LANESTAT.adr l) LN_LANESTAT.LOCK (b2n true)
  have word : (s.laneLocked l c).reg (LN_LANESTAT.adr l) =
      setBits (setBits (setBits (s.reg (LN_LANESTAT.adr l)) 31 1 1) 30 1 1) 26 4 (s.laneCtle l c) := by
    rw [laneLocked, wb, wb, reg_wf_same inv2.regs (by decide) (by decide), reg_wf_same inv1.regs (by decide) (by decide),
      reg_wf_same inv.regs (by decide) (by decide)]
    rfl
  constructor
  · have lock : (s.laneLocked l c).rf (LN_LANESTAT.adr l) LN_LANESTAT.LOCK = 1 := by
      rw [rf_word (by decide) (by decide), word]
      exact (bits_setBits_above (by decide)).trans (bits_setBits_same ..)
    rw [rb, lock]
    rfl
  · rw [rf_word (by decide) (by decide), word]
    exact (bits_setBits_same ..).trans (Nat.mod_eq_of_lt (laneCtle_lt s l hc))

/-! ### The registers of a port and of its lanes -/

theorem laneStat_ne (p i : Nat) : LN_LANESTAT.adr (portLane p + i) ≠ LN_PORTSTAT.adr p ∧
    LN_LANESTAT.adr (portLane p + i) ≠ GB_EVLOST.adr := by
  simp only [LN_LANESTAT.adr, LN_PORTSTAT.adr, GB_EVLOST.adr, portLane]
  omega

theorem portCfg_ne (p : Nat) : LN_PORTCFG.adr p ≠ LN_PORTSTAT.adr p ∧ ∀ i < 2, LN_PORTCFG.adr p ≠ LN_LANESTAT.adr (portLane p + i) := by
  simp only [LN_LANESTAT.adr, LN_PORTSTAT.adr, LN_PORTCFG.adr, portLane]
  refine ⟨?_, fun i hi => ?_⟩ <;> omega

theorem portStat_ne (hp : p < 12) : LN_PORTSTAT.adr p ≠ GB_EVLOST.adr ∧ ∀ i < 2, LN_PORTSTAT.adr p ≠ LN_LANESTAT.adr (portLane p + i) := by
  simp only [LN_LANESTAT.adr, LN_PORTSTAT.adr, GB_EVLOST.adr, portLane]
  refine ⟨?_, fun i hi => ?_⟩ <;> omega

theorem laneCfg_ne (l l' : Nat) : LN_LANECFG.adr l ≠ LN_LANESTAT.adr l' := by
  simp only [LN_LANECFG.adr, LN_LANESTAT.adr]
  omega

theorem laneStat_inj {l l' : Nat} (h : l ≠ l') : LN_LANESTAT.adr l ≠ LN_LANESTAT.adr l' := by
  simp only [LN_LANESTAT.adr]
  omega

/-! ### Markers -/

section
variable (s : State) (p : Nat)

theorem sendMarkers_plain (plain : p < 8 ∨ s.rb (LN_PORTCFG.adr p) LN_PORTCFG.IML = false) : s.sendMarkers p = s :=
  if_pos (plain.imp_right fun h => by rw [h]; rfl)

theorem sendMarkers_frame : ∃ eth out, s.sendMarkers p = { s with eth := eth, out := out } := by
  unfold sendMarkers
  split
  · exact ⟨s.eth, s.out, rfl⟩
  · exact ⟨_, _, rfl⟩

theorem Inv.sendMarkers {s : State} (inv : s.Inv) (p : Nat) : (s.sendMarkers p).Inv := (sendMarkers_keeps p (Keeps.refl s)).inv inv

/-- Each lane of an inter-module link sends its marker (R413). -/
theorem sendMarkers_out (high : 8 ≤ p) (iml : s.rb (LN_PORTCFG.adr p) LN_PORTCFG.IML = true) : (s.sendMarkers p).out =
    .laneMarker (portLane p + 1) s.modid p (s.ethOf p).marks :: .laneMarker (portLane p) s.modid p (s.ethOf p).marks :: s.out := by
  unfold sendMarkers
  rw [if_neg (by rw [iml]; simpa using high)]
  rfl

end

/-! ### The link comes up -/

section
variable (s : State) (p c0 c1 peer pport : Nat)

/-- Both lanes of a port have locked, and send their markers. -/
def linkLanes (s : State) (p c0 c1 : Nat) : State := (s.laneLocked (portLane p + 0) c0).laneLocked (portLane p + 1) c1

/-- An inter-module link has read the number and the port of its peer. -/
def linkPeered (s : State) (p c0 c1 peer pport : Nat) : State :=
  let t := (s.linkLanes p c0 c1).sendMarkers p
  if 8 ≤ p ∧ t.rb (LN_PORTCFG.adr p) LN_PORTCFG.IML = true
  then (t.wf (LN_PORTSTAT.adr p) LN_PORTSTAT.PMODID peer).wf (LN_PORTSTAT.adr p) LN_PORTSTAT.PPORT pport else t

theorem ethLinkUp_eq (enabled : s.rb (LN_PORTCFG.adr p) LN_PORTCFG.EN = true) (down : s.ethUp p = false) :
    let t := s.linkPeered p c0 c1 peer pport
    let act (i : Nat) := t.rf (LN_LANESTAT.adr (portLane p + i)) LN_LANESTAT.CTLEACT
    s.ethLinkUp p c0 c1 peer pport = if t.peerBad p = true
      then (t.wb (LN_PORTSTAT.adr p) LN_PORTSTAT.PEERBAD true).raise 0x0903 (ethSrc p) (peer % 16) (pport % 16) 0
      else (((t.wb (LN_PORTSTAT.adr p) LN_PORTSTAT.PEERBAD false).wb (LN_PORTSTAT.adr p) LN_PORTSTAT.UP true).raise 0x0901 (ethSrc p)
        (act 0) (act 1) 0).synceSync :=
  if_neg (by rw [enabled, down]; simp)

theorem linkLanes_frame : ∃ regs, s.linkLanes p c0 c1 = { s with regs := regs } := by
  obtain ⟨r1, h1⟩ := laneLocked_frame s (portLane p + 0) c0
  obtain ⟨r2, h2⟩ := laneLocked_frame { s with regs := r1 } (portLane p + 1) c1
  exact ⟨r2, by rw [linkLanes, h1, h2]⟩

variable {s p c0 c1 peer pport}

theorem Inv.linkLanes (inv : s.Inv) : (s.linkLanes p c0 c1).Inv := (inv.laneLocked _ _).laneLocked _ _

theorem reg_linkLanes_ne (other : ∀ i < 2, k ≠ LN_LANESTAT.adr (portLane p + i)) : (s.linkLanes p c0 c1).reg k = s.reg k :=
  (reg_laneLocked_ne _ _ (other 1 (by decide))).trans (reg_laneLocked_ne _ _ (other 0 (by decide)))

theorem linkLanes_shows (inv : s.Inv) (h0 : c0 < 16) (h1 : c1 < 16) {i : Nat} (hi : i < 2) :
    (s.linkLanes p c0 c1).ShowsLock (portLane p + i) (s.laneCtle (portLane p + i) (if i = 0 then c0 else c1)) := by
  rcases (show i = 0 ∨ i = 1 by omega) with rfl | rfl
  · exact (laneLocked_shows inv _ h0).congr (reg_laneLocked_ne _ _ (laneStat_inj (by omega)))
  · have second := laneLocked_shows (inv.laneLocked (portLane p + 0) c0) (portLane p + 1) h1
    rwa [laneCtle_congr (reg_laneLocked_ne s c0 (laneCfg_ne _ _))] at second

theorem reg_sendMarkers (s : State) (p k : Nat) : (s.sendMarkers p).reg k = s.reg k := by
  obtain ⟨eth, out, h⟩ := sendMarkers_frame s p
  rw [h]
  rfl

/-- The writes of the peer's number reach LN_PORTSTAT alone. -/
theorem reg_linkPeered_ne (other : k ≠ LN_PORTSTAT.adr p) : (s.linkPeered p c0 c1 peer pport).reg k = (s.linkLanes p c0 c1).reg k := by
  unfold linkPeered
  dsimp only
  split
  · rw [reg_wf_ne _ _ (by decide) (by decide) other, reg_wf_ne _ _ (by decide) (by decide) other, reg_sendMarkers]
  · exact reg_sendMarkers ..

theorem Inv.linkPeered (inv : s.Inv) : (s.linkPeered p c0 c1 peer pport).Inv := by
  have trained := (inv.linkLanes (p := p) (c0 := c0) (c1 := c1)).sendMarkers p
  unfold State.linkPeered
  dsimp only
  split
  · exact (trained.wf _ _ _).wf _ _ _
  · exact trained

theorem linkPeered_frame (s : State) (p c0 c1 peer pport : Nat) : (s.linkPeered p c0 c1 peer pport).mem = s.mem ∧
    (s.linkPeered p c0 c1 peer pport).eth = ((s.linkLanes p c0 c1).sendMarkers p).eth ∧
    (s.linkPeered p c0 c1 peer pport).out = ((s.linkLanes p c0 c1).sendMarkers p).out := by
  have memory : ((s.linkLanes p c0 c1).sendMarkers p).mem = s.mem := by
    obtain ⟨regs, h⟩ := linkLanes_frame s p c0 c1
    obtain ⟨eth, out, g⟩ := sendMarkers_frame (s.linkLanes p c0 c1) p
    rw [g, h]
  unfold linkPeered
  dsimp only
  split
  · exact ⟨by rw [wf_mem, wf_mem, memory], by rw [wf_eth, wf_eth], by rw [wf_out, wf_out]⟩
  · exact ⟨memory, rfl, rfl⟩

theorem iml_linkLanes : (s.linkLanes p c0 c1).rb (LN_PORTCFG.adr p) LN_PORTCFG.IML = s.rb (LN_PORTCFG.adr p) LN_PORTCFG.IML :=
  rb_eq_of_reg (by decide) (by decide) (reg_linkLanes_ne (portCfg_ne p).2)

theorem portCfg_linkPeered : (s.linkPeered p c0 c1 peer pport).reg (LN_PORTCFG.adr p) = s.reg (LN_PORTCFG.adr p) :=
  (reg_linkPeered_ne (portCfg_ne p).1).trans (reg_linkLanes_ne (portCfg_ne p).2)

theorem linkPeered_eth (plain : p < 8 ∨ s.rb (LN_PORTCFG.adr p) LN_PORTCFG.IML = false) :
    (s.linkPeered p c0 c1 peer pport).eth = s.eth := by
  obtain ⟨-, eth, -⟩ := linkPeered_frame s p c0 c1 peer pport
  rw [eth, sendMarkers_plain _ _ (plain.imp_right (iml_linkLanes).trans)]
  obtain ⟨regs, h⟩ := linkLanes_frame s p c0 c1
  rw [h]

theorem linkPeered_markers (high : 8 ≤ p) (iml : s.rb (LN_PORTCFG.adr p) LN_PORTCFG.IML = true)
    {i : Nat} (hi : i < 2) : Out.laneMarker (portLane p + i) s.modid p (s.ethOf p).marks ∈ (s.linkPeered p c0 c1 peer pport).out := by
  obtain ⟨-, -, out⟩ := linkPeered_frame s p c0 c1 peer pport
  obtain ⟨regs, lanes⟩ := linkLanes_frame s p c0 c1
  rw [out, sendMarkers_out _ _ high ((iml_linkLanes).trans iml), lanes]
  rcases (show i = 0 ∨ i = 1 by omega) with rfl | rfl
  · exact List.mem_cons_of_mem _ List.mem_cons_self
  · exact List.mem_cons_self

section
variable (hp : p < 12)
include hp

section
variable (high : 8 ≤ p) (iml : s.rb (LN_PORTCFG.adr p) LN_PORTCFG.IML = true)
include high iml

/-- The status of an inter-module link names the peer (R413). -/
theorem portStat_linkPeered (inv : s.Inv) : (s.linkPeered p c0 c1 peer pport).reg (LN_PORTSTAT.adr p) =
    setBits (setBits (s.reg (LN_PORTSTAT.adr p)) 8 4 peer) 4 4 pport := by
  have trained := (inv.linkLanes (p := p) (c0 := c0) (c1 := c1)).sendMarkers p
  have here : ((s.linkLanes p c0 c1).sendMarkers p).rb (LN_PORTCFG.adr p) LN_PORTCFG.IML = true :=
    (rb_eq_of_reg (by decide) (by decide) (reg_sendMarkers ..)).trans ((iml_linkLanes).trans iml)
  rw [linkPeered]
  rw [if_pos ⟨high, here⟩, reg_wf_same (trained.wf _ _ _).regs (by decide) (by decide), reg_wf_same trained.regs (by decide) (by decide),
    reg_sendMarkers, reg_linkLanes_ne (portStat_ne hp).2]
  rfl

theorem peer_linkPeered (inv : s.Inv) (small : peer < 16) :
    (s.linkPeered p c0 c1 peer pport).rf (LN_PORTSTAT.adr p) LN_PORTSTAT.PMODID = peer := by
  rw [rf_word (by decide) (by decide), portStat_linkPeered hp high iml inv]
  exact (bits_setBits_above (by decide)).trans ((bits_setBits_same ..).trans (Nat.mod_eq_of_lt small))

end

/-- The check of the peer holds down the links that it refuses, and no other (R413). -/
theorem peerBad_linkPeered (inv : s.Inv) (small : peer < 16) : (s.linkPeered p c0 c1 peer pport).peerBad p = true ↔
    8 ≤ p ∧ s.rb (LN_PORTCFG.adr p) LN_PORTCFG.IML = true ∧ s.rb (LN_PORTCFG.adr p) LN_PORTCFG.PEERV = true ∧
      s.rf (LN_PORTCFG.adr p) LN_PORTCFG.PEER ≠ peer := by
  have cfg : (s.linkPeered p c0 c1 peer pport).reg (LN_PORTCFG.adr p) = s.reg (LN_PORTCFG.adr p) := portCfg_linkPeered
  rw [peerBad]
  rw [rb_eq_of_reg (f := LN_PORTCFG.IML) (by decide) (by decide) cfg, rb_eq_of_reg (f := LN_PORTCFG.PEERV) (by decide) (by decide) cfg,
    rf_eq_of_reg (f := LN_PORTCFG.PEER) (by decide) (by decide) cfg]
  simp only [Bool.and_eq_true, decide_eq_true_iff, and_assoc]
  refine and_congr_right fun high => and_congr_right fun iml => and_congr_right fun _ => ?_
  rw [peer_linkPeered hp high iml inv small]

section
variable (inv : s.Inv) (h0 : c0 < 16) (h1 : c1 < 16) (small : peer < 16)
  (enabled : s.rb (LN_PORTCFG.adr p) LN_PORTCFG.EN = true) (down : s.ethUp p = false)
include inv small enabled down

include h0 h1 in
/-- A link whose peer is not refused comes up (R398, R412, R413). -/
theorem ethLinkUp_rises (good : ¬(8 ≤ p ∧ s.rb (LN_PORTCFG.adr p) LN_PORTCFG.IML = true ∧ s.rb (LN_PORTCFG.adr p) LN_PORTCFG.PEERV = true ∧
      s.rf (LN_PORTCFG.adr p) LN_PORTCFG.PEER ≠ peer)) : let u := s.ethLinkUp p c0 c1 peer pport
    u.ethUp p = true ∧ (∀ i < 2, u.ShowsLock (portLane p + i) (s.laneCtle (portLane p + i) (if i = 0 then c0 else c1))) ∧ u.mem = s.mem ∧
      u.eth = (s.linkPeered p c0 c1 peer pport).eth ∧ ∀ o ∈ (s.linkPeered p c0 c1 peer pport).out, o ∈ u.out := by
  intro u
  let t := s.linkPeered p c0 c1 peer pport
  have invt : t.Inv := inv.linkPeered
  have fine : ¬t.peerBad p = true := fun h => good ((peerBad_linkPeered hp inv small).mp h)
  have same : u = _ := (ethLinkUp_eq s p c0 c1 peer pport enabled down).trans (if_neg fine)
  have told : Announces ((t.wb (LN_PORTSTAT.adr p) LN_PORTSTAT.PEERBAD false).wb (LN_PORTSTAT.adr p) LN_PORTSTAT.UP true) u := by
    rw [same]
    exact (Announces.raise ..).trans (.synceSync _)
  have invw := invt.wf (LN_PORTSTAT.adr p) LN_PORTSTAT.PEERBAD (b2n false)
  refine ⟨?_, fun i hi => ?_, ?_, ?_, fun o ho => ?_⟩
  · have up : u.rf (LN_PORTSTAT.adr p) LN_PORTSTAT.UP = 1 := by
      rw [rf_word (by decide) (by decide), told.kept _ (portStat_ne hp).1, wb, wb, reg_wf_same invw.regs (by decide) (by decide)]
      exact bits_setBits_same ..
    rw [ethUp, rb, up]
    rfl
  · refine (linkLanes_shows inv h0 h1 hi).congr ?_
    obtain ⟨stat, lost⟩ := laneStat_ne p i
    rw [told.kept _ lost, wb, reg_wf_ne _ _ (by decide) (by decide) stat, wb, reg_wf_ne _ _ (by decide) (by decide) stat]
    exact reg_linkPeered_ne stat
  · rw [told.mem, wb, wf_mem, wb, wf_mem]
    exact (linkPeered_frame s p c0 c1 peer pport).1
  · rw [told.eth, wb, wf_eth, wb, wf_eth]
  · refine told.sent o ?_
    rwa [wb, wf_out, wb, wf_out]

/-- A link whose peer is refused stays down, with its event (R413). -/
theorem ethLinkUp_refused (high : 8 ≤ p) (iml : s.rb (LN_PORTCFG.adr p) LN_PORTCFG.IML = true)
    (checks : s.rb (LN_PORTCFG.adr p) LN_PORTCFG.PEERV = true) (other : s.rf (LN_PORTCFG.adr p) LN_PORTCFG.PEER ≠ peer) :
    let u := s.ethLinkUp p c0 c1 peer pport
    u.ethUp p = false ∧ u.rb (LN_PORTSTAT.adr p) LN_PORTSTAT.PEERBAD = true ∧ u.rf (LN_PORTSTAT.adr p) LN_PORTSTAT.PMODID = peer := by
  intro u
  let t := s.linkPeered p c0 c1 peer pport
  have invt : t.Inv := inv.linkPeered
  have bad : t.peerBad p = true := (peerBad_linkPeered hp inv small).mpr ⟨high, iml, checks, other⟩
  have same : u = _ := (ethLinkUp_eq s p c0 c1 peer pport enabled down).trans (if_pos bad)
  have word : u.reg (LN_PORTSTAT.adr p) = setBits (t.reg (LN_PORTSTAT.adr p)) 30 1 1 := by
    rw [same, (Announces.raise ..).kept _ (portStat_ne hp).1, wb, reg_wf_same invt.regs (by decide) (by decide)]
    rfl
  have stat : t.reg (LN_PORTSTAT.adr p) = _ := portStat_linkPeered hp high iml inv
  refine ⟨?_, ?_, ?_⟩
  · have was : s.rf (LN_PORTSTAT.adr p) LN_PORTSTAT.UP = bits (u.reg (LN_PORTSTAT.adr p)) 31 1 := by
      rw [word, stat, bits_setBits_above (by decide), bits_setBits_above (by decide), bits_setBits_above (by decide)]
      exact rf_word (by decide) (by decide) s _
    have shows_ : u.rf (LN_PORTSTAT.adr p) LN_PORTSTAT.UP = s.rf (LN_PORTSTAT.adr p) LN_PORTSTAT.UP :=
      (rf_word (by decide) (by decide) u _).trans was.symm
    rw [ethUp, rb, shows_]
    exact down
  · have held : u.rf (LN_PORTSTAT.adr p) LN_PORTSTAT.PEERBAD = 1 := by
      rw [rf_word (by decide) (by decide), word]
      exact bits_setBits_same ..
    rw [rb, held]
    rfl
  · have named : t.rf (LN_PORTSTAT.adr p) LN_PORTSTAT.PMODID = peer := peer_linkPeered hp high iml inv small
    rw [rf_word (by decide) (by decide)] at named ⊢
    rw [word]
    exact (bits_setBits_below (by decide)).trans named

end

/-! ### The link goes down -/

/-- No lane of the port is locked, and its status shows neither a link nor a refused peer (R412). -/
theorem ethLinkDown_falls (inv : s.Inv) : let u := s.ethLinkDown p
    u.ethUp p = false ∧ (∀ i < 2, u.rb (LN_LANESTAT.adr (portLane p + i)) LN_LANESTAT.LOCK = false) ∧ u.eth = s.eth ∧ u.mem = s.mem := by
  intro u
  let s1 := s.wb (LN_LANESTAT.adr (portLane p + 0)) LN_LANESTAT.LOCK false
  let s2 := s1.wb (LN_LANESTAT.adr (portLane p + 1)) LN_LANESTAT.LOCK false
  let s3 := s2.wb (LN_PORTSTAT.adr p) LN_PORTSTAT.UP false
  let s4 := s3.wb (LN_PORTSTAT.adr p) LN_PORTSTAT.PEERBAD false
  have inv1 : s1.Inv := inv.wf _ _ _
  have inv2 : s2.Inv := inv1.wf _ _ _
  have inv3 : s3.Inv := inv2.wf _ _ _
  have told : Announces s4 u := by
    show Announces s4 (if s.ethUp p = true then (s4.raise 0x0902 (ethSrc p) 0 0 0).synceSync else s4)
    split
    · exact (Announces.raise ..).trans (.synceSync _)
    · exact .refl _
  refine ⟨?_, fun i hi => ?_, ?_, ?_⟩
  · have word : u.reg (LN_PORTSTAT.adr p) = setBits (setBits (s2.reg (LN_PORTSTAT.adr p)) 31 1 0) 30 1 0 := by
      rw [told.kept _ (portStat_ne hp).1]
      refine (reg_wf_same inv3.regs (by decide) (by decide) _ _).trans ?_
      rw [show s3.reg (LN_PORTSTAT.adr p) = _ from reg_wf_same inv2.regs (by decide) (by decide) _ _]
      rfl
    have off : u.rf (LN_PORTSTAT.adr p) LN_PORTSTAT.UP = 0 := by
      rw [rf_word (by decide) (by decide), word]
      exact (bits_setBits_above (by decide)).trans (bits_setBits_same ..)
    rw [ethUp, rb, off]
    rfl
  · obtain ⟨stat, lost⟩ := laneStat_ne p i
    have word : u.reg (LN_LANESTAT.adr (portLane p + i)) = s2.reg (LN_LANESTAT.adr (portLane p + i)) :=
      (told.kept _ lost).trans ((reg_wf_ne _ _ (by decide) (by decide) stat).trans (reg_wf_ne _ _ (by decide) (by decide) stat))
    have unlocked : ∃ w, s2.reg (LN_LANESTAT.adr (portLane p + i)) = setBits w 30 1 0 := by
      rcases (show i = 0 ∨ i = 1 by omega) with rfl | rfl
      · exact ⟨_, (reg_wf_ne _ _ (by decide) (by decide) (laneStat_inj (by omega))).trans
          (reg_wf_same inv.regs (by decide) (by decide) _ _)⟩
      · exact ⟨_, reg_wf_same inv1.regs (by decide) (by decide) _ _⟩
    obtain ⟨w, shown⟩ := unlocked
    have off : u.rf (LN_LANESTAT.adr (portLane p + i)) LN_LANESTAT.LOCK = 0 := by
      rw [rf_word (by decide) (by decide), word, shown]
      exact bits_setBits_same ..
    rw [rb, off]
    rfl
  · exact told.eth.trans ((wf_eth ..).trans ((wf_eth ..).trans ((wf_eth ..).trans (wf_eth ..))))
  · exact told.mem.trans ((wf_mem ..).trans ((wf_mem ..).trans ((wf_mem ..).trans (wf_mem ..))))

end

end

end State

end Sys2Proof.Machine
end

section
/-! Frames that reach an Ethernet port (R401, R410, R411, R432). -/

namespace Sys2Proof.Machine

namespace State

variable {s : State} {p corr : Nat} {f : List Byte} {ok unc : Bool}

@[simp] theorem ethOf_lnCount (s : State) (p q i n : Nat) : (s.lnCount q i n).ethOf p = s.ethOf p := by
  simp only [ethOf, lnCount, incSat, wf_eth]

/-- A frame is counted with the corrections of its code words. -/
def frameCounted (s : State) (p corr : Nat) (unc : Bool) : State := (s.lnCount p 3 corr).lnCount p 4 (b2n unc)

/-- In far-end loopback the lanes send back what they receive (R401); `u` is the state in which they have received it. -/
def sentBack (s : State) (p : Nat) (f : List Byte) (bad : Bool) (u : State) : State :=
  if s.laneLoop p 0 = 3 ∧ s.laneLoop p 1 = 3 then u.emit (.ethFrame p f bad) else u

theorem frameReceive_open (open_ : s.rxOff p = false) :
    s.frameReceive p f ok corr unc = s.sentBack p f (!ok || unc) (s.frameIn p f ok corr unc) := by
  simp only [frameReceive, sentBack, open_, Bool.false_eq_true, if_false, Bool.and_eq_true, decide_eq_true_iff]

section
variable (up : s.ethUp p = true)
include up

theorem frameIn_bad (bad : unc = true ∨ ok = false ∨ f.length < 60 ∨ 9212 < f.length) :
    s.frameIn p f ok corr unc = (s.frameCounted p corr unc).lnCount p 2 1 := by
  have bad' : unc = true ∨ (!ok) = true ∨ f.length < 60 ∨ 9212 < f.length := by simpa using bad
  simp only [frameIn, up, Bool.not_true, Bool.false_eq_true, if_false, if_pos bad']
  rfl

/-- An untagged frame for the port, or a broadcast, of no EtherType of the port's own goes to the general group (R411, R432). -/
theorem frameIn_general (least : 60 ≤ f.length) (most : f.length ≤ 9212)
    (etype : beVal ((f.drop 12).take 2) ∉ [0x8100, 0x8808, 0x88F7, 0xAEFE])
    (own : beVal (f.take 6) = (s.ethOf p).mac ∨ beVal (f.take 6) = 0xFFFFFFFFFFFF) :
    s.frameIn p f true corr false = ((s.frameCounted p corr false).lnCount p 1 1).generalStore p f := by
  simp only [List.mem_cons, List.not_mem_nil, or_false, not_or] at etype
  obtain ⟨untagged, control, ptp, ecpri⟩ := etype
  have mac : ((s.lnCount p 3 corr).lnCount p 4 (b2n false)).ethOf p = s.ethOf p := by simp only [ethOf_lnCount]
  have mine : beVal (f.take 6) = (s.ethOf p).mac ∨ beVal (f.take 6) = 0xFFFFFFFFFFFF ∨ beVal (f.take 6) = 0x011B19000000 ∨
      beVal (f.take 6) = 0x0180C200000E := own.imp_right .inl
  unfold frameIn
  simp only [up, Bool.not_true, Bool.false_eq_true, if_false, untagged, decide_false, control, mac, mine, Bool.not_false, true_or,
    and_self, not_true, ptp, ecpri, false_or]
  exact if_neg (by omega)

end

theorem generalStore_room (on : s.rxEn p 31 = true) (room : ((s.ethOf p).general.map List.length).sum + f.length ≤ s.generalRoom p) :
    s.generalStore p f = (s.setEth p { s.ethOf p with general := (s.ethOf p).general ++ [f] }).releasePulse (40 + p)
      (s.rf (LN_RXGRP.adr p 31) LN_RXGRP.CHAN) := by
  have takes : ¬((!s.rxEn p 31) = true ∨ s.generalRoom p < ((s.ethOf p).general.map List.length).sum + f.length) := by
    simp only [on, Bool.not_true, Bool.false_eq_true, false_or]
    omega
  exact if_neg takes

theorem generalStore_full (full : s.rxEn p 31 = false ∨ s.generalRoom p < ((s.ethOf p).general.map List.length).sum + f.length) :
    s.generalStore p f = s.lnCount p 11 1 := if_pos (full.imp_left fun h => by rw [h]; rfl)

end State

end Sys2Proof.Machine
end

section
/-! Push slots (R422): bytes within one line are one request, or one for each half line that they touch (R63). -/

namespace Sys2Proof.Machine

/-! ### Numbers in turn -/

section
variable {σ : Type} {f g : Nat → σ → σ}

theorem upto_congr {n : Nat} (h : ∀ i < n, ∀ s, f i s = g i s) (s : σ) : upto n f s = upto n g s := by
  induction n with
  | zero => rfl
  | succ n ih => rw [upto_succ, upto_succ, ih fun i hi => h i (Nat.lt_succ_of_lt hi), h n (Nat.lt_succ_self n)]

theorem upto_add (m n : Nat) (f : Nat → σ → σ) (s : σ) : upto (m + n) f s = upto n (fun i => f (m + i)) (upto m f s) := by
  simp only [upto, List.range_add, List.foldl_append, List.foldl_map]

/-- Of the first `n` numbers, only the `k` from `o` on do anything. -/
theorem upto_window {n o k : Nat} (inside : o + k ≤ n) (h : ∀ i < n, ¬(o ≤ i ∧ i < o + k) → ∀ s, f i s = s) (s : σ) :
    upto n f s = upto k (fun i => f (o + i)) s := by
  obtain ⟨r, rfl⟩ := Nat.exists_eq_add_of_le inside
  rw [upto_add, upto_add, upto_fixed (n := o) fun i hi => h i (by omega) (by omega), upto_fixed (n := r) fun i hi => h _ (by omega) (by omega)]

theorem upto_comm {n : Nat} {d : σ → σ} (h : ∀ i s, f i (d s) = d (f i s)) (s : σ) : upto n f (d s) = d (upto n f s) := by
  induction n with
  | zero => rfl
  | succ n ih => rw [upto_succ, upto_succ, ih, h]

end

/-- A byte of a value of bytes. -/
theorem ofNat_leVal_shiftRight (bs : List Byte) (i : Nat) : BitVec.ofNat 8 (leVal bs >>> (8 * i)) = bs.getD i 0 := by
  induction bs generalizing i with
  | nil => simp [leVal]
  | cons b bs ih =>
    have low := b.isLt
    cases i with
    | zero =>
      refine BitVec.eq_of_toNat_eq ?_
      rw [BitVec.toNat_ofNat, leVal, Nat.mul_zero, Nat.shiftRight_zero, List.getD_cons_zero]
      omega
    | succ i =>
      have rest : (b.toNat + 256 * leVal bs) >>> 8 = leVal bs := by
        rw [Nat.shiftRight_eq_div_pow]
        omega
      rw [leVal, List.getD_cons_succ, ← ih, Nat.mul_succ, Nat.add_comm (8 * i), Nat.shiftRight_add, rest]

/-- The places of a list's items, in turn. -/
theorem foldl_zipIdx_eq_upto {σ : Type} (f : σ → Byte × Nat → σ) (d : List Byte) (s : σ) :
    d.zipIdx.foldl f s = upto d.length (fun i t => f t (d.getD i 0, i)) s := by
  have items : d.zipIdx = (List.range d.length).map fun i => (d.getD i 0, i) := by
    refine List.ext_getElem (by simp) fun i hi hi' => ?_
    have here : i < d.length := by simpa using hi
    simp [List.getElem?_eq_getElem here]
  rw [items, List.foldl_map, upto]

namespace State

variable {s : State} {src p : Nat}

/-! ### Bytes of a slot -/

/-- The bytes of a line of the window that `en` enables reach the slot there. -/
def slotLine (s : State) (p l en data : Nat) : State :=
  upto 64 (fun i s => if bit en i then s.slotByte p (l + i) (BitVec.ofNat 8 (data >>> (8 * i))) else s) s

theorem slotByte_drawn (s : State) (p a : Nat) (b : Byte) : s.drawn.slotByte p a b = (s.slotByte p a b).drawn := by
  unfold slotByte
  rw [show s.drawn.slotHeld p (a / 16384) = s.slotHeld p (a / 16384) from rfl]
  split <;> rfl

theorem slotByte_held {k a : Nat} (slot : a / 16384 = k) (held : s.slotHeld p k = true) (b : Byte) : s.slotByte p a b = s :=
  if_pos (slot ▸ held)

/-- The network takes no notice of the ports. -/
theorem gate_setEth (s : State) (e : EthPort) (src tag a : Nat) : ((s.setEth p e).gate src tag a).1 = (s.gate src tag a).1 := by
  have accepted_ (t : Nat) : (s.setEth p e).accepted t src tag a = s.accepted t src tag a := rfl
  have islands_ : (s.setEth p e).isl = s.isl := rfl
  have dead : (s.setEth p e).deadIsl = s.deadIsl := rfl
  have memory : (s.setEth p e).ddrGiB = s.ddrGiB := rfl
  unfold gate
  simp only [accepted_, islands_, dead, memory]
  cases islandAt s.ddrGiB a with
  | none => dsimp only; split <;> rfl
  | some t =>
    dsimp only
    split
    · rfl
    · split
      · rfl
      · split
        · rfl
        · split
          · split <;> rfl
          · rfl

theorem wayOpen_slotByte {a a' : Nat} (open_ : s.wayOpen src a) (b : Byte) : (s.slotByte p a' b).wayOpen src a := by
  unfold slotByte
  split
  · exact open_
  · exact fun tag => (gate_setEth s _ src tag a).trans (open_ tag)

theorem wayOpen_drawn {a : Nat} (open_ : s.wayOpen src a) : s.drawn.wayOpen src a := fun tag => (gate_drawn s src tag a).trans (open_ tag)

theorem wayOpen_slotLine {a l en data : Nat} (open_ : s.wayOpen src a) : (s.slotLine p l en data).wayOpen src a :=
  List.foldlRecOn (motive := fun t : State => t.wayOpen src a) (List.range 64) _ open_ fun t h i _ => by
    dsimp only
    split
    · exact wayOpen_slotByte h _
    · exact h

theorem slotLine_drawn (s : State) (p l en data : Nat) : s.drawn.slotLine p l en data = (s.slotLine p l en data).drawn :=
  upto_comm (d := drawn) (fun i t => by split; exacts [slotByte_drawn .., rfl]) s

theorem slotBytes_drawn (s : State) (p a : Nat) (d : List (Byte × Nat)) : d.foldl (fun v x => v.slotByte p (a + x.2) x.1) s.drawn =
    (d.foldl (fun v x => v.slotByte p (a + x.2) x.1) s).drawn := List.foldl_hom drawn fun _ _ => slotByte_drawn ..

/-- Bytes `o` on of a line, by their places in the data. -/
theorem slotLine_bytes (s : State) (p l : Nat) {o : Nat} {d : List Byte} (inside : o + d.length ≤ 64) :
    s.slotLine p l ((2 ^ d.length - 1) * 2 ^ o) (leVal d * 2 ^ (8 * o)) = d.zipIdx.foldl (fun v x => v.slotByte p (l + o + x.2) x.1) s := by
  rw [foldl_zipIdx_eq_upto, slotLine, upto_window inside fun i _ out t => ?_]
  · refine upto_congr (fun i hi t => ?_) s
    have enabled : bit ((2 ^ d.length - 1) * 2 ^ o) (o + i) = true := by
      rw [bit_ones_shift]
      simp [hi]
    have byte : BitVec.ofNat 8 ((leVal d * 2 ^ (8 * o)) >>> (8 * (o + i))) = d.getD i 0 := by
      rw [Nat.mul_add, Nat.shiftRight_add, shiftRight_shifted, ofNat_leVal_shiftRight]
    rw [if_pos enabled, byte, Nat.add_assoc]
  · have idle : bit ((2 ^ d.length - 1) * 2 ^ o) i = false := by
      rw [bit_ones_shift]
      simpa using out
    rw [idle]
    rfl

/-- The two halves of a line, one after the other, are the line. -/
theorem slotLine_halves (s : State) (p l en data : Nat) :
    (s.slotLine p l (bits en 0 32) data).slotLine p l (bits en 32 32 * 2 ^ 32) data = s.slotLine p l en data := by
  have low (i : Nat) : bit (bits en 0 32) i = (decide (i < 32) && bit en i) := by
    rw [bit_eq_testBit, bit_eq_testBit, testBit_bits, Nat.zero_add]
  have high (i : Nat) : bit (bits en 32 32 * 2 ^ 32) (32 + i) = (decide (i < 32) && bit en (32 + i)) := by
    rw [bit_eq_testBit, bit_eq_testBit, Nat.testBit_mul_two_pow, testBit_bits]
    simp
  have high' {i : Nat} (hi : i < 32) : bit (bits en 32 32 * 2 ^ 32) i = false := by
    rw [bit_eq_testBit, Nat.testBit_mul_two_pow]
    simp; omega
  simp only [slotLine, upto_add 32 32]
  rw [upto_fixed (n := 32) (f := fun i s => if bit (bits en 32 32 * 2 ^ 32) i = true then _ else s) fun i hi t => by rw [high' hi]; rfl,
    upto_fixed (n := 32) (f := fun i s => if bit (bits en 0 32) (32 + i) = true then _ else s) fun i hi t => by
      rw [low, decide_eq_false (by omega)]; rfl]
  refine (upto_congr (fun i hi t => ?_) _).trans (congrArg _ (upto_congr (fun i hi t => ?_) s))
  · rw [high, decide_eq_true hi, Bool.true_and]
  · rw [low, decide_eq_true hi, Bool.true_and]

/-! ### The requests of a line -/

/-- A request that writes the enabled bytes of a line, where one is enabled. -/
def lineRequest (s : State) (src line : Nat) (k : WrKind) (en data : Nat) : State :=
  if en = 0 then s else ((s.draw 8).2.lineWrite src (s.draw 8).1 line k en data).2.2

theorem lineRequest_none (s : State) (src line : Nat) (k : WrKind) (data : Nat) : s.lineRequest src line k 0 data = s := if_pos rfl

theorem storeLine_state (s : State) (src line en data : Nat) : (s.storeLine src line en data).2 =
    if bits en 0 64 = 2 ^ 64 - 1 then s.lineRequest src line .whole (2 ^ 64 - 1) data
    else (s.lineRequest src line .part (bits en 0 32) data).lineRequest src line .part (bits en 32 32 * 2 ^ 32) data := by
  have one (k : WrKind) (en : Nat) (r : List Nat × State) :
      (if en = 0 then r else
        (if ((r.2.draw 8).2.lineWrite src (r.2.draw 8).1 line k en data).1 = stOk then r.1
          else r.1 ++ [((r.2.draw 8).2.lineWrite src (r.2.draw 8).1 line k en data).1],
          ((r.2.draw 8).2.lineWrite src (r.2.draw 8).1 line k en data).2.2)).2 = r.2.lineRequest src line k en data := by
    unfold lineRequest
    split <;> rfl
  unfold storeLine
  dsimp only
  by_cases whole : bits en 0 64 = 2 ^ 64 - 1
  · rw [if_pos whole, if_pos whole]
    exact one .whole _ ([], s)
  · rw [if_neg whole, if_neg whole, one .part (bits en 32 32 * 2 ^ 32)]
    exact congrArg (fun t : State => t.lineRequest src line .part (bits en 32 32 * 2 ^ 32) data) (one .part _ ([], s))

/-! ### The data window of a port -/

section
variable {l : Nat} (hp : p < 12) (hl : l < 0x40000) (aligned : l % 64 = 0)
include hp hl

theorem ethWin_range : ethWin p + l < 0x7000000 ∧ 0x6400000 ≤ ethWin p + l ∧
    (p < 8 ∧ ethWin p = 0x6800000 + 0x100000 * p ∨ 8 ≤ p ∧ ethWin p = 0x6400000 + 0x100000 * (p - 8)) := by
  unfold ethWin
  split <;> omega

theorem islandAt_ethWin (gib : Nat) : islandAt gib (ethWin p + l) = some (40 + p) := by
  obtain ⟨high, low, port⟩ := ethWin_range hp hl
  have window : (ethWin p + l) / 0x1000000 = 6 := by omega
  unfold islandAt
  rw [if_pos (by omega), hubWinIsland]
  simp only [window, lnIsland]
  rw [if_neg (by omega), if_neg (by omega)]
  rcases port with ⟨front, base⟩ | ⟨mid, base⟩
  · rw [if_neg (by omega), if_pos (by omega), show ((ethWin p + l) % 0x1000000 - 0x800000) / 0x100000 = p by omega]
  · rw [if_pos (by omega), if_pos (by omega), show 48 + ((ethWin p + l) % 0x1000000 - 0x400000) / 0x100000 = 40 + p by omega]

theorem devLine_ethWin (s : State) (src : Nat) (k : WrKind) (en data : Nat) :
    s.devLine src (ethWin p + l) k en data = s.slotLine p l en data := by
  obtain ⟨high, low, port⟩ := ethWin_range hp hl
  have place : ethWinOf (ethWin p + l) = some (p, l) := by
    unfold ethWinOf
    rcases port with ⟨front, base⟩ | ⟨mid, base⟩
    · rw [if_pos (by omega), show (ethWin p + l - 0x6800000) / 0x100000 = p by omega, show (ethWin p + l) % 0x100000 = l by omega]
    · rw [if_neg (by omega), if_pos (by omega), show 8 + (ethWin p + l - 0x6400000) / 0x100000 = p by omega,
        show (ethWin p + l) % 0x100000 = l by omega]
  unfold devLine
  dsimp only
  rw [if_neg (by omega), if_neg (by omega), if_neg (by omega), if_neg (by omega), if_neg (by omega), if_neg (by omega), place]
  exact if_pos hl

theorem lineWrite_ethWin (open_ : s.wayOpen src (ethWin p + l)) (k : WrKind) (en data tag : Nat) :
    s.drawn.lineWrite src tag (ethWin p + l) k en data = (stOk, 40 + p, s.drawn.slotLine p l en data) := by
  obtain ⟨high, -, -⟩ := ethWin_range hp hl
  rw [lineWrite_hubWindow (by omega) (islandAt_ethWin hp hl _) (by omega) open_, devLine_ethWin hp hl]

theorem lineRequest_ethWin (open_ : s.wayOpen src (ethWin p + l)) (k : WrKind) {en : Nat} (some_ : en ≠ 0) (data : Nat) :
    s.lineRequest src (ethWin p + l) k en data = (s.slotLine p l en data).drawn := by
  have written := lineWrite_ethWin hp hl open_ k en data (s.draw 8).1
  rw [lineRequest, if_neg some_, show (s.draw 8).2 = s.drawn from rfl, written, slotLine_drawn]

/-- A line of the window takes one request, or one for each half line with an enabled byte (R63, R124). -/
theorem storeLine_ethWin (open_ : s.wayOpen src (ethWin p + l)) {en : Nat} (some_ : en ≠ 0) (small : en < 2 ^ 64) (data : Nat) :
    (s.storeLine src (ethWin p + l) en data).2 =
      if en ≠ 2 ^ 64 - 1 ∧ bits en 0 32 ≠ 0 ∧ bits en 32 32 ≠ 0 then (s.slotLine p l en data).drawn.drawn
      else (s.slotLine p l en data).drawn := by
  have all : bits en 0 64 = en := by rw [bits, Nat.shiftRight_zero]; exact Nat.mod_eq_of_lt small
  have parts : en = bits en 0 32 + bits en 32 32 * 2 ^ 32 := by
    simp only [bits, Nat.shiftRight_eq_div_pow]
    omega
  rw [storeLine_state, all]
  by_cases whole : en = 2 ^ 64 - 1
  · rw [if_pos whole, if_neg (fun h => h.1 whole), ← whole, lineRequest_ethWin hp hl open_ _ some_]
  · rw [if_neg whole]
    by_cases low : bits en 0 32 = 0
    · have top : bits en 32 32 * 2 ^ 32 = en := by rw [low, Nat.zero_add] at parts; exact parts.symm
      rw [low, top, lineRequest_none, lineRequest_ethWin hp hl open_ _ some_, if_neg (fun h => h.2.1 rfl)]
    · by_cases high : bits en 32 32 = 0
      · have bottom : bits en 0 32 = en := by rw [high, Nat.zero_mul, Nat.add_zero] at parts; exact parts.symm
        rw [high, bottom, Nat.zero_mul, lineRequest_none, lineRequest_ethWin hp hl open_ _ some_, if_neg (fun h => h.2.2 rfl)]
      · have top : bits en 32 32 * 2 ^ 32 ≠ 0 := by omega
        rw [lineRequest_ethWin hp hl open_ _ low, lineRequest_ethWin hp hl (wayOpen_drawn (wayOpen_slotLine open_)) _ top,
          slotLine_drawn, slotLine_halves, if_pos ⟨whole, low, high⟩]

end

theorem busWrite_within (s : State) (src : Nat) {a : Nat} {bs : List Byte} (some_ : 0 < bs.length) (inside : a % 64 + bs.length ≤ 64) :
    (s.busWrite src a bs).2 =
      (s.storeLine src (a - a % 64) ((2 ^ bs.length - 1) * 2 ^ (a % 64)) (leVal bs * 2 ^ (8 * (a % 64)))).2 := by
  rw [busWrite, pieces_line (Nat.ne_of_gt some_) inside]
  simp only [List.foldl_cons, List.foldl_nil, Nat.sub_self, List.drop_zero, List.take_length]

/-- The halves of a line that `n` bytes from byte `o` touch (R63). -/
theorem halves_touched {o n : Nat} (some_ : 0 < n) (inside : o + n ≤ 64) : ((2 ^ n - 1) * 2 ^ o ≠ 2 ^ 64 - 1 ∧
    bits ((2 ^ n - 1) * 2 ^ o) 0 32 ≠ 0 ∧ bits ((2 ^ n - 1) * 2 ^ o) 32 32 ≠ 0) ↔ n < 64 ∧ o < 32 ∧ 32 < o + n := by
  have testLow (i : Nat) : (bits ((2 ^ n - 1) * 2 ^ o) 0 32).testBit i = (decide (i < 32) && (decide (o ≤ i) && decide (i < o + n))) := by
    rw [testBit_bits, ← bit_eq_testBit, bit_ones_shift, Nat.zero_add]
  have testHigh (i : Nat) : (bits ((2 ^ n - 1) * 2 ^ o) 32 32).testBit i =
      (decide (i < 32) && (decide (o ≤ 32 + i) && decide (32 + i < o + n))) := by
    rw [testBit_bits, ← bit_eq_testBit, bit_ones_shift]
  have low : bits ((2 ^ n - 1) * 2 ^ o) 0 32 ≠ 0 ↔ o < 32 := by
    refine ⟨fun h => ?_, fun h zero => ?_⟩
    · obtain ⟨i, hi⟩ := Nat.exists_testBit_of_ne_zero h
      rw [testLow] at hi
      simp only [Bool.and_eq_true, decide_eq_true_iff] at hi
      omega
    · have bit_ := testLow o
      rw [zero, Nat.zero_testBit] at bit_
      simp [h, some_] at bit_
  have high : bits ((2 ^ n - 1) * 2 ^ o) 32 32 ≠ 0 ↔ 32 < o + n := by
    refine ⟨fun h => ?_, fun h zero => ?_⟩
    · obtain ⟨i, hi⟩ := Nat.exists_testBit_of_ne_zero h
      rw [testHigh] at hi
      simp only [Bool.and_eq_true, decide_eq_true_iff] at hi
      omega
    · have bit_ := testHigh (o + n - 33)
      rw [zero, Nat.zero_testBit] at bit_
      simp only [eq_comm (a := false), Bool.and_eq_false_iff, decide_eq_false_iff_not] at bit_
      omega
  have whole : (2 ^ n - 1) * 2 ^ o = 2 ^ 64 - 1 ↔ n = 64 := by
    refine ⟨fun h => ?_, fun h => ?_⟩
    · have first := bit_ones_shift n o 0
      have last := bit_ones_shift n o 63
      rw [h] at first last
      rw [show bit (2 ^ 64 - 1) 0 = true by decide] at first
      rw [show bit (2 ^ 64 - 1) 63 = true by decide] at last
      simp only [eq_comm (a := true), Bool.and_eq_true, decide_eq_true_iff] at first last
      omega
    · obtain rfl : o = 0 := by omega
      rw [h, Nat.pow_zero, Nat.mul_one]
  rw [low, high, ne_eq, whole]
  omega

/-- Bytes within a line of a push slot (R422). -/
theorem busWrite_pushSlot (hp : p < 12) {a : Nat} {d : List Byte} (some_ : 0 < d.length) (inside : a % 64 + d.length ≤ 64) (slot : a < 0x40000)
    (open_ : s.wayOpen src (ethWin p + a / 64 * 64)) : (s.busWrite src (ethWin p + a) d).2 =
      d.zipIdx.foldl (fun v x => v.slotByte p (a + x.2) x.1)
        { s with free := s.free + if d.length < 64 ∧ a % 64 < 32 ∧ 32 < a % 64 + d.length then 2 else 1 } := by
  have base : ethWin p % 64 = 0 := by
    unfold ethWin
    split <;> omega
  have offset : (ethWin p + a) % 64 = a % 64 := by omega
  have line : ethWin p + a - a % 64 = ethWin p + a / 64 * 64 := by omega
  have low := Nat.two_pow_pos d.length
  have enabled : (2 ^ d.length - 1) * 2 ^ (a % 64) ≠ 0 := by
    have more : 1 < 2 ^ d.length := Nat.one_lt_two_pow (by omega)
    exact Nat.mul_ne_zero (by omega) (Nat.two_pow_pos _).ne'
  have small : (2 ^ d.length - 1) * 2 ^ (a % 64) < 2 ^ 64 := by
    calc (2 ^ d.length - 1) * 2 ^ (a % 64) < 2 ^ d.length * 2 ^ (a % 64) := Nat.mul_lt_mul_of_pos_right (by omega) (Nat.two_pow_pos _)
      _ = 2 ^ (a % 64 + d.length) := by rw [← Nat.pow_add, Nat.add_comm]
      _ ≤ 2 ^ 64 := Nat.pow_le_pow_right (by decide) inside
  rw [busWrite_within s src some_ (by rwa [offset]), offset, line, storeLine_ethWin hp (by omega) open_ enabled small,
    slotLine_bytes _ _ _ inside]
  simp only [halves_touched some_ inside, Nat.div_add_mod' a 64]
  split <;> simp only [← slotBytes_drawn] <;> rfl

end State

end Sys2Proof.Machine
end

section
/-! Transmit entries, frame boundaries and launches of an Ethernet port (R421 to R426, R484). -/

namespace Sys2Proof.Machine

namespace State

variable {s : State} {p q : Nat}

/-! ### Transmit entries -/

section
variable {e : List Byte}

/-- While CHRYSALIS is prepared an entry waits (R533). -/
theorem txEntry_held {sl : Sleep} (sleep : s.sleep = some sl) (prepares : sl.committed = false) :
    s.txEntry p q e = { s with sleep := some { sl with held := sl.held ++ [⟨p, q, e, none⟩] } } := by
  have preparing_ : s.preparing = true := by simp only [preparing, sleep, prepares, Bool.not_false]
  simp only [txEntry, preparing_, if_true, holdEntry, sleep]

section
variable (taken : s.preparing = false)
include taken

theorem txEntry_range (bad : txEntryOk p e = false) :
    s.txEntry p q e = (s.txDiscard p q (bits (fieldAt e 4 1) 0 4)).raise 0x0906 (ethSrc p) q 1 (bits (fieldAt e 4 1) 0 4) := by
  simp only [txEntry, taken, bad, Bool.false_eq_true, if_false, Bool.not_false, if_true, txEntryEvent]

section
variable (good : txEntryOk p e = true)
include good

theorem txEntry_untemplated (compressed : bit (fieldAt e 5 1) 0 = true) (none_ : sget (s.ethOf p).tmpl (fieldAt e 8 1) none = none) :
    s.txEntry p q e = (s.txDiscard p q (bits (fieldAt e 4 1) 0 4)).raise 0x0906 (ethSrc p) q 2 (bits (fieldAt e 4 1) 0 4) := by
  simp only [txEntry, taken, good, compressed, none_, Bool.false_eq_true, if_false, Bool.not_true, Option.isNone_none, and_self, if_true,
    txEntryEvent]

/-- The template of an entry, where it is compressed (R424). -/
def txTmpl (s : State) (p : Nat) (e : List Byte) : Option Tmpl :=
  if bit (fieldAt e 5 1) 0 then sget (s.ethOf p).tmpl (fieldAt e 8 1) none else none

variable (known : ¬(bit (fieldAt e 5 1) 0 = true ∧ (s.txTmpl p e).isNone = true))
include known

/-- An entry joins its queue with its frames while there is room (R425). -/
theorem txEntry_room (short : (s.txqOf p q).length < 256)
    (room : s.txUsed p + (s.txFrames p e (s.txTmpl p e)).2 ≤ if p < 8 then 786432 else 262144) :
    s.txEntry p q e = (s.slotFree p (bits (fieldAt e 4 1) 0 4)).setTxq p q (s.txqOf p q ++
      [⟨if bit (fieldAt e 5 1) 2 then some (fieldAt e 0 4) else none, none, fieldAt e 6 2, (s.txFrames p e (s.txTmpl p e)).2,
        (s.txFrames p e (s.txTmpl p e)).1, false⟩]) := by
  have fits : ¬(256 ≤ (s.txqOf p q).length ∨ (if p < 8 then 786432 else 262144) < s.txUsed p + (s.txFrames p e (s.txTmpl p e)).2) := by
    omega
  simp only [txTmpl] at known fits ⊢
  simp only [txEntry, taken, good, Bool.false_eq_true, if_false, Bool.not_true, if_neg known, if_neg fits]

theorem txEntry_full (full : 256 ≤ (s.txqOf p q).length ∨
      (if p < 8 then 786432 else 262144) < s.txUsed p + (s.txFrames p e (s.txTmpl p e)).2) :
    s.txEntry p q e = (s.txDiscard p q (bits (fieldAt e 4 1) 0 4)).raise 0x0907 (ethSrc p) q (fieldAt e 6 2) 0 := by
  simp only [txTmpl] at known full
  simp only [txEntry, taken, good, Bool.false_eq_true, if_false, Bool.not_true, if_neg known, if_pos full]

end

end

end

/-! ### Frames on the line -/

section
variable (bs : List Byte)

theorem lineSend_out (loops : s.txLoops p = false) (out : s.txOut p = true) : s.lineSend p bs false = s.emit (.ethFrame p bs false) := by
  simp only [lineSend, loops, out, Bool.false_eq_true, if_false, if_true]

theorem lineSend_both (loops : s.txLoops p = true) (out : s.txOut p = true) :
    s.lineSend p bs false = (s.emit (.ethFrame p bs false)).frameIn p bs true 0 false := by
  simp only [lineSend, loops, out, if_true, Bool.not_false]

theorem lineSend_loop (loops : s.txLoops p = true) (out : s.txOut p = false) : s.lineSend p bs false = s.frameIn p bs true 0 false := by
  simp only [lineSend, loops, out, Bool.false_eq_true, if_false, if_true, Bool.not_false]

end

/-- The only frame of the head of a queue goes out, and `es` are left behind it. -/
def frameSent (s : State) (p q : Nat) (lt : Option Nat) (bs : List Byte) (es : List TxEnt) (cont : Option (Nat × Option Nat))
    (deferred : Nat) : State :=
  ((((s.setEth p { s.ethOf p with cont := cont, lineEnd := s.lineFree p + lineTime bs, lineLt := lt }).lineSend p bs false).setTxq
    p q es).lnCount p 0 1).lnCount p 6 deferred

/-- The entry behind a timed head of queue `q`, where it goes back to back with it (R426). -/
def backToBack (q lt : Nat) (es : List TxEnt) : Option (Nat × Option Nat) := match es with
  | e :: _ => if e.lt = some lt then some (q, some lt) else none
  | [] => none

section
variable {e : TxEnt} {es : List TxEnt} {f : TxFrame} (open_ : s.txOpen p = true) (boundary : (s.ethOf p).cont = none)
  (head : s.txqOf p q = e :: es) (one : e.frames = [f]) (fresh : e.started = false) (plain : f.seqAt = none)

section
include boundary head one plain

theorem startFrame_untimed (lt : e.lt = none) (due : e.due = none) :
    s.startFrame p q false = s.frameSent p q e.lt f.bytes es none 0 := by
  unfold startFrame frameSent
  simp only [head, one, plain, due, lt, boundary, List.isEmpty_nil, if_true, Bool.false_and, Option.isSome_none, Bool.false_eq_true,
    false_and, if_false]
  cases es <;> cases oneStepAt f.bytes <;> rfl

include fresh in
theorem startFrame_timed {lt : Nat} {d : Int} (timed : e.lt = some lt) (due : e.due = some d) (notPtp : oneStepAt f.bytes = none) :
    s.startFrame p q false = s.frameSent p q e.lt f.bytes es (backToBack q lt es)
      (b2n (decide (d < (s.ethOf p).lineEnd) && decide ((s.ethOf p).lineLt ≠ some lt))) := by
  unfold startFrame frameSent
  simp only [head, one, plain, due, notPtp, fresh, boundary, timed, List.isEmpty_nil, if_true, Bool.false_eq_true, if_false, Bool.not_false,
    Bool.and_true, Option.isNone_none, Option.isSome_some, true_and]
  cases es <;> rfl

end

/-! ### Launches -/

include open_ boundary in
/-- At a frame boundary the chosen head goes (R426). -/
theorem frameStart_next (next : s.nextQueue p = some q) (bad : Bool) : s.frameStart p bad = s.launchHead p q bad := by
  simp only [frameStart, open_, boundary, next, Bool.not_true, Bool.false_eq_true, if_false]

include head in
theorem launchHead_untimed (lt : e.lt = none) (bad : Bool) : s.launchHead p q bad = s.startFrame p q bad := by
  simp only [launchHead, head, List.head?_cons, lt]

section
variable {lt : Nat} {d : Int} (timed : e.lt = some lt) (due : e.due = some d)

section
include head timed due

include fresh in
theorem launchHead_late (late : 1000 < s.lineFree p - d) (bad : Bool) : s.launchHead p q bad =
    ((s.setTxq p q es).incSat TK_DROP.adr TK_DROP.LATE 1).raise 0x090C (ethSrc p) q lt (s.lineFree p - d).toNat := by
  simp only [launchHead, head, List.head?_cons, timed, due, fresh, late, Bool.not_false, decide_true, Bool.and_self, if_true, dropLate,
    List.drop_one, List.tail_cons]

theorem launchHead_onTime (onTime : s.lineFree p - d ≤ 1000) (bad : Bool) : s.launchHead p q bad = s.startFrame p q bad := by
  have notLate : ¬1000 < s.lineFree p - d := by omega
  simp only [launchHead, head, List.head?_cons, timed, due, notLate, decide_false, Bool.and_false, Bool.false_eq_true, if_false]

end

theorem frameLaunch_busy (busy : (s.cyc : Int) < (s.ethOf p).lineEnd) (bad : Bool) : s.frameLaunch p q bad = s := by
  simp only [frameLaunch, busy, decide_true, Bool.or_true, if_true]

section
include head

theorem frameLaunch_other (other : s.nextQueue p ≠ some q) (bad : Bool) : s.frameLaunch p q bad = s := by
  unfold frameLaunch
  split
  · rfl
  · simp only [head, List.head?_cons, other, decide_false, Bool.and_false, Bool.false_eq_true, if_false]

include due in
/-- A head whose instant has not come is not chosen (R426). -/
theorem nextQueue_early (early : (s.cyc : Int) < d) : s.nextQueue p ≠ some q := by
  intro next
  have chosen : s.eligible p q = true := List.find?_some (p := fun q => s.eligible p q) next
  simp only [eligible, head, due, decide_eq_true_iff] at chosen
  omega

include open_ boundary timed in
theorem frameLaunch_next (free : (s.ethOf p).lineEnd ≤ (s.cyc : Int)) (next : s.nextQueue p = some q) (bad : Bool) :
    s.frameLaunch p q bad = s.launchHead p q bad := by
  have notBusy : ¬(s.cyc : Int) < (s.ethOf p).lineEnd := by omega
  simp only [frameLaunch, open_, boundary, notBusy, head, List.head?_cons, timed, next, Option.isSome_none, Option.isSome_some, Bool.not_true,
    Bool.or_self, decide_false, decide_true, Bool.and_self, Bool.false_eq_true, if_false, if_true]

end

end

end

/-! ### U-plane -/

theorem drawBytes_uplane (s : State) (n : Nat) : (s.drawBytes n).2.uplane = s.uplane := rfl

theorem planePrb_uplane (s : State) (compw : Nat) (busy : Bool) : (s.planePrb compw busy).2.uplane = s.uplane := by
  unfold planePrb
  split <;> rfl

theorem planeFill_uplane (s : State) (x : Plane) : (s.planeFill x).2.uplane = s.uplane :=
  List.foldlRecOn (motive := fun r : List (List Byte) × State => r.2.uplane = s.uplane) (List.range x.nprb) _ rfl
    fun _ same _ _ => (planePrb_uplane ..).trans same

theorem setTxq_uplane (s : State) (p q : Nat) (es : List TxEnt) : (s.setTxq p q es).uplane = s.uplane := by
  unfold setTxq schedSend valueSend
  dsimp only
  split
  · simp only [wf_uplane, setEth_uplane]
  · split <;> simp only [setXing_uplane, wf_uplane, setEth_uplane]

/-- No U-plane of the queue is due. -/
theorem scheduledLaunch_none (none_ : ∀ x ∈ s.uplane, x.port ≠ p ∨ x.queue ≠ q) (bad : Bool) :
    s.scheduledLaunch p q bad = s.frameLaunch p q bad := by
  have nothing : s.uplane.find? (s.planeDue p q) = none := List.find?_eq_none.mpr fun x hx due => by
    simp only [planeDue, Bool.and_eq_true, decide_eq_true_iff] at due
    obtain ⟨⟨port, queue⟩, -⟩ := due
    exact (none_ x hx).elim (· port) (· queue)
  simp only [scheduledLaunch, nothing]

/-- The U-plane that is due joins its queue, and its head may go (R282, R484). -/
theorem scheduledLaunch_plane {x : Plane} {d : Int} (only : s.uplane = [x]) (port : x.port = p) (queue : x.queue = q)
    (instant : x.ent.due = some d) (come : d ≤ s.cyc) (bad : Bool) : let r := ({ s with uplane := [] } : State).planeFill x
    s.scheduledLaunch p q bad = (r.2.joinQueue p q r.1.ent).frameLaunch p q bad := by
  have due : s.planeDue p q x = true := by
    simp only [planeDue, port, queue, instant, come, decide_true, Bool.and_self, Option.all_some]
  have first : s.uplane.find? (s.planeDue p q) = some x := by rw [only]; exact List.find?_cons_of_pos due
  have left : ldrop1 (s.planeDue p q) s.uplane = [] := by rw [only]; exact if_pos due
  simp only [scheduledLaunch, first, left]

theorem joinQueue_room {e : TxEnt} (short : (s.txqOf p q).length < 256)
    (room : s.txUsed p + e.size ≤ if p < 8 then 786432 else 262144) : s.joinQueue p q e = s.setTxq p q (s.txqOf p q ++ [e]) :=
  if_neg (by omega)

end State

end Sys2Proof.Machine
end

section
/-! What each command of an Ethernet port does: its link, its frames and its queues. -/

namespace Sys2Proof.Machine

namespace State

variable {s : State} {p q : Nat} {e : TxEnt} {es : List TxEnt} {f : TxFrame}

/-- An untimed head at a frame boundary goes out (R426). -/
theorem frameStart_untimed (open_ : s.txOpen p = true) (boundary : (s.ethOf p).cont = none) (head : s.txqOf p q = e :: es)
    (one : e.frames = [f]) (plain : f.seqAt = none) (lt : e.lt = none) (due : e.due = none) (next : s.nextQueue p = some q) :
    s.frameStart p false = s.frameSent p q e.lt f.bytes es none 0 :=
  (frameStart_next open_ boundary next false).trans
    ((launchHead_untimed head lt false).trans (startFrame_untimed boundary head one plain lt due))

section
variable (open_ : s.txOpen p = true) (boundary : (s.ethOf p).cont = none) (head : s.txqOf p q = e :: es) (fresh : e.started = false)
  {lt : Nat} {d : Int} (timed : e.lt = some lt) (due : e.due = some d) (free : (s.ethOf p).lineEnd ≤ (s.cyc : Int))
  (next : s.nextQueue p = some q)
include open_ boundary head fresh timed due free next

/-- A late head is dropped (R484). -/
theorem frameLaunch_late (late : 1000 < (s.cyc : Int) - d) (bad : Bool) : s.frameLaunch p q bad =
    ((s.setTxq p q es).incSat TK_DROP.adr TK_DROP.LATE 1).raise 0x090C (ethSrc p) q lt ((s.cyc : Int) - d).toNat := by
  have now : s.lineFree p = s.cyc := max_eq_left free
  rw [frameLaunch_next open_ boundary head timed free next, launchHead_late head fresh timed due (now.symm ▸ late), now]

/-- A head that is not late goes out, and counts as deferred where its instant fell within another frame (R426). -/
theorem frameLaunch_sent (onTime : (s.cyc : Int) - d ≤ 1000) (one : e.frames = [f]) (plain : f.seqAt = none)
    (notPtp : oneStepAt f.bytes = none) : s.frameLaunch p q false = s.frameSent p q e.lt f.bytes es (backToBack q lt es)
      (b2n (decide (d < (s.ethOf p).lineEnd) && decide ((s.ethOf p).lineLt ≠ some lt))) := by
  have now : s.lineFree p = s.cyc := max_eq_left free
  rw [frameLaunch_next open_ boundary head timed free next, launchHead_onTime head timed due (now.symm ▸ onTime),
    startFrame_timed boundary head one fresh plain timed due notPtp]

end

/-- U-plane that is due with room in its queue is as an entry that has joined it (R282). -/
theorem scheduledLaunch_joined {x : Plane} {d : Int} (only : s.uplane = [x]) (port : x.port = p) (queue : x.queue = q)
    (instant : x.ent.due = some d) (come : d ≤ s.cyc) (bad : Bool) : let r := ({ s with uplane := [] } : State).planeFill x
    (r.2.txqOf p q).length < 256 → r.2.txUsed p + r.1.ent.size ≤ (if p < 8 then 786432 else 262144) →
      s.scheduledLaunch p q bad = (r.2.setTxq p q (r.2.txqOf p q ++ [r.1.ent])).scheduledLaunch p q bad := by
  intro r short room
  have taken : (r.2.setTxq p q (r.2.txqOf p q ++ [r.1.ent])).uplane = [] := (setTxq_uplane ..).trans (planeFill_uplane ..)
  have joined : r.2.joinQueue p q r.1.ent = _ := joinQueue_room short room
  rw [scheduledLaunch_plane only port queue instant come, joined, scheduledLaunch_none (by simp [taken])]

/-- Bytes of a push slot reach it (R422). -/
theorem pushSlotWrite_slot {src : Nat} (hp : p < 12) {k o : Nat} (hk : k < 16) (ho : o < 16384) {d : List Byte} (some_ : 0 < d.length)
    (inside : o % 64 + d.length ≤ 64) (open_ : s.wayOpen src (ethWin p + (16384 * k + o) / 64 * 64)) :
    (s.busWrite src (ethWin p + 16384 * k + o) (d.take (16384 - o))).2 =
      d.zipIdx.foldl (fun v x => v.slotByte p (16384 * k + o + x.2) x.1)
        { s with free := s.free + if d.length < 64 ∧ o % 64 < 32 ∧ 32 < o % 64 + d.length then 2 else 1 } := by
  have offset : (16384 * k + o) % 64 = o % 64 := by omega
  have written := busWrite_pushSlot hp some_ (offset.symm ▸ inside) (by omega) open_
  rwa [List.take_of_length_le (by omega), Nat.add_assoc, ← offset]

end State

open State in
/-- Settles O46: each write reaches its slot or its queue, and each command is the equation of what it does with the link, the frame or
the head of the queue. -/
theorem ethernetLinksAndFramesMove : Obligations.EthernetLinksAndFramesMove := by
  intro s p inv
  have hp := p.isLt
  refine ⟨fun c0 c1 peer pport enabled down => ⟨fun good => ?_, fun high iml checks other => ?_⟩, ?_, fun f ok corr unc up => ?_,
    fun src k off d some_ inside open_ => ?_, fun src q entry sl sleep prepares open_ => ?_, fun k a x slot held => slotByte_held slot held x,
    fun src q entry taken open_ => ?_, fun q e es f open_ boundary head one fresh plain => ?_,
    fun q x d bad only port queue instant come short room => ?_⟩
  · have good' : ¬(8 ≤ p.val ∧ s.rb (LN_PORTCFG.adr p) LN_PORTCFG.IML = true ∧ s.rb (LN_PORTCFG.adr p) LN_PORTCFG.PEERV = true ∧
        s.rf (LN_PORTCFG.adr p) LN_PORTCFG.PEER ≠ peer.toNat) := by
      rintro ⟨high, iml, checks, other⟩
      rcases good with front | noIml | noCheck | same
      · omega
      · exact Bool.noConfusion (iml.symm.trans noIml)
      · exact Bool.noConfusion (checks.symm.trans noCheck)
      · exact other same
    obtain ⟨rises, lanes, mem, eth, out⟩ := ethLinkUp_rises (pport := pport.toNat) hp inv c0.isLt c1.isLt peer.isLt enabled down good'
    exact ⟨_, rfl, rises, fun i hi => lanes i hi |>.imp_right fun h => h.trans (by unfold laneCtle; split <;> rfl), mem,
      fun plain => eth.trans (linkPeered_eth plain), fun high iml i hi => out _ (linkPeered_markers high iml hi)⟩
  · exact ⟨_, rfl, ethLinkUp_refused hp inv peer.isLt enabled down high iml checks other⟩
  · exact ⟨_, rfl, ethLinkDown_falls hp inv⟩
  · refine ⟨fun off => congrArg _ (if_pos off), fun on => ?_⟩
    have received : exec (.frameReceive p f ok corr unc) s = .next (s.sentBack p f (!ok || unc) (s.frameIn p f ok corr.toNat unc)) :=
      congrArg Host.Outcome.next (frameReceive_open on)
    rw [received]
    refine ⟨fun bad => congrArg (fun u => Host.Outcome.next (s.sentBack p f _ u)) (frameIn_bad up bad), fun fine whole least most etype own => ?_⟩
    subst fine whole
    have general_ : (((s.frameCounted p corr.toNat false).lnCount p 1 1).ethOf p).general = (s.ethOf p).general := by
      simp only [frameCounted, ethOf_lnCount]
    rw [frameIn_general up least most etype own, ← general_]
    exact ⟨fun enabled room => congrArg (fun u => Host.Outcome.next (s.sentBack p f _ u)) (generalStore_room enabled room),
      fun full => congrArg (fun u => Host.Outcome.next (s.sentBack p f _ u)) (generalStore_full full)⟩
  · exact congrArg Host.Outcome.next (pushSlotWrite_slot hp k.isLt off.isLt some_ inside open_)
  · exact (congrArg Host.Outcome.next (busWrite_txEntry hp q.isLt open_ entry)).trans
      (congrArg _ (txEntry_held (s := s.drawn) sleep prepares))
  · have written : exec (.txEntryWrite src p q entry) s = .next (s.drawn.txEntry p q (leBytes 16 entry.toNat)) :=
      congrArg Host.Outcome.next (busWrite_txEntry hp q.isLt open_ entry)
    rw [written]
    refine ⟨fun bad => congrArg _ (txEntry_range (s := s.drawn) taken bad), fun good single => ?_, fun good compressed => ?_⟩
    · have known : ¬(bit (fieldAt (leBytes 16 entry.toNat) 5 1) 0 = true ∧ (s.drawn.txTmpl p (leBytes 16 entry.toNat)).isNone = true) :=
        fun h => Bool.noConfusion (single.symm.trans h.1)
      have none_ : s.drawn.txTmpl p (leBytes 16 entry.toNat) = none := if_neg fun h => Bool.noConfusion (single.symm.trans h)
      have joins := txEntry_room (s := s.drawn) (q := q) taken good known
      have drops := txEntry_full (s := s.drawn) (q := q) taken good known
      rw [none_] at joins drops
      exact ⟨fun short room => congrArg _ (joins short room), fun full => congrArg _ (drops full)⟩
    · refine ⟨fun none_ => congrArg _ (txEntry_untemplated (s := s.drawn) taken good compressed none_), fun t some_ short room => ?_⟩
      have tmpl : s.drawn.txTmpl p (leBytes 16 entry.toNat) = some t := (if_pos compressed).trans some_
      have joins := txEntry_room (s := s.drawn) (q := q) taken good (fun h => by rw [tmpl] at h; exact Bool.noConfusion h.2)
      rw [tmpl] at joins
      exact congrArg _ (joins short room)
  · refine ⟨fun v => lineSend_out f.bytes, fun v => lineSend_both f.bytes, fun v => lineSend_loop f.bytes, fun lt due next =>
      congrArg _ (frameStart_untimed open_ boundary head one plain lt due next), fun lt d timed due apart => ?_⟩
    have launched (bad : Bool) : exec (.scheduledFrameLaunch p q bad) s = .next (s.frameLaunch p q bad) :=
      congrArg _ (scheduledLaunch_none apart bad)
    simp only [launched]
    exact ⟨fun busy bad => congrArg _ (frameLaunch_busy busy bad), fun _ other bad => congrArg _ (frameLaunch_other head other bad),
      fun free next late bad => congrArg _ (frameLaunch_late open_ boundary head fresh timed due free next late bad),
      fun free next onTime notPtp =>
        congrArg _ (frameLaunch_sent open_ boundary head fresh timed due free next onTime one plain notPtp),
      fun early bad => congrArg _ (frameLaunch_other head (nextQueue_early head due early) bad)⟩
  · exact congrArg Host.Outcome.next (scheduledLaunch_joined only port queue instant come bad short room)

end Sys2Proof.Machine
end
